-- ==== Sys2Proof/Word.lean ====
section
/-! DEFINITION. The word type and its plainest arithmetic: instruction words, registers and bytes (R73, R98, R12). -/

namespace Sys2Proof

/-- A 32-bit word: an instruction word or a register. -/
abbrev Word := BitVec 32

/-- A 64-bit value: a register pair or an address. -/
abbrev DWord := BitVec 64

/-- A byte of memory. -/
abbrev Byte := BitVec 8

end Sys2Proof
end

