-- ==== Sys2Proof/Syntax.lean ====
section
/-! DEFINITION. The instruction set: one constructor for each row of spec/opcode_table.json.
Rows with a bit pattern are instruction words (R73, R92); their fields carry the names of the table: `z` is B, the run
boundary; `d`, `a`, `b` are register fields (R78); `l` is LA; other letters are the row's own fields. Rows without a
pattern are the device's own indivisible steps and events (spec/95); their arguments name the object the step acts on. -/

namespace Sys2Proof

/-- The instruction words and the events of the SPN-9140. -/
inductive Instr where
  /-- NOP (R89): Advances the PC and does nothing else; with B set it also ends the run. -/
  | nop (z : Bool)
  /-- IADD (R141): Integer add per active lane under ET, saturating when SAT is set. -/
  | iadd (z : Bool) (d : BitVec 7) (a : BitVec 7) (b : BitVec 7)
  /-- ISUB (R141): Integer subtract per active lane under ET, saturating when SAT is set. -/
  | isub (z : Bool) (d : BitVec 7) (a : BitVec 7) (b : BitVec 7)
  /-- IMUL (R141): Integer multiply, low part, saturating when SAT is set. -/
  | imul (z : Bool) (d : BitVec 7) (a : BitVec 7) (b : BitVec 7)
  /-- IMULH (R141): High half of the exact integer product. -/
  | imulh (z : Bool) (d : BitVec 7) (a : BitVec 7) (b : BitVec 7)
  /-- IMIN (R141): Integer minimum by the signedness of ET. -/
  | imin (z : Bool) (d : BitVec 7) (a : BitVec 7) (b : BitVec 7)
  /-- IMAX (R141): Integer maximum by the signedness of ET. -/
  | imax (z : Bool) (d : BitVec 7) (a : BitVec 7) (b : BitVec 7)
  /-- INEG (R141): Integer negation, wrapping. -/
  | ineg (z : Bool) (d : BitVec 7) (a : BitVec 7)
  /-- IABS (R141): Integer absolute value, wrapping. -/
  | iabs (z : Bool) (d : BitVec 7) (a : BitVec 7)
  /-- AND (R141): Bitwise AND of n-bit patterns. -/
  | and (z : Bool) (d : BitVec 7) (a : BitVec 7) (b : BitVec 7)
  /-- OR (R141): Bitwise OR of n-bit patterns. -/
  | or (z : Bool) (d : BitVec 7) (a : BitVec 7) (b : BitVec 7)
  /-- XOR (R141): Bitwise XOR of n-bit patterns. -/
  | xor (z : Bool) (d : BitVec 7) (a : BitVec 7) (b : BitVec 7)
  /-- ANDN (R141): A AND NOT Bf over n bits. -/
  | andn (z : Bool) (d : BitVec 7) (a : BitVec 7) (b : BitVec 7)
  /-- SHL (R141): Logical left shift; counts of n or more give zero. -/
  | shl (z : Bool) (d : BitVec 7) (a : BitVec 7) (b : BitVec 7)
  /-- SHR (R141): Logical right shift; counts of n or more give zero. -/
  | shr (z : Bool) (d : BitVec 7) (a : BitVec 7) (b : BitVec 7)
  /-- SAR (R141): Arithmetic right shift reading the pattern as signed. -/
  | sar (z : Bool) (d : BitVec 7) (a : BitVec 7) (b : BitVec 7)
  /-- ROT (R141): Rotate left by the count modulo n. -/
  | rot (z : Bool) (d : BitVec 7) (a : BitVec 7) (b : BitVec 7)
  /-- CLZ (R143): Counts leading zero bits. -/
  | clz (z : Bool) (d : BitVec 7) (a : BitVec 7)
  /-- CTZ (R143): Counts trailing zero bits. -/
  | ctz (z : Bool) (d : BitVec 7) (a : BitVec 7)
  /-- POPC (R143): Counts one bits. -/
  | popc (z : Bool) (d : BitVec 7) (a : BitVec 7)
  /-- BREV (R143): Reverses the bit order. -/
  | brev (z : Bool) (d : BitVec 7) (a : BitVec 7)
  /-- BIL3 (R143): Interleaves three 10-bit coordinates into a Morton code. -/
  | bil3 (z : Bool) (d : BitVec 7) (a : BitVec 7) (b : BitVec 7)
  /-- BDIL3 (R143): Extracts one coordinate from a three-way interleave. -/
  | bdil3 (z : Bool) (d : BitVec 7) (a : BitVec 7) (b : BitVec 7)
  /-- BIL2 (R143): Interleaves two 16-bit values. -/
  | bil2 (z : Bool) (d : BitVec 7) (a : BitVec 7) (b : BitVec 7)
  /-- BDIL2 (R143): De-interleaves a two-way interleave. -/
  | bdil2 (z : Bool) (d : BitVec 7) (a : BitVec 7)
  /-- BFX (R143): Extracts an unsigned bit field. -/
  | bfx (z : Bool) (d : BitVec 7) (a : BitVec 7) (b : BitVec 7)
  /-- BFXS (R143): Extracts a sign-extended bit field. -/
  | bfxs (z : Bool) (d : BitVec 7) (a : BitVec 7) (b : BitVec 7)
  /-- BFI (R143): Inserts a bit field into the old D. -/
  | bfi (z : Bool) (d : BitVec 7) (a : BitVec 7) (b : BitVec 7)
  /-- MOV (R143): Copies a register pattern unchanged. -/
  | mov (z : Bool) (d : BitVec 7) (a : BitVec 7)
  /-- SEL (R143): Selects A or Bf by the old D as condition. -/
  | sel (z : Bool) (d : BitVec 7) (a : BitVec 7) (b : BitVec 7)
  /-- PERM (R143): Permutes bytes of A and Bf by the selector in D. -/
  | perm (z : Bool) (d : BitVec 7) (a : BitVec 7) (b : BitVec 7)
  /-- IMAD (R145): Integer multiply-add with one fit. -/
  | imad (z : Bool) (d : BitVec 7) (a : BitVec 7) (b : BitVec 7)
  /-- IMADH (R145): High half of the product plus D. -/
  | imadh (z : Bool) (d : BitVec 7) (a : BitVec 7) (b : BitVec 7)
  /-- IDOT4 (R145): Four-way byte dot product accumulated into D. -/
  | idot4 (z : Bool) (d : BitVec 7) (a : BitVec 7) (b : BitVec 7)
  /-- ISAD (R145): Sum of absolute byte differences into D (deprecated). -/
  | isad (z : Bool) (d : BitVec 7) (a : BitVec 7) (b : BitVec 7)
  /-- ICMP_EQ (R147): Integer compare for equality, writing an all-ones or zero mask. -/
  | icmpEq (z : Bool) (d : BitVec 7) (a : BitVec 7) (b : BitVec 7)
  /-- ICMP_NE (R147): Integer compare for inequality. -/
  | icmpNe (z : Bool) (d : BitVec 7) (a : BitVec 7) (b : BitVec 7)
  /-- ICMP_LT (R147): Signed less-than compare. -/
  | icmpLt (z : Bool) (d : BitVec 7) (a : BitVec 7) (b : BitVec 7)
  /-- ICMP_LE (R147): Signed less-or-equal compare. -/
  | icmpLe (z : Bool) (d : BitVec 7) (a : BitVec 7) (b : BitVec 7)
  /-- ICMP_GT (R147): Signed greater-than compare. -/
  | icmpGt (z : Bool) (d : BitVec 7) (a : BitVec 7) (b : BitVec 7)
  /-- ICMP_GE (R147): Signed greater-or-equal compare. -/
  | icmpGe (z : Bool) (d : BitVec 7) (a : BitVec 7) (b : BitVec 7)
  /-- ICMP_LTN (R147): Unsigned less-than compare. -/
  | icmpLtn (z : Bool) (d : BitVec 7) (a : BitVec 7) (b : BitVec 7)
  /-- ICMP_LEN (R147): Unsigned less-or-equal compare. -/
  | icmpLen (z : Bool) (d : BitVec 7) (a : BitVec 7) (b : BitVec 7)
  /-- ICMP_GTN (R147): Unsigned greater-than compare. -/
  | icmpGtn (z : Bool) (d : BitVec 7) (a : BitVec 7) (b : BitVec 7)
  /-- ICMP_GEN (R147): Unsigned greater-or-equal compare. -/
  | icmpGen (z : Bool) (d : BitVec 7) (a : BitVec 7) (b : BitVec 7)
  /-- ICMP_TSTZ (R147): Tests that A AND Bf is zero. -/
  | icmpTstz (z : Bool) (d : BitVec 7) (a : BitVec 7) (b : BitVec 7)
  /-- ICMP_TSTNZ (R147): Tests that A AND Bf is nonzero. -/
  | icmpTstnz (z : Bool) (d : BitVec 7) (a : BitVec 7) (b : BitVec 7)
  /-- ADD64 (R149): 64-bit address addition modulo 2^64. -/
  | add64 (z : Bool) (d : BitVec 7) (a : BitVec 7) (b : BitVec 7)
  /-- SUB64 (R149): 64-bit address subtraction modulo 2^64. -/
  | sub64 (z : Bool) (d : BitVec 7) (a : BitVec 7) (b : BitVec 7)
  /-- LEA1 (R149): Adds a sign-extended 32-bit index scaled by 1. -/
  | lea1 (z : Bool) (d : BitVec 7) (a : BitVec 7) (b : BitVec 7)
  /-- LEA2 (R149): Adds a sign-extended index scaled by 2. -/
  | lea2 (z : Bool) (d : BitVec 7) (a : BitVec 7) (b : BitVec 7)
  /-- LEA4 (R149): Adds a sign-extended index scaled by 4. -/
  | lea4 (z : Bool) (d : BitVec 7) (a : BitVec 7) (b : BitVec 7)
  /-- LEA8 (R149): Adds a sign-extended index scaled by 8. -/
  | lea8 (z : Bool) (d : BitVec 7) (a : BitVec 7) (b : BitVec 7)
  /-- LEA16 (R149): Adds a sign-extended index scaled by 16. -/
  | lea16 (z : Bool) (d : BitVec 7) (a : BitVec 7) (b : BitVec 7)
  /-- MOV64 (R149): Copies a 64-bit pair. -/
  | mov64 (z : Bool) (d : BitVec 7) (a : BitVec 7)
  /-- SHL64 (R149): 64-bit left shift. -/
  | shl64 (z : Bool) (d : BitVec 7) (a : BitVec 7) (b : BitVec 7)
  /-- SHR64 (R149): 64-bit logical right shift. -/
  | shr64 (z : Bool) (d : BitVec 7) (a : BitVec 7) (b : BitVec 7)
  /-- MODE_ET (R151): Sets MODE.ET of the issuing part. -/
  | modeEt (z : Bool) (e : BitVec 4)
  /-- MODE_ET2 (R151): Sets MODE.ET2 of the issuing part. -/
  | modeEt2 (z : Bool) (e : BitVec 4)
  /-- MODE_RND (R151): Sets the rounding mode. -/
  | modeRnd (z : Bool) (e : BitVec 3)
  /-- MODE_SAT (R151): Sets integer saturation. -/
  | modeSat (z : Bool) (e : BitVec 1)
  /-- MODE_FTZ (R151): Sets flush-to-zero. -/
  | modeFtz (z : Bool) (e : BitVec 1)
  /-- MODE_GUARD (R151): Sets the guard register, polarity and enable. -/
  | modeGuard (z : Bool) (g : BitVec 1) (p : BitVec 1) (r : BitVec 7)
  /-- MODE_FREG (R151): Sets the register holding the matrix format word. -/
  | modeFreg (z : Bool) (r : BitVec 7)
  /-- MODE_SPL (R151): Sets the split policy. -/
  | modeSpl (z : Bool) (e : BitVec 2)
  /-- MODE_UTRAP (R151): Sets whether a conflicting fuse raises UCONF. -/
  | modeUtrap (z : Bool) (e : BitVec 1)
  /-- MODE_WORD (R152): Writes the whole MODE word from register D. -/
  | modeWord (z : Bool) (d : BitVec 7)
  /-- SREAD (R155): Reads a special register selector into D. -/
  | sread (z : Bool) (d : BitVec 7) (e : BitVec 14)
  /-- SWRITE (R155): Writes D into a special register selector. -/
  | swrite (z : Bool) (d : BitVec 7) (e : BitVec 14)
  /-- GREAD (R155): Reads a workgroup g register under the timing of R112. -/
  | gread (z : Bool) (d : BitVec 7) (k : BitVec 5)
  /-- GWRITE (R155): Writes a workgroup g register. -/
  | gwrite (z : Bool) (d : BitVec 7) (k : BitVec 5)
  /-- GXCHG (R155): Atomically exchanges a g register. -/
  | gxchg (z : Bool) (d : BitVec 7) (k : BitVec 5)
  /-- GADD (R155): Atomically adds to a g register and returns the old value. -/
  | gadd (z : Bool) (d : BitVec 7) (k : BitVec 5)
  /-- RGN (R156): Replaces the wave's operand-buffer region set. -/
  | rgn (z : Bool) (a : BitVec 7) (i : BitVec 14)
  /-- RGNADD (R156): Adds registers to the wave's region set. -/
  | rgnadd (z : Bool) (a : BitVec 7) (i : BitVec 14)
  /-- KX (R83): Constant prefix supplying K to the following word. -/
  | kx (k : BitVec 25)
  /-- KXW (R83): Wide constant prefix supplying the top seven bits of K. -/
  | kxw (k : BitVec 7)
  /-- FADD (R162): Float addition, rounded once. -/
  | fadd (z : Bool) (d : BitVec 7) (a : BitVec 7) (b : BitVec 7)
  /-- FSUB (R162): Float subtraction, rounded once. -/
  | fsub (z : Bool) (d : BitVec 7) (a : BitVec 7) (b : BitVec 7)
  /-- FMUL (R162): Float multiplication, rounded once. -/
  | fmul (z : Bool) (d : BitVec 7) (a : BitVec 7) (b : BitVec 7)
  /-- FMIN (R162): Float minimum with NaN propagation. -/
  | fmin (z : Bool) (d : BitVec 7) (a : BitVec 7) (b : BitVec 7)
  /-- FMAX (R162): Float maximum with NaN propagation. -/
  | fmax (z : Bool) (d : BitVec 7) (a : BitVec 7) (b : BitVec 7)
  /-- FABS (R162): Clears the sign bit. -/
  | fabs (z : Bool) (d : BitVec 7) (a : BitVec 7)
  /-- FNEG (R162): Inverts the sign bit. -/
  | fneg (z : Bool) (d : BitVec 7) (a : BitVec 7)
  /-- FCLS (R163): Writes a one-hot float class mask. -/
  | fcls (z : Bool) (d : BitVec 7) (a : BitVec 7)
  /-- FMINM (R162): Float minimum that ignores a single NaN. -/
  | fminm (z : Bool) (d : BitVec 7) (a : BitVec 7) (b : BitVec 7)
  /-- FMAXM (R162): Float maximum that ignores a single NaN. -/
  | fmaxm (z : Bool) (d : BitVec 7) (a : BitVec 7) (b : BitVec 7)
  /-- FRND (R162): Rounds to an integral value under RND. -/
  | frnd (z : Bool) (d : BitVec 7) (a : BitVec 7)
  /-- FSCL (R162): Scales by a power of two. -/
  | fscl (z : Bool) (d : BitVec 7) (a : BitVec 7) (b : BitVec 7)
  /-- FCPY (R162): Copies the sign of Bf onto A. -/
  | fcpy (z : Bool) (d : BitVec 7) (a : BitVec 7) (b : BitVec 7)
  /-- FFMA (R165): Fused multiply-add with one rounding. -/
  | ffma (z : Bool) (d : BitVec 7) (a : BitVec 7) (b : BitVec 7)
  /-- FFMS (R165): Fused multiply-subtract with one rounding. -/
  | ffms (z : Bool) (d : BitVec 7) (a : BitVec 7) (b : BitVec 7)
  /-- FNMA (R165): Fused negated multiply-add with one rounding. -/
  | fnma (z : Bool) (d : BitVec 7) (a : BitVec 7) (b : BitVec 7)
  /-- FCMP_EQ (R167): Ordered float equality compare. -/
  | fcmpEq (z : Bool) (d : BitVec 7) (a : BitVec 7) (b : BitVec 7)
  /-- FCMP_NE (R167): Unordered-or-unequal float compare. -/
  | fcmpNe (z : Bool) (d : BitVec 7) (a : BitVec 7) (b : BitVec 7)
  /-- FCMP_LT (R167): Ordered float less-than. -/
  | fcmpLt (z : Bool) (d : BitVec 7) (a : BitVec 7) (b : BitVec 7)
  /-- FCMP_LE (R167): Ordered float less-or-equal. -/
  | fcmpLe (z : Bool) (d : BitVec 7) (a : BitVec 7) (b : BitVec 7)
  /-- FCMP_GT (R167): Ordered float greater-than. -/
  | fcmpGt (z : Bool) (d : BitVec 7) (a : BitVec 7) (b : BitVec 7)
  /-- FCMP_GE (R167): Ordered float greater-or-equal. -/
  | fcmpGe (z : Bool) (d : BitVec 7) (a : BitVec 7) (b : BitVec 7)
  /-- FCMP_UN (R167): Tests that the pair is unordered. -/
  | fcmpUn (z : Bool) (d : BitVec 7) (a : BitVec 7) (b : BitVec 7)
  /-- FCMP_ORD (R167): Tests that the pair is ordered. -/
  | fcmpOrd (z : Bool) (d : BitVec 7) (a : BitVec 7) (b : BitVec 7)
  /-- CVT (R170): Converts from ET2 to ET under MODE.RND. -/
  | cvt (z : Bool) (d : BitVec 7) (a : BitVec 7)
  /-- CVTZ (R170): Converts from ET2 to ET toward zero. -/
  | cvtz (z : Bool) (d : BitVec 7) (a : BitVec 7)
  /-- CVTS (R170): Converts with forced saturation. -/
  | cvts (z : Bool) (d : BitVec 7) (a : BitVec 7)
  /-- PACK2 (R170): Converts two values and packs them as 16-bit halves. -/
  | pack2 (z : Bool) (d : BitVec 7) (a : BitVec 7) (b : BitVec 7)
  /-- UNPK (R170): Converts the low 16-bit half. -/
  | unpk (z : Bool) (d : BitVec 7) (a : BitVec 7)
  /-- UNPKH (R170): Converts the high 16-bit half. -/
  | unpkh (z : Bool) (d : BitVec 7) (a : BitVec 7)
  /-- NRW (R172): Narrows 32 F32 values into one block record, with computed or explicit scale. -/
  | nrw (z : Bool) (d : BitVec 7) (a : BitVec 7) (b : BitVec 7) (x : BitVec 1) (k : BitVec 2)
  /-- WIDE (R174): Widens one element of a record image into ET. -/
  | wide (z : Bool) (d : BitVec 7) (a : BitVec 7) (b : BitVec 7)
  /-- WIDE4 (R174): Widens four elements of a record image. -/
  | wide4 (z : Bool) (d : BitVec 7) (a : BitVec 7) (b : BitVec 7)
  /-- SCALEOF (R174): Reads the scale byte of a record image. -/
  | scaleof (z : Bool) (d : BitVec 7) (a : BitVec 7)
  /-- SETSC (R174): Writes the scale byte of a record image. -/
  | setsc (z : Bool) (d : BitVec 7) (a : BitVec 7)
  /-- SHFL (R179): Reads A from an indexed domain lane. -/
  | shfl (z : Bool) (d : BitVec 7) (a : BitVec 7) (b : BitVec 7) (p : BitVec 1)
  /-- SHFLX (R179): Reads A from the lane at l XOR mask. -/
  | shflx (z : Bool) (d : BitVec 7) (a : BitVec 7) (b : BitVec 7) (p : BitVec 1)
  /-- SHFLU (R179): Reads A from a lane a distance below. -/
  | shflu (z : Bool) (d : BitVec 7) (a : BitVec 7) (b : BitVec 7) (p : BitVec 1)
  /-- SHFLD (R179): Reads A from a lane a distance above. -/
  | shfld (z : Bool) (d : BitVec 7) (a : BitVec 7) (b : BitVec 7) (p : BitVec 1)
  /-- BCST (R179): Broadcasts A from one lane chosen by the lowest active lane. -/
  | bcst (z : Bool) (d : BitVec 7) (a : BitVec 7) (b : BitVec 7) (p : BitVec 1)
  /-- QSWZ (R179): Swizzles within each quad (deprecated). -/
  | qswz (z : Bool) (d : BitVec 7) (a : BitVec 7) (b : BitVec 7) (p : BitVec 1)
  /-- BALLOT (R179): Collects a mask of active lanes with nonzero A. -/
  | ballot (z : Bool) (d : BitVec 7) (a : BitVec 7) (p : BitVec 1)
  /-- VOTE (R179): Writes any, all and equal votes over active lanes. -/
  | vote (z : Bool) (d : BitVec 7) (a : BitVec 7) (p : BitVec 1)
  /-- REDADD (R181): Sums active lanes over a fixed tree. -/
  | redadd (z : Bool) (d : BitVec 7) (a : BitVec 7) (p : BitVec 1)
  /-- REDMIN (R181): Minimum over active lanes. -/
  | redmin (z : Bool) (d : BitVec 7) (a : BitVec 7) (p : BitVec 1)
  /-- REDMAX (R181): Maximum over active lanes. -/
  | redmax (z : Bool) (d : BitVec 7) (a : BitVec 7) (p : BitVec 1)
  /-- REDAND (R181): AND over active lanes. -/
  | redand (z : Bool) (d : BitVec 7) (a : BitVec 7) (p : BitVec 1)
  /-- REDOR (R181): OR over active lanes. -/
  | redor (z : Bool) (d : BitVec 7) (a : BitVec 7) (p : BitVec 1)
  /-- REDXOR (R181): XOR over active lanes. -/
  | redxor (z : Bool) (d : BitVec 7) (a : BitVec 7) (p : BitVec 1)
  /-- SCANADD (R182): Inclusive prefix sum over active lanes. -/
  | scanadd (z : Bool) (d : BitVec 7) (a : BitVec 7) (p : BitVec 1)
  /-- SCANADDX (R182): Exclusive prefix sum over active lanes. -/
  | scanaddx (z : Bool) (d : BitVec 7) (a : BitVec 7) (p : BitVec 1)
  /-- RCP (R184): Enqueues reciprocal work on the special-function queue under a token. -/
  | rcp (z : Bool) (d : BitVec 7) (a : BitVec 7) (k : BitVec 4)
  /-- RSQ (R184): Enqueues reciprocal square root work. -/
  | rsq (z : Bool) (d : BitVec 7) (a : BitVec 7) (k : BitVec 4)
  /-- SQRT (R184): Enqueues square root work. -/
  | sqrt (z : Bool) (d : BitVec 7) (a : BitVec 7) (k : BitVec 4)
  /-- EXP2 (R184): Enqueues base-2 exponential work. -/
  | exp2 (z : Bool) (d : BitVec 7) (a : BitVec 7) (k : BitVec 4)
  /-- LOG2 (R184): Enqueues base-2 logarithm work. -/
  | log2 (z : Bool) (d : BitVec 7) (a : BitVec 7) (k : BitVec 4)
  /-- SIN (R184): Enqueues sine work. -/
  | sin (z : Bool) (d : BitVec 7) (a : BitVec 7) (k : BitVec 4)
  /-- COS (R184): Enqueues cosine work. -/
  | cos (z : Bool) (d : BitVec 7) (a : BitVec 7) (k : BitVec 4)
  /-- TANH (R184): Enqueues hyperbolic tangent work. -/
  | tanh (z : Bool) (d : BitVec 7) (a : BitVec 7) (k : BitVec 4)
  /-- SIGM (R184): Enqueues sigmoid work. -/
  | sigm (z : Bool) (d : BitVec 7) (a : BitVec 7) (k : BitVec 4)
  /-- ERF (R184): Enqueues error-function work. -/
  | erf (z : Bool) (d : BitVec 7) (a : BitVec 7) (k : BitVec 4)
  /-- SILU (R184): Enqueues SiLU work. -/
  | silu (z : Bool) (d : BitVec 7) (a : BitVec 7) (k : BitVec 4)
  /-- ATAN (R184): Enqueues arctangent work. -/
  | atan (z : Bool) (d : BitVec 7) (a : BitVec 7) (k : BitVec 4)
  /-- SFN_RESULT (R185): A special-function result is written to its lanes and its token clears there. -/
  | sfnResult (wave : Nat) (id : Nat) (quad : Nat)
  /-- MMA (R200): Accepts a matrix multiply-accumulate on a tile at its expected version. -/
  | mma (z : Bool) (t : BitVec 3) (a : BitVec 7) (b : BitVec 7) (v : BitVec 4) (l : BitVec 4)
  /-- MMAT (R202): Accepts a dense ternary S8 by T2 accumulation into an S32 tile. -/
  | mmat (z : Bool) (t : BitVec 3) (a : BitVec 7) (b : BitVec 6) (v : BitVec 4) (l : BitVec 4)
  /-- MMAT_SP (R203): Accepts a 2:4 sparse ternary accumulation (experimental, B0). -/
  | mmatSp (z : Bool) (t : BitVec 3) (a : BitVec 7) (b : BitVec 6) (v : BitVec 4) (l : BitVec 4)
  /-- ACLR (R205): Accepts a tile clear that unsets width and type. -/
  | aclr (z : Bool) (t : BitVec 3) (v : BitVec 4) (l : BitVec 4)
  /-- AMOVR (R205): Reads tile rows into registers after earlier operations complete. -/
  | amovr (z : Bool) (t : BitVec 3) (a : BitVec 7) (v : BitVec 4) (l : BitVec 4)
  /-- AMOVW (R205): Accepts a write of register rows into the tile. -/
  | amovw (z : Bool) (t : BitVec 3) (a : BitVec 7) (v : BitVec 4) (l : BitVec 4)
  /-- ASCL (R205): Scales and converts tile rows into registers of ET. -/
  | ascl (z : Bool) (t : BitVec 3) (a : BitVec 7) (v : BitVec 4) (l : BitVec 4)
  /-- MATRIX_COMPLETE (R190): An accepted counting matrix operation completes in order and V advances. -/
  | matrixComplete (wave : Nat) (tile : Nat)
  /-- LD (R270): Loads one element per lane. -/
  | ld (z : Bool) (d : BitVec 7) (a : BitVec 7) (b : BitVec 7) (l : BitVec 4)
  /-- ST (R270): Stores one element per lane. -/
  | st (z : Bool) (d : BitVec 7) (a : BitVec 7) (b : BitVec 7) (l : BitVec 4)
  /-- LDV (R270): Invariant load of one element per lane. -/
  | ldv (z : Bool) (d : BitVec 7) (a : BitVec 7) (b : BitVec 7) (l : BitVec 4)
  /-- LDX (R272): Loads up to 16 words or one record per lane. -/
  | ldx (z : Bool) (d : BitVec 7) (a : BitVec 7) (i : BitVec 1) (h : BitVec 2) (n : BitVec 4) (l : BitVec 4)
  /-- STX (R272): Stores up to 16 words or one record per lane. -/
  | stx (z : Bool) (d : BitVec 7) (a : BitVec 7) (h : BitVec 2) (n : BitVec 4) (l : BitVec 4)
  /-- LOAD_WRITEBACK (R61): Returned load data lands in its destination once any lookahead window closes. -/
  | loadWriteback (wave : Nat) (id : Nat) (quad : Nat)
  /-- ATOM_ADD (R274): Atomic add at the scope's point. -/
  | atomAdd (z : Bool) (d : BitVec 7) (a : BitVec 7) (c : BitVec 3) (l : BitVec 4)
  /-- ATOM_MIN (R274): Atomic signed minimum. -/
  | atomMin (z : Bool) (d : BitVec 7) (a : BitVec 7) (c : BitVec 3) (l : BitVec 4)
  /-- ATOM_MAX (R274): Atomic signed maximum. -/
  | atomMax (z : Bool) (d : BitVec 7) (a : BitVec 7) (c : BitVec 3) (l : BitVec 4)
  /-- ATOM_MINN (R274): Atomic unsigned minimum. -/
  | atomMinn (z : Bool) (d : BitVec 7) (a : BitVec 7) (c : BitVec 3) (l : BitVec 4)
  /-- ATOM_MAXN (R274): Atomic unsigned maximum. -/
  | atomMaxn (z : Bool) (d : BitVec 7) (a : BitVec 7) (c : BitVec 3) (l : BitVec 4)
  /-- ATOM_AND (R274): Atomic AND. -/
  | atomAnd (z : Bool) (d : BitVec 7) (a : BitVec 7) (c : BitVec 3) (l : BitVec 4)
  /-- ATOM_OR (R274): Atomic OR. -/
  | atomOr (z : Bool) (d : BitVec 7) (a : BitVec 7) (c : BitVec 3) (l : BitVec 4)
  /-- ATOM_XOR (R274): Atomic XOR. -/
  | atomXor (z : Bool) (d : BitVec 7) (a : BitVec 7) (c : BitVec 3) (l : BitVec 4)
  /-- ATOM_XCHG (R274): Atomic exchange. -/
  | atomXchg (z : Bool) (d : BitVec 7) (a : BitVec 7) (c : BitVec 3) (l : BitVec 4)
  /-- ATOM_CAS (R274): Atomic bitwise compare-and-swap. -/
  | atomCas (z : Bool) (d : BitVec 7) (a : BitVec 7) (c : BitVec 3) (l : BitVec 4)
  /-- ATOM_FADD (R274): Atomic float add. -/
  | atomFadd (z : Bool) (d : BitVec 7) (a : BitVec 7) (c : BitVec 3) (l : BitVec 4)
  /-- ATOM_INCW (R274): Atomic wrapping increment. -/
  | atomIncw (z : Bool) (d : BitVec 7) (a : BitVec 7) (c : BitVec 3) (l : BitVec 4)
  /-- ATOM_FMIN (R274): Atomic float minimum. -/
  | atomFmin (z : Bool) (d : BitVec 7) (a : BitVec 7) (c : BitVec 3) (l : BitVec 4)
  /-- FPUT (R276): Fills an empty future cell with release, or reports full. -/
  | fput (z : Bool) (d : BitVec 7) (a : BitVec 7) (c : BitVec 3) (l : BitVec 4)
  /-- FPUT_T (R277): Fills an empty future cell, or raises FUTFULL at the first full lane. -/
  | fputT (z : Bool) (d : BitVec 7) (a : BitVec 7) (c : BitVec 3) (l : BitVec 4)
  /-- FTAKE (R278): Takes a future value with acquire, sleeping while the cell is empty. -/
  | ftake (z : Bool) (d : BitVec 7) (a : BitVec 7) (c : BitVec 3) (l : BitVec 4)
  /-- FTAKE_N (R276): Takes a future value if full, else reports empty. -/
  | ftakeN (z : Bool) (d : BitVec 7) (a : BitVec 7) (c : BitVec 3) (l : BitVec 4)
  /-- FPEEK (R276): Reads a future cell's value and tag without change. -/
  | fpeek (z : Bool) (d : BitVec 7) (a : BitVec 7) (c : BitVec 3) (l : BitVec 4)
  /-- FCLR (R276): Atomically marks a future cell empty. -/
  | fclr (z : Bool) (a : BitVec 7) (c : BitVec 3) (l : BitVec 4)
  /-- FENCE_ACQ (R280): Acquire fence at a scope, optionally joining engine operations. -/
  | fenceAcq (z : Bool) (e : BitVec 1) (c : BitVec 3)
  /-- FENCE_REL (R280): Release fence waiting for earlier writes to be performed at the scope. -/
  | fenceRel (z : Bool) (e : BitVec 1) (c : BitVec 3)
  /-- FENCE_AR (R280): Acquire-release fence. -/
  | fenceAr (z : Bool) (e : BitVec 1) (c : BitVec 3)
  /-- FENCE_SC (R253): Sequentially consistent fence in the total order of its scope. -/
  | fenceSc (z : Bool) (e : BitVec 1) (c : BitVec 3)
  /-- PREF (R281): Prefetches a line into the L1 and L2. -/
  | pref (z : Bool) (a : BitVec 7) (l : BitVec 4)
  /-- PREF2 (R281): Prefetches a line into the L2. -/
  | pref2 (z : Bool) (a : BitVec 7) (l : BitVec 4)
  /-- CLOCK1 (R236): Fills and locks a line in the L1, returning a status. -/
  | clock1 (z : Bool) (d : BitVec 7) (a : BitVec 7) (l : BitVec 4)
  /-- CLOCK2 (R236): Fills and locks a line in the L2 under LKQUOTA. -/
  | clock2 (z : Bool) (d : BitVec 7) (a : BitVec 7) (l : BitVec 4)
  /-- CUNLK1 (R281): Ends the context's L1 lock on a line. -/
  | cunlk1 (z : Bool) (a : BitVec 7) (l : BitVec 4)
  /-- CUNLK2 (R281): Ends the context's L2 lock on a line. -/
  | cunlk2 (z : Bool) (a : BitVec 7) (l : BitVec 4)
  /-- CWB (R281): Writes dirty sectors of a line back to memory. -/
  | cwb (z : Bool) (a : BitVec 7) (l : BitVec 4)
  /-- CINV (R283): Drops a line from the L1 and L2, discarding dirty sectors. -/
  | cinv (z : Bool) (a : BitVec 7) (l : BitVec 4)
  /-- CWBINV (R281): Writes back and then drops a line. -/
  | cwbinv (z : Bool) (a : BitVec 7) (l : BitVec 4)
  /-- ISYNC (R239): Discards the core's cached code, fetched runs and loop bodies of the context. -/
  | isync (z : Bool) (l : BitVec 4)
  /-- COPY (R293): Enqueues a byte copy on a copy channel. -/
  | copy (z : Bool) (d : BitVec 7) (a : BitVec 7) (q : BitVec 3) (u : BitVec 1) (l : BitVec 4)
  /-- CCVT (R294): Enqueues an element or record conversion copy. -/
  | ccvt (z : Bool) (d : BitVec 7) (a : BitVec 7) (q : BitVec 3) (u : BitVec 1) (l : BitVec 4)
  /-- CSUM (R295): Enqueues accumulation into, or readout from, accumulation cells. -/
  | csum (z : Bool) (d : BitVec 7) (a : BitVec 7) (q : BitVec 3) (u : BitVec 1) (l : BitVec 4)
  /-- CFILL (R293): Enqueues a fill with a 64-bit pattern. -/
  | cfill (z : Bool) (d : BitVec 7) (a : BitVec 7) (q : BitVec 3) (u : BitVec 1) (l : BitVec 4)
  /-- AGATH (R298): Enqueues a gather of up to eight table rows into swizzled scratchpad. -/
  | agath (z : Bool) (d : BitVec 7) (a : BitVec 7) (s : BitVec 4) (n : BitVec 3) (l : BitVec 4)
  /-- ASTP (R285): Sends a store of up to 16 words to a peer device without waiting. -/
  | astp (z : Bool) (d : BitVec 7) (a : BitVec 7) (n : BitVec 4) (l : BitVec 4)
  /-- ASTP_ACK (R261): A peer acknowledges ASTP stores, which are then performed at SYSTEM scope. -/
  | astpAck (dev : Nat) (ok : Bool)
  /-- COPY_SECTOR_DELIVER (R288): A copy request delivers a sector or AGATH row, advancing WPk and crediting its barrier. -/
  | copySectorDeliver (id : Nat)
  /-- COPY_COMPLETE (R300): A copy request completes and posts its completion record or event. -/
  | copyComplete (id : Nat)
  /-- TOGEN_L (R284): Converts a local offset to a generic address. -/
  | togenL (z : Bool) (d : BitVec 7) (a : BitVec 7)
  /-- TOGEN_S (R284): Converts a shared offset to a generic address. -/
  | togenS (z : Bool) (d : BitVec 7) (a : BitVec 7)
  /-- TOGEN_C (R284): Converts a cluster offset to a generic address. -/
  | togenC (z : Bool) (d : BitVec 7) (a : BitVec 7)
  /-- FROMGEN_L (R284): Converts a generic address to a local offset. -/
  | fromgenL (z : Bool) (d : BitVec 7) (a : BitVec 7)
  /-- FROMGEN_S (R284): Converts a generic address to a shared offset. -/
  | fromgenS (z : Bool) (d : BitVec 7) (a : BitVec 7)
  /-- FROMGEN_C (R284): Converts a generic address to a cluster offset. -/
  | fromgenC (z : Bool) (d : BitVec 7) (a : BitVec 7)
  /-- ISSPC (R284): Returns the space code of a generic address. -/
  | isspc (z : Bool) (d : BitVec 7) (a : BitVec 7)
  /-- BRA (R209): Unconditional relative branch. -/
  | bra (z : Bool) (o : BitVec 25)
  /-- CALL (R209): Relative call writing the return PC into w23. -/
  | call (z : Bool) (o : BitVec 25)
  /-- BRW (R209): Branches when a uniform value is nonzero. -/
  | brw (z : Bool) (a : BitVec 7) (o : BitVec 18)
  /-- BRWZ (R209): Branches when a uniform value is zero. -/
  | brwz (z : Bool) (a : BitVec 7) (o : BitVec 18)
  /-- BRD (R23): Divergent branch per quad, splitting the part along buddy blocks or raising QDIV. -/
  | brd (z : Bool) (a : BitVec 7) (o : BitVec 18)
  /-- JMPI (R209): Indirect jump to a uniform target. -/
  | jmpi (z : Bool) (a : BitVec 7)
  /-- RET (R209): Returns to the PC in w23. -/
  | ret (z : Bool)
  /-- CALLI (R209): Indirect call writing the return PC into w23. -/
  | calli (z : Bool) (a : BitVec 7)
  /-- MISS_SPLIT (R25): A part whose issue would stall on partly completed writebacks splits into ready and pending children. -/
  | missSplit (wave : Nat) (q : Nat)
  /-- RCV (R28): Waits for the buddy to fuse, with a deadline. -/
  | rcv (z : Bool) (i : BitVec 14)
  /-- RCV_W (R28): Waits for the buddy to fuse with no deadline. -/
  | rcvW (z : Bool)
  /-- RCV_DEADLINE (R28): A reconvergence deadline passes and the part proceeds alone. -/
  | rcvDeadline (wave : Nat) (q : Nat)
  /-- FUSEDEAD (R32): After 64 cycles of unsatisfiable fuse waits, FUSEDEAD is raised in every waiting part. -/
  | fusedead (wave : Nat)
  /-- END (R213): Terminates every lane of the issuing part. -/
  | endW (z : Bool)
  /-- TRAP (R218): Raises the TRAP cause with a code. -/
  | trap (z : Bool) (i : BitVec 14)
  /-- BKPT (R223): Stops the wave for an attached debugger, or raises BKPT. -/
  | bkpt (z : Bool) (i : BitVec 14)
  /-- ERET (R221): Leaves the trap handler to the return PC. -/
  | eret (z : Bool)
  /-- YIELD (R69): Yields a pre-empted part, keeping its listed state and releasing the rest. -/
  | yield (z : Bool) (d : BitVec 7)
  /-- ROLE (R215): Sets the part's arbitration role from the end of its run. -/
  | role (z : Bool) (r : BitVec 2)
  /-- SLEEP (R214): Makes the part not ready for t × 16 cycles. -/
  | sleep (z : Bool) (i : BitVec 14)
  /-- SLEEP_EXPIRY (R214): A part's sleep time ends and it becomes ready. -/
  | sleepExpiry (wave : Nat) (q : Nat)
  /-- IF (R425): Opens a masked conditional through nesting counters. -/
  | ifW (z : Bool) (a : BitVec 7) (i : BitVec 14)
  /-- IF_S (R24): Conditional that splits the part in halves when allowed, else acts as IF. -/
  | ifS (z : Bool) (a : BitVec 7) (i : BitVec 14)
  /-- ELSE (R425): Switches the masked side, or follows a reconvergence record. -/
  | elseW (z : Bool) (i : BitVec 14)
  /-- ENDIF (R425): Closes a conditional, or acts as a reconvergence point. -/
  | endif (z : Bool)
  /-- LOOPS (R427): Opens a loop whose lanes leave separately. -/
  | loops (z : Bool) (i : BitVec 14)
  /-- BRK (R427): Marks lanes with a true condition as having left the loop. -/
  | brk (z : Bool) (a : BitVec 7) (i : BitVec 14)
  /-- CONT (R427): Marks lanes with a true condition as finished with the pass. -/
  | cont (z : Bool) (a : BitVec 7) (i : BitVec 14)
  /-- ENDLS (R427): Ends a pass, looping while a lane is active, else exiting. -/
  | endls (z : Bool) (i : BitVec 14)
  /-- LOOP (R429): Opens a counted loop level. -/
  | loop (z : Bool) (a : BitVec 7) (i : BitVec 14)
  /-- LEXIT (R429): Leaves the innermost counted loop when the condition is true. -/
  | lexit (z : Bool) (a : BitVec 7)
  /-- WAITT (R431): Waits until no token of the mask is pending. -/
  | waitt (z : Bool) (i : BitVec 14)
  /-- WPWAIT (R431): Waits until a write pointer reaches a target. -/
  | wpwait (z : Bool) (a : BitVec 7) (c : BitVec 4)
  /-- DWAIT (R432): Waits until a delivery barrier's phase bit changes. -/
  | dwait (z : Bool) (a : BitVec 7) (p : BitVec 1)
  /-- VWAIT (R432): Waits for a tile version, raising VERSION on mismatch. -/
  | vwait (z : Bool) (v : BitVec 4) (t : BitVec 3)
  /-- SLEEPW (R431): Waits until the device time reaches a value. -/
  | sleepw (z : Bool) (a : BitVec 7)
  /-- SLEEPW_EXPIRY (R431): Device time reaches a SLEEPW target and the part becomes ready. -/
  | sleepwExpiry (wave : Nat) (q : Nat)
  /-- BAR (R434): Arrives at a workgroup barrier and waits for its phase. -/
  | bar (z : Bool) (a : BitVec 7) (i : BitVec 4)
  /-- BARP (R42): Arrives at a barrier that is a phase boundary in a PHASED grid. -/
  | barp (z : Bool) (a : BitVec 7) (i : BitVec 4)
  /-- BARA (R434): Arrives at a barrier without waiting. -/
  | bara (z : Bool) (a : BitVec 7) (i : BitVec 4)
  /-- BARW (R434): Waits for the open phase of a barrier without arriving. -/
  | barw (z : Bool) (i : BitVec 4)
  /-- BARB (R437): Arms a one-slot delivery barrier in shared memory. -/
  | barb (z : Bool) (a : BitVec 7) (i : BitVec 14)
  /-- CSTG (R436): Adds to the workgroup stage counter. -/
  | cstg (z : Bool) (a : BitVec 7)
  /-- PHASE_RESUME (R43): The next phase of a phased workgroup is served from the phase queue. -/
  | phaseResume (core : Nat)
  /-- DINIT (R440): Initialises a delivery barrier. -/
  | dinit (z : Bool) (d : BitVec 7) (a : BitVec 7) (l : BitVec 4)
  /-- DEXP (R440): Sets the expected bytes of a barrier slot. -/
  | dexp (z : Bool) (d : BitVec 7) (a : BitVec 7) (l : BitVec 4)
  /-- DARR (R440): Releases and credits bytes to a barrier slot. -/
  | darr (z : Bool) (d : BitVec 7) (a : BitVec 7) (l : BitVec 4)
  /-- DQRY (R440): Reads a delivery barrier's header word. -/
  | dqry (z : Bool) (d : BitVec 7) (a : BitVec 7) (l : BitVec 4)
  /-- TIME (R441): Reads the device time. -/
  | time (z : Bool) (d : BitVec 7)
  /-- PMCRD (R441): Reads a performance counter. -/
  | pmcrd (z : Bool) (d : BitVec 7) (n : BitVec 3)
  /-- PMCWR (R441): Writes a programmable performance counter in control mode. -/
  | pmcwr (z : Bool) (d : BitVec 7) (n : BitVec 3)
  /-- ACCV (R441): Reads a tile's versions, width and type. -/
  | accv (z : Bool) (d : BitVec 7) (t : BitVec 3)
  /-- WPRD (R441): Reads a workgroup write pointer. -/
  | wprd (z : Bool) (d : BitVec 7) (c : BitVec 4)
  /-- CYCLE (R441): Reads the wave's cycle counter. -/
  | cycle (z : Bool) (d : BitVec 7)
  /-- LAUNCH (R329): Launches a child grid from a launch record per lane. -/
  | launch (z : Bool) (d : BitVec 7) (a : BitVec 7) (l : BitVec 4)
  /-- LAUNCHB (R329): Launches a bundle from a descriptor per lane. -/
  | launchb (z : Bool) (d : BitVec 7) (a : BitVec 7) (l : BitVec 4)
  /-- ENQR (R332): Enqueues a record into a record queue, launching full batches. -/
  | enqr (z : Bool) (d : BitVec 7) (a : BitVec 7) (l : BitVec 4)
  /-- RQFLUSH (R332): Flushes the remainder batch of a record queue. -/
  | rqflush (z : Bool) (d : BitVec 7) (a : BitVec 7) (l : BitVec 4)
  /-- RQSTAT (R331): Reads published-unhandled and free slot counts of a record queue. -/
  | rqstat (z : Bool) (d : BitVec 7) (a : BitVec 7) (l : BitVec 4)
  /-- EVPOST (R327): Posts a USER event after a SYSTEM release. -/
  | evpost (z : Bool) (d : BitVec 7) (a : BitVec 7) (l : BitVec 4)
  /-- CPOLL (R327): Takes a completion record if one is present. -/
  | cpoll (z : Bool) (d : BitVec 7) (a : BitVec 7) (l : BitVec 4)
  /-- CSLEEP (R327): Waits until a completion queue is not empty or a timeout, then polls. -/
  | csleep (z : Bool) (d : BitVec 7) (a : BitVec 7) (l : BitVec 4)
  /-- SIGNAL (R327): Releases and then writes a 64-bit signal atomically. -/
  | signal (z : Bool) (d : BitVec 7) (a : BitVec 7) (l : BitVec 4)
  /-- CSLEEP_TIMEOUT (R327): A CSLEEP timeout passes and the word polls. -/
  | csleepTimeout (wave : Nat) (q : Nat)
  /-- QFETCH (R334): Control mode: fetches the next exposed packet of a queue. -/
  | qfetch (z : Bool) (d : BitVec 7) (q : BitVec 10)
  /-- QDISP (R334): Control mode: admits a launch or bundle and hands it to a dispatcher. -/
  | qdisp (z : Bool) (d : BitVec 7) (b : BitVec 1) (p : BitVec 3)
  /-- SWAITC (R334): Control mode: waits on a signal condition with acquire. -/
  | swaitc (z : Bool) (d : BitVec 7) (i : BitVec 12) (c : BitVec 2)
  /-- KEYOP_GEN (R334): Fills a key slot with a random AES-256 key. -/
  | keyopGen (z : Bool) (d : BitVec 7) (p : BitVec 3) (s : BitVec 4)
  /-- KEYOP_BIND (R334): Binds a key slot to a partition. -/
  | keyopBind (z : Bool) (d : BitVec 7) (p : BitVec 3) (s : BitVec 4)
  /-- KEYOP_UNBIND (R334): Detaches a key slot from a partition. -/
  | keyopUnbind (z : Bool) (d : BitVec 7) (p : BitVec 3) (s : BitVec 4)
  /-- KEYOP_ZERO (R334): Erases one key slot. -/
  | keyopZero (z : Bool) (d : BitVec 7) (p : BitVec 3) (s : BitVec 4)
  /-- KEYOP_ZEROALL (R334): Erases every key slot. -/
  | keyopZeroall (z : Bool) (d : BitVec 7) (p : BitVec 3) (s : BitVec 4)
  /-- KEYOP_SIGN (R334): Signs a digest with the device P-521 key. -/
  | keyopSign (z : Bool) (d : BitVec 7) (p : BitVec 3) (s : BitVec 4)
  /-- FUSERD (R334): Reads a fuse row. -/
  | fuserd (z : Bool) (d : BitVec 7) (r : BitVec 10)
  /-- WIPE (R334): Starts zeroing a partition's HBM and SRAM. -/
  | wipe (z : Bool) (p : BitVec 3)
  /-- WIPE_COMPLETE (R243): A wipe of HBM and SRAM finishes. -/
  | wipeComplete (p : Nat)
  /-- SHADOW (R334): Swaps a partition out to or in from the shadow slots. -/
  | shadow (z : Bool) (x : BitVec 1) (p : BitVec 3)
  /-- MEASX (R334): Extends a measurement register with a digest. -/
  | measx (z : Bool) (d : BitVec 7) (m : BitVec 4)
  /-- SHADOW_EXCHANGE (R72): After the drain, the partition's core state is exchanged with the shadow slots. -/
  | shadowExchange (p : Nat)
  /-- XPAIR (R408): Starts a paired hierarchy traversal that emits overlapping leaf pairs. -/
  | xpair (z : Bool) (d : BitVec 7) (a : BitVec 7) (w : BitVec 1) (r : BitVec 1) (c : BitVec 1) (s : BitVec 1) (l : BitVec 4)
  /-- XPAIR_EMIT (R408): The traversal emits one pair record by an ENQR step, or overflows. -/
  | xpairEmit (id : Nat)
  /-- XPAIR_COMPLETE (R412): An XPAIR traversal ends and writes its status and count. -/
  | xpairComplete (id : Nat)
  /-- XRAY (R416): Starts a ray traversal per active lane. -/
  | xray (z : Bool) (d : BitVec 7) (a : BitVec 7) (c : BitVec 1) (y : BitVec 1) (l : BitVec 4)
  /-- XRAY_COMPLETE (R417): A lane's ray traversal ends and writes its hit or status. -/
  | xrayComplete (id : Nat) (lane : Nat)
  /-- TEX_SAMPLE (R421): Samples an image with nearest or bilinear filtering. -/
  | texSample (z : Bool) (d : BitVec 7) (a : BitVec 7) (s : BitVec 4) (l : BitVec 4)
  /-- TEX_GATH4 (R421): Gathers channel R of four texels. -/
  | texGath4 (z : Bool) (d : BitVec 7) (a : BitVec 7) (s : BitVec 4) (l : BitVec 4)
  /-- TEX_LOADI (R421): Loads one texel by integer coordinates. -/
  | texLoadi (z : Bool) (d : BitVec 7) (a : BitVec 7) (s : BitVec 4) (l : BitVec 4)
  /-- TEX_QUERY (R421): Returns the size, levels and format of an image level. -/
  | texQuery (z : Bool) (d : BitVec 7) (a : BitVec 7) (s : BitVec 4) (l : BitVec 4)
  /-- COVER (R368): Tests 64 pixel centres of a block against an edge set. -/
  | cover (z : Bool) (d : BitVec 7) (a : BitVec 7) (b : BitVec 7)
  /-- EDGE (R367): Sets up three exact edge functions of a triangle. -/
  | edge (z : Bool) (d : BitVec 7) (a : BitVec 7)
  /-- PXTK (R369): Takes a ticket on a block's order word. -/
  | pxtk (z : Bool) (d : BitVec 7) (a : BitVec 7)
  /-- PXLK (R370): Waits until the ticket is served, then acquires. -/
  | pxlk (z : Bool) (a : BitVec 7) (b : BitVec 7)
  /-- PXUL (R370): Releases and advances SERVE if it equals the ticket. -/
  | pxul (z : Bool) (a : BitVec 7) (b : BitVec 7)
  /-- VEMIT (R371): Queues a primitive record in the primitive queue. -/
  | vemit (z : Bool) (d : BitVec 7) (a : BitVec 7)
  /-- TSEMIT (R371): Hands a patch to the tessellator. -/
  | tsemit (z : Bool) (d : BitVec 7) (a : BitVec 7)
  /-- TESSELLATE (R361): The tessellator cuts a patch and fills domain-wave lanes. -/
  | tessellate (draw : Nat)
  /-- PRIMITIVE_RELEASE (R357): Primitives are released to binning in key order and appended to tile bins. -/
  | primitiveRelease (draw : Nat)
  /-- RASTER_LAUNCH (R363): A raster workgroup is launched over a batch of a tile's bin. -/
  | rasterLaunch (draw : Nat) (tile : Nat)
  /-- ATR (R384): Probes whether a load would translate. -/
  | atr (z : Bool) (d : BitVec 7) (a : BitVec 7) (l : BitVec 4)
  /-- ATW (R384): Probes whether a store would translate. -/
  | atw (z : Bool) (d : BitVec 7) (a : BitVec 7) (l : BitVec 4)
  /-- TLBINV (R385): Control mode: drops translations covering an address and waits for shootdown. -/
  | tlbinv (z : Bool) (d : BitVec 7) (a : BitVec 7) (l : BitVec 4)
  /-- TLBINVA (R385): Control mode: drops all translations of a selection. -/
  | tlbinva (z : Bool) (d : BitVec 7) (l : BitVec 4)
  /-- PAGE_WALK (R373): A page-table walk completes and fills the TLBs or reports a fault kind. -/
  | pageWalk (p : Nat) (ctx : Nat) (va : Nat) (die : Nat) (acc : Nat)
  /-- ISSUE_ARBITRATION (R57): A free issue port chooses the next part to begin a run. -/
  | issueArbitration (quarter : Nat)
  /-- AGEMAX_REACHED (R59): A ready part's age reaches AGEMAX and it enters class 4. -/
  | agemaxReached (wave : Nat) (q : Nat)
  /-- WORKGROUP_PLACE (R50): The dispatcher places a workgroup on a core in its window and allocates resources. -/
  | workgroupPlace (p : Nat)
  /-- WEIGHT_CLASS_UPDATE (R49): Every 10 µs each core's weight class is recomputed. -/
  | weightClassUpdate (core : Nat) (temp : Nat) (more : Nat)
  /-- BUDGET_EXCEEDED (R66): A DEADLINE workgroup's charge exceeds its budget and it is terminated. -/
  | budgetExceeded (wg : Nat)
  /-- PREDL_EXPIRY (R70): PREDL passes after PREEMPT and unyielded parts are halted and drained. -/
  | predlExpiry (wg : Nat)
  /-- HARDWARE_SAVE (R70): A drained part is saved whole into the grid's context area. -/
  | hardwareSave (wg : Nat)
  /-- GRID_COMPLETE (R41): A grid with all workgroups ended and descendants complete writes its completion. -/
  | gridComplete (grid : Nat)
  /-- PACKET_FETCH (R311): The Ademan complex fetches a packet from a running queue and checks it. -/
  | packetFetch (q : Nat)
  /-- LAUNCH_PACKET (R313): Starts a grid from a launch record. -/
  | launchPacket (q : Nat) (seq : Nat)
  /-- BUNDLE (R318): Admits the members of a bundle together. -/
  | bundle (q : Nat) (seq : Nat)
  /-- DRAW (R355): Starts the grids of a draw. -/
  | draw (q : Nat) (seq : Nat)
  /-- COPYSCHED (R313): Runs a copy schedule as one workgroup on a core's copy engine. -/
  | copysched (q : Nat) (seq : Nat)
  /-- SIGNAL_PACKET (R313): Releases and writes or adds a 64-bit signal at SYSTEM scope. -/
  | signalPacket (q : Nat) (seq : Nat)
  /-- WAITSIG (R313): Holds later packets until a signal satisfies a condition. -/
  | waitsig (q : Nat) (seq : Nat)
  /-- WAITSIG_POLL (R327): A signal waiter re-reads its signal address. -/
  | waitsigPoll (q : Nat) (seq : Nat)
  /-- WAITSIG_TIMEOUT (R313): A WAITSIG times out, posts WAITTO, and the queue goes on. -/
  | waitsigTimeout (q : Nat) (seq : Nat)
  /-- SWAITC_TIMEOUT (R335): SWAITC times out with SIGTIMEOUT. -/
  | swaitcTimeout (wave : Nat) (q : Nat)
  /-- TIMESTAMP (R313): Writes the device time at SYSTEM scope. -/
  | timestamp (q : Nat) (seq : Nat)
  /-- EVENT_PACKET (R313): Posts a USER event. -/
  | eventPacket (q : Nat) (seq : Nat)
  /-- QBARRIER (R313): Holds later packets until listed queues' earlier packets complete. -/
  | qbarrier (q : Nat) (seq : Nat)
  /-- CONFIG_AGEMAX (R316): Sets the partition's AGEMAX. -/
  | configAgemax (q : Nat) (seq : Nat)
  /-- CONFIG_PREDL (R316): Sets the partition's PREDL. -/
  | configPredl (q : Nat) (seq : Nat)
  /-- CONFIG_LKQUOTA (R316): Sets the partition's LKQUOTA. -/
  | configLkquota (q : Nat) (seq : Nat)
  /-- CONFIG_L2_WAYS (R316): Sets L2 MINW and MAXW of a class. -/
  | configL2Ways (q : Nat) (seq : Nat)
  /-- CONFIG_LLC_WAYS (R316): Sets last-level MINW and MAXW of a class. -/
  | configLlcWays (q : Nat) (seq : Nat)
  /-- PARTCTL_PREEMPT (R316): Pre-empts every workgroup of a partition's launches carrying a tag. -/
  | partctlPreempt (q : Nat) (seq : Nat)
  /-- PARTCTL_SWAPOUT (R316): Swaps a partition out to the shadow slots. -/
  | partctlSwapout (q : Nat) (seq : Nat)
  /-- PARTCTL_SWAPIN (R316): Swaps a partition in from the shadow slots. -/
  | partctlSwapin (q : Nat) (seq : Nat)
  /-- PARTCTL_WIPE (R316): Wipes a partition. -/
  | partctlWipe (q : Nat) (seq : Nat)
  /-- PARTCTL_KEYBIND (R316): Binds a key slot to a partition. -/
  | partctlKeybind (q : Nat) (seq : Nat)
  /-- PARTCTL_KEYZERO (R316): Zeroes a key slot. -/
  | partctlKeyzero (q : Nat) (seq : Nat)
  /-- EVENT_HOLDMAX (R323): The oldest held event reaches HOLDMAX and its interrupt becomes due. -/
  | eventHoldmax (e : Nat)
  /-- MSIX_SEND (R323): A due interrupt sends its MSI-X message and releases held records. -/
  | msixSend (e : Nat)
  /-- QTAIL_WRITE (R309): Exposes packets, or puts the queue into OVERRUN. -/
  | qtailWrite (q : Nat) (v : Nat)
  /-- QUEUE_ENABLE (R307): Writing EN 1 in STOPPED sets the queue to RUN. -/
  | queueEnable (q : Nat)
  /-- QUEUE_DISABLE (R307): Writing EN 0 in RUN stops fetching. -/
  | queueDisable (q : Nat)
  /-- QUEUE_STOPPED (R307): No fetched packet remains unstarted and the queue becomes STOPPED. -/
  | queueStopped (q : Nat)
  /-- QUEUE_RESET (R310): Writing RST stops fetching and waits for fetched packets. -/
  | queueReset (q : Nat)
  /-- QUEUE_RESET_COMPLETE (R310): Fetched packets have completed and the queue's counters reset. -/
  | queueResetComplete (q : Nat)
  /-- EQLOST_READ (R321): Reads and clears the dropped-record count. -/
  | eqlostRead (e : Nat)
  /-- TRLOST_READ (R445): Reads and clears the trace drop count. -/
  | trlostRead (p : Nat)
  /-- FRACK_WRITE (R382): Requests replay of every access stalled on a fault record. -/
  | frackWrite (p : Nat) (n : Nat)
  /-- SPAN_ENABLE (R456): Setting SPANEN trains every Span port. -/
  | spanEnable
  /-- SPAN_DISABLE (R456): Clearing SPANEN takes every port down after traffic drains. -/
  | spanDisable
  /-- CAP_WRITE (R463): Sets a partition power cap unless the package limit would be broken. -/
  | capWrite (p : Nat) (v : Nat)
  /-- REGISTER_WRITE (R13): Writes a device register field with no behaviour of its own. -/
  | registerWrite (off : Nat) (v : Nat)
  /-- FWLOAD (R468): Takes, verifies and stores a firmware image. -/
  | fwload (arg : Nat)
  /-- ATTEST (R474): Returns a signed device or partition quote. -/
  | attest (arg : Nat)
  /-- CHALLENGE (R475): Returns a debug challenge with a fresh nonce. -/
  | challenge (arg : Nat)
  /-- UNLOCK (R475): Verifies a debug token, wipes the device and opens the debug port. -/
  | unlock (arg : Nat)
  /-- RELOCK (R473): Returns the device from DEBUG to SECURE. -/
  | relock (arg : Nat)
  /-- SETPRIV (R468): Sets QCTL.PRIV of one host queue. -/
  | setpriv (arg : Nat)
  /-- LIFECYCLE (R473): Requests a lifecycle transition, burning fuses and wiping. -/
  | lifecycle (arg : Nat)
  /-- PARTDEF (R469): Configures a partition. -/
  | partdef (arg : Nat)
  /-- PARTUNDEF (R469): Wipes and ends a partition's configuration. -/
  | partundef (arg : Nat)
  /-- CTXDEF (R470): Defines a context of a partition. -/
  | ctxdef (arg : Nat)
  /-- CTXUNDEF (R470): Unloads code and ends a context. -/
  | ctxundef (arg : Nat)
  /-- NONCE_EXPIRY (R475): A debug challenge nonce expires after 60 s. -/
  | nonceExpiry
  /-- STOP (R448): Debug command stopping a wave. -/
  | stop (arg : Nat)
  /-- RESUME (R451): Debug command letting a stopped wave continue. -/
  | resume (arg : Nat)
  /-- STEP (R451): Debug command issuing one word of one part. -/
  | step (arg : Nat)
  /-- RDREG (R451): Debug command reading a register of a stopped wave. -/
  | rdreg (arg : Nat)
  /-- WRREG (R113): Debug command writing a register of a stopped wave. -/
  | wrreg (arg : Nat)
  /-- DROP (R113): Debug command cancelling a pending writeback. -/
  | drop (arg : Nat)
  /-- BPEN (R451): Debug command enabling or disabling BKPT stops for a context. -/
  | bpen (arg : Nat)
  /-- REPORT (R451): Debug command returning the stop report of a wave. -/
  | report (arg : Nat)
  /-- MEMRD (R451): Debug command reading memory through a context's translation. -/
  | memrd (arg : Nat)
  /-- MEMWR (R451): Debug command writing memory through a context's translation. -/
  | memwr (arg : Nat)
  /-- TRACE_SUMMARY_TIMER (R447): A matching unselected wave writes a SUMMARY after 2^16 cycles. -/
  | traceSummaryTimer (wave : Nat)
  /-- REPLAY_PASS (R453): A pass of a MEASURE session ends; counters are stored, pages restored and the next pass starts. -/
  | replayPass (grid : Nat)
  /-- SCRUB_PASS (R108): The scrubber reads and corrects a register word or marks it poisoned. -/
  | scrubPass (wave : Nat) (reg : Nat) (lane : Nat) (found : Nat)
  /-- CORE_RETIRE (R471): A failing core is retired and a spare takes its place. -/
  | coreRetire (core : Nat) (cause : Nat)
  /-- PSEUDO_CHANNEL_FAIL (R471): A failing HBM pseudo-channel starts copying to its spare. -/
  | pseudoChannelFail (stack : Nat) (ch : Nat)
  /-- PSEUDO_CHANNEL_COPY_DONE (R471): The copy of a pseudo-channel to its spare finishes. -/
  | pseudoChannelCopyDone (stack : Nat) (ch : Nat)
  /-- CORE_THERMAL_TRIP (R49): A core reaches 115 °C and is removed from placement. -/
  | coreThermalTrip (core : Nat) (temp : Nat)
  /-- CORE_THERMAL_RECOVER (R49): A tripped core falls below 105 °C and returns to placement. -/
  | coreThermalRecover (core : Nat) (temp : Nat)
  /-- PACKAGE_THERMAL_TRIP (R466): A die reaches 125 °C and power is removed from every island. -/
  | packageThermalTrip (die : Nat) (temp : Nat)
  /-- DROOP_STRETCH (R461): An island's supply droops and its clock stretches. -/
  | droopStretch (island : Nat) (mv : Nat)
  /-- POWER_WINDOW (R465): A 1 ms window ends and partition clocks step down or up against caps. -/
  | powerWindow (p : Nat) (watts : Nat)
  /-- FULL_RESET (R467): Power-on, FLR or lifecycle change ends all grids and runs bring-up. -/
  | fullReset (kind : Nat)
  /-- FLIT_RETRY (R460): A flit that fails CRC is replayed by link-level retry. -/
  | flitRetry (port : Nat)
  /-- SPAN_PORT_DOWN (R460): A port goes down after repeated retry failures or loss of lock, and traffic moves. -/
  | spanPortDown (port : Nat)
  /-- SPAN_DOWN_SVCREQ (R472): A Span port has stayed down for 60 s and a replacement request is posted. -/
  | spanDownSvcreq (port : Nat)
  /-- PEER_REQUEST (R459): A load, store, atomic or ASTP arrives from a peer over Span. -/
  | peerRequest (kind : Nat) (addr : Nat) (data : Nat) (size : Nat)
  /-- CXLMEM_READ (R458): The host reads HBM through CXL.mem. -/
  | cxlmemRead (addr : Nat)
  /-- CXLMEM_WRITE (R458): The host writes HBM through CXL.mem. -/
  | cxlmemWrite (addr : Nat) (byte : Nat)
  /-- WRITE_PERFORMED (R249): A plain store issued earlier becomes performed at a wider scope's point of coherence. -/
  | writePerformed (id : Nat) (scope : Nat)
  /-- FRHEAD_WRITE (R382): A software write of FRHEAD frees fault-ring space so waiting fault records are written. -/
  | frheadWrite (p : Nat) (v : Nat)
  /-- PROVISIONING (R473): Tirlor manufacturing fuses the identity and generates the device key, taking a BLANK device to PROVISIONED. -/
  | provisioning
  /-- DROOP_STRETCH_END (R461): An island's supply returns to its set point and its stretched clock runs at speed again. -/
  | droopStretchEnd (island : Nat)
  /-- SPAN_PORT_TRAINED (R459): A Span port finishes training with its switch plane and comes up, or is counted down. -/
  | spanPortTrained (port : Nat) (up : Bool)
  /-- HOST_SNOOP (R457): The CXL home agent snoops a host line that a device cache holds through CXL.cache. -/
  | hostSnoop (addr : Nat)
  /-- MSIX_UNMASK (R323): The host unmasks an MSI-X vector, and a pending message for it is sent. -/
  | msixUnmask (vec : Nat)
deriving DecidableEq, Repr

end Sys2Proof
end

