-- ==== Sys2Proof/Decode.lean ====
section
/-! DEFINITION. The decoder and the encoder of instruction words, written from the field layouts of R75 and the opcode map
of R92. `decode` is total: a word that is no instruction is rejected with the REASON of R90, and says whether its major or
function is privileged, because R89 checks privilege between the function and the fields. -/

namespace Sys2Proof

noncomputable section

/-- Why a word is no instruction (the enumeration of R90, as far as the word alone decides it). -/
inductive Reject where
  /-- a reserved major, or MAJ 0 with a nonzero bit in [24:0] -/
  | major
  /-- a reserved function value -/
  | func
  /-- a reserved value in a field, or a nonzero unused field; the word's privilege is checked first -/
  | field (priv : Bool)
  /-- a register code not allowed in its position -/
  | operand
  /-- a prefix word that breaks R84 by itself -/
  | pfx
  /-- a nonzero LA where 0 is required -/
  | laField
deriving DecidableEq, Repr

/-! ## Fields of a word (R73, R75) -/

/-- Bit [31], B. -/
def fieldZ (w : Word) : Bool := w.getLsbD 31

/-- Bits [30:25], MAJ. -/
def fieldMaj (w : Word) : BitVec 6 := w.extractLsb' 25 6

/-- Bits [24:18]: D, or A of formats J18 and C. -/
def fieldD (w : Word) : BitVec 7 := w.extractLsb' 18 7

/-- Bits [17:11]: A. -/
def fieldA (w : Word) : BitVec 7 := w.extractLsb' 11 7

/-- Bits [10:4]: Bf or F7. -/
def fieldB (w : Word) : BitVec 7 := w.extractLsb' 4 7

/-- Bits [3:0]: F or LA. -/
def fieldF (w : Word) : BitVec 4 := w.extractLsb' 0 4

/-- Bits [17:4]: SEL14 or IMM14. -/
def fieldSel (w : Word) : BitVec 14 := w.extractLsb' 4 14

/-- Bits [17:0]: OFF18. -/
def fieldO18 (w : Word) : BitVec 18 := w.extractLsb' 0 18

/-- Bits [24:0]: OFF25 or K25. -/
def fieldO25 (w : Word) : BitVec 25 := w.extractLsb' 0 25

/-- Bits [24:22]: T of format M. -/
def fieldT (w : Word) : BitVec 3 := w.extractLsb' 22 3

/-- Bits [21:15]: A of format M. -/
def fieldMA (w : Word) : BitVec 7 := w.extractLsb' 15 7

/-- Bits [14:8]: Bf of format M. -/
def fieldMB (w : Word) : BitVec 7 := w.extractLsb' 8 7

/-- Bits [7:4]: VER of format M. -/
def fieldMV (w : Word) : BitVec 4 := w.extractLsb' 4 4

/-! ## Words from fields -/

/-- Formats A, L and F. -/
def wordA (z : Bool) (maj : BitVec 6) (d a b : BitVec 7) (f : BitVec 4) : Word :=
  BitVec.ofBool z ++ maj ++ d ++ a ++ b ++ f

/-- Formats S and C. -/
def wordS (z : Bool) (maj : BitVec 6) (d : BitVec 7) (s : BitVec 14) (f : BitVec 4) : Word :=
  BitVec.ofBool z ++ maj ++ d ++ s ++ f

/-- Format J18. -/
def wordJ18 (z : Bool) (maj : BitVec 6) (a : BitVec 7) (o : BitVec 18) : Word :=
  BitVec.ofBool z ++ maj ++ a ++ o

/-- Formats J25 and K. -/
def wordJ25 (z : Bool) (maj : BitVec 6) (o : BitVec 25) : Word :=
  BitVec.ofBool z ++ maj ++ o

/-- Format M. -/
def wordM (z : Bool) (maj : BitVec 6) (t : BitVec 3) (a b : BitVec 7) (v l : BitVec 4) : Word :=
  BitVec.ofBool z ++ maj ++ t ++ a ++ b ++ v ++ l

/-! ## The decoder, one function for each major -/

/-- MAJ 0x00: nop. -/
def decodeMaj00 (z : Bool) (o : BitVec 25) : Except Reject Instr :=
  if o = 0#25 then .ok (.nop z) else .error .major

/-- MAJ 0x01: iadd, isub, imul, imulh, imin, imax, ineg, iabs, and, or, xor, andn, shl, shr, sar, rot. -/
def decodeMaj01 (z : Bool) (d a b : BitVec 7) (f : BitVec 4) : Except Reject Instr :=
  match (f).toNat with
  | 0 => .ok (.iadd z d a b)
  | 1 => .ok (.isub z d a b)
  | 2 => .ok (.imul z d a b)
  | 3 => .ok (.imulh z d a b)
  | 4 => .ok (.imin z d a b)
  | 5 => .ok (.imax z d a b)
  | 6 => if b = 0#7 then .ok (.ineg z d a) else .error (.field false)
  | 7 => if b = 0#7 then .ok (.iabs z d a) else .error (.field false)
  | 8 => .ok (.and z d a b)
  | 9 => .ok (.or z d a b)
  | 10 => .ok (.xor z d a b)
  | 11 => .ok (.andn z d a b)
  | 12 => .ok (.shl z d a b)
  | 13 => .ok (.shr z d a b)
  | 14 => .ok (.sar z d a b)
  | _ => .ok (.rot z d a b)

/-- MAJ 0x02: clz, ctz, popc, brev, bil3, bdil3, bil2, bdil2, bfx, bfxs, bfi, mov, sel, perm. -/
def decodeMaj02 (z : Bool) (d a b : BitVec 7) (f : BitVec 4) : Except Reject Instr :=
  match (f).toNat with
  | 0 => if b = 0#7 then .ok (.clz z d a) else .error (.field false)
  | 1 => if b = 0#7 then .ok (.ctz z d a) else .error (.field false)
  | 2 => if b = 0#7 then .ok (.popc z d a) else .error (.field false)
  | 3 => if b = 0#7 then .ok (.brev z d a) else .error (.field false)
  | 4 => .ok (.bil3 z d a b)
  | 5 => .ok (.bdil3 z d a b)
  | 6 => .ok (.bil2 z d a b)
  | 7 => if b = 0#7 then .ok (.bdil2 z d a) else .error (.field false)
  | 8 => .ok (.bfx z d a b)
  | 9 => .ok (.bfxs z d a b)
  | 10 => .ok (.bfi z d a b)
  | 11 => if b = 0#7 then .ok (.mov z d a) else .error (.field false)
  | 12 => .ok (.sel z d a b)
  | 13 => .ok (.perm z d a b)
  | _ => .error .func

/-- MAJ 0x03: imad, imadh, idot4, isad. -/
def decodeMaj03 (z : Bool) (d a b : BitVec 7) (f : BitVec 4) : Except Reject Instr :=
  match (f).toNat with
  | 0 => .ok (.imad z d a b)
  | 1 => .ok (.imadh z d a b)
  | 2 => .ok (.idot4 z d a b)
  | 3 => .ok (.isad z d a b)
  | _ => .error .func

/-- MAJ 0x04: icmpEq, icmpNe, icmpLt, icmpLe, icmpGt, icmpGe, icmpLtn, icmpLen, icmpGtn, icmpGen, icmpTstz, icmpTstnz. -/
def decodeMaj04 (z : Bool) (d a b : BitVec 7) (f : BitVec 4) : Except Reject Instr :=
  match (f).toNat with
  | 0 => .ok (.icmpEq z d a b)
  | 1 => .ok (.icmpNe z d a b)
  | 2 => .ok (.icmpLt z d a b)
  | 3 => .ok (.icmpLe z d a b)
  | 4 => .ok (.icmpGt z d a b)
  | 5 => .ok (.icmpGe z d a b)
  | 6 => .ok (.icmpLtn z d a b)
  | 7 => .ok (.icmpLen z d a b)
  | 8 => .ok (.icmpGtn z d a b)
  | 9 => .ok (.icmpGen z d a b)
  | 10 => .ok (.icmpTstz z d a b)
  | 11 => .ok (.icmpTstnz z d a b)
  | _ => .error .func

/-- MAJ 0x05: add64, sub64, lea1, lea2, lea4, lea8, lea16, mov64, shl64, shr64. -/
def decodeMaj05 (z : Bool) (d a b : BitVec 7) (f : BitVec 4) : Except Reject Instr :=
  match (f).toNat with
  | 0 => .ok (.add64 z d a b)
  | 1 => .ok (.sub64 z d a b)
  | 2 => .ok (.lea1 z d a b)
  | 3 => .ok (.lea2 z d a b)
  | 4 => .ok (.lea4 z d a b)
  | 5 => .ok (.lea8 z d a b)
  | 6 => .ok (.lea16 z d a b)
  | 7 => if b = 0#7 then .ok (.mov64 z d a) else .error (.field false)
  | 8 => .ok (.shl64 z d a b)
  | 9 => .ok (.shr64 z d a b)
  | _ => .error .func

/-- MAJ 0x06: fadd, fsub, fmul, fmin, fmax, fabs, fneg, fcls, fminm, fmaxm, frnd, fscl, fcpy. -/
def decodeMaj06 (z : Bool) (d a b : BitVec 7) (f : BitVec 4) : Except Reject Instr :=
  match (f).toNat with
  | 0 => .ok (.fadd z d a b)
  | 1 => .ok (.fsub z d a b)
  | 2 => .ok (.fmul z d a b)
  | 3 => .ok (.fmin z d a b)
  | 4 => .ok (.fmax z d a b)
  | 5 => if b = 0#7 then .ok (.fabs z d a) else .error (.field false)
  | 6 => if b = 0#7 then .ok (.fneg z d a) else .error (.field false)
  | 7 => if b = 0#7 then .ok (.fcls z d a) else .error (.field false)
  | 8 => .ok (.fminm z d a b)
  | 9 => .ok (.fmaxm z d a b)
  | 10 => if b = 0#7 then .ok (.frnd z d a) else .error (.field false)
  | 11 => .ok (.fscl z d a b)
  | 12 => .ok (.fcpy z d a b)
  | _ => .error .func

/-- MAJ 0x07: ffma, ffms, fnma. -/
def decodeMaj07 (z : Bool) (d a b : BitVec 7) (f : BitVec 4) : Except Reject Instr :=
  match (f).toNat with
  | 0 => .ok (.ffma z d a b)
  | 1 => .ok (.ffms z d a b)
  | 2 => .ok (.fnma z d a b)
  | _ => .error .func

/-- MAJ 0x08: fcmpEq, fcmpNe, fcmpLt, fcmpLe, fcmpGt, fcmpGe, fcmpUn, fcmpOrd. -/
def decodeMaj08 (z : Bool) (d a b : BitVec 7) (f : BitVec 4) : Except Reject Instr :=
  match (f).toNat with
  | 0 => .ok (.fcmpEq z d a b)
  | 1 => .ok (.fcmpNe z d a b)
  | 2 => .ok (.fcmpLt z d a b)
  | 3 => .ok (.fcmpLe z d a b)
  | 4 => .ok (.fcmpGt z d a b)
  | 5 => .ok (.fcmpGe z d a b)
  | 6 => .ok (.fcmpUn z d a b)
  | 7 => .ok (.fcmpOrd z d a b)
  | _ => .error .func

/-- MAJ 0x09: cvt, cvtz, cvts, pack2, unpk, unpkh. -/
def decodeMaj09 (z : Bool) (d a b : BitVec 7) (f : BitVec 4) : Except Reject Instr :=
  match (f).toNat with
  | 0 => if b = 0#7 then .ok (.cvt z d a) else .error (.field false)
  | 1 => if b = 0#7 then .ok (.cvtz z d a) else .error (.field false)
  | 2 => if b = 0#7 then .ok (.cvts z d a) else .error (.field false)
  | 3 => .ok (.pack2 z d a b)
  | 4 => if b = 0#7 then .ok (.unpk z d a) else .error (.field false)
  | 5 => if b = 0#7 then .ok (.unpkh z d a) else .error (.field false)
  | _ => .error .func

/-- MAJ 0x0A: nrw. -/
def decodeMaj0A (z : Bool) (d a b : BitVec 7) (f : BitVec 4) : Except Reject Instr :=
  match ((f.extractLsb' 2 1)).toNat with
  | 0 => .ok (.nrw z d a b (f.extractLsb' 3 1) (f.extractLsb' 0 2))
  | _ => .error .func

/-- MAJ 0x0B: wide, wide4, scaleof, setsc. -/
def decodeMaj0B (z : Bool) (d a b : BitVec 7) (f : BitVec 4) : Except Reject Instr :=
  match (f).toNat with
  | 0 => .ok (.wide z d a b)
  | 1 => .ok (.wide4 z d a b)
  | 2 => if b = 0#7 then .ok (.scaleof z d a) else .error (.field false)
  | 3 => if b = 0#7 then .ok (.setsc z d a) else .error (.field false)
  | _ => .error .func

/-- MAJ 0x0C: shfl, shflx, shflu, shfld, bcst, qswz, ballot, vote. -/
def decodeMaj0C (z : Bool) (d a b : BitVec 7) (f : BitVec 4) : Except Reject Instr :=
  match ((f.extractLsb' 0 3)).toNat with
  | 0 => .ok (.shfl z d a b (f.extractLsb' 3 1))
  | 1 => .ok (.shflx z d a b (f.extractLsb' 3 1))
  | 2 => .ok (.shflu z d a b (f.extractLsb' 3 1))
  | 3 => .ok (.shfld z d a b (f.extractLsb' 3 1))
  | 4 => .ok (.bcst z d a b (f.extractLsb' 3 1))
  | 5 => .ok (.qswz z d a b (f.extractLsb' 3 1))
  | 6 => if b = 0#7 then .ok (.ballot z d a (f.extractLsb' 3 1)) else .error (.field false)
  | _ => if b = 0#7 then .ok (.vote z d a (f.extractLsb' 3 1)) else .error (.field false)

/-- MAJ 0x0D: redadd, redmin, redmax, redand, redor, redxor, scanadd, scanaddx. -/
def decodeMaj0D (z : Bool) (d a b : BitVec 7) (f : BitVec 4) : Except Reject Instr :=
  match ((f.extractLsb' 0 3)).toNat with
  | 0 => if b = 0#7 then .ok (.redadd z d a (f.extractLsb' 3 1)) else .error (.field false)
  | 1 => if b = 0#7 then .ok (.redmin z d a (f.extractLsb' 3 1)) else .error (.field false)
  | 2 => if b = 0#7 then .ok (.redmax z d a (f.extractLsb' 3 1)) else .error (.field false)
  | 3 => if b = 0#7 then .ok (.redand z d a (f.extractLsb' 3 1)) else .error (.field false)
  | 4 => if b = 0#7 then .ok (.redor z d a (f.extractLsb' 3 1)) else .error (.field false)
  | 5 => if b = 0#7 then .ok (.redxor z d a (f.extractLsb' 3 1)) else .error (.field false)
  | 6 => if b = 0#7 then .ok (.scanadd z d a (f.extractLsb' 3 1)) else .error (.field false)
  | _ => if b = 0#7 then .ok (.scanaddx z d a (f.extractLsb' 3 1)) else .error (.field false)

/-- MAJ 0x0E: rcp, rsq, sqrt, exp2, log2, sin, cos, tanh. -/
def decodeMaj0E (z : Bool) (d a b : BitVec 7) (f : BitVec 4) : Except Reject Instr :=
  match ((b.extractLsb' 4 3)).toNat with
  | 0 => if f = 0#4 then .ok (.rcp z d a (b.extractLsb' 0 4)) else .error .laField
  | 1 => if f = 0#4 then .ok (.rsq z d a (b.extractLsb' 0 4)) else .error .laField
  | 2 => if f = 0#4 then .ok (.sqrt z d a (b.extractLsb' 0 4)) else .error .laField
  | 3 => if f = 0#4 then .ok (.exp2 z d a (b.extractLsb' 0 4)) else .error .laField
  | 4 => if f = 0#4 then .ok (.log2 z d a (b.extractLsb' 0 4)) else .error .laField
  | 5 => if f = 0#4 then .ok (.sin z d a (b.extractLsb' 0 4)) else .error .laField
  | 6 => if f = 0#4 then .ok (.cos z d a (b.extractLsb' 0 4)) else .error .laField
  | _ => if f = 0#4 then .ok (.tanh z d a (b.extractLsb' 0 4)) else .error .laField

/-- MAJ 0x0F: sigm, erf, silu, atan. -/
def decodeMaj0F (z : Bool) (d a b : BitVec 7) (f : BitVec 4) : Except Reject Instr :=
  match ((b.extractLsb' 4 3)).toNat with
  | 0 => if f = 0#4 then .ok (.sigm z d a (b.extractLsb' 0 4)) else .error .laField
  | 1 => if f = 0#4 then .ok (.erf z d a (b.extractLsb' 0 4)) else .error .laField
  | 2 => if f = 0#4 then .ok (.silu z d a (b.extractLsb' 0 4)) else .error .laField
  | 3 => if f = 0#4 then .ok (.atan z d a (b.extractLsb' 0 4)) else .error .laField
  | _ => .error .func

/-- MAJ 0x10: mma. -/
def decodeMaj10 (z : Bool) (t : BitVec 3) (a b : BitVec 7) (v f : BitVec 4) : Except Reject Instr :=
  .ok (.mma z t a b v f)

/-- MAJ 0x11: mmat, mmatSp. -/
def decodeMaj11 (z : Bool) (t : BitVec 3) (a b : BitVec 7) (v f : BitVec 4) : Except Reject Instr :=
  match ((b.extractLsb' 6 1)).toNat with
  | 0 => .ok (.mmat z t a (b.extractLsb' 0 6) v f)
  | _ => .ok (.mmatSp z t a (b.extractLsb' 0 6) v f)

/-- MAJ 0x12: aclr, amovr, amovw, ascl. -/
def decodeMaj12 (z : Bool) (t : BitVec 3) (a b : BitVec 7) (v f : BitVec 4) : Except Reject Instr :=
  match (b).toNat with
  | 0 => if a = 0#7 then .ok (.aclr z t v f) else .error (.field false)
  | 1 => .ok (.amovr z t a v f)
  | 2 => .ok (.amovw z t a v f)
  | 3 => .ok (.ascl z t a v f)
  | _ => .error .func

/-- MAJ 0x13: stx. -/
def decodeMaj13 (z : Bool) (d a b : BitVec 7) (f : BitVec 4) : Except Reject Instr :=
  if (b.extractLsb' 6 1) = 0#1 then .ok (.stx z d a (b.extractLsb' 4 2) (b.extractLsb' 0 4) f) else .error (.field false)

/-- MAJ 0x14: ld. -/
def decodeMaj14 (z : Bool) (d a b : BitVec 7) (f : BitVec 4) : Except Reject Instr :=
  .ok (.ld z d a b f)

/-- MAJ 0x15: st. -/
def decodeMaj15 (z : Bool) (d a b : BitVec 7) (f : BitVec 4) : Except Reject Instr :=
  .ok (.st z d a b f)

/-- MAJ 0x16: ldv. -/
def decodeMaj16 (z : Bool) (d a b : BitVec 7) (f : BitVec 4) : Except Reject Instr :=
  .ok (.ldv z d a b f)

/-- MAJ 0x17: ldx. -/
def decodeMaj17 (z : Bool) (d a b : BitVec 7) (f : BitVec 4) : Except Reject Instr :=
  .ok (.ldx z d a (b.extractLsb' 6 1) (b.extractLsb' 4 2) (b.extractLsb' 0 4) f)

/-- MAJ 0x18: atomAdd, atomMin, atomMax, atomMinn, atomMaxn, atomAnd, atomOr, atomXor, atomXchg, atomCas, atomFadd, atomIncw, atomFmin. -/
def decodeMaj18 (z : Bool) (d a b : BitVec 7) (f : BitVec 4) : Except Reject Instr :=
  match ((b.extractLsb' 0 4)).toNat with
  | 0 => .ok (.atomAdd z d a (b.extractLsb' 4 3) f)
  | 1 => .ok (.atomMin z d a (b.extractLsb' 4 3) f)
  | 2 => .ok (.atomMax z d a (b.extractLsb' 4 3) f)
  | 3 => .ok (.atomMinn z d a (b.extractLsb' 4 3) f)
  | 4 => .ok (.atomMaxn z d a (b.extractLsb' 4 3) f)
  | 5 => .ok (.atomAnd z d a (b.extractLsb' 4 3) f)
  | 6 => .ok (.atomOr z d a (b.extractLsb' 4 3) f)
  | 7 => .ok (.atomXor z d a (b.extractLsb' 4 3) f)
  | 8 => .ok (.atomXchg z d a (b.extractLsb' 4 3) f)
  | 9 => .ok (.atomCas z d a (b.extractLsb' 4 3) f)
  | 10 => .ok (.atomFadd z d a (b.extractLsb' 4 3) f)
  | 11 => .ok (.atomIncw z d a (b.extractLsb' 4 3) f)
  | 12 => .ok (.atomFmin z d a (b.extractLsb' 4 3) f)
  | _ => .error .func

/-- MAJ 0x19: fput, fputT, ftake, ftakeN, fpeek, fclr. -/
def decodeMaj19 (z : Bool) (d a b : BitVec 7) (f : BitVec 4) : Except Reject Instr :=
  match ((b.extractLsb' 0 2)).toNat with
  | 0 =>
    match ((b.extractLsb' 2 1)).toNat with
    | 0 => if (b.extractLsb' 3 1) = 0#1 then .ok (.fput z d a (b.extractLsb' 4 3) f) else .error (.field false)
    | _ => if (b.extractLsb' 3 1) = 0#1 then .ok (.fputT z d a (b.extractLsb' 4 3) f) else .error (.field false)
  | 1 =>
    match ((b.extractLsb' 2 1)).toNat with
    | 0 => if (b.extractLsb' 3 1) = 0#1 then .ok (.ftake z d a (b.extractLsb' 4 3) f) else .error (.field false)
    | _ => if (b.extractLsb' 3 1) = 0#1 then .ok (.ftakeN z d a (b.extractLsb' 4 3) f) else .error (.field false)
  | 2 => if (b.extractLsb' 2 2) = 0#2 then .ok (.fpeek z d a (b.extractLsb' 4 3) f) else .error (.field false)
  | _ => if d = 0#7 ∧ (b.extractLsb' 2 2) = 0#2 then .ok (.fclr z a (b.extractLsb' 4 3) f) else .error (.field false)

/-- MAJ 0x1A: fenceAcq, fenceRel, fenceAr, fenceSc. -/
def decodeMaj1A (z : Bool) (d : BitVec 7) (s : BitVec 14) (f : BitVec 4) : Except Reject Instr :=
  match (f).toNat with
  | 0 =>
    match ((s.extractLsb' 3 2)).toNat with
    | 0 => if d = 0#7 ∧ (s.extractLsb' 7 7) = 0#7 ∧ (s.extractLsb' 5 1) = 0#1 then .ok (.fenceAcq z (s.extractLsb' 6 1) (s.extractLsb' 0 3)) else .error (.field false)
    | 1 => if d = 0#7 ∧ (s.extractLsb' 7 7) = 0#7 ∧ (s.extractLsb' 5 1) = 0#1 then .ok (.fenceRel z (s.extractLsb' 6 1) (s.extractLsb' 0 3)) else .error (.field false)
    | 2 => if d = 0#7 ∧ (s.extractLsb' 7 7) = 0#7 ∧ (s.extractLsb' 5 1) = 0#1 then .ok (.fenceAr z (s.extractLsb' 6 1) (s.extractLsb' 0 3)) else .error (.field false)
    | _ => if d = 0#7 ∧ (s.extractLsb' 7 7) = 0#7 ∧ (s.extractLsb' 5 1) = 0#1 then .ok (.fenceSc z (s.extractLsb' 6 1) (s.extractLsb' 0 3)) else .error (.field false)
  | _ => .error .func

/-- MAJ 0x1B: pref, pref2, clock1, clock2, cunlk1, cunlk2, cwb, cinv, cwbinv, isync. -/
def decodeMaj1B (z : Bool) (d a b : BitVec 7) (f : BitVec 4) : Except Reject Instr :=
  match ((b.extractLsb' 0 4)).toNat with
  | 0 => if d = 0#7 ∧ (b.extractLsb' 4 3) = 0#3 then .ok (.pref z a f) else .error (.field false)
  | 1 => if d = 0#7 ∧ (b.extractLsb' 4 3) = 0#3 then .ok (.pref2 z a f) else .error (.field false)
  | 2 => if (b.extractLsb' 4 3) = 0#3 then .ok (.clock1 z d a f) else .error (.field false)
  | 3 => if (b.extractLsb' 4 3) = 0#3 then .ok (.clock2 z d a f) else .error (.field false)
  | 4 => if d = 0#7 ∧ (b.extractLsb' 4 3) = 0#3 then .ok (.cunlk1 z a f) else .error (.field false)
  | 5 => if d = 0#7 ∧ (b.extractLsb' 4 3) = 0#3 then .ok (.cunlk2 z a f) else .error (.field false)
  | 6 => if d = 0#7 ∧ (b.extractLsb' 4 3) = 0#3 then .ok (.cwb z a f) else .error (.field false)
  | 7 => if d = 0#7 ∧ (b.extractLsb' 4 3) = 0#3 then .ok (.cinv z a f) else .error (.field false)
  | 8 => if d = 0#7 ∧ (b.extractLsb' 4 3) = 0#3 then .ok (.cwbinv z a f) else .error (.field false)
  | 9 => if d = 0#7 ∧ a = 0#7 ∧ (b.extractLsb' 4 3) = 0#3 then .ok (.isync z f) else .error (.field false)
  | _ => .error .func

/-- MAJ 0x1C: copy, ccvt, csum, cfill. -/
def decodeMaj1C (z : Bool) (d a b : BitVec 7) (f : BitVec 4) : Except Reject Instr :=
  match ((b.extractLsb' 0 3)).toNat with
  | 0 => .ok (.copy z d a (b.extractLsb' 4 3) (b.extractLsb' 3 1) f)
  | 1 => .ok (.ccvt z d a (b.extractLsb' 4 3) (b.extractLsb' 3 1) f)
  | 2 => .ok (.csum z d a (b.extractLsb' 4 3) (b.extractLsb' 3 1) f)
  | 3 => .ok (.cfill z d a (b.extractLsb' 4 3) (b.extractLsb' 3 1) f)
  | _ => .error .func

/-- MAJ 0x1D: agath. -/
def decodeMaj1D (z : Bool) (d a b : BitVec 7) (f : BitVec 4) : Except Reject Instr :=
  .ok (.agath z d a (b.extractLsb' 3 4) (b.extractLsb' 0 3) f)

/-- MAJ 0x1E: astp. -/
def decodeMaj1E (z : Bool) (d a b : BitVec 7) (f : BitVec 4) : Except Reject Instr :=
  if (b.extractLsb' 4 3) = 0#3 then .ok (.astp z d a (b.extractLsb' 0 4) f) else .error (.field false)

/-- MAJ 0x1F: togenL, togenS, togenC, fromgenL, fromgenS, fromgenC, isspc. -/
def decodeMaj1F (z : Bool) (d a b : BitVec 7) (f : BitVec 4) : Except Reject Instr :=
  match (f).toNat with
  | 0 => if b = 0#7 then .ok (.togenL z d a) else .error (.field false)
  | 1 => if b = 0#7 then .ok (.togenS z d a) else .error (.field false)
  | 2 => if b = 0#7 then .ok (.togenC z d a) else .error (.field false)
  | 3 => if b = 0#7 then .ok (.fromgenL z d a) else .error (.field false)
  | 4 => if b = 0#7 then .ok (.fromgenS z d a) else .error (.field false)
  | 5 => if b = 0#7 then .ok (.fromgenC z d a) else .error (.field false)
  | 6 => if b = 0#7 then .ok (.isspc z d a) else .error (.field false)
  | _ => .error .func

/-- MAJ 0x20: bra. -/
def decodeMaj20 (z : Bool) (o : BitVec 25) : Except Reject Instr :=
  .ok (.bra z o)

/-- MAJ 0x21: call. -/
def decodeMaj21 (z : Bool) (o : BitVec 25) : Except Reject Instr :=
  .ok (.call z o)

/-- MAJ 0x22: brw. -/
def decodeMaj22 (z : Bool) (a : BitVec 7) (o : BitVec 18) : Except Reject Instr :=
  .ok (.brw z a o)

/-- MAJ 0x23: brwz. -/
def decodeMaj23 (z : Bool) (a : BitVec 7) (o : BitVec 18) : Except Reject Instr :=
  .ok (.brwz z a o)

/-- MAJ 0x24: brd. -/
def decodeMaj24 (z : Bool) (a : BitVec 7) (o : BitVec 18) : Except Reject Instr :=
  .ok (.brd z a o)

/-- MAJ 0x25: jmpi, ret, calli. -/
def decodeMaj25 (z : Bool) (d : BitVec 7) (s : BitVec 14) (f : BitVec 4) : Except Reject Instr :=
  match (f).toNat with
  | 0 => if s = 0#14 then .ok (.jmpi z d) else .error (.field false)
  | 1 => if d = 0#7 ∧ s = 0#14 then .ok (.ret z) else .error (.field false)
  | 2 => if s = 0#14 then .ok (.calli z d) else .error (.field false)
  | _ => .error .func

/-- MAJ 0x26: ifW, ifS, elseW, endif, loops, brk, cont, endls. -/
def decodeMaj26 (z : Bool) (d : BitVec 7) (s : BitVec 14) (f : BitVec 4) : Except Reject Instr :=
  match (f).toNat with
  | 0 => .ok (.ifW z d s)
  | 1 => .ok (.ifS z d s)
  | 2 => if d = 0#7 then .ok (.elseW z s) else .error (.field false)
  | 3 => if d = 0#7 ∧ s = 0#14 then .ok (.endif z) else .error (.field false)
  | 4 => if d = 0#7 then .ok (.loops z s) else .error (.field false)
  | 5 => .ok (.brk z d s)
  | 6 => .ok (.cont z d s)
  | 7 => if d = 0#7 then .ok (.endls z s) else .error (.field false)
  | _ => .error .func

/-- MAJ 0x27: loop, lexit. -/
def decodeMaj27 (z : Bool) (d : BitVec 7) (s : BitVec 14) (f : BitVec 4) : Except Reject Instr :=
  match (f).toNat with
  | 0 => .ok (.loop z d s)
  | 1 => if s = 0#14 then .ok (.lexit z d) else .error (.field false)
  | _ => .error .func

/-- MAJ 0x28: rcv, rcvW. -/
def decodeMaj28 (z : Bool) (d : BitVec 7) (s : BitVec 14) (f : BitVec 4) : Except Reject Instr :=
  match (f).toNat with
  | 0 => if d = 0#7 then .ok (.rcv z s) else .error (.field false)
  | 1 => if d = 0#7 ∧ s = 0#14 then .ok (.rcvW z) else .error (.field false)
  | _ => .error .func

/-- MAJ 0x29: endW, trap, bkpt, eret, yield, role, sleep. -/
def decodeMaj29 (z : Bool) (d : BitVec 7) (s : BitVec 14) (f : BitVec 4) : Except Reject Instr :=
  match (f).toNat with
  | 0 => if d = 0#7 ∧ s = 0#14 then .ok (.endW z) else .error (.field false)
  | 1 => if d = 0#7 then .ok (.trap z s) else .error (.field false)
  | 2 => if d = 0#7 then .ok (.bkpt z s) else .error (.field false)
  | 3 => if d = 0#7 ∧ s = 0#14 then .ok (.eret z) else .error (.field false)
  | 4 => if s = 0#14 then .ok (.yield z d) else .error (.field false)
  | 5 => if d = 0#7 ∧ (s.extractLsb' 2 12) = 0#12 then .ok (.role z (s.extractLsb' 0 2)) else .error (.field false)
  | 6 => if d = 0#7 then .ok (.sleep z s) else .error (.field false)
  | _ => .error .func

/-- MAJ 0x2A: modeEt, modeEt2, modeRnd, modeSat, modeFtz, modeGuard, modeFreg, modeSpl, modeUtrap, modeWord. -/
def decodeMaj2A (z : Bool) (d : BitVec 7) (s : BitVec 14) (f : BitVec 4) : Except Reject Instr :=
  match (f).toNat with
  | 0 => if d = 0#7 ∧ (s.extractLsb' 4 10) = 0#10 then .ok (.modeEt z (s.extractLsb' 0 4)) else .error (.field false)
  | 1 => if d = 0#7 ∧ (s.extractLsb' 4 10) = 0#10 then .ok (.modeEt2 z (s.extractLsb' 0 4)) else .error (.field false)
  | 2 => if d = 0#7 ∧ (s.extractLsb' 3 11) = 0#11 then .ok (.modeRnd z (s.extractLsb' 0 3)) else .error (.field false)
  | 3 => if d = 0#7 ∧ (s.extractLsb' 1 13) = 0#13 then .ok (.modeSat z (s.extractLsb' 0 1)) else .error (.field false)
  | 4 => if d = 0#7 ∧ (s.extractLsb' 1 13) = 0#13 then .ok (.modeFtz z (s.extractLsb' 0 1)) else .error (.field false)
  | 5 => if d = 0#7 ∧ (s.extractLsb' 9 5) = 0#5 then .ok (.modeGuard z (s.extractLsb' 8 1) (s.extractLsb' 7 1) (s.extractLsb' 0 7)) else .error (.field false)
  | 6 => if d = 0#7 ∧ (s.extractLsb' 7 7) = 0#7 then .ok (.modeFreg z (s.extractLsb' 0 7)) else .error (.field false)
  | 7 => if d = 0#7 ∧ (s.extractLsb' 2 12) = 0#12 then .ok (.modeSpl z (s.extractLsb' 0 2)) else .error (.field false)
  | 8 => if d = 0#7 ∧ (s.extractLsb' 1 13) = 0#13 then .ok (.modeUtrap z (s.extractLsb' 0 1)) else .error (.field false)
  | 15 => if s = 0#14 then .ok (.modeWord z d) else .error (.field false)
  | _ => .error .func

/-- MAJ 0x2B: sread, swrite, gread, gwrite, gxchg, gadd. -/
def decodeMaj2B (z : Bool) (d : BitVec 7) (s : BitVec 14) (f : BitVec 4) : Except Reject Instr :=
  match (f).toNat with
  | 0 => .ok (.sread z d s)
  | 1 => .ok (.swrite z d s)
  | 2 => if (s.extractLsb' 5 9) = 0#9 then .ok (.gread z d (s.extractLsb' 0 5)) else .error (.field false)
  | 3 => if (s.extractLsb' 5 9) = 0#9 then .ok (.gwrite z d (s.extractLsb' 0 5)) else .error (.field false)
  | 4 => if (s.extractLsb' 5 9) = 0#9 then .ok (.gxchg z d (s.extractLsb' 0 5)) else .error (.field false)
  | 5 => if (s.extractLsb' 5 9) = 0#9 then .ok (.gadd z d (s.extractLsb' 0 5)) else .error (.field false)
  | _ => .error .func

/-- MAJ 0x2C: rgn, rgnadd. -/
def decodeMaj2C (z : Bool) (d : BitVec 7) (s : BitVec 14) (f : BitVec 4) : Except Reject Instr :=
  match (f).toNat with
  | 0 => .ok (.rgn z d s)
  | 1 => .ok (.rgnadd z d s)
  | _ => .error .func

/-- MAJ 0x2D: waitt, wpwait, dwait, vwait, sleepw. -/
def decodeMaj2D (z : Bool) (d : BitVec 7) (s : BitVec 14) (f : BitVec 4) : Except Reject Instr :=
  match (f).toNat with
  | 0 => if d = 0#7 then .ok (.waitt z s) else .error (.field false)
  | 1 => if (s.extractLsb' 4 10) = 0#10 then .ok (.wpwait z d (s.extractLsb' 0 4)) else .error (.field false)
  | 2 => if (s.extractLsb' 1 13) = 0#13 then .ok (.dwait z d (s.extractLsb' 0 1)) else .error (.field false)
  | 3 => if d = 0#7 ∧ (s.extractLsb' 7 7) = 0#7 then .ok (.vwait z (s.extractLsb' 3 4) (s.extractLsb' 0 3)) else .error (.field false)
  | 4 => if s = 0#14 then .ok (.sleepw z d) else .error (.field false)
  | _ => .error .func

/-- MAJ 0x2E: bar, barp, bara, barw, barb, cstg. -/
def decodeMaj2E (z : Bool) (d : BitVec 7) (s : BitVec 14) (f : BitVec 4) : Except Reject Instr :=
  match (f).toNat with
  | 0 => if (s.extractLsb' 4 10) = 0#10 then .ok (.bar z d (s.extractLsb' 0 4)) else .error (.field false)
  | 1 => if (s.extractLsb' 4 10) = 0#10 then .ok (.barp z d (s.extractLsb' 0 4)) else .error (.field false)
  | 2 => if (s.extractLsb' 4 10) = 0#10 then .ok (.bara z d (s.extractLsb' 0 4)) else .error (.field false)
  | 3 => if d = 120#7 ∧ (s.extractLsb' 4 10) = 0#10 then .ok (.barw z (s.extractLsb' 0 4)) else (if (s.extractLsb' 4 10) ≠ 0#10 ∨ 0x60#7 ≤ d ∧ d < 0x78#7 ∨ d = 0x7A#7 then .error (.field false) else .error .operand)
  | 4 => .ok (.barb z d s)
  | 5 => if s = 0#14 then .ok (.cstg z d) else .error (.field false)
  | _ => .error .func

/-- MAJ 0x2F: dinit, dexp, darr, dqry. -/
def decodeMaj2F (z : Bool) (d a b : BitVec 7) (f : BitVec 4) : Except Reject Instr :=
  match ((b.extractLsb' 0 3)).toNat with
  | 0 => if (b.extractLsb' 3 4) = 0#4 then .ok (.dinit z d a f) else .error (.field false)
  | 1 => if (b.extractLsb' 3 4) = 0#4 then .ok (.dexp z d a f) else .error (.field false)
  | 2 => if (b.extractLsb' 3 4) = 0#4 then .ok (.darr z d a f) else .error (.field false)
  | 3 => if (b.extractLsb' 3 4) = 0#4 then .ok (.dqry z d a f) else .error (.field false)
  | _ => .error .func

/-- MAJ 0x30: time, pmcrd, pmcwr, accv, wprd, cycle. -/
def decodeMaj30 (z : Bool) (d : BitVec 7) (s : BitVec 14) (f : BitVec 4) : Except Reject Instr :=
  match (f).toNat with
  | 0 => if s = 0#14 then .ok (.time z d) else .error (.field false)
  | 1 => if (s.extractLsb' 3 11) = 0#11 then .ok (.pmcrd z d (s.extractLsb' 0 3)) else .error (.field false)
  | 2 => if (s.extractLsb' 3 11) = 0#11 then .ok (.pmcwr z d (s.extractLsb' 0 3)) else .error (.field true)
  | 3 => if (s.extractLsb' 3 11) = 0#11 then .ok (.accv z d (s.extractLsb' 0 3)) else .error (.field false)
  | 4 => if (s.extractLsb' 4 10) = 0#10 then .ok (.wprd z d (s.extractLsb' 0 4)) else .error (.field false)
  | 5 => if s = 0#14 then .ok (.cycle z d) else .error (.field false)
  | _ => .error .func

/-- MAJ 0x31: launch, launchb. -/
def decodeMaj31 (z : Bool) (d a b : BitVec 7) (f : BitVec 4) : Except Reject Instr :=
  match (b).toNat with
  | 0 => .ok (.launch z d a f)
  | 1 => .ok (.launchb z d a f)
  | _ => .error .func

/-- MAJ 0x32: enqr, rqflush, rqstat. -/
def decodeMaj32 (z : Bool) (d a b : BitVec 7) (f : BitVec 4) : Except Reject Instr :=
  match (b).toNat with
  | 0 => .ok (.enqr z d a f)
  | 1 => .ok (.rqflush z d a f)
  | 2 => .ok (.rqstat z d a f)
  | _ => .error .func

/-- MAJ 0x33: evpost, cpoll, csleep, signal. -/
def decodeMaj33 (z : Bool) (d a b : BitVec 7) (f : BitVec 4) : Except Reject Instr :=
  match (b).toNat with
  | 0 => .ok (.evpost z d a f)
  | 1 => .ok (.cpoll z d a f)
  | 2 => .ok (.csleep z d a f)
  | 3 => .ok (.signal z d a f)
  | _ => .error .func

/-- MAJ 0x34: xpair. -/
def decodeMaj34 (z : Bool) (d a b : BitVec 7) (f : BitVec 4) : Except Reject Instr :=
  match ((b.extractLsb' 4 3)).toNat with
  | 0 => .ok (.xpair z d a (b.extractLsb' 3 1) (b.extractLsb' 2 1) (b.extractLsb' 1 1) (b.extractLsb' 0 1) f)
  | _ => .error .func

/-- MAJ 0x35: xray. -/
def decodeMaj35 (z : Bool) (d a b : BitVec 7) (f : BitVec 4) : Except Reject Instr :=
  match ((b.extractLsb' 2 5)).toNat with
  | 0 => .ok (.xray z d a (b.extractLsb' 1 1) (b.extractLsb' 0 1) f)
  | _ => .error .func

/-- MAJ 0x36: texSample, texGath4, texLoadi, texQuery. -/
def decodeMaj36 (z : Bool) (d a b : BitVec 7) (f : BitVec 4) : Except Reject Instr :=
  match ((b.extractLsb' 4 3)).toNat with
  | 0 => .ok (.texSample z d a (b.extractLsb' 0 4) f)
  | 1 => .ok (.texGath4 z d a (b.extractLsb' 0 4) f)
  | 2 => .ok (.texLoadi z d a (b.extractLsb' 0 4) f)
  | 3 => .ok (.texQuery z d a (b.extractLsb' 0 4) f)
  | _ => .error .func

/-- MAJ 0x37: cover, edge, pxtk, pxlk, pxul, vemit, tsemit. -/
def decodeMaj37 (z : Bool) (d a b : BitVec 7) (f : BitVec 4) : Except Reject Instr :=
  match (f).toNat with
  | 0 => .ok (.cover z d a b)
  | 1 => if b = 0#7 then .ok (.edge z d a) else .error (.field false)
  | 2 => if b = 0#7 then .ok (.pxtk z d a) else .error (.field false)
  | 3 => if d = 0#7 then .ok (.pxlk z a b) else .error (.field false)
  | 4 => if d = 0#7 then .ok (.pxul z a b) else .error (.field false)
  | 5 => if b = 0#7 then .ok (.vemit z d a) else .error (.field false)
  | 6 => if b = 0#7 then .ok (.tsemit z d a) else .error (.field false)
  | _ => .error .func

/-- MAJ 0x38: atr, atw, tlbinv, tlbinva. -/
def decodeMaj38 (z : Bool) (d a b : BitVec 7) (f : BitVec 4) : Except Reject Instr :=
  match (b).toNat with
  | 0 => .ok (.atr z d a f)
  | 1 => .ok (.atw z d a f)
  | 8 => .ok (.tlbinv z d a f)
  | 9 => if a = 0#7 then .ok (.tlbinva z d f) else .error (.field true)
  | _ => .error .func

/-- MAJ 0x39: qfetch, qdisp, swaitc, keyopGen, keyopBind, keyopUnbind, keyopZero, keyopZeroall, keyopSign, fuserd, wipe, shadow, measx. -/
def decodeMaj39 (z : Bool) (d : BitVec 7) (s : BitVec 14) (f : BitVec 4) : Except Reject Instr :=
  match (f).toNat with
  | 0 => if (s.extractLsb' 10 4) = 0#4 then .ok (.qfetch z d (s.extractLsb' 0 10)) else .error (.field true)
  | 1 => if (s.extractLsb' 4 10) = 0#10 then .ok (.qdisp z d (s.extractLsb' 3 1) (s.extractLsb' 0 3)) else .error (.field true)
  | 2 => .ok (.swaitc z d (s.extractLsb' 2 12) (s.extractLsb' 0 2))
  | 3 =>
    match ((s.extractLsb' 0 4)).toNat with
    | 0 => if (s.extractLsb' 11 3) = 0#3 then .ok (.keyopGen z d (s.extractLsb' 8 3) (s.extractLsb' 4 4)) else .error (.field true)
    | 1 => if (s.extractLsb' 11 3) = 0#3 then .ok (.keyopBind z d (s.extractLsb' 8 3) (s.extractLsb' 4 4)) else .error (.field true)
    | 2 => if (s.extractLsb' 11 3) = 0#3 then .ok (.keyopUnbind z d (s.extractLsb' 8 3) (s.extractLsb' 4 4)) else .error (.field true)
    | 3 => if (s.extractLsb' 11 3) = 0#3 then .ok (.keyopZero z d (s.extractLsb' 8 3) (s.extractLsb' 4 4)) else .error (.field true)
    | 4 => if (s.extractLsb' 11 3) = 0#3 then .ok (.keyopZeroall z d (s.extractLsb' 8 3) (s.extractLsb' 4 4)) else .error (.field true)
    | 5 => if (s.extractLsb' 11 3) = 0#3 then .ok (.keyopSign z d (s.extractLsb' 8 3) (s.extractLsb' 4 4)) else .error (.field true)
    | _ => .error (.field true)
  | 4 => if (s.extractLsb' 10 4) = 0#4 then .ok (.fuserd z d (s.extractLsb' 0 10)) else .error (.field true)
  | 5 => if d = 0#7 ∧ (s.extractLsb' 3 11) = 0#11 then .ok (.wipe z (s.extractLsb' 0 3)) else .error (.field true)
  | 6 => if d = 0#7 ∧ (s.extractLsb' 4 10) = 0#10 then .ok (.shadow z (s.extractLsb' 3 1) (s.extractLsb' 0 3)) else .error (.field true)
  | 7 => if (s.extractLsb' 4 10) = 0#10 then .ok (.measx z d (s.extractLsb' 0 4)) else .error (.field true)
  | _ => .error .func

/-- MAJ 0x3E: KXW. A set B, or a nonzero bit of K25[24:7], is a case of R84. -/
def decodeMaj3E (z : Bool) (o : BitVec 25) : Except Reject Instr :=
  if z = false ∧ o.extractLsb' 7 18 = 0#18 then .ok (.kxw (o.extractLsb' 0 7)) else .error .pfx

/-- MAJ 0x3F: KX. A set B is a case of R84. -/
def decodeMaj3F (z : Bool) (o : BitVec 25) : Except Reject Instr :=
  if z = false then .ok (.kx o) else .error .pfx

/-- The instruction a word stands for, or why it is none (R89, steps 1, 2 and 4 as far as the word alone decides). -/
def decode (w : Word) : Except Reject Instr :=
  match (fieldMaj w).toNat with
  | 0x00 => decodeMaj00 (fieldZ w) (fieldO25 w)
  | 0x01 => decodeMaj01 (fieldZ w) (fieldD w) (fieldA w) (fieldB w) (fieldF w)
  | 0x02 => decodeMaj02 (fieldZ w) (fieldD w) (fieldA w) (fieldB w) (fieldF w)
  | 0x03 => decodeMaj03 (fieldZ w) (fieldD w) (fieldA w) (fieldB w) (fieldF w)
  | 0x04 => decodeMaj04 (fieldZ w) (fieldD w) (fieldA w) (fieldB w) (fieldF w)
  | 0x05 => decodeMaj05 (fieldZ w) (fieldD w) (fieldA w) (fieldB w) (fieldF w)
  | 0x06 => decodeMaj06 (fieldZ w) (fieldD w) (fieldA w) (fieldB w) (fieldF w)
  | 0x07 => decodeMaj07 (fieldZ w) (fieldD w) (fieldA w) (fieldB w) (fieldF w)
  | 0x08 => decodeMaj08 (fieldZ w) (fieldD w) (fieldA w) (fieldB w) (fieldF w)
  | 0x09 => decodeMaj09 (fieldZ w) (fieldD w) (fieldA w) (fieldB w) (fieldF w)
  | 0x0A => decodeMaj0A (fieldZ w) (fieldD w) (fieldA w) (fieldB w) (fieldF w)
  | 0x0B => decodeMaj0B (fieldZ w) (fieldD w) (fieldA w) (fieldB w) (fieldF w)
  | 0x0C => decodeMaj0C (fieldZ w) (fieldD w) (fieldA w) (fieldB w) (fieldF w)
  | 0x0D => decodeMaj0D (fieldZ w) (fieldD w) (fieldA w) (fieldB w) (fieldF w)
  | 0x0E => decodeMaj0E (fieldZ w) (fieldD w) (fieldA w) (fieldB w) (fieldF w)
  | 0x0F => decodeMaj0F (fieldZ w) (fieldD w) (fieldA w) (fieldB w) (fieldF w)
  | 0x10 => decodeMaj10 (fieldZ w) (fieldT w) (fieldMA w) (fieldMB w) (fieldMV w) (fieldF w)
  | 0x11 => decodeMaj11 (fieldZ w) (fieldT w) (fieldMA w) (fieldMB w) (fieldMV w) (fieldF w)
  | 0x12 => decodeMaj12 (fieldZ w) (fieldT w) (fieldMA w) (fieldMB w) (fieldMV w) (fieldF w)
  | 0x13 => decodeMaj13 (fieldZ w) (fieldD w) (fieldA w) (fieldB w) (fieldF w)
  | 0x14 => decodeMaj14 (fieldZ w) (fieldD w) (fieldA w) (fieldB w) (fieldF w)
  | 0x15 => decodeMaj15 (fieldZ w) (fieldD w) (fieldA w) (fieldB w) (fieldF w)
  | 0x16 => decodeMaj16 (fieldZ w) (fieldD w) (fieldA w) (fieldB w) (fieldF w)
  | 0x17 => decodeMaj17 (fieldZ w) (fieldD w) (fieldA w) (fieldB w) (fieldF w)
  | 0x18 => decodeMaj18 (fieldZ w) (fieldD w) (fieldA w) (fieldB w) (fieldF w)
  | 0x19 => decodeMaj19 (fieldZ w) (fieldD w) (fieldA w) (fieldB w) (fieldF w)
  | 0x1A => decodeMaj1A (fieldZ w) (fieldD w) (fieldSel w) (fieldF w)
  | 0x1B => decodeMaj1B (fieldZ w) (fieldD w) (fieldA w) (fieldB w) (fieldF w)
  | 0x1C => decodeMaj1C (fieldZ w) (fieldD w) (fieldA w) (fieldB w) (fieldF w)
  | 0x1D => decodeMaj1D (fieldZ w) (fieldD w) (fieldA w) (fieldB w) (fieldF w)
  | 0x1E => decodeMaj1E (fieldZ w) (fieldD w) (fieldA w) (fieldB w) (fieldF w)
  | 0x1F => decodeMaj1F (fieldZ w) (fieldD w) (fieldA w) (fieldB w) (fieldF w)
  | 0x20 => decodeMaj20 (fieldZ w) (fieldO25 w)
  | 0x21 => decodeMaj21 (fieldZ w) (fieldO25 w)
  | 0x22 => decodeMaj22 (fieldZ w) (fieldD w) (fieldO18 w)
  | 0x23 => decodeMaj23 (fieldZ w) (fieldD w) (fieldO18 w)
  | 0x24 => decodeMaj24 (fieldZ w) (fieldD w) (fieldO18 w)
  | 0x25 => decodeMaj25 (fieldZ w) (fieldD w) (fieldSel w) (fieldF w)
  | 0x26 => decodeMaj26 (fieldZ w) (fieldD w) (fieldSel w) (fieldF w)
  | 0x27 => decodeMaj27 (fieldZ w) (fieldD w) (fieldSel w) (fieldF w)
  | 0x28 => decodeMaj28 (fieldZ w) (fieldD w) (fieldSel w) (fieldF w)
  | 0x29 => decodeMaj29 (fieldZ w) (fieldD w) (fieldSel w) (fieldF w)
  | 0x2A => decodeMaj2A (fieldZ w) (fieldD w) (fieldSel w) (fieldF w)
  | 0x2B => decodeMaj2B (fieldZ w) (fieldD w) (fieldSel w) (fieldF w)
  | 0x2C => decodeMaj2C (fieldZ w) (fieldD w) (fieldSel w) (fieldF w)
  | 0x2D => decodeMaj2D (fieldZ w) (fieldD w) (fieldSel w) (fieldF w)
  | 0x2E => decodeMaj2E (fieldZ w) (fieldD w) (fieldSel w) (fieldF w)
  | 0x2F => decodeMaj2F (fieldZ w) (fieldD w) (fieldA w) (fieldB w) (fieldF w)
  | 0x30 => decodeMaj30 (fieldZ w) (fieldD w) (fieldSel w) (fieldF w)
  | 0x31 => decodeMaj31 (fieldZ w) (fieldD w) (fieldA w) (fieldB w) (fieldF w)
  | 0x32 => decodeMaj32 (fieldZ w) (fieldD w) (fieldA w) (fieldB w) (fieldF w)
  | 0x33 => decodeMaj33 (fieldZ w) (fieldD w) (fieldA w) (fieldB w) (fieldF w)
  | 0x34 => decodeMaj34 (fieldZ w) (fieldD w) (fieldA w) (fieldB w) (fieldF w)
  | 0x35 => decodeMaj35 (fieldZ w) (fieldD w) (fieldA w) (fieldB w) (fieldF w)
  | 0x36 => decodeMaj36 (fieldZ w) (fieldD w) (fieldA w) (fieldB w) (fieldF w)
  | 0x37 => decodeMaj37 (fieldZ w) (fieldD w) (fieldA w) (fieldB w) (fieldF w)
  | 0x38 => decodeMaj38 (fieldZ w) (fieldD w) (fieldA w) (fieldB w) (fieldF w)
  | 0x39 => decodeMaj39 (fieldZ w) (fieldD w) (fieldSel w) (fieldF w)
  | 0x3E => decodeMaj3E (fieldZ w) (fieldO25 w)
  | 0x3F => decodeMaj3F (fieldZ w) (fieldO25 w)
  | _ => .error .major

/-! ## The encoder -/

/-- The word of an instruction; `none` for an event, which has no word. -/
def encode : Instr → Option Word
  | .nop z => some (wordJ25 z 0x00#6 0#25)
  | .iadd z d a b => some (wordA z 0x01#6 d a b 0#4)
  | .isub z d a b => some (wordA z 0x01#6 d a b 1#4)
  | .imul z d a b => some (wordA z 0x01#6 d a b 2#4)
  | .imulh z d a b => some (wordA z 0x01#6 d a b 3#4)
  | .imin z d a b => some (wordA z 0x01#6 d a b 4#4)
  | .imax z d a b => some (wordA z 0x01#6 d a b 5#4)
  | .ineg z d a => some (wordA z 0x01#6 d a 0#7 6#4)
  | .iabs z d a => some (wordA z 0x01#6 d a 0#7 7#4)
  | .and z d a b => some (wordA z 0x01#6 d a b 8#4)
  | .or z d a b => some (wordA z 0x01#6 d a b 9#4)
  | .xor z d a b => some (wordA z 0x01#6 d a b 10#4)
  | .andn z d a b => some (wordA z 0x01#6 d a b 11#4)
  | .shl z d a b => some (wordA z 0x01#6 d a b 12#4)
  | .shr z d a b => some (wordA z 0x01#6 d a b 13#4)
  | .sar z d a b => some (wordA z 0x01#6 d a b 14#4)
  | .rot z d a b => some (wordA z 0x01#6 d a b 15#4)
  | .clz z d a => some (wordA z 0x02#6 d a 0#7 0#4)
  | .ctz z d a => some (wordA z 0x02#6 d a 0#7 1#4)
  | .popc z d a => some (wordA z 0x02#6 d a 0#7 2#4)
  | .brev z d a => some (wordA z 0x02#6 d a 0#7 3#4)
  | .bil3 z d a b => some (wordA z 0x02#6 d a b 4#4)
  | .bdil3 z d a b => some (wordA z 0x02#6 d a b 5#4)
  | .bil2 z d a b => some (wordA z 0x02#6 d a b 6#4)
  | .bdil2 z d a => some (wordA z 0x02#6 d a 0#7 7#4)
  | .bfx z d a b => some (wordA z 0x02#6 d a b 8#4)
  | .bfxs z d a b => some (wordA z 0x02#6 d a b 9#4)
  | .bfi z d a b => some (wordA z 0x02#6 d a b 10#4)
  | .mov z d a => some (wordA z 0x02#6 d a 0#7 11#4)
  | .sel z d a b => some (wordA z 0x02#6 d a b 12#4)
  | .perm z d a b => some (wordA z 0x02#6 d a b 13#4)
  | .imad z d a b => some (wordA z 0x03#6 d a b 0#4)
  | .imadh z d a b => some (wordA z 0x03#6 d a b 1#4)
  | .idot4 z d a b => some (wordA z 0x03#6 d a b 2#4)
  | .isad z d a b => some (wordA z 0x03#6 d a b 3#4)
  | .icmpEq z d a b => some (wordA z 0x04#6 d a b 0#4)
  | .icmpNe z d a b => some (wordA z 0x04#6 d a b 1#4)
  | .icmpLt z d a b => some (wordA z 0x04#6 d a b 2#4)
  | .icmpLe z d a b => some (wordA z 0x04#6 d a b 3#4)
  | .icmpGt z d a b => some (wordA z 0x04#6 d a b 4#4)
  | .icmpGe z d a b => some (wordA z 0x04#6 d a b 5#4)
  | .icmpLtn z d a b => some (wordA z 0x04#6 d a b 6#4)
  | .icmpLen z d a b => some (wordA z 0x04#6 d a b 7#4)
  | .icmpGtn z d a b => some (wordA z 0x04#6 d a b 8#4)
  | .icmpGen z d a b => some (wordA z 0x04#6 d a b 9#4)
  | .icmpTstz z d a b => some (wordA z 0x04#6 d a b 10#4)
  | .icmpTstnz z d a b => some (wordA z 0x04#6 d a b 11#4)
  | .add64 z d a b => some (wordA z 0x05#6 d a b 0#4)
  | .sub64 z d a b => some (wordA z 0x05#6 d a b 1#4)
  | .lea1 z d a b => some (wordA z 0x05#6 d a b 2#4)
  | .lea2 z d a b => some (wordA z 0x05#6 d a b 3#4)
  | .lea4 z d a b => some (wordA z 0x05#6 d a b 4#4)
  | .lea8 z d a b => some (wordA z 0x05#6 d a b 5#4)
  | .lea16 z d a b => some (wordA z 0x05#6 d a b 6#4)
  | .mov64 z d a => some (wordA z 0x05#6 d a 0#7 7#4)
  | .shl64 z d a b => some (wordA z 0x05#6 d a b 8#4)
  | .shr64 z d a b => some (wordA z 0x05#6 d a b 9#4)
  | .modeEt z e => some (wordS z 0x2A#6 0#7 (0#10 ++ e) 0#4)
  | .modeEt2 z e => some (wordS z 0x2A#6 0#7 (0#10 ++ e) 1#4)
  | .modeRnd z e => some (wordS z 0x2A#6 0#7 (0#11 ++ e) 2#4)
  | .modeSat z e => some (wordS z 0x2A#6 0#7 (0#13 ++ e) 3#4)
  | .modeFtz z e => some (wordS z 0x2A#6 0#7 (0#13 ++ e) 4#4)
  | .modeGuard z g p r => some (wordS z 0x2A#6 0#7 (0#5 ++ g ++ p ++ r) 5#4)
  | .modeFreg z r => some (wordS z 0x2A#6 0#7 (0#7 ++ r) 6#4)
  | .modeSpl z e => some (wordS z 0x2A#6 0#7 (0#12 ++ e) 7#4)
  | .modeUtrap z e => some (wordS z 0x2A#6 0#7 (0#13 ++ e) 8#4)
  | .modeWord z d => some (wordS z 0x2A#6 d 0#14 15#4)
  | .sread z d e => some (wordS z 0x2B#6 d e 0#4)
  | .swrite z d e => some (wordS z 0x2B#6 d e 1#4)
  | .gread z d k => some (wordS z 0x2B#6 d (0#9 ++ k) 2#4)
  | .gwrite z d k => some (wordS z 0x2B#6 d (0#9 ++ k) 3#4)
  | .gxchg z d k => some (wordS z 0x2B#6 d (0#9 ++ k) 4#4)
  | .gadd z d k => some (wordS z 0x2B#6 d (0#9 ++ k) 5#4)
  | .rgn z a i => some (wordS z 0x2C#6 a i 0#4)
  | .rgnadd z a i => some (wordS z 0x2C#6 a i 1#4)
  | .kx k => some (wordJ25 false 0x3F#6 k)
  | .kxw k => some (wordJ25 false 0x3E#6 (0#18 ++ k))
  | .fadd z d a b => some (wordA z 0x06#6 d a b 0#4)
  | .fsub z d a b => some (wordA z 0x06#6 d a b 1#4)
  | .fmul z d a b => some (wordA z 0x06#6 d a b 2#4)
  | .fmin z d a b => some (wordA z 0x06#6 d a b 3#4)
  | .fmax z d a b => some (wordA z 0x06#6 d a b 4#4)
  | .fabs z d a => some (wordA z 0x06#6 d a 0#7 5#4)
  | .fneg z d a => some (wordA z 0x06#6 d a 0#7 6#4)
  | .fcls z d a => some (wordA z 0x06#6 d a 0#7 7#4)
  | .fminm z d a b => some (wordA z 0x06#6 d a b 8#4)
  | .fmaxm z d a b => some (wordA z 0x06#6 d a b 9#4)
  | .frnd z d a => some (wordA z 0x06#6 d a 0#7 10#4)
  | .fscl z d a b => some (wordA z 0x06#6 d a b 11#4)
  | .fcpy z d a b => some (wordA z 0x06#6 d a b 12#4)
  | .ffma z d a b => some (wordA z 0x07#6 d a b 0#4)
  | .ffms z d a b => some (wordA z 0x07#6 d a b 1#4)
  | .fnma z d a b => some (wordA z 0x07#6 d a b 2#4)
  | .fcmpEq z d a b => some (wordA z 0x08#6 d a b 0#4)
  | .fcmpNe z d a b => some (wordA z 0x08#6 d a b 1#4)
  | .fcmpLt z d a b => some (wordA z 0x08#6 d a b 2#4)
  | .fcmpLe z d a b => some (wordA z 0x08#6 d a b 3#4)
  | .fcmpGt z d a b => some (wordA z 0x08#6 d a b 4#4)
  | .fcmpGe z d a b => some (wordA z 0x08#6 d a b 5#4)
  | .fcmpUn z d a b => some (wordA z 0x08#6 d a b 6#4)
  | .fcmpOrd z d a b => some (wordA z 0x08#6 d a b 7#4)
  | .cvt z d a => some (wordA z 0x09#6 d a 0#7 0#4)
  | .cvtz z d a => some (wordA z 0x09#6 d a 0#7 1#4)
  | .cvts z d a => some (wordA z 0x09#6 d a 0#7 2#4)
  | .pack2 z d a b => some (wordA z 0x09#6 d a b 3#4)
  | .unpk z d a => some (wordA z 0x09#6 d a 0#7 4#4)
  | .unpkh z d a => some (wordA z 0x09#6 d a 0#7 5#4)
  | .nrw z d a b x k => some (wordA z 0x0A#6 d a b (x ++ 0#1 ++ k))
  | .wide z d a b => some (wordA z 0x0B#6 d a b 0#4)
  | .wide4 z d a b => some (wordA z 0x0B#6 d a b 1#4)
  | .scaleof z d a => some (wordA z 0x0B#6 d a 0#7 2#4)
  | .setsc z d a => some (wordA z 0x0B#6 d a 0#7 3#4)
  | .shfl z d a b p => some (wordA z 0x0C#6 d a b (p ++ 0#3))
  | .shflx z d a b p => some (wordA z 0x0C#6 d a b (p ++ 1#3))
  | .shflu z d a b p => some (wordA z 0x0C#6 d a b (p ++ 2#3))
  | .shfld z d a b p => some (wordA z 0x0C#6 d a b (p ++ 3#3))
  | .bcst z d a b p => some (wordA z 0x0C#6 d a b (p ++ 4#3))
  | .qswz z d a b p => some (wordA z 0x0C#6 d a b (p ++ 5#3))
  | .ballot z d a p => some (wordA z 0x0C#6 d a 0#7 (p ++ 6#3))
  | .vote z d a p => some (wordA z 0x0C#6 d a 0#7 (p ++ 7#3))
  | .redadd z d a p => some (wordA z 0x0D#6 d a 0#7 (p ++ 0#3))
  | .redmin z d a p => some (wordA z 0x0D#6 d a 0#7 (p ++ 1#3))
  | .redmax z d a p => some (wordA z 0x0D#6 d a 0#7 (p ++ 2#3))
  | .redand z d a p => some (wordA z 0x0D#6 d a 0#7 (p ++ 3#3))
  | .redor z d a p => some (wordA z 0x0D#6 d a 0#7 (p ++ 4#3))
  | .redxor z d a p => some (wordA z 0x0D#6 d a 0#7 (p ++ 5#3))
  | .scanadd z d a p => some (wordA z 0x0D#6 d a 0#7 (p ++ 6#3))
  | .scanaddx z d a p => some (wordA z 0x0D#6 d a 0#7 (p ++ 7#3))
  | .rcp z d a k => some (wordA z 0x0E#6 d a (0#3 ++ k) 0#4)
  | .rsq z d a k => some (wordA z 0x0E#6 d a (1#3 ++ k) 0#4)
  | .sqrt z d a k => some (wordA z 0x0E#6 d a (2#3 ++ k) 0#4)
  | .exp2 z d a k => some (wordA z 0x0E#6 d a (3#3 ++ k) 0#4)
  | .log2 z d a k => some (wordA z 0x0E#6 d a (4#3 ++ k) 0#4)
  | .sin z d a k => some (wordA z 0x0E#6 d a (5#3 ++ k) 0#4)
  | .cos z d a k => some (wordA z 0x0E#6 d a (6#3 ++ k) 0#4)
  | .tanh z d a k => some (wordA z 0x0E#6 d a (7#3 ++ k) 0#4)
  | .sigm z d a k => some (wordA z 0x0F#6 d a (0#3 ++ k) 0#4)
  | .erf z d a k => some (wordA z 0x0F#6 d a (1#3 ++ k) 0#4)
  | .silu z d a k => some (wordA z 0x0F#6 d a (2#3 ++ k) 0#4)
  | .atan z d a k => some (wordA z 0x0F#6 d a (3#3 ++ k) 0#4)
  | .sfnResult _ _ _ => none
  | .mma z t a b v l => some (wordM z 0x10#6 t a b v l)
  | .mmat z t a b v l => some (wordM z 0x11#6 t a (0#1 ++ b) v l)
  | .mmatSp z t a b v l => some (wordM z 0x11#6 t a (1#1 ++ b) v l)
  | .aclr z t v l => some (wordM z 0x12#6 t 0#7 0#7 v l)
  | .amovr z t a v l => some (wordM z 0x12#6 t a 1#7 v l)
  | .amovw z t a v l => some (wordM z 0x12#6 t a 2#7 v l)
  | .ascl z t a v l => some (wordM z 0x12#6 t a 3#7 v l)
  | .matrixComplete _ _ => none
  | .ld z d a b l => some (wordA z 0x14#6 d a b l)
  | .st z d a b l => some (wordA z 0x15#6 d a b l)
  | .ldv z d a b l => some (wordA z 0x16#6 d a b l)
  | .ldx z d a i h n l => some (wordA z 0x17#6 d a (i ++ h ++ n) l)
  | .stx z d a h n l => some (wordA z 0x13#6 d a (0#1 ++ h ++ n) l)
  | .loadWriteback _ _ _ => none
  | .atomAdd z d a c l => some (wordA z 0x18#6 d a (c ++ 0#4) l)
  | .atomMin z d a c l => some (wordA z 0x18#6 d a (c ++ 1#4) l)
  | .atomMax z d a c l => some (wordA z 0x18#6 d a (c ++ 2#4) l)
  | .atomMinn z d a c l => some (wordA z 0x18#6 d a (c ++ 3#4) l)
  | .atomMaxn z d a c l => some (wordA z 0x18#6 d a (c ++ 4#4) l)
  | .atomAnd z d a c l => some (wordA z 0x18#6 d a (c ++ 5#4) l)
  | .atomOr z d a c l => some (wordA z 0x18#6 d a (c ++ 6#4) l)
  | .atomXor z d a c l => some (wordA z 0x18#6 d a (c ++ 7#4) l)
  | .atomXchg z d a c l => some (wordA z 0x18#6 d a (c ++ 8#4) l)
  | .atomCas z d a c l => some (wordA z 0x18#6 d a (c ++ 9#4) l)
  | .atomFadd z d a c l => some (wordA z 0x18#6 d a (c ++ 10#4) l)
  | .atomIncw z d a c l => some (wordA z 0x18#6 d a (c ++ 11#4) l)
  | .atomFmin z d a c l => some (wordA z 0x18#6 d a (c ++ 12#4) l)
  | .fput z d a c l => some (wordA z 0x19#6 d a (c ++ 0#4) l)
  | .fputT z d a c l => some (wordA z 0x19#6 d a (c ++ 4#4) l)
  | .ftake z d a c l => some (wordA z 0x19#6 d a (c ++ 1#4) l)
  | .ftakeN z d a c l => some (wordA z 0x19#6 d a (c ++ 5#4) l)
  | .fpeek z d a c l => some (wordA z 0x19#6 d a (c ++ 2#4) l)
  | .fclr z a c l => some (wordA z 0x19#6 0#7 a (c ++ 3#4) l)
  | .fenceAcq z e c => some (wordS z 0x1A#6 0#7 (0#7 ++ e ++ 0#3 ++ c) 0#4)
  | .fenceRel z e c => some (wordS z 0x1A#6 0#7 (0#7 ++ e ++ 1#3 ++ c) 0#4)
  | .fenceAr z e c => some (wordS z 0x1A#6 0#7 (0#7 ++ e ++ 2#3 ++ c) 0#4)
  | .fenceSc z e c => some (wordS z 0x1A#6 0#7 (0#7 ++ e ++ 3#3 ++ c) 0#4)
  | .pref z a l => some (wordA z 0x1B#6 0#7 a 0#7 l)
  | .pref2 z a l => some (wordA z 0x1B#6 0#7 a 1#7 l)
  | .clock1 z d a l => some (wordA z 0x1B#6 d a 2#7 l)
  | .clock2 z d a l => some (wordA z 0x1B#6 d a 3#7 l)
  | .cunlk1 z a l => some (wordA z 0x1B#6 0#7 a 4#7 l)
  | .cunlk2 z a l => some (wordA z 0x1B#6 0#7 a 5#7 l)
  | .cwb z a l => some (wordA z 0x1B#6 0#7 a 6#7 l)
  | .cinv z a l => some (wordA z 0x1B#6 0#7 a 7#7 l)
  | .cwbinv z a l => some (wordA z 0x1B#6 0#7 a 8#7 l)
  | .isync z l => some (wordA z 0x1B#6 0#7 0#7 9#7 l)
  | .copy z d a q u l => some (wordA z 0x1C#6 d a (q ++ u ++ 0#3) l)
  | .ccvt z d a q u l => some (wordA z 0x1C#6 d a (q ++ u ++ 1#3) l)
  | .csum z d a q u l => some (wordA z 0x1C#6 d a (q ++ u ++ 2#3) l)
  | .cfill z d a q u l => some (wordA z 0x1C#6 d a (q ++ u ++ 3#3) l)
  | .agath z d a s n l => some (wordA z 0x1D#6 d a (s ++ n) l)
  | .astp z d a n l => some (wordA z 0x1E#6 d a (0#3 ++ n) l)
  | .astpAck _ _ => none
  | .copySectorDeliver _ => none
  | .copyComplete _ => none
  | .togenL z d a => some (wordA z 0x1F#6 d a 0#7 0#4)
  | .togenS z d a => some (wordA z 0x1F#6 d a 0#7 1#4)
  | .togenC z d a => some (wordA z 0x1F#6 d a 0#7 2#4)
  | .fromgenL z d a => some (wordA z 0x1F#6 d a 0#7 3#4)
  | .fromgenS z d a => some (wordA z 0x1F#6 d a 0#7 4#4)
  | .fromgenC z d a => some (wordA z 0x1F#6 d a 0#7 5#4)
  | .isspc z d a => some (wordA z 0x1F#6 d a 0#7 6#4)
  | .bra z o => some (wordJ25 z 0x20#6 o)
  | .call z o => some (wordJ25 z 0x21#6 o)
  | .brw z a o => some (wordJ18 z 0x22#6 a o)
  | .brwz z a o => some (wordJ18 z 0x23#6 a o)
  | .brd z a o => some (wordJ18 z 0x24#6 a o)
  | .jmpi z a => some (wordS z 0x25#6 a 0#14 0#4)
  | .ret z => some (wordS z 0x25#6 0#7 0#14 1#4)
  | .calli z a => some (wordS z 0x25#6 a 0#14 2#4)
  | .missSplit _ _ => none
  | .rcv z i => some (wordS z 0x28#6 0#7 i 0#4)
  | .rcvW z => some (wordS z 0x28#6 0#7 0#14 1#4)
  | .rcvDeadline _ _ => none
  | .fusedead _ => none
  | .endW z => some (wordS z 0x29#6 0#7 0#14 0#4)
  | .trap z i => some (wordS z 0x29#6 0#7 i 1#4)
  | .bkpt z i => some (wordS z 0x29#6 0#7 i 2#4)
  | .eret z => some (wordS z 0x29#6 0#7 0#14 3#4)
  | .yield z d => some (wordS z 0x29#6 d 0#14 4#4)
  | .role z r => some (wordS z 0x29#6 0#7 (0#12 ++ r) 5#4)
  | .sleep z i => some (wordS z 0x29#6 0#7 i 6#4)
  | .sleepExpiry _ _ => none
  | .ifW z a i => some (wordS z 0x26#6 a i 0#4)
  | .ifS z a i => some (wordS z 0x26#6 a i 1#4)
  | .elseW z i => some (wordS z 0x26#6 0#7 i 2#4)
  | .endif z => some (wordS z 0x26#6 0#7 0#14 3#4)
  | .loops z i => some (wordS z 0x26#6 0#7 i 4#4)
  | .brk z a i => some (wordS z 0x26#6 a i 5#4)
  | .cont z a i => some (wordS z 0x26#6 a i 6#4)
  | .endls z i => some (wordS z 0x26#6 0#7 i 7#4)
  | .loop z a i => some (wordS z 0x27#6 a i 0#4)
  | .lexit z a => some (wordS z 0x27#6 a 0#14 1#4)
  | .waitt z i => some (wordS z 0x2D#6 0#7 i 0#4)
  | .wpwait z a c => some (wordS z 0x2D#6 a (0#10 ++ c) 1#4)
  | .dwait z a p => some (wordS z 0x2D#6 a (0#13 ++ p) 2#4)
  | .vwait z v t => some (wordS z 0x2D#6 0#7 (0#7 ++ v ++ t) 3#4)
  | .sleepw z a => some (wordS z 0x2D#6 a 0#14 4#4)
  | .sleepwExpiry _ _ => none
  | .bar z a i => some (wordS z 0x2E#6 a (0#10 ++ i) 0#4)
  | .barp z a i => some (wordS z 0x2E#6 a (0#10 ++ i) 1#4)
  | .bara z a i => some (wordS z 0x2E#6 a (0#10 ++ i) 2#4)
  | .barw z i => some (wordS z 0x2E#6 120#7 (0#10 ++ i) 3#4)
  | .barb z a i => some (wordS z 0x2E#6 a i 4#4)
  | .cstg z a => some (wordS z 0x2E#6 a 0#14 5#4)
  | .phaseResume _ => none
  | .dinit z d a l => some (wordA z 0x2F#6 d a 0#7 l)
  | .dexp z d a l => some (wordA z 0x2F#6 d a 1#7 l)
  | .darr z d a l => some (wordA z 0x2F#6 d a 2#7 l)
  | .dqry z d a l => some (wordA z 0x2F#6 d a 3#7 l)
  | .time z d => some (wordS z 0x30#6 d 0#14 0#4)
  | .pmcrd z d n => some (wordS z 0x30#6 d (0#11 ++ n) 1#4)
  | .pmcwr z d n => some (wordS z 0x30#6 d (0#11 ++ n) 2#4)
  | .accv z d t => some (wordS z 0x30#6 d (0#11 ++ t) 3#4)
  | .wprd z d c => some (wordS z 0x30#6 d (0#10 ++ c) 4#4)
  | .cycle z d => some (wordS z 0x30#6 d 0#14 5#4)
  | .launch z d a l => some (wordA z 0x31#6 d a 0#7 l)
  | .launchb z d a l => some (wordA z 0x31#6 d a 1#7 l)
  | .enqr z d a l => some (wordA z 0x32#6 d a 0#7 l)
  | .rqflush z d a l => some (wordA z 0x32#6 d a 1#7 l)
  | .rqstat z d a l => some (wordA z 0x32#6 d a 2#7 l)
  | .evpost z d a l => some (wordA z 0x33#6 d a 0#7 l)
  | .cpoll z d a l => some (wordA z 0x33#6 d a 1#7 l)
  | .csleep z d a l => some (wordA z 0x33#6 d a 2#7 l)
  | .signal z d a l => some (wordA z 0x33#6 d a 3#7 l)
  | .csleepTimeout _ _ => none
  | .qfetch z d q => some (wordS z 0x39#6 d (0#4 ++ q) 0#4)
  | .qdisp z d b p => some (wordS z 0x39#6 d (0#10 ++ b ++ p) 1#4)
  | .swaitc z d i c => some (wordS z 0x39#6 d (i ++ c) 2#4)
  | .keyopGen z d p s => some (wordS z 0x39#6 d (0#3 ++ p ++ s ++ 0#4) 3#4)
  | .keyopBind z d p s => some (wordS z 0x39#6 d (0#3 ++ p ++ s ++ 1#4) 3#4)
  | .keyopUnbind z d p s => some (wordS z 0x39#6 d (0#3 ++ p ++ s ++ 2#4) 3#4)
  | .keyopZero z d p s => some (wordS z 0x39#6 d (0#3 ++ p ++ s ++ 3#4) 3#4)
  | .keyopZeroall z d p s => some (wordS z 0x39#6 d (0#3 ++ p ++ s ++ 4#4) 3#4)
  | .keyopSign z d p s => some (wordS z 0x39#6 d (0#3 ++ p ++ s ++ 5#4) 3#4)
  | .fuserd z d r => some (wordS z 0x39#6 d (0#4 ++ r) 4#4)
  | .wipe z p => some (wordS z 0x39#6 0#7 (0#11 ++ p) 5#4)
  | .wipeComplete _ => none
  | .shadow z x p => some (wordS z 0x39#6 0#7 (0#10 ++ x ++ p) 6#4)
  | .measx z d m => some (wordS z 0x39#6 d (0#10 ++ m) 7#4)
  | .shadowExchange _ => none
  | .xpair z d a w r c s l => some (wordA z 0x34#6 d a (0#3 ++ w ++ r ++ c ++ s) l)
  | .xpairEmit _ => none
  | .xpairComplete _ => none
  | .xray z d a c y l => some (wordA z 0x35#6 d a (0#5 ++ c ++ y) l)
  | .xrayComplete _ _ => none
  | .texSample z d a s l => some (wordA z 0x36#6 d a (0#3 ++ s) l)
  | .texGath4 z d a s l => some (wordA z 0x36#6 d a (1#3 ++ s) l)
  | .texLoadi z d a s l => some (wordA z 0x36#6 d a (2#3 ++ s) l)
  | .texQuery z d a s l => some (wordA z 0x36#6 d a (3#3 ++ s) l)
  | .cover z d a b => some (wordA z 0x37#6 d a b 0#4)
  | .edge z d a => some (wordA z 0x37#6 d a 0#7 1#4)
  | .pxtk z d a => some (wordA z 0x37#6 d a 0#7 2#4)
  | .pxlk z a b => some (wordA z 0x37#6 0#7 a b 3#4)
  | .pxul z a b => some (wordA z 0x37#6 0#7 a b 4#4)
  | .vemit z d a => some (wordA z 0x37#6 d a 0#7 5#4)
  | .tsemit z d a => some (wordA z 0x37#6 d a 0#7 6#4)
  | .tessellate _ => none
  | .primitiveRelease _ => none
  | .rasterLaunch _ _ => none
  | .atr z d a l => some (wordA z 0x38#6 d a 0#7 l)
  | .atw z d a l => some (wordA z 0x38#6 d a 1#7 l)
  | .tlbinv z d a l => some (wordA z 0x38#6 d a 8#7 l)
  | .tlbinva z d l => some (wordA z 0x38#6 d 0#7 9#7 l)
  | .pageWalk _ _ _ _ _ => none
  | .issueArbitration _ => none
  | .agemaxReached _ _ => none
  | .workgroupPlace _ => none
  | .weightClassUpdate _ _ _ => none
  | .budgetExceeded _ => none
  | .predlExpiry _ => none
  | .hardwareSave _ => none
  | .gridComplete _ => none
  | .packetFetch _ => none
  | .launchPacket _ _ => none
  | .bundle _ _ => none
  | .draw _ _ => none
  | .copysched _ _ => none
  | .signalPacket _ _ => none
  | .waitsig _ _ => none
  | .waitsigPoll _ _ => none
  | .waitsigTimeout _ _ => none
  | .swaitcTimeout _ _ => none
  | .timestamp _ _ => none
  | .eventPacket _ _ => none
  | .qbarrier _ _ => none
  | .configAgemax _ _ => none
  | .configPredl _ _ => none
  | .configLkquota _ _ => none
  | .configL2Ways _ _ => none
  | .configLlcWays _ _ => none
  | .partctlPreempt _ _ => none
  | .partctlSwapout _ _ => none
  | .partctlSwapin _ _ => none
  | .partctlWipe _ _ => none
  | .partctlKeybind _ _ => none
  | .partctlKeyzero _ _ => none
  | .eventHoldmax _ => none
  | .msixSend _ => none
  | .qtailWrite _ _ => none
  | .queueEnable _ => none
  | .queueDisable _ => none
  | .queueStopped _ => none
  | .queueReset _ => none
  | .queueResetComplete _ => none
  | .eqlostRead _ => none
  | .trlostRead _ => none
  | .frackWrite _ _ => none
  | .spanEnable => none
  | .spanDisable => none
  | .capWrite _ _ => none
  | .registerWrite _ _ => none
  | .fwload _ => none
  | .attest _ => none
  | .challenge _ => none
  | .unlock _ => none
  | .relock _ => none
  | .setpriv _ => none
  | .lifecycle _ => none
  | .partdef _ => none
  | .partundef _ => none
  | .ctxdef _ => none
  | .ctxundef _ => none
  | .nonceExpiry => none
  | .stop _ => none
  | .resume _ => none
  | .step _ => none
  | .rdreg _ => none
  | .wrreg _ => none
  | .drop _ => none
  | .bpen _ => none
  | .report _ => none
  | .memrd _ => none
  | .memwr _ => none
  | .traceSummaryTimer _ => none
  | .replayPass _ => none
  | .scrubPass _ _ _ _ => none
  | .coreRetire _ _ => none
  | .pseudoChannelFail _ _ => none
  | .pseudoChannelCopyDone _ _ => none
  | .coreThermalTrip _ _ => none
  | .coreThermalRecover _ _ => none
  | .packageThermalTrip _ _ => none
  | .droopStretch _ _ => none
  | .powerWindow _ _ => none
  | .fullReset _ => none
  | .flitRetry _ => none
  | .spanPortDown _ => none
  | .spanDownSvcreq _ => none
  | .peerRequest _ _ _ _ => none
  | .cxlmemRead _ => none
  | .cxlmemWrite _ _ => none
  | .writePerformed _ _ => none
  | .frheadWrite _ _ => none
  | .provisioning => none
  | .droopStretchEnd _ => none
  | .spanPortTrained _ _ => none
  | .hostSnoop _ => none
  | .msixUnmask _ => none

/-! ## Bytes -/

/-- The instruction in four bytes, lowest address first (R73: little-endian). -/
def decodeBytes (b0 b1 b2 b3 : Byte) : Except Reject Instr :=
  decode (b3 ++ b2 ++ b1 ++ b0)

/-- What the decoder reads from an instruction whose bits are `w`; every instruction is one 32-bit word (R73). -/
def decodeTableWord (nbits w : Nat) : Option Instr :=
  if nbits ≤ 32 then
    let x : Word := BitVec.ofNat 32 w
    match decodeBytes (x.extractLsb' 0 8) (x.extractLsb' 8 8) (x.extractLsb' 16 8) (x.extractLsb' 24 8) with
    | .ok i => some i
    | .error _ => none
  else none

end

end Sys2Proof
end

