-- ==== Sys2Proof/Machine/Cells.lean ====
section
/-! DEFINITION. The containers State is built from, as plain data: `Cells` (a sparse array that lists only the entries that
differ from what an unlisted index reads as), `KMap` (a finite map from numbers to records) and `Memory` (bytes by
address). Each is a list sorted by key, so that equal contents are equal lists. -/

namespace Sys2Proof.Machine

/-- A sparse array: index and value, indexes strictly rising, no entry equal to the default of its reader. -/
abbrev Cells (α : Type) := List (Nat × α)

/-- The value at index `n`; `d` is what an unlisted index reads as. -/
def cellsGet {α : Type} (d : α) : Cells α → Nat → α
  | [], _ => d
  | (k, v) :: c, n => if n = k then v else cellsGet d c n

/-- The array without the entry at index `n`. -/
def cellsDel {α : Type} : Cells α → Nat → Cells α
  | [], _ => []
  | (k, w) :: c, n => if k = n then cellsDel c n else (k, w) :: cellsDel c n

/-- Add or replace the entry at index `n`. -/
def cellsIns {α : Type} : Cells α → Nat → α → Cells α
  | [], n, v => [(n, v)]
  | (k, w) :: c, n, v =>
    if n < k then (n, v) :: (k, w) :: c
    else if n = k then (n, v) :: c
    else (k, w) :: cellsIns c n v

/-- Store `v` at index `n`; storing the default removes the entry. -/
def cellsPut {α : Type} [DecidableEq α] (d : α) (c : Cells α) (n : Nat) (v : α) : Cells α :=
  if v = d then cellsDel c n else cellsIns c n v

/-- The form: indexes strictly rise, and no entry holds the default. -/
def cellsWf {α : Type} [DecidableEq α] (d : α) : Cells α → Bool
  | [] => true
  | [(_, v)] => decide (v ≠ d)
  | (k, v) :: (k', v') :: c => decide (v ≠ d) && decide (k < k') && cellsWf d ((k', v') :: c)

/-- Put `v` at place `n` of a list, which `d` fills up to there. -/
def listPut {α : Type} (d : α) : List α → Nat → α → List α
  | [], 0, v => [v]
  | [], n + 1, v => d :: listPut d [] n v
  | _ :: xs, 0, v => v :: xs
  | x :: xs, n + 1, v => x :: listPut d xs n v

/-- A finite map: key and record, keys strictly rising. -/
abbrev KMap (α : Type) := List (Nat × α)

/-- The record at key `n`, if any. -/
def kget {α : Type} : KMap α → Nat → Option α
  | [], _ => none
  | (k, v) :: c, n => if n = k then some v else kget c n

/-- The record at key `n`, or `d`. -/
def kgetD {α : Type} (d : α) (m : KMap α) (n : Nat) : α := (kget m n).getD d

/-- Add or replace the record at key `n`. -/
def kput {α : Type} : KMap α → Nat → α → KMap α
  | [], n, v => [(n, v)]
  | (k, w) :: c, n, v =>
    if n < k then (n, v) :: (k, w) :: c
    else if n = k then (n, v) :: c
    else (k, w) :: kput c n v

/-- Remove the record at key `n`. -/
def kdel {α : Type} : KMap α → Nat → KMap α
  | [], _ => []
  | (k, w) :: c, n => if n = k then kdel c n else (k, w) :: kdel c n

/-- Change the record at key `n`; nothing happens where there is none. -/
def kmod {α : Type} (f : α → α) : KMap α → Nat → KMap α
  | [], _ => []
  | (k, w) :: c, n => if n = k then (k, f w) :: c else (k, w) :: kmod f c n

/-- Change every record. -/
def kmap {α β : Type} (f : Nat → α → β) (m : KMap α) : KMap β := m.map fun e => (e.1, f e.1 e.2)

/-! ## Memory -/

/-- Bytes by address, in the canonical form of `Memory.wf`; an unlisted address reads as zero (R243 for the device's own
memories; log 8 for host and peer memory). -/
abbrev Memory := List Host.Cell

/-- The byte at address `a`. -/
def Memory.read (m : Memory) (a : Nat) : Byte := cellsGet 0#8 m a

/-- Store byte `b` at address `a`. -/
def Memory.write (m : Memory) (a : Nat) (b : Byte) : Memory := cellsPut 0#8 m a b

/-- The canonical form: addresses strictly rise, and no entry is zero. -/
def Memory.wf (m : Memory) : Bool := cellsWf 0#8 m

/-- `n` bytes from address `a`, the lowest address first. -/
def Memory.readN (m : Memory) (a : Nat) : Nat → List Byte
  | 0 => []
  | n + 1 => m.read a :: Memory.readN m (a + 1) n

/-- Store the bytes of a list at rising addresses from `a`. -/
def Memory.writeN (m : Memory) (a : Nat) : List Byte → Memory
  | [] => m
  | b :: bs => Memory.writeN (m.write a b) (a + 1) bs

/-- Make every byte of `[lo, hi)` zero. -/
def Memory.clear (m : Memory) (lo hi : Nat) : Memory := m.filter fun c => !(decide (lo ≤ c.1) && decide (c.1 < hi))

/-! ## Little-endian values (R12) -/

/-- The number that a list of bytes holds, the first byte lowest. -/
def natOfBytes : List Byte → Nat
  | [] => 0
  | b :: bs => b.toNat + 256 * natOfBytes bs

/-- The `n` low bytes of a number, lowest first. -/
def bytesOfNat : Nat → Nat → List Byte
  | 0, _ => []
  | n + 1, x => BitVec.ofNat 8 x :: bytesOfNat n (x / 256)

/-- The field [hi:lo] of a number. -/
def bitsOf (x hi lo : Nat) : Nat := (x / 2 ^ lo) % 2 ^ (hi + 1 - lo)

/-- Bit `i` of a number. -/
def bitOf (x i : Nat) : Bool := x.testBit i

/-- 1 for true. -/
def b2n (b : Bool) : Nat := if b then 1 else 0

/-- The little-endian number of `n` bytes at offset `o` of an image. -/
def numAt (img : List Byte) (o n : Nat) : Nat := natOfBytes ((img.drop o).take n)

end Sys2Proof.Machine
end

