-- ==== Sys2Proof/Machine/Numbers.lean ====
section
/-! DEFINITION. Number formats and rounding (R114 to R132): integers fitted to a type, floats as exact fractions, one rounding, the
narrow kinds, scale bytes and records. -/

namespace Sys2Proof.Machine

/-! ## Element types (R88) -/

/-- Bits of an element type. -/
def etWidth (et : Nat) : Nat :=
  match et with
  | 4 => 64 | 5 => 64 | 6 => 64
  | 7 => 16 | 8 => 16 | 9 => 16 | 10 => 16
  | 11 => 8 | 12 => 8 | 13 => 8 | 14 => 6 | 15 => 4
  | _ => 32

/-- S64, N64 or F64: the operand is a pair (R81). -/
def etWide (et : Nat) : Bool := decide (etWidth et = 64)

/-- S32, S64, S16 or S8. -/
def etSigned (et : Nat) : Bool := et == 1 || et == 4 || et == 9 || et == 11

/-- An integer type: B32 is taken as N32 (R114). -/
def etInt (et : Nat) : Bool := et == 0 || et == 1 || et == 2 || et == 4 || et == 5 || (decide (9 ≤ et) && decide (et ≤ 12))

/-- F32, F64, F16 or BF16. -/
def etFloat (et : Nat) : Bool := et == 3 || et == 6 || et == 7 || et == 8

/-- L8, L6 or L4. -/
def etNarrow (et : Nat) : Bool := decide (13 ≤ et)

/-! ## Integers -/

/-- The signed reading of the low `n` bits. -/
def sintOf (n x : Nat) : Int :=
  let u := x % 2 ^ n
  if u < 2 ^ (n - 1) then (u : Int) else (u : Int) - (2 ^ n : Nat)

/-- The reading of a pattern as an integer type of `n` bits. -/
def intOf (n : Nat) (signed : Bool) (x : Nat) : Int := if signed then sintOf n x else ((x % 2 ^ n : Nat) : Int)

/-- An integer modulo 2^n, as a pattern. -/
def wrapInt (n : Nat) (x : Int) : Nat := (x % ((2 ^ n : Nat) : Int)).toNat

/-- Fit an exact value to a type of `n` bits (R115): the pattern. -/
def fitInt (sat : Bool) (n : Nat) (signed : Bool) (x : Int) : Nat :=
  if sat then
    let lo : Int := if signed then -((2 ^ (n - 1) : Nat) : Int) else 0
    let hi : Int := if signed then ((2 ^ (n - 1) : Nat) : Int) - 1 else ((2 ^ n : Nat) : Int) - 1
    wrapInt n (if x < lo then lo else if hi < x then hi else x)
  else wrapInt n x

/-- A result pattern of `n` bits as the register holds it: 8 and 16 bits are extended to 32 (R114). -/
def extendRes (n : Nat) (signed : Bool) (x : Nat) : Nat :=
  if n < 32 then wrapInt 32 (intOf n signed x) else x

/-! ## Floats as exact values -/

/-- A float value: NaN (signalling or not), an infinity, or ± num / den. -/
inductive FVal where
  | nan (signalling : Bool)
  | inf (neg : Bool)
  | fin (neg : Bool) (num den : Nat)
deriving DecidableEq, Repr

/-- A binary format of IEEE 754-2019: exponent bits and fraction bits (R117). -/
structure Fmt where
  ebits : Nat
  mbits : Nat
deriving DecidableEq, Repr

/-- binary32 -/
def fmtF32 : Fmt := ⟨8, 23⟩
/-- binary64 -/
def fmtF64 : Fmt := ⟨11, 52⟩
/-- binary16 -/
def fmtF16 : Fmt := ⟨5, 10⟩
/-- the upper half of binary32 -/
def fmtBF16 : Fmt := ⟨8, 7⟩

/-- The format of a float element type. -/
def fmtOf (et : Nat) : Fmt :=
  match et with
  | 6 => fmtF64
  | 7 => fmtF16
  | 8 => fmtBF16
  | _ => fmtF32

/-- The bias. -/
def Fmt.bias (f : Fmt) : Nat := 2 ^ (f.ebits - 1) - 1

/-- The sign bit's weight. -/
def Fmt.signBit (f : Fmt) : Nat := 2 ^ (f.ebits + f.mbits)

/-- The pattern of +infinity. -/
def Fmt.infBits (f : Fmt) : Nat := (2 ^ f.ebits - 1) * 2 ^ f.mbits

/-- The canonical quiet NaN (R119). -/
def Fmt.nanBits (f : Fmt) : Nat := f.infBits + 2 ^ (f.mbits - 1)

/-- The value `m * 2^(e - k)` as a fraction. -/
def scaled (neg : Bool) (m e k : Nat) : FVal := if k ≤ e then .fin neg (m * 2 ^ (e - k)) 1 else .fin neg m (2 ^ (k - e))

/-- The value of a pattern (R117). -/
def Fmt.decode (f : Fmt) (x : Nat) : FVal :=
  let neg := decide (f.signBit ≤ x % (2 * f.signBit))
  let e := x / 2 ^ f.mbits % 2 ^ f.ebits
  let m := x % 2 ^ f.mbits
  if e = 2 ^ f.ebits - 1 then (if m = 0 then .inf neg else .nan (decide (m < 2 ^ (f.mbits - 1))))
  else if e = 0 then scaled neg m 1 (f.bias + f.mbits)
  else scaled neg (2 ^ f.mbits + m) e (f.bias + f.mbits)

/-- A pattern is subnormal. -/
def Fmt.isSub (f : Fmt) (x : Nat) : Bool := decide (x / 2 ^ f.mbits % 2 ^ f.ebits = 0) && decide (x % 2 ^ f.mbits ≠ 0)

/-- A subnormal pattern as a zero of its sign, under FTZ (R120). -/
def Fmt.flush (f : Fmt) (ftz : Bool) (x : Nat) : Nat :=
  if ftz && f.isSub x then x / f.signBit % 2 * f.signBit else x

/-- Round the magnitude num / den of a number of the given sign to an integer (R129); modes 4 and above act as RNE (R118). -/
def roundMag (mode : Nat) (neg : Bool) (num den : Nat) : Nat :=
  let q := num / den
  let r := num % den
  let up :=
    match mode with
    | 1 => false
    | 2 => !neg && decide (r ≠ 0)
    | 3 => neg && decide (r ≠ 0)
    | _ => decide (den < 2 * r) || (decide (2 * r = den) && decide (q % 2 = 1))
  if up then q + 1 else q

/-- Floor of the binary logarithm of a positive fraction, plus 5000. -/
def ilog (num den : Nat) : Nat :=
  let e := Nat.log2 num + 5000 - Nat.log2 den
  if num * 2 ^ 5000 < den * 2 ^ e then e - 1 else e

/-- The fraction num / den divided by 2^(q - 5000). -/
def unscale (num den q : Nat) : Nat × Nat := (num * 2 ^ 5000, den * 2 ^ q)

/-- Round a positive fraction to the format: the exponent of its quantum plus 5000, and the integer multiple of the quantum. -/
def Fmt.quantize (f : Fmt) (mode : Nat) (neg : Bool) (num den : Nat) : Nat × Nat :=
  let e := max (ilog num den) (5001 - f.bias)
  let q := e - f.mbits
  let u := unscale num den q
  (q, roundMag mode neg u.1 u.2)

/-- Overflow gives the largest finite value and not infinity (IEEE 754-2019, by mode). -/
def satMode (mode : Nat) (neg : Bool) : Bool :=
  match mode with
  | 1 => true
  | 2 => neg
  | 3 => !neg
  | _ => false

/-- Round an exact value once to the format (R118): the pattern. -/
def Fmt.round (f : Fmt) (mode : Nat) : FVal → Nat
  | .nan _ => f.nanBits
  | .inf neg => f.infBits + (if neg then f.signBit else 0)
  | .fin neg num den =>
    let s := if neg then f.signBit else 0
    if num = 0 then s
    else
      let r := f.quantize mode neg num den
      -- the exponent field of a multiple m of quantum q, or a subnormal
      let x := if r.2 < 2 ^ f.mbits then r.2 else (r.1 + f.mbits + f.bias - 5000) * 2 ^ f.mbits + (r.2 - 2 ^ f.mbits)
      if f.infBits ≤ x then (if satMode mode neg then f.infBits - 1 + s else f.infBits + s) else x + s

/-! ## Exact arithmetic -/

/-- The signed numerator. -/
def signedNum (neg : Bool) (n : Nat) : Int := if neg then -(n : Int) else n

/-- The sum of two values; an exact zero takes its sign by IEEE 754-2019 for the mode. -/
def FVal.add (mode : Nat) : FVal → FVal → FVal
  | .nan _, _ => .nan false
  | _, .nan _ => .nan false
  | .inf a, .inf b => if a = b then .inf a else .nan false
  | .inf a, _ => .inf a
  | _, .inf b => .inf b
  | .fin a n d, .fin b m e =>
    let x := signedNum a n * e + signedNum b m * d
    if x = 0 then .fin (if a = b then a else decide (mode = 3)) 0 1
    else .fin (decide (x < 0)) x.natAbs (d * e)

/-- The negation. -/
def FVal.neg : FVal → FVal
  | .nan s => .nan s
  | .inf a => .inf (!a)
  | .fin a n d => .fin (!a) n d

/-- The product. -/
def FVal.mul : FVal → FVal → FVal
  | .nan _, _ => .nan false
  | _, .nan _ => .nan false
  | .inf a, .inf b => .inf (a != b)
  | .inf a, .fin b m _ => if m = 0 then .nan false else .inf (a != b)
  | .fin a n _, .inf b => if n = 0 then .nan false else .inf (a != b)
  | .fin a n d, .fin b m e => .fin (a != b) (n * m) (d * e)

/-- A value times 2^k. -/
def FVal.scale (k : Int) : FVal → FVal
  | .fin a n d => if 0 ≤ k then .fin a (n * 2 ^ k.toNat) d else .fin a n (d * 2 ^ (-k).toNat)
  | x => x

/-- A NaN. -/
def FVal.isNan : FVal → Bool
  | .nan _ => true
  | _ => false

/-- A zero of either sign. -/
def FVal.isZero : FVal → Bool
  | .fin _ n _ => decide (n = 0)
  | _ => false

/-- a < b for values that are not NaN. -/
def FVal.lt : FVal → FVal → Bool
  | .nan _, _ => false
  | _, .nan _ => false
  | .inf a, .inf b => a && !b
  | .inf a, _ => a
  | _, .inf b => !b
  | .fin a n d, .fin b m e => decide (signedNum a n * e < signedNum b m * d)

/-- a = b for values that are not NaN; zeros of either sign are equal. -/
def FVal.eq : FVal → FVal → Bool
  | .nan _, _ => false
  | _, .nan _ => false
  | .inf a, .inf b => a == b
  | .inf _, _ => false
  | _, .inf _ => false
  | .fin a n d, .fin b m e => decide (signedNum a n * e = signedNum b m * d)

/-- An integer as a value. -/
def FVal.ofInt (x : Int) : FVal := .fin (decide (x < 0)) x.natAbs 1

/-! ## Narrow elements (R121 to R123) -/

/-- Exponent bits, mantissa bits and bias of L8, L6 and L4. -/
def narrowShape (et : Nat) : Nat × Nat × Nat :=
  match et with
  | 13 => (4, 3, 7)
  | 14 => (3, 2, 3)
  | _ => (2, 1, 1)

/-- The value of a narrow element (R121). -/
def narrowDecode (et x : Nat) : FVal :=
  let (eb, mb, bias) := narrowShape et
  let neg := decide (x / 2 ^ (eb + mb) % 2 = 1)
  let e := x / 2 ^ mb % 2 ^ eb
  let m := x % 2 ^ mb
  if et = 13 ∧ e = 15 ∧ m = 7 then .nan false
  else if e = 0 then scaled neg m 1 (bias + mb)
  else scaled neg (2 ^ mb + m) e (bias + mb)

/-- The largest finite code of a narrow float kind, without its sign. -/
def narrowMax (et : Nat) : Nat :=
  match et with
  | 13 => 0x7E
  | 14 => 0x1F
  | _ => 0x7

/-- The sign bit's weight of a narrow float kind. -/
def narrowSign (et : Nat) : Nat :=
  match et with
  | 13 => 0x80
  | 14 => 0x20
  | _ => 0x8

/-- Round a finite value to a narrow float kind (R123): the code. -/
def narrowRound (et mode : Nat) (neg : Bool) (num den : Nat) : Nat :=
  let (_, mb, bias) := narrowShape et
  let s := if neg then narrowSign et else 0
  if num = 0 then s
  else
    let e := max (ilog num den) (5001 - bias)
    let q := e - mb
    let u := unscale num den q
    let m := roundMag mode neg u.1 u.2
    let x := if m < 2 ^ mb then m else (q + mb + bias - 5000) * 2 ^ mb + (m - 2 ^ mb)
    (if narrowMax et < x then narrowMax et else x) + s

/-- A single value converted to a narrow float kind (R123). -/
def narrowOf (et mode : Nat) : FVal → Nat
  | .nan _ => if et = 13 then 0x7F else 0
  | .inf neg => narrowMax et + (if neg then narrowSign et else 0)
  | .fin neg n d => narrowRound et mode neg n d

/-- Round a finite value to an S8 element (R123): a magnitude above 127 becomes 127, so -128 never arises. -/
def s8Round (mode : Nat) (neg : Bool) (num den : Nat) : Nat :=
  let m := min (roundMag mode neg num den) 127
  if neg then wrapInt 8 (-(m : Int)) else m

/-! ## Scale bytes and records (R124 to R132) -/

/-- The value of a scale byte 0x01 to 0xFE, as a fraction. -/
def scaleVal (sb : Nat) : Nat × Nat :=
  let e := sb / 4
  let m := 4 + sb % 4
  if 34 ≤ e then (m * 2 ^ (e - 34), 1) else (m, 2 ^ (34 - e))

/-- A record kind: element type code of R134 (0 L8, 1 S8, 2 L6, 3 L4, 4 T2) to element bits. -/
def recBits (kind : Nat) : Nat :=
  match kind with
  | 2 => 6
  | 3 => 4
  | 4 => 2
  | _ => 8

/-- Elements of a record. -/
def recElems (kind : Nat) : Nat := if kind = 4 then 64 else 32

/-- Bytes of a record (R125). -/
def recBytes (kind : Nat) : Nat := 1 + recElems kind * recBits kind / 8

/-- Registers of a record image (R125). -/
def recRegs (kind : Nat) : Nat := (recBytes kind + 3) / 4

/-- The ET code of a float record kind. -/
def recEt (kind : Nat) : Nat :=
  match kind with
  | 0 => 13
  | 2 => 14
  | _ => 15

/-- A record as one number: the bytes of its image, the first lowest (R127). -/
def natOfWords : List (BitVec 32) → Nat
  | [] => 0
  | x :: xs => x.toNat + 2 ^ 32 * natOfWords xs

/-- The words of a number. -/
def wordsOfNat : Nat → Nat → List (BitVec 32)
  | 0, _ => []
  | n + 1, x => BitVec.ofNat 32 x :: wordsOfNat n (x / 2 ^ 32)

/-- The scale byte of a record. -/
def recScale (r : Nat) : Nat := r % 256

/-- Element `i` of a record, its bits (R126). -/
def recElem (kind r i : Nat) : Nat := r / 256 / 2 ^ (recBits kind * i) % 2 ^ recBits kind

/-- The value of an element's bits, before the scale (R121, R122). -/
def elemVal (kind x : Nat) : FVal :=
  match kind with
  | 1 => .ofInt (sintOf 8 x)
  | 4 => .ofInt (if x = 1 then 1 else if x = 3 then -1 else 0)
  | _ => narrowDecode (recEt kind) x

/-- A record from a scale byte and element codes. -/
def recOf (kind sb : Nat) (es : List Nat) : Nat :=
  sb + 256 * (es.foldr (fun x acc => x + 2 ^ recBits kind * acc) 0)

/-- ROUND of R123 for a record element: the code and the value. -/
def recRound (kind mode : Nat) (neg : Bool) (num den : Nat) : Nat :=
  if kind = 1 then s8Round mode neg num den else narrowRound (recEt kind) mode neg num den

/-- The largest finite value of a record kind (R121). -/
def recMax (kind : Nat) : Nat :=
  match kind with
  | 0 => 448
  | 1 => 127
  | 2 => 28
  | _ => 6

/-- Narrow values in index order, with error feedback under RNEF (R130). The carried residual is a value; zero is none. -/
def narrowLoop (kind mode : Nat) (sn sd : Nat) : FVal → List FVal → List Nat
  | _, [] => []
  | e, v :: vs =>
    -- x = v / s, exactly
    let x := match v with
      | .fin a n d => .fin a (n * sd) (d * sn)
      | y => y
    let t := if e.isZero then x else FVal.add 0 x e
    match t with
    | .fin a n d =>
      let y := recRound kind (if mode = 4 then 0 else mode) a n d
      let e' := if mode = 4 then FVal.add 0 t (elemVal kind y).neg else .fin false 0 1
      y :: narrowLoop kind mode sn sd e' vs
    | _ => 0 :: narrowLoop kind mode sn sd (.fin false 0 1) vs

/-- |v| / value(s) ≤ L (R132). -/
def scaleFits (kind sb : Nat) : FVal → Bool
  | .fin _ n d => decide (n * (scaleVal sb).2 ≤ recMax kind * d * (scaleVal sb).1)
  | _ => true

/-- The smallest scale byte from `sb` that fits every value; 0xFE when none does (R132). -/
def scaleSearch (kind : Nat) (vs : List FVal) : Nat → Nat → Nat
  | 0, _ => 0xFE
  | fuel + 1, sb => if vs.all (scaleFits kind sb) then sb else scaleSearch kind vs fuel (sb + 1)

/-- Every value is a zero. -/
def allZero (vs : List FVal) : Bool := vs.all (·.isZero)

/-- Some value is a NaN or an infinity (R131). -/
def anySpecial (vs : List FVal) : Bool :=
  vs.any fun v => match v with
    | .fin _ _ _ => false
    | _ => true

/-- Narrow 32 values into a record: with an explicit scale byte, or one chosen by R132 (R130 to R132). -/
def narrowRecord (kind mode : Nat) (explicit : Option Nat) (vs : List FVal) : Nat :=
  if anySpecial vs then 0xFF
  else match explicit with
    | some sb =>
      if sb = 0 ∨ sb = 0xFF then sb
      else recOf kind sb (narrowLoop kind mode (scaleVal sb).1 (scaleVal sb).2 (.fin false 0 1) vs)
    | none =>
      if allZero vs then 0
      else
        let sb := scaleSearch kind vs 253 1
        recOf kind sb (narrowLoop kind mode (scaleVal sb).1 (scaleVal sb).2 (.fin false 0 1) vs)

end Sys2Proof.Machine
end

