-- ==== Sys2Proof/Config.lean ====
section
/-! DEFINITION. What the spec leaves open, as constants without a body: nothing in Lean can compute a value of them, so a
statement about them holds for every value (log 2). And the few numbers of the package that rules quote. -/

namespace Sys2Proof

/-! ## Free values -/

/-- The free word number `n` (the counter is State.fresh). -/
opaque Config.freeWord : Nat → Word

/-- The free byte number `n`. -/
opaque Config.freeByte : Nat → Byte

/-- The free 64-byte value number `n`: a nonce, a key, a signature half (R473, R475). -/
opaque Config.freeBits : Nat → BitVec 1056

/-- Which of the results that the error bound of R187 allows special function `f` gives for the F32 pattern `x`: a number, taken
modulo the count of allowed results. -/
opaque Config.sfnPick : (f x : Nat) → Nat

/-- The clock that droop stretching leaves an island at a time, in MHz: taken modulo the range from the floor to the clock (R461). -/
opaque Config.droopClock : (island time : Nat) → Nat

/-- Idle cycles that an issue port inserts before its next word while its partition is throttled (R465). -/
opaque Config.idleCycles : (quarter cycle : Nat) → Nat

/-- Which of the values that R259 allows an invariant load takes: a number, taken modulo their count. -/
opaque Config.invPick : (fresh sector : Nat) → Nat

/-- The byte that a read under key tag `r` of a byte `b` written under key tag `t` at address `a` returns, for t ≠ r (R233). -/
opaque Config.crypt : (a t r : Nat) → Byte → Byte

/-- The value of a performance counter event that counts timing (R443). -/
opaque Config.pmcEvent : (event cycle : Nat) → Nat

/-- The value of a fuse row after `burns` lifecycle changes and repairs, for rows whose contents the spec does not lay out (R242). -/
opaque Config.fuseRow : (burns row : Nat) → Word

/-- The digest of the fuse lifecycle and repair rows after `burns` changes (R474). -/
opaque Config.fuseDigest : (burns : Nat) → BitVec 512

/-- An ECDSA signature over P-521 verifies: key 0 is the firmware key, key 1 the Tirlor debug key; digest and the 132 bytes of r and s as
numbers (R467, R475). -/
opaque Config.verify : (key digest sig : Nat) → Bool

/-- The 16-byte device id, and the firmware version of an image by its digest (R474). -/
opaque Config.deviceId : BitVec 128

/-- The firmware version that a quote names (R474). -/
opaque Config.firmwareVersion : (digest : Nat) → BitVec 16

/-- The digest of the firmware image in the board flash that the device was shipped with (R467). -/
opaque Config.shippedImage : BitVec 512

/-! ## Numbers of the package (R4, R5) -/

/-- Bytes of HBM: 768 GiB (R5). -/
def Config.hbmSize : Nat := 768 * 2 ^ 30

end Sys2Proof
end

