-- ==== Sys2Proof/Machine/State.lean ====
section
/-! DEFINITION. The state of the SPN-9140 as plain data: everything the spec gives the machine, the reasons a step stops,
and the machine right after reset. -/

namespace Sys2Proof.Machine

/-! ## Why a step stops -/

/-- The faults of the model. -/
inductive Fault where
  /-- Raised by a physical access to HBM at or above 768 GiB (R5): a page-table entry names memory that the package does not
  have, and the spec gives such an access no effect. Safe: the machine stops. -/
  | noHbm (addr : Nat)
  /-- Raised by a physical access to the memory of a peer device at or above its 64 TiB (R224). Safe: the machine stops. -/
  | noPeer (addr : Nat)
deriving DecidableEq, Repr

/-- The refusals of the model. -/
inductive Refusal where
  /-- Raised only by an arm of `exec` that has no meaning yet. Safe: the machine stops. -/
  | notModelled (mnemonic : String)
  /-- Raised by an instruction word when no part of the machine is issuing, so that there is nobody to execute it (R54). Safe: the
  machine stops. -/
  | noIssuingPart
deriving DecidableEq, Repr

/-! ## Parts (F01 R20, F04 R98) -/

/-- A uniform register of a part's view: its value and its writer block (R34). -/
structure UReg where
  val : Word := 0
  bq : Nat := 0
  bn : Nat := 0
deriving DecidableEq, Repr

/-- One open level of the loop stack (R429): LCd, its start and its end address. -/
structure LoopLevel where
  lc : Word
  start : Word
  stop : Word
  /-- the part runs the body from its quarter's loop buffer, while that holds it (R63) -/
  buf : Bool := false
deriving DecidableEq, Repr

/-- A reconvergence record (R426): the address of the ENDIF and the side bit. -/
structure RecRecord where
  addr : Word
  side : Bool
deriving DecidableEq, Repr

/-- A physical memory. -/
inductive Mem where
  /-- HBM, by physical address -/
  | hbm
  /-- host memory, by host physical address -/
  | host
  /-- peer memory: device * 2^46 + offset -/
  | peer
  /-- scratchpads: core * 2^19 + offset -/
  | spad
deriving DecidableEq, Repr

/-- A piece of an access that its translation has placed: a memory, an address, the key tag (R233) and whether its page is
replicated; or a piece of an empty page (R380). -/
inductive Place where
  | byte (m : Mem) (addr tag : Nat) (repl : Bool)
  | empty
deriving DecidableEq, Repr

/-- The access of a lane: offset, length and place of each piece. -/
abbrev Places := List (Nat × Nat × Place)

/-- A lane of an FTAKE that sleeps on an empty cell (R278), or of a PXTK that waits for a ticket (R369): the register it takes into,
the generic address, the cell or order word, and the scope's code. -/
structure Sleeper where
  lane : Nat
  reg : Nat
  ea : Nat
  places : Places
  scope : Nat
  ticket : Bool := false
deriving DecidableEq, Repr

/-- How the bytes that a load returns become words (R269, R272). -/
inductive Conv where
  /-- an element of a type -/
  | elem (et : Nat)
  /-- `n` words, zeros above -/
  | words (n : Nat)
deriving DecidableEq, Repr

/-- The read of a lane that a load has not been made to perform yet (R250): what it reads, and how. -/
structure Read where
  lane : Nat
  places : Places
  conv : Conv
deriving DecidableEq, Repr

/-- What a writeback in flight comes from. -/
inductive PendKind where
  /-- a load, an atomic, a matrix read or another word whose write the scoreboard tracks (R61) -/
  | load
  /-- a special-function word with its token (R185), which no scoreboard tracks -/
  | sfn (token : Nat)
deriving DecidableEq, Repr

/-- A register write that lands after issue. -/
structure Pend where
  id : Nat
  kind : PendKind
  /-- words of the lookahead window still to issue (R61) -/
  window : Nat
  /-- lane, v register, value -/
  vals : List (Nat × Nat × Word)
  /-- uniform register and value (R35) -/
  uvals : List (Nat × Word)
  /-- the issuing part's block, the writer block of the uniform writes (R35) -/
  bq : Nat
  bn : Nat
  /-- the lane that supplies a uniform write (R82) -/
  ulane : Nat
  /-- lanes of a special-function word or of an XRAY whose results are not written yet (R185, R417) -/
  lanes : List Nat
  /-- matrix operations that must complete before the values land (R198) -/
  after : List Nat := []
  /-- lanes of an FTAKE that sleep (R278) -/
  sleepers : List Sleeper := []
  /-- the XPAIR traversal whose end it waits for (R412) -/
  trav : Option Nat := none
  /-- quads of a special-function word whose entry is still in the queue, an inactive quad's too (R184) -/
  quads : List Nat := []
  /-- reads of a load that may still be performed later than at its issue (R250) -/
  reads : List Read := []
deriving DecidableEq, Repr

/-- The fuse wait a part stands in (R27 to R31). -/
inductive FuseKind where
  | rcv
  | rcvW
  /-- a reconvergence ENDIF; its record is popped at the first fuse (R426) -/
  | endif (popped : Bool)
  /-- a minimum width, in quads (R31) -/
  | minWidth (quads : Nat)
deriving DecidableEq, Repr

/-- What a part waits for before it issues its word again. -/
inductive Cond where
  /-- no token of the mask pending in any lane of the part (R431) -/
  | tokens (mask : Nat)
  /-- WPch of the workgroup at least k (R431) -/
  | wp (ch : Nat) (k : Nat)
  /-- the phase bit of the delivery barrier at scratchpad address `a` differs from `ph` (R431) -/
  | dbar (a : Nat) (ph : Bool)
  /-- no operation on the tile pending, or its VA equals `ver` (R190, R431) -/
  | tile (t : Nat) (ver : Nat)
  /-- no operation on the tile pending at all (R431, VWAIT) -/
  | tileIdle (t : Nat)
  /-- fewer than eight operations of the tile pending (R190) -/
  | tileRoom (t : Nat)
  /-- device time at least `t` ns (R431) -/
  | time (t : Nat)
  /-- a copy request can be accepted by the channel or ring (R289) -/
  | copyRoom (ch : Nat)
  /-- every engine operation of the part complete (R260, FENCE.E); the word issues again -/
  | engines
  /-- the same, behind a word that has completed -/
  | past (ids : List Nat)
  /-- the fault records answered (R381), each with a quad that it serves -/
  | records (recs : List (Nat × Nat))
  /-- a record in completion queue `q`, or the time of the timeout (R327) -/
  | ring (q : Nat) (deadline : Option Nat)
  /-- a pixel block may be taken by the part (R370) -/
  | pixel (addr : Nat) (tk : Nat)
  /-- room for `n` quad entries in the quarter's special-function queue (R184) -/
  | sfnRoom (n : Nat)
  /-- room for `n` traversals in the core's traversal unit (R404) -/
  | traversal (n : Nat)
  /-- the part's ray traversals complete (R417) -/
  | rays
  /-- a signal compares as wanted (R334, SWAITC), or the time of the timeout -/
  | signal (addr : Nat) (val : Nat) (cmp : Nat) (deadline : Option Nat)
  /-- a wipe of a partition done (R334, WIPE) -/
  | wipe (p : Nat)
  /-- a swap of a partition done (R334, SHADOW) -/
  | swap (p : Nat)
  /-- something the device must finish first: the graphics queue (R371), the launch unit -/
  | room (what : Nat)
deriving DecidableEq, Repr

/-- The wait state of a part. -/
inductive Wait where
  /-- in no wait -/
  | ready
  /-- on the scoreboard, for these writebacks in these lanes, or for their uniform registers (R55) -/
  | board (ids lanes : List Nat)
  /-- at a fuse point, until the deadline cycle if there is one, since a cycle -/
  | fuse (kind : FuseKind) (deadline : Option Nat) (since : Nat)
  /-- at BAR, BARP or BARW, for the end of a phase of a barrier (R434) -/
  | barrier (id : Nat) (phase : Bool) (arrives : Bool)
  /-- at a BAR or BARP of a barrier its wave has already arrived at; the word issues again after the phase (R434) -/
  | barrierNext (id : Nat) (phase : Bool)
  /-- past a SLEEP, until a cycle (R214) -/
  | sleep (untilCycle : Nat)
  /-- at a word that issues again when the condition holds -/
  | cond (c : Cond)
  /-- yielded with a resume PC (R69) -/
  | yielded
deriving DecidableEq, Repr

/-- A part of a wave (R19, R20). -/
structure Part where
  q : Nat
  n : Nat
  pc : Word := 0
  mode : Word := 0
  ucf : Bool := false
  poison : Bool := false
  corr : Bool := false
  handler : Bool := false
  /-- the cause with which the handler was entered (R216) -/
  entry : Nat := 0
  /-- open loop levels, the outermost first (R429) -/
  loops : List LoopLevel := []
  /-- the view of w0 to w23 -/
  w : List UReg := []
  tvec : UReg := {}
  trappc : Word := 0
  tcause : Word := 0
  tinfo : Word := 0
  taddr : DWord := 0
  tspc : Word := 0
  tpart : Word := 0
  /-- reconvergence records, the top one first (R426) -/
  recs : List RecRecord := []
  role : Nat := 0
  /-- the role that ROLE sets from the end of the current run (R215) -/
  nextRole : Option Nat := none
  /-- the cycle from which the part's age counts (R58) -/
  readyAt : Nat := 0
  /-- the part is in arbitration class 4 for its next run (R59) -/
  class4 : Bool := false
  wait : Wait := .ready
  /-- the prefix group in progress: address of its first word, KXW's bits if KXW came, and the constant if KX came (R83) -/
  prefixPc : Option Word := none
  prefixHi : Option Word := none
  prefixK : Option Word := none
  /-- prefix words of the group -/
  prefixN : Nat := 0
  /-- the first cycle in which the part may issue (R31, R214) -/
  notBefore : Nat := 0
  /-- writebacks in flight -/
  pend : List Pend := []
  /-- halted to be saved whole; it goes on in its wait when it is placed again (R70) -/
  halted : Bool := false
  /-- the time at which the CSLEEP or SWAITC that it waits at times out (R327, R334) -/
  timeout : Option Nat := none
  /-- PREEMPT delivered and not yet taken (R69, R221) -/
  preempt : Bool := false
  /-- engine operations that the part has issued and that are not complete (R260) -/
  engines : List Nat := []
deriving DecidableEq, Repr

/-! ## Waves, workgroups and cores -/

/-- What fixes the shape of a tile (R189, R191, R196): width, 0 when unset; type S32, or F32 or unset; the recorded scale of a row and of a
column, 0 when none. -/
structure TileMeta where
  width : Nat := 0
  s32 : Bool := false
  sa : Cells Nat := []
  sb : Cells Nat := []
deriving DecidableEq, Repr

/-- A matrix operation accepted and not complete (R190). -/
structure TileOp where
  id : Nat
  /-- counts in V -/
  counts : Bool
  /-- new elements: index row * 64 + column, value -/
  elems : List (Nat × Word)
  /-- every element becomes zero first (ACLR) -/
  clears : Bool
  /-- of an ACLR: width, type and scales after it, which are unset until an operation accepted later fixes them (R191, R205) -/
  shape : Option TileMeta := none
deriving DecidableEq, Repr

/-- An accumulator tile (R189). Element (i, j) has index 64 i + j. -/
structure Tile where
  elems : Cells Word := []
  v : Nat := 0
  va : Nat := 0
  shape : TileMeta := {}
  ops : List TileOp := []
deriving DecidableEq, Repr

/-- A wave in its slot (R17, R18). -/
structure Wave where
  /-- core * 64 + slot -/
  key : Nat
  wg : Nat
  grid : Nat
  /-- index within the workgroup -/
  index : Nat
  /-- width W -/
  width : Nat
  /-- by increasing first quad -/
  parts : List Part
  /-- index register * 64 + lane -/
  v : Cells Word := []
  /-- index x register * 64 + lane -/
  x : Cells Byte := []
  /-- by lane -/
  nest : Cells Nat := []
  /-- lanes that have executed END, or that started terminated (R37, R362) -/
  ended : List Nat := []
  tiles : List Tile := []
  /-- ARBCFG.RTO (R60) -/
  rto : Nat := 64
  /-- declared register count (R96) -/
  regs : Nat := 96
  vbase : Nat := 0
  vbound : Nat := 96
  /-- address of the backing-store area, in the wave's local memory (R104) -/
  backing : Nat := 0
  /-- a page of the backing-store area is not present and writable (R105) -/
  areaLost : Bool := false
  ctrl : Bool := false
  partition : Nat := 0
  ctx : Nat := 0
  /-- address of the wave's local area (R227, R387) -/
  localBase : Nat := 0
  /-- the cycle counter at core cycle `cycle0`, from which it counts on (R442); of a wave that stands still, the cycle at which it did -/
  cycBase : Nat := 0
  cycle0 : Nat := 0
  /-- the cycle since which both conditions of FUSEDEAD hold (R32) -/
  deadSince : Option Nat := none
  /-- path signature (R454) -/
  sig : Nat := 0
  /-- region set of the operand buffer (R106) -/
  region : List Nat := []
  /-- operand-buffer entries per lane (R106) -/
  grant : Nat := 16
  /-- stopped by a debugger (R448) -/
  stopped : Bool := false
  /-- the time of the stop (R450), and its cause (R446) -/
  stopTime : Nat := 0
  stopCause : Nat := 0
  /-- the part that a debugger's STEP lets issue one word (R451) -/
  stepping : Option Nat := none
  /-- the wave stops when the current word is over, with this cause (R223, R451) -/
  stopReq : Option Nat := none
  /-- poisoned register words: register * 64 + lane (R108) -/
  poison : List Nat := []
  /-- register words with a single-bit error that no read has corrected: register * 64 + lane (R108) -/
  flaws : List Nat := []
  /-- words issued since the last SUMMARY record, and cycles in which ready parts did not issue (R446) -/
  sumWords : Nat := 0
  sumWait : Nat := 0
  /-- periods of 2^16 cycles that the wave has written a SUMMARY for (R447) -/
  sumMark : Nat := 0
deriving DecidableEq, Repr

/-- A workgroup barrier (R434). -/
structure Barrier where
  /-- the E fixed by the first arrival of the open phase; 0 for every unterminated wave -/
  expected : Nat := 0
  phase : Bool := false
  /-- waves that have arrived in the open phase -/
  waves : List Nat := []
  /-- quads that have issued the arrival of the open phase: wave * 16 + quad -/
  quads : List Nat := []
deriving DecidableEq, Repr

/-- A g-register operation of the last cycles (R112). -/
structure GOp where
  reg : Nat
  cycle : Nat
  /-- the value the register held before the operation's cycle -/
  old : Word
deriving DecidableEq, Repr

/-- A resident, parked or swapped workgroup. -/
structure Wg where
  grid : Nat
  lin : Nat
  x : Nat
  y : Nat
  z : Nat
  core : Nat
  waves : List Nat
  g : Cells Word := []
  gops : List GOp := []
  stage : Nat := 0
  wp : Cells Nat := []
  bars : KMap Barrier := []
  /-- scratchpad allocation on the core -/
  spadBase : Nat := 0
  spadSize : Nat := 0
  /-- BARP phase boundary the workgroup waits at (R43) -/
  phaseAt : Option Nat := none
  /-- static schedule entries released (R302) -/
  released : Nat := 0
  /-- PREEMPT delivered: the time after which parts that have not yielded are saved whole (R70) -/
  predl : Option Nat := none
  /-- charge of a DEADLINE workgroup, in units of 1/`chargeUnit` cycle (R66) -/
  charge : Nat := 0
  ended : Bool := false
  /-- ended waves whose resources its copy requests keep (R305, log 77) -/
  kept : List Wave := []
deriving DecidableEq, Repr

/-- A pre-empted workgroup that has given up its core (R69, R70): its waves as they resume, and the bytes of its scratchpad by
offset when it was saved whole. -/
structure Parked where
  wg : Wg
  waves : List Wave
  spad : Memory := []
deriving DecidableEq, Repr

/-- A line lock (R236): core or die, context, line address. -/
structure Lock where
  place : Nat
  ctx : Nat
  line : Nat
deriving DecidableEq, Repr

/-- A core: its performance counters (R443), its weight class and health (R49, R471). -/
structure Core where
  pmc : List Nat := [0, 0, 0, 0]
  pmcsel : List Nat := [0, 0, 0, 0]
  /-- the cycle of the last event counted, and the events that each counter has counted in it (R443) -/
  recent : Nat × List Nat := (0, [])
  cyc0 : Nat := 0
  inst : Nat := 0
  weight : Nat := 0
  /-- the admitted DEADLINE grid that holds the core (R66) -/
  reserved : Option Nat := none
  tripped : Bool := false
  retired : Bool := false
  spare : Bool := false
  /-- the core is to be retired: its cause; for one other than UEREG it waits for a DEADLINE launch to complete (R471) -/
  retiring : Option Nat := none
  /-- the time of the last UEREG, and the times of the scrubber's corrections of the last second (R471) -/
  uereg : Option Nat := none
  scrubs : List Nat := []
  /-- the last temperature reported, in °C (R49) -/
  temp : Nat := 0
  /-- rounds in which the core was eligible, of the last four (R51) -/
  rounds : List Nat := []
  /-- workgroups queued at the phase queue (R43) -/
  phaseQueue : List Nat := []
  /-- the phase-record table: waves whose carry sets it holds (R43, log 62) -/
  records : List Nat := []
  /-- the cycle from which each quarter's issue port is free (R18, R54) -/
  busy : Cells Nat := []
  /-- the last cycle in which a word issued, and its place in it; the same of operations on the g home (R112, R496) -/
  last : Option (Nat × Nat) := none
  lastG : Option (Nat × Nat) := none
deriving DecidableEq, Repr

/-- A run in progress on a quarter (R54). -/
structure Run where
  wave : Nat
  q : Nat
  words : Nat := 0
  /-- PC of the run's first word, and its active lanes as a mask (R446) -/
  pc : Word := 0
  mask : Nat := 0
deriving DecidableEq, Repr

/-- A loop body in a quarter's loop buffer (R63): its context, the address of its first word, its length in words, and the words loaded so
far, by their place. -/
structure LoopBody where
  ctx : Nat
  start : Nat
  len : Nat
  words : Cells Nat := []
deriving DecidableEq, Repr

/-- Who holds a copy of bytes that may be older than its point's (R249, R250). -/
inductive Holder where
  /-- the L1 through which a core reaches memory; of a fused cluster, its first core's -/
  | l1 (core : Nat)
  /-- the L2 of a die -/
  | l2 (die : Nat)
  /-- a value that a location has held since a grid began, for the grid's invariant loads (R259) -/
  | inv (grid : Nat)
deriving DecidableEq, Repr

/-- A copy of a 32-byte sector: holder, memory, sector, the key tag under which it was read, and its bytes. -/
structure Stale where
  who : Holder
  mem : Mem
  sector : Nat
  tag : Nat
  bytes : List Byte
deriving DecidableEq, Repr

/-- A plain store that is not yet performed everywhere (R249). -/
structure Store where
  id : Nat
  mem : Mem
  addr : Nat
  bytes : List Byte
  /-- key tag of the bytes (R233) -/
  tag : Nat
  core : Nat
  /-- the widest scope reached (R248) -/
  scope : Nat
  time : Nat
deriving DecidableEq, Repr

/-- A TLB: a core's, a cluster's, a die's (R383). -/
inductive TlbAt where
  | core (c : Nat)
  | cluster (k : Nat)
  | die (d : Nat)
deriving DecidableEq, Repr

/-- A cached translation (R383). -/
structure TlbEntry where
  place : TlbAt
  partition : Nat
  ctx : Nat
  /-- G: matches every context of the partition -/
  glob : Bool
  /-- virtual address divided by the size of the leaf's page -/
  page : Nat
  level : Nat
  pte : Nat
  /-- the physical address of the entry -/
  pteAddr : Nat
deriving DecidableEq, Repr

/-- A cached table pointer of a die's page-walk cache (R383). -/
structure TablePtr where
  die : Nat
  partition : Nat
  ctx : Nat
  /-- the level of the table that it names -/
  level : Nat
  /-- virtual address divided by what the table covers -/
  page : Nat
  /-- the table's physical address -/
  base : Nat
deriving DecidableEq, Repr

/-- A fault record (R382): its number once it is written, the page, the context, the access code, the level, and the accesses
merged into it until then. -/
structure FaultRec where
  id : Nat
  num : Option Nat
  page : Nat
  ctx : Nat
  acc : Nat
  level : Nat
  count : Nat
deriving DecidableEq, Repr

/-- A partition's fault ring (R382): its registers, and the records not answered, oldest first. -/
structure FaultRing where
  base : Nat := 0
  size : Nat := 16
  head : Nat := 0
  tail : Nat := 0
  en : Bool := false
  evq : Nat := 0
  recs : List FaultRec := []
deriving DecidableEq, Repr

/-- A 64-byte block of code that a core holds for a context, and the memory and address it was read from (R239, R317). -/
structure IBlock where
  core : Nat
  ctx : Nat
  va : Nat
  mem : Mem
  addr : Nat
  bytes : List Byte
deriving DecidableEq, Repr

/-- A MEASURE session in progress (R452 to R455). -/
structure Session where
  groups : Nat
  savea : Nat
  savesz : Nat
  reca : Nat
  /-- event codes, four for each group -/
  events : List Nat
  pass : Nat := 1
  /-- captured pages, in order -/
  pages : List Nat := []
  full : Bool := false
  aborted : Bool := false
  pathmis : Bool := false
  datamis : Bool := false
  /-- signatures of pass 1, by WGLIN * 16 + WAVEID, and those of the current pass -/
  sigs : KMap Nat := []
  cur : KMap Nat := []
  /-- the hash of the captured pages after pass 1 -/
  hash : Nat := 0
  /-- the dispatcher pointer at the start of pass 1 -/
  ptr : Nat := 0
  /-- cores that have run the current pass -/
  cores : List Nat := []
deriving DecidableEq, Repr

/-- Peer stores of one word of a lane that the peer has not acknowledged (R261). -/
structure Astp where
  id : Nat
  dev : Nat
  /-- memory, address, key tag and bytes, in order -/
  pieces : List (Mem × Nat × Nat × List Byte)
  partition : Nat
  grid : Nat
deriving DecidableEq, Repr

/-- On whose behalf an address is resolved: a lane, or an engine operation that it issued. -/
structure Owner where
  partition : Nat
  ctx : Nat
  ctrl : Bool
  grid : Nat
  wg : Nat
  core : Nat
  width : Nat
  lane : Nat
  /-- the wave's local area, and its bytes per lane (R227) -/
  localBase : Nat
  localSize : Nat
deriving DecidableEq, Repr

/-- What an AGATH request gathers (R297). -/
structure Gather where
  rowb : Nat
  nrows : Nat
  frow : Nat
  swz : Nat
  idx : List Nat
deriving DecidableEq, Repr

/-- A copy request (R286 to R305). -/
structure Copy where
  owner : Owner
  /-- channel 0 to 15 -/
  ch : Nat
  /-- 0 COPY, 1 CCVT, 2 CSUM, 3 CFILL; a gather has `gather` -/
  fn : Nat
  /-- source address, or CFILL's pattern, or the table of a gather -/
  src : Nat
  /-- destination address; a shared offset for a gather -/
  dst : Nat
  /-- destination bytes in all -/
  total : Nat
  srct : Nat := 0
  dstt : Nat := 0
  recm : Bool := false
  rnd : Nat := 0
  sat : Bool := false
  ftz : Bool := false
  ben : Bool := false
  slot : Nat := 0
  bsp : Bool := false
  boff : Nat := 0
  /-- completion queue, if it posts a record -/
  queue : Option Nat := none
  tag : Nat := 0
  gather : Option Gather := none
  /-- destination bytes delivered -/
  done : Nat := 0
  /-- rows filled with zeros -/
  oob : Nat := 0
  /-- a cell was saturated (R295) -/
  ovf : Bool := false
  /-- fault records it has stopped for (R303) -/
  waits : List Nat := []
  /-- ended early: status and fault code (R299) -/
  status : Option (Nat × Nat) := none
  /-- saved with its workgroup (R305) -/
  saved : Bool := false
  /-- in its channel's FIFO (R286, R303) -/
  fifo : Bool := true
  /-- entry PC of the kernel whose word issued it (R300, R353) -/
  origin : Nat := 0
deriving DecidableEq, Repr

/-- An entry of an XPAIR stack (R408, R410): a reference per side (under sweep, y is the next B leaf index), and the node and slot of its
child entry; node 0xFFFF_FFFF for a root. -/
structure PairEnt where
  x : Nat
  y : Nat
  pnx : Nat
  pny : Nat
  sx : Nat
  sy : Nat
deriving DecidableEq, Repr

/-- An XPAIR traversal (R404 to R414). -/
structure Xpair where
  owner : Owner
  /-- wave of the part that issued it -/
  key : Nat
  self : Bool
  canon : Bool
  resume : Bool
  sw : Bool
  nodea : Nat
  leafa : Nat
  nodeb : Nat
  leafb : Nat
  roota : Nat
  rootb : Nat
  qmask : Nat
  user : Nat
  cont : Nat
  rq : Nat
  started : Bool := false
  /-- the stack, the top first -/
  stack : List PairEnt := []
  count : Nat := 0
  /-- EMITTED before this call -/
  base : Nat := 0
  /-- fault records it has stopped for -/
  waits : List Nat := []
  /-- its end is decided: status and kind; what it has still to write of the continuation is written by then -/
  result : Option (Nat × Nat) := none
  /-- its part yields, or its wave is terminated (R414) -/
  yields : Bool := false
  cancelled : Bool := false
  /-- it waits in a saved context for its workgroup (R414) -/
  saved : Bool := false
deriving DecidableEq, Repr

/-- The ray traversal of a lane (R416): what is left of its stack of references, and the nearest hit: leaf, the parameter as a fraction or
an infinity, PRIM. -/
structure RayLane where
  lane : Nat
  /-- the 14 operands (R415) -/
  ops : List Word
  stack : List Nat
  leaf : Option Nat := none
  /-- the parameter's exact value as a sign, numerator and denominator; denominator 0 for an infinity -/
  t : Bool × Nat × Nat := (false, 0, 0)
  prim : Nat := 0
  waits : List Nat := []
deriving DecidableEq, Repr

/-- The ray traversals of an XRAY (R404, R416). -/
structure Xray where
  owner : Owner
  key : Nat
  any : Bool
  cull : Bool
  lanes : List RayLane
deriving DecidableEq, Repr

/-- What happens to the machine from outside, or by an error, that is no row of the opcode table (log 74). -/
inductive Env where
  /-- a word of a wave's main vector file takes an error: a single bit, or more than SECDED corrects (R108, R109) -/
  | upset (wave reg lane : Nat) (double : Bool)
  /-- a dirty sector of HBM takes an uncorrectable error, and its write-back carries the poison (R240) -/
  | poison (sector : Nat)
  /-- a holder keeps a copy of a sector as it reads now, under a key tag (R250, R259) -/
  | hold (who : Holder) (mem : Mem) (sector tag : Nat)
  /-- a pending load of a part performs a lane's read now (R250) -/
  | sample (wave q id lane : Nat)
  /-- the special-function result of one lane is written, before those of its quad's other lanes (R185) -/
  | result (wave id lane : Nat)
  /-- the host masks or unmasks the MSI-X function, or masks a vector (R323) -/
  | maskFunction (on : Bool)
  | maskVector (vec : Nat)
  /-- the host completes no ring access from a time on, or completes them again (R501) -/
  | mute (on : Bool)
  /-- a control core starts a wave of width 4 at an offset of a context's code window (R333) -/
  | control (core slot : Nat) (ctx : Nat) (pc tvec : Word)
deriving DecidableEq, Repr

/-- What moves next when the machine is told (log 1). -/
inductive Agenda where
  /-- an act of the outside world -/
  | env (e : Env)
  /-- an event of the device -/
  | event (i : Instr)
  /-- the part of a wave that issues its next word -/
  | word (wave : Nat) (q : Nat)
deriving DecidableEq, Repr

/-- What the splice cache holds under a key (R349). -/
structure SpliceEntry where
  ctx : Nat
  /-- identities of the two loaded objects -/
  objp : Nat
  objc : Nat
  /-- entry PCs of the two kernels -/
  pcp : Nat
  pcc : Nat
  /-- the producer's TRANSIENT mask -/
  mask : Nat
  /-- the order of its last use -/
  used : Nat
deriving DecidableEq, Repr

/-- A partition (R469). -/
structure Partition where
  /-- granules -/
  gmask : Nat := 0
  vbudget : Nat := 96
  aplocal : Nat := 0
  apshared : Nat := 0
  apcluster : Nat := 0
  hbmBase : Nat := 0
  hbmSize : Nat := 0
  agemax : Nat := 256
  predl : Nat := 20
  lkquota : Nat := 0
  /-- MINW and MAXW of each class in the L2 and in the last-level cache (R234) -/
  l2ways : List (Nat × Nat) := List.replicate 4 (0, 16)
  llcways : List (Nat × Nat) := List.replicate 4 (0, 16)
  /-- the dispatcher's pointer and its round (R50) -/
  ptr : Nat := 0
  round : Nat := 0
  /-- the splice cache by entry (R349) -/
  cache : KMap SpliceEntry := []
  /-- clock of the compute islands in MHz, and idle cycles at the issue ports (R465) -/
  clock : Nat := 1000
  throttled : Bool := false
  /-- the swap (R72): 0 none, 1 a swap-out waits for DEADLINE launches, 2 halted and draining out, 3 out in the shadow slots,
  4 coming in -/
  swap : Nat := 0
  /-- a wipe runs (R243) -/
  wiping : Bool := false
  /-- PARTUNDEF waits for the wipe (R469) -/
  undef : Bool := false
deriving DecidableEq, Repr

/-- Spliced code in a code window (R345, R353): its first offset, its words, and for each word its original PC and whether its
origin is the consumer kernel; with the entry PCs of both kernels. -/
structure SpliceCode where
  start : Nat
  words : List Word
  tags : List (Nat × Bool)
  producer : Nat
  consumer : Nat
deriving DecidableEq, Repr

/-- A symbol of a loaded object (R394): its name, BIND, KIND, window offset or address, and a kernel's declarations. -/
structure Symbol where
  name : List Byte
  bind : Nat
  kind : Nat
  value : Nat
  regs : Nat := 0
  width : Nat := 0
  waves : Nat := 0
  tiles : Nat := 0
  scratch : Nat := 0
deriving DecidableEq, Repr

/-- A mark of a SPLICE section (R396): the word's window offset, KIND, and the address expression. -/
structure Mark where
  word : Nat
  kind : Nat
  b : Nat
  bytes : Nat
  c0 : Int
  cl : Int
  ci : Int
  cw : Int
deriving DecidableEq, Repr

/-- A SPLICE section (R396): role, and the first and last word of the body as window offsets. -/
structure SpliceSect where
  role : Nat
  start : Nat
  stop : Nat
  marks : List Mark
deriving DecidableEq, Repr

/-- A loaded code object (R392, R393). -/
structure CodeObj where
  /-- its identity, which rises with the loads -/
  id : Nat
  addr : Nat
  gen : Nat
  /-- the order of its last launch -/
  used : Nat
  /-- unloaded, while grids still run its code (R393) -/
  old : Bool := false
  /-- window offset and bytes of its CODE sections -/
  codes : List (Nat × Nat) := []
  syms : List Symbol := []
  minregs : Nat := 0
  carry : List (Nat × List Nat) := []
  splice : Option SpliceSect := none
deriving DecidableEq, Repr

/-- A context: one address space (R373, R470). -/
structure Context where
  root : Nat := 0
  codewin : Nat := 0
  /-- a load has fixed the code window (R392) -/
  fixed : Bool := false
  /-- loaded objects, in load order -/
  objs : List CodeObj := []
  /-- breakpoint stops enabled by the debugger (R451) -/
  bkpt : Bool := false
  /-- spliced code built in the code window -/
  spliced : List SpliceCode := []
deriving DecidableEq, Repr

/-- A launch record (R386), its fields as numbers. -/
structure Launch where
  codeobj : Nat := 0
  entry : Nat := 0
  gridx : Nat := 1
  gridy : Nat := 1
  gridz : Nat := 1
  wave : Nat := 4
  wgwaves : Nat := 1
  regs : Nat := 96
  vgrant : Nat := 96
  tiles : Nat := 0
  cls : Nat := 2
  cc : Nat := 0
  scratch : Nat := 0
  localsz : Nat := 0
  locala : Nat := 0
  regarea : Nat := 0
  fusel1 : Bool := false
  phased : Bool := false
  spliceOk : Bool := false
  measure : Bool := false
  transient : Nat := 0
  evq : Nat := 0
  budget : Nat := 0
  deadline : Nat := 0
  rcores : Nat := 0
  schedn : Nat := 0
  gridid : Nat := 0
  scheda : Nat := 0
  bindtab : Nat := 0
  cqmask : Nat := 0
  rqmask : Nat := 0
  cqsel : Nat := 0
  ctxid : Nat := 0
  tvec : Nat := 0
  tag : Nat := 0
  ctxarea : Nat := 0
  ctxsz : Nat := 0
  parent : Nat := 0
  bladdr : Nat := 0
  blcount : Nat := 0
  codegen : Nat := 0
  codewin : Nat := 0
  measa : Nat := 0
deriving DecidableEq, Repr

/-- A record queue that a grid binds (R330): the descriptor, and the consumers of its batches from the first that FREE has not
passed, each by its grid or ended. -/
structure Rq where
  addr : Nat
  /-- the number of the binding -/
  n : Nat := 0
  batches : List (Option Nat) := []
deriving DecidableEq, Repr

/-- What the device gives a wave that it launches for a draw: lanes that take part, vector registers (register * 64 + lane) and the
first uniform registers (R362, R363). -/
structure WaveInit where
  lanes : Nat
  v : Cells Word := []
  w : List Word := []
deriving DecidableEq, Repr

/-- A primitive of a draw in the primitive queue (R357): its order key and its record. -/
structure Prim where
  key : List Nat
  bytes : List Byte
deriving DecidableEq, Repr

/-- A patch that TSEMIT has queued (R359, R371): its order key, its domain and partitioning, its factors as F32 patterns, outer before
inner, and its user word. -/
structure Patch where
  key : List Nat
  dom : Nat
  part : Nat
  factors : List Nat
  user : Word
deriving DecidableEq, Repr

/-- A pixel record that the vendor raster kernel has still to write (R363): block, mask, primitive id, user word. -/
structure PixJob where
  block : Nat
  mask : Nat
  prim : Nat
  user : Nat
deriving DecidableEq, Repr

/-- A draw (R354 to R363, R372), until its DRAW packet completes. -/
structure Draw where
  /-- host queue and packet -/
  queue : Nat
  seq : Nat
  partition : Nat
  ctx : Nat
  /-- its grids: geometry, domain, raster; the vendor raster kernel runs no waves of its own (log 36) -/
  geom : Nat
  dom : Option Nat
  rast : Nat
  vendor : Bool
  /-- the render-target descriptor: its address, WIDTH, HEIGHT, ORDER (R364) -/
  rt : Nat
  width : Nat
  height : Nat
  order : Nat
  /-- emitting words issued, by WGLIN * 16 + WAVEID of the geometry grid (R357) -/
  ks : Cells Nat := []
  /-- primitives emitted by a workgroup, by 2 * WGLIN, plus 1 for the domain grid (R371) -/
  emitted : Cells Nat := []
  /-- the primitive queue's entries of the draw, by rising key -/
  prims : List Prim := []
  /-- patches not tessellated, oldest first -/
  patches : List Patch := []
  /-- lanes of the domain wave that is being filled: order key and v0 to v7 (R362) -/
  lanes : List (List Nat × List Word) := []
  /-- order keys of the lanes of each domain workgroup, by linear index -/
  domKeys : KMap (List (List Nat)) := []
  /-- primitives released -/
  released : Nat := 0
  /-- records of each tile, in order -/
  bins : KMap (List (List Byte)) := []
  /-- the raster workgroup of a tile that was launched last -/
  active : KMap Nat := []
  /-- what the vendor raster kernel has still to write, by tile -/
  jobs : KMap (List PixJob) := []
  /-- first result other than DONE of each kind of grid: status and fault summary -/
  results : KMap (Nat × Nat) := []
  /-- the draw is cancelled (R372), and it was cancelled for an earlier draw -/
  cancelled : Bool := false
  can : Bool := false
deriving DecidableEq, Repr

/-- A grid, from its submission to its completion (R38 to R41). -/
structure Grid where
  launch : Launch := {}
  partition : Nat := 0
  /-- workgroups in all -/
  total : Nat := 0
  /-- completion-queue headers bound, by number (R324) -/
  cqs : List (Nat × Nat) := []
  /-- buffer list: address, length, mode (R317) -/
  bl : List (Nat × Nat × Nat) := []
  /-- the bundle it belongs to, 0 for none (R318) -/
  bundle : Nat := 0
  /-- an admitted DEADLINE launch: the time by which it promises to complete (R65, R67) -/
  due : Option Nat := none
  /-- the loaded object that it runs, and the second of a spliced pair -/
  obj : Nat := 0
  obj2 : Option Nat := none
  /-- record queues it binds -/
  rqs : List Rq := []
  /-- a consumer of a record queue: its one workgroup's WGID (R332) -/
  batch : Option (Nat × Nat × Nat) := none
  /-- the remainders of its queues have been flushed (R332) -/
  flushed : Bool := false
  /-- a grid that must complete before this one starts (R338) -/
  after : Option Nat := none
  /-- tags by which a pre-emption selects it (R348) -/
  tags : List Nat := []
  /-- entry PC of the spliced consumer, and its tag (R353) -/
  consumer : Option (Nat × Nat) := none
  /-- SPLICE of its events (R350) -/
  splice : Nat := 0
  /-- the draw it belongs to: its identity, and 0 geometry, 1 domain, 2 raster, 3 pixel (R355) -/
  draw : Option (Nat × Nat) := none
  /-- the device may still launch workgroups of it (R355) -/
  more : Bool := false
  /-- initial registers of workgroups that the device launches for a draw, by linear index -/
  inits : KMap WaveInit := []
  /-- code-window offset of the entry -/
  pc : Word := 0
  depth : Nat := 0
  parent : Option Nat := none
  /-- origin host queue, 0xFFFF for device-originated work, and its packet number -/
  queue : Nat := 0xFFFF
  /-- the host queue of its root launch (R447) -/
  rootq : Nat := 0xFFFF
  seq : Nat := 0
  /-- service class of the dispatcher's lists -/
  cls : Nat := 2
  /-- TAG of the packet or of the root launch -/
  tag : Nat := 0
  /-- workgroups placed and ended -/
  placed : Nat := 0
  ended : Nat := 0
  status : Nat := 0x0100
  fsum : Nat := 0
  origin : Nat := 0
  session : Option Session := none
  /-- carry sets of the code object: barrier, registers (R397) -/
  carry : List (Nat × List Nat) := []
  /-- the marks of elided stores, and the loop's count (R347, R351) -/
  elided : List Mark := []
  loops : Nat := 0
deriving DecidableEq, Repr

/-- An event queue (R321) with its held records and MSI-X state (R323). -/
structure Evq where
  base : Nat := 0
  size : Nat := 16
  head : Nat := 0
  tail : Nat := 0
  en : Bool := false
  ovf : Bool := false
  vec : Nat := 0
  thresh : Nat := 1
  holdmax : Nat := 16
  lost : Nat := 0
  /-- posting times of the held records, oldest first -/
  held : List Nat := []
  /-- the interrupt is due -/
  due : Bool := false
deriving DecidableEq, Repr

/-- A trace ring (R445) with the selected parts (R447) and the sample counts. -/
structure TraceRing where
  base : Nat := 0
  size : Nat := 16
  head : Nat := 0
  tail : Nat := 0
  en : Bool := false
  ovf : Bool := false
  speriod : Nat := 0
  trwg : Nat := 0
  trsel : Nat := 0
  lost : Nat := 0
  /-- core: the wave and first quad of the selected part -/
  selected : KMap (Nat × Nat) := []
  /-- core: memory words since the last sample -/
  samples : Cells Nat := []
deriving DecidableEq, Repr

/-- A memory-key slot of the key store (R242): identity of its key, if it holds one, and the partition it is bound to. -/
structure KeySlot where
  key : Option Nat := none
  bound : Option Nat := none
deriving DecidableEq, Repr

/-- An event record's fields (R320); TIME is the time of posting. -/
structure EvRec where
  status : Nat
  fsum : Nat := 0
  queue : Nat := 0xFFFF
  splice : Nat := 0
  tag : Nat := 0
  origin : Nat := 0
  count : Nat := 0
deriving DecidableEq, Repr

/-! ## Host queues and the device block -/

/-- A decision of the splicer, of a launch and the one after it (R337). -/
structure Plan where
  /-- the spliced grid of this member and the next, or none: the member runs from its own record -/
  grid : Option Grid := none
  /-- the code of R350 -/
  code : Nat := 0
  /-- it starts only after the member before it completes (R338) -/
  waits : Bool := false
deriving DecidableEq, Repr

/-- A packet fetched and not complete (R308, R312 to R315). -/
structure Packet where
  seq : Nat
  /-- order of fetching over all queues (R313, QBARRIER) -/
  order : Nat
  bytes : List Byte
  /-- time of fetching (R65) -/
  time : Nat
  /-- buffer list: address, length, mode -/
  bl : List (Nat × Nat × Nat) := []
  started : Bool := false
  /-- grids that it has started, in member order -/
  grids : List Nat := []
  /-- statuses and fault summaries of the members that have completed -/
  results : List (Nat × Nat × Nat) := []
  /-- the splicer's decisions at its fetch, by member (R337) -/
  plan : List Plan := []
  /-- the second packet of a spliced pair (R350) -/
  second : Bool := false
  /-- SPLICE of the packet's event (R350) -/
  splice : Nat := 0
  /-- WAITSIG: the time of the timeout -/
  deadline : Option Nat := none
  /-- a WIPE or a swap that it waits for -/
  busy : Bool := false
deriving DecidableEq, Repr

/-- The registers of a host queue as they stood when its reset began (R310). -/
structure QueueRegs where
  head : Nat
  tail : Nat
  en : Bool
  state : Nat
  reason : Nat
deriving DecidableEq, Repr

/-- A host queue (R306 to R310). -/
structure HostQueue where
  base : Nat := 0
  size : Nat := 16
  head : Nat := 0
  tail : Nat := 0
  en : Bool := false
  cls : Nat := 2
  part : Nat := 0
  cc : Nat := 0
  evq : Nat := 0
  priv : Bool := false
  /-- 0 STOPPED, 1 RUN, 2 OVERRUN, 3 ERROR -/
  state : Nat := 0
  reason : Nat := 0
  /-- a reset waits for the fetched packets (R310) -/
  resetting : Bool := false
  /-- what its registers read as while the reset waits (R310) -/
  shadow : Option QueueRegs := none
  /-- packets fetched and not complete, in sequence order -/
  packets : List Packet := []
  /-- the splicer's code for the packet to be fetched next, and, of a spliced pair, that packet as the decision read it (R337) -/
  mateCode : Nat := 0
  mate : Option Packet := none
deriving DecidableEq, Repr

/-- A mailbox (R468, R451). -/
structure Mailbox where
  busy : Bool := false
  lost : Bool := false
  result : Nat := 0
  outlen : Nat := 0
  /-- MBDATA -/
  data : Memory := []
deriving DecidableEq, Repr

/-- The form in which the device is sold (R2, R10). -/
inductive Form where
  | package
  | moduleL
  | boardE
deriving DecidableEq, Repr

/-- The device block, its identity and its health (R456, R463, R471 to R475). -/
structure Device where
  form : Form := .package
  ready : Bool := false
  recovery : Bool := false
  /-- LIFE: 0 BLANK, 1 PROVISIONED, 2 SECURE, 3 DEBUG, 4 RMA -/
  life : Nat := 2
  /-- STEP: B0 -/
  b0 : Bool := true
  svcreq : Bool := false
  hot : Bool := false
  hevq : Nat := 0
  devnum : Nat := 0
  spanen : Bool := false
  /-- spare cores left on each die, cores lost, Span ports counted down, stacks without a spare pseudo-channel -/
  spare0 : Nat := 4
  spare1 : Nat := 4
  lost : Nat := 0
  spandn : Nat := 0
  hbmx : Nat := 0
  /-- CAPW and CAPHIT of each partition -/
  caps : List (Nat × Bool) := List.replicate 8 (0, false)
  mbox : Mailbox := {}
  dbox : Mailbox := {}
  /-- measurement registers M0 to M11 (R474) -/
  meas : Cells Nat := []
  /-- the device holds its P-521 key (R242, R473) -/
  key : Bool := true
  /-- fuse changes so far (R242, R471, R473) -/
  burns : Nat := 0
  /-- digest of a firmware image that FWLOAD has stored; none for the shipped one (R468) -/
  image : Option Nat := none
  /-- Span ports that are down, each with the time since which it is down and whether R472 has reported it -/
  ports : KMap (Nat × Bool) := []
  /-- round-trip fuses left (R473) -/
  trips : Nat := 15
  /-- the nonce of a challenge: its free value, and the time at which it expires (R475) -/
  nonce : Option (Nat × Nat) := none
  /-- debug port: open, and the token's scope (R451, R475) -/
  dbgOpen : Bool := false
  dbgScope : Nat := 0
  /-- the package has removed power from every island (R466) -/
  off : Bool := false
  /-- islands whose clocks are stretched (R461) -/
  stretched : List Nat := []
  /-- droop-stretch events of the last 10 µs: island and time; and the time of the last weight-class update (R49) -/
  droops : List (Nat × Nat) := []
  weighed : Nat := 0
  /-- HBM stacks whose spare pseudo-channel is used, and pseudo-channels being copied: stack and channel (R471) -/
  spentStacks : List Nat := []
  copying : List (Nat × Nat) := []
deriving DecidableEq, Repr

/-! ## The machine -/

/-- The whole machine. -/
structure State where
  /-- what moves next when told (log 1) -/
  agenda : List Agenda := []
  /-- counter of free values (log 2) -/
  fresh : Nat := 0
  /-- counter of identities (log 3) -/
  nextId : Nat := 1
  /-- device time in ns (R442) -/
  time : Nat := 0
  /-- thousandths of a cycle by which the clock of a compute island is behind 1 GHz (R8, R9) -/
  lag : Cells Nat := []
  /-- the quarter (core * 4 + quarter) whose part holds the issue port and issues next -/
  focus : Option Nat := none
  runs : KMap Run := []
  waves : KMap Wave := []
  wgs : KMap Wg := []
  /-- pre-empted workgroups (R69, R70) -/
  parked : KMap Parked := []
  /-- fused clusters (R232) -/
  fused : List Nat := []
  /-- L1 locks by core, L2 locks by die (R236) -/
  l1Locks : List Lock := []
  l2Locks : List Lock := []
  cores : KMap Core := []
  hbm : Memory := []
  host : Memory := []
  /-- peer memory: device * 2^46 + offset -/
  peer : Memory := []
  /-- scratchpads: core * 2^19 + offset -/
  spad : Memory := []
  hbmTag : Cells Nat := []
  hbmPoison : List Nat := []
  stores : List Store := []
  /-- bytes written in the step under way: memory, address, number (R105) -/
  touched : List (Mem × Nat × Nat) := []
  /-- copies that a load may return though a newer write has been performed (R250) -/
  stale : List Stale := []
  /-- peer stores on their way, oldest first (R261) -/
  astps : List Astp := []
  /-- copy requests not complete, by identity, which rises in issue order -/
  copies : KMap Copy := []
  /-- traversals not complete (R404) -/
  pairs : KMap Xpair := []
  rays : KMap Xray := []
  /-- the TLBs, the entry filled last first; and the page-walk caches (R383) -/
  tlb : List TlbEntry := []
  ptrs : List TablePtr := []
  icache : List IBlock := []
  /-- loop buffers by quarter, the body used last first (R63) -/
  loopBufs : KMap (List LoopBody) := []
  faultRings : KMap FaultRing := []
  partitions : KMap Partition := []
  contexts : KMap Context := []
  grids : KMap Grid := []
  draws : KMap Draw := []
  evqs : KMap Evq := []
  traces : KMap TraceRing := []
  keys : KMap KeySlot := []
  queues : KMap HostQueue := []
  /-- MSI-X vectors that the host has unmasked, vectors with a pending message, and messages sent by vector (R323) -/
  unmasked : List Nat := []
  funcMask : Bool := false
  msixPending : List Nat := []
  msixSent : Cells Nat := []
  /-- the host completes no ring access (R501) -/
  muted : Bool := false
  dev : Device := {}
  /-- packets that control cores have fetched with QFETCH: the partition (times 2^64) and the address it names, and the time (R65, R334) -/
  handed : KMap Nat := []
  /-- the queue last fetched from, and the queue last placed from, by partition * 4 + class (R47, R311) -/
  fetched : Cells Nat := []
  served : Cells Nat := []
deriving DecidableEq, Repr

/-- The machine right after reset: nothing configured, nothing resident, every memory zero (R243, R456, R469). -/
def State.reset : State := {}

end Sys2Proof.Machine
end

