-- ==== Sys2Proof/Machine/Access.lean ====
section
/-! DEFINITION. Reading and changing the pieces of State by name: waves, parts, lanes, registers, mode fields. -/

namespace Sys2Proof.Machine

/-! ## Places -/

/-- The core of a wave key. -/
def coreOf (key : Nat) : Nat := key / 64

/-- The slot of a wave key. -/
def slotOf (key : Nat) : Nat := key % 64

/-- The quarter of a wave key, counted over the device: core * 4 + slot / 16 (R4). -/
def quarterOf (key : Nat) : Nat := coreOf key * 4 + slotOf key / 16

/-- The cluster of a core (R4: clusters of four cores). -/
def clusterOf (core : Nat) : Nat := core / 4

/-- The compute die of a core (R4: 32 clusters a die). -/
def dieOf (core : Nat) : Nat := core / 128

/-! ## Islands and their clocks (R2, R8 to R10, R461, R462, R465) -/

/-- What a voltage and frequency island clocks (R8). -/
inductive Island where
  /-- the two clusters of a pair, by their eight cores -/
  | compute (pair : Nat)
  /-- L2 and on-die interconnect of a compute die -/
  | l2 (die : Nat)
  | hub (die : Nat)
  | io
deriving DecidableEq, Repr

/-- What island `i` of the 64 clocks: 32 compute islands, 8 of the L2, 16 of the hub dies, 8 of the I/O die (R8; the numbering is the
model's, log 75). -/
def islandKind (i : Nat) : Island :=
  if i < 32 then .compute i else if i < 40 then .l2 ((i - 32) / 4) else if i < 56 then .hub ((i - 40) / 4) else .io

/-- The compute island of a core: the pair of its cluster (R8). The control cores of the I/O die (R333) have its islands. -/
def islandOf (core : Nat) : Nat := if core < 256 then core / 8 else 56 + core % 8

/-- The partition that an island's cores belong to: its granule of 8 clusters is 4 islands (R462). -/
def islandPartition (s : State) (i : Nat) : Option Partition :=
  if i < 32 then (s.partitions.find? fun e => bitOf e.2.gmask (i / 4)).map (·.2) else none

/-- The nominal arithmetic clock of the device's form in MHz (R2, R10). -/
def nominalMhz : Form → Nat
  | .package => 1000
  | .moduleL => 1000
  | .boardE => 900

/-- The package limit on the sum of the caps in W (R463), which on the bring-up board is its power cap (R10). -/
def capLimit : Form → Nat
  | .package => 2400
  | .moduleL => 2400
  | .boardE => 700

/-- The clock of an island in MHz: nominal, as the partition's cap has lowered it, or stretched by a droop to no less than 850 (R461,
R465). -/
def islandMhz (s : State) (i : Nat) : Nat :=
  let mhz := match islandPartition s i with
    | some p => min p.clock (nominalMhz s.dev.form)
    | none => nominalMhz s.dev.form
  if s.dev.stretched.contains i then 850 + Config.droopClock i s.time % (mhz - 850 + 1) else mhz

/-- Cycles of the arithmetic clock of a core's island since reset (R9). -/
def cycleOf (s : State) (core : Nat) : Nat := (1000 * s.time - cellsGet 0 s.lag (islandOf core)) / 1000

/-- The islands after `n` ns: each falls behind 1 GHz by what its clock is slower (R9). -/
def lagAfter (n : Nat) (s : State) : Cells Nat :=
  (List.range 64).foldl (fun c i => cellsPut 0 c i (cellsGet 0 c i + n * (1000 - islandMhz s i))) s.lag

/-! ## Waves and parts -/

/-- The part of a wave whose first quad is `q`. -/
def partAt : List Part → Nat → Option Part
  | [], _ => none
  | p :: ps, q => if p.q = q then some p else partAt ps q

/-- Change the part whose first quad is `q`. -/
def partMod (f : Part → Part) : List Part → Nat → List Part
  | [], _ => []
  | p :: ps, q => if p.q = q then f p :: ps else p :: partMod f ps q

/-- Remove the part whose first quad is `q`. -/
def partDel : List Part → Nat → List Part
  | [], _ => []
  | p :: ps, q => if p.q = q then ps else p :: partDel ps q

/-- Add a part, by increasing first quad. -/
def partIns (x : Part) : List Part → List Part
  | [] => [x]
  | p :: ps => if x.q < p.q then x :: p :: ps else p :: partIns x ps

/-- The wave at a key. -/
def State.wave (s : State) (key : Nat) : Option Wave := kget s.waves key

/-- The part (key, q). -/
def State.part (s : State) (key q : Nat) : Option Part := (s.wave key).bind fun w => partAt w.parts q

/-- Change the wave at a key. -/
def State.modWave (s : State) (key : Nat) (f : Wave → Wave) : State := { s with waves := kmod f s.waves key }

/-- Change the part (key, q). -/
def State.modPart (s : State) (key q : Nat) (f : Part → Part) : State :=
  s.modWave key fun w => { w with parts := partMod f w.parts q }

/-- Change the workgroup with an identity. -/
def State.modWg (s : State) (id : Nat) (f : Wg → Wg) : State := { s with wgs := kmod f s.wgs id }

/-- Change the grid with an identity. -/
def State.modGrid (s : State) (id : Nat) (f : Grid → Grid) : State := { s with grids := kmod f s.grids id }

/-- The core's record; a core that nothing has changed is as at reset. -/
def State.core (s : State) (c : Nat) : Core := kgetD {} s.cores c

/-- Change a core's record. -/
def State.modCore (s : State) (c : Nat) (f : Core → Core) : State := { s with cores := kput s.cores c (f (s.core c)) }

/-! ## MODE (R85) -/

/-- MODE.ET. -/
def modeEtOf (m : Word) : Nat := (m.extractLsb' 0 4).toNat

/-- MODE.ET2. -/
def modeEt2Of (m : Word) : Nat := (m.extractLsb' 4 4).toNat

/-- MODE.RND. -/
def modeRndOf (m : Word) : Nat := (m.extractLsb' 8 3).toNat

/-- MODE.SAT. -/
def modeSatOf (m : Word) : Bool := m.getLsbD 11

/-- MODE.FTZ. -/
def modeFtzOf (m : Word) : Bool := m.getLsbD 12

/-- MODE.GEN. -/
def modeGenOf (m : Word) : Bool := m.getLsbD 13

/-- MODE.GPOL. -/
def modeGpolOf (m : Word) : Bool := m.getLsbD 14

/-- MODE.GREG. -/
def modeGregOf (m : Word) : BitVec 7 := m.extractLsb' 15 7

/-- MODE.FREG. -/
def modeFregOf (m : Word) : BitVec 7 := m.extractLsb' 22 7

/-- MODE.UTRAP. -/
def modeUtrapOf (m : Word) : Bool := m.getLsbD 29

/-- MODE.SPL. -/
def modeSplOf (m : Word) : Nat := (m.extractLsb' 30 2).toNat

/-! ## Register codes (R78) -/

/-- A v code. -/
def codeIsV (c : BitVec 7) : Bool := decide (c.toNat < 0x60)

/-- A w code. -/
def codeIsW (c : BitVec 7) : Bool := decide (0x60 ≤ c.toNat) && decide (c.toNat < 0x78)

/-- An indirect code, v[x0] to v[x3]. -/
def codeIsX (c : BitVec 7) : Bool := decide (0x7C ≤ c.toNat)

/-- The code ZERO. -/
def codeIsZero (c : BitVec 7) : Bool := decide (c = 0x78#7)

/-- The code K. -/
def codeIsK (c : BitVec 7) : Bool := decide (c = 0x7A#7)

/-- A v code or an indirect code. -/
def codeIsVec (c : BitVec 7) : Bool := codeIsV c || codeIsX c

/-! ## Lanes -/

/-- The lanes of a block of quads, of the 64 that a wave can have (R17). -/
def blockLanes (q n : Nat) : List Nat := ((List.range (4 * n)).map (· + 4 * q)).filter (· < 64)

/-- The lanes of a part that have not executed END, lowest first. -/
def liveLanes (w : Wave) (p : Part) : List Nat := (blockLanes p.q p.n).filter fun l => !(w.ended.contains l)

/-- NEST of a lane (R424). -/
def Wave.nestOf (w : Wave) (l : Nat) : Nat := cellsGet 0 w.nest l

/-- Vector register `r` of lane `l`. -/
def Wave.getV (w : Wave) (r l : Nat) : Word := cellsGet 0#32 w.v (r * 64 + l)

/-- Write vector register `r` of lane `l`; a write clears the poison mark and a single-bit error (R108). -/
def Wave.setV (w : Wave) (r l : Nat) (x : Word) : Wave :=
  { w with
    v := cellsPut 0#32 w.v (r * 64 + l) x, poison := w.poison.filter (· ≠ r * 64 + l), flaws := w.flaws.filter (· ≠ r * 64 + l) }

/-- Index register `x` of a lane. -/
def Wave.getX (w : Wave) (x l : Nat) : Byte := cellsGet 0#8 w.x (x * 64 + l)

/-- Uniform register `r` of a part's view. -/
def Part.getW (p : Part) (r : Nat) : UReg := p.w.getD r {}

/-- Write uniform register `r` in a part's view, with its writer block (R34). -/
def Part.setW (p : Part) (r : Nat) (x : Word) : Part := { p with w := listPut {} p.w r { val := x, bq := p.q, bn := p.n } }

/-- The vector register a v or indirect code names in a lane. -/
def regNum (w : Wave) (c : BitVec 7) (l : Nat) : Nat :=
  if codeIsX c then (w.getX (c.toNat - 0x7C) l).toNat else c.toNat

/-- The guard value of a lane (R87). -/
def guardVal (w : Wave) (p : Part) (l : Nat) : Word :=
  let c := modeGregOf p.mode
  if codeIsV c then w.getV c.toNat l else if codeIsW c then (p.getW (c.toNat - 0x60)).val else 0#32

/-- The guard lets a lane act (R87). -/
def guardOk (w : Wave) (p : Part) (l : Nat) : Bool :=
  !modeGenOf p.mode || (decide (guardVal w p l ≠ 0#32) != modeGpolOf p.mode)

/-- A lane of the part is active (R87). -/
def laneActive (w : Wave) (p : Part) (l : Nat) : Bool :=
  !(w.ended.contains l) && decide (w.nestOf l = 0) && guardOk w p l

/-- The active lanes of a part, lowest first (R87). -/
def activeLanes (w : Wave) (p : Part) : List Nat := (blockLanes p.q p.n).filter (laneActive w p)

/-- STATUS as software reads it (R99). -/
def statusWord (w : Wave) (p : Part) : Word :=
  BitVec.ofNat 32 (b2n p.ucf + 2 * b2n p.poison + 4 * b2n p.corr + 16 * b2n p.handler + 32 * b2n w.ctrl)

/-- (q, n) as TPART shows it (R100). -/
def tpartWord (q n : Nat) : Word := BitVec.ofNat 32 (q % 16 + 16 * (n % 32))

end Sys2Proof.Machine
end

