-- ==== Sys2Proof/Machine/Physical.lean ====
section
/-! DEFINITION. Physical memory: what a party reads, how plain stores wait to be performed at wider scopes and how they are
performed (R245 to R254), key tags (R233) and poison (R240). -/

namespace Sys2Proof.Machine

/-- Who reads (R245): a lane of a core, an agent at the DEVICE point, or the host at the SYSTEM point. -/
inductive View where
  | core (c : Nat)
  | device
  | system
deriving DecidableEq, Repr

/-- The bytes of a memory. -/
def State.memOf (s : State) : Mem → Memory
  | .hbm => s.hbm
  | .host => s.host
  | .peer => s.peer
  | .spad => s.spad

/-- Replace the bytes of a memory. -/
def State.setMem (s : State) (m : Mem) (x : Memory) : State :=
  match m with
  | .hbm => { s with hbm := x }
  | .host => { s with host := x }
  | .peer => { s with peer := x }
  | .spad => { s with spad := x }

/-- The scope at which a store is performed everywhere it can be seen: DEVICE for HBM, SYSTEM for host and peer memory (R248). -/
def fullScope : Mem → Nat
  | .hbm => 4
  | .host => 5
  | .peer => 5
  | .spad => 1

/-- A pending store covers byte `a` of memory `m`. -/
def Store.covers (x : Store) (m : Mem) (a : Nat) : Bool :=
  decide (x.mem = m) && decide (x.addr ≤ a) && decide (a < x.addr + x.bytes.length)

/-- A pending store overlaps `n` bytes from `a` of memory `m`. -/
def Store.overlaps (x : Store) (m : Mem) (a n : Nat) : Bool :=
  decide (x.mem = m) && decide (x.addr < a + n) && decide (a < x.addr + x.bytes.length)

/-- The scope at whose point an operation of a core acts (R248): while its cluster is not fused, CLUSTER has the die's L2 as point, which
is DIE's. -/
def pointScope (s : State) (core scope : Nat) : Nat := if scope = 2 ∧ !(s.fused.contains (clusterOf core)) then 3 else scope

/-- A pending store is visible to a party: the party shares the scope it has reached (R248, R249). -/
def Store.visible (x : Store) : View → Bool
  | .core c => decide (x.core = c) || (decide (2 ≤ x.scope) && decide (clusterOf x.core = clusterOf c)) ||
      (decide (3 ≤ x.scope) && decide (dieOf x.core = dieOf c)) || decide (4 ≤ x.scope)
  | .device => decide (4 ≤ x.scope)
  | .system => decide (5 ≤ x.scope)

/-- What a byte written under key tag `t` reads as under tag `r` (R233). -/
def tagged (a t r : Nat) (b : Byte) : Byte := if t = r then b else Config.crypt a t r b

/-- A byte of a memory where no pending store counts, read under key tag `tag`. -/
def baseByte (s : State) (m : Mem) (tag a : Nat) : Byte :=
  match m with
  | .hbm => tagged a (cellsGet 0 s.hbmTag a) tag (s.hbm.read a)
  | .host => s.host.read a
  | .peer => s.peer.read a
  | .spad => s.spad.read a

/-- The byte of the newest pending store of a list that covers byte `a` and is visible to the party, or `d`. -/
def pendingByte (vw : View) (m : Mem) (tag a : Nat) (d : Byte) : List Store → Byte
  | [] => d
  | x :: xs =>
    pendingByte vw m tag a
      (if x.covers m a && x.visible vw then
        (match m with
        | .hbm => tagged a x.tag tag (x.bytes.getD (a - x.addr) 0#8)
        | _ => x.bytes.getD (a - x.addr) 0#8)
      else d) xs

/-- The byte that a party reads (R250: the newest write in coherence order that the party can see). -/
def physRead (s : State) (vw : View) (m : Mem) (tag a : Nat) : Byte :=
  pendingByte vw m tag a (baseByte s m tag a) s.stores

/-- `n` bytes that a party reads. -/
def physReadN (s : State) (vw : View) (m : Mem) (tag a : Nat) : Nat → List Byte
  | 0 => []
  | n + 1 => physRead s vw m tag a :: physReadN s vw m tag (a + 1) n

/-- A little-endian number that a party reads. -/
def physNat (s : State) (vw : View) (m : Mem) (tag a n : Nat) : Nat := natOfBytes (physReadN s vw m tag a n)

/-- Set the key tag of `n` bytes. -/
def tagN (c : Cells Nat) (a tag : Nat) : Nat → Cells Nat
  | 0 => c
  | n + 1 => tagN (cellsPut 0 c a tag) (a + 1) tag n

/-- A write to bytes is noted, for what has its home there (R105). -/
def noteWrite (s : State) (m : Mem) (a n : Nat) : State := { s with touched := (m, a, n) :: s.touched }

/-- Write bytes to a memory, as performed everywhere. -/
def baseWrite (s0 : State) (m : Mem) (tag a : Nat) (bs : List Byte) : State :=
  let s := noteWrite s0 m a bs.length
  match m with
  | .hbm => { s with hbm := s.hbm.writeN a bs, hbmTag := tagN s.hbmTag a tag bs.length }
  | .host => { s with host := s.host.writeN a bs }
  | .peer => { s with peer := s.peer.writeN a bs }
  | .spad => { s with spad := s.spad.writeN a bs }

/-! ## Copies that may be old (R249, R250, R258, R259) -/

/-- The L1 through which a core reaches memory: of a fused cluster, one for its cores (R232). -/
def l1Of (s : State) (core : Nat) : Holder := .l1 (if s.fused.contains (clusterOf core) then clusterOf core * 4 else core)

/-- The copy of a sector that a holder keeps. -/
def findStale (s : State) (who : Holder) (m : Mem) (tag a : Nat) : Option Stale :=
  s.stale.find? fun x => decide (x.who = who) && decide (x.mem = m) && decide (x.sector = a / 32) && decide (x.tag = tag)

/-- The byte that a plain load of a lane returns (R250): of the L1's copy; of a store that its own die has not performed wider; of the
L2's copy; of the newest write that it can see. -/
def loadByte (s : State) (core : Nat) (m : Mem) (tag a : Nat) : Byte :=
  if s.stale.isEmpty then physRead s (.core core) m tag a
  else
    match findStale s (l1Of s core) m tag a with
    | some x => x.bytes.getD (a % 32) 0#8
    | none =>
      if s.stores.any fun x => x.covers m a && x.visible (.core core) && decide (dieOf x.core = dieOf core) then
        physRead s (.core core) m tag a
      else match findStale s (.l2 (dieOf core)) m tag a with
        | some x => x.bytes.getD (a % 32) 0#8
        | none => physRead s (.core core) m tag a

/-- `n` bytes that a plain load of a lane returns; of a replicated page, the last that were written (R258). -/
def loadBytes (s : State) (core : Nat) (repl : Bool) (m : Mem) (tag a n : Nat) : List Byte :=
  if repl then physReadN s (.core core) m tag a n else (List.range n).map fun i => loadByte s core m tag (a + i)

/-- The copies of the sectors that hold `n` bytes from `a` and that a choice of holders selects are gone. -/
def dropStale (who : Holder → Bool) (m : Mem) (a n : Nat) (s : State) : State :=
  { s with
    stale := s.stale.filter fun x =>
      !(who x.who && decide (x.mem = m) && decide (x.sector * 32 < a + n) && decide (a < x.sector * 32 + 32)) }

/-- A holder that a core reads through. -/
def readsThrough (s : State) (core : Nat) (h : Holder) : Bool := decide (h = l1Of s core) || decide (h = .l2 (dieOf core))

/-- AN ACQUIRE at a scope by a party of a core (R249, R251): its later loads return nothing older than the scope's point holds. -/
def physAcquire (s : State) (core scope : Nat) : State :=
  let sc := pointScope s core scope
  { s with stale := s.stale.filter fun x =>
      !((decide (3 ≤ sc) && decide (x.who = l1Of s core)) || (decide (4 ≤ sc) && decide (x.who = .l2 (dieOf core)))) }

/-- A holder keeps a copy of a sector as it reads now. -/
def holdSector (who : Holder) (m : Mem) (sector tag : Nat) (s : State) : State :=
  let bs := match who with
    | .l1 c => (List.range 32).map fun i => loadByte s c m tag (sector * 32 + i)
    | .l2 d => (List.range 32).map fun i =>
        match findStale s (.l2 d) m tag (sector * 32) with
        | some x => x.bytes.getD i 0#8
        | none => pendingByte (.core (128 * d)) m tag (sector * 32 + i) (baseByte s m tag (sector * 32 + i))
            (s.stores.filter fun x => decide (3 ≤ x.scope))
    | .inv _ => physReadN s .device m tag (sector * 32) 32
  let who := match who with
    | .l1 c => l1Of s c
    | w => w
  let old := match who with
    | .inv _ => s.stale
    | _ => s.stale.filter fun x => !(decide (x.who = who) && decide (x.mem = m) && decide (x.sector = sector) && decide (x.tag = tag))
  if m = .spad then s else { s with stale := { who := who, mem := m, sector := sector, tag := tag, bytes := bs } :: old }

/-- Bytes of one sector that an invariant load of a grid returns (R259): what they hold now, or have held since the grid began. -/
def invBytes (s : State) (grid core : Nat) (repl : Bool) (m : Mem) (tag a n : Nat) : List Byte :=
  let held := s.stale.filter fun x =>
    decide (x.who = .inv grid) && decide (x.mem = m) && decide (x.sector = a / 32) && decide (x.tag = tag)
  let now := loadBytes s core repl m tag a n
  if held.isEmpty then now
  else match held[Config.invPick s.fresh (a / 32) % (held.length + 1)]? with
    | some x => (List.range n).map fun i => x.bytes.getD (a % 32 + i) 0#8
    | none => now

/-! ## Performing stores (R249, R251) -/

/-- The pending stores that a choice selects, with every older store that overlaps a selected one, because the writes to a
byte are performed in their coherence order. -/
def selectStores (sel : Store → Bool) : List Store → List Store
  | [] => []
  | x :: xs =>
    let newer := selectStores sel xs
    if sel x || newer.any (fun y => y.overlaps x.mem x.addr x.bytes.length) then x :: newer else newer

/-- Apply the stores of a list that are performed everywhere. -/
def applyStores (s : State) : List Store → State
  | [] => s
  | x :: xs => applyStores (baseWrite s x.mem x.tag x.addr x.bytes) xs

/-- A store that reaches its die's L2 leaves no copy there. -/
def dropL2 (x : Store) (s : State) : State := dropStale (fun h => decide (h = .l2 (dieOf x.core))) x.mem x.addr x.bytes.length s

/-- Perform the chosen pending stores, and what must come before them, at a scope (R249, R251). -/
def performStores (s : State) (sel : Store → Bool) (scope : Nat) : State :=
  if s.stores.isEmpty then s
  else
    let chosen := (selectStores sel s.stores).map (·.id)
    let raised := s.stores.map fun x => if chosen.contains x.id then { x with scope := max x.scope (pointScope s x.core scope) } else x
    let s := if s.stale.isEmpty then s else
      (raised.filter fun x => chosen.contains x.id && decide (3 ≤ x.scope)).foldl (fun s x => dropL2 x s) s
    applyStores { s with stores := raised.filter fun x => decide (x.scope < fullScope x.mem) }
      (raised.filter fun x => !(decide (x.scope < fullScope x.mem)))

/-- Write bytes to a memory at its widest point in one step. A store that others do not see yet comes after it in coherence order. -/
def physWrite (s : State) (m : Mem) (tag a : Nat) (bs : List Byte) : State := baseWrite s m tag a bs

/-- A plain store of a lane: performed at WAVE and WG scope now, which a fused cluster's L1 makes CLUSTER scope, and later everywhere (R248,
R249). Scratchpad is written at once. -/
def physStore (s : State) (core : Nat) (m : Mem) (tag a : Nat) (bs : List Byte) : State :=
  match m with
  | .spad => baseWrite s .spad 0 a bs
  | _ =>
    let s := noteWrite (if s.stale.isEmpty then s else dropStale (readsThrough s core) m a bs.length s) m a bs.length
    { s with
      stores := s.stores ++ [{ id := s.nextId, mem := m, addr := a, bytes := bs, tag := tag, core := core,
                               scope := if s.fused.contains (clusterOf core) then 2 else 1, time := s.time }],
      nextId := s.nextId + 1 }

/-- A release by a party of a core at a scope: every write the party can see is performed there (R251, R252: cumulative). -/
def physRelease (s : State) (core scope : Nat) : State :=
  performStores s (fun x => x.visible (.core core)) scope

/-- Put a store behind the last store of a list that it must follow: those that overlap it and that its party sees. -/
def insertStore (x : Store) (after : Store → Bool) : List Store → List Store
  | [] => [x]
  | y :: ys => if (y :: ys).any after then y :: insertStore x after ys else x :: y :: ys

/-- A write at a scope's point in one step, as an atomic makes it (R249, R254): in coherence order it follows at once what its party read. -/
def physWriteAt (s : State) (core scope : Nat) (m : Mem) (tag a : Nat) (bs : List Byte) : State :=
  if decide (m = .spad) then baseWrite s .spad 0 a bs
  else
    let s := if s.stale.isEmpty then s else dropStale (readsThrough s core) m a bs.length s
    if fullScope m ≤ scope then physWrite s m tag a bs
    else
      let x : Store := { id := s.nextId, mem := m, addr := a, bytes := bs, tag := tag, core := core, scope := scope, time := s.time }
      { noteWrite s m a bs.length with
        stores := insertStore x (fun y => y.overlaps m a bs.length && y.visible (.core core)) s.stores, nextId := s.nextId + 1 }

/-- What an operation at a scope reads at the scope's point: the issuing core's own stores to the bytes have reached it first, and its later
loads return nothing older (R249). -/
def physSync (s : State) (core scope : Nat) (m : Mem) (a n : Nat) : State :=
  performStores (if s.stale.isEmpty then s else dropStale (readsThrough s core) m a n s) (fun x => x.overlaps m a n && x.visible (.core core)) scope

/-- Stores that issued 4 µs ago are performed everywhere (R249). -/
def performOld (s : State) : State := performStores s (fun x => decide (x.time + 4000 ≤ s.time)) 5

/-- A byte lies in a poisoned sector (R240). -/
def poisoned (s : State) (m : Mem) (a : Nat) : Bool := decide (m = .hbm) && s.hbmPoison.contains (a / 32)

end Sys2Proof.Machine
end

