-- ==== Sys2Proof/Machine/Post.lean ====
section
/-! DEFINITION. Posting an event record (R320 to R323, R501). -/

namespace Sys2Proof.Machine

/-- The memory and the physical address that an untranslated ring address names (R501). -/
def ringPlace (g : Nat) : Mem × Nat :=
  if bitOf g 53 then (.host, g % 2 ^ 53) else (.hbm, g % 2 ^ 53)

/-- The 32 bytes of an event record (R320). -/
def eventBytes (time : Nat) (r : EvRec) : List Byte :=
  bytesOfNat 8 time ++ bytesOfNat 2 r.status ++ bytesOfNat 2 r.fsum ++ bytesOfNat 2 r.queue ++ bytesOfNat 1 r.splice ++
  bytesOfNat 1 0 ++ bytesOfNat 4 r.tag ++ bytesOfNat 4 r.origin ++ bytesOfNat 4 r.count ++ bytesOfNat 4 0

/-- The event queue's registers. -/
def State.evq (s : State) (e : Nat) : Evq := kgetD {} s.evqs e

/-- Change an event queue. -/
def State.modEvq (s : State) (e : Nat) (f : Evq → Evq) : State := { s with evqs := kput s.evqs e (f (s.evq e)) }

/-- An access to a ring succeeds: one in HBM lies within the package, and the host completes one in its memory (R501). -/
def ringOk (s : State) (g len : Nat) : Bool :=
  match ringPlace g with
  | (.hbm, a) => decide (a + len ≤ Config.hbmSize)
  | _ => !s.muted

/-- The same for a ring that only the host window may hold: a fault ring or a trace ring (R501). -/
def hostRingOk (s : State) (g : Nat) : Bool := decide ((ringPlace g).1 = .host) && !s.muted

/-- Post an event record to queue `e` (R322): written at SYSTEM scope and held, or dropped and counted. -/
def postEvent (e : Nat) (r : EvRec) (s : State) : State :=
  let x := s.evq e
  let at_ := x.base + 32 * (x.tail % x.size)
  if x.en && decide ((x.tail + 2 ^ 32 - x.head) % 2 ^ 32 ≠ x.size) && ringOk s at_ 32 then
    let place := ringPlace at_
    let s := physWrite s place.1 0 place.2 (eventBytes s.time r)
    s.modEvq e fun x =>
      { x with
        tail := (x.tail + 1) % 2 ^ 32, held := x.held ++ [s.time],
        due := x.due || decide (max 1 x.thresh ≤ x.held.length + 1) }
  else s.modEvq e fun x => { x with lost := min (x.lost + 1) (2 ^ 32 - 1), ovf := true, due := true }

end Sys2Proof.Machine
end

