-- ==== Sys2Proof/Machine/Trace.lean ====
section
/-! DEFINITION. Trace and sample records (R445 to R447) and the counting of performance events (R443, R444). -/

namespace Sys2Proof.Machine

/-! ## Original PCs (R220, R353) -/

/-- The spliced code that an offset of the code window lies in, if any, with its origin tag: original PC, consumer kernel or not,
entry PC of the original kernel. -/
def spliceTag : List SpliceCode → Nat → Option (Nat × Bool × Nat)
  | [], _ => none
  | c :: cs, pc =>
    if c.start ≤ pc ∧ pc < c.start + 4 * c.tags.length then
      (c.tags[(pc - c.start) / 4]?).map fun t => (t.1, t.2, if t.2 then c.consumer else c.producer)
    else spliceTag cs pc

/-- Contexts are keyed by partition * 4096 + id. -/
def ctxKey (p c : Nat) : Nat := p * 4096 + c

/-- The context's record. -/
def State.ctx (s : State) (p c : Nat) : Context := kgetD {} s.contexts (ctxKey p c)

/-- The origin of the word at an offset for a wave: original PC, spliced, consumer kernel, entry PC of the kernel. -/
def originOf (s : State) (w : Wave) (pc : Word) : Nat × Bool × Bool × Nat :=
  match spliceTag (s.ctx w.partition w.ctx).spliced pc.toNat with
  | some (o, c, e) => (o, true, c, e)
  | none => (pc.toNat, false, false, (kgetD {} s.grids w.grid).pc.toNat)

/-! ## Performance counters -/

/-- Events that count what the caches, the TLBs and memory do in time (R444): their counts are free values (log 13). -/
def timingEvent (e : Nat) : Bool := (decide (7 ≤ e) && decide (e ≤ 10)) || e == 0x0F

/-- The count of counter `n` of a core (R443): a free value for a timing event. -/
def pmcCount (s : State) (core n : Nat) : Nat :=
  let e := (s.core core).pmcsel.getD n 0 % 256
  if timingEvent e then Config.pmcEvent e (core * 2 ^ 64 + cycleOf s core) % 2 ^ 48 else (s.core core).pmc.getD n 0

/-- A selector counts an event of a context (R443). -/
def pmcHits (event ctx sel : Nat) : Bool := decide (bitsOf sel 7 0 = event) && (!bitOf sel 8 || decide (bitsOf sel 27 16 = ctx))

/-- A counter comes to a sum (R443): mod 2^48, with OVF at a wrap. -/
def pmcPut (i v : Nat) (c : Core) : Core :=
  let sel := c.pmcsel.getD i 0
  { c with
    pmc := c.pmc.set i (v % 2 ^ 48),
    pmcsel := if 2 ^ 48 ≤ v ∧ !bitOf sel 9 then c.pmcsel.set i (sel + 2 ^ 9) else c.pmcsel }

/-- Add `n` events to one counter of a core (R443). -/
def pmcAdd (event n ctx : Nat) (c : Core) (i : Nat) : Core :=
  if pmcHits event ctx (c.pmcsel.getD i 0) then pmcPut i (c.pmc.getD i 0 + n) c else c

/-- The events that a counter has counted in a cycle so far. -/
def pmcRecent (now i : Nat) (c : Core) : Nat := if c.recent.1 = now then c.recent.2.getD i 0 else 0

/-- What the counters have counted in a cycle, with `n` more events. -/
def pmcNote (event n ctx now : Nat) (c : Core) : Core :=
  { c with recent := (now, (List.range 4).map fun i => pmcRecent now i c + if pmcHits event ctx (c.pmcsel.getD i 0) then n else 0) }

/-- Count `n` events of one code on a core (R444). A core that nothing has configured counts nothing. -/
def countEvent (core event n ctx : Nat) (s : State) : State :=
  match kget s.cores core with
  | none => s
  | some c => { s with cores := kput s.cores core ((List.range 4).foldl (pmcAdd event n ctx) (pmcNote event n ctx (cycleOf s core) c)) }

/-! ## Trace records. With EN 0 each is dropped and counted (R445). -/

/-- A partition holds a bound key slot (R233). -/
def holdsKey (s : State) (p : Nat) : Bool := s.keys.any fun k => decide (k.2.bound = some p)

/-- The trace ring of a partition. -/
def State.trace (s : State) (p : Nat) : TraceRing := kgetD {} s.traces p

/-- Write a 64-byte record to a trace ring, or drop and count it (R445). -/
def postTrace (p : Nat) (bytes : List Byte) (s : State) : State :=
  let r := s.trace p
  if r.en && decide ((r.tail + 2 ^ 32 - r.head) % 2 ^ 32 ≠ r.size) && hostRingOk s r.base then
    let place := ringPlace (r.base + 64 * (r.tail % r.size))
    let s := physWrite s place.1 0 place.2 bytes
    { s with traces := kput s.traces p { r with tail := (r.tail + 1) % 2 ^ 32 } }
  else { s with traces := kput s.traces p { r with lost := min (r.lost + 1) (2 ^ 32 - 1), ovf := true } }

/-- Lanes as a mask. -/
def laneMask (ls : List Nat) : Nat := ls.foldl (fun m l => m + 2 ^ l) 0

/-- Bytes 0 to 31 of a record (R446). -/
def traceHead (ty : Nat) (s : State) (w : Wave) (q n : Nat) (pc : Word) (mask : Nat) : List Byte :=
  let o := originOf s w pc
  bytesOfNat 1 ty ++ bytesOfNat 1 (b2n o.2.1 + 2 * b2n o.2.2.1) ++ bytesOfNat 1 q ++ bytesOfNat 1 n ++
  bytesOfNat 2 (coreOf w.key) ++ bytesOfNat 1 (slotOf w.key) ++ bytesOfNat 1 w.index ++
  bytesOfNat 4 o.1 ++ bytesOfNat 4 o.2.2.2 ++ bytesOfNat 8 s.time ++ bytesOfNat 8 mask

/-- The spliced PC of a word, 0 outside spliced code (R446). -/
def splicedPc (s : State) (w : Wave) (pc : Word) : Nat := if (originOf s w pc).2.1 then pc.toNat else 0

/-- A part matches the trace selection of its partition (R447). -/
def traceMatch (s : State) (w : Wave) : Bool :=
  let r := s.trace w.partition
  let g := kgetD {} s.grids w.grid
  let lin := match kget s.wgs w.wg with
    | some g => g.lin
    | none => 0
  (!bitOf r.trsel 4 || decide (bitsOf r.trsel 3 0 = w.index)) && (!bitOf r.trsel 5 || decide (r.trwg = lin)) &&
  (!bitOf r.trsel 16 || decide (bitsOf r.trsel 15 6 = g.rootq))

/-- RUN and SAMPLE records may be written for the partition (R451, scope bit 1). -/
def traceScope (s : State) (p : Nat) : Bool := !holdsKey s p || (s.dev.dbgOpen && bitOf s.dev.dbgScope 1)

/-- The first matching part of a core that issues is the selected one (R447). -/
def traceSelect (w : Wave) (q : Nat) (s : State) : State :=
  let t := s.trace w.partition
  if bitOf t.trsel 17 && traceMatch s w && (kget t.selected (coreOf w.key)).isNone then
    { s with traces := kput s.traces w.partition { t with selected := kput t.selected (coreOf w.key) (w.key, q) } }
  else s

/-- A run ends: the RUN record of a selected part (R446, R447). -/
def traceRun (s0 : State) (w : Wave) (p : Part) (r : Run) (cause : Nat) (s : State) : State :=
  let t := s.trace w.partition
  if bitOf t.trsel 17 && traceMatch s0 w && traceScope s w.partition &&
      decide (kget t.selected (coreOf w.key) = some (w.key, p.q)) then
    postTrace w.partition
      (traceHead 1 s0 w p.q p.n r.pc r.mask ++ bytesOfNat 4 (splicedPc s0 w r.pc) ++ bytesOfNat 1 r.words ++ bytesOfNat 1 cause ++
        bytesOfNat 26 0) s
  else s

/-- A fused part is selected if either buddy was: the selection names the part that holds the selected quad (R447). -/
def traceFused (key : Nat) (ps : List Part) (s : State) : State :=
  { s with
    traces := kmap (fun _ t =>
      { t with
        selected := kmap (fun _ x =>
          if x.1 = key then
            match ps.find? (fun p => decide (p.q ≤ x.2) && decide (x.2 < p.q + p.n)) with
            | some p => (key, p.q)
            | none => x
          else x) t.selected }) s.traces }

/-- A selected part's wave has ended: another part may be selected (R447). -/
def traceEnded (key : Nat) (s : State) : State :=
  { s with traces := kmap (fun _ t => { t with selected := t.selected.filter fun x => decide (x.2.1 ≠ key) }) s.traces }

/-- The SUMMARY record of a matching wave that is not selected (R447). -/
def traceSummary (key : Nat) (s : State) : State :=
  match kget s.waves key with
  | none => s
  | some w =>
    let t := s.trace w.partition
    let sel := bitOf t.trsel 17 && (match kget t.selected (coreOf key) with | some x => decide (x.1 = key) | none => false)
    if traceMatch s w && !sel then
      match w.parts with
      | [] => s
      | p :: _ =>
        let s1 := postTrace w.partition
          (traceHead 2 s w p.q p.n p.pc (laneMask (activeLanes w p)) ++ bytesOfNat 8 w.sumWords ++ bytesOfNat 8 w.sumWait ++
            bytesOfNat 16 0) s
        s1.modWave key fun w => { w with sumWords := 0, sumWait := 0 }
    else s

/-- A memory word with an active lane counts towards the partition's samples; every SPERIODth of a core writes a SAMPLE record
(R445, R446). The queue cycles, the replays and the lane whose data returned last are timing: free values (log 13). -/
def traceSample (w : Wave) (p : Part) (act : List Nat) (addr maj : Nat) (s : State) : State :=
  let t := s.trace w.partition
  if t.speriod ≠ 0 then
    let core := coreOf w.key
    let n := cellsGet 0 t.samples core + 1
    if n % t.speriod = 0 then
      let s := { s with traces := kput s.traces w.partition { t with samples := cellsPut 0 t.samples core 0 } }
      if traceScope s w.partition then
        let free := (List.range 11).map fun i => Config.freeByte (s.fresh + i)
        postTrace w.partition
          (traceHead 3 s w p.q p.n p.pc (laneMask act) ++ bytesOfNat 1 act.length ++ free ++ bytesOfNat 8 addr ++ bytesOfNat 1 maj ++
            bytesOfNat 11 0) { s with fresh := s.fresh + 11 }
      else s
    else { s with traces := kput s.traces w.partition { t with samples := cellsPut 0 t.samples core n } }
  else s

end Sys2Proof.Machine
end

