-- ==== Sys2Proof/Machine/Parts.lean ====
section
/-! DEFINITION. Parts as a whole: moving the PC, landing writebacks, splitting along buddy blocks (R21, R22), fusing (R27 to
R34), workgroup barriers (R434), and the end of parts, waves and workgroups (R213, R37). -/

namespace Sys2Proof.Machine

/-! ## The PC -/

/-- The part has issued the word at its PC and falls through from it: the next word, or the back-edge of the innermost loop
(R74, R429). -/
def fallPart (p : Part) : Part :=
  match p.loops.getLast? with
  | none => { p with pc := p.pc + 4#32 }
  | some l =>
    if p.pc = l.stop then
      if l.lc - 1#32 ≠ 0#32 then { p with loops := p.loops.dropLast ++ [{ l with lc := l.lc - 1#32 }], pc := l.start }
      else { p with loops := p.loops.dropLast, pc := l.stop + 4#32 }
    else { p with pc := p.pc + 4#32 }

/-- The part stands at the first word of its prefix group again, for its word has not issued (R84). -/
def regroup (p : Part) : Part :=
  { p with pc := p.prefixPc.getD p.pc, prefixPc := none, prefixHi := none, prefixK := none, prefixN := 0 }

/-- The prefix group of the part is used up (R83). -/
def ungroup (p : Part) : Part := { p with prefixPc := none, prefixHi := none, prefixK := none, prefixN := 0 }

/-- The part is ready again from now on. -/
def wakePart (cycle : Nat) (p : Part) : Part := { p with wait := .ready, readyAt := cycle }

/-- The word a part waits at has completed: the part goes on behind it. -/
def passPart (cycle : Nat) (p : Part) : Part := wakePart cycle (ungroup (fallPart p))

/-- The word a part waits at issues again, with its prefix group. -/
def againPart (cycle : Nat) (p : Part) : Part := wakePart cycle (regroup p)

/-! ## Writebacks (R61, R62) -/

/-- Write a list of (lane, register, value) into a wave. -/
def landVals (w : Wave) : List (Nat × Nat × Word) → Wave
  | [] => w
  | (l, r, x) :: vs => landVals (w.setV r l x) vs

/-- Write a list of (uniform register, value) into a view, with the issuing part's block (R35). -/
def landUvals (bq bn : Nat) (p : Part) : List (Nat × Word) → Part
  | [] => p
  | (r, x) :: vs => landUvals bq bn { p with w := listPut {} p.w r { val := x, bq := bq, bn := bn } } vs

/-- A writeback is a load's and not a special-function result. -/
def Pend.isLoad (x : Pend) : Bool :=
  match x.kind with
  | .load => true
  | .sfn _ => false

/-- A value that lands overwrites what a word of its window left pending in the same register (R61). -/
def overwrite (id : Nat) (vals : List (Nat × Nat × Word)) (uvals : List (Nat × Word)) (p : Part) : Part :=
  { p with
    pend := (p.pend.map fun y =>
      if y.isLoad && decide (id < y.id) then
        { y with
          vals := y.vals.filter fun v => !(vals.any fun u => decide (u.1 = v.1) && decide (u.2.1 = v.2.1)),
          uvals := y.uvals.filter fun v => !(uvals.any fun u => decide (u.1 = v.1)) }
      else y).filter fun y => !(y.isLoad && decide (id < y.id) && y.vals.isEmpty && y.uvals.isEmpty && y.lanes.isEmpty) }

/-- Two accesses share a byte of a memory. -/
def placesMeet (a b : Places) : Bool :=
  a.any fun x => b.any fun y => match x.2.2, y.2.2 with
    | .byte m i _ _, .byte m' j _ _ => decide (m = m') && decide (i < j + y.2.1) && decide (j < i + x.2.1)
    | _, _ => false

/-- The reads of a lane that came before one that has been performed, and share a byte with it, have been performed too (R250). -/
def settleReads (id : Nat) (rs : List Read) (p : Part) : Part :=
  { p with
    pend := p.pend.map fun y =>
      if y.id < id then
        { y with reads := y.reads.filter fun r => !(rs.any fun t => decide (t.lane = r.lane) && placesMeet t.places r.places) }
      else y }

/-- Every read of the part's loads has been performed (R251: no later access comes before them). -/
def performReads (p : Part) : Part := { p with pend := p.pend.map fun x => { x with reads := [] } }

/-- Land every held load writeback of a part's list (R62); a special-function result still in flight keeps its token, and a read of
a tile waits for the operations before it (R198), and a sleeping FTAKE for its value (R278). -/
def landHeld (w : Wave) (p : Part) : List Pend → Wave × Part
  | [] => (w, p)
  | x :: xs =>
    if x.isLoad && decide (0 < x.window) && x.after.isEmpty && x.sleepers.isEmpty && x.trav.isNone && x.lanes.isEmpty then
      match p.pend.find? (·.id = x.id) with
      | none => landHeld w p xs
      | some x =>
        landHeld (landVals w x.vals)
          (overwrite x.id x.vals x.uvals
            (settleReads x.id x.reads (landUvals x.bq x.bn { p with pend := p.pend.filter (·.id ≠ x.id) } x.uvals))) xs
    else landHeld w p xs

/-- Close every lookahead window of a part (R62). -/
def closeWindows (key q : Nat) (s : State) : State :=
  s.modWave key fun w =>
    match partAt w.parts q with
    | none => w
    | some p =>
      let r := landHeld w p p.pend
      let p' := { r.2 with pend := r.2.pend.map fun x => { x with window := 0 } }
      { r.1 with parts := partMod (fun _ => p') r.1.parts q }

/-- The part has issued one word (or one prefix group with its word): every open window shrinks, but for those the word itself
opened (R61). -/
def shrinkWindows (ids : List Nat) (p : Part) : Part :=
  { p with pend := p.pend.map fun x => if ids.contains x.id then { x with window := x.window - 1 } else x }

/-! ## Splitting -/

/-- The first quad of `[k, k+n)` that the predicate accepts. -/
def firstQuad (f : Nat → Bool) (k : Nat) : Nat → Option Nat
  | 0 => none
  | n + 1 => if f k then some k else firstQuad f (k + 1) n

/-- The quad whose outcome an inactive quad takes (R22): the lowest active quad of the smallest buddy block that holds one. -/
def donorQuad (active : Nat → Bool) (quad : Nat) : Nat → Nat → Nat
  | 0, _ => quad
  | fuel + 1, size =>
    match firstQuad active (quad / size * size) size with
    | some k => k
    | none => donorQuad active quad fuel (2 * size)

/-- A block of quads holds one outcome. -/
def sameOutcome (out : Nat → Bool) (q n : Nat) : Bool := (List.range n).all fun i => out (q + i) == out q

/-- The maximal buddy blocks of a part, by increasing first quad (R21). -/
def buddyBlocks (out : Nat → Bool) : Nat → Nat → Nat → List (Nat × Nat)
  | 0, q, n => [(q, n)]
  | fuel + 1, q, n =>
    if sameOutcome out q n then [(q, n)]
    else buddyBlocks out fuel q (n / 2) ++ buddyBlocks out fuel (q + n / 2) (n / 2)

/-- The part of a writeback that belongs to a block of quads (R20, R35). -/
def splitPend (q n : Nat) (x : Pend) : Pend :=
  { x with
    vals := x.vals.filter fun v => decide (q ≤ v.1 / 4) && decide (v.1 / 4 < q + n),
    lanes := x.lanes.filter fun l => decide (q ≤ l / 4) && decide (l / 4 < q + n),
    quads := x.quads.filter fun k => decide (q ≤ k) && decide (k < q + n),
    sleepers := x.sleepers.filter fun k => decide (q ≤ k.lane / 4) && decide (k.lane / 4 < q + n),
    reads := x.reads.filter fun r => decide (q ≤ r.lane / 4) && decide (r.lane / 4 < q + n) }

/-- A writeback that has nothing left to write. -/
def Pend.empty (x : Pend) : Bool := x.vals.isEmpty && x.uvals.isEmpty && x.lanes.isEmpty && x.quads.isEmpty

/-- The child of a split for a block (R20). -/
def childPart (cycle : Nat) (p : Part) (b : Nat × Nat) : Part :=
  { ungroup p with
    q := b.1, n := b.2, tpart := tpartWord b.1 b.2, readyAt := cycle, class4 := false, wait := .ready,
    pend := (p.pend.map (splitPend b.1 b.2)).filter fun x => !x.empty }

/-- Split a part by an outcome of its quads; `f` finishes a child with its outcome. A split along one block is no split. -/
def splitPart (key : Nat) (p : Part) (out : Nat → Bool) (f : Bool → Part → Part) (s : State) : State :=
  let blocks := buddyBlocks out 5 p.q p.n
  s.modWave key fun w =>
    { w with
      parts := (blocks.map fun b => f (out b.1) (childPart (cycleOf s (coreOf key)) p b)).foldl (fun ps c => partIns c ps) (partDel w.parts p.q) }

/-! ## Fusing -/

/-- First quad of the buddy of a block (R19). -/
def buddyOf (q n : Nat) : Nat := if q / n % 2 = 0 then q + n else q - n

/-- Some quad of a block has executed END (R29). -/
def blockEnded (w : Wave) (q n : Nat) : Bool :=
  (List.range n).any fun i => (blockLanes (q + i) 1).all fun l => w.ended.contains l

/-- The writer block of a register lies within a block (R34). -/
def writtenIn (r : UReg) (q n : Nat) : Bool := decide (q ≤ r.bq) && decide (r.bq + r.bn ≤ q + n)

/-- One uniform register of a fused view (R34): the register and whether there is a conflict. -/
def fuseReg (lo hi : Part) (a b : UReg) : UReg × Bool :=
  match writtenIn a lo.q lo.n, writtenIn b hi.q hi.n with
  | false, false => (a, false)
  | true, false => (a, false)
  | false, true => (b, false)
  | true, true => (a, true)

/-- The union of two lists of writebacks: the same writeback of both is one (R20, R35). -/
def fusePend (a b : List Pend) : List Pend :=
  (a.map fun x =>
    match b.find? (·.id = x.id) with
    | none => x
    | some y =>
      { x with
        window := max x.window y.window, vals := x.vals ++ y.vals, lanes := x.lanes ++ y.lanes, quads := x.quads ++ y.quads,
        sleepers := x.sleepers ++ y.sleepers, reads := x.reads ++ y.reads }) ++
  b.filter fun y => !(a.any (·.id = y.id))

/-- The kept deadline of a fuse wait: the earlier (R28). -/
def minDeadline : Option Nat → Option Nat → Option Nat
  | some a, some b => some (min a b)
  | some a, none => some a
  | none, b => b

/-- The fuse wait of a part, with a reconvergence record popped (R426). -/
def popRecord (p : Part) : Part :=
  match p.wait with
  | .fuse (.endif false) d c => { p with recs := p.recs.drop 1, wait := .fuse (.endif true) d c }
  | _ => p

/-- The arbitration class of a role (R59). -/
def roleClass (r : Nat) : Nat := if r = 1 then 3 else if r = 2 then 2 else 1

/-- Two waiting buddies as one part, and the conflicting registers as a mask (R20, R34, R426). -/
def fusedPart (cycle : Nat) (lo0 hi0 : Part) : Part × Nat :=
  let lo := popRecord lo0
  let hi := popRecord hi0
  let regs := (lo.w.zip hi.w).map fun ab => fuseReg lo hi ab.1 ab.2
  let tv := fuseReg lo hi lo.tvec hi.tvec
  let mask := (regs.zipIdx.foldl (fun m x => if x.1.2 then m + 2 ^ x.2 else m) 0) + (if tv.2 then 2 ^ 24 else 0)
  let dl := match lo.wait, hi.wait with
    | .fuse _ a _, .fuse _ b _ => minDeadline a b
    | _, _ => none
  let kind := match lo.wait with
    | .fuse k _ _ => k
    | _ => .rcv
  ({ lo with
     n := 2 * lo.n, w := regs.map (·.1), tvec := tv.1,
     ucf := lo.ucf || hi.ucf || (decide (mask ≠ 0) && !modeUtrapOf lo.mode), poison := lo.poison || hi.poison,
     corr := lo.corr || hi.corr, tpart := tpartWord lo.q (2 * lo.n), readyAt := min lo.readyAt hi.readyAt,
     role := if roleClass lo.role < roleClass hi.role then hi.role else lo.role,
     pend := fusePend lo.pend hi.pend, engines := lo.engines ++ hi.engines.filter (fun e => !(lo.engines.contains e)),
     preempt := lo.preempt || hi.preempt, wait := .fuse kind dl cycle }, mask)

/-- A part stands in a fuse wait. -/
def inFuse (p : Part) : Bool :=
  match p.wait with
  | .fuse _ _ _ => true
  | _ => false

/-- Two parts may fuse now: waiting buddies, at one PC, outside handlers, with equal loop stacks and MODE words (R27), and with one first
word of the prefix group, since the group and its word are one unit (R84, log 76). -/
def canFuse (a b : Part) : Bool :=
  decide (a.n = b.n) && decide (b.q = a.q + a.n) && decide (a.q % (2 * a.n) = 0) && inFuse a && inFuse b && decide (a.pc = b.pc) &&
  !a.handler && !b.handler && decide (a.loops.map (fun l => (l.lc, l.start, l.stop)) = b.loops.map fun l => (l.lc, l.start, l.stop)) &&
  decide (a.mode = b.mode) && decide (a.prefixPc = b.prefixPc)

/-- The first pair of parts that may fuse. -/
def findFuse : List Part → Option (Part × Part)
  | [] => none
  | [_] => none
  | a :: b :: ps => if canFuse a b then some (a, b) else findFuse (b :: ps)

/-- What becomes of a part in a fuse wait once it cannot or need not fuse further: R28 and R29 for RCV, RCV.W and ENDIF, R31 for a
minimum width, where the word issues in the cycle after the fuse. -/
def fuseDone (cycle : Nat) (w : Wave) (p : Part) : Part :=
  match p.wait with
  | .fuse (.minWidth m) _ _ => if m ≤ p.n then { againPart cycle p with notBefore := cycle + 1 } else p
  | .fuse _ dl _ =>
    if decide (4 * p.n = w.width) || blockEnded w (buddyOf p.q p.n) p.n || (match dl with | some d => decide (d ≤ cycle) | none => false)
    then passPart cycle (popRecord p) else p
  | _ => p

/-- Fuse what can be fused, cascading, at most `fuel` fuses; conflicting fuses under UTRAP are listed (first quad and mask). -/
def fuseLoop (cycle : Nat) : Nat → Wave → List (Nat × Nat) → Wave × List (Nat × Nat)
  | 0, w, ts => (w, ts)
  | fuel + 1, w, ts =>
    match findFuse w.parts with
    | none => (w, ts)
    | some (a, b) =>
      let r := fusedPart cycle a b
      let trap := decide (r.2 ≠ 0) && modeUtrapOf a.mode
      let p := if trap then { r.1 with wait := .ready, readyAt := cycle } else r.1
      fuseLoop cycle fuel { w with parts := partIns p (partDel (partDel w.parts a.q) b.q) }
        (if trap then ts ++ [(p.q, r.2)] else ts)

/-- Fuse checks of a wave, then the waits that end (R27 to R31). The list holds the UCONF traps to take. -/
def fuseWave (cycle : Nat) (w : Wave) : Wave × List (Nat × Nat) :=
  let r := fuseLoop cycle 16 w []
  ({ r.1 with parts := r.1.parts.map (fuseDone cycle r.1) }, r.2)

/-! ## Workgroup barriers (R434) -/

/-- The unterminated quads of a wave. -/
def liveQuads (w : Wave) : List Nat := w.parts.flatMap fun p => (List.range p.n).map (· + p.q)

/-- The waves of a workgroup that still run. -/
def wgWaves (s : State) (g : Wg) : List Wave := g.waves.filterMap (kget s.waves)

/-- WGLIN (R302): x + y * X + z * X * Y for workgroup (x, y, z) of a grid of X by Y by Z. -/
def wgLin (s : State) (g : Wg) : Nat :=
  let l := (kgetD {} s.grids g.grid).launch
  g.x + g.y * l.gridx + g.z * l.gridx * l.gridy

/-- The barrier with an identity. -/
def Wg.bar (g : Wg) (b : Nat) : Barrier := kgetD {} g.bars b

/-- Parts that waited for the end of this phase go on (R434). -/
def releasePart (cycle b : Nat) (phase : Bool) (p : Part) : Part :=
  match p.wait with
  | .barrier b' ph _ => if b' = b ∧ ph = phase then passPart cycle p else p
  | .barrierNext b' ph => if b' = b ∧ ph = phase then againPart cycle p else p
  | _ => p

/-- A set of waves: change each. -/
def modWaves (f : Wave → Wave) (m : KMap Wave) : List Nat → KMap Wave
  | [] => m
  | k :: ks => modWaves f (kmod f m k) ks

/-- The phase of barrier `b` has its arrivals (R434). -/
def barFull (s : State) (g : Wg) (x : Barrier) : Bool :=
  let need := if x.expected = 0 then (wgWaves s g).length else x.expected
  !x.waves.isEmpty && decide (need ≤ x.waves.length)

/-- Complete the open phase of barrier `b` of a workgroup, if its arrivals have reached the expected count. At a phase boundary
the waiters stay, and the next phase is queued on the core's phase queue (R43). -/
def completeBar (id b : Nat) (s : State) : State :=
  match kget s.wgs id with
  | none => s
  | some g =>
    let x := g.bar b
    if barFull s g x then
      let s := s.modWg id fun g => { g with bars := kput g.bars b { expected := 0, phase := !x.phase, waves := [], quads := [] } }
      if g.phaseAt = some b then s.modCore g.core fun c => { c with phaseQueue := c.phaseQueue ++ [id] }
      else { s with waves := modWaves (fun w => { w with parts := w.parts.map (releasePart (cycleOf s g.core) b x.phase) }) s.waves g.waves }
    else s

/-- Quads of a wave issue an arrival at barrier `b` with count `e`; the wave arrives once all its quads have (R434). -/
def arriveBar (id b e : Nat) (w : Wave) (p : Part) (s : State) : State :=
  s.modWg id fun g =>
    let x := g.bar b
    let qs := x.quads ++ (List.range p.n).filterMap fun i =>
      let k := w.key * 16 + p.q + i
      if x.quads.contains k then none else some k
    let full := (liveQuads w).all fun k => qs.contains (w.key * 16 + k)
    let x := { x with quads := qs }
    let x := if full && !(x.waves.contains w.key) then
        { x with waves := x.waves ++ [w.key], expected := if x.waves.isEmpty then e else x.expected }
      else x
    { g with bars := kput g.bars b x }

/-- A wave's arrival at barrier `b` is withdrawn: a part of it leaves the wait, and issues its arrival again later (R435). -/
def withdrawBar (id b key q n : Nat) (s : State) : State :=
  s.modWg id fun g =>
    let x := g.bar b
    { g with
      bars := kput g.bars b
        { x with
          waves := x.waves.filter (· ≠ key),
          quads := x.quads.filter fun k => !(decide (key * 16 + q ≤ k) && decide (k < key * 16 + q + n)) } }

/-- A wave whose remaining quads have all issued an arrival has arrived (R434: each of its unterminated parts). -/
def recountWave (w : Wave) (x : Barrier) : Barrier :=
  let qs := liveQuads w
  if !(qs.isEmpty) && !(x.waves.contains w.key) && qs.all (fun k => x.quads.contains (w.key * 16 + k)) then
    { x with waves := x.waves ++ [w.key] }
  else x

/-- A workgroup's barriers after quads or waves have ended: terminated waves are counted no more (R434). -/
def recountBars (id : Nat) (s : State) : State :=
  match kget s.wgs id with
  | none => s
  | some g =>
    let ws := wgWaves s g
    let s := s.modWg id fun g => { g with bars := kmap (fun _ x => ws.foldl (fun x w => recountWave w x) x) g.bars }
    g.bars.foldl (fun s e => completeBar id e.1 s) s

/-! ## The end of parts, waves and workgroups -/

/-- A cluster without a resident workgroup is unfused (R232). -/
def unfuse (core : Nat) (s : State) : State :=
  if s.wgs.any fun e => decide (clusterOf e.2.core = clusterOf core) then s
  else
    let s := { s with fused := s.fused.filter (· ≠ clusterOf core) }
    performStores s (fun x => decide (x.scope = 2) && decide (clusterOf x.core = clusterOf core)) 3

/-- An ended workgroup's allocation, and what its ended waves held, is free once its copy requests are complete (R305). -/
def freeWg (id : Nat) (s : State) : State :=
  match kget s.wgs id with
  | none => s
  | some g =>
    if s.copies.any fun e => decide (e.2.owner.wg = id) then s
    else if g.ended then unfuse g.core { s.modGrid g.grid fun x => { x with ended := x.ended + 1 } with wgs := kdel s.wgs id }
    else s.modWg id fun g => { g with kept := [] }

/-- The copy requests of a workgroup that a choice selects are cancelled (R305): they complete with CANCEL. -/
def cancelCopies (wg : Nat) (sel : Copy → Bool) (s : State) : State :=
  { s with
    copies := kmap (fun _ (x : Copy) =>
      if decide (x.owner.wg = wg) && sel x && x.status.isNone then { x with status := some (4, 0), waits := [] } else x) s.copies }

/-- The signature of a wave that ends in a MEASURE session (R454). -/
def recordSig (w : Wave) (s : State) : State :=
  let lin := match kget s.wgs w.wg with
    | some g => g.lin
    | none => 0
  s.modGrid w.grid fun g =>
    { g with session := g.session.map fun x => { x with cur := kput x.cur (lin * 16 + w.index) w.sig } }

/-- The workgroup counts one wave less; a workgroup without waves ends (R37, R213). The wave's slot, registers and tiles are free once the
workgroup's copy requests are complete (R305). -/
def endWave (key : Nat) (s : State) : State :=
  match kget s.waves key with
  | none => s
  | some w =>
    let s := recordSig w (traceEnded key { s with waves := kdel s.waves key })
    let s := if (s.core (coreOf key)).records.contains key then
        s.modCore (coreOf key) fun c => { c with records := c.records.filter (· ≠ key) }
      else s
    let s := s.modWg w.wg fun g => { g with waves := g.waves.filter (· ≠ key), kept := g.kept ++ [w] }
    match kget s.wgs w.wg with
    | none => s
    | some g =>
      freeWg w.wg (if g.waves.isEmpty then s.modWg w.wg fun g => { g with ended := true } else s)

/-- The run on a quarter ends: nobody holds its issue port. -/
def dropRun (quarter : Nat) (s : State) : State :=
  { s with runs := kdel s.runs quarter, focus := if s.focus = some quarter then none else s.focus }

/-- ROLE takes effect at the end of the run; the age of the part that issued, or of the children into which it has split, starts (R58, R59,
R215). -/
def restPart (cycle : Nat) (old : Part) (p : Part) : Part :=
  let p := match p.nextRole with
    | some r => { p with role := r, nextRole := none }
    | none => p
  if decide (p.q = old.q) || (decide (p.n < old.n) && decide (old.q < p.q) && decide (p.q < old.q + old.n)) then
    { p with readyAt := cycle, class4 := false }
  else p

/-- A run of part `p` of wave `w`, which stands at `key`, on its quarter ends (R54), with a cause of the RUN record (R446). A run without a
word leaves no record. -/
def closeRun (key : Nat) (w : Wave) (p : Part) (r : Run) (cause : Nat) (s : State) : State :=
  let s := if r.words = 0 then s else traceRun s w p r cause s
  (dropRun (quarterOf key) s).modWave key fun x =>
    { x with parts := x.parts.map (restPart (cycleOf s (coreOf key)) p) }

/-- The run of a wave's part, if it has one, ends for a reason outside its words: its role settles (R54, R215). -/
def endRun (key cause : Nat) (s : State) : State :=
  match kget s.runs (quarterOf key), kget s.waves key with
  | some r, some w =>
    if r.wave = key then
      match partAt w.parts r.q with
      | some p => closeRun key w p r cause s
      | none => dropRun (quarterOf key) s
    else s
  | _, _ => s

/-- A special-function result whose supplying lane has ended is discarded in every view that holds it (R186). -/
def discardResult (q n : Nat) (p : Part) : Part :=
  { p with
    pend := (p.pend.map fun x =>
      if !x.isLoad && decide (q ≤ x.ulane / 4) && decide (x.ulane / 4 < q + n) then { x with uvals := [] } else x).filter fun x => !x.empty }

/-- The lanes of a part terminate and the part ceases to exist (R213): held writebacks land first, results in flight are
discarded, waiting buddies go on (R29), barriers recount. UCONF cannot arise, because nothing fuses with a part that ended. -/
def endPart (key q : Nat) (s : State) : State :=
  let s := closeWindows key q s
  match kget s.waves key with
  | none => s
  | some w =>
    match partAt w.parts q with
    | none => s
    | some p =>
      let w := { w with ended := w.ended ++ (blockLanes p.q p.n).filter (fun l => !(w.ended.contains l)),
                        parts := (partDel w.parts q).map (discardResult p.q p.n) }
      let w := { w with parts := w.parts.map (fuseDone (cycleOf s (coreOf key)) w) }
      let s := { s with waves := kput s.waves key w }
      let s := if w.parts.isEmpty then endWave key s else s
      recountBars w.wg s

/-- End every part of a list. -/
def endParts (key : Nat) : List Part → State → State
  | [], s => s
  | p :: ps, s => endParts key ps (endPart key p.q s)

/-- The kernel of the word at which a wave is terminated (R353): the word named, or the next one of its first part, or the grid's. -/
def wordOrigin (s : State) (key : Nat) (g : Grid) (pc : Option Word) : Nat :=
  match kget s.waves key with
  | none => g.origin
  | some w =>
    match pc.or (w.parts.head?.map fun p => p.prefixPc.getD p.pc) with
    | some x => (originOf s w x).2.2.2
    | none => g.origin

/-- The traversals of a terminated wave are cancelled (R414). -/
def cancelTravs (w : Wave) (s : State) : State :=
  { s with
    pairs := kmap (fun _ (x : Xpair) => if x.owner.wg = w.wg ∧ x.key = w.key then { x with cancelled := true } else x) s.pairs,
    rays := s.rays.filter fun e => !(decide (e.2.owner.wg = w.wg) && decide (e.2.key = w.key)) }

/-- A core of the device, no control core, raises UEREG: a second one within 24 hours retires it (R471). -/
def noteUereg (core : Nat) (s : State) : State :=
  if core < 256 then
    s.modCore core fun c =>
      { c with uereg := some s.time, retiring := if c.uereg.any fun t => s.time ≤ t + 86400 * 10 ^ 9 then some 0 else c.retiring }
  else s

/-- The core terminates a wave (R217): an event is posted to the launch's event queue, its parts end, and the grid's completion status
names the cause. `pc` is the word at which it is terminated, if it is at one. -/
def terminateWave (key status fsum : Nat) (pc : Option Word) (s : State) : State :=
  match kget s.waves key with
  | none => s
  | some w =>
    let s := if status = 0x0104 then noteUereg (coreOf key) s else s
    match kget s.grids w.grid with
    | none => endParts key w.parts s
    | some g =>
      let origin := wordOrigin s key g pc
      let s := s.modGrid w.grid fun g => if g.status = 0x0100 then { g with status := status, fsum := fsum, origin := origin } else g
      let s := postEvent g.launch.evq
        { status := status, fsum := fsum, queue := g.queue, splice := g.splice, tag := g.tag, origin := origin } s
      endParts key w.parts (endRun key 2
        (cancelTravs w <| if status = 0x0108 then s else cancelCopies w.wg (fun _ => true) s))

/-! ## Stops (R223, R448, R449) -/

/-- The state byte of a STOP record (R449). -/
def stopState (p : Part) : Nat :=
  (match p.wait with
   | .ready => 0
   | .board _ _ => 1
   | .fuse _ _ _ => 2
   | .barrier _ _ _ => 4
   | .barrierNext _ _ => 4
   | .sleep _ => 5
   | .cond (.time _) => 5
   | .cond (.tokens _) => 6
   | .cond (.sfnRoom _) => 1
   | _ => 3) + 128 * b2n p.handler

/-- The STOP record of a part (R446): the word it would issue next. -/
def stopRecord (s : State) (w : Wave) (cause : Nat) (p : Part) : List Byte :=
  let pc := p.prefixPc.getD p.pc
  traceHead 4 s w p.q p.n pc (laneMask (activeLanes w p)) ++ bytesOfNat 4 (splicedPc s w pc) ++ bytesOfNat 1 (stopState p) ++
  bytesOfNat 1 (4 * p.n) ++ bytesOfNat 1 cause ++ bytesOfNat 25 0

/-- The cycles that a part counts go on from cycle `now`, where they stood still at `since` (R442, R450): its age, the start and the deadline
of a fuse wait. -/
def thawPart (since now : Nat) (p : Part) : Part :=
  { p with
    readyAt := p.readyAt + now - since, notBefore := p.notBefore + now - since,
    wait := match p.wait with
      | .fuse k d c => .fuse k (d.map (· + now - since)) (c + now - since)
      | w => w }

/-- A sleep ends as much later (log 45). -/
def sleepLater (since now : Nat) (p : Part) : Part :=
  match p.wait with
  | .sleep u => { p with wait := .sleep (u + now - since) }
  | _ => p

/-- The cycle counters of a wave stand still from now on: it is stopped, saved or swapped out (R442, R450). -/
def freezeWave (now : Nat) (w : Wave) : Wave :=
  if w.stopped then w else { w with cycBase := w.cycBase + (now - w.cycle0), cycle0 := now }

/-- They go on. -/
def thawWave (now : Nat) (w : Wave) : Wave :=
  if w.stopped then w
  else { w with cycle0 := now, deadSince := w.deadSince.map (· + now - w.cycle0), parts := w.parts.map (thawPart w.cycle0 now) }

/-- A wave that was saved or swapped out goes on: its sleeps stood still too (R37, R442, log 45). -/
def returnCounts (now : Nat) (w : Wave) : Wave :=
  let parts := if w.stopped then w.parts else w.parts.map (sleepLater w.cycle0 now)
  thawWave now { w with parts := parts }

/-- The wave's cycle counter (R442). -/
def waveCycles (s : State) (w : Wave) : Nat :=
  if w.stopped then w.cycBase else w.cycBase + (cycleOf s (coreOf w.key) - w.cycle0)

/-- A wave stops (R448): its run ends, and each part writes a STOP record. Cause 0 is a command, 1 BKPT, 2 a step done. -/
def stopWave (key cause : Nat) (s : State) : State :=
  match kget s.waves key with
  | none => s
  | some w =>
    let s := endRun key 2 s
    let s := s.modWave key fun w =>
      { freezeWave (cycleOf s (coreOf key)) w with
               stopped := true, stepping := none, stopReq := none, stopTime := s.time, stopCause := cause }
    w.parts.foldl (fun s p => postTrace w.partition (stopRecord s w cause p) s) s

end Sys2Proof.Machine
end

