-- ==== Sys2Proof/Machine/Operands.lean ====
section
/-! DEFINITION. The operand forms (R77 to R84): what a word sees when it issues, which register codes a position accepts, when a
register number is out of bounds, and how operands are read and written. -/

namespace Sys2Proof.Machine

/-! ## The issuing part -/

/-- What a word sees when it issues. -/
structure Ctx where
  key : Nat
  q : Nat
  w : Wave
  p : Part
  /-- the B bit -/
  z : Bool
  /-- active lanes, lowest first (R87) -/
  act : List Nat
  /-- the device's stepping is B0 (R93) -/
  b0 : Bool
deriving DecidableEq, Repr

/-- The part that holds the issue port and issues now. -/
def issueCtx (z : Bool) (s : State) : Option Ctx :=
  s.focus.bind fun qr => (kget s.runs qr).bind fun r => (kget s.waves r.wave).bind fun w =>
    (partAt w.parts r.q).map fun p => { key := r.wave, q := r.q, w := w, p := p, z := z, act := activeLanes w p, b0 := s.dev.b0 }

/-- The PC a trap of the word reports: its own, or that of the first word of its prefix group (R84). -/
def Ctx.pc0 (c : Ctx) : Word := c.p.prefixPc.getD c.p.pc

/-- The constant K of the word's prefix group (R83). -/
def Ctx.k (c : Ctx) : Word := c.p.prefixK.getD 0#32

/-- The lowest active lane; 0 when none is active. -/
def Ctx.l0 (c : Ctx) : Nat := c.act.headD 0

/-! ## Traps as values -/

/-- A trap a word raises: cause (R222), TINFO, TADDR where the cause writes it, whether TRAPPC names the following word (TRAP and
BKPT), and whether it names the word itself even behind a prefix (a case of R84). -/
structure Trap where
  cause : Nat
  info : Word := 0
  addr : Option DWord := none
  following : Bool := false
  bare : Bool := false
deriving DecidableEq, Repr

/-- ILLEGAL with a REASON (R90). -/
def illegal (maj reason : Nat) : Trap := { cause := 0x01, info := BitVec.ofNat 32 (reason + 256 * maj) }

/-! ## Operands (R77 to R84) -/

/-- The codes an operand position accepts (R78, R79). -/
inductive Allow where
  /-- every code -/
  | any
  /-- a v code or an indirect code -/
  | vec
  /-- a w code, ZERO or K -/
  | uni
  /-- a w code -/
  | wOnly
  /-- a direct v code -/
  | vOnly
  /-- a v code, an indirect code or a w code -/
  | reg
deriving DecidableEq, Repr

/-- A register operand of a word. -/
structure Opd where
  code : BitVec 7
  /-- registers in the span -/
  len : Nat := 1
  /-- the span starts at an even register (R81) -/
  even : Bool := false
  /-- the word writes it -/
  dst : Bool := false
  /-- the word reads it -/
  src : Bool := true
  allow : Allow := .any
  /-- the word checks the bound itself, later (R200) -/
  late : Bool := false
  /-- LANE and QUADIX are accepted though the position has 64 bits (R154) -/
  lanes : Bool := false
deriving DecidableEq, Repr

/-- A source register. -/
def rd (c : BitVec 7) : Opd := { code := c }

/-- A source in a 64-bit position when `wide`. -/
def rdW (wide : Bool) (c : BitVec 7) : Opd := { code := c, len := if wide then 2 else 1, even := wide }

/-- A destination register. -/
def wr (c : BitVec 7) : Opd := { code := c, dst := true, src := false }

/-- A destination in a 64-bit position when `wide`. -/
def wrW (wide : Bool) (c : BitVec 7) : Opd := { code := c, len := if wide then 2 else 1, even := wide, dst := true, src := false }

/-- A register that is source and destination. -/
def rw_ (wide : Bool) (c : BitVec 7) : Opd := { code := c, len := if wide then 2 else 1, even := wide, dst := true }

/-- The address pair of a memory word (R264). -/
def rdAddr (c : BitVec 7) : Opd := rdW true c

/-- A span of sources named by its first register (R79). -/
def rdSpan (c : BitVec 7) (n : Nat) : Opd := { code := c, len := n, allow := .vec }

/-- A span of destinations (R79). -/
def wrSpan (c : BitVec 7) (n : Nat) : Opd := { code := c, len := n, allow := .vec, dst := true, src := false }

/-- The code is accepted in its position (R78, R79, R81): of a 64-bit position, a register pair, ZERO, or K (R83). -/
def Opd.legal (o : Opd) : Bool :=
  (match o.allow with
   | .any => true
   | .vec => codeIsVec o.code
   | .uni => codeIsW o.code || codeIsZero o.code || codeIsK o.code
   | .wOnly => codeIsW o.code
   | .vOnly => codeIsV o.code
   | .reg => codeIsVec o.code || codeIsW o.code) &&
  !(o.dst && (decide (o.code = 0x79#7) || codeIsK o.code || decide (o.code = 0x7B#7))) &&
  !(o.even && (codeIsV o.code || codeIsW o.code) && o.code.getLsbD 0) &&
  !(o.even && !o.lanes && (decide (o.code = 0x79#7) || decide (o.code = 0x7B#7))) &&
  !(codeIsW o.code && decide (0x78 < o.code.toNat + o.len))

/-- REGBOUND of a register number in a lane (R80, R81, R222). -/
def boundTrap (lane reg len regs : Nat) (odd byIndex : Bool) : Trap :=
  let r := if odd then reg else if len = 1 then reg else max reg regs
  { cause := 0x03, info := BitVec.ofNat 32 (lane + 64 * min r 127 + 8192 * b2n byIndex) }

/-- REGBOUND of an operand: a direct code for every lane at once, an indirect code in each active lane, lowest first (R80, R81). -/
def Opd.bound (w : Wave) (act : List Nat) (o : Opd) : Option Trap :=
  if o.late then none
  else if codeIsV o.code then
    if w.regs < o.code.toNat + o.len then some (boundTrap (act.headD 0) o.code.toNat o.len w.regs false false) else none
  else if codeIsX o.code then
    act.findSome? fun l =>
      let r := regNum w o.code l
      let odd := o.even && decide (r % 2 = 1)
      if odd || decide (w.regs < r + o.len) then some (boundTrap l r o.len w.regs odd true) else none
  else none

/-- The vector registers an operand touches in a lane. -/
def Opd.touches (w : Wave) (o : Opd) (l r : Nat) : Bool :=
  codeIsVec o.code && decide (regNum w o.code l ≤ r) && decide (r < regNum w o.code l + o.len)

/-- The uniform registers an operand touches. -/
def Opd.touchesW (o : Opd) (r : Nat) : Bool :=
  codeIsW o.code && decide (o.code.toNat - 0x60 ≤ r) && decide (r < o.code.toNat - 0x60 + o.len)

/-- A writeback keeps a word waiting on the scoreboard: its window is closed and an operand of the word is pending in it (R55, R61). -/
def boardHit (w : Wave) (act : List Nat) (os : List Opd) (x : Pend) : Bool :=
  x.isLoad && decide (x.window = 0) &&
    (x.vals.any (fun v => act.contains v.1 && os.any fun o => o.touches w v.1 v.2.1) ||
     x.uvals.any fun v => os.any fun o => o.touchesW v.1)

/-- A source operand of the word reads a marked register word in one of the lanes. -/
def readsMark (w : Wave) (ls : List Nat) (os : List Opd) (k : Nat) : Bool :=
  ls.contains (k % 64) && os.any fun o => o.src && o.touches w (k % 64) (k / 64)

/-- A source operand of the word is poisoned in an active lane (R109). -/
def readsPoison (w : Wave) (act : List Nat) (os : List Opd) : Bool := !w.poison.isEmpty && w.poison.any (readsMark w act os)

/-- SECDED corrects what a part reads (R108): the words are written back, and STATUS.CORR is set in the part. -/
def correctReads (q : Nat) (ls : List Nat) (os : List Opd) (w : Wave) : Wave :=
  if w.flaws.any (readsMark w ls os) then
    { w with
      flaws := w.flaws.filter fun k => !readsMark w ls os k, parts := partMod (fun p => { p with corr := true }) w.parts q }
  else w

/-! ## Reading and writing registers -/

/-- The 32-bit value of a source in a lane (R78, R83). -/
def Ctx.read (c : Ctx) (code : BitVec 7) (l : Nat) : Word :=
  if codeIsVec code then c.w.getV (regNum c.w code l) l
  else if codeIsW code then (c.p.getW (code.toNat - 0x60)).val
  else if codeIsK code then c.k
  else if code = 0x79#7 then BitVec.ofNat 32 l
  else if code = 0x7B#7 then BitVec.ofNat 32 (l / 4)
  else 0#32

/-- Register `i` of the span that a source names in a lane. -/
def Ctx.readAt (c : Ctx) (code : BitVec 7) (i l : Nat) : Word :=
  if codeIsVec code then c.w.getV (regNum c.w code l + i) l
  else if codeIsW code then (c.p.getW (code.toNat - 0x60 + i)).val
  else c.read code l

/-- The 64-bit value of a source in a lane: a pair, or a constant extended as R83 says. LANE and QUADIX extend with zeros. -/
def Ctx.read64 (c : Ctx) (f64 : Bool) (code : BitVec 7) (l : Nat) : DWord :=
  if codeIsVec code || codeIsW code then c.readAt code 1 l ++ c.readAt code 0 l
  else if codeIsK code then (if f64 then c.k ++ 0#32 else c.k.signExtend 64)
  else (c.read code l).zeroExtend 64

/-- The value of a source of 1 or 2 registers, as a number. -/
def Ctx.readNat (c : Ctx) (wide f64 : Bool) (code : BitVec 7) (l : Nat) : Nat :=
  if wide then (c.read64 f64 code l).toNat else (c.read code l).toNat

/-- The registers of a span in a lane. -/
def Ctx.readSpan (c : Ctx) (code : BitVec 7) (n l : Nat) : List Word := (List.range n).map fun i => c.readAt code i l

/-- Write consecutive registers of one lane from a first register. -/
def Wave.setSpan (w : Wave) (r l : Nat) : List Word → Wave
  | [] => w
  | x :: xs => Wave.setSpan (w.setV r l x) (r + 1) l xs

/-- Write consecutive uniform registers of a view. -/
def Part.setSpan (p : Part) (r : Nat) : List Word → Part
  | [] => p
  | x :: xs => Part.setSpan (p.setW r x) (r + 1) xs

/-- Write a vector destination in each lane of a list. -/
def writeLanes (code : BitVec 7) (f : Nat → List Word) (w : Wave) : List Nat → Wave
  | [] => w
  | l :: ls => writeLanes code f (w.setSpan (regNum w code l) l (f l)) ls

/-- Write a destination (R78, R82): a vector register in each active lane, a uniform register once with the value of the lowest
active lane, ZERO not at all. -/
def writeRegs (c : Ctx) (code : BitVec 7) (f : Nat → List Word) (s : State) : State :=
  if codeIsVec code then s.modWave c.key fun w => writeLanes code f w c.act
  else if codeIsW code then
    match c.act with
    | [] => s
    | l :: _ => s.modPart c.key c.q fun p => p.setSpan (code.toNat - 0x60) (f l)
  else s

/-- Write one register. -/
def writeReg (c : Ctx) (code : BitVec 7) (f : Nat → Word) (s : State) : State := writeRegs c code (fun l => [f l]) s

/-- The two words of a 64-bit value, the low one first (R81). -/
def words64 (x : DWord) : List Word := [x.extractLsb' 0 32, x.extractLsb' 32 32]

/-- The words that a number of 32 or 64 bits is written as. -/
def wordsOf (wide : Bool) (x : Nat) : List Word := if wide then words64 (BitVec.ofNat 64 x) else [BitVec.ofNat 32 x]

/-- Write a 32-bit or 64-bit result. -/
def writeNat (c : Ctx) (wide : Bool) (code : BitVec 7) (f : Nat → Nat) (s : State) : State :=
  writeRegs c code (fun l => wordsOf wide (f l)) s

/-- The per-lane writes of a destination as a writeback's list. -/
def pendVals (c : Ctx) (code : BitVec 7) (f : Nat → List Word) : List (Nat × Nat × Word) :=
  if codeIsVec code then c.act.flatMap fun l => (f l).zipIdx.map fun x => (l, regNum c.w code l + x.2, x.1) else []

/-- The uniform writes of a destination as a writeback's list (R35, R82). -/
def pendUvals (c : Ctx) (code : BitVec 7) (f : Nat → List Word) : List (Nat × Word) :=
  if codeIsW code then (f c.l0).zipIdx.map fun x => (code.toNat - 0x60 + x.2, x.1) else []

/-- Issue a long-latency result (R61): the destination is written when the writeback lands, held for `la` words. -/
def writeLater (c : Ctx) (code : BitVec 7) (la : Nat) (f : Nat → List Word) (s : State) : State :=
  let x : Pend := { id := s.nextId, kind := .load, window := la, vals := pendVals c code f, uvals := pendUvals c code f,
                    bq := c.p.q, bn := c.p.n, ulane := c.l0, lanes := [] }
  let s := { s with nextId := s.nextId + 1 }
  if x.empty then s else s.modPart c.key c.q fun p => { p with pend := p.pend ++ [x] }

end Sys2Proof.Machine
end

