-- ==== Sys2Proof/Machine/Flags.lean ====
section
/-! DEFINITION. Conditions: the comparisons of ICMP and FCMP and the words they write (R147, R167), lane conditions of flow words
(R423), and the sticky bits of STATUS (R99). -/

namespace Sys2Proof.Machine

/-- What a comparison writes: all ones, or zero (R147). -/
def condWord (b : Bool) : Word := if b then 0xFFFFFFFF#32 else 0#32

/-- The condition of ICMP function `f` on two patterns of `n` bits (R147). -/
def icmpCond (f n a b : Nat) : Bool :=
  let ua := a % 2 ^ n
  let ub := b % 2 ^ n
  match f with
  | 0 => decide (ua = ub)
  | 1 => decide (ua ≠ ub)
  | 2 => decide (sintOf n a < sintOf n b)
  | 3 => decide (sintOf n a ≤ sintOf n b)
  | 4 => decide (sintOf n b < sintOf n a)
  | 5 => decide (sintOf n b ≤ sintOf n a)
  | 6 => decide (ua < ub)
  | 7 => decide (ua ≤ ub)
  | 8 => decide (ub < ua)
  | 9 => decide (ub ≤ ua)
  | 10 => decide (Nat.land ua ub = 0)
  | _ => decide (Nat.land ua ub ≠ 0)

/-- The condition of FCMP function `f` on two float values (R167). -/
def fcmpCond (f : Nat) (a b : FVal) : Bool :=
  let un := a.isNan || b.isNan
  match f with
  | 0 => a.eq b
  | 1 => !(a.eq b)
  | 2 => a.lt b
  | 3 => a.lt b || a.eq b
  | 4 => b.lt a
  | 5 => b.lt a || a.eq b
  | 6 => un
  | _ => !un

/-- A lane's condition is true: bits [31:0] are nonzero (R210, R423). -/
def condTrue (x : Word) : Bool := decide (x ≠ 0#32)

/-- Clear the sticky bits of STATUS that a written word selects (R99: write one to clear). -/
def clearSticky (x : Word) (p : Part) : Part :=
  { p with ucf := p.ucf && !x.getLsbD 0, poison := p.poison && !x.getLsbD 1, corr := p.corr && !x.getLsbD 2 }

/-- Set STATUS.POISON of a part (R99). -/
def setPoison (b : Bool) (p : Part) : Part := { p with poison := p.poison || b }

end Sys2Proof.Machine
end

