-- ==== Sys2Proof/Machine/Ops.lean ====
section
/-! DEFINITION. The operations every word shares: time, taking a trap and returning from one (R217 to R222), ending a word and a
run (R54), the order of checks (R89 to R91) and the scoreboard (R55, R61). -/

namespace Sys2Proof.Machine

/-- Lean's outcome type, at this machine. -/
abbrev Out := Host.Outcome State Fault Refusal

/-! ## Time -/

/-- The charge of one cycle, so that 1/k of it is whole for every k up to 64 workgroups of a core (R66). -/
def chargeUnit : Nat := 1182266884102822267511361600

/-- Workgroups of a grid on a core. -/
def sharing (s : State) (g : Wg) : Nat :=
  (s.wgs.filter fun e => decide (e.2.grid = g.grid) && decide (e.2.core = g.core)).length

/-- Charge the cycles of each core to its workgroups of DEADLINE launches (R66); a workgroup with a stopped wave is not charged (R450). -/
def chargeWgs (n : Nat → Nat) (s : State) : State :=
  if s.grids.any fun e => decide (e.2.cls = 0) then
    { s with
      wgs := kmap (fun _ g =>
        if decide ((kgetD {} s.grids g.grid).cls = 0) && !((wgWaves s g).any (·.stopped)) then
          { g with charge := g.charge + n g.core * (chargeUnit / max 1 (sharing s g)) }
        else g) s.wgs }
  else s

/-- Parts of a wave in the state that a per-cycle event counts (R444): the scoreboard, a fuse wait, a barrier wait. -/
def waitingParts (event : Nat) (w : Wave) : Nat :=
  (w.parts.filter fun p => match p.wait with
    | .board _ _ => event == 0x10
    | .fuse _ _ _ => event == 0x11
    | .barrier _ _ _ => event == 0x12
    | .barrierNext _ _ => event == 0x12
    | _ => false).length

/-- A core counts the events of `n` cycles that count parts in waits (R444). -/
def countWaits (n : Nat) (s : State) (core : Nat) (c : Core) : Core :=
  if c.pmcsel.any fun x => decide (0x10 ≤ x % 256) && decide (x % 256 ≤ 0x12) then
    s.waves.foldl (fun c e =>
      if coreOf e.1 = core then
        [0x10, 0x11, 0x12].foldl (fun c ev =>
          (List.range 4).foldl (pmcAdd ev (n * waitingParts ev e.2) e.2.ctx) c) c
      else c) c
  else c

/-- Each core counts the cycles that its island's clock has made since `s0` (R9, R444). -/
def countCycles (s0 s : State) : State :=
  { s with cores := kmap (fun core c => countWaits (cycleOf s core - cycleOf s0 core) s core c) s.cores }

/-- Each workgroup of a DEADLINE launch is charged the cycles of its core since `s0` (R66). -/
def chargeCycles (s0 s : State) : State :=
  chargeWgs (fun core => cycleOf s core - cycleOf s0 core) s

/-- `n` ns pass: every island's clock goes on (R9), and what is due by time alone happens (R249). -/
def tick (n : Nat) (s : State) : State :=
  chargeCycles s (countCycles s (performOld { s with time := s.time + n, lag := lagAfter n s }))

/-! ## The issue port (R18, R54, R57, R465) -/

/-- The datapath cycles of one pass of a part (R18). -/
def passes (n : Nat) : Nat := (n + 7) / 8

/-- The issue port of a quarter is free (R18, R57). -/
def portFree (s : State) (qr : Nat) : Bool := decide (cellsGet 0 (s.core (qr / 4)).busy (qr % 4) ≤ cycleOf s (qr / 4))

/-- The idle cycles that the port of a quarter inserts: none but in a throttled partition's cores that no DEADLINE launch has reserved
(R465). -/
def portIdle (w : Wave) (s : State) : Nat :=
  if (kgetD {} s.partitions w.partition).throttled && (s.core (coreOf w.key)).reserved.isNone then
    Config.idleCycles (quarterOf w.key) (cycleOf s (coreOf w.key))
  else 0

/-- A word group takes its quarter's port for `n` cycles. -/
def usePort (w : Wave) (n : Nat) (s : State) : State :=
  let core := coreOf w.key
  let now := cycleOf s core
  let idle := portIdle w s
  s.modCore core fun x =>
    { x with busy := cellsPut 0 x.busy (quarterOf w.key % 4) (now + n + idle) }

/-! ## Traps -/

/-- TVEC names a user handler: bits [1:0] are zero (R218). -/
def hasHandler (p : Part) : Bool := decide (p.tvec.val.extractLsb' 0 2 = 0#2)

/-- The trap registers and the PC at the entry to a handler (R218 to R220): `pc` is the trapping word, or the first of its prefix
group, or the word that an asynchronous cause names; for TRAP and BKPT the word itself, whose successor is named. -/
def enterHandler (w : Wave) (s : State) (pc : Word) (t : Trap) (p : Part) : Part :=
  let o := originOf s w pc
  let next := if t.following then 4#32 else 0#32
  { p with
    trappc := BitVec.ofNat 32 o.1 + next,
    tcause := BitVec.ofNat 32 (t.cause + 256 * b2n o.2.1 + 512 * b2n o.2.2.1),
    tinfo := t.info, taddr := t.addr.getD p.taddr,
    tspc := if o.2.1 then pc + next else 0#32,
    tpart := tpartWord p.q p.n, handler := true, entry := t.cause, pc := p.tvec.val, wait := .ready,
    readyAt := cycleOf s (coreOf w.key), prefixPc := none, prefixHi := none, prefixK := none, prefixN := 0, timeout := none }

/-- TAKING AN EXCEPTION (R217, R218, R222): part (key, q) takes a synchronous cause at `pc`. In a handler it is a double trap;
without a user handler the wave is terminated with status FAULT; otherwise the part enters its handler. -/
def takeTrap (key q : Nat) (pc : Word) (t : Trap) (s : State) : State :=
  match kget s.waves key with
  | none => s
  | some w =>
    match partAt w.parts q with
    | none => s
    | some p =>
      if p.handler then terminateWave key 0x0105 t.cause (some pc) s
      else if !hasHandler p then terminateWave key 0x0108 t.cause (some pc) s
      else
        let s := traceSummary key s
        let s := countEvent (coreOf key) 0x13 1 w.ctx (closeWindows key q s)
        s.modPart key q (enterHandler w s pc t)

/-- The return PC of ERET (R221). -/
def returnPc (p : Part) : Word := if p.tcause.getLsbD 8 then p.tspc else p.trappc

/-- RETURN FROM AN EXCEPTION (R221): HANDLER is cleared and the part goes on at the return PC. -/
def leaveHandler (cycle : Nat) (pc : Word) (p : Part) : Part :=
  { p with handler := false, pc := pc, wait := .ready, readyAt := cycle }

/-- The fuse checks of a wave now (R27); a conflicting fuse under UTRAP takes UCONF at the fuse point (R34). -/
def fuseNow (key : Nat) (s : State) : State :=
  match kget s.waves key with
  | none => s
  | some w =>
    let r := fuseWave (cycleOf s (coreOf key)) w
    let s := countEvent (coreOf key) 0x04 (w.parts.length - r.1.parts.length) w.ctx (traceFused key r.1.parts { s with waves := kput s.waves key r.1 })
    r.2.foldl (fun s t =>
      match partAt r.1.parts t.1 with
      | none => s
      | some p => takeTrap key t.1 (p.prefixPc.getD p.pc) { cause := 0x06, info := BitVec.ofNat 32 t.2 } s) s

/-! ## Runs -/

/-- The run on the word's quarter ends (R54). The causes are those of the RUN record (R446). -/
def stopRun (c : Ctx) (cause : Nat) (s : State) : State :=
  match kget s.runs (quarterOf c.key) with
  | none => s
  | some r => closeRun c.key c.w c.p r cause s

/-- A stop that the word asked for, or a debugger's STEP, takes effect when the word is over (R223, R451). -/
def stopIfAsked (key : Nat) (s : State) : State :=
  match (kget s.waves key).bind (·.stopReq) with
  | some cause => stopWave key cause s
  | none => s

/-- A word has issued, with its prefix group: it takes the port for its own cycles and one pass for each prefix word, INST and the events
count (R18, R84, R443, R444), and the run goes on or ends (R54). -/
def endWord (c : Ctx) (cost : Nat) (ended : Option Nat) (s : State) : State :=
  let core := coreOf c.key
  let n := c.p.prefixN + 1
  let s := (usePort c.w (cost + c.p.prefixN * passes c.p.n) s).modCore core fun x => { x with inst := (x.inst + n) % 2 ^ 48 }
  let s := countEvent core 0x02 (n * c.act.length) c.w.ctx (countEvent core 0x01 n c.w.ctx s)
  let s := s.modWave c.key fun w => { w with sumWords := w.sumWords + n }
  let qr := quarterOf c.key
  match kget s.runs qr with
  | none => s
  | some r =>
    let s := if r.words = 0 then traceSelect c.w c.p.q s else s
    let r := if r.words = 0 then { r with pc := c.pc0, mask := laneMask c.act } else r
    let r := { r with words := r.words + n }
    let s := { s with runs := kput s.runs qr r }
    let s := match ended with
      | some cause => stopRun c cause s
      | none => if c.z then stopRun c 0 s else if 24 ≤ r.words then stopRun c 5 s else s
    stopIfAsked c.key s

/-! ## What a meaning answers -/

/-- What the own effect of a word comes to. -/
inductive Res where
  /-- done; the part falls through; datapath cycles per pass -/
  | fall (s : State) (cost : Nat)
  /-- done; the part goes to a target and the run ends -/
  | goto (s : State) (target : Word)
  /-- done; the part stands where it goes on and the run goes on -/
  | stay (s : State)
  /-- done; the part has been dealt with and the run ends with a cause -/
  | custom (s : State) (cause : Nat)
  /-- the word has issued and ends in a wait (R54) -/
  | rest (s : State) (wt : Wait)
  /-- the word waits before it completes and issues again; held writebacks land (R62) -/
  | hold (s : State) (wt : Wait)
  /-- the word has not issued: the part gives up the port as at a run break (R55) -/
  | brk (wt : Wait)
  /-- the word has not issued: `f` changes the state before it, and the part gives up the port in the wait that `f` leaves it -/
  | stall (f : State → State)
  /-- a trap, with the state its earlier effects left -/
  | trap (s : State) (t : Trap)
  /-- a privileged cause terminates the wave with a grid status (R217) -/
  | kill (s : State) (status : Nat) (fsum : Nat)
  | fault (f : Fault)
  | refuse (r : Refusal)

/-- Set the wait of a part. -/
def setWait (key q : Nat) (wt : Wait) (s : State) : State := s.modPart key q fun p => { p with wait := wt }

/-- The prefix group of the issuing part again: the part waits at its word. -/
def keepPrefix (c : Ctx) (p : Part) : Part :=
  { p with prefixPc := c.p.prefixPc, prefixHi := c.p.prefixHi, prefixK := c.p.prefixK, prefixN := c.p.prefixN }

/-- The part stands at the first word of the group again, which will issue again (R84). -/
def backToGroup (c : Ctx) (p : Part) : Part := ungroup { p with pc := c.pc0 }

/-- A lookahead window of the part is open: the next word lies in it (R61). -/
def inWindow (p : Part) : Bool := p.pend.any fun x => x.isLoad && decide (0 < x.window)

/-- The words of a group that waits on the scoreboard: outside every open window of the part it is a run break (R55); inside one the part
keeps the port and its run. A break before the run's first word leaves no trace of a run (R54). -/
def breakRun (c : Ctx) (wt : Wait) (s : State) : State :=
  let s1 := (setWait c.key c.q wt s).modPart c.key c.q (backToGroup c)
  if inWindow c.p && (match wt with | .board _ _ => true | _ => false) then s1
  else
    match kget s.runs (quarterOf c.key) with
    | none => s1
    | some r => stopRun c 4 (if r.words = 0 then s1 else countEvent (coreOf c.key) 0x05 1 c.w.ctx s1)

/-- A wave folds the outcome of a word that may change a PC into its path signature (R454). -/
def foldSig (key : Nat) (pc : Word) (q : Nat) (taken : Bool) (s : State) : State :=
  s.modWave key fun w =>
    { w with sig := (((BitVec.ofNat 64 w.sig).rotateLeft 5) ^^^ BitVec.ofNat 64 (pc.toNat * 2 ^ 8 + q * 2 ^ 2 + b2n taken)).toNat }

/-- The loop buffer of the wave's quarter holds the body of a loop level that the part runs from it (R63). -/
def bufferHolds (s : State) (w : Wave) (l : LoopLevel) : Bool :=
  l.buf && (kgetD [] s.loopBufs (quarterOf w.key)).any fun b =>
    decide (b.ctx = ctxKey w.partition w.ctx) && decide (b.start = l.start.toNat)

/-- The word stands at the end of its part's innermost loop body (R429). -/
def atLoopEnd (p : Part) : Bool :=
  match p.loops.getLast? with
  | some l => decide (p.pc = l.stop)
  | none => false

/-- A word falls through: the next word, or a back-edge, which counts as taken and goes into the signature (R429, R444, R454). -/
def fallThrough (c : Ctx) (s : State) : State :=
  let s1 := s.modPart c.key c.q fallPart
  if atLoopEnd c.p then
    let back := match c.p.loops.getLast? with
      | some l => decide (l.lc ≠ 1#32)
      | none => false
    foldSig c.key c.p.pc c.q back (if back then countEvent (coreOf c.key) 0x06 1 c.w.ctx s1 else s1)
  else s1

/-- The redirect cycle of a back-edge whose body the quarter's loop buffer does not hold (R63). -/
def redirect (c : Ctx) (s : State) : Nat :=
  match c.p.loops.getLast? with
  | some l => if c.p.pc = l.stop ∧ l.lc ≠ 1#32 ∧ !(bufferHolds s c.w l) then 1 else 0
  | none => 0

/-- Finish a word: `s0` is the state before it. -/
def finish (c : Ctx) (s0 : State) : Res → Out
  | .fall s cost => .next (endWord c (cost * passes c.p.n + redirect c s) none (fallThrough c s))
  | .goto s t =>
    .next (endWord c (passes c.p.n) (some 1)
      ((countEvent (coreOf c.key) 0x06 1 c.w.ctx s).modPart c.key c.q fun p => { p with pc := t }))
  | .stay s => .next (endWord c (passes c.p.n) none s)
  | .custom s cause => .next (endWord c (passes c.p.n) (some cause) s)
  | .rest s wt => .next (endWord c (passes c.p.n) (some 2) (setWait c.key c.q wt (closeWindows c.key c.q s)))
  | .hold s wt =>
    .next (stopIfAsked c.key
      (stopRun c 2 (setWait c.key c.q wt ((closeWindows c.key c.q s).modPart c.key c.q (backToGroup c)))))
  | .brk wt => .next (stopIfAsked c.key (breakRun c wt s0))
  | .stall f => .next (stopIfAsked c.key (stopRun c 4 (f (s0.modPart c.key c.q (backToGroup c)))))
  | .trap s t =>
    .next (endWord c (passes c.p.n) (some 2) (takeTrap c.key c.q (if t.bare || t.following then c.p.pc else c.pc0) t s))
  | .kill s st fs => .next (terminateWave c.key st fs (some c.pc0) s)
  | .fault f => .fault f
  | .refuse r => .refused r

/-- The checks a word names for itself. -/
structure Sig where
  maj : Nat
  /-- F or F7[3:0], when the word is privileged (R89) -/
  priv : Option Nat := none
  /-- an experimental encoding on another stepping (R93) -/
  badStep : Bool := false
  /-- a function is not legal where it is issued (R371) -/
  badFunc : Bool := false
  /-- a reserved or unused field is nonzero -/
  badField : Bool := false
  opds : List Opd := []
  /-- a MODE value is not accepted (R86) -/
  badMode : Bool := false
  /-- minimum width in quads: R31 -/
  minQuads : Option Nat := none
deriving DecidableEq, Repr

/-- The wave is narrower than the minimum width of the word (R31). -/
def waveNarrow (c : Ctx) (g : Sig) : Bool :=
  match g.minQuads with
  | some m => decide (c.w.width < 4 * m)
  | none => false

/-- The first trap of R89, from the lifetime class on. Within step 4 the order is: width, fields, operands, prefixes, MODE;
of several operands that R80 or R81 refuses, the first in the order D, A, Bf is reported, with its lowest lane (log 15). -/
def checkSig (c : Ctx) (g : Sig) : Option Trap :=
  if g.badStep then some (illegal g.maj 0x08)
  else if g.priv.isSome && !c.w.ctrl then some { cause := 0x02, info := BitVec.ofNat 32 (g.priv.getD 0 % 16 + 256 * g.maj) }
  else if g.badFunc then some (illegal g.maj 0x02)
  else if waveNarrow c g then some (illegal g.maj 0x0A)
  else if g.badField then some (illegal g.maj 0x03)
  else if !(g.opds.all (·.legal)) then some (illegal g.maj 0x04)
  else if c.p.prefixHi.isSome && c.p.prefixK.isNone then some { illegal g.maj 0x05 with bare := true }
  else if g.opds.any (fun o => codeIsK o.code) && c.p.prefixK.isNone then some (illegal g.maj 0x05)
  else if g.badMode then some (illegal g.maj 0x07)
  else g.opds.findSome? (·.bound c.w c.act)

/-- The lanes whose activity the guard decides (R87). -/
def guardLanes (c : Ctx) : List Nat := (liveLanes c.w c.p).filter fun l => decide (c.w.nestOf l = 0)

/-- The guard register as an operand (R87: it is read at issue, as a source). -/
def guardOpds (p : Part) : List Opd := if modeGenOf p.mode then [rd (modeGregOf p.mode)] else []

/-- The writebacks that keep the guard from being read. -/
def guardHits (c : Ctx) : List Nat :=
  (c.p.pend.filter (boardHit c.w (guardLanes c) (guardOpds c.p))).map (·.id)

/-- The writebacks that keep the word waiting. -/
def boardHits (c : Ctx) (g : Sig) : List Nat :=
  (c.p.pend.filter (boardHit c.w c.act g.opds)).map (·.id)

/-- The state in which a word takes its effect: what SECDED corrects of its operands and its guard is corrected (R87, R108), its windows
have shrunk and its prefix group is used up (R61, R83). -/
def begun (c : Ctx) (g : Sig) (s : State) : State :=
  (s.modWave c.key fun w =>
    if w.flaws.isEmpty then w else correctReads c.q c.act g.opds (correctReads c.q (guardLanes c) (guardOpds c.p) w)).modPart c.key c.q
    fun p => { ungroup (shrinkWindows (c.p.pend.map (·.id)) p) with timeout := none }

/-- A minimum-width wait (R31): the part stands at the word until fusion makes it wide enough. The run ends before any fuse, so that a role
set in it has settled (R215). -/
def widthWait (c : Ctx) (m : Nat) (s : State) : Out :=
  let s1 := setWait c.key c.q (.fuse (.minWidth m) none (cycleOf s (coreOf c.key))) (closeWindows c.key c.q s)
  .next (stopIfAsked c.key (fuseNow c.key (stopRun c 2 s1)))

/-- The part must wait for its minimum width: the wave is wide enough and the part is not (R31). -/
def tooNarrow (c : Ctx) (g : Sig) : Bool :=
  match g.minQuads with
  | some m => decide (4 * m ≤ c.w.width) && decide (c.p.n < m)
  | none => false

/-- The word accesses a register of a backing-store area that is no longer present and writable (R105). -/
def touchesLost (c : Ctx) (g : Sig) : Bool :=
  c.w.areaLost && c.act.any fun l => (guardOpds c.p ++ g.opds).any fun o =>
    codeIsVec o.code && decide (c.w.vbound < regNum c.w o.code l + o.len)

/-- The guard register is poisoned in a lane whose activity it decides (R87, R109, log 72). -/
def guardPoison (c : Ctx) : Bool := readsPoison c.w (guardLanes c) (guardOpds c.p)

/-- ISSUE A WORD (R89, R91): `sig` names its checks, `idle` is its effect with no active lane, `body` its effect otherwise. -/
def issueWord (z : Bool) (sig : Ctx → Sig) (idle body : Ctx → State → Res) (s : State) : Out :=
  match issueCtx z s with
  | none => .refused .noIssuingPart
  | some c =>
    if !(guardHits c).isEmpty then finish c s (.brk (.board (guardHits c) (guardLanes c)))
    else if guardPoison c then finish c s (.kill s 0x0104 0x20)
    else if tooNarrow c (sig c) then widthWait c ((sig c).minQuads.getD 1) s
    else if c.act.isEmpty then finish c s (idle c (begun c (sig c) s))
    else match checkSig c (sig c) with
      | some t => finish c s (.trap s t)
      | none =>
        if !(boardHits c (sig c)).isEmpty then finish c s (.brk (.board (boardHits c (sig c)) c.act))
        else if touchesLost c (sig c) then finish c s (.kill s 0x0106 0x22)
        else if readsPoison c.w c.act (sig c).opds then finish c s (.kill s 0x0104 0x20)
        else finish c s (body c (begun c (sig c) s))

/-- The effect of a word with no active lane whose description says nothing (R91). -/
def idleWord (_ : Ctx) (s : State) : Res := .fall s 1

/-- The same for a word of `m` datapath cycles per pass, which it takes whatever lanes are active (R18, R138, R159). -/
def idleCost (m : Ctx → Nat) (c : Ctx) (s : State) : Res := .fall s (m c)

end Sys2Proof.Machine
end

