-- ==== Sys2Proof/Machine/Integer.lean ====
section
/-! DEFINITION. Integer, bit, comparison and address words (R136 to R149), lane by lane under MODE.ET. -/

namespace Sys2Proof.Machine

/-! ## Lane by lane -/

/-- The width and signedness that MODE.ET gives (R136). -/
def Ctx.et (c : Ctx) : Nat := modeEtOf c.p.mode

/-- MODE.ET2. -/
def Ctx.et2 (c : Ctx) : Nat := modeEt2Of c.p.mode

/-! ## IALU (R140, R141) -/

/-- The integer type of MODE.ET has 64 bits: S64 or N64. A type that a word does not accept makes no 64-bit position of it (R137). -/
def Ctx.int64 (c : Ctx) : Bool := c.et == 4 || c.et == 5

/-- The checks of an IALU word: `f` is its function; D and A are 64-bit positions, Bf for functions 0 to 11. -/
def ialuSig (f : Nat) (d a b : BitVec 7) (c : Ctx) : Sig :=
  let w := c.int64
  { maj := 0x01, badMode := !etInt c.et,
    opds := [wrW w d, rdW w a] ++ (if f = 6 ∨ f = 7 then [] else if f < 12 then [rdW w b] else [rd b]) }

/-- The result pattern of IALU function `f` (R141) on two patterns and a shift count. -/
def ialuRes (f n : Nat) (signed sat : Bool) (a b cnt : Nat) : Nat :=
  let x := intOf n signed a
  let y := intOf n signed b
  let ua := a % 2 ^ n
  let ub := b % 2 ^ n
  match f with
  | 0 => fitInt sat n signed (x + y)
  | 1 => fitInt sat n signed (x - y)
  | 2 => fitInt sat n signed (x * y)
  | 3 => wrapInt n ((x * y).fdiv (2 ^ n : Nat))
  | 4 => wrapInt n (min x y)
  | 5 => wrapInt n (max x y)
  | 6 => wrapInt n (-x)
  | 7 => wrapInt n (if x < 0 then -x else x)
  | 8 => Nat.land ua ub
  | 9 => Nat.lor ua ub
  | 10 => Nat.xor ua ub
  | 11 => Nat.land ua (2 ^ n - 1 - ub)
  | 12 => if n ≤ cnt then 0 else ua * 2 ^ cnt % 2 ^ n
  | 13 => if n ≤ cnt then 0 else ua / 2 ^ cnt
  | 14 => wrapInt n ((sintOf n a).fdiv (2 ^ min cnt (n - 1) : Nat))
  | _ => (ua * 2 ^ (cnt % n) + ua / 2 ^ (n - cnt % n)) % 2 ^ n

/-- Datapath cycles of an IALU word per pass (R138). -/
def ialuCost (f : Nat) (c : Ctx) : Nat := if c.int64 && (f == 2 || f == 3) then 4 else 1

/-- The effect of an IALU word. -/
def ialuBody (f : Nat) (d a b : BitVec 7) (c : Ctx) (s : State) : Res :=
  let w := etWide c.et
  let n := etWidth c.et
  let sg := etSigned c.et
  .fall (writeNat c w d (fun l =>
      extendRes n sg (ialuRes f n sg (modeSatOf c.p.mode) (c.readNat w false a l) (c.readNat w false b l) (c.read b l).toNat)) s)
    (ialuCost f c)

/-- An IALU word. -/
def execIalu (f : Nat) (z : Bool) (d a b : BitVec 7) (s : State) : Out :=
  issueWord z (ialuSig f d a b) (idleCost (ialuCost f)) (ialuBody f d a b) s

/-- IADD (R141): a + b, fitted. -/
def execIadd (z : Bool) (d a b : BitVec 7) (s : State) : Out := execIalu 0 z d a b s

/-- ISUB (R141): a - b, fitted. -/
def execIsub (z : Bool) (d a b : BitVec 7) (s : State) : Out := execIalu 1 z d a b s

/-- IMUL (R141): a * b, fitted. -/
def execImul (z : Bool) (d a b : BitVec 7) (s : State) : Out := execIalu 2 z d a b s

/-- IMULH (R141): the high half of the exact product. -/
def execImulh (z : Bool) (d a b : BitVec 7) (s : State) : Out := execIalu 3 z d a b s

/-- IMIN (R141): the lesser of a and b. -/
def execImin (z : Bool) (d a b : BitVec 7) (s : State) : Out := execIalu 4 z d a b s

/-- IMAX (R141): the greater of a and b. -/
def execImax (z : Bool) (d a b : BitVec 7) (s : State) : Out := execIalu 5 z d a b s

/-- INEG (R141): -a. -/
def execIneg (z : Bool) (d a : BitVec 7) (s : State) : Out := execIalu 6 z d a 0#7 s

/-- IABS (R141): |a|. -/
def execIabs (z : Bool) (d a : BitVec 7) (s : State) : Out := execIalu 7 z d a 0#7 s

/-- AND (R141): a AND b. -/
def execAnd (z : Bool) (d a b : BitVec 7) (s : State) : Out := execIalu 8 z d a b s

/-- OR (R141): a OR b. -/
def execOr (z : Bool) (d a b : BitVec 7) (s : State) : Out := execIalu 9 z d a b s

/-- XOR (R141): a XOR b. -/
def execXor (z : Bool) (d a b : BitVec 7) (s : State) : Out := execIalu 10 z d a b s

/-- ANDN (R141): a AND NOT b. -/
def execAndn (z : Bool) (d a b : BitVec 7) (s : State) : Out := execIalu 11 z d a b s

/-- SHL (R141): a shifted left; 0 for a count of n or more. -/
def execShl (z : Bool) (d a b : BitVec 7) (s : State) : Out := execIalu 12 z d a b s

/-- SHR (R141): a shifted right; 0 for a count of n or more. -/
def execShr (z : Bool) (d a b : BitVec 7) (s : State) : Out := execIalu 13 z d a b s

/-- SAR (R141): a shifted right with its sign. -/
def execSar (z : Bool) (d a b : BitVec 7) (s : State) : Out := execIalu 14 z d a b s

/-- ROT (R141): a rotated left by the count modulo n. -/
def execRot (z : Bool) (d a b : BitVec 7) (s : State) : Out := execIalu 15 z d a b s

/-! ## IBIT (R142, R143) -/

/-- Element types of an IBIT function (R137). -/
def ibitEt (f et : Nat) : Bool :=
  if f = 11 ∨ f = 12 then true else if f ≤ 3 then decide (et ≤ 2) || et == 4 || et == 5 else decide (et ≤ 2)

/-- The word works on pairs (R142): CLZ to BREV, MOV and SEL under a 64-bit type. -/
def ibitWide (f et : Nat) : Bool := etWide et && (decide (f ≤ 3) || f == 11 || f == 12)

/-- The destination is a pair: not for CLZ, CTZ and POPC (R142, R143). -/
def ibitWideD (f et : Nat) : Bool := ibitWide f et && decide (3 ≤ f)

/-- The function reads D (R142). -/
def ibitReadsD (f : Nat) : Bool := f == 4 || f == 10 || f == 12 || f == 13

/-- The function reads Bf. -/
def ibitReadsB (f : Nat) : Bool := !(decide (f ≤ 3) || f == 7 || f == 11)

/-- The checks of an IBIT word. -/
def ibitSig (f : Nat) (d a b : BitVec 7) (c : Ctx) : Sig :=
  let w := ibitWide f c.et
  let wd := ibitWideD f c.et
  { maj := 0x02, badMode := !ibitEt f c.et,
    opds := [if ibitReadsD f then rw_ wd d else wrW wd d, rdW w a] ++ (if ibitReadsB f then [rdW w b] else []) }

/-- Bits of `x` by index, from a function: bit `i` of the result is `f i`, for i < n. -/
def bitsFrom (f : Nat → Bool) : Nat → Nat
  | 0 => 0
  | n + 1 => bitsFrom f n + (if f n then 2 ^ n else 0)

/-- Leading zero bits of the low `n` bits. -/
def clzNat (u n : Nat) : Nat := if u % 2 ^ n = 0 then n else n - 1 - Nat.log2 (u % 2 ^ n)

/-- Trailing zero bits of the low `n` bits. -/
def ctzNat (u : Nat) : Nat → Nat
  | 0 => 0
  | n + 1 => if u % 2 = 1 then 0 else 1 + ctzNat (u / 2) n

/-- One bits of the low `n` bits. -/
def popNat (u : Nat) : Nat → Nat
  | 0 => 0
  | n + 1 => u % 2 + popNat (u / 2) n

/-- The result of IBIT function `f` on the patterns of A, Bf and the old D in `m` bits (R143). -/
def ibitRes (f m u v d : Nat) : Nat :=
  let pos := v % 32
  let len := v / 256 % 32
  match f with
  | 0 => clzNat u m
  | 1 => ctzNat u m
  | 2 => popNat u m
  | 3 => bitsFrom (fun i => u.testBit (m - 1 - i)) m
  | 4 => bitsFrom (fun i => if i % 3 = 0 then u.testBit (i / 3) else if i % 3 = 1 then v.testBit (i / 3) else d.testBit (i / 3)) 30
  | 5 => if v ≤ 2 then bitsFrom (fun i => u.testBit (3 * i + v)) 10 else 0
  | 6 => bitsFrom (fun i => if i % 2 = 0 then u.testBit (i / 2) else v.testBit (i / 2)) 32
  | 7 => bitsFrom (fun i => if i < 16 then u.testBit (2 * i) else u.testBit (2 * (i - 16) + 1)) 32
  | 8 => u / 2 ^ pos % 2 ^ len
  | 9 => if len = 0 then 0 else wrapInt 32 (sintOf len (u / 2 ^ pos % 2 ^ len))
  | 10 => bitsFrom (fun i => if pos ≤ i ∧ i < pos + len then u.testBit (i - pos) else d.testBit i) 32
  | 11 => u
  | 12 => if d ≠ 0 then u else v
  | _ =>
    let pool := v * 2 ^ 32 + u
    let sel := fun j => d / 2 ^ (4 * j) % 16
    let byte := fun j => if sel j ≤ 7 then pool / 2 ^ (8 * sel j) % 256 else 0
    byte 0 + 256 * byte 1 + 65536 * byte 2 + 16777216 * byte 3

/-- The effect of an IBIT word. -/
def ibitBody (f : Nat) (d a b : BitVec 7) (c : Ctx) (s : State) : Res :=
  let w := ibitWide f c.et
  let f64 := decide (c.et = 6)
  .fall (writeNat c (ibitWideD f c.et) d (fun l =>
      ibitRes f (if w then 64 else 32) (c.readNat w f64 a l) (c.readNat w f64 b l) (c.readNat (ibitWideD f c.et) f64 d l)) s) 1

/-- An IBIT word. -/
def execIbit (f : Nat) (z : Bool) (d a b : BitVec 7) (s : State) : Out :=
  issueWord z (ibitSig f d a b) idleWord (ibitBody f d a b) s

/-- CLZ (R143): leading zero bits of A. -/
def execClz (z : Bool) (d a : BitVec 7) (s : State) : Out := execIbit 0 z d a 0#7 s

/-- CTZ (R143): trailing zero bits of A. -/
def execCtz (z : Bool) (d a : BitVec 7) (s : State) : Out := execIbit 1 z d a 0#7 s

/-- POPC (R143): one bits of A. -/
def execPopc (z : Bool) (d a : BitVec 7) (s : State) : Out := execIbit 2 z d a 0#7 s

/-- BREV (R143): A with its bits reversed. -/
def execBrev (z : Bool) (d a : BitVec 7) (s : State) : Out := execIbit 3 z d a 0#7 s

/-- BIL3 (R143): ten bits of A, Bf and the old D interleaved. -/
def execBil3 (z : Bool) (d a b : BitVec 7) (s : State) : Out := execIbit 4 z d a b s

/-- BDIL3 (R143): every third bit of A from bit Bf. -/
def execBdil3 (z : Bool) (d a b : BitVec 7) (s : State) : Out := execIbit 5 z d a b s

/-- BIL2 (R143): sixteen bits of A and Bf interleaved. -/
def execBil2 (z : Bool) (d a b : BitVec 7) (s : State) : Out := execIbit 6 z d a b s

/-- BDIL2 (R143): the even and the odd bits of A. -/
def execBdil2 (z : Bool) (d a : BitVec 7) (s : State) : Out := execIbit 7 z d a 0#7 s

/-- BFX (R143): a bit field of A. -/
def execBfx (z : Bool) (d a b : BitVec 7) (s : State) : Out := execIbit 8 z d a b s

/-- BFXS (R143): a bit field of A, sign-extended. -/
def execBfxs (z : Bool) (d a b : BitVec 7) (s : State) : Out := execIbit 9 z d a b s

/-- BFI (R143): a bit field of A put into the old D. -/
def execBfi (z : Bool) (d a b : BitVec 7) (s : State) : Out := execIbit 10 z d a b s

/-- MOV (R143): A. -/
def execMov (z : Bool) (d a : BitVec 7) (s : State) : Out := execIbit 11 z d a 0#7 s

/-- SEL (R143): A where the old D is nonzero, else Bf. -/
def execSel (z : Bool) (d a b : BitVec 7) (s : State) : Out := execIbit 12 z d a b s

/-- PERM (R143): bytes of A and Bf by the selector in the old D. -/
def execPerm (z : Bool) (d a b : BitVec 7) (s : State) : Out := execIbit 13 z d a b s

/-! ## IMAD (R144, R145) -/

/-- Element types of an IMAD function (R137). -/
def imadEt (f et : Nat) : Bool :=
  match f with
  | 2 => et == 1 || et == 2
  | 3 => et == 0 || et == 2
  | _ => et == 1 || et == 2 || et == 4 || et == 5

/-- D, A and Bf are 64-bit positions, for IMAD and IMADH under S64 or N64 (R144), which take the datapath four times as long (R138). -/
def imadWide (f : Nat) (c : Ctx) : Bool := decide (f ≤ 1) && c.int64

/-- Datapath cycles of an IMAD word per pass (R138). -/
def imadCost (f : Nat) (c : Ctx) : Nat := if imadWide f c then 4 else 1

/-- The checks of an IMAD word. -/
def imadSig (f : Nat) (d a b : BitVec 7) (c : Ctx) : Sig :=
  let w := imadWide f c
  { maj := 0x03, badMode := !imadEt f c.et, opds := [rw_ w d, rdW w a, rdW w b] }

/-- Byte `j` of a pattern. -/
def byteOf (x j : Nat) : Nat := x / 2 ^ (8 * j) % 256

/-- The result of IMAD function `f` (R145). -/
def imadRes (f n : Nat) (signed sat : Bool) (a b d : Nat) : Nat :=
  let x := intOf n signed a
  let y := intOf n signed b
  let e := intOf n signed d
  let by_ := fun v j => intOf 8 signed (byteOf v j)
  match f with
  | 0 => fitInt sat n signed (x * y + e)
  | 1 => wrapInt n ((x * y).fdiv (2 ^ n : Nat) + e)
  | 2 => fitInt sat n signed (e + by_ a 0 * by_ b 0 + by_ a 1 * by_ b 1 + by_ a 2 * by_ b 2 + by_ a 3 * by_ b 3)
  | _ =>
    let ad := fun j => ((byteOf a j : Int) - (byteOf b j : Int)).natAbs
    wrapInt n (e + ((ad 0 + ad 1 + ad 2 + ad 3 : Nat) : Int))

/-- The effect of an IMAD word. -/
def imadBody (f : Nat) (d a b : BitVec 7) (c : Ctx) (s : State) : Res :=
  let w := imadWide f c
  let n := etWidth c.et
  let sg := etSigned c.et
  .fall (writeNat c w d (fun l =>
      imadRes f n sg (modeSatOf c.p.mode) (c.readNat w false a l) (c.readNat w false b l) (c.readNat w false d l)) s)
    (imadCost f c)

/-- An IMAD word. -/
def execImadF (f : Nat) (z : Bool) (d a b : BitVec 7) (s : State) : Out :=
  issueWord z (imadSig f d a b) (idleCost (imadCost f)) (imadBody f d a b) s

/-- IMAD (R145): a * b + d, fitted once. -/
def execImad (z : Bool) (d a b : BitVec 7) (s : State) : Out := execImadF 0 z d a b s

/-- IMADH (R145): the high half of a * b, plus d. -/
def execImadh (z : Bool) (d a b : BitVec 7) (s : State) : Out := execImadF 1 z d a b s

/-- IDOT4 (R145): d plus four byte products. -/
def execIdot4 (z : Bool) (d a b : BitVec 7) (s : State) : Out := execImadF 2 z d a b s

/-- ISAD (R145): d plus four absolute byte differences. -/
def execIsad (z : Bool) (d a b : BitVec 7) (s : State) : Out := execImadF 3 z d a b s

/-! ## ICMP (R146, R147) -/

/-- The checks of an ICMP word: A and Bf are 64-bit positions, D is one register. -/
def icmpSig (d a b : BitVec 7) (c : Ctx) : Sig :=
  let w := c.int64
  { maj := 0x04, badMode := !etInt c.et, opds := [wr d, rdW w a, rdW w b] }

/-- The effect of an ICMP word: all ones where the condition holds. -/
def icmpBody (f : Nat) (d a b : BitVec 7) (c : Ctx) (s : State) : Res :=
  let w := etWide c.et
  .fall (writeReg c d (fun l => condWord (icmpCond f (etWidth c.et) (c.readNat w false a l) (c.readNat w false b l))) s) 1

/-- An ICMP word. -/
def execIcmp (f : Nat) (z : Bool) (d a b : BitVec 7) (s : State) : Out :=
  issueWord z (icmpSig d a b) idleWord (icmpBody f d a b) s

/-- ICMP.EQ (R147): equal. -/
def execIcmpEq (z : Bool) (d a b : BitVec 7) (s : State) : Out := execIcmp 0 z d a b s

/-- ICMP.NE (R147): different. -/
def execIcmpNe (z : Bool) (d a b : BitVec 7) (s : State) : Out := execIcmp 1 z d a b s

/-- ICMP.LT (R147): signed less. -/
def execIcmpLt (z : Bool) (d a b : BitVec 7) (s : State) : Out := execIcmp 2 z d a b s

/-- ICMP.LE (R147): signed less or equal. -/
def execIcmpLe (z : Bool) (d a b : BitVec 7) (s : State) : Out := execIcmp 3 z d a b s

/-- ICMP.GT (R147): signed greater. -/
def execIcmpGt (z : Bool) (d a b : BitVec 7) (s : State) : Out := execIcmp 4 z d a b s

/-- ICMP.GE (R147): signed greater or equal. -/
def execIcmpGe (z : Bool) (d a b : BitVec 7) (s : State) : Out := execIcmp 5 z d a b s

/-- ICMP.LTN (R147): unsigned less. -/
def execIcmpLtn (z : Bool) (d a b : BitVec 7) (s : State) : Out := execIcmp 6 z d a b s

/-- ICMP.LEN (R147): unsigned less or equal. -/
def execIcmpLen (z : Bool) (d a b : BitVec 7) (s : State) : Out := execIcmp 7 z d a b s

/-- ICMP.GTN (R147): unsigned greater. -/
def execIcmpGtn (z : Bool) (d a b : BitVec 7) (s : State) : Out := execIcmp 8 z d a b s

/-- ICMP.GEN (R147): unsigned greater or equal. -/
def execIcmpGen (z : Bool) (d a b : BitVec 7) (s : State) : Out := execIcmp 9 z d a b s

/-- ICMP.TSTZ (R147): no common one bit. -/
def execIcmpTstz (z : Bool) (d a b : BitVec 7) (s : State) : Out := execIcmp 10 z d a b s

/-- ICMP.TSTNZ (R147): a common one bit. -/
def execIcmpTstnz (z : Bool) (d a b : BitVec 7) (s : State) : Out := execIcmp 11 z d a b s

/-! ## ADDR (R148, R149) -/

/-- The checks of an ADDR word: D and A are pairs whatever ET holds, Bf for ADD64 and SUB64. -/
def addrSig (f : Nat) (d a b : BitVec 7) (_ : Ctx) : Sig :=
  { maj := 0x05, opds := [wrW true d, rdW true a] ++ (if f ≤ 1 then [rdW true b] else if f = 7 then [] else [rd b]) }

/-- The result of ADDR function `f` modulo 2^64 (R149). -/
def addrRes (f : Nat) (a b : DWord) (x : Word) : DWord :=
  match f with
  | 0 => a + b
  | 1 => a - b
  | 7 => a
  | 8 => if 64 ≤ x.toNat then 0#64 else a <<< x.toNat
  | 9 => if 64 ≤ x.toNat then 0#64 else a >>> x.toNat
  | _ => a + (x.signExtend 64 <<< (f - 2))

/-- The effect of an ADDR word. -/
def addrBody (f : Nat) (d a b : BitVec 7) (c : Ctx) (s : State) : Res :=
  .fall (writeRegs c d (fun l => words64 (addrRes f (c.read64 false a l) (c.read64 false b l) (c.read b l))) s) 1

/-- An ADDR word. -/
def execAddr (f : Nat) (z : Bool) (d a b : BitVec 7) (s : State) : Out :=
  issueWord z (addrSig f d a b) idleWord (addrBody f d a b) s

/-- ADD64 (R149): a + b. -/
def execAdd64 (z : Bool) (d a b : BitVec 7) (s : State) : Out := execAddr 0 z d a b s

/-- SUB64 (R149): a - b. -/
def execSub64 (z : Bool) (d a b : BitVec 7) (s : State) : Out := execAddr 1 z d a b s

/-- LEA1 (R149): a plus the signed word Bf. -/
def execLea1 (z : Bool) (d a b : BitVec 7) (s : State) : Out := execAddr 2 z d a b s

/-- LEA2 (R149): a plus 2 Bf. -/
def execLea2 (z : Bool) (d a b : BitVec 7) (s : State) : Out := execAddr 3 z d a b s

/-- LEA4 (R149): a plus 4 Bf. -/
def execLea4 (z : Bool) (d a b : BitVec 7) (s : State) : Out := execAddr 4 z d a b s

/-- LEA8 (R149): a plus 8 Bf. -/
def execLea8 (z : Bool) (d a b : BitVec 7) (s : State) : Out := execAddr 5 z d a b s

/-- LEA16 (R149): a plus 16 Bf. -/
def execLea16 (z : Bool) (d a b : BitVec 7) (s : State) : Out := execAddr 6 z d a b s

/-- MOV64 (R149): a. -/
def execMov64 (z : Bool) (d a : BitVec 7) (s : State) : Out := execAddr 7 z d a 0#7 s

/-- SHL64 (R149): a shifted left. -/
def execShl64 (z : Bool) (d a b : BitVec 7) (s : State) : Out := execAddr 8 z d a b s

/-- SHR64 (R149): a shifted right. -/
def execShr64 (z : Bool) (d a b : BitVec 7) (s : State) : Out := execAddr 9 z d a b s

/-! ## NOP (R89) -/

/-- NOP (R89): the PC advances; with B set the run ends. -/
def execNop (z : Bool) (s : State) : Out := issueWord z (fun _ => { maj := 0 }) idleWord idleWord s

end Sys2Proof.Machine
end

