-- ==== Sys2Proof/Machine/Float.lean ====
section
/-! DEFINITION. Floating-point, conversion and record words (R157 to R174). -/

namespace Sys2Proof.Machine

/-! ## FALU (R161 to R163) -/

/-- The position is a pair under F64. -/
def Ctx.f64 (c : Ctx) : Bool := decide (c.et = 6)

/-- MODE.RND. -/
def Ctx.rnd (c : Ctx) : Nat := modeRndOf c.p.mode

/-- MODE.FTZ. -/
def Ctx.ftz (c : Ctx) : Bool := modeFtzOf c.p.mode

/-- The function has a source Bf. -/
def faluReadsB (f : Nat) : Bool := !(decide (5 ≤ f) && decide (f ≤ 7)) && f != 10

/-- The checks of a FALU word. -/
def faluSig (f : Nat) (d a b : BitVec 7) (c : Ctx) : Sig :=
  let w := c.f64
  { maj := 0x06, badMode := !etFloat c.et,
    opds := [wrW (w && f != 7) d, rdW w a] ++ (if faluReadsB f then [rdW (w && f != 11) b] else []) }

/-- The class mask of a pattern (R163). -/
def fclsMask (m : Fmt) (x : Nat) : Nat :=
  match m.decode x with
  | .nan s => if s then 1 else 2
  | .inf neg => if neg then 4 else 512
  | .fin neg n _ =>
    if n = 0 then (if neg then 32 else 64)
    else if m.isSub x then (if neg then 16 else 128)
    else if neg then 8 else 256

/-- The lesser of two values, -0 below +0; NaN if either is (R162). -/
def fminVal (a b : FVal) : FVal :=
  if a.isNan || b.isNan then .nan false
  else if a.isZero && b.isZero then (match a with | .fin true _ _ => a | _ => b)
  else if b.lt a then b else a

/-- The greater of two values, +0 above -0; NaN if either is (R162). -/
def fmaxVal (a b : FVal) : FVal :=
  if a.isNan || b.isNan then .nan false
  else if a.isZero && b.isZero then (match a with | .fin true _ _ => b | _ => a)
  else if a.lt b then b else a

/-- A value rounded to an integral value (R162, FRND). -/
def frndVal (mode : Nat) : FVal → FVal
  | .fin neg n d => .fin neg (roundMag mode neg n d) 1
  | x => x

/-- The exponent of FSCL, cut to a range beyond which every format overflows or rounds away. -/
def fsclExp (k : Nat) : Int :=
  let x := sintOf 32 k
  if 4200 < x then 4200 else if x < -4200 then -4200 else x

/-- The result pattern of FALU function `f` (R162): `a` and `b` are patterns, `k` the exponent word of FSCL. -/
def faluRes (f : Nat) (m : Fmt) (rnd : Nat) (ftz : Bool) (a b k : Nat) : Nat :=
  let x := m.decode (m.flush ftz a)
  let y := m.decode (m.flush ftz b)
  let out := fun v => m.flush ftz (m.round rnd v)
  match f with
  | 0 => out (FVal.add rnd x y)
  | 1 => out (FVal.add rnd x y.neg)
  | 2 => out (x.mul y)
  | 3 => out (fminVal x y)
  | 4 => out (fmaxVal x y)
  | 5 => a % m.signBit
  | 6 => Nat.xor (a % (2 * m.signBit)) m.signBit
  | 7 => fclsMask m a
  | 8 => out (if x.isNan then y else if y.isNan then x else fminVal x y)
  | 9 => out (if x.isNan then y else if y.isNan then x else fmaxVal x y)
  | 10 => out (frndVal rnd x)
  | 11 => out (x.scale (fsclExp k))
  | _ => a % m.signBit + b / m.signBit % 2 * m.signBit

/-- Datapath cycles per pass of a word that takes four times as long under F64 (R159). -/
def f64Cost (c : Ctx) : Nat := if c.f64 then 4 else 1

/-- The effect of a FALU word. -/
def faluBody (f : Nat) (d a b : BitVec 7) (c : Ctx) (s : State) : Res :=
  let w := c.f64
  .fall (writeNat c (w && f != 7) d (fun l =>
      faluRes f (fmtOf c.et) c.rnd c.ftz (c.readNat w true a l) (c.readNat w true b l) (c.read b l).toNat) s) (f64Cost c)

/-- A FALU word. -/
def execFalu (f : Nat) (z : Bool) (d a b : BitVec 7) (s : State) : Out :=
  issueWord z (faluSig f d a b) (idleCost f64Cost) (faluBody f d a b) s

/-- FADD (R162): a + b. -/
def execFadd (z : Bool) (d a b : BitVec 7) (s : State) : Out := execFalu 0 z d a b s

/-- FSUB (R162): a - b. -/
def execFsub (z : Bool) (d a b : BitVec 7) (s : State) : Out := execFalu 1 z d a b s

/-- FMUL (R162): a * b. -/
def execFmul (z : Bool) (d a b : BitVec 7) (s : State) : Out := execFalu 2 z d a b s

/-- FMIN (R162): the lesser, NaN if either is. -/
def execFmin (z : Bool) (d a b : BitVec 7) (s : State) : Out := execFalu 3 z d a b s

/-- FMAX (R162): the greater, NaN if either is. -/
def execFmax (z : Bool) (d a b : BitVec 7) (s : State) : Out := execFalu 4 z d a b s

/-- FABS (R162): the sign bit cleared. -/
def execFabs (z : Bool) (d a : BitVec 7) (s : State) : Out := execFalu 5 z d a 0#7 s

/-- FNEG (R162): the sign bit inverted. -/
def execFneg (z : Bool) (d a : BitVec 7) (s : State) : Out := execFalu 6 z d a 0#7 s

/-- FCLS (R162): the class mask. -/
def execFcls (z : Bool) (d a : BitVec 7) (s : State) : Out := execFalu 7 z d a 0#7 s

/-- FMINM (R162): the lesser, a number before a NaN. -/
def execFminm (z : Bool) (d a b : BitVec 7) (s : State) : Out := execFalu 8 z d a b s

/-- FMAXM (R162): the greater, a number before a NaN. -/
def execFmaxm (z : Bool) (d a b : BitVec 7) (s : State) : Out := execFalu 9 z d a b s

/-- FRND (R162): rounded to an integral value. -/
def execFrnd (z : Bool) (d a : BitVec 7) (s : State) : Out := execFalu 10 z d a 0#7 s

/-- FSCL (R162): a times 2^k. -/
def execFscl (z : Bool) (d a b : BitVec 7) (s : State) : Out := execFalu 11 z d a b s

/-- FCPY (R162): A with the sign of Bf. -/
def execFcpy (z : Bool) (d a b : BitVec 7) (s : State) : Out := execFalu 12 z d a b s

/-! ## FFMA (R164, R165) -/

/-- The checks of an FFMA word. -/
def ffmaSig (d a b : BitVec 7) (c : Ctx) : Sig :=
  { maj := 0x07, badMode := !etFloat c.et, opds := [rw_ c.f64 d, rdW c.f64 a, rdW c.f64 b] }

/-- The result of FFMA function `f` with one rounding (R165). -/
def ffmaRes (f : Nat) (m : Fmt) (rnd : Nat) (ftz : Bool) (a b d : Nat) : Nat :=
  let x := m.decode (m.flush ftz a)
  let y := m.decode (m.flush ftz b)
  let e := m.decode (m.flush ftz d)
  m.flush ftz (m.round rnd
    (match f with
     | 0 => FVal.add rnd (x.mul y) e
     | 1 => FVal.add rnd (x.mul y) e.neg
     | _ => FVal.add rnd e (x.mul y).neg))

/-- The effect of an FFMA word. -/
def ffmaBody (f : Nat) (d a b : BitVec 7) (c : Ctx) (s : State) : Res :=
  let w := c.f64
  .fall (writeNat c w d (fun l =>
      ffmaRes f (fmtOf c.et) c.rnd c.ftz (c.readNat w true a l) (c.readNat w true b l) (c.readNat w true d l)) s) (f64Cost c)

/-- An FFMA word. -/
def execFfmaF (f : Nat) (z : Bool) (d a b : BitVec 7) (s : State) : Out :=
  issueWord z (ffmaSig d a b) (idleCost f64Cost) (ffmaBody f d a b) s

/-- FFMA (R165): a * b + d, rounded once. -/
def execFfma (z : Bool) (d a b : BitVec 7) (s : State) : Out := execFfmaF 0 z d a b s

/-- FFMS (R165): a * b - d, rounded once. -/
def execFfms (z : Bool) (d a b : BitVec 7) (s : State) : Out := execFfmaF 1 z d a b s

/-- FNMA (R165): d - a * b, rounded once. -/
def execFnma (z : Bool) (d a b : BitVec 7) (s : State) : Out := execFfmaF 2 z d a b s

/-! ## FCMP (R166, R167) -/

/-- The checks of an FCMP word. -/
def fcmpSig (d a b : BitVec 7) (c : Ctx) : Sig :=
  { maj := 0x08, badMode := !etFloat c.et, opds := [wr d, rdW c.f64 a, rdW c.f64 b] }

/-- The effect of an FCMP word. -/
def fcmpBody (f : Nat) (d a b : BitVec 7) (c : Ctx) (s : State) : Res :=
  let m := fmtOf c.et
  let val := fun code l => m.decode (m.flush c.ftz (c.readNat c.f64 true code l))
  .fall (writeReg c d (fun l => condWord (fcmpCond f (val a l) (val b l))) s) (f64Cost c)

/-- An FCMP word. -/
def execFcmp (f : Nat) (z : Bool) (d a b : BitVec 7) (s : State) : Out :=
  issueWord z (fcmpSig d a b) (idleCost f64Cost) (fcmpBody f d a b) s

/-- FCMP.EQ (R167): ordered and equal. -/
def execFcmpEq (z : Bool) (d a b : BitVec 7) (s : State) : Out := execFcmp 0 z d a b s

/-- FCMP.NE (R167): unordered or different. -/
def execFcmpNe (z : Bool) (d a b : BitVec 7) (s : State) : Out := execFcmp 1 z d a b s

/-- FCMP.LT (R167): ordered and less. -/
def execFcmpLt (z : Bool) (d a b : BitVec 7) (s : State) : Out := execFcmp 2 z d a b s

/-- FCMP.LE (R167): ordered and less or equal. -/
def execFcmpLe (z : Bool) (d a b : BitVec 7) (s : State) : Out := execFcmp 3 z d a b s

/-- FCMP.GT (R167): ordered and greater. -/
def execFcmpGt (z : Bool) (d a b : BitVec 7) (s : State) : Out := execFcmp 4 z d a b s

/-- FCMP.GE (R167): ordered and greater or equal. -/
def execFcmpGe (z : Bool) (d a b : BitVec 7) (s : State) : Out := execFcmp 5 z d a b s

/-- FCMP.UN (R167): unordered. -/
def execFcmpUn (z : Bool) (d a b : BitVec 7) (s : State) : Out := execFcmp 6 z d a b s

/-- FCMP.ORD (R167): ordered. -/
def execFcmpOrd (z : Bool) (d a b : BitVec 7) (s : State) : Out := execFcmp 7 z d a b s

/-! ## CVT (R168 to R170) -/

/-- The value of a pattern of element type `et`; subnormal floats read as zeros under FTZ (R120). -/
def etDecode (et : Nat) (ftz : Bool) (x : Nat) : FVal :=
  if etFloat et then (fmtOf et).decode ((fmtOf et).flush ftz x)
  else if etNarrow et then narrowDecode et x
  else .ofInt (intOf (etWidth et) (etSigned et) x)

/-- CONV of R169 into type `t`: the pattern, before the extension of R114. -/
def convTo (t mode : Nat) (sat forced ftz : Bool) (v : FVal) : Nat :=
  if etFloat t then
    let m := fmtOf t
    match v with
    | .inf neg => if forced then m.infBits - 1 + (if neg then m.signBit else 0) else m.round mode v
    | .fin neg _ _ =>
      let y := m.round mode v
      if forced && decide (y % m.signBit = m.infBits) then m.infBits - 1 + (if neg then m.signBit else 0) else m.flush ftz y
    | .nan _ => m.nanBits
  else if etNarrow t then narrowOf t mode v
  else
    let n := etWidth t
    let sg := etSigned t
    match v with
    | .nan _ => 0
    | .inf neg => fitInt true n sg (if neg then -((2 ^ 64 : Nat) : Int) else ((2 ^ 64 : Nat) : Int))
    | .fin neg p q => fitInt (sat || forced) n sg (signedNum neg (roundMag mode neg p q))

/-- A converted pattern as the register holds it (R114, R117, R121). -/
def convRes (t mode : Nat) (sat forced ftz : Bool) (v : FVal) : Nat :=
  let x := convTo t mode sat forced ftz v
  if etInt t then extendRes (etWidth t) (etSigned t) x else x

/-- F16, BF16, S16 or N16. -/
def etHalf (et : Nat) : Bool := decide (7 ≤ et) && decide (et ≤ 10)

/-- A numeric type: every code but B32 (R157). -/
def etNumeric (et : Nat) : Bool := decide (et ≠ 0)

/-- The checks of CVT, CVTZ and CVTS. -/
def cvtSig (d a : BitVec 7) (c : Ctx) : Sig :=
  { maj := 0x09, badMode := !(etNumeric c.et && etNumeric c.et2), opds := [wrW (etWide c.et) d, rdW (etWide c.et2) a] }

/-- Datapath cycles of a CVT word (R159). -/
def cvtCost (c : Ctx) : Nat := if etWide c.et || etWide c.et2 then 4 else 1

/-- The effect of CVT, CVTZ and CVTS: `mode` is the rounding mode. -/
def cvtBody (mode : Nat) (forced : Bool) (d a : BitVec 7) (c : Ctx) (s : State) : Res :=
  .fall (writeNat c (etWide c.et) d (fun l =>
      convRes c.et mode (modeSatOf c.p.mode) forced c.ftz
        (etDecode c.et2 c.ftz (c.readNat (etWide c.et2) (decide (c.et2 = 6)) a l))) s) (cvtCost c)

/-- CVT (R170): A as ET2 converted to ET under MODE.RND. -/
def execCvt (z : Bool) (d a : BitVec 7) (s : State) : Out :=
  issueWord z (cvtSig d a) (idleCost cvtCost) (fun c => cvtBody c.rnd false d a c) s

/-- CVTZ (R170): as CVT, rounded toward zero. -/
def execCvtz (z : Bool) (d a : BitVec 7) (s : State) : Out := issueWord z (cvtSig d a) (idleCost cvtCost) (cvtBody 1 false d a) s

/-- CVTS (R170): as CVT, with forced saturation. -/
def execCvts (z : Bool) (d a : BitVec 7) (s : State) : Out :=
  issueWord z (cvtSig d a) (idleCost cvtCost) (fun c => cvtBody c.rnd true d a c) s

/-- The checks of PACK2. -/
def pack2Sig (d a b : BitVec 7) (c : Ctx) : Sig :=
  { maj := 0x09, badMode := !(etHalf c.et && etNumeric c.et2), opds := [wr d, rdW (etWide c.et2) a, rdW (etWide c.et2) b] }

/-- The effect of PACK2: two halves in place (R170). -/
def pack2Body (d a b : BitVec 7) (c : Ctx) (s : State) : Res :=
  let half := fun code l => convTo c.et c.rnd (modeSatOf c.p.mode) false c.ftz
    (etDecode c.et2 c.ftz (c.readNat (etWide c.et2) (decide (c.et2 = 6)) code l))
  .fall (writeNat c false d (fun l => half b l * 2 ^ 16 + half a l) s) (cvtCost c)

/-- PACK2 (R170): two values converted into the halves of a register. -/
def execPack2 (z : Bool) (d a b : BitVec 7) (s : State) : Out :=
  issueWord z (pack2Sig d a b) (idleCost cvtCost) (pack2Body d a b) s

/-- The checks of UNPK and UNPKH. -/
def unpkSig (d a : BitVec 7) (c : Ctx) : Sig :=
  { maj := 0x09, badMode := !(etNumeric c.et && etHalf c.et2), opds := [wrW (etWide c.et) d, rd a] }

/-- The effect of UNPK (`hi` = false) and UNPKH: one half converted (R170). -/
def unpkBody (hi : Bool) (d a : BitVec 7) (c : Ctx) (s : State) : Res :=
  .fall (writeNat c (etWide c.et) d (fun l =>
      let x := (c.read a l).toNat
      convRes c.et c.rnd (modeSatOf c.p.mode) false c.ftz (etDecode c.et2 c.ftz (if hi then x / 2 ^ 16 else x % 2 ^ 16))) s) (cvtCost c)

/-- UNPK (R170): the low half converted. -/
def execUnpk (z : Bool) (d a : BitVec 7) (s : State) : Out := issueWord z (unpkSig d a) (idleCost cvtCost) (unpkBody false d a) s

/-- UNPKH (R170): the high half converted. -/
def execUnpkh (z : Bool) (d a : BitVec 7) (s : State) : Out := issueWord z (unpkSig d a) (idleCost cvtCost) (unpkBody true d a) s

/-! ## NRW (R171, R172) -/

/-- The record kind (R134) of NRW's kind field. -/
def nrwKind (k : BitVec 2) : Nat :=
  match k.toNat with
  | 0 => 0
  | 1 => 2
  | 2 => 3
  | _ => 1

/-- The checks of NRW: without X, Bf is unused. -/
def nrwSig (d a b : BitVec 7) (x : BitVec 1) (k : BitVec 2) (_ : Ctx) : Sig :=
  { maj := 0x0A, badField := decide (x = 0#1) && decide (b ≠ 0#7),
    opds := [wrSpan d (recRegs (nrwKind k)), rdSpan a 32] ++ (if x = 1#1 then [rd b] else []) }

/-- The effect of NRW: each lane narrows its own 32 values (R172). -/
def nrwBody (d a b : BitVec 7) (x : BitVec 1) (k : BitVec 2) (c : Ctx) (s : State) : Res :=
  let kind := nrwKind k
  .fall (writeRegs c d (fun l =>
      let vs := (c.readSpan a 32 l).map fun v => fmtF32.decode (fmtF32.flush c.ftz v.toNat)
      wordsOfNat (recRegs kind)
        (narrowRecord kind c.rnd (if x = 1#1 then some ((c.read b l).toNat % 256) else none) vs)) s) 4

/-- NRW (R172): 32 values narrowed into a block record. -/
def execNrw (z : Bool) (d a b : BitVec 7) (x : BitVec 1) (k : BitVec 2) (s : State) : Out :=
  issueWord z (nrwSig d a b x k) (idleCost fun _ => 4) (nrwBody d a b x k) s

/-! ## WID (R173, R174) -/

/-- The record kind (R134) that an ET2 code names, if any. -/
def widKind (et2 : Nat) : Option Nat :=
  match et2 with
  | 13 => some 0
  | 11 => some 1
  | 14 => some 2
  | 15 => some 3
  | _ => none

/-- The widened element of a record (R174): its pattern in the format. -/
def widenElem (m : Fmt) (mode : Nat) (ftz : Bool) (kind r i : Nat) : Nat :=
  let sb := recScale r
  if sb = 0xFF then m.nanBits
  else if sb = 0 then 0
  else m.flush ftz (m.round mode ((elemVal kind (recElem kind r i)).mul (.fin false (scaleVal sb).1 (scaleVal sb).2)))

/-- The checks of WIDE. -/
def wideSig (d a b : BitVec 7) (c : Ctx) : Sig :=
  { maj := 0x0B, badMode := !(etFloat c.et && (widKind c.et2).isSome),
    opds := [wrW c.f64 d, rdSpan a (recRegs ((widKind c.et2).getD 0)), rd b] }

/-- The effect of WIDE. -/
def wideBody (d a b : BitVec 7) (c : Ctx) (s : State) : Res :=
  let kind := (widKind c.et2).getD 0
  .fall (writeNat c c.f64 d (fun l =>
      widenElem (fmtOf c.et) c.rnd c.ftz kind (natOfWords (c.readSpan a (recRegs kind) l)) ((c.read b l).toNat % 32)) s) 1

/-- WIDE (R174): one element widened. -/
def execWide (z : Bool) (d a b : BitVec 7) (s : State) : Out := issueWord z (wideSig d a b) idleWord (wideBody d a b) s

/-- The checks of WIDE4. -/
def wide4Sig (d a b : BitVec 7) (c : Ctx) : Sig :=
  { maj := 0x0B, badMode := !(etFloat c.et && !c.f64 && (widKind c.et2).isSome),
    opds := [wrSpan d 4, rdSpan a (recRegs ((widKind c.et2).getD 0)), rd b] }

/-- The effect of WIDE4: four elements. -/
def wide4Body (d a b : BitVec 7) (c : Ctx) (s : State) : Res :=
  let kind := (widKind c.et2).getD 0
  .fall (writeRegs c d (fun l =>
      let r := natOfWords (c.readSpan a (recRegs kind) l)
      let j := (c.read b l).toNat % 8
      (List.range 4).map fun t => BitVec.ofNat 32 (widenElem (fmtOf c.et) c.rnd c.ftz kind r (4 * j + t))) s) 2

/-- WIDE4 (R174): four elements widened. -/
def execWide4 (z : Bool) (d a b : BitVec 7) (s : State) : Out :=
  issueWord z (wide4Sig d a b) (idleCost fun _ => 2) (wide4Body d a b) s

/-- The effect of SCALEOF. -/
def scaleofBody (d a : BitVec 7) (c : Ctx) (s : State) : Res :=
  .fall (writeNat c false d (fun l => (c.read a l).toNat % 256) s) 1

/-- SCALEOF (R174): the scale byte of an image. -/
def execScaleof (z : Bool) (d a : BitVec 7) (s : State) : Out :=
  issueWord z (fun _ => { maj := 0x0B, opds := [wr d, rdSpan a 1] }) idleWord (scaleofBody d a) s

/-- The effect of SETSC: bits [7:0] of D. -/
def setscBody (d a : BitVec 7) (c : Ctx) (s : State) : Res :=
  .fall (writeReg c d (fun l => (c.read d l).extractLsb' 8 24 ++ (c.read a l).extractLsb' 0 8) s) 1

/-- SETSC (R174): the scale byte of an image set. -/
def execSetsc (z : Bool) (d a : BitVec 7) (s : State) : Out :=
  issueWord z (fun _ => { maj := 0x0B, opds := [{ rdSpan d 1 with dst := true }, rd a] }) idleWord (setscBody d a) s

end Sys2Proof.Machine
end

