-- ==== Sys2Proof/Machine/Lanes.lean ====
section
/-! DEFINITION. Cross-lane words (R175 to R182): shuffles, votes, reductions and scans over the domain of a wave or a part. -/

namespace Sys2Proof.Machine

/-! ## The domain (R175, R176) -/

/-- Lanes of the domain: the part's block, which is the whole wave for the forms without .P once they issue. -/
def domainLanes (c : Ctx) : List Nat := blockLanes c.p.q c.p.n

/-- The value of source A in a domain lane, as a number (R176): 0 in a lane that has executed END, and in an inactive lane whose
index runs past the declared count. An odd index of a 64-bit A in an inactive lane names the pair from the odd register (log 78). -/
def domainRead (c : Ctx) (wide f64 : Bool) (a : BitVec 7) (l : Nat) : Nat :=
  if c.w.ended.contains l then 0
  else if codeIsX a && decide (c.w.regs < regNum c.w a l + (if wide then 2 else 1)) then 0
  else c.readNat wide f64 a l

/-- The writebacks of A that any lane of the domain waits for (R176). -/
def domainHits (c : Ctx) (o : Opd) : List Nat :=
  (c.p.pend.filter (boardHit c.w (domainLanes c) [o])).map (·.id)

/-- Finish a cross-lane word: it waits for A in every lane of the domain, and a poisoned source in any of them is a UEREG, whether or not
the word uses that lane's value, since the register is read (R109, R176; log 78). -/
def domainRes (c : Ctx) (o : Opd) (s : State) (r : Res) : Res :=
  if !(domainHits c o).isEmpty then .brk (.board (domainHits c o) (domainLanes c))
  else if readsPoison c.w (domainLanes c) [o] then .kill s 0x0104 0x20
  else r

/-- Datapath cycles of an XLANE word per pass (R177). -/
def xlaneCost (_ : Ctx) : Nat := 2

/-- Datapath cycles of a WRED word per pass (R177). -/
def wredCost (c : Ctx) : Nat := if c.et = 6 then 16 else 4

/-- The minimum width of a form: the whole wave without .P (R31, R175). -/
def domainMin (p : BitVec 1) (c : Ctx) : Option Nat := if p = 1#1 then none else some (c.w.width / 4)

/-! ## XLANE (R178, R179) -/

/-- The checks of a shuffle, broadcast or swizzle. -/
def shflSig (d a b : BitVec 7) (p : BitVec 1) (c : Ctx) : Sig :=
  let w := etWide c.et
  { maj := 0x0C, opds := [wrW w d, rdW w a, rd b], minQuads := domainMin p c }

/-- The source lane within the domain for XLANE function `f` (R179): `l` the own lane, `x` Bf in it, `x0` Bf in the lowest active
lane, `n` the lanes of the domain. -/
def shflSource (f n l x x0 : Nat) : Nat :=
  match f with
  | 0 => x % n
  | 1 => Nat.xor l (x % n)
  | 2 => if x ≤ l then l - x else l
  | 3 => if l + x < n then l + x else l
  | 4 => x0 % n
  | _ => 4 * (l / 4) + x / 2 ^ (2 * (l % 4)) % 4

/-- The effect of a shuffle. -/
def shflBody (f : Nat) (d a b : BitVec 7) (c : Ctx) (s : State) : Res :=
  let w := etWide c.et
  let base := 4 * c.p.q
  domainRes c (rdW w a) s
    (.fall (writeNat c w d (fun l =>
        let src := shflSource f (4 * c.p.n) (l - base) (c.read b l).toNat (c.read b c.l0).toNat
        domainRead c w (decide (c.et = 6)) a (base + src)) s) 2)

/-- A shuffle, broadcast or swizzle. -/
def execXlane (f : Nat) (z : Bool) (d a b : BitVec 7) (p : BitVec 1) (s : State) : Out :=
  issueWord z (shflSig d a b p) (idleCost xlaneCost) (shflBody f d a b) s

/-- SHFL (R179): A from lane Bf. -/
def execShfl (z : Bool) (d a b : BitVec 7) (p : BitVec 1) (s : State) : Out := execXlane 0 z d a b p s

/-- SHFLX (R179): A from the lane whose index differs by the XOR mask Bf. -/
def execShflx (z : Bool) (d a b : BitVec 7) (p : BitVec 1) (s : State) : Out := execXlane 1 z d a b p s

/-- SHFLU (R179): A from the lane Bf below. -/
def execShflu (z : Bool) (d a b : BitVec 7) (p : BitVec 1) (s : State) : Out := execXlane 2 z d a b p s

/-- SHFLD (R179): A from the lane Bf above. -/
def execShfld (z : Bool) (d a b : BitVec 7) (p : BitVec 1) (s : State) : Out := execXlane 3 z d a b p s

/-- BCST (R179): A from one lane for all. -/
def execBcst (z : Bool) (d a b : BitVec 7) (p : BitVec 1) (s : State) : Out := execXlane 4 z d a b p s

/-- QSWZ (R179): A within the quad, by four selectors. -/
def execQswz (z : Bool) (d a b : BitVec 7) (p : BitVec 1) (s : State) : Out := execXlane 5 z d a b p s

/-- The ballot: bit `l - base` for each active lane whose A is nonzero (R179). -/
def ballotMask (c : Ctx) (a : BitVec 7) : Nat :=
  c.act.foldl (fun m l => if condTrue (c.read a l) then m + 2 ^ (l - 4 * c.p.q) else m) 0

/-- The effect of BALLOT. -/
def ballotBody (d a : BitVec 7) (c : Ctx) (s : State) : Res :=
  domainRes c (rd a) s (.fall (writeNat c true d (fun _ => ballotMask c a) s) 2)

/-- BALLOT (R179): a mask of the active lanes whose A is nonzero, in a pair. -/
def execBallot (z : Bool) (d a : BitVec 7) (p : BitVec 1) (s : State) : Out :=
  issueWord z (fun c => { maj := 0x0C, opds := [wrW true d, rd a], minQuads := domainMin p c }) (idleCost xlaneCost) (ballotBody d a) s

/-- The effect of VOTE: any, all and equal. -/
def voteBody (d a : BitVec 7) (c : Ctx) (s : State) : Res :=
  let any := c.act.any fun l => condTrue (c.read a l)
  let all := c.act.all fun l => condTrue (c.read a l)
  let eq := c.act.all fun l => decide (c.read a l = c.read a c.l0)
  domainRes c (rd a) s (.fall (writeNat c false d (fun _ => b2n any + 2 * b2n all + 4 * b2n eq) s) 2)

/-- VOTE (R179): any + 2 all + 4 equal over the active lanes. -/
def execVote (z : Bool) (d a : BitVec 7) (p : BitVec 1) (s : State) : Out :=
  issueWord z (fun c => { maj := 0x0C, opds := [wr d, rd a], minQuads := domainMin p c }) (idleCost xlaneCost) (voteBody d a) s

/-! ## WRED (R180 to R182) -/

/-- Element types of a WRED function. -/
def wredEt (f et : Nat) : Bool :=
  if f = 3 ∨ f = 4 ∨ f = 5 then decide (et ≤ 2) || et == 4 || et == 5
  else et == 1 || et == 2 || et == 4 || et == 5 || etFloat et

/-- The checks of a WRED word. -/
def wredSig (f : Nat) (d a : BitVec 7) (p : BitVec 1) (c : Ctx) : Sig :=
  let w := etWide c.et
  { maj := 0x0D, badMode := !wredEt f c.et, opds := [wrW w d, rdW w a], minQuads := domainMin p c }

/-- Two positions combined, one of them perhaps absent (R181). -/
def wredComb (add : Nat → Nat → Nat) : Option Nat → Option Nat → Option Nat
  | some x, some y => some (add x y)
  | some x, none => some x
  | none, y => y

/-- One level of the tree. -/
def wredLevel (add : Nat → Nat → Nat) : List (Option Nat) → List (Option Nat)
  | x :: y :: r => wredComb add x y :: wredLevel add r
  | r => r

/-- The fixed tree of R181, over a power of two positions. -/
def wredTree (add : Nat → Nat → Nat) : Nat → List (Option Nat) → List (Option Nat)
  | 0, t => t
  | fuel + 1, t => if t.length ≤ 1 then t else wredTree add fuel (wredLevel add t)

/-- A sum of two patterns of an element type (R180, R181): floats are rounded once and flushed. -/
def wredAdd (et rnd : Nat) (ftz : Bool) (x y : Nat) : Nat :=
  if etFloat et then
    let m := fmtOf et
    m.flush ftz (m.round rnd (FVal.add rnd (m.decode x) (m.decode y)))
  else (x + y) % 2 ^ etWidth et

/-- The combination of WRED functions 1 to 5 (R181). -/
def wredPair (f et : Nat) (x y : Nat) : Nat :=
  let n := etWidth et
  if f = 3 then Nat.land x y
  else if f = 4 then Nat.lor x y
  else if f = 5 then Nat.xor x y
  else if etFloat et then
    let m := fmtOf et
    m.round 0 (if f = 1 then fminVal (m.decode x) (m.decode y) else fmaxVal (m.decode x) (m.decode y))
  else if f = 1 then (if intOf n (etSigned et) y < intOf n (etSigned et) x then y else x)
  else if intOf n (etSigned et) x < intOf n (etSigned et) y then y else x

/-- The source of an active lane as a pattern of the type, flushed for floats under FTZ. -/
def wredIn (c : Ctx) (a : BitVec 7) (l : Nat) : Nat :=
  let x := c.readNat (etWide c.et) (decide (c.et = 6)) a l % 2 ^ etWidth c.et
  if etFloat c.et then (fmtOf c.et).flush c.ftz x else x

/-- A reduction's result (R181). -/
def wredRes (f : Nat) (a : BitVec 7) (c : Ctx) : Nat :=
  let ins := (domainLanes c).map fun l => if c.act.contains l then some (wredIn c a l) else none
  let r := wredTree (if f = 0 then wredAdd c.et c.rnd c.ftz else wredPair f c.et) 6 ins
  let x := (r.headD none).getD 0
  -- a single NaN is written canonical (R119)
  if etFloat c.et && ((fmtOf c.et).decode x).isNan then (fmtOf c.et).nanBits else x

/-- The scan of R182: lane and value, `excl` for SCANADDX. -/
def wredScan (excl : Bool) (c : Ctx) (a : BitVec 7) : Nat → List Nat → List (Nat × Nat)
  | _, [] => []
  | acc, l :: ls =>
    let acc' := wredAdd c.et c.rnd c.ftz acc (wredIn c a l)
    (l, if excl then acc else acc') :: wredScan excl c a acc' ls

/-- The effect of a WRED word. -/
def wredBody (f : Nat) (d a : BitVec 7) (c : Ctx) (s : State) : Res :=
  let w := etWide c.et
  let cost := wredCost c
  let out := fun x => extendRes (etWidth c.et) (etSigned c.et) x
  domainRes c (rdW w a) s
    (if 6 ≤ f then
      let t := wredScan (f == 7) c a 0 c.act
      .fall (writeNat c w d (fun l => out (cellsGet 0 t l)) s) cost
    else .fall (writeNat c w d (fun _ => out (wredRes f a c)) s) cost)

/-- A WRED word. -/
def execWred (f : Nat) (z : Bool) (d a : BitVec 7) (p : BitVec 1) (s : State) : Out :=
  issueWord z (wredSig f d a p) (idleCost wredCost) (wredBody f d a) s

/-- REDADD (R181, R182): the sum over a fixed tree of the active lanes. -/
def execRedadd (z : Bool) (d a : BitVec 7) (p : BitVec 1) (s : State) : Out := execWred 0 z d a p s

/-- REDMIN (R181, R182): the least value of the active lanes. -/
def execRedmin (z : Bool) (d a : BitVec 7) (p : BitVec 1) (s : State) : Out := execWred 1 z d a p s

/-- REDMAX (R181, R182): the greatest value of the active lanes. -/
def execRedmax (z : Bool) (d a : BitVec 7) (p : BitVec 1) (s : State) : Out := execWred 2 z d a p s

/-- REDAND (R181, R182): the AND of the active lanes. -/
def execRedand (z : Bool) (d a : BitVec 7) (p : BitVec 1) (s : State) : Out := execWred 3 z d a p s

/-- REDOR (R181, R182): the OR of the active lanes. -/
def execRedor (z : Bool) (d a : BitVec 7) (p : BitVec 1) (s : State) : Out := execWred 4 z d a p s

/-- REDXOR (R181, R182): the XOR of the active lanes. -/
def execRedxor (z : Bool) (d a : BitVec 7) (p : BitVec 1) (s : State) : Out := execWred 5 z d a p s

/-- SCANADD (R181, R182): the running sum, inclusive of the active lanes. -/
def execScanadd (z : Bool) (d a : BitVec 7) (p : BitVec 1) (s : State) : Out := execWred 6 z d a p s

/-- SCANADDX (R181, R182): the running sum, exclusive of the active lanes. -/
def execScanaddx (z : Bool) (d a : BitVec 7) (p : BitVec 1) (s : State) : Out := execWred 7 z d a p s

end Sys2Proof.Machine
end

