-- ==== Sys2Proof/Machine/Special.lean ====
section
/-! DEFINITION. The special-function queue and its functions (R183 to R188): the exact and special cases of R187 as it states them,
and elsewhere a result that the error bound allows and that Config.sfnPick picks (log 16). -/

namespace Sys2Proof.Machine

/-! ## Fixed point: integers in units of 2^-320

The functions are computed to far more than the 24 bits of a result; the error is below 2^-150 of the result or 2^-150 absolute, so
that it moves the end of an allowed range only where the range ends within that distance of an F32 value (log 16). -/

/-- The unit. -/
def fixOne : Int := 2 ^ 320

/-- π. -/
def fixPi : Int := 6710401180212168915155840974220003240804194089427148950727106424351713218671805380099500388914039

/-- ln 2. -/
def fixLn2 : Int := 1480553391661173448385607439722553250922680800745876974795605978609098082859138712941075737848984

/-- √π. -/
def fixRootPi : Int := 3785938447302275866172364106918224132412100010554367173306053844873107473458949990322237899480506

/-- A product. -/
def fixMul (a b : Int) : Int := a * b / fixOne

/-- A quotient. -/
def fixDiv (a b : Int) : Int := a * fixOne / b

/-- Σ over k ≥ `k` of y^k / k!, where `t` is the first term. -/
def expSum (y : Int) : Nat → Nat → Int → Int
  | 0, _, t => t
  | fuel + 1, k, t => t + expSum y fuel (k + 1) (fixMul t y / ((k : Int) + 1))

/-- e^y. -/
def fixExp (y : Int) : Int :=
  let k := y / fixLn2
  let r := expSum (y - k * fixLn2) 80 0 fixOne
  if 0 ≤ k then r * 2 ^ k.toNat else r / 2 ^ (-k).toNat

/-- Σ over odd k of t^k / k, in steps of the square `u` with the first power `p`; `alt` gives the signs. -/
def oddSum (u : Int) : Nat → Nat → Int → Int
  | 0, _, _ => 0
  | fuel + 1, k, p => p / (k : Int) + oddSum u fuel (k + 2) (fixMul p u)

/-- ln m for 1 ≤ m < 2. -/
def fixLn (m : Int) : Int :=
  let t := fixDiv (m - fixOne) (m + fixOne)
  2 * oddSum (fixMul t t) 100 1 t

/-- Σ (-1)^k r^(2k+i) / (2k+i)!, from the term `t` with index `i`. -/
def sinSum (u : Int) : Nat → Nat → Int → Int
  | 0, _, _ => 0
  | fuel + 1, i, t => t + sinSum u fuel (i + 2) (-(fixMul t u) / ((i + 1) * (i + 2) : Nat))

/-- A reduced angle, 0 ≤ r < 2π. -/
def fixReduce (x : Int) : Int := x % (2 * fixPi)

/-- sin x. -/
def fixSin (x : Int) : Int :=
  let r := fixReduce x
  sinSum (fixMul r r) 80 1 r

/-- cos x. -/
def fixCos (x : Int) : Int :=
  let r := fixReduce x
  sinSum (fixMul r r) 80 0 fixOne

/-- Σ of Euler's series for arctan: the term `t`, and the ratio x²/(1+x²). -/
def atanSum (u : Int) : Nat → Nat → Int → Int
  | 0, _, _ => 0
  | fuel + 1, n, t => t + atanSum u fuel (n + 1) (fixMul t u * (2 * n + 2 : Nat) / (2 * n + 3 : Nat))

/-- arctan x for 0 ≤ x. -/
def fixAtan (x : Int) : Int :=
  let small := fun y : Int =>
    let d := fixOne + fixMul y y
    atanSum (fixDiv (fixMul y y) d) 300 0 (fixDiv y d)
  if x ≤ fixOne then small x else fixPi / 2 - small (fixDiv fixOne x)

/-- Σ (-1)^n x^(2n+1) / (n! (2n+1)), where `t` is x^(2n+1)/n! with its sign. -/
def erfSum (u : Int) : Nat → Nat → Int → Int
  | 0, _, _ => 0
  | fuel + 1, n, t => t / ((2 * n + 1 : Nat) : Int) + erfSum u fuel (n + 1) (-(fixMul t u) / ((n + 1 : Nat) : Int))

/-- A value that lies strictly between 0 and 1, held there though it is nearer to an end than the unit. -/
def fixInside (x : Int) : Int := max 1 (min x (fixOne - 1))

/-- The continued fraction x + (k/2)/(x + ((k+1)/2)/(x + …)) of erfc. -/
def erfcTail (x : Int) : Nat → Nat → Int
  | 0, _ => x
  | fuel + 1, k => x + fixDiv (k * fixOne / 2) (erfcTail x fuel (k + 1))

/-- erf x for 0 ≤ x: the series, and above 7 from the continued fraction of erfc. -/
def fixErf (x : Int) : Int :=
  fixInside (
    if 20 * fixOne < x then fixOne
    else if 7 * fixOne < x then fixOne - fixDiv (fixExp (-(fixMul x x))) (fixMul fixRootPi (erfcTail x 200 1))
    else fixDiv (2 * erfSum (fixMul x x) 320 0 x) fixRootPi)

/-- 1/(1 + e^-x), which lies between 0 and 1. -/
def fixSigm (x : Int) : Int :=
  fixInside (
    if 1000 * fixOne < x then fixOne
    else if x < -1000 * fixOne then 0
    else fixDiv fixOne (fixOne + fixExp (-x)))

/-- tanh x for 0 < x, which lies between 0 and 1. -/
def fixTanh (x : Int) : Int :=
  fixInside (
    if 200 * fixOne < x then fixOne
    else
      let e := fixExp (2 * x)
      fixDiv (e - fixOne) (e + fixOne))

/-- The integer square root, bit by bit from bit `k - 1` down. -/
def isqrtBits (n : Nat) : Nat → Nat → Nat
  | 0, r => r
  | k + 1, r => isqrtBits n k (if (r + 2 ^ k) * (r + 2 ^ k) ≤ n then r + 2 ^ k else r)

/-- The integer square root of a number below 2^1024. -/
def isqrt (n : Nat) : Nat := isqrtBits n 512 0

/-! ## The results that a bound allows (R187) -/

/-- A value `x / 2^320`. -/
def fixVal (x : Int) : FVal := .fin (decide (x < 0)) x.natAbs (2 ^ 320)

/-- F32 patterns in the order of their values, -0 just below +0. -/
def ordOf (x : Nat) : Int := if x < 2 ^ 31 then (x : Int) else -1 - ((x - 2 ^ 31 : Nat) : Int)

/-- The F32 pattern at a place of the order. -/
def ofOrd (o : Int) : Nat := if 0 ≤ o then o.toNat else 2 ^ 31 + (-1 - o).toNat

/-- The F32 patterns within `b` of the value `v`, as places of the order; where there is none, v overflows and rounds alone. -/
def allowed (v b : FVal) : Int × Int :=
  let lo := ordOf (fmtF32.round 2 (FVal.add 0 v b.neg))
  let hi := ordOf (fmtF32.round 3 (FVal.add 0 v b))
  if hi < lo then (ordOf (fmtF32.round 0 v), ordOf (fmtF32.round 0 v)) else (lo, hi)

/-- One unit in the last place of an F32 result with the value `v`. -/
def ulpOf : FVal → FVal
  | .fin _ n d =>
    let q := max (ilog n d) (5001 - fmtF32.bias) - 23
    .fin false (2 ^ q) (2 ^ 5000)
  | x => x

/-- The F32 patterns within `k` ulp of the value. -/
def withinUlps (k : Nat) (v : FVal) : Int × Int := allowed v (FVal.mul (.fin false k 1) (ulpOf v))

/-- The F32 patterns within 2^-k of the value. -/
def withinAbs (k : Nat) (v : FVal) : Int × Int := allowed v (.fin false 1 (2 ^ k))

/-- One result. -/
def exactly (x : Nat) : Int × Int := (ordOf x, ordOf x)

/-- The exact value as the result. -/
def exactVal (v : FVal) : Int × Int := exactly (fmtF32.round 0 v)

/-- A number is a power of two. -/
def isPow2 (n : Nat) : Bool := decide (n = 2 ^ Nat.log2 n)

/-- The fixed-point number nearest below a fraction. -/
def fixOf (neg : Bool) (n d : Nat) : Int := if neg then -((n * 2 ^ 320 / d : Nat) : Int) else ((n * 2 ^ 320 / d : Nat) : Int)

/-- A value with a sign. -/
def signed (neg : Bool) (x : Int) : FVal := fixVal (if neg then -x else x)

/-- log₂ of a positive fraction. -/
def fixLog2 (n d : Nat) : Int :=
  let e := ilog n d
  let m := unscale n d e
  ((e : Int) - 5000) * fixOne + fixDiv (fixLn (m.1 * 2 ^ 320 / m.2 : Nat)) fixLn2

/-- 2^x. -/
def fixExp2 (neg : Bool) (n d : Nat) : FVal :=
  let k : Int := if neg then -(((n + d - 1) / d : Nat) : Int) else ((n / d : Nat) : Int)
  let f := fixOf neg n d - k * fixOne
  (fixVal (fixExp (fixMul f fixLn2))).scale k

/-- The results R187 allows function `f` for a finite input ± n/d, n ≠ 0. -/
def sfnFinite (f : Nat) (neg : Bool) (n d : Nat) : Int × Int :=
  let x := fixOf false n d
  match f with
  | 0 => if isPow2 n && isPow2 d then exactVal (.fin neg d n) else withinUlps 1 (.fin neg d n)
  | 1 =>
    if neg then exactly fmtF32.nanBits
    else
      let r := isqrt (d * 2 ^ 640 / n)
      if isPow2 n && isPow2 d && decide (r * r * n = d * 2 ^ 640) then exactVal (fixVal r) else withinUlps 2 (fixVal r)
  | 2 =>
    if neg then exactly fmtF32.nanBits
    else
      let r := isqrt (n * 2 ^ 640 / d)
      if r * r * d = n * 2 ^ 640 then exactVal (fixVal r) else withinUlps 1 (fixVal r)
  | 3 =>
    if d = 1 && !neg && decide (128 ≤ n) then exactly fmtF32.infBits
    else if neg && decide (400 * d ≤ n) then
      (if n % d = 0 then exactVal (.fin false 1 (2 ^ 400)) else withinUlps 2 (.fin false 1 (2 ^ 400)))
    else if n % d = 0 then exactVal (fixExp2 neg n d)
    else if !neg && decide (128 * d ≤ n) then exactly fmtF32.infBits
    else withinUlps 2 (fixExp2 neg n d)
  | 4 =>
    if neg then exactly fmtF32.nanBits
    else if isPow2 n && isPow2 d then exactVal (.ofInt ((Nat.log2 n : Int) - Nat.log2 d))
    else if d ≤ 2 * n && decide (n ≤ 2 * d) then withinAbs 22 (fixVal (fixLog2 n d))
    else withinUlps 2 (fixVal (fixLog2 n d))
  | 5 => if n ≤ 2 ^ 20 * d then withinAbs 21 (signed neg (fixSin x)) else (ordOf 0xBF800000, ordOf 0x3F800000)
  | 6 => if n ≤ 2 ^ 20 * d then withinAbs 21 (fixVal (fixCos x)) else (ordOf 0xBF800000, ordOf 0x3F800000)
  | 7 => withinUlps 2 (signed neg (fixTanh x))
  | 8 => withinUlps 2 (fixVal (fixSigm (fixOf neg n d)))
  | 9 => withinAbs 22 (signed neg (fixErf x))
  | 10 => withinUlps 3 (signed neg (fixMul x (fixSigm (fixOf neg n d))))
  | _ => withinUlps 2 (signed neg (fixAtan x))

/-- π/2 rounded to F32, with a sign. -/
def halfPi (neg : Bool) : Nat := fmtF32.round 0 (signed neg (fixPi / 2))

/-- One with a sign. -/
def oneBits (neg : Bool) : Nat := fmtF32.round 0 (.fin neg 1 1)

/-- The result of function `f` at an infinity (R187). -/
def sfnInf (f : Nat) (neg : Bool) : Nat :=
  let inf := fun n => fmtF32.round 0 (.inf n)
  match f with
  | 0 => fmtF32.round 0 (.fin neg 0 1)
  | 1 => if neg then fmtF32.nanBits else 0
  | 2 => if neg then fmtF32.nanBits else inf false
  | 3 => if neg then 0 else inf false
  | 4 => if neg then fmtF32.nanBits else inf false
  | 5 => fmtF32.nanBits
  | 6 => fmtF32.nanBits
  | 7 => oneBits neg
  | 8 => if neg then 0 else oneBits false
  | 9 => oneBits neg
  | 10 => if neg then 2 ^ 31 else inf false
  | _ => halfPi neg

/-- The result of function `f` at a zero. R187 lists no zero for EXP2, where it is an exact case, nor for SIGM and SILU, where the
bound applies to the values 1/2 and 0. -/
def sfnZero (f : Nat) (neg : Bool) : Int × Int :=
  let zero := fun n => fmtF32.round 0 (.fin n 0 1)
  match f with
  | 0 => exactly (fmtF32.round 0 (.inf neg))
  | 1 => exactly (fmtF32.round 0 (.inf neg))
  | 2 => exactly (zero neg)
  | 3 => exactly (oneBits false)
  | 4 => exactly (fmtF32.round 0 (.inf true))
  | 6 => exactly (oneBits false)
  | 8 => withinUlps 2 (.fin false 1 2)
  | 10 => withinUlps 3 (.fin neg 0 1)
  | _ => exactly (zero neg)

/-- The F32 results R187 allows function `f` for an F32 pattern, as places of the order. -/
def sfnRange (f x : Nat) : Int × Int :=
  match fmtF32.decode x with
  | .nan _ => exactly fmtF32.nanBits
  | .inf neg => exactly (sfnInf f neg)
  | .fin neg n d => if n = 0 then sfnZero f neg else sfnFinite f neg n d

/-- The F32 result of function `f` (R187): a fixed function of the input, within its bound (log 16). -/
def sfnF32 (f x : Nat) : Nat :=
  let r := sfnRange f x
  ofOrd (r.1 + ((Config.sfnPick f x % ((r.2 - r.1).toNat + 1) : Nat) : Int))

/-- The result under an element type (R187): F16 and BF16 inputs widen exactly to F32, and the F32 result is rounded by RNE. Under FTZ the
F32 result is flushed before it is rounded, and the rounded one again (log 79). -/
def sfnResult (f et : Nat) (ftz : Bool) (x : Nat) : Nat :=
  let m := fmtOf et
  let a := fmtF32.round 0 (m.decode (m.flush ftz x))
  m.flush ftz (m.round 0 (fmtF32.decode (fmtF32.flush ftz (sfnF32 f a))))

/-! ## The queue (R184, R185) -/

/-- Quads of a writeback's lanes. -/
def quadsOf (ls : List Nat) : List Nat := (ls.map (· / 4)).eraseDups

/-- Quad entries of a part in the special-function queue (R184): its inactive quads have entries too. -/
def sfnEntries (p : Part) : Nat := p.pend.foldl (fun n x => n + x.quads.length) 0

/-- Quad entries of a quarter's special-function queue (R184): one per quad whose result is not yet written. -/
def sfnQueued (s : State) (quarter : Nat) : Nat :=
  s.waves.foldl (fun n e => if quarterOf e.1 = quarter then n + (e.2.parts.foldl (fun k p => k + sfnEntries p) 0) else n) 0

/-- A token is pending in some lane of a part, or as a uniform result in its view (R35, R185). -/
def tokenPending (p : Part) (mask : Nat) : Bool :=
  p.pend.any fun x => match x.kind with
    | .sfn t => bitOf mask t && (!x.lanes.isEmpty || !x.uvals.isEmpty)
    | .load => false

/-- The checks of a special-function word (R183). -/
def sfnSig (hi : Bool) (d a : BitVec 7) (t : BitVec 4) (c : Ctx) : Sig :=
  { maj := if hi then 0x0F else 0x0E, badField := decide (13 < t.toNat), opds := [wr d, rd a],
    badMode := !(c.et == 3 || c.et == 7 || c.et == 8) }

/-- The writeback of a special-function word: the results of the active lanes under its token. A w destination takes the value of
the lowest active lane and an indirect code the register it names at issue. -/
def sfnPend (f : Nat) (d a : BitVec 7) (t : BitVec 4) (c : Ctx) (s : State) : Pend :=
  let res := fun l =>
    let m := fmtOf c.et
    [BitVec.ofNat 32 (sfnResult f c.et c.ftz ((c.read a l).toNat % (2 * m.signBit)))]
  { id := s.nextId, kind := .sfn t.toNat, window := 0, vals := pendVals c d res, uvals := pendUvals c d res,
    bq := c.p.q, bn := c.p.n, ulane := c.l0, lanes := c.act, quads := (List.range c.p.n).map (· + c.p.q) }

/-- The effect of a special-function word: an entry for each quad, when the queue has room (R184). -/
def sfnBody (f : Nat) (d a : BitVec 7) (t : BitVec 4) (c : Ctx) (s : State) : Res :=
  if 64 < sfnQueued s (quarterOf c.key) + c.p.n then .brk (.cond (.sfnRoom c.p.n))
  else
    .fall (countEvent (coreOf c.key) 0x0D c.p.n c.w.ctx
      ({ s with nextId := s.nextId + 1 }.modPart c.key c.q fun p => { p with pend := p.pend ++ [sfnPend f d a t c s] })) 1

/-- A special-function word. -/
def execSfn (f : Nat) (z : Bool) (d a : BitVec 7) (t : BitVec 4) (s : State) : Out :=
  issueWord z (sfnSig (decide (8 ≤ f)) d a t) idleWord (sfnBody f d a t) s

/-- RCP (R187): 1/x. -/
def execRcp (z : Bool) (d a : BitVec 7) (k : BitVec 4) (s : State) : Out := execSfn 0 z d a k s

/-- RSQ (R187): 1/√x. -/
def execRsq (z : Bool) (d a : BitVec 7) (k : BitVec 4) (s : State) : Out := execSfn 1 z d a k s

/-- SQRT (R187): √x. -/
def execSqrt (z : Bool) (d a : BitVec 7) (k : BitVec 4) (s : State) : Out := execSfn 2 z d a k s

/-- EXP2 (R187): 2^x. -/
def execExp2 (z : Bool) (d a : BitVec 7) (k : BitVec 4) (s : State) : Out := execSfn 3 z d a k s

/-- LOG2 (R187): log₂ x. -/
def execLog2 (z : Bool) (d a : BitVec 7) (k : BitVec 4) (s : State) : Out := execSfn 4 z d a k s

/-- SIN (R187): sin x, in radians. -/
def execSin (z : Bool) (d a : BitVec 7) (k : BitVec 4) (s : State) : Out := execSfn 5 z d a k s

/-- COS (R187): cos x, in radians. -/
def execCos (z : Bool) (d a : BitVec 7) (k : BitVec 4) (s : State) : Out := execSfn 6 z d a k s

/-- TANH (R187): tanh x. -/
def execTanh (z : Bool) (d a : BitVec 7) (k : BitVec 4) (s : State) : Out := execSfn 7 z d a k s

/-- SIGM (R187): 1/(1 + e^-x). -/
def execSigm (z : Bool) (d a : BitVec 7) (k : BitVec 4) (s : State) : Out := execSfn 8 z d a k s

/-- ERF (R187): erf x. -/
def execErf (z : Bool) (d a : BitVec 7) (k : BitVec 4) (s : State) : Out := execSfn 9 z d a k s

/-- SILU (R187): x · SIGM(x). -/
def execSilu (z : Bool) (d a : BitVec 7) (k : BitVec 4) (s : State) : Out := execSfn 10 z d a k s

/-- ATAN (R187): arctan x. -/
def execAtan (z : Bool) (d a : BitVec 7) (k : BitVec 4) (s : State) : Out := execSfn 11 z d a k s

/-- The special-function writeback with an identity in a part. -/
def sfnOf (p : Part) (id : Nat) : Option Pend := p.pend.find? fun x => x.id = id && !x.isLoad

/-- The results of the lanes that a choice selects are written (R185): they are pending no more; a quad's entry leaves the queue when
nothing of it is left. -/
def landSfnLanes (mine : Nat → Bool) (x : Pend) (w : Wave) (p : Part) : Wave × Part :=
  let lanes := x.lanes.filter fun l => !mine l
  let x' := { x with
    vals := x.vals.filter (fun v => !mine v.1), lanes := lanes, uvals := if mine x.ulane then [] else x.uvals,
    quads := x.quads.filter fun k => lanes.any (fun l => decide (l / 4 = k)) || !mine (4 * k) }
  let pend := (p.pend.map fun y => if y.id = x.id then x' else y).filter fun y => !y.empty
  (landVals w (x.vals.filter fun v => mine v.1 && x.lanes.contains v.1),
   landUvals x.bq x.bn { p with pend := pend } (if mine x.ulane then x.uvals else []))

/-- Results land in every part of the wave that holds the writeback (R185, R186, R35). -/
def landSfnParts (id : Nat) (mine : Nat → Bool) (w : Wave) : List Nat → Wave
  | [] => w
  | q :: qs =>
    match partAt w.parts q with
    | none => landSfnParts id mine w qs
    | some p =>
      match sfnOf p id with
      | none => landSfnParts id mine w qs
      | some x =>
        let r := landSfnLanes mine x w p
        landSfnParts id mine { r.1 with parts := partMod (fun _ => r.2) r.1.parts q } qs

/-- Results of the lanes that a choice selects are written. -/
def sfnLand (wave id : Nat) (mine : Nat → Bool) (s : State) : State :=
  s.modWave wave fun w => landSfnParts id mine w (w.parts.map (·.q))

/-- SFN_RESULT (R185): the results of one quad of a special-function word are written, or those that are left of it. -/
def execSfnResult (wave id quad : Nat) (s : State) : Out := .next (sfnLand wave id (fun l => decide (l / 4 = quad)) s)

end Sys2Proof.Machine
end

