-- ==== Sys2Proof/Machine/Control.lean ====
section
/-! DEFINITION. Constant prefixes (R83, R84, R150), MODE (R151 to R153), the special registers (R98 to R102, R154), the workgroup's
g registers (R112, R155) and the operand-buffer regions (R156). -/

namespace Sys2Proof.Machine

/-! ## Prefixes (R83, R84, R150) -/

/-- A prefix word: `bad` says that a prefix already stands before it where none may; TRAPPC then names this prefix, not the one before it
(R84, log 81). A prefix issues with its word as one unit, which takes the port and counts for both (`endWord`); it is no place for a
back-edge, and no window counts it (R84). -/
def issuePrefix (maj : Nat) (bad : Part → Bool) (f : Part → Part) (s : State) : Out :=
  match issueCtx false s with
  | none => .refused .noIssuingPart
  | some c =>
    if !(guardHits c).isEmpty then finish c s (.brk (.board (guardHits c) (guardLanes c)))
    else if guardPoison c then finish c s (.kill s 0x0104 0x20)
    else if !c.act.isEmpty && bad c.p then finish c s (.trap s { illegal maj 0x05 with bare := true })
    else
      .next (s.modPart c.key c.q fun p =>
        { f p with prefixPc := some (p.prefixPc.getD p.pc), pc := p.pc + 4#32, prefixN := p.prefixN + 1 })

/-- KX (R83): the constant of the word that follows; behind a KXW its low 25 bits. -/
def execKx (k : BitVec 25) (s : State) : Out :=
  issuePrefix 0x3F (fun p => p.prefixK.isSome)
    (fun p => { p with prefixK := some (match p.prefixHi with
      | some h => h ||| k.zeroExtend 32
      | none => k.signExtend 32) }) s

/-- KXW (R83): bits 31 to 25 of the constant of the KX that follows. -/
def execKxw (k : BitVec 7) (s : State) : Out :=
  issuePrefix 0x3E (fun p => p.prefixPc.isSome) (fun p => { p with prefixHi := some (k.zeroExtend 32 <<< 25) }) s

/-! ## MODE (R151 to R153) -/

/-- A field of MODE with another value. -/
def putField (m : Word) (lo n x : Nat) : Word :=
  let mask := BitVec.ofNat 32 ((2 ^ n - 1) * 2 ^ lo)
  (m &&& ~~~mask) ||| (BitVec.ofNat 32 (x * 2 ^ lo) &&& mask)

/-- A code that GREG or FREG accepts: v, w or ZERO (R86). -/
def modeReg (c : BitVec 7) : Bool := decide (c.toNat ≤ 0x78)

/-- A MODE value is accepted (R86). -/
def modeOk (m : Word) : Bool :=
  decide (modeRndOf m < 5) && decide (modeSplOf m < 3) && modeReg (modeGregOf m) && modeReg (modeFregOf m)

/-- The v register that GREG or FREG names lies beyond the declared count (R86); where both do, GREG is reported (log 82). -/
def modeBeyond (w : Wave) (m : Word) : Option Nat :=
  if codeIsV (modeGregOf m) && decide (w.regs ≤ (modeGregOf m).toNat) then some (modeGregOf m).toNat
  else if codeIsV (modeFregOf m) && decide (w.regs ≤ (modeFregOf m).toNat) then some (modeFregOf m).toNat
  else none

/-- Store a MODE word (R152). -/
def putMode (c : Ctx) (m : Word) (s : State) : Res := .fall (s.modPart c.key c.q fun p => { p with mode := m }) 1

/-- With no active lane a MODE word writes its field when the value is accepted, and traps for nothing (R152); a register beyond
the declared count is not stored (log 17). -/
def modeIdle (m : Word) (c : Ctx) (s : State) : Res :=
  if modeOk m && (modeBeyond c.w m).isNone then putMode c m s else .fall s 1

/-- With an active lane: REGBOUND of GREG and FREG, then the write (R86). -/
def modeBody (m : Word) (c : Ctx) (s : State) : Res :=
  match modeBeyond c.w m with
  | some r => .trap s (boundTrap c.l0 r 1 c.w.regs false false)
  | none => putMode c m s

/-- A MODE word of F 0 to 8: `f` is the new MODE. -/
def execModeField (z : Bool) (f : Word → Word) (s : State) : Out :=
  issueWord z (fun c => { maj := 0x2A, badMode := !modeOk (f c.p.mode) }) (fun c => modeIdle (f c.p.mode) c)
    (fun c => modeBody (f c.p.mode) c) s

/-- MODE.ET (R151). -/
def execModeEt (z : Bool) (e : BitVec 4) (s : State) : Out := execModeField z (fun m => putField m 0 4 e.toNat) s

/-- MODE.ET2 (R151). -/
def execModeEt2 (z : Bool) (e : BitVec 4) (s : State) : Out := execModeField z (fun m => putField m 4 4 e.toNat) s

/-- MODE.RND (R151). -/
def execModeRnd (z : Bool) (e : BitVec 3) (s : State) : Out := execModeField z (fun m => putField m 8 3 e.toNat) s

/-- MODE.SAT (R151). -/
def execModeSat (z : Bool) (e : BitVec 1) (s : State) : Out := execModeField z (fun m => putField m 11 1 e.toNat) s

/-- MODE.FTZ (R151). -/
def execModeFtz (z : Bool) (e : BitVec 1) (s : State) : Out := execModeField z (fun m => putField m 12 1 e.toNat) s

/-- MODE.GUARD (R151): GEN, GPOL and GREG at once. -/
def execModeGuard (z : Bool) (g p : BitVec 1) (r : BitVec 7) (s : State) : Out :=
  execModeField z (fun m => putField m 13 9 (g.toNat + 2 * p.toNat + 4 * r.toNat)) s

/-- MODE.FREG (R151). -/
def execModeFreg (z : Bool) (r : BitVec 7) (s : State) : Out := execModeField z (fun m => putField m 22 7 r.toNat) s

/-- MODE.SPL (R151). -/
def execModeSpl (z : Bool) (e : BitVec 2) (s : State) : Out := execModeField z (fun m => putField m 30 2 e.toNat) s

/-- MODE.UTRAP (R151). -/
def execModeUtrap (z : Bool) (e : BitVec 1) (s : State) : Out := execModeField z (fun m => putField m 29 1 e.toNat) s

/-- A word with no active lane that reads uniform registers waits for their writebacks (R61). -/
def idleReads (c : Ctx) (os : List Opd) (r : Res) : Res :=
  let h := (c.p.pend.filter (boardHit c.w [] os)).map (·.id)
  if h.isEmpty then r else .brk (.board h [])

/-- The source of MODE.WORD gives a value with no active lane: a w register, ZERO, or K behind a prefix group (R152). -/
def uniformSource (c : Ctx) (d : BitVec 7) : Bool := codeIsW d || codeIsZero d || (codeIsK d && c.p.prefixK.isSome)

/-- MODE.WORD takes the value of the lowest active lane (R152). -/
def modeWordBody (d : BitVec 7) (c : Ctx) (s : State) : Res :=
  if modeOk (c.read d c.l0) then modeBody (c.read d c.l0) c s else .trap s (illegal 0x2A 0x07)

/-- MODE.WORD (R152): the whole MODE from a register. -/
def execModeWord (z : Bool) (d : BitVec 7) (s : State) : Out :=
  issueWord z (fun _ => { maj := 0x2A, opds := [rd d] })
    (fun c s => if uniformSource c d then idleReads c [rd d] (modeIdle (c.read d 0) c s) else .fall s 1) (modeWordBody d) s

/-! ## Special registers (R100 to R102) -/

/-- A selector reads and writes 64 bits. -/
def selWide (e : Nat) : Bool := e == 0x18 || e == 0x19 || e == 0x1A || e == 0x24

/-- The selectors of R100. -/
def selListed (e : Nat) : Bool :=
  decide (e ≤ 0x1A) || (decide (0x20 ≤ e) && decide (e ≤ 0x26)) || (decide (0x28 ≤ e) && decide (e ≤ 0x2A)) ||
  (decide (0x30 ≤ e) && decide (e ≤ 0x33))

/-- The selectors that SWRITE accepts (R100, R101). -/
def selWritable (e : Nat) : Bool :=
  e == 0x13 || e == 0x16 || (decide (0x20 ≤ e) && decide (e ≤ 0x24)) || (decide (0x30 ≤ e) && decide (e ≤ 0x33))

/-- The partition's record; one that is not defined is as at its definition. -/
def State.partition (s : State) (p : Nat) : Partition := kgetD {} s.partitions p

/-- ARBCFG as software reads it (R60). -/
def arbcfgWord (s : State) (w : Wave) : Nat := w.rto % 2 ^ 14 + 2 ^ 16 * ((s.partition w.partition).agemax % 2 ^ 10)

/-- The value of a selector in a lane (R100). -/
def selRead (s : State) (c : Ctx) (e l : Nat) : Nat :=
  let wg := kgetD { grid := 0, lin := 0, x := 0, y := 0, z := 0, core := 0, waves := [] } s.wgs c.w.wg
  let g := kgetD {} s.grids c.w.grid
  let pt := s.partition c.w.partition
  match e with
  | 0x00 => l
  | 0x01 => l / 4
  | 0x02 => c.w.width
  | 0x03 => c.p.q
  | 0x04 => c.p.n
  | 0x05 => c.w.index
  | 0x06 => g.launch.wgwaves * c.w.width
  | 0x07 => wg.x
  | 0x08 => wg.y
  | 0x09 => wg.z
  | 0x0A => g.launch.gridid
  | 0x0B => g.depth
  | 0x0C => coreOf c.key
  | 0x0D => clusterOf (coreOf c.key)
  | 0x0E => dieOf (coreOf c.key)
  | 0x0F => c.w.partition
  | 0x10 => c.w.vbase
  | 0x11 => c.w.vbound
  | 0x12 => c.w.regs
  | 0x13 => (statusWord c.w c.p).toNat
  | 0x14 => c.p.role
  | 0x15 => wg.stage
  | 0x16 => arbcfgWord s c.w
  | 0x17 => c.p.mode.toNat
  | 0x18 => pt.aplocal
  | 0x19 => pt.apshared
  | 0x1A => pt.apcluster
  | 0x20 => c.p.tvec.val.toNat
  | 0x21 => c.p.trappc.toNat
  | 0x22 => c.p.tcause.toNat
  | 0x23 => c.p.tinfo.toNat
  | 0x24 => c.p.taddr.toNat
  | 0x25 => c.p.tspc.toNat
  | 0x26 => c.p.tpart.toNat
  | 0x28 => ((c.p.loops[0]?).map (·.lc.toNat)).getD 0
  | 0x29 => ((c.p.loops[1]?).map (·.lc.toNat)).getD 0
  | 0x2A => ((c.p.loops[2]?).map (·.lc.toNat)).getD 0
  | 0x30 => (c.w.getX 0 l).toNat
  | 0x31 => (c.w.getX 1 l).toNat
  | 0x32 => (c.w.getX 2 l).toNat
  | 0x33 => (c.w.getX 3 l).toNat
  | _ => 0

/-- Index register `i` takes bits [7:0] of the source in each active lane (R155). -/
def writeX (i : Nat) (f : Nat → Word) (w : Wave) : List Nat → Wave
  | [] => w
  | l :: ls => writeX i f { w with x := cellsPut 0#8 w.x (i * 64 + l) ((f l).setWidth 8) } ls

/-- An SWRITE into a part's own selector: `x` is the value of the lowest active lane (R99, R101, R102, R219). -/
def selPart (e : Nat) (x : DWord) (p : Part) : Part :=
  let v := x.setWidth 32
  match e with
  | 0x13 => { p with ucf := p.ucf && !v.getLsbD 0, poison := p.poison && !v.getLsbD 1, corr := p.corr && !v.getLsbD 2 }
  | 0x20 => { p with tvec := { val := v, bq := p.q, bn := p.n } }
  | 0x21 => { p with trappc := v }
  | 0x22 => { p with tcause := v &&& 0x3FF#32 }
  | 0x23 => { p with tinfo := v }
  | 0x24 => { p with taddr := x }
  | _ => p

/-- The effect of SWRITE (R155). -/
def swriteState (c : Ctx) (e : Nat) (d : BitVec 7) (s : State) : State :=
  if 0x30 ≤ e then s.modWave c.key fun w => writeX (e - 0x30) (c.read d) w c.act
  else if e = 0x16 then s.modWave c.key fun w => { w with rto := (c.read d c.l0).toNat % 2 ^ 14 }
  else
    let x := if selWide e then c.read64 false d c.l0 else (c.read d c.l0).zeroExtend 64
    s.modPart c.key c.q (selPart e x)

/-- SREAD (R155): a special register into D. -/
def execSread (z : Bool) (d : BitVec 7) (e : BitVec 14) (s : State) : Out :=
  issueWord z (fun _ => { maj := 0x2B, badField := !selListed e.toNat, opds := [wrW (selWide e.toNat) d] }) idleWord
    (fun c s => .fall (writeNat c (selWide e.toNat) d (selRead s c e.toNat) s) 1) s

/-- SWRITE (R155): D into a special register. -/
def execSwrite (z : Bool) (d : BitVec 7) (e : BitVec 14) (s : State) : Out :=
  issueWord z (fun _ => { maj := 0x2B, badField := !selWritable e.toNat, opds := [{ rdW (selWide e.toNat) d with lanes := true }] }) idleWord
    (fun c s => .fall (swriteState c e.toNat d s) 1) s

/-! ## g registers (R112, R155) -/

/-- The workgroup of the issuing part. -/
def Ctx.wg (c : Ctx) (s : State) : Wg :=
  kgetD { grid := 0, lin := 0, x := 0, y := 0, z := 0, core := 0, waves := [] } s.wgs c.w.wg

/-- What GREAD in a cycle returns: a write is visible from the third cycle after its own (R112). -/
def greadVal (g : Wg) (cycle k : Nat) : Word :=
  match g.gops.find? (fun o => decide (o.reg = k) && decide (cycle < o.cycle + 3)) with
  | some o => o.old
  | none => cellsGet 0#32 g.g k

/-- Write gk in a cycle and remember the value from before it for the reads of the next two (R112). -/
def gwriteWg (cycle k : Nat) (x : Word) (g : Wg) : Wg :=
  { g with
    g := cellsPut 0#32 g.g k x,
    gops := (g.gops.filter fun o => decide (cycle < o.cycle + 3)) ++ [{ reg := k, cycle := cycle, old := cellsGet 0#32 g.g k }] }

/-- A g operation: the new value from the value of the lowest active lane, and the old value to D when it returns one. -/
def gopBody (ret : Bool) (f : Word → Word → Word) (d : BitVec 7) (k : Nat) (c : Ctx) (s : State) : Res :=
  let old := cellsGet 0#32 (c.wg s).g k
  let s := s.modWg c.w.wg (gwriteWg (cycleOf s (coreOf c.key)) k (f old (c.read d c.l0)))
  .fall (if ret then writeReg c d (fun _ => old) s else s) 1

/-- GREAD (R155): gk into D. -/
def execGread (z : Bool) (d : BitVec 7) (k : BitVec 5) (s : State) : Out :=
  issueWord z (fun _ => { maj := 0x2B, opds := [wr d] }) idleWord
    (fun c s => .fall (writeReg c d (fun _ => greadVal (c.wg s) (cycleOf s (coreOf c.key)) k.toNat) s) 1) s

/-- GWRITE (R155): D into gk. -/
def execGwrite (z : Bool) (d : BitVec 7) (k : BitVec 5) (s : State) : Out :=
  issueWord z (fun _ => { maj := 0x2B, opds := [rd d] }) idleWord (gopBody false (fun _ x => x) d k.toNat) s

/-- GXCHG (R155): D and gk exchange. -/
def execGxchg (z : Bool) (d : BitVec 7) (k : BitVec 5) (s : State) : Out :=
  issueWord z (fun _ => { maj := 0x2B, opds := [rw_ false d] }) idleWord (gopBody true (fun _ x => x) d k.toNat) s

/-- GADD (R155): D is added to gk, and D takes the old value. -/
def execGadd (z : Bool) (d : BitVec 7) (k : BitVec 5) (s : State) : Out :=
  issueWord z (fun _ => { maj := 0x2B, opds := [rw_ false d] }) idleWord (gopBody true (fun old x => old + x) d k.toNat) s

/-! ## Regions (R156) -/

/-- The registers that a mask marks from a first register on. -/
def markedRegs (a : BitVec 7) (i : BitVec 14) : List Nat :=
  (List.range 14).filterMap fun j => if i.getLsbD j then some (a.toNat + j) else none

/-- A register added to a set in rising order. -/
def setIns (r : Nat) : List Nat → List Nat
  | [] => [r]
  | x :: xs => if r < x then r :: x :: xs else if r = x then x :: xs else x :: setIns r xs

/-- RGN and RGNADD: the marked registers as the wave's region set, or added to it. -/
def rgnBody (add : Bool) (a : BitVec 7) (i : BitVec 14) (c : Ctx) (s : State) : Res :=
  match (markedRegs a i).find? (fun r => decide (c.w.regs ≤ r)) with
  | some r => .trap s (boundTrap c.l0 r 1 c.w.regs false false)
  | none =>
    .fall (s.modWave c.key fun w => { w with region := (markedRegs a i).foldl (fun t r => setIns r t) (if add then w.region else []) }) 1

/-- The checks of RGN: A is a direct v code. Its registers are not read. -/
def rgnSig (a : BitVec 7) (_ : Ctx) : Sig := { maj := 0x2C, opds := if codeIsV a then [] else [{ code := a, allow := .vOnly }] }

/-- RGN (R156): the region set becomes the marked registers. -/
def execRgn (z : Bool) (a : BitVec 7) (i : BitVec 14) (s : State) : Out :=
  issueWord z (rgnSig a) idleWord (rgnBody false a i) s

/-- RGNADD (R156): the marked registers join the region set. -/
def execRgnadd (z : Bool) (a : BitVec 7) (i : BitVec 14) (s : State) : Out :=
  issueWord z (rgnSig a) idleWord (rgnBody true a i) s

end Sys2Proof.Machine
end

