-- ==== Sys2Proof/Machine/Spaces.lean ====
section
/-! DEFINITION. Address spaces (R224, R225). -/

namespace Sys2Proof.Machine

/-! ## Address spaces (R225) -/

/-- The space of a generic address, with its offset or its device. -/
inductive Space where
  | global
  | loc (off : Nat)
  | shared (off : Nat)
  | cluster (off : Nat)
  | host
  | peer (dev : Nat)
  | invalid
deriving DecidableEq, Repr

/-- The space of a generic address (R225). -/
def spaceOf (pt : Partition) (g : Nat) : Space :=
  let top := g / 2 ^ 54 % 2 ^ 10
  if top = 1023 then .peer (bitsOf g 53 46)
  else if top ≠ 0 then .invalid
  else if pt.aplocal ≤ g ∧ g < pt.aplocal + 2 ^ 32 then .loc (g - pt.aplocal)
  else if pt.apshared ≤ g ∧ g < pt.apshared + 2 ^ 32 then .shared (g - pt.apshared)
  else if pt.apcluster ≤ g ∧ g < pt.apcluster + 2 ^ 32 then .cluster (g - pt.apcluster)
  else if bitOf g 53 then .host
  else .global

/-- The code of a space (R224). -/
def Space.code : Space → Nat
  | .global => 0
  | .loc _ => 1
  | .shared _ => 2
  | .cluster _ => 3
  | .host => 4
  | .peer _ => 5
  | .invalid => 7

/-- A space whose addresses are translated as they are. -/
def Space.mapped : Space → Bool
  | .global => true
  | .host => true
  | .peer _ => true
  | _ => false

/-- The scope of a space for an engine operation (R260). -/
def Space.scope : Space → Nat
  | .loc _ => 0
  | .shared _ => 1
  | .cluster _ => 2
  | .global => 4
  | _ => 5

end Sys2Proof.Machine
end

