-- ==== Sys2Proof/Machine/Parking.lean ====
section
/-! DEFINITION. A part that yields (R69), and a pre-empted workgroup that gives up its core (R69, R70, R237). -/

namespace Sys2Proof.Machine

/-- Entries of a per-lane array that do not belong to a block of quads. -/
def otherLanes {α : Type} (q n : Nat) (c : Cells α) : Cells α :=
  c.filter fun e => !(decide (q ≤ e.1 % 64 / 4) && decide (e.1 % 64 / 4 < q + n))

/-- A register of a view after its release. -/
def freedReg (p : Part) : UReg := { val := 0, bq := p.q, bn := p.n }

/-- What a part keeps over YIELD (R69): MODE, its loop stack, its reconvergence records, w0 to w7, its role and (q, n), and TVEC
(log 18). -/
def yieldPart (pc : Word) (p : Part) : Part :=
  { q := p.q, n := p.n, pc := pc, mode := p.mode, loops := p.loops, recs := p.recs, role := p.nextRole.getD p.role, tvec := p.tvec,
    w := p.w.take 8 ++ List.replicate 16 (freedReg p), wait := .yielded, tpart := tpartWord p.q p.n,
    engines := p.engines }

/-- Loads in flight land, as held writebacks do (R62), before their registers are released; what sleeps is cancelled (R278, log 83). -/
def landAll (key q : Nat) (s : State) : State :=
  closeWindows key q (s.modPart key q fun p => { p with pend := p.pend.map fun x => { x with window := 1 } })

/-- The part's vector registers and index registers are released, and what it still waits for (R69). -/
def yieldWave (q : Nat) (pc : Word) (w : Wave) : Wave :=
  match partAt w.parts q with
  | none => w
  | some p =>
    { w with
      parts := partMod (yieldPart pc) w.parts q, v := otherLanes p.q p.n w.v, x := otherLanes p.q p.n w.x,
      poison := w.poison.filter fun k => !(decide (p.q ≤ k % 64 / 4) && decide (k % 64 / 4 < p.q + p.n)),
      flaws := w.flaws.filter fun k => !(decide (p.q ≤ k % 64 / 4) && decide (k % 64 / 4 < p.q + p.n)), region := [] }

/-- A part has given up its registers or is saved whole. -/
def partParked (p : Part) : Bool := p.halted || (match p.wait with | .yielded => true | _ => false)

/-- A wave as it waits to be placed again: its loads are performed, and its tiles stay only when the workgroup is saved whole (R69, R70). -/
def parkWave (whole : Bool) (w : Wave) : Wave :=
  { w with tiles := if whole then w.tiles else w.tiles.map fun _ => {}, parts := w.parts.map performReads }

/-- The bytes of a scratchpad allocation, by offset. -/
def allocBytes (m : Memory) (lo n : Nat) : Memory :=
  (m.filter fun c => decide (lo ≤ c.1) && decide (c.1 < lo + n)).map fun c => (c.1 - lo, c.2)

/-- Nothing is in flight that lands in a halted part: special-function results, traversals, values after matrix operations (R70). -/
def partDrained (p : Part) : Bool := !p.halted || p.pend.all fun x => x.isLoad && x.lanes.isEmpty && x.after.isEmpty

/-- The wave can be saved: its parts are drained and no matrix operation of it is pending. -/
def waveDrained (w : Wave) : Bool :=
  w.parts.all partDrained && (!(w.parts.any (·.halted)) || w.tiles.all fun t => t.ops.isEmpty)

/-- A copy request has a shared or cluster destination, or a barrier (R305). -/
def copyShared (s : State) (x : Copy) : Bool :=
  let pt := kgetD {} s.partitions x.owner.partition
  x.gather.isSome || x.ben || (match spaceOf pt x.dst with
    | .shared _ => true
    | .cluster _ => true
    | _ => false)

/-- The copy requests of a workgroup that is saved whole stop at a sector boundary (R305), and its traversals stay in the context (R414). An
access that stalls for fault service is saved as not yet issued (R381). -/
def saveEngines (id : Nat) (s : State) : State :=
  { s with
    copies := kmap (fun _ (x : Copy) => if x.owner.wg = id then { x with saved := true, waits := [], fifo := false } else x) s.copies,
    pairs := kmap (fun _ (x : Xpair) => if x.owner.wg = id ∧ x.yields = false then { x with saved := true, waits := [] } else x) s.pairs }

/-- A pre-empted workgroup gives up its slots, its scratchpad and the L1 locks of its context on its core or fused cluster, and waits to be
placed again (R69, R70, R237, R305). -/
def giveUp (id : Nat) (g : Wg) (ws : List Wave) (s : State) : State :=
  let whole := ws.any fun w => w.parts.any (·.halted)
  let ctx := match ws with
    | w :: _ => ctxKey w.partition w.ctx
    | [] => 0
  let shared := s.fused.contains (clusterOf g.core)
  let locks := s.l1Locks.filter fun k =>
    !(decide (k.ctx = ctx) && (decide (k.place = g.core) || (shared && decide (clusterOf k.place = clusterOf g.core))))
  let pk : Parked := { wg := { g with predl := none },
                       waves := ws.map fun w => freezeWave (cycleOf s g.core) (parkWave whole w),
                       spad := if whole then allocBytes s.spad (g.core * 2 ^ 19 + g.spadBase) g.spadSize else [] }
  let s := if whole then saveEngines id s else cancelCopies id (copyShared s) s
  let s := g.waves.foldl (fun s k => traceEnded k s) s
  let s := if (s.core g.core).records.any fun k => g.waves.contains k then
      s.modCore g.core fun c => { c with records := c.records.filter fun k => !(g.waves.contains k) }
    else s
  unfuse g.core
    { s with waves := g.waves.foldl kdel s.waves, wgs := kdel s.wgs id, parked := kput s.parked id pk, l1Locks := locks }

/-- A workgroup is parked once every part of it has yielded, ended or been halted and drained (R69, R70). -/
def parkWg (id : Nat) (s : State) : State :=
  match kget s.wgs id with
  | none => s
  | some g =>
    let ws := wgWaves s g
    if !ws.isEmpty && ws.all (fun w => w.parts.all partParked && waveDrained w) then giveUp id g ws s else s

end Sys2Proof.Machine
end

