-- ==== Sys2Proof/Machine/Flow.lean ====
section
/-! DEFINITION. Transfers of control (R209, R210), divergent branches and the miss split (R21 to R25), reconvergence (R27 to R32,
R211) and the SYS words (R212 to R223). -/

namespace Sys2Proof.Machine

/-! ## Transfers (R209) -/

/-- The target of an offset in words (R76). -/
def targetOf (c : Ctx) (off : Word) : Word := c.p.pc + 4#32 + off <<< 2

/-- A transfer word folds its outcome into the signature (R454). -/
def foldC (c : Ctx) (taken : Bool) (s : State) : State := foldSig c.key c.p.pc c.q taken s

/-- A taken transfer to a target. -/
def takeTo (c : Ctx) (t : Word) (s : State) : Res := .goto (foldC c true s) t

/-- A transfer that is not taken. -/
def notTaken (c : Ctx) (s : State) : Res := .fall (foldC c false s) 1

/-- A transfer word with no active lane advances the PC and nothing else (R209). -/
def idleTransfer (c : Ctx) (s : State) : Res := notTaken c s

/-- PCALIGN of a target (R209, R222). -/
def pcAlign (t : Word) : Trap := { cause := 0x12, addr := some (t.zeroExtend 64) }

/-- A computed target is aligned. -/
def aligned4 (t : Word) : Bool := decide (t.extractLsb' 0 2 = 0#2)

/-- w23, the link register. -/
def linkReg : BitVec 7 := 0x77#7

/-- Write the link (R209). -/
def link (c : Ctx) (s : State) : State := writeReg c linkReg (fun _ => c.p.pc + 4#32) s

/-- The uniform operand of BRW, BRWZ, JMPI and CALLI. -/
def uniOpd (a : BitVec 7) : Opd := { code := a, allow := .uni }

/-- A jump to a computed target (R209). -/
def jumpTo (c : Ctx) (t : Word) (s s' : State) : Res := if aligned4 t then takeTo c t s' else .trap s (pcAlign t)

/-- BRA (R209). -/
def execBra (z : Bool) (o : BitVec 25) (s : State) : Out :=
  issueWord z (fun _ => { maj := 0x20 }) idleTransfer (fun c s => takeTo c (targetOf c (o.signExtend 32)) s) s

/-- CALL (R209): w23 takes the address of the next word. -/
def execCall (z : Bool) (o : BitVec 25) (s : State) : Out :=
  issueWord z (fun _ => { maj := 0x21, opds := [wr linkReg] }) idleTransfer
    (fun c s => takeTo c (targetOf c (o.signExtend 32)) (link c s)) s

/-- BRW (R209): taken when the uniform value is nonzero. -/
def execBrw (z : Bool) (a : BitVec 7) (o : BitVec 18) (s : State) : Out :=
  issueWord z (fun _ => { maj := 0x22, opds := [uniOpd a] }) idleTransfer
    (fun c s => if c.read a 0 ≠ 0#32 then takeTo c (targetOf c (o.signExtend 32)) s else notTaken c s) s

/-- BRWZ (R209): taken when the uniform value is zero. -/
def execBrwz (z : Bool) (a : BitVec 7) (o : BitVec 18) (s : State) : Out :=
  issueWord z (fun _ => { maj := 0x23, opds := [uniOpd a] }) idleTransfer
    (fun c s => if c.read a 0 = 0#32 then takeTo c (targetOf c (o.signExtend 32)) s else notTaken c s) s

/-- JMPI (R209): to a uniform value. -/
def execJmpi (z : Bool) (a : BitVec 7) (s : State) : Out :=
  issueWord z (fun _ => { maj := 0x25, opds := [uniOpd a] }) idleTransfer (fun c s => jumpTo c (c.read a 0) s s) s

/-- RET (R209): to w23. -/
def execRet (z : Bool) (s : State) : Out :=
  issueWord z (fun _ => { maj := 0x25, opds := [rd linkReg] }) idleTransfer (fun c s => jumpTo c (c.read linkReg 0) s s) s

/-- CALLI (R209): A is read before w23 is written. -/
def execCalli (z : Bool) (a : BitVec 7) (s : State) : Out :=
  issueWord z (fun _ => { maj := 0x25, opds := [uniOpd a, wr linkReg] }) idleTransfer
    (fun c s => jumpTo c (c.read a 0) s (link c s)) s

/-! ## BRD (R23, R210) -/

/-- Active lanes of a quad. -/
def quadActive (c : Ctx) (k : Nat) : List Nat := c.act.filter fun l => l / 4 = k

/-- Quads of a part. -/
def partQuads (p : Part) : List Nat := (List.range p.n).map (· + p.q)

/-- Quads whose active lanes disagree, as a mask (R210). -/
def divMask (c : Ctx) (cond : Nat → Bool) : Nat :=
  laneMask ((partQuads c.p).filter fun k => (quadActive c k).any cond && (quadActive c k).any fun l => !cond l)

/-- The outcome of a quad, an inactive quad's by R22. -/
def quadOut (c : Ctx) (cond : Nat → Bool) (k : Nat) : Bool :=
  (quadActive c (donorQuad (fun k => !(quadActive c k).isEmpty) k 5 1)).any cond

/-- Fold the outcome of each quad into the signature, then that of each child of a split (R454). -/
def foldQuads (c : Ctx) (out : Nat → Bool) (s : State) : State :=
  (partQuads c.p).foldl (fun s k => foldC c (out k) s) s

/-- Fold each child of a split, by increasing first quad (R454). -/
def foldBlocks (c : Ctx) (out : Nat → Bool) (s : State) : State :=
  (buddyBlocks out 5 c.p.q c.p.n).foldl (fun s b => foldSig c.key c.p.pc b.1 (out b.1) s) s

/-- Parts created by a split count as SPLITS (R444). -/
def countSplit (c : Ctx) (out : Nat → Bool) (s : State) : State :=
  countEvent (coreOf c.key) 0x03 (buddyBlocks out 5 c.p.q c.p.n).length c.w.ctx s

/-- BRD: every quad must agree; one outcome moves the part, two split it (R23). -/
def brdBody (a : BitVec 7) (o : BitVec 18) (c : Ctx) (s : State) : Res :=
  let cond := fun l => decide (c.read a l ≠ 0#32)
  let m := divMask c cond
  if m ≠ 0 then .trap s { cause := 0x04, info := BitVec.ofNat 32 m }
  else
    let out := quadOut c cond
    let t := targetOf c (o.signExtend 32)
    let s1 := foldQuads c out s
    if sameOutcome out c.p.q c.p.n then (if out c.p.q then .goto s1 t else .fall s1 1)
    else
      .custom (countEvent (coreOf c.key) 0x06 1 c.w.ctx (countSplit c out (splitPart c.key
        ((partAt ((kgetD c.w s1.waves c.key).parts) c.q).getD c.p) out
        (fun taken p => if taken then { p with pc := t } else fallPart p) (foldBlocks c out s1)))) 3

/-- BRD (R23): a divergent branch. -/
def execBrd (z : Bool) (a : BitVec 7) (o : BitVec 18) (s : State) : Out :=
  issueWord z (fun _ => { maj := 0x24, opds := [rd a] }) idleTransfer (brdBody a o) s

/-! ## The miss split (R25) -/

/-- The part has a register write in flight in some of the lanes waited for of a quad, among the writebacks listed. -/
def quadPending (p : Part) (ids lanes : List Nat) (k : Nat) : Bool :=
  p.pend.any fun x => ids.contains x.id && x.vals.any fun v => v.1 / 4 = k && lanes.contains v.1

/-- A uniform register is among the writebacks listed: the whole part waits (R25). -/
def uniPending (p : Part) (ids : List Nat) : Bool := p.pend.any fun x => ids.contains x.id && !x.uvals.isEmpty

/-- Each quad's outcome, an inactive quad's by R22. -/
def activeOut (w : Wave) (p : Part) (out : Nat → Bool) (k : Nat) : Bool :=
  out (donorQuad (fun k => (activeLanes w p).any fun l => l / 4 = k) k 5 1)

/-- The ready outcome of each quad of a part that waits on the scoreboard (R25). -/
def missOut (w : Wave) (p : Part) (ids lanes : List Nat) (k : Nat) : Bool := activeOut w p (fun k => !quadPending p ids lanes k) k

/-- Fault records that are not answered (R382). -/
def openRecord (s : State) (partition id : Nat) : Bool := (kgetD {} s.faultRings partition).recs.any fun r => decide (r.id = id)

/-- The ready outcome of each quad of a part that stalls for fault records: each record names the quads that it serves (R25, R381). -/
def stallOut (s : State) (w : Wave) (p : Part) (recs : List (Nat × Nat)) (k : Nat) : Bool :=
  activeOut w p (fun k => !(recs.any fun r => decide (r.2 = k) && openRecord s w.partition r.1)) k

/-- A part may be divided by a miss split (R25). -/
def maySplit (w : Wave) (p : Part) : Bool := decide (modeSplOf p.mode = 2) && !p.handler && !w.stopped && !(activeLanes w p).isEmpty

/-- The ready outcome by quad of a part that waits on the scoreboard or stalls for fault records, when a miss split may divide it (R25). -/
def missSplit (s : State) (w : Wave) (p : Part) : Option (Nat → Bool) :=
  match p.wait with
  | .board ids lanes =>
    if maySplit w p && !uniPending p ids && !sameOutcome (missOut w p ids lanes) p.q p.n then some (missOut w p ids lanes) else none
  | .cond (.records recs) =>
    if maySplit w p && !sameOutcome (stallOut s w p recs) p.q p.n then some (stallOut s w p recs) else none
  | _ => none

/-- A child of a miss split: ready, or in its parent's wait for what its own quads wait for (R25). -/
def missChild (wt : Wait) (ready : Bool) (x : Part) : Part :=
  if ready then x
  else { x with wait := match wt with
    | .cond (.records recs) => .cond (.records (recs.filter fun r => decide (x.q ≤ r.2) && decide (r.2 < x.q + x.n)))
    | w => w }

/-- MISS_SPLIT (R25): the ready children go on, the others stay stalled at the same word. A split ends the run (R54). -/
def execMissSplit (wave q : Nat) (s : State) : Out :=
  .next (match kget s.waves wave with
    | none => s
    | some w =>
      match partAt w.parts q with
      | none => s
      | some p =>
        match missSplit s w p with
        | none => s
        | some out =>
          let s := countEvent (coreOf wave) 0x03 (buddyBlocks out 5 p.q p.n).length w.ctx
            (match kget s.runs (quarterOf wave) with
             | some r => if decide (r.wave = wave) && decide (r.q = q) then endRun wave 3 s else s
             | none => s)
          splitPart wave ((s.part wave q).getD p) out (missChild p.wait) s)

/-! ## Reconvergence (R27 to R32, R211) -/

/-- A role set in the run takes effect before the part may fuse (R215). -/
def settleRole (p : Part) : Part := { p with role := p.nextRole.getD p.role, nextRole := none }

/-- The part stands at a fuse point (R27, R28): its windows close, it fuses with a waiting buddy, and goes on when R28 or R29 says
so. A part that need not wait goes on in its run (log 19). -/
def fusePoint (kind : FuseKind) (t : Option Nat) (c : Ctx) (s : State) : Res :=
  if decide (4 * c.p.n = c.w.width) || blockEnded c.w (buddyOf c.p.q c.p.n) c.p.n then
    .fall (match kind with
      | .endif _ => s.modPart c.key c.q fun p => { p with recs := p.recs.drop 1 }
      | _ => s) 1
  else
    let s1 := fuseNow c.key ((closeWindows c.key c.q s).modPart c.key c.q fun p =>
      { keepPrefix c (settleRole p) with
        wait := .fuse kind (t.map fun n => cycleOf s (coreOf c.key) + 16 * n) (cycleOf s (coreOf c.key)),
        readyAt := cycleOf s (coreOf c.key) })
    .custom s1 (if ((kget s1.waves c.key).map (·.parts.length)) = some c.w.parts.length then 2 else 3)

/-- RCV (R28): waits for the buddy, at most 16 t cycles; it acts with no active lane too. -/
def execRcv (z : Bool) (i : BitVec 14) (s : State) : Out :=
  issueWord z (fun _ => { maj := 0x28 }) (fusePoint .rcv (some i.toNat)) (fusePoint .rcv (some i.toNat)) s

/-- RCV.W (R28): waits for the buddy without a deadline. -/
def execRcvW (z : Bool) (s : State) : Out :=
  issueWord z (fun _ => { maj := 0x28 }) (fusePoint .rcvW none) (fusePoint .rcvW none) s

/-- A deadline of a fuse wait has passed, or falls due in this cycle, in which no buddy can arrive any more: the quarter's port is taken, or
no other part of the wave is ready (R28). -/
def deadlineDue (s : State) (w : Wave) (p : Part) : Bool :=
  let now := cycleOf s (coreOf w.key)
  match p.wait with
  | .fuse _ (some d) _ =>
    decide (d < now) || (decide (d = now) &&
      (!portFree s (quarterOf w.key) || !(w.parts.any fun x => decide (x.wait = .ready) && !x.halted)))
  | _ => false

/-- RCV_DEADLINE (R28): the deadline has passed; a buddy that arrives in the cycle in which it falls due still fuses. -/
def execRcvDeadline (wave q : Nat) (s : State) : Out :=
  .next (match kget s.waves wave with
    | none => s
    | some w =>
      match partAt w.parts q with
      | none => s
      | some p => if deadlineDue s w p && !w.stopped then fuseNow wave s else s)

/-- The part is in a fuse wait that counts towards FUSEDEAD (R32). -/
def fuseWaiter (p : Part) : Bool :=
  match p.wait with
  | .fuse .rcvW _ _ => true
  | .fuse (.minWidth _) _ _ => true
  | _ => false

/-- The part waits at a workgroup barrier that waits on a part of its own wave (R32). -/
def barrierSelf (s : State) (w : Wave) (p : Part) : Bool :=
  let g := kgetD { grid := 0, lin := 0, x := 0, y := 0, z := 0, core := 0, waves := [] } s.wgs w.wg
  match p.wait with
  | .barrier b _ _ => !((g.bar b).waves.contains w.key)
  | .barrierNext b _ => !((g.bar b).waves.contains w.key)
  | _ => false

/-- Both conditions of FUSEDEAD hold now (R32, log 73). -/
def deadNow (s : State) (w : Wave) : Bool :=
  !w.parts.isEmpty && w.parts.all (fun p => fuseWaiter p || barrierSelf s w p) && (findFuse w.parts).isNone

/-- The cycle since which both conditions of FUSEDEAD hold is kept in the wave. -/
def watchDead (s : State) (w : Wave) : Wave :=
  if deadNow s w then (if w.deadSince.isSome then w else { w with deadSince := some (cycleOf s (coreOf w.key)) })
  else if w.deadSince.isSome then { w with deadSince := none } else w

/-- FUSEDEAD is due: both its conditions have held for 64 consecutive cycles (R32). -/
def fusedeadDue (s : State) (w : Wave) : Bool :=
  deadNow s w && !w.stopped && (match w.deadSince with
    | some c => decide (c + 64 ≤ cycleOf s (coreOf w.key))
    | none => false)

/-- The part waits for a minimum width that a terminated quad withholds for ever (R31). -/
def widthLost (w : Wave) (p : Part) : Bool :=
  match p.wait with
  | .fuse (.minWidth m) _ _ => decide (p.n < m) && blockEnded w (p.q / m * m) m
  | _ => false

/-- The quads of a wave in fuse waits, as a mask (R222). -/
def fuseMask (w : Wave) : Nat := laneMask ((w.parts.filter inFuse).flatMap partQuads)

/-- A part leaves its wait to take a trap: an arrival it waits with at a barrier is withdrawn (R435). -/
def leaveWait (key q : Nat) (s : State) : State :=
  match s.wave key, s.part key q with
  | some w, some p =>
    match p.wait with
    | .barrier b _ true => withdrawBar w.wg b key p.q p.n s
    | _ => s
  | _, _ => s

/-- FUSEDEAD in a part (R32): precise at the word it waits at. -/
def fusedeadPart (key mask : Nat) (s : State) (p : Part) : State :=
  takeTrap key p.q (p.prefixPc.getD p.pc) { cause := 0x05, info := BitVec.ofNat 32 mask } (leaveWait key p.q s)

/-- FUSEDEAD (R31, R32): at once in a part whose width a terminated quad withholds, and in every waiting part after 64 cycles. -/
def execFusedead (wave : Nat) (s : State) : Out :=
  .next (match kget s.waves wave with
    | none => s
    | some w =>
      if w.parts.any (widthLost w) then (w.parts.filter (widthLost w)).foldl (fusedeadPart wave (fuseMask w)) s
      else if fusedeadDue s w then w.parts.foldl (fusedeadPart wave (fuseMask w)) s
      else s)

/-! ## SYS (R212 to R216, R221, R223) -/

/-- END (R213): every lane of the part terminates. -/
def execEndW (z : Bool) (s : State) : Out :=
  issueWord z (fun _ => { maj := 0x29 }) idleWord (fun c s => .custom (endPart c.key c.q (traceSummary c.key s)) 2) s

/-- TRAP (R218, R222): cause TRAP with a code; TRAPPC names the following word. -/
def execTrap (z : Bool) (i : BitVec 14) (s : State) : Out :=
  issueWord z (fun _ => { maj := 0x29 }) idleWord
    (fun _ s => .trap s { cause := 0x13, info := i.zeroExtend 32, following := true }) s

/-- A debugger is attached to the wave's context (R451). -/
def attached (s : State) (w : Wave) : Bool := s.dev.dbgOpen && (s.ctx w.partition w.ctx).bkpt

/-- BKPT (R223): stops the wave for an attached debugger, or raises BKPT. -/
def execBkpt (z : Bool) (i : BitVec 14) (s : State) : Out :=
  issueWord z (fun _ => { maj := 0x29 }) idleWord
    (fun c s =>
      if attached s c.w then .custom ((fallThrough c s).modWave c.key fun w => { w with stopReq := some 1 }) 2
      else .trap s { cause := 0x14, info := i.zeroExtend 32, following := true }) s

/-- ERET (R221): back to the return PC; it acts with no active lane too, where it traps for nothing (log 20). -/
def execEret (z : Bool) (s : State) : Out :=
  issueWord z (fun _ => { maj := 0x29 })
    (fun c s =>
      if c.p.handler && aligned4 (returnPc c.p) then .stay (s.modPart c.key c.q (leaveHandler (cycleOf s (coreOf c.key)) (returnPc c.p)))
      else .fall s 1)
    (fun c s =>
      if !c.p.handler then .trap s (illegal 0x29 0x02)
      else if aligned4 (returnPc c.p) then .stay (s.modPart c.key c.q (leaveHandler (cycleOf s (coreOf c.key)) (returnPc c.p)))
      else .trap s (pcAlign (returnPc c.p))) s

/-- YIELD is legal: the part is in a handler entered with PREEMPT (R216). -/
def mayYield (c : Ctx) : Bool := c.p.handler && decide (c.p.entry = 0x15)

/-- A ray traversal of the part runs (R417). -/
def raysPending (p : Part) : Bool := p.pend.any fun x => x.isLoad && !x.lanes.isEmpty

/-- The XPAIR traversals of a part that yields stop before their next emission (R414). -/
def yieldTravs (c : Ctx) (s : State) : State :=
  let ids := c.p.pend.filterMap (·.trav)
  { s with pairs := kmap (fun k (x : Xpair) => if ids.contains k then { x with yields := true } else x) s.pairs }

/-- The effect of YIELD (R69): no special-function token may be pending before it (R186). -/
def yieldTo (c : Ctx) (pc : Word) (s : State) : Res :=
  if tokenPending c.p 0x3FFF then .hold s (.cond (.tokens 0x3FFF))
  else if raysPending c.p then .hold s (.cond .rays)
  else .custom (parkWg c.w.wg ((yieldTravs c (landAll c.key c.q s)).modWave c.key (yieldWave c.q pc))) 2

/-- YIELD (R69, R216): the part gives up its registers and waits to be resumed. A D that is no w code is reported before the place (log
84). -/
def execYield (z : Bool) (d : BitVec 7) (s : State) : Out :=
  issueWord z (fun _ => { maj := 0x29, opds := [{ code := d, allow := .wOnly }] })
    (fun c s =>
      if mayYield c && codeIsW d && aligned4 (c.read d 0) then idleReads c [rd d] (yieldTo c (c.read d 0) s) else .fall s 1)
    (fun c s =>
      if !mayYield c then .trap s (illegal 0x29 0x02)
      else if aligned4 (c.read d 0) then yieldTo c (c.read d 0) s
      else .trap s (pcAlign (c.read d 0))) s

/-- ROLE: the role from the end of the run on (R215). -/
def roleBody (r : BitVec 2) (c : Ctx) (s : State) : Res :=
  .fall (s.modPart c.key c.q fun p => { p with nextRole := some r.toNat }) 1

/-- ROLE (R59, R215). -/
def execRole (z : Bool) (r : BitVec 2) (s : State) : Out :=
  issueWord z (fun _ => { maj := 0x29, badField := r = 3#2 }) (if r = 3#2 then idleWord else roleBody r) (roleBody r) s

/-- SLEEP completes at its issue, and the part is not ready for t × 16 cycles. SLEEP 0 gives up the port for one arbitration: the part
competes again from the arbitration after the next on (R214). -/
def sleepBody (i : BitVec 14) (c : Ctx) (s : State) : Res :=
  .rest (fallThrough c s) (.sleep (if i = 0#14 then cycleOf s (coreOf c.key) + passes c.p.n + portIdle c.w s + 1
    else cycleOf s (coreOf c.key) + 16 * i.toNat))

/-- SLEEP (R214). -/
def execSleep (z : Bool) (i : BitVec 14) (s : State) : Out :=
  issueWord z (fun _ => { maj := 0x29 }) (sleepBody i) (sleepBody i) s

/-- A sleep is over. -/
def sleepDue (cycle : Nat) (p : Part) : Bool :=
  match p.wait with
  | .sleep u => decide (u ≤ cycle)
  | _ => false

/-- SLEEP_EXPIRY (R214): the part is ready again. -/
def execSleepExpiry (wave q : Nat) (s : State) : Out :=
  .next (s.modWave wave fun w =>
    { w with
      parts := partMod (fun p =>
        if sleepDue (cycleOf s (coreOf wave)) p && !w.stopped then wakePart (cycleOf s (coreOf wave)) p else p) w.parts q })

end Sys2Proof.Machine
end

