-- ==== Sys2Proof/Machine/Translate.lean ====
section
/-! DEFINITION. Translation (R373 to R380, R383), fault records (R381, R382), and the checks that every
memory word makes before a byte moves (R264). -/

namespace Sys2Proof.Machine

/-! ## The walk (R373 to R376) -/

/-- Where a walk ends. -/
inductive Walk where
  /-- a well-formed valid leaf: entry, its address, level -/
  | leaf (pte addr level : Nat)
  /-- an empty page (R380) -/
  | empty (level : Nat)
  /-- a fault kind (R378) at a level -/
  | bad (kind level : Nat)
  /-- an entry that lies outside HBM -/
  | noMem (addr : Nat)
deriving DecidableEq, Repr

/-- Address bits below a leaf of a level. -/
def leafBits (level : Nat) : Nat := 16 + 13 * (3 - level)

/-- A valid entry is malformed at a level (R376). -/
def malformed (e level : Nat) : Bool :=
  let size := bitsOf e 15 14
  decide (bitsOf e 63 56 ≠ 0) ||
  (if size = 0 then decide (level = 3)
   else decide (size ≠ 4 - level) || decide (bitsOf e 51 16 % 2 ^ (13 * (3 - level)) ≠ 0) ||
     (bitOf e 5 && decide (bitsOf e 11 10 ≠ 0)))

/-- The walk from a table at a level; entries are read at the DEVICE point. -/
def walkFrom (s : State) (va : Nat) : Nat → Nat → Nat → Walk
  | 0, _, level => .bad 3 level
  | fuel + 1, base, level =>
    let a := base + 8 * (va / 2 ^ leafBits level % 2 ^ 13)
    if Config.hbmSize < a + 8 then .noMem a
    else
      let e := physNat s .device .hbm 0 a 8
      if !bitOf e 0 then (if bitOf e 7 then .empty level else .bad 0 level)
      else if malformed e level then .bad 3 level
      else if bitsOf e 15 14 = 0 then walkFrom s va fuel (bitsOf e 51 16 * 2 ^ 16) (level + 1)
      else .leaf e a level

/-- The walk of a context's tables (R373). -/
def walk (s : State) (p ctx va : Nat) : Walk := walkFrom s va 3 (s.ctx p ctx).root 1

/-! ## Checks at the leaf (R378) -/

/-- A party that translates: its die (none for the Ademan complex, which walks afresh), its core (none for a walk of the die alone),
partition, context, and control mode. -/
structure Party where
  die : Option Nat
  core : Option Nat := none
  p : Nat
  ctx : Nat
  ctrl : Bool
deriving DecidableEq, Repr

/-- A kind of access: the code of R379, whether it needs W (R378), whether it sets D (R377), and whether a fault at a peer is kept from
the part (R285). -/
structure Acc where
  code : Nat
  needW : Bool
  dirty : Bool
  posted : Bool := false
deriving DecidableEq, Repr

/-- A read. -/
def accRead : Acc := ⟨0, false, false, false⟩
/-- A write. -/
def accWrite : Acc := ⟨1, true, true, false⟩
/-- A fetch. -/
def accFetch : Acc := ⟨2, false, false, false⟩
/-- An atomic, or a FUT other than FPEEK. -/
def accAtomic : Acc := ⟨3, true, true, false⟩
/-- FPEEK. -/
def accPeek : Acc := ⟨3, false, false, false⟩
/-- ASTP: a fault at the peer is not reported to the part (R285). -/
def accPost : Acc := ⟨1, true, true, true⟩
/-- CINV and CWBINV: they need W and write nothing (R283). -/
def accDrop : Acc := ⟨1, true, false, false⟩

/-- The physical address of a leaf's byte (R374). -/
def leafPa (pte level va : Nat) : Nat := bitsOf pte 51 16 * 2 ^ 16 + va % 2 ^ leafBits level

/-- The memory type suits the virtual address (R225, R378 TYPE). -/
def typeOk (pte va : Nat) : Bool :=
  let mt := bitsOf pte 11 10
  if bitOf va 54 then decide (mt = 3) else if bitOf va 53 then decide (mt = 2) else decide (mt ≤ 1)

/-- A key slot is bound to a partition (R242). -/
def slotBound (s : State) (slot p : Nat) : Bool := decide ((kgetD {} s.keys slot).bound = some p)

/-- The address lies in the HBM range of another configured partition (R378, R469). -/
def foreign (s : State) (p pa : Nat) : Bool :=
  s.partitions.any fun e => decide (e.1 ≠ p) && decide (e.2.hbmBase ≤ pa) && decide (pa < e.2.hbmBase + e.2.hbmSize)

/-- The first failing check at a leaf: PERM, KEY, TYPE (R378). -/
def leafKind (s : State) (y : Party) (a : Acc) (pte level va : Nat) : Option Nat :=
  if (a.needW && !bitOf pte 1) || (decide (a.code = 2) && !bitOf pte 2) || (!y.ctrl && !bitOf pte 3) then some 1
  else if decide (bitsOf pte 11 10 ≤ 1) &&
      (foreign s y.p (leafPa pte level va) || (holdsKey s y.p && !slotBound s (bitsOf pte 55 52) y.p)) then some 2
  else if !typeOk pte va then some 5
  else none

/-- The identity of the key that data of a leaf is encrypted with; 0 for plaintext (R233). KEY is read for MT 0 and 1 only (R375). -/
def keyTag (s : State) (p pte : Nat) : Nat :=
  if decide (bitsOf pte 11 10 ≤ 1) && holdsKey s p then ((kgetD {} s.keys (bitsOf pte 55 52)).key).getD 0 else 0

/-! ## TLBs (R383) -/

/-- The TLBs through which a party translates, the nearest first. -/
def tlbPlaces (y : Party) : List TlbAt :=
  (match y.core with
   | some c => [.core c, .cluster (clusterOf c)]
   | none => []) ++
  (match y.die with
   | some d => [.die d]
   | none => [])

/-- The entries of a TLB. -/
def tlbRoom : TlbAt → Nat
  | .core _ => 512
  | .cluster _ => 4096
  | .die _ => 65536

/-- Keep the first `n` entries of a TLB: the oldest ones are crowded out (log 93). -/
def capTlb (p : TlbAt) : Nat → List TlbEntry → List TlbEntry
  | _, [] => []
  | n, t :: ts =>
    if t.place = p then
      match n with
      | 0 => capTlb p 0 ts
      | n + 1 => t :: capTlb p n ts
    else t :: capTlb p n ts

/-- An entry serves an address of a party. -/
def TlbEntry.serves (t : TlbEntry) (y : Party) (va : Nat) : Bool :=
  decide (t.partition = y.p) && (t.glob || decide (t.ctx = y.ctx)) && decide (t.page = va / 2 ^ leafBits t.level)

/-- The cached translations of a party's address, in its TLBs. -/
def tlbHits (s : State) (y : Party) (va : Nat) : List TlbEntry :=
  s.tlb.filter fun t => (tlbPlaces y).contains t.place && t.serves y va

/-- An entry without A and D. -/
def bareEntry (e : Nat) : Nat := e - bitsOf e 13 12 * 2 ^ 12

/-- The same outcome of a walk, whatever A and D say. -/
def sameWalk : Walk → Walk → Bool
  | .leaf e a l, .leaf e' a' l' => decide (bareEntry e = bareEntry e') && decide (a = a') && decide (l = l')
  | x, y => decide (x = y)

/-- Put an entry into a TLB. One of the same page that a changed table has made stale stays beside it until an invalidation (R385). -/
def putTlb (t : TlbEntry) (ts : List TlbEntry) : List TlbEntry :=
  capTlb t.place (tlbRoom t.place) (t :: ts.filter fun x =>
    !(decide (x.place = t.place) && decide (x.partition = t.partition) && decide (x.ctx = t.ctx) && decide (x.page = t.page) &&
      sameWalk (.leaf x.pte x.pteAddr x.level) (.leaf t.pte t.pteAddr t.level)))

/-- Fill a translation into every TLB of the party: A is set by a compare-and-swap at the DEVICE point (R377). -/
def tlbFill (s : State) (y : Party) (va pte addr level : Nat) : State × Nat :=
  let pte' := if bitOf pte 12 then pte else pte + 2 ^ 12
  let s := if bitOf pte 12 then s else physWrite s .hbm 0 addr (bytesOfNat 8 pte')
  let entry := fun (p : TlbAt) =>
    ({ place := p, partition := y.p, ctx := y.ctx, glob := bitOf pte 4, page := va / 2 ^ leafBits level, level := level, pte := pte',
       pteAddr := addr } : TlbEntry)
  ({ s with tlb := (tlbPlaces y).foldl (fun ts p => putTlb (entry p) ts) s.tlb }, pte')

/-! ### Page-walk caches -/

/-- The cached table pointers that serve an address of a party. -/
def ptrHits (s : State) (y : Party) (va : Nat) : List TablePtr :=
  s.ptrs.filter fun x => decide (y.die = some x.die) && decide (x.partition = y.p) && decide (x.ctx = y.ctx) &&
    decide (x.page = va / 2 ^ leafBits (x.level - 1))

/-- The tables below a table that the walk of an address passes: level and physical address of each. -/
def tablesFrom (s : State) (va : Nat) : Nat → Nat → Nat → List (Nat × Nat)
  | 0, _, _ => []
  | fuel + 1, base, level =>
    let a := base + 8 * (va / 2 ^ leafBits level % 2 ^ 13)
    let e := physNat s .device .hbm 0 a 8
    if decide (a + 8 ≤ Config.hbmSize) && bitOf e 0 && !malformed e level && decide (bitsOf e 15 14 = 0) then
      (level + 1, bitsOf e 51 16 * 2 ^ 16) :: tablesFrom s va fuel (bitsOf e 51 16 * 2 ^ 16) (level + 1)
    else []

/-- The die of a party caches the table pointers of a walk. -/
def notePtrs (s : State) (y : Party) (va : Nat) : State :=
  match y.die with
  | none => s
  | some d =>
    { s with ptrs := (tablesFrom s va 2 (s.ctx y.p y.ctx).root 1).foldl (fun ps x =>
        let p : TablePtr := { die := d, partition := y.p, ctx := y.ctx, level := x.1, page := va / 2 ^ leafBits (x.1 - 1), base := x.2 }
        if ps.contains p then ps else p :: ps) s.ptrs }

/-! ### Which translation an access uses (R383, R385) -/

/-- What an access may find: its cached translations first, then the walk, and the walks from the cached table pointers. -/
def routes (s : State) (y : Party) (va : Nat) : List Walk :=
  ((tlbHits s y va).map fun t => Walk.leaf t.pte t.pteAddr t.level) ++
  walk s y.p y.ctx va :: (ptrHits s y va).map fun x => walkFrom s va (4 - x.level) x.base x.level

/-- All of them agree. -/
def agreed (xs : List Walk) : Bool := xs.all fun x => sameWalk x (xs.headD (.bad 0 0))

/-- The one that an access uses: while they disagree, as after a change of the tables without an invalidation, a free choice for each page
and access (R385, log 93). -/
def chosen (n : Nat) (xs : List Walk) : Nat := if agreed xs then 0 else (Config.freeBits n).toNat % xs.length

/-- What a translation gives. -/
inductive Xl where
  /-- a byte of a memory, with its key tag; `repl` for a replicated page -/
  | byte (m : Mem) (addr tag : Nat) (repl : Bool)
  | empty
  | bad (kind level : Nat)
  | noMem (addr : Nat)
deriving DecidableEq, Repr

/-- The memory and address of a leaf's byte. A peer number equal to the device's own names its own memory (R285). -/
def leafPlace (s : State) (pte level va : Nat) : Mem × Nat :=
  let pa := leafPa pte level va
  match bitsOf pte 11 10 with
  | 2 => (.host, pa)
  | 3 => if bitsOf va 53 46 = s.dev.devnum then (.hbm, pa) else (.peer, bitsOf va 53 46 * 2 ^ 46 + pa)
  | _ => (.hbm, pa)

/-- Where peer memory ends: the place of a posted store that no device of the domain can perform (R285). -/
def noDevice : Nat := 2 ^ 54

/-- The physical address exists (R5, R224). -/
def placeOk (m : Mem) (va pa : Nat) : Bool :=
  match m with
  | .hbm => decide (pa < Config.hbmSize)
  | .peer => decide (pa < (bitsOf va 53 46 + 1) * 2 ^ 46)
  | _ => true

/-! ## Write capture of a MEASURE session (R453) -/

/-- The place of a page's first byte through a context, without checks or updates. -/
def rawPlace (s : State) (p ctx va : Nat) : Option (Mem × Nat × Nat) :=
  match walk s p ctx va with
  | .leaf pte _ level =>
    let pl := leafPlace s pte level va
    if placeOk pl.1 va pl.2 then some (pl.1, pl.2, keyTag s p pte) else none
  | _ => none

/-- Write bytes that lie in one page through a context. -/
def rawWrite (s : State) (p ctx va : Nat) (bs : List Byte) : State :=
  match rawPlace s p ctx (va % 2 ^ 55) with
  | some (m, a, tag) => physWrite s m tag a bs
  | none => s

/-- Read bytes that lie in one page through a context at the DEVICE point. -/
def rawRead (s : State) (p ctx va n : Nat) : List Byte :=
  match rawPlace s p ctx (va % 2 ^ 55) with
  | some (m, a, tag) => physReadN s .device m tag a n
  | none => List.replicate n 0#8

/-- Capture a page for the session of a grid before its first write of pass 1: the page goes to the save area and its address to
the session record; a full save area captures nothing (R453, R455). -/
def capturePage (p ctx gid page : Nat) (x : Session) (s : State) : State :=
  let i := x.pages.length
  if x.pages.contains page || x.full then s
  else if x.savesz < 65536 * (i + 1) then s.modGrid gid fun g => { g with session := some { x with full := true } }
  else
    let s := rawWrite s p ctx (x.savea + 65536 * i) (rawRead s p ctx page 65536)
    let s := rawWrite s p ctx (x.reca + 576 + 8 * i) (bytesOfNat 8 page)
    s.modGrid gid fun g => { g with session := some { x with pages := x.pages ++ [page] } }

/-- A write through a leaf with CAPT, by a context with a session in pass 1. -/
def captureWrite (p ctx va : Nat) (s : State) : State :=
  match s.grids.find? (fun e => decide (e.2.partition = p) && decide (e.2.launch.ctxid = ctx) &&
      (match e.2.session with | some x => decide (x.pass = 1) | none => false)) with
  | some e =>
    match e.2.session with
    | some x => capturePage p ctx e.1 (va / 65536 * 65536) x s
    | none => s
  | none => s

/-- Use a leaf: the checks, then D for a write (R377, R378). -/
def useLeaf (s : State) (y : Party) (a : Acc) (va pte addr level : Nat) : State × Xl :=
  match leafKind s y a pte level va with
  | some k => (s, .bad k level)
  | none =>
    let pl := leafPlace s pte level va
    if !placeOk pl.1 va pl.2 then (s, if a.posted then .byte .peer noDevice 0 false else .noMem pl.2)
    else
      let s := if a.dirty && bitOf pte 6 then captureWrite y.p y.ctx va s else s
      let r : State × Nat :=
        if a.dirty && !bitOf pte 13 then
          let s := physWrite s .hbm 0 addr (bytesOfNat 8 (pte + 2 ^ 13))
          ({ s with tlb := s.tlb.map fun t => if t.pteAddr = addr ∧ t.pte = pte then { t with pte := pte + 2 ^ 13 } else t },
           pte + 2 ^ 13)
        else (s, pte)
      (r.1, .byte pl.1 pl.2 (keyTag s y.p pte) (bitOf pte 5))

/-- Fill from what a walk has found, and use it (R373 to R378). A walk that only probes or fails fills nothing but table pointers. -/
def walkUse (s : State) (y : Party) (a : Acc) (va : Nat) (found : Walk) : State × Xl :=
  let s := notePtrs s y va
  match found with
  | .noMem x => (s, .noMem x)
  | .empty _ => (s, .empty)
  | .bad k l => (s, .bad k l)
  | .leaf pte addr level =>
    match leafKind s y a pte level va with
    | some k => (s, .bad k level)
    | none =>
      let r := tlbFill s y va pte addr level
      useLeaf r.1 y a va r.2 addr level

/-- Use a cached entry. One whose D must be set, but whose entry in memory has changed since, is walked again (R377). -/
def cachedUse (s : State) (y : Party) (a : Acc) (va : Nat) (t : TlbEntry) : State × Xl :=
  if a.dirty && !bitOf t.pte 13 && decide (physNat s .device .hbm 0 t.pteAddr 8 ≠ t.pte) then walkUse s y a va (walk s y.p y.ctx va)
  else useLeaf s y a va t.pte t.pteAddr t.level

/-- Translate one address of a party (R373 to R385). -/
def xlate (s : State) (y : Party) (a : Acc) (va : Nat) : State × Xl :=
  let xs := routes s y va
  let i := chosen s.fresh xs
  let u := if agreed xs then s else { s with fresh := s.fresh + 1 }
  match (tlbHits s y va)[i]? with
  | some t => cachedUse u y a va t
  | none => walkUse u y a va (xs.getD i (.bad 0 1))

/-! ## Pieces of an access -/

/-- Where a piece of an access goes before translation. -/
inductive Target where
  | spad (addr : Nat)
  | va (a : Nat)
deriving DecidableEq, Repr

/-- A piece of an access: its first byte within the access, its length, its target. -/
structure Piece where
  off : Nat
  n : Nat
  dest : Target
deriving DecidableEq, Repr

/-- Cut bytes [off, off + n) of an access at `a` where blocks of `size` end: offset and length of each cut. -/
def cutFrom (size a : Nat) : Nat → Nat → Nat → List (Nat × Nat)
  | 0, _, _ => []
  | fuel + 1, off, n =>
    if (a + off) % size + n ≤ size then [(off, n)]
    else (off, size - (a + off) % size) :: cutFrom size a fuel (off + (size - (a + off) % size)) (n - (size - (a + off) % size))

/-- Cut `n` bytes from `a` where blocks of `size` end. -/
def cutAt (size a n : Nat) : List (Nat × Nat) := cutFrom size a (n / size + 2) 0 n

/-- The 4-byte cells of a local access (R227): offset in the access, length, address. -/
def localCells (base width lane : Nat) : Nat → Nat → Nat → Nat → List Piece
  | 0, _, _, _ => []
  | fuel + 1, off, o, n =>
    if n = 0 then []
    else
      let k := min (4 - o % 4) n
      { off := off, n := k, dest := .va ((base + (o / 4 * width + lane) * 4 + o % 4) % 2 ^ 55) } ::
        localCells base width lane fuel (off + k) (o + k) (n - k)

/-- A byte of a core's scratchpad lies in an allocation of a grid (R228). -/
def spadOwned (s : State) (grid core byte : Nat) : Bool :=
  s.wgs.any fun e => decide (e.2.grid = grid) && decide (e.2.core = core) && decide (e.2.spadBase ≤ byte) &&
    decide (byte < e.2.spadBase + e.2.spadSize)

/-- The pieces of an access of `n` bytes, or none where R225 or R226 is broken (SPACE). -/
def piecesFor (s : State) (o : Owner) (ea n : Nat) : Option (List Piece) :=
  let pt := kgetD {} s.partitions o.partition
  match spaceOf pt ea with
  | .invalid => none
  | .loc x =>
    if x + n ≤ o.localSize then some (localCells o.localBase o.width o.lane (n + 1) 0 x n) else none
  | .shared x =>
    match kget s.wgs o.wg with
    | none => none
    | some g =>
      if x + n ≤ (kgetD {} s.grids o.grid).launch.scratch then
        some [{ off := 0, n := n, dest := .spad (g.core * 2 ^ 19 + g.spadBase + x) }]
      else none
  | .cluster x =>
    let cl := clusterOf o.core * 4
    if decide (x + n ≤ 2 ^ 21) &&
        (List.range n).all fun i => spadOwned s o.grid (cl + (x + i) / 2 ^ 19) ((x + i) % 2 ^ 19) then
      some ((cutAt (2 ^ 19) x n).map fun y => { off := y.1, n := y.2, dest := .spad (cl * 2 ^ 19 + x + y.1) })
    else none
  | sp =>
    if (spaceOf pt ((ea + n - 1) % 2 ^ 64)).code = sp.code then
      some ((cutAt 65536 ea n).map fun x => { off := x.1, n := x.2, dest := .va ((ea + x.1) % 2 ^ 55) })
    else none

/-- A lane of a wave as an owner of accesses. -/
def ownerOf (s : State) (w : Wave) (lane : Nat) : Owner :=
  { partition := w.partition, ctx := w.ctx, ctrl := w.ctrl, grid := w.grid, wg := w.wg, core := coreOf w.key, width := w.width,
    lane := lane, localBase := w.localBase, localSize := (kgetD {} s.grids w.grid).launch.localsz }

/-- The pieces of a lane's access. -/
def piecesOf (s : State) (w : Wave) (lane ea n : Nat) : Option (List Piece) := piecesFor s (ownerOf s w lane) ea n

/-! ## The checks of a memory word (R264) -/

/-- The access a lane makes. -/
structure Req where
  lane : Nat
  ea : Nat
  n : Nat
deriving DecidableEq, Repr

/-- A lane that a replayable fault stalls: lane, address, level. -/
structure Stalled where
  lane : Nat
  va : Nat
  level : Nat
deriving DecidableEq, Repr

/-- What the checks of R264 come to. -/
inductive MemRes where
  | ok (s : State) (ps : List (Nat × Places))
  | trap (t : Trap)
  | stall (ls : List Stalled)
  | fault (f : Fault)

/-- The party of an engine's access for an owner. -/
def Owner.party (o : Owner) : Party := { die := some (dieOf o.core), core := some o.core, p := o.partition, ctx := o.ctx, ctrl := o.ctrl }

/-- The party that a part of a wave is. -/
def partyOf (w : Wave) : Party := { die := some (dieOf (coreOf w.key)), core := some (coreOf w.key), p := w.partition, ctx := w.ctx, ctrl := w.ctrl }

/-- A replayable fault is served, and does not become NOREPLAY: by a fault ring that is enabled and can be written (R381, R501). -/
def replays (s : State) (y : Party) : Bool :=
  let g := kgetD {} s.faultRings y.p
  g.en && hostRingOk s g.base && !y.ctrl

/-- The outcome of one piece. -/
inductive PieceRes where
  | ok (p : Place)
  | bad (kind level : Nat)
  | replay (level : Nat)
  | noMem (f : Fault)
deriving DecidableEq, Repr

/-- Resolve one piece. -/
def resolvePiece (s : State) (y : Party) (a : Acc) (x : Piece) : State × PieceRes :=
  match x.dest with
  | .spad addr => (s, .ok (.byte .spad addr 0 false))
  | .va va =>
    match xlate s y a va with
    | (s, .byte m addr tag repl) => (s, .ok (.byte m addr tag repl))
    | (s, .empty) => (s, .ok .empty)
    | (s, .bad k l) => if k = 0 then (s, if replays s y then .replay l else .bad 4 l) else (s, .bad k l)
    | (s, .noMem addr) => (s, .noMem (if bitOf va 54 then .noPeer addr else .noHbm addr))

/-- What the translation of a lane's pieces has come to. -/
structure LaneAcc where
  places : Places := []
  bad : Option (Nat × Nat × Nat) := none
  stalled : Option Stalled := none
  fault : Option Fault := none

/-- Resolve the pieces of a lane: the first non-replayable failure counts before a replayable one. -/
def resolveLane (y : Party) (a : Acc) (r : Req) : State → LaneAcc → List Piece → State × LaneAcc
  | s, acc, [] => (s, acc)
  | s, acc, x :: xs =>
    match resolvePiece s y a x with
    | (s, .ok p) => resolveLane y a r s { acc with places := acc.places ++ [(x.off, x.n, p)] } xs
    | (s, .bad k l) => resolveLane y a r s { acc with bad := acc.bad.or (some (x.off, k, l)) } xs
    | (s, .replay l) =>
      let va := match x.dest with
        | .va v => v
        | .spad v => v
      resolveLane y a r s { acc with stalled := acc.stalled.or (some { lane := r.lane, va := va, level := l }) } xs
    | (s, .noMem f) => resolveLane y a r s { acc with fault := acc.fault.or (some f) } xs

/-- What the translation of all lanes has come to. -/
structure AllAcc where
  lanes : List (Nat × Places) := []
  trap : Option Trap := none
  stalled : List Stalled := []
  fault : Option Fault := none

/-- Resolve the lanes in increasing order. -/
def resolveAll (y : Party) (a : Acc) : State → AllAcc → List (Req × List Piece) → State × AllAcc
  | s, acc, [] => (s, acc)
  | s, acc, (r, xs) :: rest =>
    match resolveLane y a r s {} xs with
    | (s, la) =>
      let trap := la.bad.map fun b =>
        ({ cause := 0x10, info := BitVec.ofNat 32 (r.lane + 64 * b.2.1 + 512 * a.code + 2048 * b.2.2),
           addr := some (BitVec.ofNat 64 (r.ea + b.1)) } : Trap)
      resolveAll y a s
        { lanes := acc.lanes ++ [(r.lane, la.places)], trap := acc.trap.or trap,
          stalled := acc.stalled ++ la.stalled.toList, fault := acc.fault.or la.fault } rest

/-- SPACE or MISALIGN of a lane (R222). -/
def addrTrap (cause : Nat) (r : Req) : Trap :=
  { cause := cause, info := BitVec.ofNat 32 r.lane, addr := some (BitVec.ofNat 64 r.ea) }

/-- The checks of a memory word in their order (R264); `extra` is a lane's further SPACE condition (R274). -/
def memAccess (w : Wave) (reqs : List Req) (align : Nat) (a : Acc) (extra : Req → Bool) (s : State) : MemRes :=
  let ps := reqs.map fun r => (r, piecesOf s w r.lane r.ea r.n)
  match ps.find? (fun x => x.2.isNone || extra x.1) with
  | some x => .trap (addrTrap 0x0E x.1)
  | none =>
    match reqs.find? (fun r => decide (r.ea % align ≠ 0)) with
    | some r => .trap (addrTrap 0x0F r)
    | none =>
      match resolveAll (partyOf w) a s {} (ps.map fun x => (x.1, x.2.getD [])) with
      | (s, acc) =>
        match acc.trap, acc.fault, acc.stalled with
        | some t, _, _ => .trap t
        | none, some f, _ => .fault f
        | none, none, [] => .ok s acc.lanes
        | none, none, ls => .stall ls

/-! ## Fault records (R381, R382) -/

/-- The fault ring of a partition. -/
def State.fring (s : State) (p : Nat) : FaultRing := kgetD {} s.faultRings p

/-- The 32 bytes of a fault record. -/
def faultBytes (time : Nat) (r : FaultRec) : List Byte :=
  bytesOfNat 8 r.page ++ bytesOfNat 2 r.ctx ++ bytesOfNat 1 r.acc ++ bytesOfNat 1 r.level ++ bytesOfNat 4 r.count ++
  bytesOfNat 8 time ++ bytesOfNat 8 0

/-- Write the oldest waiting record of a ring, if there is room, and post its event (R382). A record that cannot be written is dropped, and
the accesses that it would have served find no replay when they walk again (R501). -/
def writeRecord (p : Nat) (s : State) : State :=
  let g := s.fring p
  match g.recs.find? (fun r => r.num.isNone) with
  | none => s
  | some r =>
    if !hostRingOk s g.base then
      { s with faultRings := kput s.faultRings p { g with recs := g.recs.filter fun x => decide (x.id ≠ r.id) } }
    else if (g.tail + 2 ^ 32 - g.head) % 2 ^ 32 < g.size then
      let place := ringPlace (g.base + 32 * (g.tail % g.size))
      let s := physWrite s place.1 0 place.2 (faultBytes s.time r)
      let s := { s with
        faultRings := kput s.faultRings p
          { g with tail := (g.tail + 1) % 2 ^ 32, recs := g.recs.map fun x => if x.id = r.id then { x with num := some g.tail } else x } }
      postEvent g.evq { status := 0x0110, count := g.tail } s
    else s

/-- Write waiting records while there is room. -/
def writeRecords (p : Nat) : Nat → State → State
  | 0, s => s
  | n + 1, s => writeRecords p n (writeRecord p s)

/-- Record one stalled access: accesses of one context to one page share a record while it is unanswered (R382). The identity of
the record is returned. -/
def addFault (p ctx va acc level : Nat) (s : State) : State × Nat :=
  let page := va / 65536 * 65536
  let g := s.fring p
  match g.recs.find? (fun r => decide (r.ctx = ctx) && decide (r.page = page)) with
  | some r =>
    let recs := g.recs.map fun x => if x.id = r.id ∧ x.num.isNone then { x with count := x.count + 1 } else x
    ({ s with faultRings := kput s.faultRings p { g with recs := recs } }, r.id)
  | none =>
    let r : FaultRec := { id := s.nextId, num := none, page := page, ctx := ctx, acc := acc, level := level, count := 1 }
    ({ s with faultRings := kput s.faultRings p { g with recs := g.recs ++ [r] }, nextId := s.nextId + 1 }, r.id)

/-- Record the stalled accesses of a word and write the records: the identities. -/
def addFaults (p ctx acc : Nat) : List Stalled → State → State × List Nat
  | [], s => (s, [])
  | x :: xs, s =>
    let r := addFault p ctx x.va acc x.level s
    let t := addFaults p ctx acc xs r.1
    (t.1, r.2 :: t.2)

/-- The quad whose outcome a quad of the part takes (R22). -/
def quadDonor (c : Ctx) (k : Nat) : Nat := donorQuad (fun k => !(quadActive c k).isEmpty) k 5 1

/-- Each quad of the part that stalls, with the records of its stalled lanes: an inactive quad has those of the quad whose outcome it takes. -/
def quadRecords (c : Ctx) (ls : List Stalled) (ids : List Nat) : List (Nat × Nat) :=
  ((partQuads c.p).flatMap fun k =>
    ((ids.zip ls).filter fun x => decide (x.2.lane / 4 = quadDonor c k)).map fun x => (x.1, k)).eraseDups

/-- Stalled lanes keep their quads pending (R381): peeled off under MODE.SPL 2 outside a handler (R25), else the part stalls. -/
def stallPart (c : Ctx) (a : Acc) (ls : List Stalled) (s : State) : State :=
  let r := addFaults c.w.partition c.w.ctx a.code ls s
  let s := writeRecords c.w.partition ls.length r.1
  let recs := quadRecords c ls r.2
  let ready := fun k => !(ls.any fun x => decide (x.lane / 4 = quadDonor c k))
  if decide (modeSplOf c.p.mode = 2) && !c.p.handler && !sameOutcome ready c.p.q c.p.n then
    splitPart c.key c.p ready (missChild (.cond (.records recs))) (countSplit c ready s)
  else setWait c.key c.q (.cond (.records recs)) s

/-! ## What waits for a sleeping FTAKE (R251, R257, R278) -/

/-- The futures that lanes of a set sleep on, whose acquire comes before the word. A handler goes on beside lanes that sleep. -/
def takeWaits (c : Ctx) (lanes : List Nat) : List Nat :=
  if c.p.handler then []
  else (c.p.pend.filter fun x => x.sleepers.any fun k => !k.ticket && lanes.contains k.lane).map (·.id)

/-- A word that no lane of a set may perform before its FTAKE has taken: it waits on the scoreboard for the value (log 24). -/
def afterTakes (c : Ctx) (lanes : List Nat) (k : Res) : Res :=
  if (takeWaits c lanes).isEmpty then k else .brk (.board (takeWaits c lanes) lanes)

/-- A release by the issuing part at a scope: its loads are performed, and every write that it can have observed (R251). -/
def partRelease (c : Ctx) (scope : Nat) (s : State) : State := physRelease (s.modPart c.key c.q performReads) (coreOf c.key) scope

/-- A memory word: its checks, then its effect on the resolved accesses. -/
def memWord (c : Ctx) (reqs : List Req) (align : Nat) (a : Acc) (extra : Req → Bool) (k : State → List (Nat × Places) → Res)
    (s : State) : Res :=
  match memAccess c.w reqs align a extra s with
  | .ok s ps => afterTakes c c.act (k s ps)
  | .trap t => .trap s t
  | .stall ls => .stall (stallPart c a ls)
  | .fault f => .fault f

/-- A memory word that is a release by the part: no lane of it may have an FTAKE that still sleeps (R251). -/
def releaseWord (c : Ctx) (reqs : List Req) (align : Nat) (a : Acc) (extra : Req → Bool) (k : State → List (Nat × Places) → Res)
    (s : State) : Res :=
  memWord c reqs align a extra (fun s ps => afterTakes c (blockLanes c.p.q c.p.n) (k s ps)) s

/-! ## Moving bytes -/

/-- The bytes of one piece as a party reads them. -/
def readPiece (s : State) (vw : View) : Nat × Nat × Place → List Byte
  | (_, n, .byte m a tag _) => physReadN s vw m tag a n
  | (_, n, .empty) => List.replicate n 0#8

/-- The bytes of a lane's access. -/
def readPlaces (s : State) (vw : View) (ps : Places) : List Byte := ps.flatMap (readPiece s vw)

/-- The bytes of a piece of a lane's plain load (R250). -/
def loadPiece (s : State) (core : Nat) : Nat × Nat × Place → List Byte
  | (_, n, .byte m a tag repl) => loadBytes s core repl m tag a n
  | (_, n, .empty) => List.replicate n 0#8

/-- The bytes of a lane's plain load. -/
def loadPlaces (s : State) (core : Nat) (ps : Places) : List Byte := ps.flatMap (loadPiece s core)

/-- The bytes of a piece of an invariant load, each sector by itself (R259). -/
def invPiece (s : State) (grid core : Nat) : Nat × Nat × Place → List Byte
  | (_, n, .byte m a tag repl) => (cutAt 32 a n).flatMap fun x => invBytes s grid core repl m tag (a + x.1) x.2
  | (_, n, .empty) => List.replicate n 0#8

/-- The bytes of a lane's invariant load. -/
def invPlaces (s : State) (grid core : Nat) (ps : Places) : List Byte := ps.flatMap (invPiece s grid core)

/-- Some byte of the access lies in a poisoned sector (R240): its first byte in each sector is looked at. -/
def placesPoisoned (s : State) (ps : Places) : Bool :=
  ps.any fun x => match x with
    | (_, n, .byte m a _ _) => (cutAt 32 a n).any fun y => poisoned s m (a + y.1)
    | _ => false

/-- A plain store of a lane to one piece. A write to a replicated page is performed for the device at one instant (R238, R258). -/
def storePiece (core : Nat) (bs : List Byte) (s : State) : Nat × Nat × Place → State
  | (off, n, .byte m a tag repl) =>
    let b := (bs.drop off).take n
    if repl then physWrite s m tag a b else physStore s core m tag a b
  | (_, _, .empty) => s

/-- A plain store of a lane. -/
def storePlaces (core : Nat) (bs : List Byte) (ps : Places) (s : State) : State := ps.foldl (storePiece core bs) s

/-- The own stores of a core to one piece reach a scope's point. -/
def syncPiece (core scope : Nat) (s : State) : Nat × Nat × Place → State
  | (_, n, .byte m a _ _) => physSync s core scope m a n
  | _ => s

/-- Write one piece in one step at a scope's point. -/
def writePieceAt (core scope : Nat) (bs : List Byte) (s : State) : Nat × Nat × Place → State
  | (off, n, .byte m a tag repl) => physWriteAt s core (if repl then max 4 scope else scope) m tag a ((bs.drop off).take n)
  | (_, _, .empty) => s

/-! ## Accesses of the Ademan complex through a context (R379, R392) -/

/-- The Ademan complex as a party of a context. -/
def controlParty (p ctx : Nat) : Party := { die := none, p := p, ctx := ctx, ctrl := true }

/-- Translate the pages of `n` bytes from a generic address for a party; none on any failure. -/
def rangePlaces (y : Party) (a : Acc) : Nat → State → Nat → Nat → Nat → Option (State × Places)
  | 0, s, _, _, _ => some (s, [])
  | fuel + 1, s, off, g, n =>
    if n = 0 then some (s, [])
    else
      let k := min n (65536 - g % 65536)
      match xlate s y a (g % 2 ^ 55) with
      | (s, .byte m addr tag repl) =>
        (rangePlaces y a fuel s (off + k) (g + k) (n - k)).map fun r => (r.1, (off, k, .byte m addr tag repl) :: r.2)
      | (s, .empty) => (rangePlaces y a fuel s (off + k) (g + k) (n - k)).map fun r => (r.1, (off, k, .empty) :: r.2)
      | _ => none

/-- The places of a range of a mapped space. -/
def mappedPlaces (y : Party) (a : Acc) (s : State) (g n : Nat) : Option (State × Places) :=
  if (spaceOf (kgetD {} s.partitions y.p) g).mapped then rangePlaces y a (n / 65536 + 2) s 0 g n else none

/-- Read `n` bytes through a context as a control-mode party at DEVICE scope. -/
def ctlRead (p ctx g n : Nat) (s : State) : Option (State × List Byte) :=
  (mappedPlaces (controlParty p ctx) accRead s g n).map fun r => (r.1, readPlaces r.1 .device r.2)

/-- Write bytes through a context as a control-mode party, performed at once. -/
def ctlWrite (p ctx g : Nat) (bs : List Byte) (s : State) : Option State :=
  (mappedPlaces (controlParty p ctx) accWrite s g bs.length).map fun r => r.2.foldl (writePieceAt 0 5 bs) r.1

end Sys2Proof.Machine
end

