-- ==== Sys2Proof/Machine/Tables.lean ====
section
/-! DEFINITION. AT words (R384), shootdown (R385), page walks (R373, R383) and the answers to fault records (R382). -/

namespace Sys2Proof.Machine

/-! ## Probes (R384) -/

/-- The word that a probe returns: OK, kind, level, and the fields of the leaf if one was reached. -/
def probeWord (ok : Bool) (kind level : Nat) (pte : Option Nat) (empty : Bool) : Nat :=
  b2n ok + 2 * kind + 16 * level +
  (match pte with
   | some e => 64 * bitsOf e 11 10 + 256 * bitsOf e 9 8 + 1024 * b2n (bitOf e 5)
   | none => 0) + 2048 * b2n empty

/-- The result of a leaf: the word and the page's physical address. -/
def probeLeaf (s : State) (y : Party) (a : Acc) (va pte level : Nat) : Nat × Nat :=
  let pa := (leafPlace s pte level va).2 / 65536 * 65536
  match leafKind s y a pte level va with
  | some k => (probeWord false k level (some pte) false, pa)
  | none => (probeWord true 0 level (some pte) false, pa)

/-- Probe a virtual address: the kind is that of R378, since a probe never stalls and R381 does not apply to it (log 21); `n` numbers the
free choice between an old and a new translation (R385). -/
def probeVa (n : Nat) (s : State) (y : Party) (a : Acc) (va : Nat) : Nat × Nat :=
  let xs := routes s y va
  match xs.getD (chosen n xs) (.bad 0 1) with
  | .leaf pte _ level => probeLeaf s y a va pte level
  | .empty level => (probeWord true 0 level none true, 0)
  | .bad k level => (probeWord false k level none false, 0)
  | .noMem _ => (probeWord false 3 0 none false, 0)

/-- Probe a lane's address: an untranslated or non-canonical one gives TYPE at level 0; a local one is that of its cell. -/
def probe (s : State) (w : Wave) (a : Acc) (lane ea : Nat) : Nat × Nat :=
  match spaceOf (kgetD {} s.partitions w.partition) ea with
  | .loc _ =>
    match piecesOf s w lane ea 1 with
    | some ({ off := _, n := _, dest := .va v } :: _) => probeVa (s.fresh + lane) s (partyOf w) a v
    | _ => (probeWord false 5 0 none false, 0)
  | sp => if sp.mapped then probeVa (s.fresh + lane) s (partyOf w) a (ea % 2 ^ 55) else (probeWord false 5 0 none false, 0)

/-- The checks of ATR and ATW. -/
def atSig (d a : BitVec 7) (_ : Ctx) : Sig :=
  { maj := 0x38, opds := [{ wrSpan d 4 with even := true }, rdAddr a] }

/-- The effect of ATR and ATW. -/
def atBody (x : Acc) (d a : BitVec 7) (la : BitVec 4) (c : Ctx) (s : State) : Res :=
  .fall (writeLater c d la.toNat (fun l =>
    let r := probe s c.w x l (c.read64 false a l).toNat
    [BitVec.ofNat 32 r.1, 0#32] ++ words64 (BitVec.ofNat 64 (if c.w.ctrl then r.2 else 0))) { s with fresh := s.fresh + 64 }) 1

/-- ATR (R384): would a load translate? -/
def execAtr (z : Bool) (d a : BitVec 7) (l : BitVec 4) (s : State) : Out :=
  issueWord z (atSig d a) idleWord (atBody accRead d a l) s

/-- ATW (R384): would a store translate? -/
def execAtw (z : Bool) (d a : BitVec 7) (l : BitVec 4) (s : State) : Out :=
  issueWord z (atSig d a) idleWord (atBody accWrite d a l) s

/-! ## Invalidation (R384, R385) -/

/-- A cached translation is among the selection of TLBINV or TLBINVA. -/
def tlbSelected (sel : Nat) (t : TlbEntry) : Bool :=
  decide (t.partition = bitsOf sel 14 12) && (bitOf sel 15 || (!t.glob && decide (t.ctx = bitsOf sel 11 0)))

/-- A cached table pointer is among the selection. -/
def ptrSelected (sel : Nat) (x : TablePtr) : Bool :=
  decide (x.partition = bitsOf sel 14 12) && (bitOf sel 15 || decide (x.ctx = bitsOf sel 11 0))

/-- Identities of peer stores of a partition that no peer has acknowledged. -/
def astpIds (s : State) (p : Nat) : List Nat := (s.astps.filter fun x => x.partition = p).map (·.id)

/-- Drop the chosen translations and table pointers of every TLB and page-walk cache; every access that used one is performed everywhere (R385). The part is not ready
until the peer stores of the partition are acknowledged. -/
def tlbDrop (c : Ctx) (sel : Nat) (hit : TlbEntry → Bool) (hitPtr : TablePtr → Bool) (s : State) : Res :=
  if sel / 2 ^ 16 ≠ 0 then .trap s (illegal 0x38 0x03)
  else
    let s := performStores { s with
      tlb := s.tlb.filter fun t => !(tlbSelected sel t && hit t), ptrs := s.ptrs.filter fun x => !(ptrSelected sel x && hitPtr x) } (fun _ => true) 5
    if (astpIds s (bitsOf sel 14 12)).isEmpty then .fall s 1
    else .rest (fallThrough c s) (.cond (.past (astpIds s (bitsOf sel 14 12))))

/-- TLBINV (R384, R385): drops every translation that covers an address. -/
def execTlbinv (z : Bool) (d a : BitVec 7) (_l : BitVec 4) (s : State) : Out :=
  issueWord z (fun _ => { maj := 0x38, priv := some 8, opds := [rd d, rdAddr a] }) idleWord
    (fun c s =>
      let va := (c.read64 false a c.l0).toNat % 2 ^ 55
      tlbDrop c (c.read d c.l0).toNat (fun t => decide (t.page = va / 2 ^ leafBits t.level))
        (fun x => decide (x.page = va / 2 ^ leafBits (x.level - 1))) s) s

/-- TLBINVA (R384, R385): drops every translation of the selection. -/
def execTlbinva (z : Bool) (d : BitVec 7) (_l : BitVec 4) (s : State) : Out :=
  issueWord z (fun _ => { maj := 0x38, priv := some 9, opds := [rd d] }) idleWord
    (fun c s => tlbDrop c (c.read d c.l0).toNat (fun _ => true) (fun _ => true) s) s

/-! ## Walks and fault records as events -/

/-- The access of a code of R379. -/
def accOf (code : Nat) : Acc := { code := code, needW := code == 1 || code == 3, dirty := code == 1 || code == 3 }

/-- PAGE_WALK (R373, R383): a walk of a die completes; a leaf that passes the checks is cached in the die's TLB, with
the table pointers, and its A set. -/
def execPageWalk (p ctx va die acc : Nat) (s : State) : Out :=
  .next (
    let y : Party := { die := some die, p := p, ctx := ctx, ctrl := false }
    match walk s p ctx (va % 2 ^ 55) with
    | .leaf pte addr level =>
      if (leafKind s y (accOf acc) pte level (va % 2 ^ 55)).isNone then (tlbFill (notePtrs s y (va % 2 ^ 55)) y (va % 2 ^ 55) pte addr level).1 else s
    | _ => s)

/-- FRACK (R382): every access stalled on record n walks again; a number that names no unanswered record has no effect. -/
def execFrackWrite (p n : Nat) (s : State) : Out :=
  .next (let g := s.fring p
    { s with faultRings := kput s.faultRings p { g with recs := g.recs.filter fun r => decide (r.num ≠ some n) } })

/-- FRHEAD (R382): records are consumed, and waiting ones are written. -/
def execFrheadWrite (p v : Nat) (s : State) : Out :=
  .next (let g := s.fring p
    let v := v % 2 ^ 32
    if g.size < (g.tail + 2 ^ 32 - v) % 2 ^ 32 then s
    else writeRecords p g.recs.length { s with faultRings := kput s.faultRings p { g with head := v } })

end Sys2Proof.Machine
end

