-- ==== Sys2Proof/Machine/Structured.lean ====
section
/-! DEFINITION. Fetching words (R239, R379, R381), the loop buffers (R63, R64), and structured control: the nesting counters (R423 to R427) and counted loops
(R428 to R430). -/

namespace Sys2Proof.Machine

/-! ## Fetch -/

/-- What a fetch gives. -/
inductive Fetch where
  | word (s : State) (w : Nat)
  | bad (kind level va : Nat)
  | replay (level va : Nat)
  | fault (f : Fault)

/-- The code block that a core holds for a context. -/
def findBlock (s : State) (core ctx va : Nat) : Option IBlock :=
  s.icache.find? fun b => decide (b.core = core) && decide (b.ctx = ctx) && decide (b.va = va)

/-- The virtual address of an offset of a context's code window (R386). -/
def codeVa (s : State) (p ctx : Nat) (pc : Word) : Nat := ((s.ctx p ctx).codewin + pc.toNat) % 2 ^ 55

/-- The word of spliced code at an offset of a context's code window (R349). -/
def splicedWord (cs : List SpliceCode) (pc : Nat) : Option Word :=
  (cs.find? fun (c : SpliceCode) => decide (c.start ≤ pc) && decide (pc < c.start + 4 * c.words.length)).bind
    fun c => c.words[(pc - c.start) / 4]?

/-- The first `n` blocks of a core in a list, the newest first, with the blocks of all other cores: the instruction cache holds 128 KiB (R4,
R239). -/
def capBlocks (core : Nat) : Nat → List IBlock → List IBlock
  | _, [] => []
  | 0, b :: bs => if b.core = core then capBlocks core 0 bs else b :: capBlocks core 0 bs
  | n + 1, b :: bs => if b.core = core then b :: capBlocks core n bs else b :: capBlocks core (n + 1) bs

/-- The 64 bytes of a block of code as a fetch reads them: with every store that has been issued, so that no block mixes the words of stores
that are performed with those of stores that are not (R239, log 9). -/
def blockBytes (s : State) (m : Mem) (tag a : Nat) : List Byte :=
  physReadN { s with stores := s.stores.map fun x => { x with scope := 5 } } .device m tag a 64

/-- Fetch the word at an offset for a wave. A 64-byte block is read whole and then held until ISYNC, a new load of the range, or its
replacement (R4, R239, log 9). A word of an empty page is 0 (log 86). -/
def fetchMapped (s : State) (w : Wave) (pc : Word) : Fetch :=
  let core := coreOf w.key
  let cx := ctxKey w.partition w.ctx
  let va := codeVa s w.partition w.ctx pc
  let blk := va / 64 * 64
  match findBlock s core cx blk with
  | some b => .word s (natOfBytes ((b.bytes.drop (va % 64)).take 4))
  | none =>
    match xlate s (partyOf w) accFetch blk with
    | (s, .byte m a tag _) =>
      let bs := blockBytes s m tag a
      .word { s with icache := capBlocks core 2048 ({ core := core, ctx := cx, va := blk, mem := m, addr := a, bytes := bs } :: s.icache) }
        (natOfBytes ((bs.drop (va % 64)).take 4))
    | (s, .empty) => .word s 0
    | (_, .bad k l) => if k = 0 && replays s (partyOf w) then .replay l va else .bad (if k = 0 then 4 else k) l va
    | (_, .noMem a) => .fault (if bitOf va 54 then .noPeer a else .noHbm a)

/-- Fetch the word at an offset for a wave: spliced code first, which no page table maps (R349). -/
def fetchWord (s : State) (w : Wave) (pc : Word) : Fetch :=
  match splicedWord (s.ctx w.partition w.ctx).spliced pc.toNat with
  | some x => .word s x.toNat
  | none => fetchMapped s w pc

/-! ## Loop buffers (R63) -/

/-- Words of a loop body. -/
def LoopLevel.size (l : LoopLevel) : Nat := (l.stop - l.start).toNat / 4 + 1

/-- The place of a word in the body of a loop level, if it lies in it. -/
def LoopLevel.place (l : LoopLevel) (pc : Word) : Option Nat :=
  let i := (pc - l.start).toNat / 4
  if l.buf && decide (i < l.size) then some i else none

/-- A buffered body is that of a loop level of a wave: the same context and start address. -/
def isBody (w : Wave) (start : Word) (b : LoopBody) : Bool :=
  decide (b.ctx = ctxKey w.partition w.ctx) && decide (b.start = start.toNat)

/-- The word that the quarter's loop buffer holds for a part at a PC: in the body of its innermost level that runs from the buffer. -/
def bufferedWord (s : State) (w : Wave) (p : Part) (pc : Word) : Option Nat :=
  p.loops.reverse.findSome? fun l =>
    match l.place pc, (kgetD [] s.loopBufs (quarterOf w.key)).find? (isBody w l.start) with
    | some i, some b => if cellsGet 0 b.words i = 0 then none else some (cellsGet 0 b.words i - 1)
    | _, _ => none

/-- A fetched word goes into each buffered body of the part that it belongs to (R63: the core loads a body as it first runs, log 87). -/
def fillBodies (w : Wave) (p : Part) (pc : Word) (x : Nat) (s : State) : State :=
  let levels := p.loops.filter fun l => (l.place pc).isSome
  if levels.isEmpty then s
  else
    { s with
      loopBufs := kput s.loopBufs (quarterOf w.key) ((kgetD [] s.loopBufs (quarterOf w.key)).map fun b =>
        match levels.find? fun l => isBody w l.start b with
        | some l => { b with words := cellsPut 0 b.words ((l.place pc).getD 0) (x + 1) }
        | none => b) }

/-- Bodies of a list, the one used last first, that fit into `n` words. -/
def fitBodies : Nat → List LoopBody → List LoopBody
  | _, [] => []
  | n, b :: bs => if b.len ≤ n then b :: fitBodies (n - b.len) bs else []

/-- LOOP opens a body of `n` words, at most 256: the buffer holds it, or begins to load it in place of those used longest ago (R63). -/
def openBody (w : Wave) (start : Word) (n : Nat) (s : State) : State :=
  let bs := kgetD [] s.loopBufs (quarterOf w.key)
  let b : LoopBody := (bs.find? fun b => isBody w start b && decide (b.len = n)).getD
    { ctx := ctxKey w.partition w.ctx, start := start.toNat, len := n }
  { s with loopBufs := kput s.loopBufs (quarterOf w.key) (fitBodies 256 (b :: bs.filter fun x => !isBody w start x)) }

/-- The chosen bodies are gone from the loop buffers: `sel` takes the quarter and the body. -/
def dropBodies (sel : Nat → LoopBody → Bool) (s : State) : State :=
  { s with loopBufs := (kmap (fun q bs => bs.filter fun b => !(sel q b)) s.loopBufs).filter fun e => !e.2.isEmpty }

/-- Fetch the word at a PC for a part: from its loop buffer, or as any word, which its loop bodies then hold (R63). -/
def fetchPart (s : State) (w : Wave) (p : Part) (pc : Word) : Fetch :=
  match bufferedWord s w p pc with
  | some x => .word s x
  | none =>
    match fetchWord s w pc with
    | .word s x => .word (fillBodies w p pc x s) x
    | r => r

/-- Drop the code that cores hold of a context for a range of virtual addresses: the front end invalidates it (R239, R392). -/
def dropBlocks (cx lo hi : Nat) (s : State) : State :=
  { s with icache := s.icache.filter fun b => !(decide (b.ctx = cx) && decide (lo < b.va + 64) && decide (b.va < hi)) }

/-- The same for `n` bytes from an offset of a context's code window, with the loop bodies that overlap them. -/
def dropWindow (p ctx off n : Nat) (s : State) : State :=
  let lo := ((s.ctx p ctx).codewin + off) % 2 ^ 55
  dropBodies (fun _ b => decide (b.ctx = ctxKey p ctx) && decide (b.start < off + n) && decide (off < b.start + 4 * b.len))
    (dropBlocks (ctxKey p ctx) lo (lo + n) s)

/-- The ENDIF that the word at an offset leads to, when that word is an ELSE: the offset its IMM14 names; else the offset itself
(R424). -/
def endifOf (s : State) (c : Ctx) (pc : Word) : Word :=
  match fetchPart s c.w c.p pc with
  | .word _ x =>
    if x / 2 ^ 25 % 64 = 0x26 ∧ x % 16 = 2 then pc + BitVec.ofNat 32 (4 * (x / 16 % 2 ^ 14)) else pc
  | _ => pc

/-! ## Nesting counters (R424, R425, R427) -/

/-- The word that IMM14 names (R423). -/
def matchPc (c : Ctx) (i : BitVec 14) : Word := c.p.pc + (i.zeroExtend 32 <<< 2)

/-- Change NEST in each unterminated lane of the part. -/
def nestMap (c : Ctx) (f : Nat → Nat → Nat) (w : Wave) : Wave :=
  (liveLanes c.w c.p).foldl (fun w l => { w with nest := cellsPut 0 w.nest l (f l (w.nestOf l)) }) w

/-- The nesting counters of the part's lanes change. -/
def nestState (c : Ctx) (f : Nat → Nat → Nat) (s : State) : State := s.modWave c.key (nestMap c f)

/-- No lane of the part is active now. -/
def noneActive (c : Ctx) (s : State) : Bool :=
  match s.wave c.key with
  | none => true
  | some w =>
    match partAt w.parts c.q with
    | none => true
    | some p => (activeLanes w p).isEmpty

/-- Go to a word of the structure: a change of the PC that ends the run (R424). -/
def jumpWord (c : Ctx) (t : Word) (s : State) : Res := .goto (foldC c true s) t

/-- Fall through a STRUCT word. -/
def nextWord (c : Ctx) (s : State) : Res := .fall (foldC c false s) 1

/-- The lowest lane whose NEST would overflow (R425, R427). -/
def nestOver (c : Ctx) (limit : Nat) : Option Nat := (liveLanes c.w c.p).find? fun l => decide (limit ≤ c.w.nestOf l)

/-- The condition of a lane is true (R423). -/
def laneCond (c : Ctx) (a : BitVec 7) (l : Nat) : Bool := decide (c.read a l ≠ 0#32)

/-- NESTOVF (R425). -/
def nestTrap (l : Nat) : Trap := { cause := 0x07, info := BitVec.ofNat 32 l }

/-- IF (R425). -/
def ifBody (a : BitVec 7) (i : BitVec 14) (c : Ctx) (s : State) : Res :=
  match nestOver c 63 with
  | some l => .trap s (nestTrap l)
  | none =>
    let s := nestState c (fun l n => if 0 < n then n + 1 else if c.act.contains l && !laneCond c a l then 1 else n) s
    if noneActive c s then jumpWord c (matchPc c i) s else nextWord c s

/-- IF or IF.S with no active lane goes to the word after the matching ENDIF (R424). -/
def ifIdle (i : BitVec 14) (c : Ctx) (s : State) : Res := jumpWord c (endifOf s c (matchPc c i) + 4#32) s

/-- The checks of a STRUCT word with a condition. -/
def structSig (a : BitVec 7) (i : BitVec 14) (_ : Ctx) : Sig := { maj := 0x26, badField := i = 0#14, opds := [rd a] }

/-- IF (R425): opens a masked conditional. -/
def execIfW (z : Bool) (a : BitVec 7) (i : BitVec 14) (s : State) : Out :=
  issueWord z (structSig a i) (ifIdle i) (ifBody a i) s

/-- IF.S may split the part (R24): the mode allows it, there are two halves, every quad agrees, each half has one outcome, and a
record is free (R426). -/
def ifsSplits (a : BitVec 7) (c : Ctx) : Bool :=
  let spl := modeSplOf c.p.mode
  let out := quadOut c (laneCond c a)
  let h := c.p.n / 2
  (spl == 1 || spl == 2) && decide (1 < c.p.n) && decide (divMask c (laneCond c a) = 0) && sameOutcome out c.p.q h &&
  sameOutcome out (c.p.q + h) h && (out c.p.q != out (c.p.q + h)) && decide (c.p.recs.length < 8)

/-- IF.S (R24, R426): the halves go on unmasked, each with a reconvergence record; otherwise it is IF. -/
def ifsBody (a : BitVec 7) (i : BitVec 14) (c : Ctx) (s : State) : Res :=
  if ifsSplits a c then
    let out := quadOut c (laneCond c a)
    let e := endifOf s c (matchPc c i)
    let p := ((s.part c.key c.q).getD c.p)
    .custom (countSplit c out (splitPart c.key p out (fun t p =>
      let p := { p with recs := { addr := e, side := t } :: p.recs }
      if t then fallPart p else { p with pc := matchPc c i }) (foldBlocks c out s))) 3
  else ifBody a i c s

/-- IF.S (R24): splits the part in halves when it may. -/
def execIfS (z : Bool) (a : BitVec 7) (i : BitVec 14) (s : State) : Out :=
  issueWord z (structSig a i) (ifIdle i) (ifsBody a i) s

/-- The top record names an address (R426). -/
def topRecord (c : Ctx) (pc : Word) : Option RecRecord := (c.p.recs.head?).filter fun r => r.addr = pc

/-- ELSE (R425, R426). -/
def elseBody (i : BitVec 14) (c : Ctx) (s : State) : Res :=
  match topRecord c (matchPc c i) with
  | some r => if r.side then jumpWord c (matchPc c i) s else nextWord c s
  | none =>
    let s := nestState c (fun l n => if n = 1 then 0 else if n = 0 && c.act.contains l then 1 else n) s
    if noneActive c s then jumpWord c (matchPc c i) s else nextWord c s

/-- ELSE (R425, R426). -/
def execElseW (z : Bool) (i : BitVec 14) (s : State) : Out :=
  issueWord z (fun _ => { maj := 0x26, badField := i = 0#14 }) (elseBody i) (elseBody i) s

/-- ENDIF (R425, R426): a reconvergence point at a recorded address, acting as RCV with ARBCFG.RTO (R30). -/
def endifBody (c : Ctx) (s : State) : Res :=
  match topRecord c c.p.pc with
  | some _ => fusePoint (.endif false) (some c.w.rto) c s
  | none => .fall (nestState c (fun _ n => n - 1) s) 1

/-- ENDIF (R425, R426). -/
def execEndif (z : Bool) (s : State) : Out := issueWord z (fun _ => { maj := 0x26 }) endifBody endifBody s

/-- LOOPS (R427). -/
def loopsBody (c : Ctx) (s : State) : Res :=
  match nestOver c 62 with
  | some l => .trap s (nestTrap l)
  | none => nextWord c (nestState c (fun _ n => if 0 < n then n + 2 else n) s)

/-- LOOPS (R427); with no active lane the part goes to the word after the ENDLS (R424). -/
def execLoops (z : Bool) (i : BitVec 14) (s : State) : Out :=
  issueWord z (fun _ => { maj := 0x26, badField := i = 0#14 }) (fun c s => jumpWord c (matchPc c i + 4#32) s) loopsBody s

/-- BRK and CONT (R427): active lanes with a true condition take a NEST of 2 or 1. -/
def leaveBody (mark : Nat) (a : BitVec 7) (i : BitVec 14) (c : Ctx) (s : State) : Res :=
  let s := nestState c (fun l n => if c.act.contains l && laneCond c a l then mark else n) s
  if noneActive c s then jumpWord c (matchPc c i) s else nextWord c s

/-- BRK (R427): lanes leave the loop. -/
def execBrk (z : Bool) (a : BitVec 7) (i : BitVec 14) (s : State) : Out :=
  issueWord z (structSig a i) (leaveBody 2 a i) (leaveBody 2 a i) s

/-- CONT (R427): lanes finish the pass. -/
def execCont (z : Bool) (a : BitVec 7) (i : BitVec 14) (s : State) : Out :=
  issueWord z (structSig a i) (leaveBody 1 a i) (leaveBody 1 a i) s

/-- ENDLS (R427): the next pass while a lane is active, else the end of the loop. -/
def endlsBody (i : BitVec 14) (c : Ctx) (s : State) : Res :=
  let s := nestState c (fun _ n => if n = 1 then 0 else n) s
  if noneActive c s then nextWord c (nestState c (fun _ n => if n = 2 then 0 else if 3 ≤ n then n - 2 else n) s)
  else jumpWord c (c.p.pc - (i.zeroExtend 32 <<< 2) + 4#32) s

/-- ENDLS (R427). -/
def execEndls (z : Bool) (i : BitVec 14) (s : State) : Out :=
  issueWord z (fun _ => { maj := 0x26, badField := i = 0#14 }) (endlsBody i) (endlsBody i) s

/-! ## Counted loops (R428 to R430) -/

/-- LOOPDEPTH (R429). -/
def depthTrap (x : Nat) : Trap := { cause := 0x08, info := BitVec.ofNat 32 x }

/-- The part goes on at a PC; the run goes on. -/
def stayAt (c : Ctx) (pc : Word) (f : Part → Part) (taken : Bool) (s : State) : Res :=
  .stay ((foldC c taken s).modPart c.key c.q fun p => { f p with pc := pc })

/-- LOOP with a count: a new level, or the body is skipped (R429). -/
def loopBody (x : Word) (i : BitVec 14) (c : Ctx) (s : State) : Res :=
  let stop := matchPc c i
  let start := c.p.pc + 4#32
  let fits := decide (i.toNat ≤ 256)
  if x = 0#32 then stayAt c (stop + 4#32) id true s
  else
    stayAt c start (fun p => { p with loops := p.loops ++ [{ lc := x, start := start, stop := stop, buf := fits }] }) false
      (if fits then openBody c.w start i.toNat s else s)

/-- The checks of LOOP and LEXIT. -/
def loopSig (bad : Bool) (a : BitVec 7) (_ : Ctx) : Sig := { maj := 0x27, badField := bad, opds := [uniOpd a] }

/-- LOOP (R429, R430); with no active lane, one that would trap skips its body. -/
def execLoop (z : Bool) (a : BitVec 7) (i : BitVec 14) (s : State) : Out :=
  issueWord z (loopSig (i = 0#14) a)
    (fun c s =>
      if uniformSource c a && decide (c.p.loops.length < 3) then idleReads c [rd a] (loopBody (c.read a 0) i c s)
      else loopBody 0#32 i c s)
    (fun c s => if c.p.loops.length < 3 then loopBody (c.read a 0) i c s else .trap s (depthTrap 0)) s

/-- LEXIT at a depth above 0 (R429). -/
def lexitBody (a : BitVec 7) (c : Ctx) (s : State) : Res :=
  match c.p.loops.getLast? with
  | none => .fall s 1
  | some l =>
    if c.read a 0 ≠ 0#32 then stayAt c (l.stop + 4#32) (fun p => { p with loops := p.loops.dropLast }) true s
    else .fall (foldC c false s) 1

/-- LEXIT (R429, R430): leaves the innermost counted loop. -/
def execLexit (z : Bool) (a : BitVec 7) (s : State) : Out :=
  issueWord z (loopSig false a)
    (fun c s => if uniformSource c a then idleReads c [rd a] (lexitBody a c s) else .fall s 1)
    (fun c s => if c.p.loops.isEmpty then .trap s (depthTrap 1) else lexitBody a c s) s

end Sys2Proof.Machine
end

