-- ==== Sys2Proof/Machine/Counters.lean ====
section
/-! DEFINITION. Waits (R431, R432), workgroup barriers and the stage counter (R433 to R437, R42, R43), delivery barriers (R438 to
R440), and reading counters (R441, R442). -/

namespace Sys2Proof.Machine

/-! ## Waits (R431, R432) -/

/-- A wait word: `done` says that it ends now; else the part waits and the word issues again. -/
def waitRes (done : Bool) (k : Cond) (s : State) : Res := if done then .fall s 1 else .hold s (.cond k)

/-- The 64-bit operand of a wait: from L0; with no active lane a v code reads as 0 (R431). -/
def waitVal (c : Ctx) (a : BitVec 7) : Nat :=
  if c.act.isEmpty && (codeIsVec a || !uniformSource c a) then 0 else (c.read64 false a c.l0).toNat

/-- A wait word with a 64-bit operand, which acts whether or not a lane is active (R432). -/
def waitIdle (a : BitVec 7) (f : Ctx → State → Res) (c : Ctx) (s : State) : Res :=
  if codeIsW a then idleReads c [rdW true a] (f c s) else f c s

/-- WAITT (R431). -/
def waittBody (i : BitVec 14) (c : Ctx) (s : State) : Res := waitRes (!tokenPending c.p i.toNat) (.tokens i.toNat) s

/-- WAITT (R431): until no token of the mask is pending. -/
def execWaitt (z : Bool) (i : BitVec 14) (s : State) : Out :=
  issueWord z (fun _ => { maj := 0x2D }) (waittBody i) (waittBody i) s

/-- A write pointer of the workgroup. -/
def wpOf (s : State) (w : Wave) (ch : Nat) : Nat :=
  match kget s.wgs w.wg with
  | some g => cellsGet 0 g.wp ch
  | none => 0

/-- WPWAIT (R431). -/
def wpwaitBody (a : BitVec 7) (ch : BitVec 4) (c : Ctx) (s : State) : Res :=
  waitRes (decide (waitVal c a ≤ wpOf s c.w ch.toNat)) (.wp ch.toNat (waitVal c a)) s

/-- WPWAIT (R431): until a write pointer reaches a target. -/
def execWpwait (z : Bool) (a : BitVec 7) (c : BitVec 4) (s : State) : Out :=
  issueWord z (fun _ => { maj := 0x2D, opds := [rdW true a] }) (waitIdle a (wpwaitBody a c)) (wpwaitBody a c) s

/-! ### Delivery barriers as objects (R438, R439) -/

/-- The scratchpad address of a delivery barrier, or the trap of its address (R432, R440): shared or cluster space, a multiple of
128. -/
def dbarAddr (c : Ctx) (s : State) (ea : Nat) : Except Trap Nat :=
  let r : Req := { lane := c.l0, ea := ea, n := 64 }
  match piecesOf s c.w c.l0 ea 64 with
  | some ({ off := _, n := _, dest := .spad x } :: _) => if ea % 128 = 0 then .ok x else .error (addrTrap 0x0F r)
  | _ => .error (addrTrap 0x0E r)

/-- A little-endian number in scratchpad. -/
def spadNat (s : State) (a n : Nat) : Nat := natOfBytes (s.spad.readN a n)

/-- Write a little-endian number to scratchpad. -/
def spadPut (a n x : Nat) (s : State) : State := { s with spad := s.spad.writeN a (bytesOfNat n x) }

/-- PHASE of the barrier at an address. -/
def dbarPhase (s : State) (a : Nat) : Bool := bitOf (spadNat s a 4) 4

/-- EXP of a slot. -/
def dbarExp (s : State) (a k : Nat) : Nat := spadNat s (a + 0x10 + 6 * k) 3

/-- DEL of a slot. -/
def dbarDel (s : State) (a k : Nat) : Nat := spadNat s (a + 0x13 + 6 * k) 3

/-- The check of R439: a phase completes when every slot below COUNT has what it expects. -/
def dbarCheck (a : Nat) (s : State) : State :=
  let h := spadNat s a 4
  let n := h % 16
  if decide (1 ≤ n) && decide (n ≤ 8) && (List.range n).all fun k => decide (dbarExp s a k ≤ dbarDel s a k) then
    (List.range 8).foldl (fun s k => spadPut (a + 0x13 + 6 * k) 3 0 s) (spadPut a 4 (Nat.xor h 16) s)
  else s

/-- OVER is set. -/
def dbarOver (a : Nat) (s : State) : State :=
  let h := spadNat s a 4
  if bitOf h 5 then s else spadPut a 4 (h + 32) s

/-- A credit of `m` bytes to a slot (R439). -/
def dbarCredit (a k m : Nat) (s : State) : State :=
  let n := spadNat s a 4 % 16
  if n = 0 ∨ 8 < n ∨ n ≤ k then dbarOver a s
  else
    let d := min (dbarDel s a k + m) (2 ^ 24 - 1)
    let s := spadPut (a + 0x13 + 6 * k) 3 d s
    dbarCheck a (if dbarExp s a k < d then dbarOver a s else s)

/-- The scope of a delivery barrier: WG for shared space, CLUSTER for cluster space (R440). -/
def dbarScope (c : Ctx) (s : State) (ea : Nat) : Nat := max 1 (spaceOf (s.partition c.w.partition) ea).scope

/-- DWAIT (R431, R432): passing it is an acquire at the barrier's scope. -/
def dwaitBody (a : BitVec 7) (ph : BitVec 1) (c : Ctx) (s : State) : Res :=
  match dbarAddr c s (waitVal c a) with
  | .error t => if c.act.isEmpty then .fall s 1 else .trap s t
  | .ok x =>
    if dbarPhase s x != decide (ph = 1#1) then .fall (physAcquire s (coreOf c.key) (dbarScope c s (waitVal c a))) 1
    else .hold s (.cond (.dbar x (decide (ph = 1#1))))

/-- DWAIT (R431, R432): until the phase bit differs. -/
def execDwait (z : Bool) (a : BitVec 7) (p : BitVec 1) (s : State) : Out :=
  issueWord z (fun _ => { maj := 0x2D, opds := [rdW true a] }) (waitIdle a (dwaitBody a p)) (dwaitBody a p) s

/-- The tile of a wave. -/
def Wave.tile (w : Wave) (t : Nat) : Tile := w.tiles.getD t {}

/-- TINFO of the matrix causes (R207). -/
def tileInfo (w : Wave) (p : Part) (t ver sub : Nat) : Word :=
  let x := w.tile t
  BitVec.ofNat 32 (x.va + 16 * ver + 2 ^ 8 * t + 2 ^ 11 * sub + 2 ^ 14 * x.shape.width + 2 ^ 21 * (4 * p.n))

/-- Apply an operation to the elements. -/
def applyOp (e : Cells Word) (o : TileOp) : Cells Word :=
  o.elems.foldl (fun e x => cellsPut 0#32 e x.1 x.2) (if o.clears then [] else e)

/-- Change a tile of a wave. -/
def modTile (key t : Nat) (f : Tile → Tile) (s : State) : State :=
  s.modWave key fun w => { w with tiles := w.tiles.set t (f (w.tile t)) }

/-- The oldest operation of a tile completes (R190, R205). -/
def finishOp (o : TileOp) (os : List TileOp) (x : Tile) : Tile :=
  { x with shape := o.shape.getD x.shape, elems := applyOp x.elems o, v := (x.v + b2n o.counts) % 16, ops := os }

/-- The oldest operation of a tile completes; reads of the tile that waited for it may land (R198). -/
def completeTile (key t : Nat) (s : State) : State :=
  match kget s.waves key with
  | none => s
  | some w =>
    match (w.tile t).ops with
    | [] => s
    | o :: os =>
      (modTile key t (finishOp o os) s).modWave key fun w =>
        { w with
          parts := w.parts.map fun p =>
            { p with pend := p.pend.map fun x => { x with after := x.after.filter (· ≠ o.id) } } }

/-- Every accepted operation of a wave completes (R198). -/
def completeTiles (key : Nat) (s : State) : State :=
  match kget s.waves key with
  | none => s
  | some w => w.tiles.zipIdx.foldl (fun s t => t.1.ops.foldl (fun s _ => completeTile key t.2 s) s) s

/-- VWAIT (R431, R432). -/
def vwaitBody (v : BitVec 4) (t : BitVec 3) (c : Ctx) (s : State) : Res :=
  let x := c.w.tile t.toNat
  if !x.ops.isEmpty then .hold s (.cond (.tileIdle t.toNat))
  else if x.v = v.toNat ∨ c.act.isEmpty then .fall s 1
  else .trap s { cause := 0x09, info := tileInfo c.w c.p t.toNat v.toNat 0 }

/-- VWAIT (R431, R432): until the tile is idle at a version. -/
def execVwait (z : Bool) (v : BitVec 4) (t : BitVec 3) (s : State) : Out :=
  issueWord z (fun c => { maj := 0x2D, badField := decide (c.w.tiles.length ≤ t.toNat) }) (vwaitBody v t) (vwaitBody v t) s

/-- SLEEPW (R431). -/
def sleepwBody (a : BitVec 7) (c : Ctx) (s : State) : Res := waitRes (decide (waitVal c a ≤ s.time)) (.time (waitVal c a)) s

/-- SLEEPW (R431): until the device time reaches a value. -/
def execSleepw (z : Bool) (a : BitVec 7) (s : State) : Out :=
  issueWord z (fun _ => { maj := 0x2D, opds := [rdW true a] }) (waitIdle a (sleepwBody a)) (sleepwBody a) s

/-- A SLEEPW target has been reached. -/
def timeDue (time : Nat) (p : Part) : Bool :=
  match p.wait with
  | .cond (.time t) => decide (t ≤ time)
  | _ => false

/-- SLEEPW_EXPIRY (R431): the part is ready, and its word issues again and passes. -/
def execSleepwExpiry (wave q : Nat) (s : State) : Out :=
  .next (s.modWave wave fun w =>
    { w with parts := partMod (fun p => if timeDue s.time p && !w.stopped then wakePart (cycleOf s (coreOf wave)) p else p) w.parts q })

/-! ## Workgroup barriers (R433 to R435, R42, R43) -/

/-- The expected count of a barrier word, or none when it is above 16 (R433). -/
def barCount (x : Word) : Option Nat := if x.toNat ≤ 16 then some x.toNat else none

/-- The carry set of a launch for a barrier: registers kept over a phase boundary (R42, R397). -/
def carrySet (s : State) (w : Wave) (b : Nat) : List Nat :=
  match ((kgetD {} s.grids w.grid).carry.find? fun e => e.1 = b) with
  | some e => e.2.filter fun r => decide (r < w.regs)
  | none => []

/-- A wave arrives at a phase boundary (R42, R156): registers outside the carry set, tiles and the region set are released. -/
def boundaryWave (keep : List Nat) (w : Wave) : Wave :=
  { w with
    v := w.v.filter fun e => keep.contains (e.1 / 64), poison := w.poison.filter fun k => keep.contains (k / 64),
    flaws := w.flaws.filter fun k => keep.contains (k / 64), tiles := w.tiles.map (fun _ => {}), region := [],
    parts := w.parts.map fun p =>
      { p with pend := (p.pend.map fun x => { x with vals := x.vals.filter fun v => keep.contains v.2.1 }).filter (fun x => !x.empty) } }

/-- The wave has arrived at a barrier in the open phase. -/
def hasArrived (s : State) (w : Wave) (b : Nat) : Bool :=
  match kget s.wgs w.wg with
  | some g => (g.bar b).waves.contains w.key
  | none => false

/-- PHASE of a workgroup barrier. -/
def barPhase (s : State) (w : Wave) (b : Nat) : Bool :=
  match kget s.wgs w.wg with
  | some g => (g.bar b).phase
  | none => false

/-- The part waits at its word, with the word's prefix group (R218). -/
def waitAt (c : Ctx) (wt : Wait) (s : State) : State := s.modPart c.key c.q fun p => { keepPrefix c p with wait := wt }

/-- A word arrives at a barrier: after what the part's lanes still take, and not twice in a phase (R434). An arrival is a release, so that
the part's loads have been performed (R435). -/
def arrival (b : Nat) (c : Ctx) (s : State) (k : State → Res) : Res :=
  if !(takeWaits c (blockLanes c.p.q c.p.n)).isEmpty then afterTakes c (blockLanes c.p.q c.p.n) (k s)
  else if hasArrived s c.w b then .hold s (.barrierNext b (barPhase s c.w b))
  else k (s.modPart c.key c.q performReads)

/-- An arrival that waits (BAR, and BARP outside PHASED grids): the part passes at once when its arrival completes the phase. -/
def barWait (b e : Nat) (c : Ctx) (s : State) : Res :=
  arrival b c s fun s =>
    let ph := barPhase s c.w b
    let s1 := arriveBar c.w.wg b e c.w c.p s
    let s2 := completeBar c.w.wg b s1
    if barPhase s2 c.w b != ph then .fall s2 1
    else .custom (waitAt c (.barrier b ph true) (closeWindows c.key c.q s1)) 2

/-- The address and the bytes of a workgroup's context unit (R387). -/
def contextUnit (s : State) (g : Wg) : Nat × Nat :=
  let l := (kgetD {} s.grids g.grid).launch
  (l.ctxarea + wgLin s g * l.ctxsz, l.ctxsz)

/-- What the device saves is written within the workgroup's context unit, in a layout that the spec does not give: each byte of the unit is a
free value afterwards (R43, R70, R387, log 62). -/
def writeUnit (g : Wg) (s : State) : State :=
  let gr := kgetD {} s.grids g.grid
  let u := contextUnit s g
  let bs := (List.range u.2).map fun i => Config.freeByte (s.fresh + i)
  { (ctlWrite gr.partition gr.launch.ctxid u.1 bs s).getD s with fresh := s.fresh + u.2 }

/-- A wave's carry set takes an entry of its core's phase-record table, or goes to its context unit when none of the 256 is free (R43). -/
def recordCarry (key : Nat) (s : State) : State :=
  match (kget s.waves key).bind fun w => kget s.wgs w.wg with
  | none => s
  | some g =>
    if (s.core g.core).records.length < 256 then s.modCore g.core fun c => { c with records := c.records ++ [key] }
    else writeUnit g s

/-- A wave has arrived at a phase boundary (R42, R43, R198): its accepted matrix operations complete, its carry set goes into the table, and
what it does not carry is released. -/
def enterBoundary (key : Nat) (keep : List Nat) (s : State) : State :=
  let s := (completeTiles key s).modWave key (boundaryWave keep)
  if keep.isEmpty then s else recordCarry key s

/-- BARP in a PHASED grid (R42, R43): the wave's registers are released when it arrives, and the part waits for the phase queue. -/
def barBoundary (b : Nat) (c : Ctx) (s : State) : Res :=
  arrival b c s fun s =>
    let ph := barPhase s c.w b
    let s := waitAt c (.barrier b ph true) (closeWindows c.key c.q s)
    let s := (arriveBar c.w.wg b 0 c.w c.p s).modWg c.w.wg fun g => { g with phaseAt := some b }
    let s := if hasArrived s c.w b then enterBoundary c.key (carrySet s c.w b) s else s
    .custom (completeBar c.w.wg b s) 2

/-- BARA: an arrival without a wait (R434). -/
def barArrive (b e : Nat) (c : Ctx) (s : State) : Res :=
  arrival b c s fun s => .fall (completeBar c.w.wg b (arriveBar c.w.wg b e c.w c.p s)) 1

/-- The launch of the wave sets PHASED. -/
def phased (s : State) (w : Wave) : Bool := (kgetD {} s.grids w.grid).launch.phased

/-- A barrier word with a count: above 16 it raises ILLEGAL with REASON FIELD (R433); with no active lane it traps for nothing and
then has no effect (log 22). -/
def barWord (z : Bool) (a : BitVec 7) (f : Nat → Ctx → State → Res) (s : State) : Out :=
  issueWord z (fun _ => { maj := 0x2E, opds := [uniOpd a] })
    (fun c s =>
      match uniformSource c a, barCount (c.read a 0) with
      | true, some e => idleReads c [rd a] (f e c s)
      | _, _ => .fall s 1)
    (fun c s =>
      match barCount (c.read a 0) with
      | some e => f e c s
      | none => .trap s (illegal 0x2E 0x03)) s

/-- BAR (R434): arrives and waits. -/
def execBar (z : Bool) (a : BitVec 7) (i : BitVec 4) (s : State) : Out := barWord z a (barWait i.toNat) s

/-- BARP (R434, R42): as BAR; in a PHASED grid a phase boundary. No token of the part is pending before its wave's arrival (R186). -/
def execBarp (z : Bool) (a : BitVec 7) (i : BitVec 4) (s : State) : Out :=
  barWord z a (fun e c s =>
    if tokenPending c.p 0x3FFF then .hold s (.cond (.tokens 0x3FFF))
    else if phased s c.w then barBoundary i.toNat c s else barWait i.toNat e c s) s

/-- BARA (R434): arrives without waiting. -/
def execBara (z : Bool) (a : BitVec 7) (i : BitVec 4) (s : State) : Out := barWord z a (barArrive i.toNat) s

/-- BARW waits for the phase open at its issue (R434). -/
def barwBody (i : BitVec 4) (c : Ctx) (s : State) : Res :=
  .custom (waitAt c (.barrier i.toNat (barPhase s c.w i.toNat) false)
    (closeWindows c.key c.q (s.modPart c.key c.q performReads))) 2

/-- BARW (R434): waits without arriving. -/
def execBarw (z : Bool) (i : BitVec 4) (s : State) : Out :=
  issueWord z (fun _ => { maj := 0x2E }) (barwBody i) (barwBody i) s

/-- BARB (R437): arms a one-slot delivery barrier. -/
def barbBody (a : BitVec 7) (i : BitVec 14) (c : Ctx) (s : State) : Res :=
  let off := 128 * i.toNat
  let g := c.wg s
  let ea := (s.partition c.w.partition).apshared + off
  let x := (c.read a 0).toNat
  if (kgetD {} s.grids c.w.grid).launch.scratch < off + 64 then .trap s (addrTrap 0x0E { lane := c.l0, ea := ea, n := 64 })
  else if x = 0 ∨ 2 ^ 24 ≤ x then .trap s (illegal 0x2E 0x03)
  else
    let at_ := g.core * 2 ^ 19 + g.spadBase + off
    let h := 1 + 16 * b2n (dbarPhase s at_)
    .fall (spadPut (at_ + 0x10) 48 x (spadPut at_ 4 h s)) 1

/-- BARB (R437): arms a delivery barrier in the shared allocation. -/
def execBarb (z : Bool) (a : BitVec 7) (i : BitVec 14) (s : State) : Out :=
  issueWord z (fun _ => { maj := 0x2E, opds := [if codeIsK a then rd a else { code := a, allow := .wOnly }] }) idleWord (barbBody a i) s

/-- A part of a workgroup whose phase is served leaves the boundary at the word after its BARP (R43). -/
def resumePart (cycle b : Nat) (p : Part) : Part :=
  match p.wait with
  | .barrier b' _ _ => if b' = b then passPart cycle p else p
  | .barrierNext b' _ => if b' = b then againPart cycle p else p
  | _ => p

/-- PHASE_RESUME (R43): the head of the core's phase queue goes on with its next phase. -/
def execPhaseResume (core : Nat) (s : State) : Out :=
  .next (match (s.core core).phaseQueue with
    | [] => s
    | id :: rest =>
      let s := s.modCore core fun c => { c with phaseQueue := rest }
      match kget s.wgs id with
      | none => s
      | some g =>
        match g.phaseAt with
        | none => s
        | some b =>
          let s := (s.modWg id fun g => { g with phaseAt := none }).modCore core fun c =>
            { c with records := c.records.filter fun k => !(g.waves.contains k) }
          { s with
            waves := modWaves (fun w =>
              let w := boundaryWave (carrySet s w b) w
              { w with parts := w.parts.map (resumePart (cycleOf s core) b) }) s.waves g.waves })

/-! ## DLV (R440) -/

/-- The checks of a DLV word that changes the object. -/
def dlvSig (d a : BitVec 7) (_ : Ctx) : Sig := { maj := 0x2F, opds := [rd d, rdAddr a] }

/-- A DLV word that changes the object: its address, its value, its effect (R440). -/
def dlvBody (ok : State → Nat → Nat → Bool) (f : Nat → Nat → State → State) (d a : BitVec 7) (c : Ctx) (s : State) : Res :=
  match dbarAddr c s (c.read64 false a c.l0).toNat with
  | .error t => .trap s t
  | .ok x =>
    let v := (c.read d c.l0).toNat
    if ok s x v then .fall (f x v s) 1 else .trap s (illegal 0x2F 0x03)

/-- DINIT (R440): a barrier with COUNT sources. -/
def execDinit (z : Bool) (d a : BitVec 7) (_l : BitVec 4) (s : State) : Out :=
  issueWord z (dlvSig d a) idleWord
    (dlvBody (fun _ _ v => decide (1 ≤ v) && decide (v ≤ 8)) (fun x v s => spadPut (x + 0x10) 48 0 (spadPut x 4 v s)) d a) s

/-- A value of DEXP and DARR: bytes, and a slot below COUNT (R440). -/
def slotOk (s : State) (x v : Nat) : Bool := decide (v < 2 ^ 27) && decide (v / 2 ^ 24 < spadNat s x 4 % 16)

/-- DEXP (R440): the expected bytes of a slot, then the check of R439. -/
def execDexp (z : Bool) (d a : BitVec 7) (_l : BitVec 4) (s : State) : Out :=
  issueWord z (dlvSig d a) idleWord
    (dlvBody slotOk (fun x v s => dbarCheck x (spadPut (x + 0x10 + 6 * (v / 2 ^ 24)) 3 (v % 2 ^ 24) s)) d a) s

/-- The scope of the delivery barrier of a DLV word (R440). -/
def dlvScope (c : Ctx) (s : State) (a : BitVec 7) : Nat := dbarScope c s (c.read64 false a c.l0).toNat

/-- DARR (R440): a release, then a credit to a slot. -/
def execDarr (z : Bool) (d a : BitVec 7) (_l : BitVec 4) (s : State) : Out :=
  issueWord z (dlvSig d a) idleWord
    (fun c s => afterTakes c (blockLanes c.p.q c.p.n)
      (dlvBody slotOk (fun x v s => dbarCredit x (v / 2 ^ 24) (v % 2 ^ 24) (partRelease c (dlvScope c s a) s)) d a c s)) s

/-- DQRY (R440): the header word, by a plain load. -/
def execDqry (z : Bool) (d a : BitVec 7) (l : BitVec 4) (s : State) : Out :=
  issueWord z (fun _ => { maj := 0x2F, opds := [wr d, rdAddr a] }) idleWord
    (fun c s =>
      match dbarAddr c s (c.read64 false a c.l0).toNat with
      | .error t => .trap s t
      | .ok x => .fall (writeLater c d l.toNat (fun _ => [BitVec.ofNat 32 (spadNat s x 4)]) s) 1) s

/-! ## CNT (R441, R442) -/

/-- A CNT word that writes a 64-bit value to D. -/
def cntWord (z : Bool) (bad : Ctx → Bool) (f : Ctx → State → Nat) (d : BitVec 7) (s : State) : Out :=
  issueWord z (fun c => { maj := 0x30, badField := bad c, opds := [wrW true d] }) idleWord
    (fun c s => .fall (writeNat c true d (fun _ => f c s) s) 1) s

/-- TIME (R441): the device time in ns. -/
def execTime (z : Bool) (d : BitVec 7) (s : State) : Out := cntWord z (fun _ => false) (fun _ s => s.time) d s

/-- The value of a counter (R441, R443); a counter of a timing event is a free value (log 13). -/
def pmcValue (n : Nat) (c : Ctx) (s : State) : Nat :=
  let k := s.core (coreOf c.key)
  if n = 4 then (cycleOf s (coreOf c.key) - k.cyc0) % 2 ^ 48
  else if n = 5 then k.inst
  else pmcCount s (coreOf c.key) n

/-- PMCRD (R441): a performance counter. -/
def execPmcrd (z : Bool) (d : BitVec 7) (n : BitVec 3) (s : State) : Out :=
  cntWord z (fun _ => decide (5 < n.toNat)) (pmcValue n.toNat) d s

/-- PMCWR (R441): a programmable counter takes bits [47:0] of D, in control mode, and then the events of this cycle (R443). -/
def execPmcwr (z : Bool) (d : BitVec 7) (n : BitVec 3) (s : State) : Out :=
  issueWord z (fun _ => { maj := 0x30, priv := some 2, badField := decide (3 < n.toNat), opds := [rdW true d] }) idleWord
    (fun c s => .fall (s.modCore (coreOf c.key) fun k =>
      pmcPut n.toNat ((c.read64 false d c.l0).toNat % 2 ^ 48 + pmcRecent (cycleOf s (coreOf c.key)) n.toNat k) k) 1) s

/-- What ACCV shows of a tile (R441). -/
def accvWord (t : Tile) : Nat := t.v + 16 * t.va + 256 * t.shape.width + 2 ^ 15 * b2n t.shape.s32

/-- ACCV (R441): versions, width and type of a tile. -/
def execAccv (z : Bool) (d : BitVec 7) (t : BitVec 3) (s : State) : Out :=
  issueWord z (fun c => { maj := 0x30, badField := decide (c.w.tiles.length ≤ t.toNat), opds := [wr d] }) idleWord
    (fun c s => .fall (writeReg c d (fun _ => BitVec.ofNat 32 (accvWord (c.w.tile t.toNat))) s) 1) s

/-- WPRD (R441): a write pointer. -/
def execWprd (z : Bool) (d : BitVec 7) (c : BitVec 4) (s : State) : Out :=
  cntWord z (fun _ => false) (fun x s => wpOf s x.w c.toNat) d s

/-- CYCLE (R441, R442): the wave's cycle counter. -/
def execCycle (z : Bool) (d : BitVec 7) (s : State) : Out :=
  cntWord z (fun _ => false) (fun c s => waveCycles s c.w) d s

end Sys2Proof.Machine
end

