-- ==== Sys2Proof/Machine/Matrix.lean ====
section
/-! DEFINITION. Accumulator tiles and matrix words (R133 to R135, R188 to R208). -/

namespace Sys2Proof.Machine

/-! ## Exact sums (R194 to R196) -/

/-- An element of a record as a whole number of units of 2^-12; none for a NaN. -/
def elemUnits (kind r i : Nat) : Option Int :=
  match elemVal kind (recElem kind r i) with
  | .fin neg n d => some (signedNum neg (n * 4096 / d))
  | _ => none

/-- The exact dot product of two records, in units of 2^-24; none when an element is a NaN. -/
def recDot (ka kb a b : Nat) : Nat → Option Int
  | 0 => some 0
  | k + 1 =>
    match recDot ka kb a b k, elemUnits ka a k, elemUnits kb b k with
    | some s, some x, some y => some (s + x * y)
    | _, _, _ => none

/-- The product of R194: none for a NaN. A scale of 0xFF in an S8 record counts as zero. -/
def recProduct (ka kb a b : Nat) : Option FVal :=
  let sa := recScale a
  let sb := recScale b
  if (sa == 0xFF && ka != 1) || (sb == 0xFF && kb != 1) then none
  else if sa == 0 || sa == 0xFF || sb == 0 || sb == 0xFF then some (.fin false 0 1)
  else
    (recDot ka kb a b 32).map fun s =>
      .fin (decide (s < 0)) (s.natAbs * (scaleVal sa).1 * (scaleVal sb).1) (2 ^ 24 * (scaleVal sa).2 * (scaleVal sb).2)

/-- ACC_REC (R194). -/
def accRec (ka kb : Nat) (c : Word) (a b : Nat) : Word :=
  match recProduct ka kb a b with
  | none => BitVec.ofNat 32 fmtF32.nanBits
  | some p => BitVec.ofNat 32 (fmtF32.round 0 ((fmtF32.decode c.toNat).add 0 p))

/-- Round to F32 and read the result again. -/
def roundF32 (x : FVal) : FVal := fmtF32.decode (fmtF32.round 0 x)

/-- One level of the sum tree of R195. -/
def pairSums : List FVal → List FVal
  | a :: b :: xs => roundF32 (a.add 0 b) :: pairSums xs
  | xs => xs

/-- ACC_16 (R195): the rows as numbers, element k in bits [16k+15:16k]. -/
def acc16 (m : Fmt) (c : Word) (a b : Nat) : Word :=
  let ps := (List.range 32).map fun k => (m.decode (a / 2 ^ (16 * k) % 2 ^ 16)).mul (m.decode (b / 2 ^ (16 * k) % 2 ^ 16))
  let sum := (pairSums (pairSums (pairSums (pairSums (pairSums ps))))).headD (.fin false 0 1)
  BitVec.ofNat 32 (fmtF32.round 0 ((fmtF32.decode c.toNat).add 0 sum))

/-- The 64 codes of a dense T2 column (R125). -/
def denseCodes (b : Nat) : List Nat := (List.range 64).map (recElem 4 b)

/-- The dense codes of a sparse image, and whether a position is named twice (R203). -/
def sparseCodes (b : Nat) : List Nat × Bool :=
  let field := fun k => recElem 4 b (32 + k)
  let group := fun g t =>
    if field (2 * g) = t then recElem 4 b (2 * g) else if field (2 * g + 1) = t then recElem 4 b (2 * g + 1) else 0
  ((List.range 64).map fun i => group (i / 4) (i % 4), (List.range 16).any fun g => field (2 * g) == field (2 * g + 1))

/-- The value of an S8 element under its record's scale byte (R196). -/
def s8Under (r k : Nat) : Int :=
  if recScale r = 0 ∨ recScale r = 0xFF then 0 else sintOf 8 (recElem 1 r k)

/-- ACC_T2 (R196): `r0` and `r1` the records of the row, `b` the column image, `codes` its dense codes. -/
def accT2 (c : Word) (r0 r1 b : Nat) (codes : List Nat) : Word :=
  if recScale b = 0 ∨ recScale b = 0xFF then c
  else
    let s := codes.zipIdx.foldl (fun (s : Int) x =>
      let a := if x.2 < 32 then s8Under r0 x.2 else s8Under r1 (x.2 - 32)
      if x.1 = 1 then s + a else if x.1 = 3 then s - a else s) 0
    c + BitVec.ofInt 32 s

/-! ## The format word (R133 to R135) -/

/-- Registers of a row or a column of an element code (R192). -/
def rowRegs (kind : Nat) : Nat :=
  match kind with
  | 5 => 16
  | 6 => 16
  | _ => recRegs kind

/-- Which word reads the format word. -/
inductive FmtUse where
  | mma
  | mmat
  | ascl
deriving DecidableEq, Repr

/-- A format word that is valid for a word (R135). -/
def fmtOk (u : FmtUse) (fw : Nat) : Bool :=
  let ael := bitsOf fw 3 0
  let bel := bitsOf fw 7 4
  let acc := bitsOf fw 9 8
  decide (bitsOf fw 15 10 = 0) && decide (bitsOf fw 31 24 = 0) &&
  match u with
  | .mma => decide (acc = 0) && ((decide (ael ≤ 3) && decide (bel ≤ 3)) || (decide (ael = bel) && (ael == 5 || ael == 6)))
  | .mmat => ael == 1 && bel == 4 && acc == 1
  | .ascl => true

/-- The format word of the lowest active lane. -/
def fmtWord (c : Ctx) : Nat := (c.read (modeFregOf c.p.mode) c.l0).toNat

/-- A trap of the matrix causes (R207, R222). -/
def tileTrap (cause : Nat) (c : Ctx) (t ver sub : Nat) : Trap := { cause := cause, info := tileInfo c.w c.p t ver sub }

/-- FMTDIV and FMTBAD (R133). -/
def fmtTrap (u : FmtUse) (c : Ctx) (t ver : Nat) : Option Trap :=
  if c.act.any fun l => decide ((c.read (modeFregOf c.p.mode) l).toNat ≠ fmtWord c) then some (tileTrap 0x0C c t ver 6)
  else if !fmtOk u (fmtWord c) then some (tileTrap 0x0D c t ver 7)
  else none

/-! ## Acceptance and completion (R189, R190) -/

/-- The elements as the operations accepted so far leave them. -/
def Tile.settled (x : Tile) : Cells Word := x.ops.foldl applyOp x.elems

/-- Element (i, j) as the operations accepted so far leave it. -/
def tileElem (e : Cells Word) (i j : Nat) : Word := cellsGet 0#32 e (64 * i + j)

/-- The shape that the operations accepted so far leave: after an ACLR, what has been fixed since (R191). -/
def Tile.accepted (x : Tile) : TileMeta := ((x.ops.filterMap (·.shape)).getLast?).getD x.shape

/-- Change it in the last ACLR of a list that is pending; none if there is no such. -/
def reshapeOps (f : TileMeta → TileMeta) : List TileOp → Option (List TileOp)
  | [] => none
  | o :: os =>
    match reshapeOps f os with
    | some r => some (o :: r)
    | none => o.shape.map fun m => { o with shape := some (f m) } :: os

/-- An accepted operation fixes the shape of the tile (R191, R196). -/
def Tile.reshape (f : TileMeta → TileMeta) (x : Tile) : Tile :=
  match reshapeOps f x.ops with
  | some os => { x with ops := os }
  | none => { x with shape := f x.shape }

/-- Accept a counting operation (R189, R444), which fixes the shape as `f` says; an ACLR clears elements and shape (R205). -/
def acceptOp (c : Ctx) (t : Nat) (clears : Bool) (elems : List (Nat × Word)) (f : TileMeta → TileMeta) (s : State) : State :=
  let o : TileOp := { id := s.nextId, counts := true, elems := elems, clears := clears, shape := if clears then some {} else none }
  countEvent (coreOf c.key) 0x0C 1 c.w.ctx
    (modTile c.key t (fun x => let y := x.reshape f; { y with va := (x.va + 1) % 16, ops := y.ops ++ [o] }) { s with nextId := s.nextId + 1 })

/-- MATRIX_COMPLETE (R190): an accepted operation of a tile completes, in order. -/
def execMatrixComplete (wave tile : Nat) (s : State) : Out := .next (completeTile wave tile s)

/-! ## What every matrix word does first -/

/-- The version step of R190 (R208 with no active lane): a wait, VERSION, or the word's own effect. A word that acts waits while eight
operations are pending. -/
def versionStep (acts : Bool) (t : BitVec 3) (v : BitVec 4) (k : Ctx → State → Res) (c : Ctx) (s : State) : Res :=
  let x := c.w.tile t.toNat
  if x.va ≠ v.toNat then
    if !x.ops.isEmpty then .brk (.cond (.tile t.toNat v.toNat))
    else if c.act.isEmpty then .fall s 1
    else .trap s (tileTrap 0x09 c t.toNat v.toNat 0)
  else if acts && decide (8 ≤ x.ops.length) then .brk (.cond (.tileRoom t.toNat))
  else k c s

/-- A matrix word with no active lane (R208). -/
def matrixIdle (counts : Bool) (t : BitVec 3) (v : BitVec 4) (c : Ctx) (s : State) : Res :=
  if c.w.width < 16 ∨ c.w.tiles.length ≤ t.toNat then .fall s 1
  else versionStep counts t v (fun c s => .fall (if counts then acceptOp c t.toNat false [] id s else s) 1) c s

/-- TILEWIDTH for the words that need a fixed width (R191). -/
def widthTrap (c : Ctx) (t ver : Nat) : Option Trap :=
  let x := c.w.tile t
  if x.shape.width = 0 then some (tileTrap 0x0A c t ver 1)
  else if x.shape.width ≠ 4 * c.p.n then some (tileTrap 0x0A c t ver 2)
  else none

/-- TILEWIDTH for MMA and MMAT (R191, R200). -/
def fixTrap (c : Ctx) (t ver : Nat) (s32 : Bool) : Option Trap :=
  let x := (c.w.tile t).accepted
  if x.width = 0 then none
  else if x.width ≠ 4 * c.p.n then some (tileTrap 0x0A c t ver 2)
  else if x.s32 ≠ s32 then some (tileTrap 0x0A c t ver 3)
  else none

/-- Row or column of a lane (R188). -/
def rowOf (c : Ctx) (l : Nat) : Nat := l - 4 * c.p.q

/-- New elements for each pair of active lanes (R193). -/
def newElems (c : Ctx) (t : Nat) (f : Word → Nat → Nat → Word) : List (Nat × Word) :=
  let e := (c.w.tile t).settled
  c.act.flatMap fun i => c.act.map fun j => (64 * rowOf c i + rowOf c j, f (tileElem e (rowOf c i) (rowOf c j)) i j)

/-- Set STATUS.POISON in the issuing part. -/
def poisonPart (c : Ctx) (b : Bool) (s : State) : State := s.modPart c.key c.q (setPoison b)

/-! ## MMA (R199, R200) -/

/-- The checks of MMA: its spans are checked after the format word. -/
def mmaSig (t : BitVec 3) (a b : BitVec 7) (c : Ctx) : Sig :=
  { maj := 0x10, badField := decide (c.w.tiles.length ≤ t.toNat), minQuads := some 4,
    opds := [rd (modeFregOf c.p.mode), { rdSpan a (rowRegs (bitsOf (fmtWord c) 3 0)) with late := true },
      { rdSpan b (rowRegs (bitsOf (fmtWord c) 7 4)) with late := true }] }

/-- The row or column that a lane supplies, as a number. -/
def laneRow (c : Ctx) (code : BitVec 7) (kind l : Nat) : Nat := natOfWords (c.readSpan code (rowRegs kind) l)

/-- Accumulate one element by the kinds of the format word. -/
def mmaAcc (fw : Nat) (x : Word) (a b : Nat) : Word :=
  match bitsOf fw 3 0 with
  | 5 => acc16 fmtBF16 x a b
  | 6 => acc16 fmtF16 x a b
  | ka => accRec ka (bitsOf fw 7 4) x a b

/-- An S8 record with the poison scale (R124). -/
def s8Poison (kind r : Nat) : Bool := kind == 1 && recScale r == 0xFF

/-- The effect of MMA at its version (R200). -/
def mmaAccept (t : BitVec 3) (v : BitVec 4) (a b : BitVec 7) (c : Ctx) (s : State) : Res :=
  let fw := fmtWord c
  let ka := bitsOf fw 3 0
  let kb := bitsOf fw 7 4
  match (fmtTrap .mma c t.toNat v.toNat).or
      (((rdSpan a (rowRegs ka)).bound c.w c.act).or
        (((rdSpan b (rowRegs kb)).bound c.w c.act).or (fixTrap c t.toNat v.toNat false))) with
  | some tr => .trap s tr
  | none =>
    let rows := c.act.map fun l => (l, laneRow c a ka l)
    let cols := c.act.map fun l => (l, laneRow c b kb l)
    let elems := newElems c t.toNat fun x i j => mmaAcc fw x (kgetD 0 rows i) (kgetD 0 cols j)
    let poison := rows.any (fun r => s8Poison ka r.2) || cols.any fun r => s8Poison kb r.2
    .fall (poisonPart c poison (acceptOp c t.toNat false elems (fun x => { x with width := 4 * c.p.n, s32 := false }) s)) 1

/-- MMA (R199, R200): block records or 16-bit rows multiplied into an F32 tile. -/
def execMma (z : Bool) (t : BitVec 3) (a b : BitVec 7) (v _l : BitVec 4) (s : State) : Out :=
  issueWord z (mmaSig t a b) (matrixIdle true t v) (versionStep true t v (mmaAccept t v a b)) s

/-! ## MMAT (R201 to R203) -/

/-- The checks of MMAT. -/
def mmatSig (t : BitVec 3) (a : BitVec 7) (b : BitVec 6) (c : Ctx) : Sig :=
  { maj := 0x11, badField := decide (c.w.tiles.length ≤ t.toNat), minQuads := some 4,
    opds := [rd (modeFregOf c.p.mode), rdSpan a 18, rdSpan (b.zeroExtend 7) 5] }

/-- The two records of a lane's row. -/
def tRow (c : Ctx) (a : BitVec 7) (l : Nat) : Nat × Nat :=
  (natOfWords ((List.range 9).map fun i => c.readAt a i l), natOfWords ((List.range 9).map fun i => c.readAt a (9 + i) l))

/-- A scale byte that is recorded (R196). -/
def scaleByte (x : Nat) : Bool := decide (1 ≤ x) && decide (x ≤ 0xFE)

/-- A byte conflicts with the recorded one. -/
def scaleClash (rec : Cells Nat) (i x : Nat) : Bool := scaleByte x && decide (cellsGet 0 rec i ≠ 0) && decide (cellsGet 0 rec i ≠ x)

/-- Record a scale byte if none is recorded. -/
def scaleNote (rec : Cells Nat) (x : Nat × Nat) : Cells Nat :=
  if scaleByte x.2 && decide (cellsGet 0 rec x.1 = 0) then cellsPut 0 rec x.1 x.2 else rec

/-- The row's records carry different scale bytes, or one that conflicts with SA (R196). -/
def rowClash (x : TileMeta) (i : Nat) (r : Nat × Nat) : Bool :=
  scaleClash x.sa i (recScale r.1) || scaleClash x.sa i (recScale r.2) ||
  (scaleByte (recScale r.1) && scaleByte (recScale r.2) && decide (recScale r.1 ≠ recScale r.2))

/-- TILESCALE (R196, R207). -/
def scaleTrap (c : Ctx) (t ver : Nat) (rows : List (Nat × Nat × Nat)) (cols : List (Nat × Nat)) : Option Trap :=
  let x := (c.w.tile t).accepted
  if rows.any fun r => rowClash x (rowOf c r.1) r.2 then some (tileTrap 0x0B c t ver 4)
  else if cols.any fun b => scaleClash x.sb (rowOf c b.1) (recScale b.2) then some (tileTrap 0x0B c t ver 5)
  else none

/-- The effect of MMAT at its version (R200, R202). -/
def mmatAccept (sparse : Bool) (t : BitVec 3) (v : BitVec 4) (a : BitVec 7) (b : BitVec 6) (c : Ctx) (s : State) : Res :=
  let rows := c.act.map fun l => (l, tRow c a l)
  let cols := c.act.map fun l => (l, natOfWords (c.readSpan (b.zeroExtend 7) 5 l))
  match (fmtTrap .mmat c t.toNat v.toNat).or
      ((fixTrap c t.toNat v.toNat true).or (scaleTrap c t.toNat v.toNat rows cols)) with
  | some tr => .trap s tr
  | none =>
    let codes := cols.map fun b => (b.1, b.2, if sparse then sparseCodes b.2 else (denseCodes b.2, false))
    let elems := newElems c t.toNat fun x i j =>
      let r := kgetD (0, 0) rows i
      let b := kgetD (0, [], false) codes j
      accT2 x r.1 r.2 b.1 b.2.1
    let poison := rows.any (fun r => recScale r.2.1 == 0xFF || recScale r.2.2 == 0xFF) ||
      codes.any fun b => recScale b.2.1 == 0xFF || b.2.2.2 || b.2.2.1.any (· == 2)
    .fall (poisonPart c poison (acceptOp c t.toNat false elems (fun x =>
      { x with
        width := 4 * c.p.n, s32 := true,
        sa := rows.foldl (fun r y => scaleNote (scaleNote r (rowOf c y.1, recScale y.2.1)) (rowOf c y.1, recScale y.2.2)) x.sa,
        sb := cols.foldl (fun r y => scaleNote r (rowOf c y.1, recScale y.2)) x.sb }) s)) 1

/-- MMAT (R201, R202): S8 rows times dense ternary columns into an S32 tile. -/
def execMmat (z : Bool) (t : BitVec 3) (a : BitVec 7) (b : BitVec 6) (v _l : BitVec 4) (s : State) : Out :=
  issueWord z (mmatSig t a b) (matrixIdle true t v) (versionStep true t v (mmatAccept false t v a b)) s

/-- MMAT.SP (R201, R203): S8 rows times sparse ternary columns. -/
def execMmatSp (z : Bool) (t : BitVec 3) (a : BitVec 7) (b : BitVec 6) (v _l : BitVec 4) (s : State) : Out :=
  issueWord z (fun c => { mmatSig t a b c with badStep := !c.b0 }) (matrixIdle true t v)
    (versionStep true t v (mmatAccept true t v a b)) s

/-! ## MTILE (R204 to R206) -/

/-- The checks of an MTILE function. -/
def mtileSig (t : BitVec 3) (badMode : Bool) (opds : List Opd) (c : Ctx) : Sig :=
  { maj := 0x12, badField := decide (c.w.tiles.length ≤ t.toNat), minQuads := some 4, badMode := badMode, opds := opds }

/-- The effect of ACLR at its version (R205): elements, width, type and scales change on its completion. -/
def aclrAccept (t : BitVec 3) (c : Ctx) (s : State) : Res := .fall (acceptOp c t.toNat true [] id s) 1

/-- ACLR (R205): the tile returns to the reset state. -/
def execAclr (z : Bool) (t : BitVec 3) (v _l : BitVec 4) (s : State) : Out :=
  issueWord z (mtileSig t false []) (matrixIdle true t v) (versionStep true t v (aclrAccept t)) s

/-- Issue a read of a tile (R198): the destination is written once the operations accepted before it have completed. -/
def readTile (c : Ctx) (t : Nat) (code : BitVec 7) (la : Nat) (f : Nat → List Word) (s : State) : State :=
  let x : Pend := { id := s.nextId, kind := .load, window := la, vals := pendVals c code f, uvals := [], bq := c.p.q, bn := c.p.n,
                    ulane := c.l0, lanes := [], after := (c.w.tile t).ops.map (·.id) }
  ({ s with nextId := s.nextId + 1 }).modPart c.key c.q fun p => { p with pend := p.pend ++ [x] }

/-- The effect of AMOVR at its version. -/
def amovrAccept (t : BitVec 3) (v : BitVec 4) (a : BitVec 7) (la : Nat) (c : Ctx) (s : State) : Res :=
  match widthTrap c t.toNat v.toNat with
  | some tr => .trap s tr
  | none =>
    let e := (c.w.tile t.toNat).settled
    .fall (readTile c t.toNat a la (fun l => (List.range (4 * c.p.n)).map fun j => tileElem e (rowOf c l) j) s) 1

/-- AMOVR (R205): tile rows to registers. -/
def execAmovr (z : Bool) (t : BitVec 3) (a : BitVec 7) (v l : BitVec 4) (s : State) : Out :=
  issueWord z (fun c => mtileSig t false [wrSpan a (4 * c.p.n)] c) (matrixIdle false t v)
    (versionStep true t v (amovrAccept t v a l.toNat)) s

/-- The effect of AMOVW at its version. -/
def amovwAccept (t : BitVec 3) (v : BitVec 4) (a : BitVec 7) (c : Ctx) (s : State) : Res :=
  match widthTrap c t.toNat v.toNat with
  | some tr => .trap s tr
  | none =>
    let elems := c.act.flatMap fun l => (List.range (4 * c.p.n)).map fun j => (64 * rowOf c l + j, c.readAt a j l)
    .fall (acceptOp c t.toNat false elems id s) 1

/-- AMOVW (R205): registers to tile rows. -/
def execAmovw (z : Bool) (t : BitVec 3) (a : BitVec 7) (v _l : BitVec 4) (s : State) : Out :=
  issueWord z (fun c => mtileSig t false [rdSpan a (4 * c.p.n)] c) (matrixIdle true t v)
    (versionStep true t v (amovwAccept t v a)) s

/-- The types that ASCL accepts (R206): F32, S32, N32, F16, BF16, S16, N16, S8, N8 and L8. -/
def asclEt (et : Nat) : Bool :=
  et == 3 || et == 1 || et == 2 || et == 7 || et == 8 || et == 9 || et == 10 || et == 11 || et == 12 || et == 13

/-- A recorded scale as a value; a missing one is 1 (R205). -/
def scaleOr1 (rec : Cells Nat) (i : Nat) : FVal :=
  let x := cellsGet 0 rec i
  if x = 0 then .fin false 1 1 else .fin false (scaleVal x).1 (scaleVal x).2

/-- The exact value that ASCL converts (R205). -/
def asclValue (x : TileMeta) (k : Int) (i j : Nat) (e : Word) : FVal :=
  let v := if x.s32 then ((FVal.ofInt e.toInt).mul (scaleOr1 x.sa i)).mul (scaleOr1 x.sb j) else fmtF32.decode e.toNat
  v.scale k

/-- Pack elements of `bits` bits into registers (R206). -/
def packElems (bits per : Nat) (f : Nat → Nat) (m : Nat) : Word :=
  BitVec.ofNat 32 ((List.range per).foldl (fun acc q => acc + f (per * m + q) % 2 ^ bits * 2 ^ (bits * q)) 0)

/-- The effect of ASCL at its version. -/
def asclAccept (t : BitVec 3) (v : BitVec 4) (a : BitVec 7) (la : Nat) (c : Ctx) (s : State) : Res :=
  match (fmtTrap .ascl c t.toNat v.toNat).or (widthTrap c t.toNat v.toNat) with
  | some tr => .trap s tr
  | none =>
    let x := (c.w.tile t.toNat).accepted
    let e := (c.w.tile t.toNat).settled
    let k := sintOf 8 (bitsOf (fmtWord c) 23 16)
    let bits := etWidth c.et
    let elem := fun l j =>
      convTo c.et c.rnd (modeSatOf c.p.mode) false false (asclValue x k (rowOf c l) j (tileElem e (rowOf c l) j))
    .fall (readTile c t.toNat a la (fun l =>
      (List.range (4 * c.p.n * bits / 32)).map fun m => packElems bits (32 / bits) (elem l) m) s) 1

/-- ASCL (R205, R206): tile rows scaled and converted into registers. -/
def execAscl (z : Bool) (t : BitVec 3) (a : BitVec 7) (v l : BitVec 4) (s : State) : Out :=
  issueWord z
    (fun c => mtileSig t (!asclEt c.et)
      [rd (modeFregOf c.p.mode), wrSpan a (4 * c.p.n * etWidth c.et / 32)] c)
    (matrixIdle false t v) (versionStep true t v (asclAccept t v a l.toNat)) s

end Sys2Proof.Machine
end

