-- ==== Sys2Proof/Machine/Memory.lean ====
section
/-! DEFINITION. Loads, stores, records, atomics and futures (R263 to R278), and the landing of what they return (R61, R249). -/

namespace Sys2Proof.Machine

/-! ## Addresses and sizes (R263, R269) -/

/-- The pair A of a lane as a number. -/
def eaPair (c : Ctx) (a : BitVec 7) (l : Nat) : Nat := (c.read64 false a l).toNat

/-- The effective address of LD, LDV and ST (R263). -/
def eaOff (c : Ctx) (a b : BitVec 7) (l : Nat) : Nat := (c.read64 false a l + (c.read b l).signExtend 64).toNat

/-- Bytes of an element in memory (R269). -/
def memSize (et : Nat) : Nat := if etWidth et ≤ 8 then 1 else etWidth et / 8

/-- The accesses of the active lanes. -/
def laneReqs (c : Ctx) (ea : Nat → Nat) (n : Nat) : List Req := c.act.map fun l => { lane := l, ea := ea l, n := n }

/-- No further condition on an address. -/
def noExtra (_ : Req) : Bool := false

/-- The element that loaded bytes are, as the words of the destination (R269): S8 and S16 extend their sign. -/
def loadWords (et : Nat) (bs : List Byte) : List Word :=
  let n := 8 * memSize et
  wordsOf (etWide et) (if et = 9 ∨ et = 11 then extendRes n true (natOfBytes bs) else natOfBytes bs)

/-- Issue a writeback of (lane, register, word) and uniform writes, held for `la` words (R61). -/
def issuePend (c : Ctx) (la : Nat) (vals : List (Nat × Nat × Word)) (sl : List Sleeper) (s : State) : State :=
  let x : Pend := { id := s.nextId, kind := .load, window := la, vals := vals, uvals := [], bq := c.p.q, bn := c.p.n,
                    ulane := c.l0, lanes := [], sleepers := sl }
  let s := { s with nextId := s.nextId + 1 }
  if vals.isEmpty then s else s.modPart c.key c.q fun p => { p with pend := p.pend ++ [x] }

/-- The lane's resolved access. -/
def placesOf (ps : List (Nat × Places)) (l : Nat) : Places := kgetD [] ps l

/-- Some lane's access returns poisoned data: UEREG (R240, R109). -/
def poisonRes (s : State) (ps : List (Nat × Places)) (k : Res) : Res :=
  if ps.any fun x => placesPoisoned s x.2 then .kill s 0x0104 0x20 else k

/-- A memory word counts towards the samples (R447). -/
def sampled (c : Ctx) (ea : Nat → Nat) (maj : Nat) (s : State) : State := traceSample c.w c.p c.act (ea c.l0) maj s

/-- The words that loaded bytes become (R269, R272). -/
def Conv.apply : Conv → List Byte → List Word
  | .elem et, bs => loadWords et bs
  | .words n, bs => wordsOfNat n (natOfBytes bs)

/-- Issue a plain load: its bytes are those of now, or of a later moment before it lands (R249, R250, log 66). -/
def loadLater (c : Ctx) (d : BitVec 7) (la : Nat) (conv : Conv) (ps : List (Nat × Places)) (s : State) : State :=
  let s1 := writeLater c d la (fun l => conv.apply (loadPlaces s (coreOf c.key) (placesOf ps l))) s
  if codeIsVec d then
    s1.modPart c.key c.q fun p =>
      { p with
        pend := p.pend.map fun x =>
          if x.id = s.nextId then { x with reads := ps.map fun y => { lane := y.1, places := y.2, conv := conv } } else x }
  else s1

/-- Issue an invariant load: each of its sectors reads as now, or as a value held since the grid began (R259). -/
def invLater (c : Ctx) (d : BitVec 7) (la : Nat) (conv : Conv) (ps : List (Nat × Places)) (s : State) : State :=
  writeLater c d la (fun l => conv.apply (invPlaces s c.w.grid (coreOf c.key) (placesOf ps l))) { s with fresh := s.fresh + 1 }

/-- The reads that the part's earlier loads have still to perform of bytes that its lanes write now are performed first (R250). -/
def readsFirst (c : Ctx) (ps : List (Nat × Places)) (s : State) : State :=
  s.modPart c.key c.q (settleReads s.nextId (ps.map fun y => { lane := y.1, places := y.2, conv := .words 0 }))

/-! ## LD, LDV, ST (R269, R270) -/

/-- The effect of LD and LDV: the bytes land in the destination later. -/
def loadBody (maj : Nat) (issue : Ctx → BitVec 7 → Nat → Conv → List (Nat × Places) → State → State) (d a b : BitVec 7) (la : BitVec 4)
    (c : Ctx) (s : State) : Res :=
  let n := memSize c.et
  memWord c (laneReqs c (eaOff c a b) n) n accRead noExtra (fun s ps =>
    poisonRes s ps (.fall (issue c d la.toNat (.elem c.et) ps (sampled c (eaOff c a b) maj s)) 1)) s

/-- The checks of LD and LDV. -/
def loadSig (maj : Nat) (d a b : BitVec 7) (c : Ctx) : Sig := { maj := maj, opds := [wrW (etWide c.et) d, rdAddr a, rd b] }

/-- LD (R270): one element to a register. -/
def execLd (z : Bool) (d a b : BitVec 7) (l : BitVec 4) (s : State) : Out :=
  issueWord z (loadSig 0x14 d a b) idleWord (loadBody 0x14 loadLater d a b l) s

/-- LDV (R259, R270): an invariant load. -/
def execLdv (z : Bool) (d a b : BitVec 7) (l : BitVec 4) (s : State) : Out :=
  issueWord z (loadSig 0x16 d a b) idleWord (loadBody 0x16 invLater d a b l) s

/-- Store the bytes of each lane, in increasing lane order (R246). -/
def storeLanes (core : Nat) (f : Nat → List Byte) (ps : List (Nat × Places)) (s : State) : State :=
  ps.foldl (fun s x => storePlaces core (f x.1) x.2 s) s

/-- The effect of ST. -/
def stBody (d a b : BitVec 7) (c : Ctx) (s : State) : Res :=
  let n := memSize c.et
  memWord c (laneReqs c (eaOff c a b) n) n accWrite noExtra (fun s ps =>
    .fall (storeLanes (coreOf c.key) (fun l => bytesOfNat n (c.readNat (etWide c.et) (decide (c.et = 6)) d l)) ps
      (readsFirst c ps (sampled c (eaOff c a b) 0x15 s))) 1) s

/-- ST (R270): the low bytes of a register to memory. -/
def execSt (z : Bool) (d a b : BitVec 7) (_l : BitVec 4) (s : State) : Out :=
  issueWord z (fun c => { maj := 0x15, opds := [rdW (etWide c.et) d, rdAddr a, rd b] }) idleWord (stBody d a b) s

/-! ## LDX, STX (R271, R272) -/

/-- Bytes that LDX and STX move: three fewer in record mode (R272). -/
def spanBytes (c : Ctx) (n : Nat) : Nat := if etNarrow c.et then 4 * n - 3 else 4 * n

/-- The effect of LDX. -/
def ldxBody (inv : Bool) (d a : BitVec 7) (n : Nat) (la : BitVec 4) (c : Ctx) (s : State) : Res :=
  memWord c (laneReqs c (eaPair c a) (spanBytes c n)) 1 accRead noExtra (fun s ps =>
    poisonRes s ps (.fall ((if inv then invLater else loadLater) c d la.toNat (.words n) ps (sampled c (eaPair c a) 0x17 s)) 1)) s

/-- LDX (R259, R272): up to 16 words or a block record to a span of registers, with an invariant form. The cache hints change no value (R268). -/
def execLdx (z : Bool) (d a : BitVec 7) (i : BitVec 1) (_h : BitVec 2) (n l : BitVec 4) (s : State) : Out :=
  issueWord z (fun _ => { maj := 0x17, opds := [wrSpan d (n.toNat + 1), rdAddr a] }) idleWord
    (ldxBody (decide (i = 1#1)) d a (n.toNat + 1) l) s

/-- The bytes of a span of registers. -/
def spanData (c : Ctx) (d : BitVec 7) (n l : Nat) : List Byte := bytesOfNat (spanBytes c n) (natOfWords (c.readSpan d n l))

/-- The effect of STX. -/
def stxBody (d a : BitVec 7) (n : Nat) (c : Ctx) (s : State) : Res :=
  memWord c (laneReqs c (eaPair c a) (spanBytes c n)) 1 accWrite noExtra (fun s ps =>
    .fall (storeLanes (coreOf c.key) (spanData c d n) ps (readsFirst c ps (sampled c (eaPair c a) 0x13 s))) 1) s

/-- STX (R272): a span of registers to memory. -/
def execStx (z : Bool) (d a : BitVec 7) (_h : BitVec 2) (n _l : BitVec 4) (s : State) : Out :=
  issueWord z (fun _ => { maj := 0x13, opds := [rdSpan d (n.toNat + 1), rdAddr a] }) idleWord
    (stxBody d a (n.toNat + 1)) s

/-! ## ATOM (R273, R274) -/

/-- Scope codes 0, 6 and 7 are reserved in ATOM and FUT. -/
def badScope (c : BitVec 3) : Bool := c == 0#3 || c == 6#3 || c == 7#3

/-- What an operation at a scope reads (R248): the cores inside the scope share what they see. -/
def scopeView (core scope : Nat) : View := if scope ≤ 3 then .core core else if scope = 4 then .device else .system

/-- A peer address in a word whose scope is not SYSTEM (R274). -/
def peerScope (s : State) (w : Wave) (scope : Nat) (r : Req) : Bool :=
  match spaceOf (kgetD {} s.partitions w.partition) r.ea with
  | .peer _ => decide (scope ≠ 5)
  | _ => false

/-- Some piece lies in a replicated page: the scope is DEVICE at least (R256). -/
def pieceScope (scope : Nat) (ps : Places) : Nat :=
  if ps.any fun x => match x.2.2 with | .byte _ _ _ r => r | .empty => false then max 4 scope else scope

/-- The scope at which a lane's atomic or future acts: local space has the core's L1 as its point (R274). -/
def laneScope (s : State) (w : Wave) (scope ea : Nat) : Nat :=
  match spaceOf (kgetD {} s.partitions w.partition) ea with
  | .loc _ => 1
  | _ => scope

/-- An access lies in an empty page. -/
def placesEmpty (ps : Places) : Bool := ps.any fun x => decide (x.2.2 = .empty)

/-- One step at a scope's point (R254): the own stores of the core reach it, the bytes are read, and `f` gives the bytes to write,
if any, at an offset. The old bytes are returned. -/
def atomStep (core scope : Nat) (ps : Places) (f : List Byte → Option (List Byte)) (s : State) : State × List Byte :=
  let sc := pieceScope scope ps
  let s := ps.foldl (syncPiece core sc) s
  let old := readPlaces s (scopeView core sc) ps
  match f old with
  | some bs => (ps.foldl (writePieceAt core sc bs) s, old)
  | none => (s, old)

/-- The new value of ATOM op `op` on patterns of `w` bits (R273): `d` the operand, `v` the swap value of CAS. -/
def atomNew (op w rnd : Nat) (ftz : Bool) (o d v : Nat) : Nat :=
  let m := if w = 64 then fmtF64 else fmtF32
  match op with
  | 0 => (o + d) % 2 ^ w
  | 1 => if sintOf w d < sintOf w o then d else o
  | 2 => if sintOf w o < sintOf w d then d else o
  | 3 => min o d
  | 4 => max o d
  | 5 => Nat.land o d
  | 6 => Nat.lor o d
  | 7 => Nat.xor o d
  | 8 => d
  | 9 => if o = d then v else o
  | 10 => faluRes 0 m rnd ftz o d 0
  | 11 => if d ≤ o then 0 else o + 1
  | _ => faluRes 3 m rnd ftz o d 0

/-- The element types that an op accepts (R273). -/
def atomEt (op et : Nat) : Bool :=
  let int := et == 0 || et == 1 || et == 2 || et == 4 || et == 5
  let flt := et == 3 || et == 6
  if op = 8 ∨ op = 9 then int || flt else if op = 10 ∨ op = 12 then flt else int

/-- The checks of ATOM. -/
def atomSig (op : Nat) (d a : BitVec 7) (sc : BitVec 3) (c : Ctx) : Sig :=
  let w := etWide c.et
  { maj := 0x18, badField := badScope sc, badMode := !atomEt op c.et,
    opds := [if op = 9 then { rdSpan d (if w then 4 else 2) with dst := true, even := w } else rw_ w d, rdAddr a] }

/-- Registers `i` and `i+1`, or `i`, of a span as a number. -/
def spanNat (c : Ctx) (wide : Bool) (d : BitVec 7) (i l : Nat) : Nat :=
  if wide then (c.readAt d i l).toNat + 2 ^ 32 * (c.readAt d (i + 1) l).toNat else (c.readAt d i l).toNat

/-- The operand of a lane. -/
def atomOpd (c : Ctx) (op : Nat) (d : BitVec 7) (l : Nat) : Nat :=
  if op = 9 then spanNat c (etWide c.et) d 0 l else c.readNat (etWide c.et) (decide (c.et = 6)) d l

/-- The lanes in increasing order, each in one step (R246, R274): the old values. -/
def atomLanes (c : Ctx) (op : Nat) (d : BitVec 7) (scope : Nat → Nat) : State → List (Nat × Places) → State × List (Nat × Nat)
  | s, [] => (s, [])
  | s, x :: xs =>
    let w := etWidth c.et
    let r := atomStep (coreOf c.key) (scope x.1) x.2 (fun o =>
      some (bytesOfNat (w / 8) (atomNew op w c.rnd c.ftz (natOfBytes o) (atomOpd c op d x.1)
        (spanNat c (etWide c.et) d (w / 32) x.1)))) s
    let t := atomLanes c op d scope r.1 xs
    (t.1, (x.1, natOfBytes r.2) :: t.2)

/-- The effect of ATOM. -/
def atomBody (op : Nat) (d a : BitVec 7) (sc : BitVec 3) (la : BitVec 4) (c : Ctx) (s : State) : Res :=
  let n := etWidth c.et / 8
  memWord c (laneReqs c (eaPair c a) n) n accAtomic (peerScope s c.w sc.toNat) (fun s ps =>
    poisonRes s ps (
      let r := atomLanes c op d (fun l => laneScope s c.w sc.toNat (eaPair c a l))
        (countEvent (coreOf c.key) 0x0B c.act.length c.w.ctx (readsFirst c ps s)) ps
      .fall (writeLater c d la.toNat (fun l => wordsOf (etWide c.et) (kgetD 0 r.2 l)) (sampled c (eaPair c a) 0x18 r.1)) 1)) s

/-- An ATOM word. -/
def execAtom (op : Nat) (z : Bool) (d a : BitVec 7) (sc : BitVec 3) (la : BitVec 4) (s : State) : Out :=
  issueWord z (atomSig op d a sc) idleWord (atomBody op d a sc la) s

/-- ATOM.ADD (R273): the sum modulo 2^w. -/
def execAtomAdd (z : Bool) (d a : BitVec 7) (c : BitVec 3) (l : BitVec 4) (s : State) : Out := execAtom 0 z d a c l s

/-- ATOM.MIN (R273): the lesser, signed. -/
def execAtomMin (z : Bool) (d a : BitVec 7) (c : BitVec 3) (l : BitVec 4) (s : State) : Out := execAtom 1 z d a c l s

/-- ATOM.MAX (R273): the greater, signed. -/
def execAtomMax (z : Bool) (d a : BitVec 7) (c : BitVec 3) (l : BitVec 4) (s : State) : Out := execAtom 2 z d a c l s

/-- ATOM.MINN (R273): the lesser, unsigned. -/
def execAtomMinn (z : Bool) (d a : BitVec 7) (c : BitVec 3) (l : BitVec 4) (s : State) : Out := execAtom 3 z d a c l s

/-- ATOM.MAXN (R273): the greater, unsigned. -/
def execAtomMaxn (z : Bool) (d a : BitVec 7) (c : BitVec 3) (l : BitVec 4) (s : State) : Out := execAtom 4 z d a c l s

/-- ATOM.AND (R273). -/
def execAtomAnd (z : Bool) (d a : BitVec 7) (c : BitVec 3) (l : BitVec 4) (s : State) : Out := execAtom 5 z d a c l s

/-- ATOM.OR (R273). -/
def execAtomOr (z : Bool) (d a : BitVec 7) (c : BitVec 3) (l : BitVec 4) (s : State) : Out := execAtom 6 z d a c l s

/-- ATOM.XOR (R273). -/
def execAtomXor (z : Bool) (d a : BitVec 7) (c : BitVec 3) (l : BitVec 4) (s : State) : Out := execAtom 7 z d a c l s

/-- ATOM.XCHG (R273): the operand. -/
def execAtomXchg (z : Bool) (d a : BitVec 7) (c : BitVec 3) (l : BitVec 4) (s : State) : Out := execAtom 8 z d a c l s

/-- ATOM.CAS (R273): compare and swap. -/
def execAtomCas (z : Bool) (d a : BitVec 7) (c : BitVec 3) (l : BitVec 4) (s : State) : Out := execAtom 9 z d a c l s

/-- ATOM.FADD (R273): the floating sum. -/
def execAtomFadd (z : Bool) (d a : BitVec 7) (c : BitVec 3) (l : BitVec 4) (s : State) : Out := execAtom 10 z d a c l s

/-- ATOM.INCW (R273): increment with wrap. -/
def execAtomIncw (z : Bool) (d a : BitVec 7) (c : BitVec 3) (l : BitVec 4) (s : State) : Out := execAtom 11 z d a c l s

/-- ATOM.FMIN (R273): the floating lesser. -/
def execAtomFmin (z : Bool) (d a : BitVec 7) (c : BitVec 3) (l : BitVec 4) (s : State) : Out := execAtom 12 z d a c l s

/-! ## FUT (R275 to R278) -/

/-- The tag of a cell is full. -/
def cellFull (bs : List Byte) : Bool := (bs.getD 8 0#8).getLsbD 0

/-- The value of a cell as two words. -/
def cellValue (bs : List Byte) : List Word := words64 (BitVec.ofNat 64 (natOfBytes (bs.take 8)))

/-- A full cell (R275). -/
def fullCell (v scope : Nat) : List Byte := bytesOfNat 8 v ++ [1#8, BitVec.ofNat 8 scope] ++ bytesOfNat 6 0

/-- A cell with its tag emptied, its SCOPE set if given, its value as before and its last bytes zero (R275). -/
def emptied (scope : Option Nat) (bs : List Byte) : List Byte :=
  bs.take 8 ++ [0#8, match scope with | some x => BitVec.ofNat 8 x | none => bs.getD 9 0#8] ++ bytesOfNat 6 0

/-- Fill a cell if it is empty, after the release of R257: whether it was. On an empty page the fill is discarded (R380). -/
def fillCell (core scope v : Nat) (ps : Places) (s : State) : State × Bool :=
  let r := atomStep core scope ps (fun _ => none) s
  if cellFull r.2 then (s, false)
  else ((atomStep core scope ps (fun _ => some (fullCell v scope)) (physRelease s core (pieceScope scope ps))).1, true)

/-- Take a cell's value if it is full, with the acquire of R257. -/
def takeCell (core scope : Nat) (ps : Places) (s : State) : State × Option (List Word) :=
  let r := atomStep core scope ps (fun b => if cellFull b then some (emptied none b) else none) s
  if cellFull r.2 then (physAcquire r.1 core (pieceScope scope ps), some (cellValue r.2)) else (r.1, none)

/-- The register that a span code names in a lane, plus `i`. -/
def spanReg (c : Ctx) (d : BitVec 7) (i l : Nat) : Nat := regNum c.w d l + i

/-- A cell's access: 16 bytes, aligned to 16 (R275). The fence of a future, and its write, come after what the part's loads have still to
read (R251). -/
def futWord (c : Ctx) (a : BitVec 7) (sc : BitVec 3) (x : Acc) (k : State → List (Nat × Places) → Res) (s : State) : Res :=
  memWord c (laneReqs c (eaPair c a) 16) 16 x (peerScope s c.w sc.toNat)
    (fun s ps => poisonRes s ps (k ((sampled c (eaPair c a) 0x19 s).modPart c.key c.q performReads) ps)) s

/-- The scope of a lane's future. -/
def futScope (c : Ctx) (a : BitVec 7) (sc : BitVec 3) (s : State) (l : Nat) : Nat := laneScope s c.w sc.toNat (eaPair c a l)

/-- The checks of a FUT word: `n` registers of D read, `m` in the whole span. -/
def futSig (d a : BitVec 7) (sc : BitVec 3) (n m : Nat) (_ : Ctx) : Sig :=
  { maj := 0x19, badField := badScope sc,
    opds := (if n = 0 then [] else [{ rdSpan d n with even := true }]) ++ (if n = m then [] else [{ wrSpan d m with even := true }]) ++
      [rdAddr a] }

/-- FPUT lane by lane: the statuses. -/
def fputLanes (c : Ctx) (d : BitVec 7) (scope : Nat → Nat) : State → List (Nat × Places) → State × List (Nat × Nat × Word)
  | s, [] => (s, [])
  | s, x :: xs =>
    let r := fillCell (coreOf c.key) (scope x.1) (spanNat c true d 0 x.1) x.2 s
    let t := fputLanes c d scope r.1 xs
    (t.1, (x.1, spanReg c d 2 x.1, if r.2 then 0#32 else 1#32) :: t.2)

/-- The effect of FPUT. -/
def fputBody (d a : BitVec 7) (sc : BitVec 3) (la : BitVec 4) (c : Ctx) (s : State) : Res :=
  futWord c a sc accAtomic (fun s ps =>
    let r := fputLanes c d (futScope c a sc s) s ps
    .fall (issuePend c la.toNat r.2 [] r.1) 1) s

/-- FPUT (R276): fills an empty cell, with a status. -/
def execFput (z : Bool) (d a : BitVec 7) (c : BitVec 3) (l : BitVec 4) (s : State) : Out :=
  issueWord z (futSig d a c 2 3) idleWord (fputBody d a c l) s

/-- FPUT.T lane by lane, up to the first full cell (R277): that lane, if any. -/
def fputTLanes (c : Ctx) (d : BitVec 7) (scope : Nat → Nat) : State → List (Nat × Places) → State × Option Nat
  | s, [] => (s, none)
  | s, x :: xs =>
    let r := fillCell (coreOf c.key) (scope x.1) (spanNat c true d 0 x.1) x.2 s
    if r.2 then fputTLanes c d scope r.1 xs else (r.1, some x.1)

/-- The effect of FPUT.T. -/
def fputTBody (d a : BitVec 7) (sc : BitVec 3) (c : Ctx) (s : State) : Res :=
  futWord c a sc accAtomic (fun s ps =>
    match fputTLanes c d (futScope c a sc s) s ps with
    | (s, none) => .fall s 1
    | (s, some l) => .trap s { cause := 0x11, info := BitVec.ofNat 32 l, addr := some (BitVec.ofNat 64 (eaPair c a l)) }) s

/-- FPUT.T (R277): fills empty cells, or raises FUTFULL at the first full one. -/
def execFputT (z : Bool) (d a : BitVec 7) (c : BitVec 3) (_l : BitVec 4) (s : State) : Out :=
  issueWord z (futSig d a c 2 2) idleWord (fputTBody d a c) s

/-- FTAKE lane by lane (R278): the values taken, and the lanes that sleep, whose registers count as pending. -/
def ftakeLanes (c : Ctx) (d a : BitVec 7) (scope : Nat → Nat) :
    State → List (Nat × Places) → State × List (Nat × Nat × Word) × List Sleeper
  | s, [] => (s, [], [])
  | s, x :: xs =>
    let r := takeCell (coreOf c.key) (scope x.1) x.2 s
    let t := ftakeLanes c d a scope r.1 xs
    let ws := r.2.getD [0#32, 0#32]
    (t.1, ws.zipIdx.map (fun y => (x.1, spanReg c d y.2 x.1, y.1)) ++ t.2.1,
      if r.2.isSome then t.2.2
      else { lane := x.1, reg := spanReg c d 0 x.1, ea := eaPair c a x.1, places := x.2, scope := scope x.1 } :: t.2.2)

/-- The effect of FTAKE: with a sleeping lane the word ends in a wait, so its run ends and every window of the part closes (R54,
R62); the destination stays pending on the scoreboard (log 24). -/
def ftakeBody (d a : BitVec 7) (sc : BitVec 3) (la : BitVec 4) (c : Ctx) (s : State) : Res :=
  futWord c a sc accAtomic (fun s ps =>
    match ftakeLanes c d a (futScope c a sc s) s ps with
    | (s, vals, []) => .fall (issuePend c la.toNat vals [] s) 1
    | (s, vals, sl) => .custom (fallThrough c (issuePend c 0 vals sl (closeWindows c.key c.q s))) 2) s

/-- FTAKE (R278): takes a value, sleeping while the cell is empty. -/
def execFtake (z : Bool) (d a : BitVec 7) (c : BitVec 3) (l : BitVec 4) (s : State) : Out :=
  issueWord z (futSig d a c 0 2) idleWord (ftakeBody d a c l) s

/-- FTAKE.N lane by lane. -/
def ftakeNLanes (c : Ctx) (d : BitVec 7) (scope : Nat → Nat) : State → List (Nat × Places) → State × List (Nat × Nat × Word)
  | s, [] => (s, [])
  | s, x :: xs =>
    let r := takeCell (coreOf c.key) (scope x.1) x.2 s
    let t := ftakeNLanes c d scope r.1 xs
    let ws := match r.2 with
      | some ws => ws.zipIdx.map (fun y => (x.1, spanReg c d y.2 x.1, y.1)) ++ [(x.1, spanReg c d 2 x.1, 0#32)]
      | none => [(x.1, spanReg c d 2 x.1, 1#32)]
    (t.1, ws ++ t.2)

/-- The effect of FTAKE.N. -/
def ftakeNBody (d a : BitVec 7) (sc : BitVec 3) (la : BitVec 4) (c : Ctx) (s : State) : Res :=
  futWord c a sc accAtomic (fun s ps =>
    let r := ftakeNLanes c d (futScope c a sc s) s ps
    .fall (issuePend c la.toNat r.2 [] r.1) 1) s

/-- FTAKE.N (R276): takes a value if the cell is full, with a status. -/
def execFtakeN (z : Bool) (d a : BitVec 7) (c : BitVec 3) (l : BitVec 4) (s : State) : Out :=
  issueWord z (futSig d a c 0 3) idleWord (ftakeNBody d a c l) s

/-- The effect of FPEEK. -/
def fpeekBody (d a : BitVec 7) (sc : BitVec 3) (la : BitVec 4) (c : Ctx) (s : State) : Res :=
  futWord c a sc accPeek (fun s ps =>
    let vals := ps.flatMap fun x =>
      let bs := (atomStep (coreOf c.key) (futScope c a sc s x.1) x.2 (fun _ => none) s).2
      (cellValue bs ++ [if cellFull bs then 1#32 else 0#32]).zipIdx.map fun y => (x.1, spanReg c d y.2 x.1, y.1)
    .fall (issuePend c la.toNat vals [] s) 1) s

/-- FPEEK (R276): value and tag, the cell unchanged. -/
def execFpeek (z : Bool) (d a : BitVec 7) (c : BitVec 3) (l : BitVec 4) (s : State) : Out :=
  issueWord z (futSig d a c 0 3) idleWord (fpeekBody d a c l) s

/-- The effect of FCLR: an atomic write of the empty tag, without a release (R257). -/
def fclrBody (a : BitVec 7) (sc : BitVec 3) (c : Ctx) (s : State) : Res :=
  futWord c a sc accAtomic (fun s ps =>
    .fall (ps.foldl (fun s x =>
      (atomStep (coreOf c.key) (futScope c a sc s x.1) x.2 (fun b => some (emptied (some sc.toNat) b)) s).1) s) 1) s

/-- FCLR (R276): marks the cell empty. -/
def execFclr (z : Bool) (a : BitVec 7) (c : BitVec 3) (_l : BitVec 4) (s : State) : Out :=
  issueWord z (futSig 0#7 a c 0 0) idleWord (fclrBody a c) s

/-! ## Landing (R61, R249, R278) -/

/-- Take a ticket of an order word at its DEVICE point, unless the table of tickets is full (R369). -/
def takeTicket (core : Nat) (ps : Places) (s : State) : State × Option (List Word) :=
  let full := fun (b : List Byte) => decide (32767 ≤ (numAt b 0 2 + 65536 - numAt b 2 2) % 65536)
  let r := atomStep core 4 ps (fun b => if full b then none else some (bytesOfNat 2 (numAt b 0 2 + 1) ++ b.drop 2)) s
  (r.1, if full r.2 then none else some [BitVec.ofNat 32 (numAt r.2 0 2)])

/-- What a sleeping lane takes, if it is there. -/
def takeFor (core : Nat) (x : Sleeper) (s : State) : State × Option (List Word) :=
  if x.ticket then takeTicket core x.places s else takeCell core x.scope x.places s

/-- Sleeping lanes of a quad take their values where they can (R278); tickets are taken in lane order (R369): what is taken, and the
lanes that sleep on. -/
def wakeSleepers (core quad : Nat) : State → List Sleeper → State × List (Nat × Nat × Word) × List Sleeper
  | s, [] => (s, [], [])
  | s, x :: xs =>
    if x.lane / 4 ≠ quad ∧ x.ticket then (s, [], x :: xs)
    else if x.lane / 4 ≠ quad then
      let t := wakeSleepers core quad s xs
      (t.1, t.2.1, x :: t.2.2)
    else
      match takeFor core x s with
      | (s, some ws) =>
        let t := wakeSleepers core quad s xs
        (t.1, ws.zipIdx.map (fun y => (x.lane, x.reg + y.2, y.1)) ++ t.2.1, t.2.2)
      | (s, none) =>
        let t := if x.ticket then (s, [], xs) else wakeSleepers core quad s xs
        (t.1, t.2.1, x :: t.2.2)

/-- The value that a taken lane's register receives. -/
def takenVal (taken : List (Nat × Nat × Word)) (v : Nat × Nat × Word) : Nat × Nat × Word :=
  match taken.find? fun t => decide (t.1 = v.1) && decide (t.2.1 = v.2.1) with
  | some t => t
  | none => v

/-- A quad's values of a writeback may land in a part: the window is closed, and nothing keeps them. -/
def mayLand (quad : Nat) (x : Pend) : Bool :=
  x.isLoad && decide (x.window = 0) && x.after.isEmpty && x.trav.isNone && !(x.lanes.any fun l => decide (l / 4 = quad)) &&
  !(x.sleepers.any fun k => decide (k.lane / 4 = quad))

/-- Land a quad of a writeback in every part that holds it. -/
def landQuad (id quad : Nat) (w : Wave) (q : Nat) : Wave :=
  match partAt w.parts q with
  | none => w
  | some p =>
    match p.pend.find? (fun x => decide (x.id = id) && mayLand quad x) with
    | none => w
    | some x =>
      let mine := fun (v : Nat × Nat × Word) => decide (v.1 / 4 = quad)
      let here := decide (x.ulane / 4 = quad)
      let uvals := if here then x.uvals else []
      let rest : Pend :=
        { x with
          vals := x.vals.filter fun v => !mine v, uvals := if here then [] else x.uvals,
          reads := x.reads.filter fun r => decide (r.lane / 4 ≠ quad) }
      let p := { landUvals x.bq x.bn p uvals with
        pend := (p.pend.map fun y => if y.id = id then rest else y).filter fun y => !(decide (y.id = id) && y.empty) }
      let p := overwrite id (x.vals.filter mine) uvals (settleReads id (x.reads.filter fun r => decide (r.lane / 4 = quad)) p)
      { landVals w (x.vals.filter mine) with parts := partMod (fun _ => p) w.parts q }

/-- Sleeping lanes of one part's writeback try to take their values. -/
def wakePend (key q id quad : Nat) (s : State) : State :=
  match (s.part key q).bind fun p => p.pend.find? (·.id = id) with
  | none => s
  | some x =>
    if x.sleepers.isEmpty then s
    else
      let r := wakeSleepers (coreOf key) quad s x.sleepers
      r.1.modPart key q fun p =>
        { p with
          pend := p.pend.map fun y =>
            if y.id = id then { y with sleepers := r.2.2, vals := y.vals.map (takenVal r.2.1) } else y }

/-- Returned data of a quad lands in its destination (R61), once the window is closed; a sleeping lane first takes its value, unless it is
halted to be saved or its partition is swapped out (R278). Nothing lands in a shadow slot. -/
def landLoad (key id quad : Nat) (s : State) : State :=
  match kget s.waves key with
  | none => s
  | some w =>
    let swap := (kgetD {} s.partitions w.partition).swap
    let s := w.parts.foldl (fun s p => if decide (swap < 2) && !p.halted then wakePend key p.q id quad s else s) s
    if swap = 3 then s else s.modWave key fun w => w.parts.foldl (fun w p => landQuad id quad w p.q) w

/-- New values for the words of a lane, in their order. -/
def replaceVals (lane : Nat) : List Word → List (Nat × Nat × Word) → List (Nat × Nat × Word)
  | _, [] => []
  | [], vs => vs
  | x :: xs, v :: vs => if v.1 = lane then (lane, v.2.1, x) :: replaceVals lane xs vs else v :: replaceVals lane (x :: xs) vs

/-- A pending load of a part performs a lane's read now (R250): before it the lane's earlier reads of those bytes are performed. -/
def sampleRead (key q id lane : Nat) (s : State) : State :=
  match (s.part key q).bind fun p => p.pend.find? (·.id = id) with
  | none => s
  | some x =>
    match x.reads.find? (·.lane = lane) with
    | none => s
    | some r =>
      let ws := r.conv.apply (loadPlaces s (coreOf key) r.places)
      s.modPart key q fun p =>
        settleReads id [r]
          { p with
            pend := p.pend.map fun y =>
              if y.id = id then { y with vals := replaceVals lane ws y.vals, reads := y.reads.filter (·.lane ≠ lane) } else y }

/-- LOAD_WRITEBACK (R61, R278): the data of a quad returns. -/
def execLoadWriteback (wave id quad : Nat) (s : State) : Out := .next (landLoad wave id quad s)

/-- WRITE_PERFORMED (R249): a plain store, and what must come before it, is performed at a wider scope. -/
def execWritePerformed (id scope : Nat) (s : State) : Out := .next (performStores s (fun x => decide (x.id = id)) scope)

end Sys2Proof.Machine
end

