-- ==== Sys2Proof/Machine/Caches.lean ====
section
/-! DEFINITION. FENCE (R279, R280), CACHE (R236, R237, R281 to R283), SPACE (R284), and peer stores (R261, R285). -/

namespace Sys2Proof.Machine

/-! ## Engine operations of a part (R260) -/

/-- An engine operation is complete: no part waits for it any more. -/
def engineDone (id : Nat) (s : State) : State :=
  let f := fun (w : Wave) => { w with parts := w.parts.map fun p => { p with engines := p.engines.filter (· ≠ id) } }
  { s with
    waves := kmap (fun _ w => f w) s.waves,
    parked := kmap (fun _ x => { x with waves := x.waves.map f }) s.parked }

/-- A part issues an engine operation: a fork, which comes after what the part's loads have still to read (R260). -/
def engineIssued (c : Ctx) (ids : List Nat) (s : State) : State :=
  s.modPart c.key c.q fun p => performReads { p with engines := p.engines ++ ids }

/-! ## FENCE (R251, R280) -/

/-- A scope code above SYSTEM is reserved (R279). -/
def fenceSig (sc : BitVec 3) (_ : Ctx) : Sig := { maj := 0x1A, badField := decide (6 ≤ sc.toNat) }

/-- The sides of a fence at a scope by a core (R251): a release performs every write that the part can have observed, an acquire leaves later
loads no older copy, and with the engine bit a fence is the join of the part's engine operations (R260). -/
def fenceSides (acq rel : Bool) (core scope : Nat) (s : State) : State :=
  let s := if rel then physRelease s core scope else s
  if acq then physAcquire s core scope else s

/-- The effect of FENCE: no access of the part stays before it undone, neither a load's read nor an FTAKE that sleeps (R251, R278), and
with E no engine operation. -/
def fenceBody (acq rel : Bool) (e : BitVec 1) (sc : BitVec 3) (c : Ctx) (s : State) : Res :=
  if 6 ≤ sc.toNat then .fall s 1
  else if e = 1#1 ∧ !c.p.engines.isEmpty then .brk (.cond .engines)
  else
    afterTakes c (blockLanes c.p.q c.p.n)
      (.fall (fenceSides (acq || decide (e = 1#1)) rel (coreOf c.key) sc.toNat (s.modPart c.key c.q performReads)) 1)

/-- A FENCE word: it acts with and without active lanes (R280). -/
def execFence (acq rel z : Bool) (e : BitVec 1) (sc : BitVec 3) (s : State) : Out :=
  issueWord z (fenceSig sc) (fenceBody acq rel e sc) (fenceBody acq rel e sc) s

/-- FENCE.ACQ (R251). -/
def execFenceAcq (z : Bool) (e : BitVec 1) (c : BitVec 3) (s : State) : Out := execFence true false z e c s

/-- FENCE.REL (R251). -/
def execFenceRel (z : Bool) (e : BitVec 1) (c : BitVec 3) (s : State) : Out := execFence false true z e c s

/-- FENCE.AR (R251): both sides. -/
def execFenceAr (z : Bool) (e : BitVec 1) (c : BitVec 3) (s : State) : Out := execFence true true z e c s

/-- FENCE.SC (R251, R253): AR; the order in which SC fences issue is their total order. -/
def execFenceSc (z : Bool) (e : BitVec 1) (c : BitVec 3) (s : State) : Out := execFence true true z e c s

/-! ## Lines (R231, R233, R236) -/

/-- The line that an access of one byte names: its memory, the address of its first byte, whether its page is replicated. -/
def lineOf (ps : Places) : Option (Mem × Nat × Bool) :=
  match ps with
  | (_, _, .byte m a _ r) :: _ => some (m, a / 128 * 128, r)
  | _ => none

/-- A line as one number, for the lock tables: the memories lie a whole number of passes over the slices and sets apart (R233). -/
def lineId (m : Mem) (a : Nat) : Nat := (match m with | .hbm => 0 | .host => 1 | .peer => 2 | .spad => 3) * (3 * 2 ^ 60) + a / 128

/-- The core whose L1 holds a line (R232). -/
def l1Place (s : State) (core a : Nat) : Nat :=
  if s.fused.contains (clusterOf core) then clusterOf core * 4 + bitsOf a 8 7 else core

/-- The set of the L1 that a line falls in (log 25). -/
def l1Set (s : State) (core line : Nat) : Nat := (if s.fused.contains (clusterOf core) then line / 4 else line) % 256

/-- The slice and set of an L2 that a line falls in (R233, log 25). -/
def l2Set (line : Nat) : Nat := line % (48 * 2048)

/-- Lines locked among the entries that a choice accepts: a line that several contexts lock counts once. -/
def lockedLines (ks : List Lock) (f : Lock → Bool) : Nat := ((ks.filter f).map (·.line)).eraseDups.length

/-- A lock of an L2: place 2 stands for both dies (R236). -/
def inL2 (die : Nat) (k : Lock) : Bool := decide (k.place = die) || decide (k.place = 2)

/-- CLOCK1 of one line (R236): the status (R282). -/
def lockL1 (core ctx : Nat) (m : Mem) (a : Nat) (repl : Bool) (s : State) : State × Nat :=
  let line := lineId m a
  let place := l1Place s core a
  let here := fun (k : Lock) => decide (k.place = place)
  if m = .peer ∨ repl then (s, 1)
  else if s.l1Locks.any fun k => here k && decide (k.line = line) && decide (k.ctx = ctx) then (s, 0)
  else if !(s.l1Locks.any fun k => here k && decide (k.line = line)) &&
      decide (7 ≤ lockedLines s.l1Locks fun k => here k && decide (l1Set s core k.line = l1Set s core line)) then (s, 1)
  else ({ s with l1Locks := s.l1Locks ++ [{ place := place, ctx := ctx, line := line }] }, 0)

/-- The set of a line in the L2 of a die is full: its locked ways stand at the limit (R236). -/
def l2Full (s : State) (die line : Nat) : Bool :=
  decide (14 ≤ lockedLines s.l2Locks fun k => inL2 die k && decide (l2Set k.line = l2Set line))

/-- A lock of a line would raise the locked ways of its set above the limit: a line that another context has locked raises nothing. -/
def l2Raises (s : State) (die line : Nat) : Bool :=
  !(s.l2Locks.any fun k => inL2 die k && decide (k.line = line)) && l2Full s die line

/-- CLOCK2 of one line (R236): the status (R282). -/
def lockL2 (die ctx quota : Nat) (m : Mem) (a : Nat) (repl : Bool) (s : State) : State × Nat :=
  let line := lineId m a
  if s.l2Locks.any fun k => inL2 die k && decide (k.line = line) && decide (k.ctx = ctx) then (s, 0)
  else if (if repl then l2Full s 0 line || l2Full s 1 line else l2Raises s die line) then (s, 1)
  else if quota < (s.l2Locks.filter fun k => decide (k.ctx = ctx)).length + 1 then (s, 2)
  else ({ s with l2Locks := s.l2Locks ++ [{ place := if repl then 2 else die, ctx := ctx, line := line }] }, 0)

/-- A lock of both dies that ends in one (R237). -/
def unlockDie (die : Nat) (k : Lock) : Option Lock :=
  if k.place = 2 then some { k with place := 1 - die } else if k.place = die then none else some k

/-- Every lock of a line in an L1 and in a die's L2 ends (R237). -/
def endLocks (core : Nat) (m : Mem) (a : Nat) (s : State) : State :=
  let line := lineId m a
  { s with
    l1Locks := s.l1Locks.filter fun k => !(decide (k.line = line) && decide (k.place = l1Place s core a)),
    l2Locks := s.l2Locks.filterMap fun k => if k.line = line then unlockDie (dieOf core) k else some k }

/-- The bytes of a store as single bytes, without those that a choice drops. -/
def splitStore (drop : Nat → Bool) (x : Store) : List Store :=
  (x.bytes.zipIdx.filter fun b => !drop (x.addr + b.2)).map fun b => { x with addr := x.addr + b.2, bytes := [b.1] }

/-- CINV of a line (R283): each byte that has not reached the last-level cache is discarded or kept, a free choice per byte. -/
def discardLine (core : Nat) (m : Mem) (a : Nat) (s : State) : State :=
  let drop := fun k => decide (a ≤ k) && decide (k < a + 128) && (Config.freeByte (s.fresh + (k - a))).getLsbD 0
  { s with
    fresh := s.fresh + 128,
    stores := s.stores.flatMap fun x =>
      if x.overlaps m a 128 && decide (dieOf x.core = dieOf core) && decide (x.scope < 4) then splitStore drop x else [x] }

/-! ## CACHE (R281 to R283) -/

/-- The effect of PREF and PREF2: a translation that succeeds is cached, and nothing else changes (R283). -/
def prefBody (a : BitVec 7) (c : Ctx) (s : State) : Res :=
  .fall (sampled c (eaPair c a) 0x1B (c.act.foldl (fun s l =>
    match piecesOf s c.w l (eaPair c a l) 1 with
    | some ({ off := _, n := _, dest := .va v } :: _) => (xlate s (partyOf c.w) accRead v).1
    | _ => s) s)) 1

/-- The checks of a CACHE word. -/
def cacheSig (opds : List Opd) (_ : Ctx) : Sig := { maj := 0x1B, opds := opds }

/-- PREF (R283): a prefetch to the L1 and the L2. -/
def execPref (z : Bool) (a : BitVec 7) (_l : BitVec 4) (s : State) : Out :=
  issueWord z (cacheSig [rdAddr a]) idleWord (prefBody a) s

/-- PREF2 (R283): a prefetch to the L2. -/
def execPref2 (z : Bool) (a : BitVec 7) (_l : BitVec 4) (s : State) : Out :=
  issueWord z (cacheSig [rdAddr a]) idleWord (prefBody a) s

/-- A lane's line goes through an operation; a lane in shared or cluster space, or on an empty page, does not. -/
def lineLanes (f : Mem → Nat → Bool → State → State) (ps : List (Nat × Places)) (s : State) : State :=
  ps.foldl (fun s x =>
    match lineOf x.2 with
    | some (m, a, r) => if m = .spad then s else f m a r s
    | none => s) s

/-- The locks lane by lane: the statuses. A line of an empty page is in no cache, and the spec states no status for it: a free
value (R380, log 25). -/
def clockLanes (f : Mem → Nat → Bool → State → State × Nat) : State → List (Nat × Places) → State × List (Nat × Word)
  | s, [] => (s, [])
  | s, x :: xs =>
    let r : State × Word := match lineOf x.2 with
      | some (m, a, rp) => if m = .spad then (s, 3#32) else let y := f m a rp s; (y.1, BitVec.ofNat 32 y.2)
      | none => ({ s with fresh := s.fresh + 1 }, Config.freeWord s.fresh)
    let t := clockLanes f r.1 xs
    (t.1, (x.1, r.2) :: t.2)

/-- The effect of CLOCK1 and CLOCK2. -/
def clockBody (f : Ctx → Mem → Nat → Bool → State → State × Nat) (d a : BitVec 7) (la : BitVec 4) (c : Ctx) (s : State) : Res :=
  memWord c (laneReqs c (eaPair c a) 1) 1 accRead noExtra (fun s ps =>
    let r := clockLanes (f c) (sampled c (eaPair c a) 0x1B s) ps
    .fall (writeLater c d la.toNat (fun l => [kgetD 0#32 r.2 l]) r.1) 1) s

/-- The context's key of a word. -/
def Ctx.ctxKey (c : Ctx) : Nat := Sys2Proof.Machine.ctxKey c.w.partition c.w.ctx

/-- CLOCK1 (R236, R282): locks a line in the L1. -/
def execClock1 (z : Bool) (d a : BitVec 7) (l : BitVec 4) (s : State) : Out :=
  issueWord z (cacheSig [wr d, rdAddr a]) idleWord
    (clockBody (fun c m x r s => lockL1 (coreOf c.key) c.ctxKey m x r s) d a l) s

/-- CLOCK2 (R236, R282): locks a line in the L2. -/
def execClock2 (z : Bool) (d a : BitVec 7) (l : BitVec 4) (s : State) : Out :=
  issueWord z (cacheSig [wr d, rdAddr a]) idleWord
    (clockBody (fun c m x r s =>
      lockL2 (dieOf (coreOf c.key)) c.ctxKey (kgetD {} s.partitions c.w.partition).lkquota m x r s) d a l) s

/-- The effect of the other ops on a line. -/
def lineBody (x : Acc) (f : Ctx → Mem → Nat → Bool → State → State) (a : BitVec 7) (c : Ctx) (s : State) : Res :=
  memWord c (laneReqs c (eaPair c a) 1) 1 x noExtra (fun s ps =>
    .fall (lineLanes (f c) ps (sampled c (eaPair c a) 0x1B s)) 1) s

/-- The context's L1 lock of a line ends. -/
def unlockL1 (c : Ctx) (m : Mem) (a : Nat) (_ : Bool) (s : State) : State :=
  { s with
    l1Locks := s.l1Locks.filter fun k =>
      !(decide (k.line = lineId m a) && decide (k.ctx = c.ctxKey) && decide (k.place = l1Place s (coreOf c.key) a)) }

/-- The context's L2 lock of a line ends. -/
def unlockL2 (c : Ctx) (m : Mem) (a : Nat) (_ : Bool) (s : State) : State :=
  { s with
    l2Locks := s.l2Locks.filter fun k =>
      !(decide (k.line = lineId m a) && decide (k.ctx = c.ctxKey) && inL2 (dieOf (coreOf c.key)) k) }

/-- Dirty sectors of a line are written back from every cache (R281). -/
def writeBack (m : Mem) (a : Nat) (s : State) : State := performStores s (fun x => x.overlaps m a 128) 5

/-- CUNLK1 (R281): the context's L1 lock ends. -/
def execCunlk1 (z : Bool) (a : BitVec 7) (_l : BitVec 4) (s : State) : Out :=
  issueWord z (cacheSig [rdAddr a]) idleWord (lineBody accRead unlockL1 a) s

/-- CUNLK2 (R281): the context's L2 lock ends. -/
def execCunlk2 (z : Bool) (a : BitVec 7) (_l : BitVec 4) (s : State) : Out :=
  issueWord z (cacheSig [rdAddr a]) idleWord (lineBody accRead unlockL2 a) s

/-- CWB (R281): write back, copies stay. -/
def execCwb (z : Bool) (a : BitVec 7) (_l : BitVec 4) (s : State) : Out :=
  issueWord z (cacheSig [rdAddr a]) idleWord (lineBody accRead (fun _ m x _ s => writeBack m x s) a) s

/-- A line leaves the core's L1 and the die's L2: no copy of it stays there, and no lock (R237, R281). -/
def dropLine (core : Nat) (m : Mem) (a : Nat) (s : State) : State := dropStale (readsThrough s core) m a 128 (endLocks core m a s)

/-- CINV (R281, R283): the line is dropped, dirty sectors discarded. -/
def execCinv (z : Bool) (a : BitVec 7) (_l : BitVec 4) (s : State) : Out :=
  issueWord z (cacheSig [rdAddr a]) idleWord (lineBody accDrop (fun c m x _ s => dropLine (coreOf c.key) m x (discardLine (coreOf c.key) m x s)) a) s

/-- CWBINV (R281): write back, then drop. -/
def execCwbinv (z : Bool) (a : BitVec 7) (_l : BitVec 4) (s : State) : Out :=
  issueWord z (cacheSig [rdAddr a]) idleWord (lineBody accDrop (fun c m x _ s => dropLine (coreOf c.key) m x (writeBack m x s)) a) s

/-- The core's cached code of the context is discarded, and the quarter's buffered loop bodies of it (R64, R239). -/
def isyncBody (c : Ctx) (s : State) : Res :=
  .fall (dropBodies (fun qr b => decide (qr = quarterOf c.key) && decide (b.ctx = c.ctxKey))
    { s with icache := s.icache.filter fun b => !(decide (b.core = coreOf c.key) && decide (b.ctx = c.ctxKey)) }) 1

/-- ISYNC (R239, R283): it acts with and without active lanes. -/
def execIsync (z : Bool) (_l : BitVec 4) (s : State) : Out := issueWord z (cacheSig []) isyncBody isyncBody s

/-! ## SPACE (R284) -/

/-- The aperture base of a space: 0 local, 1 shared, 2 cluster. -/
def apertureOf (pt : Partition) (k : Nat) : Nat := if k = 0 then pt.aplocal else if k = 1 then pt.apshared else pt.apcluster

/-- The effect of TOGEN. -/
def togenBody (k : Nat) (d a : BitVec 7) (c : Ctx) (s : State) : Res :=
  let ap := apertureOf (kgetD {} s.partitions c.w.partition) k
  .fall (writeNat c true d (fun l => ap + (c.read a l).toNat) s) 1

/-- The effect of FROMGEN. -/
def fromgenBody (k : Nat) (d a : BitVec 7) (c : Ctx) (s : State) : Res :=
  let ap := apertureOf (kgetD {} s.partitions c.w.partition) k
  .fall (writeNat c false d (fun l =>
    let x := eaPair c a l
    if ap ≤ x ∧ x - ap < 2 ^ 32 then x - ap else 0xFFFFFFFF) s) 1

/-- A TOGEN word. -/
def execTogen (k : Nat) (z : Bool) (d a : BitVec 7) (s : State) : Out :=
  issueWord z (fun _ => { maj := 0x1F, opds := [wrW true d, rd a] }) idleWord (togenBody k d a) s

/-- A FROMGEN word. -/
def execFromgen (k : Nat) (z : Bool) (d a : BitVec 7) (s : State) : Out :=
  issueWord z (fun _ => { maj := 0x1F, opds := [wr d, rdAddr a] }) idleWord (fromgenBody k d a) s

/-- TOGEN.L (R284): a local offset as a generic address. -/
def execTogenL (z : Bool) (d a : BitVec 7) (s : State) : Out := execTogen 0 z d a s

/-- FROMGEN.L (R284): the local offset of a generic address. -/
def execFromgenL (z : Bool) (d a : BitVec 7) (s : State) : Out := execFromgen 0 z d a s

/-- TOGEN.S (R284): a shared offset as a generic address. -/
def execTogenS (z : Bool) (d a : BitVec 7) (s : State) : Out := execTogen 1 z d a s

/-- FROMGEN.S (R284): the shared offset of a generic address. -/
def execFromgenS (z : Bool) (d a : BitVec 7) (s : State) : Out := execFromgen 1 z d a s

/-- TOGEN.C (R284): a cluster offset as a generic address. -/
def execTogenC (z : Bool) (d a : BitVec 7) (s : State) : Out := execTogen 2 z d a s

/-- FROMGEN.C (R284): the cluster offset of a generic address. -/
def execFromgenC (z : Bool) (d a : BitVec 7) (s : State) : Out := execFromgen 2 z d a s

/-- ISSPC (R284): the space code of an address. -/
def execIsspc (z : Bool) (d a : BitVec 7) (s : State) : Out :=
  issueWord z (fun _ => { maj := 0x1F, opds := [wr d, rdAddr a] }) idleWord
    (fun c s => .fall (writeNat c false d (fun l =>
      (spaceOf (kgetD {} s.partitions c.w.partition) (eaPair c a l)).code) s) 1) s

/-! ## Peer stores (R261, R285) -/

/-- The address does not decode to peer space. -/
def notPeer (s : State) (w : Wave) (r : Req) : Bool :=
  match spaceOf (kgetD {} s.partitions w.partition) r.ea with
  | .peer _ => false
  | _ => true

/-- The pieces of the lanes with their devices, in lane order. -/
def astpPieces (c : Ctx) (d a : BitVec 7) (n : Nat) (ps : List (Nat × Places)) : List (Nat × Mem × Nat × Nat × List Byte) :=
  ps.flatMap fun x => x.2.filterMap fun y =>
    match y with
    | (off, k, .byte m addr tag _) =>
      some (bitsOf (eaPair c a x.1 + off) 53 46, m, addr, tag, ((bytesOfNat (4 * n) (natOfWords (c.readSpan d n x.1))).drop off).take k)
    | _ => none

/-- One entry for each device that a word's lanes name: the state and the identities. -/
def astpSend (c : Ctx) (ps : List (Nat × Mem × Nat × Nat × List Byte)) : State → List Nat → State × List Nat
  | s, [] => (s, [])
  | s, dev :: ds =>
    let x : Astp := { id := s.nextId, dev := dev, pieces := (ps.filter fun y => decide (y.1 = dev)).map (·.2),
                      partition := c.w.partition, grid := c.w.grid }
    let t := astpSend c ps { s with astps := s.astps ++ [x], nextId := s.nextId + 1 } ds
    (t.1, s.nextId :: t.2)

/-- The effect of ASTP: a fork, so a release at SYSTEM scope, and then the bytes are on their way (R260). -/
def astpBody (d a : BitVec 7) (n : Nat) (c : Ctx) (s : State) : Res :=
  releaseWord c (laneReqs c (eaPair c a) (4 * n)) 4 accPost (notPeer s c.w) (fun s ps =>
    let pcs := astpPieces c d a n ps
    let r := astpSend c pcs (physRelease (sampled c (eaPair c a) 0x1E s) (coreOf c.key) 5) (pcs.map (·.1)).eraseDups
    .fall (engineIssued c r.2 r.1) 1) s

/-- ASTP (R285): a span of registers to a peer device, without waiting. -/
def execAstp (z : Bool) (d a : BitVec 7) (n _l : BitVec 4) (s : State) : Out :=
  issueWord z (fun _ => { maj := 0x1E, opds := [rdSpan d (n.toNat + 1), rdAddr a] }) idleWord
    (astpBody d a (n.toNat + 1)) s

/-- A piece that no device of the domain can perform (R285). -/
def pieceLost (y : Mem × Nat × Nat × List Byte) : Bool := decide (y.1 = .peer) && decide (noDevice ≤ y.2.1)

/-- Perform the pieces of peer stores. -/
def astpWrite (x : Astp) (s : State) : State :=
  x.pieces.foldl (fun s y => if pieceLost y then s else physWrite s y.1 y.2.2.1 y.2.1 y.2.2.2) s

/-- A peer answers for its oldest stores: performed, or lost or faulting there, which makes the grid's status PEER_FAIL; whether those were
performed is a free choice (R261, R285). -/
def astpAnswer (dev : Nat) (ok : Bool) (s : State) : State :=
  match s.astps.find? (·.dev = dev) with
  | none => s
  | some x =>
    let s := engineDone x.id { s with astps := s.astps.filter (·.id ≠ x.id) }
    if ok && !(x.pieces.any pieceLost) then astpWrite x s
    else
      let s := s.modGrid x.grid fun g => if g.status = 0x0100 then { g with status := 0x0107 } else g
      let did := (Config.freeByte s.fresh).getLsbD 0
      let s := { s with fresh := s.fresh + 1 }
      if did then astpWrite x s else s

/-- ASTP_ACK (R261): a peer answers for the oldest stores on their way to it. -/
def execAstpAck (dev : Nat) (ok : Bool) (s : State) : Out := .next (astpAnswer dev ok s)

end Sys2Proof.Machine
end

