-- ==== Sys2Proof/Machine/Rings.lean ====
section
/-! DEFINITION. Completion queues (R324, R325) and the events that stand in for records (R300). -/

namespace Sys2Proof.Machine

/-- A grid as a party outside control mode: its engines, and the device posting on its behalf. -/
def gridParty (p ctx : Nat) : Party := { die := none, p := p, ctx := ctx, ctrl := false }

/-- Read `n` bytes for a party at DEVICE scope. -/
def readFor (y : Party) (g n : Nat) (s : State) : Option (State × List Byte) :=
  (mappedPlaces y accRead s g n).map fun r => (r.1, readPlaces r.1 .device r.2)

/-- Write bytes for a party, performed everywhere. -/
def writeFor (y : Party) (g : Nat) (bs : List Byte) (s : State) : Option State :=
  (mappedPlaces y accWrite s g bs.length).map fun r => r.2.foldl (writePieceAt 0 5 bs) r.1

/-- A completion record (R299). -/
structure CqRec where
  status : Nat
  fault : Nat := 0
  bytes : Nat := 0
  tag : Nat := 0
  chan : Nat := 0
  oob : Nat := 0
  /-- entry PC of the kernel that issued the request, for an event in its place (R300) -/
  origin : Option Nat := none
deriving DecidableEq, Repr

/-- The 16 bytes of a completion record (R299). -/
def cqBytes (r : CqRec) : List Byte :=
  bytesOfNat 2 r.status ++ bytesOfNat 2 r.fault ++ bytesOfNat 4 r.bytes ++ bytesOfNat 4 r.tag ++ bytesOfNat 1 r.chan ++
  bytesOfNat 1 r.oob ++ bytesOfNat 2 0

/-- The event that stands in for a completion record (R300). -/
def cqEvent (g : Grid) (r : CqRec) (s : State) : State :=
  postEvent g.launch.evq
    { status := r.status, fsum := r.fault, queue := 0xFFFF, tag := r.tag, origin := r.origin.getD g.origin, count := r.bytes % 2 ^ 32 } s

/-- PUT, GET and LOG2N of a completion-queue header. -/
def cqHeader (bs : List Byte) : Nat × Nat × Nat :=
  (natOfBytes (bs.take 8), natOfBytes ((bs.drop 8).take 8), natOfBytes ((bs.drop 16).take 1))

/-- The address of record `i` of a ring (R324). -/
def cqSlot (hdr i log2n : Nat) : Nat := (hdr + 64 + 16 * (i % 2 ^ log2n)) % 2 ^ 64

/-- What posting to a bound ring comes to: written, no room, or the ring cannot be reached. -/
inductive CqRes where
  | done (s : State)
  | full
  | unreachable

/-- Post a record to the ring at a header through a grid's translation (R324): the record, then PUT. -/
def cqWrite (y : Party) (hdr : Nat) (r : CqRec) (s : State) : CqRes :=
  match readFor y hdr 64 s with
  | none => .unreachable
  | some (s, bs) =>
    let h := cqHeader bs
    if (h.1 + 2 ^ 64 - h.2.1) % 2 ^ 64 = 2 ^ h.2.2 then .full
    else
      match (writeFor y (cqSlot hdr h.1 h.2.2) (cqBytes r) s).bind (writeFor y hdr (bytesOfNat 8 (h.1 + 1))) with
      | none => .unreachable
      | some s => .done s

/-- Post a grid's record to its completion queue `n`, or the event that stands in for it; `none` while the record is held (R324). -/
def postCq (gid n : Nat) (r : CqRec) (s : State) : Option State :=
  let g := kgetD {} s.grids gid
  match kget g.cqs n with
  | none => some (cqEvent g r s)
  | some hdr =>
    match cqWrite (gridParty g.partition g.launch.ctxid) hdr r s with
    | .done s => some s
    | .full => none
    | .unreachable => some (cqEvent g r s)

end Sys2Proof.Machine
end

