-- ==== Sys2Proof/Machine/Copy.lean ====
section
/-! DEFINITION. The copy engine: requests (R286 to R298), delivery (R288, R293 to R296, R301), completion (R299, R300), static copy
schedules (R302), faults (R303, R304), and the stage counter that releases schedule entries (R436). -/

namespace Sys2Proof.Machine

/-! ## Control words (R291, R294, R295) -/

/-- Bytes of an element type from code 1 to 12. -/
def etBytes (et : Nat) : Nat := etWidth et / 8

/-- An element type that a plain CCVT accepts. -/
def ccvtEt (et : Nat) : Bool := decide (1 ≤ et) && decide (et ≤ 12)

/-- The barrier fields of a control word are zero where no barrier is named. -/
def ctlBarrierOk (ctl : Nat) : Bool := bitOf ctl 13 || decide (bitsOf ctl 31 14 = 0)

/-- How a valid request moves: destination bytes, and the alignments of its source and destination; none where CTL or LEN breaks
R291, R294 or R295. -/
def copyShape (fn ctl len : Nat) : Option (Nat × Nat × Nat) :=
  let srct := bitsOf ctl 7 4
  let dstt := bitsOf ctl 11 8
  let rc := bitOf ctl 12
  if !ctlBarrierOk ctl then none
  else
    match fn with
    | 1 =>
      if !rc then
        if ccvtEt srct && ccvtEt dstt && decide (len % etBytes srct = 0) then
          some (len / etBytes srct * etBytes dstt, etBytes srct, etBytes dstt)
        else none
      else
        match widKind srct, widKind dstt with
        | none, some kind =>
          if srct = 3 ∧ len % 128 = 0 then some (len / 128 * recBytes kind, 1, 1) else none
        | some kind, none =>
          if (dstt = 3 ∨ dstt = 7 ∨ dstt = 8) ∧ len % recBytes kind = 0 then
            some (len / recBytes kind * 32 * etBytes dstt, 1, 1)
          else none
        | _, _ => none
    | 2 =>
      if srct = 3 ∧ dstt = 0 ∧ rc = false ∧ len % 4 = 0 then some (len * 4, 4, 16)
      else if srct = 0 ∧ dstt = 3 ∧ len % 16 = 0 then some (len / 4, 16, 4)
      else none
    | _ => if bitsOf ctl 12 4 = 0 then some (len, 1, 1) else none

/-- The generic address of a delivery barrier (R291). -/
def barrierEa (pt : Partition) (bsp : Bool) (boff : Nat) : Nat := (if bsp then pt.apcluster else pt.apshared) + 128 * boff

/-- The first and the last byte of a range lie in one space and in its extent (R292): else the offending address. -/
def rangeBad (s : State) (o : Owner) (a len : Nat) : Option Nat :=
  let pt := kgetD {} s.partitions o.partition
  let last := (a + len - 1) % 2 ^ 64
  if (piecesFor s o a 1).isNone then some a
  else if (piecesFor s o last 1).isNone || decide ((spaceOf pt a).code ≠ (spaceOf pt last).code) then some last
  else none

/-- A barrier that does not lie wholly in an allocation (R292): its address. -/
def barrierBad (s : State) (o : Owner) (ctl : Nat) : Option Nat :=
  let ea := barrierEa (kgetD {} s.partitions o.partition) (bitOf ctl 17) (bitsOf ctl 31 18)
  if bitOf ctl 13 && (piecesFor s o ea 64).isNone then some ea else none

/-- The offending address of a request (R292): source, destination, barrier. -/
def copySpace (s : State) (o : Owner) (fn src dst len total ctl : Nat) : Option Nat :=
  ((if fn = 3 then none else rangeBad s o src len).or (rangeBad s o dst total)).or (barrierBad s o ctl)

/-- A request from a descriptor. -/
def mkCopy (o : Owner) (fn src dst total ctl : Nat) (queue : Option Nat) (tag rnd : Nat) (sat ftz : Bool) : Copy :=
  { owner := o, ch := bitsOf ctl 3 0, fn := fn, src := src, dst := dst, total := total, srct := bitsOf ctl 7 4,
    dstt := bitsOf ctl 11 8, recm := bitOf ctl 12, rnd := rnd, sat := sat, ftz := ftz, ben := bitOf ctl 13,
    slot := bitsOf ctl 16 14, bsp := bitOf ctl 17, boff := bitsOf ctl 31 18, queue := queue, tag := tag }

/-- Requests in a channel's FIFO (R286). -/
def chLoad (s : State) (core ch : Nat) : Nat :=
  (s.copies.filter fun e => decide (e.2.owner.core = core) && decide (e.2.ch = ch) && e.2.fifo).length

/-- A request has left its FIFO, and an earlier place on the channel is its workgroup's next (R303): those behind it wait outside. -/
def outsideBefore (s : State) (id wg ch : Nat) : Bool :=
  s.copies.any fun e =>
    decide (e.1 < id) && decide (e.2.owner.wg = wg) && decide (e.2.ch = ch) && !e.2.fifo && e.2.status.isNone &&
    decide (e.2.done < e.2.total)

/-- A request outside its channel's FIFO enters it, when nothing of its own keeps it out and one of the 16 places is free (R286). -/
def admitCopy (s : State) (id : Nat) : State :=
  match kget s.copies id with
  | none => s
  | some x =>
    if !x.fifo && x.status.isNone && x.waits.isEmpty && !x.saved && decide (chLoad s x.owner.core x.ch < 16) &&
        !outsideBefore s id x.owner.wg x.ch then
      { s with copies := kput s.copies id { x with fifo := true } }
    else s

/-- Requests enter their channels in the order in which they were issued. -/
def admitCopies (s : State) : State :=
  if s.copies.any fun e => !e.2.fifo then (s.copies.map (·.1)).foldl admitCopy s else s

/-- The widest scope of a request's spaces (R260, R289). -/
def copyScope (s : State) (x : Copy) : Nat :=
  let pt := kgetD {} s.partitions x.owner.partition
  let dst := if x.gather.isSome then 1 else (spaceOf pt x.dst).scope
  let src := if x.gather.isNone && x.fn == 3 then 0 else (spaceOf pt x.src).scope
  max (max src dst) (if x.ben then (if x.bsp then 2 else 1) else 0)

/-- Enqueue a request of the issuing part: a release at the request's scope (R260). -/
def enqueue (c : Ctx) (x : Copy) (s : State) : State :=
  let s := physRelease s (coreOf c.key) (copyScope s x)
  let x := { x with origin := (originOf s c.w c.pc0).2.2.2, fifo := !outsideBefore s s.nextId x.owner.wg x.ch }
  engineIssued c [s.nextId] { s with copies := kput s.copies s.nextId x, nextId := s.nextId + 1 }

/-! ## ACOPY (R290 to R295) -/

/-- The checks of ACOPY: Q = 0 takes no queue (R290). -/
def acopySig (d a : BitVec 7) (q : BitVec 3) (u : BitVec 1) (_ : Ctx) : Sig :=
  { maj := 0x1C, badField := decide (u = 0#1 ∧ q ≠ 0#3), opds := [rd d, rdSpan a 6] }

/-- A 64-bit field of a descriptor in L0. -/
def descPair (c : Ctx) (a : BitVec 7) (i : Nat) : Nat :=
  (c.readAt a i c.l0).toNat + 2 ^ 32 * (c.readAt a (i + 1) c.l0).toNat

/-- A 32-bit field of a descriptor in L0. -/
def descWord (c : Ctx) (a : BitVec 7) (i : Nat) : Nat := (c.readAt a i c.l0).toNat

/-- SPACE or MISALIGN of a request: L0 and the offending address. -/
def copyTrap (cause : Nat) (c : Ctx) (ea : Nat) : Trap :=
  { cause := cause, info := BitVec.ofNat 32 c.l0, addr := some (BitVec.ofNat 64 ea) }

/-- The effect of an ACOPY function (R292). -/
def acopyBody (fn : Nat) (d a : BitVec 7) (q : BitVec 3) (u : BitVec 1) (c : Ctx) (s : State) : Res :=
  let o := ownerOf s c.w c.l0
  let src := descPair c a 0
  let dst := descPair c a 2
  let len := descWord c a 4
  let ctl := descWord c a 5
  match copyShape fn ctl len with
  | none => .trap s (illegal 0x1C 0x03)
  | some (total, sa, da) =>
    match if len = 0 then none else copySpace s o fn src dst len total ctl with
    | some ea => .trap s (copyTrap 0x0E c ea)
    | none =>
      if len ≠ 0 ∧ fn ≠ 3 ∧ src % sa ≠ 0 then .trap s (copyTrap 0x0F c src)
      else if len ≠ 0 ∧ dst % da ≠ 0 then .trap s (copyTrap 0x0F c dst)
      else if 16 ≤ chLoad s (coreOf c.key) (bitsOf ctl 3 0) then .brk (.cond (.copyRoom (bitsOf ctl 3 0)))
      else
        afterTakes c (blockLanes c.p.q c.p.n)
          (.fall (enqueue c (mkCopy o fn src dst total ctl (if u = 1#1 then some q.toNat else none) (c.read d c.l0).toNat c.rnd
            (modeSatOf c.p.mode) c.ftz) s) 1)

/-- An ACOPY word. -/
def execAcopy (fn : Nat) (z : Bool) (d a : BitVec 7) (q : BitVec 3) (u : BitVec 1) (s : State) : Out :=
  issueWord z (acopySig d a q u) idleWord (acopyBody fn d a q u) s

/-- COPY (R293): a byte copy. -/
def execCopy (z : Bool) (d a : BitVec 7) (q : BitVec 3) (u : BitVec 1) (_l : BitVec 4) (s : State) : Out :=
  execAcopy 0 z d a q u s

/-- CCVT (R294): element conversion. -/
def execCcvt (z : Bool) (d a : BitVec 7) (q : BitVec 3) (u : BitVec 1) (_l : BitVec 4) (s : State) : Out :=
  execAcopy 1 z d a q u s

/-- CSUM (R295): accumulation into, or readout from, accumulation cells. -/
def execCsum (z : Bool) (d a : BitVec 7) (q : BitVec 3) (u : BitVec 1) (_l : BitVec 4) (s : State) : Out :=
  execAcopy 2 z d a q u s

/-- CFILL (R293): a fill with a pattern. -/
def execCfill (z : Bool) (d a : BitVec 7) (q : BitVec 3) (u : BitVec 1) (_l : BitVec 4) (s : State) : Out :=
  execAcopy 3 z d a q u s

/-! ## AGATH (R297, R298) -/

/-- Row bytes that a swizzle accepts (R298). -/
def rowbOk (rowb s : Nat) : Bool :=
  decide (1 ≤ rowb) && decide (rowb ≤ 524288) &&
  (s == 0 || (decide (rowb % 16 = 0) && decide (2 ^ Nat.log2 (rowb / 16) = rowb / 16) && decide (2 ^ s ≤ rowb / 16)))

/-- The control word of AGATH (R297). -/
def agathCtlOk (ctl : Nat) : Bool :=
  ctlBarrierOk ctl && decide (bitsOf ctl 12 8 = 0) && (bitOf ctl 4 || decide (bitsOf ctl 7 5 = 0))

/-- The destination rows or the barrier lie outside the allocation (R298): an offending address. -/
def agathSpace (s : State) (o : Owner) (doff frow n rowb ctl : Nat) : Option Nat :=
  let ap := (kgetD {} s.partitions o.partition).apshared
  let size := (kgetD {} s.grids o.grid).launch.scratch
  let lo := doff + frow * rowb
  let hi := doff + (frow + n) * rowb - 1
  if size ≤ lo then some (ap + lo) else if size ≤ hi then some (ap + hi) else barrierBad s o ctl

/-- The effect of AGATH (R298). -/
def agathBody (d a : BitVec 7) (sw : BitVec 4) (n : Nat) (c : Ctx) (s : State) : Res :=
  let o := ownerOf s c.w c.l0
  let rowb := descWord c a 2
  let idxr := descWord c a 4
  let doff := descWord c a 5
  let frow := descWord c a 6
  let ctl := descWord c a 7
  if !(rowbOk rowb sw.toNat && decide (idxr < 0x60) && agathCtlOk ctl) then .trap s (illegal 0x1D 0x03)
  else if c.w.regs < idxr + n then .trap s (boundTrap c.l0 idxr n c.w.regs false false)
  else
    match agathSpace s o doff frow n rowb ctl with
    | some ea => .trap s (copyTrap 0x0E c ea)
    | none =>
      let ix : List Opd := [{ code := BitVec.ofNat 7 idxr, len := n }]
      let hits := (c.p.pend.filter (boardHit c.w [c.l0] ix)).map (·.id)
      let s := if c.w.flaws.isEmpty then s else s.modWave c.key (correctReads c.q [c.l0] ix)
      if !hits.isEmpty then .brk (.board hits [c.l0])
      else if c.w.areaLost && decide (c.w.vbound < idxr + n) then .kill s 0x0106 0x22
      else if readsPoison c.w [c.l0] ix then .kill s 0x0104 0x20
      else if 16 ≤ chLoad s (coreOf c.key) (bitsOf ctl 3 0) then .brk (.cond (.copyRoom (bitsOf ctl 3 0)))
      else
        let x := mkCopy o 0 (descPair c a 0) doff (n * rowb) ctl (if bitOf ctl 4 then some (bitsOf ctl 7 5) else none)
          (c.read d c.l0).toNat 0 false false
        afterTakes c (blockLanes c.p.q c.p.n) (.fall (enqueue c { x with
          gather := some { rowb := rowb, nrows := descWord c a 3, frow := frow, swz := sw.toNat,
                           idx := (List.range n).map fun j => (c.w.getV (idxr + j) c.l0).toNat } } s) 1)

/-- AGATH (R297, R298): up to eight table rows into scratchpad. -/
def execAgath (z : Bool) (d a : BitVec 7) (w : BitVec 4) (n : BitVec 3) (_l : BitVec 4) (s : State) : Out :=
  issueWord z (fun _ => { maj := 0x1D, opds := [rd d, rdSpan a 8] }) idleWord (agathBody d a w (n.toNat + 1)) s

/-! ## Delivery (R288, R293 to R296) -/

/-- The party that a request's sectors are translated for. -/
def copyParty (x : Copy) : Party :=
  x.owner.party

/-- What a step of a request comes to. -/
inductive CopyRes where
  /-- bytes delivered, with the state that holds them -/
  | ok (s : State) (x : Copy) (n : Nat)
  /-- ended with a fault code (R299) -/
  | bad (s : State) (code : Nat)
  /-- stopped for fault service: page address and level (R303) -/
  | stall (s : State) (ls : List (Nat × Stalled))
  | fault (f : Fault)

/-- The fault code of a kind (R304, R379). -/
def copyCode (kind : Nat) : Nat := if kind = 1 then 2 else if kind = 2 then 3 else 4

/-- Resolve a range for a request; `k` goes on with its places. -/
def copyRange (x : Copy) (a : Acc) (ea n : Nat) (s : State) (k : State → Places → CopyRes) : CopyRes :=
  match piecesFor s x.owner ea n with
  | none => .bad s 1
  | some ps =>
    match resolveLane (copyParty x) a { lane := x.owner.lane, ea := ea, n := n } s {} ps with
    | (s, acc) =>
      match acc.bad, acc.fault, acc.stalled with
      | some b, _, _ => .bad s (copyCode b.2.1)
      | none, some f, _ => .fault f
      | none, none, some l => .stall s [(a.code, l)]
      | none, none, none => k s acc.places

/-- Read a range for a request; poisoned bytes end it with UE (R304). -/
def copyRead (x : Copy) (ea n : Nat) (s : State) (k : State → List Byte → CopyRes) : CopyRes :=
  copyRange x accRead ea n s fun s ps =>
    if placesPoisoned s ps then .bad s 5 else k s (readPlaces s (.core x.owner.core) ps)

/-- Write a range for a request, performed at its scope (R288). -/
def copyWrite (x : Copy) (ea : Nat) (bs : List Byte) (s : State) (k : State → CopyRes) : CopyRes :=
  copyRange x accWrite ea bs.length s fun s ps => k (ps.foldl (writePieceAt x.owner.core (copyScope s x) bs) s)

/-- Part [off, off + n) of the byte image of a list of blocks that starts at block `i0` of `size` bytes. -/
def sliceOf (size i0 off n : Nat) (blocks : List (List Byte)) : List Byte := (blocks.flatten.drop (off - i0 * size)).take n

/-- The bytes of one plain conversion (R294). -/
def cvtBytes (x : Copy) (bs : List Byte) : List Byte :=
  bytesOfNat (etBytes x.dstt) (convTo x.dstt x.rnd x.sat false x.ftz (etDecode x.srct x.ftz (natOfBytes bs)))

/-- Cut a list of bytes into blocks. -/
def chunks (size : Nat) : Nat → List Byte → List (List Byte)
  | 0, _ => []
  | n + 1, bs => bs.take size :: chunks size n (bs.drop size)

/-- The record of 32 F32 elements (R294, R130 to R132). -/
def narrowBytes (x : Copy) (kind : Nat) (bs : List Byte) : List Byte :=
  bytesOfNat (recBytes kind) (narrowRecord kind x.rnd none ((chunks 4 32 bs).map fun e => etDecode 3 x.ftz (natOfBytes e)))

/-- The 32 elements of a record, widened (R294, R174). -/
def widenBytes (x : Copy) (kind : Nat) (bs : List Byte) : List Byte :=
  (List.range 32).flatMap fun i =>
    bytesOfNat (etBytes x.dstt) (widenElem (fmtOf x.dstt) x.rnd x.ftz kind (natOfBytes bs) i)

/-- How a conversion cuts its ranges: source bytes and destination bytes of a block, and the block's function. -/
def ccvtBlock (x : Copy) : Nat × Nat × (List Byte → List Byte) :=
  if !x.recm then (etBytes x.srct, etBytes x.dstt, cvtBytes x)
  else
    match widKind x.srct, widKind x.dstt with
    | none, some kind => (128, recBytes kind, narrowBytes x kind)
    | some kind, _ => (recBytes kind, 32 * etBytes x.dstt, widenBytes x kind)
    | none, none => (1, 1, id)

/-- An accumulation cell as a signed number. -/
def cellInt (bs : List Byte) : Int := sintOf 128 (natOfBytes bs)

/-- SATP and SATN (R295). -/
def satP : Int := 2 ^ 127 - 1
/-- SATN. -/
def satN : Int := -(2 ^ 127)

/-- The addend of an accumulation in units of 2^-80, and whether it is not finite (R295). -/
def addend (rnd : Nat) (v : FVal) : Int × Bool :=
  match v with
  | .nan _ => (satP, true)
  | .inf neg => (if neg then satN else satP, true)
  | .fin neg n d => (signedNum neg (roundMag rnd neg (n * 2 ^ 80) d), false)

/-- ACCUMULATE (R295): the new cell and OVF. -/
def accumulate (rnd : Nat) (ftz : Bool) (q : Int) (x : Nat) : Int × Bool :=
  let c := addend rnd (etDecode 3 ftz x)
  if q = satP ∨ q = satN then (q, false)
  else if c.2 then (c.1, true)
  else
    let t := q + c.1
    if satP ≤ t then (satP, true) else if t ≤ satN then (satN, true) else (t, false)

/-- READOUT (R295): the F32 pattern and OVF. -/
def readout (q : Int) : Nat × Bool :=
  if q = satP then (0x7F800000, true)
  else if q = satN then (0xFF800000, true)
  else (fmtF32.round 0 (.fin (decide (q < 0)) q.natAbs (2 ^ 80)), false)

/-- A cell as bytes. -/
def cellBytes (q : Int) : List Byte := bytesOfNat 16 (wrapInt 128 q)

/-- Accumulate elements into consecutive cells from `ea`, each in one step (R295). -/
def accumCells (x : Copy) : Nat → List (List Byte) → State → (State → Copy → CopyRes) → Copy → CopyRes
  | _, [], s, k, y => k s y
  | ea, e :: es, s, k, y =>
    copyRange x accAtomic ea 16 s fun s ps =>
      if placesPoisoned s ps then .bad s 5
      else
        let r := atomStep x.owner.core (copyScope s x) ps
          (fun o => some (cellBytes (accumulate x.rnd x.ftz (cellInt o) (natOfBytes e)).1)) s
        accumCells x (ea + 16) es r.1 k { y with ovf := y.ovf || (accumulate x.rnd x.ftz (cellInt r.2) (natOfBytes e)).2 }

/-- Read out `n` consecutive cells from `ea`, each in one step; `out` collects the elements. -/
def readCells (x : Copy) : Nat → Nat → State → (State → Copy → List Byte → CopyRes) → Copy → List Byte → CopyRes
  | _, 0, s, k, y, out => k s y out
  | ea, n + 1, s, k, y, out =>
    copyRange x (if x.recm then accAtomic else accRead) ea 16 s fun s ps =>
      if placesPoisoned s ps then .bad s 5
      else
        let r := atomStep x.owner.core (copyScope s x) ps (fun _ => if x.recm then some (bytesOfNat 16 0) else none) s
        let v := readout (cellInt r.2)
        readCells x (ea + 16) n r.1 k { y with ovf := y.ovf || v.2 } (out ++ bytesOfNat 4 v.1)

/-- Deliver destination bytes [off, off + n) of a request that is no gather. -/
def deliverBytes (x : Copy) (off n : Nat) (s : State) : CopyRes :=
  match x.fn with
  | 0 => copyRead x (x.src + off) n s fun s bs => copyWrite x (x.dst + off) bs s fun s => .ok s x n
  | 1 =>
    let b := ccvtBlock x
    let i0 := off / b.2.1
    let i1 := (off + n - 1) / b.2.1
    copyRead x (x.src + i0 * b.1) ((i1 + 1 - i0) * b.1) s fun s bs =>
      copyWrite x (x.dst + off) (sliceOf b.2.1 i0 off n ((chunks b.1 (i1 + 1 - i0) bs).map b.2.2)) s fun s => .ok s x n
  | 2 =>
    if x.srct = 3 then
      copyRead x (x.src + off / 4) (n / 4) s fun s bs =>
        copyRange x accAtomic (x.dst + off) n s fun s _ =>
          accumCells x (x.dst + off) (chunks 4 (n / 16) bs) s (fun s y => .ok s y n) x
    else
      copyRange x accWrite (x.dst + off) n s fun s _ =>
        copyRange x (if x.recm then accAtomic else accRead) (x.src + 4 * off) (4 * n) s fun s _ =>
          readCells x (x.src + 4 * off) (n / 4) s (fun s y bs => copyWrite x (x.dst + off) bs s fun s => .ok s y n) x []
  | _ =>
    copyWrite x (x.dst + off) ((List.range n).map fun i => BitVec.ofNat 8 (x.src / 2 ^ (8 * ((off + i) % 8)))) s
      fun s => .ok s x n

/-- The destination image of a row after the swizzle (R298): byte `b` of the row stands at 16 * (c XOR (r mod 2^s)) + o. -/
def swizzleRow (rowb swz r : Nat) (bs : List Byte) : List Byte :=
  if swz = 0 then bs
  else (List.range rowb).map fun k => bs.getD (16 * Nat.xor (k / 16) (r % 2 ^ swz) + k % 16) 0#8

/-- Deliver row `j` of a gather. -/
def deliverRow (x : Copy) (g : Gather) (j : Nat) (s : State) : CopyRes :=
  let ap := (kgetD {} s.partitions x.owner.partition).apshared
  let r := g.frow + j
  let place := ap + x.dst + r * g.rowb
  let i := g.idx.getD j 0
  if i < g.nrows then
    copyRead x (x.src + i * g.rowb) g.rowb s fun s bs =>
      copyWrite x place (swizzleRow g.rowb g.swz r bs) s fun s => .ok s x g.rowb
  else
    copyWrite x place (List.replicate g.rowb 0#8) s fun s => .ok s { x with oob := min (x.oob + 1) 255 } g.rowb

/-- Deliver the next sector, or the next row of a gather (R288, R298). -/
def deliverNext (x : Copy) (s : State) : CopyRes :=
  match x.gather with
  | some g => deliverRow x g (x.done / g.rowb) s
  | none => deliverBytes x x.done (min (32 - (x.dst + x.done) % 32) (x.total - x.done)) s

/-- Change a workgroup wherever it is. -/
def modWgAny (id : Nat) (f : Wg → Wg) (s : State) : State :=
  { s with wgs := kmod f s.wgs id, parked := kmod (fun (x : Parked) => { x with wg := f x.wg }) s.parked id }

/-- Requests before another in its channel that must have moved their bytes first: those of the FIFO, and every earlier one of the
same workgroup and channel number (R286, R287, R303). -/
def copyBlocked (s : State) (id : Nat) (x : Copy) : Bool :=
  s.copies.any fun e =>
    decide (e.1 < id) && decide (e.2.ch = x.ch) && e.2.status.isNone && decide (e.2.done < e.2.total) &&
    (decide (e.2.owner.wg = x.owner.wg) || (decide (e.2.owner.core = x.owner.core) && e.2.fifo))

/-- The credit of a delivered sector (R301): none where the barrier has left its region. -/
def creditBarrier (x : Copy) (n : Nat) (s : State) : Option State :=
  if !x.ben then some s
  else
    match piecesFor s x.owner (barrierEa (kgetD {} s.partitions x.owner.partition) x.bsp x.boff) 64 with
    | some ({ off := _, n := _, dest := .spad a } :: _) => some (dbarCredit a x.slot n s)
    | _ => none

/-- Replace a request. -/
def putCopy (id : Nat) (x : Copy) (s : State) : State := { s with copies := kput s.copies id x }

/-- A sector is delivered: the write pointer, the count of copy bytes, the barrier (R288, R301, R444). -/
def afterSector (id : Nat) (x : Copy) (n : Nat) (s : State) : State :=
  let y := { x with done := x.done + n }
  let s := modWgAny x.owner.wg (fun g => { g with wp := cellsPut 0 g.wp x.ch ((cellsGet 0 g.wp x.ch + n) % 2 ^ 64) }) s
  let s := countEvent x.owner.core 0x0E (y.done / 32 - x.done / 32) x.owner.ctx s
  match creditBarrier x n s with
  | some s => putCopy id y s
  | none => putCopy id { y with status := some (1, 1) } s

/-- A request meets a replayable fault: it stops, its access joins a record, and it leaves its FIFO with the later requests of its workgroup on
the channel, so that those of other workgroups proceed (R303, R381). -/
def stopCopy (id : Nat) (x : Copy) (ls : List (Nat × Stalled)) (s : State) : State :=
  let r := ls.foldl (fun (acc : State × List Nat) l =>
    let t := addFault x.owner.partition x.owner.ctx l.2.va l.1 l.2.level acc.1
    (t.1, acc.2 ++ [t.2])) (s, [])
  let s := writeRecords x.owner.partition ls.length r.1
  let s := { s with
    copies := kmap (fun k (y : Copy) =>
      if id < k ∧ y.owner.wg = x.owner.wg ∧ y.ch = x.ch then { y with fifo := false } else y) s.copies }
  putCopy id { x with waits := r.2, fifo := false } s

/-- A request may move: nothing holds it. -/
def copyMoves (s : State) (id : Nat) (x : Copy) : Bool :=
  decide ((kgetD {} s.partitions x.owner.partition).swap ≠ 3) &&
  x.status.isNone && x.waits.isEmpty && x.fifo && !x.saved && decide (x.done < x.total) && !copyBlocked s id x

/-- One step of a request. -/
def copyStep (id : Nat) (s : State) : Out :=
  match kget s.copies id with
  | none => .next s
  | some x =>
    if copyMoves s id x then
      match deliverNext x s with
      | .ok s y n => .next (afterSector id y n s)
      | .bad s code => .next (putCopy id { x with status := some (1, code) } s)
      | .stall s ls => .next (stopCopy id x ls s)
      | .fault f => .fault f
    else .next s

/-- COPY_SECTOR_DELIVER (R288, R298, R301): the next sector or row of a request. -/
def execCopySectorDeliver (id : Nat) (s : State) : Out := copyStep id s

/-! ## Completion (R299, R300) -/

/-- The status and the fault code of a request that can complete: it has ended early or moved every byte, and no earlier request of
its workgroup on the channel is left. A request of no bytes completes at once (R293). -/
def copyEnd (s : State) (id : Nat) (x : Copy) : Option (Nat × Nat) :=
  if (kgetD {} s.partitions x.owner.partition).swap = 3 then none
  else if x.total = 0 ∧ x.status.isNone then some (0, 0)
  else if s.copies.any fun e => decide (e.1 < id) && decide (e.2.ch = x.ch) && decide (e.2.owner.wg = x.owner.wg) then none
  else
    match x.status with
    | some st => some st
    | none => if x.done = x.total ∧ x.saved = false then some (if x.ovf then 2 else 0, 0) else none

/-- The record of a request. -/
def copyRec (x : Copy) (st : Nat × Nat) : CqRec :=
  { status := st.1, fault := st.2, bytes := x.done % 2 ^ 32, tag := x.tag, chan := x.ch, oob := x.oob, origin := some x.origin }

/-- A request completes: its record or event, and then nobody waits for it; an ended workgroup may be freed (R300, R305). -/
def completeCopy (id : Nat) (s : State) : State :=
  match kget s.copies id with
  | none => s
  | some x =>
    match copyEnd s id x with
    | none => s
    | some st =>
      let posted := match x.queue with
        | some n => postCq x.owner.grid n (copyRec x st) s
        | none => some (if st.1 = 0 then s else cqEvent (kgetD {} s.grids x.owner.grid) (copyRec x st) s)
      match posted with
      | none => s
      | some s => freeWg x.owner.wg (engineDone id { s with copies := kdel s.copies id })

/-- COPY_COMPLETE (R300): a request completes and posts its record or event. -/
def execCopyComplete (id : Nat) (s : State) : Out := .next (completeCopy id s)

/-! ## Static copy schedules (R302, R436) -/

/-- A request that ends at once with a status. -/
def deadCopy (o : Owner) (k status fault : Nat) (ch : Nat) (queue : Option Nat) : Copy :=
  { owner := o, ch := ch, fn := 0, src := 0, dst := 0, total := 0, queue := queue, tag := k, status := some (status, fault) }

/-- The request of a schedule entry (R302): DESC or FAULT for one that breaks a rule. -/
def entryCopy (s : State) (o : Owner) (wglin k : Nat) (bs : List Byte) : Copy :=
  let num := fun i n => natOfBytes ((bs.drop i).take n)
  let flags := num 20 4
  let ctl := num 24 4
  let fn := bitsOf flags 1 0
  let src := if fn = 3 then num 0 8 else (num 0 8 + wglin * num 28 4) % 2 ^ 64
  let dst := num 8 8
  let len := num 16 4
  let queue := if bitOf flags 2 then some (bitsOf flags 5 3) else none
  let ch := bitsOf ctl 3 0
  if flags / 2 ^ 11 ≠ 0 ∨ 4 < bitsOf flags 8 6 ∨ (bitOf flags 2 = false ∧ bitsOf flags 5 3 ≠ 0) then deadCopy o k 3 0 ch queue
  else
    match copyShape fn ctl len with
    | none => deadCopy o k 3 0 ch queue
    | some (total, sa, da) =>
      if len ≠ 0 ∧ (copySpace s o fn src dst len total ctl).isSome then deadCopy o k 1 1 ch queue
      else if len ≠ 0 ∧ ((fn ≠ 3 ∧ src % sa ≠ 0) ∨ dst % da ≠ 0) then deadCopy o k 3 0 ch queue
      else mkCopy o fn src dst total ctl queue k (bitsOf flags 8 6) (bitOf flags 9) (bitOf flags 10)

/-- The workgroup as an owner of schedule entries: no lane, so no local space. -/
def wgOwner (g : Grid) (id : Nat) (w : Wg) : Owner :=
  { partition := g.partition, ctx := g.launch.ctxid, ctrl := false, grid := w.grid, wg := id, core := w.core, width := 1, lane := 0,
    localBase := 0, localSize := 0 }

/-- Release entry `k` of a workgroup's schedule: the release of the fork at the scopes of the entry's own space and of its request's, then
the request is on its channel, in the FIFO once it has room (R260, R286, R302). An entry that cannot be read ends with FAULT (log 26). -/
def releaseEntry (id k origin : Nat) (s : State) : State :=
  match kget s.wgs id with
  | none => s
  | some w =>
    let g := kgetD {} s.grids w.grid
    let o := wgOwner g id w
    let a := g.launch.scheda + 32 * k
    let s := physRelease s w.core (spaceOf (kgetD {} s.partitions g.partition) a).scope
    let r : State × Copy := match readFor (gridParty g.partition g.launch.ctxid) a 32 s with
      | some (s, bs) => (s, entryCopy s o (wgLin s w) k bs)
      | none => (s, deadCopy o k 1 4 0 none)
    let s := physRelease r.1 w.core (copyScope r.1 r.2)
    admitCopies { s with copies := kput s.copies s.nextId { r.2 with fifo := false, origin := origin }, nextId := s.nextId + 1 }

/-- Release the entries from `k` on; their identities. -/
def releaseEntries (id origin : Nat) : Nat → Nat → State → State × List Nat
  | 0, _, s => (s, [])
  | n + 1, k, s =>
    let r := releaseEntries id origin n (k + 1) (releaseEntry id k origin s)
    (r.1, s.nextId :: r.2)

/-- STAGE has grown: the entries that it passes are released (R302); their identities. -/
def setStage (id stage origin : Nat) (s : State) : State × List Nat :=
  match kget s.wgs id with
  | none => (s, [])
  | some w =>
    let upto := min stage (kgetD {} s.grids w.grid).launch.schedn
    releaseEntries id origin (upto - w.released) w.released
      (s.modWg id fun g => { g with stage := stage, released := max g.released upto })

/-- The effect of CSTG: the fork of each entry that it releases, which is an engine operation of the part (R260, R302). -/
def cstgBody (a : BitVec 7) (c : Ctx) (s : State) : Res :=
  let old := match kget s.wgs c.w.wg with
    | some g => g.stage
    | none => 0
  let r := setStage c.w.wg (min (old + (c.read a 0).toNat) 65535) (originOf s c.w c.pc0).2.2.2 s
  afterTakes c (blockLanes c.p.q c.p.n) (.fall (engineIssued c r.2 r.1) 1)

/-- CSTG (R436): the stage counter, saturating at 65,535, releases schedule entries. -/
def execCstg (z : Bool) (a : BitVec 7) (s : State) : Out :=
  issueWord z (fun _ => { maj := 0x2E, opds := [uniOpd a] }) idleWord (cstgBody a) s

end Sys2Proof.Machine
end

