-- ==== Sys2Proof/Machine/Loader.lean ====
section
/-! DEFINITION. Code objects and the loader (R390 to R398, R56, R93): parsing an image, its checks in the order of R398, relocation,
symbols, loading into the code window and unloading. -/

namespace Sys2Proof.Machine

/-! ## Reading numbers out of an image -/

/-- The same as a signed number. -/
def intAt (img : List Byte) (o n : Nat) : Int := sintOf (8 * n) (numAt img o n)

/-- Bytes [o, o + n) of an image are zero. -/
def zeroAt (img : List Byte) (o n : Nat) : Bool := ((img.drop o).take n).all fun b => decide (b = 0#8)

/-- A NUL-terminated string at an offset of a string table, without its NUL; none where it does not end. -/
def nulString : List Byte → Option (List Byte)
  | [] => none
  | b :: bs => if b = 0#8 then some [] else (nulString bs).map (b :: ·)

/-! ## Sections (R390) -/

/-- A section header. -/
structure Section where
  ty : Nat
  flags : Nat
  name : Nat
  off : Nat
  size : Nat
  win : Nat
  link : Nat
deriving DecidableEq, Repr

/-- Section header `i` of an image. -/
def sectionAt (img : List Byte) (i : Nat) : Section :=
  let o := numAt img 16 8 + 32 * i
  { ty := numAt img o 2, flags := numAt img (o + 2) 2, name := numAt img (o + 4) 4, off := numAt img (o + 8) 8,
    size := numAt img (o + 16) 8, win := numAt img (o + 24) 4, link := numAt img (o + 28) 4 }

/-- Every section of an image. -/
def sectionsOf (img : List Byte) : List Section := (List.range (numAt img 24 4)).map (sectionAt img)

/-- The bytes of a section. -/
def sectionBytes (img : List Byte) (x : Section) : List Byte := (img.drop x.off).take x.size

/-- The sections of a type. -/
def ofType (t : Nat) (xs : List Section) : List Section := xs.filter fun x => x.ty = t

/-- The header fields hold (R390). -/
def headerOk (img : List Byte) : Bool :=
  decide (numAt img 4 2 = 1) && decide (numAt img 6 2 = 64) && decide (64 ≤ numAt img 8 8) && decide (numAt img 8 8 ≤ 2 ^ 32) &&
  decide (numAt img 16 8 % 8 = 0) && decide (1 ≤ numAt img 24 4) && decide (numAt img 24 4 ≤ 4096) &&
  decide (numAt img 16 8 + 32 * numAt img 24 4 ≤ numAt img 8 8) && decide (numAt img 28 2 = 3) && zeroAt img 30 34

/-- The unit of a section's SIZE (R390). -/
def sectionUnit (t : Nat) : Nat :=
  if t = 1 then 4 else if t = 3 then 32 else if t = 5 then 24 else if t = 6 then 256 else if t = 8 then 20 else 1

/-- The fields of a section header hold (R390). -/
def sectionOk (imgsz n : Nat) (x : Section) : Bool :=
  decide (x.flags < 4) && decide (x.off + x.size ≤ imgsz) && (decide (x.ty = 1) == bitOf x.flags 1) &&
  (decide (x.ty = 1) || decide (x.win = 0)) && decide (x.win % 4 = 0) && decide (x.size % sectionUnit x.ty = 0) &&
  (decide (x.ty ≠ 3 ∧ x.ty ≠ 5 ∧ x.ty ≠ 7) || decide (x.link < n))

/-- The framing of a NOTE section's records (R391): type, mandatory bit and payload of each, or none. -/
def notesFrom : Nat → List Byte → Option (List (Nat × Bool × List Byte))
  | 0, _ => none
  | fuel + 1, bs =>
    if bs.isEmpty then some []
    else
      let n := numAt bs 4 4
      if bs.length < 8 ∨ bs.length < 8 + (n + 3) / 4 * 4 then none
      else
        (notesFrom fuel (bs.drop (8 + (n + 3) / 4 * 4))).map
          ((numAt bs 0 2, bitOf (numAt bs 2 2) 0, (bs.drop 8).take n) :: ·)

/-- The records of every NOTE section. -/
def notesOf (img : List Byte) (xs : List Section) : Option (List (Nat × Bool × List Byte)) :=
  (ofType 9 xs).foldl (fun acc x => acc.bind fun l => (notesFrom (x.size + 1) (sectionBytes img x)).map (l ++ ·)) (some [])

/-- The payload of a known note has its size (R391). -/
def noteOk (x : Nat × Bool × List Byte) : Bool :=
  match x.1 with
  | 1 => decide (x.2.2.length = 1)
  | 2 => decide (x.2.2.length = 1)
  | 3 => decide (x.2.2.length = 0)
  | 4 => decide (x.2.2.length = 4)
  | _ => true

/-- A SYMTAB entry as it stands: the symbol, and its section (R394). -/
def symAt (codeobj : Nat) (xs : List Section) (strs e : List Byte) : Option (Symbol × Nat) :=
  let sec := numAt e 4 2
  let bind := numAt e 6 1
  let kind := numAt e 7 1
  match nulString (strs.drop (numAt e 0 4)), xs[sec]? with
  | some name, x =>
    let value := match x with
      | some x => (if x.ty = 1 then x.win else codeobj + x.off) + numAt e 8 8
      | none => 0
    let kernelOk := match x with
      | some x => decide (x.ty = 1)
      | none => true
    if 2 < bind ∨ 2 < kind ∨ zeroAt e 24 8 = false ∨ (x.isNone ∧ sec ≠ 0xFFFF) ∨ (kind = 1 ∧ kernelOk = false) then none
    else
      some ({ name := name, bind := bind, kind := kind, value := value, regs := numAt e 16 1, width := numAt e 17 1,
              waves := numAt e 18 1, tiles := numAt e 19 1, scratch := numAt e 20 4 }, sec)
  | none, _ => none

/-- The symbol table, or none where an entry is malformed. -/
def symsOf (codeobj : Nat) (img : List Byte) (xs : List Section) : Option (List (Symbol × Nat)) :=
  match ofType 3 xs, ofType 4 xs with
  | t :: _, st :: _ =>
    (chunks 32 (t.size / 32) (sectionBytes img t)).foldr
      (fun e acc => acc.bind fun l => (symAt codeobj xs (sectionBytes img st) e).map (· :: l)) (some [])
  | _, _ => none

/-! ## Symbols of a context (R394) -/

/-- Global symbols of a list of loaded objects with a name, in load order. -/
def globals (objs : List CodeObj) (name : List Byte) : List (CodeObj × Symbol) :=
  objs.flatMap fun o => if o.old then [] else (o.syms.filter fun y => decide (y.bind ≠ 0) && decide (y.name = name)).map (o, ·)

/-- The definition that a name binds: the strong one, else the earliest-loaded weak one (R394). -/
def boundTo (objs : List CodeObj) (name : List Byte) : Option (CodeObj × Symbol) :=
  ((globals objs name).find? fun x => x.2.bind = 1).or (globals objs name).head?

/-! ## Relocation (R395) -/

/-- Replace bytes at an offset. -/
def patchBytes (bs : List Byte) (o : Nat) (new : List Byte) : List Byte := bs.take o ++ new ++ bs.drop (o + new.length)

/-- Word `i` of code bytes. -/
def codeWord (bs : List Byte) (o : Nat) : Word := BitVec.ofNat 32 (numAt bs o 4)

/-- A word with its low `n` bits replaced. -/
def putLow (w : Word) (n x : Nat) : Nat := w.toNat / 2 ^ n * 2 ^ n + x % 2 ^ n

/-- Apply one relocation of type `ty` with value `v` at offset `o` of a CODE section at window offset `win`; none is BADRELOC. -/
def applyReloc (ty o win : Nat) (v : Int) (bs : List Byte) : Option (List Byte) :=
  match ty with
  | 0 => if 0 ≤ v ∧ v < 2 ^ 64 ∧ o + 8 ≤ bs.length then some (patchBytes bs o (bytesOfNat 8 v.toNat)) else none
  | 1 =>
    if o % 4 = 0 ∧ o + 8 ≤ bs.length ∧ -(2 ^ 31) ≤ v ∧ v < 2 ^ 32 ∧ fieldMaj (codeWord bs o) = 0x3E#6 ∧
        fieldMaj (codeWord bs (o + 4)) = 0x3F#6 then
      let x := wrapInt 32 v
      some (patchBytes (patchBytes bs o (bytesOfNat 4 (putLow (codeWord bs o) 25 (x / 2 ^ 25)))) (o + 4)
        (bytesOfNat 4 (putLow (codeWord bs (o + 4)) 25 x)))
    else none
  | k =>
    let n := if k = 2 then 25 else 18
    let d := v - ((win + o + 4 : Nat) : Int)
    if k ≤ 3 ∧ o % 4 = 0 ∧ o + 4 ≤ bs.length ∧ d % 4 = 0 ∧ -(2 ^ (n - 1)) ≤ d / 4 ∧ d / 4 < 2 ^ (n - 1) then
      some (patchBytes bs o (bytesOfNat 4 (putLow (codeWord bs o) n (wrapInt n (d / 4)))))
    else none

/-- The value of a relocation's symbol, none where it is undefined and bound nowhere. -/
def relocSym (objs : List CodeObj) (own : List Symbol) (y : Symbol × Nat) : Option Nat :=
  if y.2 = 0xFFFF then
    ((boundTo objs y.1.name).map (·.2.value)).or
      ((own.find? fun z => decide (z.bind ≠ 0) && decide (z.name = y.1.name)).map (·.value))
  else some y.1.value

/-- The code of the sections, by section index. -/
abbrev CodeBytes := KMap (List Byte)

/-- Every relocation entry with its section's LINK. -/
def relocsOf (img : List Byte) (xs : List Section) : List (Nat × List Byte) :=
  (ofType 5 xs).flatMap fun x => (chunks 24 (x.size / 24) (sectionBytes img x)).map (x.link, ·)

/-- Some relocation names an undefined symbol that is bound nowhere. -/
def undefinedReloc (objs : List CodeObj) (own : List Symbol) (syms : List (Symbol × Nat)) (rs : List (Nat × List Byte)) : Bool :=
  rs.any fun r => match syms[numAt r.2 4 4]? with
    | some y => (relocSym objs own y).isNone
    | none => false

/-- Apply the relocations in order; none is BADRELOC. -/
def relocate (objs : List CodeObj) (own : List Symbol) (syms : List (Symbol × Nat)) (xs : List Section) :
    List (Nat × List Byte) → CodeBytes → Option CodeBytes
  | [], c => some c
  | (link, e) :: rs, c =>
    let sec := numAt e 0 2
    match syms[numAt e 4 4]?, kget c sec, kget c link, xs[sec]? with
    | some y, some bs, some _, some x =>
      match (relocSym objs own y).bind fun v => applyReloc (numAt e 2 2) (numAt e 8 8) x.win ((v : Int) + intAt e 16 8) bs with
      | some bs => relocate objs own syms xs rs (kput c sec bs)
      | none => none
    | _, _, _, _ => none

/-! ## The scan (R56, R93, R398) -/

/-- A word of an experimental encoding: MMAT with Bf[6] = 1, XPAIR with F7[3] = 1. -/
def isExperimental (w : Word) : Bool :=
  (decide (fieldMaj w = 0x11#6) && (fieldMB w).getLsbD 6) || (decide (fieldMaj w = 0x34#6) && (fieldB w).getLsbD 3)

/-- A word of a deprecated encoding: IMAD ISAD, and XLANE QSWZ with either P. -/
def isDeprecated (w : Word) : Bool :=
  (decide (fieldMaj w = 0x03#6) && decide (fieldF w = 3#4)) ||
  (decide (fieldMaj w = 0x0C#6) && decide ((fieldF w).extractLsb' 0 3 = 5#3))

/-- The words of code bytes. -/
def wordsIn (bs : List Byte) : List Word := (List.range (bs.length / 4)).map fun i => codeWord bs (4 * i)

/-- A stretch of more than 24 words without B (R56), counted on from `n`. -/
def longStretch : Nat → List Word → Bool
  | n, [] => decide (24 < n)
  | n, w :: ws => if fieldZ w then decide (24 < n) || longStretch 0 ws else longStretch (n + 1) ws

/-! ## Pages of the code window (R392) -/

/-- The page of a virtual address takes a control-mode write, and parts outside control mode may fetch from it. -/
def codePageOk (s : State) (p ctx va : Nat) : Bool :=
  match walk s p ctx (va % 2 ^ 55) with
  | .leaf pte _ level =>
    (leafKind s (controlParty p ctx) accWrite pte level (va % 2 ^ 55)).isNone && bitOf pte 2 && bitOf pte 3 &&
      placeOk (leafPlace s pte level (va % 2 ^ 55)).1 (va % 2 ^ 55) (leafPlace s pte level (va % 2 ^ 55)).2
  | _ => false

/-- Every page of `n` bytes from `va` passes. -/
def codePagesOk (s : State) (p ctx va n : Nat) : Bool :=
  (cutAt 65536 va n).all fun x => n == 0 || codePageOk s p ctx (va + x.1)

/-- Some page of the window's spliced range is mapped (R349). -/
def spliceMapped (s : State) (p ctx codewin : Nat) : Bool :=
  (List.range 64).any fun k => match walk s p ctx ((codewin + 0xFFC00000 + 65536 * k) % 2 ^ 55) with
    | .leaf _ _ _ => true
    | _ => false

/-- Two ranges share a byte. -/
def rangesMeet (a b : Nat × Nat) : Bool := decide (a.1 < b.1 + b.2) && decide (b.1 < a.1 + a.2)

/-! ## CARRY and SPLICE (R396, R397) -/

/-- The carry sets; none is BADCARRY. -/
def carryOf (img : List Byte) (xs : List Section) (regs : Nat) : Option (List (Nat × List Nat)) :=
  ((ofType 8 xs).flatMap fun x => chunks 20 (x.size / 20) (sectionBytes img x)).foldl
    (fun acc e => acc.bind fun l =>
      let id := numAt e 0 1
      let n := numAt e 1 1
      let rs := ((e.drop 4).take n).map (·.toNat)
      if 15 < id ∨ 16 < n ∨ zeroAt e 2 2 = false ∨ l.any (fun x => x.1 = id) ∨ rs.any (fun r => regs ≤ r) then none
      else some (l ++ [(id, rs)])) (some [])

/-- The byte counts that a marked word can have under some element type (R396). -/
def markBytesOk (w : Word) (kind bytes : Nat) : Bool :=
  let maj := (fieldMaj w).toNat
  let n := ((fieldB w).extractLsb' 0 4).toNat + 1
  if maj = (if kind = 0 then 0x15 else 0x14) then bytes == 1 || bytes == 2 || bytes == 4 || bytes == 8
  else if maj = (if kind = 0 then 0x13 else 0x17) then decide (bytes = 4 * n) || decide (bytes = 4 * n - 3)
  else false

/-- One mark entry; none is BADSPLICE. -/
def markAt (code : List Byte) (win start stop : Nat) (e : List Byte) : Option Mark :=
  let o := numAt e 0 4
  let m : Mark := { word := win + o, kind := numAt e 4 1, b := numAt e 5 1, bytes := numAt e 6 2, c0 := intAt e 8 8, cl := intAt e 16 4,
                    ci := intAt e 20 4, cw := intAt e 24 4 }
  if 1 < m.kind ∨ 15 < m.b ∨ zeroAt e 28 4 = false ∨ o % 4 ≠ 0 ∨ o < start ∨ stop < o ∨
      markBytesOk (codeWord code o) m.kind m.bytes = false then none
  else some m

/-- The SPLICE section, if there is one; the outer none is BADSPLICE. -/
def spliceOf (img : List Byte) (xs : List Section) (c : CodeBytes) : Option (Option SpliceSect) :=
  match ofType 7 xs with
  | [] => some none
  | x :: _ =>
    let bs := sectionBytes img x
    match xs[x.link]?, kget c x.link with
    | some k, some code =>
      let n := numAt bs 4 4
      let start := numAt bs 8 4
      let stop := numAt bs 12 4
      if bs.length < 16 ∨ (numAt bs 0 1 ≠ 1 ∧ numAt bs 0 1 ≠ 2) ∨ zeroAt bs 1 3 = false ∨ 4095 < n ∨ bs.length ≠ 16 + 32 * n ∨
          start % 4 ≠ 0 ∨ stop % 4 ≠ 0 ∨ stop < start ∨ code.length ≤ stop then none
      else
        ((chunks 32 n (bs.drop 16)).foldr (fun e acc => acc.bind fun l => (markAt code k.win start stop e).map (· :: l)) (some [])).map
          fun ms => some { role := numAt bs 0 1, start := k.win + start, stop := k.win + stop, marks := ms }
    | _, _ => none

/-! ## Loaded objects -/

/-- A grid of the context that has not completed runs the object (R392, R393). -/
def objBusy (s : State) (p ctx id : Nat) : Bool :=
  s.grids.any fun e => decide (e.2.partition = p) && decide (e.2.launch.ctxid = ctx) &&
    (decide (e.2.obj = id) || decide (e.2.obj2 = some id))

/-- Change a context. -/
def State.modCtx (s : State) (p c : Nat) (f : Context → Context) : State :=
  { s with contexts := kput s.contexts (ctxKey p c) (f (s.ctx p c)) }

/-- Splice-cache entries that name an object go (R349, R393). -/
def dropSplices (p ctx id : Nat) (s : State) : State :=
  { s with partitions := kmod (fun x =>
      { x with cache := x.cache.filter fun e =>
          !(decide (e.2.ctx = ctx) && (decide (e.2.objp = id) || decide (e.2.objc = id))) }) s.partitions p }

/-- Unload an object: its symbols go, and its code too unless grids still run it (R393). -/
def unloadObj (p ctx id : Nat) (s : State) : State :=
  let busy := objBusy s p ctx id
  dropSplices p ctx id (s.modCtx p ctx fun c =>
    { c with objs := if busy then c.objs.map fun o => if o.id = id then { o with old := true, syms := [] } else o
                     else c.objs.filter fun o => o.id ≠ id })

/-- Old loads that no grid runs any more are gone. -/
def sweepObjs (p ctx : Nat) (s : State) : State :=
  s.modCtx p ctx fun c => { c with objs := c.objs.filter fun o => !o.old || objBusy s p ctx o.id }

/-- Extend measurement register `i` with a digest (R474). -/
def extendMeas (i digest : Nat) (s : State) : State :=
  { s with dev := { s.dev with
      meas := cellsPut 0 s.dev.meas i (beNat (sha512 (beBytes 64 (cellsGet 0 s.dev.meas i) ++ beBytes 64 digest))) } }

/-- Write code to the window of a context, and drop it from instruction caches and loop buffers (R239, R392). -/
def writeCode (p ctx win : Nat) (bs : List Byte) (s : State) : State :=
  let va := (s.ctx p ctx).codewin + win
  match rangePlaces (controlParty p ctx) accWrite (bs.length / 65536 + 2) s 0 va bs.length with
  | some (s, ps) =>
    dropWindow p ctx win bs.length (ps.foldl (writePieceAt 0 5 bs) s)
  | none => s

/-! ## Loading (R392, R393, R398) -/

/-- What a load comes to: the object's identity, or a refusal code. -/
inductive LoadRes where
  | ok (s : State) (id : Nat)
  | refused (s : State) (code : Nat)

/-- What the checks of the image up to relocation give. -/
structure Parsed where
  sects : List Section
  syms : List (Symbol × Nat)
  notes : List (Nat × Bool × List Byte)
  code : CodeBytes

/-- Framing, symbols and relocation (R398 up to BADRELOC): what is parsed, or a refusal code. -/
def parseImage (codeobj : Nat) (objs : List CodeObj) (img : List Byte) : Except Nat Parsed :=
  let xs := sectionsOf img
  let known := fun x : Section => decide (1 ≤ x.ty) && decide (x.ty ≤ 9)
  if !(xs.all (sectionOk (numAt img 8 8) xs.length) && decide ((ofType 3 xs).length = 1) && decide ((ofType 4 xs).length = 1) &&
      decide ((ofType 7 xs).length ≤ 1) && decide ((ofType 8 xs).length ≤ 1) &&
      (ofType 3 xs).all (fun x => (xs[x.link]?).any fun y => y.ty = 4)) then .error 0x02
  else
    match notesOf img xs, symsOf codeobj img xs with
    | some ns, some syms =>
      let defined := (syms.filter fun y => y.2 ≠ 0xFFFF).map (·.1)
      let strong := (defined.filter fun y => y.bind = 1).map (·.name)
      let rs := relocsOf img xs
      let code : CodeBytes := (xs.zipIdx.filter fun x => x.1.ty = 1).foldl (fun c x => kput c x.2 (sectionBytes img x.1)) []
      if !(ns.all noteOk) then .error 0x02
      else if xs.any fun x => !known x && bitOf x.flags 0 then .error 0x03
      else if ns.any fun x => (decide (x.1 = 0) || decide (4 < x.1)) && x.2.1 then .error 0x04
      else if strong.eraseDups.length ≠ strong.length ∨
          strong.any (fun n => (globals objs n).any fun x => x.2.bind = 1) then .error 0x05
      else if undefinedReloc objs defined syms rs then .error 0x06
      else match relocate objs defined syms xs rs code with
        | none => .error 0x07
        | some code => .ok { sects := xs, syms := syms, notes := ns, code := code }
    | _, _ => .error 0x02

/-- Window offset and bytes of each CODE section. -/
def Parsed.codes (x : Parsed) : List (Nat × List Byte) :=
  x.code.map fun e => (((x.sects[e.1]?).map (·.win)).getD 0, e.2)

/-- The rest of R398, from STEPPING to BADSPLICE (R93: no word is of the removed class): what the object will be. -/
def checkCode (b0 : Bool) (s : State) (p ctx codewin : Nat) (held : List (Nat × Nat)) (img : List Byte) (x : Parsed) :
    Except Nat CodeObj :=
  let cs := x.codes
  let ranges := cs.map fun c => (c.1, c.2.length)
  let kernels := (x.syms.filter fun y => decide (y.2 ≠ 0xFFFF) && decide (y.1.kind = 1)).map (·.1)
  if cs.any (fun c => (wordsIn c.2).any isExperimental) &&
      !(x.notes.any fun n => decide (n.1 = 1) && decide (numAt n.2.2 0 1 = b2n b0)) then .error 0x09
  else if cs.any (fun c => longStretch 0 (wordsIn c.2)) && !(x.notes.any fun n => n.1 = 3) then .error 0x0A
  else if ranges.any (fun r => decide (0xFFC00000 < r.1 + r.2) || !codePagesOk s p ctx (codewin + r.1) r.2) ||
      spliceMapped s p ctx codewin then .error 0x0B
  else if ranges.any (fun r => held.any (rangesMeet r)) then .error 0x0C
  else
    match carryOf img x.sects (kernels.foldl (fun m y => max m y.regs) 0), spliceOf img x.sects x.code with
    | none, _ => .error 0x0D
    | some _, none => .error 0x0E
    | some carry, some splice =>
      .ok { id := 0, addr := 0, gen := 0, used := 0, codes := ranges, syms := (x.syms.filter fun y => y.2 ≠ 0xFFFF).map (·.1),
            minregs := ((x.notes.find? fun n => n.1 = 4).map fun n => numAt n.2.2 0 4).getD 0, carry := carry, splice := splice }

/-- The object that a full context unloads: the least recently launched that no grid runs (R392). -/
def idleObj (s : State) (p ctx : Nat) (objs : List CodeObj) : Option CodeObj :=
  (objs.filter fun o => !o.old && !objBusy s p ctx o.id).foldl
    (fun b o => match b with
      | none => some o
      | some x => if o.used < x.used then some o else b) none

/-- The object that loads: it replaces the load it came to replace, and its code is in the window. -/
def putObj (p ctx codeobj gen codewin : Nat) (replaced : Option Nat) (x : Parsed) (o : CodeObj) (s : State) : State × Nat :=
  let s := match replaced with
    | some id => unloadObj p ctx id s
    | none => s
  let id := s.nextId
  let s := { s with nextId := s.nextId + 1 }.modCtx p ctx fun c =>
    { c with objs := c.objs ++ [{ o with id := id, addr := codeobj, gen := gen, used := id }], codewin := codewin, fixed := true }
  (x.codes.foldl (fun s c => writeCode p ctx c.1 c.2 s) s, id)

/-- Load the image at `codeobj` into a context (R392, R393, R398). -/
def loadObj (p ctx codeobj gen codewin evq : Nat) (replaced : Option Nat) (s : State) : LoadRes :=
  match ctlRead p ctx codeobj 64 s with
  | none => .refused s 0x10
  | some (s, head) =>
    if numAt head 0 4 ≠ 0x334F585A then .refused s 0x01
    else if !headerOk head then .refused s 0x02
    else
      match ctlRead p ctx codeobj (numAt head 8 8) s with
      | none => .refused s 0x10
      | some (s, img) =>
        let others := (s.ctx p ctx).objs.filter fun o => some o.id ≠ replaced
        let held := ((s.ctx p ctx).objs.filter fun o => decide (some o.id ≠ replaced) || objBusy s p ctx o.id).flatMap (·.codes)
        match parseImage codeobj others img with
        | .error e => .refused s e
        | .ok x =>
          match checkCode s.dev.b0 s p ctx codewin held img x with
          | .error e => .refused s e
          | .ok o =>
            let full := decide (256 ≤ (others.filter fun o => !o.old).length)
            if full && (idleObj s p ctx others).isNone then .refused s 0x0F
            else
              let s := match full, idleObj s p ctx others with
                | true, some v => unloadObj p ctx v.id s
                | _, _ => s
              let r := putObj p ctx codeobj gen codewin replaced x o s
              let s := extendMeas (4 + p) (beNat (sha512 img)) r.1
              let n := (x.codes.flatMap fun c => (wordsIn c.2).filter isDeprecated).length
              .ok (if n = 0 then s else postEvent evq { status := 0x0111, count := n } s) r.2

/-- The loaded object that a launch names, loading or reloading it where R393 says so. -/
def ensureObj (p ctx codeobj gen codewin evq : Nat) (s : State) : LoadRes :=
  match (s.ctx p ctx).objs.find? (fun o => decide (o.addr = codeobj) && !o.old) with
  | some o => if o.gen = gen then .ok s o.id else loadObj p ctx codeobj gen codewin evq (some o.id) s
  | none => loadObj p ctx codeobj gen codewin evq none s

end Sys2Proof.Machine
end

