-- ==== Sys2Proof/Machine/Launch.lean ====
section
/-! DEFINITION. Launch records: their fields (R386 to R388), the checks of R389, the binding of entry and queues, buffer lists (R317),
DEADLINE admission (R65, R66) and the grid that a launch becomes (R38 to R41). -/

namespace Sys2Proof.Machine

/-! ## The record (R386) -/

/-- The fields of a launch record. -/
def parseLaunch (b : List Byte) : Launch :=
  { codeobj := numAt b 0x00 8, entry := numAt b 0x08 8, gridx := numAt b 0x10 4, gridy := numAt b 0x14 2, gridz := numAt b 0x16 2,
    wave := numAt b 0x18 1, wgwaves := numAt b 0x19 1, regs := numAt b 0x1A 1, vgrant := numAt b 0x1B 1, tiles := numAt b 0x1C 1,
    cls := numAt b 0x1D 1 % 4, cc := numAt b 0x1E 1 % 4, scratch := numAt b 0x20 4, localsz := numAt b 0x24 4,
    locala := numAt b 0x28 8, regarea := numAt b 0x30 8, fusel1 := bitOf (numAt b 0x38 4) 0, phased := bitOf (numAt b 0x38 4) 1,
    spliceOk := bitOf (numAt b 0x38 4) 2, measure := bitOf (numAt b 0x38 4) 3, transient := numAt b 0x3C 2,
    evq := numAt b 0x3E 2 % 2048, budget := numAt b 0x40 8, deadline := numAt b 0x48 8, rcores := numAt b 0x50 2,
    schedn := numAt b 0x52 2, gridid := numAt b 0x54 4, scheda := numAt b 0x58 8, bindtab := numAt b 0x60 8,
    cqmask := numAt b 0x68 1, rqmask := numAt b 0x69 1, cqsel := numAt b 0x6A 1 % 16, ctxid := numAt b 0x6C 2 % 4096,
    tvec := numAt b 0x70 4, tag := numAt b 0x74 4, ctxarea := numAt b 0x78 8, ctxsz := numAt b 0x80 4, parent := numAt b 0x88 8,
    bladdr := numAt b 0x90 8, blcount := numAt b 0x98 1, codegen := numAt b 0x9C 4, codewin := numAt b 0xA0 8,
    measa := numAt b 0xA8 8 }

/-- Reserved bytes, and reserved bits of listed bytes, are zero; addresses are aligned (R386, R389 RECFORMAT; log 27). -/
def formatOk (host : Bool) (b : List Byte) : Bool :=
  let l := parseLaunch b
  zeroAt b 0x1F 1 && zeroAt b 0x6B 1 && zeroAt b 0x6E 2 && zeroAt b 0x84 4 && zeroAt b 0x99 3 && zeroAt b 0xB0 80 &&
  decide (numAt b 0x1D 1 < 4) && decide (numAt b 0x1E 1 < 4) && decide (numAt b 0x38 4 < 16) && decide (numAt b 0x3E 2 < 2048) &&
  decide (numAt b 0x6A 1 < 16) && decide (numAt b 0x6C 2 < 4096) && decide (numAt b 0x98 1 < 32) &&
  decide (l.codeobj % 64 = 0) && decide (l.locala % 256 = 0) && decide (l.regarea % 256 = 0) && decide (l.scheda % 32 = 0) &&
  decide (l.bindtab % 128 = 0) && decide (l.ctxarea % 256 = 0) && decide (l.codewin % 2 ^ 32 = 0) && decide (l.bladdr % 16 = 0) &&
  decide (l.measa % 64 = 0) && (l.measure || decide (l.measa = 0)) && (!host || decide (l.parent = 0))

/-- Grid, wave and lane limits (R38, R386). -/
def shapeOk (l : Launch) : Bool :=
  decide (1 ≤ l.gridx) && decide (l.gridx < 2 ^ 31) && decide (1 ≤ l.gridy) && decide (1 ≤ l.gridz) &&
  [4, 8, 16, 32, 64].contains l.wave && decide (1 ≤ l.wgwaves) && decide (l.wgwaves ≤ 16) && decide (l.wgwaves * l.wave ≤ 1024) &&
  decide (l.localsz % 4 = 0)

/-- The record declares what its entry kernel declares (R389 RESOURCES). -/
def declaresAs (l : Launch) (k : Symbol) : Bool :=
  decide (l.regs = k.regs) && decide (l.wave = k.width) && decide (l.wgwaves = k.waves) && decide (l.tiles = k.tiles) &&
  decide (l.scratch = k.scratch)

/-- The limits on registers, tiles and scratchpad (R386). -/
def limitsOk (l : Launch) : Bool :=
  decide (1 ≤ l.regs) && decide (l.regs ≤ 96) && decide (l.vgrant ≤ l.regs) && decide (l.tiles ≤ 8) &&
  decide (l.tiles * (4 * l.wave ^ 2) ≤ 131072) && decide (l.scratch ≤ 524288) && decide (l.scratch % 128 = 0)

/-- CTXMIN (R387). -/
def ctxMin (l : Launch) : Nat :=
  8192 + l.scratch + l.wgwaves * (4 * l.wave * l.regs + 4 * l.wave ^ 2 * l.tiles + 2048)

/-- The areas agree (R389 AREA). -/
def areaOk (l : Launch) : Bool :=
  decide (ctxMin l ≤ l.ctxsz) && (decide (l.schedn = 0) == decide (l.scheda = 0)) && decide (l.blcount ≤ 16) &&
  decide (l.transient < 2 ^ l.blcount)

/-- The DEADLINE fields agree with the class (R389 CLASSFLD). -/
def classOk (l : Launch) : Bool :=
  if l.cls = 0 then decide (l.budget ≠ 0) && decide (l.deadline ≠ 0) && decide (1 ≤ l.rcores) && decide (l.rcores ≤ 256)
  else decide (l.budget = 0) && decide (l.deadline = 0) && decide (l.rcores = 0)

/-! ## The entry (R389, R394) -/

/-- Read a NUL-terminated name of at most `fuel` bytes through a context. -/
def readName (p ctx : Nat) : Nat → Nat → State → State × Option (List Byte)
  | 0, _, s => (s, none)
  | fuel + 1, a, s =>
    match ctlRead p ctx a 1 s with
    | some (s, [b]) =>
      if b = 0#8 then (s, some [])
      else match readName p ctx fuel (a + 1) s with
        | (s, r) => (s, r.map (b :: ·))
    | _ => (s, none)

/-- The kernel that ENTRY names: by offset, one of CODEOBJ; by name, the context's binding of the name. -/
def findEntry (p : Nat) (l : Launch) (id : Nat) (s : State) : State × Option (CodeObj × Symbol) :=
  let objs := (s.ctx p l.ctxid).objs
  if bitOf l.entry 63 then
    let longest := (objs.flatMap (·.syms)).foldl (fun m y => max m y.name.length) 0
    match readName p l.ctxid (longest + 1) (l.entry % 2 ^ 63) s with
    | (s, some name) => (s, (boundTo objs name).filter fun x => x.2.kind = 1)
    | (s, none) => (s, none)
  else
    (s, (objs.find? (·.id = id)).bind fun o =>
      (o.syms.find? fun y => decide (y.kind = 1) && decide (y.value = l.entry)).map (o, ·))

/-! ## Queue bindings (R324, R330, R388) -/

/-- Bytes of a structure in global space, read as a control-mode party. -/
def globalRead (p ctx a n : Nat) (s : State) : Option (State × List Byte) :=
  if (spaceOf (kgetD {} s.partitions p) a).code = 0 then ctlRead p ctx a n s else none

/-- A completion-queue header may be bound (R389). -/
def headerBinds (bs : List Byte) : Bool :=
  decide (4 ≤ numAt bs 16 1) && decide (numAt bs 16 1 ≤ 16) && zeroAt bs 17 47

/-- A record-queue descriptor may be bound (R330). -/
def descBinds (bs : List Byte) : Bool :=
  decide (numAt bs 0 8 % 16 = 0) && decide (numAt bs 8 1 ≤ 20) && decide (numAt bs 9 1 ≤ 15) && decide (numAt bs 10 1 ≤ 10) &&
  decide (numAt bs 10 1 ≤ numAt bs 8 1) && zeroAt bs 11 5 && decide (numAt bs 16 8 % 256 = 0) && zeroAt bs 40 24

/-- A descriptor is bound by a grid of the context that has not completed (R330). -/
def rqBound (s : State) (p ctx a : Nat) : Bool :=
  s.grids.any fun e => decide (e.2.partition = p) && decide (e.2.launch.ctxid = ctx) && e.2.rqs.any fun r => r.addr = a

/-- Read the masked entries of a binding table and check what they name; none is BINDING. -/
def readBindings (p ctx tab mask : Nat) (ok : State → Nat → List Byte → Bool) : List Nat → State → Option (State × List (Nat × Nat))
  | [], s => some (s, [])
  | n :: ns, s =>
    if bitOf mask n then
      match ctlRead p ctx (tab + 8 * n) 8 s with
      | none => none
      | some (s, ab) =>
        let a := natOfBytes ab
        if a % 64 ≠ 0 then none
        else
          match globalRead p ctx a 64 s with
          | none => none
          | some (s, bs) =>
            if ok s a bs then
              (readBindings p ctx tab mask ok ns s).map fun r => (r.1, (n, a) :: r.2)
            else none
    else readBindings p ctx tab mask ok ns s

/-- Both kinds of bindings: completion queues, record queues. -/
def bindQueues (p : Nat) (l : Launch) (s : State) : Option (State × List (Nat × Nat) × List Rq) :=
  match readBindings p l.ctxid l.bindtab l.cqmask (fun _ _ bs => headerBinds bs) (List.range 8) s with
  | none => none
  | some (s, cqs) =>
    match readBindings p l.ctxid (l.bindtab + 64) l.rqmask (fun s a bs => descBinds bs && !rqBound s p l.ctxid a) (List.range 8) s with
    | none => none
    | some (s, rqs) =>
      if (rqs.map (·.2)).eraseDups.length = rqs.length then some (s, cqs, rqs.map fun r => { addr := r.2, n := r.1 }) else none

/-! ## Buffer lists (R317) -/

/-- Read `n` buffer-list entries; none where one cannot be read; the Bool says that every entry keeps R317. -/
def readBl (y : Party) (a n : Nat) (s : State) : Option (State × Bool × List (Nat × Nat × Nat)) :=
  if n = 0 then some (s, true, [])
  else
    (readFor y a (16 * n) s).map fun r =>
      let es := chunks 16 n r.2
      (r.1, es.all (fun e => decide (numAt e 12 4 < 4)), es.map fun e => (numAt e 0 8, numAt e 8 4, numAt e 12 4))

/-- Write back, and for INV drop, one page's share of a range (R317). -/
def syncPage (y : Party) (s : State) (a n : Nat) : State :=
  match xlate s y accRead (a % 2 ^ 55) with
  | (s, .byte m addr _ _) => performStores s (fun x => x.overlaps m addr n) 5
  | (s, _) => s

/-- Write a range back to its memory, beyond the last-level cache. -/
def flushRange (y : Party) (a n : Nat) (s : State) : State :=
  if n = 0 then s else (cutAt 65536 a n).foldl (fun s x => syncPage y s (a + x.1) x.2) s

/-- Drop every copy of one page's share of a range, of data and of code, whatever context holds it (R317). -/
def dropPage (y : Party) (s : State) (a n : Nat) : State :=
  match xlate s y accRead (a % 2 ^ 55) with
  | (s, .byte m addr _ _) =>
    let s := dropStale (fun _ => true) m addr n s
    { s with icache := s.icache.filter fun b => !(decide (b.mem = m) && decide (b.addr < addr + n) && decide (addr < b.addr + 64)) }
  | (s, _) => s

/-- Drop every copy of a range (R317). -/
def dropRange (y : Party) (a n : Nat) (s : State) : State :=
  if n = 0 then s else (cutAt 65536 a n).foldl (fun s x => dropPage y s (a + x.1) x.2) s

/-- INV and FLUSHINV act before a start (R317). -/
def blBefore (y : Party) (bl : List (Nat × Nat × Nat)) (s : State) : State :=
  bl.foldl (fun s e => if bitOf e.2.2 1 then dropRange y e.1 e.2.1 (flushRange y e.1 e.2.1 s) else s) s

/-- FLUSH and FLUSHINV act before a completion (R317). -/
def blAfter (y : Party) (bl : List (Nat × Nat × Nat)) (s : State) : State :=
  bl.foldl (fun s e => if bitOf e.2.2 0 then flushRange y e.1 e.2.1 s else s) s

/-! ## MEASURE descriptors (R452) -/

/-- The session of a MEASURE launch; none where its descriptor breaks R452 or cannot be read. -/
def readSession (p : Nat) (l : Launch) (s : State) : Option (State × Session) :=
  match ctlRead p l.ctxid l.measa 64 s with
  | none => none
  | some (s, b) =>
    let k := numAt b 0 1
    if k < 1 ∨ 16 < k ∨ zeroAt b 1 7 = false ∨ numAt b 8 8 % 65536 ≠ 0 ∨ numAt b 16 8 % 65536 ≠ 0 ∨ numAt b 24 8 % 64 ≠ 0 ∨
        zeroAt b 32 32 = false then none
    else
      (ctlRead p l.ctxid (l.measa + 64) (4 * k) s).map fun r =>
        (r.1, { groups := k, savea := numAt b 8 8, savesz := numAt b 16 8, reca := numAt b 24 8, events := r.2.map (·.toNat) })

/-! ## The checks (R389) -/

/-- What a submission comes to: the grid to be started, or a refusal code. -/
inductive SubRes where
  | ok (s : State) (g : Grid)
  | refused (s : State) (code : Nat)

/-- The grid of a record that has passed the checks. -/
def gridOf (p : Nat) (l : Launch) (o : CodeObj) (k : Symbol) (cqs : List (Nat × Nat)) (rqs : List Rq) (bl : List (Nat × Nat × Nat))
    (ses : Option Session) : Grid :=
  { launch := l, partition := p, total := l.gridx * l.gridy * l.gridz, cqs := cqs, bl := bl, obj := o.id, rqs := rqs,
    pc := BitVec.ofNat 32 k.value, cls := l.cls, tag := l.tag, tags := [l.tag], origin := k.value, session := ses, carry := o.carry }

/-- A launch of an object counts for its recency (R392). -/
def touchObj (p ctx id : Nat) (s : State) : State :=
  { s with nextId := s.nextId + 1 }.modCtx p ctx fun c =>
    { c with objs := c.objs.map fun (o : CodeObj) => if o.id = id then { o with used := s.nextId } else o }

/-- The buffer list and the session of a record, RECFORMAT where either breaks its table (log 27). -/
def readExtras (p : Nat) (l : Launch) (s : State) : Option (State × List (Nat × Nat × Nat) × Option Session) :=
  match readBl (controlParty p l.ctxid) l.bladdr (min l.blcount 16) s with
  | some (s, true, bl) =>
    if l.measure then (readSession p l s).map fun r => (r.1, bl, some r.2) else some (s, bl, none)
  | _ => none

/-- The checks from GRIDSHAPE on, of a record whose object is loaded (R389). -/
def checkLaunch (p : Nat) (l : Launch) (id : Nat) (bl : List (Nat × Nat × Nat)) (ses : Option Session) (s : State) : SubRes :=
  if !shapeOk l then .refused s 0x21
  else
    match findEntry p l id s with
    | (s, none) => .refused s (if limitsOk l then 0x23 else 0x22)
    | (s, some (o, k)) =>
      if !limitsOk l || !declaresAs l k || decide (min l.vgrant (kgetD {} s.partitions p).vbudget < o.minregs) then .refused s 0x22
      else
        match bindQueues p l s with
        | none => .refused s 0x24
        | some (s, cqs, rqs) =>
          if !areaOk l then .refused s 0x25
          else if !classOk l then .refused s 0x26
          else .ok (touchObj p l.ctxid o.id s) (gridOf p l o k cqs rqs bl ses)

/-- The fields that the check of CODEOBJ rests on keep RECFORMAT: an aligned object address and the code window of a context that exists
(R392; log 27). -/
def objOk (s : State) (p : Nat) (l : Launch) : Bool :=
  decide (l.codeobj % 64 = 0) && decide (l.codewin % 2 ^ 32 = 0) &&
  (kget s.contexts (ctxKey p l.ctxid)).any fun c => !c.fixed || decide (c.codewin = l.codewin)

/-- SUBMIT A LAUNCH RECORD (R389): the check of CODEOBJ, with the load it needs, comes first, then the table of checks (log 27). -/
def submitRec (p : Nat) (host : Bool) (b : List Byte) (s : State) : SubRes :=
  let l := parseLaunch b
  if !objOk s p l then .refused s 0x20
  else
    match ensureObj p l.ctxid l.codeobj l.codegen l.codewin l.evq s with
    | .refused s c => .refused s c
    | .ok s id =>
      if !formatOk host b then .refused s 0x20
      else
        match readExtras p l s with
        | none => .refused s 0x20
        | some (s, bl, ses) => checkLaunch p l id bl ses s

/-! ## Starting a grid -/

/-- The cores of a partition, in the order of R50. -/
def partitionCores (s : State) (p : Nat) : List Nat :=
  let m := (kgetD {} s.partitions p).gmask
  (List.range 256).filter fun c => bitOf m (c / 32)

/-- Cores of a partition that are in service (R471, R472). -/
def serviceCores (s : State) (p : Nat) : List Nat := (partitionCores s p).filter fun c => !(s.core c).retired

/-- The front end invalidates the code of a launch before its first fetch (R239). -/
def dropLaunchCode (g : Grid) (s : State) : State :=
  let c := s.ctx g.partition g.launch.ctxid
  ((c.objs.filter fun o => o.id = g.obj).flatMap (·.codes)).foldl
    (fun s r => dropWindow g.partition g.launch.ctxid r.1 r.2 s) s

/-- Add a grid to its partition's dispatcher: its identity. -/
def addGrid (g : Grid) (s : State) : State × Nat :=
  let ses := g.session.map fun x => { x with ptr := (kgetD {} s.partitions g.partition).ptr }
  let s := dropLaunchCode g (blBefore (gridParty g.partition g.launch.ctxid) g.bl s)
  ({ s with grids := kput s.grids s.nextId { g with session := ses }, nextId := s.nextId + 1 }, s.nextId)

/-- A part that has not yielded is halted, to be drained and saved whole (R70). -/
def haltPart (p : Part) : Part := if partParked p then p else { p with halted := true }

/-- The runs of a set of waves end between two words: nobody holds their ports, and their roles settle (R215). -/
def dropRuns (waves : List Nat) (s : State) : State := waves.foldl (fun s k => endRun k 2 s) s

/-- A workgroup's parts are halted, to be drained and saved whole into its context unit (R70). -/
def haltWg (id : Nat) (s : State) : State :=
  match kget s.wgs id with
  | none => s
  | some g =>
    let s := writeUnit g (dropRuns g.waves s)
    { s with waves := modWaves (fun w => { w with parts := w.parts.map haltPart }) s.waves g.waves }

/-- Halt every workgroup of other grids on reserved cores, without the cooperative phase (R67). -/
def clearCores (cores : List Nat) (s : State) : State :=
  (s.wgs.filter fun e => cores.contains e.2.core).foldl (fun s e => haltWg e.1 s) s

/-- The time test of R65, in integers: B × G ÷ (C × 0.85 GHz) + 13 µs ≤ D. -/
def meetsDeadline (b g c d : Nat) : Bool := decide (b * g * 100 + 13000 * (85 * c) ≤ d * (85 * c))

/-- ADMIT A DEADLINE LAUNCH (R65, R66, R72): its C cores are reserved and cleared; a refusal gives the status. R72 refuses while a swap-out
waits; a launch handed over while the partition is out or on its way is refused with ADMIT too, which is the model's choice (log 88). -/
def admitGrid (g : Grid) (fetched : Nat) (s : State) : Except Nat (State × Nat) :=
  if g.cls ≠ 0 then .ok (addGrid g s)
  else
    let l := g.launch
    let free := (serviceCores s g.partition).filter fun c => (s.core c).reserved.isNone
    if g.total % l.rcores ≠ 0 then .error 0x0102
    else if !meetsDeadline l.budget g.total l.rcores l.deadline || decide (free.length < l.rcores) ||
        decide ((kgetD {} s.partitions g.partition).swap ≠ 0) then .error 0x0101
    else
      let cores := free.take l.rcores
      let r := addGrid { g with due := some (fetched + l.deadline) } s
      let s := cores.foldl (fun s c => s.modCore c fun x => { x with reserved := some r.2 }) r.1
      .ok (clearCores cores s, r.2)

end Sys2Proof.Machine
end

