-- ==== Sys2Proof/Machine/Records.lean ====
section
/-! DEFINITION. Record queues and their consumers (R330 to R332), launches from the device (R328, R329), and the words EVQ, LAUNCH
and RQ. -/

namespace Sys2Proof.Machine

/-! ## Children (R40, R329) -/

/-- A grid as a child of another: one deeper, device-originated, under its root's tag and queue. -/
def childOf (gid : Nat) (b : Grid) (g : Grid) : Grid :=
  { g with depth := b.depth + 1, parent := some gid, queue := 0xFFFF, rootq := b.rootq, tag := b.tag }

/-- Device-launched grids of a partition with a workgroup not placed (R329). -/
def waitingChildren (s : State) (p : Nat) : Nat :=
  (s.grids.filter fun e => decide (e.2.partition = p) && e.2.parent.isSome && decide (e.2.placed < e.2.total)).length

/-! ## Record queues (R330, R332) -/

/-- A descriptor's fields: RBASE, log2 of the capacity, record bytes, log2 of a batch, CONS, RES, PUB, BAT, FREE. -/
structure RqDesc where
  rbase : Nat
  log2cap : Nat
  size : Nat
  log2b : Nat
  cons : Nat
  res : Nat
  pub : Nat
  bat : Nat
  free : Nat
deriving DecidableEq, Repr

/-- The descriptor in 64 bytes. -/
def rqDesc (b : List Byte) : RqDesc :=
  { rbase := numAt b 0 8, log2cap := numAt b 8 1, size := 16 * (numAt b 9 1 + 1), log2b := numAt b 10 1, cons := numAt b 16 8,
    res := numAt b 24 4, pub := numAt b 28 4, bat := numAt b 32 4, free := numAt b 36 4 }

/-- The counters as bytes 24 to 39. -/
def rqCounters (d : RqDesc) : List Byte := bytesOfNat 4 d.res ++ bytesOfNat 4 d.pub ++ bytesOfNat 4 d.bat ++ bytesOfNat 4 d.free

/-- A difference of counters. -/
def rqDiff (a b : Nat) : Nat := (a + 2 ^ 32 - b) % 2 ^ 32

/-- A grid's translation, as a party outside control mode. -/
def partyOfGrid (g : Grid) : Party := gridParty g.partition g.launch.ctxid

/-- Change binding `n` of a grid. -/
def modRq (gid n : Nat) (f : Rq → Rq) (s : State) : State :=
  s.modGrid gid fun g => { g with rqs := g.rqs.zipIdx.map fun x => if x.2 = n then f x.1 else x.1 }

/-- The leading batches whose consumers have ended. -/
def endedBatches : List (Option Nat) → Nat
  | none :: bs => endedBatches bs + 1
  | _ => 0

/-- FREE advances over the batches that have ended in order (R332). -/
def advanceFree (gid n : Nat) (s : State) : State :=
  let g := kgetD {} s.grids gid
  match g.rqs[n]? with
  | none => s
  | some r =>
    let k := endedBatches r.batches
    if k = 0 then s
    else
      let s := modRq gid n (fun r => { r with batches := r.batches.drop k }) s
      match readFor (partyOfGrid g) r.addr 64 s with
      | none => s
      | some (s, b) =>
        let d := rqDesc b
        (writeFor (partyOfGrid g) (r.addr + 36) (bytesOfNat 4 (d.free + k * 2 ^ d.log2b)) s).getD s

/-- Record a batch of binding `n`: its consumer, or ended at once. -/
def addBatch (gid n : Nat) (c : Option Nat) (s : State) : State :=
  advanceFree gid n (modRq gid n (fun r => { r with batches := r.batches ++ [c] }) s)

/-- A batch that the checks refuse: its event, and the batch has ended (R332). -/
def refuseBatch (gid n k code : Nat) (s : State) : State :=
  let g := kgetD {} s.grids gid
  addBatch gid n none (postEvent g.launch.evq
    { status := 0x0109, fsum := code, queue := 0xFFFF, tag := g.tag, origin := g.origin, count := k % 2 ^ 32 } s)

/-- Launch batch `k` of `c` records over binding `n` of a grid (R332). -/
def launchBatch (gid n cons k c : Nat) (s : State) : State :=
  let g := kgetD {} s.grids gid
  match globalRead g.partition g.launch.ctxid cons 256 s with
  | none => refuseBatch gid n k 0x20 s
  | some (s, b) =>
    if (parseLaunch b).cls = 0 ∧ formatOk false b then refuseBatch gid n k 0x26 s
    else
      match submitRec g.partition false b s with
      | .refused s code => refuseBatch gid n k code s
      | .ok s x =>
        let r := addGrid (childOf gid g { x with total := 1, batch := some (k % 2 ^ 31, c, 0) }) s
        addBatch gid n (some r.2) r.1

/-- The binding of a descriptor by a grid or one of its ancestors (R331). -/
def findRq (s : State) (addr : Nat) : Nat → Nat → Option (Nat × Nat)
  | 0, _ => none
  | fuel + 1, gid =>
    match kget s.grids gid with
    | none => none
    | some g =>
      match g.rqs.findIdx? fun r => r.addr = addr with
      | some n => some (gid, n)
      | none => match g.parent with
        | some p => findRq s addr fuel p
        | none => none

/-- The descriptor that a binding names, read through the binding grid's translation; none where it cannot be read (log 28). -/
def readRq (s : State) (gid n : Nat) : Option (State × RqDesc × Nat) :=
  let g := kgetD {} s.grids gid
  (g.rqs[n]?).bind fun r => (readFor (partyOfGrid g) r.addr 64 s).map fun x => (x.1, rqDesc x.2, r.addr)

/-- ONE ENQR STEP (R332) for a part of a core: the status, 0 OK, 1 FULL, 2 DEPTH, 3 INVALID. -/
def enqStep (core gid n : Nat) (data : List Byte) (s : State) : State × Nat :=
  match readRq s gid n with
  | none => (s, 3)
  | some (s, d, addr) =>
    let g := kgetD {} s.grids gid
    let y := partyOfGrid g
    if 2 ^ d.log2cap ≤ rqDiff d.res d.free then (s, 1)
    else if g.depth = 10 then (s, 2)
    else
      let s := physRelease s core 4
      match writeFor y (d.rbase + d.size * (d.res % 2 ^ d.log2cap)) (data.take d.size) s with
      | none => (s, 3)
      | some s =>
        let res := (d.res + 1) % 2 ^ 32
        let full := decide (2 ^ d.log2b ≤ rqDiff res d.bat)
        let d' := { d with res := res, pub := res, bat := if full then (d.bat + 2 ^ d.log2b) % 2 ^ 32 else d.bat }
        let s := (writeFor y (addr + 24) (rqCounters d') s).getD s
        (if full then launchBatch gid n d.cons (d.bat / 2 ^ d.log2b) (2 ^ d.log2b) s else s, 0)

/-- Flush the remainder of a binding (R332): 0 FLUSHED, 1 EMPTY, 2 where the descriptor cannot be read. -/
def flushRq (gid n : Nat) (s : State) : State × Nat :=
  match readRq s gid n with
  | none => (s, 2)
  | some (s, d, addr) =>
    if d.res = d.bat then (s, 1)
    else
      let k := d.bat / 2 ^ d.log2b
      let next := ((k + 1) * 2 ^ d.log2b) % 2 ^ 32
      let s := (writeFor (partyOfGrid (kgetD {} s.grids gid)) (addr + 24)
        (rqCounters { d with res := next, pub := next, bat := next }) s).getD s
      (launchBatch gid n d.cons k (rqDiff d.res (k * 2 ^ d.log2b)) s, 0)

/-- The end of a binding grid's last workgroup flushes each of its queues (R332). -/
def flushAll (gid : Nat) (s : State) : State :=
  let g := kgetD {} s.grids gid
  (List.range g.rqs.length).foldl (fun s n => (flushRq gid n s).1) (s.modGrid gid fun g => { g with flushed := true })

/-- A consumer grid has ended: its batch counts for FREE (R332). -/
def consumerEnded (gid : Nat) (s : State) : State :=
  match (kget s.grids gid).bind (·.parent) with
  | none => s
  | some b =>
    let n := (kgetD {} s.grids b).rqs.findIdx? fun r => r.batches.contains (some gid)
    match n with
    | none => s
    | some n =>
      advanceFree b n (modRq b n (fun r => { r with batches := r.batches.map fun x => if x = some gid then none else x }) s)

/-! ## RQ words (R331) -/

/-- The effect of ENQR in the lanes of a list: statuses. -/
def enqLanes (c : Ctx) (d a : BitVec 7) : List Nat → State → List (Nat × Nat) → State × List (Nat × Nat)
  | [], s, out => (s, out)
  | l :: ls, s, out =>
    match findRq s (eaPair c a l) 12 c.w.grid with
    | none => enqLanes c d a ls s (out ++ [(l, 3)])
    | some (gid, n) =>
      let size := match readRq s gid n with
        | some r => r.2.1.size
        | none => 0
      let data := ((List.range (size / 4)).map fun i => c.readAt d (i + 1) l).flatMap fun w => bytesOfNat 4 w.toNat
      let r := enqStep (coreOf c.key) gid n data s
      enqLanes c d a ls r.1 (out ++ [(l, r.2)])

/-- The span that ENQR reads and writes in a lane: 1 + S/4 registers of a queue that it finds, else the status alone. -/
def enqSpan (c : Ctx) (d a : BitVec 7) (s : State) (l : Nat) : Opd :=
  let size := ((findRq s (eaPair c a l) 12 c.w.grid).bind fun x => readRq s x.1 x.2).map fun r => r.2.1.size
  { code := d, len := 1 + size.getD 0 / 4, allow := .vec }

/-- The value of a lane in a list of results. -/
def laneVal (rs : List (Nat × Nat)) (l : Nat) : Nat := kgetD 0 rs l

/-- The effect of ENQR: the span's bound and its pending registers come first (R80, R331). -/
def enqrBody (d a : BitVec 7) (la : BitVec 4) (c : Ctx) (s : State) : Res :=
  match c.act.findSome? fun l => (enqSpan c d a s l).bound c.w [l] with
  | some t => .trap s t
  | none =>
    let hits := (c.p.pend.filter fun x => c.act.any fun l => boardHit c.w [l] [enqSpan c d a s l] x).map (·.id)
    let src := fun l => [{ enqSpan c d a s l with src := true }]
    let s := if c.w.flaws.isEmpty then s else s.modWave c.key fun w => c.act.foldl (fun w l => correctReads c.q [l] (src l) w) w
    if !hits.isEmpty then .brk (.board hits c.act)
    else if c.w.areaLost && c.act.any (fun l => decide (c.w.vbound < regNum c.w d l + (enqSpan c d a s l).len)) then .kill s 0x0106 0x22
    else if c.act.any fun l => readsPoison c.w [l] (src l) then .kill s 0x0104 0x20
    else
      let r := enqLanes c d a c.act (s.modPart c.key c.q performReads) []
      afterTakes c (blockLanes c.p.q c.p.n) (.fall (writeLater c d la.toNat (fun l => [BitVec.ofNat 32 (laneVal r.2 l)]) r.1) 1)

/-- ENQR (R331, R332): a record into a record queue. -/
def execEnqr (z : Bool) (d a : BitVec 7) (l : BitVec 4) (s : State) : Out :=
  issueWord z (fun _ => { maj := 0x32, opds := [{ wrSpan d 1 with late := true }, rdAddr a] }) idleWord (enqrBody d a l) s

/-- The effect of RQFLUSH in the lanes of a list. -/
def flushLanes (c : Ctx) (a : BitVec 7) : List Nat → State → List (Nat × Nat) → State × List (Nat × Nat)
  | [], s, out => (s, out)
  | l :: ls, s, out =>
    match findRq s (eaPair c a l) 12 c.w.grid with
    | none => flushLanes c a ls s (out ++ [(l, 2)])
    | some (gid, n) =>
      let r := flushRq gid n s
      flushLanes c a ls r.1 (out ++ [(l, r.2)])

/-- RQFLUSH (R331, R332): the remainder batch of a record queue. -/
def execRqflush (z : Bool) (d a : BitVec 7) (l : BitVec 4) (s : State) : Out :=
  issueWord z (fun _ => { maj := 0x32, opds := [wr d, rdAddr a] }) idleWord
    (fun c s =>
      let r := flushLanes c a c.act s []
      .fall (writeLater c d l.toNat (fun l => [BitVec.ofNat 32 (laneVal r.2 l)]) r.1) 1) s

/-- What RQSTAT gives for an address. -/
def rqStat (c : Ctx) (addr : Nat) (s : State) : List Word :=
  match (findRq s addr 12 c.w.grid).bind fun x => readRq s x.1 x.2 with
  | none => [0xFFFFFFFF#32, 0xFFFFFFFF#32]
  | some r => [BitVec.ofNat 32 (r.2.1.pub + 2 ^ 32 - r.2.1.bat),
               BitVec.ofNat 32 (2 ^ r.2.1.log2cap + 2 ^ 32 - rqDiff r.2.1.res r.2.1.free)]

/-- RQSTAT (R331): records waiting and free slots. -/
def execRqstat (z : Bool) (d a : BitVec 7) (l : BitVec 4) (s : State) : Out :=
  issueWord z (fun _ => { maj := 0x32, opds := [{ wr d with len := 2 }, rdAddr a] }) idleWord
    (fun c s => .fall (writeLater c d l.toNat (fun l => rqStat c (eaPair c a l) s) s) 1) s

/-! ## LAUNCH (R328, R329) -/

/-- The records of a bundle descriptor: its addresses up to the first zero (R318). -/
def bundleAddrs (b : List Byte) : List Nat := ((chunks 8 8 b).map fun e => natOfBytes e).takeWhile (· ≠ 0)

/-- Submit the records of a device bundle one by one; none where one is refused or cannot be read. -/
def submitAll (gid : Nat) : List Nat → State → State × Option (List Nat)
  | [], s => (s, some [])
  | a :: as, s =>
    let b := kgetD {} s.grids gid
    match (if a % 256 = 0 then globalRead b.partition b.launch.ctxid a 256 s else none) with
    | none => (s, none)
    | some (s, bytes) =>
      if (parseLaunch bytes).cls = 0 then (s, none)
      else
        match submitRec b.partition false bytes s with
        | .refused s _ => (s, none)
        | .ok s g =>
          let r := addGrid (childOf gid b g) s
          match submitAll gid as r.1 with
          | (s, some ids) => (s, some (r.2 :: ids))
          | (s, none) => (s, none)

/-- The grids of a list belong to one bundle (R318). -/
def bundleUp (ids : List Nat) (s : State) : State :=
  match ids with
  | [] => s
  | b :: _ => ids.foldl (fun s i => s.modGrid i fun g => { g with bundle := b }) s

/-- Launch the records at some addresses together, all or none: the status of R329. -/
def deviceLaunch (gid : Nat) (addrs : List Nat) (s : State) : State × Nat :=
  let g := kgetD {} s.grids gid
  if g.depth = 10 then (s, 1)
  else if 4096 ≤ waitingChildren s g.partition then (s, 2)
  else if addrs.isEmpty then (s, 3)
  else
    match submitAll gid addrs s with
    | (s', some ids) => (if ids.length = 1 then s' else bundleUp ids s', 0)
    | (s', none) => ({ s' with grids := s.grids }, 3)

/-- The lanes of LAUNCH or LAUNCHB, in order: statuses. -/
def launchLanes (c : Ctx) (bundle : Bool) : List (Nat × Nat × Places) → State → List (Nat × Nat) → State × List (Nat × Nat)
  | [], s, out => (s, out)
  | (l, ea, ps) :: rest, s, out =>
    let r := deviceLaunch c.w.grid (if bundle then bundleAddrs (readPlaces s (.core (coreOf c.key)) ps) else [ea]) s
    launchLanes c bundle rest r.1 (out ++ [(l, r.2)])

/-- An address outside global space. -/
def notGlobal (s : State) (w : Wave) (r : Req) : Bool := decide ((spaceOf (kgetD {} s.partitions w.partition) r.ea).code ≠ 0)

/-- The effect of LAUNCH and LAUNCHB: a fork at DEVICE scope (R262). -/
def launchBody (bundle : Bool) (d a : BitVec 7) (la : BitVec 4) (c : Ctx) (s : State) : Res :=
  let n := if bundle then 64 else 256
  releaseWord c (laneReqs c (eaPair c a) n) n accRead (notGlobal s c.w)
    (fun s ps => poisonRes s ps (
      let r := launchLanes c bundle (ps.map fun x => (x.1, eaPair c a x.1, x.2)) (partRelease c 4 s) []
      .fall (writeLater c d la.toNat (fun l => [BitVec.ofNat 32 (laneVal r.2 l)]) r.1) 1)) s

/-- LAUNCH (R328, R329): a child grid from each active lane's record. -/
def execLaunch (z : Bool) (d a : BitVec 7) (l : BitVec 4) (s : State) : Out :=
  issueWord z (fun _ => { maj := 0x31, opds := [wr d, rdAddr a] }) idleWord (launchBody false d a l) s

/-- LAUNCHB (R328, R329): a bundle from each active lane's descriptor. -/
def execLaunchb (z : Bool) (d a : BitVec 7) (l : BitVec 4) (s : State) : Out :=
  issueWord z (fun _ => { maj := 0x31, opds := [wr d, rdAddr a] }) idleWord (launchBody true d a l) s

/-! ## EVQ (R326, R327) -/

/-- The tag of a word's kernel: the spliced consumer keeps its own (R348, R353). -/
def wordTag (s : State) (c : Ctx) : Nat :=
  let g := kgetD {} s.grids c.w.grid
  match g.consumer with
  | some (_, t) => if (originOf s c.w c.pc0).2.2.1 then t else g.tag
  | none => g.tag

/-- The effect of EVPOST (R327). -/
def evpostBody (d a : BitVec 7) (c : Ctx) (s : State) : Res :=
  afterTakes c (blockLanes c.p.q c.p.n) (.fall (postEvent (kgetD {} s.grids c.w.grid).launch.evq
    { status := 0x0200, fsum := (c.read d c.l0).toNat % 65536, queue := 0xFFFF, tag := wordTag s c,
      origin := (originOf s c.w c.pc0).2.2.2, count := (c.read a c.l0).toNat } (partRelease c 5 s)) 1)

/-- EVPOST (R327): a USER event after a SYSTEM release. -/
def execEvpost (z : Bool) (d a : BitVec 7) (_l : BitVec 4) (s : State) : Out :=
  issueWord z (fun _ => { maj := 0x33, opds := [rd d, rd a] }) idleWord (evpostBody d a) s

/-- An empty queue's pattern (R327). -/
def cqEmpty : List Word := [0xFFFFFFFF#32, 0xFFFFFFFF#32, 0xFFFFFFFF#32, 0xFFFFFFFF#32]

/-- The header of completion queue `n` of a grid: its address, PUT, GET and LOG2N; none where it is unbound or cannot be read
(log 28). -/
def cqOpen (s : State) (gid n : Nat) : Option (State × Nat × Nat × Nat × Nat) :=
  let g := kgetD {} s.grids gid
  (kget g.cqs n).bind fun hdr => (readFor (partyOfGrid g) hdr 64 s).map fun r => (r.1, hdr, cqHeader r.2)

/-- The queue holds a record. -/
def cqHas (s : State) (gid n : Nat) : Bool :=
  match cqOpen s gid n with
  | some (_, _, put, get, _) => decide (get < put)
  | none => false

/-- Take the record at GET, or the empty pattern: one step at DEVICE scope (R327). -/
def cqTake (gid n : Nat) (s : State) : State × List Word :=
  match cqOpen s gid n with
  | none => (s, cqEmpty)
  | some (s', hdr, put, get, log2n) =>
    let y := partyOfGrid (kgetD {} s.grids gid)
    if get < put then
      match readFor y (cqSlot hdr get log2n) 16 s' with
      | none => (s', cqEmpty)
      | some (s2, bs) =>
        match writeFor y (hdr + 8) (bytesOfNat 8 (get + 1)) s2 with
        | none => (s2, cqEmpty)
        | some s3 => (s3, (chunks 4 4 bs).map fun e => BitVec.ofNat 32 (natOfBytes e))
    else (s', cqEmpty)

/-- Each lane of a list takes from its own queue, in order. -/
def pollLanes (c : Ctx) (a : BitVec 7) : List Nat → State → List (Nat × List Word) → State × List (Nat × List Word)
  | [], s, out => (s, out)
  | l :: ls, s, out =>
    let r := cqTake c.w.grid ((c.read a l).toNat % 8) s
    pollLanes c a ls r.1 (out ++ [(l, r.2)])

/-- The effect of CPOLL: a record taken is the join of the operation or grid that it ends (R260, R262). -/
def pollBody (d a : BitVec 7) (la : BitVec 4) (c : Ctx) (s : State) : Res :=
  let r := pollLanes c a c.act s []
  .fall (writeLater c d la.toNat (fun l => kgetD cqEmpty r.2 l) (physAcquire r.1 (coreOf c.key) 5)) 1

/-- The checks of CPOLL and CSLEEP. -/
def pollSig (d a : BitVec 7) (_ : Ctx) : Sig := { maj := 0x33, opds := [wrSpan d 4, rd a] }

/-- CPOLL (R327): a completion record, if there is one. -/
def execCpoll (z : Bool) (d a : BitVec 7) (l : BitVec 4) (s : State) : Out :=
  issueWord z (pollSig d a) idleWord (pollBody d a l) s

/-- The effect of CSLEEP (R327): it waits for the queue of L0, counting its timeout from its first issue, and then polls. -/
def csleepBody (d a : BitVec 7) (la : BitVec 4) (c : Ctx) (s : State) : Res :=
  let x := (c.read a c.l0).toNat
  let dl := c.p.timeout.or (if x / 65536 = 0 then none else some (s.time + 1000 * (x / 65536)))
  if cqHas s c.w.grid (x % 8) || dl.any (fun t => decide (t ≤ s.time)) then pollBody d a la c s
  else .hold (s.modPart c.key c.q fun p => { p with timeout := dl }) (.cond (.ring (x % 8) dl))

/-- CSLEEP (R327): waits for a record or a timeout, and polls. -/
def execCsleep (z : Bool) (d a : BitVec 7) (l : BitVec 4) (s : State) : Out :=
  issueWord z (pollSig d a) idleWord (csleepBody d a l) s

/-- CSLEEP_TIMEOUT (R327): the timeout has passed; the part issues its CSLEEP again, and polls. -/
def execCsleepTimeout (wave q : Nat) (s : State) : Out :=
  .next (s.modWave wave fun w =>
    { w with parts := partMod (fun p =>
        match p.wait with
        | .cond (.ring _ (some t)) => if t ≤ s.time ∧ w.stopped = false then wakePart (cycleOf s (coreOf wave)) p else p
        | _ => p) w.parts q })

/-- The request of L0 alone. -/
def l0Req (c : Ctx) (a : BitVec 7) (n : Nat) : List Req := [{ lane := c.l0, ea := eaPair c a c.l0, n := n }]

/-- An address that is neither global nor host nor peer. -/
def notMapped (s : State) (w : Wave) (r : Req) : Bool := !(spaceOf (kgetD {} s.partitions w.partition) r.ea).mapped

/-- The effect of SIGNAL (R327): a release, then the write in one step at SYSTEM scope. -/
def signalBody (d a : BitVec 7) (c : Ctx) (s : State) : Res :=
  releaseWord c (l0Req c a 8) 8 accAtomic (notMapped s c.w)
    (fun s ps => .fall ((placesOf ps c.l0).foldl (writePieceAt (coreOf c.key) 5 (bytesOfNat 8 (c.read64 false d c.l0).toNat))
      (partRelease c 5 s)) 1) s

/-- SIGNAL (R327): a 64-bit signal. -/
def execSignal (z : Bool) (d a : BitVec 7) (_l : BitVec 4) (s : State) : Out :=
  issueWord z (fun _ => { maj := 0x33, opds := [rdW true d, rdAddr a] }) idleWord (signalBody d a) s

end Sys2Proof.Machine
end

