-- ==== Sys2Proof/Machine/Packets.lean ====
section
/-! DEFINITION. Host packets: fetching and the checks of R314, when a packet may start (R313, R315), how packets and grids complete
(R41, R315, R325, R350), and the shared parts of the packet types. -/

namespace Sys2Proof.Machine

/-! ## Queues and packets -/

/-- The registers of a host queue. -/
def State.queue (s : State) (q : Nat) : HostQueue := kgetD {} s.queues q

/-- Change a host queue. -/
def State.modQueue (s : State) (q : Nat) (f : HostQueue → HostQueue) : State := { s with queues := kput s.queues q (f (s.queue q)) }

/-- A fetched packet that is not complete. -/
def State.packet (s : State) (q seq : Nat) : Option Packet := (s.queue q).packets.find? fun p => p.seq = seq

/-- Change a fetched packet. -/
def State.modPacket (s : State) (q seq : Nat) (f : Packet → Packet) : State :=
  s.modQueue q fun x => { x with packets := x.packets.map fun p => if p.seq = seq then f p else p }

/-- The type of a packet. -/
def Packet.ty (p : Packet) : Nat := numAt p.bytes 0 1

/-- The tag of a packet. -/
def Packet.tag (p : Packet) : Nat := numAt p.bytes 4 4

/-- The lowest defined context of a partition, through which the addresses of packets are translated (log 29). -/
def packetCtx (s : State) (p : Nat) : Nat :=
  match s.contexts.find? fun e => decide (e.1 / 4096 = p) with
  | some e => e.1 % 4096
  | none => 0

/-- The party that reads and writes the addresses of a queue's packets (R314). -/
def packetParty (s : State) (q : Nat) : Party := controlParty (s.queue q).part (packetCtx s (s.queue q).part)

/-- A partition has a context at all. -/
def hasCtx (s : State) (p : Nat) : Bool := s.contexts.any fun e => decide (e.1 / 4096 = p)

/-- An address in global or host space (R225). -/
def hubAddr (s : State) (p a : Nat) : Bool :=
  match spaceOf (kgetD {} s.partitions p) a with
  | .global => true
  | .host => true
  | _ => false

/-- A queue's packets may name `n` bytes from an address: its partition has a context, and they lie in global or host space (R314). -/
def mayName (s : State) (q a n : Nat) : Bool :=
  hasCtx s (s.queue q).part && hubAddr s (s.queue q).part a && hubAddr s (s.queue q).part (a + n - 1)

/-- Read for a queue's packets; none where it fails (FETCH). -/
def packetRead (q a n : Nat) (s : State) : Option (State × List Byte) :=
  if mayName s q a n then readFor (packetParty s q) a n s else none

/-- Write for a queue's packets. -/
def packetWrite (q a : Nat) (bs : List Byte) (s : State) : Option State :=
  if mayName s q a bs.length then writeFor (packetParty s q) a bs s else none

/-! ## The checks of a fetched packet (R312 to R314) -/

/-- The bytes of the body that must be zero, by type: offset and length. -/
def zeroRanges (b : List Byte) : List (Nat × Nat) :=
  match numAt b 0 1 with
  | 0x01 => [(24, 40)]
  | 0x02 => [(24, 40)]
  | 0x03 => [(56, 8)]
  | 0x04 => [(26, 38)]
  | 0x05 => [(33, 31)]
  | 0x06 => [(33, 3), (40, 24)]
  | 0x07 => [(24, 40)]
  | 0x08 => [(20, 44)]
  | 0x09 => [(17, 1), (18 + 2 * min 8 (numAt b 16 1), 46 - 2 * min 8 (numAt b 16 1))]
  | 0x0A => [(17, 7), (32, 32)]
  | 0x0B => [(19, 1), (24, 40)]
  | _ => []

/-- A field of the body is out of its range (log 30). -/
def rangeBroken (b : List Byte) : Bool :=
  match numAt b 0 1 with
  | 0x04 => numAt b 24 2 == 0
  | 0x05 => decide (1 < numAt b 32 1)
  | 0x06 => decide (2 < numAt b 32 1)
  | 0x09 => decide (8 < numAt b 16 1) || (List.range (min 8 (numAt b 16 1))).any fun i => decide (1023 < numAt b (18 + 2 * i) 2)
  | 0x0B => decide (5 < numAt b 16 1) || decide (7 < numAt b 17 1) || decide (15 < numAt b 18 1)
  | _ => false

/-- RESERVED: a field that must be zero is not (R312, R313). -/
def reservedBroken (b : List Byte) : Bool :=
  decide (3 < numAt b 1 1) || decide (4095 < numAt b 2 2) || (decide (numAt b 2 2 = 0) && decide (numAt b 8 8 ≠ 0)) ||
  (zeroRanges b).any (fun r => !zeroAt b r.1 r.2) || rangeBroken b

/-- The addresses of a packet with their alignments; a zero DOM or RAST names nothing. -/
def packetAddrs (b : List Byte) : List (Nat × Nat) :=
  match numAt b 0 1 with
  | 0x01 => [(numAt b 16 8, 256)]
  | 0x02 => [(numAt b 16 8, 64)]
  | 0x03 => [(numAt b 16 8, 256), (numAt b 40 8, 64), (numAt b 48 8, 64)] ++
      (if numAt b 24 8 = 0 then [] else [(numAt b 24 8, 256)]) ++ (if numAt b 32 8 = 0 then [] else [(numAt b 32 8, 256)])
  | 0x04 => [(numAt b 16 8, 32)]
  | 0x05 => [(numAt b 16 8, 8)]
  | 0x06 => [(numAt b 16 8, 8)]
  | 0x07 => [(numAt b 16 8, 8)]
  | _ => []

/-- Bytes that the device reads at an address of a packet when it checks it. -/
def packetSpan (b : List Byte) (align : Nat) : Nat :=
  if numAt b 0 1 = 4 then 32 * numAt b 24 2 else if align = 8 then 8 else align

/-- ALIGN (R314). -/
def alignBroken (b : List Byte) : Bool :=
  (packetAddrs b).any (fun x => decide (x.1 % x.2 ≠ 0)) || decide (numAt b 8 8 % 16 ≠ 0)

/-- The first address of a packet that cannot be read. -/
def unreadable (q : Nat) (b : List Byte) : List (Nat × Nat) → State → State × Option Nat
  | [], s => (s, none)
  | (a, n) :: xs, s =>
    match packetRead q a (packetSpan b n) s with
    | some (s, _) => unreadable q b xs s
    | none => (s, some a)

/-- What the checks come to: a buffer list, or a reason with COUNT. -/
inductive CheckRes where
  | ok (s : State) (bl : List (Nat × Nat × Nat))
  | bad (s : State) (reason count : Nat)

/-- THE CHECKS OF A PACKET, in the order of R314's table. -/
def checkPacket (q : Nat) (b : List Byte) (s : State) : CheckRes :=
  if numAt b 0 1 = 0 ∨ 0x0B < numAt b 0 1 then .bad s 1 0
  else if reservedBroken b then .bad s 2 0
  else if numAt b 0 1 = 0x0B ∧ (s.queue q).priv = false then .bad s 3 0
  else if alignBroken b then .bad s 4 0
  else
    let bl := if numAt b 2 2 = 0 then some (s, true, []) else
      (if mayName s q (numAt b 8 8) (16 * numAt b 2 2) then readBl (packetParty s q) (numAt b 8 8) (numAt b 2 2) s else none)
    match bl with
    | none => .bad s 6 (numAt b 8 8 % 2 ^ 32)
    | some (s, false, _) => .bad s 5 0
    | some (s, true, bl) =>
      match unreadable q b (packetAddrs b) s with
      | (s, some a) => .bad s 6 (a % 2 ^ 32)
      | (s, none) => .ok s bl

/-! ## Fetching (R308, R311) -/

/-- The queue has an exposed packet and may be fetched from (R308, R311). The second packet of a spliced pair is fetched whatever has
happened to the queue since the decision (log 89). -/
def mayFetch (s : State) (q : Nat) : Bool :=
  let x := s.queue q
  s.dev.ready && (x.mate.isSome || (decide (x.state = 1) && x.en && !x.resetting && decide (x.head ≠ x.tail))) &&
  decide ((x.packets.filter fun p => !p.started).length < 64) && (kget s.partitions x.part).isSome

/-- The next of a list of numbers after `n`, cyclically. -/
def nextAfter (n : Nat) (xs : List Nat) : Option Nat := (xs.find? fun x => decide (n < x)).or xs.head?

/-- The queue that is fetched from next for a partition: the highest class, then round-robin (R311). -/
def nextQueue (s : State) (p : Nat) : Option Nat :=
  let qs := (s.queues.map (·.1)).filter fun q => decide ((s.queue q).part = p) && mayFetch s q
  (List.range 4).findSome? fun c =>
    nextAfter (cellsGet 0 s.fetched (p * 4 + c)) (qs.filter fun q => (s.queue q).cls = c)

/-- The ring slot of packet `k` can be read: global addresses lie in the partition's HBM range or in shared HBM (R501). -/
def slotOk' (s : State) (q k : Nat) : Option (Mem × Nat) :=
  let x := s.queue q
  let place := ringPlace (x.base + 64 * (k % max 1 x.size))
  if ringOk s (x.base + 64 * (k % max 1 x.size)) 64 && !(decide (place.1 = .hbm) && foreign s x.part place.2) then some place else none

/-- The bytes of packet `k`; none where its slot cannot be read. -/
def packetBytes (s : State) (q k : Nat) : Option (List Byte) :=
  (slotOk' s q k).map fun p => physReadN s (match p.1 with | .host => .system | _ => .device) p.1 0 p.2 64

/-- A packet fails (R314): the queue enters ERROR and the event names the reason. -/
def badPacket (q reason count tag splice : Nat) (s : State) : State :=
  postEvent (s.queue q).evq { status := 0x010A, fsum := reason, queue := q, splice := splice, tag := tag, count := count }
    (s.modQueue q fun x => { x with state := 3, reason := reason })

/-- A packet that fails while it runs stops at that point (R314). -/
def failPacket (q seq count : Nat) (s : State) : State :=
  let p := s.packet q seq
  (badPacket q 6 count ((p.map (·.tag)).getD 0) ((p.map (·.splice)).getD 0) s).modQueue q fun x =>
    { x with packets := x.packets.filter fun p => p.seq ≠ seq }

/-- QHEAD advances, and what the splicer has said of this packet is used up. -/
def headOn (x : HostQueue) : HostQueue := { x with head := (x.head + 1) % 2 ^ 32, mate := none, mateCode := 0 }

/-- A fetched packet joins its queue. -/
def joinQueue (q : Nat) (p : Packet) (s : State) : State :=
  { s with nextId := s.nextId + 1 }.modQueue q fun y => { y with packets := y.packets ++ [{ p with order := s.nextId, time := s.time }] }

/-- FETCH A PACKET (R308, R311, R314): QHEAD advances, and a packet that passes its checks waits to start. The answer is the packet on
which the splicer decides, if there is one. -/
def fetchNext (q : Nat) (s : State) : State × Option Packet :=
  let x := s.queue q
  let s := { s with fetched := cellsPut 0 s.fetched (x.part * 4 + x.cls) q }.modQueue q headOn
  match x.mate with
  | some p => (joinQueue q p s, none)
  | none =>
    match packetBytes s q x.head with
    | none => (badPacket q 6 (x.base + 64 * (x.head % max 1 x.size)) 0 x.mateCode s, none)
    | some b =>
      match checkPacket q b s with
      | .bad s reason count => (badPacket q reason count (numAt b 4 4) x.mateCode s, none)
      | .ok s bl =>
        let p : Packet := { seq := x.head, order := 0, bytes := b, time := 0, bl := bl, splice := x.mateCode }
        (joinQueue q p s, some p)

/-! ## Completion (R315, R350) -/

/-- A packet completes with a status: FLUSH, the event where R315 asks for one, and the packet is gone. -/
def completePacket (q seq status fsum origin : Nat) (s : State) : State :=
  match s.packet q seq with
  | none => s
  | some p =>
    let s := blAfter (packetParty s q) p.bl s
    let s := s.modQueue q fun x => { x with packets := x.packets.filter fun y => y.seq ≠ seq }
    if status = 0x0100 ∧ bitOf (numAt p.bytes 1 1) 1 = false then s
    else postEvent (s.queue q).evq
      { status := status, fsum := fsum, queue := q, splice := p.splice, tag := p.tag, origin := origin } s

/-- The first result that is not DONE, in member order, or DONE (R318). -/
def packetStatus (p : Packet) : Nat × Nat :=
  ((p.grids.filterMap fun g => (p.results.find? fun r => r.1 = g).map (·.2)).find? fun r => decide (r.1 ≠ 0x0100)).getD (0x0100, 0)

/-- A grid's result reaches a packet; a packet other than a DRAW completes with its last grid. -/
def resultTo (gid : Nat) (g : Grid) (status fsum q : Nat) (s : State) (p : Packet) : State :=
  if p.grids.contains gid then
    let s := s.modPacket q p.seq fun p => { p with results := p.results ++ [(gid, status, fsum)] }
    match s.packet q p.seq with
    | none => s
    | some p =>
      if p.results.length = p.grids.length ∧ p.ty ≠ 3 then
        let st := packetStatus p
        let own := if p.second && decide (st.1 = 0x0100) then (match g.consumer with | some x => x.1 | none => g.origin) else g.origin
        completePacket q p.seq st.1 st.2 own s
      else s
  else s

/-- A grid's result reaches every packet that waits for it; a grid that QDISP handed over has none, and posts an event (log 33). -/
def resultToAll (gid : Nat) (g : Grid) (status fsum : Nat) (s : State) : State :=
  if g.parent.isNone && !(s.queues.any fun e => e.2.packets.any fun p => p.grids.contains gid) then
    postEvent g.launch.evq { status := status, fsum := fsum, queue := g.queue, splice := g.splice, tag := g.tag, origin := g.origin } s
  else s.queues.foldl (fun s e => e.2.packets.foldl (fun s p => resultTo gid g status fsum e.1 s p) s) s

/-! ## Grids complete (R41, R67, R325) -/

/-- The grid has ended: its workgroups have ended, its descendants have completed, every ASTP has been answered, and no traversal runs (R41, R261, R262). -/
def gridEnded (s : State) (gid : Nat) (g : Grid) : Bool :=
  decide (g.ended = g.total) && g.flushed && !(s.grids.any fun e => decide (e.2.parent = some gid)) &&
  !(s.astps.any fun a => a.grid = gid) && !(s.pairs.any fun e => e.2.owner.grid = gid) && !(s.rays.any fun e => e.2.owner.grid = gid)

/-- A completion performs every write of the grid; the model performs those of the partition's cores with them (R262). -/
def performGrid (g : Grid) (s : State) : State :=
  performStores s (fun x => (partitionCores s g.partition).contains x.core) 5

/-- The locks of a context end when its last grid completes (R237; log 31). -/
def dropLocks (p ctx : Nat) (s : State) : State :=
  if s.grids.any fun e => decide (e.2.partition = p) && decide (e.2.launch.ctxid = ctx) then s
  else
    { s with l1Locks := s.l1Locks.filter fun k => k.ctx ≠ ctxKey p ctx, l2Locks := s.l2Locks.filter fun k => k.ctx ≠ ctxKey p ctx }

/-- The status of an ended grid (R67: LATE). -/
def finalStatus (s : State) (g : Grid) : Nat :=
  if g.status = 0x0100 ∧ g.due.any (fun t => decide (t < s.time)) then 0x0113 else g.status

/-- The completion record of a device-launched grid (R325); none while its queue is full. -/
def gridRecord (gid : Nat) (g : Grid) (s : State) : Option State :=
  if g.parent.isSome && bitOf g.launch.cqsel 3 then
    postCq gid (g.launch.cqsel % 8) { status := finalStatus s g, fault := g.fsum, tag := g.launch.tag, chan := 0xFF } s
  else some s

/-- The cores that a DEADLINE launch held are free (R66). -/
def freeCores (gid : Nat) (s : State) : State :=
  { s with cores := kmap (fun _ c => if c.reserved = some gid then { c with reserved := none } else c) s.cores }

/-- The draw that a grid belongs to, and its kind: a pixel grid is a record-queue consumer of a raster grid (R355). -/
def drawOf (s : State) (g : Grid) : Option (Nat × Nat) :=
  g.draw.or (if g.batch.isNone then none else
    g.parent.bind fun p => ((kget s.grids p).bind (·.draw)).bind fun x => if x.2 = 2 then some (x.1, 3) else none)

/-- A status other than DONE is the result of the grid's kind in its draw (R355). -/
def noteDraw (g : Grid) (status fsum : Nat) (s : State) : State :=
  match drawOf s g with
  | none => s
  | some (d, k) =>
    if status = 0x0100 then s
    else
      { s with draws := kmod (fun x =>
          { x with results := if (kget x.results k).isSome then x.results else kput x.results k (status, fsum) }) s.draws d }

/-- The addresses of the stores that a spliced grid left out, with their byte counts: every expression at every workgroup, iteration and
lane (R341, R347, R351). -/
def elidedStores (g : Grid) : List (Nat × Nat) :=
  g.elided.flatMap fun m => (List.range g.total).flatMap fun lin => (List.range g.loops).flatMap fun it =>
    (List.range g.launch.wave).map fun lane => (wrapInt 64 (m.c0 + m.cl * lane + m.ci * it + m.cw * lin), m.bytes)

/-- The bytes that elided stores would have written hold free values (R351, log 90). -/
def freeElided (g : Grid) (s : State) : State :=
  (elidedStores g).foldl (fun s x =>
    let bs := (List.range x.2).map fun i => Config.freeByte (s.fresh + i)
    { (writeFor (partyOfGrid g) x.1 bs s).getD s with fresh := s.fresh + x.2 }) s

/-- A grid that has ended completes: FLUSH, its record, its packets, and it is gone. -/
def finishGrid (gid : Nat) (g : Grid) (s : State) : State :=
  let s := blAfter (partyOfGrid g) g.bl (freeElided g (performGrid g s))
  match gridRecord gid g s with
  | none => s
  | some s =>
    let s := resultToAll gid g (finalStatus s g) g.fsum (noteDraw g (finalStatus s g) g.fsum (consumerEnded gid s))
    sweepObjs g.partition g.launch.ctxid
      (dropLocks g.partition g.launch.ctxid (freeCores gid { s with grids := kdel s.grids gid }))

/-- COMPLETE A GRID (R41, R332): the end of its last workgroup flushes its record queues; then, with no descendant left, it
completes. A MEASURE session ends first (R453). -/
def completeGrid (gid : Nat) (s : State) : State :=
  match kget s.grids gid with
  | none => s
  | some g =>
    if g.ended = g.total ∧ g.more = false ∧ g.session.isNone then
      let s := if g.flushed then s else flushAll gid s
      match kget s.grids gid with
      | none => s
      | some g => if gridEnded s gid g then finishGrid gid g s else s
    else s

/-! ## Starting (R313, R315) -/

/-- The packet may start (R313, R315): in sequence, behind no WAITSIG or QBARRIER, and after every earlier packet has completed if
it waits. -/
def mayStart (s : State) (q seq : Nat) (waits : Bool) : Bool :=
  match s.packet q seq with
  | none => false
  | some p =>
    let earlier := (s.queue q).packets.takeWhile fun x => x.seq ≠ seq
    !p.started && earlier.all (fun x => x.started && !(x.ty == 6 || x.ty == 9)) &&
      (!(waits || bitOf (numAt p.bytes 1 1) 0) || earlier.isEmpty)

/-- Start a packet of a type: INV of its buffer list comes first. -/
def startPacket (q seq ty : Nat) (waits : Bool) (f : Packet → State → State) (s : State) : Out :=
  .next (match s.packet q seq with
    | none => s
    | some p =>
      if decide (p.ty = ty) && mayStart s q seq waits then
        f p (blBefore (packetParty s q) p.bl (s.modPacket q seq fun p => { p with started := true }))
      else s)

/-- The packet completes with a status and no grid. -/
def donePacket (q seq status fsum : Nat) (s : State) : State := completePacket q seq status fsum 0 s

end Sys2Proof.Machine
end

