-- ==== Sys2Proof/Machine/Splicer.lean ====
section
/-! DEFINITION. The splicer (R336 to R353): the shape of a kernel, the conditions of R339, how the spliced kernel is built (R345 to
R347), its launch record (R348) and the splice cache (R349). -/

namespace Sys2Proof.Machine

/-! ## The fields of a word that the splicer reads -/

/-- Low bits of the register fields of a word (R75, R77). -/
def regFields (w : Word) : List Nat :=
  let f := (fieldF w).toNat
  let b := (fieldB w).toNat
  let d := [18]
  let da := [18, 11]
  let dab := [18, 11, 4]
  match (fieldMaj w).toNat with
  | 0x01 => if f = 6 ∨ f = 7 then da else dab
  | 0x02 => if f ≤ 3 ∨ f = 7 ∨ f = 11 then da else dab
  | 0x03 => dab
  | 0x04 => dab
  | 0x05 => if f = 7 then da else dab
  | 0x06 => if f = 5 ∨ f = 6 ∨ f = 7 ∨ f = 10 then da else dab
  | 0x07 => dab
  | 0x08 => dab
  | 0x09 => if f = 3 then dab else da
  | 0x0A => if 8 ≤ f then dab else da
  | 0x0B => if f ≤ 1 then dab else da
  | 0x0C => if f % 8 ≤ 5 then dab else da
  | 0x0D => da
  | 0x0E => da
  | 0x0F => da
  | 0x10 => [15, 8]
  | 0x11 => [15]
  | 0x12 => if (fieldMB w).toNat = 0 then [] else [15]
  | 0x13 => da
  | 0x14 => dab
  | 0x15 => dab
  | 0x16 => dab
  | 0x17 => da
  | 0x18 => da
  | 0x19 => if b % 4 = 3 then [11] else da
  | 0x1B => if b = 2 ∨ b = 3 then da else if b = 9 then [] else [11]
  | 0x1C => da
  | 0x1D => da
  | 0x1E => da
  | 0x1F => da
  | 0x22 => d
  | 0x23 => d
  | 0x24 => d
  | 0x25 => if f = 1 then [] else d
  | 0x26 => if f = 0 ∨ f = 1 ∨ f = 5 ∨ f = 6 then d else []
  | 0x27 => d
  | 0x29 => if f = 4 then d else []
  | 0x2A => if f = 15 then d else if f = 5 ∨ f = 6 then [4] else []
  | 0x2B => d
  | 0x2C => d
  | 0x2D => if f = 0 ∨ f = 3 then [] else d
  | 0x2E => if f = 3 then [] else d
  | 0x2F => da
  | 0x30 => d
  | 0x31 => da
  | 0x32 => da
  | 0x33 => da
  | 0x34 => da
  | 0x35 => da
  | 0x36 => da
  | 0x37 => if f = 0 then dab else if f = 3 ∨ f = 4 then [11, 4] else da
  | 0x38 => if b = 9 then d else da
  | 0x39 => if f = 5 ∨ f = 6 then [] else d
  | _ => []

/-- The register code of a field. -/
def fieldAt (w : Word) (lo : Nat) : BitVec 7 := w.extractLsb' lo 7

/-- Fields that hold an address or another 64-bit value in every mode. -/
def pairFields (w : Word) : List Nat :=
  let m := (fieldMaj w).toNat
  let f := (fieldF w).toNat
  let b := (fieldB w).toNat
  if (0x13 ≤ m ∧ m ≤ 0x19) ∨ m = 0x1B ∨ m = 0x1E ∨ m = 0x2F ∨ m = 0x31 ∨ m = 0x38 then [11]
  else if m = 0x32 then (if b = 2 then [18, 11] else [11])
  else if m = 0x05 then (if f ≤ 1 then [18, 11, 4] else [18, 11])
  else if m = 0x1F then (if f ≤ 2 then [18] else [11])
  else if m = 0x33 then (if b = 3 then [18, 11] else [])
  else if m = 0x2B then (if f ≤ 1 ∧ selWide (fieldSel w).toNat then [18] else [])
  else if m = 0x34 ∨ (m = 0x0C ∧ f % 8 = 6) ∨ (m = 0x30 ∧ f ≠ 3) ∨ (m = 0x2D ∧ (f = 1 ∨ f = 2 ∨ f = 4)) ∨ (m = 0x39 ∧ f = 1) then [18]
  else if m = 0x37 ∧ (f = 2 ∨ f = 3 ∨ f = 4) then [11]
  else []

/-- The uniform registers that a word names; CALL, CALLI and RET name w23 (R342). -/
def namedW (w : Word) : List Nat :=
  let m := (fieldMaj w).toNat
  (regFields w).flatMap (fun lo =>
    let c := fieldAt w lo
    if codeIsW c then (c.toNat - 0x60) :: (if (pairFields w).contains lo then [c.toNat - 0x60 + 1] else []) else []) ++
  (if m = 0x21 ∨ (m = 0x25 ∧ fieldF w ≠ 0#4) then [23] else [])

/-- A word that names a g register. -/
def namesG (w : Word) : Bool := decide (fieldMaj w = 0x2B#6) && decide (2 ≤ (fieldF w).toNat)

/-- A word with an LA field (R75). -/
def hasLa (w : Word) : Bool :=
  let m := (fieldMaj w).toNat
  (decide (0x10 ≤ m) && decide (m ≤ 0x19)) || [0x1B, 0x1C, 0x1D, 0x1E, 0x2F, 0x31, 0x32, 0x33, 0x34, 0x35, 0x36, 0x38].contains m

/-- A prefix word. -/
def isPrefixWord (w : Word) : Bool := decide (0x3E ≤ (fieldMaj w).toNat)

/-- An END word. -/
def isEndWord (w : Word) : Bool := decide (w.toNat % 2 ^ 31 = 0x29 * 2 ^ 25)

/-- The registers that a word writes in a wave of a width: the low bit of the field, the first register's place in the span, and the
count. A count that the mode decides is the least it can be, but for the tiles' own spans (log 32). -/
def writtenSpan (wave : Nat) (w : Word) : Nat × Nat × Nat :=
  let m := (fieldMaj w).toNat
  let f := (fieldF w).toNat
  let b := (fieldB w).toNat
  if m = 0x05 ∨ (m = 0x0C ∧ f % 8 = 6) ∨ (m = 0x1F ∧ f ≤ 2) ∨ (m = 0x30 ∧ f ≠ 2 ∧ f ≠ 3) ∨ (m = 0x32 ∧ b = 2) ∨ m = 0x34 ∨
      (m = 0x37 ∧ f = 0) then (18, 0, 2)
  else if m = 0x0A then (18, 0, recRegs (nrwKind ((fieldF w).extractLsb' 0 2)))
  else if (m = 0x0B ∧ f = 1) ∨ (m = 0x33 ∧ (b = 1 ∨ b = 2)) ∨ m = 0x35 ∨ m = 0x36 ∨ (m = 0x38 ∧ b ≤ 1) then (18, 0, 4)
  else if m = 0x12 then (if (fieldMB w).toNat = 1 ∨ (fieldMB w).toNat = 3 then (15, 0, wave) else (15, 0, 0))
  else if m = 0x17 then (18, 0, (fieldMV w).toNat + 1)
  else if m = 0x19 then
    (if b % 4 = 0 then (18, 2, if b / 4 % 2 = 0 then 1 else 0) else if b % 8 = 1 then (18, 0, 2) else (18, 0, if b % 4 = 3 then 0 else 3))
  else if m = 0x2B then (if f = 0 then (18, 0, if selWide (fieldSel w).toNat then 2 else 1) else (18, 0, if f = 1 ∨ f = 3 then 0 else 1))
  else if m = 0x37 then (18, 0, if f = 1 then 13 else if f = 3 ∨ f = 4 then 0 else 1)
  else if (0x01 ≤ m ∧ m ≤ 0x0F) ∨ m = 0x14 ∨ m = 0x16 ∨ m = 0x18 ∨ (m = 0x1B ∧ (b = 2 ∨ b = 3)) ∨ (m = 0x30 ∧ f = 3) ∨
      (m = 0x2F ∧ b = 3) ∨ m = 0x31 ∨ m = 0x32 then (18, 0, 1)
  else (18, 0, 0)

/-- The v registers that a word writes. -/
def writtenRegs (wave : Nat) (w : Word) : List Nat :=
  let x := writtenSpan wave w
  if codeIsV (fieldAt w x.1) then (List.range x.2.2).map (· + x.2.1 + (fieldAt w x.1).toNat) else []

/-! ## Kernels (R340) -/

/-- A word with its window offset. -/
abbrev PcWord := Nat × Word

/-- A kernel as the splicer cuts it: the prologue, the prefix group and LOOP, the body, the epilogue; and the loop count. -/
structure Kernel where
  entry : Nat
  start : Nat
  stop : Nat
  count : Word
  pro : List PcWord
  loop : List PcWord
  body : List PcWord
  epi : List PcWord
deriving DecidableEq, Repr

/-- Every word of a kernel. -/
def Kernel.words (k : Kernel) : List PcWord := k.pro ++ k.loop ++ k.body ++ k.epi

/-- The constant of a prefix group (R83). -/
def groupConst : List PcWord → Option Word
  | [(_, x)] => if fieldMaj x = 0x3F#6 then some ((fieldO25 x).signExtend 32) else none
  | [(_, h), (_, x)] =>
    if fieldMaj h = 0x3E#6 ∧ fieldMaj x = 0x3F#6 then some ((h.extractLsb' 0 7).zeroExtend 32 <<< 25 ||| (fieldO25 x).zeroExtend 32)
    else none
  | _ => none

/-- The words up to and with the last END. -/
def toLastEnd (ws : List PcWord) : List PcWord := (ws.reverse.dropWhile fun x => !isEndWord x.2).reverse

/-- Cut a kernel's words at its SPLICE section; none where R340 is broken. -/
def cutKernel (entry : Nat) (x : SpliceSect) (ws : List PcWord) : Option Kernel :=
  let before := ws.filter fun w => decide (w.1 < x.start)
  let loop := before.drop (before.length - 1)
  let groups := (before.dropLast).reverse.takeWhile fun w => isPrefixWord w.2
  let pro := before.dropLast.take (before.length - 1 - groups.length)
  let epi := toLastEnd (ws.filter fun w => decide (x.stop < w.1))
  match loop, groupConst groups.reverse with
  | [(pc, l)], some k =>
    if fieldMaj l = 0x27#6 ∧ fieldF l = 0#4 ∧ fieldD l = 0x7A#7 ∧ pc + 4 = x.start ∧ pc + 4 * (fieldSel l).toNat = x.stop ∧ epi ≠ [] then
      some { entry := entry, start := x.start, stop := x.stop, count := k, pro := pro, loop := groups.reverse ++ loop,
             body := ws.filter (fun w => decide (x.start ≤ w.1) && decide (w.1 ≤ x.stop)), epi := epi }
    else none
  | _, _ => none

/-- Where a kernel's code ends: the next kernel symbol, or the end of its CODE section. -/
def kernelLimit (o : CodeObj) (entry : Nat) : Nat :=
  let sect := ((o.codes.find? fun c => decide (c.1 ≤ entry) && decide (entry < c.1 + c.2)).map fun c => c.1 + c.2).getD entry
  (o.syms.filter fun y => decide (y.kind = 1) && decide (entry < y.value)).foldl (fun m y => min m y.value) sect

/-- Read a kernel of a loaded object. -/
def readKernel (p ctx : Nat) (o : CodeObj) (entry : Nat) (x : SpliceSect) (s : State) : State × Option Kernel :=
  match ctlRead p ctx ((s.ctx p ctx).codewin + entry) (kernelLimit o entry - entry) s with
  | some (s, bs) => (s, cutKernel entry x ((wordsIn bs).zipIdx.map fun w => (entry + 4 * w.2, w.1)))
  | none => (s, none)

/-! ## Marks (R341) -/

/-- Two marks have the same expression and byte count; `full` compares ci and cw too. -/
def sameMark (full : Bool) (a b : Mark) : Bool :=
  decide (a.b = b.b) && decide (a.bytes = b.bytes) && decide (a.c0 = b.c0) && decide (a.cl = b.cl) &&
  (!full || (decide (a.ci = b.ci) && decide (a.cw = b.cw)))

/-- Each of one list has exactly one equal mark in the other, and the other way round. -/
def matched (as bs : List Mark) : Bool :=
  as.all (fun a => (bs.filter (sameMark true a)).length = 1) && bs.all (fun b => (as.filter fun a => sameMark true a b).length = 1)

/-- The marks differ only in ci or cw: where none is matched twice over, as many stores as loads share each of the other fields (R341). -/
def remapped (as bs : List Mark) : Bool :=
  as.all (fun a => (bs.filter (sameMark true a)).length ≤ 1) && bs.all (fun b => (as.filter fun a => sameMark true a b).length ≤ 1) &&
  (as ++ bs).all fun a => (as.filter (sameMark false a)).length = (bs.filter (sameMark false a)).length

/-- Registers of a marked word's data span. -/
def markSpan (w : Word) (bytes : Nat) : Nat :=
  let m := (fieldMaj w).toNat
  if m = 0x13 ∨ m = 0x17 then (fieldMV w).toNat + 1 else if bytes = 8 then 2 else 1

/-- The word at an offset. -/
def wordAt (ws : List PcWord) (pc : Nat) : Word := ((ws.find? fun x => x.1 = pc).map (·.2)).getD 0#32

/-- A pair to be spliced: both kernels, the marks in pairs (store, load), the counts. -/
structure SpPair where
  prod : Kernel
  cons : Kernel
  pairs : List (Mark × Mark)
  wave : Nat
  /-- declared registers, and the producer's tiles -/
  np : Nat
  nc : Nat
  tp : Nat
  mask : Nat
  /-- wp and wc -/
  wp : Nat
  wc : Nat
deriving DecidableEq, Repr

/-- Forwarded consumer registers with the producer registers they take (R343, R346). -/
def SpPair.forwards (x : SpPair) : List (Nat × Nat) :=
  x.pairs.flatMap fun m =>
    let ld := wordAt x.cons.words m.2.word
    let st := wordAt x.prod.words m.1.word
    (List.range (markSpan ld m.2.bytes)).map fun i => ((fieldD ld).toNat + i, (fieldD st).toNat + i)

/-- Forwarded consumer registers. -/
def SpPair.forwarded (x : SpPair) : List Nat := (x.forwards.map (·.1)).eraseDups

/-- The combined register count (R343). -/
def SpPair.regs (x : SpPair) : Nat := x.np + x.nc - x.forwarded.length

/-- The new number of a consumer register (R346). -/
def SpPair.renum (x : SpPair) (r : Nat) : Nat :=
  match kget x.forwards r with
  | some p => p
  | none => x.np + ((List.range r).filter fun i => !(x.forwarded.contains i)).length

/-! ## Code conditions (R344) -/

/-- The units of a list of words: the offsets of words that are no prefix (R84). -/
def unitsOf (ws : List PcWord) : List PcWord := ws.filter fun w => !isPrefixWord w.2

/-- A window that opens in a list of words reaches beyond its end. -/
def windowLeaves (ws : List PcWord) : Bool :=
  (unitsOf ws).zipIdx.any fun x => hasLa x.1.2 && decide ((unitsOf ws).length ≤ x.2 + (fieldF x.1.2).toNat) && decide (fieldF x.1.2 ≠ 0#4)

/-- A consumer word that the splicer cannot renumber: an indirect code, MODE.WORD, or a six-bit register field that the new number
does not fit (log 32). -/
def badConsumer (x : SpPair) (w : Word) : Bool :=
  (regFields w).any (fun lo => codeIsX (fieldAt w lo)) || (decide (fieldMaj w = 0x2A#6) && decide (fieldF w = 15#4)) ||
  (decide (fieldMaj w = 0x11#6) && decide (64 ≤ x.renum ((w.extractLsb' 8 6).toNat)))

/-- The code conditions of R344, but for the branches. -/
def codeOk (x : SpPair) : Bool :=
  let loads := x.pairs.map (·.2.word)
  !(x.cons.words.any fun w => badConsumer x w.2) &&
  !(x.cons.words.any fun w => !(loads.contains w.1) && (writtenRegs x.wave w.2).any fun r => x.forwarded.contains r) &&
  x.pairs.all (fun m =>
    decide (fieldF (wordAt x.cons.words m.2.word) = 0#4) && codeIsV (fieldD (wordAt x.cons.words m.2.word)) &&
    codeIsV (fieldD (wordAt x.prod.words m.1.word))) &&
  [x.prod, x.cons].all (fun k => !windowLeaves (k.pro ++ k.loop) && !windowLeaves k.body) &&
  !(x.prod.words.dropLast.any fun w => isEndWord w.2)

/-! ## Building (R345 to R347) -/

/-- A word of the spliced kernel: its original PC, whether it is the consumer's, whether the splicer inserted it. -/
structure SpWord where
  pc : Nat
  cons : Bool
  w : Word
  ins : Bool := false
deriving DecidableEq, Repr

/-- SREAD wk, MODE. -/
def sreadMode (k : Nat) : Word := wordS false 0x2B#6 (BitVec.ofNat 7 (0x60 + k)) 0x17#14 0#4

/-- MODE.WORD wk. -/
def modeWordW (k : Nat) : Word := wordS false 0x2A#6 (BitVec.ofNat 7 (0x60 + k)) 0#14 15#4

/-- Original words that fall away: matched loads, elided stores, the consumer's region words (R346, R347). -/
def SpPair.removed (x : SpPair) (cons : Bool) (w : PcWord) : Bool :=
  if cons then (x.pairs.any fun m => m.2.word = w.1) || decide (fieldMaj w.2 = 0x2C#6)
  else x.pairs.any fun m => decide (m.1.word = w.1) && bitOf x.mask m.1.b

/-- Drop the removed words of a list with their prefix groups. -/
def keepWords (gone : PcWord → Bool) (ws : List PcWord) : List PcWord :=
  (ws.foldr (fun w (acc : List PcWord × Bool) =>
    if isPrefixWord w.2 then (if acc.2 then acc else (w :: acc.1, false))
    else if gone w then (acc.1, true) else (w :: acc.1, false)) ([], false)).1

/-- Replace bits of a word. -/
def putBits (w : Word) (lo n v : Nat) : Word :=
  BitVec.ofNat 32 (w.toNat - w.toNat / 2 ^ lo % 2 ^ n * 2 ^ lo + v % 2 ^ n * 2 ^ lo)

/-- A consumer word with its registers and tiles renumbered (R346). -/
def SpPair.rename (x : SpPair) (w : Word) : Word :=
  let w1 := (regFields w).foldl (fun v lo => if codeIsV (fieldAt w lo) then putBits v lo 7 (x.renum (fieldAt w lo).toNat) else v) w
  let m := (fieldMaj w).toNat
  let w2 := if m = 0x11 then putBits w1 8 6 (x.renum (w.extractLsb' 8 6).toNat) else w1
  if 0x10 ≤ m ∧ m ≤ 0x12 then putBits w2 22 3 ((fieldT w).toNat + x.tp)
  else if (m = 0x2D ∧ fieldF w = 3#4) ∨ (m = 0x30 ∧ fieldF w = 3#4) then putBits w2 4 3 ((w.extractLsb' 4 3).toNat + x.tp)
  else w2

/-- The kept words of a stretch of a kernel, rewritten but for their branches and windows. -/
def SpPair.stretch (x : SpPair) (cons : Bool) (ws : List PcWord) : List SpWord :=
  (keepWords (x.removed cons) ws).map fun w => { pc := w.1, cons := cons, w := if cons then x.rename w.2 else w.2 }

/-- Inserted words, their origins still to be found. -/
def inserted (cons : Bool) (dflt : Nat) (ws : List Word) : List SpWord := ws.map fun w => { pc := dflt, cons := cons, w := w, ins := true }

/-- Give each inserted word of a segment its origin: that of the first original word after it, or else of the last before it (R353). A
segment without original words keeps what stands there. -/
def originFill : Option SpWord → List SpWord → List SpWord
  | _, [] => []
  | last, w :: ws =>
    if w.ins then
      match (ws.find? fun y => !y.ins).or last with
      | some y => { w with pc := y.pc, cons := y.cons } :: originFill last ws
      | none => w :: originFill last ws
    else w :: originFill (some w) ws

/-- Segment 4 of R345 in its two halves, with the origins of its inserted words. -/
def SpPair.bodies (x : SpPair) : List SpWord × List SpWord :=
  let a := inserted false x.prod.start [modeWordW x.wp] ++ x.stretch false x.prod.body ++ inserted false x.prod.start [sreadMode x.wp]
  let b := inserted true x.cons.start [modeWordW x.wc] ++ x.stretch true x.cons.body ++ inserted true x.cons.start [sreadMode x.wc]
  let both := originFill none (a ++ b)
  (both.take a.length, both.drop a.length)

/-- The segments of R345: 1, 2, 3, the two halves of 4, 5 and 6. The LOOP word and its prefix group carry the consumer's origin, as
"The LOOP, 0x204C → 0x84" of the spliced program has it. -/
def SpPair.segments (x : SpPair) : List (List SpWord) :=
  let epi := if x.prod.epi.length = 0 then [] else x.prod.epi.dropLast
  [ originFill none (x.stretch false x.prod.pro ++ inserted false x.prod.entry [sreadMode x.wp]),
    originFill none (x.stretch true x.cons.pro ++ inserted true x.cons.entry [sreadMode x.wc]),
    x.cons.loop.map (fun w => { pc := w.1, cons := true, w := w.2 }),
    x.bodies.1,
    x.bodies.2,
    originFill none (inserted false x.prod.stop [modeWordW x.wp] ++ x.stretch false epi ++ inserted false x.prod.stop [sreadMode x.wp]),
    originFill none (inserted true x.cons.stop [modeWordW x.wc] ++ x.stretch true x.cons.epi) ]

/-- First index of each segment. -/
def segStarts : Nat → List (List SpWord) → List Nat
  | _, [] => []
  | n, x :: xs => n :: segStarts (n + x.length) xs

/-- The segment of an original offset of a kernel: prologue, body, epilogue; none outside. -/
def segOf (k : Kernel) (cons : Bool) (pc : Nat) : Option Nat :=
  let last := ((k.epi.getLast?).map (·.1)).getD k.stop
  if pc < k.entry ∨ last < pc then none
  else if pc < k.start then some (if cons then 1 else 0)
  else if pc ≤ k.stop then some (if cons then 4 else 3)
  else some (if cons then 6 else 5)

/-- The index of the word that a branch of a kernel to an original offset reaches: the first kept word from there in its segment, else
the segment's last word; the epilogue is entered at its MODE.WORD. -/
def newIndex (x : SpPair) (cons : Bool) (pc : Nat) : Option Nat :=
  let k := if cons then x.cons else x.prod
  (segOf k cons pc).map fun i =>
    let seg := x.segments.getD i []
    let base := (segStarts 0 x.segments).getD i 0
    if pc = k.stop + 4 then base
    else base + ((seg.findIdx? fun w => !w.ins && decide (pc ≤ w.pc)).getD (seg.length - 1))

/-- The index of the last kept word at or before an original offset, for the end of an inner loop. -/
def lastIndex (x : SpPair) (cons : Bool) (pc : Nat) : Option Nat :=
  let k := if cons then x.cons else x.prod
  (segOf k cons pc).map fun i =>
    let seg := x.segments.getD i []
    (segStarts 0 x.segments).getD i 0 + ((seg.filter fun w => !w.ins && decide (w.pc ≤ pc)).length +
      (seg.takeWhile (·.ins)).length - 1)

/-- The byte offset of an original target in the new layout. -/
def newTarget (x : SpPair) (base : Nat) (cons : Bool) (pc : Nat) : Nat :=
  match newIndex x cons pc with
  | some i => base + 4 * i
  | none => pc

/-- A word offset field of `n` bits, if it reaches. -/
def putOffset (w : Word) (n : Nat) (here target : Nat) : Option Word :=
  let d := sintOf 32 ((target + 2 ^ 33 - here - 4) % 2 ^ 32) / 4
  if -(2 ^ (n - 1)) ≤ d ∧ d < 2 ^ (n - 1) then some (putBits w 0 n (wrapInt n d)) else none

/-- An IMM14 that counts words between two offsets, if it fits. -/
def putImm (w : Word) (lo hi : Nat) : Option Word :=
  let d := (hi + 2 ^ 32 - lo) % 2 ^ 32 / 4
  if d < 2 ^ 14 ∧ 0 < d then some (putBits w 4 14 d) else none

/-- The units of an original word's stretch: those of its prologue with LOOP, of its body or of its epilogue. -/
def stretchUnits (k : Kernel) (pc : Nat) : List PcWord :=
  unitsOf (if pc < k.start then k.pro ++ k.loop else if pc ≤ k.stop then k.body else k.epi)

/-- Where the window of a word ends in the new layout: at the last unit of it that is kept, and at the common LOOP for either kernel's. -/
def windowEnd (x : SpPair) (ws : List SpWord) (w : SpWord) : Option Nat :=
  let k := if w.cons then x.cons else x.prod
  let win := ((stretchUnits k w.pc).filter fun u => decide (w.pc < u.1)).take (fieldF w.w).toNat
  ((win.filter fun u => !x.removed w.cons u).getLast?).bind fun u =>
    ws.findIdx? fun y => !y.ins && !isPrefixWord y.w &&
      (if u.1 + 4 = k.start then y.cons && decide (y.pc + 4 = x.cons.start) else decide (y.cons = w.cons) && decide (y.pc = u.1))

/-- A word with its LA recounted, so that its window covers the same original words (R346): the units from it to the window's end. None
where they are more than 15, which no LA can hold (log 32). -/
def recountLa (x : SpPair) (ws : List SpWord) (i : Nat) (w : SpWord) : Option Word :=
  if hasLa w.w && !w.ins then
    match windowEnd x ws w with
    | none => some (putBits w.w 0 4 0)
    | some j =>
      let n := ((ws.drop (i + 1)).take (j - i)).filter (fun y => !isPrefixWord y.w) |>.length
      if n < 16 then some (putBits w.w 0 4 n) else none
  else some w.w

/-- A word of the new layout with its branch recomputed (R346); none where it does not reach (R344). -/
def relink (x : SpPair) (base i : Nat) (w : SpWord) : Option Word :=
  let here := base + 4 * i
  let m := (fieldMaj w.w).toNat
  let f := (fieldF w.w).toNat
  let imm := (fieldSel w.w).toNat
  if w.ins then some w.w
  else if m = 0x20 ∨ m = 0x21 then
    putOffset w.w 25 here (newTarget x base w.cons ((w.pc + 4 + 4 * ((fieldO25 w.w).signExtend 32).toNat) % 2 ^ 32))
  else if 0x22 ≤ m ∧ m ≤ 0x24 then
    putOffset w.w 18 here (newTarget x base w.cons ((w.pc + 4 + 4 * ((fieldO18 w.w).signExtend 32).toNat) % 2 ^ 32))
  else if m = 0x26 ∧ f = 7 then putImm w.w (newTarget x base w.cons ((w.pc + 2 ^ 32 - 4 * imm) % 2 ^ 32)) here
  else if m = 0x26 ∧ f ≠ 3 then putImm w.w here (newTarget x base w.cons ((w.pc + 4 * imm) % 2 ^ 32))
  else if m = 0x27 ∧ f = 0 then
    if w.pc + 4 = x.cons.start ∧ w.cons then putImm w.w here (base + 4 * ((segStarts 0 x.segments).getD 5 0 - 1))
    else
      match lastIndex x w.cons ((w.pc + 4 * imm) % 2 ^ 32) with
      | some j => putImm w.w here (base + 4 * j)
      | none => putImm w.w here (w.pc + 4 * imm)
  else some w.w

/-- The spliced kernel at a code-window offset; none where a branch does not reach or it is too long (R344). -/
def buildSplice (x : SpPair) (base : Nat) : Option SpliceCode :=
  let ws := x.segments.flatten
  if 16384 < ws.length then none
  else
    (ws.zipIdx.foldr (fun w acc => acc.bind fun l =>
        (recountLa x ws w.2 w.1).bind fun v => (relink x base w.2 { w.1 with w := v }).map (· :: l)) (some [])).map fun out =>
      { start := base, words := out, tags := ws.map fun w => (w.pc, w.cons), producer := x.prod.entry, consumer := x.cons.entry }

/-! ## The decision (R339) -/

/-- The loaded object of a grid. -/
def gridObj (s : State) (g : Grid) : Option CodeObj := (s.ctx g.partition g.launch.ctxid).objs.find? fun o => o.id = g.obj

/-- Sizes that must agree (R339 SHAPE). -/
def shapeMatch (a b : Launch) : Bool :=
  decide (a.gridx = b.gridx) && decide (a.gridy = b.gridy) && decide (a.gridz = b.gridz) && decide (a.wave = b.wave) &&
  decide (a.wgwaves = b.wgwaves) && decide (a.cls = b.cls) && decide (a.cls ≠ 0) && !a.phased && !b.phased

/-- One of two records leaves something unused. -/
def atMostOne (a b : Bool) : Bool := !(a && b)

/-- The state conditions (R342). -/
def stateOk (a b : Grid) (p c : Kernel) : Bool :=
  let wp := p.words.flatMap fun x => namedW x.2
  let wc := c.words.flatMap fun x => namedW x.2
  decide (a.launch.ctxid = b.launch.ctxid) && decide (a.partition = b.partition) && decide (a.launch.tvec = b.launch.tvec) &&
  decide (a.launch.regarea = b.launch.regarea) && decide (a.launch.evq = b.launch.evq) && !(wp.any fun k => wc.contains k) &&
  decide (2 ≤ ((List.range 8).filter fun k => !(wp.contains k) && !(wc.contains k)).length) &&
  atMostOne (p.words.any (fun x => namesG x.2) || decide (a.launch.scratch ≠ 0) || decide (a.launch.localsz ≠ 0) ||
      decide (a.launch.schedn ≠ 0))
    (c.words.any (fun x => namesG x.2) || decide (b.launch.scratch ≠ 0) || decide (b.launch.localsz ≠ 0) ||
      decide (b.launch.schedn ≠ 0)) &&
  decide (a.launch.tiles + b.launch.tiles ≤ 8) && decide ((a.launch.tiles + b.launch.tiles) * (4 * a.launch.wave ^ 2) ≤ 131072) &&
  decide (a.rqs.length + b.rqs.length ≤ 8) && (decide (a.cqs = b.cqs) || a.cqs.isEmpty || b.cqs.isEmpty)

/-- The two highest-numbered registers among w0 to w7 that neither kernel names (R345). -/
def freeW (p c : Kernel) : Nat × Nat :=
  let named := (p.words ++ c.words).flatMap fun x => namedW x.2
  let free := ((List.range 8).filter fun k => !(named.contains k)).reverse
  (free.getD 0 7, free.getD 1 6)

/-- The marks of two objects may be matched (R339 MARKS): both sections. -/
def marksOf (o c : Option CodeObj) : Option (SpliceSect × SpliceSect) :=
  match o.bind (·.splice), c.bind (·.splice) with
  | some x, some y =>
    if x.role = 1 ∧ y.role = 2 ∧ x.marks.any (fun m => m.kind = 0) ∧ y.marks.any (fun m => m.kind = 1) then some (x, y) else none
  | _, _ => none

/-- What the conditions from MATCH on come to, for a kernel at a code-window offset: a reason, or the pair. -/
def checkPair (base : Nat) (s : State) (a b : Grid) (x y : SpliceSect) (p c : Kernel) : Except Nat SpPair :=
  let st := x.marks.filter fun m => m.kind = 0
  let ld := y.marks.filter fun m => m.kind = 1
  if !matched st ld then .error (if remapped st ld then 0x15 else 0x14)
  else
    let w := freeW p c
    let pair : SpPair :=
      { prod := p, cons := c, pairs := st.filterMap fun m => (ld.find? (sameMark true m)).map (m, ·), wave := a.launch.wave,
        np := a.launch.regs, nc := b.launch.regs, tp := a.launch.tiles, mask := a.launch.transient, wp := w.1, wc := w.2 }
    if 96 < pair.regs then .error 0x16
    else if (kgetD {} s.partitions a.partition).vbudget < pair.regs then .error 0x17
    else if !stateOk a b p c then .error 0x18
    else if !codeOk pair || (buildSplice pair base).isNone then .error 0x19
    else if (s.ctx a.partition a.launch.ctxid).bkpt && s.dev.dbgOpen then .error 0x1A
    else .ok pair

/-- THE CONDITIONS OF R339, from MARKS on, of two launches that have passed their own checks, for a kernel at a code-window offset. -/
def spliceCheck (base : Nat) (a b : Grid) (s : State) : State × Except Nat SpPair :=
  match marksOf (gridObj s a) (gridObj s b), gridObj s a, gridObj s b with
  | some (x, y), some oa, some ob =>
    if !shapeMatch a.launch b.launch then (s, .error 0x13)
    else
      match readKernel a.partition a.launch.ctxid oa a.pc.toNat x s with
      | (s, none) => (s, .error 0x13)
      | (s, some p) =>
        match readKernel b.partition b.launch.ctxid ob b.pc.toNat y s with
        | (s, none) => (s, .error 0x13)
        | (s, some c) => if p.count ≠ c.count then (s, .error 0x13) else (s, checkPair base s a b x y p c)
  | _, _, _ => (s, .error 0x12)

/-! ## The cache (R349) -/

/-- Code-window offset of a cache entry. -/
def entryBase (e : Nat) : Nat := 0xFFC00000 + 0x10000 * e

/-- The spliced grid of a fetched packet. -/
def planned (x : HostQueue) : List Grid := x.packets.flatMap fun p => p.plan.filterMap (·.grid)

/-- A grid runs the code of an entry, or will when its packet starts. -/
def entryBusy (s : State) (p e : Nat) : Bool :=
  (s.grids.map (·.2) ++ s.queues.flatMap fun q => planned q.2).any fun g =>
    decide (g.partition = p) && g.consumer.isSome && decide (g.pc.toNat = entryBase e)

/-- The entry to be filled: a free one, else the least recently used that no grid runs. -/
def entryFor (s : State) (p : Nat) : Option Nat :=
  let c := (kgetD {} s.partitions p).cache
  match (List.range 64).find? fun e => (kget c e).isNone && !entryBusy s p e with
  | some e => some e
  | none =>
    ((c.filter fun x => !entryBusy s p x.1).foldl (fun (b : Option (Nat × Nat)) x =>
      match b with
      | none => some (x.1, x.2.used)
      | some y => if x.2.used < y.2 then some (x.1, x.2.used) else b) none).map (·.1)

/-- The entry of the splice cache that already holds a pair (R349). -/
def heldEntry (a b : Grid) (s : State) : Option Nat :=
  ((kgetD {} s.partitions a.partition).cache.find? fun e =>
    decide (e.2.ctx = a.launch.ctxid) && decide (e.2.objp = a.obj) && decide (e.2.objc = b.obj) && decide (e.2.pcp = a.pc.toNat) &&
    decide (e.2.pcc = b.pc.toNat) && decide (e.2.mask = a.launch.transient)).map (·.1)

/-- An entry of the splice cache is used now. -/
def useEntry (a b : Grid) (e : Nat) (s : State) : State :=
  let y : SpliceEntry := { ctx := a.launch.ctxid, objp := a.obj, objc := b.obj, pcp := a.pc.toNat, pcc := b.pc.toNat,
                           mask := a.launch.transient, used := s.nextId }
  { s with nextId := s.nextId + 1, partitions := kmod (fun q => { q with cache := kput q.cache e y }) s.partitions a.partition }

/-- An entry of the splice cache is filled: what it held before is gone from every context. -/
def fillEntry (a b : Grid) (e : Nat) (code : SpliceCode) (s : State) : State :=
  let s := { s with contexts := kmap (fun k (c : Context) =>
    if k / 4096 = a.partition then { c with spliced := c.spliced.filter fun (y : SpliceCode) => y.start ≠ entryBase e } else c) s.contexts }
  useEntry a b e (s.modCtx a.partition a.launch.ctxid fun c => { c with spliced := c.spliced ++ [code] })

/-! ## The record (R348) -/

/-- The spliced grid. -/
def splicedGrid (a b : Grid) (x : SpPair) (e code : Nat) : Grid :=
  let pick := fun (f : Launch → Nat) => max (f a.launch) (f b.launch)
  let l := { a.launch with
    regs := x.regs, vgrant := min x.regs (a.launch.vgrant + b.launch.vgrant), tiles := a.launch.tiles + b.launch.tiles,
    scratch := pick (·.scratch), localsz := pick (·.localsz),
    locala := if a.launch.localsz = 0 then b.launch.locala else a.launch.locala,
    schedn := pick (·.schedn), scheda := if a.launch.schedn = 0 then b.launch.scheda else a.launch.scheda,
    fusel1 := a.launch.fusel1 }
  { a with
    launch := l, cqs := if a.cqs.isEmpty then b.cqs else a.cqs, rqs := a.rqs ++ b.rqs.filter (fun r => !(a.rqs.any fun q => q.addr = r.addr)), obj2 := some b.obj, tags := [a.tag, b.tag],
    consumer := some (b.pc.toNat, b.tag), splice := code, pc := BitVec.ofNat 32 (entryBase e), origin := a.pc.toNat, carry := [],
    loops := x.prod.count.toNat,
    elided := (x.pairs.map (·.1)).filterMap fun m =>
      if bitOf x.mask m.b then some { m with c0 := m.c0 + ((a.bl.getD m.b (0, 0, 0)).1 : Nat) } else none }

/-- THE SPLICER'S DECISION on two launches that have passed their checks: the spliced grid, or a reason (R339, R349). The entry that
the kernel would take says where its branches must reach to. -/
def splicePair (a b : Grid) (s : State) : State × Except Nat Grid :=
  let held := heldEntry a b s
  let e := held.or (entryFor s a.partition)
  let base := entryBase (e.getD 0)
  match spliceCheck base a b s with
  | (s, .error r) => (s, .error r)
  | (s, .ok x) =>
    match e, buildSplice x base with
    | some e, some code =>
      if held.isSome then (useEntry a b e s, .ok (splicedGrid a b x e 2)) else (fillEntry a b e code s, .ok (splicedGrid a b x e 1))
    | _, _ => (s, .error 0x1B)

end Sys2Proof.Machine
end

