-- ==== Sys2Proof/Machine/Registers.lean ====
section
/-! DEFINITION. The device registers that software writes (R13, R306 to R310, R321, R323, R382, R445, R456, R463, R501), and the
MSI-X messages of event queues. -/

namespace Sys2Proof.Machine

/-- An access of software to a register of BAR 0 has its effect: in RECOVERY none of them answers, the management mailbox apart (R467). -/
def onBar (f : State → State) (s : State) : Out := .next (if s.dev.recovery then s else f s)

/-! ## Host queues (R307, R309, R310) -/

/-- A write of QTAIL. -/
def writeTail (q v : Nat) (s : State) : State :=
  let x := s.queue q
  let v := v % 2 ^ 32
  let n := (v + 2 ^ 32 - x.head) % 2 ^ 32
  if x.resetting then s
  else
    let s := s.modQueue q fun x => { x with tail := v }
    if x.size < n then
      postEvent x.evq { status := 0x010B, queue := q, count := n } (s.modQueue q fun x => { x with state := 2 })
    else s

/-- QTAIL_WRITE (R309): packets are exposed, or the queue enters OVERRUN. -/
def execQtailWrite (q v : Nat) (s : State) : Out := onBar (writeTail q v) s

/-- QUEUE_ENABLE (R307, R456, R469): EN is written 1. -/
def execQueueEnable (q : Nat) (s : State) : Out :=
  onBar (fun s =>
    let x := s.queue q
    if s.dev.ready && decide (x.state ≤ 1) && !x.resetting && (kget s.partitions x.part).isSome then
      s.modQueue q fun x => { x with en := true, state := 1 }
    else s) s

/-- QUEUE_DISABLE (R307): EN is written 0. -/
def execQueueDisable (q : Nat) (s : State) : Out :=
  onBar (fun s => if decide ((s.queue q).state = 1) && !(s.queue q).resetting then s.modQueue q fun x => { x with en := false } else s) s

/-- A disabled queue has started every fetched packet. -/
def queueDrained (x : HostQueue) : Bool := decide (x.state = 1) && !x.en && x.packets.all (·.started)

/-- QUEUE_STOPPED (R307): STATE becomes STOPPED. -/
def execQueueStopped (q : Nat) (s : State) : Out :=
  .next (if queueDrained (s.queue q) then s.modQueue q fun x => { x with state := 0 } else s)

/-- The registers of a queue that its reset changes, as they stand. -/
def HostQueue.regs (x : HostQueue) : QueueRegs := { head := x.head, tail := x.tail, en := x.en, state := x.state, reason := x.reason }

/-- QUEUE_RESET (R310): RST is written 1. What the registers held is what reads return until the reset is over. -/
def execQueueReset (q : Nat) (s : State) : Out :=
  onBar (fun s => s.modQueue q fun x => { x with resetting := true, shadow := x.shadow.or (some x.regs) }) s

/-- QUEUE_RESET_COMPLETE (R310): every fetched packet has completed. -/
def execQueueResetComplete (q : Nat) (s : State) : Out :=
  .next (if (s.queue q).resetting && (s.queue q).packets.isEmpty then
      s.modQueue q fun x =>
        { x with head := 0, tail := 0, state := 0, en := false, reason := 0, resetting := false, shadow := none, mateCode := 0 }
    else s)

/-! ## Events and MSI-X (R321, R323) -/

/-- EQLOST is cleared by a read. -/
def clearEqlost (e : Nat) (s : State) : State := s.modEvq e fun x => { x with lost := 0 }

/-- TRLOST is cleared by a read. -/
def clearTrlost (p : Nat) (s : State) : State := { s with traces := kput s.traces p { s.trace p with lost := 0 } }

/-- EQLOST_READ (R13, R321): the count is read and cleared. -/
def execEqlostRead (e : Nat) (s : State) : Out := onBar (clearEqlost e) s

/-- TRLOST_READ (R13, R445): the count is read and cleared. -/
def execTrlostRead (p : Nat) (s : State) : Out := onBar (clearTrlost p) s

/-- The oldest held record has reached HOLDMAX. -/
def holdDue (time : Nat) (x : Evq) : Bool :=
  match x.held with
  | t :: _ => decide (t + 1000 * x.holdmax ≤ time)
  | [] => false

/-- EVENT_HOLDMAX (R323): the interrupt becomes due. -/
def execEventHoldmax (e : Nat) (s : State) : Out :=
  .next (if holdDue s.time (s.evq e) then s.modEvq e fun x => { x with due := true } else s)

/-- Vectors are counted as a list without repeats. -/
def addVec (v : Nat) (vs : List Nat) : List Nat := if vs.contains v then vs else vs ++ [v]

/-- The message of a vector is sent: it releases what its due queues hold (R323). -/
def sendVec (v : Nat) (s : State) : State :=
  let s := { s with
    evqs := kmap (fun _ (x : Evq) => if decide (x.vec = v) && x.due then { x with due := false, held := [] } else x) s.evqs }
  { s with msixSent := cellsPut 0 s.msixSent v (cellsGet 0 s.msixSent v + 1), msixPending := s.msixPending.filter (· ≠ v) }

/-- MSIX_SEND (R323): a due interrupt sends its message, or leaves it pending while its vector is masked. -/
def execMsixSend (e : Nat) (s : State) : Out :=
  .next (let x := s.evq e
    if x.due then
      if s.unmasked.contains x.vec && !s.funcMask then sendVec x.vec s else { s with msixPending := addVec x.vec s.msixPending }
    else s)

/-- Pending messages whose vectors are unmasked are sent, while the function is unmasked (R323). -/
def sendPending (s : State) : State :=
  if s.funcMask then s else (s.msixPending.filter fun v => s.unmasked.contains v).foldl (fun s v => sendVec v s) s

/-- MSIX_UNMASK (R323): a pending message is sent. -/
def execMsixUnmask (vec : Nat) (s : State) : Out := .next (sendPending { s with unmasked := addVec vec s.unmasked })

/-- The host masks a vector. -/
def maskVec (vec : Nat) (s : State) : State := { s with unmasked := s.unmasked.filter (· ≠ vec) }

/-- The host masks or unmasks every vector of the function. -/
def maskFunc (on : Bool) (s : State) : State := sendPending { s with funcMask := on }

/-! ## Span and power (R456, R463) -/

/-- SPAN_ENABLE (R456): SPANEN is set, and every port trains. -/
def execSpanEnable (s : State) : Out :=
  onBar (fun s => { s with dev := { s.dev with spanen := true, spandn := 0, ports := [] } }) s

/-- SPAN_DISABLE (R456): SPANEN is cleared; no port is counted down. -/
def execSpanDisable (s : State) : Out :=
  onBar (fun s => { s with dev := { s.dev with spanen := false, spandn := 0, ports := [] } }) s

/-- CAPW of the configured partitions together. -/
def capSum (s : State) (caps : List (Nat × Bool)) : Nat := s.partitions.foldl (fun n e => n + (caps.getD e.1 (0, false)).1) 0

/-- CAP_WRITE (R456, R463): CAPW unless the limit of the form would be broken (R10); CAPHIT is cleared by a one. -/
def execCapWrite (p v : Nat) (s : State) : Out :=
  onBar (fun s =>
    let old := s.dev.caps.getD p (0, false)
    let hit := old.2 && !bitOf v 12
    let caps := s.dev.caps.set p (v % 4096, hit)
    let caps := if capSum s caps ≤ capLimit s.dev.form then caps else s.dev.caps.set p (old.1, hit)
    { s with dev := { s.dev with caps := caps } }) s

/-! ## Fields without behaviour (R13) -/

/-- A power of two in a range. -/
def pow2In (v lo hi : Nat) : Bool := decide (lo ≤ v) && decide (v ≤ hi) && decide (2 ^ Nat.log2 v = v)

/-- A ring base that lies in the host window, or, where a register accepts it, in global space and in HBM (R501). -/
def baseOk (glob : Nat → Bool) (g : Nat) : Bool :=
  decide (g / 2 ^ 53 = 1) || (decide (g / 2 ^ 53 = 0) && decide (g < Config.hbmSize) && glob g)

/-- A write to a host queue's block. -/
def writeQueueReg (q off v : Nat) (s : State) : State :=
  let x := s.queue q
  if x.state ≠ 0 ∨ x.resetting then s
  else
    match off with
    | 0x00 => if baseOk (fun a => !foreign s x.part a) (v / 64 * 64) then s.modQueue q fun x => { x with base := v / 64 * 64 } else s
    | 0x08 => if pow2In v 16 1048576 then s.modQueue q fun x => { x with size := v } else s
    | 0x14 => s.modQueue q fun x =>
        { x with cls := bitsOf v 3 2, part := bitsOf v 6 4, cc := bitsOf v 8 7, evq := bitsOf v 19 9 }
    | _ => s

/-- A write to an event queue's block. -/
def writeEvqReg (e off v : Nat) (s : State) : State :=
  let x := s.evq e
  match off with
  | 0x00 => if !x.en && baseOk (fun _ => true) (v / 32 * 32) then s.modEvq e fun x => { x with base := v / 32 * 32 } else s
  | 0x08 => if !x.en && pow2In v 16 65536 then s.modEvq e fun x => { x with size := v } else s
  | 0x0C => if (x.tail + 2 ^ 32 - v % 2 ^ 32) % 2 ^ 32 ≤ x.size then s.modEvq e fun x => { x with head := v % 2 ^ 32 } else s
  | 0x14 =>
    let h := bitsOf v 30 21
    s.modEvq e fun x =>
      { x with en := bitOf v 0, ovf := x.ovf && !bitOf v 1, vec := bitsOf v 12 2, thresh := bitsOf v 20 13,
               holdmax := if h = 0 ∨ 1000 < h then x.holdmax else h }
  | _ => s

/-- A write to a fault ring's block (R382). -/
def writeFringReg (p off v : Nat) (s : State) : State :=
  let g := s.fring p
  let put := fun (x : FaultRing) => { s with faultRings := kput s.faultRings p x }
  match off with
  | 0x00 => if !g.en && decide (v / 2 ^ 53 = 1) then put { g with base := v / 32 * 32 } else s
  | 0x08 => if !g.en && pow2In v 16 65536 then put { g with size := v } else s
  | 0x14 =>
    let s := put { g with en := bitOf v 0, evq := bitsOf v 11 1 }
    if bitOf v 0 then writeRecords p g.recs.length s else s
  | _ => s

/-- A write to a trace ring's block (R445). -/
def writeTraceReg (p off v : Nat) (s : State) : State :=
  let g := s.trace p
  let put := fun (x : TraceRing) => { s with traces := kput s.traces p x }
  match off with
  | 0x00 => if !g.en && decide (v / 2 ^ 53 = 1) then put { g with base := v / 64 * 64 } else s
  | 0x08 => if !g.en && pow2In v 16 1048576 then put { g with size := v } else s
  | 0x0C => if (g.tail + 2 ^ 32 - v % 2 ^ 32) % 2 ^ 32 ≤ g.size then put { g with head := v % 2 ^ 32 } else s
  | 0x14 => put { g with en := bitOf v 0, ovf := g.ovf && !bitOf v 1 }
  | 0x18 => put { g with speriod := v % 2 ^ 16 }
  | 0x1C => put { g with trwg := v % 2 ^ 32 }
  | 0x20 => put { g with trsel := v % 2 ^ 18 }
  | _ => s

/-- A write to an event selector: EVENT, CTXEN and CTX, and OVF is cleared by a one (R443). -/
def writePmcsel (core n v : Nat) (s : State) : State :=
  s.modCore core fun c =>
    let ovf := bitOf (c.pmcsel.getD n 0) 9 && !bitOf v 9
    { c with pmcsel := c.pmcsel.set n (bitsOf v 8 0 + 512 * b2n ovf + 2 ^ 16 * bitsOf v 27 16) }

/-- The result of an MBCMD word that is no command of the mailbox, which no event carries: an unlisted code, or a nonzero bit above ARG.
In the management mailbox (codes 1 to 11) BADARG, or STATE in RECOVERY; in the debug port (codes 0 to 9) BADARG, or DENIED while it is
closed (R451, R468). -/
def unlisted (dbg : Bool) (d : Device) (v : Nat) : Option Nat :=
  let code := v % 256
  if d.off || !(d.ready || d.recovery) then none
  else if dbg then (if code ≤ 9 ∧ v < 65536 then none else some (if d.dbgOpen then 2 else 1))
  else if 1 ≤ code ∧ code ≤ 11 ∧ v < 65536 then none
  else some (if d.recovery && decide (code ≠ 1) then 3 else 2)

/-- A write to a mailbox: LOST, four bytes of MBDATA, or an unlisted command, which finishes at once (R468). -/
def writeMboxReg (dbg : Bool) (d : Device) (off v : Nat) (m : Mailbox) : Mailbox :=
  if off = 0 then
    match unlisted dbg d (v % 2 ^ 32) with
    | some r => if m.busy then { m with lost := true } else { m with result := r, outlen := 0 }
    | none => m
  else if off = 4 then { m with lost := m.lost && !bitOf v 1 }
  else if 0x1000 ≤ off ∧ off < 0x2000 then { m with data := m.data.writeN (off - 0x1000) (bytesOfNat (min 4 (0x2000 - off)) v) }
  else m

/-- A write of the register at an offset of BAR 0. -/
def writeRegister (off v : Nat) (s : State) : State :=
  if off = 4 then
    { s with dev := { s.dev with hevq := bitsOf v 10 0, devnum := if s.dev.spanen then s.dev.devnum else bitsOf v 18 11 } }
  else if 0x100000 ≤ off ∧ off < 0x110000 then writeQueueReg ((off - 0x100000) / 64) (off % 64) v s
  else if 0x200000 ≤ off ∧ off < 0x210000 then writeEvqReg ((off - 0x200000) / 32) (off % 32) v s
  else if 0x300000 ≤ off ∧ off < 0x300200 then writeFringReg ((off - 0x300000) / 64) (off % 64) v s
  else if 0x310000 ≤ off ∧ off < 0x310200 then writeTraceReg ((off - 0x310000) / 64) (off % 64) v s
  else if 0x400000 ≤ off ∧ off < 0x404000 ∧ off % 64 < 16 then writePmcsel ((off - 0x400000) / 64) (off % 64 / 4) v s
  else if 0x500000 ≤ off ∧ off < 0x502000 then
    { s with dev := { s.dev with mbox := writeMboxReg false s.dev (off - 0x500000) v s.dev.mbox } }
  else if 0x510000 ≤ off ∧ off < 0x512000 then
    { s with dev := { s.dev with dbox := writeMboxReg true s.dev (off - 0x510000) v s.dev.dbox } }
  else s

/-- An offset of BAR 0 answers: in RECOVERY only the management mailbox's do (R467). -/
def answers (s : State) (off : Nat) : Bool := !s.dev.recovery || (decide (0x500000 ≤ off) && decide (off < 0x502000))

/-- REGISTER_WRITE (R13): a register field that acts only by its value; a write that its rules do not allow is ignored. -/
def execRegisterWrite (off v : Nat) (s : State) : Out := .next (if answers s off then writeRegister off v s else s)

/-! ## What a read returns (R13) -/

/-- A word of a ring base: the low half at 0, the high half at 4. -/
def baseWord (base off : Nat) : Nat := if off = 0 then base % 2 ^ 32 else base / 2 ^ 32

/-- DEVSTAT, DEVCTL and HEALTH (R456). -/
def deviceWord (d : Device) (off : Nat) : Nat :=
  match off with
  | 0x00 => b2n d.ready + 2 * b2n d.recovery + 4 * d.life + 32 * b2n d.b0 + 64 * b2n d.svcreq + 128 * b2n d.hot + 256 * d.devnum
  | 0x04 => d.hevq + 2 ^ 11 * d.devnum + 2 ^ 19 * b2n d.spanen
  | 0x08 => d.spare0 + 16 * d.spare1 + 256 * d.lost + 2 ^ 16 * d.spandn + 2 ^ 21 * (d.hbmx % 16)
  | _ =>
    if 0x40 ≤ off ∧ off < 0x60 then
      let c := d.caps.getD ((off - 0x40) / 4) (0, false)
      c.1 + 2 ^ 12 * b2n c.2
    else 0

/-- A host queue's block (R306, R310): RST is write-only. -/
def queueWord (x : HostQueue) (off : Nat) : Nat :=
  let y := x.shadow.getD x.regs
  match off with
  | 0x08 => x.size
  | 0x0C => y.head
  | 0x10 => y.tail
  | 0x14 => b2n y.en + 4 * x.cls + 16 * x.part + 128 * x.cc + 2 ^ 9 * x.evq + 2 ^ 20 * b2n x.priv
  | 0x18 => y.state + 256 * y.reason
  | _ => if off < 8 then baseWord x.base off else 0

/-- An event queue's block (R321). -/
def evqWord (x : Evq) (off : Nat) : Nat :=
  match off with
  | 0x08 => x.size
  | 0x0C => x.head
  | 0x10 => x.tail
  | 0x14 => b2n x.en + 2 * b2n x.ovf + 4 * x.vec + 2 ^ 13 * x.thresh + 2 ^ 21 * x.holdmax
  | 0x18 => x.lost
  | _ => if off < 8 then baseWord x.base off else 0

/-- A fault ring's block (R382): FRACK is write-only. -/
def fringWord (x : FaultRing) (off : Nat) : Nat :=
  match off with
  | 0x08 => x.size
  | 0x0C => x.head
  | 0x10 => x.tail
  | 0x14 => b2n x.en + 2 * x.evq
  | _ => if off < 8 then baseWord x.base off else 0

/-- A trace ring's block (R445). -/
def traceWord (x : TraceRing) (off : Nat) : Nat :=
  match off with
  | 0x08 => x.size
  | 0x0C => x.head
  | 0x10 => x.tail
  | 0x14 => b2n x.en + 2 * b2n x.ovf
  | 0x18 => x.speriod
  | 0x1C => x.trwg
  | 0x20 => x.trsel
  | 0x24 => x.lost
  | _ => if off < 8 then baseWord x.base off else 0

/-- A mailbox's block (R468): MBCMD is write-only. -/
def mboxWord (m : Mailbox) (off : Nat) : Nat :=
  if off = 4 then b2n m.busy + 2 * b2n m.lost + 256 * m.result + 2 ^ 16 * m.outlen
  else if 0x1000 ≤ off ∧ off < 0x2000 then natOfBytes (m.data.readN (off - 0x1000) 4)
  else 0

/-- WHAT A READ OF A DEVICE REGISTER RETURNS (R13): the 4-byte word at an offset of BAR 0 that is a multiple of 4. A reserved offset reads
zero, and so does a write-only field. -/
def registerWord (off : Nat) (s : State) : Nat :=
  if off < 0x60 then deviceWord s.dev off
  else if 0x100000 ≤ off ∧ off < 0x110000 then queueWord (s.queue ((off - 0x100000) / 64)) (off % 64)
  else if 0x200000 ≤ off ∧ off < 0x210000 then evqWord (s.evq ((off - 0x200000) / 32)) (off % 32)
  else if 0x300000 ≤ off ∧ off < 0x300200 then fringWord (s.fring ((off - 0x300000) / 64)) (off % 64)
  else if 0x310000 ≤ off ∧ off < 0x310200 then traceWord (s.trace ((off - 0x310000) / 64)) (off % 64)
  else if 0x400000 ≤ off ∧ off < 0x404000 ∧ off % 64 < 16 then (s.core ((off - 0x400000) / 64)).pmcsel.getD (off % 64 / 4) 0
  else if 0x500000 ≤ off ∧ off < 0x502000 then mboxWord s.dev.mbox (off - 0x500000)
  else if 0x510000 ≤ off ∧ off < 0x512000 then mboxWord s.dev.dbox (off - 0x510000)
  else 0

/-- A READ OF A DEVICE REGISTER (R13): the word, and a read-to-clear field is zero afterwards; none where nothing answers (R467). -/
def registerRead (off : Nat) (s : State) : Option (State × Nat) :=
  let v := registerWord off s
  if !answers s off then none
  else if 0x200000 ≤ off ∧ off < 0x210000 ∧ off % 32 = 0x18 then some (clearEqlost ((off - 0x200000) / 32) s, v)
  else if 0x310000 ≤ off ∧ off < 0x310200 ∧ off % 64 = 0x24 then some (clearTrlost ((off - 0x310000) / 64) s, v)
  else some (s, v)

end Sys2Proof.Machine
end

