-- ==== Sys2Proof/Machine/HostPackets.lean ====
section
/-! DEFINITION. The packet types but for DRAW, CONFIG and PARTCTL (R313, R316): LAUNCH and BUNDLE with the splicer's pairs (R336 to
R338), COPYSCHED, SIGNAL, WAITSIG, TIMESTAMP, EVENT and QBARRIER. -/

namespace Sys2Proof.Machine

/-! ## LAUNCH (R313) -/

/-- Host-originated grids of a partition that still wait for placement: the records a dispatcher holds (R334). -/
def hostWaiting (s : State) (p : Nat) : Nat :=
  (s.grids.filter fun e => decide (e.2.partition = p) && e.2.parent.isNone && decide (e.2.placed < e.2.total)).length

/-- A grid as a packet starts it. -/
def packetGrid (q : Nat) (p : Packet) (g : Grid) : Grid :=
  { g with queue := q, rootq := q, seq := p.seq, tag := p.tag, tags := [p.tag] }

/-- A packet's launch record; none where it cannot be read (FETCH). -/
def recordAt (q a : Nat) (s : State) : Option (State × List Byte) := packetRead q a 256 s

/-- A launch record sets SPLICE_OK. -/
def recordSplices (b : List Byte) : Bool := bitOf (numAt b 0x38 4) 2

/-- Hand a grid to the dispatcher for a packet: admission refuses with a status (R65). -/
def admitPacket (q seq : Nat) (g : Grid) (time : Nat) (s : State) : State :=
  match admitGrid g time s with
  | .error st => donePacket q seq st 0 s
  | .ok (s, gid) => s.modPacket q seq fun p => { p with grids := [gid] }

/-- Start a launch of a record that has been read. -/
def startRecord (q : Nat) (p : Packet) (b : List Byte) (splice : Nat) (s : State) : State :=
  match submitRec (s.queue q).part true b s with
  | .refused s code => donePacket q p.seq 0x0109 code s
  | .ok s g => admitPacket q p.seq { packetGrid q p g with splice := splice } p.time s

/-- Start a packet and the next one as one spliced grid (R348, R350). -/
def startSpliced (q : Nat) (p n : Packet) (g : Grid) (s : State) : State :=
  let r := addGrid g (blBefore (packetParty s q) n.bl s)
  let s := r.1.modPacket q p.seq fun p => { p with grids := [r.2] }
  s.modPacket q n.seq fun n => { n with grids := [r.2], started := true }

/-- The next packet of the queue, once it has been fetched. -/
def nextPacket (s : State) (q seq : Nat) : Option Packet := s.packet q ((seq + 1) % 2 ^ 32)

/-- The spliced grid of a packet that is the first of a pair (R337). -/
def Packet.pair (p : Packet) : Option Grid := (p.plan.head?).bind (·.grid)

/-- Start a LAUNCH packet that has been given the go: alone, or with the second packet of its pair. -/
def startLaunch (q : Nat) (p : Packet) (s : State) : State :=
  match p.pair, nextPacket s q p.seq with
  | some g, some n => startSpliced q p n g s
  | _, _ =>
    match recordAt q (numAt p.bytes 16 8) s with
    | none => failPacket q p.seq (numAt p.bytes 16 8 % 2 ^ 32) s
    | some (s, b) => startRecord q p b p.splice s

/-- A LAUNCH packet starts with its pair: the first waits until the second has been fetched, and the second starts with the first. -/
def pairReady (s : State) (q : Nat) (p : Packet) : Bool := !p.second && (p.pair.isNone || (nextPacket s q p.seq).isSome)

/-- LAUNCH_PACKET (R313): a grid from a launch record, when the packet may start and the dispatcher has room. -/
def execLaunchPacket (q seq : Nat) (s : State) : Out :=
  if (s.packet q seq).any (pairReady s q) && decide (hostWaiting s (s.queue q).part < 1024) then startPacket q seq 1 false (startLaunch q) s
  else .next s

/-! ## BUNDLE (R318, R336, R338) -/

/-- Read and check the members of a bundle in order: the grids with whether each record sets SPLICE_OK, a refusal code, or the address
that cannot be read. -/
inductive MemberRes where
  | ok (s : State) (gs : List (Grid × Bool))
  | refused (s : State) (code : Nat)
  | unread (s : State) (addr : Nat)

/-- Submit the members of a bundle. -/
def submitMembers (q : Nat) (p : Packet) : List Nat → State → MemberRes
  | [], s => .ok s []
  | a :: as, s =>
    if a % 256 ≠ 0 then .refused s 0x20
    else
      match recordAt q a s with
      | none => .unread s a
      | some (s, b) =>
        match submitRec (s.queue q).part true b s with
        | .refused s code => .refused s code
        | .ok s g =>
          match submitMembers q p as s with
          | .ok s gs => .ok s ((packetGrid q p g, recordSplices b) :: gs)
          | r => r

/-- THE SPLICER'S DECISIONS ON A BUNDLE (R336 to R338): one for each member that is in no spliced pair, and one for each pair. -/
def pairMembers (s : State) : List (Grid × Bool) → State × List Plan
  | [] => (s, [])
  | [_] => (s, [{}])
  | (a, sa) :: (b, sb) :: rest =>
    if !sa then
      match pairMembers s ((b, sb) :: rest) with
      | (s, ps) => (s, {} :: ps)
    else
      let r : State × Except Nat Grid := if sb then splicePair a b s else (s, .error 0x10)
      match r with
      | (s, .ok x) =>
        match pairMembers s rest with
        | (s, ps) => (s, { grid := some x, code := x.splice } :: ps)
      | (s, .error e) =>
        match pairMembers s ((b, sb) :: rest) with
        | (s, []) => (s, [{ code := e }])
        | (s, x :: ps) => (s, { code := e } :: { x with code := if x.code = 0 ∨ (x.grid.isNone ∧ 2 < x.code) then e else x.code, waits := true } :: ps)

/-- The members of a bundle as the decisions have them start: each grid, and whether it waits for the one before it (R338). -/
def applyPlan : List Plan → List Grid → List (Grid × Bool)
  | pl :: ps, g :: gs =>
    match pl.grid with
    | some x => (x, pl.waits) :: applyPlan ps (gs.drop 1)
    | none => ({ g with splice := pl.code }, pl.waits) :: applyPlan ps gs
  | _, gs => gs.map fun g => (g, false)

/-- Admit the members together (R65, R318): all of them, or the status of the first that is refused. -/
def admitMembers (time : Nat) : List (Grid × Bool) → Option Nat → State → Except Nat (State × List Nat)
  | [], _, s => .ok (s, [])
  | (g, waits) :: gs, prev, s =>
    match admitGrid { g with after := if waits then prev else none } time s with
    | .error e => .error e
    | .ok (s, gid) =>
      match admitMembers time gs (some gid) s with
      | .error e => .error e
      | .ok (s, ids) => .ok (s, gid :: ids)

/-- Start the members of a bundle. -/
def startMembers (q : Nat) (p : Packet) (gs : List (Grid × Bool)) (s : State) : State :=
  match admitMembers p.time (applyPlan p.plan (gs.map (·.1))) none s with
  | .error e => donePacket q p.seq e 0 s
  | .ok (s, ids) => bundleUp ids (s.modPacket q p.seq fun p => { p with grids := ids })

/-- BUNDLE (R318): the members are admitted together, or none starts. -/
def startBundle (q : Nat) (p : Packet) (s : State) : State :=
  match packetRead q (numAt p.bytes 16 8) 64 s with
  | none => failPacket q p.seq (numAt p.bytes 16 8 % 2 ^ 32) s
  | some (s, d) =>
    if (bundleAddrs d).isEmpty then donePacket q p.seq 0x0109 0x20 s
    else
      match submitMembers q p (bundleAddrs d) s with
      | .unread s a => failPacket q p.seq (a % 2 ^ 32) s
      | .refused s code => donePacket q p.seq 0x0109 code s
      | .ok s gs => startMembers q p gs s

/-- BUNDLE (R313, R318). -/
def execBundle (q seq : Nat) (s : State) : Out :=
  if hostWaiting s (s.queue q).part < 1024 then startPacket q seq 2 false (startBundle q) s else .next s

/-! ## Fetching, with the decisions of the splicer (R311, R337) -/

/-- The second packet of a candidate pair, with its launch record, or the reason for which there is none (R338, R339): it is exposed, passes
its own checks, and is a LAUNCH with WAITPREV whose record sets SPLICE_OK. -/
def partnerOf (q : Nat) (s : State) : State × Except Nat (Packet × List Byte) :=
  let x := s.queue q
  if x.head = x.tail ∨ x.state ≠ 1 then (s, .error 0x10)
  else
    match (packetBytes s q x.head).map fun b => (b, checkPacket q b s) with
    | some (b, .ok s bl) =>
      match (if numAt b 0 1 = 1 then recordAt q (numAt b 16 8) s else none) with
      | none => (s, .error 0x10)
      | some (s, c) =>
        if !recordSplices c then (s, .error 0x10)
        else if !bitOf (numAt b 1 1) 0 then (s, .error 0x11)
        else (s, .ok ({ seq := x.head, order := 0, bytes := b, time := 0, bl := bl, second := true }, c))
    | _ => (s, .error 0x10)

/-- A pair runs unspliced: both packets carry the reason, and one that already carries a reason keeps it (R350, log 89). -/
def refusePair (q seq reason : Nat) (s : State) : State :=
  (s.modPacket q seq fun p => { p with splice := if p.splice = 0 then reason else p.splice }).modQueue q fun x => { x with mateCode := reason }

/-- A pair will start as one grid: the second packet is the next that the queue fetches. -/
def promisePair (q seq : Nat) (n : Packet) (g : Grid) (s : State) : State :=
  (s.modPacket q seq fun p => { p with splice := g.splice, plan := [{ grid := some g, code := g.splice }] }).modQueue q fun x =>
    { x with mate := some { n with splice := g.splice } }

/-- THE SPLICER'S DECISION ON A LAUNCH PACKET, at its fetch (R336 to R339). -/
def decideLaunch (q : Nat) (p : Packet) (s : State) : State :=
  let part := (s.queue q).part
  match recordAt q (numAt p.bytes 16 8) s with
  | none => s
  | some (s, b) =>
    if !recordSplices b then s
    else
      match partnerOf q s with
      | (s, .error e) => refusePair q p.seq e s
      | (s, .ok (n, c)) =>
        match submitRec part true b s with
        | .refused s _ => s
        | .ok s g =>
          let r : State × Except Nat Grid := match submitRec part true c s with
            | .refused s _ => (s, .error 0x12)
            | .ok s h => splicePair (packetGrid q p g) (packetGrid q n h) s
          match r with
          | (s, .ok x) => promisePair q p.seq n x s
          | (s, .error e) => refusePair q p.seq e s

/-- The splicer's decisions on a BUNDLE packet, at its fetch. -/
def decideBundle (q : Nat) (p : Packet) (s : State) : State :=
  match packetRead q (numAt p.bytes 16 8) 64 s with
  | none => s
  | some (s, d) =>
    match submitMembers q p (bundleAddrs d) s with
    | .ok s gs =>
      match pairMembers s gs with
      | (s, ps) => s.modPacket q p.seq fun p => { p with plan := ps, splice := ((ps.map (·.code)).find? (· ≠ 0)).getD 0 }
    | .unread s _ => s
    | .refused s _ => s

/-- FETCH A PACKET and decide on its splices (R311, R337). -/
def fetchPacket (q : Nat) (s : State) : State :=
  match fetchNext q s with
  | (s, none) => s
  | (s, some p) => if p.ty = 1 then decideLaunch q p s else if p.ty = 2 then decideBundle q p s else s

/-- PACKET_FETCH (R311): the next packet of a queue, when the queue's turn has come. -/
def execPacketFetch (q : Nat) (s : State) : Out :=
  .next (if decide (nextQueue s (s.queue q).part = some q) then fetchPacket q s else s)

/-! ## COPYSCHED (R302, R313) -/

/-- The core on which a packet's copy schedule runs: the plain choice of the dispatcher (R50). -/
def schedCore (s : State) (p : Nat) : Option Nat :=
  let cs := (serviceCores s p).filter fun c => !(s.core c).tripped && (s.core c).reserved.isNone
  cs[(kgetD {} s.partitions p).ptr % max 1 cs.length]?

/-- Run a copy schedule as one workgroup without waves, its stage past every entry. -/
def startSched (q : Nat) (p : Packet) (s : State) : State :=
  let part := (s.queue q).part
  match schedCore s part with
  | none => s.modPacket q p.seq fun p => { p with started := false }
  | some core =>
    let n := numAt p.bytes 24 2
    let g : Grid :=
      { launch := { ctxid := packetCtx s part, scheda := numAt p.bytes 16 8, schedn := n, evq := (s.queue q).evq, cls := (s.queue q).cls },
        partition := part, total := 1, queue := q, rootq := q, seq := p.seq, cls := (s.queue q).cls, tag := p.tag, tags := [p.tag],
        placed := 1, flushed := true }
    let gid := s.nextId
    let wg : Wg := { grid := gid, lin := 0, x := 0, y := 0, z := 0, core := core, waves := [], stage := 65535, released := n, ended := true }
    let s := { s with nextId := s.nextId + 2, grids := kput s.grids gid g, wgs := kput s.wgs (gid + 1) wg }
    (releaseEntries (gid + 1) 0 n 0 (s.modPacket q p.seq fun p => { p with grids := [gid] })).1

/-- COPYSCHED (R313). -/
def execCopysched (q seq : Nat) (s : State) : Out := startPacket q seq 4 false (startSched q) s

/-! ## Signals (R313, R327) -/

/-- A release at SYSTEM scope by the Ademan complex: what it can see is performed there (R251). -/
def hostRelease (s : State) : State := performStores s (fun x => x.visible .device) 5

/-- SIGNAL: the release, then the write or the addition in one step. -/
def startSignal (q : Nat) (p : Packet) (s : State) : State :=
  let a := numAt p.bytes 16 8
  let s := hostRelease s
  match packetRead q a 8 s with
  | none => failPacket q p.seq (a % 2 ^ 32) s
  | some (s, old) =>
    let v := if numAt p.bytes 32 1 = 1 then (natOfBytes old + numAt p.bytes 24 8) % 2 ^ 64 else numAt p.bytes 24 8
    match packetWrite q a (bytesOfNat 8 v) s with
    | none => failPacket q p.seq (a % 2 ^ 32) s
    | some s => donePacket q p.seq 0x0100 0 s

/-- SIGNAL_PACKET (R313). -/
def execSignalPacket (q seq : Nat) (s : State) : Out := startPacket q seq 5 true (startSignal q) s

/-- A signal's value satisfies a condition: 0 at least, 1 equal, 2 different (R313). -/
def signalMeets (cmp have_ want : Nat) : Bool :=
  if cmp = 0 then decide (want ≤ have_) else if cmp = 1 then decide (have_ = want) else decide (have_ ≠ want)

/-- A WAITSIG packet that has started reads its signal: it completes, or waits on. -/
def pollSignal (q : Nat) (p : Packet) (s : State) : State :=
  let a := numAt p.bytes 16 8
  match packetRead q a 8 s with
  | none => failPacket q p.seq (a % 2 ^ 32) s
  | some (s, b) =>
    if signalMeets (numAt p.bytes 32 1) (natOfBytes b) (numAt p.bytes 24 8) then donePacket q p.seq 0x0100 0 s else s

/-- WAITSIG starts: its timeout counts from here. -/
def startWaitsig (q : Nat) (p : Packet) (s : State) : State :=
  let t := numAt p.bytes 36 4
  pollSignal q p (s.modPacket q p.seq fun p => { p with deadline := if t = 0 then none else some (s.time + 1000 * t) })

/-- WAITSIG (R313): later packets wait for the signal. -/
def execWaitsig (q seq : Nat) (s : State) : Out := startPacket q seq 6 false (startWaitsig q) s

/-- A started WAITSIG packet. -/
def waitingSig (s : State) (q seq : Nat) : Option Packet := (s.packet q seq).filter fun p => decide (p.ty = 6) && p.started

/-- WAITSIG_POLL (R327): the waiter re-reads its signal. -/
def execWaitsigPoll (q seq : Nat) (s : State) : Out :=
  .next (match waitingSig s q seq with
    | some p => pollSignal q p s
    | none => s)

/-- WAITSIG_TIMEOUT (R313): WAITTO, and the queue goes on. -/
def execWaitsigTimeout (q seq : Nat) (s : State) : Out :=
  .next (match waitingSig s q seq with
    | some p => if p.deadline.any (fun t => decide (t ≤ s.time)) then donePacket q seq 0x010C 0 s else s
    | none => s)

/-! ## TIMESTAMP, EVENT, QBARRIER (R313) -/

/-- TIMESTAMP (R313): the device time. -/
def execTimestamp (q seq : Nat) (s : State) : Out :=
  startPacket q seq 7 true (fun p s =>
    match packetWrite q (numAt p.bytes 16 8) (bytesOfNat 8 s.time) s with
    | none => failPacket q seq (numAt p.bytes 16 8 % 2 ^ 32) s
    | some s => donePacket q seq 0x0100 0 s) s

/-- EVENT_PACKET (R313): a USER event. -/
def execEventPacket (q seq : Nat) (s : State) : Out :=
  startPacket q seq 8 true (fun p s =>
    donePacket q seq 0x0100 0
      (postEvent (s.queue q).evq { status := 0x0200, queue := q, splice := p.splice, tag := p.tag, count := numAt p.bytes 16 4 } s)) s

/-- The queues that a QBARRIER names. -/
def barrierQueues (p : Packet) : List Nat := (List.range (numAt p.bytes 16 1)).map fun i => numAt p.bytes (18 + 2 * i) 2

/-- No packet fetched from the named queues before this one is left (R313). -/
def barrierOver (s : State) (p : Packet) : Bool :=
  (barrierQueues p).all fun q => (s.queue q).packets.all fun x => decide (p.order ≤ x.order)

/-- QBARRIER (R313): later packets of the queue wait until the named queues' earlier packets have completed. -/
def execQbarrier (q seq : Nat) (s : State) : Out :=
  .next (match s.packet q seq with
    | none => s
    | some p =>
      if p.ty = 9 then
        let s := if mayStart s q seq true then blBefore (packetParty s q) p.bl (s.modPacket q seq fun p => { p with started := true }) else s
        if (s.packet q seq).any (·.started) && barrierOver s p then donePacket q seq 0x0100 0 s else s
      else s)

end Sys2Proof.Machine
end

