-- ==== Sys2Proof/Machine/Ademan.lean ====
section
/-! DEFINITION. CONFIG and PARTCTL (R316), keys (R242), wipes (R243), partition swaps (R72, R241), and the control-mode words of
CTRL (R334, R335). -/

namespace Sys2Proof.Machine

/-! ## CONFIG (R234, R316) -/

/-- A CONFIG packet of an item: its effect, or CFGREF. An item above 4 is nobody's, and refused (R316). -/
def configPacket (item : Nat) (f : Nat → Nat → State → Option State) (q seq : Nat) (s : State) : Out :=
  match s.packet q seq with
  | none => .next s
  | some p =>
    let i := numAt p.bytes 16 1
    if i = item ∨ (4 < i ∧ p.ty = 0x0A) then
      startPacket q seq 0x0A true (fun p s =>
        match if i = item then f (s.queue q).part (numAt p.bytes 24 8) s else none with
        | some s => donePacket q seq 0x0100 0 s
        | none => donePacket q seq 0x010D 0 s) s
    else .next s

/-- Change a partition. -/
def modPartition (p : Nat) (f : Partition → Partition) (s : State) : State := { s with partitions := kmod f s.partitions p }

/-- CONFIG_AGEMAX (R60, R316): 16 to 1,023. -/
def execConfigAgemax (q seq : Nat) (s : State) : Out :=
  configPacket 0 (fun p v s => if 16 ≤ v ∧ v ≤ 1023 then some (modPartition p (fun x => { x with agemax := v }) s) else none) q seq s

/-- CONFIG_PREDL (R70, R316): 1 to 1,000 µs. -/
def execConfigPredl (q seq : Nat) (s : State) : Out :=
  configPacket 1 (fun p v s => if 1 ≤ v ∧ v ≤ 1000 then some (modPartition p (fun x => { x with predl := v }) s) else none) q seq s

/-- CONFIG_LKQUOTA (R236, R316): 0 to 65,535. -/
def execConfigLkquota (q seq : Nat) (s : State) : Out :=
  configPacket 2 (fun p v s => if v ≤ 65535 then some (modPartition p (fun x => { x with lkquota := v }) s) else none) q seq s

/-- A partition has clusters on a die: granules 0 to 3 on CD0, 4 to 7 on CD1 (R469). -/
def onDie (x : Partition) (die : Nat) : Bool := decide (x.gmask / 16 ^ die % 16 ≠ 0)

/-- The sum of MINW over a set of limits. -/
def minSum (xs : List (List (Nat × Nat))) : Nat := (xs.flatten.map (·.1)).sum

/-- New limits of a class, if they keep R234: the value's bytes are MINW, MAXW, class; `sharers` lists the limits of the caches that the
partition shares, its own among them. -/
def wayLimits (v : Nat) (own : List (Nat × Nat)) (sharers : List (Nat × Nat) → List (List (List (Nat × Nat)))) : Option (List (Nat × Nat)) :=
  let minw := v % 256
  let maxw := v / 256 % 256
  let c := v / 65536
  let new := own.set c (minw, maxw)
  if c < 4 ∧ minw ≤ maxw ∧ maxw ≤ 16 ∧ (sharers new).all (fun xs => minSum xs ≤ 12) then some new else none

/-- CONFIG_L2_WAYS (R234): the partitions that share an L2 are those with clusters on its die. -/
def execConfigL2Ways (q seq : Nat) (s : State) : Out :=
  configPacket 3 (fun p v s =>
    let x := kgetD {} s.partitions p
    let sharers := fun (new : List (Nat × Nat)) => ([0, 1].filter (onDie x)).map fun d =>
      (s.partitions.filter fun e => onDie e.2 d).map fun e => if e.1 = p then new else e.2.l2ways
    (wayLimits v x.l2ways sharers).map fun new => modPartition p (fun x => { x with l2ways := new }) s) q seq s

/-- CONFIG_LLC_WAYS (R234): every partition shares the last-level cache. -/
def execConfigLlcWays (q seq : Nat) (s : State) : Out :=
  configPacket 4 (fun p v s =>
    let sharers := fun (new : List (Nat × Nat)) => [s.partitions.map fun e => if e.1 = p then new else e.2.llcways]
    (wayLimits v (kgetD {} s.partitions p).llcways sharers).map fun new => modPartition p (fun x => { x with llcways := new }) s) q seq s

/-! ## Pre-emption (R69, R71, R316) -/

/-- Every part of the workgroup waits at a phase boundary whose phase is complete (R43, R71). -/
def atBoundary (s : State) (g : Wg) : Bool :=
  match g.phaseAt with
  | none => false
  | some b => (wgWaves s g).all fun w => w.parts.all fun p =>
      match p.wait with
      | .barrier b' ph _ => decide (b' = b) && (ph != (g.bar b).phase)
      | .barrierNext b' ph => decide (b' = b) && (ph != (g.bar b).phase)
      | _ => false

/-- PREEMPT is delivered to a part that has not yielded (R69). -/
def preemptPart (p : Part) : Part := if partParked p then p else { p with preempt := true }

/-- Pre-empt a workgroup: at a phase boundary it is parked without PREEMPT, else PREEMPT goes to every part and PREDL starts. -/
def preemptWg (id : Nat) (s : State) : State :=
  match kget s.wgs id with
  | none => s
  | some g =>
    if g.ended then s
    else if atBoundary s g then
      parkWg id ((haltWg id s).modCore g.core fun c => { c with phaseQueue := c.phaseQueue.filter (· ≠ id) })
    else
      let t := s.time + 1000 * (kgetD {} s.partitions (kgetD {} s.grids g.grid).partition).predl
      let s := s.modWg id fun g => { g with predl := some (g.predl.getD t) }
      { s with waves := modWaves (fun w => { w with parts := w.parts.map preemptPart }) s.waves g.waves }

/-- The workgroup belongs to a launch of the partition that carries the tag and is no admitted DEADLINE launch (R316, R348). -/
def preemptible (s : State) (p tag : Nat) (g : Wg) : Bool :=
  let x := kgetD {} s.grids g.grid
  decide (x.partition = p) && (x.tags.contains tag || decide (x.tag = tag)) && decide (x.cls ≠ 0)

/-- Pre-empt every workgroup of a partition's launches that carry a tag. -/
def preemptTag (p tag : Nat) (s : State) : State :=
  (s.wgs.filter fun e => preemptible s p tag e.2).foldl (fun s e => preemptWg e.1 s) s

/-! ## Keys (R242, R334, R335) -/

/-- A key slot. -/
def State.key (s : State) (n : Nat) : KeySlot := kgetD {} s.keys n

/-- BIND: KEYSLOT for an empty slot or one bound to another partition. -/
def keyBind (slot p : Nat) (s : State) : Except Nat State :=
  let k := s.key slot
  if k.key.isNone || k.bound.any (fun x => decide (x ≠ p)) then .error 0x45
  else .ok { s with keys := kput s.keys slot { k with bound := some p } }

/-- UNBIND. -/
def keyUnbind (slot p : Nat) (s : State) : Except Nat State :=
  let k := s.key slot
  if k.key.isNone || k.bound.any (fun x => decide (x ≠ p)) then .error 0x45
  else .ok { s with keys := kput s.keys slot { k with bound := none } }

/-- GEN: a new key, told from every other by its identity. -/
def keyGen (slot : Nat) (s : State) : State :=
  { s with keys := kput s.keys slot { s.key slot with key := some s.nextId }, nextId := s.nextId + 1 }

/-- ZERO: an erased slot is empty and bound to nobody (log 6). -/
def keyZero (slot : Nat) (s : State) : State := { s with keys := kdel s.keys slot }

/-! ## Wipes (R243) -/

/-- A partition has workgroups: on its cores, in its shadow slots, or pre-empted (log 34). -/
def hasWorkgroups (s : State) (p : Nat) : Bool :=
  (s.wgs.any fun e => decide ((kgetD {} s.grids e.2.grid).partition = p)) ||
  (s.parked.any fun e => decide ((kgetD {} s.grids e.2.wg.grid).partition = p))

/-- Start a wipe: PARTNUM or WIPEBUSY, or the partition being wiped. -/
def startWipe (p : Nat) (s : State) : Except Nat State :=
  if (kget s.partitions p).isNone then .error 0x4C
  else if hasWorkgroups s p then .error 0x48
  else .ok (modPartition p (fun x => { x with wiping := true }) s)

/-- Zero a partition's HBM and its SRAM; what the caches held of it is invalid. -/
def wipePartition (p : Nat) (s : State) : State :=
  let x := kgetD {} s.partitions p
  let cores := partitionCores s p
  let lo := x.hbmBase
  let hi := x.hbmBase + x.hbmSize
  let inRange := fun a => decide (lo ≤ a) && decide (a < hi)
  { s with
    hbm := s.hbm.clear lo hi, hbmTag := s.hbmTag.filter fun c => !inRange c.1,
    hbmPoison := s.hbmPoison.filter (fun k => !inRange (32 * k)),
    stores := s.stores.filter (fun y => !(decide (y.mem = .hbm) && inRange y.addr)),
    spad := s.spad.filter (fun c => !(cores.contains (c.1 / 2 ^ 19))),
    icache := s.icache.filter (fun b => !(cores.contains b.core)),
    loopBufs := s.loopBufs.filter (fun e => !(cores.contains (e.1 / 4))),
    stale := s.stale.filter (fun x => !(decide (x.mem = .hbm) && inRange (32 * x.sector))), tlb := s.tlb.filter (fun t => t.partition ≠ p),
    ptrs := s.ptrs.filter (fun x => x.partition ≠ p),
    l1Locks := s.l1Locks.filter (fun k => !(cores.contains k.place)),
    l2Locks := s.l2Locks.filter (fun k => !(decide (k.line < 2 ^ 60) && inRange (128 * k.line))),
    fused := s.fused.filter (fun c => !(cores.contains (4 * c))) }

/-! ## Partition swaps (R72, R241, R237) -/

/-- Halt a partition between two words: its runs end. -/
def haltPartition (p : Nat) (s : State) : State :=
  modPartition p (fun x => { x with swap := 2 }) (dropRuns ((s.waves.filter fun e => e.2.partition = p).map (·.1)) s)

/-- The partition holds an admitted DEADLINE launch. -/
def holdsDeadline (s : State) (p : Nat) : Bool := s.grids.any fun e => decide (e.2.partition = p) && e.2.due.isSome

/-- Start a swap: out, or in. A core's shadow slot may hold another partition (SHADOWFULL). -/
def startSwap (p : Nat) (in_ : Bool) (s : State) : Except Nat State :=
  match kget s.partitions p with
  | none => .error 0x4C
  | some x =>
    if in_ then (if x.swap = 3 then .ok (modPartition p (fun x => { x with swap := 4 }) s) else .error 0x4A)
    else if s.partitions.any (fun e => decide (e.1 ≠ p) && decide (e.2.swap = 3) && decide (Nat.land e.2.gmask x.gmask ≠ 0)) then .error 0x49
    else if x.swap ≠ 0 then .ok s
    else if holdsDeadline s p then .ok (modPartition p (fun x => { x with swap := 1 }) s)
    else .ok (haltPartition p s)

/-- The ray of a lane stalls for fault service, which no drain waits for (R381). -/
def rayStalled (s : State) (id lane : Nat) : Bool :=
  (kget s.rays id).any fun x => x.lanes.any fun y => decide (y.lane = lane) && !y.waits.isEmpty

/-- Nothing is in flight that lands in a wave of the partition: special-function results, matrix operations, traversals (R72). -/
def swapDrained (s : State) (p : Nat) : Bool :=
  s.waves.all fun e => decide (e.2.partition ≠ p) ||
    (e.2.tiles.all (fun t => t.ops.isEmpty) && e.2.parts.all fun x => x.pend.all fun y => y.isLoad && y.lanes.all (rayStalled s y.id))

/-- The live contents go to the shadow slots: the L1s are written back and hold nothing, their locks end, the clusters are unfused. -/
def swapOut (p : Nat) (s : State) : State :=
  let cores := partitionCores s p
  let s := performStores s (fun x => cores.contains x.core) 5
  modPartition p (fun x => { x with swap := 3 })
    { s with waves := kmap (fun k (w : Wave) => if w.partition = p then freezeWave (cycleOf s (coreOf k)) w else w) s.waves,
             l1Locks := s.l1Locks.filter (fun k => !(cores.contains k.place)),
             fused := s.fused.filter (fun c => !(cores.contains (4 * c))) }

/-- A part waits again: its word issues again. -/
def wakeIf (f : Cond → Bool) (cycle : Nat) (p : Part) : Part :=
  match p.wait with
  | .cond c => if f c then wakePart cycle p else p
  | _ => p

/-- The part stalls for fault service. -/
def isStall : Cond → Bool
  | .records _ => true
  | _ => false

/-- A wave goes on where it was halted; its cycle counters stood still, and a stalled word issues again (R72, R381, R442). -/
def swapWaveIn (cycle : Nat) (w : Wave) : Wave :=
  let w := returnCounts cycle w
  { w with parts := w.parts.map (wakeIf isStall cycle) }

/-- The waves and engines of a partition go on where they were halted; accesses that stalled are issued again (R72, R381). -/
def swapIn (p : Nat) (s : State) : State :=
  { s with
    waves := kmap (fun k (w : Wave) => if w.partition = p then swapWaveIn (cycleOf s (coreOf k)) w else w) s.waves,
    copies := kmap (fun _ (x : Copy) => if x.owner.partition = p then { x with waits := [] } else x) s.copies,
    pairs := kmap (fun _ (x : Xpair) => if x.owner.partition = p then { x with waits := [] } else x) s.pairs,
    rays := kmap (fun _ (x : Xray) => if x.owner.partition = p then { x with lanes := x.lanes.map fun y => { y with waits := [] } } else x) s.rays }

/-- Wake the parts whose condition a choice names. -/
def wakeConds (f : Cond → Bool) (s : State) : State :=
  { s with waves := kmap (fun k (w : Wave) => { w with parts := w.parts.map (wakeIf f (cycleOf s (coreOf k))) }) s.waves }

/-- PARTCTL packets with an op that wait for the partition are done. -/
def donePartctl (ops : List Nat) (p : Nat) (s : State) : State :=
  s.queues.foldl (fun s e => e.2.packets.foldl (fun s x =>
    if decide (x.ty = 0x0B) && x.busy && ops.contains (numAt x.bytes 16 1) && decide (numAt x.bytes 17 1 = p) then
      donePacket e.1 x.seq 0x0100 0 s
    else s) s) s

/-- A swap of the partition is done. -/
def swapDone (p : Nat) (s : State) : State :=
  wakeConds (fun c => decide (c = .swap p)) (donePartctl [1, 2] p s)

/-- SHADOW_EXCHANGE (R72): the next stage of a swap: the cores halt once no DEADLINE launch is left, and after the drain the contents
are exchanged. -/
def execShadowExchange (p : Nat) (s : State) : Out :=
  .next (match (kgetD {} s.partitions p).swap with
    | 1 => if holdsDeadline s p then s else haltPartition p s
    | 2 => if swapDrained s p then swapDone p (swapOut p s) else s
    | 4 => swapDone p (modPartition p (fun x => { x with swap := 0 }) (swapIn p s))
    | _ => s)

/-- End a context (R470): its code is unloaded, its translations and cached code are dropped. -/
def endContext (p id : Nat) (s : State) : State :=
  let s := ((s.ctx p id).objs.map (·.id)).foldl (fun s o => unloadObj p id o s) s
  { s with
    contexts := kdel s.contexts (ctxKey p id),
    tlb := s.tlb.filter fun t => !(decide (t.partition = p) && decide (t.ctx = id)),
    ptrs := s.ptrs.filter fun x => !(decide (x.partition = p) && decide (x.ctx = id)) }

/-- The contexts of a partition. -/
def partContexts (s : State) (p : Nat) : List Nat :=
  (s.contexts.filter fun e => decide (e.1 / 4096 = p)).map fun e => e.1 % 4096

/-- PARTUNDEF once the partition is wiped (R469): the key slots, the contexts and the configuration end, and the command finishes. -/
def endPartition (p : Nat) (s : State) : State :=
  let s := { s with keys := s.keys.filter fun k => decide (k.2.bound ≠ some p) }
  let s := (partContexts s p).foldl (fun s c => endContext p c s) s
  { s with
    partitions := kdel s.partitions p,
    dev := { s.dev with mbox := { s.dev.mbox with busy := false, result := 0, outlen := 0 } } }

/-- WIPE_COMPLETE (R243): the wipe finishes; a PARTUNDEF that waits for it goes on (R469). -/
def execWipeComplete (p : Nat) (s : State) : Out :=
  .next (if (kgetD {} s.partitions p).wiping then
      let t := wakeConds (fun c => decide (c = .wipe p))
        (donePartctl [3] p (modPartition p (fun x => { x with wiping := false }) (wipePartition p s)))
      if (kgetD {} s.partitions p).undef then endPartition p t else t
    else s)

/-! ## PARTCTL (R316) -/

/-- A PARTCTL packet of an op: what it does at once, or the code of R335 with which it fails; `waits_` says that it completes later
(log 35). -/
def partctl (op : Nat) (waits_ : State → Nat → Bool) (f : Packet → Nat → State → Except Nat State) (q seq : Nat) (s : State) : Out :=
  match s.packet q seq with
  | none => .next s
  | some p =>
    if numAt p.bytes 16 1 = op then
      startPacket q seq 0x0B true (fun p s =>
        match f p (numAt p.bytes 17 1) s with
        | .error code => donePacket q seq 0x0108 code s
        | .ok s =>
          if waits_ s (numAt p.bytes 17 1) then s.modPacket q seq fun p => { p with busy := true } else donePacket q seq 0x0100 0 s) s
    else .next s

/-- The op completes at once. -/
def atOnce (_ : State) (_ : Nat) : Bool := false

/-- A swap is under way. -/
def swapping (s : State) (p : Nat) : Bool := let k := (kgetD {} s.partitions p).swap; decide (k ≠ 0 ∧ k ≠ 3)

/-- PARTCTL_PREEMPT (R316): the workgroups of the partition's launches that carry the tag. -/
def execPartctlPreempt (q seq : Nat) (s : State) : Out :=
  partctl 0 atOnce (fun p part s =>
    if (kget s.partitions part).isNone then .error 0x4C else .ok (preemptTag part (numAt p.bytes 20 4) s)) q seq s

/-- PARTCTL_SWAPOUT (R316). -/
def execPartctlSwapout (q seq : Nat) (s : State) : Out := partctl 1 swapping (fun _ part s => startSwap part false s) q seq s

/-- PARTCTL_SWAPIN (R316). -/
def execPartctlSwapin (q seq : Nat) (s : State) : Out := partctl 2 swapping (fun _ part s => startSwap part true s) q seq s

/-- PARTCTL_WIPE (R316). -/
def execPartctlWipe (q seq : Nat) (s : State) : Out := partctl 3 (fun _ _ => true) (fun _ part s => startWipe part s) q seq s

/-- PARTCTL_KEYBIND (R316). -/
def execPartctlKeybind (q seq : Nat) (s : State) : Out :=
  partctl 4 atOnce (fun p part s => keyBind (numAt p.bytes 18 1) part s) q seq s

/-- PARTCTL_KEYZERO (R316). -/
def execPartctlKeyzero (q seq : Nat) (s : State) : Out :=
  partctl 5 atOnce (fun p _ s => .ok (keyZero (numAt p.bytes 18 1) s)) q seq s

/-! ## CTRL (R334, R335) -/

/-- A control-mode fault: TINFO holds the queue, the partition, the slot and the reason. -/
def ctrlTrap (code q p slot reason : Nat) : Trap :=
  { cause := code, info := BitVec.ofNat 32 (q % 2 ^ 10 + 2 ^ 10 * p + 2 ^ 16 * slot + 2 ^ 20 * reason) }

/-- The checks of a CTRL word. -/
def ctrlSig (f : Nat) (opds : List Opd) (_ : Ctx) : Sig := { maj := 0x39, priv := some f, opds := opds }

/-- A span of v registers (R334). -/
def ctrlSpan (d : BitVec 7) (n : Nat) (dst src : Bool) : Opd := { code := d, len := n, dst := dst, src := src, allow := .vOnly }

/-- Bytes of `n` registers of L0. -/
def regBytes (c : Ctx) (d : BitVec 7) (n : Nat) : List Byte := (c.readSpan d n c.l0).flatMap fun w => bytesOfNat 4 w.toNat

/-- Bytes as words. -/
def bytesWords (n : Nat) (bs : List Byte) : List Word := (chunks 4 n bs).map fun e => BitVec.ofNat 32 (natOfBytes e)

/-- Where `handed` holds the fetch of a packet that names an address for a partition. -/
def handedKey (p a : Nat) : Nat := p * 2 ^ 64 + a

/-- The effect of QFETCH (R308, R314, R334). The second packet of a spliced pair is promised to its queue (log 89). -/
def qfetchBody (d : BitVec 7) (q : Nat) (c : Ctx) (s : State) : Res :=
  let x := s.queue q
  if x.state ≠ 1 ∨ x.en = false ∨ x.resetting then .trap s (ctrlTrap 0x41 q x.part 0 0)
  else if x.head = x.tail ∨ x.mate.isSome then .trap s (ctrlTrap 0x40 q x.part 0 0)
  else
    let s1 := s.modQueue q headOn
    match packetBytes s q x.head with
    | none => .trap (badPacket q 6 ((x.base + 64 * (x.head % max 1 x.size)) % 2 ^ 32) 0 x.mateCode s1) (ctrlTrap 0x42 q x.part 0 6)
    | some b =>
      match checkPacket q b s1 with
      | .bad s reason count => .trap (badPacket q reason count (numAt b 4 4) x.mateCode s) (ctrlTrap 0x42 q x.part 0 reason)
      | .ok s _ =>
        .fall (writeRegs c d (fun _ => bytesWords 16 b) { s with handed := kput s.handed (handedKey x.part (numAt b 16 8)) s.time }) 1

/-- QFETCH (R334): the next exposed packet of a queue. -/
def execQfetch (z : Bool) (d : BitVec 7) (q : BitVec 10) (s : State) : Out :=
  issueWord z (ctrlSig 0 [ctrlSpan d 16 true false]) idleWord (qfetchBody d q.toNat) s

/-- Hand the records at some addresses, of a packet fetched at a time, to a partition's dispatcher, all or none: a refusal posts an event
(log 33). -/
def dispRecords (p time : Nat) : List Nat → State → State × Except (Nat × Nat × Nat) (List Nat)
  | [], s => (s, .ok [])
  | a :: as, s =>
    match (if a % 256 = 0 then ctlRead p (packetCtx s p) a 256 s else none) with
    | none => (s, .error (0x0109, 0x20, 0))
    | some (s, b) =>
      let evq := (parseLaunch b).evq
      match submitRec p true b s with
      | .refused s code => (s, .error (0x0109, code, evq))
      | .ok s g =>
        match admitGrid g time s with
        | .error st => (s, .error (st, 0, evq))
        | .ok (s, gid) =>
          match dispRecords p time as s with
          | (s, .ok ids) => (s, .ok (gid :: ids))
          | (s, .error e) => (s, .error e)

/-- The records that QDISP hands over: the one at its address, or those of the bundle there; none where it cannot be read. -/
def dispAddrs (d : BitVec 7) (b : Bool) (p : Nat) (c : Ctx) (s : State) : State × List Nat :=
  let a := (c.read64 false d c.l0).toNat
  if b then
    (match ctlRead p (packetCtx s p) a 64 s with
    | some (s, bs) => (s, bundleAddrs bs)
    | none => (s, []))
  else (s, [a])

/-- Hand over what QDISP names; a bundle without a member is refused with RECFORMAT (R318). -/
def dispAll (p time : Nat) (x : State × List Nat) : State × Except (Nat × Nat × Nat) (List Nat) :=
  if x.2.isEmpty then (x.1, .error (0x0109, 0x20, 0)) else dispRecords p time x.2 x.1

/-- The effect of QDISP: the dispatcher holds 1,024 host records, and each member of a bundle is one; a deadline counts from the fetch of
the packet that named the address (R65). -/
def qdispBody (d : BitVec 7) (b : Bool) (p : Nat) (c : Ctx) (s : State) : Res :=
  let r := dispAddrs d b p c s
  let key := handedKey p (c.read64 false d c.l0).toNat
  if (kget s.partitions p).isNone then .trap s (ctrlTrap 0x4C 0 p 0 0)
  else if 1024 < hostWaiting s p + max 1 r.2.length then .trap s (ctrlTrap 0x43 0 p 0 0)
  else
    match dispAll p ((kget s.handed key).getD s.time) ({ r.1 with handed := kdel r.1.handed key }, r.2) with
    | (s, .ok ids) => .fall (if b then bundleUp ids s else s) 1
    | (s', .error (st, fs, evq)) =>
      .fall (postEvent evq { status := st, fsum := fs }
        { s' with grids := s.grids, cores := s.cores, waves := s.waves, runs := s.runs, focus := s.focus }) 1

/-- QDISP (R334): admits a launch or bundle and hands it to a dispatcher. -/
def execQdisp (z : Bool) (d : BitVec 7) (b : BitVec 1) (p : BitVec 3) (s : State) : Out :=
  issueWord z (ctrlSig 1 [rdW true d]) idleWord (qdispBody d (b = 1#1) p.toNat) s

/-- The effect of SWAITC: it waits for the signal of L0, counting its timeout from its first issue (R334, R335). -/
def swaitcBody (d : BitVec 7) (timeout cmp : Nat) (c : Ctx) (s : State) : Res :=
  let ea := descPair c d 0
  let want := descPair c d 2
  let dl := c.p.timeout.or (if timeout = 0 then none else some (s.time + 1000 * timeout))
  memWord c [{ lane := c.l0, ea := ea, n := 8 }] 8 accRead noExtra (fun s ps =>
    if signalMeets cmp (natOfBytes (readPlaces s .system (placesOf ps c.l0))) want then .fall (physAcquire s (coreOf c.key) 5) 1
    else if dl.any (fun t => decide (t ≤ s.time)) then .trap s { ctrlTrap 0x44 0 0 0 0 with addr := some (BitVec.ofNat 64 ea) }
    else .hold (s.modPart c.key c.q fun p => { p with timeout := dl }) (.cond (.signal ea want cmp dl))) s

/-- SWAITC (R334): a condition on a signal; condition 3 raises ILLEGAL with REASON FIELD. -/
def execSwaitc (z : Bool) (d : BitVec 7) (i : BitVec 12) (c : BitVec 2) (s : State) : Out :=
  issueWord z (fun x => { ctrlSig 2 [ctrlSpan d 4 false true] x with badField := decide (c = 3#2) }) idleWord
    (swaitcBody d i.toNat c.toNat) s

/-- SWAITC_TIMEOUT (R335): the timeout has passed; the part issues its SWAITC again, which traps unless the condition holds. -/
def execSwaitcTimeout (wave q : Nat) (s : State) : Out :=
  .next (s.modWave wave fun w =>
    { w with parts := partMod (fun p =>
        match p.wait with
        | .cond (.signal _ _ _ (some t)) => if t ≤ s.time ∧ w.stopped = false then wakePart (cycleOf s (coreOf wave)) p else p
        | _ => p) w.parts q })

/-- A KEYOP word that reads and writes no register. -/
def keyopWord (z : Bool) (f : State → Except Nat State) (slot p : Nat) (s : State) : Out :=
  issueWord z (ctrlSig 3 []) idleWord (fun _ s =>
    match f s with
    | .ok s => .fall s 1
    | .error code => .trap s (ctrlTrap code 0 p slot 0)) s

/-- KEYOP GEN (R334): a random AES-256 key. -/
def execKeyopGen (z : Bool) (_d : BitVec 7) (p : BitVec 3) (k : BitVec 4) (s : State) : Out :=
  keyopWord z (fun s => .ok (keyGen k.toNat s)) k.toNat p.toNat s

/-- KEYOP BIND (R334). -/
def execKeyopBind (z : Bool) (_d : BitVec 7) (p : BitVec 3) (k : BitVec 4) (s : State) : Out :=
  keyopWord z (keyBind k.toNat p.toNat) k.toNat p.toNat s

/-- KEYOP UNBIND (R334). -/
def execKeyopUnbind (z : Bool) (_d : BitVec 7) (p : BitVec 3) (k : BitVec 4) (s : State) : Out :=
  keyopWord z (keyUnbind k.toNat p.toNat) k.toNat p.toNat s

/-- KEYOP ZERO (R334). -/
def execKeyopZero (z : Bool) (_d : BitVec 7) (p : BitVec 3) (k : BitVec 4) (s : State) : Out :=
  keyopWord z (fun s => .ok (keyZero k.toNat s)) k.toNat p.toNat s

/-- KEYOP ZEROALL (R334). -/
def execKeyopZeroall (z : Bool) (_d : BitVec 7) (p : BitVec 3) (k : BitVec 4) (s : State) : Out :=
  keyopWord z (fun s => .ok { s with keys := [] }) k.toNat p.toNat s

/-- A signature of the device key, r then s, each 66 bytes big-endian: a free value (log 2). -/
def freshSignature (s : State) : State × List Byte := ({ s with fresh := s.fresh + 1 }, beBytes 132 (Config.freeBits s.fresh).toNat)

/-- The effect of KEYOP SIGN: KEYSTATE without a device key (R335, R473). -/
def keyopSignBody (d : BitVec 7) (slot p : Nat) (c : Ctx) (s : State) : Res :=
  if !s.dev.key then .trap s (ctrlTrap 0x46 0 p slot 0)
  else
    let r := freshSignature s
    .fall (writeRegs c (d + 16#7) (fun _ => bytesWords 33 r.2) r.1) 1

/-- KEYOP SIGN (R334): the digest in D..D+15 is signed into D+16..D+48. -/
def execKeyopSign (z : Bool) (d : BitVec 7) (p : BitVec 3) (k : BitVec 4) (s : State) : Out :=
  issueWord z (ctrlSig 3 [ctrlSpan d 49 true false, ctrlSpan d 16 false true]) idleWord (keyopSignBody d k.toNat p.toNat) s

/-- FUSERD (R334): a fuse row. -/
def execFuserd (z : Bool) (d : BitVec 7) (r : BitVec 10) (s : State) : Out :=
  issueWord z (ctrlSig 4 [wr d]) idleWord
    (fun c s => .fall (writeReg c d (fun _ => Config.fuseRow s.dev.burns r.toNat) s) 1) s

/-- A word that starts something of a partition and completes when it is done: its mark is the part's timeout. -/
def untilDone (start : State → Except Nat State) (busy : State → Bool) (cond : Cond) (p : Nat) (c : Ctx) (s : State) : Res :=
  if c.p.timeout.isSome then
    (if busy s then .hold (s.modPart c.key c.q fun x => { x with timeout := c.p.timeout }) (.cond cond) else .fall s 1)
  else
    match start s with
    | .error code => .trap s (ctrlTrap code 0 p 0 0)
    | .ok s =>
      if busy s then .hold (s.modPart c.key c.q fun x => { x with timeout := some s.time }) (.cond cond) else .fall s 1

/-- WIPE (R243, R334): completes when the partition's HBM and SRAM are zero. -/
def execWipe (z : Bool) (p : BitVec 3) (s : State) : Out :=
  issueWord z (ctrlSig 5 []) idleWord
    (untilDone (startWipe p.toNat) (fun s => (kgetD {} s.partitions p.toNat).wiping) (.wipe p.toNat) p.toNat) s

/-- SHADOW (R72, R334): swaps a partition out or in. -/
def execShadow (z : Bool) (x : BitVec 1) (p : BitVec 3) (s : State) : Out :=
  issueWord z (ctrlSig 6 []) idleWord
    (untilDone (startSwap p.toNat (x = 1#1)) (fun s => swapping s p.toNat) (.swap p.toNat) p.toNat) s

/-- The effect of MEASX (R334, R474). -/
def measxBody (d : BitVec 7) (m : Nat) (c : Ctx) (s : State) : Res :=
  if 12 ≤ m then .trap s (ctrlTrap 0x4B 0 0 0 0) else .fall (extendMeas m (beNat (regBytes c d 16)) s) 1

/-- MEASX (R334): extends a measurement register. -/
def execMeasx (z : Bool) (d : BitVec 7) (m : BitVec 4) (s : State) : Out :=
  issueWord z (ctrlSig 7 [ctrlSpan d 16 false true]) idleWord (measxBody d m.toNat) s

end Sys2Proof.Machine
end

