-- ==== Sys2Proof/Machine/Dispatcher.lean ====
section
/-! DEFINITION. The dispatcher of a partition (R47 to R53): which workgroup is next, room on a core, placement and resumption; PREEMPT,
the hardware save and the budget (R66 to R70); the arbiter of a quarter (R57 to R60). -/

namespace Sys2Proof.Machine

/-! ## Weight classes (R49, R51) -/

/-- A core is eligible in a round (R51). -/
def eligible (c : Core) (round : Nat) : Bool :=
  if c.weight ≤ 1 then true
  else if c.weight = 2 then decide (round % 2 = 0)
  else !(c.rounds.any fun r => decide (r < round) && decide (round ≤ r + 3))

/-- A core that is eligible in a round remembers it, with the three before. -/
def markRound (round : Nat) (c : Core) : Core :=
  if eligible c round && !(c.rounds.contains round) then { c with rounds := (round :: c.rounds).take 4 } else c

/-- The class of a temperature in °C and of a count of droop-stretch events (R49). -/
def weightClass (temp droops : Nat) : Nat :=
  max (if temp < 85 then 0 else if temp < 95 then 1 else if temp < 105 then 2 else 3)
    (if droops ≤ 3 then 0 else if droops ≤ 15 then 1 else if droops ≤ 63 then 2 else 3)

/-- The partition of a core, if a configured one has its granule (R469). -/
def partitionOf (s : State) (core : Nat) : Option Nat := (s.partitions.find? fun e => bitOf e.2.gmask (core / 32)).map (·.1)

/-- The round of a core's partition. -/
def roundOf (s : State) (core : Nat) : Nat :=
  match partitionOf s core with
  | some p => (kgetD {} s.partitions p).round
  | none => 0

/-- A core's temperature is reported: HOT says that some core's last report is 105 °C or above (R456). -/
def noteTemp (core temp : Nat) (s : State) : State :=
  let s := s.modCore core fun c => { c with temp := temp }
  { s with dev := { s.dev with hot := s.cores.any fun e => decide (105 ≤ e.2.temp) } }

/-- The sensors of a core and of the `more` cores after it report a temperature. -/
def noteTemps (core temp more : Nat) (s : State) : State :=
  ((List.range (more + 1)).filter fun i => core + i < 256).foldl (fun s i => noteTemp (core + i) temp s) s

/-- Droop-stretch events of an island in the last 10 µs (R49). -/
def recentDroops (s : State) (island : Nat) : Nat :=
  (s.dev.droops.filter fun d => decide (d.1 = island) && decide (s.time < d.2 + 10000)).length

/-- A core takes the class of its last temperature and of its island's events; in the round under way it may have been eligible before. -/
def weighCore (s : State) (core : Nat) : State :=
  let k := weightClass (s.core core).temp (recentDroops s (islandOf core))
  if (s.core core).weight = k then s else s.modCore core fun c => { markRound (roundOf s core) c with weight := k }

/-- WEIGHT_CLASS_UPDATE (R49): the sensors of a core and of the `more` cores after it report, and every core's class is set anew. -/
def execWeightClassUpdate (core temp more : Nat) (s : State) : Out :=
  .next (if core < 256 then
      let s := (List.range 256).foldl weighCore (noteTemps core temp more s)
      { s with dev := { s.dev with weighed := s.time, droops := s.dev.droops.filter fun d => decide (s.time < d.2 + 10000) } }
    else s)

/-- The 10 µs of R49 are over. -/
def weighDue (s : State) : Bool := s.dev.ready && decide (s.dev.weighed + 10000 ≤ s.time)

/-! ## What waits for placement (R47, R48, R318) -/

/-- What waits for a core: a pre-empted workgroup of a grid, or the next workgroup of a grid. -/
inductive Item where
  | again (wg gid : Nat)
  | fresh (gid : Nat)
deriving DecidableEq, Repr

/-- The grid of an item. -/
def Item.gid : Item → Nat
  | .again _ g => g
  | .fresh g => g

/-- A grid has a workgroup that may be placed now, but for room: a refused pair's second member waits for the first (R338). -/
def unplaced (s : State) (g : Grid) : Bool := decide (g.placed < g.total) && g.after.all fun a => (kget s.grids a).isNone

/-- Of the members of one bundle, the one whose turn it is: the fewest workgroups placed, then member order (R318). -/
def bundleTurn : Nat × Grid → List (Nat × Grid) → Nat × Grid
  | x, [] => x
  | x, y :: ys => bundleTurn (if y.2.placed < x.2.placed then y else x) ys

/-- The grid of a bundle that is placed from next, of a list that begins with one of them: members that wait for the one before them have
no turn (R318, R338). -/
def bundleHead (s : State) (x : Nat × Grid) (xs : List (Nat × Grid)) : Nat × Grid :=
  match (x :: xs).filter fun e => decide (e.2.bundle = x.2.bundle) && unplaced s e.2 with
  | [] => x
  | y :: ys => bundleTurn y ys

/-- The grid of a queue that is placed from next: the oldest with a workgroup not placed (R48), a bundle's by turns. -/
def queueHead (s : State) (p q : Nat) : Option (Nat × Grid) :=
  let gs := s.grids.filter fun e => decide (e.2.partition = p) && decide (e.2.queue = q) && decide (e.2.placed < e.2.total)
  match gs with
  | [] => none
  | x :: xs => some (if x.2.bundle = 0 then x else bundleHead s x xs)

/-- The pre-empted workgroups of a partition. -/
def parkedItems (s : State) (p : Nat) : List (Nat × Nat × Item) :=
  s.parked.filterMap fun e =>
    let g := kgetD {} s.grids e.2.wg.grid
    if g.partition = p then some (g.cls, g.queue, Item.again e.1 e.2.wg.grid) else none

/-- A device-launched grid may be placed from: it has a workgroup to place, and of a bundle it is its turn (R318). -/
def deviceTurn (s : State) (p : Nat) (e : Nat × Grid) : Bool :=
  decide (e.2.partition = p) && decide (e.2.queue = 0xFFFF) && unplaced s e.2 &&
  (decide (e.2.bundle = 0) || decide ((bundleHead s e (s.grids.filter fun x => decide (x.2.bundle = e.2.bundle))).1 = e.1))

/-- New workgroups of a partition that wait for placement, each with its class and its queue. Device-launched grids have no queue order, and
share one place in the round-robin (log 10). -/
def freshItems (s : State) (p : Nat) : List (Nat × Nat × Item) :=
  let qs := ((s.grids.filter fun e => e.2.partition = p).map (·.2.queue)).eraseDups
  let host := (qs.filter (· ≠ 0xFFFF)).filterMap fun q =>
    (queueHead s p q).bind fun x => if unplaced s x.2 then some (x.2.cls, q, Item.fresh x.1) else none
  host ++ (s.grids.filter (deviceTurn s p)).map fun e => (e.2.cls, 0xFFFF, Item.fresh e.1)

/-- The next item to be placed (R47, R316): the highest class; pre-empted workgroups stand at the head of its list, then its queues have
their turns. -/
def nextItem (s : State) (p : Nat) : Option (Nat × Nat × Item) :=
  let again := parkedItems s p
  let items := freshItems s p
  (List.range 4).findSome? fun c =>
    let xs := items.filter fun x => x.1 = c
    let qs := (List.range 1024 ++ [0xFFFF]).filter fun q => xs.any fun x => x.2.1 = q
    (again.find? fun x => x.1 = c).or
      ((nextAfter (cellsGet 0 s.served (p * 4 + c)) qs).bind fun q => xs.find? fun x => x.2.1 = q)

/-! ## Room (R39, R52, R103, R106, R189, R229, R232) -/

/-- What each wave of a workgroup takes. -/
structure WaveShape where
  width : Nat
  vbound : Nat
  tiles : Nat
deriving DecidableEq, Repr

/-- What is taken of a quarter: slots, quad-registers, tile bytes, operand-buffer entries. -/
structure QuarterUse where
  slots : List Nat := []
  regs : Nat := 0
  tiles : Nat := 0
  entries : Nat := 0
deriving DecidableEq, Repr

/-- Tile bytes of a wave (R189). -/
def tileBytes (width n : Nat) : Nat := n * (4 * width ^ 2)

/-- A wave more in a quarter. -/
def useSlot (u : QuarterUse) (slot : Nat) (x : WaveShape) (grant : Nat) : QuarterUse :=
  { slots := slot :: u.slots, regs := u.regs + x.vbound * (x.width / 4), tiles := u.tiles + tileBytes x.width x.tiles,
    entries := u.entries + grant * x.width }

/-- The waves that hold slots and registers: the resident ones, and ended ones whose workgroup's copy requests are not complete (R305). -/
def heldWaves (s : State) : List Wave := s.waves.map (·.2) ++ s.wgs.flatMap fun e => e.2.kept

/-- What the held waves take of each quarter of a core. -/
def coreUse (s : State) (core : Nat) : List QuarterUse :=
  (List.range 4).map fun qr => (heldWaves s).foldl (fun u w =>
    if quarterOf w.key = core * 4 + qr then
      useSlot u (w.key % 16) { width := w.width, vbound := w.vbound, tiles := w.tiles.length } w.grant
    else u) {}

/-- The operand-buffer entries per lane that a new wave of a quarter is granted (R106). -/
def bufGrant (u : QuarterUse) (width : Nat) : Nat :=
  let left := 4096 - u.entries
  let keep := 256 * (15 - u.slots.length)
  if 16 * width + keep ≤ left then 16 else if 8 * width + keep ≤ left then 8 else 4

/-- A wave of a shape fits a slot of a quarter. -/
def slotFits (u : QuarterUse) (slot : Nat) (x : WaveShape) : Bool :=
  !(u.slots.contains slot) && decide (u.regs + x.vbound * (x.width / 4) ≤ 16384) && decide (u.tiles + tileBytes x.width x.tiles ≤ 131072)

/-- The first free slot for a wave: by slot number, then by quarter (R52): quarter and slot. -/
def findSlot (us : List QuarterUse) (x : WaveShape) : Option (Nat × Nat) :=
  ((List.range 16).flatMap fun slot => (List.range 4).map fun qr => (qr, slot)).find? fun y => slotFits (us.getD y.1 {}) y.2 x

/-- Slots for the waves of a workgroup, in order: slot within the core and grant; none where one has no room. -/
def findSlots (us : List QuarterUse) : List WaveShape → Option (List (Nat × Nat))
  | [] => some []
  | x :: xs =>
    match findSlot us x with
    | none => none
    | some (qr, slot) =>
      let u := us.getD qr {}
      let grant := bufGrant u x.width
      (findSlots (us.set qr (useSlot u slot x grant)) xs).map ((qr * 16 + slot, grant) :: ·)

/-- Insert an allocation by its base. -/
def insAlloc (x : Nat × Nat) : List (Nat × Nat) → List (Nat × Nat)
  | [] => [x]
  | y :: ys => if x.1 < y.1 then x :: y :: ys else y :: insAlloc x ys

/-- The free ranges of at least a size between allocations sorted by base, from a base up to a limit: start and length. -/
def gaps (limit size : Nat) : List (Nat × Nat) → Nat → List (Nat × Nat)
  | [], base => if base + size ≤ limit then [(base, limit - base)] else []
  | (b, n) :: xs, base => (if base + size ≤ b then [(base, b - base)] else []) ++ gaps limit size xs (max base (b + n))

/-- A base at which a size fits, as `pick` chooses (R103): a free range, and a place in it. A wave without quad-registers fits at any. -/
def pickBase (size pick : Nat) (xs : List (Nat × Nat)) : Option Nat :=
  let gs := gaps 16384 size xs 0
  if size = 0 then some (pick % 16384)
  else if gs.isEmpty then none
  else
    let g := gs.getD (pick % gs.length) (0, 0)
    some (g.1 + pick / gs.length % (g.2 - size + 1))

/-- Bases for waves in order, each given by its quarter and size; none where one does not fit. -/
def pickBases (pick : Nat → Nat) : List (List (Nat × Nat)) → List (Nat × Nat) → Nat → Option (List Nat)
  | _, [], _ => some []
  | rs, (qr, size) :: xs, n =>
    match pickBase size (pick n) (rs.getD qr []) with
    | none => none
    | some b => (pickBases pick (rs.set qr (insAlloc (b, size) (rs.getD qr []))) xs (n + 1)).map (b :: ·)

/-- The quad-registers that the held waves of each quarter of a core occupy, by base. -/
def coreRanges (s : State) (core : Nat) : List (List (Nat × Nat)) :=
  (List.range 4).map fun qr => (heldWaves s).foldl (fun xs w =>
    if decide (quarterOf w.key = core * 4 + qr) && decide (w.vbound ≠ 0) then insAlloc (w.vbase, w.vbound * (w.width / 4)) xs
    else xs) []

/-- VBASE of the waves of a workgroup: any base at which all quad-registers are free, as free values choose (R103, log 11). -/
def findBases (s : State) (core : Nat) (sl : List (Nat × Nat)) (shapes : List WaveShape) : Option (List Nat) :=
  let wants := (sl.zip shapes).map fun y => (y.1.1 / 16, y.2.vbound * (y.2.width / 4))
  (pickBases (fun n => (Config.freeWord (s.fresh + n)).toNat) (coreRanges s core) wants 0).or
    (pickBases (fun _ => 0) (coreRanges s core) wants 0)

/-- The first free scratchpad range of a size on a core, from a base on, past the allocations that lie in its way. -/
def findSpad (size : Nat) : List (Nat × Nat) → Nat → Option Nat
  | [], base => if base + size ≤ 2 ^ 19 then some base else none
  | (b, n) :: xs, base => if base + size ≤ b then some base else findSpad size xs (max base (b + n))

/-- The scratchpad allocations of a core, by base. -/
def coreAllocs (s : State) (core : Nat) : List (Nat × Nat) :=
  (s.wgs.filter fun e => decide (e.2.core = core) && decide (e.2.spadSize ≠ 0)).foldl
    (fun xs e => insAlloc (e.2.spadBase, e.2.spadSize) xs) []

/-- What a workgroup takes of a core: the slots of its waves with their grants, their VBASE, and the base of its scratchpad. -/
structure Room where
  slots : List (Nat × Nat)
  bases : List Nat
  spad : Nat
deriving DecidableEq, Repr

/-- Room on a core for a workgroup (R39, R66, R232). -/
def roomOn (s : State) (gid : Nat) (g : Grid) (shapes : List WaveShape) (core : Nat) : Option Room :=
  let c := s.core core
  let cl := clusterOf core
  let held := match c.reserved with
    | some r => decide (r ≠ gid)
    | none => decide (g.cls = 0)
  let noFuse := g.launch.fusel1 && !(s.fused.contains cl) && s.wgs.any fun e => clusterOf e.2.core = cl
  if held || noFuse then none
  else
    (findSlots (coreUse s core) shapes).bind fun sl =>
      (findBases s core sl shapes).bind fun bs =>
        (findSpad g.launch.scratch (coreAllocs s core) 0).map fun sp => { slots := sl, bases := bs, spad := sp }

/-- The shapes of the waves of an item. -/
def itemShapes (s : State) (g : Grid) : Item → List WaveShape
  | .again wg _ => match kget s.parked wg with
    | some k => k.waves.map fun w => { width := w.width, vbound := w.vbound, tiles := w.tiles.length }
    | none => []
  | .fresh _ =>
    List.replicate g.launch.wgwaves
      { width := g.launch.wave, vbound := min g.launch.vgrant (kgetD {} s.partitions g.partition).vbudget, tiles := g.launch.tiles }

/-- The choice of a core: which, the place in the list from which the pointer goes on, and the room found. -/
structure Choice where
  core : Nat
  next : Nat
  room : Room
deriving DecidableEq, Repr

/-- The first core of a list of positions that has room. -/
def firstRoom (s : State) (gid : Nat) (g : Grid) (shapes : List WaveShape) (ok : Core → Bool) : List (Nat × Nat) → Option Choice
  | [] => none
  | (core, next) :: xs =>
    match (if ok (s.core core) then roomOn s gid g shapes core else none) with
    | some r => some { core := core, next := next, room := r }
    | none => firstRoom s gid g shapes ok xs

/-- The cores that may be placed on: in service and untripped (R49, R50, R471). -/
def placeCores (s : State) (p : Nat) : List Nat := (serviceCores s p).filter fun c => !(s.core c).tripped

/-- Choose a core in the window (R50), or among the reserved cores of a DEADLINE launch by turns (R67). -/
def chooseCore (s : State) (p gid : Nat) (g : Grid) (shapes : List WaveShape) : Option Choice :=
  let cs := placeCores s p
  if g.cls = 0 then
    let mine := cs.filter fun c => (s.core c).reserved = some gid
    let m := mine.length
    firstRoom s gid g shapes (fun _ => true)
      ((List.range m).map fun j => (mine.getD ((g.placed + j) % max 1 m) 0, (kgetD {} s.partitions p).ptr))
  else
    let x := kgetD {} s.partitions p
    let m := cs.length
    let window := (List.range (min 4 m)).map fun j => (cs.getD ((x.ptr + j) % m) 0, x.ptr + j + 1)
    (firstRoom s gid g shapes (fun c => eligible c x.round) window).or (firstRoom s gid g shapes (fun _ => true) window)

/-- Move the dispatcher's pointer; a wrap ends the round (R50, R51). -/
def movePtr (p next : Nat) (s : State) : State :=
  let cs := placeCores s p
  let x := kgetD {} s.partitions p
  if next < cs.length then modPartition p (fun x => { x with ptr := next }) s
  else
    let s := cs.foldl (fun s c => s.modCore c (markRound x.round)) s
    modPartition p (fun x => { x with ptr := next - cs.length, round := x.round + 1 }) s

/-! ## A new workgroup (R52, R98, R387) -/

/-- The part of a new wave. -/
def newPart (cycle : Nat) (g : Grid) (i : Option WaveInit) : Part :=
  let n := g.launch.wave / 4
  let free : UReg := { val := 0#32, bq := 0, bn := n }
  let ws := match i with
    | some x => x.w.map fun v => { free with val := v }
    | none => []
  { q := 0, n := n, pc := g.pc, w := (ws ++ List.replicate 24 free).take 24, tvec := { free with val := BitVec.ofNat 32 g.launch.tvec },
    tpart := tpartWord 0 n, readyAt := cycle }

/-- A new wave (R98, R103, R104): every register reads zero, and it is one part, quads whose lanes start terminated among its own (R19, R362);
VBASE is the device's choice (log 11). `unit` is the workgroup's WGLIN, which places the wave's areas (R387). -/
def newWave (s : State) (key wg gid : Nat) (g : Grid) (lin unit index grant vbase : Nat) (vbound : Nat) : Wave :=
  let l := g.launch
  let wi := unit * l.wgwaves + index
  let init := kget g.inits lin
  let now := cycleOf s (coreOf key)
  { key := key, wg := wg, grid := gid, index := index, width := l.wave, parts := [newPart now g init], tiles := List.replicate l.tiles {},
    v := match init with
      | some x => x.v
      | none => [],
    ended := match init with
      | some x => (List.range l.wave).filter fun i => x.lanes ≤ i
      | none => [],
    regs := l.regs, vbase := vbase, vbound := vbound, backing := l.regarea + wi * (l.regs * l.wave * 4), partition := g.partition,
    ctx := l.ctxid, localBase := l.locala + wi * (l.localsz * l.wave), cycle0 := now, grant := grant }

/-- The waves of a new workgroup, each in its slot. -/
def newWaves (core wg gid : Nat) (g : Grid) (lin unit vbound : Nat) : List ((Nat × Nat) × Nat) → Nat → State → State
  | [], _, s => s
  | ((slot, grant), vbase) :: xs, index, s =>
    let w := newWave s (core * 64 + slot) wg gid g lin unit index grant vbase vbound
    newWaves core wg gid g lin unit vbound xs (index + 1) { s with fresh := s.fresh + 1, waves := kput s.waves w.key w }

/-- The coordinates of a workgroup: x fastest (R48); a record queue's consumer has its batch's (R332), and the domain and raster
workgroups of a draw count along x (log 36). -/
def wgCoords (g : Grid) (lin : Nat) : Nat × Nat × Nat :=
  match g.batch, g.draw with
  | some b, _ => b
  | none, some (_, k) => if k = 0 then gridCoords g lin else (lin, 0, 0)
  | none, none => gridCoords g lin
where
  /-- The place of a linear index in the grid's box. -/
  gridCoords (g : Grid) (lin : Nat) : Nat × Nat × Nat :=
    (lin % g.launch.gridx, lin / g.launch.gridx % g.launch.gridy, lin / (g.launch.gridx * g.launch.gridy))

/-- The counters of a core that runs a MEASURE pass for the first time: the group's events, counted for the context from zero (R453). -/
def sessionCore (core gid : Nat) (g : Grid) (s : State) : State :=
  match g.session with
  | none => s
  | some x =>
    if x.cores.contains core then s
    else
      let sel := (List.range 4).map fun j => x.events.getD (4 * (x.pass - 1) + j) 0 + 2 ^ 8 + g.launch.ctxid * 2 ^ 16
      (s.modGrid gid fun g => { g with session := some { x with cores := x.cores ++ [core] } }).modCore core fun c =>
        { c with pmc := [0, 0, 0, 0], pmcsel := sel }

/-- The scratchpad allocation is zero before the first word (R229), or holds what was saved. -/
def fillSpad (core base size : Nat) (bytes : Memory) (s : State) : State :=
  let lo := core * 2 ^ 19 + base
  { s with spad := bytes.foldl (fun m c => m.write (lo + c.1) c.2) (s.spad.clear lo (lo + size)) }

/-- The workgroup's cluster is fused if its launch asks for it (R232). -/
def fuseCluster (g : Grid) (core : Nat) (s : State) : State :=
  if g.launch.fusel1 && !(s.fused.contains (clusterOf core)) then { s with fused := s.fused ++ [clusterOf core] } else s

/-- PLACE A NEW WORKGROUP on a chosen core. -/
def placeFresh (gid : Nat) (g : Grid) (c : Choice) (s : State) : State :=
  let lin := g.placed
  let id := s.nextId
  let xyz := wgCoords g lin
  let s := physAcquire (fuseCluster g c.core (fillSpad c.core c.room.spad g.launch.scratch [] s)) c.core 5
  let wg : Wg := { grid := gid, lin := lin, x := xyz.1, y := xyz.2.1, z := xyz.2.2, core := c.core,
                   waves := c.room.slots.map fun x => c.core * 64 + x.1, spadBase := c.room.spad, spadSize := g.launch.scratch }
  let s := { s with nextId := s.nextId + 1, wgs := kput s.wgs id wg }
  let s := s.modGrid gid fun g => { g with placed := g.placed + 1 }
  let vb := min g.launch.vgrant (kgetD {} s.partitions g.partition).vbudget
  sessionCore c.core gid (kgetD {} s.grids gid) (newWaves c.core id gid g lin (wgLin s wg) vb (c.room.slots.zip c.room.bases) 0 s)

/-! ## A pre-empted workgroup goes on (R69, R70, R305) -/

/-- A scratchpad address of the old allocation, in the new one. -/
def moveAddr (old new_ size a : Nat) : Nat := if old ≤ a ∧ a < old + size then a - old + new_ else a

/-- A place that a sleeping FTAKE reads. -/
def movePlace (f : Nat → Nat) : Place → Place
  | .byte .spad a t r => .byte .spad (f a) t r
  | x => x

/-- A part resumes: a yielded one at its resume PC, one saved whole in its wait; a word that stalled for fault service issues again (R381). -/
def returnPart (f : Nat → Nat) (cycle : Nat) (p : Part) : Part :=
  let p := match p.wait with
    | .yielded => { p with wait := .ready, readyAt := cycle, tvec := p.tvec }
    | .cond (.dbar a ph) => { p with wait := .cond (.dbar (f a) ph) }
    | .cond (.records _) => wakePart cycle p
    | _ => p
  { p with
    halted := false, preempt := false,
    pend := p.pend.map fun x =>
      { x with sleepers := x.sleepers.map fun k => { k with places := k.places.map fun y => (y.1, y.2.1, movePlace f y.2.2) } } }

/-- A wave resumes under a new key; what its parts count goes on. -/
def returnWave (f : Nat → Nat) (cycle key grant vbase : Nat) (w : Wave) : Wave :=
  let w := returnCounts cycle w
  { w with key := key, grant := grant, vbase := vbase, parts := w.parts.map (returnPart f cycle) }

/-- The waves of a resumed workgroup, each in its slot. -/
def resumeWaves (f : Nat → Nat) (core : Nat) : List (((Nat × Nat) × Nat) × Wave) → State → State
  | [], s => s
  | (((slot, grant), vbase), w) :: xs, s =>
    let w := returnWave f (cycleOf s core) (core * 64 + slot) grant vbase w
    resumeWaves f core xs { s with fresh := s.fresh + 1, waves := kput s.waves w.key w }

/-- The new key of an old one. -/
def newKey (m : List (Nat × Nat)) (k : Nat) : Nat := kgetD k m k

/-- The barriers of a workgroup under its waves' new keys. -/
def moveBar (m : List (Nat × Nat)) (x : Barrier) : Barrier :=
  { x with waves := x.waves.map (newKey m), quads := x.quads.map fun k => newKey m (k / 16) * 16 + k % 16 }

/-- PLACE A PRE-EMPTED WORKGROUP AGAIN on a chosen core. A workgroup that was saved at a phase boundary queues for its next phase. -/
def placeAgain (id gid : Nat) (g : Grid) (k : Parked) (c : Choice) (s : State) : State :=
  let m := (k.waves.map (·.key)).zip (c.room.slots.map fun x => c.core * 64 + x.1)
  let f := moveAddr (k.wg.core * 2 ^ 19 + k.wg.spadBase) (c.core * 2 ^ 19 + c.room.spad) k.wg.spadSize
  let wg : Wg := { k.wg with core := c.core, waves := m.map (·.2), spadBase := c.room.spad, bars := kmap (fun _ x => moveBar m x) k.wg.bars }
  let s := physAcquire (fuseCluster g c.core (fillSpad c.core c.room.spad k.wg.spadSize k.spad s)) c.core 5
  let s := { s with
    wgs := kput s.wgs id wg, parked := kdel s.parked id,
    copies := kmap (fun _ (x : Copy) => if x.owner.wg = id then { x with saved := false, owner := { x.owner with core := c.core } } else x) s.copies,
    pairs := kmap (fun _ (x : Xpair) =>
      if x.owner.wg = id then { x with saved := false, key := newKey m x.key, owner := { x.owner with core := c.core } } else x) s.pairs }
  let s := sessionCore c.core gid g (resumeWaves f c.core ((c.room.slots.zip c.room.bases).zip k.waves) s)
  admitCopies (if atBoundary s wg then s.modCore c.core fun x => { x with phaseQueue := x.phaseQueue ++ [id] } else s)

/-! ## Placement (R39, R50, R105) -/

/-- A page of the backing-store area is present and writable (R105). -/
def areaPageOk (s : State) (g : Grid) (va : Nat) : Bool :=
  match walk s g.partition g.launch.ctxid (va % 2 ^ 55) with
  | .leaf pte _ level => (leafKind s (partyOfGrid g) accWrite pte level (va % 2 ^ 55)).isNone
  | _ => false

/-- The pages of the whole grid's backing-store area (R105, R387). -/
def areaOkay (s : State) (g : Grid) : Bool :=
  let l := g.launch
  (cutAt 65536 l.regarea (g.total * l.wgwaves * (l.regs * l.wave * 4))).all fun x => areaPageOk s g (l.regarea + x.1)

/-- A launch that is not placed: all of it has ended, with status REGAREA. -/
def refuseArea (gid : Nat) (s : State) : State :=
  s.modGrid gid fun g => { g with status := 0x0106, placed := g.total, ended := g.total }

/-- A partition's dispatcher places: nothing is swapped out or being wiped (R72, R243). -/
def mayDispatch (s : State) (p : Nat) : Bool :=
  let x := kgetD {} s.partitions p
  s.dev.ready && decide (x.swap ≤ 1) && !x.wiping

/-- The placement that is due in a partition, if its next item has room. -/
def placement (s : State) (p : Nat) : Option (Nat × Nat × Item × Grid × Choice) :=
  if mayDispatch s p then
    (nextItem s p).bind fun x =>
      (kget s.grids x.2.2.gid).bind fun g =>
        (chooseCore s p x.2.2.gid g (itemShapes s g x.2.2)).map fun c => (x.1, x.2.1, x.2.2, g, c)
  else none

/-- PLACE (R50): the next workgroup of a partition, where there is room for it. -/
def placeNext (p : Nat) (s : State) : State :=
  match placement s p with
  | none => s
  | some (cls, q, item, g, c) =>
    match item with
    | .fresh gid =>
      let s1 := { s with served := cellsPut 0 s.served (p * 4 + cls) q }
      if g.placed = 0 ∧ areaOkay s g = false then refuseArea gid s1 else placeFresh gid g c (movePtr p c.next s1)
    | .again id gid =>
      match kget s.parked id with
      | some k => placeAgain id gid g k c (movePtr p c.next s)
      | none => s

/-- WORKGROUP_PLACE (R50). -/
def execWorkgroupPlace (p : Nat) (s : State) : Out := .next (placeNext p s)

/-! ## Budget, PREEMPT and the hardware save (R66, R69, R70) -/

/-- A DEADLINE workgroup's charge exceeds its budget (R66). -/
def overBudget (s : State) (g : Wg) : Bool :=
  let x := kgetD {} s.grids g.grid
  decide (x.cls = 0) && decide (x.launch.budget * chargeUnit < g.charge)

/-- BUDGET_EXCEEDED (R66): the workgroup's waves are terminated with cause BUDGET. -/
def execBudgetExceeded (wg : Nat) (s : State) : Out :=
  .next (match kget s.wgs wg with
    | none => s
    | some g => if overBudget s g && !g.ended then g.waves.foldl (fun s k => terminateWave k 0x0103 0x21 none s) s else s)

/-- A part can take PREEMPT now (R69, R221): outside a handler, between two words. -/
def takesPreempt (w : Wave) (p : Part) : Bool :=
  p.preempt && !p.handler && !partParked p && !w.stopped && !(decide (p.wait = .ready) && p.prefixPc.isSome)

/-- A run of the part ends, if it has one, because the part leaves it: its role settles (R215). -/
def endRunOf (w : Wave) (p : Part) (cause : Nat) (s : State) : State :=
  match kget s.runs (quarterOf w.key) with
  | some r => if r.wave = w.key ∧ r.q = p.q then endRun w.key cause s else s
  | none => s

/-- A PART TAKES PREEMPT (R69, R218): it leaves its wait for its handler; without one it is halted for the hardware save. -/
def takePreempt (key q : Nat) (s : State) : State :=
  match s.wave key, s.part key q with
  | some w, some p =>
    if takesPreempt w p then
      let s := endRunOf w p 2 s
      if hasHandler p then
        let s := closeWindows key q (traceSummary key (leaveWait key q s))
        let s := countEvent (coreOf key) 0x13 1 w.ctx s
        s.modPart key q fun p =>
          { enterHandler w s (p.prefixPc.getD p.pc) { cause := 0x15 } p with preempt := false }
      else s.modPart key q fun p => { haltPart p with preempt := false }
    else s
  | _, _ => s

/-- PREDL_EXPIRY (R70): the parts of the workgroup that have not yielded or ended are halted, to be saved whole. -/
def execPredlExpiry (wg : Nat) (s : State) : Out :=
  .next (match kget s.wgs wg with
    | none => s
    | some g =>
      if g.predl.any (fun t => decide (t ≤ s.time)) then haltWg wg (s.modWg wg fun g => { g with predl := none }) else s)

/-- HARDWARE_SAVE (R70): the workgroup gives up its core once each of its parts has yielded, ended or been drained. -/
def execHardwareSave (wg : Nat) (s : State) : Out := .next (parkWg wg s)

/-- GRID_COMPLETE (R41). -/
def execGridComplete (grid : Nat) (s : State) : Out := .next (completeGrid grid s)

/-! ## The arbiter (R57 to R60) -/

/-- A part may begin a run: it is ready, and nothing keeps its wave from issuing. A part whose next word's operands are pending is not ready:
it stands in a scoreboard wait (`Sys2Proof.Machine.probeParts`). -/
def canIssue (s : State) (w : Wave) (p : Part) : Bool :=
  decide (p.wait = .ready) && !p.halted && decide (p.notBefore ≤ cycleOf s (coreOf w.key)) && (!w.stopped || decide (w.stepping = some p.q)) &&
  decide ((kgetD {} s.partitions w.partition).swap < 2)

/-- The age of a ready part (R58, R450). -/
def partAge (s : State) (w : Wave) (p : Part) : Nat := (if w.stopped then w.cycle0 else cycleOf s (coreOf w.key)) - p.readyAt

/-- AGEMAX of a wave's partition (R60). -/
def agemaxOf (s : State) (w : Wave) : Nat := (kgetD {} s.partitions w.partition).agemax

/-- The arbitration class of a ready part (R59). -/
def arbClass (s : State) (w : Wave) (p : Part) : Nat :=
  if p.class4 || decide (agemaxOf s w ≤ partAge s w p) then 4 else roleClass p.role

/-- How far the pass of a MEASURE session rotates the order of slots and quarters (R453). -/
def passTurn (s : State) (w : Wave) : Nat :=
  match (kgetD {} s.grids w.grid).session with
  | some x => x.pass - 1
  | none => 0

/-- The slot key of a wave: rotated in the passes of a MEASURE session (R453). -/
def slotKey (s : State) (w : Wave) : Nat := (slotOf w.key % 16 + 16 - passTurn s w % 16) % 16

/-- The place of a wave's quarter: rotated likewise (R453, R496). -/
def quarterKey (s : State) (w : Wave) : Nat := (slotOf w.key / 16 + 4 - passTurn s w % 4) % 4

/-- The keys of R57, in order: a part with the lesser list is chosen. -/
def arbKeys (s : State) (w : Wave) (p : Part) : Nat × Nat × Nat × Nat :=
  (4 - arbClass s w p, partAge s w p, slotKey s w, p.q)

/-- One part comes before another (R57). -/
def arbBefore (a b : Nat × Nat × Nat × Nat) : Bool :=
  if a.1 ≠ b.1 then decide (a.1 < b.1)
  else if a.2.1 ≠ b.2.1 then decide (b.2.1 < a.2.1)
  else if a.2.2.1 ≠ b.2.2.1 then decide (a.2.2.1 < b.2.2.1)
  else decide (a.2.2.2 < b.2.2.2)

/-- The ready parts of a quarter, with their keys. -/
def readyParts (s : State) (quarter : Nat) : List ((Nat × Nat) × (Nat × Nat × Nat × Nat)) :=
  (s.waves.filter fun e => quarterOf e.1 = quarter).flatMap fun e =>
    (e.2.parts.filter (canIssue s e.2)).map fun p => ((e.1, p.q), arbKeys s e.2 p)

/-- The first of a list by R57. -/
def arbBest : List ((Nat × Nat) × (Nat × Nat × Nat × Nat)) → Option ((Nat × Nat) × (Nat × Nat × Nat × Nat))
  | [] => none
  | x :: xs =>
    match arbBest xs with
    | none => some x
    | some y => if arbBefore y.2 x.2 then some y else some x

/-- Cycles in which ready parts of the quarter's waves did not issue, counted when one of them begins to (R446). -/
def countReady (s : State) (key q : Nat) : State :=
  match s.wave key, s.part key q with
  | some w, some p => s.modWave key fun x => { x with sumWait := x.sumWait + partAge s w p }
  | _, _ => s

/-- ARBITRATE (R57): a free port chooses the part that begins a run; its age begins anew. -/
def arbitrate (quarter : Nat) (s : State) : State :=
  if (kget s.runs quarter).isSome then s
  else
    match arbBest (readyParts s quarter) with
    | none => s
    | some ((key, q), _) =>
      let s := countReady s key q
      let s := s.modPart key q fun p => { p with readyAt := cycleOf s (coreOf key), class4 := false }
      match s.part key q with
      | none => s
      | some p => { s with runs := kput s.runs quarter { wave := key, q := q, pc := p.pc }, focus := some quarter }

/-- ISSUE_ARBITRATION (R57). -/
def execIssueArbitration (quarter : Nat) (s : State) : Out := .next (arbitrate quarter s)

/-- AGEMAX_REACHED (R59): a ready part's age has reached AGEMAX, and it is in class 4 for its next run. -/
def execAgemaxReached (wave q : Nat) (s : State) : Out :=
  .next (match s.wave wave, s.part wave q with
    | some w, some p =>
      if decide (p.wait = .ready) && !w.stopped && decide (agemaxOf s w ≤ partAge s w p) then
        s.modPart wave q fun p => { p with class4 := true }
      else s
    | _, _ => s)

end Sys2Proof.Machine
end

