-- ==== Sys2Proof/Machine/Pixels.lean ====
section
/-! DEFINITION. The words of GFX that need no draw: edge functions and coverage in exact integers, tickets and locks of order words
(R365 to R370). -/

namespace Sys2Proof.Machine

/-! ## EDGE (R367) -/

/-- A coordinate in 16.8 fixed point; none for a NaN or one out of range. -/
def fix168 (x : Word) : Option Int :=
  match fmtF32.decode x.toNat with
  | .fin n num den =>
    let v := signedNum n (roundMag 0 n (num * 256) den)
    if -(2 ^ 23) ≤ v ∧ v < 2 ^ 23 then some v else none
  | _ => none

/-- One edge function: A, B and C. -/
structure EdgeFn where
  a : Int
  b : Int
  c : Int
deriving DecidableEq, Repr

/-- The edge from one vertex to the next. -/
def edgeOf (p q : Int × Int) : EdgeFn := { a := p.2 - q.2, b := q.1 - p.1, c := p.1 * q.2 - q.1 * p.2 }

/-- The edge function negated. -/
def EdgeFn.flip (e : EdgeFn) : EdgeFn := { a := -e.a, b := -e.b, c := -e.c }

/-- An edge set: three edge functions and the flags: bit 0 DEG, bit 1 NEG, bit 2 out of range. -/
structure EdgeSet where
  edges : List EdgeFn
  flags : Nat
deriving DecidableEq, Repr

/-- The edge set of three vertices. -/
def edgeSet (p : List (Option (Int × Int))) : EdgeSet :=
  match p with
  | [some a, some b, some c] =>
    let es := [edgeOf a b, edgeOf b c, edgeOf c a]
    let area := (edgeOf a b).c + (edgeOf b c).c + (edgeOf c a).c
    if area < 0 then { edges := es.map EdgeFn.flip, flags := 2 } else { edges := es, flags := if area = 0 then 1 else 0 }
  | _ => { edges := List.replicate 3 { a := 0, b := 0, c := 0 }, flags := 4 }

/-- A vertex in fixed point. -/
def fixVertex (x y : Word) : Option (Int × Int) :=
  match fix168 x, fix168 y with
  | some a, some b => some (a, b)
  | _, _ => none

/-- The registers of an edge set. -/
def edgeWords (e : EdgeSet) : List Word :=
  (e.edges.flatMap fun x => [BitVec.ofInt 32 x.a, BitVec.ofInt 32 x.b] ++ words64 (BitVec.ofInt 64 x.c)) ++ [BitVec.ofNat 32 e.flags]

/-- EDGE of the six registers x0, y0, x1, y1, x2, y2. -/
def edgeRes (v : List Word) : List Word :=
  edgeWords (edgeSet ((List.range 3).map fun i => fixVertex (v.getD (2 * i) 0#32) (v.getD (2 * i + 1) 0#32)))

/-- EDGE (R367): three exact edge functions of a triangle. -/
def execEdge (z : Bool) (d a : BitVec 7) (s : State) : Out :=
  issueWord z (fun _ => { maj := 0x37, opds := [{ wrSpan d 13 with even := true }, rdSpan a 6] }) idleWord
    (fun c s => .fall (writeLater c d 0 (fun l => edgeRes (c.readSpan a 6 l)) s) 1) s

/-! ## COVER (R368) -/

/-- The edge set that registers hold. -/
def wordsEdge (v : List Word) : EdgeSet :=
  let n := v.map (·.toNat)
  { edges := (List.range 3).map fun i =>
      { a := sintOf 32 (n.getD (4 * i) 0), b := sintOf 32 (n.getD (4 * i + 1) 0),
        c := sintOf 64 (n.getD (4 * i + 2) 0 + 2 ^ 32 * n.getD (4 * i + 3) 0) },
    flags := n.getD 12 0 }

/-- An edge accepts the centre of a pixel: the top-left rule. -/
def edgeIn (x y : Nat) (e : EdgeFn) : Bool :=
  let v := e.a * (256 * x + 128) + e.b * (256 * y + 128) + e.c
  decide (0 < v) || (decide (v = 0) && (decide (0 < e.a) || (decide (e.a = 0) && decide (0 < e.b))))

/-- The mask of the 64 pixel centres of a block: bit 8 r + c. -/
def coverMask (e : EdgeSet) (px py : Nat) : Nat :=
  if bitOf e.flags 0 || bitOf e.flags 2 then 0
  else laneMask ((List.range 64).filter fun i => e.edges.all (edgeIn (px + i % 8) (py + i / 8)))

/-- COVER of an edge set and a block origin. -/
def coverRes (v : List Word) (o : Word) : List Word :=
  words64 (BitVec.ofNat 64 (coverMask (wordsEdge v) (o.toNat % 65536) (o.toNat / 65536)))

/-- COVER (R368): the pixel centres of a block that an edge set covers. -/
def execCover (z : Bool) (d a b : BitVec 7) (s : State) : Out :=
  issueWord z
    (fun _ => { maj := 0x37, opds := [{ wrSpan d 2 with even := true }, { rdSpan a 13 with even := true }, rd b] }) idleWord
    (fun c s => .fall (writeLater c d 0 (fun l => coverRes (c.readSpan a 13 l) (c.read b l)) s) 1) s

/-! ## Tickets and locks (R365, R369, R370) -/

/-- The lanes of a PXTK in order, up to the first that must wait: the tickets taken, and the lanes that wait. -/
def ticketLanes (core : Nat) : List (Nat × Places) → State → State × List (Nat × Word) × List (Nat × Places)
  | [], s => (s, [], [])
  | x :: xs, s =>
    match takeTicket core x.2 s with
    | (s, some ws) =>
      let t := ticketLanes core xs s
      (t.1, (x.1, ws.headD 0#32) :: t.2.1, t.2.2)
    | (s, none) => (s, [], x :: xs)

/-- The effect of PXTK: a waiting lane keeps D pending (R369). A destination other than a vector register takes the ticket of L0, so that
every lane must have its own first. -/
def pxtkBody (d a : BitVec 7) (c : Ctx) (s : State) : Res :=
  memWord c (laneReqs c (eaPair c a) 4) 4 accAtomic noExtra (fun s ps => poisonRes s ps (
    let r := ticketLanes (coreOf c.key) ps s
    if codeIsVec d then
      let reg := fun l => regNum c.w d l
      let vals := r.2.1.map (fun x => (x.1, reg x.1, x.2)) ++ r.2.2.map fun x => (x.1, reg x.1, 0#32)
      let sl := r.2.2.map fun x =>
        ({ lane := x.1, reg := reg x.1, ea := eaPair c a x.1, places := x.2, scope := 4, ticket := true } : Sleeper)
      .fall (issuePend c 0 vals sl r.1) 1
    else if r.2.2.isEmpty then .fall (writeLater c d 0 (fun l => [kgetD 0#32 r.2.1 l]) r.1) 1
    else .hold s (.cond (.pixel (eaPair c a ((r.2.2.headD (0, [])).1)) 65536)))) s

/-- PXTK (R369): a ticket of a block's order word. -/
def execPxtk (z : Bool) (d a : BitVec 7) (s : State) : Out :=
  issueWord z (fun _ => { maj := 0x37, opds := [wr d, rdAddr a] }) idleWord (pxtkBody d a) s

/-- A ticket may enter: SERVE has reached or passed it (R370). -/
def mayEnter (word t : Nat) : Bool := decide ((word / 65536 + 65536 - t) % 65536 ≤ 32767)

/-- The ticket of L0. -/
def pxTicket (c : Ctx) (b : BitVec 7) : Nat := (c.read b c.l0).toNat % 65536

/-- The effect of PXLK: the part waits for its ticket, and enters with an acquire at DEVICE scope. -/
def pxlkBody (a b : BitVec 7) (c : Ctx) (s : State) : Res :=
  memWord c [{ lane := c.l0, ea := eaPair c a c.l0, n := 4 }] 4 accPeek noExtra (fun s ps => poisonRes s ps (
    let r := atomStep (coreOf c.key) 4 (placesOf ps c.l0) (fun _ => none) s
    if mayEnter (natOfBytes r.2) (pxTicket c b) then .fall (physAcquire r.1 (coreOf c.key) 4) 1
    else .hold r.1 (.cond (.pixel (eaPair c a c.l0) (pxTicket c b))))) s

/-- PXLK (R370): waits until the ticket is served. -/
def execPxlk (z : Bool) (a b : BitVec 7) (s : State) : Out :=
  issueWord z (fun _ => { maj := 0x37, opds := [rdAddr a, rd b] }) idleWord (pxlkBody a b) s

/-- The effect of PXUL: a release at DEVICE scope, then SERVE advances if it is the ticket. -/
def pxulBody (a b : BitVec 7) (c : Ctx) (s : State) : Res :=
  releaseWord c [{ lane := c.l0, ea := eaPair c a c.l0, n := 4 }] 4 accAtomic noExtra (fun s ps => poisonRes s ps (
    let t := pxTicket c b
    let r := atomStep (coreOf c.key) 4 (placesOf ps c.l0)
      (fun w => if numAt w 2 2 = t then some (w.take 2 ++ bytesOfNat 2 (t + 1)) else none) (partRelease c 4 s)
    .fall r.1 1)) s

/-- PXUL (R370): releases and serves the next ticket. -/
def execPxul (z : Bool) (a b : BitVec 7) (s : State) : Out :=
  issueWord z (fun _ => { maj := 0x37, opds := [rdAddr a, rd b] }) idleWord (pxulBody a b) s

end Sys2Proof.Machine
end

