-- ==== Sys2Proof/Machine/Tessellator.lean ====
section
/-! DEFINITION. The tessellator (R359 to R362), in exact fractions: factors, cut points, rings, stitching, and the order of its output.
What R361 does not fix is the model's choice (log 37). -/

namespace Sys2Proof.Machine

/-! ## Factors and cuts (R359, R360) -/

/-- The value of a factor; none for a NaN. An infinity is beyond every clamp. -/
def factorVal (x : Nat) : Option Rat :=
  match fmtF32.decode x with
  | .nan _ => none
  | .inf neg => some (if neg then -1000 else 1000)
  | .fin neg num den => some (mkRat (signedNum neg num) den)

/-- A cut of an edge: the segment count and the effective factor. -/
structure Cut where
  n : Nat
  f : Rat
deriving DecidableEq, Repr

/-- The cut of a factor under a partitioning: 0 integer, 1 fractional-odd, 2 fractional-even. -/
def cutOf (part : Nat) (x : Rat) : Cut :=
  let lo : Rat := if part = 2 then 2 else 1
  let f := max lo (min 64 x)
  let n := f.ceil.toNat
  if part = 0 then { n := n, f := n } else if part = 1 then { n := if n % 2 = 1 then n else n + 1, f := f }
  else { n := if n % 2 = 0 then n else n + 1, f := f }

/-- The length of segment `i` (R360). -/
def segLen (c : Cut) (i : Nat) : Rat :=
  if c.n ≤ 2 ∨ (c.n : Rat) = c.f then 1 / c.n
  else
    let short := (1 - ((c.n : Rat) - 2) / c.f) / 2
    let isShort := if c.n % 2 = 1 then i + 1 = (c.n - 1) / 2 ∨ i = (c.n - 1) / 2 + 1 else i + 1 = c.n / 2 ∨ i = c.n / 2
    if isShort then short else 1 / c.f

/-- An F32 pattern nearest to a fraction that is not negative. -/
def ratBits (x : Rat) : Nat := fmtF32.round 0 (.fin (decide (x < 0)) x.num.natAbs x.den)

/-- A fraction rounded to F32. -/
def ratRound (x : Rat) : Rat := (factorVal (ratBits x)).getD 0

/-- The cut points s0 to sn: exact sums, each rounded once. -/
def cutPoints (c : Cut) : List Rat := (List.range (c.n + 1)).map fun i => ratRound (((List.range i).map (segLen c)).foldl (· + ·) 0)

/-! ## Rings (R361) -/

/-- A point (u, v). -/
abbrev UV := Rat × Rat

/-- The point at a fraction of the way from one to another. -/
def lerp (a b : UV) (t : Rat) : UV := (a.1 + (b.1 - a.1) * t, a.2 + (b.2 - a.2) * t)

/-- A ring: its first point, and the others by rising perimeter parameter, back to the first. -/
structure Ring where
  start : UV
  rest : List (Rat × UV)
deriving DecidableEq, Repr

/-- The points of edge `e` after its first, at the fractions given. -/
def edgePts (e : Nat) (a b : UV) (ts : List Rat) : List (Rat × UV) := ts.map fun t => ((e : Rat) + t, lerp a b t)

/-- A ring of corners and of the fractions that cut each edge. -/
def ringOf (corners : List UV) (cuts : List (List Rat)) : Ring :=
  let m := corners.length
  { start := corners.headD (0, 0),
    rest := (List.range m).flatMap fun e => edgePts e (corners.getD e (0, 0)) (corners.getD ((e + 1) % m) (0, 0)) (cuts.getD e []) }

/-- The fractions that cut an edge of ring `k`: the inner cut points from sk to s(n-k), from 0 to 1, without the first. -/
def innerCuts (s : List Rat) (k : Nat) : List Rat :=
  let n := s.length - 1
  let lo := s.getD k 0
  let hi := s.getD (n - k) 0
  (List.range (n - 2 * k)).map fun j => (s.getD (k + j + 1) 0 - lo) / (hi - lo)

/-- Join two rings (R361): the outer and the inner point reached, and what is left of each. -/
def stitch : Nat → UV → List (Rat × UV) → UV → List (Rat × UV) → List (List UV)
  | 0, _, _, _, _ => []
  | _ + 1, _, [], _, [] => []
  | n + 1, o, (_, o') :: os, i, [] => [o, o', i] :: stitch n o' os i []
  | n + 1, o, [], i, (_, i') :: is => [o, i', i] :: stitch n o [] i' is
  | n + 1, o, (po, o') :: os, i, (pi, i') :: is =>
    if po ≤ pi then [o, o', i] :: stitch n o' os i ((pi, i') :: is) else [o, i', i] :: stitch n o ((po, o') :: os) i' is

/-- The triangles between two rings. -/
def joinRings (a b : Ring) : List (List UV) := stitch (a.rest.length + b.rest.length + 1) a.start a.rest b.start b.rest

/-- The triangles between each ring and the next. -/
def joinAll : List Ring → List (List UV)
  | a :: b :: rs => joinRings a b ++ joinAll (b :: rs)
  | _ => []

/-- Cut fractions of a boundary edge, without the first. -/
def outerCuts (c : Cut) : List Rat := (cutPoints c).drop 1

/-! ## The triangle domain -/

/-- The corners of ring `k` at the inner cut point s, from the one nearest (0, 0). -/
def triCorners (s : Rat) : List UV :=
  let c := 2 * s / 3
  [(c, c), (1 - 2 * c, c), (c, 1 - 2 * c)]

/-- Inner ring `k` of a triangle; the centre of count 0 is a point. -/
def triRing (s : List Rat) (k : Nat) : Ring :=
  let cs := triCorners (s.getD k 0)
  let ts := innerCuts s k
  if ts.isEmpty then { start := cs.headD (0, 0), rest := [] } else ringOf cs [ts, ts, ts]

/-- An inner cut of count 1 inside a boundary of more segments is taken as one of count 2 (log 37). -/
def bumped (c : Cut) : Cut := if c.n < 2 then { n := 2, f := 2 } else c

/-- The output of a triangle patch. -/
def tessTri (outer : List Cut) (inner : Cut) : List (List UV) :=
  let boundary := ringOf (triCorners 0) (outer.map outerCuts)
  if inner.n = 1 ∧ outer.all (fun c => c.n = 1) then [triCorners 0]
  else
    let c := bumped inner
    let s := cutPoints c
    let rings := (List.range (c.n / 2)).map fun k => triRing s (k + 1)
    joinAll (boundary :: rings) ++ (if c.n % 2 = 1 then [triCorners (s.getD (c.n / 2) 0)] else [])

/-! ## The quad domain -/

/-- The rectangle of ring `k`. -/
def quadCorners (su sv : Rat) : List UV := [(su, sv), (1 - su, sv), (1 - su, 1 - sv), (su, 1 - sv)]

/-- Inner ring `k` of a quad; an edge of count 0 has no points of its own. -/
def quadRing (su sv : List Rat) (k : Nat) : Ring :=
  let a := innerCuts su k
  let b := innerCuts sv k
  ringOf (quadCorners (su.getD k 0) (sv.getD k 0)) [a, b, a, b]

/-- The cells of a centre, row by row, each split along its rising diagonal. -/
def quadCells (lo hi : UV) (us vs : List Rat) : List (List UV) :=
  let pt := fun (u v : Rat) => ((lo.1 + (hi.1 - lo.1) * u, lo.2 + (hi.2 - lo.2) * v) : UV)
  let row := fun (r : List Rat) => (0 :: r).zip r
  (row vs).flatMap fun v => (row us).flatMap fun u =>
    [[pt u.1 v.1, pt u.2 v.1, pt u.2 v.2], [pt u.1 v.1, pt u.2 v.2, pt u.1 v.2]]

/-- The output of a quad patch. -/
def tessQuad (outer : List Cut) (iu iv : Cut) : List (List UV) :=
  let same := decide (outer.map cutPoints = [cutPoints iu, cutPoints iv, cutPoints iu, cutPoints iv])
  if (iu.n = 1 ∨ iv.n = 1) ∧ same then quadCells (0, 0) (1, 1) (outerCuts iu) (outerCuts iv)
  else
    let a := bumped iu
    let b := bumped iv
    let su := cutPoints a
    let sv := cutPoints b
    let last := min a.n b.n / 2
    let rings := (List.range last).map fun k => quadRing su sv (k + 1)
    let s := su.getD last 0
    let t := sv.getD last 0
    joinAll (ringOf (quadCorners 0 0) (outer.map outerCuts) :: rings) ++
      quadCells (s, t) (1 - s, 1 - t) (innerCuts su last) (innerCuts sv last)

/-! ## The isoline domain and the whole -/

/-- The output of an isoline patch: line i of m at v = i/m. -/
def tessLines (m : Nat) (c : Cut) : List (List UV) :=
  let s := cutPoints c
  (List.range m).flatMap fun (i : Nat) =>
    (s.zip (s.drop 1)).map fun x => [(x.1, mkRat (i : Int) m), (x.2, mkRat (i : Int) m), (x.2, mkRat (i : Int) m)]

/-- Outer and inner factors that a domain uses. -/
def usedOuter (dom : Nat) : Nat := if dom = 0 then 3 else if dom = 1 then 4 else 2
/-- The inner factors that a domain uses. -/
def usedInner (dom : Nat) : Nat := if dom = 0 then 1 else if dom = 1 then 2 else 0

/-- The patch is culled (R359). -/
def patchCulled (dom : Nat) (factors : List Nat) : Bool :=
  (factors.take (usedOuter dom)).any fun x => match factorVal x with
    | none => true
    | some v => decide (v ≤ 0)

/-- The primitives of a patch that is not culled, in output order. -/
def tessellate (dom part : Nat) (factors : List Nat) : List (List UV) :=
  let cut := fun i => cutOf part ((factorVal (factors.getD i 0)).getD 1)
  if dom = 0 then tessTri [cut 0, cut 1, cut 2] (cut 4)
  else if dom = 1 then tessQuad [cut 0, cut 1, cut 2, cut 3] (cut 4) (cut 5)
  else tessLines (cutOf 0 ((factorVal (factors.getD 0 0)).getD 1)).n (cut 1)

/-- v0 to v5 of a domain lane (R362). -/
def uvWords (p : List UV) : List Word := p.flatMap fun x => [BitVec.ofNat 32 (ratBits x.1), BitVec.ofNat 32 (ratBits x.2)]

end Sys2Proof.Machine
end

