-- ==== Sys2Proof/Machine/Draws.lean ====
section
/-! DEFINITION. Draws (R354 to R364, R371, R372): the DRAW packet and its grids, the primitive queue, binning, domain and raster
launches, the vendor raster kernel, and the failure of a draw. -/

namespace Sys2Proof.Machine

/-- A draw. -/
def State.draw (s : State) (d : Nat) : Option Draw := kget s.draws d

/-- Change a draw. -/
def State.modDraw (s : State) (d : Nat) (f : Draw → Draw) : State := { s with draws := kmod f s.draws d }

/-! ## The primitive queue (R357, R371) -/

/-- Free entries of a partition's primitive queue. -/
def primRoom (s : State) (p : Nat) : Nat :=
  65536 - ((s.draws.filter fun e => e.2.partition = p).map fun e => e.2.prims.length).sum

/-- Linear indexes of a grid's workgroups that have been placed and have not ended, with their waves. -/
def liveWgs (s : State) (gid : Nat) : List (Nat × List Wave) :=
  ((s.wgs.filter fun e => decide (e.2.grid = gid) && !e.2.ended).map fun e => (e.2.lin, wgWaves s e.2)) ++
  ((s.parked.filter fun e => e.2.wg.grid = gid).map fun e => (e.2.wg.lin, e.2.waves))

/-- A workgroup is the lowest of its grid that has not ended. -/
def lowestLive (s : State) (gid lin : Nat) : Bool := (liveWgs s gid).all fun x => decide (lin ≤ x.1)

/-- A wave may emit: there is room, or it belongs to the lowest unfinished workgroup (R371). -/
def emitRoom (s : State) (w : Wave) : Bool :=
  let lin := match kget s.wgs w.wg with
    | some g => g.lin
    | none => 0
  let n := primRoom s w.partition
  decide (4096 ≤ n) || (decide (64 ≤ n) && lowestLive s w.grid lin)

/-- Less in the order of order keys. -/
def keyLt : List Nat → List Nat → Bool
  | [], [] => false
  | [], _ :: _ => true
  | _ :: _, [] => false
  | a :: as, b :: bs => if a = b then keyLt as bs else decide (a < b)

/-- Queue a primitive behind those with its key. -/
def insPrim (x : Prim) : List Prim → List Prim
  | [] => [x]
  | y :: ys => if keyLt x.key y.key then x :: y :: ys else y :: insPrim x ys

/-- Coordinates of the vertices of 12 or more words: x for `o` = 0, y for 1. -/
def vertexVals (v : List Word) (o : Nat) : List FVal := (List.range 3).map fun i => fmtF32.decode (v.getD (4 * i + o) 0#32).toNat

/-- The coordinates lie outside [0, size), all on one side. -/
def outside (xs : List FVal) (size : Nat) : Bool :=
  xs.all (fun x => x.lt (.ofInt 0)) || xs.all fun x => !(x.lt (.ofInt size))

/-- R358 drops a primitive. -/
def primDropped (d : Draw) (v : List Word) : Bool :=
  let xs := vertexVals v 0
  let ys := vertexVals v 1
  (xs ++ ys).any (·.isNan) || outside xs d.width || outside ys d.height

/-- The record of a primitive; its id comes at release (R357). -/
def primBytes (v : List Word) : List Byte :=
  ((v.take 12 ++ [0#32] ++ [v.getD 12 0#32]).flatMap fun w => bytesOfNat 4 w.toNat) ++ List.replicate 8 0#8

/-- The draw of a wave's grid, with its kind. -/
def drawOfWave (s : State) (key : Nat) : Option (Nat × Nat × Draw) :=
  (s.wave key).bind fun w => ((kget s.grids w.grid).bind (·.draw)).bind fun x => (s.draw x.1).map fun d => (x.1, x.2, d)

/-- The wave that issues. -/
def issuingKey (s : State) : Nat := ((s.focus.bind (kget s.runs)).map (·.wave)).getD 0

/-- VEMIT is legal (R371). -/
def vemitLegal (s : State) : Bool := (drawOfWave s (issuingKey s)).any fun x => decide (x.2.1 ≤ 1)

/-- TSEMIT is legal (R371). -/
def tsemitLegal (s : State) : Bool := (drawOfWave s (issuingKey s)).any fun x => decide (x.2.1 = 0) && x.2.2.dom.isSome

/-- The order key of what a lane emits (R357). A geometry wave's counts the VEMIT words before; a domain lane's is its patch's and the output
index. -/
def emitKey (s : State) (c : Ctx) (kind : Nat) (d : Draw) (l : Nat) : List Nat :=
  let lin := (c.wg s).lin
  if kind = 0 then [lin, c.w.index, cellsGet 0 d.ks (lin * 16 + c.w.index), l] else (kgetD [] d.domKeys lin).getD l []

/-- A VEMIT word of a geometry wave counts. -/
def countEmit (s : State) (c : Ctx) (kind did : Nat) : State :=
  let i := (c.wg s).lin * 16 + c.w.index
  if kind = 0 then s.modDraw did fun d => { d with ks := cellsPut 0 d.ks i (cellsGet 0 d.ks i + 1) } else s

/-- VEMIT in the lanes of a list: the statuses. -/
def vemitLanes (c : Ctx) (a : BitVec 7) (kind did : Nat) : List Nat → State → List (Nat × Nat) → State × List (Nat × Nat)
  | [], s, out => (s, out)
  | l :: ls, s, out =>
    match s.draw did with
    | none => (s, out)
    | some d =>
      let v := c.readSpan a 13 l
      let i := 2 * (c.wg s).lin + kind
      let n := cellsGet 0 d.emitted i
      if 4096 ≤ n then vemitLanes c a kind did ls s (out ++ [(l, 2)])
      else
        let x : Prim := { key := emitKey s c kind d l, bytes := primBytes v }
        let s := s.modDraw did fun d => { d with prims := insPrim x d.prims, emitted := cellsPut 0 d.emitted i (n + 1) }
        vemitLanes c a kind did ls s (out ++ [(l, b2n (primDropped d v))])

/-- The effect of VEMIT. -/
def vemitBody (d a : BitVec 7) (c : Ctx) (s : State) : Res :=
  match drawOfWave s c.key with
  | none => .fall s 1
  | some (did, kind, _) =>
    if !emitRoom s c.w then .hold s (.cond (.room did))
    else
      let r := vemitLanes c a kind did c.act s []
      .fall (writeLater c d 0 (fun l => [BitVec.ofNat 32 (kgetD 0 r.2 l)]) (countEmit r.1 c kind did)) 1

/-- VEMIT (R371): a primitive per active lane. -/
def execVemit (z : Bool) (d a : BitVec 7) (s : State) : Out :=
  issueWord z (fun _ => { maj := 0x37, badFunc := !vemitLegal s, opds := [wr d, rdSpan a 13] }) idleWord (vemitBody d a) s

/-- TSEMIT in the lanes of a list: the statuses. -/
def tsemitLanes (c : Ctx) (a : BitVec 7) (did : Nat) : List Nat → State → List (Nat × Nat) → State × List (Nat × Nat)
  | [], s, out => (s, out)
  | l :: ls, s, out =>
    match s.draw did with
    | none => (s, out)
    | some d =>
      let v := c.readSpan a 8 l
      let dom := (v.getD 0 0#32).toNat % 4
      let part := (v.getD 0 0#32).toNat / 4 % 4
      let fs := (List.range 6).map fun i => (v.getD (i + 1) 0#32).toNat
      if dom = 3 ∨ part = 3 then tsemitLanes c a did ls s (out ++ [(l, 2)])
      else if patchCulled dom fs then tsemitLanes c a did ls s (out ++ [(l, 1)])
      else
        let x : Patch := { key := emitKey s c 0 d l, dom := dom, part := part, factors := fs, user := v.getD 7 0#32 }
        tsemitLanes c a did ls (s.modDraw did fun d => { d with patches := d.patches ++ [x] }) (out ++ [(l, 0)])

/-- The effect of TSEMIT. -/
def tsemitBody (d a : BitVec 7) (c : Ctx) (s : State) : Res :=
  match drawOfWave s c.key with
  | none => .fall s 1
  | some (did, _, _) =>
    let r := tsemitLanes c a did c.act s []
    .fall (writeLater c d 0 (fun l => [BitVec.ofNat 32 (kgetD 0 r.2 l)]) r.1) 1

/-- TSEMIT (R371): a patch per active lane. -/
def execTsemit (z : Bool) (d a : BitVec 7) (s : State) : Out :=
  issueWord z (fun _ => { maj := 0x37, badFunc := !tsemitLegal s, opds := [wr d, rdSpan a 8] }) idleWord (tsemitBody d a) s

/-! ## TESSELLATE (R361, R362) -/

/-- A grid has launched all its workgroups and they have ended, or it is gone. -/
def gridOver (s : State) (gid : Nat) : Bool :=
  match kget s.grids gid with
  | none => true
  | some g => decide (g.ended = g.total) && !g.more

/-- The registers of the lanes of a wave that the device launches: word r of lane i in v[r]. -/
def laneRegs (lanes : List (List Word)) (n : Nat) : Cells Word :=
  (List.range n).flatMap fun r => lanes.zipIdx.filterMap fun x =>
    let v := x.1.getD r 0#32
    if v = 0#32 then none else some (r * 64 + x.2, v)

/-- Launch a workgroup of a device-launched grid of a draw with initial registers. -/
def launchInit (gid : Nat) (i : WaveInit) (s : State) : State :=
  s.modGrid gid fun g => { g with inits := kput g.inits g.total i, total := g.total + 1 }

/-- DOMAIN_LAUNCH (R362): a domain wave over the first lanes that wait, up to 64. -/
def launchDomain (did gid : Nat) (s : State) : State :=
  match s.draw did, kget s.grids gid with
  | some d, some g =>
    let ls := d.lanes.take 64
    let s := s.modDraw did fun d =>
      { d with lanes := d.lanes.drop 64, domKeys := kput d.domKeys g.total (ls.map (·.1)) }
    launchInit gid { lanes := ls.length, v := laneRegs (ls.map (·.2)) 8, w := [BitVec.ofNat 32 ls.length] } s
  | _, _ => s

/-- The lanes of a patch. -/
def patchLanes (x : Patch) : List (List Nat × List Word) :=
  (tessellate x.dom x.part x.factors).zipIdx.map fun p => (x.key ++ [p.2], uvWords p.1 ++ [x.user, BitVec.ofNat 32 p.2])

/-- Launch full domain waves, at most `fuel`. -/
def launchFull (did gid : Nat) : Nat → State → State
  | 0, s => s
  | fuel + 1, s =>
    match s.draw did with
    | some d => if 64 ≤ d.lanes.length then launchFull did gid fuel (launchDomain did gid s) else s
    | none => s

/-- A domain wave is launched with fewer than 64 lanes: no patch is left, and geometry is over or waits for the queue. -/
def partialDue (s : State) (d : Draw) : Bool :=
  d.patches.isEmpty && !d.lanes.isEmpty && (gridOver s d.geom || decide (primRoom s d.partition < 4096))

/-- The tessellator has something to do for a draw. -/
def tessDue (s : State) (d : Draw) : Bool := !d.cancelled && (!d.patches.isEmpty || partialDue s d)

/-- TESSELLATE (R361, R362): the tessellator cuts the oldest patch, and full domain waves are launched; the last lanes are launched when
nothing can fill them. -/
def execTessellate (draw : Nat) (s : State) : Out :=
  .next (match s.draw draw with
    | none => s
    | some d =>
      match d.dom with
      | none => s
      | some gid =>
        if d.cancelled then s
        else
          match d.patches with
          | x :: xs =>
            let ls := patchLanes x
            launchFull draw gid (ls.length / 64 + 1) (s.modDraw draw fun d => { d with patches := xs, lanes := d.lanes ++ ls })
          | [] => if partialDue s d then launchDomain draw gid s else s)

/-! ## Release and binning (R357, R358) -/

/-- The least keys that what still runs of a draw may emit. -/
def liveKeys (s : State) (d : Draw) : List (List Nat) :=
  let geom := match kget s.grids d.geom with
    | none => []
    | some g => (if g.placed < g.total then [[g.placed]] else []) ++
        (liveWgs s d.geom).flatMap fun x => x.2.map fun w => [x.1, w.index, cellsGet 0 d.ks (x.1 * 16 + w.index)]
  let doms := match d.dom with
    | none => []
    | some gid =>
      let placed := ((kget s.grids gid).map (·.placed)).getD 0
      let live := (liveWgs s gid).map (·.1)
      (d.domKeys.filter fun e => decide (placed ≤ e.1) || live.contains e.1).flatMap (·.2)
  geom ++ doms ++ d.patches.map (·.key) ++ d.lanes.map (·.1)

/-- The first primitive may be released: nothing that still runs can emit a lesser key. -/
def releasable (s : State) (d : Draw) : Bool :=
  !d.cancelled && (match d.prims with
    | [] => false
    | x :: _ => (liveKeys s d).all fun k => !keyLt k x.key)

/-- The words of a record. -/
def recWords (b : List Byte) : List Word := (chunks 4 16 b).map fun e => BitVec.ofNat 32 (natOfBytes e)

/-- The tile of a coordinate, within `n` tiles. -/
def tileOf (x : FVal) (n : Nat) : Nat :=
  match x with
  | .fin neg num den => if neg then 0 else min (num / den / 64) (n - 1)
  | .inf neg => if neg then 0 else n - 1
  | .nan _ => 0

/-- Tiles across and down. -/
def tilesAcross (d : Draw) : Nat := (d.width + 63) / 64
/-- Tiles down. -/
def tilesDown (d : Draw) : Nat := (d.height + 63) / 64

/-- The numbers from the least to the greatest of a list. -/
def spanOf (xs : List Nat) : List Nat :=
  let lo := xs.foldl min (xs.headD 0)
  (List.range (xs.foldl max 0 + 1 - lo)).map (· + lo)

/-- The tiles that the bounding box of a primitive touches. -/
def primTiles (d : Draw) (v : List Word) : List Nat :=
  let xs := (vertexVals v 0).map fun x => tileOf x (tilesAcross d)
  let ys := (vertexVals v 1).map fun y => tileOf y (tilesDown d)
  (spanOf ys).flatMap fun y => (spanOf xs).map fun x => y * tilesAcross d + x

/-- Release the first primitive: it takes its id, and is dropped or binned. -/
def releaseOne (d : Draw) : Draw :=
  match d.prims with
  | [] => d
  | x :: xs =>
    let v := recWords x.bytes
    let b := x.bytes.take 48 ++ bytesOfNat 4 d.released ++ x.bytes.drop 52
    let bins := if primDropped d v then d.bins else (primTiles d v).foldl (fun m t => kput m t (kgetD [] m t ++ [b])) d.bins
    { d with prims := xs, released := d.released + 1, bins := bins }

/-- Release what can be released, at most `fuel` primitives. -/
def releaseAll (did : Nat) : Nat → State → State
  | 0, s => s
  | fuel + 1, s =>
    match s.draw did with
    | some d => if releasable s d then releaseAll did fuel (s.modDraw did releaseOne) else s
    | none => s

/-- PRIMITIVE_RELEASE (R357, R358): primitives in rising key, to the bins of the tiles that they touch. -/
def execPrimitiveRelease (draw : Nat) (s : State) : Out :=
  .next (match s.draw draw with
    | some d => releaseAll draw d.prims.length s
    | none => s)

/-! ## Raster waves (R356, R363) -/

/-- The raster work of a tile is at rest: its last workgroup has ended, and the vendor kernel has nothing left of it. -/
def tileIdle (s : State) (d : Draw) (tile : Nat) : Bool :=
  (kgetD [] d.jobs tile).isEmpty && (match kget d.active tile with
    | none => true
    | some lin =>
      match kget s.grids d.rast with
      | none => true
      | some g => decide (lin < g.placed) && (liveWgs s d.rast).all fun x => decide (x.1 ≠ lin))

/-- A draw has nothing more for a tile: everything of it is released, and its raster work there is done. -/
def tileDone (s : State) (d : Draw) (tile : Nat) : Bool :=
  d.cancelled || (gridOver s d.geom && (match d.dom with | none => true | some g => gridOver s g) && d.prims.isEmpty &&
    d.patches.isEmpty && d.lanes.isEmpty && (kgetD [] d.bins tile).isEmpty && tileIdle s d tile)

/-- The earlier draws of the queue have finished the tile (R356). -/
def earlierDone (s : State) (did : Nat) (d : Draw) (tile : Nat) : Bool :=
  s.draws.all fun e => !(decide (e.2.queue = d.queue) && decide (e.1 < did)) || tileDone s e.2 tile

/-- A raster workgroup may be launched for a tile. -/
def rasterDue (s : State) (did : Nat) (d : Draw) (tile : Nat) : Bool :=
  !d.cancelled && !(kgetD [] d.bins tile).isEmpty && tileIdle s d tile && earlierDone s did d tile

/-- The pixel records of a primitive in a tile, block by block (R363). -/
def primJobs (d : Draw) (tile : Nat) (b : List Byte) : List PixJob :=
  let v := recWords b
  let e := edgeSet ((List.range 3).map fun i => fixVertex (v.getD (4 * i) 0#32) (v.getD (4 * i + 1) 0#32))
  let bx := tile % tilesAcross d * 8
  let by_ := tile / tilesAcross d * 8
  (List.range 64).filterMap fun i =>
    let x := bx + i % 8
    let y := by_ + i / 8
    let m := coverMask e (8 * x) (8 * y)
    if m ≠ 0 ∧ 8 * x < d.width ∧ 8 * y < d.height then
      some { block := y * (d.width / 8) + x, mask := m, prim := (v.getD 12 0#32).toNat, user := (v.getD 13 0#32).toNat }
    else none

/-- The first registers of a raster wave (R363). -/
def rasterInit (d : Draw) (tile : Nat) (batch : List (List Byte)) : WaveInit :=
  { lanes := batch.length, v := laneRegs (batch.map recWords) 16,
    w := [BitVec.ofNat 32 batch.length, BitVec.ofNat 32 (tile % tilesAcross d), BitVec.ofNat 32 (tile / tilesAcross d), 0#32] ++
      words64 (BitVec.ofNat 64 d.rt) }

/-- RASTER_LAUNCH (R363): a batch of a tile's bin, by a raster workgroup or by the vendor raster kernel. -/
def execRasterLaunch (draw tile : Nat) (s : State) : Out :=
  .next (match s.draw draw with
    | none => s
    | some d =>
      if rasterDue s draw d tile then
        let bin := kgetD [] d.bins tile
        let batch := bin.take 64
        let bins := if bin.length ≤ 64 then kdel d.bins tile else kput d.bins tile (bin.drop 64)
        if d.vendor then
          s.modDraw draw fun d => { d with bins := bins, jobs := kput d.jobs tile (batch.flatMap (primJobs d tile)) }
        else
          let lin := ((kget s.grids d.rast).map (·.total)).getD 0
          launchInit d.rast (rasterInit d tile batch) (s.modDraw draw fun d => { d with bins := bins, active := kput d.active tile lin })
      else s)

/-! ## The vendor raster kernel (R363) -/

/-- A pixel record: block, ticket, mask, primitive id and user word, in the order in which R363 names them (log 36). -/
def jobBytes (x : PixJob) (ticket : Nat) : List Byte :=
  bytesOfNat 4 x.block ++ bytesOfNat 4 ticket ++ bytesOfNat 8 x.mask ++ bytesOfNat 4 x.prim ++ bytesOfNat 4 x.user ++
  List.replicate 232 0#8

/-- The record queue of a raster grid has room. -/
def pixqRoom (s : State) (gid : Nat) : Bool :=
  match readRq s gid 0 with
  | some (_, d, _) => decide (rqDiff d.res d.free < 2 ^ d.log2cap)
  | none => true

/-- The vendor raster kernel fails: the raster grid's status is FAULT with cause XLATE. -/
def vendorFault (gid : Nat) (s : State) : State :=
  s.modGrid gid fun g => if g.status = 0x0100 then { g with status := 0x0108, fsum := 0x10 } else g

/-- One pixel record of the vendor raster kernel: a ticket, then ENQR; it waits while the tickets or the queue are full. -/
def vendorJob (did : Nat) (d : Draw) (tile : Nat) (x : PixJob) (rest : List PixJob) (s : State) : State :=
  let y := gridParty d.partition d.ctx
  let a := d.order + 4 * x.block
  let core := (partitionCores s d.partition).headD 0
  if !pixqRoom s d.rast then s
  else
    match readFor y a 4 s with
    | none => vendorFault d.rast s
    | some (s', b) =>
      if 32767 ≤ (numAt b 0 2 + 65536 - numAt b 2 2) % 65536 then s
      else
        match writeFor y a (bytesOfNat 2 (numAt b 0 2 + 1) ++ b.drop 2) s' with
        | none => vendorFault d.rast s'
        | some s =>
          let s := (enqStep core d.rast 0 (jobBytes x (numAt b 0 2)) s).1
          s.modDraw did fun d => { d with jobs := if rest.isEmpty then kdel d.jobs tile else kput d.jobs tile rest }

/-- The vendor raster kernel takes one step for each tile of a draw. -/
def vendorStep (did : Nat) (s : State) : State :=
  match s.draw did with
  | none => s
  | some d =>
    if d.cancelled then s
    else d.jobs.foldl (fun s e => match e.2 with
      | [] => s.modDraw did fun d => { d with jobs := kdel d.jobs e.1 }
      | x :: xs => vendorJob did d e.1 x xs s) s

/-! ## The DRAW packet (R354, R355, R364) -/

/-- The fields of a render-target descriptor, if it keeps R364: WIDTH, HEIGHT, ORDER. -/
def rtFields (b : List Byte) : Option (Nat × Nat × Nat) :=
  let ok := fun n => decide (n % 8 = 0) && decide (8 ≤ n) && decide (n ≤ 32768)
  let w := numAt b 8 2
  let h := numAt b 10 2
  if decide (numAt b 0 8 % 256 = 0) && ok w && ok h && decide (numAt b 12 1 ≤ 4) && zeroAt b 13 3 && decide (numAt b 16 8 % 4 = 0) &&
      zeroAt b 24 40 then some (w, h, numAt b 16 8)
  else none

/-- A launch record of a draw, by its address: its grid where it passes the checks. -/
def drawRecord (q : Nat) (p : Packet) (a : Nat) (s : State) : Option (State × Grid) :=
  (recordAt q a s).bind fun r =>
    match submitRec (s.queue q).part true r.2 r.1 with
    | .ok s g => some (s, packetGrid q p g)
    | .refused _ _ => none

/-- A DOM or RAST record: a wave of 64 lanes to a workgroup (R355). -/
def deviceRecord (q : Nat) (p : Packet) (a : Nat) (s : State) : Option (State × Grid) :=
  (drawRecord q p a s).bind fun r =>
    let l := r.2.launch
    if l.wave = 64 ∧ l.wgwaves = 1 then some (r.1, { r.2 with more := true }) else none

/-- The records of a draw: geometry, domain if there is one, and raster; a draw without RAST has a raster grid that only holds its
record queue. -/
def drawGrids (q : Nat) (p : Packet) (s : State) : Option (State × Grid × Option Grid × Grid) :=
  let addr := fun i => numAt p.bytes i 8
  (drawRecord q p (addr 16) s).bind fun g =>
    let dom : Option (State × Option Grid) :=
      if addr 24 = 0 then some (g.1, none) else (deviceRecord q p (addr 24) g.1).map fun r => (r.1, some r.2)
    dom.bind fun m =>
      let rast : Option (State × Grid) :=
        if addr 32 = 0 then
          let l := g.2.launch
          let own : Launch := { ctxid := l.ctxid, evq := l.evq, cls := 2, tag := l.tag, tvec := l.tvec }
          some (m.1, packetGrid q p { launch := own, partition := g.2.partition, total := 0, more := true, tag := g.2.tag, obj := g.2.obj })
        else deviceRecord q p (addr 32) m.1
      rast.map fun r => (r.1, g.2, m.2, r.2)

/-- The record queue of a draw may be bound (R330, R355). -/
def pixqOk (q a ctx : Nat) (s : State) : Option State :=
  (packetRead q a 64 s).bind fun r => if descBinds r.2 && !rqBound r.1 (s.queue q).part ctx a then some r.1 else none

/-- Everything that a DRAW packet names, or none: DRAWCFG. -/
def drawParts (q : Nat) (p : Packet) (s : State) : Option (State × Grid × Option Grid × Grid × (Nat × Nat × Nat)) :=
  (packetRead q (numAt p.bytes 48 8) 64 s).bind fun r =>
    (rtFields r.2).bind fun rt =>
      (drawGrids q p r.1).bind fun g =>
        (pixqOk q (numAt p.bytes 40 8) g.2.2.2.launch.ctxid g.1).map fun s => (s, g.2.1, g.2.2.1, g.2.2.2, rt)

/-- A grid whose workgroups the device launches is handed over: it starts without any. A DEADLINE record is admitted by the count that it
states (log 36). -/
def admitDevice (g : Grid) (time : Nat) (s : State) : Except Nat (State × Nat) :=
  match admitGrid g time s with
  | .error e => .error e
  | .ok (s, id) => .ok (s.modGrid id fun g => { g with total := 0 }, id)

/-- The grids of a draw are handed over, all or none: their identities, the domain grid's if there is one. -/
def admitDraw (did time pixq : Nat) (geom : Grid) (dom : Option Grid) (rast : Grid) (s : State) :
    Except Nat (State × Nat × Option Nat × Nat) :=
  let rqs : List Rq := { addr := pixq } :: rast.rqs.filter fun x => decide (x.addr ≠ pixq) && decide (x.n ≠ 0)
  match admitGrid { geom with draw := some (did, 0) } time s with
  | .error e => .error e
  | .ok (s, gid) =>
    let m : Except Nat (State × Option Nat) := match dom with
      | none => .ok (s, none)
      | some g =>
        match admitDevice { g with draw := some (did, 1) } time s with
        | .error e => .error e
        | .ok (s, id) => .ok (s, some id)
    match m with
    | .error e => .error e
    | .ok (s, d) =>
      match admitDevice { rast with draw := some (did, 2), rqs := rqs } time s with
      | .error e => .error e
      | .ok (s, r) => .ok (s, gid, d, r)

/-- Start the grids of a draw. -/
def startDraw (q : Nat) (p : Packet) (s : State) : State :=
  match drawParts q p s with
  | none => donePacket q p.seq 0x010E 0 s
  | some (s, geom, dom, rast, rt) =>
    let did := s.nextId
    match admitDraw did p.time (numAt p.bytes 40 8) geom dom rast { s with nextId := s.nextId + 1 } with
    | .error e => donePacket q p.seq e 0 s
    | .ok (s, gid, dg, rg) =>
      let d : Draw := { queue := q, seq := p.seq, partition := geom.partition, ctx := geom.launch.ctxid, geom := gid, dom := dg, rast := rg,
                        vendor := decide (numAt p.bytes 32 8 = 0), rt := numAt p.bytes 48 8, width := rt.1, height := rt.2.1,
                        order := rt.2.2 }
      let s := { s with draws := kput s.draws did d }
      s.modPacket q p.seq fun p => { p with grids := [gid] ++ dg.toList ++ [rg] }

/-- DRAW (R354, R355): starts the grids of a draw. -/
def execDraw (q seq : Nat) (s : State) : Out :=
  if hostWaiting s (s.queue q).part < 1024 then startPacket q seq 3 false (startDraw q) s else .next s

/-! ## Failure and completion (R355, R372) -/

/-- The grids of a draw that have not completed, its pixel grids among them. -/
def drawGridIds (s : State) (did : Nat) : List (Nat × Grid) := s.grids.filter fun e => (drawOf s e.2).any fun x => decide (x.1 = did)

/-- The first result of a draw that is not DONE, in the order of kinds (R355). -/
def drawResult (s : State) (did : Nat) (d : Draw) : Option (Nat × Nat) :=
  (List.range 4).findSome? fun k =>
    (kget d.results k).or (((drawGridIds s did).find? fun e =>
      decide (e.2.status ≠ 0x0100) && decide ((drawOf s e.2).map (·.2) = some k)).map fun e => (e.2.status, e.2.fsum))

/-- Cancel a draw (R372): the queue enters ERROR, and its later draws that have started are cancelled with it. A status counts as soon as
a grid has it, because a grid whose wave waits for a ticket that nobody will serve never ends (log 38). -/
def cancelDraw (did : Nat) (d : Draw) (s : State) : State :=
  let s := s.modQueue d.queue fun x => { x with state := 3, reason := 0 }
  { s with draws := kmap (fun k (x : Draw) =>
      if k = did then { x with cancelled := true }
      else if x.queue = d.queue ∧ did < k then { x with cancelled := true, can := true } else x) s.draws }

/-- The device launches nothing more of a grid. -/
def stopGrid (gid : Nat) (s : State) : State := s.modGrid gid fun g => { g with total := g.placed, more := false }

/-- A wave of a cancelled draw waits for something that will not come. -/
def waitsForDraw (w : Wave) : Bool :=
  w.parts.any fun p => (p.pend.any fun x => x.sleepers.any (·.ticket)) || (match p.wait with
    | .cond (.pixel _ _) => true
    | .cond (.room _) => true
    | _ => false)

/-- A cancelled draw's queues are empty, its device-launched grids stop, and its waiting waves are terminated (R372). -/
def sweepDraw (did : Nat) (d : Draw) (s : State) : State :=
  let gs := drawGridIds s did
  let st := (drawResult s did d).getD (0x010F, 0)
  let s := s.modDraw did fun d => { d with prims := [], patches := [], lanes := [], bins := [], jobs := [] }
  let s := (gs.filter fun e => e.1 ≠ d.geom).foldl (fun s e => stopGrid e.1 s) s
  let ws := s.waves.filter fun e => waitsForDraw e.2 && gs.any fun g => decide (g.1 = e.2.grid)
  ws.foldl (fun s e => terminateWave e.1 st.1 st.2 none s) s

/-- Every order word of a failed draw's target becomes 0. -/
def clearOrder (d : Draw) (s : State) : State :=
  (cutAt 65536 d.order (4 * (d.width / 8) * (d.height / 8))).foldl (fun s x =>
    (writeFor (gridParty d.partition d.ctx) (d.order + x.1) (List.replicate x.2 0#8) s).getD s) s

/-- Device-launched grids of a draw to which nothing more can come are closed. -/
def closeGrids (did : Nat) (s : State) : State :=
  match s.draw did with
  | none => s
  | some d =>
    let close := fun gid (s : State) => s.modGrid gid fun g => { g with more := false }
    let up := gridOver s d.geom && d.patches.isEmpty && d.lanes.isEmpty
    let s := match d.dom with
      | some g => if up then close g s else s
      | none => s
    if up && (match d.dom with | some g => gridOver s g | none => true) && d.prims.isEmpty && d.bins.isEmpty && d.jobs.isEmpty then
      close d.rast s
    else s

/-- A draw whose grids have completed completes (R355). -/
def finishDraw (did : Nat) (s : State) : State :=
  match s.draw did with
  | none => s
  | some d =>
    if (drawGridIds s did).isEmpty then
      let st := if d.can then (0x010F, 0) else (drawResult s did d).getD (0x0100, 0)
      let s := if d.cancelled then clearOrder d s else s
      donePacket d.queue d.seq st.1 st.2 { s with draws := kdel s.draws did }
    else s

/-- What becomes of a draw now. -/
def advanceDraw (s : State) (did : Nat) : State :=
  match s.draw did with
  | none => s
  | some d =>
    let s := if !d.cancelled && (drawResult s did d).isSome then cancelDraw did d s else s
    let s := match s.draw did with
      | some d => if d.cancelled then sweepDraw did d s else vendorStep did s
      | none => s
    finishDraw did (closeGrids did s)

/-- What becomes of every draw now. -/
def advanceDraws (s : State) : State := (s.draws.map (·.1)).foldl advanceDraw s

end Sys2Proof.Machine
end

