-- ==== Sys2Proof/Machine/Hierarchies.lean ====
section
/-! DEFINITION. Bounding hierarchies (R399 to R403), the traversal unit (R404), XPAIR (R405 to R414) and XRAY (R415 to R417). -/

namespace Sys2Proof.Machine

/-! ## Boxes (R400, R401) -/

/-- A box: low and high bound of each axis. -/
abbrev HBox := List (FVal × FVal)

/-- The box of a root. -/
def hugeBox : HBox := List.replicate 3 (.inf true, .inf false)

/-- A box, or none where it is empty: a bound is a NaN, or the low one exceeds the high one. -/
def boxOf (b : HBox) : Option HBox := if b.all fun x => !x.1.isNan && !x.2.isNan && !(x.2.lt x.1) then some b else none

/-- Boxes overlap: closed, none of them empty. -/
def overlaps (a b : Option HBox) : Bool :=
  match a, b with
  | some a, some b => (a.zip b).all fun x => !(x.2.2.lt x.1.1) && !(x.1.2.lt x.2.1)
  | _, _ => false

/-- An F32 of a table. -/
def f32At (b : List Byte) (o : Nat) : FVal := fmtF32.decode (numAt b o 4)

/-- The exact box of a leaf entry. -/
def leafBox (b : List Byte) : Option HBox := boxOf ((List.range 3).map fun a => (f32At b (4 * a), f32At b (12 + 4 * a)))

/-- A finite value; an infinity or a NaN makes a child's box empty. -/
def finiteVal : FVal → Bool
  | .fin _ _ _ => true
  | _ => false

/-- A node is malformed, of itself or in a child entry that is read (R403). -/
def nodeBad (b : List Byte) : Bool :=
  let n := numAt b 15 1
  n = 0 || decide (4 < n) || (List.range n).any fun s => decide (numAt b (26 + 12 * s) 1 ≥ 2)

/-- The box of a child (R400). -/
def childBox (b : List Byte) (s : Nat) : Option HBox :=
  let c := 16 + 12 * s
  let ax := fun a =>
    let o := f32At b (4 * a)
    let step := fun q => (FVal.fin false q 1).scale ((numAt b (12 + a) 1 : Int) - 127)
    (o.add 0 (step (numAt b (c + a) 1)), o.add 0 (step (numAt b (c + 3 + a) 1)))
  if (List.range 3).all fun a => finiteVal (f32At b (4 * a)) then boxOf ((List.range 3).map ax) else none

/-- The reference of a child. -/
def childRef (b : List Byte) (s : Nat) : Nat := numAt b (22 + 12 * s) 4
/-- MULTI of a child. -/
def childMulti (b : List Byte) (s : Nat) : Bool := bitOf (numAt b (26 + 12 * s) 1) 0
/-- MASK of a child. -/
def childMask (b : List Byte) (s : Nat) : Nat := numAt b (27 + 12 * s) 1

/-- A reference names a leaf. -/
def isLeafRef (r : Nat) : Bool := bitOf r 31
/-- The index of a reference. -/
def refIndex (r : Nat) : Nat := r % 2 ^ 31

/-! ## Reading tables (R403, R407) -/

/-- What a step of a traversal comes to: a value, or why the step stops. -/
inductive Trav (α : Type) where
  | ok (s : State) (v : α)
  /-- FAULT with a kind -/
  | bad (s : State) (kind : Nat)
  /-- MALFORMED -/
  | malformed (s : State)
  /-- stopped for fault service -/
  | stall (s : State) (ls : List (Nat × Stalled))
  | fault (f : Fault)

/-- Go on with a value. -/
def Trav.bind {α β : Type} (x : Trav α) (f : State → α → Trav β) : Trav β :=
  match x with
  | .ok s v => f s v
  | .bad s k => .bad s k
  | .malformed s => .malformed s
  | .stall s ls => .stall s ls
  | .fault x => .fault x

/-- Resolve a range of global space for a traversal; any other address is FAULT with kind TYPE. -/
def travRange (o : Owner) (a : Acc) (ea n : Nat) (s : State) : Trav Places :=
  if (spaceOf (kgetD {} s.partitions o.partition) (ea % 2 ^ 64)).code ≠ 0 then .bad s 5
  else
    match piecesFor s o (ea % 2 ^ 64) n with
    | none => .bad s 5
    | some ps =>
      match resolveLane o.party a { lane := o.lane, ea := ea % 2 ^ 64, n := n } s {} ps with
      | (s, acc) =>
        match acc.bad, acc.fault, acc.stalled with
        | some b, _, _ => .bad s b.2.1
        | none, some f, _ => .fault f
        | none, none, some l => .stall s [(a.code, l)]
        | none, none, none => .ok s acc.places

/-- Read bytes of a table at the DEVICE point. -/
def travRead (o : Owner) (ea n : Nat) (s : State) : Trav (List Byte) :=
  (travRange o accRead ea n s).bind fun s ps => .ok s (readPlaces s .device ps)

/-- Write bytes of the continuation area. -/
def travWrite (o : Owner) (ea : Nat) (bs : List Byte) (s : State) : Trav Unit :=
  (travRange o accWrite ea bs.length s).bind fun s ps => .ok (ps.foldl (writePieceAt o.core 4 bs) s) ()

/-- Read a node, or MALFORMED. -/
def travNode (o : Owner) (base n : Nat) (s : State) : Trav (List Byte) :=
  (travRead o (base + 64 * n) 64 s).bind fun s b => if nodeBad b then .malformed s else .ok s b

/-- Read a leaf. -/
def travLeaf (o : Owner) (base n : Nat) (s : State) : Trav (List Byte) := travRead o (base + 32 * n) 32 s

/-! ## The walk of XPAIR (R408, R413) -/

/-- No node: the entry is a root. -/
def noNode : Nat := 0xFFFFFFFF

/-- A node base of a side; under SELF, B is A. -/
def pairNode (t : Xpair) (b : Bool) : Nat := if b && !t.self then t.nodeb else t.nodea
/-- A leaf base of a side. -/
def pairLeaf (t : Xpair) (b : Bool) : Nat := if b && !t.self then t.leafb else t.leafa
/-- The query mask of a side. -/
def pairMask (t : Xpair) (b : Bool) : Nat := if b && !t.self then t.qmask / 256 % 256 else t.qmask % 256

/-- The box of a stacked reference: its child entry's, or a root's. -/
def entBox (t : Xpair) (side : Bool) (pn slot : Nat) (s : State) : Trav (Option HBox) :=
  if pn = noNode then .ok s (some hugeBox) else (travNode t.owner (pairNode t side) pn s).bind fun s b => .ok s (childBox b slot)

/-- What a side of a popped entry contributes: reference, node, slot and box. -/
abbrev Cand := Nat × Nat × Nat × Option HBox

/-- The children of a node whose MASK passes, or the reference itself. -/
def candidates (t : Xpair) (side : Bool) (ref pn slot : Nat) (s : State) : Trav (List Cand) :=
  if isLeafRef ref then (entBox t side pn slot s).bind fun s b => .ok s [(ref, pn, slot, b)]
  else
    (travNode t.owner (pairNode t side) (refIndex ref) s).bind fun s b =>
      .ok s ((List.range (numAt b 15 1)).filterMap fun k =>
        if Nat.land (childMask b k) (pairMask t side) = 0 then none else some (childRef b k, refIndex ref, k, childBox b k))

/-- A leaf reference is canonical (R402). -/
def canonical (t : Xpair) (side : Bool) (leaf : List Byte) (pn slot : Nat) (s : State) : Trav Bool :=
  if pn = noNode then .ok s true
  else
    (travNode t.owner (pairNode t side) pn s).bind fun s b =>
      .ok s (!(childMulti b slot) || decide (numAt leaf 28 4 = pn))

/-- What a leaf pair comes to before its emission: nothing, or its canon flag. -/
def testLeaves (t : Xpair) (e : PairEnt) (y : Nat) (lx ly : List Byte) (s : State) : Trav (Option Bool) :=
  if t.self && decide (refIndex e.x = y) then .ok s none
  else if !(overlaps (leafBox lx) (leafBox ly)) then .ok s none
  else
    (canonical t false lx e.pnx e.sx s).bind fun s cx =>
      (if t.sw then Trav.ok s true else canonical t true ly e.pny e.sy s).bind fun s cy =>
        .ok s (if t.canon && !(cx && cy) then none else some (cx && cy))

/-- A pair record (R409). -/
def pairRecord (t : Xpair) (i j : Nat) (canon : Bool) : List Byte :=
  let a := if t.self then min i j else i
  let b := if t.self then max i j else j
  bytesOfNat 4 a ++ bytesOfNat 4 b ++ bytesOfNat 4 t.user ++ bytesOfNat 4 (b2n canon)

/-- The header of the continuation area (R410). -/
def contHead (t : Xpair) (state : Nat) : List Byte :=
  bytesOfNat 4 state ++ bytesOfNat 4 t.stack.length ++ bytesOfNat 4 (t.base + t.count) ++
  bytesOfNat 4 (b2n t.self + 2 * b2n t.canon + 4 * b2n t.sw) ++ bytesOfNat 8 t.nodea ++ bytesOfNat 8 t.nodeb ++
  bytesOfNat 4 t.roota ++ bytesOfNat 4 t.rootb ++ bytesOfNat 24 0

/-- An entry of the continuation area. -/
def entBytes (e : PairEnt) : List Byte :=
  bytesOfNat 4 e.x ++ bytesOfNat 4 e.y ++ bytesOfNat 4 e.pnx ++ bytesOfNat 4 e.pny ++ bytesOfNat 1 e.sx ++ bytesOfNat 1 e.sy ++
  bytesOfNat 6 0

/-- Write the continuation: the header with STATE 1, and the stack, bottom first. -/
def writeCont (t : Xpair) (s : State) : Trav Unit := travWrite t.owner t.cont (contHead t 1 ++ t.stack.reverse.flatMap entBytes) s

/-- A complete traversal writes STATE 0 and EMITTED (log 39). -/
def clearCont (t : Xpair) (s : State) : Trav Unit :=
  (travWrite t.owner t.cont (bytesOfNat 4 0) s).bind fun s _ => travWrite t.owner (t.cont + 8) (bytesOfNat 4 (t.base + t.count)) s

/-- The place of the record queue among the grid's bindings. -/
def pairRq (t : Xpair) (s : State) : Option Nat := ((kgetD {} s.grids t.owner.grid).rqs).findIdx? fun r => decide (r.n = t.rq)

/-- What one step leaves: the traversal goes on or has its result. -/
abbrev Walked := Xpair

/-- The traversal ends with a status. -/
def ended (t : Xpair) (status : Nat) : Xpair := { t with result := some (status, 0) }

/-- Emit a pair (R408): `next` is the stack behind it, `again` the stack that retries it. -/
def emitPair (t : Xpair) (i j : Nat) (canon : Bool) (next again : List PairEnt) (s : State) : Trav Xpair :=
  match pairRq t s with
  | none => .ok s (ended t 6)
  | some n =>
    let r := enqStep t.owner.core t.owner.grid n (pairRecord t i j canon) s
    if r.2 = 0 then .ok r.1 { t with count := (t.count + 1) % 2 ^ 32, stack := next }
    else if r.2 = 1 then
      let t := { t with stack := again }
      (writeCont t r.1).bind fun s _ => .ok s (ended t 1)
    else .ok r.1 (ended t 6)

/-- A pair of leaves. -/
def walkLeaves (t : Xpair) (e : PairEnt) (rest : List PairEnt) (s : State) : Trav Xpair :=
  (travLeaf t.owner (pairLeaf t false) (refIndex e.x) s).bind fun s lx =>
    (travLeaf t.owner (pairLeaf t true) (refIndex e.y) s).bind fun s ly =>
      (testLeaves t e (refIndex e.y) lx ly s).bind fun s c =>
        match c with
        | none => .ok s { t with stack := rest }
        | some canon => emitPair t (refIndex e.x) (refIndex e.y) canon rest (e :: rest) s

/-- One B leaf of a sweep at a leaf of A (R413). -/
def walkSweep (t : Xpair) (e : PairEnt) (rest : List PairEnt) (s : State) : Trav Xpair :=
  if t.rootb ≤ e.y then .ok s { t with stack := rest }
  else
    (travLeaf t.owner t.leafa (refIndex e.x) s).bind fun s lx =>
      (travLeaf t.owner t.leafb e.y s).bind fun s ly =>
        if (f32At lx 12).lt (f32At ly 0) then .ok s { t with stack := rest }
        else
          let next := { e with y := e.y + 1 } :: rest
          (testLeaves t e e.y lx ly s).bind fun s c =>
            match c with
            | none => .ok s { t with stack := next }
            | some canon => emitPair t (refIndex e.x) e.y canon next (e :: rest) s

/-- Push pairs in reverse, or STACK. -/
def pushPairs (t : Xpair) (ps rest : List PairEnt) : Xpair :=
  if 160 < ps.length + rest.length then ended t 5 else { t with stack := ps ++ rest }

/-- Expand a pair that holds a node. -/
def walkNodes (t : Xpair) (e : PairEnt) (rest : List PairEnt) (s : State) : Trav Xpair :=
  (candidates t false e.x e.pnx e.sx s).bind fun s xs =>
    if t.sw then
      .ok s (pushPairs t (xs.map fun c => { x := c.1, y := 0, pnx := c.2.1, pny := noNode, sx := c.2.2.1, sy := 0 }) rest)
    else
      (candidates t true e.y e.pny e.sy s).bind fun s ys =>
        let same := t.self && decide (e.x = e.y)
        let ps := xs.flatMap fun c => (ys.filter fun d => overlaps c.2.2.2 d.2.2.2 && !(same && decide (d.2.2.1 < c.2.2.1))).map fun d =>
          ({ x := c.1, y := d.1, pnx := c.2.1, pny := d.2.1, sx := c.2.2.1, sy := d.2.2.1 } : PairEnt)
        .ok s (pushPairs t ps rest)

/-- Pop an entry and handle it. -/
def walkOne (t : Xpair) (s : State) : Trav Xpair :=
  match t.stack with
  | [] => (clearCont t s).bind fun s _ => .ok s (ended t 0)
  | e :: rest =>
    if !isLeafRef e.x then walkNodes t e rest s
    else if t.sw then walkSweep t e rest s
    else if isLeafRef e.y then walkLeaves t e rest s
    else walkNodes t e rest s

/-! ## The start of XPAIR (R407, R411) -/

/-- The stored stack of a continuation area, bottom first. -/
def contEnts (b : List Byte) : List PairEnt :=
  (chunks 24 (b.length / 24) b).map fun e =>
    { x := numAt e 0 4, y := numAt e 4 4, pnx := numAt e 8 4, pny := numAt e 12 4, sx := numAt e 16 1, sy := numAt e 17 1 }

/-- The header fits the word (R411). -/
def contFits (t : Xpair) (b : List Byte) : Bool :=
  let d := numAt b 4 4
  decide (numAt b 0 4 = 1) && decide (1 ≤ d) && decide (d ≤ 160) && decide (numAt b 12 4 = b2n t.self + 2 * b2n t.canon + 4 * b2n t.sw) &&
  decide (numAt b 16 8 = t.nodea) && decide (numAt b 24 8 = t.nodeb) && decide (numAt b 32 4 = t.roota) && decide (numAt b 36 4 = t.rootb)

/-- The record queue can take pair records: it is bound, and RSZ is 0. -/
def rqFits (t : Xpair) (s : State) : Bool :=
  match (pairRq t s).bind fun n => readRq s t.owner.grid n with
  | some r => decide (r.2.1.size = 16)
  | none => false

/-- Start a traversal: the queue is checked, and the stack is set up. -/
def startPairs (t : Xpair) (s : State) : Trav Xpair :=
  let t := { t with started := true }
  if !rqFits t s then .ok s (ended t 6)
  else if t.resume then
    (travRead t.owner t.cont 64 s).bind fun s b =>
      if contFits t b then
        (travRead t.owner (t.cont + 64) (24 * numAt b 4 4) s).bind fun s es =>
          .ok s { t with stack := (contEnts es).reverse, base := numAt b 8 4 }
      else .ok s (ended t 2)
  else
    let y := if t.sw then 0 else if t.self then t.roota else t.rootb
    .ok s { t with stack := [{ x := t.roota, y := y, pnx := noNode, pny := noNode, sx := 0, sy := 0 }] }

/-- Walk up to the next emission or the end, at most `fuel` entries in one event. -/
def walkPairs : Nat → Xpair → State → Trav Xpair
  | 0, t, s => .ok s t
  | fuel + 1, t, s =>
    match walkOne t s with
    | .ok s' t' => if t'.result.isSome || decide (t'.count ≠ t.count) then .ok s' t' else walkPairs fuel t' s'
    | .bad s k => .ok s { t with result := some (4, k) }
    | .malformed s => .ok s (ended t 3)
    | .stall s ls => .stall s ls
    | .fault f => .fault f

/-- The next stretch of a traversal. -/
def stepPairs (t : Xpair) (s : State) : Trav Xpair :=
  if t.started then walkPairs 256 t s
  else
    match startPairs t s with
    | .bad s k => .ok s { t with started := true, result := some (4, k) }
    | r => r

/-! ## Cancelled and yielding traversals (R407, R414) -/

/-- The continuation area holds unpredictable bytes: free values, where it can be written (log 2). -/
def scrambleCont (t : Xpair) (s : State) : State :=
  let bs := (List.range 4096).map fun i => Config.freeByte (s.fresh + i)
  match travWrite t.owner t.cont bs { s with fresh := s.fresh + 4096 } with
  | .ok s _ => s
  | _ => s

/-- A traversal is gone: its part no longer waits for it. -/
def dropPairs (id : Nat) (s : State) : State := engineDone id { s with pairs := kdel s.pairs id }

/-- A traversal stops for fault service (R407). -/
def travStop (o : Owner) (ls : List (Nat × Stalled)) (s : State) : State × List Nat :=
  let r := ls.foldl (fun (acc : State × List Nat) l =>
    let t := addFault o.partition o.ctx l.2.va l.1 l.2.level acc.1
    (t.1, acc.2 ++ [t.2])) (s, [])
  (writeRecords o.partition ls.length r.1, r.2)

/-- Replace a traversal. -/
def putPairs (id : Nat) (t : Xpair) (s : State) : State := { s with pairs := kput s.pairs id t }

/-- A traversal may move. -/
def travMoves (s : State) (p : Nat) (waits : List Nat) : Bool := waits.isEmpty && decide ((kgetD {} s.partitions p).swap ≠ 3)

/-- A traversal whose part yields starts, if it has not started, and writes its continuation unless it has ended (R414). -/
def yieldStep (t : Xpair) (s : State) : Trav Xpair :=
  (if t.started then .ok s t else startPairs t s).bind fun s t =>
    if t.result.isSome then .ok s t else (writeCont t s).bind fun s _ => .ok s t

/-- A traversal whose part yields writes its continuation, and is gone (R414). -/
def yieldPairs (id : Nat) (t : Xpair) (s : State) : Out :=
  match yieldStep t s with
  | .ok s _ => .next (dropPairs id s)
  | .stall s ls =>
    let r := travStop t.owner ls s
    .next (putPairs id { t with waits := r.2 } r.1)
  | .fault f => .fault f
  | .bad s _ => .next (dropPairs id (scrambleCont t s))
  | .malformed s => .next (dropPairs id s)

/-- XPAIR_EMIT (R408): the traversal walks to its next emission, or to its end. -/
def execXpairEmit (id : Nat) (s : State) : Out :=
  match kget s.pairs id with
  | none => .next s
  | some t =>
    if t.cancelled then .next (dropPairs id (scrambleCont t s))
    else if t.saved || !travMoves s t.owner.partition t.waits then .next s
    else if t.yields then yieldPairs id t s
    else if t.result.isSome then .next s
    else
      match stepPairs t s with
      | .ok s t => .next (putPairs id t s)
      | .stall s ls =>
        let r := travStop t.owner ls s
        .next (putPairs id { t with waits := r.2 } r.1)
      | .bad s k => .next (putPairs id { t with result := some (4, k) } s)
      | .malformed s => .next (putPairs id (ended t 3) s)
      | .fault f => .fault f

/-- The result of a traversal in the registers that wait for it: the even one takes the status, the odd one the count. -/
def pairVals (id status count : Nat) (x : Pend) : Pend :=
  let v := fun r => BitVec.ofNat 32 (if r % 2 = 0 then status else count)
  if x.trav = some id then
    { x with trav := none, vals := x.vals.map (fun y => (y.1, y.2.1, v y.2.1)), uvals := x.uvals.map fun y => (y.1, v y.1) }
  else x

/-- XPAIR_COMPLETE (R412): the status and the count are written. -/
def execXpairComplete (id : Nat) (s : State) : Out :=
  .next (match kget s.pairs id with
    | none => s
    | some t =>
      match t.result with
      | none => s
      | some (st, k) =>
        let f := fun (w : Wave) =>
          { w with parts := w.parts.map fun p => { p with pend := p.pend.map (pairVals id (st + 65536 * k) t.count) } }
        let s := { s with waves := kmap (fun _ w => f w) s.waves,
                          parked := kmap (fun _ (x : Parked) => { x with waves := x.waves.map f }) s.parked }
        dropPairs id s)

/-! ## XPAIR (R405 to R407) -/

/-- Traversals of a core's unit: one for an XPAIR, one for each lane of an XRAY. -/
def travLoad (s : State) (core : Nat) : Nat :=
  (s.pairs.filter fun e => e.2.owner.core = core).length +
  ((s.rays.filter fun e => e.2.owner.core = core).map fun e => e.2.lanes.length).sum

/-- The checks of XPAIR. -/
def xpairSig (d a : BitVec 7) (w s : BitVec 1) (c : Ctx) : Sig :=
  { maj := 0x34, badStep := decide (w = 1#1) && !c.b0, badField := decide (w = 1#1) && decide (s = 1#1),
    opds := [{ code := d, len := 2, even := true, dst := true, src := false, allow := .reg }, { rdSpan a 16 with even := true }] }

/-- A word of the descriptor in L0, and a pair of them. -/
def travPair (c : Ctx) (a : BitVec 7) (i l : Nat) : Nat := (c.readAt a i l).toNat + 2 ^ 32 * (c.readAt a (i + 1) l).toNat

/-- SPACE, then MISALIGN of bases, in order (R407): address and alignment of each. -/
def baseTrap (s : State) (w : Wave) (l : Nat) (bs : List (Nat × Nat)) : Option Trap :=
  let pt := kgetD {} s.partitions w.partition
  ((bs.find? fun b => (spaceOf pt b.1).code ≠ 0).map fun b => addrTrap 0x0E { lane := l, ea := b.1, n := 1 }).or
    ((bs.find? fun b => b.1 % b.2 ≠ 0).map fun b => addrTrap 0x0F { lane := l, ea := b.1, n := 1 })

/-- The traversal of an XPAIR word. -/
def mkPairs (c : Ctx) (s : State) (a : BitVec 7) (sw resume canon self : Bool) : Xpair :=
  let w := fun i => (c.readAt a i c.l0).toNat
  let p := fun i => travPair c a i c.l0
  { owner := ownerOf s c.w c.l0, key := c.key, self := self, canon := canon, resume := resume, sw := sw, nodea := p 0, leafa := p 2,
    nodeb := p 4, leafb := p 6, roota := w 8, rootb := w 9, qmask := w 10, user := w 11, cont := p 12, rq := w 14 }

/-- The effect of XPAIR: the checks of R407, then a traversal starts. -/
def xpairBody (d a : BitVec 7) (la : BitVec 4) (t : Ctx → State → Xpair) (c : Ctx) (s : State) : Res :=
  let x := t c s
  let bs := [(x.nodea, 64), (x.leafa, 32)] ++ (if x.self || x.sw then [] else [(x.nodeb, 64)]) ++ (if x.self then [] else [(x.leafb, 32)]) ++
    [(x.cont, 64)]
  if 65536 ≤ x.qmask ∨ 8 ≤ x.rq ∨ c.readAt a 15 c.l0 ≠ 0#32 then .trap s (illegal 0x34 0x03)
  else
    match baseTrap s c.w c.l0 bs with
    | some t => .trap s t
    | none =>
      if 256 ≤ travLoad s (coreOf c.key) then .brk (.cond (.traversal 1))
      else
        let s := partRelease c 4 s
        let id := s.nextId
        let f := fun _ => [0#32, 0#32]
        let y : Pend := { id := id + 1, kind := .load, window := la.toNat, vals := pendVals c d f, uvals := pendUvals c d f, bq := c.p.q,
                          bn := c.p.n, ulane := c.l0, lanes := [], trav := some id }
        let s := { s with nextId := id + 2, pairs := kput s.pairs id x }
        afterTakes c (blockLanes c.p.q c.p.n)
          (.fall (engineIssued c [id] (s.modPart c.key c.q fun p => { p with pend := p.pend ++ [y] })) 1)

/-- XPAIR (R405 to R412): the overlapping leaf pairs of two hierarchies. -/
def execXpair (z : Bool) (d a : BitVec 7) (w r c s_ : BitVec 1) (l : BitVec 4) (s : State) : Out :=
  issueWord z (xpairSig d a w s_) idleWord
    (xpairBody d a l fun x s => mkPairs x s a (w = 1#1) (r = 1#1) (c = 1#1) (s_ = 1#1)) s

/-! ## Rays (R415, R416) -/

/-- A quotient of extended values; a NaN where there is none (log 40). -/
def FVal.div : FVal → FVal → FVal
  | .nan _, _ => .nan false
  | _, .nan _ => .nan false
  | .inf _, .inf _ => .nan false
  | .inf a, .fin b _ _ => .inf (a != b)
  | .fin a _ _, .inf b => .fin (a != b) 0 1
  | .fin a n d, .fin b m e => if m = 0 then .nan false else .fin (a != b) (n * e) (d * m)

/-- The lesser of two values. -/
def FVal.least (a b : FVal) : FVal := if b.lt a then b else a
/-- The greater of two values. -/
def FVal.most (a b : FVal) : FVal := if a.lt b then b else a

/-- The entry and exit parameters of a ray in a slab; none is a miss. -/
def slabHit (o d lo hi : FVal) : Option (FVal × FVal) :=
  if d.isZero then (if !(o.lt lo) && !(hi.lt o) then some (.inf true, .inf false) else none)
  else
    let a := (lo.add 0 o.neg).div d
    let b := (hi.add 0 o.neg).div d
    if a.isNan || b.isNan then none else some (a.least b, a.most b)

/-- A ray: origin, direction, tmin, tmax. -/
structure Ray where
  o : List FVal
  d : List FVal
  tmin : FVal
  tmax : FVal
deriving DecidableEq, Repr

/-- The ray of a lane's operands. -/
def rayOf (ops : List Word) : Ray :=
  let f := fun i => fmtF32.decode (ops.getD i 0#32).toNat
  { o := [f 0, f 1, f 2], d := [f 4, f 5, f 6], tmin := f 3, tmax := f 7 }

/-- max(te, tmin) where the ray hits a box (R416). -/
def rayHit (r : Ray) (b : Option HBox) : Option FVal :=
  match b with
  | none => none
  | some b =>
    if (r.o ++ r.d ++ [r.tmin, r.tmax]).any (·.isNan) then none
    else
      let xs := (List.range 3).map fun a =>
        let ax := b.getD a (.inf true, .inf false)
        slabHit (r.o.getD a (.inf true)) (r.d.getD a (.inf true)) ax.1 ax.2
      if xs.any (·.isNone) then none
      else
        let ps := xs.filterMap id
        let te := (ps.map (·.1)).foldl FVal.most (.inf true)
        let tx := (ps.map (·.2)).foldl FVal.least (.inf false)
        if tx.lt te || tx.lt r.tmin || r.tmax.lt te then none else some (te.most r.tmin)

/-- A box contains the origin of a ray. -/
def boxHolds (r : Ray) (b : Option HBox) : Bool :=
  match b with
  | none => false
  | some b => (b.zip r.o).all fun x => !(x.2.lt x.1.1) && !(x.1.2.lt x.2)

/-- A value as plain data. -/
def valData : FVal → Bool × Nat × Nat
  | .inf neg => (neg, 1, 0)
  | .fin neg n d => (neg, n, d)
  | .nan _ => (false, 0, 0)

/-- The value of plain data. -/
def dataVal (t : Bool × Nat × Nat) : FVal := if t.2.2 = 0 then .inf t.1 else .fin t.1 t.2.1 t.2.2

/-- A hit leaf takes the place of the nearest so far: a lesser parameter, or an equal one and a lower index. -/
def nearer (y : RayLane) (leaf : Nat) (t : FVal) : Bool :=
  match y.leaf with
  | none => true
  | some k => t.lt (dataVal y.t) || (t.eq (dataVal y.t) && decide (leaf < k))

/-- What a ray's step comes to: it goes on, or it has ended with a status and a kind. -/
inductive RayRes where
  | more (s : State) (y : RayLane)
  | done (s : State) (y : RayLane) (status kind : Nat)
  | stall (s : State) (ls : List (Nat × Stalled))
  | fault (f : Fault)

/-- A leaf of a ray (R416). -/
def rayLeaf (x : Xray) (y : RayLane) (leaf : Nat) (b : List Byte) (s : State) : RayRes :=
  let r := rayOf y.ops
  let box := leafBox b
  match (if x.cull && boxHolds r box then none else rayHit r box) with
  | none => .more s y
  | some t =>
    let y := if nearer y leaf t then { y with leaf := some leaf, t := valData t, prim := numAt b 24 4 } else y
    if x.any then .done s y 0 0 else .more s y

/-- The children of a node that a ray visits, in slot order. -/
def rayKids (y : RayLane) (b : List Byte) : List Nat :=
  (List.range (numAt b 15 1)).filterMap fun k =>
    if Nat.land (childMask b k) ((y.ops.getD 13 0#32).toNat % 256) ≠ 0 ∧ (rayHit (rayOf y.ops) (childBox b k)).isSome then some (childRef b k)
    else none

/-- A wide operand of a ray. -/
def rayBase (y : RayLane) (i : Nat) : Nat := (y.ops.getD i 0#32).toNat + 2 ^ 32 * (y.ops.getD (i + 1) 0#32).toNat

/-- How a read that a ray makes ends it. -/
def rayRead {α : Type} (y : RayLane) (r : Trav α) (k : State → α → RayRes) : RayRes :=
  match r with
  | .ok s v => k s v
  | .bad s kind => .done s { y with leaf := none } 4 kind
  | .malformed s => .done s { y with leaf := none } 3 0
  | .stall s ls => .stall s ls
  | .fault f => .fault f

/-- One reference of a ray's stack. -/
def rayOne (x : Xray) (y : RayLane) (s : State) : RayRes :=
  match y.stack with
  | [] => .done s y (if y.leaf.isSome then 0 else 1) 0
  | ref :: rest =>
    let o := { x.owner with lane := y.lane }
    if isLeafRef ref then
      rayRead y (travLeaf o (rayBase y 10) (refIndex ref) s) fun s b => rayLeaf x { y with stack := rest } (refIndex ref) b s
    else
      rayRead y (travNode o (rayBase y 8) (refIndex ref) s) fun s b =>
        let st := rayKids y b ++ rest
        if 64 < st.length then .done s { y with leaf := none } 5 0 else .more s { y with stack := st }

/-- Walk a ray, at most `fuel` references in one event. -/
def rayWalk (x : Xray) : Nat → RayLane → State → RayRes
  | 0, y, s => .more s y
  | fuel + 1, y, s =>
    match rayOne x y s with
    | .more s y => rayWalk x fuel y s
    | r => r

/-- D to D+3 (R417). -/
def rayWords (y : RayLane) (status kind : Nat) : List Word :=
  match status, y.leaf with
  | 0, some leaf => [BitVec.ofNat 32 leaf, BitVec.ofNat 32 (fmtF32.round 0 (dataVal y.t)), BitVec.ofNat 32 y.prim, 0#32]
  | _, _ => [0xFFFFFFFF#32, 0x7FC00000#32, 0xFFFFFFFF#32, BitVec.ofNat 32 (status + 65536 * kind)]

/-- A lane's results reach the writeback that waits for them: the values of the lane, from its first register. -/
def rayPend (id lane : Nat) (ws : List Word) (x : Pend) : Pend :=
  if x.id = id then
    let first := ((x.vals.filter fun v => v.1 = lane).map (·.2.1)).headD 0
    { x with lanes := x.lanes.filter (· ≠ lane),
             vals := x.vals.map fun v => if v.1 = lane then (v.1, v.2.1, ws.getD (v.2.1 - first) 0#32) else v }
  else x

/-- Replace or remove a lane of an XRAY. -/
def putRay (id lane : Nat) (y : Option RayLane) (s : State) : State :=
  match kget s.rays id with
  | none => s
  | some x =>
    let ls := match y with
      | some y => x.lanes.map fun k => if k.lane = lane then y else k
      | none => x.lanes.filter fun k => k.lane ≠ lane
    if ls.isEmpty then engineDone id { s with rays := kdel s.rays id } else { s with rays := kput s.rays id { x with lanes := ls } }

/-- A lane's ray has ended: its results are written. -/
def finishRay (id lane : Nat) (ws : List Word) (key : Nat) (s : State) : State :=
  putRay id lane none (s.modWave key fun w =>
    { w with parts := w.parts.map fun p => { p with pend := p.pend.map (rayPend id lane ws) } })

/-- XRAY_COMPLETE (R416, R417): a lane's traversal goes on to its end, and writes its hit or its status. -/
def execXrayComplete (id lane : Nat) (s : State) : Out :=
  match kget s.rays id with
  | none => .next s
  | some x =>
    match x.lanes.find? fun y => y.lane = lane with
    | none => .next s
    | some y =>
      if travMoves s x.owner.partition y.waits then
        match rayWalk x 4096 y s with
        | .more s y => .next (putRay id lane (some y) s)
        | .done s y st k => .next (finishRay id lane (rayWords y st k) x.key s)
        | .stall s ls =>
          let r := travStop x.owner ls s
          .next (putRay id lane (some { y with waits := r.2 }) r.1)
        | .fault f => .fault f
      else .next s

/-! ## XRAY (R415) -/

/-- The first trap of R407's steps over the lanes. -/
def rayTrap (c : Ctx) (s : State) (a : BitVec 7) : Option Trap :=
  let pt := kgetD {} s.partitions c.w.partition
  let bases := fun l => [(travPair c a 8 l, 64), (travPair c a 10 l, 32)]
  let bad := fun (f : Nat × Nat → Bool) (cause : Nat) => c.act.findSome? fun l =>
    ((bases l).find? f).map fun b => addrTrap cause { lane := l, ea := b.1, n := 1 }
  (bad (fun b => decide ((spaceOf pt b.1).code ≠ 0)) 0x0E).or (bad (fun b => decide (b.1 % b.2 ≠ 0)) 0x0F)

/-- The effect of XRAY: the checks, then a traversal per active lane starts. -/
def xrayBody (d a : BitVec 7) (any cull : Bool) (la : BitVec 4) (c : Ctx) (s : State) : Res :=
  if c.act.any fun l => decide (256 ≤ (c.readAt a 13 l).toNat) then .trap s (illegal 0x35 0x03)
  else
    match rayTrap c s a with
    | some t => .trap s t
    | none =>
      if 256 < travLoad s (coreOf c.key) + c.act.length then .brk (.cond (.traversal c.act.length))
      else
        let s := partRelease c 4 s
        let id := s.nextId
        let y : Pend := { id := id, kind := .load, window := la.toNat, vals := pendVals c d (fun _ => List.replicate 4 0#32), uvals := [],
                          bq := c.p.q, bn := c.p.n, ulane := c.l0, lanes := c.act }
        let ls := c.act.map fun l => ({ lane := l, ops := c.readSpan a 14 l, stack := [(c.readAt a 12 l).toNat] } : RayLane)
        let x : Xray := { owner := ownerOf s c.w c.l0, key := c.key, any := any, cull := cull, lanes := ls }
        afterTakes c (blockLanes c.p.q c.p.n)
          (.fall (engineIssued c [id] ({ s with nextId := id + 1, rays := kput s.rays id x }.modPart c.key c.q fun p =>
            { p with pend := p.pend ++ [y] })) 1)

/-- XRAY (R415 to R417): a ray traversal per active lane. -/
def execXray (z : Bool) (d a : BitVec 7) (c y : BitVec 1) (l : BitVec 4) (s : State) : Out :=
  issueWord z (fun _ => { maj := 0x35, opds := [wrSpan d 4, { rdSpan a 14 with even := true }] }) idleWord
    (xrayBody d a (y = 1#1) (c = 1#1) l) s

end Sys2Proof.Machine
end

