-- ==== Sys2Proof/Machine/Images.lean ====
section
/-! DEFINITION. Image tables and TEX (R418 to R421): descriptors, texel addresses, texel formats, exact filtering. -/

namespace Sys2Proof.Machine

/-! ## Image descriptors (R418) -/

/-- An image descriptor. -/
structure Image where
  base : Nat
  width : Nat
  height : Nat
  fmt : Nat
  mode : Nat
  levels : Nat
deriving DecidableEq, Repr

/-- Bytes of a texel by FMT (R364). -/
def texBytes (fmt : Nat) : Nat := if fmt = 1 then 8 else if fmt = 4 then 1 else 4

/-- LAYOUT 1: the blocks of a render target. -/
def Image.blocks (m : Image) : Bool := bitOf m.mode 3

/-- The descriptor that 32 bytes hold. -/
def imageOf (bs : List Byte) : Image :=
  { base := numAt bs 0 8, width := numAt bs 8 2, height := numAt bs 10 2, fmt := numAt bs 12 1, mode := numAt bs 13 1,
    levels := numAt bs 14 1 }

/-- Every field is in range. -/
def Image.valid (m : Image) : Bool :=
  decide (m.base % 256 = 0) && decide (1 ≤ m.width ∧ m.width ≤ 32768) && decide (1 ≤ m.height ∧ m.height ≤ 32768) &&
  decide (m.fmt ≤ 4) && decide (m.mode < 16) && decide (1 ≤ m.levels ∧ m.levels ≤ 16) &&
  (!m.blocks || (decide (m.levels = 1) && decide (m.width % 8 = 0) && decide (m.height % 8 = 0)))

/-- The valid descriptor of 32 bytes. -/
def validImage (bs : List Byte) : Option Image :=
  if (imageOf bs).valid && (bs.drop 15).all (· = 0#8) then some (imageOf bs) else none

/-! ## Texels (R419) -/

/-- The width of level `k`. -/
def Image.wk (m : Image) (k : Nat) : Nat := max 1 (m.width / 2 ^ k)

/-- The height of level `k`. -/
def Image.hk (m : Image) (k : Nat) : Nat := max 1 (m.height / 2 ^ k)

/-- A number rounded up to a multiple. -/
def roundUp (x n : Nat) : Nat := (x + n - 1) / n * n

/-- The row pitch of a level of the linear layout. -/
def Image.pitch (m : Image) (k : Nat) : Nat := roundUp (m.wk k * texBytes m.fmt) 64

/-- The bytes before level `k` of the linear layout. -/
def Image.before (m : Image) (k : Nat) : Nat :=
  (List.range k).foldl (fun a j => a + roundUp (m.pitch j * m.hk j) 256) 0

/-- The offset of a texel from BASE. -/
def Image.texelOff (m : Image) (k x y : Nat) : Nat :=
  let p := texBytes m.fmt
  if m.blocks then 64 * p * (y / 8 * (m.width / 8) + x / 8) + p * (8 * (y % 8) + x % 8)
  else m.before k + y * m.pitch k + x * p

/-- The address of a texel. -/
def Image.texelAt (m : Image) (k x y : Nat) : Nat := (m.base + m.texelOff k x y) % 2 ^ 64

/-- 1.0 -/
def oneF32 : Nat := 0x3F800000

/-- A byte channel. -/
def unormF32 (c : Nat) : Nat := fmtF32.round 0 (.fin false c 255)

/-- An F16 channel, widened; a NaN is canonical. -/
def halfF32 (x : Nat) : Nat := fmtF32.round 0 (fmtF16.decode x)

/-- An F32 channel; a NaN is canonical. -/
def wordF32 (x : Nat) : Nat := if (fmtF32.decode x).isNan then fmtF32.nanBits else x

/-- The four F32 channels of a texel. -/
def texelChannels (fmt : Nat) (bs : List Byte) : List Nat :=
  match fmt with
  | 0 => (List.range 4).map fun i => unormF32 (numAt bs i 1)
  | 1 => (List.range 4).map fun i => halfF32 (numAt bs (2 * i) 2)
  | 2 => [wordF32 (numAt bs 0 4), 0, 0, oneF32]
  | 3 => [halfF32 (numAt bs 0 2), halfF32 (numAt bs 2 2), 0, oneF32]
  | _ => [unormF32 (numAt bs 0 1), 0, 0, oneF32]

/-! ## Coordinates (R421) -/

/-- The level that a lod selects. -/
def lodLevel (levels : Nat) (lod : Word) : Nat :=
  match fmtF32.decode lod.toNat with
  | .nan _ => 0
  | .inf neg => if neg then 0 else levels - 1
  | .fin neg n d => if neg then 0 else min (roundMag 0 neg n d) (levels - 1)

/-- A coordinate as a signed fraction; zero where it is not finite. -/
def coordFrac (u : Word) : Int × Nat :=
  match fmtF32.decode u.toNat with
  | .fin neg n d => (signedNum neg n, d)
  | _ => (0, 1)

/-- floor(u * n): the nearest texel. -/
def nearestIx (u : Word) (n : Nat) : Int := (coordFrac u).1 * n / (coordFrac u).2

/-- The numerator of u * n - 1/2 over twice the denominator of u. -/
def footNum (u : Word) (n : Nat) : Int := 2 * (coordFrac u).1 * n - (coordFrac u).2

/-- floor(u * n - 1/2): the lower texel of the footprint. -/
def footIx (u : Word) (n : Nat) : Int := footNum u n / (2 * (coordFrac u).2 : Nat)

/-- The distance from the lower texel in 1/256, by RNE. -/
def footFrac (u : Word) (n : Nat) : Nat :=
  roundMag 0 false (256 * (footNum u n % (2 * (coordFrac u).2 : Nat)).toNat) (2 * (coordFrac u).2)

/-- ADDR: wrap or clamp. -/
def addrIx (i : Int) (n : Nat) (clamp : Bool) : Nat :=
  if clamp then (if i < 0 then 0 else min i.toNat (n - 1)) else (i % (n : Int)).toNat

/-- The texel of a footprint at (i, j). -/
def Image.addressed (m : Image) (k : Nat) (i j : Int) : Nat :=
  m.texelAt k (addrIx i (m.wk k) (bitOf m.mode 1)) (addrIx j (m.hk k) (bitOf m.mode 2))

/-- The arguments of a lane: registers A+2, A+3, A+4. -/
structure TexArgs where
  a : Word
  b : Word
  c : Word
deriving DecidableEq, Repr

/-- LOADI names a texel of the image. -/
def loadiInside (m : Image) (x : TexArgs) : Bool :=
  decide (x.c.toNat < m.levels) && decide (0 ≤ x.a.toInt ∧ x.a.toInt < m.wk x.c.toNat) &&
  decide (0 ≤ x.b.toInt ∧ x.b.toInt < m.hk x.c.toNat)

/-- The addresses of the texels that a lane reads, in the order in which its result takes them; op is 0 SAMPLE, 1 GATH4, 2 LOADI,
3 QUERY. -/
def texAddrs (op : Nat) (m : Image) (x : TexArgs) : List Nat :=
  let k := lodLevel m.levels x.c
  let i := footIx x.a (m.wk k)
  let j := footIx x.b (m.hk k)
  match op with
  | 0 =>
    if bitOf m.mode 0 then [m.addressed k i j, m.addressed k (i + 1) j, m.addressed k i (j + 1), m.addressed k (i + 1) (j + 1)]
    else [m.addressed k (nearestIx x.a (m.wk k)) (nearestIx x.b (m.hk k))]
  | 1 => [m.addressed k i (j + 1), m.addressed k (i + 1) (j + 1), m.addressed k (i + 1) j, m.addressed k i j]
  | 2 => if loadiInside m x then [m.texelAt x.c.toNat x.a.toNat x.b.toNat] else []
  | _ => []

/-- The weights of the four texels, in 1/65536. -/
def texWeights (m : Image) (x : TexArgs) : List Nat :=
  let k := lodLevel m.levels x.c
  let fx := footFrac x.a (m.wk k)
  let fy := footFrac x.b (m.hk k)
  [(256 - fx) * (256 - fy), fx * (256 - fy), (256 - fx) * fy, fx * fy]

/-- One channel of the weighted sum, exact and rounded once; infinities follow IEEE 754-2019 (DEDUCED, log 41). -/
def blend (ws cs : List Nat) : Nat :=
  let ts := (ws.zip cs).map fun x => FVal.mul (.fin false x.1 65536) (fmtF32.decode x.2)
  match ts with
  | t :: ts => fmtF32.round 0 (ts.foldl (FVal.add 0) t)
  | [] => 0

/-- What a lane writes, from its texels' bytes (R421). -/
def texRes (op : Nat) (m : Image) (x : TexArgs) (ts : List (List Byte)) : List Nat :=
  let cs := ts.map (texelChannels m.fmt)
  match op with
  | 0 =>
    if bitOf m.mode 0 then (List.range 4).map fun ch => blend (texWeights m x) (cs.map fun t => t.getD ch 0)
    else cs.headD [0, 0, 0, 0]
  | 1 => cs.map fun t => t.headD 0
  | 2 => cs.headD [0, 0, 0, 0]
  | _ => if x.a.toNat < m.levels then [m.wk x.a.toNat, m.hk x.a.toNat, m.levels, m.fmt] else [0, 0, 0, 0]

/-- What a lane writes for an invalid descriptor. -/
def texInvalid (op : Nat) : List Nat := if op = 3 then [0, 0, 0, 0xFFFFFFFF] else List.replicate 4 0x7FC00000

/-! ## The words (R420) -/

/-- The arguments of a lane. -/
def texArgs (c : Ctx) (a : BitVec 7) (l : Nat) : TexArgs := { a := c.readAt a 2 l, b := c.readAt a 3 l, c := c.readAt a 4 l }

/-- The image of a lane: the descriptor among the lanes' descriptors. -/
def laneImage (s : State) (c : Ctx) (ps : List (Nat × Places)) (l : Nat) : Option Image :=
  validImage (readPlaces s (.core (coreOf c.key)) (placesOf ps l))

/-- The texel reads of every active lane. -/
def texReqs (op : Nat) (a : BitVec 7) (c : Ctx) (s : State) (ps : List (Nat × Places)) : List Req :=
  c.act.flatMap fun l =>
    match laneImage s c ps l with
    | some m => (texAddrs op m (texArgs c a l)).map fun t => { lane := l, ea := t, n := texBytes m.fmt }
    | none => []

/-- The four registers of a lane, from the descriptors and the texels. -/
def texLane (op : Nat) (a : BitVec 7) (c : Ctx) (s : State) (ps ts : List (Nat × Places)) (l : Nat) : List Word :=
  let r := match laneImage s c ps l with
    | some m => texRes op m (texArgs c a l) ((ts.filter fun (x : Nat × Places) => decide (x.1 = l)).map fun (x : Nat × Places) => readPlaces s (.core (coreOf c.key)) x.2)
    | none => texInvalid op
  r.map (BitVec.ofNat 32)

/-- SPACE or MISALIGN of a table base (R264, R420). -/
def texBaseTrap (a : BitVec 7) (c : Ctx) (s : State) : Option Trap :=
  match memAccess c.w (laneReqs c (eaPair c a) 512) 512 accRead noExtra s with
  | .trap t => if t.cause = 0x10 then none else some t
  | _ => none

/-- The effect of TEX: descriptors, then texels, then the result, which lands later. -/
def texBody (op : Nat) (d a : BitVec 7) (slot la : BitVec 4) (c : Ctx) (s : State) : Res :=
  match texBaseTrap a c s with
  | some t => .trap s t
  | none =>
    memWord c (laneReqs c (fun l => eaPair c a l + 32 * slot.toNat) 32) 1 accRead noExtra (fun s ps => poisonRes s ps (
      memWord c (texReqs op a c s ps) 1 accRead noExtra (fun s ts => poisonRes s ts (
        .fall (writeLater c d la.toNat (texLane op a c s ps ts) (sampled c (eaPair c a) 0x36 s)) 1)) s)) s

/-- A TEX word (R420). -/
def execTex (op : Nat) (z : Bool) (d a : BitVec 7) (slot la : BitVec 4) (s : State) : Out :=
  issueWord z (fun _ => { maj := 0x36, opds := [wrSpan d 4, { rdSpan a 5 with even := true }] }) idleWord (texBody op d a slot la) s

/-- TEX.SAMPLE (R421): samples an image with nearest or bilinear filtering. -/
def execTexSample (z : Bool) (d a : BitVec 7) (s l : BitVec 4) (st : State) : Out := execTex 0 z d a s l st

/-- TEX.GATH4 (R421): channel R of four texels. -/
def execTexGath4 (z : Bool) (d a : BitVec 7) (s l : BitVec 4) (st : State) : Out := execTex 1 z d a s l st

/-- TEX.LOADI (R421): one texel by integer coordinates. -/
def execTexLoadi (z : Bool) (d a : BitVec 7) (s l : BitVec 4) (st : State) : Out := execTex 2 z d a s l st

/-- TEX.QUERY (R421): the size, levels and format of an image level. -/
def execTexQuery (z : Bool) (d a : BitVec 7) (s l : BitVec 4) (st : State) : Out := execTex 3 z d a s l st

end Sys2Proof.Machine
end

