-- ==== Sys2Proof/Machine/Wake.lean ====
section
/-! DEFINITION. When a waiting part goes on: the conditions of its wait, and what changes by itself once something has moved (R55, R61,
R69, R184, R190, R327, R369, R381, R404, R417, R431). -/

namespace Sys2Proof.Machine

/-! ## Conditions -/

/-- A record of a partition's fault ring is not answered. -/
def recordOpen (s : State) (p id : Nat) : Bool := (s.fring p).recs.any fun r => decide (r.id = id)

/-- A 4-byte order word, or an 8-byte signal, as the wave reads it; none where it cannot. -/
def waitRead (s : State) (w : Wave) (ea n : Nat) (vw : View) : Option Nat :=
  match memAccess w [{ lane := 0, ea := ea, n := n }] 1 accRead noExtra s with
  | .ok s ps => some (natOfBytes (readPlaces s vw (placesOf ps 0)))
  | _ => none

/-- The ticket of a PXLK may enter, or, for 65536, a PXTK finds room (R369, R370). A word that can no longer be read makes the part
issue again. -/
def pixelReady (s : State) (w : Wave) (ea t : Nat) : Bool :=
  match waitRead s w ea 4 .device with
  | none => true
  | some x => if t = 65536 then decide ((x % 65536 + 65536 - x / 65536) % 65536 < 32767) else mayEnter x t

/-- The condition that a part waits for holds. -/
def condHolds (s : State) (w : Wave) (p : Part) : Cond → Bool
  | .tokens mask => !tokenPending p mask
  | .wp ch k => decide (k ≤ wpOf s w ch)
  | .dbar a ph => dbarPhase s a != ph
  | .tile t ver => (w.tile t).ops.isEmpty || decide ((w.tile t).va = ver)
  | .tileIdle t => (w.tile t).ops.isEmpty
  | .tileRoom t => decide ((w.tile t).ops.length < 8)
  | .time t => decide (t ≤ s.time)
  | .copyRoom ch => decide (chLoad s (coreOf w.key) ch < 16)
  | .engines => p.engines.isEmpty
  | .past ids => !(s.astps.any fun x => ids.contains x.id)
  | .records recs => !(recs.any fun x => recordOpen s w.partition x.1)
  | .ring q dl => cqHas s w.grid q || dl.any fun t => decide (t ≤ s.time)
  | .pixel ea t => pixelReady s w ea t
  | .sfnRoom n => decide (sfnQueued s (quarterOf w.key) + n ≤ 64)
  | .traversal n => decide (travLoad s (coreOf w.key) + n ≤ 256)
  | .rays => !raysPending p
  | .signal ea want cmp dl =>
    (match waitRead s w ea 8 .system with
     | none => true
     | some v => signalMeets cmp v want) || dl.any fun t => decide (t ≤ s.time)
  | .wipe p => !(kgetD {} s.partitions p).wiping
  | .swap p => !(swapping s p)
  | .room _ => emitRoom s w

/-- A writeback that a part waits for on the scoreboard still holds a register of one of the lanes that the word reads or writes, or a
uniform register (R55, R176). -/
def boardHolds (p : Part) (ids lanes : List Nat) : Bool :=
  p.pend.any fun x => ids.contains x.id && (!x.uvals.isEmpty || x.vals.any fun v => lanes.contains v.1)

/-- The wait of a part is over: it may issue its word again. -/
def waitOver (s : State) (w : Wave) (p : Part) : Bool :=
  match p.wait with
  | .board ids lanes => !(boardHolds p ids lanes)
  | .cond c => condHolds s w p c
  | _ => false

/-- The wave is live: not stopped by a debugger, not halted or swapped out with its partition (R72, R448). -/
def waveLive (s : State) (w : Wave) : Bool := !w.stopped && decide ((kgetD {} s.partitions w.partition).swap < 2)

/-- Wake the parts of a live wave whose waits are over. -/
def settleWave (s : State) (w : Wave) : Wave :=
  if waveLive s w then
    { w with parts := w.parts.map fun p => if !p.halted && waitOver s w p then wakePart (cycleOf s (coreOf w.key)) p else p }
  else w

/-! ## Answered fault records (R303, R407) -/

/-- The records of a list that are not answered. -/
def stillOpen (s : State) (p : Nat) (ids : List Nat) : List Nat := ids.filter (recordOpen s p)

/-- Engine operations that stopped for fault service go on. -/
def settleEngines (s : State) : State :=
  admitCopies { s with
    copies := kmap (fun _ (x : Copy) => { x with waits := stillOpen s x.owner.partition x.waits }) s.copies,
    pairs := kmap (fun _ (x : Xpair) => { x with waits := stillOpen s x.owner.partition x.waits }) s.pairs,
    rays := kmap (fun _ (x : Xray) =>
      { x with lanes := x.lanes.map fun y => { y with waits := stillOpen s x.owner.partition y.waits } }) s.rays }

/-! ## Everything at once -/

/-- The parts that take PREEMPT in place of a wait (R69). A ready part takes it at its word boundary, behind a synchronous cause of its next
word (R221; `Sys2Proof.Machine.preemptReady`). -/
def preempted (s : State) : List (Nat × Nat) :=
  s.waves.flatMap fun e =>
    if waveLive s e.2 then (e.2.parts.filter fun p => takesPreempt e.2 p && decide (p.wait ≠ .ready)).map fun p => (e.1, p.q) else []

/-- What changes by itself before the next event: PREEMPT is taken in waits, engines and parts whose conditions hold go on, and draws
advance. -/
def settle (s : State) : State :=
  let s := advanceDraws (settleEngines s)
  let s := (preempted s).foldl (fun s k => takePreempt k.1 k.2 s) s
  { s with waves := kmap (fun _ w => settleWave s w) s.waves }

end Sys2Proof.Machine
end

