-- ==== Sys2Proof/Machine/Session.lean ====
section
/-! DEFINITION. The passes of a MEASURE session (R453 to R455), the periodic SUMMARY record (R447), and the register scrubber (R108). -/

namespace Sys2Proof.Machine

/-! ## A pass ends (R453 to R455) -/

/-- Every grid that the pass has run has ended, and its record queues are flushed. -/
def passOver (s : State) (gid : Nat) (g : Grid) : Bool := g.session.isSome && !g.more && gridEnded s gid g

/-- The sum of counter `j` over the cores that ran the pass. -/
def passCounter (s : State) (x : Session) (j : Nat) : Nat := x.cores.foldl (fun n c => n + pmcCount s c j) 0

/-- The counters of the pass in the session record. -/
def recordCounters (p ctx : Nat) (x : Session) (s : State) : State :=
  (List.range 4).foldl (fun s j => rawWrite s p ctx (x.reca + 64 + 32 * (x.pass - 1) + 8 * j) (bytesOfNat 8 (passCounter s x j))) s

/-- The SHA-512 over the listed pages' contents, in list order. -/
def pagesHash (s : State) (p ctx : Nat) (x : Session) : Nat := beNat (sha512 (x.pages.flatMap fun a => rawRead s p ctx a 65536))

/-- The session after the comparison with pass 1 (R454). -/
def comparePass (hash : Nat) (x : Session) : Session :=
  if x.pass = 1 then { x with sigs := x.cur, hash := hash }
  else { x with pathmis := x.pathmis || decide (x.cur ≠ x.sigs), datamis := x.datamis || decide (hash ≠ x.hash) }

/-- Bytes 0 to 7 of the session record (R455): an aborted pass has not been completed. -/
def sessionHead (x : Session) : List Byte :=
  bytesOfNat 1 (if x.aborted then 2 else if x.full then 1 else 0) ++ bytesOfNat 1 (b2n x.pathmis + 2 * b2n x.datamis) ++
  bytesOfNat 1 (x.pass - b2n x.aborted) ++ bytesOfNat 1 0 ++ bytesOfNat 4 x.pages.length

/-- The captured pages are restored from the save area (R453). -/
def restorePages (p ctx : Nat) (x : Session) (s : State) : State :=
  x.pages.zipIdx.foldl (fun s y => rawWrite s p ctx y.1 (rawRead s p ctx (x.savea + 65536 * y.2) 65536)) s

/-- The next pass starts: the pages are restored, the L1s and L2s hold no old copy, and the pointer of R50 is reset. Cached code stays, as
R244 lists no pass among what changes it. -/
def nextPass (gid : Nat) (g : Grid) (x : Session) (s : State) : State :=
  let s := restorePages g.partition g.launch.ctxid x s
  let s := (partitionCores s g.partition).foldl (fun s c => physAcquire s c 5) s
  let s := modPartition g.partition (fun y => { y with ptr := x.ptr }) s
  s.modGrid gid fun g =>
    { g with session := some { x with pass := x.pass + 1, cur := [], cores := [] }, placed := 0, ended := 0, flushed := false }

/-- A pass has ended: its counters and its comparison are recorded, and the next pass starts or the session ends. -/
def endPass (gid : Nat) (g : Grid) (x : Session) (s : State) : State :=
  let ctx := g.launch.ctxid
  let s := recordCounters g.partition ctx x (performGrid g s)
  let x := comparePass (pagesHash s g.partition ctx x) x
  let x := { x with aborted := decide (g.status ≠ 0x0100) }
  let s := rawWrite s g.partition ctx x.reca (sessionHead x)
  if x.aborted || x.full || decide (x.groups ≤ x.pass) then s.modGrid gid fun g => { g with session := none }
  else nextPass gid g x s

/-- REPLAY_PASS (R453): the end of a pass of a grid's session; its record queues are flushed first. -/
def execReplayPass (grid : Nat) (s : State) : Out :=
  .next (match kget s.grids grid with
    | none => s
    | some g =>
      if g.session.isSome && !g.more && decide (g.ended = g.total) then
        let s := if g.flushed then s else flushAll grid s
        match kget s.grids grid with
        | none => s
        | some g =>
          match g.session with
          | some x => if passOver s grid g then endPass grid g x s else s
          | none => s
      else s)

/-! ## The periodic SUMMARY record (R447) -/

/-- Periods of 2^16 cycles for which the wave has been resident. -/
def residence (s : State) (w : Wave) : Nat := waveCycles s w / 65536

/-- TRACE_SUMMARY_TIMER (R447): a matching wave that is not selected writes a SUMMARY. -/
def execTraceSummaryTimer (wave : Nat) (s : State) : Out :=
  .next (match s.wave wave with
    | none => s
    | some w =>
      if !w.stopped && decide (w.sumMark < residence s w) then
        (traceSummary wave s).modWave wave fun w => { w with sumMark := residence s w }
      else s)

/-! ## The scrubber (R108) -/

/-- The scrubber of a core of the device has corrected a word: more than 4,096 within 1 s retire it (R471). -/
def noteScrub (core : Nat) (s : State) : State :=
  if core < 256 then
    s.modCore core fun c =>
      let ts := (c.scrubs.filter fun t => s.time < t + 10 ^ 9) ++ [s.time]
      { c with scrubs := ts, retiring := if 4096 < ts.length then c.retiring.or (some 1) else c.retiring }
  else s

/-- SCRUB_PASS (R108): the scrubber reads register word `reg` of a lane: 0 sound; 1 corrected, which changes no value and leaves no error
for a part's read to find; 2 uncorrectable, which marks the word poisoned. Only the main vector file is scrubbed. -/
def execScrubPass (wave reg lane found : Nat) (s : State) : Out :=
  .next (match s.wave wave with
    | none => s
    | some w =>
      if decide (found = 2) && decide (reg < w.vbound) && decide (lane < w.width) && !(w.poison.contains (reg * 64 + lane)) then
        s.modWave wave fun w => { w with poison := w.poison ++ [reg * 64 + lane], flaws := w.flaws.filter (· ≠ reg * 64 + lane) }
      else if w.flaws.contains (reg * 64 + lane) || (decide (found = 1) && decide (reg < w.vbound) && decide (lane < w.width)) then
        noteScrub (coreOf wave) (s.modWave wave fun w => { w with flaws := w.flaws.filter (· ≠ reg * 64 + lane) })
      else s)

end Sys2Proof.Machine
end

