-- ==== Sys2Proof/Machine/Mailbox.lean ====
section
/-! DEFINITION. The mailboxes (R451, R468): a command's input and output, and its result. A command finishes within its event, but for
PARTUNDEF, which runs until its wipe is complete (log 42). -/

namespace Sys2Proof.Machine

/-- A byte range of MBDATA. -/
def mbBytes (m : Mailbox) (off n : Nat) : List Byte := m.data.readN off n

/-- A little-endian field of MBDATA. -/
def mbNum (m : Mailbox) (off n : Nat) : Nat := natOfBytes (mbBytes m off n)

/-- MBDATA is zero from an offset up to another. -/
def mbZero (m : Mailbox) (lo hi : Nat) : Bool := m.data.all fun c => !(decide (lo ≤ c.1) && decide (c.1 < hi))

/-- A command finishes with a result and its output. -/
def mbDone (result : Nat) (out : List Byte) (m : Mailbox) : Mailbox :=
  { m with busy := false, result := result, outlen := out.length, data := m.data.writeN 0 out }

/-- What a command comes to: a state with its output, or a result code. -/
abbrev MbRes := Except Nat (State × List Byte)

/-- A command of the management mailbox finishes, if it does not go on. -/
def finishMbox (r : MbRes) (s : State) : State :=
  match r with
  | .ok (s, out) => if s.dev.mbox.busy then s else { s with dev := { s.dev with mbox := mbDone 0 out s.dev.mbox } }
  | .error code => { s with dev := { s.dev with mbox := mbDone code [] s.dev.mbox } }

/-- A command of the debug port finishes. -/
def finishDbox (r : MbRes) (s : State) : State :=
  match r with
  | .ok (s, out) => { s with dev := { s.dev with dbox := mbDone 0 out s.dev.dbox } }
  | .error code => { s with dev := { s.dev with dbox := mbDone code [] s.dev.dbox } }

/-- A COMMAND OF THE MANAGEMENT MAILBOX (R468). `arg` holds bits [31:8] of MBCMD: ARG, and above it bits that must be zero; `okArg` says
which ARG the command accepts. A command that arrives while one is running is lost. In RECOVERY only FWLOAD is taken; before READY, and
without power, nothing answers (log 42). -/
def mgmtCommand (fw : Bool) (okArg : Nat → Bool) (f : Nat → State → MbRes) (arg : Nat) (s : State) : Out :=
  .next (
    if s.dev.off || !(s.dev.ready || s.dev.recovery) then s
    else if s.dev.mbox.busy then { s with dev := { s.dev with mbox := { s.dev.mbox with lost := true } } }
    else if s.dev.recovery && !fw then finishMbox (.error 3) s
    else if 256 ≤ arg ∨ okArg arg = false then finishMbox (.error 2) s
    else finishMbox (f arg s) s)

/-- A COMMAND OF THE DEBUG PORT (R451): DENIED while the port is closed or where the token's scope lacks the bit. -/
def debugCommand (scope : Nat) (f : Nat → State → MbRes) (arg : Nat) (s : State) : Out :=
  .next (
    if !s.dev.ready then s
    else if s.dev.dbox.busy then { s with dev := { s.dev with dbox := { s.dev.dbox with lost := true } } }
    else if !s.dev.dbgOpen || !bitOf s.dev.dbgScope scope then finishDbox (.error 1) s
    else if 256 ≤ arg then finishDbox (.error 2) s
    else finishDbox (f arg s) s)

end Sys2Proof.Machine
end

