-- ==== Sys2Proof/Machine/Debug.lean ====
section
/-! DEFINITION. The debugger's commands (R113, R448 to R451). -/

namespace Sys2Proof.Machine

/-! ## Names in MBDATA (R451) -/

/-- The wave that bytes 0 to 2 name. -/
def dbgKey (s : State) : Nat := mbNum s.dev.dbox 0 2 * 64 + mbNum s.dev.dbox 2 1

/-- A register's name. -/
inductive DbgReg where
  | v (r : Nat)
  | w (r : Nat)
  | sel (e : Nat)
  | g (r : Nat)
deriving DecidableEq, Repr

/-- The register that bytes 4 to 7 name, if there is one. -/
def dbgReg (s : State) (w : Wave) : Option DbgReg :=
  let m := s.dev.dbox
  let code := mbNum m 5 1
  match mbNum m 4 1 with
  | 0 =>
    if code < w.regs then some (.v code)
    else if 0x60 ≤ code ∧ code < 0x78 then some (.w (code - 0x60)) else none
  | 1 => if selListed (mbNum m 6 2) then some (.sel (mbNum m 6 2)) else none
  | 2 => if code < 32 then some (.g code) else none
  | _ => none

/-- The lanes that bytes 8 to 15 name. -/
def dbgLanes (s : State) (w : Wave) : List Nat := (List.range w.width).filter fun l => bitOf (mbNum s.dev.dbox 8 8) l

/-- What a part sees, as if it issued a word in the lanes named. -/
def dbgCtx (s : State) (w : Wave) (p : Part) : Ctx :=
  { key := w.key, q := p.q, w := w, p := p, z := false, act := dbgLanes s w, b0 := s.dev.b0 }

/-- A command on a stopped wave: BADARG without the wave, STATE while it runs. -/
def onStopped (f : Wave → State → MbRes) (s : State) : MbRes :=
  match s.wave (dbgKey s) with
  | none => .error 2
  | some w => if w.stopped then f w s else .error 3

/-- A command on a part of a stopped wave. -/
def onPart (f : Wave → Part → State → MbRes) (s : State) : MbRes :=
  onStopped (fun w s =>
    match partAt w.parts (mbNum s.dev.dbox 3 1) with
    | none => .error 2
    | some p => f w p s) s

/-- A command on a register of a stopped wave. -/
def onReg (f : Wave → Part → DbgReg → State → MbRes) (s : State) : MbRes :=
  onPart (fun w p s =>
    match dbgReg s w with
    | none => .error 2
    | some r => f w p r s) s

/-! ## STOP, RESUME, STEP (R448, R450, R451) -/

/-- A part of the wave is inside a prefix group that it goes on issuing, so that the wave stops only behind it (R448). -/
def midPrefix (w : Wave) : Bool := w.parts.any fun p => decide (p.wait = .ready) && p.prefixPc.isSome

/-- Stop a wave for a command. -/
def stopByCommand (key : Nat) (s : State) : MbRes :=
  match s.wave key with
  | none => .error 2
  | some w =>
    if w.stopped then .ok (s, [])
    else if midPrefix w then .ok (s.modWave key fun w => { w with stopReq := some 0 }, [])
    else .ok (stopWave key 0 s, [])

/-- STOP (R448). -/
def execStop (arg : Nat) (s : State) : Out := debugCommand 0 (fun _ s => stopByCommand (dbgKey s) s) arg s

/-- A stopped wave goes on: what it counts in cycles stood still (R450). -/
def resumeWave (key : Nat) (s : State) : State :=
  s.modWave key fun w =>
    if w.stopped then thawWave (cycleOf s (coreOf key)) { w with stopped := false, stepping := none, stopReq := none } else w

/-- RESUME (R451): every part goes on. -/
def execResume (arg : Nat) (s : State) : Out :=
  debugCommand 0 (fun _ s => if (s.wave (dbgKey s)).isSome then .ok (resumeWave (dbgKey s) s, []) else .error 2) arg s

/-- The buddy of a part that waits for a fuse counts as present when it stands at the same PC (R451). -/
def presentBuddy (p x : Part) : Part :=
  if decide (x.n = p.n) && decide (x.q = buddyOf p.q p.n) && decide (x.pc = p.pc) then
    match p.wait with
    | .fuse k d c => if inFuse x then x else { x with wait := .fuse k d c }
    | _ => x
  else x

/-- A part in a wait re-evaluates the wait once. -/
def reWait (s : State) (w : Wave) (p : Part) : State :=
  match p.wait with
  | .fuse _ _ _ =>
    let w' := { w with parts := w.parts.map (presentBuddy p) }
    let buddy := partAt w'.parts (buddyOf p.q p.n)
    if buddy.any (fun b => if p.q < b.q then canFuse p b else canFuse b p) then fuseNow w.key { s with waves := kput s.waves w.key w' }
    else fuseNow w.key s
  | .sleep _ => s.modPart w.key p.q fun x => if sleepDue (cycleOf s (coreOf w.key)) x then wakePart (cycleOf s (coreOf w.key)) x else x
  | _ => s.modPart w.key p.q fun x => if waitOver s w x then wakePart (cycleOf s (coreOf w.key)) x else x

/-- A PREEMPT that arrived during the stop is delivered (R450). -/
def deliverPreempt (w : Wave) (p : Part) (s : State) : State :=
  if p.preempt then
    (takePreempt w.key p.q (s.modWave w.key fun w => { w with stopped := false })).modWave w.key fun x => { x with stopped := true }
  else s

/-- The part of a wave that holds a quad. -/
def partHolding (w : Wave) (q : Nat) : Option Part := w.parts.find? fun p => decide (p.q ≤ q) && decide (q < p.q + p.n)

/-- One part of a stopped wave re-evaluates its wait, if it is in one, and issues one word unless it still waits (R451, log 45); then
the wave stops with cause 2. -/
def stepPart (w : Wave) (p : Part) (s : State) : MbRes :=
  let s := deliverPreempt w p s
  match s.wave w.key, s.part w.key p.q with
  | some w, some p =>
    let s := if p.wait = .ready then s else reWait s w p
    match (s.wave w.key).bind fun w => partHolding w p.q with
    | some p =>
      if p.wait = .ready then .ok (s.modWave w.key fun w => { w with stepping := some p.q, stopReq := some 2 }, [])
      else .ok (stopWave w.key 2 s, [])
    | none => .ok (s, [])
  | _, _ => .ok (s, [])

/-- STEP (R451). -/
def execStep (arg : Nat) (s : State) : Out := debugCommand 0 (fun _ s => onPart stepPart s) arg s

/-! ## RDREG, WRREG, DROP (R113, R451) -/

/-- The value of a register in a lane. -/
def dbgRead (s : State) (w : Wave) (p : Part) (l : Nat) : DbgReg → Nat
  | .v r => (w.getV r l).toNat
  | .w r => (p.getW r).val.toNat
  | .sel e => selRead s (dbgCtx s w p) e l % 2 ^ 32
  | .g r => (cellsGet 0#32 (kgetD { grid := 0, lin := 0, x := 0, y := 0, z := 0, core := 0, waves := [] } s.wgs w.wg).g r).toNat

/-- A writeback of the register is outstanding or held in a lane (R113). -/
def dbgPending (w : Wave) (p : Part) (l : Nat) : DbgReg → Bool
  | .v r => w.parts.any fun x => x.pend.any fun y => y.vals.any fun v => decide (v.1 = l) && decide (v.2.1 = r)
  | .w r => p.pend.any fun y => y.uvals.any fun u => decide (u.1 = r)
  | _ => false

/-- The output of RDREG. -/
def rdregOut (w : Wave) (p : Part) (r : DbgReg) (s : State) : List Byte :=
  let ls := dbgLanes s w
  bytesOfNat 8 (laneMask (ls.filter fun l => dbgPending w p l r)) ++
  (List.range w.width).flatMap fun l => bytesOfNat 4 (if ls.contains l then dbgRead s w p l r else 0)

/-- RDREG (R451). -/
def execRdreg (arg : Nat) (s : State) : Out :=
  debugCommand 0 (fun _ s => onReg (fun w p r s => .ok (s, rdregOut w p r s)) s) arg s

/-- The value for a lane in the input of WRREG. -/
def dbgInput (s : State) (l : Nat) : Word := BitVec.ofNat 32 (mbNum s.dev.dbox (16 + 4 * l) 4)

/-- Write a register (R113). One that takes one value takes that of the lowest lane named (log 45). A GREAD sees the write of a g register
three cycles later, as it sees one that a wave makes (log 91). -/
def dbgWrite (w : Wave) (p : Part) (r : DbgReg) (s : State) : MbRes :=
  let ls := dbgLanes s w
  let one := ls.head?.map (dbgInput s)
  match r with
  | .v k => .ok (s.modWave w.key fun w => ls.foldl (fun w l => w.setV k l (dbgInput s l)) w, [])
  | .w k => .ok (match one with
    | some x => s.modPart w.key p.q fun p => p.setW k x
    | none => s, [])
  | .g k => .ok (match one with
    | some x => s.modWg w.wg (gwriteWg (cycleOf s (coreOf w.key)) k x)
    | none => s, [])
  | .sel e =>
    if !selWritable e then .error 2
    else if 0x30 ≤ e then .ok (s.modWave w.key fun w => writeX (e - 0x30) (dbgInput s) w ls, [])
    else .ok (match one with
      | none => s
      | some x =>
        if e = 0x16 then s.modWave w.key fun w => { w with rto := x.toNat % 2 ^ 14 }
        else s.modPart w.key p.q (selPart e (x.zeroExtend 64)), [])

/-- WRREG (R113). -/
def execWrreg (arg : Nat) (s : State) : Out := debugCommand 0 (fun _ s => onReg dbgWrite s) arg s

/-- A writeback without its writes to a register in the lanes named; a sleeping lane that has nothing left to write sleeps no more. -/
def dropPend (ls : List Nat) (r : DbgReg) (x : Pend) : Pend :=
  match r with
  | .v k =>
    let vals := x.vals.filter fun v => !(ls.contains v.1 && decide (v.2.1 = k))
    { x with vals := vals, sleepers := x.sleepers.filter fun y => vals.any fun v => decide (v.1 = y.lane) }
  | .w k => { x with uvals := if ls.isEmpty then x.uvals else x.uvals.filter fun u => decide (u.1 ≠ k) }
  | _ => x

/-- Cancel the writebacks of a register in the lanes named: of a vector register in every part, of a uniform register in the named
part. -/
def dbgDrop (w : Wave) (p : Part) (r : DbgReg) (s : State) : MbRes :=
  let ls := dbgLanes s w
  let f := fun (x : Part) =>
    match r with
    | .w _ => if x.q = p.q then { x with pend := (x.pend.map (dropPend ls r)).filter fun y => !y.empty } else x
    | _ => { x with pend := (x.pend.map (dropPend ls r)).filter fun y => !y.empty }
  .ok (s.modWave w.key fun w => { w with parts := w.parts.map f }, [])

/-- DROP (R113). -/
def execDrop (arg : Nat) (s : State) : Out := debugCommand 0 (fun _ s => onReg dbgDrop s) arg s

/-! ## BPEN, REPORT, MEMRD, MEMWR (R451) -/

/-- The context that bytes 0 to 2 name: partition and id. -/
def dbgContext (s : State) : Option (Nat × Nat) :=
  let id := mbNum s.dev.dbox 0 2
  let p := mbNum s.dev.dbox 2 1
  if id < 4096 ∧ (kget s.contexts (ctxKey p id)).isSome then some (p, id) else none

/-- BPEN (R451): enables or disables BKPT stops for a context. -/
def execBpen (arg : Nat) (s : State) : Out :=
  debugCommand 0 (fun a s =>
    match dbgContext s with
    | none => .error 2
    | some (p, id) => if a ≤ 1 then .ok (s.modCtx p id fun c => { c with bkpt := decide (a = 1) }, []) else .error 2) arg s

/-- The stop report of a wave: of a stopped one, as at its stop. -/
def reportOut (w : Wave) (s : State) : List Byte :=
  let s := if w.stopped then { s with time := w.stopTime } else s
  w.parts.flatMap (stopRecord s w (if w.stopped then w.stopCause else 0))

/-- REPORT (R451). -/
def execReport (arg : Nat) (s : State) : Out :=
  debugCommand 0 (fun _ s =>
    match s.wave (dbgKey s) with
    | none => .error 2
    | some w => .ok (s, reportOut w s)) arg s

/-- The address and the length of MEMRD and MEMWR; BADARG for a context or a length that is none. -/
def dbgRange (s : State) : Option (Nat × Nat × Nat × Nat) :=
  let n := mbNum s.dev.dbox 16 4
  if 1 ≤ n ∧ n ≤ 4032 then (dbgContext s).map fun c => (c.1, c.2, mbNum s.dev.dbox 8 8, n) else none

/-- MEMRD (R451): bytes through the context's translation. -/
def execMemrd (arg : Nat) (s : State) : Out :=
  debugCommand 2 (fun _ s =>
    match dbgRange s with
    | none => .error 2
    | some (p, c, a, n) =>
      match ctlRead p c a n s with
      | none => .error 6
      | some r => .ok r) arg s

/-- MEMWR (R451): bytes from byte 64 of MBDATA through the context's translation. -/
def execMemwr (arg : Nat) (s : State) : Out :=
  debugCommand 2 (fun _ s =>
    match dbgRange s with
    | none => .error 2
    | some (p, c, a, n) =>
      match ctlWrite p c a (mbBytes s.dev.dbox 64 n) s with
      | none => .error 6
      | some s => .ok (s, [])) arg s

end Sys2Proof.Machine
end

