-- ==== Sys2Proof/Machine/Identity.lean ====
section
/-! DEFINITION. Reset and bring-up (R467), the lifecycle and identity commands (R468, R473 to R475). -/

namespace Sys2Proof.Machine

/-! ## Reset and bring-up (R243, R467) -/

/-- What fuses and the board flash hold over a full reset; everything else of the device block starts anew. -/
def fusedDevice (d : Device) : Device :=
  { form := d.form, life := d.life, b0 := d.b0, spare0 := d.spare0, spare1 := d.spare1, lost := d.lost, hbmx := d.hbmx, key := d.key, burns := d.burns,
    image := d.image, trips := d.trips, spentStacks := d.spentStacks }

/-- What the repair map says of a core. -/
def fusedCore (c : Core) : Core := { retired := c.retired, spare := c.spare }

/-- Every SRAM and all HBM are zero, every register is at its reset value, and no grid is left (R243, R467); host and peer memory, the key
store, which no reset is listed to change (R244), and the counters of the model, stay. -/
def wipedState (s : State) : State :=
  { State.reset with
    agenda := s.agenda, fresh := s.fresh, nextId := s.nextId, host := s.host, peer := s.peer, keys := s.keys,
    muted := s.muted, dev := fusedDevice s.dev,
    cores := (kmap (fun _ c => fusedCore c) s.cores).filter fun e => e.2.retired || e.2.spare }

/-- The digest of the firmware image that bring-up loads. -/
def imageDigest (s : State) : Nat := s.dev.image.getD Config.shippedImage.toNat

/-- Steps 3 to 7 of R467: M0 and M1 are measured and READY is set. -/
def bringUp (s : State) : State :=
  let s := extendMeas 1 (Config.fuseDigest s.dev.burns).toNat (extendMeas 0 (imageDigest s) s)
  { s with dev := { s.dev with ready := true, recovery := false } }

/-- A FULL RESET (R467): the wipe, then bring-up; a BLANK device waits for provisioning, and a firmware check that fails leaves the
device in RECOVERY. -/
def fullReset (fwOk : Bool) (s : State) : State :=
  let s := wipedState s
  if s.dev.life = 0 then s
  else if fwOk then bringUp s
  else { s with dev := { s.dev with recovery := true } }

/-- FULL_RESET (R467): 0 power-on, 1 function-level reset, 2 lifecycle change; 3 is a power-on whose firmware load or check fails
(log 43). Only a power-on restarts a package without power (R466). -/
def execFullReset (kind : Nat) (s : State) : Out :=
  .next (if s.dev.off && !(kind == 0 || kind == 3) then s else fullReset (kind != 3) s)

/-- A lifecycle transition burns fuses, empties the key slots and is a full reset (R244, R473). -/
def lifecycleTo (t : Nat) (s : State) : State :=
  fullReset true { s with keys := [], dev := { s.dev with life := t, burns := s.dev.burns + 1, key := s.dev.key && decide (t ≠ 4) } }

/-- PROVISIONING (R473): the identity is fused and the device key generated. -/
def execProvisioning (s : State) : Out :=
  .next (if s.dev.life = 0 then lifecycleTo 1 { s with dev := { s.dev with key := true } } else s)

/-! ## Firmware (R467, R468) -/

/-- No ARG. -/
def noArg (a : Nat) : Bool := a == 0

/-- FWLOAD: the image is stored if its signature and version pass; in RECOVERY bring-up goes on with it (log 43). -/
def fwloadCommand (s : State) : MbRes :=
  let a := mbNum s.dev.mbox 0 8
  let n := mbNum s.dev.mbox 8 8
  if 2 ^ 26 < n then .error 2
  else if 2 ^ 64 < a + n then .error 6
  else
    let img := physReadN s .system .host 0 a n
    let digest := beNat (sha512 img)
    if Config.verify 0 digest (natOfBytes img) then
      let s := { s with dev := { s.dev with image := some digest } }
      .ok (if s.dev.recovery then bringUp s else s, [])
    else .error 4

/-- FWLOAD (R468). -/
def execFwload (arg : Nat) (s : State) : Out := mgmtCommand true noArg (fun _ s => fwloadCommand s) arg s

/-! ## Quotes (R474) -/

/-- A measurement register. -/
def measBytes (s : State) (i : Nat) : List Byte := beBytes 64 (cellsGet 0 s.dev.meas i)

/-- Bytes 0 to 351 of a quote. -/
def quoteBody (s : State) (nonce : List Byte) (part : Option Nat) : List Byte :=
  nonce ++ bytesOfNat 16 Config.deviceId.toNat ++ bytesOfNat 1 s.dev.life ++ bytesOfNat 1 (b2n s.dev.b0) ++
  bytesOfNat 2 (Config.firmwareVersion (imageDigest s)).toNat ++ bytesOfNat 1 (b2n part.isSome) ++ bytesOfNat 1 (part.getD 0) ++
  bytesOfNat 10 0 ++
  (match part with
   | none => measBytes s 0 ++ measBytes s 1 ++ measBytes s 2 ++ measBytes s 3
   | some p => measBytes s 0 ++ measBytes s 1 ++ measBytes s (4 + p) ++ bytesOfNat 64 0)

/-- The effect of ATTEST: the signature of the device key is a free value (log 2). -/
def attestCommand (a : Nat) (s : State) : MbRes :=
  let part := if a / 128 = 1 then some (a % 8) else none
  if s.dev.life = 4 ∨ s.dev.key = false then .error 3
  else if part.any fun p => (kget s.partitions p).isNone then .error 3
  else
    let body := quoteBody s (mbBytes s.dev.mbox 0 64) part
    let r := freshSignature s
    .ok (r.1, body ++ r.2 ++ bytesOfNat 4 0)

/-- ATTEST (R468, R474). -/
def execAttest (arg : Nat) (s : State) : Out := mgmtCommand false (fun a => decide (a / 8 % 16 = 0)) attestCommand arg s

/-! ## Challenge and tokens (R475) -/

/-- The 52 bytes of the challenge with nonce `n`. -/
def challengeBytes (s : State) (n : Nat) : List Byte :=
  bytesOfNat 16 Config.deviceId.toNat ++ bytesOfNat 1 s.dev.life ++ bytesOfNat 3 0 ++ beBytes 32 (Config.freeBits n).toNat

/-- CHALLENGE (R475): a fresh nonce, valid for 60 s. -/
def execChallenge (arg : Nat) (s : State) : Out :=
  mgmtCommand false noArg (fun _ s =>
    let n := s.fresh
    let s := { s with fresh := n + 1, dev := { s.dev with nonce := some (n, s.time + 60000000000) } }
    .ok (s, challengeBytes s n)) arg s

/-- The nonce has expired. -/
def nonceOld (s : State) : Bool := s.dev.nonce.any fun x => decide (x.2 ≤ s.time)

/-- NONCE_EXPIRY (R475). -/
def execNonceExpiry (s : State) : Out := .next (if nonceOld s then { s with dev := { s.dev with nonce := none } } else s)

/-- The scope of the token in MBDATA. -/
def tokenScope (s : State) : Nat := mbNum s.dev.mbox 0 4

/-- The token in MBDATA answers the challenge: a live nonce and a signature of the Tirlor debug key. -/
def tokenGood (s : State) : Bool :=
  match s.dev.nonce with
  | none => false
  | some (n, t) =>
    decide (s.time < t) &&
    Config.verify 1 (beNat (sha512 (challengeBytes s n ++ mbBytes s.dev.mbox 0 4))) (beNat (mbBytes s.dev.mbox 4 132))

/-- Scope bits [30:3] are zero. -/
def scopeOk (s : State) : Bool := decide (tokenScope s / 8 % 2 ^ 28 = 0)

/-- Every grid of every partition ends with status LIFECYCLE (R475): the packets and launches that wait for one are told. -/
def endEveryGrid (s : State) : State :=
  s.grids.foldl (fun s e => if e.2.parent.isNone then resultToAll e.1 e.2 0x0112 0 s else s) s

/-- UNLOCK: steps 4 to 7 of R475. -/
def unlockDevice (s : State) : State :=
  let scope := tokenScope s
  let digest := beNat (sha512 (mbBytes s.dev.mbox 0 136))
  let s := lifecycleTo 3 (endEveryGrid s)
  let s := extendMeas 2 digest s
  { s with dev := { s.dev with dbgOpen := true, dbgScope := scope } }

/-- UNLOCK (R475): a refused token changes nothing. -/
def execUnlock (arg : Nat) (s : State) : Out :=
  mgmtCommand false noArg (fun _ s =>
    if !scopeOk s then .error 2
    else if s.dev.life ≠ 2 ∨ bitOf (tokenScope s) 31 ∨ tokenGood s = false then .error 1
    else .ok (unlockDevice s, [])) arg s

/-- RELOCK (R473): burns the next round-trip fuse. -/
def execRelock (arg : Nat) (s : State) : Out :=
  mgmtCommand false noArg (fun _ s =>
    if s.dev.life ≠ 3 ∨ s.dev.trips = 0 then .error 3
    else .ok (lifecycleTo 2 { s with dev := { s.dev with trips := s.dev.trips - 1 } }, [])) arg s

/-- LIFECYCLE (R473): PROVISIONED to SECURE, or any state but BLANK to RMA with a token of that scope. -/
def execLifecycle (arg : Nat) (s : State) : Out :=
  mgmtCommand false (fun a => decide (a ≤ 4)) (fun a s =>
    if a = 2 ∧ s.dev.life = 1 then .ok (lifecycleTo 2 s, [])
    else if a = 4 ∧ s.dev.life ≠ 0 ∧ s.dev.life ≠ 4 then
      if !scopeOk s then .error 2
      else if bitOf (tokenScope s) 31 && tokenGood s then .ok (lifecycleTo 4 s, []) else .error 1
    else .error 3) arg s

end Sys2Proof.Machine
end

