-- ==== Sys2Proof/Machine/Platform.lean ====
section
/-! DEFINITION. Partitions and contexts (R469, R470), health (R49, R471, R472), power (R461 to R466), the Span links (R459, R460) and what
the host and peers do to the device's memory (R457, R458). -/

namespace Sys2Proof.Machine

/-! ## SETPRIV, PARTDEF, PARTUNDEF (R468, R469) -/

/-- SETPRIV (R468): QCTL.PRIV of a host queue. -/
def execSetpriv (arg : Nat) (s : State) : Out :=
  mgmtCommand false noArg (fun _ s =>
    let q := mbNum s.dev.mbox 0 2
    let v := mbNum s.dev.mbox 2 1
    if q < 1024 ∧ v ≤ 1 then .ok (s.modQueue q fun x => { x with priv := decide (v = 1) }, []) else .error 2) arg s

/-- A partition number. -/
def partArg (a : Nat) : Bool := decide (a < 8)

/-- Two ranges overlap. -/
def extentsMeet (a n b m : Nat) : Bool := decide (a < b + m) && decide (b < a + n) && decide (n ≠ 0) && decide (m ≠ 0)

/-- 512 MiB. -/
def half : Nat := 2 ^ 29

/-- The input of PARTDEF as a partition; none for a field out of range. -/
def partInput (m : Mailbox) : Option Partition :=
  let x : Partition :=
    { gmask := mbNum m 0 1, vbudget := mbNum m 1 1, aplocal := mbNum m 8 8, apshared := mbNum m 8 8 + 2 ^ 32,
      apcluster := mbNum m 8 8 + 2 ^ 33, hbmBase := mbNum m 16 8, hbmSize := mbNum m 24 8 }
  if x.gmask ≠ 0 ∧ x.vbudget ≤ 96 ∧ mbZero m 2 8 ∧ mbZero m 32 4096 ∧ x.aplocal % 2 ^ 34 = 0 ∧ x.aplocal < 2 ^ 53 ∧
      x.hbmBase % half = 0 ∧ x.hbmSize % half = 0 ∧ x.hbmBase + x.hbmSize ≤ Config.hbmSize then some x else none

/-- A granule or a part of the HBM range belongs to another configured partition. -/
def partInUse (s : State) (x : Partition) : Bool :=
  s.partitions.any fun e =>
    decide (Nat.land e.2.gmask x.gmask ≠ 0) || extentsMeet e.2.hbmBase e.2.hbmSize x.hbmBase x.hbmSize

/-- PARTDEF (R469): configures a partition. -/
def execPartdef (arg : Nat) (s : State) : Out :=
  mgmtCommand false partArg (fun p s =>
    match partInput s.dev.mbox with
    | none => .error 2
    | some x =>
      if (kget s.partitions p).isSome then .error 3
      else if partInUse s x then .error 5
      else .ok ({ s with partitions := kput s.partitions p { x with clock := nominalMhz s.dev.form } }, [])) arg s

/-- PARTUNDEF (R469): it runs until the wipe is complete. -/
def execPartundef (arg : Nat) (s : State) : Out :=
  mgmtCommand false partArg (fun p s =>
    if (kget s.partitions p).isNone then .error 3
    else if hasWorkgroups s p || s.queues.any (fun e => decide (e.2.part = p) && e.2.en) then .error 5
    else
      let s := modPartition p (fun x => { x with wiping := true, undef := true }) s
      .ok ({ s with dev := { s.dev with mbox := { s.dev.mbox with busy := true } } }, [])) arg s

/-! ## CTXDEF, CTXUNDEF (R470) -/

/-- The level-1 table lies in HBM, outside the ranges of other partitions. -/
def rootOk (s : State) (p a : Nat) : Bool :=
  decide (a % 65536 = 0) && decide (a + 65536 ≤ Config.hbmSize) &&
  s.partitions.all fun e => decide (e.1 = p) || !extentsMeet e.2.hbmBase e.2.hbmSize a 65536

/-- CTXDEF (R470): defines a context. -/
def execCtxdef (arg : Nat) (s : State) : Out :=
  mgmtCommand false partArg (fun p s =>
    let m := s.dev.mbox
    let id := mbNum m 0 2
    let root := mbNum m 8 8
    if (kget s.partitions p).isNone ∨ (id < 4096 ∧ (kget s.contexts (ctxKey p id)).isSome) then .error 3
    else if 4096 ≤ id ∨ mbZero m 2 8 = false ∨ mbZero m 16 4096 = false ∨ rootOk s p root = false then .error 2
    else .ok ({ s with contexts := kput s.contexts (ctxKey p id) { root := root } }, [])) arg s

/-- A grid of the context is resident or waits for placement. -/
def ctxInUse (s : State) (p id : Nat) : Bool :=
  s.grids.any fun e => decide (e.2.partition = p) && decide (e.2.launch.ctxid = id) && (e.2.more || decide (e.2.ended < e.2.total))

/-- CTXUNDEF (R470): ends a context. -/
def execCtxundef (arg : Nat) (s : State) : Out :=
  mgmtCommand false partArg (fun p s =>
    let id := mbNum s.dev.mbox 0 2
    if 4096 ≤ id then .error 2
    else if (kget s.partitions p).isNone ∨ (kget s.contexts (ctxKey p id)).isNone then .error 3
    else if ctxInUse s p id then .error 5
    else .ok (endContext p id s, [])) arg s

/-! ## Replacement requests (R456, R472) -/

/-- The HEALTH word. -/
def healthWord (d : Device) : Nat := deviceWord d 0x08

/-- The device asks to be replaced: cause 1 a core, 2 a pseudo-channel, 3 a Span port. -/
def svcreq (cause : Nat) (s : State) : State :=
  let s := { s with dev := { s.dev with svcreq := true } }
  postEvent s.dev.hevq { status := 0x0201, fsum := cause, count := healthWord s.dev } s

/-! ## Cores and HBM (R49, R471) -/

/-- CORE_THERMAL_TRIP (R49): a core at 115 °C or above is removed from placement. -/
def execCoreThermalTrip (core temp : Nat) (s : State) : Out :=
  .next (if core < 256 ∧ 115 ≤ temp then noteTemp core temp (s.modCore core fun c => { c with tripped := true }) else s)

/-- CORE_THERMAL_RECOVER (R49): below 105 °C it returns. -/
def execCoreThermalRecover (core temp : Nat) (s : State) : Out :=
  .next (if core < 256 ∧ temp < 105 then noteTemp core temp (s.modCore core fun c => { c with tripped := false }) else s)

/-- A workgroup of a retired core is saved whole, or parked at once at a phase boundary. -/
def evictWg (id : Nat) (s : State) : State :=
  match kget s.wgs id with
  | none => s
  | some g =>
    if atBoundary s g then
      parkWg id ((haltWg id s).modCore g.core fun c => { c with phaseQueue := c.phaseQueue.filter (· ≠ id) })
    else haltWg id s

/-- The core that takes a retired core's number: a spare, tested and zeroed, in its cluster (R471). -/
def spareCore (c : Core) : Core := { spare := true, reserved := c.reserved, phaseQueue := c.phaseQueue, rounds := c.rounds }

/-- Nothing of what a core's own stores held is found under its number any more: code, translations, copies and locks of its L1 (R471). -/
def zeroCore (core : Nat) (s : State) : State :=
  { s with
    icache := s.icache.filter (fun b => b.core ≠ core), loopBufs := s.loopBufs.filter (fun e => e.1 / 4 ≠ core),
    tlb := s.tlb.filter (fun t => t.place ≠ .core core), stale := s.stale.filter (fun x => x.who ≠ .l1 core),
    l1Locks := s.l1Locks.filter (fun k => k.place ≠ core) }

/-- RETIRE A CORE (R471): its workgroups are saved, and a spare of its die takes its place; without one the number is out of service. -/
def retireCore (core : Nat) (s : State) : State :=
  let ids := (s.wgs.filter fun e => decide (e.2.core = core) && !e.2.ended).map (·.1)
  let s := zeroCore core (ids.foldl (fun s id => evictWg id s) s)
  let d : Device := { s.dev with burns := s.dev.burns + 1 }
  if core < 128 ∧ d.spare0 ≠ 0 then
    let t := s.modCore core spareCore
    { t with dev := { d with spare0 := d.spare0 - 1 } }
  else if 128 ≤ core ∧ d.spare1 ≠ 0 then
    let t := s.modCore core spareCore
    { t with dev := { d with spare1 := d.spare1 - 1 } }
  else
    let t := s.modCore core fun (c : Core) => { c with retired := true, retiring := none }
    svcreq 1 { t with dev := { d with lost := d.lost + 1 } }

/-- CORE_RETIRE (R471): cause 0 UEREG, 1 the scrubber, 2 a self-test. A core that a DEADLINE launch holds is retired when the launch has
completed, unless the cause was UEREG. -/
def execCoreRetire (core cause : Nat) (s : State) : Out :=
  .next (
    let c := s.core core
    if 256 ≤ core ∨ c.retired then s
    else if cause ≠ 0 ∧ c.reserved.isSome then s.modCore core fun c => { c with retiring := some cause }
    else retireCore core s)

/-- The HBM stacks of the package: four on each of the four hub dies (R3). -/
def hbmStacks : Nat := 16

/-- PSEUDO_CHANNEL_FAIL (R471, R472): it is copied to its stack's spare; without one the device asks to be replaced. A stack that the
package does not have is nobody's. -/
def execPseudoChannelFail (stack ch : Nat) (s : State) : Out :=
  .next (
    let d := s.dev
    if hbmStacks ≤ stack then s
    else if d.spentStacks.contains stack then svcreq 2 s
    else { s with dev := { d with spentStacks := d.spentStacks ++ [stack], hbmx := d.hbmx + 1, copying := d.copying ++ [(stack, ch)] } })

/-- PSEUDO_CHANNEL_COPY_DONE (R471). -/
def execPseudoChannelCopyDone (stack ch : Nat) (s : State) : Out :=
  .next { s with dev := { s.dev with copying := s.dev.copying.filter (· ≠ (stack, ch)) } }

/-! ## Power and temperature (R461 to R466) -/

/-- PACKAGE_THERMAL_TRIP (R466): at 125 °C power is removed from every island. -/
def execPackageThermalTrip (_die temp : Nat) (s : State) : Out :=
  .next (if 125 ≤ temp then { s with dev := { s.dev with off := true, ready := false } } else s)

/-- DROOP_STRETCH (R461): an island's supply has fallen to 427 mV, 5 % below its set point, and its clock stretches. The event counts for
the weight classes of its cores for 10 µs (R49). -/
def execDroopStretch (island mv : Nat) (s : State) : Out :=
  .next (if island < 64 ∧ mv ≤ 427 then
      { s with dev := { s.dev with stretched := addVec island s.dev.stretched, droops := s.dev.droops ++ [(island, s.time)] } }
    else s)

/-- DROOP_STRETCH_END (R461). -/
def execDroopStretchEnd (island : Nat) (s : State) : Out :=
  .next { s with dev := { s.dev with stretched := s.dev.stretched.filter (· ≠ island) } }

/-- CAPHIT of a partition. -/
def setCaphit (p : Nat) (s : State) : State :=
  { s with dev := { s.dev with caps := s.dev.caps.set p ((s.dev.caps.getD p (0, false)).1, true) } }

/-- The cap of a configured partition in W, if it has one: CAPW; and on SPM-9140-E, where CAPW is 0, an equal share of what the nonzero
ones leave of the board's 700 W (R10, R464). -/
def powerCap (s : State) (p : Nat) : Option Nat :=
  let capw := fun q => (s.dev.caps.getD q (0, false)).1
  if capw p ≠ 0 then some (capw p)
  else if s.dev.form = .boardE then
    some ((capLimit s.dev.form - capSum s s.dev.caps) / max 1 (s.partitions.filter fun e => capw e.1 = 0).length)
  else none

/-- POWER_WINDOW (R465): a partition above its cap steps its clocks down to 0.85 GHz and then throttles; below 95 % of it, or without one,
they return to nominal, which is the form's (R2, R10). -/
def execPowerWindow (p watts : Nat) (s : State) : Out :=
  .next (match kget s.partitions p with
    | none => s
    | some x =>
      let nominal := nominalMhz s.dev.form
      let clock := min x.clock nominal
      if (powerCap s p).any fun cap => decide (cap < watts) then
        if 850 < clock then modPartition p (fun x => { x with clock := max 850 (clock - 25) }) s
        else setCaphit p (modPartition p (fun x => { x with throttled := true }) s)
      else if (powerCap s p).all fun cap => decide (100 * watts < 95 * cap) then
        modPartition p (fun x => { x with clock := min nominal (clock + 25), throttled := false }) s
      else s)

/-! ## Span (R456, R459, R460, R472) -/

/-- FLIT_RETRY (R460): the flit is replayed, in order and once; nothing else changes. -/
def execFlitRetry (_port : Nat) (s : State) : Out := .next s

/-- A port is down. -/
def portDown (s : State) (k : Nat) : Bool := (kget s.dev.ports k).isSome

/-- The port on which ASTP stores to a peer travel: the first one up from d mod 32 (R460). -/
def astpPort (s : State) (d : Nat) : Option Nat := ((List.range 32).map fun i => (d + i) % 32).find? fun k => !portDown s k

/-- The peers whose stores travel on a port. -/
def portPeers (s : State) (k : Nat) : List Nat := ((s.astps.map (·.dev)).eraseDups).filter fun d => decide (astpPort s d = some k)

/-- Every store on its way to a peer is lost. -/
def losePeer (s : State) (d : Nat) : State := (s.astps.filter fun x => x.dev = d).foldl (fun s _ => astpAnswer d false s) s

/-- A port is counted down. -/
def countDown (k : Nat) (s : State) : State :=
  if k < 32 ∧ s.dev.spanen ∧ portDown s k = false then
    { s with dev := { s.dev with ports := kput s.dev.ports k (s.time, false), spandn := s.dev.spandn + 1 } }
  else s

/-- SPAN_PORT_DOWN (R460): the stores on their way on the port make their grids' status PEER_FAIL. -/
def execSpanPortDown (port : Nat) (s : State) : Out :=
  .next (if port < 32 ∧ s.dev.spanen ∧ portDown s port = false then
      countDown port ((portPeers s port).foldl losePeer s)
    else s)

/-- SPAN_PORT_TRAINED (R459): a port comes up, or is counted down. -/
def execSpanPortTrained (port : Nat) (up : Bool) (s : State) : Out :=
  .next (if up then
      (if portDown s port then { s with dev := { s.dev with ports := kdel s.dev.ports port, spandn := s.dev.spandn - 1 } } else s)
    else countDown port s)

/-- A port has been down for 60 s, and that has not been reported. -/
def portOverdue (s : State) (k : Nat) : Bool :=
  match kget s.dev.ports k with
  | some (t, reported) => s.dev.spanen && !reported && decide (t + 60000000000 ≤ s.time)
  | none => false

/-- SPAN_DOWN_SVCREQ (R472). -/
def execSpanDownSvcreq (port : Nat) (s : State) : Out :=
  .next (if portOverdue s port then
      svcreq 3 { s with dev := { s.dev with ports := kmod (fun x => (x.1, true)) s.dev.ports port } }
    else s)

/-! ## Others' accesses to the device's memory (R262, R457, R458, R459) -/

/-- PEER_REQUEST (R459): a peer's load (0) changes nothing; its store (1), atomic (2) or ASTP (3) leaves the bytes of `data` in the
device's memory, performed at the DEVICE point. -/
def execPeerRequest (kind addr data size : Nat) (s : State) : Out :=
  .next (if s.dev.ready && s.dev.spanen && decide (1 ≤ kind ∧ kind ≤ 3) && decide (addr + size ≤ Config.hbmSize) then
      physWrite s .hbm 0 addr (bytesOfNat size data)
    else s)

/-- The page is owned by a partition that holds a bound key slot, in SECURE state (R458). -/
def hiddenFromHost (s : State) (a : Nat) : Bool :=
  decide (s.dev.life = 2) &&
  s.partitions.any fun e => decide (e.2.hbmBase ≤ a) && decide (a < e.2.hbmBase + e.2.hbmSize) && holdsKey s e.1

/-- What a CXL.mem read returns: a byte as HBM holds it, or poisoned data (R458). -/
def cxlRead (s : State) (a : Nat) : Option Byte :=
  if hiddenFromHost s a || poisoned s .hbm a then none else some (physRead s .device .hbm 0 a)

/-- CXLMEM_READ (R458): a read changes nothing. -/
def execCxlmemRead (_addr : Nat) (s : State) : Out := .next s

/-- CXLMEM_WRITE (R458): a byte as given, at the DEVICE point; discarded in a page that the host may not alter. -/
def execCxlmemWrite (addr byte : Nat) (s : State) : Out :=
  .next (if hiddenFromHost s addr || decide (Config.hbmSize ≤ addr) then s else physWrite s .hbm 0 addr (bytesOfNat 1 byte))

/-- HOST_SNOOP (R457): what the device's caches hold of a host line goes to the home agent. -/
def execHostSnoop (addr : Nat) (s : State) : Out :=
  .next (performStores s (fun x => x.overlaps .host (addr / 64 * 64) 64) 5)

end Sys2Proof.Machine
end

