-- ==== Sys2Proof/Machine/Backing.lean ====
section
/-! DEFINITION. The register backing store (R104, R105, R109): the registers of a wave from VBOUND up have their home in memory. A
register that is written is written there too; a store by any agent to the home makes the register unpredictable; and a wave that accesses
an area that is no longer present and writable is terminated. -/

namespace Sys2Proof.Machine

/-- Some register of the wave lives in its backing store. -/
def Wave.backed (w : Wave) : Bool := decide (w.vbound < w.regs)

/-- The registers of the backing store: register * 64 + lane. -/
def backedCells (w : Wave) : List Nat :=
  (List.range (w.regs - w.vbound)).flatMap fun i => (List.range w.width).map fun l => (w.vbound + i) * 64 + l

/-- The address of a lane's copy of a register (R104). -/
def homeAddr (w : Wave) (k : Nat) : Nat := (w.backing + ((k / 64 - w.vbound) * w.width + k % 64) * 4) % 2 ^ 55

/-- Write a register's home; none where the page is not present and writable. -/
def homeWrite (w : Wave) (k : Nat) (x : Word) (s : State) : Option State :=
  match xlate s (partyOf w) accWrite (homeAddr w k) with
  | (s, .byte m a tag _) => some (physWrite s m tag a (bytesOfNat 4 x.toNat))
  | _ => none

/-- A register's home is among the bytes of a list of writes. -/
def homeTouched (ws : List (Mem × Nat × Nat)) (s : State) (w : Wave) (k : Nat) : Bool :=
  match rawPlace s w.partition w.ctx (homeAddr w k) with
  | some (m, a, _) => ws.any fun x => decide (x.1 = m) && decide (x.2.1 < a + 4) && decide (a < x.2.1 + x.2.2)
  | none => false

/-- One register after a step that made the writes `ws`: `old` is the wave before the step, if it was there. A changed register is
written home; a register into whose home a store went takes a free value, whatever bytes it stored (R105). The flag says that a home could
not be written. -/
def syncCell (old : Option Wave) (w : Wave) (ws : List (Mem × Nat × Nat)) (r : State × Bool) (k : Nat) : State × Bool :=
  let x := cellsGet 0#32 w.v k
  let changed := match old with
    | none => true
    | some o => decide (cellsGet 0#32 o.v k ≠ x)
  if changed then
    match homeWrite w k x r.1 with
    | some s => (s, r.2)
    | none => (r.1, true)
  else if !ws.isEmpty && homeTouched ws r.1 w k then
    let s := r.1
    (({ s with fresh := s.fresh + 1 }).modWave w.key fun y => y.setV (k / 64) (k % 64) (Config.freeWord s.fresh), r.2)
  else r

/-- A wave after a step from `s0`. An area that cannot be written terminates the wave (R105). -/
def syncWave (s0 : State) (ws : List (Mem × Nat × Nat)) (s : State) (w : Wave) : State :=
  let old := (s0.wave w.key).filter fun o => decide (o.grid = w.grid) && decide (o.wg = w.wg) && decide (o.index = w.index)
  let r := (backedCells w).foldl (syncCell old w ws) (s, false)
  if r.2 then terminateWave w.key 0x0106 0x22 none r.1 else r.1

/-- The homes of all backed registers after a step from `s0` to `s`. -/
def syncHomes (s0 s : State) : State :=
  match s.waves.filter (fun e => e.2.backed) with
  | [] => s
  | ws => ws.foldl (fun t e => syncWave s0 s.touched t e.2) s

/-- What follows every step from `s`: the homes of backed registers (R105), and since when FUSEDEAD's conditions hold (R32). -/
def afterStep (s t : State) : State :=
  let t := { syncHomes s t with touched := [] }
  { t with waves := kmap (fun _ w => watchDead t w) t.waves }

/-- The same for the outcome of a step. -/
def keepHomes (s : State) : Out → Out
  | .next t => .next (afterStep s t)
  | .fault f => .fault f
  | .refused r => .refused r

/-- A page of a wave's area is present and writable. -/
def homePageOk (s : State) (w : Wave) (va : Nat) : Bool :=
  match walk s w.partition w.ctx (va % 2 ^ 55) with
  | .leaf pte _ level => (leafKind s (partyOf w) accWrite pte level (va % 2 ^ 55)).isNone
  | _ => false

/-- Every page of the wave's area is present and writable (R105). -/
def homesOk (s : State) (w : Wave) : Bool :=
  (cutAt 65536 w.backing ((w.regs - w.vbound) * w.width * 4)).all fun x => homePageOk s w (w.backing + x.1)

/-- The registers whose home lies in a poisoned sector (R109). -/
def poisonedHomes (s : State) (w : Wave) : List Nat :=
  if s.hbmPoison.isEmpty then []
  else (backedCells w).filter fun k => match rawPlace s w.partition w.ctx (homeAddr w k) with
    | some (m, a, _) => poisoned s m a
    | none => false

/-- Before a word of a wave issues: whether its area is lost, and which of its registers are poisoned at home. -/
def viewHomes (key : Nat) (s : State) : State :=
  match s.wave key with
  | none => s
  | some w =>
    if w.backed then
      s.modWave key fun w =>
        { w with areaLost := !(homesOk s w), poison := w.poison ++ (poisonedHomes s w).filter fun k => !(w.poison.contains k) }
    else s

end Sys2Proof.Machine
end

