-- ==== Sys2Proof/Machine/Schedule.lean ====
section
/-! DEFINITION. The device's own event that is due when nothing is told to move (log 1): each entry asks one of the conditions that the
rules give an event, and names the event. -/

namespace Sys2Proof.Machine

noncomputable section

/-- The first due entry of a map. -/
def dueIn {α : Type} (f : Nat → α → Option Instr) (m : KMap α) : Option Instr := m.findSome? fun e => f e.1 e.2

/-- An event, if it is due. -/
def dueIf (b : Bool) (i : Instr) : Option Instr := if b then some i else none

/-! ## Packets and host queues (R308 to R316) -/

/-- A LAUNCH packet may start: the dispatcher has room, and the other packet of its pair has been fetched (R337). -/
def launchDue (s : State) (q : Nat) (p : Packet) : Bool :=
  mayStart s q p.seq false && pairReady s q p && decide (hostWaiting s (s.queue q).part < 1024)

/-- A packet that starts grids may start. -/
def gridPacketDue (s : State) (q seq : Nat) : Bool := mayStart s q seq false && decide (hostWaiting s (s.queue q).part < 1024)

/-- The CONFIG event of an item. -/
def configEvent (q seq : Nat) : Nat → Instr
  | 1 => .configPredl q seq
  | 2 => .configLkquota q seq
  | 3 => .configL2Ways q seq
  | 4 => .configLlcWays q seq
  | _ => .configAgemax q seq

/-- The PARTCTL event of an op. -/
def partctlEvent (q seq : Nat) : Nat → Instr
  | 1 => .partctlSwapout q seq
  | 2 => .partctlSwapin q seq
  | 3 => .partctlWipe q seq
  | 4 => .partctlKeybind q seq
  | 5 => .partctlKeyzero q seq
  | _ => .partctlPreempt q seq

/-- A started WAITSIG has its value, or can no longer read it. -/
def waitsigReady (s : State) (q : Nat) (p : Packet) : Bool :=
  match packetRead q (numAt p.bytes 16 8) 8 s with
  | none => true
  | some r => signalMeets (numAt p.bytes 32 1) (natOfBytes r.2) (numAt p.bytes 24 8)

/-- What is due of a packet. -/
def packetDue (s : State) (q : Nat) (p : Packet) : Option Instr :=
  match p.ty with
  | 1 => dueIf (launchDue s q p) (.launchPacket q p.seq)
  | 2 => dueIf (gridPacketDue s q p.seq) (.bundle q p.seq)
  | 3 => dueIf (gridPacketDue s q p.seq) (.draw q p.seq)
  | 4 => dueIf (mayStart s q p.seq false && (schedCore s (s.queue q).part).isSome) (.copysched q p.seq)
  | 5 => dueIf (mayStart s q p.seq true) (.signalPacket q p.seq)
  | 6 =>
    if p.started then
      if waitsigReady s q p then some (.waitsigPoll q p.seq)
      else dueIf (p.deadline.any fun t => decide (t ≤ s.time)) (.waitsigTimeout q p.seq)
    else dueIf (mayStart s q p.seq false) (.waitsig q p.seq)
  | 7 => dueIf (mayStart s q p.seq true) (.timestamp q p.seq)
  | 8 => dueIf (mayStart s q p.seq true) (.eventPacket q p.seq)
  | 9 => dueIf (mayStart s q p.seq true || (p.started && barrierOver s p)) (.qbarrier q p.seq)
  | 0x0A => dueIf (mayStart s q p.seq true) (configEvent q p.seq (numAt p.bytes 16 1))
  | 0x0B => dueIf (mayStart s q p.seq true) (partctlEvent q p.seq (numAt p.bytes 16 1))
  | _ => none

/-- What is due of a host queue. -/
def queueDue (s : State) (q : Nat) (x : HostQueue) : Option Instr :=
  ((x.packets.findSome? (packetDue s q)).or (dueIf (queueDrained x) (.queueStopped q))).or
    (dueIf (x.resetting && x.packets.isEmpty) (.queueResetComplete q))

/-- A packet to be fetched. -/
def fetchDue (s : State) : Option Instr := dueIn (fun p _ => (nextQueue s p).map .packetFetch) s.partitions

/-- What is due of an event queue. -/
def evqDue (s : State) (e : Nat) (x : Evq) : Option Instr :=
  (dueIf (holdDue s.time x && !x.due) (.eventHoldmax e)).or
    (dueIf (x.due && ((s.unmasked.contains x.vec && !s.funcMask) || !s.msixPending.contains x.vec)) (.msixSend e))

/-! ## Grids (R41, R332, R453) -/

/-- A grid whose workgroups have ended completes: its record queues are to be flushed, or nothing of it is left and its record fits. -/
def gridDue (s : State) (gid : Nat) (g : Grid) : Option Instr :=
  if g.ended = g.total ∧ g.more = false then
    match g.session with
    | none => dueIf (!g.flushed || (gridEnded s gid g && (gridRecord gid g (blAfter (partyOfGrid g) g.bl (freeElided g (performGrid g s)))).isSome))
        (.gridComplete gid)
    | some _ => dueIf (!g.flushed || passOver s gid g) (.replayPass gid)
  else none

/-! ## Waves (R25, R28, R32, R59, R214, R327, R334, R431, R447) -/

/-- The timeout of a CSLEEP has passed (R327). -/
def ringTimeout (time : Nat) (p : Part) : Bool :=
  match p.wait with
  | .cond (.ring _ (some t)) => decide (t ≤ time)
  | _ => false

/-- The timeout of a SWAITC has passed (R334). -/
def signalTimeout (time : Nat) (p : Part) : Bool :=
  match p.wait with
  | .cond (.signal _ _ _ (some t)) => decide (t ≤ time)
  | _ => false

/-- A ready part has reached AGEMAX. -/
def ageDue (s : State) (w : Wave) (p : Part) : Bool :=
  decide (p.wait = .ready) && !p.halted && !p.class4 && decide (agemaxOf s w ≤ partAge s w p)

/-- What is due of a part of a live wave. -/
def partDue (s : State) (key : Nat) (w : Wave) (p : Part) : Option Instr :=
  ([dueIf (deadlineDue s w p) (.rcvDeadline key p.q), dueIf (sleepDue (cycleOf s (coreOf key)) p) (.sleepExpiry key p.q),
    dueIf (timeDue s.time p) (.sleepwExpiry key p.q), dueIf (ringTimeout s.time p) (.csleepTimeout key p.q),
    dueIf (signalTimeout s.time p) (.swaitcTimeout key p.q), dueIf (missSplit s w p).isSome (.missSplit key p.q),
    dueIf (ageDue s w p) (.agemaxReached key p.q)]).findSome? id

/-- What is due of a live wave. -/
def waveDue (s : State) (key : Nat) (w : Wave) : Option Instr :=
  if waveLive s w then
    ((dueIf (w.parts.any (widthLost w) || fusedeadDue s w) (.fusedead key)).or (w.parts.findSome? (partDue s key w))).or
      (dueIf (decide (w.sumMark < residence s w)) (.traceSummaryTimer key))
  else none

/-! ## What lands (R61, R185, R190, R249, R278) -/

/-- A sleeping lane of a quad can take its value; of lanes that wait for tickets, only the first. -/
def sleeperDue (s : State) (key : Nat) (x : Pend) : Option Nat :=
  ((x.sleepers.take 1 ++ x.sleepers.filter fun k => !k.ticket).find? fun k => (takeFor (coreOf key) k s).2.isSome).map fun k => k.lane / 4

/-- A quad of a writeback that may land. -/
def landDue (x : Pend) : Option Nat :=
  ((x.vals.map fun (v : Nat × Nat × Word) => v.1 / 4) ++ (if x.uvals.isEmpty then [] else [x.ulane / 4])).find? fun k => mayLand k x

/-- What is due of a writeback of a part: a sleeping lane takes nothing while its part is halted or its partition swapped (R278). -/
def pendDue (s : State) (key : Nat) (live : Bool) (x : Pend) : Option Instr :=
  if x.isLoad then ((if live then sleeperDue s key x else none).or (landDue x)).map fun k => .loadWriteback key x.id k
  else (x.quads.head?.or (if x.uvals.isEmpty then none else some (x.ulane / 4))).map fun k => .sfnResult key x.id k

/-- The lowest tile with an operation pending. -/
def tileDue (key : Nat) (w : Wave) : Option Instr :=
  ((List.range w.tiles.length).find? fun t => !(w.tile t).ops.isEmpty).map fun t => .matrixComplete key t

/-- What lands in a wave that has not been swapped out. -/
def landingDue (s : State) (key : Nat) (w : Wave) : Option Instr :=
  let swap := (kgetD {} s.partitions w.partition).swap
  if swap = 3 then none
  else (w.parts.findSome? fun p => p.pend.findSome? (pendDue s key (decide (swap < 2) && !p.halted))).or (tileDue key w)

/-! ## Engines (R288, R300, R408, R416) -/

/-- A copy request completes, and its record can be posted. -/
def copyOver (s : State) (id : Nat) (x : Copy) : Bool :=
  match copyEnd s id x with
  | none => false
  | some st =>
    match x.queue with
    | some n => (postCq x.owner.grid n (copyRec x st) s).isSome
    | none => true

/-- What is due of a copy request. -/
def copyDue (s : State) (id : Nat) (x : Copy) : Option Instr :=
  (dueIf (copyMoves s id x) (.copySectorDeliver id)).or (dueIf (copyOver s id x) (.copyComplete id))

/-- What is due of an XPAIR traversal. -/
def pairDue (s : State) (id : Nat) (x : Xpair) : Option Instr :=
  (dueIf (x.cancelled || (!x.saved && travMoves s x.owner.partition x.waits && (x.yields || x.result.isNone))) (.xpairEmit id)).or
    (dueIf (x.result.isSome && decide ((kgetD {} s.partitions x.owner.partition).swap ≠ 3)) (.xpairComplete id))

/-- What is due of the rays of an XRAY. -/
def rayDue (s : State) (id : Nat) (x : Xray) : Option Instr :=
  (x.lanes.find? fun y => travMoves s x.owner.partition y.waits).map fun y => .xrayComplete id y.lane

/-! ## Workgroups, cores and partitions (R43, R66, R69 to R72, R243, R302, R471) -/

/-- A workgroup whose parts have all been parked or halted and drained, one of them at least. -/
def saveDue (s : State) (g : Wg) : Bool :=
  let ws := wgWaves s g
  !ws.isEmpty && ws.all fun w => w.parts.all partParked && waveDrained w

/-- The partition of a workgroup runs: it is neither halted nor swapped out (R72). -/
def wgLive (s : State) (g : Wg) : Bool := decide ((kgetD {} s.partitions (kgetD {} s.grids g.grid).partition).swap < 2)

/-- What is due of a workgroup. -/
def wgDue (s : State) (id : Nat) (g : Wg) : Option Instr :=
  if !wgLive s g then none
  else ((dueIf (g.predl.any fun t => decide (t ≤ s.time)) (.predlExpiry id)).or (dueIf (saveDue s g) (.hardwareSave id))).or
    (dueIf (overBudget s g && !g.ended && !g.waves.isEmpty) (.budgetExceeded id))

/-- The head of a core's phase queue can go on. -/
def phaseDue (s : State) (c : Core) : Bool :=
  match c.phaseQueue with
  | [] => false
  | id :: _ => match kget s.wgs id with
    | some g => wgLive s g
    | none => true

/-- What is due of a core. -/
def coreDue (s : State) (core : Nat) (c : Core) : Option Instr :=
  (dueIf (phaseDue s c) (.phaseResume core)).or
    (if c.retired || (c.reserved.isSome && decide (c.retiring ≠ some 0)) then none else c.retiring.map (.coreRetire core))

/-- What is due of a partition: its swap, its wipe, a placement. -/
def partitionDue (s : State) (p : Nat) (x : Partition) : Option Instr :=
  ((dueIf ((x.swap == 1 && !holdsDeadline s p) || (x.swap == 2 && swapDrained s p) || x.swap == 4) (.shadowExchange p)).or
    (dueIf x.wiping (.wipeComplete p))).or (dueIf (placement s p).isSome (.workgroupPlace p))

/-- What is due of a draw. -/
def drawDue (s : State) (did : Nat) (d : Draw) : Option Instr :=
  ((dueIf (d.dom.isSome && tessDue s d) (.tessellate did)).or (dueIf (releasable s d) (.primitiveRelease did))).or
    ((d.bins.find? fun b => rasterDue s did d b.1).map fun b => .rasterLaunch did b.1)

/-- What is due of the device block. -/
def deviceDue (s : State) : Option Instr :=
  ((dueIf (nonceOld s) .nonceExpiry).or (dueIf (weighDue s) (.weightClassUpdate 0 (s.core 0).temp 0))).or
    ((s.dev.ports.find? fun e => portOverdue s e.1).map fun e => .spanDownSvcreq e.1)

/-! ## The due event -/

/-- THE DUE EVENT: nothing without power; bring-up before anything else; then host packets and events, what ends, waits whose
time has come, what lands, engines, and what is placed. -/
def dueEvent (s : State) : Option Instr :=
  if s.dev.off then none
  else if !s.dev.ready then dueIf (!s.dev.recovery && decide (s.dev.life ≠ 0)) (.fullReset 0)
  else
    ([fetchDue, fun s => dueIn (queueDue s) s.queues, fun s => dueIn (evqDue s) s.evqs, fun s => dueIn (gridDue s) s.grids,
      fun s => dueIn (waveDue s) s.waves, fun s => dueIn (landingDue s) s.waves, fun s => dueIn (copyDue s) s.copies,
      fun s => dueIn (pairDue s) s.pairs, fun s => dueIn (rayDue s) s.rays, fun s => dueIn (wgDue s) s.wgs,
      fun s => dueIn (coreDue s) s.cores, fun s => dueIn (partitionDue s) s.partitions, fun s => dueIn (drawDue s) s.draws,
      deviceDue]).findSome? (· s)

end

end Sys2Proof.Machine
end

