-- ==== Sys2Proof/Machine/Dispatch.lean ====
section
/-! DEFINITION. What an instruction or event does: one direct call for each constructor of `Instr`. -/

namespace Sys2Proof.Machine

/-- The meaning of an instruction word, issued by the part that holds the issue port, or of an event. -/
def exec (i : Instr) (s : State) : Host.Outcome State Fault Refusal :=
  match i with
  | .nop z => Sys2Proof.Machine.execNop z s
  | .iadd z d a b => Sys2Proof.Machine.execIadd z d a b s
  | .isub z d a b => Sys2Proof.Machine.execIsub z d a b s
  | .imul z d a b => Sys2Proof.Machine.execImul z d a b s
  | .imulh z d a b => Sys2Proof.Machine.execImulh z d a b s
  | .imin z d a b => Sys2Proof.Machine.execImin z d a b s
  | .imax z d a b => Sys2Proof.Machine.execImax z d a b s
  | .ineg z d a => Sys2Proof.Machine.execIneg z d a s
  | .iabs z d a => Sys2Proof.Machine.execIabs z d a s
  | .and z d a b => Sys2Proof.Machine.execAnd z d a b s
  | .or z d a b => Sys2Proof.Machine.execOr z d a b s
  | .xor z d a b => Sys2Proof.Machine.execXor z d a b s
  | .andn z d a b => Sys2Proof.Machine.execAndn z d a b s
  | .shl z d a b => Sys2Proof.Machine.execShl z d a b s
  | .shr z d a b => Sys2Proof.Machine.execShr z d a b s
  | .sar z d a b => Sys2Proof.Machine.execSar z d a b s
  | .rot z d a b => Sys2Proof.Machine.execRot z d a b s
  | .clz z d a => Sys2Proof.Machine.execClz z d a s
  | .ctz z d a => Sys2Proof.Machine.execCtz z d a s
  | .popc z d a => Sys2Proof.Machine.execPopc z d a s
  | .brev z d a => Sys2Proof.Machine.execBrev z d a s
  | .bil3 z d a b => Sys2Proof.Machine.execBil3 z d a b s
  | .bdil3 z d a b => Sys2Proof.Machine.execBdil3 z d a b s
  | .bil2 z d a b => Sys2Proof.Machine.execBil2 z d a b s
  | .bdil2 z d a => Sys2Proof.Machine.execBdil2 z d a s
  | .bfx z d a b => Sys2Proof.Machine.execBfx z d a b s
  | .bfxs z d a b => Sys2Proof.Machine.execBfxs z d a b s
  | .bfi z d a b => Sys2Proof.Machine.execBfi z d a b s
  | .mov z d a => Sys2Proof.Machine.execMov z d a s
  | .sel z d a b => Sys2Proof.Machine.execSel z d a b s
  | .perm z d a b => Sys2Proof.Machine.execPerm z d a b s
  | .imad z d a b => Sys2Proof.Machine.execImad z d a b s
  | .imadh z d a b => Sys2Proof.Machine.execImadh z d a b s
  | .idot4 z d a b => Sys2Proof.Machine.execIdot4 z d a b s
  | .isad z d a b => Sys2Proof.Machine.execIsad z d a b s
  | .icmpEq z d a b => Sys2Proof.Machine.execIcmpEq z d a b s
  | .icmpNe z d a b => Sys2Proof.Machine.execIcmpNe z d a b s
  | .icmpLt z d a b => Sys2Proof.Machine.execIcmpLt z d a b s
  | .icmpLe z d a b => Sys2Proof.Machine.execIcmpLe z d a b s
  | .icmpGt z d a b => Sys2Proof.Machine.execIcmpGt z d a b s
  | .icmpGe z d a b => Sys2Proof.Machine.execIcmpGe z d a b s
  | .icmpLtn z d a b => Sys2Proof.Machine.execIcmpLtn z d a b s
  | .icmpLen z d a b => Sys2Proof.Machine.execIcmpLen z d a b s
  | .icmpGtn z d a b => Sys2Proof.Machine.execIcmpGtn z d a b s
  | .icmpGen z d a b => Sys2Proof.Machine.execIcmpGen z d a b s
  | .icmpTstz z d a b => Sys2Proof.Machine.execIcmpTstz z d a b s
  | .icmpTstnz z d a b => Sys2Proof.Machine.execIcmpTstnz z d a b s
  | .add64 z d a b => Sys2Proof.Machine.execAdd64 z d a b s
  | .sub64 z d a b => Sys2Proof.Machine.execSub64 z d a b s
  | .lea1 z d a b => Sys2Proof.Machine.execLea1 z d a b s
  | .lea2 z d a b => Sys2Proof.Machine.execLea2 z d a b s
  | .lea4 z d a b => Sys2Proof.Machine.execLea4 z d a b s
  | .lea8 z d a b => Sys2Proof.Machine.execLea8 z d a b s
  | .lea16 z d a b => Sys2Proof.Machine.execLea16 z d a b s
  | .mov64 z d a => Sys2Proof.Machine.execMov64 z d a s
  | .shl64 z d a b => Sys2Proof.Machine.execShl64 z d a b s
  | .shr64 z d a b => Sys2Proof.Machine.execShr64 z d a b s
  | .modeEt z e => Sys2Proof.Machine.execModeEt z e s
  | .modeEt2 z e => Sys2Proof.Machine.execModeEt2 z e s
  | .modeRnd z e => Sys2Proof.Machine.execModeRnd z e s
  | .modeSat z e => Sys2Proof.Machine.execModeSat z e s
  | .modeFtz z e => Sys2Proof.Machine.execModeFtz z e s
  | .modeGuard z g p r => Sys2Proof.Machine.execModeGuard z g p r s
  | .modeFreg z r => Sys2Proof.Machine.execModeFreg z r s
  | .modeSpl z e => Sys2Proof.Machine.execModeSpl z e s
  | .modeUtrap z e => Sys2Proof.Machine.execModeUtrap z e s
  | .modeWord z d => Sys2Proof.Machine.execModeWord z d s
  | .sread z d e => Sys2Proof.Machine.execSread z d e s
  | .swrite z d e => Sys2Proof.Machine.execSwrite z d e s
  | .gread z d k => Sys2Proof.Machine.execGread z d k s
  | .gwrite z d k => Sys2Proof.Machine.execGwrite z d k s
  | .gxchg z d k => Sys2Proof.Machine.execGxchg z d k s
  | .gadd z d k => Sys2Proof.Machine.execGadd z d k s
  | .rgn z a imm => Sys2Proof.Machine.execRgn z a imm s
  | .rgnadd z a imm => Sys2Proof.Machine.execRgnadd z a imm s
  | .kx k => Sys2Proof.Machine.execKx k s
  | .kxw k => Sys2Proof.Machine.execKxw k s
  | .fadd z d a b => Sys2Proof.Machine.execFadd z d a b s
  | .fsub z d a b => Sys2Proof.Machine.execFsub z d a b s
  | .fmul z d a b => Sys2Proof.Machine.execFmul z d a b s
  | .fmin z d a b => Sys2Proof.Machine.execFmin z d a b s
  | .fmax z d a b => Sys2Proof.Machine.execFmax z d a b s
  | .fabs z d a => Sys2Proof.Machine.execFabs z d a s
  | .fneg z d a => Sys2Proof.Machine.execFneg z d a s
  | .fcls z d a => Sys2Proof.Machine.execFcls z d a s
  | .fminm z d a b => Sys2Proof.Machine.execFminm z d a b s
  | .fmaxm z d a b => Sys2Proof.Machine.execFmaxm z d a b s
  | .frnd z d a => Sys2Proof.Machine.execFrnd z d a s
  | .fscl z d a b => Sys2Proof.Machine.execFscl z d a b s
  | .fcpy z d a b => Sys2Proof.Machine.execFcpy z d a b s
  | .ffma z d a b => Sys2Proof.Machine.execFfma z d a b s
  | .ffms z d a b => Sys2Proof.Machine.execFfms z d a b s
  | .fnma z d a b => Sys2Proof.Machine.execFnma z d a b s
  | .fcmpEq z d a b => Sys2Proof.Machine.execFcmpEq z d a b s
  | .fcmpNe z d a b => Sys2Proof.Machine.execFcmpNe z d a b s
  | .fcmpLt z d a b => Sys2Proof.Machine.execFcmpLt z d a b s
  | .fcmpLe z d a b => Sys2Proof.Machine.execFcmpLe z d a b s
  | .fcmpGt z d a b => Sys2Proof.Machine.execFcmpGt z d a b s
  | .fcmpGe z d a b => Sys2Proof.Machine.execFcmpGe z d a b s
  | .fcmpUn z d a b => Sys2Proof.Machine.execFcmpUn z d a b s
  | .fcmpOrd z d a b => Sys2Proof.Machine.execFcmpOrd z d a b s
  | .cvt z d a => Sys2Proof.Machine.execCvt z d a s
  | .cvtz z d a => Sys2Proof.Machine.execCvtz z d a s
  | .cvts z d a => Sys2Proof.Machine.execCvts z d a s
  | .pack2 z d a b => Sys2Proof.Machine.execPack2 z d a b s
  | .unpk z d a => Sys2Proof.Machine.execUnpk z d a s
  | .unpkh z d a => Sys2Proof.Machine.execUnpkh z d a s
  | .nrw z d a b x k => Sys2Proof.Machine.execNrw z d a b x k s
  | .wide z d a b => Sys2Proof.Machine.execWide z d a b s
  | .wide4 z d a b => Sys2Proof.Machine.execWide4 z d a b s
  | .scaleof z d a => Sys2Proof.Machine.execScaleof z d a s
  | .setsc z d a => Sys2Proof.Machine.execSetsc z d a s
  | .shfl z d a b p => Sys2Proof.Machine.execShfl z d a b p s
  | .shflx z d a b p => Sys2Proof.Machine.execShflx z d a b p s
  | .shflu z d a b p => Sys2Proof.Machine.execShflu z d a b p s
  | .shfld z d a b p => Sys2Proof.Machine.execShfld z d a b p s
  | .bcst z d a b p => Sys2Proof.Machine.execBcst z d a b p s
  | .qswz z d a b p => Sys2Proof.Machine.execQswz z d a b p s
  | .ballot z d a p => Sys2Proof.Machine.execBallot z d a p s
  | .vote z d a p => Sys2Proof.Machine.execVote z d a p s
  | .redadd z d a p => Sys2Proof.Machine.execRedadd z d a p s
  | .redmin z d a p => Sys2Proof.Machine.execRedmin z d a p s
  | .redmax z d a p => Sys2Proof.Machine.execRedmax z d a p s
  | .redand z d a p => Sys2Proof.Machine.execRedand z d a p s
  | .redor z d a p => Sys2Proof.Machine.execRedor z d a p s
  | .redxor z d a p => Sys2Proof.Machine.execRedxor z d a p s
  | .scanadd z d a p => Sys2Proof.Machine.execScanadd z d a p s
  | .scanaddx z d a p => Sys2Proof.Machine.execScanaddx z d a p s
  | .rcp z d a k => Sys2Proof.Machine.execRcp z d a k s
  | .rsq z d a k => Sys2Proof.Machine.execRsq z d a k s
  | .sqrt z d a k => Sys2Proof.Machine.execSqrt z d a k s
  | .exp2 z d a k => Sys2Proof.Machine.execExp2 z d a k s
  | .log2 z d a k => Sys2Proof.Machine.execLog2 z d a k s
  | .sin z d a k => Sys2Proof.Machine.execSin z d a k s
  | .cos z d a k => Sys2Proof.Machine.execCos z d a k s
  | .tanh z d a k => Sys2Proof.Machine.execTanh z d a k s
  | .sigm z d a k => Sys2Proof.Machine.execSigm z d a k s
  | .erf z d a k => Sys2Proof.Machine.execErf z d a k s
  | .silu z d a k => Sys2Proof.Machine.execSilu z d a k s
  | .atan z d a k => Sys2Proof.Machine.execAtan z d a k s
  | .sfnResult wave id quad => Sys2Proof.Machine.execSfnResult wave id quad s
  | .mma z t a b v l => Sys2Proof.Machine.execMma z t a b v l s
  | .mmat z t a b v l => Sys2Proof.Machine.execMmat z t a b v l s
  | .mmatSp z t a b v l => Sys2Proof.Machine.execMmatSp z t a b v l s
  | .aclr z t v l => Sys2Proof.Machine.execAclr z t v l s
  | .amovr z t a v l => Sys2Proof.Machine.execAmovr z t a v l s
  | .amovw z t a v l => Sys2Proof.Machine.execAmovw z t a v l s
  | .ascl z t a v l => Sys2Proof.Machine.execAscl z t a v l s
  | .matrixComplete wave tile => Sys2Proof.Machine.execMatrixComplete wave tile s
  | .ld z d a b l => Sys2Proof.Machine.execLd z d a b l s
  | .st z d a b l => Sys2Proof.Machine.execSt z d a b l s
  | .ldv z d a b l => Sys2Proof.Machine.execLdv z d a b l s
  | .ldx z d a imm h n l => Sys2Proof.Machine.execLdx z d a imm h n l s
  | .stx z d a h n l => Sys2Proof.Machine.execStx z d a h n l s
  | .loadWriteback wave id quad => Sys2Proof.Machine.execLoadWriteback wave id quad s
  | .atomAdd z d a c l => Sys2Proof.Machine.execAtomAdd z d a c l s
  | .atomMin z d a c l => Sys2Proof.Machine.execAtomMin z d a c l s
  | .atomMax z d a c l => Sys2Proof.Machine.execAtomMax z d a c l s
  | .atomMinn z d a c l => Sys2Proof.Machine.execAtomMinn z d a c l s
  | .atomMaxn z d a c l => Sys2Proof.Machine.execAtomMaxn z d a c l s
  | .atomAnd z d a c l => Sys2Proof.Machine.execAtomAnd z d a c l s
  | .atomOr z d a c l => Sys2Proof.Machine.execAtomOr z d a c l s
  | .atomXor z d a c l => Sys2Proof.Machine.execAtomXor z d a c l s
  | .atomXchg z d a c l => Sys2Proof.Machine.execAtomXchg z d a c l s
  | .atomCas z d a c l => Sys2Proof.Machine.execAtomCas z d a c l s
  | .atomFadd z d a c l => Sys2Proof.Machine.execAtomFadd z d a c l s
  | .atomIncw z d a c l => Sys2Proof.Machine.execAtomIncw z d a c l s
  | .atomFmin z d a c l => Sys2Proof.Machine.execAtomFmin z d a c l s
  | .fput z d a c l => Sys2Proof.Machine.execFput z d a c l s
  | .fputT z d a c l => Sys2Proof.Machine.execFputT z d a c l s
  | .ftake z d a c l => Sys2Proof.Machine.execFtake z d a c l s
  | .ftakeN z d a c l => Sys2Proof.Machine.execFtakeN z d a c l s
  | .fpeek z d a c l => Sys2Proof.Machine.execFpeek z d a c l s
  | .fclr z a c l => Sys2Proof.Machine.execFclr z a c l s
  | .fenceAcq z e c => Sys2Proof.Machine.execFenceAcq z e c s
  | .fenceRel z e c => Sys2Proof.Machine.execFenceRel z e c s
  | .fenceAr z e c => Sys2Proof.Machine.execFenceAr z e c s
  | .fenceSc z e c => Sys2Proof.Machine.execFenceSc z e c s
  | .pref z a l => Sys2Proof.Machine.execPref z a l s
  | .pref2 z a l => Sys2Proof.Machine.execPref2 z a l s
  | .clock1 z d a l => Sys2Proof.Machine.execClock1 z d a l s
  | .clock2 z d a l => Sys2Proof.Machine.execClock2 z d a l s
  | .cunlk1 z a l => Sys2Proof.Machine.execCunlk1 z a l s
  | .cunlk2 z a l => Sys2Proof.Machine.execCunlk2 z a l s
  | .cwb z a l => Sys2Proof.Machine.execCwb z a l s
  | .cinv z a l => Sys2Proof.Machine.execCinv z a l s
  | .cwbinv z a l => Sys2Proof.Machine.execCwbinv z a l s
  | .isync z l => Sys2Proof.Machine.execIsync z l s
  | .copy z d a q u l => Sys2Proof.Machine.execCopy z d a q u l s
  | .ccvt z d a q u l => Sys2Proof.Machine.execCcvt z d a q u l s
  | .csum z d a q u l => Sys2Proof.Machine.execCsum z d a q u l s
  | .cfill z d a q u l => Sys2Proof.Machine.execCfill z d a q u l s
  | .agath z d a sel n l => Sys2Proof.Machine.execAgath z d a sel n l s
  | .astp z d a n l => Sys2Proof.Machine.execAstp z d a n l s
  | .astpAck dev ok => Sys2Proof.Machine.execAstpAck dev ok s
  | .copySectorDeliver id => Sys2Proof.Machine.execCopySectorDeliver id s
  | .copyComplete id => Sys2Proof.Machine.execCopyComplete id s
  | .togenL z d a => Sys2Proof.Machine.execTogenL z d a s
  | .togenS z d a => Sys2Proof.Machine.execTogenS z d a s
  | .togenC z d a => Sys2Proof.Machine.execTogenC z d a s
  | .fromgenL z d a => Sys2Proof.Machine.execFromgenL z d a s
  | .fromgenS z d a => Sys2Proof.Machine.execFromgenS z d a s
  | .fromgenC z d a => Sys2Proof.Machine.execFromgenC z d a s
  | .isspc z d a => Sys2Proof.Machine.execIsspc z d a s
  | .bra z o => Sys2Proof.Machine.execBra z o s
  | .call z o => Sys2Proof.Machine.execCall z o s
  | .brw z a o => Sys2Proof.Machine.execBrw z a o s
  | .brwz z a o => Sys2Proof.Machine.execBrwz z a o s
  | .brd z a o => Sys2Proof.Machine.execBrd z a o s
  | .jmpi z a => Sys2Proof.Machine.execJmpi z a s
  | .ret z => Sys2Proof.Machine.execRet z s
  | .calli z a => Sys2Proof.Machine.execCalli z a s
  | .missSplit wave q => Sys2Proof.Machine.execMissSplit wave q s
  | .rcv z imm => Sys2Proof.Machine.execRcv z imm s
  | .rcvW z => Sys2Proof.Machine.execRcvW z s
  | .rcvDeadline wave q => Sys2Proof.Machine.execRcvDeadline wave q s
  | .fusedead wave => Sys2Proof.Machine.execFusedead wave s
  | .endW z => Sys2Proof.Machine.execEndW z s
  | .trap z imm => Sys2Proof.Machine.execTrap z imm s
  | .bkpt z imm => Sys2Proof.Machine.execBkpt z imm s
  | .eret z => Sys2Proof.Machine.execEret z s
  | .yield z d => Sys2Proof.Machine.execYield z d s
  | .role z r => Sys2Proof.Machine.execRole z r s
  | .sleep z imm => Sys2Proof.Machine.execSleep z imm s
  | .sleepExpiry wave q => Sys2Proof.Machine.execSleepExpiry wave q s
  | .ifW z a imm => Sys2Proof.Machine.execIfW z a imm s
  | .ifS z a imm => Sys2Proof.Machine.execIfS z a imm s
  | .elseW z imm => Sys2Proof.Machine.execElseW z imm s
  | .endif z => Sys2Proof.Machine.execEndif z s
  | .loops z imm => Sys2Proof.Machine.execLoops z imm s
  | .brk z a imm => Sys2Proof.Machine.execBrk z a imm s
  | .cont z a imm => Sys2Proof.Machine.execCont z a imm s
  | .endls z imm => Sys2Proof.Machine.execEndls z imm s
  | .loop z a imm => Sys2Proof.Machine.execLoop z a imm s
  | .lexit z a => Sys2Proof.Machine.execLexit z a s
  | .waitt z imm => Sys2Proof.Machine.execWaitt z imm s
  | .wpwait z a c => Sys2Proof.Machine.execWpwait z a c s
  | .dwait z a p => Sys2Proof.Machine.execDwait z a p s
  | .vwait z v t => Sys2Proof.Machine.execVwait z v t s
  | .sleepw z a => Sys2Proof.Machine.execSleepw z a s
  | .sleepwExpiry wave q => Sys2Proof.Machine.execSleepwExpiry wave q s
  | .bar z a imm => Sys2Proof.Machine.execBar z a imm s
  | .barp z a imm => Sys2Proof.Machine.execBarp z a imm s
  | .bara z a imm => Sys2Proof.Machine.execBara z a imm s
  | .barw z imm => Sys2Proof.Machine.execBarw z imm s
  | .barb z a imm => Sys2Proof.Machine.execBarb z a imm s
  | .cstg z a => Sys2Proof.Machine.execCstg z a s
  | .phaseResume core => Sys2Proof.Machine.execPhaseResume core s
  | .dinit z d a l => Sys2Proof.Machine.execDinit z d a l s
  | .dexp z d a l => Sys2Proof.Machine.execDexp z d a l s
  | .darr z d a l => Sys2Proof.Machine.execDarr z d a l s
  | .dqry z d a l => Sys2Proof.Machine.execDqry z d a l s
  | .time z d => Sys2Proof.Machine.execTime z d s
  | .pmcrd z d n => Sys2Proof.Machine.execPmcrd z d n s
  | .pmcwr z d n => Sys2Proof.Machine.execPmcwr z d n s
  | .accv z d t => Sys2Proof.Machine.execAccv z d t s
  | .wprd z d c => Sys2Proof.Machine.execWprd z d c s
  | .cycle z d => Sys2Proof.Machine.execCycle z d s
  | .launch z d a l => Sys2Proof.Machine.execLaunch z d a l s
  | .launchb z d a l => Sys2Proof.Machine.execLaunchb z d a l s
  | .enqr z d a l => Sys2Proof.Machine.execEnqr z d a l s
  | .rqflush z d a l => Sys2Proof.Machine.execRqflush z d a l s
  | .rqstat z d a l => Sys2Proof.Machine.execRqstat z d a l s
  | .evpost z d a l => Sys2Proof.Machine.execEvpost z d a l s
  | .cpoll z d a l => Sys2Proof.Machine.execCpoll z d a l s
  | .csleep z d a l => Sys2Proof.Machine.execCsleep z d a l s
  | .signal z d a l => Sys2Proof.Machine.execSignal z d a l s
  | .csleepTimeout wave q => Sys2Proof.Machine.execCsleepTimeout wave q s
  | .qfetch z d q => Sys2Proof.Machine.execQfetch z d q s
  | .qdisp z d b p => Sys2Proof.Machine.execQdisp z d b p s
  | .swaitc z d imm c => Sys2Proof.Machine.execSwaitc z d imm c s
  | .keyopGen z d p sel => Sys2Proof.Machine.execKeyopGen z d p sel s
  | .keyopBind z d p sel => Sys2Proof.Machine.execKeyopBind z d p sel s
  | .keyopUnbind z d p sel => Sys2Proof.Machine.execKeyopUnbind z d p sel s
  | .keyopZero z d p sel => Sys2Proof.Machine.execKeyopZero z d p sel s
  | .keyopZeroall z d p sel => Sys2Proof.Machine.execKeyopZeroall z d p sel s
  | .keyopSign z d p sel => Sys2Proof.Machine.execKeyopSign z d p sel s
  | .fuserd z d r => Sys2Proof.Machine.execFuserd z d r s
  | .wipe z p => Sys2Proof.Machine.execWipe z p s
  | .wipeComplete p => Sys2Proof.Machine.execWipeComplete p s
  | .shadow z x p => Sys2Proof.Machine.execShadow z x p s
  | .measx z d m => Sys2Proof.Machine.execMeasx z d m s
  | .shadowExchange p => Sys2Proof.Machine.execShadowExchange p s
  | .xpair z d a w r c sel l => Sys2Proof.Machine.execXpair z d a w r c sel l s
  | .xpairEmit id => Sys2Proof.Machine.execXpairEmit id s
  | .xpairComplete id => Sys2Proof.Machine.execXpairComplete id s
  | .xray z d a c y l => Sys2Proof.Machine.execXray z d a c y l s
  | .xrayComplete id lane => Sys2Proof.Machine.execXrayComplete id lane s
  | .texSample z d a sel l => Sys2Proof.Machine.execTexSample z d a sel l s
  | .texGath4 z d a sel l => Sys2Proof.Machine.execTexGath4 z d a sel l s
  | .texLoadi z d a sel l => Sys2Proof.Machine.execTexLoadi z d a sel l s
  | .texQuery z d a sel l => Sys2Proof.Machine.execTexQuery z d a sel l s
  | .cover z d a b => Sys2Proof.Machine.execCover z d a b s
  | .edge z d a => Sys2Proof.Machine.execEdge z d a s
  | .pxtk z d a => Sys2Proof.Machine.execPxtk z d a s
  | .pxlk z a b => Sys2Proof.Machine.execPxlk z a b s
  | .pxul z a b => Sys2Proof.Machine.execPxul z a b s
  | .vemit z d a => Sys2Proof.Machine.execVemit z d a s
  | .tsemit z d a => Sys2Proof.Machine.execTsemit z d a s
  | .tessellate draw => Sys2Proof.Machine.execTessellate draw s
  | .primitiveRelease draw => Sys2Proof.Machine.execPrimitiveRelease draw s
  | .rasterLaunch draw tile => Sys2Proof.Machine.execRasterLaunch draw tile s
  | .atr z d a l => Sys2Proof.Machine.execAtr z d a l s
  | .atw z d a l => Sys2Proof.Machine.execAtw z d a l s
  | .tlbinv z d a l => Sys2Proof.Machine.execTlbinv z d a l s
  | .tlbinva z d l => Sys2Proof.Machine.execTlbinva z d l s
  | .pageWalk p ctx va die acc => Sys2Proof.Machine.execPageWalk p ctx va die acc s
  | .issueArbitration quarter => Sys2Proof.Machine.execIssueArbitration quarter s
  | .agemaxReached wave q => Sys2Proof.Machine.execAgemaxReached wave q s
  | .workgroupPlace p => Sys2Proof.Machine.execWorkgroupPlace p s
  | .weightClassUpdate core temp more => Sys2Proof.Machine.execWeightClassUpdate core temp more s
  | .budgetExceeded wg => Sys2Proof.Machine.execBudgetExceeded wg s
  | .predlExpiry wg => Sys2Proof.Machine.execPredlExpiry wg s
  | .hardwareSave wg => Sys2Proof.Machine.execHardwareSave wg s
  | .gridComplete grid => Sys2Proof.Machine.execGridComplete grid s
  | .packetFetch q => Sys2Proof.Machine.execPacketFetch q s
  | .launchPacket q seq => Sys2Proof.Machine.execLaunchPacket q seq s
  | .bundle q seq => Sys2Proof.Machine.execBundle q seq s
  | .draw q seq => Sys2Proof.Machine.execDraw q seq s
  | .copysched q seq => Sys2Proof.Machine.execCopysched q seq s
  | .signalPacket q seq => Sys2Proof.Machine.execSignalPacket q seq s
  | .waitsig q seq => Sys2Proof.Machine.execWaitsig q seq s
  | .waitsigPoll q seq => Sys2Proof.Machine.execWaitsigPoll q seq s
  | .waitsigTimeout q seq => Sys2Proof.Machine.execWaitsigTimeout q seq s
  | .swaitcTimeout wave q => Sys2Proof.Machine.execSwaitcTimeout wave q s
  | .timestamp q seq => Sys2Proof.Machine.execTimestamp q seq s
  | .eventPacket q seq => Sys2Proof.Machine.execEventPacket q seq s
  | .qbarrier q seq => Sys2Proof.Machine.execQbarrier q seq s
  | .configAgemax q seq => Sys2Proof.Machine.execConfigAgemax q seq s
  | .configPredl q seq => Sys2Proof.Machine.execConfigPredl q seq s
  | .configLkquota q seq => Sys2Proof.Machine.execConfigLkquota q seq s
  | .configL2Ways q seq => Sys2Proof.Machine.execConfigL2Ways q seq s
  | .configLlcWays q seq => Sys2Proof.Machine.execConfigLlcWays q seq s
  | .partctlPreempt q seq => Sys2Proof.Machine.execPartctlPreempt q seq s
  | .partctlSwapout q seq => Sys2Proof.Machine.execPartctlSwapout q seq s
  | .partctlSwapin q seq => Sys2Proof.Machine.execPartctlSwapin q seq s
  | .partctlWipe q seq => Sys2Proof.Machine.execPartctlWipe q seq s
  | .partctlKeybind q seq => Sys2Proof.Machine.execPartctlKeybind q seq s
  | .partctlKeyzero q seq => Sys2Proof.Machine.execPartctlKeyzero q seq s
  | .eventHoldmax e => Sys2Proof.Machine.execEventHoldmax e s
  | .msixSend e => Sys2Proof.Machine.execMsixSend e s
  | .qtailWrite q v => Sys2Proof.Machine.execQtailWrite q v s
  | .queueEnable q => Sys2Proof.Machine.execQueueEnable q s
  | .queueDisable q => Sys2Proof.Machine.execQueueDisable q s
  | .queueStopped q => Sys2Proof.Machine.execQueueStopped q s
  | .queueReset q => Sys2Proof.Machine.execQueueReset q s
  | .queueResetComplete q => Sys2Proof.Machine.execQueueResetComplete q s
  | .eqlostRead e => Sys2Proof.Machine.execEqlostRead e s
  | .trlostRead p => Sys2Proof.Machine.execTrlostRead p s
  | .frackWrite p n => Sys2Proof.Machine.execFrackWrite p n s
  | .spanEnable => Sys2Proof.Machine.execSpanEnable s
  | .spanDisable => Sys2Proof.Machine.execSpanDisable s
  | .capWrite p v => Sys2Proof.Machine.execCapWrite p v s
  | .registerWrite off v => Sys2Proof.Machine.execRegisterWrite off v s
  | .fwload arg => Sys2Proof.Machine.execFwload arg s
  | .attest arg => Sys2Proof.Machine.execAttest arg s
  | .challenge arg => Sys2Proof.Machine.execChallenge arg s
  | .unlock arg => Sys2Proof.Machine.execUnlock arg s
  | .relock arg => Sys2Proof.Machine.execRelock arg s
  | .setpriv arg => Sys2Proof.Machine.execSetpriv arg s
  | .lifecycle arg => Sys2Proof.Machine.execLifecycle arg s
  | .partdef arg => Sys2Proof.Machine.execPartdef arg s
  | .partundef arg => Sys2Proof.Machine.execPartundef arg s
  | .ctxdef arg => Sys2Proof.Machine.execCtxdef arg s
  | .ctxundef arg => Sys2Proof.Machine.execCtxundef arg s
  | .nonceExpiry => Sys2Proof.Machine.execNonceExpiry s
  | .stop arg => Sys2Proof.Machine.execStop arg s
  | .resume arg => Sys2Proof.Machine.execResume arg s
  | .step arg => Sys2Proof.Machine.execStep arg s
  | .rdreg arg => Sys2Proof.Machine.execRdreg arg s
  | .wrreg arg => Sys2Proof.Machine.execWrreg arg s
  | .drop arg => Sys2Proof.Machine.execDrop arg s
  | .bpen arg => Sys2Proof.Machine.execBpen arg s
  | .report arg => Sys2Proof.Machine.execReport arg s
  | .memrd arg => Sys2Proof.Machine.execMemrd arg s
  | .memwr arg => Sys2Proof.Machine.execMemwr arg s
  | .traceSummaryTimer wave => Sys2Proof.Machine.execTraceSummaryTimer wave s
  | .replayPass grid => Sys2Proof.Machine.execReplayPass grid s
  | .scrubPass wave reg lane found => Sys2Proof.Machine.execScrubPass wave reg lane found s
  | .coreRetire core cause => Sys2Proof.Machine.execCoreRetire core cause s
  | .pseudoChannelFail stack ch => Sys2Proof.Machine.execPseudoChannelFail stack ch s
  | .pseudoChannelCopyDone stack ch => Sys2Proof.Machine.execPseudoChannelCopyDone stack ch s
  | .coreThermalTrip core temp => Sys2Proof.Machine.execCoreThermalTrip core temp s
  | .coreThermalRecover core temp => Sys2Proof.Machine.execCoreThermalRecover core temp s
  | .packageThermalTrip die temp => Sys2Proof.Machine.execPackageThermalTrip die temp s
  | .droopStretch island mv => Sys2Proof.Machine.execDroopStretch island mv s
  | .powerWindow p watts => Sys2Proof.Machine.execPowerWindow p watts s
  | .fullReset kind => Sys2Proof.Machine.execFullReset kind s
  | .flitRetry port => Sys2Proof.Machine.execFlitRetry port s
  | .spanPortDown port => Sys2Proof.Machine.execSpanPortDown port s
  | .spanDownSvcreq port => Sys2Proof.Machine.execSpanDownSvcreq port s
  | .peerRequest kind addr data size => Sys2Proof.Machine.execPeerRequest kind addr data size s
  | .cxlmemRead addr => Sys2Proof.Machine.execCxlmemRead addr s
  | .cxlmemWrite addr byte => Sys2Proof.Machine.execCxlmemWrite addr byte s
  | .writePerformed id scope => Sys2Proof.Machine.execWritePerformed id scope s
  | .frheadWrite p v => Sys2Proof.Machine.execFrheadWrite p v s
  | .provisioning => Sys2Proof.Machine.execProvisioning s
  | .droopStretchEnd island => Sys2Proof.Machine.execDroopStretchEnd island s
  | .spanPortTrained port up => Sys2Proof.Machine.execSpanPortTrained port up s
  | .hostSnoop addr => Sys2Proof.Machine.execHostSnoop addr s
  | .msixUnmask vec => Sys2Proof.Machine.execMsixUnmask vec s

end Sys2Proof.Machine
end

