-- ==== Sys2Proof/Machine/Issue.lean ====
section
/-! DEFINITION. Issuing a word: the part that holds the port fetches the word at its PC, decodes it, and executes it; words that are no
instruction and fetches that fail raise the traps that R89, R90 and R379 name. -/

namespace Sys2Proof.Machine

noncomputable section

/-! ## Words that are no instruction (R89, R90, R91) -/

/-- The function of a privileged word as PRIV reports it (R222): F, or F7[3:0] of MAJ 0x38. -/
def privFunc (w : Word) : Nat := if fieldMaj w = 0x38#6 then (fieldB w).toNat % 16 else (fieldF w).toNat

/-- The trap of a rejected word. A reserved value in a field of a privileged word is PRIV outside control mode, since privilege is
checked first (R89). -/
def rejectTrap (ctrl : Bool) (w : Word) : Reject → Trap
  | .major => illegal (fieldMaj w).toNat 0x01
  | .func => illegal (fieldMaj w).toNat 0x02
  | .field priv =>
    if priv && !ctrl then { cause := 0x02, info := BitVec.ofNat 32 (privFunc w + 256 * (fieldMaj w).toNat) }
    else illegal (fieldMaj w).toNat 0x03
  | .operand => illegal (fieldMaj w).toNat 0x04
  | .pfx => { illegal (fieldMaj w).toNat 0x05 with bare := true }
  | .laField => illegal (fieldMaj w).toNat 0x06

/-- The bits of a word of MAJ `m` and F `f` that its description uses, beside B and MAJ, where the word acts for the part as a whole. -/
def usedBits (m f : Nat) : Option Nat :=
  let d := 0x1FC0000
  let a := 0x3F800
  let i := 0x3FFF0
  match m, f with
  | 0x0C, _ => if 6 ≤ f % 8 then some (d + a + 0xF) else none
  | 0x0D, _ => some (d + a + 0xF)
  | 0x12, _ => some 0x1C07FFF
  | 0x1A, _ => some 0x5FF
  | 0x1B, _ => some 0xFF
  | 0x25, 1 => some 0xF
  | 0x25, _ => some (d + 0xF)
  | 0x26, 3 => some 0xF
  | 0x26, _ => some (i + 0xF)
  | 0x27, _ => some (d + 0xF)
  | 0x28, 0 => some (i + 0xF)
  | 0x28, _ => some 0xF
  | 0x29, 0 => some 0xF
  | 0x29, 3 => some 0xF
  | 0x29, 4 => some (d + 0xF)
  | 0x29, 5 => some 0x3F
  | 0x29, _ => some (i + 0xF)
  | 0x2A, 0 => some 0xFF
  | 0x2A, 1 => some 0xFF
  | 0x2A, 2 => some 0x7F
  | 0x2A, 5 => some 0x1FFF
  | 0x2A, 6 => some 0x7FF
  | 0x2A, 7 => some 0x3F
  | 0x2A, 15 => some (d + 0xF)
  | 0x2A, _ => some 0x1F
  | 0x2D, 0 => some (i + 0xF)
  | 0x2D, 1 => some (d + 0xFF)
  | 0x2D, 2 => some (d + 0x1F)
  | 0x2D, 3 => some 0x7FF
  | 0x2D, _ => some (d + 0xF)
  | 0x2E, 3 => some 0xFF
  | 0x2E, _ => some (d + 0xFF)
  | _, _ => none

/-- The instruction that a word with a nonzero unused field is once that field is cleared: with no active lane the word is checked for
nothing and has the effect that its description gives (R91, log 71). BARW's D names ZERO. -/
def looseForm (w : Word) : Reject → Option Instr
  | .major => none
  | .func => none
  | .pfx => none
  | _ => (usedBits (fieldMaj w).toNat (fieldF w).toNat).bind fun u =>
    let x := w &&& BitVec.ofNat 32 (u + 0xFE000000)
    match decode (if (fieldMaj w).toNat = 0x2E ∧ (fieldF w).toNat = 3 then x ||| 0x1E00000#32 else x) with
    | .ok i => some i
    | .error _ => none

/-- The checks of a rejected word that come before the one that rejects it: a word of MAJ 0x0C or 0x0D without .P, and one of the matrix
majors, has a minimum width whatever its other fields hold (R31, R175, R208). -/
def rejectSig (w : Word) (r : Reject) (c : Ctx) : Sig :=
  let m := (fieldMaj w).toNat
  { maj := m,
    minQuads := match r with
      | .major => none
      | .func => none
      | .pfx => none
      | _ =>
        if m = 0x0C ∨ m = 0x0D then (if (fieldF w).getLsbD 3 then none else some (c.w.width / 4))
        else if 0x10 ≤ m ∧ m ≤ 0x12 then some 4 else none }

/-- A word that is no instruction issues: with no active lane it is checked for nothing (R91); a minimum width is waited for before any
check (R31). -/
def rejectWord (w : Word) (r : Reject) (s : State) : Out :=
  match issueCtx (fieldZ w) s with
  | none => .refused .noIssuingPart
  | some c =>
    let g := rejectSig w r c
    if !(guardHits c).isEmpty then finish c s (.brk (.board (guardHits c) (guardLanes c)))
    else if guardPoison c then finish c s (.kill s 0x0104 0x20)
    else if tooNarrow c g then widthWait c (g.minQuads.getD 1) s
    else if c.act.isEmpty then
      match looseForm w r with
      | some i => exec i s
      | none => finish c s (idleWord c (begun c g s))
    else if waveNarrow c g then finish c s (.trap s (illegal g.maj 0x0A))
    else finish c s (.trap s (rejectTrap c.w.ctrl w r))

/-! ## Fetches that fail (R379, R381) -/

/-- XLATE at the word, with lane 0 (R379). -/
def fetchTrap (kind level va : Nat) : Trap :=
  { cause := 0x10, info := BitVec.ofNat 32 (64 * kind + 512 * accFetch.code + 2048 * level), addr := some (BitVec.ofNat 64 va) }

/-- The part stalls at the word, with every quad, until its record is answered (R381). -/
def fetchStall (c : Ctx) (level va : Nat) (s : State) : State :=
  let r := addFault c.w.partition c.w.ctx va accFetch.code level s
  setWait c.key c.q (.cond (.records ((partQuads c.p).map fun k => (r.2, k)))) (writeRecords c.w.partition 1 r.1)

/-! ## Issuing -/

/-- Execute a fetched word. -/
def runWord (x : Nat) (s : State) : Out :=
  match decode (BitVec.ofNat 32 x) with
  | .ok i => exec i s
  | .error r => rejectWord (BitVec.ofNat 32 x) r s

/-- A prefix has been taken up, and its group goes on with the next word (R83, R84). -/
def groupGoesOn (c : Ctx) (t : State) : Bool := (t.part c.key c.q).any fun p => decide (c.p.prefixN < p.prefixN)

/-- The part has left its handler, and PREEMPT has arrived there, which is then taken at once (R221). -/
def leftHandler (c : Ctx) (t : State) : Bool := c.p.handler && (t.part c.key c.q).any fun p => !p.handler && p.preempt

/-- What follows a word: the next word of its group, which `more` issues; or PREEMPT behind an ERET. -/
def behindWord (c : Ctx) (more : State → Out) : Out → Out
  | .next t => if groupGoesOn c t then more t else .next (if leftHandler c t then takePreempt c.key c.q t else t)
  | .fault f => .fault f
  | .refused r => .refused r

/-- The issuing part issues the word at its PC, with the rest of its prefix group as one unit (R84), of at most `fuel` words; a fetch that
fails traps or stalls the part, one without an active lane too (R379, R381, log 92). -/
def issueGroup : Nat → State → Out
  | 0, s => .next s
  | fuel + 1, s =>
    match issueCtx false s with
    | none => .next s
    | some c =>
      match fetchPart s c.w c.p c.p.pc with
      | .word s x => behindWord c (issueGroup fuel) (runWord x s)
      | .bad kind level va => finish c s (.trap s (fetchTrap kind level va))
      | .replay level va => finish c s (.stall (fetchStall c level va))
      | .fault f => .fault f

/-- The instruction at a part's PC, where its fetch gives one. -/
def nextInstr (key q : Nat) (s : State) : Option Instr :=
  match s.wave key, s.part key q with
  | some w, some p =>
    (match fetchPart s w p p.pc with
     | .word _ x => (decode (BitVec.ofNat 32 x)).toOption
     | _ => none)
  | _, _ => none

/-- A part's next word is an operation on the g home (R112, R155). -/
def nextIsG (key q : Nat) (s : State) : Bool :=
  match nextInstr key q s with
  | some (.gread ..) => true
  | some (.gwrite ..) => true
  | some (.gxchg ..) => true
  | some (.gadd ..) => true
  | _ => false

/-- The place of a part's next word among those of its core that issue in one cycle: words by rising quarter (R496); operations on the g home
behind them, by rising wave slot (R112), then by quarter; in a replay pass both are rotated (R453, log 80). -/
def cyclePlace (key q : Nat) (s : State) : Nat :=
  match s.wave key with
  | some w => if nextIsG key q s then 4 + 4 * slotKey s w + quarterKey s w else quarterKey s w
  | none => 0

/-- No word of its kind that comes later has issued on the core in this cycle (R112, R496). -/
def inOrder (s : State) (key q : Nat) : Bool :=
  let c := s.core (coreOf key)
  (if nextIsG key q s then c.lastG else c.last).all fun x =>
    decide (x.1 ≠ cycleOf s (coreOf key)) || decide (x.2 ≤ cyclePlace key q s)

/-- A part's next word issues in this cycle, at its place. -/
def notePlace (key q : Nat) (s : State) : State :=
  let now := some (cycleOf s (coreOf key), cyclePlace key q s)
  s.modCore (coreOf key) fun c => if nextIsG key q s then { c with lastG := now } else { c with last := now }

/-- The state in which the part that holds quarter `qr`'s port issues. -/
def issuing (qr : Nat) (s : State) : State :=
  let s := { s with focus := some qr }
  match kget s.runs qr with
  | some r => viewHomes r.wave (notePlace r.wave r.q s)
  | none => s

/-- ISSUE: the part that holds quarter `qr`'s port issues the word at its PC. -/
def issueOn (qr : Nat) (s : State) : Out := issueGroup 4 (issuing qr s)

/-! ## What the next word of a part would come to -/

/-- A part's next word issued as the first of a run. -/
def tryWord (key q : Nat) (s : State) : Out := issueOn (quarterOf key) { s with runs := kput s.runs (quarterOf key) { wave := key, q := q } }

/-- The next word of a part is END, which raises nothing. -/
def nextIsEnd (key q : Nat) (s : State) : Bool :=
  match nextInstr key q s with
  | some (.endW _) => true
  | _ => false

/-- The next word of a part that is in no handler would trap, or be terminated in place of a trap. -/
def trapsNext (key q : Nat) (s : State) : Bool :=
  match tryWord key q s with
  | .next t =>
    (match (kget t.waves key).bind fun w => w.parts.find? fun p => decide (p.q ≤ q) && decide (q < p.q + p.n) with
     | some p => p.handler
     | none => !nextIsEnd key q s)
  | _ => false

/-- A ready part takes PREEMPT at its word boundary, behind a synchronous cause of its next word (R221). -/
def preemptAt (key q : Nat) (s : State) : State :=
  match s.wave key, s.part key q with
  | some w, some p =>
    if waveLive s w && takesPreempt w p && decide (p.wait = .ready) && !trapsNext key q s then takePreempt key q s else s
  | _, _ => s

/-- Every ready part takes PREEMPT. -/
def preemptReady (s : State) : State :=
  (s.waves.flatMap fun e => (e.2.parts.filter (·.preempt)).map fun p => (e.1, p.q)).foldl (fun s k => preemptAt k.1 k.2 s) s

/-- The scoreboard wait that a part's next word would come to. -/
def boardNext (key q : Nat) (s : State) : Option Wait :=
  match tryWord key q s with
  | .next t => (t.part key q).bind fun p => match p.wait with
    | .board ids lanes => some (.board ids lanes)
    | _ => none
  | _ => none

/-- A ready part that no run has begun for may wait for its next word's operands: it is not ready then (R55, R57, R58). -/
def probePart (s : State) (k : Nat × Nat) : State :=
  match boardNext k.1 k.2 s with
  | some wt => setWait k.1 k.2 wt s
  | none => s

/-- Every part that could begin a run and has writebacks in flight. -/
def probeParts (s : State) : State :=
  (s.waves.flatMap fun e => (e.2.parts.filter fun p =>
    !p.pend.isEmpty && canIssue s e.2 p && !((kget s.runs (quarterOf e.1)).any fun r => decide (r.wave = e.1) && decide (r.q = p.q))).map
      fun p => (e.1, p.q)).foldl probePart s

/-! ## Who issues -/

/-- The part that holds a quarter's port may issue. -/
def runReady (s : State) (qr : Nat) : Bool :=
  match kget s.runs qr with
  | none => false
  | some r =>
    match s.wave r.wave, s.part r.wave r.q with
    | some w, some p => canIssue s w p
    | _, _ => false

/-- The part that is told to issue: once its port is free and the order of its core's cycle allows it, for which cycles pass, it does,
if it is the one that holds its quarter's port or wins it now (R18, R57, R112, R496). -/
def issueAt (key q : Nat) (s : State) : Out :=
  let qr := quarterOf key
  if s.dev.off then .next s
  else if !(portFree s qr && inOrder s key q) then .next (tick 1 { s with agenda := .word key q :: s.agenda })
  else
    let s := arbitrate qr (probeParts (preemptAt key q s))
    match kget s.runs qr with
    | none => .next s
    | some r => if decide (r.wave = key) && decide (r.q = q) && runReady s qr then issueOn qr s else .next s

/-! ## Nothing told -/

/-- A quarter with a free port, without a run, in which a part can begin one. -/
def arbQuarter (s : State) : Option Nat :=
  ((s.waves.map fun e => quarterOf e.1).eraseDups).find? fun qr =>
    portFree s qr && (kget s.runs qr).isNone && !(readyParts s qr).isEmpty

/-- The quarter that issues next: of the first core with one that can, that of the word that comes first in the cycle (R112, R496, log 80). -/
def nextIssue (s : State) : Option Nat :=
  match s.runs.filter fun e => portFree s e.1 && inOrder s e.2.wave e.2.q && runReady s e.1 with
  | [] => none
  | x :: xs =>
    some ((xs.filter fun y => decide (y.1 / 4 = x.1 / 4)).foldl
      (fun b y => if cyclePlace y.2.wave y.2.q s < cyclePlace b.2.wave b.2.q s then y else b) x).1

/-- With nothing told: what is due happens; else free ports choose their parts; else words issue, all of one cycle before the next; else a
cycle passes (log 1). -/
def runOn (s : State) : Out :=
  let s := probeParts (preemptReady (settle s))
  match dueEvent s with
  | some i => exec i s
  | none =>
    if s.dev.off then .next (tick 1 s)
    else match arbQuarter s with
      | some qr => exec (.issueArbitration qr) s
      | none => match nextIssue s with
        | some qr => issueOn qr s
        | none => .next (tick 1 s)

/-! ## Acts from outside that are no row of the opcode table (log 74) -/

/-- A register word of the main vector file takes an error (R108, R109): SECDED corrects one bit, not two. -/
def upsetWord (reg lane : Nat) (double : Bool) (w : Wave) : Wave :=
  let k := reg * 64 + lane
  if decide (w.vbound ≤ reg) || decide (w.width ≤ lane) || w.poison.contains k then w
  else if double || w.flaws.contains k then { w with poison := w.poison ++ [k], flaws := w.flaws.filter (· ≠ k) }
  else { w with flaws := w.flaws ++ [k] }

/-- A control core (R333), of the 8 that follow the 256 others, starts a wave of width 4 in control mode; its slot is free. `cx` names its
partition and context. -/
def startControl (core slot cx : Nat) (pc tvec : Word) (s : State) : State :=
  let key := (256 + core % 8) * 64 + slot % 64
  if (kget s.waves key).isSome || !s.dev.ready then s
  else
    let launch : Launch := { wave := 4, ctxid := cx % 4096 }
    let free : UReg := { bn := 1 }
    let now := cycleOf s (coreOf key)
    let gid := s.nextId
    let p : Part := { q := 0, n := 1, pc := pc, w := List.replicate 24 free, tvec := { free with val := tvec }, tpart := tpartWord 0 1, readyAt := now }
    { s with
      nextId := gid + 2,
      grids := kput s.grids gid { launch := launch, partition := cx / 4096, total := 1, placed := 1, flushed := true },
      wgs := kput s.wgs (gid + 1) { grid := gid, lin := 0, x := 0, y := 0, z := 0, core := coreOf key, waves := [key] },
      waves := kput s.waves key
        { key := key, wg := gid + 1, grid := gid, index := 0, width := 4, parts := [p], ctrl := true, partition := cx / 4096, ctx := cx % 4096,
          cycle0 := now } }

/-- AN ACT FROM OUTSIDE. -/
def act (e : Env) (s : State) : State :=
  match e with
  | .upset wave reg lane double => s.modWave wave (upsetWord reg lane double)
  | .poison sector =>
    if decide (sector * 32 < Config.hbmSize) && !(s.hbmPoison.contains sector) then { s with hbmPoison := s.hbmPoison ++ [sector] } else s
  | .hold who mem sector tag => holdSector who mem sector tag s
  | .sample wave q id lane => sampleRead wave q id lane s
  | .result wave id lane => sfnLand wave id (fun l => decide (l = lane)) s
  | .maskFunction on => maskFunc on s
  | .maskVector vec => maskVec vec s
  | .mute on => { s with muted := on }
  | .control core slot cx pc tvec => startControl core slot cx pc tvec s

end

end Sys2Proof.Machine
end

