-- ==== Sys2Proof/Machine/Step.lean ====
section
/-! DEFINITION. One step of the machine: the next entry of the agenda, or what the machine does when nothing is told (log 1). -/

namespace Sys2Proof.Machine

noncomputable section

/-- ONE STEP. -/
def step (s : State) : Host.Outcome State Fault Refusal :=
  keepHomes s <| match s.agenda with
  | .event i :: rest => exec i { s with agenda := rest }
  | .env e :: rest => .next (act e { s with agenda := rest })
  | .word key q :: rest => issueAt key q { s with agenda := rest }
  | [] => runOn s

/-- A word where the next step fetches: a device that is ready, partition 0 with a context whose page tables map the first 4 TiB onto
HBM, one resident wave of 16 lanes whose PC is the word's address, and that wave told to issue. It stands for the host's work from reset:
bring-up, PARTDEF, CTXDEF, a loaded code object and a LAUNCH packet (log 48). -/
def State.withFetchWord (s : State) (nbits w : Nat) : State :=
  let word := if nbits < 32 then w % 2 ^ nbits else w % 2 ^ 32
  let part : Partition := { gmask := 1, aplocal := 2 ^ 40, apshared := 2 ^ 40 + 2 ^ 32, apcluster := 2 ^ 40 + 2 ^ 33, hbmSize := 2 ^ 30 }
  let launch : Launch := { wave := 16, tiles := 8, scratch := 4096, localsz := 256, locala := 2 ^ 20 }
  let free : UReg := { bn := 4 }
  let p : Part := { q := 0, n := 4, w := List.replicate 24 free, tvec := free, tpart := tpartWord 0 4, readyAt := cycleOf s 0 }
  let wave : Wave := { key := 0, wg := 2, grid := 1, index := 0, width := 16, parts := [p], tiles := List.replicate 8 {},
                       localBase := 2 ^ 20, cycle0 := cycleOf s 0 }
  { s with
    agenda := [.word 0 0], dev := { s.dev with ready := true, off := false }, nextId := max s.nextId 3,
    partitions := kput s.partitions 0 part, contexts := kput s.contexts 0 { root := 65536 },
    grids := kput s.grids 1 { launch := launch, total := 1, placed := 1 },
    wgs := kput s.wgs 2 { grid := 1, lin := 0, x := 0, y := 0, z := 0, core := 0, waves := [0], spadSize := 4096 },
    waves := kput s.waves 0 wave, runs := kdel s.runs 0, stores := [], tlb := [], ptrs := [], icache := [], loopBufs := [], stale := [],
    cores := kput s.cores 0 { s.core 0 with busy := [], last := none },
    hbm := (s.hbm.writeN 0 (bytesOfNat 4 word)).writeN 65536 (bytesOfNat 8 0xF00F) }

end

end Sys2Proof.Machine
end

