-- ==== Sys2Proof/Safety.lean ====
section
/-! DEFINITION. What counts as a safe run: no fault and no refusal; and the forms that a state of the machine keeps. -/

namespace Sys2Proof.Safety

open Sys2Proof.Machine

/-- The step answers a next state: neither a fault nor a refusal. -/
def Goes (s : State) : Prop := ∃ t, step s = .next t

/-- The state after `n` steps that all answer a next state. -/
inductive Run : Nat → State → State → Prop where
  | nil (s : State) : Run 0 s s
  | step (n : Nat) (s t u : State) (h : Sys2Proof.Machine.step s = .next t) (r : Run n t u) : Run (n + 1) s u

/-- A run of `n` steps is safe. -/
def SafeFor (n : Nat) (s : State) : Prop := ∃ t, Run n s t

/-- Every memory is in its canonical form: addresses rise strictly and no listed byte is zero. -/
def MemWf (s : State) : Prop := s.hbm.wf = true ∧ s.host.wf = true ∧ s.peer.wf = true ∧ s.spad.wf = true

/-- Every part starts at a whole quad block: its first quad is a multiple of its size (R19). -/
def PartsAligned (s : State) : Prop := ∀ k w, (k, w) ∈ s.waves → ∀ p ∈ w.parts, p.n ≠ 0 → p.q % p.n = 0

/-- A word of a wave can issue: the part that holds the port is `c`, its guard can be read, it is wide enough, some lane is active, the
word passes its checks `g`, no operand is pending, no operand lives in a lost backing-store area, and neither the guard nor an operand is
poisoned (R55, R87, R89, R105, R109). -/
structure Ready (z : Bool) (s : State) (c : Ctx) (g : Sig) : Prop where
  ctx : issueCtx z s = some c
  guard : guardHits c = []
  sound : guardPoison c = false
  wide : tooNarrow c g = false
  live : c.act ≠ []
  checks : checkSig c g = none
  board : boardHits c g = []
  home : touchesLost c g = false
  clean : readsPoison c.w c.act g.opds = false

/-! ## What a word leaves -/

/-- Vector register `r` of lane `l` of the wave at a key. -/
def vAt (s : State) (key r l : Nat) : Word := ((s.wave key).map fun w => w.getV r l).getD 0#32

/-- Uniform register `r` in the view of part (key, q). -/
def uAt (s : State) (key q r : Nat) : Word := ((s.part key q).map fun p => (p.getW r).val).getD 0#32

/-- Nothing but the cores' counters and ports, the runs, the waves and the trace rings has changed. -/
def KeptState (s t : State) : Prop :=
  t = { s with cores := t.cores, runs := t.runs, focus := t.focus, waves := t.waves, traces := t.traces }

/-- Nothing of a wave but its vector registers with their poison and error marks, its parts, its path signature and what the debugger and the
SUMMARY record count has changed. -/
def KeptWave (w w' : Wave) : Prop :=
  w' = { w with v := w'.v, poison := w'.poison, flaws := w'.flaws, parts := w'.parts, sig := w'.sig, sumWords := w'.sumWords,
                stopped := w'.stopped, stepping := w'.stepping, stopReq := w'.stopReq, cycBase := w'.cycBase, cycle0 := w'.cycle0,
                stopTime := w'.stopTime, stopCause := w'.stopCause }

/-- Nothing of the issuing part has changed but its PC and loop stack, its view, the writebacks in flight, its prefix group and its place in
arbitration: MODE, STATUS, the trap registers, TVEC, the reconvergence records and the wait are as before; CORR may be set by a read that
SECDED corrects (R108). -/
def KeptPart (p p' : Part) : Prop :=
  p' = { p with pc := p'.pc, loops := p'.loops, w := p'.w, pend := p'.pend, prefixPc := none, prefixHi := none, prefixK := none, prefixN := 0,
                timeout := none, role := p'.role, nextRole := p'.nextRole, readyAt := p'.readyAt, class4 := p'.class4, corr := p'.corr }

/-- Nothing of another part of the wave has changed but what the end of a run does (R54, R215). -/
def RestedPart (p p' : Part) : Prop :=
  p' = { p with role := p'.role, nextRole := p'.nextRole, readyAt := p'.readyAt, class4 := p'.class4 }

/-- A memory reads as before through every view. -/
def SameMem (s t : State) : Prop := ∀ vw m tag a, physRead t vw m tag a = physRead s vw m tag a

/-- THE FRAME OF A WORD THAT WRITES ONE DESTINATION: in each active lane the destination's registers hold the words of `f`; a uniform
destination holds those of the lowest active lane; ZERO takes nothing; no other register changes (R78, R82, R87). The part falls through
(R429). With the partition's trace ring off no memory changes. -/
structure Wrote (s t : State) (c : Ctx) (code : BitVec 7) (f : Nat → List Word) : Prop where
  lanes : ∀ r l, l < 64 → vAt t c.key r l =
    if codeIsVec code = true ∧ l ∈ c.act ∧ regNum c.w code l ≤ r ∧ r < regNum c.w code l + (f l).length then
      (f l).getD (r - regNum c.w code l) 0#32
    else vAt s c.key r l
  uniform : ∀ q r, uAt t c.key q r =
    if codeIsVec code = false ∧ codeIsW code = true ∧ q = c.q ∧ code.toNat - 0x60 ≤ r ∧ r < code.toNat - 0x60 + (f c.l0).length then
      (f c.l0).getD (r - (code.toNat - 0x60)) 0#32
    else uAt s c.key q r
  part : ∃ p', t.part c.key c.q = some p' ∧ KeptPart c.p p' ∧ p'.pc = (fallPart c.p).pc ∧ p'.loops = (fallPart c.p).loops ∧
    (c.w.flaws = [] → p'.corr = c.p.corr)
  parts : ∀ q p, q ≠ c.q → s.part c.key q = some p → ∃ p', t.part c.key q = some p' ∧ RestedPart p p'
  wave : ∃ w', t.wave c.key = some w' ∧ KeptWave c.w w'
  waves : ∀ k, k ≠ c.key → t.wave k = s.wave k
  wgs : t.wgs = s.wgs
  state : (s.trace c.w.partition).en = false → KeptState s t

/-! ## What an instruction comes to -/

/-- Word `i z` (with its B bit `z`) COMPLETES BY WRITING `d`: whenever it is ready, and `P` holds, `exec` answers a next state in which `d`
holds, lane by lane, the words that `f` computes, and nothing else has changed (`Wrote`). -/
def WritesDIf (P : State → Ctx → Prop) (i : Bool → Instr) (sig : Ctx → Sig) (d : BitVec 7) (f : Ctx → Nat → List Word) : Prop :=
  ∀ z s c, Ready z s c (sig c) → P s c → ∃ t, exec (i z) s = .next t ∧ Wrote s t c d (f c)

/-- The same for a word that needs nothing more. -/
def WritesD (i : Bool → Instr) (sig : Ctx → Sig) (d : BitVec 7) (f : Ctx → Nat → List Word) : Prop :=
  ∀ z s c, Ready z s c (sig c) → ∃ t, exec (i z) s = .next t ∧ Wrote s t c d (f c)

/-- Word `i z` COMPLETES WITH AN EFFECT: whenever it is ready, and `P` holds, `exec` answers the state in which `eff` has happened, the part
has fallen through (R429), and the word's cycles and counts are booked. -/
def FallsIf (P : State → Ctx → Prop) (i : Bool → Instr) (sig : Ctx → Sig) (cost : Ctx → Nat) (eff : Ctx → State → State) : Prop :=
  ∀ z s c, Ready z s c (sig c) → P s c →
    let u := eff c (begun c (sig c) s)
    exec (i z) s = .next (endWord c (cost c * passes c.p.n + redirect c u) none (fallThrough c u))

/-- The same for a word that needs nothing more. -/
def Falls (i : Bool → Instr) (sig : Ctx → Sig) (cost : Ctx → Nat) (eff : Ctx → State → State) : Prop :=
  FallsIf (fun _ _ => True) i sig cost eff

/-- Word `i z` TRAPS: whenever it is ready and `P` holds, the part takes the trap `tr` at the first word of its prefix group, or, for a cause
that names the following word, at the word itself (R84, R217, R218). -/
def TrapsIf (P : State → Ctx → Prop) (i : Bool → Instr) (sig : Ctx → Sig) (tr : Ctx → Trap) : Prop :=
  ∀ z s c, Ready z s c (sig c) → P s c →
    exec (i z) s = .next (endWord c (passes c.p.n) (some 2)
      (takeTrap c.key c.q (if (tr c).bare || (tr c).following then c.p.pc else c.pc0) (tr c) (begun c (sig c) s)))

/-- Word `i z` GIVES UP THE PORT without having issued: whenever it is ready and `P` holds, the part stands at it in the wait `wt` (R55). -/
def WaitsIf (P : State → Ctx → Prop) (i : Bool → Instr) (sig : Ctx → Sig) (wt : Ctx → Wait) : Prop :=
  ∀ z s c, Ready z s c (sig c) → P s c →
    exec (i z) s = .next (stopIfAsked c.key (breakRun c (wt c) s))

/-- Word `i z` JUMPS: whenever it is ready and `P` holds, `exec` answers the state in which `eff` has happened, the part stands at the target,
and the run has ended (R54). -/
def JumpsIf (P : State → Ctx → Prop) (i : Bool → Instr) (sig : Ctx → Sig) (target : Ctx → Word) (eff : Ctx → State → State) : Prop :=
  ∀ z s c, Ready z s c (sig c) → P s c →
    exec (i z) s = .next (endWord c (passes c.p.n) (some 1)
      ((countEvent (coreOf c.key) 0x06 1 c.w.ctx (eff c (begun c (sig c) s))).modPart c.key c.q fun p => { p with pc := target c }))

/-- Word `i z` HAS ITS OWN WAY with the part: whenever it is ready and `P` holds, `exec` answers the state in which `eff` has happened, which
places the part itself; `ended` is the cause for which the run ends, if it does (R54). -/
def PlacesIf (P : State → Ctx → Prop) (i : Bool → Instr) (sig : Ctx → Sig) (ended : Option Nat) (eff : Ctx → State → State) : Prop :=
  ∀ z s c, Ready z s c (sig c) → P s c → exec (i z) s = .next (endWord c (passes c.p.n) ended (eff c (begun c (sig c) s)))

/-- Word `i z` ENDS IN A WAIT: whenever it is ready and `P` holds, `exec` answers the state in which `eff` has happened, held writebacks have
landed, the part is in the wait `wt`, and the run has ended (R54, R62). -/
def RestsIf (P : State → Ctx → Prop) (i : Bool → Instr) (sig : Ctx → Sig) (wt : Ctx → State → Wait) (eff : Ctx → State → State) : Prop :=
  ∀ z s c, Ready z s c (sig c) → P s c →
    let u := begun c (sig c) s
    exec (i z) s = .next (endWord c (passes c.p.n) (some 2) (setWait c.key c.q (wt c u) (closeWindows c.key c.q (eff c u))))

/-- Word `i z` WAITS BEFORE IT COMPLETES: whenever it is ready and `P` holds, `exec` answers the state in which `eff` has happened, held writebacks
have landed, and the part stands at the first word of its group in the wait `wt`: the group will issue again (R54, R62, R84). -/
def HoldsIf (P : State → Ctx → Prop) (i : Bool → Instr) (sig : Ctx → Sig) (wt : Ctx → State → Wait) (eff : Ctx → State → State) : Prop :=
  ∀ z s c, Ready z s c (sig c) → P s c →
    let u := begun c (sig c) s
    exec (i z) s = .next (stopIfAsked c.key (stopRun c 2 (setWait c.key c.q (wt c u)
      ((closeWindows c.key c.q (eff c u)).modPart c.key c.q (backToGroup c)))))

/-- The checks of a word whose operands nothing reads. -/
def noSig : Sig := { maj := 0 }

/-- Word `i z` WITH NO ACTIVE LANE (R91): whenever the part holds the port, its guard can be read and `P` holds, the word is done with the effect
`eff`, in `cost` datapath cycles per pass, and the part falls through. -/
def IdlesFor (P : State → Ctx → Prop) (i : Bool → Instr) (cost : Ctx → Nat) (eff : Ctx → State → State) : Prop :=
  ∀ z s c, issueCtx z s = some c → guardHits c = [] → guardPoison c = false → c.act = [] → P s c →
    let u := eff c (begun c noSig s)
    exec (i z) s = .next (endWord c (cost c * passes c.p.n + redirect c u) none (fallThrough c u))

/-- The same for a word of one cycle per pass. -/
def IdlesIf (P : State → Ctx → Prop) (i : Bool → Instr) (eff : Ctx → State → State) : Prop := IdlesFor P i (fun _ => 1) eff

/-- Word `i z` WITH NO ACTIVE LANE (R91) HAS ITS OWN WAY with the part: `exec` answers the state in which `eff` has happened, which places the
part itself; `ended` is the cause for which the run ends, if it does (R54). -/
def IdlePlacesIf (P : State → Ctx → Prop) (i : Bool → Instr) (ended : Option Nat) (eff : Ctx → State → State) : Prop :=
  ∀ z s c, issueCtx z s = some c → guardHits c = [] → guardPoison c = false → c.act = [] → P s c →
    exec (i z) s = .next (endWord c (passes c.p.n) ended (eff c (begun c noSig s)))

/-- A lane's pieces are RESOLVED one after another, each in the state that the ones before it leave: a piece of a scratchpad is where it is
(R228), and a mapped one translates to a byte of a memory or lies in an empty page (R373 to R380); none of them faults. -/
inductive PiecesResolve (y : Party) (a : Acc) : State → List Piece → State → Places → Prop where
  | done (s : State) : PiecesResolve y a s [] s []
  | spad (s t : State) (x : Piece) (xs : List Piece) (ps : Places) (addr : Nat) (hx : x.dest = .spad addr)
      (h : PiecesResolve y a s xs t ps) : PiecesResolve y a s (x :: xs) t ((x.off, x.n, .byte .spad addr 0 false) :: ps)
  | byte (s u t : State) (x : Piece) (xs : List Piece) (ps : Places) (va addr tag : Nat) (m : Mem) (repl : Bool) (hx : x.dest = .va va)
      (hv : xlate s y a va = (u, .byte m addr tag repl)) (h : PiecesResolve y a u xs t ps) :
      PiecesResolve y a s (x :: xs) t ((x.off, x.n, .byte m addr tag repl) :: ps)
  | empty (s u t : State) (x : Piece) (xs : List Piece) (ps : Places) (va : Nat) (hx : x.dest = .va va)
      (hv : xlate s y a va = (u, .empty)) (h : PiecesResolve y a u xs t ps) :
      PiecesResolve y a s (x :: xs) t ((x.off, x.n, .empty) :: ps)

/-- The accesses of the lanes are resolved in increasing order of the lanes (R264). -/
inductive LanesResolve (y : Party) (a : Acc) : State → List (Req × List Piece) → State → List (Nat × Places) → Prop where
  | done (s : State) : LanesResolve y a s [] s []
  | lane (s u t : State) (r : Req) (xs : List Piece) (rest : List (Req × List Piece)) (p : Places) (ps : List (Nat × Places))
      (h : PiecesResolve y a s xs u p) (hr : LanesResolve y a u rest t ps) :
      LanesResolve y a s ((r, xs) :: rest) t ((r.lane, p) :: ps)

/-- A RANGE OF AN ENGINE IS GRANTED in state `s`: its `n` bytes from `ea` lie in spaces that the engine reaches for its owner, and each
piece translates, which brings the machine to `u` and the range to the places `ps` (R225, R288, R407). -/
structure RangeGranted (o : Owner) (a : Acc) (ea n : Nat) (s u : State) (ps : Places) : Prop where
  pieces : ∃ xs, piecesFor s o ea n = some xs ∧
    PiecesResolve o.party a s xs u ps

/-- EVERY ACCESS OF A WORD IS GRANTED in state `s` (R264): each lane's bytes lie in its space (R225, R226), and are no access that the word
excludes (`extra`: R274); each is aligned; and each piece of each translates, which brings the machine to `u` and the accesses to the
places `ps`. -/
structure Granted (w : Wave) (reqs : List Req) (align : Nat) (a : Acc) (extra : Req → Bool) (s u : State) (ps : List (Nat × Places)) :
    Prop where
  space : ∀ r ∈ reqs, (piecesOf s w r.lane r.ea r.n).isSome = true ∧ extra r = false
  aligned : ∀ r ∈ reqs, r.ea % align = 0
  pages : LanesResolve (partyOf w) a s (reqs.map fun r => (r, (piecesOf s w r.lane r.ea r.n).getD [])) u ps

/-- Memory word `i z` COMPLETES: whenever it is ready, the accesses `reqs` of its lanes are granted, no lane of `awake` sleeps on an FTAKE (R251,
R257), and, where `reads`, no byte of theirs is poisoned (R240), `exec` answers the state in which `eff` has happened and the part has fallen
through. -/
def MemFallsIn (awake : Ctx → List Nat) (reads : Bool) (i : Bool → Instr) (sig : Ctx → Sig) (reqs : Ctx → List Req) (align : Ctx → Nat) (acc : Acc)
    (extra : State → Ctx → Req → Bool) (eff : Ctx → List (Nat × Places) → State → State) : Prop :=
  ∀ z s c u ps, Ready z s c (sig c) →
    Granted c.w (reqs c) (align c) acc (extra (begun c (sig c) s) c) (begun c (sig c) s) u ps →
    takeWaits c (awake c) = [] → (reads = true → (ps.any fun x => placesPoisoned u x.2) = false) →
    let t := eff c ps u
    exec (i z) s = .next (endWord c (passes c.p.n + redirect c t) none (fallThrough c t))

/-- The same for a word that waits for the FTAKEs of its own active lanes. -/
def MemFalls (reads : Bool) (i : Bool → Instr) (sig : Ctx → Sig) (reqs : Ctx → List Req) (align : Ctx → Nat) (acc : Acc)
    (extra : State → Ctx → Req → Bool) (eff : Ctx → List (Nat × Places) → State → State) : Prop :=
  MemFallsIn (·.act) reads i sig reqs align acc extra eff

/-- The same for a word that is a release by the part, which waits for the FTAKEs of all its lanes. -/
def MemReleases (reads : Bool) (i : Bool → Instr) (sig : Ctx → Sig) (reqs : Ctx → List Req) (align : Ctx → Nat) (acc : Acc)
    (extra : State → Ctx → Req → Bool) (eff : Ctx → List (Nat × Places) → State → State) : Prop :=
  MemFallsIn (fun c => c.act ++ blockLanes c.p.q c.p.n) reads i sig reqs align acc extra eff

/-- A delivery barrier lies AT scratchpad address `x`: the generic address `ea`, a multiple of 128, lies in shared space within the allocation of
the wave's workgroup, or in cluster space where every byte of the object belongs to an allocation of the grid (R225, R228, R438, R440). -/
inductive BarrierAt (s : State) (w : Wave) (ea : Nat) : Nat → Prop where
  | shared (off : Nat) (g : Wg) (hs : spaceOf (s.partition w.partition) ea = .shared off) (hg : kget s.wgs w.wg = some g)
      (hx : off + 64 ≤ (kgetD {} s.grids w.grid).launch.scratch) (ha : ea % 128 = 0) :
      BarrierAt s w ea (g.core * 2 ^ 19 + g.spadBase + off)
  | cluster (off : Nat) (hs : spaceOf (s.partition w.partition) ea = .cluster off) (hx : off + 64 ≤ 2 ^ 21)
      (ho : ∀ i, i < 64 →
        spadOwned s w.grid (clusterOf (coreOf w.key) * 4 + (off + i) / 2 ^ 19) ((off + i) % 2 ^ 19) = true) (ha : ea % 128 = 0) :
      BarrierAt s w ea (clusterOf (coreOf w.key) * 4 * 2 ^ 19 + off)

/-- The addresses that a packet names can be read one after another, each for the bytes that its type gives it (R314: FETCH). -/
inductive AddrsRead (q : Nat) (b : List Byte) : State → List (Nat × Nat) → State → Prop where
  | done (s : State) : AddrsRead q b s [] s
  | read (s u t : State) (a n : Nat) (xs : List (Nat × Nat)) (bs : List Byte) (hn : mayName s q a (packetSpan b n) = true)
      (hr : readFor (packetParty s q) a (packetSpan b n) s = some (u, bs)) (h : AddrsRead q b u xs t) : AddrsRead q b s ((a, n) :: xs) t

/-- A packet's buffer list can be read, or it has none, and each entry's mode is one of the four (R314, R317). -/
inductive ListRead (q : Nat) (b : List Byte) (s : State) : State → Prop where
  | none (h : numAt b 2 2 = 0) : ListRead q b s s
  | some (u : State) (bs : List Byte) (h : numAt b 2 2 ≠ 0) (hn : mayName s q (numAt b 8 8) (16 * numAt b 2 2) = true)
      (hr : readFor (packetParty s q) (numAt b 8 8) (16 * numAt b 2 2) s = some (u, bs))
      (hm : ∀ e ∈ chunks 16 (numAt b 2 2) bs, numAt e 12 4 < 4) : ListRead q b s u

/-- A fetched packet `b` of queue `q` PASSES ITS CHECKS in state `s`, which its reads bring to `u`: its type is defined, no reserved field is
set, PARTCTL comes from a privileged queue, every address is aligned, the buffer list is good, and every address can be read (R312 to R314). -/
structure Passes (q : Nat) (b : List Byte) (s u : State) : Prop where
  type : 1 ≤ numAt b 0 1 ∧ numAt b 0 1 ≤ 0x0B
  reserved : reservedBroken b = false
  priv : numAt b 0 1 = 0x0B → (s.queue q).priv = true
  aligned : (∀ x ∈ packetAddrs b, x.1 % x.2 = 0) ∧ numAt b 8 8 % 16 = 0
  reads : ∃ v, ListRead q b s v ∧ AddrsRead q b v (packetAddrs b) u

/-- A piece of a resolved access covers a byte of a memory. -/
def coversByte (ps : List (Nat × Places)) (m : Mem) (a : Nat) : Prop :=
  ∃ x ∈ ps, ∃ off n a0 tag r, (off, n, Place.byte m a0 tag r) ∈ x.2 ∧ a0 ≤ a ∧ a < a0 + n

end Sys2Proof.Safety
end

