-- ==== Sys2Proof/Certificates/Slice0/Obligations.lean ====
section
/-! DEFINITION. The statements for the provers. Each docstring names the rules of spec/ that the statement formalises. -/

set_option linter.unusedVariables false

open Sys2Proof Sys2Proof.Machine Sys2Proof.Safety

/-! ## Words that compute in registers -/

/-- IALU (R140, R141, R136, R114, R115): with n and the signedness of MODE.ET, each of the sixteen functions completes, and the destination
holds the stated result, fitted under MODE.SAT for the first three and modulo 2^n for the others, and extended to the register. -/
def Obligations.IntegerResults : Prop :=
  ∀ d a b : BitVec 7,
    let n := fun c : Ctx => etWidth (modeEtOf c.p.mode)
    let sg := fun c : Ctx => etSigned (modeEtOf c.p.mode)
    let w := fun c : Ctx => decide (n c = 64)
    let ua := fun (c : Ctx) l => c.readNat (w c) false a l % 2 ^ n c
    let ub := fun (c : Ctx) l => c.readNat (w c) false b l % 2 ^ n c
    let A := fun (c : Ctx) l => intOf (n c) (sg c) (c.readNat (w c) false a l)
    let B := fun (c : Ctx) l => intOf (n c) (sg c) (c.readNat (w c) false b l)
    let cnt := fun (c : Ctx) l => (c.read b l).toNat
    let put := fun (c : Ctx) (x : Nat) => wordsOf (w c) (extendRes (n c) (sg c) x)
    let fit := fun (c : Ctx) (x : Int) => put c (fitInt (modeSatOf c.p.mode) (n c) (sg c) x)
    let wrap := fun (c : Ctx) (x : Int) => put c (wrapInt (n c) x)
    WritesD (.iadd · d a b) (ialuSig 0 d a b) d (fun c l => fit c (A c l + B c l)) ∧
    WritesD (.isub · d a b) (ialuSig 1 d a b) d (fun c l => fit c (A c l - B c l)) ∧
    WritesD (.imul · d a b) (ialuSig 2 d a b) d (fun c l => fit c (A c l * B c l)) ∧
    WritesD (.imulh · d a b) (ialuSig 3 d a b) d (fun c l => wrap c ((A c l * B c l).fdiv (2 ^ n c : Nat))) ∧
    WritesD (.imin · d a b) (ialuSig 4 d a b) d (fun c l => wrap c (min (A c l) (B c l))) ∧
    WritesD (.imax · d a b) (ialuSig 5 d a b) d (fun c l => wrap c (max (A c l) (B c l))) ∧
    WritesD (.ineg · d a) (ialuSig 6 d a 0#7) d (fun c l => wrap c (-(A c l))) ∧
    WritesD (.iabs · d a) (ialuSig 7 d a 0#7) d (fun c l => wrap c |A c l|) ∧
    WritesD (.and · d a b) (ialuSig 8 d a b) d (fun c l => put c (ua c l &&& ub c l)) ∧
    WritesD (.or · d a b) (ialuSig 9 d a b) d (fun c l => put c (ua c l ||| ub c l)) ∧
    WritesD (.xor · d a b) (ialuSig 10 d a b) d (fun c l => put c (ua c l ^^^ ub c l)) ∧
    WritesD (.andn · d a b) (ialuSig 11 d a b) d (fun c l => put c (ua c l &&& (2 ^ n c - 1 - ub c l))) ∧
    WritesD (.shl · d a b) (ialuSig 12 d a b) d (fun c l => put c (if n c ≤ cnt c l then 0 else ua c l * 2 ^ cnt c l % 2 ^ n c)) ∧
    WritesD (.shr · d a b) (ialuSig 13 d a b) d (fun c l => put c (if n c ≤ cnt c l then 0 else ua c l / 2 ^ cnt c l)) ∧
    WritesD (.sar · d a b) (ialuSig 14 d a b) d
      (fun c l => wrap c ((sintOf (n c) (ua c l)).fdiv (2 ^ min (cnt c l) (n c - 1) : Nat))) ∧
    WritesD (.rot · d a b) (ialuSig 15 d a b) d
      (fun c l => put c ((ua c l * 2 ^ (cnt c l % n c) + ua c l / 2 ^ (n c - cnt c l % n c)) % 2 ^ n c))

/-- IBIT (R142, R143): each function completes and the destination holds the stated bits; u, v and d are the patterns of A, Bf and the old D;
m is 64 for CLZ, CTZ, POPC, BREV, MOV and SEL under a 64-bit type, else 32. -/
def Obligations.BitResults : Prop :=
  ∀ d a b : BitVec 7,
    let f64 := fun c : Ctx => decide (modeEtOf c.p.mode = 6)
    let w := fun c : Ctx => etWide (modeEtOf c.p.mode)
    let m := fun c : Ctx => if w c then 64 else 32
    let U := fun (c : Ctx) l => c.readNat (w c) (f64 c) a l
    let V := fun (c : Ctx) l => c.readNat (w c) (f64 c) b l
    let D := fun (c : Ctx) l => c.readNat (w c) (f64 c) d l
    let u := fun (c : Ctx) l => c.readNat false (f64 c) a l
    let v := fun (c : Ctx) l => c.readNat false (f64 c) b l
    let old := fun (c : Ctx) l => c.readNat false (f64 c) d l
    let pos := fun (c : Ctx) l => v c l % 32
    let len := fun (c : Ctx) l => v c l / 256 % 32
    WritesD (.clz · d a) (ibitSig 0 d a 0#7) d (fun c l => wordsOf false (clzNat (U c l) (m c))) ∧
    WritesD (.ctz · d a) (ibitSig 1 d a 0#7) d (fun c l => wordsOf false (ctzNat (U c l) (m c))) ∧
    WritesD (.popc · d a) (ibitSig 2 d a 0#7) d (fun c l => wordsOf false (popNat (U c l) (m c))) ∧
    WritesD (.brev · d a) (ibitSig 3 d a 0#7) d
      (fun c l => wordsOf (w c) (bitsFrom (fun i => (U c l).testBit (m c - 1 - i)) (m c))) ∧
    WritesD (.bil3 · d a b) (ibitSig 4 d a b) d
      (fun c l => wordsOf false (bitsFrom (fun i =>
        if i % 3 = 0 then (u c l).testBit (i / 3) else if i % 3 = 1 then (v c l).testBit (i / 3) else (old c l).testBit (i / 3)) 30)) ∧
    WritesD (.bdil3 · d a b) (ibitSig 5 d a b) d
      (fun c l => wordsOf false (if v c l ≤ 2 then bitsFrom (fun i => (u c l).testBit (3 * i + v c l)) 10 else 0)) ∧
    WritesD (.bil2 · d a b) (ibitSig 6 d a b) d
      (fun c l => wordsOf false (bitsFrom (fun i => if i % 2 = 0 then (u c l).testBit (i / 2) else (v c l).testBit (i / 2)) 32)) ∧
    WritesD (.bdil2 · d a) (ibitSig 7 d a 0#7) d
      (fun c l => wordsOf false (bitsFrom (fun i => if i < 16 then (u c l).testBit (2 * i) else (u c l).testBit (2 * (i - 16) + 1)) 32)) ∧
    WritesD (.bfx · d a b) (ibitSig 8 d a b) d (fun c l => wordsOf false (u c l / 2 ^ pos c l % 2 ^ len c l)) ∧
    WritesD (.bfxs · d a b) (ibitSig 9 d a b) d
      (fun c l => wordsOf false (if len c l = 0 then 0 else wrapInt 32 (sintOf (len c l) (u c l / 2 ^ pos c l % 2 ^ len c l)))) ∧
    WritesD (.bfi · d a b) (ibitSig 10 d a b) d
      (fun c l => wordsOf false (bitsFrom (fun i =>
        if pos c l ≤ i ∧ i < pos c l + len c l then (u c l).testBit (i - pos c l) else (old c l).testBit i) 32)) ∧
    WritesD (.mov · d a) (ibitSig 11 d a 0#7) d (fun c l => wordsOf (w c) (U c l)) ∧
    WritesD (.sel · d a b) (ibitSig 12 d a b) d (fun c l => wordsOf (w c) (if D c l ≠ 0 then U c l else V c l)) ∧
    WritesD (.perm · d a b) (ibitSig 13 d a b) d
      (fun c l =>
        let pool := v c l * 2 ^ 32 + u c l
        let sel := fun j => old c l / 2 ^ (4 * j) % 16
        let byte := fun j => if sel j ≤ 7 then pool / 2 ^ (8 * sel j) % 256 else 0
        wordsOf false (byte 0 + 256 * byte 1 + 65536 * byte 2 + 16777216 * byte 3))

/-- IMAD (R144, R145): D plus the exact product, its high half, four byte products or four absolute byte differences; fitted under MODE.SAT
for IMAD and IDOT4 and modulo 2^n for the others.
ICMP (R146, R147): all ones where the condition holds on the n-bit patterns, else zero; the signedness of MODE.ET plays no part. -/
def Obligations.MultiplyAddAndCompareResults : Prop :=
  (
    ∀ d a b : BitVec 7,
      let n := fun c : Ctx => etWidth (modeEtOf c.p.mode)
      let sg := fun c : Ctx => etSigned (modeEtOf c.p.mode)
      let w := fun c : Ctx => etWide (modeEtOf c.p.mode)
      let val := fun (r : BitVec 7) (c : Ctx) l => intOf (n c) (sg c) (c.readNat (w c) false r l)
      let ibyte := fun (r : BitVec 7) (c : Ctx) l j => intOf 8 (sg c) (c.readNat (w c) false r l / 2 ^ (8 * j) % 256)
      let ubyte := fun (r : BitVec 7) (c : Ctx) l j => ((c.readNat (w c) false r l / 2 ^ (8 * j) % 256 : Nat) : Int)
      let fit := fun (c : Ctx) (x : Int) => wordsOf (w c) (fitInt (modeSatOf c.p.mode) (n c) (sg c) x)
      let wrap := fun (c : Ctx) (x : Int) => wordsOf (w c) (wrapInt (n c) x)
      WritesD (.imad · d a b) (imadSig 0 d a b) d (fun c l => fit c (val a c l * val b c l + val d c l)) ∧
      WritesD (.imadh · d a b) (imadSig 1 d a b) d
        (fun c l => wrap c ((val a c l * val b c l).fdiv (2 ^ n c : Nat) + val d c l)) ∧
      WritesD (.idot4 · d a b) (imadSig 2 d a b) d
        (fun c l => fit c (val d c l + ((List.range 4).map fun j => ibyte a c l j * ibyte b c l j).sum)) ∧
      WritesD (.isad · d a b) (imadSig 3 d a b) d
        (fun c l => wrap c (val d c l + ((List.range 4).map fun j => |ubyte a c l j - ubyte b c l j|).sum))) ∧
  (
    ∀ d a b : BitVec 7,
      let n := fun c : Ctx => etWidth (modeEtOf c.p.mode)
      let w := fun c : Ctx => etWide (modeEtOf c.p.mode)
      let u := fun (r : BitVec 7) (c : Ctx) l => c.readNat (w c) false r l % 2 ^ n c
      let i := fun (r : BitVec 7) (c : Ctx) l => sintOf (n c) (c.readNat (w c) false r l)
      let cond := fun p : Bool => [if p then 0xFFFFFFFF#32 else 0#32]
      WritesD (.icmpEq · d a b) (icmpSig d a b) d (fun c l => cond (decide (u a c l = u b c l))) ∧
      WritesD (.icmpNe · d a b) (icmpSig d a b) d (fun c l => cond (decide (u a c l ≠ u b c l))) ∧
      WritesD (.icmpLt · d a b) (icmpSig d a b) d (fun c l => cond (decide (i a c l < i b c l))) ∧
      WritesD (.icmpLe · d a b) (icmpSig d a b) d (fun c l => cond (decide (i a c l ≤ i b c l))) ∧
      WritesD (.icmpGt · d a b) (icmpSig d a b) d (fun c l => cond (decide (i a c l > i b c l))) ∧
      WritesD (.icmpGe · d a b) (icmpSig d a b) d (fun c l => cond (decide (i a c l ≥ i b c l))) ∧
      WritesD (.icmpLtn · d a b) (icmpSig d a b) d (fun c l => cond (decide (u a c l < u b c l))) ∧
      WritesD (.icmpLen · d a b) (icmpSig d a b) d (fun c l => cond (decide (u a c l ≤ u b c l))) ∧
      WritesD (.icmpGtn · d a b) (icmpSig d a b) d (fun c l => cond (decide (u a c l > u b c l))) ∧
      WritesD (.icmpGen · d a b) (icmpSig d a b) d (fun c l => cond (decide (u a c l ≥ u b c l))) ∧
      WritesD (.icmpTstz · d a b) (icmpSig d a b) d (fun c l => cond (decide (u a c l &&& u b c l = 0))) ∧
      WritesD (.icmpTstnz · d a b) (icmpSig d a b) d (fun c l => cond (decide (u a c l &&& u b c l ≠ 0))))

/-- ADDR (R148, R149): pair arithmetic modulo 2^64 whatever MODE holds; NOP (R89) writes nothing: it completes as a write to ZERO does. -/
def Obligations.AddressResults : Prop :=
  ∀ d a b : BitVec 7,
    let A := fun (c : Ctx) l => (c.read64 false a l).toNat
    let B := fun (c : Ctx) l => (c.read64 false b l).toNat
    let x := fun (c : Ctx) l => (c.read b l).toInt
    let cnt := fun (c : Ctx) l => (c.read b l).toNat
    let put := fun (y : Int) => words64 (BitVec.ofInt 64 y)
    WritesD (.add64 · d a b) (addrSig 0 d a b) d (fun c l => put (A c l + B c l)) ∧
    WritesD (.sub64 · d a b) (addrSig 1 d a b) d (fun c l => put (A c l - B c l)) ∧
    WritesD (.lea1 · d a b) (addrSig 2 d a b) d (fun c l => put (A c l + x c l * 1)) ∧
    WritesD (.lea2 · d a b) (addrSig 3 d a b) d (fun c l => put (A c l + x c l * 2)) ∧
    WritesD (.lea4 · d a b) (addrSig 4 d a b) d (fun c l => put (A c l + x c l * 4)) ∧
    WritesD (.lea8 · d a b) (addrSig 5 d a b) d (fun c l => put (A c l + x c l * 8)) ∧
    WritesD (.lea16 · d a b) (addrSig 6 d a b) d (fun c l => put (A c l + x c l * 16)) ∧
    WritesD (.mov64 · d a) (addrSig 7 d a 0#7) d (fun c l => put (A c l)) ∧
    WritesD (.shl64 · d a b) (addrSig 8 d a b) d (fun c l => put (if 64 ≤ cnt c l then 0 else A c l * 2 ^ cnt c l)) ∧
    WritesD (.shr64 · d a b) (addrSig 9 d a b) d (fun c l => put (if 64 ≤ cnt c l then 0 else A c l / 2 ^ cnt c l)) ∧
    WritesD (.nop ·) (fun _ => { maj := 0 }) 0x78#7 (fun _ _ => [])

/-- FALU (R161 to R163, R118 to R120): the format is that of MODE.ET; operands and results are flushed under MODE.FTZ, and each result is
rounded once under MODE.RND; FABS, FNEG, FCLS and FCPY work on the pattern itself. -/
def Obligations.FloatResults : Prop :=
  ∀ d a b : BitVec 7,
    let m := fun c : Ctx => fmtOf (modeEtOf c.p.mode)
    let w := fun c : Ctx => decide (modeEtOf c.p.mode = 6)
    let rnd := fun c : Ctx => modeRndOf c.p.mode
    let A := fun (c : Ctx) l => c.readNat (w c) true a l
    let B := fun (c : Ctx) l => c.readNat (w c) true b l
    let x := fun (c : Ctx) l => (m c).decode ((m c).flush (modeFtzOf c.p.mode) (A c l))
    let y := fun (c : Ctx) l => (m c).decode ((m c).flush (modeFtzOf c.p.mode) (B c l))
    let out := fun (c : Ctx) v => (m c).flush (modeFtzOf c.p.mode) ((m c).round (rnd c) v)
    WritesD (.fadd · d a b) (faluSig 0 d a b) d (fun c l => wordsOf (w c) (out c (FVal.add (rnd c) (x c l) (y c l)))) ∧
    WritesD (.fsub · d a b) (faluSig 1 d a b) d (fun c l => wordsOf (w c) (out c (FVal.add (rnd c) (x c l) (y c l).neg))) ∧
    WritesD (.fmul · d a b) (faluSig 2 d a b) d (fun c l => wordsOf (w c) (out c ((x c l).mul (y c l)))) ∧
    WritesD (.fmin · d a b) (faluSig 3 d a b) d (fun c l => wordsOf (w c) (out c (fminVal (x c l) (y c l)))) ∧
    WritesD (.fmax · d a b) (faluSig 4 d a b) d (fun c l => wordsOf (w c) (out c (fmaxVal (x c l) (y c l)))) ∧
    WritesD (.fabs · d a) (faluSig 5 d a 0#7) d (fun c l => wordsOf (w c) (A c l % (m c).signBit)) ∧
    WritesD (.fneg · d a) (faluSig 6 d a 0#7) d (fun c l => wordsOf (w c) (A c l % (2 * (m c).signBit) ^^^ (m c).signBit)) ∧
    WritesD (.fcls · d a) (faluSig 7 d a 0#7) d (fun c l => wordsOf false (fclsMask (m c) (A c l))) ∧
    WritesD (.fminm · d a b) (faluSig 8 d a b) d (fun c l => wordsOf (w c) (out c (if (x c l).isNan then y c l else if (y c l).isNan then x c l else fminVal (x c l) (y c l)))) ∧
    WritesD (.fmaxm · d a b) (faluSig 9 d a b) d (fun c l => wordsOf (w c) (out c (if (x c l).isNan then y c l else if (y c l).isNan then x c l else fmaxVal (x c l) (y c l)))) ∧
    WritesD (.frnd · d a) (faluSig 10 d a 0#7) d (fun c l => wordsOf (w c) (out c (frndVal (rnd c) (x c l)))) ∧
    WritesD (.fscl · d a b) (faluSig 11 d a b) d (fun c l => wordsOf (w c) (out c ((x c l).scale (fsclExp (c.read b l).toNat)))) ∧
    WritesD (.fcpy · d a b) (faluSig 12 d a b) d (fun c l => wordsOf (w c) (A c l % (m c).signBit + B c l / (m c).signBit % 2 * (m c).signBit))

/-- FFMA (R164, R165): the exact product and sum rounded once; FCMP (R166, R167): all ones where the condition holds on the flushed values,
a NaN making the pair unordered, else zero. -/
def Obligations.FusedAndFloatCompares : Prop :=
  ∀ d a b : BitVec 7,
    let m := fun c : Ctx => fmtOf (modeEtOf c.p.mode)
    let w := fun c : Ctx => decide (modeEtOf c.p.mode = 6)
    let rnd := fun c : Ctx => modeRndOf c.p.mode
    let val := fun (r : BitVec 7) (c : Ctx) l => (m c).decode ((m c).flush (modeFtzOf c.p.mode) (c.readNat (w c) true r l))
    let out := fun (c : Ctx) v => wordsOf (w c) ((m c).flush (modeFtzOf c.p.mode) ((m c).round (rnd c) v))
    let cond := fun (p : FVal → FVal → Bool) (c : Ctx) l => [if p (val a c l) (val b c l) then 0xFFFFFFFF#32 else 0#32]
    WritesD (.ffma · d a b) (ffmaSig d a b) d (fun c l => out c (FVal.add (rnd c) ((val a c l).mul (val b c l)) (val d c l))) ∧
    WritesD (.ffms · d a b) (ffmaSig d a b) d (fun c l => out c (FVal.add (rnd c) ((val a c l).mul (val b c l)) (val d c l).neg)) ∧
    WritesD (.fnma · d a b) (ffmaSig d a b) d (fun c l => out c (FVal.add (rnd c) (val d c l) ((val a c l).mul (val b c l)).neg)) ∧
    WritesD (.fcmpEq · d a b) (fcmpSig d a b) d (cond fun x y => x.eq y) ∧
    WritesD (.fcmpNe · d a b) (fcmpSig d a b) d (cond fun x y => !(x.eq y)) ∧
    WritesD (.fcmpLt · d a b) (fcmpSig d a b) d (cond fun x y => x.lt y) ∧
    WritesD (.fcmpLe · d a b) (fcmpSig d a b) d (cond fun x y => x.lt y || x.eq y) ∧
    WritesD (.fcmpGt · d a b) (fcmpSig d a b) d (cond fun x y => y.lt x) ∧
    WritesD (.fcmpGe · d a b) (fcmpSig d a b) d (cond fun x y => y.lt x || x.eq y) ∧
    WritesD (.fcmpUn · d a b) (fcmpSig d a b) d (cond fun x y => x.isNan || y.isNan) ∧
    WritesD (.fcmpOrd · d a b) (fcmpSig d a b) d (cond fun x y => !(x.isNan || y.isNan))

/-- CVT, CVTZ, CVTS, PACK2, UNPK, UNPKH (R168 to R170), NRW (R171, R172) and WID (R173, R174): the converted, packed, narrowed and widened
values. -/
def Obligations.ConversionResults : Prop :=
  ∀ (d a b : BitVec 7) (x : BitVec 1) (k : BitVec 2),
    let et := fun c : Ctx => modeEtOf c.p.mode
    let et2 := fun c : Ctx => modeEt2Of c.p.mode
    let rnd := fun c : Ctx => modeRndOf c.p.mode
    let sat := fun c : Ctx => modeSatOf c.p.mode
    let ftz := fun c : Ctx => modeFtzOf c.p.mode
    let src := fun (r : BitVec 7) (c : Ctx) l =>
      etDecode (et2 c) (ftz c) (c.readNat (etWide (et2 c)) (decide (et2 c = 6)) r l)
    let put := fun (mode : Nat) (forced : Bool) (c : Ctx) (v : FVal) =>
      wordsOf (etWide (et c)) (convRes (et c) mode (sat c) forced (ftz c) v)
    let half := fun (r : BitVec 7) (c : Ctx) l => convTo (et c) (rnd c) (sat c) false (ftz c) (src r c l)
    let kind := fun c : Ctx => (widKind (et2 c)).getD 0
    let image := fun (c : Ctx) l => natOfWords (c.readSpan a (recRegs (kind c)) l)
    let elem := fun (c : Ctx) l i => widenElem (fmtOf (et c)) (rnd c) (ftz c) (kind c) (image c l) i
    let vals := fun (c : Ctx) l => (c.readSpan a 32 l).map fun v => fmtF32.decode (fmtF32.flush (ftz c) v.toNat)
    WritesD (.cvt · d a) (cvtSig d a) d (fun c l => put (rnd c) false c (src a c l)) ∧
    WritesD (.cvtz · d a) (cvtSig d a) d (fun c l => put 1 false c (src a c l)) ∧
    WritesD (.cvts · d a) (cvtSig d a) d (fun c l => put (rnd c) true c (src a c l)) ∧
    WritesD (.pack2 · d a b) (pack2Sig d a b) d (fun c l => wordsOf false (half b c l * 2 ^ 16 + half a c l)) ∧
    WritesD (.unpk · d a) (unpkSig d a) d
      (fun c l => put (rnd c) false c (etDecode (et2 c) (ftz c) ((c.read a l).toNat % 2 ^ 16))) ∧
    WritesD (.unpkh · d a) (unpkSig d a) d
      (fun c l => put (rnd c) false c (etDecode (et2 c) (ftz c) ((c.read a l).toNat / 2 ^ 16))) ∧
    WritesD (.nrw · d a b x k) (nrwSig d a b x k) d
      (fun c l => wordsOfNat (recRegs (nrwKind k))
        (narrowRecord (nrwKind k) (rnd c) (if x = 1#1 then some ((c.read b l).toNat % 256) else none) (vals c l))) ∧
    WritesD (.wide · d a b) (wideSig d a b) d
      (fun c l => wordsOf (decide (et c = 6)) (elem c l ((c.read b l).toNat % 32))) ∧
    WritesD (.wide4 · d a b) (wide4Sig d a b) d
      (fun c l => (List.range 4).map fun i => BitVec.ofNat 32 (elem c l (4 * ((c.read b l).toNat % 8) + i))) ∧
    WritesD (.scaleof · d a) (fun _ => { maj := 0x0B, opds := [wr d, rdSpan a 1] }) d
      (fun c l => wordsOf false ((c.read a l).toNat % 256)) ∧
    WritesD (.setsc · d a) (fun _ => { maj := 0x0B, opds := [{ rdSpan d 1 with dst := true }, rd a] }) d
      (fun c l => [(c.read d l).extractLsb' 8 24 ++ (c.read a l).extractLsb' 0 8])

/-- XLANE (R175, R176, R178, R179): over the domain of N = 4n lanes of the issuing part, a shuffle gives each active lane the value of A in
its source lane (0 where that lane has executed END); BALLOT and VOTE give every active lane the same mask or flags. The part must also find
A settled and unpoisoned in the whole domain. -/
def Obligations.ShuffleResults : Prop :=
  ∀ (d a b : BitVec 7) (p : BitVec 1),
    let w := fun c : Ctx => etWide (modeEtOf c.p.mode)
    let N := fun c : Ctx => 4 * c.p.n
    let base := fun c : Ctx => 4 * c.p.q
    let x := fun (c : Ctx) l => (c.read b l).toNat
    let settled := fun (o : Ctx → Opd) (_ : State) (c : Ctx) =>
      domainHits c (o c) = [] ∧ readsPoison c.w (domainLanes c) [o c] = false
    let A := fun c => rdW (w c) a
    let from_ := fun (c : Ctx) i => wordsOf (w c) (domainRead c (w c) (decide (modeEtOf c.p.mode = 6)) a (base c + i))
    let narrow : Ctx → Option Nat := fun c => if p = 1#1 then none else some (c.w.width / 4)
    let sig : Ctx → Sig := fun c => { maj := 0x0C, opds := [wrW (w c) d, rdW (w c) a, rd b], minQuads := narrow c }
    WritesDIf (settled A) (.shfl · d a b p) sig d (fun c l => from_ c (x c l % N c)) ∧
    WritesDIf (settled A) (.shflx · d a b p) sig d (fun c l => from_ c ((l - base c) ^^^ (x c l % N c))) ∧
    WritesDIf (settled A) (.shflu · d a b p) sig d
      (fun c l => from_ c (if x c l ≤ l - base c then l - base c - x c l else l - base c)) ∧
    WritesDIf (settled A) (.shfld · d a b p) sig d
      (fun c l => from_ c (if l - base c + x c l < N c then l - base c + x c l else l - base c)) ∧
    WritesDIf (settled A) (.bcst · d a b p) sig d (fun c _ => from_ c (x c c.l0 % N c)) ∧
    WritesDIf (settled A) (.qswz · d a b p) sig d
      (fun c l => from_ c (4 * ((l - base c) / 4) + x c l / 2 ^ (2 * ((l - base c) % 4)) % 4)) ∧
    WritesDIf (settled fun _ => rd a) (.ballot · d a p) (fun c => { maj := 0x0C, opds := [wrW true d, rd a], minQuads := narrow c }) d
      (fun c _ => wordsOf true ((c.act.filter fun l => decide (c.read a l ≠ 0#32)).map fun l => 2 ^ (l - base c)).sum) ∧
    WritesDIf (settled fun _ => rd a) (.vote · d a p) (fun c => { maj := 0x0C, opds := [wr d, rd a], minQuads := narrow c }) d
      (fun c _ => wordsOf false
        ((if c.act.any (fun l => decide (c.read a l ≠ 0#32)) then 1 else 0) +
         (if c.act.all (fun l => decide (c.read a l ≠ 0#32)) then 2 else 0) +
         (if c.act.all (fun l => decide (c.read a l = c.read a c.l0)) then 4 else 0)))

/-- WRED (R180 to R182): each reduction and scan completes; the reduction's value is the same in every active lane, that of the fixed tree
over the domain; a scan gives each active lane its running sum.
Integer reductions and scans by what they mean (R181, R182): under an integer MODE.ET the tree of a reduction gives the sum modulo 2^n,
the AND, the OR or the XOR of the active lanes' patterns, or their least or greatest value, and a scan gives the sum of the active lanes up to
its own, itself included or not. The part has an active lane, as each wave has quads. -/
def Obligations.ReductionResults : Prop :=
  (
    ∀ (d a : BitVec 7) (p : BitVec 1),
      let w := fun c : Ctx => etWide (modeEtOf c.p.mode)
      let settled := fun (_ : State) (c : Ctx) =>
        domainHits c (rdW (w c) a) = [] ∧ readsPoison c.w (domainLanes c) [rdW (w c) a] = false
      let put := fun (c : Ctx) x => wordsOf (w c) (extendRes (etWidth (modeEtOf c.p.mode)) (etSigned (modeEtOf c.p.mode)) x)
      WritesDIf settled (.redadd · d a p) (wredSig 0 d a p) d (fun c _ => put c (wredRes 0 a c)) ∧
      WritesDIf settled (.redmin · d a p) (wredSig 1 d a p) d (fun c _ => put c (wredRes 1 a c)) ∧
      WritesDIf settled (.redmax · d a p) (wredSig 2 d a p) d (fun c _ => put c (wredRes 2 a c)) ∧
      WritesDIf settled (.redand · d a p) (wredSig 3 d a p) d (fun c _ => put c (wredRes 3 a c)) ∧
      WritesDIf settled (.redor · d a p) (wredSig 4 d a p) d (fun c _ => put c (wredRes 4 a c)) ∧
      WritesDIf settled (.redxor · d a p) (wredSig 5 d a p) d (fun c _ => put c (wredRes 5 a c)) ∧
      WritesDIf settled (.scanadd · d a p) (wredSig 6 d a p) d (fun c l => put c (cellsGet 0 (wredScan false c a 0 c.act) l)) ∧
      WritesDIf settled (.scanaddx · d a p) (wredSig 7 d a p) d (fun c l => put c (cellsGet 0 (wredScan true c a 0 c.act) l))) ∧
  (
    ∀ (z : Bool) (s : State) (c : Ctx) (a : BitVec 7), issueCtx z s = some c → c.act ≠ [] →
      etInt (modeEtOf c.p.mode) = true →
      let n := etWidth (modeEtOf c.p.mode)
      let sg := etSigned (modeEtOf c.p.mode)
      let pat := fun l => c.readNat (etWide (modeEtOf c.p.mode)) false a l % 2 ^ n
      wredRes 0 a c = (c.act.map pat).sum % 2 ^ n ∧
      (∀ i, (wredRes 3 a c).testBit i = c.act.all fun l => (pat l).testBit i) ∧
      (∀ i, (wredRes 4 a c).testBit i = c.act.any fun l => (pat l).testBit i) ∧
      wredRes 5 a c = (c.act.map pat).foldl (· ^^^ ·) 0 ∧
      (wredRes 1 a c ∈ c.act.map pat ∧ ∀ l ∈ c.act, intOf n sg (wredRes 1 a c) ≤ intOf n sg (pat l)) ∧
      (wredRes 2 a c ∈ c.act.map pat ∧ ∀ l ∈ c.act, intOf n sg (pat l) ≤ intOf n sg (wredRes 2 a c)) ∧
      (∀ l ∈ c.act, cellsGet 0 (wredScan false c a 0 c.act) l = ((c.act.filter (· ≤ l)).map pat).sum % 2 ^ n) ∧
      (∀ l ∈ c.act, cellsGet 0 (wredScan true c a 0 c.act) l = ((c.act.filter (· < l)).map pat).sum % 2 ^ n))

/-- SFN (R183, R184, R187): a special-function word with room in the quarter's queue for an entry of each quad of the part, its inactive quads too,
completes: the part holds one more writeback under the
token, with one result for each active lane (that of `sfnResult`, one of the values that the bound of R187 allows: log 16), and the destination
itself is not written yet; without room the part gives up the port. Where the spec leaves a choice, it is the model's: log 16. -/
def Obligations.SpecialFunctionIssue : Prop :=
  ∀ (d a : BitVec 7) (k : BitVec 4),
    let room := fun (hi : Bool) (s : State) (c : Ctx) => sfnQueued (begun c (sfnSig hi d a k c) s) (quarterOf c.key) + c.p.n ≤ 64
    let res := fun (f : Nat) (c : Ctx) l =>
      [BitVec.ofNat 32 (sfnResult f (modeEtOf c.p.mode) (modeFtzOf c.p.mode)
        ((c.read a l).toNat % (2 * (fmtOf (modeEtOf c.p.mode)).signBit)))]
    let back := fun (f : Nat) (c : Ctx) (id : Nat) =>
      ({ id := id, kind := .sfn k.toNat, window := 0, vals := pendVals c d (res f c), uvals := pendUvals c d (res f c), bq := c.p.q, bn := c.p.n,
         ulane := c.l0, lanes := c.act, quads := (List.range c.p.n).map (· + c.p.q) } : Pend)
    let enqueue := fun (f : Nat) (c : Ctx) (s : State) =>
      countEvent (coreOf c.key) 0x0D c.p.n c.w.ctx
        ({ s with nextId := s.nextId + 1 }.modPart c.key c.q fun p => { p with pend := p.pend ++ [back f c s.nextId] })
    let both := fun (f : Nat) (hi : Bool) (w : Bool → Instr) =>
      FallsIf (room hi) w (sfnSig hi d a k) (fun _ => 1) (enqueue f) ∧
      WaitsIf (fun s c => ¬ room hi s c) w (sfnSig hi d a k) (fun c => .cond (.sfnRoom c.p.n))
    both 0 false (.rcp · d a k) ∧
    both 1 false (.rsq · d a k) ∧
    both 2 false (.sqrt · d a k) ∧
    both 3 false (.exp2 · d a k) ∧
    both 4 false (.log2 · d a k) ∧
    both 5 false (.sin · d a k) ∧
    both 6 false (.cos · d a k) ∧
    both 7 false (.tanh · d a k) ∧
    both 8 true (.sigm · d a k) ∧
    both 9 true (.erf · d a k) ∧
    both 10 true (.silu · d a k) ∧
    both 11 true (.atan · d a k)

/-- KX and KXW (R83, R84, R150): a prefix word completes: the part goes to the next word of its group, which counts one prefix more, and holds the
constant (KX alone is sign-extended; behind KXW it gives the low 25 bits); a second KX, or a KXW behind a prefix, raises ILLEGAL with REASON 5 at itself if a lane is active.
MODE (R85, R86, R151 to R153): each word completes: MODE takes the new value of the field it names and keeps the other bits; MODE.WORD
takes the whole word from the lowest active lane. A v register that GREG or FREG would name beyond the declared count raises REGBOUND instead. With
no active lane a value that is accepted is written too, and another is not (R152). Where the spec leaves a choice, it is the model's: log 17. -/
def Obligations.PrefixAndModeWords : Prop :=
  (
    ∀ (s : State) (c : Ctx) (k : BitVec 25) (h : BitVec 7), issueCtx false s = some c → guardHits c = [] →
        guardPoison c = false →
      let goes := fun (i : Instr) (f : Part → Part) =>
        exec i s = .next (s.modPart c.key c.q fun p =>
          { f p with prefixPc := some (p.prefixPc.getD p.pc), pc := p.pc + 4#32, prefixN := p.prefixN + 1 })
      let traps := fun (i : Instr) (maj : Nat) =>
        exec i s = .next (endWord c (passes c.p.n) (some 2) (takeTrap c.key c.q c.p.pc { illegal maj 5 with bare := true } s))
      (c.act = [] ∨ c.p.prefixK = none →
        goes (.kx k) fun p => { p with prefixK := some (match p.prefixHi with
          | some w => w ||| k.zeroExtend 32
          | none => k.signExtend 32) }) ∧
      (c.act = [] ∨ c.p.prefixPc = none → goes (.kxw h) fun p => { p with prefixHi := some (h.zeroExtend 32 <<< 25) }) ∧
      (c.act ≠ [] → c.p.prefixK ≠ none → traps (.kx k) 0x3F) ∧
      (c.act ≠ [] → c.p.prefixPc ≠ none → traps (.kxw h) 0x3E)) ∧
  (
    ∀ (e4 : BitVec 4) (e3 : BitVec 3) (e2 : BitVec 2) (e1 g p : BitVec 1) (r d : BitVec 7),
      let field := fun (lo n : Nat) (x : Nat) (m : Word) =>
        BitVec.ofNat 32 (m.toNat % 2 ^ lo + 2 ^ lo * x + 2 ^ (lo + n) * (m.toNat / 2 ^ (lo + n)))
      let sets := fun (i : Bool → Instr) (f : Word → Word) =>
        let put := fun (c : Ctx) (s : State) => s.modPart c.key c.q fun p => { p with mode := f c.p.mode }
        let accepted := fun c : Ctx => modeOk (f c.p.mode) = true ∧ modeBeyond c.w (f c.p.mode) = none
        FallsIf (fun _ c => modeBeyond c.w (f c.p.mode) = none) i (fun c => { maj := 0x2A, badMode := !modeOk (f c.p.mode) }) (fun _ => 1) put ∧
        IdlesIf (fun _ c => accepted c) i put ∧ IdlesIf (fun _ c => ¬ accepted c) i (fun _ s => s)
      sets (.modeEt · e4) (field 0 4 e4.toNat) ∧
      sets (.modeEt2 · e4) (field 4 4 e4.toNat) ∧
      sets (.modeRnd · e3) (field 8 3 e3.toNat) ∧
      sets (.modeSat · e1) (field 11 1 e1.toNat) ∧
      sets (.modeFtz · e1) (field 12 1 e1.toNat) ∧
      sets (.modeGuard · g p r) (field 13 9 (g.toNat + 2 * p.toNat + 4 * r.toNat)) ∧
      sets (.modeFreg · r) (field 22 7 r.toNat) ∧
      sets (.modeSpl · e2) (field 30 2 e2.toNat) ∧
      sets (.modeUtrap · e1) (field 29 1 e1.toNat) ∧
      FallsIf (fun _ c => modeOk (c.read d c.l0) = true ∧ modeBeyond c.w (c.read d c.l0) = none) (.modeWord · d)
        (fun _ => { maj := 0x2A, opds := [rd d] }) (fun _ => 1)
        (fun c s => s.modPart c.key c.q fun p => { p with mode := c.read d c.l0 }))

/-- SREAD and SWRITE (R99 to R102, R154, R155): SREAD writes the selector's value; SWRITE clears the sticky bits of STATUS that a one selects,
writes TVEC with its writer block, writes the trap registers (TCAUSE keeps bits [9:0]), ARBCFG.RTO, or an index register lane by lane.
What SREAD gives for the selectors of R100 that name the wave's place and the part's registers.
The g registers (R112, R155): GREAD returns the value from before every write of the last three cycles of its core, else the register's; GWRITE,
GXCHG and GADD change it with the value of the lowest active lane at once, and the last two return its old value. RGN and RGNADD (R156) set
the wave's region set or add to it, when the marked registers are declared. -/
def Obligations.RegisterAccessWords : Prop :=
  (
    (
      ∀ (d : BitVec 7) (e : BitVec 14),
        let wsig : Ctx → Sig := fun _ => { maj := 0x2B, badField := !selWritable e.toNat, opds := [{ rdW (selWide e.toNat) d with lanes := true }] }
        (∀ z s c, Ready z s c { maj := 0x2B, badField := !selListed e.toNat, opds := [wrW (selWide e.toNat) d] } →
          ∃ t, exec (.sread z d e) s = .next t ∧ Wrote s t c d (fun l => wordsOf (selWide e.toNat) (selRead s c e.toNat l))) ∧
        Falls (.swrite · d e) wsig (fun _ => 1) (fun c s =>
          let x := c.read d c.l0
          if 0x30 ≤ e.toNat then s.modWave c.key fun w => writeX (e.toNat - 0x30) (c.read d) w c.act
          else if e.toNat = 0x16 then s.modWave c.key fun w => { w with rto := x.toNat % 2 ^ 14 }
          else s.modPart c.key c.q fun p =>
            if e.toNat = 0x13 then
              { p with ucf := p.ucf && !x.getLsbD 0, poison := p.poison && !x.getLsbD 1, corr := p.corr && !x.getLsbD 2 }
            else if e.toNat = 0x20 then { p with tvec := { val := x, bq := p.q, bn := p.n } }
            else if e.toNat = 0x21 then { p with trappc := x }
            else if e.toNat = 0x22 then { p with tcause := x &&& 0x3FF#32 }
            else if e.toNat = 0x23 then { p with tinfo := x }
            else if e.toNat = 0x24 then { p with taddr := c.read64 false d c.l0 }
            else p)) ∧
    (
      ∀ (s : State) (c : Ctx) (l : Nat),
        let g := kgetD {} s.grids c.w.grid
        let v := fun e => selRead s c e l
        v 0x00 = l ∧ v 0x01 = l / 4 ∧ v 0x02 = c.w.width ∧ v 0x03 = c.p.q ∧ v 0x04 = c.p.n ∧ v 0x05 = c.w.index ∧
        v 0x06 = g.launch.wgwaves * c.w.width ∧ v 0x07 = (c.wg s).x ∧ v 0x08 = (c.wg s).y ∧ v 0x09 = (c.wg s).z ∧
        v 0x0A = g.launch.gridid ∧ v 0x0B = g.depth ∧ v 0x0C = coreOf c.key ∧ v 0x0D = clusterOf (coreOf c.key) ∧
        v 0x0E = dieOf (coreOf c.key) ∧ v 0x0F = c.w.partition ∧ v 0x10 = c.w.vbase ∧ v 0x11 = c.w.vbound ∧ v 0x12 = c.w.regs ∧
        v 0x13 = (b2n c.p.ucf + 2 * b2n c.p.poison + 4 * b2n c.p.corr + 16 * b2n c.p.handler + 32 * b2n c.w.ctrl) % 2 ^ 32 ∧
        v 0x14 = c.p.role ∧ v 0x15 = (c.wg s).stage ∧ v 0x16 = arbcfgWord s c.w ∧ v 0x17 = c.p.mode.toNat ∧
        v 0x18 = (s.partition c.w.partition).aplocal ∧ v 0x19 = (s.partition c.w.partition).apshared ∧
        v 0x1A = (s.partition c.w.partition).apcluster ∧ v 0x20 = c.p.tvec.val.toNat ∧ v 0x21 = c.p.trappc.toNat ∧
        v 0x22 = c.p.tcause.toNat ∧ v 0x23 = c.p.tinfo.toNat ∧ v 0x24 = c.p.taddr.toNat ∧ v 0x25 = c.p.tspc.toNat ∧
        v 0x26 = c.p.tpart.toNat ∧ (∀ i, i < 3 → v (0x28 + i) = ((c.p.loops[i]?).map (·.lc.toNat)).getD 0) ∧
        (∀ i, i < 4 → v (0x30 + i) = (c.w.getX i l).toNat))) ∧
  (
    ∀ (d a : BitVec 7) (k : BitVec 5) (i : BitVec 14),
      let old := fun (c : Ctx) (s : State) => cellsGet 0#32 (c.wg s).g k.toNat
      let now := fun (c : Ctx) (s : State) => cycleOf s (coreOf c.key)
      let put := fun (c : Ctx) (s : State) (x : Word) => s.modWg c.w.wg (gwriteWg (now c s) k.toNat x)
      let declared := fun (_ : State) (c : Ctx) => ∀ r ∈ markedRegs a i, r < c.w.regs
      (∀ z s c, Ready z s c { maj := 0x2B, opds := [wr d] } →
        ∃ t, exec (.gread z d k) s = .next t ∧ Wrote s t c d (fun _ => [
          match (c.wg s).gops.find? (fun o => decide (o.reg = k.toNat) && decide (now c s < o.cycle + 3)) with
          | some o => o.old
          | none => cellsGet 0#32 (c.wg s).g k.toNat])) ∧
      Falls (.gwrite · d k) (fun _ => { maj := 0x2B, opds := [rd d] }) (fun _ => 1) (fun c s => put c s (c.read d c.l0)) ∧
      Falls (.gxchg · d k) (fun _ => { maj := 0x2B, opds := [rw_ false d] }) (fun _ => 1)
        (fun c s => writeReg c d (fun _ => old c s) (put c s (c.read d c.l0))) ∧
      Falls (.gadd · d k) (fun _ => { maj := 0x2B, opds := [rw_ false d] }) (fun _ => 1)
        (fun c s => writeReg c d (fun _ => old c s) (put c s (old c s + c.read d c.l0))) ∧
      FallsIf declared (.rgn · a i) (rgnSig a) (fun _ => 1)
        (fun c s => s.modWave c.key fun w => { w with region := (markedRegs a i).foldl (fun t r => setIns r t) [] }) ∧
      FallsIf declared (.rgnadd · a i) (rgnSig a) (fun _ => 1)
        (fun c s => s.modWave c.key fun w => { w with region := (markedRegs a i).foldl (fun t r => setIns r t) w.region }))

/-- The matrix words (R189 to R206): at its version, with room for the operation and no matrix trap, each completes: MMA, MMAT and AMOVW
give the tile one more operation with the new elements of each pair of active lanes (of each lane's row for AMOVW), ACLR one that clears it,
and each adds one to VA; AMOVR and ASCL give the part a read of the tile's rows.
VERSION (R190): a matrix word whose V is not the tile's VA waits while an operation of the tile is pending, and traps with cause 9 when
none is; one at its version waits while eight operations are pending. Where the spec leaves a choice, it is the model's: log 23. -/
def Obligations.MatrixWords : Prop :=
  (
    ∀ (t : BitVec 3) (a b : BitVec 7) (b6 : BitVec 6) (v l : BitVec 4),
      let T := fun c : Ctx => c.w.tile t.toNat
      let at_ := fun c : Ctx => (T c).va = v.toNat ∧ (T c).ops.length < 8
      let ka := fun c : Ctx => bitsOf (fmtWord c) 3 0
      let kb := fun c : Ctx => bitsOf (fmtWord c) 7 4
      let row := fun (c : Ctx) l => laneRow c a (ka c) l
      let col := fun (c : Ctx) l => laneRow c b (kb c) l
      let trow := fun (c : Ctx) l => tRow c a l
      let tcol := fun (c : Ctx) l => natOfWords (c.readSpan (b6.zeroExtend 7) 5 l)
      let rows := fun c : Ctx => c.act.map fun l => (l, trow c l)
      let cols := fun c : Ctx => c.act.map fun l => (l, tcol c l)
      let fixed := fun (s32 : Bool) (c : Ctx) (x : TileMeta) => { x with width := 4 * c.p.n, s32 := s32 }
      let noted := fun (c : Ctx) (x : TileMeta) =>
        { fixed true c x with
          sa := (rows c).foldl (fun r y => scaleNote (scaleNote r (rowOf c y.1, recScale y.2.1)) (rowOf c y.1, recScale y.2.2)) x.sa,
          sb := (cols c).foldl (fun r y => scaleNote r (rowOf c y.1, recScale y.2)) x.sb }
      let mmatOk := fun c : Ctx => at_ c ∧ fmtTrap .mmat c t.toNat v.toNat = none ∧ fixTrap c t.toNat v.toNat true = none ∧
        scaleTrap c t.toNat v.toNat (rows c) (cols c) = none
      let tern := fun (codes : Nat → List Nat) (twice : Nat → Bool) (c : Ctx) (s : State) =>
        poisonPart c (c.act.any (fun l => recScale (trow c l).1 == 0xFF || recScale (trow c l).2 == 0xFF) ||
            c.act.any fun l => recScale (tcol c l) == 0xFF || twice (tcol c l) || (codes (tcol c l)).any (· == 2))
          (acceptOp c t.toNat false (newElems c t.toNat fun x i j => accT2 x (trow c i).1 (trow c i).2 (tcol c j) (codes (tcol c j)))
            (noted c) s)
      let read := fun (c : Ctx) (la : Nat) (f : Nat → List Word) (s : State) => readTile c t.toNat a la f s
      FallsIf (fun _ c => at_ c ∧ fmtTrap .mma c t.toNat v.toNat = none ∧ (rdSpan a (rowRegs (ka c))).bound c.w c.act = none ∧
          (rdSpan b (rowRegs (kb c))).bound c.w c.act = none ∧ fixTrap c t.toNat v.toNat false = none)
        (.mma · t a b v l) (mmaSig t a b) (fun _ => 1)
        (fun c s => poisonPart c (c.act.any (fun l => s8Poison (ka c) (row c l)) || c.act.any fun l => s8Poison (kb c) (col c l))
          (acceptOp c t.toNat false (newElems c t.toNat fun x i j => mmaAcc (fmtWord c) x (row c i) (col c j)) (fixed false c) s)) ∧
      FallsIf (fun _ c => mmatOk c) (.mmat · t a b6 v l) (mmatSig t a b6) (fun _ => 1) (tern denseCodes fun _ => false) ∧
      FallsIf (fun _ c => mmatOk c) (.mmatSp · t a b6 v l) (fun c => { mmatSig t a b6 c with badStep := !c.b0 }) (fun _ => 1)
        (tern (fun x => (sparseCodes x).1) fun x => (sparseCodes x).2) ∧
      FallsIf (fun _ c => at_ c) (.aclr · t v l) (mtileSig t false []) (fun _ => 1)
        (fun c s => acceptOp c t.toNat true [] id s) ∧
      FallsIf (fun _ c => at_ c ∧ widthTrap c t.toNat v.toNat = none) (.amovr · t a v l)
        (fun c => mtileSig t false [wrSpan a (4 * c.p.n)] c) (fun _ => 1)
        (fun c s => read c l.toNat (fun i => (List.range (4 * c.p.n)).map fun j => tileElem (T c).settled (rowOf c i) j) s) ∧
      FallsIf (fun _ c => at_ c ∧ widthTrap c t.toNat v.toNat = none) (.amovw · t a v l)
        (fun c => mtileSig t false [rdSpan a (4 * c.p.n)] c) (fun _ => 1)
        (fun c s => acceptOp c t.toNat false
          (c.act.flatMap fun i => (List.range (4 * c.p.n)).map fun j => (64 * rowOf c i + j, c.readAt a j i)) id s) ∧
      FallsIf (fun _ c => at_ c ∧ fmtTrap .ascl c t.toNat v.toNat = none ∧ widthTrap c t.toNat v.toNat = none)
        (.ascl · t a v l)
        (fun c => mtileSig t (!asclEt (modeEtOf c.p.mode))
          [rd (modeFregOf c.p.mode), wrSpan a (4 * c.p.n * etWidth (modeEtOf c.p.mode) / 32)] c) (fun _ => 1)
        (fun c s =>
          let bits := etWidth (modeEtOf c.p.mode)
          let k := sintOf 8 (bitsOf (fmtWord c) 23 16)
          let elem := fun i j => convTo (modeEtOf c.p.mode) (modeRndOf c.p.mode) (modeSatOf c.p.mode) false false
            (asclValue (T c).accepted k (rowOf c i) j (tileElem (T c).settled (rowOf c i) j))
          read c l.toNat (fun i => (List.range (4 * c.p.n * bits / 32)).map fun m => packElems bits (32 / bits) (elem i) m) s)) ∧
  (
    ∀ (t : BitVec 3) (a b : BitVec 7) (b6 : BitVec 6) (v l : BitVec 4),
      let off := fun c : Ctx => (c.w.tile t.toNat).va ≠ v.toNat
      let both := fun (i : Bool → Instr) (sig : Ctx → Sig) =>
        WaitsIf (fun _ c => off c ∧ (c.w.tile t.toNat).ops ≠ []) i sig (fun _ => .cond (.tile t.toNat v.toNat)) ∧
        WaitsIf (fun _ c => ¬ off c ∧ 8 ≤ (c.w.tile t.toNat).ops.length) i sig (fun _ => .cond (.tileRoom t.toNat)) ∧
        TrapsIf (fun _ c => off c ∧ (c.w.tile t.toNat).ops = []) i sig (fun c => tileTrap 9 c t.toNat v.toNat 0)
      both (.mma · t a b v l) (mmaSig t a b) ∧
      both (.mmat · t a b6 v l) (mmatSig t a b6) ∧
      both (.mmatSp · t a b6 v l) (fun c => { mmatSig t a b6 c with badStep := !c.b0 }) ∧
      both (.aclr · t v l) (mtileSig t false []) ∧
      both (.amovr · t a v l) (fun c => mtileSig t false [wrSpan a (4 * c.p.n)] c) ∧
      both (.amovw · t a v l) (fun c => mtileSig t false [rdSpan a (4 * c.p.n)] c) ∧
      both (.ascl · t a v l)
        (fun c => mtileSig t (!asclEt (modeEtOf c.p.mode))
          [rd (modeFregOf c.p.mode), wrSpan a (4 * c.p.n * etWidth (modeEtOf c.p.mode) / 32)] c))

/-! ## Words that access memory -/

/-- LD, LDV, ST, LDX and STX (R263 to R272): with every access granted, a load reads the bytes of each lane's access and issues a writeback of
them (the sign of S8 and S16 extended; zeros above a record); a store gives the bytes of each lane's registers to its access, in increasing lane
order, behind what the part's own loads of those bytes have still to read. A plain load's bytes are those that its core sees, while nothing keeps an
old copy of them, and so are an invariant load's (R250, R259). Where the spec leaves a choice, it is the model's: log 66. -/
def Obligations.LoadsAndStores : Prop :=
  (∀ (d a b : BitVec 7) (i : BitVec 1) (h : BitVec 2) (n l : BitVec 4),
    let et := fun c : Ctx => modeEtOf c.p.mode
    let size := fun c : Ctx => memSize (et c)
    let core := fun c : Ctx => coreOf c.key
    let ea := fun (c : Ctx) k => (c.read64 false a k + (c.read b k).signExtend 64).toNat
    let eaX := fun (c : Ctx) k => (c.read64 false a k).toNat
    let bytes := fun c : Ctx => if etNarrow (et c) then 4 * (n.toNat + 1) - 3 else 4 * (n.toNat + 1)
    let elem := fun (c : Ctx) (bs : List Byte) => wordsOf (etWide (et c))
      (if et c = 9 ∨ et c = 11 then extendRes (8 * size c) true (natOfBytes bs) else natOfBytes bs)
    let regs := fun (_ : Ctx) (bs : List Byte) => wordsOfNat (n.toNat + 1) (natOfBytes bs)
    let noted := fun (c : Ctx) (conv : Conv) (ps : List (Nat × Places)) (u t : State) =>
      if codeIsVec d = true then t.modPart c.key c.q fun p =>
        { p with pend := p.pend.map fun x =>
            if x.id = u.nextId then { x with reads := ps.map fun y => { lane := y.1, places := y.2, conv := conv } } else x }
      else t
    let plain := fun (c : Ctx) (conv : Conv) (f : Ctx → List Byte → List Word) (ps : List (Nat × Places)) (u : State) =>
      noted c conv ps u (writeLater c d l.toNat (fun k => f c (loadPlaces u (core c) (placesOf ps k))) u)
    let inv := fun (c : Ctx) (f : Ctx → List Byte → List Word) (ps : List (Nat × Places)) (u : State) =>
      writeLater c d l.toNat (fun k => f c (invPlaces u c.w.grid (core c) (placesOf ps k))) { u with fresh := u.fresh + 1 }
    let stored := fun (c : Ctx) (f : Nat → List Byte) (ps : List (Nat × Places)) (u : State) =>
      ps.foldl (fun s x => storePlaces (core c) (f x.1) x.2 s) (readsFirst c ps u)
    MemFalls true (.ld · d a b l) (loadSig 0x14 d a b) (fun c => laneReqs c (ea c) (size c)) size accRead (fun _ _ => noExtra)
      (fun c ps u => plain c (.elem (et c)) elem ps (sampled c (ea c) 0x14 u)) ∧
    MemFalls true (.ldv · d a b l) (loadSig 0x16 d a b) (fun c => laneReqs c (ea c) (size c)) size accRead (fun _ _ => noExtra)
      (fun c ps u => inv c elem ps (sampled c (ea c) 0x16 u)) ∧
    MemFalls false (.st · d a b l) (fun c => { maj := 0x15, opds := [rdW (etWide (et c)) d, rdAddr a, rd b] })
      (fun c => laneReqs c (ea c) (size c)) size accWrite (fun _ _ => noExtra)
      (fun c ps u => stored c (fun k => bytesOfNat (size c) (c.readNat (etWide (et c)) (decide (et c = 6)) d k)) ps (sampled c (ea c) 0x15 u)) ∧
    MemFalls true (.ldx · d a i h n l) (fun _ => { maj := 0x17, opds := [wrSpan d (n.toNat + 1), rdAddr a] })
      (fun c => laneReqs c (eaX c) (bytes c)) (fun _ => 1) accRead (fun _ _ => noExtra)
      (fun c ps u =>
        if i = 1#1 then inv c regs ps (sampled c (eaX c) 0x17 u) else plain c (.words (n.toNat + 1)) regs ps (sampled c (eaX c) 0x17 u)) ∧
    MemFalls false (.stx · d a h n l) (fun _ => { maj := 0x13, opds := [rdSpan d (n.toNat + 1), rdAddr a] })
      (fun c => laneReqs c (eaX c) (bytes c)) (fun _ => 1) accWrite (fun _ _ => noExtra)
      (fun c ps u => stored c (fun k => bytesOfNat (bytes c) (natOfWords (c.readSpan d (n.toNat + 1) k))) ps (sampled c (eaX c) 0x13 u))) ∧
  (∀ s core grid ps, s.stale = [] → loadPlaces s core ps = readPlaces s (.core core) ps ∧
    invPlaces s grid core ps = readPlaces s (.core core) ps)

/-- THE FRAME OF THE STORING WORDS ST and STX (R246, R249, R270, R272), whose stores go to the pieces `ps` that their addresses resolve to
(`LoadsAndStores`): every byte that no piece covers reads as before, in every view and under every key tag; and a byte of the last lane's access
reads, for the core itself, as the stored byte (in a replicated page, which is written at once, where no store of the core to it is still on
its way). Where the spec leaves a choice, it is the model's: log 66. -/
def Obligations.StoreFrame : Prop :=
  ∀ (core : Nat) (f : Nat → List Byte) (ps : List (Nat × Places)) (u : State),
    let after := fun qs : List (Nat × Places) => qs.foldl (fun s x => storePlaces core (f x.1) x.2 s) u
    let t := after ps
    (∀ vw m tag a, ¬ coversByte ps m a → physRead t vw m tag a = physRead u vw m tag a) ∧
    (∀ ps' l off n m a0 tag r a, ps = ps' ++ [(l, [(off, n, .byte m a0 tag r)])] → a0 ≤ a → a < a0 + n →
      off + n ≤ (f l).length → (m = .spad → ∀ x ∈ u.stores, x.mem ≠ .spad) →
      (r = true → ∀ x ∈ (after ps').stores, x.covers m a = false) →
      physRead t (.core core) m tag a = (f l).getD (off + (a - a0)) 0#8)

/-- ATOM (R246, R273, R274): with every access granted, each lane in increasing order reads its cell at the scope's point (local space at its core's
L1) and writes the new value of its op in one step;
the old values are issued as a writeback; and the new value of each op is as stated. -/
def Obligations.AtomicWords : Prop :=
  ∀ (d a : BitVec 7) (sc : BitVec 3) (l : BitVec 4),
    let atom := fun (op : Nat) (w : Bool → Instr) =>
      MemFalls true w (atomSig op d a sc) (fun c => laneReqs c (eaPair c a) (etWidth (modeEtOf c.p.mode) / 8))
        (fun c => etWidth (modeEtOf c.p.mode) / 8) accAtomic (fun s c => peerScope s c.w sc.toNat)
        (fun c ps u =>
          let r := atomLanes c op d (fun k => laneScope u c.w sc.toNat (eaPair c a k))
            (countEvent (coreOf c.key) 0x0B c.act.length c.w.ctx (readsFirst c ps u)) ps
          writeLater c d l.toNat (fun k => wordsOf (etWide (modeEtOf c.p.mode)) (kgetD 0 r.2 k)) (sampled c (eaPair c a) 0x18 r.1))
    atom 0 (.atomAdd · d a sc l) ∧
    atom 1 (.atomMin · d a sc l) ∧
    atom 2 (.atomMax · d a sc l) ∧
    atom 3 (.atomMinn · d a sc l) ∧
    atom 4 (.atomMaxn · d a sc l) ∧
    atom 5 (.atomAnd · d a sc l) ∧
    atom 6 (.atomOr · d a sc l) ∧
    atom 7 (.atomXor · d a sc l) ∧
    atom 8 (.atomXchg · d a sc l) ∧
    atom 9 (.atomCas · d a sc l) ∧
    atom 10 (.atomFadd · d a sc l) ∧
    atom 11 (.atomIncw · d a sc l) ∧
    atom 12 (.atomFmin · d a sc l) ∧
    (∀ w rnd ftz o x v,
      let m := if w = 64 then fmtF64 else fmtF32
      let fl := fun y => m.decode (m.flush ftz y)
      atomNew 0 w rnd ftz o x v = (o + x) % 2 ^ w ∧
      atomNew 1 w rnd ftz o x v = (if sintOf w x < sintOf w o then x else o) ∧
      atomNew 2 w rnd ftz o x v = (if sintOf w o < sintOf w x then x else o) ∧
      atomNew 3 w rnd ftz o x v = min o x ∧ atomNew 4 w rnd ftz o x v = max o x ∧
      atomNew 5 w rnd ftz o x v = o &&& x ∧ atomNew 6 w rnd ftz o x v = o ||| x ∧ atomNew 7 w rnd ftz o x v = o ^^^ x ∧
      atomNew 8 w rnd ftz o x v = x ∧ atomNew 9 w rnd ftz o x v = (if o = x then v else o) ∧
      atomNew 10 w rnd ftz o x v = m.flush ftz (m.round rnd (FVal.add rnd (fl o) (fl x))) ∧
      atomNew 11 w rnd ftz o x v = (if x ≤ o then 0 else o + 1) ∧
      atomNew 12 w rnd ftz o x v = m.flush ftz (m.round rnd (fminVal (fl o) (fl x))))

/-- FUT (R275 to R278): with every access granted, and behind the part's own loads, lane by lane in increasing order, FPUT fills an empty cell and
writes status 0, else 1; FPUT.T fills the cells and completes when all were empty, or raises FUTFULL at the first full one; FTAKE takes the values
and completes, or, when a cell is empty, leaves that lane asleep, with every window closed and the run ended; FTAKE.N takes what is there, with a
status; FPEEK reads value and tag; FCLR empties the cell. A full cell holds the value, the tag and the scope, and zeros; an emptied one keeps the value.
Where the spec leaves a choice, it is the model's: log 24. -/
def Obligations.FutureWords : Prop :=
  (∀ (d a : BitVec 7) (sc : BitVec 3) (l : BitVec 4),
    let ea := fun c : Ctx => eaPair c a
    let now := fun (c : Ctx) (u : State) => (sampled c (ea c) 0x19 u).modPart c.key c.q performReads
    let at_ := fun (c : Ctx) (u : State) k => laneScope (now c u) c.w sc.toNat (ea c k)
    let fut := fun (w : Bool → Instr) (sig : Ctx → Sig) (x : Acc) (eff : Ctx → List (Nat × Places) → (Nat → Nat) → State → State) =>
      MemFalls true w sig (fun c => laneReqs c (ea c) 16) (fun _ => 16) x (fun s c => peerScope s c.w sc.toNat)
        (fun c ps u => eff c ps (at_ c u) (now c u))
    let ends := fun (w : Bool → Instr) (sig : Ctx → Sig) (T : Ctx → List (Nat × Places) → (Nat → Nat) → State → State) =>
      ∀ z s c u ps, Ready z s c (sig c) →
        Granted c.w (laneReqs c (ea c) 16) 16 accAtomic (peerScope (begun c (sig c) s) c.w sc.toNat) (begun c (sig c) s) u ps →
        takeWaits c c.act = [] → (ps.any fun x => placesPoisoned u x.2) = false →
        exec (w z) s = .next (T c ps (at_ c u) (now c u))
    let falls := fun (c : Ctx) (t : State) => endWord c (1 * passes c.p.n + redirect c t) none (fallThrough c t)
    fut (.fput · d a sc l) (futSig d a sc 2 3) accAtomic (fun c ps at_ u =>
      issuePend c l.toNat (fputLanes c d at_ u ps).2 [] (fputLanes c d at_ u ps).1) ∧
    ends (.fputT · d a sc l) (futSig d a sc 2 2) (fun c ps at_ u =>
      match (fputTLanes c d at_ u ps).2 with
      | none => falls c (fputTLanes c d at_ u ps).1
      | some k => endWord c (passes c.p.n) (some 2) (takeTrap c.key c.q c.pc0
          { cause := 0x11, info := BitVec.ofNat 32 k, addr := some (BitVec.ofNat 64 (ea c k)) } (fputTLanes c d at_ u ps).1)) ∧
    ends (.ftake · d a sc l) (futSig d a sc 0 2) (fun c ps at_ u =>
      let r := ftakeLanes c d a at_ u ps
      if r.2.2 = [] then falls c (issuePend c l.toNat r.2.1 [] r.1)
      else endWord c (passes c.p.n) (some 2) (fallThrough c (issuePend c 0 r.2.1 r.2.2 (closeWindows c.key c.q r.1)))) ∧
    fut (.ftakeN · d a sc l) (futSig d a sc 0 3) accAtomic (fun c ps at_ u =>
      issuePend c l.toNat (ftakeNLanes c d at_ u ps).2 [] (ftakeNLanes c d at_ u ps).1) ∧
    fut (.fpeek · d a sc l) (futSig d a sc 0 3) accPeek (fun c ps at_ u =>
      issuePend c l.toNat (ps.flatMap fun x =>
        let bs := (atomStep (coreOf c.key) (at_ x.1) x.2 (fun _ => none) u).2
        (cellValue bs ++ [if cellFull bs then 1#32 else 0#32]).zipIdx.map fun y => (x.1, spanReg c d y.2 x.1, y.1)) [] u) ∧
    fut (.fclr · a sc l) (futSig 0#7 a sc 0 0) accAtomic (fun c ps at_ u =>
      ps.foldl (fun s x => (atomStep (coreOf c.key) (at_ x.1) x.2 (fun b => some (emptied (some sc.toNat) b)) s).1) u)) ∧
  (∀ (v scope : Nat) (bs : List Byte), bs.length = 16 →
    cellFull (fullCell v scope) = true ∧ cellValue (fullCell v scope) = words64 (BitVec.ofNat 64 v) ∧ (fullCell v scope).length = 16 ∧
    (∀ x, cellFull (emptied x bs) = false ∧ cellValue (emptied x bs) = cellValue bs ∧ (emptied x bs).length = 16 ∧
      ∀ k, 10 ≤ k → (emptied x bs).getD k 0#8 = 0#8))

/-- FENCE (R251, R253, R260, R279, R280): with E an engine operation of the part in progress keeps it waiting, and so does a lane that sleeps on an
FTAKE; else the part's loads are performed, FENCE.REL, .AR and .SC perform at the scope every write that the core can see, and FENCE.ACQ, .AR and .SC,
and any fence with E, leave the core's later loads no copy that is older than the scope's point; all the same with no lane active.
CACHE (R236, R237, R239, R281 to R283): PREF and PREF2 only look the first piece of each address up; with every access granted CLOCK1 and CLOCK2 write
a status; CUNLK1 and CUNLK2 end the context's locks; CWB, CINV and CWBINV write back, discard and drop lines; ISYNC discards the core's code of the
context and the quarter's loop bodies of it, with or without an active lane. Where the spec leaves a choice, it is the model's: log 25. -/
def Obligations.FenceAndCacheWords : Prop :=
  (
    ∀ (e : BitVec 1) (sc : BitVec 3), sc.toNat < 6 →
      let sig : Ctx → Sig := fun _ => { maj := 0x1A, badField := decide (6 ≤ sc.toNat) }
      let lanes := fun c : Ctx => blockLanes c.p.q c.p.n
      let joined := fun c : Ctx => e = 0#1 ∨ c.p.engines = []
      let clear := fun (_ : State) (c : Ctx) => joined c ∧ takeWaits c (lanes c) = []
      let reads := fun (c : Ctx) (s : State) => s.modPart c.key c.q performReads
      let release := fun (c : Ctx) (s : State) => performStores (reads c s) (fun x => x.visible (.core (coreOf c.key))) sc.toNat
      let acquire := fun (c : Ctx) (s : State) => physAcquire s (coreOf c.key) sc.toNat
      let both := fun (w : Bool → Instr) (eff : Ctx → State → State) =>
        FallsIf clear w sig (fun _ => 1) eff ∧ IdlesIf clear w eff ∧
        WaitsIf (fun _ c => ¬ joined c) w sig (fun _ => .cond .engines) ∧
        WaitsIf (fun s c => joined c ∧ takeWaits c (lanes c) ≠ []) w sig (fun c => .board (takeWaits c (lanes c)) (lanes c))
      both (.fenceAcq · e sc) (fun c s => acquire c (reads c s)) ∧
      both (.fenceRel · e sc) (fun c s => if e = 1#1 then acquire c (release c s) else release c s) ∧
      both (.fenceAr · e sc) (fun c s => acquire c (release c s)) ∧
      both (.fenceSc · e sc) (fun c s => acquire c (release c s))) ∧
  (
    ∀ (d a : BitVec 7) (l : BitVec 4),
      let ea := fun c : Ctx => eaPair c a
      let sig : Ctx → Sig := cacheSig [rdAddr a]
      let pref := fun (c : Ctx) (s : State) => sampled c (ea c) 0x1B (c.act.foldl (fun s k =>
        match piecesOf s c.w k (ea c k) 1 with
        | some ({ off := _, n := _, dest := .va v } :: _) => (xlate s (partyOf c.w) accRead v).1
        | _ => s) s)
      let line := fun (w : Bool → Instr) (x : Acc) (f : Ctx → Mem → Nat → Bool → State → State) =>
        MemFalls false w sig (fun c => laneReqs c (ea c) 1) (fun _ => 1) x (fun _ _ => noExtra)
          (fun c ps u => lineLanes (f c) ps (sampled c (ea c) 0x1B u))
      let lock := fun (w : Bool → Instr) (f : Ctx → Mem → Nat → Bool → State → State × Nat) =>
        MemFalls false w (cacheSig [wr d, rdAddr a]) (fun c => laneReqs c (ea c) 1) (fun _ => 1) accRead (fun _ _ => noExtra)
          (fun c ps u =>
            let r := clockLanes (f c) (sampled c (ea c) 0x1B u) ps
            writeLater c d l.toNat (fun k => [kgetD 0#32 r.2 k]) r.1)
      let isync := fun (c : Ctx) (s : State) => dropBodies (fun qr b => decide (qr = quarterOf c.key) && decide (b.ctx = c.ctxKey))
        { s with icache := s.icache.filter fun b => !(decide (b.core = coreOf c.key) && decide (b.ctx = c.ctxKey)) }
      Falls (.pref · a l) sig (fun _ => 1) pref ∧
      Falls (.pref2 · a l) sig (fun _ => 1) pref ∧
      lock (.clock1 · d a l) (fun c m x r s => lockL1 (coreOf c.key) c.ctxKey m x r s) ∧
      lock (.clock2 · d a l) (fun c m x r s =>
        lockL2 (dieOf (coreOf c.key)) c.ctxKey (kgetD {} s.partitions c.w.partition).lkquota m x r s) ∧
      line (.cunlk1 · a l) accRead unlockL1 ∧
      line (.cunlk2 · a l) accRead unlockL2 ∧
      line (.cwb · a l) accRead (fun _ m x _ s => performStores s (fun y => y.overlaps m x 128) 5) ∧
      line (.cinv · a l) accDrop (fun c m x _ s => dropLine (coreOf c.key) m x (discardLine (coreOf c.key) m x s)) ∧
      line (.cwbinv · a l) accDrop
        (fun c m x _ s => dropLine (coreOf c.key) m x (performStores s (fun y => y.overlaps m x 128) 5)) ∧
      Falls (.isync · l) (cacheSig []) (fun _ => 1) isync ∧
      IdlesIf (fun _ _ => True) (.isync · l) isync)

/-- SPACE (R225, R284): TOGEN adds the partition's aperture base to a 32-bit offset; FROMGEN subtracts it where the address lies in the
aperture, and else gives all ones; ISSPC gives the code of the space. ASTP (R260, R261, R285) releases at SYSTEM scope and sends each lane's
words to the devices its addresses name, as engine operations of the part. Where the spec leaves a choice, it is the model's: log 68. -/
def Obligations.SpaceAndPeerWords : Prop :=
  ∀ (d a : BitVec 7) (n l : BitVec 4),
    let gen := fun (w : Bool → Instr) (ap : Partition → Nat) =>
      ∀ z s c, Ready z s c { maj := 0x1F, opds := [wrW true d, rd a] } → ∃ t, exec (w z) s = .next t ∧
        Wrote s t c d (fun k => words64 (BitVec.ofNat 64 (ap (kgetD {} s.partitions c.w.partition) + (c.read a k).toNat)))
    let off := fun (w : Bool → Instr) (ap : Partition → Nat) =>
      ∀ z s c, Ready z s c { maj := 0x1F, opds := [wr d, rdAddr a] } → ∃ t, exec (w z) s = .next t ∧
        Wrote s t c d (fun k =>
          let x := eaPair c a k
          let b := ap (kgetD {} s.partitions c.w.partition)
          [if b ≤ x ∧ x - b < 2 ^ 32 then BitVec.ofNat 32 (x - b) else 0xFFFFFFFF#32])
    gen (.togenL · d a) (·.aplocal) ∧ gen (.togenS · d a) (·.apshared) ∧ gen (.togenC · d a) (·.apcluster) ∧
    off (.fromgenL · d a) (·.aplocal) ∧ off (.fromgenS · d a) (·.apshared) ∧ off (.fromgenC · d a) (·.apcluster) ∧
    (∀ z s c, Ready z s c { maj := 0x1F, opds := [wr d, rdAddr a] } → ∃ t, exec (.isspc z d a) s = .next t ∧
      Wrote s t c d (fun k => [BitVec.ofNat 32 (spaceOf (kgetD {} s.partitions c.w.partition) (eaPair c a k)).code])) ∧
    MemReleases false (.astp · d a n l) (fun _ => { maj := 0x1E, opds := [rdSpan d (n.toNat + 1), rdAddr a] })
      (fun c => laneReqs c (eaPair c a) (4 * (n.toNat + 1))) (fun _ => 4) accPost (fun s c => notPeer s c.w)
      (fun c ps u =>
        let pcs := astpPieces c d a (n.toNat + 1) ps
        let r := astpSend c pcs (physRelease (sampled c (eaPair c a) 0x1E u) (coreOf c.key) 5) (pcs.map (·.1)).eraseDups
        engineIssued c r.2 r.1)

/-! ## Words that start copy requests -/

/-- ACOPY (R286, R290 to R292): COPY, CCVT, CSUM and CFILL read their descriptor in the lowest active lane; a valid request with room in its
channel's FIFO is released at its scope and enqueued; a control word or length that is not accepted raises ILLEGAL, an address outside its space
SPACE, a misaligned one MISALIGN; a full FIFO keeps the part waiting, and so does a lane that sleeps on an FTAKE (R257). The record will name the
kernel of the request (R300). -/
def Obligations.CopyRequestWords : Prop :=
  ∀ (d a : BitVec 7) (q : BitVec 3) (u : BitVec 1) (l : BitVec 4),
    let src := fun c : Ctx => (c.readAt a 0 c.l0).toNat + 2 ^ 32 * (c.readAt a 1 c.l0).toNat
    let dst := fun c : Ctx => (c.readAt a 2 c.l0).toNat + 2 ^ 32 * (c.readAt a 3 c.l0).toNat
    let len := fun c : Ctx => (c.readAt a 4 c.l0).toNat
    let ctl := fun c : Ctx => (c.readAt a 5 c.l0).toNat
    let o := fun (c : Ctx) s => ownerOf s c.w c.l0
    let sig : Ctx → Sig := fun _ => { maj := 0x1C, badField := decide (u = 0#1 ∧ q ≠ 0#3), opds := [rd d, rdSpan a 6] }
    let now := fun (c : Ctx) (s : State) => begun c (sig c) s
    let full := fun (c : Ctx) s => 16 ≤ chLoad (now c s) (coreOf c.key) (ctl c % 16)
    let takes := fun c : Ctx => takeWaits c (blockLanes c.p.q c.p.n)
    let outside := fun (fn total : Nat) (c : Ctx) s => copySpace (now c s) (o c (now c s)) fn (src c) (dst c) (len c) total (ctl c)
    let word := fun (fn : Nat) (w : Bool → Instr) =>
      TrapsIf (fun _ c => copyShape fn (ctl c) (len c) = none) w sig (fun _ => illegal 0x1C 0x03) ∧
      ∀ total sa da : Nat,
        let valid := fun (s : State) (c : Ctx) => copyShape fn (ctl c) (len c) = some (total, sa, da)
        let inside := fun (s : State) (c : Ctx) => len c = 0 ∨ outside fn total c s = none
        let srcOk := fun c : Ctx => len c = 0 ∨ fn = 3 ∨ src c % sa = 0
        let dstOk := fun c : Ctx => len c = 0 ∨ dst c % da = 0
        (∀ ea, TrapsIf (fun s c => valid s c ∧ len c ≠ 0 ∧ outside fn total c s = some ea) w sig
          (fun c => { cause := 0x0E, info := BitVec.ofNat 32 c.l0, addr := some (BitVec.ofNat 64 ea) })) ∧
        TrapsIf (fun s c => valid s c ∧ inside s c ∧ ¬ srcOk c) w sig
          (fun c => { cause := 0x0F, info := BitVec.ofNat 32 c.l0, addr := some (BitVec.ofNat 64 (src c)) }) ∧
        TrapsIf (fun s c => valid s c ∧ inside s c ∧ srcOk c ∧ ¬ dstOk c) w sig
          (fun c => { cause := 0x0F, info := BitVec.ofNat 32 c.l0, addr := some (BitVec.ofNat 64 (dst c)) }) ∧
        WaitsIf (fun s c => valid s c ∧ inside s c ∧ srcOk c ∧ dstOk c ∧ full c s) w sig (fun c => .cond (.copyRoom (ctl c % 16))) ∧
        WaitsIf (fun s c => valid s c ∧ inside s c ∧ srcOk c ∧ dstOk c ∧ ¬ full c s ∧ takes c ≠ []) w sig
          (fun c => .board (takes c) (blockLanes c.p.q c.p.n)) ∧
        FallsIf (fun s c => valid s c ∧ inside s c ∧ srcOk c ∧ dstOk c ∧ ¬ full c s ∧ takes c = []) w sig (fun _ => 1) (fun c s =>
          let x := mkCopy (o c s) fn (src c) (dst c) total (ctl c) (if u = 1#1 then some q.toNat else none) (c.read d c.l0).toNat c.rnd
            (modeSatOf c.p.mode) c.ftz
          let s := physRelease s (coreOf c.key) (copyScope s x)
          let x := { x with origin := (originOf s c.w c.pc0).2.2.2, fifo := !outsideBefore s s.nextId x.owner.wg x.ch }
          engineIssued c [s.nextId] { s with copies := kput s.copies s.nextId x, nextId := s.nextId + 1 })
    word 0 (.copy · d a q u l) ∧ word 1 (.ccvt · d a q u l) ∧ word 2 (.csum · d a q u l) ∧ word 3 (.cfill · d a q u l)

/-- AGATH (R297, R298): with an accepted row size, index register and control word, rows inside the allocation, settled and clean indices and
room in the FIFO, the word enqueues a request for the n rows whose indices the named registers of the lowest active lane hold; CSTG (R436):
STAGE grows by the operand, saturating at 65,535, and releases the schedule entries that it passes, as engine operations of the part. -/
def Obligations.GatherAndStageWords : Prop :=
  ∀ (d a : BitVec 7) (w n3 l : BitVec 4) (m : BitVec 3),
    let n := m.toNat + 1
    let word := fun (c : Ctx) i => (c.readAt a i c.l0).toNat
    let rowb := fun c => word c 2
    let idxr := fun c => word c 4
    let ctl := fun c => word c 7
    let o := fun (c : Ctx) s => ownerOf s c.w c.l0
    let sig : Ctx → Sig := fun _ => { maj := 0x1D, opds := [rd d, rdSpan a 8] }
    let ok := fun c => rowbOk (rowb c) w.toNat = true ∧ idxr c < 0x60 ∧ agathCtlOk (ctl c) = true
    let outside := fun (c : Ctx) s => agathSpace s (o c s) (word c 5) (word c 6) n (rowb c) (ctl c)
    let ix : Ctx → List Opd := fun c => [{ code := BitVec.ofNat 7 (idxr c), len := n }]
    let settled := fun c : Ctx => c.p.pend.all fun x => !(boardHit c.w [c.l0] (ix c) x)
    TrapsIf (fun _ c => ¬ ok c) (.agath · d a w m l) sig (fun _ => illegal 0x1D 0x03) ∧
    TrapsIf (fun _ c => ok c ∧ c.w.regs < idxr c + n) (.agath · d a w m l) sig (fun c => boundTrap c.l0 (idxr c) n c.w.regs false false) ∧
    (∀ ea, TrapsIf (fun s c => ok c ∧ idxr c + n ≤ c.w.regs ∧ outside c (begun c (sig c) s) = some ea) (.agath · d a w m l) sig
      (fun c => { cause := 0x0E, info := BitVec.ofNat 32 c.l0, addr := some (BitVec.ofNat 64 ea) })) ∧
    FallsIf (fun s c => ok c ∧ idxr c + n ≤ c.w.regs ∧ outside c (begun c (sig c) s) = none ∧ settled c = true ∧
        (c.w.areaLost = true → idxr c + n ≤ c.w.vbound) ∧ takeWaits c (blockLanes c.p.q c.p.n) = [] ∧
        readsPoison c.w [c.l0] (ix c) = false ∧ chLoad (begun c (sig c) s) (coreOf c.key) (ctl c % 16) < 16) (.agath · d a w m l) sig (fun _ => 1)
      (fun c s =>
        let s := if c.w.flaws = [] then s else s.modWave c.key (correctReads c.q [c.l0] (ix c))
        let x := mkCopy (o c s) 0 (word c 0 + 2 ^ 32 * word c 1) (word c 5) (n * rowb c) (ctl c)
          (if (ctl c).testBit 4 then some (ctl c / 32 % 8) else none) (c.read d c.l0).toNat 0 false false
        let x := { x with gather := some { rowb := rowb c, nrows := word c 3, frow := word c 6, swz := w.toNat,
                                           idx := (List.range n).map fun j => (c.w.getV (idxr c + j) c.l0).toNat } }
        let s := physRelease s (coreOf c.key) (copyScope s x)
        let x := { x with origin := (originOf s c.w c.pc0).2.2.2, fifo := !outsideBefore s s.nextId x.owner.wg x.ch }
        engineIssued c [s.nextId] { s with copies := kput s.copies s.nextId x, nextId := s.nextId + 1 }) ∧
    (∀ g, FallsIf (fun s c => kget s.wgs c.w.wg = some g ∧ takeWaits c (blockLanes c.p.q c.p.n) = []) (.cstg · a)
      (fun _ => { maj := 0x2E, opds := [{ code := a, allow := .uni }] }) (fun _ => 1) (fun c s =>
        let stage := min (g.stage + (c.read a 0).toNat) 65535
        let upto := min stage (kgetD {} s.grids g.grid).launch.schedn
        let r := releaseEntries c.w.wg (originOf s c.w c.pc0).2.2.2 (upto - g.released) g.released
          (s.modWg c.w.wg fun x => { x with stage := stage, released := max x.released upto })
        engineIssued c r.2 r.1))

/-! ## Transfers of control -/

/-- BRA, CALL, BRW, BRWZ, JMPI, RET and CALLI (R76, R209): the target is the next word's address plus four times the signed offset, or the
uniform value; a taken transfer ends the run and folds its outcome into the signature (R454); CALL and CALLI put the next word's address into
w23, CALLI after it has read A; a branch that is not taken falls through; a computed target that is not a multiple of 4 raises PCALIGN.
BRD (R22, R23, R210): quads whose active lanes disagree raise DIV with their mask; when every quad has one outcome the part jumps or falls
through; otherwise it splits along its maximal buddy blocks, each child going its own way. -/
def Obligations.BranchWords : Prop :=
  (
    ∀ (a : BitVec 7) (o : BitVec 25) (o18 : BitVec 18),
      let next := fun c : Ctx => c.p.pc + 4#32
      let dest := fun (c : Ctx) (off : Word) => next c + off <<< 2
      let fold := fun (b : Bool) (c : Ctx) (s : State) => foldSig c.key c.p.pc c.q b s
      let link := fun (c : Ctx) (s : State) => writeReg c 0x77#7 (fun _ => next c) s
      let sig : Nat → Ctx → Sig := fun maj _ => { maj := maj, opds := [{ code := a, allow := .uni }] }
      let lsig : Ctx → Sig := fun _ => { maj := 0x25, opds := [{ code := a, allow := .uni }, wr 0x77#7] }
      let rsig : Ctx → Sig := fun _ => { maj := 0x25, opds := [rd 0x77#7] }
      let word := fun (x : Word) => x &&& 3#32 = 0#32
      let bad : Word → Trap := fun t => { cause := 0x12, addr := some (t.zeroExtend 64) }
      let idle := fun w : Bool → Instr => IdlesIf (fun _ _ => True) w (fold false)
      JumpsIf (fun _ _ => True) (.bra · o) (fun _ => { maj := 0x20 }) (fun c => dest c (o.signExtend 32)) (fold true) ∧
      JumpsIf (fun _ _ => True) (.call · o) (fun _ => { maj := 0x21, opds := [wr 0x77#7] }) (fun c => dest c (o.signExtend 32))
        (fun c s => fold true c (link c s)) ∧
      JumpsIf (fun _ c => c.read a 0 ≠ 0#32) (.brw · a o18) (sig 0x22) (fun c => dest c (o18.signExtend 32)) (fold true) ∧
      FallsIf (fun _ c => c.read a 0 = 0#32) (.brw · a o18) (sig 0x22) (fun _ => 1) (fold false) ∧
      JumpsIf (fun _ c => c.read a 0 = 0#32) (.brwz · a o18) (sig 0x23) (fun c => dest c (o18.signExtend 32)) (fold true) ∧
      FallsIf (fun _ c => c.read a 0 ≠ 0#32) (.brwz · a o18) (sig 0x23) (fun _ => 1) (fold false) ∧
      JumpsIf (fun _ c => word (c.read a 0)) (.jmpi · a) (sig 0x25) (fun c => c.read a 0) (fold true) ∧
      TrapsIf (fun _ c => ¬ word (c.read a 0)) (.jmpi · a) (sig 0x25) (fun c => bad (c.read a 0)) ∧
      JumpsIf (fun _ c => word (c.read 0x77#7 0)) .ret rsig (fun c => c.read 0x77#7 0) (fold true) ∧
      TrapsIf (fun _ c => ¬ word (c.read 0x77#7 0)) .ret rsig (fun c => bad (c.read 0x77#7 0)) ∧
      JumpsIf (fun _ c => word (c.read a 0)) (.calli · a) lsig (fun c => c.read a 0) (fun c s => fold true c (link c s)) ∧
      TrapsIf (fun _ c => ¬ word (c.read a 0)) (.calli · a) lsig (fun c => bad (c.read a 0)) ∧
      idle (.bra · o) ∧ idle (.call · o) ∧ idle (.brw · a o18) ∧ idle (.brwz · a o18) ∧ idle (.jmpi · a) ∧ idle .ret ∧ idle (.calli · a)) ∧
  (
    ∀ (a : BitVec 7) (o : BitVec 18),
      let sig : Ctx → Sig := fun _ => { maj := 0x24, opds := [rd a] }
      let cond := fun (c : Ctx) l => decide (c.read a l ≠ 0#32)
      let quad := fun (c : Ctx) k => c.act.filter fun l => l / 4 = k
      let mixed := fun (c : Ctx) k => (quad c k).any (cond c) && (quad c k).any fun l => !cond c l
      let quads := fun c : Ctx => (List.range c.p.n).map (· + c.p.q)
      let out := fun c : Ctx => quadOut c (cond c)
      let t := fun c : Ctx => c.p.pc + 4#32 + (o.signExtend 32) <<< 2
      let clear := fun c : Ctx => ∀ k ∈ quads c, mixed c k = false
      let whole := fun c : Ctx => ∀ k ∈ quads c, out c k = out c c.p.q
      let fold := fun (c : Ctx) (s : State) => (quads c).foldl (fun s k => foldSig c.key c.p.pc c.q (out c k) s) s
      TrapsIf (fun _ c => ¬ clear c) (.brd · a o) sig
        (fun c => { cause := 4, info := BitVec.ofNat 32 (((quads c).filter (mixed c)).map (2 ^ ·)).sum }) ∧
      JumpsIf (fun _ c => clear c ∧ whole c ∧ out c c.p.q = true) (.brd · a o) sig t fold ∧
      FallsIf (fun _ c => clear c ∧ whole c ∧ out c c.p.q = false) (.brd · a o) sig (fun _ => 1) fold ∧
      PlacesIf (fun _ c => clear c ∧ ¬ whole c) (.brd · a o) sig (some 3) (fun c s =>
        let s := fold c s
        let blocks := buddyBlocks (out c) 5 c.p.q c.p.n
        let s1 := blocks.foldl (fun s b => foldSig c.key c.p.pc b.1 (out c b.1) s) s
        let p := (partAt (kgetD c.w s.waves c.key).parts c.q).getD c.p
        countEvent (coreOf c.key) 0x06 1 c.w.ctx (countEvent (coreOf c.key) 0x03 blocks.length c.w.ctx
          (splitPart c.key p (out c) (fun taken p => if taken then { p with pc := t c } else fallPart p) s1))) ∧
      IdlesIf (fun _ _ => True) (.brd · a o) (fun c s => foldSig c.key c.p.pc c.q false s))

/-- RCV and RCV.W (R27 to R30) and an ENDIF at a recorded address (R30, R426): a part that covers its wave, or whose buddy block has a
terminated quad, falls through, an ENDIF with its record popped; any other closes its windows and waits for its buddy, RCV for at most 16 t
cycles and ENDIF for at most 16 RTO. The words act so with no active lane too. Where the spec leaves a choice, it is the model's: log 19. -/
def Obligations.ReceiveWords : Prop :=
  ∀ i : BitVec 14,
    let now := fun (c : Ctx) (s : State) => cycleOf s (coreOf c.key)
    let alone := fun c : Ctx => 4 * c.p.n = c.w.width ∨ blockEnded c.w (buddyOf c.p.q c.p.n) c.p.n = true
    let wait := fun (k : FuseKind) (t : Option Nat) (c : Ctx) (s : State) =>
      fuseNow c.key ((closeWindows c.key c.q s).modPart c.key c.q fun p =>
        { keepPrefix c (settleRole p) with wait := .fuse k (t.map fun n => now c s + 16 * n) (now c s), readyAt := now c s })
    let same := fun (k : FuseKind) (t : Option Nat) (c : Ctx) (s : State) =>
      (kget (wait k t c s).waves c.key).map (·.parts.length) = some c.w.parts.length
    let both := fun (w : Bool → Instr) (maj : Nat) (P : Ctx → Prop) (k : FuseKind) (t : Ctx → Option Nat) (eff : Ctx → State → State) =>
      let lone := fun live : Bool => ∀ z s c, issueCtx z s = some c → guardHits c = [] → guardPoison c = false → (live = false → c.act = []) →
        (live = true → Ready z s c { maj := maj }) → P c →
        let u := begun c { maj := maj } s
        (alone c → exec (w z) s = .next (endWord c (1 * passes c.p.n + redirect c (eff c u)) none (fallThrough c (eff c u)))) ∧
        (¬ alone c → exec (w z) s = .next (endWord c (passes c.p.n) (some (if same k (t c) c u then 2 else 3)) (wait k (t c) c u)))
      lone true ∧ lone false
    both (.rcv · i) 0x28 (fun _ => True) .rcv (fun _ => some i.toNat) (fun _ s => s) ∧
    both .rcvW 0x28 (fun _ => True) .rcvW (fun _ => none) (fun _ s => s) ∧
    both .endif 0x26 (fun c => ∃ r ∈ c.p.recs.head?, r.addr = c.p.pc) (.endif false) (fun c => some c.w.rto)
      (fun c s => s.modPart c.key c.q fun p => { p with recs := p.recs.drop 1 })

/-- SYS (R212 to R216, R218, R221 to R223): END ends the part; TRAP and BKPT trap with their code behind the word, but for a BKPT under an
attached debugger, which asks the wave to stop; ERET leaves a handler for the return PC (PCALIGN if that is not a multiple of 4) and is ILLEGAL
outside one; YIELD, in a handler entered by PREEMPT, lands what is held, waits for its special-function results and rays, and gives up the registers; ROLE sets the next role; SLEEP rests for 16 t
cycles, SLEEP 0 until the arbitration after the next. Where the spec leaves a choice, it is the model's: logs 18, 20, 83, 84, 85. -/
def Obligations.SystemWords : Prop :=
  ∀ (d : BitVec 7) (i : BitVec 14) (r : BitVec 2),
    let sig : Ctx → Sig := fun _ => { maj := 0x29 }
    let ysig : Ctx → Sig := fun _ => { maj := 0x29, opds := [{ code := d, allow := .wOnly }] }
    let debug := fun (s : State) (c : Ctx) => s.dev.dbgOpen = true ∧ (s.ctx c.w.partition c.w.ctx).bkpt = true
    let word := fun (x : Word) => x &&& 3#32 = 0#32
    let bad : Word → Trap := fun t => { cause := 0x12, addr := some (t.zeroExtend 64) }
    let preempt := fun c : Ctx => c.p.handler = true ∧ c.p.entry = 0x15
    let now := fun (c : Ctx) (s : State) => cycleOf s (coreOf c.key)
    let until_ := fun (c : Ctx) (s : State) =>
      if i = 0#14 then now c s + passes c.p.n + portIdle c.w s + 1 else now c s + 16 * i.toNat
    let busy := fun c : Ctx => tokenPending c.p 0x3FFF = true ∨ raysPending c.p = true
    PlacesIf (fun _ _ => True) .endW sig (some 2) (fun c s => endPart c.key c.q (traceSummary c.key s)) ∧
    TrapsIf (fun _ _ => True) (.trap · i) sig (fun _ => { cause := 0x13, info := i.zeroExtend 32, following := true }) ∧
    PlacesIf debug (.bkpt · i) sig (some 2) (fun c s => (fallThrough c s).modWave c.key fun w => { w with stopReq := some 1 }) ∧
    TrapsIf (fun s c => ¬ debug s c) (.bkpt · i) sig (fun _ => { cause := 0x14, info := i.zeroExtend 32, following := true }) ∧
    TrapsIf (fun _ c => c.p.handler = false) .eret sig (fun _ => illegal 0x29 0x02) ∧
    TrapsIf (fun _ c => c.p.handler = true ∧ ¬ word (returnPc c.p)) .eret sig (fun c => bad (returnPc c.p)) ∧
    PlacesIf (fun _ c => c.p.handler = true ∧ word (returnPc c.p)) .eret sig none
      (fun c s => s.modPart c.key c.q (leaveHandler (now c s) (returnPc c.p))) ∧
    TrapsIf (fun _ c => ¬ preempt c) (.yield · d) ysig (fun _ => illegal 0x29 0x02) ∧
    TrapsIf (fun _ c => preempt c ∧ ¬ word (c.read d 0)) (.yield · d) ysig (fun c => bad (c.read d 0)) ∧
    PlacesIf (fun _ c => preempt c ∧ word (c.read d 0) ∧ ¬ busy c) (.yield · d) ysig (some 2)
      (fun c s => parkWg c.w.wg ((yieldTravs c (landAll c.key c.q s)).modWave c.key (yieldWave c.q (c.read d 0)))) ∧
    HoldsIf (fun _ c => preempt c ∧ word (c.read d 0) ∧ tokenPending c.p 0x3FFF = true) (.yield · d) ysig (fun _ _ => .cond (.tokens 0x3FFF))
      (fun _ s => s) ∧
    HoldsIf (fun _ c => preempt c ∧ word (c.read d 0) ∧ tokenPending c.p 0x3FFF = false ∧ raysPending c.p = true) (.yield · d) ysig
      (fun _ _ => .cond .rays) (fun _ s => s) ∧
    FallsIf (fun _ _ => True) (.role · r) (fun _ => { maj := 0x29, badField := r = 3#2 }) (fun _ => 1)
      (fun c s => s.modPart c.key c.q fun p => { p with nextRole := some r.toNat }) ∧
    RestsIf (fun _ _ => True) (.sleep · i) sig (fun c s => .sleep (until_ c s)) (fun c s => fallThrough c s) ∧
    IdlePlacesIf (fun _ c => c.p.handler = true ∧ word (returnPc c.p)) .eret none
      (fun c s => s.modPart c.key c.q (leaveHandler (now c s) (returnPc c.p))) ∧
    IdlesIf (fun _ c => ¬ (c.p.handler = true ∧ word (returnPc c.p))) .eret (fun _ s => s) ∧
    (r ≠ 3#2 → IdlesIf (fun _ _ => True) (.role · r) (fun c s => s.modPart c.key c.q fun p => { p with nextRole := some r.toNat })) ∧
    IdlePlacesIf (fun _ _ => True) (.sleep · i) (some 2) (fun c s =>
      setWait c.key c.q (.sleep (until_ c s)) (closeWindows c.key c.q (fallThrough c s)))

/-! ## Structured control -/

/-- STRUCT (R423 to R427): the NEST counter of every live lane changes as the word says and the part goes on with the next word while a lane
is active, else with the word that IMM14 names; NESTOVF where a counter would pass 63; an IF.S that may split the part (R24) gives each half a
record of the ENDIF. With no active lane IF, IF.S and LOOPS skip to the word behind the matching ENDIF or ENDLS, and the other words act as they
do with one.
LOOP and LEXIT (R63, R428 to R430): a nonzero count opens a level over the words up to the one IMM14 names, whose body, if it has at most 256
words, enters the quarter's loop buffer; zero skips them; LEXIT leaves the
innermost level when its operand is nonzero; LOOPDEPTH at a fourth level, and at LEXIT outside a loop. With no active lane they act so too, but trap for nothing: a LOOP that would
skips its body, and a LEXIT outside a loop has no effect. -/
def Obligations.StructuredAndLoopWords : Prop :=
  (
    ∀ (a : BitVec 7) (i : BitVec 14),
      let csig : Ctx → Sig := fun _ => { maj := 0x26, badField := i = 0#14, opds := [rd a] }
      let sig : Ctx → Sig := fun _ => { maj := 0x26, badField := i = 0#14 }
      let here := fun c : Ctx => c.p.pc + (i.zeroExtend 32 <<< 2)
      let yes := fun (c : Ctx) l => c.act.contains l && decide (c.read a l ≠ 0#32)
      let no := fun (c : Ctx) l => c.act.contains l && !decide (c.read a l ≠ 0#32)
      let fold := fun (b : Bool) (c : Ctx) (s : State) => foldSig c.key c.p.pc c.q b s
      let deepest := fun (limit : Nat) (c : Ctx) => (liveLanes c.w c.p).find? fun l => decide (limit ≤ c.w.nestOf l)
      let trap := fun (limit : Nat) (c : Ctx) => ({ cause := 7, info := BitVec.ofNat 32 ((deepest limit c).getD 0) } : Trap)
      let nest := fun (f : Ctx → Nat → Nat → Nat) (c : Ctx) (s : State) => nestState c (f c) s
      let none_ := fun (g : Ctx → Sig) (f : Ctx → Nat → Nat → Nat) (s : State) (c : Ctx) => noneActive c (nest f c (begun c (g c) s)) = true
      let empty := fun _ : Ctx => noSig
      let marks := fun (P : State → Ctx → Prop) (w : Bool → Instr) (g : Ctx → Sig) (f : Ctx → Nat → Nat → Nat) =>
        JumpsIf (fun s c => P s c ∧ none_ g f s c) w g here (fun c s => fold true c (nest f c s)) ∧
        FallsIf (fun s c => P s c ∧ ¬ none_ g f s c) w g (fun _ => 1) (fun c s => fold false c (nest f c s))
      let opens : Ctx → Nat → Nat → Nat := fun c l n => if 0 < n then n + 1 else if no c l then 1 else n
      let flips : Ctx → Nat → Nat → Nat := fun c l n => if n = 1 then 0 else if n = 0 && c.act.contains l then 1 else n
      let closes : Ctx → Nat → Nat → Nat := fun _ _ n => n - 1
      let enters : Ctx → Nat → Nat → Nat := fun _ _ n => if 0 < n then n + 2 else n
      let again : Ctx → Nat → Nat → Nat := fun _ _ n => if n = 1 then 0 else n
      let leaves : Ctx → Nat → Nat → Nat := fun _ _ n => if n = 2 then 0 else if 3 ≤ n then n - 2 else n
      let room := fun (limit : Nat) (_ : State) (c : Ctx) => deepest limit c = none
      let free := fun (_ : State) (_ : Ctx) => True
      let record := fun (c : Ctx) (pc : Word) => (c.p.recs.head?).filter fun r => r.addr = pc
      let leaps := fun (P : State → Ctx → Prop) (w : Bool → Instr) (t : Ctx → State → Word) (f : Ctx → State → State) =>
        IdlePlacesIf P w (some 1) fun c s =>
          (countEvent (coreOf c.key) 0x06 1 c.w.ctx (f c s)).modPart c.key c.q fun p => { p with pc := t c s }
      let skips := fun (w : Bool → Instr) (t : Ctx → State → Word) => leaps free w t (fold true)
      let idles := fun (P : State → Ctx → Prop) (w : Bool → Instr) (f : Ctx → Nat → Nat → Nat) =>
        leaps (fun s c => P s c ∧ none_ empty f s c) w (fun c _ => here c) (fun c s => fold true c (nest f c s)) ∧
        IdlesIf (fun s c => P s c ∧ ¬ none_ empty f s c) w (fun c s => fold false c (nest f c s))
      TrapsIf (fun _ c => deepest 63 c ≠ none) (.ifW · a i) csig (trap 63) ∧
      marks (room 63) (.ifW · a i) csig opens ∧
      TrapsIf (fun _ c => ifsSplits a c = false ∧ deepest 63 c ≠ none) (.ifS · a i) csig (trap 63) ∧
      marks (fun s c => ifsSplits a c = false ∧ room 63 s c) (.ifS · a i) csig opens ∧
      PlacesIf (fun _ c => ifsSplits a c = true) (.ifS · a i) csig (some 3) (fun c s =>
        let out := quadOut c fun l => decide (c.read a l ≠ 0#32)
        let s1 := (buddyBlocks out 5 c.p.q c.p.n).foldl (fun s b => foldSig c.key c.p.pc b.1 (out b.1) s) s
        countEvent (coreOf c.key) 0x03 (buddyBlocks out 5 c.p.q c.p.n).length c.w.ctx
          (splitPart c.key ((s.part c.key c.q).getD c.p) out (fun side p =>
            let p := { p with recs := { addr := endifOf s c (here c), side := side } :: p.recs }
            if side then fallPart p else { p with pc := here c }) s1)) ∧
      marks (fun _ c => record c (here c) = none) (.elseW · i) sig flips ∧
      (∀ r, JumpsIf (fun _ c => record c (here c) = some r ∧ r.side = true) (.elseW · i) sig here (fold true)) ∧
      (∀ r, FallsIf (fun _ c => record c (here c) = some r ∧ r.side = false) (.elseW · i) sig (fun _ => 1) (fold false)) ∧
      FallsIf (fun _ c => record c c.p.pc = none) .endif (fun _ => { maj := 0x26 }) (fun _ => 1) (nest closes) ∧
      TrapsIf (fun _ c => deepest 62 c ≠ none) (.loops · i) sig (trap 62) ∧
      FallsIf (room 62) (.loops · i) sig (fun _ => 1) (fun c s => fold false c (nest enters c s)) ∧
      marks free (.brk · a i) csig (fun c l n => if yes c l then 2 else n) ∧
      marks free (.cont · a i) csig (fun c l n => if yes c l then 1 else n) ∧
      JumpsIf free (.endls · i) sig (fun c => c.p.pc - (i.zeroExtend 32 <<< 2) + 4#32)
        (fun c s => fold true c (nest again c s)) ∧
      skips (.ifW · a i) (fun c s => endifOf s c (here c) + 4#32) ∧ skips (.ifS · a i) (fun c s => endifOf s c (here c) + 4#32) ∧
      skips (.loops · i) (fun c _ => here c + 4#32) ∧
      idles (fun _ c => record c (here c) = none) (.elseW · i) flips ∧
      (∀ r, leaps (fun _ c => record c (here c) = some r ∧ r.side = true) (.elseW · i) (fun c _ => here c) (fold true)) ∧
      (∀ r, IdlesIf (fun _ c => record c (here c) = some r ∧ r.side = false) (.elseW · i) (fold false)) ∧
      IdlesIf (fun _ c => record c c.p.pc = none) .endif (nest closes) ∧
      idles free (.brk · a i) (fun _ _ n => n) ∧ idles free (.cont · a i) (fun _ _ n => n) ∧
      leaps (fun s c => ¬ none_ empty again s c) (.endls · i) (fun c _ => c.p.pc - (i.zeroExtend 32 <<< 2) + 4#32) (fun c s => fold true c (nest again c s)) ∧
      IdlesIf (none_ empty again) (.endls · i) (fun c s => fold false c (nest leaves c (nest again c s)))) ∧
  (
    ∀ (a : BitVec 7) (i : BitVec 14),
      let sig : Ctx → Sig := fun _ => { maj := 0x27, badField := i = 0#14, opds := [{ code := a, allow := .uni }] }
      let lsig : Ctx → Sig := fun _ => { maj := 0x27, opds := [{ code := a, allow := .uni }] }
      let fold := fun (b : Bool) (c : Ctx) (s : State) => foldSig c.key c.p.pc c.q b s
      let stop := fun c : Ctx => c.p.pc + (i.zeroExtend 32 <<< 2)
      let deep : Nat → Ctx → Trap := fun x _ => { cause := 8, info := BitVec.ofNat 32 x }
      let skip := fun (c : Ctx) (s : State) => (fold true c s).modPart c.key c.q fun p => { p with pc := stop c + 4#32 }
      let buffered := fun (c : Ctx) (s : State) => if i.toNat ≤ 256 then openBody c.w (c.p.pc + 4#32) i.toNat s else s
      let enter := fun (c : Ctx) (s : State) => (fold false c (buffered c s)).modPart c.key c.q fun p =>
        { p with loops := p.loops ++ [{ lc := c.read a 0, start := c.p.pc + 4#32, stop := stop c, buf := decide (i.toNat ≤ 256) }],
                 pc := c.p.pc + 4#32 }
      let leave := fun (l : LoopLevel) (c : Ctx) (s : State) => (fold true c s).modPart c.key c.q fun p =>
        { p with loops := p.loops.dropLast, pc := l.stop + 4#32 }
      let uniform := fun c : Ctx => uniformSource c a
      let settled := fun c : Ctx => c.p.pend.filter (boardHit c.w [] [rd a]) = []
      TrapsIf (fun _ c => 3 ≤ c.p.loops.length) (.loop · a i) sig (deep 0) ∧
      PlacesIf (fun _ c => c.p.loops.length < 3 ∧ c.read a 0 = 0#32) (.loop · a i) sig none skip ∧
      PlacesIf (fun _ c => c.p.loops.length < 3 ∧ c.read a 0 ≠ 0#32) (.loop · a i) sig none enter ∧
      TrapsIf (fun _ c => c.p.loops = []) (.lexit · a) lsig (deep 1) ∧
      (∀ l, PlacesIf (fun _ c => c.p.loops.getLast? = some l ∧ c.read a 0 ≠ 0#32) (.lexit · a) lsig none (leave l)) ∧
      FallsIf (fun _ c => c.p.loops ≠ [] ∧ c.read a 0 = 0#32) (.lexit · a) lsig (fun _ => 1) (fold false) ∧
      IdlePlacesIf (fun _ c => 3 ≤ c.p.loops.length ∨ uniform c = false) (.loop · a i) none skip ∧
      IdlePlacesIf (fun _ c => c.p.loops.length < 3 ∧ settled c ∧ c.read a 0 = 0#32) (.loop · a i) none skip ∧
      IdlePlacesIf (fun _ c => c.p.loops.length < 3 ∧ uniform c = true ∧ settled c ∧ c.read a 0 ≠ 0#32) (.loop · a i) none enter ∧
      IdlesIf (fun _ c => c.p.loops = [] ∧ settled c) (.lexit · a) (fun _ s => s) ∧
      (∀ l, IdlePlacesIf (fun _ c => c.p.loops.getLast? = some l ∧ uniform c = true ∧ settled c ∧ c.read a 0 ≠ 0#32) (.lexit · a) none (leave l)) ∧
      IdlesIf (fun _ c => c.p.loops ≠ [] ∧ uniform c = true ∧ settled c ∧ c.read a 0 = 0#32) (.lexit · a) (fold false))

/-! ## Waits, barriers and counters -/

/-- WAIT (R431, R432): WAITT until no token of the mask is pending, WPWAIT until the write pointer has reached the value, DWAIT until the
barrier's phase differs from the word's, VWAIT until the tile is idle (VERS if its version is another), SLEEPW until the device time has
reached the value: the word falls through when its condition holds at its issue, DWAIT with an acquire at its barrier's scope, and else ends in
a wait with the windows closed. With no active lane WAITT and VWAIT do the same, but a version is not checked; and so do the others when the operand is a settled uniform register. Where the spec leaves a choice, it is the model's: log 19. -/
def Obligations.WaitWords : Prop :=
  ∀ (a : BitVec 7) (i : BitVec 14) (ch v : BitVec 4) (ph : BitVec 1) (t : BitVec 3),
    let val := fun c : Ctx => waitVal c a
    let sig : Ctx → Sig := fun _ => { maj := 0x2D, opds := [rdW true a] }
    let same := fun (_ : Ctx) (s : State) => s
    let settled := fun c : Ctx => (c.p.pend.filter (boardHit c.w [] [rdW true a])) = []
    let wait := fun (w : Bool → Instr) (g : Ctx → Sig) (P : Ctx → Prop) (Q : State → Ctx → Prop) (done : State → Ctx → Prop) (k : Ctx → Cond)
        (pass : Ctx → State → State) =>
      FallsIf (fun s c => Q (begun c (g c) s) c ∧ done (begun c (g c) s) c) w g (fun _ => 1) pass ∧
      HoldsIf (fun s c => Q (begun c (g c) s) c ∧ ¬ done (begun c (g c) s) c) w g (fun c _ => .cond (k c)) same ∧
      IdlesIf (fun s c => P c ∧ Q (begun c noSig s) c ∧ done (begun c noSig s) c) w pass
    let all := fun _ : Ctx => True
    let uni := fun c : Ctx => codeIsW a = true → settled c
    let free := fun (_ : State) (_ : Ctx) => True
    let tsig : Ctx → Sig := fun c => { maj := 0x2D, badField := decide (c.w.tiles.length ≤ t.toNat) }
    wait (.waitt · i) (fun _ => { maj := 0x2D }) all free (fun _ c => tokenPending c.p i.toNat = false) (fun _ => .tokens i.toNat) same ∧
    wait (.wpwait · a ch) sig uni free (fun s c => val c ≤ wpOf s c.w ch.toNat) (fun c => .wp ch.toNat (val c)) same ∧
    (∀ x, wait (.dwait · a ph) sig uni (fun s c => BarrierAt s c.w (val c) x) (fun s _ => dbarPhase s x ≠ decide (ph = 1#1))
      (fun _ => .dbar x (decide (ph = 1#1))) (fun c s => physAcquire s (coreOf c.key) (dbarScope c s (val c)))) ∧
    (∀ tr, TrapsIf (fun s c => dbarAddr c (begun c (sig c) s) (val c) = .error tr) (.dwait · a ph) sig (fun _ => tr)) ∧
    wait (.sleepw · a) sig uni free (fun s c => val c ≤ s.time) (fun c => .time (val c)) same ∧
    FallsIf (fun _ c => (c.w.tile t.toNat).ops = [] ∧ (c.w.tile t.toNat).v = v.toNat) (.vwait · v t) tsig (fun _ => 1) same ∧
    TrapsIf (fun _ c => (c.w.tile t.toNat).ops = [] ∧ (c.w.tile t.toNat).v ≠ v.toNat) (.vwait · v t) tsig
      (fun c => { cause := 9, info := tileInfo c.w c.p t.toNat v.toNat 0 }) ∧
    HoldsIf (fun _ c => (c.w.tile t.toNat).ops ≠ []) (.vwait · v t) tsig (fun _ _ => .cond (.tileIdle t.toNat)) same ∧
    IdlesIf (fun _ c => (c.w.tile t.toNat).ops = []) (.vwait · v t) same

/-- BAR, BARP, BARA, BARW and BARB (R42, R433, R434, R437): a count above 16 is ILLEGAL; a part whose wave has arrived already waits for the
next phase; an arrival is entered, and the part goes on if it completes the phase (BARA always), else waits, its loads performed before it; a part with a lane asleep in FTAKE waits for the value first; BARP waits for
its tokens, and in a PHASED grid for the phase queue, its accepted matrix operations complete and its carry set recorded; BARW waits for the open phase; BARB arms a one-slot barrier of the allocation. Where the spec leaves a choice, it is the model's: log 22. -/
def Obligations.BarrierWords : Prop :=
  ∀ (a : BitVec 7) (b : BitVec 4) (i : BitVec 14),
    let sig : Ctx → Sig := fun _ => { maj := 0x2E, opds := [{ code := a, allow := .uni }] }
    let e := fun c : Ctx => (c.read a 0).toNat
    let n := b.toNat
    let same := fun (_ : Ctx) (s : State) => s
    let phase := fun (c : Ctx) (s : State) => barPhase s c.w n
    let asleep := fun c : Ctx => takeWaits c (blockLanes c.p.q c.p.n)
    let came := fun (s : State) (c : Ctx) => e c ≤ 16 ∧ asleep c = [] ∧ hasArrived s c.w n = true
    let fresh := fun (s : State) (c : Ctx) => e c ≤ 16 ∧ asleep c = [] ∧ hasArrived s c.w n = false
    let settle := fun (c : Ctx) (s : State) => s.modPart c.key c.q performReads
    let arrive := fun (c : Ctx) (s : State) => arriveBar c.w.wg n (e c) c.w c.p (settle c s)
    let full := fun (s : State) (c : Ctx) => phase c (completeBar c.w.wg n (arrive c (begun c (sig c) s))) ≠ phase c s
    let flat := fun (s : State) (c : Ctx) => (kgetD {} s.grids c.w.grid).launch.phased = false
    let quiet := fun (_ : State) (c : Ctx) => tokenPending c.p 0x3FFF = false
    let next := fun (c : Ctx) (s : State) => Wait.barrierNext n (phase c s)
    let stand := fun (c : Ctx) (wt : Wait) (s : State) => s.modPart c.key c.q fun p => { keepPrefix c p with wait := wt }
    let sleeps := fun (w : Bool → Instr) (P : State → Ctx → Prop) =>
      WaitsIf (fun s c => P s c ∧ e c ≤ 16 ∧ asleep c ≠ []) w sig (fun c => .board (asleep c) (blockLanes c.p.q c.p.n))
    let bar := fun (w : Bool → Instr) (P : State → Ctx → Prop) =>
      TrapsIf (fun _ c => 16 < e c) w sig (fun _ => illegal 0x2E 0x03) ∧
      sleeps w P ∧
      HoldsIf (fun s c => P s c ∧ came s c) w sig next same ∧
      FallsIf (fun s c => P s c ∧ fresh s c ∧ full s c) w sig (fun _ => 1) (fun c s => completeBar c.w.wg n (arrive c s)) ∧
      PlacesIf (fun s c => P s c ∧ fresh s c ∧ ¬ full s c) w sig (some 2) (fun c s =>
        stand c (.barrier n (phase c s) true) (closeWindows c.key c.q (arrive c s)))
    let off := 128 * i.toNat
    let bsig : Ctx → Sig := fun _ => { maj := 0x2E, opds := [if codeIsK a then rd a else { code := a, allow := .wOnly }] }
    let inside := fun (s : State) (c : Ctx) => off + 64 ≤ (kgetD {} s.grids c.w.grid).launch.scratch
    let x := fun c : Ctx => (c.read a 0).toNat
    let place := fun (c : Ctx) (s : State) => (c.wg s).core * 2 ^ 19 + (c.wg s).spadBase + off
    bar (.bar · a b) (fun _ _ => True) ∧ bar (.barp · a b) (fun s c => flat s c ∧ quiet s c) ∧
    HoldsIf (fun s c => e c ≤ 16 ∧ ¬ quiet s c) (.barp · a b) sig (fun _ _ => .cond (.tokens 0x3FFF)) same ∧
    sleeps (.barp · a b) (fun s c => ¬ flat s c ∧ quiet s c) ∧
    HoldsIf (fun s c => ¬ flat s c ∧ came s c ∧ quiet s c) (.barp · a b) sig next same ∧
    PlacesIf (fun s c => ¬ flat s c ∧ fresh s c ∧ quiet s c) (.barp · a b) sig (some 2) (fun c s =>
      let s1 := stand c (.barrier n (phase c s) true) (closeWindows c.key c.q (settle c s))
      let s2 := (arriveBar c.w.wg n 0 c.w c.p s1).modWg c.w.wg fun g => { g with phaseAt := some n }
      let keep := carrySet s2 c.w n
      let s3 := (completeTiles c.key s2).modWave c.key (boundaryWave keep)
      completeBar c.w.wg n (if hasArrived s2 c.w n then (if keep.isEmpty then s3 else recordCarry c.key s3) else s2)) ∧
    TrapsIf (fun _ c => 16 < e c) (.bara · a b) sig (fun _ => illegal 0x2E 0x03) ∧
    sleeps (.bara · a b) (fun _ _ => True) ∧
    HoldsIf came (.bara · a b) sig next same ∧
    FallsIf fresh (.bara · a b) sig (fun _ => 1) (fun c s => completeBar c.w.wg n (arrive c s)) ∧
    PlacesIf (fun _ _ => True) (.barw · b) (fun _ => { maj := 0x2E }) (some 2) (fun c s =>
      stand c (.barrier n (phase c s) false) (closeWindows c.key c.q (settle c s))) ∧
    (∀ ap, TrapsIf (fun s c => ¬ inside s c ∧ (s.partition c.w.partition).apshared = ap) (.barb · a i) bsig
      (fun c => { cause := 0x0E, info := BitVec.ofNat 32 c.l0, addr := some (BitVec.ofNat 64 (ap + off)) })) ∧
    TrapsIf (fun s c => inside s c ∧ (x c = 0 ∨ 2 ^ 24 ≤ x c)) (.barb · a i) bsig (fun _ => illegal 0x2E 0x03) ∧
    FallsIf (fun s c => inside s c ∧ 0 < x c ∧ x c < 2 ^ 24) (.barb · a i) bsig (fun _ => 1) (fun c s =>
      spadPut (place c s + 0x10) 48 (x c) (spadPut (place c s) 4 (1 + 16 * b2n (dbarPhase s (place c s))) s))

/-- DLV (R438 to R440) and CNT (R441, R442): at a delivery barrier's address DINIT sets COUNT 1 to 8, DEXP the expected bytes of a slot, DARR
credits a slot after a release, for which no lane of the part may sleep on an FTAKE, DQRY reads the header; a value out of range is ILLEGAL, a bad address SPACE or MISALIGN. TIME, PMCRD, WPRD,
CYCLE and ACCV write what they count to D; PMCWR sets a programmable counter modulo 2^48, and the events of its cycle are added (R443). Where the spec leaves a choice, it is the model's: logs 13, 14, 98. -/
def Obligations.DeliveryAndCounterWords : Prop :=
  ∀ (d a : BitVec 7) (l ch : BitVec 4) (n t : BitVec 3),
    let ea := fun c : Ctx => (c.read64 false a c.l0).toNat
    let sig : Ctx → Sig := fun _ => { maj := 0x2F, opds := [rd d, rdAddr a] }
    let v := fun c : Ctx => (c.read d c.l0).toNat
    let free := fun _ : Ctx => True
    let awake := fun c : Ctx => takeWaits c (blockLanes c.p.q c.p.n) = []
    let dlv := fun (P : Ctx → Prop) (w : Bool → Instr) (ok : State → Nat → Nat → Prop) (f : Ctx → Nat → State → State) =>
      (∀ tr, TrapsIf (fun s c => P c ∧ dbarAddr c (begun c (sig c) s) (ea c) = .error tr) w sig (fun _ => tr)) ∧
      ∀ x, TrapsIf (fun s c => P c ∧ BarrierAt s c.w (ea c) x ∧ ¬ ok s x (v c)) w sig (fun _ => illegal 0x2F 0x03) ∧
        FallsIf (fun s c => P c ∧ BarrierAt s c.w (ea c) x ∧ ok s x (v c)) w sig (fun _ => 1) (fun c s => f c x s)
    let slot := fun (s : State) x v => v < 2 ^ 27 ∧ v / 2 ^ 24 < spadNat s x 4 % 16
    let qsig : Ctx → Sig := fun _ => { maj := 0x2F, opds := [wr d, rdAddr a] }
    let count := fun (w : Bool → Instr) (bad : Bool) (f : State → Ctx → Nat) =>
      ∀ z s c, Ready z s c { maj := 0x30, badField := bad, opds := [wrW true d] } →
        ∃ u, exec (w z) s = .next u ∧ Wrote s u c d (fun _ => wordsOf true (f s c))
    dlv free (.dinit · d a l) (fun _ _ v => 1 ≤ v ∧ v ≤ 8) (fun c x s => spadPut (x + 0x10) 48 0 (spadPut x 4 (v c) s)) ∧
    dlv free (.dexp · d a l) slot (fun c x s => dbarCheck x (spadPut (x + 0x10 + 6 * (v c / 2 ^ 24)) 3 (v c % 2 ^ 24) s)) ∧
    dlv awake (.darr · d a l) slot (fun c x s => dbarCredit x (v c / 2 ^ 24) (v c % 2 ^ 24)
      (physRelease (s.modPart c.key c.q performReads) (coreOf c.key) (dlvScope c s a))) ∧
    (∀ x, FallsIf (fun s c => BarrierAt s c.w (ea c) x) (.dqry · d a l) qsig (fun _ => 1) (fun c s =>
      writeLater c d l.toNat (fun _ => [BitVec.ofNat 32 (spadNat s x 4)]) s)) ∧
    (∀ tr, TrapsIf (fun s c => dbarAddr c (begun c (qsig c) s) (ea c) = .error tr) (.dqry · d a l) qsig (fun _ => tr)) ∧
    count (.time · d) false (fun s _ => s.time) ∧
    count (.pmcrd · d n) (decide (5 < n.toNat)) (fun s c => pmcValue n.toNat c s) ∧
    count (.wprd · d ch) false (fun s c => wpOf s c.w ch.toNat) ∧
    count (.cycle · d) false (fun s c =>
      if c.w.stopped then c.w.cycBase else c.w.cycBase + (cycleOf s (coreOf c.key) - c.w.cycle0)) ∧
    (∀ z s c, Ready z s c { maj := 0x30, badField := decide (c.w.tiles.length ≤ t.toNat), opds := [wr d] } →
      ∃ u, exec (.accv z d t) s = .next u ∧ Wrote s u c d (fun _ =>
        let x := c.w.tile t.toNat
        [BitVec.ofNat 32 (x.v + 16 * x.va + 256 * x.shape.width + 2 ^ 15 * b2n x.shape.s32)])) ∧
    Falls (.pmcwr · d n) (fun _ => { maj := 0x30, priv := some 2, badField := decide (3 < n.toNat), opds := [rdW true d] }) (fun _ => 1)
      (fun c s => s.modCore (coreOf c.key) fun k =>
        let now := if k.recent.1 = cycleOf s (coreOf c.key) then k.recent.2.getD n.toNat 0 else 0
        let x := (c.read64 false d c.l0).toNat % 2 ^ 48 + now
        let sel := k.pmcsel.getD n.toNat 0
        { k with pmc := k.pmc.set n.toNat (x % 2 ^ 48),
                 pmcsel := if 2 ^ 48 ≤ x ∧ !bitOf sel 9 then k.pmcsel.set n.toNat (sel + 2 ^ 9) else k.pmcsel })

/-! ## Launches and queues -/

/-- LAUNCH and LAUNCHB (R328, R329): a release at DEVICE scope, then lane by lane in order the launch of the record, or of the bundle, at the
lane's address, and the statuses as a writeback; a launch at depth 10 answers DEPTH, one while 4,096 children wait FULL, an empty or
refused one INVALID, and else OK. Where the spec leaves a choice, it is the model's: log 27. -/
def Obligations.LaunchWords : Prop :=
  (∀ (d a : BitVec 7) (l : BitVec 4),
    let sig : Ctx → Sig := fun _ => { maj := 0x31, opds := [wr d, rdAddr a] }
    let launch := fun (w : Bool → Instr) (bundle : Bool) (n : Nat) =>
      MemReleases true w sig (fun c => laneReqs c (eaPair c a) n) (fun _ => n) accRead (fun s c => notGlobal s c.w)
        (fun c ps u =>
          let r := launchLanes c bundle (ps.map fun x => (x.1, eaPair c a x.1, x.2))
            (physRelease (u.modPart c.key c.q performReads) (coreOf c.key) 4) []
          writeLater c d l.toNat (fun k => [BitVec.ofNat 32 (laneVal r.2 k)]) r.1)
    launch (.launch · d a l) false 256 ∧ launch (.launchb · d a l) true 64) ∧
  (∀ gid addrs s,
    let g := kgetD {} s.grids gid
    (g.depth = 10 → deviceLaunch gid addrs s = (s, 1)) ∧
    (g.depth ≠ 10 → 4096 ≤ waitingChildren s g.partition → deviceLaunch gid addrs s = (s, 2)) ∧
    (g.depth ≠ 10 → waitingChildren s g.partition < 4096 →
      (addrs = [] ∨ (submitAll gid addrs s).2 = none → (deviceLaunch gid addrs s).2 = 3 ∧ (deviceLaunch gid addrs s).1.grids = s.grids) ∧
      (∀ ids, addrs ≠ [] → (submitAll gid addrs s).2 = some ids → (deviceLaunch gid addrs s).2 = 0)))

/-- ENQR, RQFLUSH and RQSTAT (R330 to R332): the record queue that an address names is the one that the grid, or else its nearest ancestor, has
bound; ENQR enqueues the lanes' records in increasing order, behind the part's own loads, RQFLUSH launches the remainder, RQSTAT reads the counts; a queue that is not
found answers 3, 2 and all ones. ENQR needs its span in bounds (else it traps), settled and clean in every active lane. Where the spec leaves a choice, it is the model's: logs 28, 61. -/
def Obligations.RecordQueueWords : Prop :=
  ∀ (d a : BitVec 7) (l : BitVec 4),
    let esig : Ctx → Sig := fun _ => { maj := 0x32, opds := [{ wrSpan d 1 with late := true }, rdAddr a] }
    let span := fun (s : State) (c : Ctx) k => enqSpan c d a (begun c (esig c) s) k
    let ready := fun (s : State) (c : Ctx) => takeWaits c (blockLanes c.p.q c.p.n) = [] ∧ c.w.areaLost = false ∧
      ∀ k ∈ c.act, (span s c k).bound c.w [k] = none ∧
        (∀ x ∈ c.p.pend, boardHit c.w [k] [span s c k] x = false) ∧ readsPoison c.w [k] [{ span s c k with src := true }] = false
    let corrected := fun (c : Ctx) (s : State) =>
      if c.w.flaws.isEmpty then s
      else s.modWave c.key fun w => c.act.foldl (fun w l => correctReads c.q [l] [{ enqSpan c d a s l with src := true }] w) w
    let out := fun (c : Ctx) (r : State × List (Nat × Nat)) => writeLater c d l.toNat (fun k => [BitVec.ofNat 32 (laneVal r.2 k)]) r.1
    let sig : Ctx → Sig := fun _ => { maj := 0x32, opds := [wr d, rdAddr a] }
    FallsIf ready (.enqr · d a l) esig (fun _ => 1)
      (fun c s => out c (enqLanes c d a c.act ((corrected c s).modPart c.key c.q performReads) [])) ∧
    (∀ tr, TrapsIf (fun s c => c.act.findSome? (fun k => (span s c k).bound c.w [k]) = some tr) (.enqr · d a l) esig (fun _ => tr)) ∧
    Falls (.rqflush · d a l) sig (fun _ => 1) (fun c s => out c (flushLanes c a c.act s [])) ∧
    Falls (.rqstat · d a l) (fun _ => { maj := 0x32, opds := [{ wr d with len := 2 }, rdAddr a] }) (fun _ => 1)
      (fun c s => writeLater c d l.toNat (fun k => rqStat c (eaPair c a k) s) s) ∧
    (∀ c k s, findRq s (eaPair c a k) 12 c.w.grid = none →
      (enqLanes c d a [k] s []).2 = [(k, 3)] ∧ (flushLanes c a [k] s []).2 = [(k, 2)] ∧
      rqStat c (eaPair c a k) s = [0xFFFFFFFF#32, 0xFFFFFFFF#32])

/-- EVQ (R326, R327): EVPOST posts a USER event after a SYSTEM release; CPOLL takes from each lane's queue the record at GET, or gives all ones;
CSLEEP waits for a record of L0's queue, or its timeout counted from its first issue, and polls; SIGNAL writes eight bytes at SYSTEM scope after a
release. Where the spec leaves a choice, it is the model's: log 28. -/
def Obligations.EventWords : Prop :=
  ∀ (d a : BitVec 7) (l : BitVec 4),
    let sig : Ctx → Sig := fun _ => { maj := 0x33, opds := [wrSpan d 4, rd a] }
    let poll := fun (c : Ctx) (s : State) =>
      let r := pollLanes c a c.act s []
      writeLater c d l.toNat (fun k => kgetD [0xFFFFFFFF#32, 0xFFFFFFFF#32, 0xFFFFFFFF#32, 0xFFFFFFFF#32] r.2 k)
        (physAcquire r.1 (coreOf c.key) 5)
    let x := fun c : Ctx => (c.read a c.l0).toNat
    let limit := fun (c : Ctx) (s : State) => c.p.timeout.or (if x c / 65536 = 0 then none else some (s.time + 1000 * (x c / 65536)))
    let due := fun (s : State) (c : Ctx) => cqHas (begun c (sig c) s) c.w.grid (x c % 8) = true ∨ ∃ t ∈ limit c s, t ≤ s.time
    let release := fun (c : Ctx) (s : State) => physRelease (s.modPart c.key c.q performReads) (coreOf c.key) 5
    FallsIf (fun _ c => takeWaits c (blockLanes c.p.q c.p.n) = []) (.evpost · d a l) (fun _ => { maj := 0x33, opds := [rd d, rd a] }) (fun _ => 1) (fun c s =>
      postEvent (kgetD {} s.grids c.w.grid).launch.evq
        { status := 0x0200, fsum := (c.read d c.l0).toNat % 65536, queue := 0xFFFF, tag := wordTag s c,
          origin := (originOf s c.w c.pc0).2.2.2, count := (c.read a c.l0).toNat } (release c s)) ∧
    Falls (.cpoll · d a l) sig (fun _ => 1) poll ∧
    FallsIf due (.csleep · d a l) sig (fun _ => 1) poll ∧
    HoldsIf (fun s c => ¬ due s c) (.csleep · d a l) sig (fun c s => .cond (.ring (x c % 8) (limit c s)))
      (fun c s => s.modPart c.key c.q fun p => { p with timeout := limit c s }) ∧
    MemReleases false (.signal · d a l) (fun _ => { maj := 0x33, opds := [rdW true d, rdAddr a] })
      (fun c => [{ lane := c.l0, ea := eaPair c a c.l0, n := 8 }]) (fun _ => 8) accAtomic (fun s c => notMapped s c.w)
      (fun c ps u => (placesOf ps c.l0).foldl (writePieceAt (coreOf c.key) 5 (bytesOfNat 8 (c.read64 false d c.l0).toNat))
        (release c u))

/-! ## Control mode -/

/-- QFETCH, QDISP and SWAITC (R65, R308, R314, R334, R335): a queue that does not run raises QOVERRUN, an empty one QEMPTY, a packet that fails its checks
QFORMAT; else HEAD advances and the packet is in D; an undefined partition raises PARTNUM, a dispatcher without room for every record QFULL; else
the records are admitted
all or none, their deadlines counted from the fetch, and a refusal posts an event; SWAITC passes when the signal meets its condition, with an
acquire, raises SIGTIMEOUT after its timeout and waits in between. The words are privileged. Where the spec leaves a choice, it is the model's: logs 33, 52, 54. -/
def Obligations.QueueControlWords : Prop :=
  ∀ (d : BitVec 7) (q : BitVec 10) (b : BitVec 1) (p : BitVec 3) (i : BitVec 12) (m : BitVec 2),
    let span : Nat → Bool → Bool → Opd := fun n dst src => { code := d, len := n, dst := dst, src := src, allow := .vOnly }
    let sig : Nat → List Opd → Ctx → Sig := fun f os _ => { maj := 0x39, priv := some f, opds := os }
    let fsig := sig 0 [span 16 true false]
    let dsig := sig 1 [rdW true d]
    let ssig : Ctx → Sig := fun _ => { maj := 0x39, priv := some 2, opds := [span 4 false true], badField := decide (m = 3#2) }
    let trap := fun (code q part slot reason : Nat) =>
      ({ cause := code, info := BitVec.ofNat 32 (q % 2 ^ 10 + 2 ^ 10 * part + 2 ^ 16 * slot + 2 ^ 20 * reason) } : Trap)
    let on := fun (x : HostQueue) => x.state = 1 ∧ x.en = true ∧ x.resetting = false
    let waits := fun (x : HostQueue) => on x ∧ x.head ≠ x.tail ∧ x.mate = none
    let next := fun (s : State) => s.modQueue q.toNat fun x => { x with head := (x.head + 1) % 2 ^ 32, mate := none, mateCode := 0 }
    let bad := fun (x : HostQueue) (reason count tag : Nat) (s : State) =>
      postEvent (s.queue q.toNat).evq { status := 0x010A, fsum := reason, queue := q.toNat, splice := x.mateCode, tag := tag, count := count }
        (s.modQueue q.toNat fun x => { x with state := 3, reason := reason })
    let pair := fun (c : Ctx) (i : Nat) => (c.readAt d i c.l0).toNat + 2 ^ 32 * (c.readAt d (i + 1) c.l0).toNat
    let addr := fun c : Ctx => (c.read64 false d c.l0).toNat
    let addrs := fun (c : Ctx) (s : State) => if b = 1#1 then
        (match ctlRead p.toNat (packetCtx s p.toNat) (addr c) 64 s with
         | some (t, bs) => (t, bundleAddrs bs)
         | none => (s, []))
      else (s, [addr c])
    let held := fun (s : State) (c : Ctx) => hostWaiting s p.toNat + max 1 (addrs c (begun c (dsig c) s)).2.length
    let fetched := fun (c : Ctx) => p.toNat * 2 ^ 64 + addr c
    let disp := fun (c : Ctx) (s : State) =>
      let u := (addrs c s).1
      let u := { u with handed := kdel u.handed (fetched c) }
      if (addrs c s).2 = [] then (u, .error (0x0109, 0x20, 0))
      else dispRecords p.toNat ((kget s.handed (fetched c)).getD s.time) (addrs c s).2 u
    let limit := fun (c : Ctx) (s : State) => c.p.timeout.or (if i.toNat = 0 then none else some (s.time + 1000 * i.toNat))
    let got := fun (s : State) (c : Ctx) (u : State) (v : Nat) => takeWaits c c.act = [] ∧ ∃ ps,
      Granted c.w [{ lane := c.l0, ea := pair c 0, n := 8 }] 8 accRead noExtra (begun c (ssig c) s) u ps ∧
      natOfBytes (readPlaces u .system (placesOf ps c.l0)) = v
    (∀ n, TrapsIf (fun s _ => ¬ on (s.queue q.toNat) ∧ (s.queue q.toNat).part = n) (.qfetch · d q) fsig (fun _ => trap 0x41 q.toNat n 0 0)) ∧
    (∀ n, TrapsIf (fun s _ => on (s.queue q.toNat) ∧ ¬ waits (s.queue q.toNat) ∧ (s.queue q.toNat).part = n) (.qfetch · d q) fsig
      (fun _ => trap 0x40 q.toNat n 0 0)) ∧
    (∀ bs u, ∀ z s c, Ready z s c (fsig c) → waits (s.queue q.toNat) →
      packetBytes (begun c (fsig c) s) q.toNat (s.queue q.toNat).head = some bs → Passes q.toNat bs (next (begun c (fsig c) s)) u →
      let t := writeRegs c d (fun _ => bytesWords 16 bs)
        { u with handed := kput u.handed ((s.queue q.toNat).part * 2 ^ 64 + numAt bs 16 8) u.time }
      exec (.qfetch z d q) s = .next (endWord c (1 * passes c.p.n + redirect c t) none (fallThrough c t))) ∧
    (∀ bs u reason count, ∀ z s c, Ready z s c (fsig c) → waits (s.queue q.toNat) →
      packetBytes (begun c (fsig c) s) q.toNat (s.queue q.toNat).head = some bs →
      checkPacket q.toNat bs (next (begun c (fsig c) s)) = .bad u reason count →
      exec (.qfetch z d q) s = .next (endWord c (passes c.p.n) (some 2) (takeTrap c.key c.q c.pc0
        (trap 0x42 q.toNat (s.queue q.toNat).part 0 reason) (bad (s.queue q.toNat) reason count (numAt bs 4 4) u)))) ∧
    (∀ z s c, Ready z s c (fsig c) → waits (s.queue q.toNat) →
      packetBytes (begun c (fsig c) s) q.toNat (s.queue q.toNat).head = none →
      let x := s.queue q.toNat
      exec (.qfetch z d q) s = .next (endWord c (passes c.p.n) (some 2) (takeTrap c.key c.q c.pc0 (trap 0x42 q.toNat x.part 0 6)
        (bad x 6 ((x.base + 64 * (x.head % max 1 x.size)) % 2 ^ 32) 0 (next (begun c (fsig c) s)))))) ∧
    TrapsIf (fun s _ => kget s.partitions p.toNat = none) (.qdisp · d b p) dsig (fun _ => trap 0x4C 0 p.toNat 0 0) ∧
    TrapsIf (fun s c => (kget s.partitions p.toNat).isSome = true ∧ 1024 < held s c) (.qdisp · d b p) dsig
      (fun _ => trap 0x43 0 p.toNat 0 0) ∧
    FallsIf (fun s c => (kget s.partitions p.toNat).isSome = true ∧ held s c ≤ 1024) (.qdisp · d b p) dsig (fun _ => 1) (fun c s =>
      match disp c s with
      | (t, .ok ids) => if b = 1#1 then bundleUp ids t else t
      | (t, .error (st, fs, evq)) => postEvent evq { status := st, fsum := fs }
          { t with grids := s.grids, cores := s.cores, waves := s.waves, runs := s.runs, focus := s.focus }) ∧
    (∀ u v z s c, Ready z s c (ssig c) → got s c u v →
      let t := physAcquire u (coreOf c.key) 5
      (signalMeets m.toNat v (pair c 2) = true →
        exec (.swaitc z d i m) s = .next (endWord c (1 * passes c.p.n + redirect c t) none (fallThrough c t))) ∧
      (signalMeets m.toNat v (pair c 2) = false → (∃ x ∈ limit c s, x ≤ u.time) →
        exec (.swaitc z d i m) s = .next (endWord c (passes c.p.n) (some 2) (takeTrap c.key c.q c.pc0
          { cause := 0x44, info := 0#32, addr := some (BitVec.ofNat 64 (pair c 0)) } u))) ∧
      (signalMeets m.toNat v (pair c 2) = false → (∀ x ∈ limit c s, u.time < x) →
        exec (.swaitc z d i m) s = .next (stopIfAsked c.key (stopRun c 2 (setWait c.key c.q
          (.cond (.signal (pair c 0) (pair c 2) m.toNat (limit c s)))
          ((closeWindows c.key c.q (u.modPart c.key c.q fun x => { x with timeout := limit c s })).modPart c.key c.q (backToGroup c)))))))

/-- KEYOP, FUSERD, WIPE, SHADOW and MEASX (R72, R243, R334, R335, R473, R474): key slots are generated, bound, unbound and zeroed; SIGN writes a
signature of the device key; FUSERD reads a fuse row; WIPE and SHADOW start and complete when done; MEASX extends a measurement register. Each
raises the stated fault where R335 names one. Where the spec leaves a choice, it is the model's: logs 6, 52, 53. -/
def Obligations.DeviceControlWords : Prop :=
  ∀ (d : BitVec 7) (p : BitVec 3) (k m : BitVec 4) (r : BitVec 10) (x : BitVec 1),
    let sig : Nat → List Opd → Ctx → Sig := fun f os _ => { maj := 0x39, priv := some f, opds := os }
    let trap := fun (code part slot : Nat) =>
      ({ cause := code, info := BitVec.ofNat 32 (2 ^ 10 * part + 2 ^ 16 * slot) } : Trap)
    let span : Nat → Bool → Bool → Opd := fun n dst src => { code := d, len := n, dst := dst, src := src, allow := .vOnly }
    let ssig := sig 3 [span 49 true false, span 16 false true]
    let slot := fun s : State => kgetD {} s.keys k.toNat
    let mine := fun (s : State) (_ : Ctx) => (slot s).key ≠ none ∧ ∀ y, (slot s).bound = some y → y = p.toNat
    let bind := fun (w : Bool → Instr) (x : Option Nat) =>
      FallsIf mine w (sig 3 []) (fun _ => 1) (fun _ s => { s with keys := kput s.keys k.toNat { slot s with bound := x } }) ∧
      TrapsIf (fun s c => ¬ mine s c) w (sig 3 []) (fun _ => trap 0x45 p.toNat k.toNat)
    let first := fun (P : State → Prop) (s : State) (c : Ctx) => c.p.timeout = none ∧ (kget s.partitions p.toNat).isSome = true ∧ P s
    let marked := fun (f : State → State) (c : Ctx) (s : State) => (f s).modPart c.key c.q fun y => { y with timeout := some s.time }
    let starts := fun (w : Bool → Instr) (n : Nat) (cond : Cond) (P : State → Prop) (f : State → State) =>
      HoldsIf (first P) w (sig n []) (fun _ _ => .cond cond) (marked f)
    let until_ := fun (w : Bool → Instr) (n : Nat) (busy : State → Bool) (cond : Cond) =>
      TrapsIf (fun s c => c.p.timeout = none ∧ kget s.partitions p.toNat = none) w (sig n []) (fun _ => trap 0x4C p.toNat 0) ∧
      FallsIf (fun s c => c.p.timeout ≠ none ∧ busy s = false) w (sig n []) (fun _ => 1) (fun _ s => s) ∧
      HoldsIf (fun s c => c.p.timeout ≠ none ∧ busy s = true) w (sig n []) (fun _ _ => .cond cond)
        (fun c s => s.modPart c.key c.q fun y => { y with timeout := c.p.timeout })
    let part := fun s : State => kgetD {} s.partitions p.toNat
    let elsewhere := fun s : State =>
      ∃ e ∈ s.partitions, e.1 ≠ p.toNat ∧ e.2.swap = 3 ∧ Nat.land e.2.gmask (part s).gmask ≠ 0
    let swaps := fun n : Nat => modPartition p.toNat fun y => { y with swap := n }
    Falls (.keyopGen · d p k) (sig 3 []) (fun _ => 1) (fun _ s =>
      { s with keys := kput s.keys k.toNat { slot s with key := some s.nextId }, nextId := s.nextId + 1 }) ∧
    bind (.keyopBind · d p k) (some p.toNat) ∧ bind (.keyopUnbind · d p k) none ∧
    Falls (.keyopZero · d p k) (sig 3 []) (fun _ => 1) (fun _ s => { s with keys := kdel s.keys k.toNat }) ∧
    Falls (.keyopZeroall · d p k) (sig 3 []) (fun _ => 1) (fun _ s => { s with keys := [] }) ∧
    TrapsIf (fun s _ => s.dev.key = false) (.keyopSign · d p k) ssig (fun _ => trap 0x46 p.toNat k.toNat) ∧
    FallsIf (fun s _ => s.dev.key = true) (.keyopSign · d p k) ssig (fun _ => 1) (fun c s =>
      writeRegs c (d + 16#7) (fun _ => bytesWords 33 (beBytes 132 (Config.freeBits s.fresh).toNat)) { s with fresh := s.fresh + 1 }) ∧
    (∀ z s c, Ready z s c (sig 4 [wr d] c) → ∃ t, exec (.fuserd z d r) s = .next t ∧
      Wrote s t c d (fun _ => [Config.fuseRow s.dev.burns r.toNat])) ∧
    until_ (.wipe · p) 5 (fun s => (part s).wiping) (.wipe p.toNat) ∧
    TrapsIf (first fun s => hasWorkgroups s p.toNat = true) (.wipe · p) (sig 5 []) (fun _ => trap 0x48 p.toNat 0) ∧
    starts (.wipe · p) 5 (.wipe p.toNat) (fun s => hasWorkgroups s p.toNat = false) (modPartition p.toNat fun y => { y with wiping := true }) ∧
    until_ (.shadow · x p) 6 (fun s => swapping s p.toNat) (.swap p.toNat) ∧
    TrapsIf (first fun s => x = 1#1 ∧ (part s).swap ≠ 3) (.shadow · x p) (sig 6 []) (fun _ => trap 0x4A p.toNat 0) ∧
    starts (.shadow · x p) 6 (.swap p.toNat) (fun s => x = 1#1 ∧ (part s).swap = 3) (swaps 4) ∧
    TrapsIf (first fun s => x = 0#1 ∧ elsewhere s) (.shadow · x p) (sig 6 []) (fun _ => trap 0x49 p.toNat 0) ∧
    FallsIf (first fun s => x = 0#1 ∧ ¬ elsewhere s ∧ (part s).swap = 3) (.shadow · x p) (sig 6 []) (fun _ => 1) (fun _ s => s) ∧
    starts (.shadow · x p) 6 (.swap p.toNat) (fun s => x = 0#1 ∧ ¬ elsewhere s ∧ (part s).swap ≠ 3 ∧ (part s).swap ≠ 0) (fun s => s) ∧
    starts (.shadow · x p) 6 (.swap p.toNat) (fun s => x = 0#1 ∧ ¬ elsewhere s ∧ (part s).swap = 0 ∧ holdsDeadline s p.toNat = true) (swaps 1) ∧
    starts (.shadow · x p) 6 (.swap p.toNat) (fun s => x = 0#1 ∧ ¬ elsewhere s ∧ (part s).swap = 0 ∧ holdsDeadline s p.toNat = false)
      (haltPartition p.toNat) ∧
    TrapsIf (fun _ _ => 12 ≤ m.toNat) (.measx · d m) (sig 7 [span 16 false true]) (fun _ => trap 0x4B 0 0) ∧
    FallsIf (fun _ _ => m.toNat < 12) (.measx · d m) (sig 7 [span 16 false true]) (fun _ => 1)
      (fun c s => extendMeas m.toNat (beNat (regBytes c d 16)) s)

/-! ## Hierarchies, images, graphics and translation -/

/-- XPAIR and XRAY (R405 to R407, R415, R417): a descriptor with a reserved bit is ILLEGAL, a base outside global space SPACE, a misaligned one
MISALIGN; a full unit keeps the part waiting, and so does a lane that sleeps on an FTAKE; else a release at DEVICE scope and a traversal starts, for XRAY one per active lane, whose results
the part awaits under the destination. -/
def Obligations.HierarchyWords : Prop :=
  ∀ (d a : BitVec 7) (sw r cn se any cull : BitVec 1) (l : BitVec 4),
    let psig : Ctx → Sig := fun c =>
      { maj := 0x34, badStep := decide (sw = 1#1) && !c.b0, badField := decide (sw = 1#1) && decide (se = 1#1),
        opds := [{ code := d, len := 2, even := true, dst := true, src := false, allow := .reg }, { rdSpan a 16 with even := true }] }
    let x := fun (c : Ctx) (s : State) => mkPairs c s a (sw = 1#1) (r = 1#1) (cn = 1#1) (se = 1#1)
    let bases := fun (c : Ctx) (s : State) =>
      [((x c s).nodea, 64), ((x c s).leafa, 32)] ++ (if se = 1#1 ∨ sw = 1#1 then [] else [((x c s).nodeb, 64)]) ++
      (if se = 1#1 then [] else [((x c s).leafb, 32)]) ++ [((x c s).cont, 64)]
    let good := fun (s : State) (c : Ctx) =>
      (x c s).qmask < 65536 ∧ (x c s).rq < 8 ∧ c.readAt a 15 c.l0 = 0#32
    let base := fun (s : State) (c : Ctx) => baseTrap s c.w c.l0 (bases c s)
    let sound := fun (s : State) (c : Ctx) => good s c ∧
      ∀ b ∈ bases c s, (spaceOf (kgetD {} s.partitions c.w.partition) b.1).code = 0 ∧ b.1 % b.2 = 0
    let load := fun (s : State) (c : Ctx) => travLoad s (coreOf c.key)
    let asleep := fun c : Ctx => takeWaits c (blockLanes c.p.q c.p.n)
    let release := fun (c : Ctx) (s : State) => physRelease (s.modPart c.key c.q performReads) (coreOf c.key) 4
    let ysig : Ctx → Sig := fun _ => { maj := 0x35, opds := [wrSpan d 4, { rdSpan a 14 with even := true }] }
    let masks := fun c : Ctx => ∀ k ∈ c.act, (c.readAt a 13 k).toNat < 256
    let word := fun (c : Ctx) (i k : Nat) => (c.readAt a i k).toNat + 2 ^ 32 * (c.readAt a (i + 1) k).toNat
    let rays := fun (s : State) (c : Ctx) => masks c ∧ ∀ k ∈ c.act, ∀ b ∈ [(word c 8 k, 64), (word c 10 k, 32)],
      (spaceOf (kgetD {} s.partitions c.w.partition) b.1).code = 0 ∧ b.1 % b.2 = 0
    TrapsIf (fun s c => ¬ good s c) (.xpair · d a sw r cn se l) psig (fun _ => illegal 0x34 0x03) ∧
    (∀ t, TrapsIf (fun s c => good s c ∧ base s c = some t) (.xpair · d a sw r cn se l) psig (fun _ => t)) ∧
    WaitsIf (fun s c => sound s c ∧ 256 ≤ load s c) (.xpair · d a sw r cn se l) psig (fun _ => .cond (.traversal 1)) ∧
    WaitsIf (fun s c => sound s c ∧ load s c < 256 ∧ asleep c ≠ []) (.xpair · d a sw r cn se l) psig
      (fun c => .board (asleep c) (blockLanes c.p.q c.p.n)) ∧
    FallsIf (fun s c => sound s c ∧ load s c < 256 ∧ asleep c = []) (.xpair · d a sw r cn se l) psig (fun _ => 1) (fun c s =>
      let u := release c s
      let zero := fun _ : Nat => [0#32, 0#32]
      let y : Pend := { id := u.nextId + 1, kind := .load, window := l.toNat, vals := pendVals c d zero, uvals := pendUvals c d zero,
                        bq := c.p.q, bn := c.p.n, ulane := c.l0, lanes := [], trav := some u.nextId }
      engineIssued c [u.nextId] ({ u with nextId := u.nextId + 2, pairs := kput u.pairs u.nextId (x c s) }.modPart c.key c.q fun p =>
        { p with pend := p.pend ++ [y] })) ∧
    TrapsIf (fun _ c => ¬ masks c) (.xray · d a cull any l) ysig (fun _ => illegal 0x35 0x03) ∧
    (∀ t, TrapsIf (fun s c => masks c ∧ rayTrap c s a = some t) (.xray · d a cull any l) ysig (fun _ => t)) ∧
    WaitsIf (fun s c => rays s c ∧ 256 < load s c + c.act.length) (.xray · d a cull any l) ysig (fun c => .cond (.traversal c.act.length)) ∧
    WaitsIf (fun s c => rays s c ∧ load s c + c.act.length ≤ 256 ∧ asleep c ≠ []) (.xray · d a cull any l) ysig
      (fun c => .board (asleep c) (blockLanes c.p.q c.p.n)) ∧
    FallsIf (fun s c => rays s c ∧ load s c + c.act.length ≤ 256 ∧ asleep c = []) (.xray · d a cull any l) ysig (fun _ => 1)
      (fun c s =>
        let u := release c s
        let y : Pend := { id := u.nextId, kind := .load, window := l.toNat, vals := pendVals c d (fun _ => List.replicate 4 0#32), uvals := [],
                          bq := c.p.q, bn := c.p.n, ulane := c.l0, lanes := c.act }
        let lanes := c.act.map fun k => ({ lane := k, ops := c.readSpan a 14 k, stack := [(c.readAt a 12 k).toNat] } : RayLane)
        let v : Xray := { owner := ownerOf u c.w c.l0, key := c.key, any := decide (any = 1#1), cull := decide (cull = 1#1), lanes := lanes }
        engineIssued c [u.nextId] ({ u with nextId := u.nextId + 1, rays := kput u.rays u.nextId v }.modPart c.key c.q fun p =>
          { p with pend := p.pend ++ [y] }))

/-- TEX (R420, R421): the descriptor at slot S of each lane's table is read, then the texels that its operands name, and the result is written
back: SAMPLE the nearest texel or the weighted sum of four, GATH4 channel R of four, LOADI one texel, QUERY width, height, levels and
format; an invalid descriptor gives quiet NaNs, or for QUERY zeros and all ones. Where the spec leaves a choice, it is the model's: log 41. -/
def Obligations.ImageWords : Prop :=
  (∀ (d a : BitVec 7) (slot l : BitVec 4),
    let sig : Ctx → Sig := fun _ => { maj := 0x36, opds := [wrSpan d 4, { rdSpan a 5 with even := true }] }
    let tex := fun (op : Nat) (w : Bool → Instr) =>
      (∀ t, TrapsIf (fun s c => texBaseTrap a c (begun c (sig c) s) = some t) w sig (fun _ => t)) ∧
      ∀ z s c u ps v ts, Ready z s c (sig c) → takeWaits c c.act = [] →
        (∀ k ∈ c.act, (piecesOf (begun c (sig c) s) c.w k (eaPair c a k) 512).isSome = true ∧ eaPair c a k % 512 = 0) →
        Granted c.w (laneReqs c (fun k => eaPair c a k + 32 * slot.toNat) 32) 1 accRead noExtra (begun c (sig c) s) u ps →
        (ps.any fun x => placesPoisoned u x.2) = false →
        Granted c.w (texReqs op a c u ps) 1 accRead noExtra u v ts → (ts.any fun x => placesPoisoned v x.2) = false →
        let t := writeLater c d l.toNat (texLane op a c v ps ts) (sampled c (eaPair c a) 0x36 v)
        exec (w z) s = .next (endWord c (1 * passes c.p.n + redirect c t) none (fallThrough c t))
    tex 0 (.texSample · d a slot l) ∧ tex 1 (.texGath4 · d a slot l) ∧ tex 2 (.texLoadi · d a slot l) ∧ tex 3 (.texQuery · d a slot l)) ∧
  (∀ (m : Image) (x : TexArgs) (ts : List (List Byte)),
    let cs := ts.map (texelChannels m.fmt)
    (m.mode.testBit 0 = false → texRes 0 m x ts = cs.headD [0, 0, 0, 0]) ∧
    (m.mode.testBit 0 = true → texRes 0 m x ts = (List.range 4).map fun ch => blend (texWeights m x) (cs.map fun t => t.getD ch 0)) ∧
    texRes 1 m x ts = cs.map (fun t => t.headD 0) ∧
    texRes 2 m x ts = cs.headD [0, 0, 0, 0] ∧
    texRes 3 m x ts = (if x.a.toNat < m.levels then [m.wk x.a.toNat, m.hk x.a.toNat, m.levels, m.fmt] else [0, 0, 0, 0]) ∧
    (loadiInside m x = false → texAddrs 2 m x = []) ∧
    texInvalid 0 = [0x7FC00000, 0x7FC00000, 0x7FC00000, 0x7FC00000] ∧ texInvalid 1 = texInvalid 0 ∧ texInvalid 2 = texInvalid 0 ∧
    texInvalid 3 = [0, 0, 0, 0xFFFFFFFF])

/-- GFX (R365 to R371): EDGE and COVER compute exact integers from their registers; PXTK takes a ticket of each lane's order word, the lanes that
must wait keeping the destination pending; PXLK passes once its ticket is served, with an acquire at DEVICE scope; PXUL releases and serves the
next; VEMIT in a geometry or domain wave with room for its primitives, and TSEMIT in a geometry wave of a draw with a domain stage, emit the lanes'
primitives and patches in increasing order and write back statuses. Where the spec leaves a choice, it is the model's: logs 36, 40. -/
def Obligations.GraphicsWords : Prop :=
  ∀ (d a b : BitVec 7),
    let core := fun c : Ctx => coreOf c.key
    let ticket := fun c : Ctx => (c.read b c.l0).toNat % 65536
    let one := fun c : Ctx => [({ lane := c.l0, ea := eaPair c a c.l0, n := 4 } : Req)]
    let lsig : Ctx → Sig := fun _ => { maj := 0x37, opds := [rdAddr a, rd b] }
    let tsig : Ctx → Sig := fun _ => { maj := 0x37, opds := [wr d, rdAddr a] }
    let vsig : Ctx → Sig := fun _ => { maj := 0x37, opds := [wr d, rdSpan a 13] }
    let esig : Ctx → Sig := fun _ => { maj := 0x37, opds := [wr d, rdSpan a 8] }
    let word := fun (c : Ctx) (ps : List (Nat × Places)) (u : State) => atomStep (core c) 4 (placesOf ps c.l0) (fun _ => none) u
    Falls (.edge · d a) (fun _ => { maj := 0x37, opds := [{ wrSpan d 13 with even := true }, rdSpan a 6] }) (fun _ => 1)
      (fun c s => writeLater c d 0 (fun k => edgeRes (c.readSpan a 6 k)) s) ∧
    Falls (.cover · d a b)
      (fun _ => { maj := 0x37, opds := [{ wrSpan d 2 with even := true }, { rdSpan a 13 with even := true }, rd b] }) (fun _ => 1)
      (fun c s => writeLater c d 0 (fun k => words64 (BitVec.ofNat 64
        (coverMask (wordsEdge (c.readSpan a 13 k)) ((c.read b k).toNat % 65536) ((c.read b k).toNat / 65536)))) s) ∧
    (codeIsVec d = true → MemFalls true (.pxtk · d a) tsig (fun c => laneReqs c (eaPair c a) 4) (fun _ => 4) accAtomic (fun _ _ => noExtra)
      (fun c ps u =>
        let r := ticketLanes (core c) ps u
        issuePend c 0 (r.2.1.map (fun x => (x.1, regNum c.w d x.1, x.2)) ++ r.2.2.map fun x => (x.1, regNum c.w d x.1, 0#32))
          (r.2.2.map fun x => ({ lane := x.1, reg := regNum c.w d x.1, ea := eaPair c a x.1, places := x.2, scope := 4, ticket := true } : Sleeper))
          r.1)) ∧
    (codeIsVec d = false → ∀ z s c u ps, Ready z s c (tsig c) → takeWaits c c.act = [] →
      Granted c.w (laneReqs c (eaPair c a) 4) 4 accAtomic noExtra (begun c (tsig c) s) u ps →
      (ps.any fun x => placesPoisoned u x.2) = false → (ticketLanes (core c) ps u).2.2 = [] →
      let t := writeLater c d 0 (fun k => [kgetD 0#32 (ticketLanes (core c) ps u).2.1 k]) (ticketLanes (core c) ps u).1
      exec (.pxtk z d a) s = .next (endWord c (1 * passes c.p.n + redirect c t) none (fallThrough c t))) ∧
    (∀ z s c u ps, Ready z s c (lsig c) → takeWaits c c.act = [] → Granted c.w (one c) 4 accPeek noExtra (begun c (lsig c) s) u ps →
      (ps.any fun x => placesPoisoned u x.2) = false →
      (mayEnter (natOfBytes (word c ps u).2) (ticket c) = true →
        let t := physAcquire (word c ps u).1 (core c) 4
        exec (.pxlk z a b) s = .next (endWord c (1 * passes c.p.n + redirect c t) none (fallThrough c t))) ∧
      (mayEnter (natOfBytes (word c ps u).2) (ticket c) = false →
        exec (.pxlk z a b) s = .next (stopIfAsked c.key (stopRun c 2 (setWait c.key c.q
          (.cond (.pixel (eaPair c a c.l0) (ticket c))) ((closeWindows c.key c.q (word c ps u).1).modPart c.key c.q (backToGroup c))))))) ∧
    MemReleases true (.pxul · a b) lsig one (fun _ => 4) accAtomic (fun _ _ => noExtra) (fun c ps u =>
      (atomStep (core c) 4 (placesOf ps c.l0)
        (fun x => if numAt x 2 2 = ticket c then some (x.take 2 ++ bytesOfNat 2 (ticket c + 1)) else none)
        (physRelease (u.modPart c.key c.q performReads) (core c) 4)).1) ∧
    (∀ x t, mayEnter x t = true ↔ (x / 65536 + 65536 - t) % 65536 ≤ 32767) ∧
    (∀ z s c did kind dr, Ready z s c (vsig c) → drawOfWave s c.key = some (did, kind, dr) → kind ≤ 1 → emitRoom s c.w = true →
      let r := vemitLanes c a kind did c.act (begun c (vsig c) s) []
      let t := writeLater c d 0 (fun k => [BitVec.ofNat 32 (kgetD 0 r.2 k)]) (countEmit r.1 c kind did)
      exec (.vemit z d a) s = .next (endWord c (1 * passes c.p.n + redirect c t) none (fallThrough c t))) ∧
    (∀ z s c did dr, Ready z s c (esig c) → drawOfWave s c.key = some (did, 0, dr) → dr.dom.isSome = true →
      let r := tsemitLanes c a did c.act (begun c (esig c) s) []
      let t := writeLater c d 0 (fun k => [BitVec.ofNat 32 (kgetD 0 r.2 k)]) r.1
      exec (.tsemit z d a) s = .next (endWord c (1 * passes c.p.n + redirect c t) none (fallThrough c t)))

/-- AT (R384, R385): ATR and ATW write back, lane by lane, what a read or a write would find, with the physical address for a control wave only;
TLBINV drops the selected translations that cover the address and TLBINVA all of the selection, every access that used one is performed, and the
part waits for the partition's unacknowledged peer stores; a reserved bit of the selection is ILLEGAL. Where the spec leaves a choice, it is the model's: log 21. -/
def Obligations.TranslationWords : Prop :=
  ∀ (d a : BitVec 7) (l : BitVec 4),
    let asig : Ctx → Sig := fun _ => { maj := 0x38, opds := [{ wrSpan d 4 with even := true }, rdAddr a] }
    let at_ := fun (x : Acc) (c : Ctx) (s : State) => writeLater c d l.toNat (fun k =>
      let r := probe s c.w x k (c.read64 false a k).toNat
      [BitVec.ofNat 32 r.1, 0#32] ++ words64 (BitVec.ofNat 64 (if c.w.ctrl then r.2 else 0))) { s with fresh := s.fresh + 64 }
    let sel := fun c : Ctx => (c.read d c.l0).toNat
    let part := fun c => sel c / 4096 % 8
    let picked := fun (c : Ctx) (t : TlbEntry) =>
      t.partition = part c ∧ ((sel c).testBit 15 = true ∨ t.glob = false ∧ t.ctx = sel c % 4096)
    let inv := fun (w : Bool → Instr) (f : Nat) (os : List Opd) (hit : Ctx → TlbEntry → Bool) (ptr : Ctx → TablePtr → Bool) =>
      let sig : Ctx → Sig := fun _ => { maj := 0x38, priv := some f, opds := os }
      let after := fun (c : Ctx) (s : State) =>
        performStores { s with tlb := s.tlb.filter fun t => !(tlbSelected (sel c) t && hit c t),
                               ptrs := s.ptrs.filter fun x => !(ptrSelected (sel c) x && ptr c x) } (fun _ => true) 5
      TrapsIf (fun _ c => 65536 ≤ sel c) w sig (fun _ => illegal 0x38 0x03) ∧
      FallsIf (fun s c => sel c < 65536 ∧ astpIds s (part c) = []) w sig (fun _ => 1) after ∧
      RestsIf (fun s c => sel c < 65536 ∧ astpIds s (part c) ≠ []) w sig
        (fun c s => .cond (.past (astpIds s (part c)))) (fun c s => fallThrough c (after c s))
    Falls (.atr · d a l) asig (fun _ => 1) (at_ accRead) ∧
    Falls (.atw · d a l) asig (fun _ => 1) (at_ accWrite) ∧
    inv (.tlbinv · d a l) 8 [rd d, rdAddr a]
      (fun c t => decide (t.page = (c.read64 false a c.l0).toNat % 2 ^ 55 / 2 ^ leafBits t.level))
      (fun c x => decide (x.page = (c.read64 false a c.l0).toNat % 2 ^ 55 / 2 ^ leafBits (x.level - 1))) ∧
    inv (.tlbinva · d l) 9 [rd d] (fun _ _ => true) (fun _ _ => true) ∧
    (∀ c t, tlbSelected (sel c) t = true ↔ picked c t) ∧
    (∀ c x, ptrSelected (sel c) x = true ↔ x.partition = part c ∧ ((sel c).testBit 15 = true ∨ x.ctx = sel c % 4096))

/-! ## Events: what lands, and what ends a wait -/

/-- SFN_RESULT (R185), LOAD_WRITEBACK (R61, R278) and MATRIX_COMPLETE (R190). Results of one quad land in the registers of its lanes and in
no other lane, and are pending no more; a load lands so only once its window is closed, and until then nothing happens; the oldest operation of a
tile takes its effect on elements and shape, counts in V if it is one that counts, and the values that waited for it may land; with none
pending nothing happens. Nothing returns to a partition that has no slot. -/
def Obligations.WritebackEvents : Prop :=
  (∀ s key id quad, quad < 16 → ∃ t, exec (.sfnResult key id quad) s = .next t ∧ t = { s with waves := t.waves } ∧
    (∀ k, k ≠ key → t.wave k = s.wave k) ∧
    (∀ r l, l < 64 → l / 4 ≠ quad → vAt t key r l = vAt s key r l) ∧
    ∀ w p x, s.wave key = some w → w.parts = [p] → sfnOf p id = some x →
      (∀ l r v, (l, r, v) ∈ x.vals → l ∈ x.lanes → l / 4 = quad → (∀ v', (l, r, v') ∈ x.vals → v' = v) → vAt t key r l = v) ∧
      ∃ p', t.part key p.q = some p' ∧ ∀ y ∈ p'.pend, y.id = id → quad ∉ y.quads ∧ ∀ l ∈ y.lanes, l / 4 ≠ quad) ∧
  (∀ s key id quad w, s.wave key = some w → (kgetD {} s.partitions w.partition).swap = 3 →
    exec (.loadWriteback key id quad) s = .next s) ∧
  (∀ s key id quad, quad < 16 → ∃ t, exec (.loadWriteback key id quad) s = .next t ∧
    (∀ r l, l < 64 → l / 4 ≠ quad → vAt t key r l = vAt s key r l) ∧
    ∀ w p, s.wave key = some w → w.parts = [p] → (∀ y ∈ p.pend, y.sleepers = []) → (kgetD {} s.partitions w.partition).swap ≠ 3 →
      t = { s with waves := t.waves } ∧ (∀ k, k ≠ key → t.wave k = s.wave k) ∧
      ((∀ y ∈ p.pend, y.id = id → mayLand quad y = false) → t = s) ∧
      ∀ x, p.pend.find? (fun y => decide (y.id = id) && mayLand quad y) = some x →
        (∀ l r v, (l, r, v) ∈ x.vals → l / 4 = quad → (∀ v', (l, r, v') ∈ x.vals → v' = v) → vAt t key r l = v) ∧
        ∃ p', t.part key p.q = some p' ∧ ∀ y ∈ p'.pend, y.id = id → ∀ v ∈ y.vals, v.1 / 4 ≠ quad) ∧
  (∀ s key i w o os, s.wave key = some w → i < w.tiles.length → (w.tile i).ops = o :: os →
    ∃ t w', exec (.matrixComplete key i) s = .next t ∧ t = { s with waves := t.waves } ∧ t.wave key = some w' ∧
      (∀ k, k ≠ key → t.wave k = s.wave k) ∧ w' = { w with tiles := w'.tiles, parts := w'.parts } ∧
      w'.tile i = { w.tile i with
        shape := o.shape.getD (w.tile i).shape, elems := applyOp (w.tile i).elems o, v := ((w.tile i).v + b2n o.counts) % 16, ops := os } ∧
      (∀ j, j ≠ i → w'.tile j = w.tile j) ∧
      w'.parts = w.parts.map fun p => { p with pend := p.pend.map fun x => { x with after := x.after.filter (· ≠ o.id) } }) ∧
  (∀ s key i w, s.wave key = some w → (w.tile i).ops = [] → exec (.matrixComplete key i) s = .next s)

/-- SLEEP_EXPIRY (R214), SLEEPW_EXPIRY (R431), CSLEEP_TIMEOUT (R327), SWAITC_TIMEOUT (R334, R335), RCV_DEADLINE (R28), AGEMAX_REACHED (R59),
TRACE_SUMMARY_TIMER (R447) and PHASE_RESUME (R43): once the cycle or the time has come, and the wave is not stopped, the part is ready from
now on; a part at RCV whose buddy is not there proceeds alone; an age that has reached AGEMAX puts a ready part in class 4; a wave that has been
resident for another 2^16 cycles writes its SUMMARY; the head of a phase queue leaves it, and its waiting parts go on behind their BARP. Before
that nothing happens; in the very cycle in which the deadline of an RCV falls due, nothing happens while a buddy may still issue its own. A cycle is
one of the core's own clock (R9). -/
def Obligations.WaitEvents : Prop :=
  (∀ s key q w p, s.wave key = some w → partAt w.parts q = some p → w.stopped = false → w.key = key →
    let now := cycleOf s (coreOf key)
    let woken := s.modPart key q fun x => { x with wait := .ready, readyAt := now }
    (∀ u, p.wait = .sleep u → exec (.sleepExpiry key q) s = .next (if u ≤ now then woken else s)) ∧
    (∀ t, p.wait = .cond (.time t) → exec (.sleepwExpiry key q) s = .next (if t ≤ s.time then woken else s)) ∧
    (∀ n t, p.wait = .cond (.ring n (some t)) → exec (.csleepTimeout key q) s = .next (if t ≤ s.time then woken else s)) ∧
    (∀ a v m t, p.wait = .cond (.signal a v m (some t)) → exec (.swaitcTimeout key q) s = .next (if t ≤ s.time then woken else s)) ∧
    (∀ d c, p.wait = .fuse .rcv (some d) c →
      (now < d → exec (.rcvDeadline key q) s = .next s) ∧
      (now = d → portFree s (quarterOf key) = true → (∃ x ∈ w.parts, x.wait = .ready ∧ x.halted = false) →
        exec (.rcvDeadline key q) s = .next s) ∧
      (d < now ∨ d = now ∧ (portFree s (quarterOf key) = false ∨ ∀ x ∈ w.parts, x.wait = .ready → x.halted = true) →
        findFuse w.parts = none → ∃ t p', exec (.rcvDeadline key q) s = .next t ∧ t.part key q = some p' ∧
        p' = { p with wait := .ready, readyAt := now, pc := (fallPart p).pc, loops := (fallPart p).loops,
                      prefixPc := none, prefixHi := none, prefixK := none, prefixN := 0 })) ∧
    (p.wait = .ready → exec (.agemaxReached key q) s =
      .next (if agemaxOf s w ≤ now - p.readyAt then s.modPart key q fun x => { x with class4 := true } else s))) ∧
  (∀ s key w, s.wave key = some w → w.stopped = false →
    let n := (w.cycBase + (cycleOf s (coreOf w.key) - w.cycle0)) / 65536
    exec (.traceSummaryTimer key) s =
      .next (if w.sumMark < n then (traceSummary key s).modWave key fun w => { w with sumMark := n } else s)) ∧
  (∀ s core, (s.core core).phaseQueue = [] → exec (.phaseResume core) s = .next s) ∧
  (∀ s core id rest g b, (s.core core).phaseQueue = id :: rest → kget s.wgs id = some g → g.phaseAt = some b → g.waves.Nodup →
    ∃ t, exec (.phaseResume core) s = .next t ∧ (t.core core).phaseQueue = rest ∧ kget t.wgs id = some { g with phaseAt := none } ∧
      ∀ k ∈ g.waves, ∀ w q p ph, s.wave k = some w → partAt w.parts q = some p → p.wait = .barrier b ph true →
        ∃ p', t.part k q = some p' ∧ p'.wait = .ready ∧ p'.readyAt = cycleOf s core ∧ p'.pc = (fallPart p).pc ∧ p'.loops = (fallPart p).loops)

/-- ISSUE_ARBITRATION (R57, R58): a quarter whose port is held, or that has no ready part, stays as it is; else the port goes to a ready part
such that no other ready part of the quarter comes before it: by the higher arbitration class, then the greater age, then the lower slot, then
the lower first quad. The chosen part's age begins anew, and its run starts at its PC. -/
def Obligations.ArbitrationEvent : Prop :=
  (∀ s qr, (kget s.runs qr).isSome = true ∨ readyParts s qr = [] → exec (.issueArbitration qr) s = .next s) ∧
  (∀ s qr, kget s.runs qr = none → readyParts s qr ≠ [] → (s.waves.map (·.1)).Nodup → (∀ e ∈ s.waves, (e.2.parts.map (·.q)).Nodup) →
    ∃ t key w p, exec (.issueArbitration qr) s = .next t ∧ s.wave key = some w ∧ p ∈ w.parts ∧ quarterOf key = qr ∧
      canIssue s w p = true ∧
      (∀ k x y, s.wave k = some x → quarterOf k = qr → y ∈ x.parts → canIssue s x y = true →
        arbClass s x y < arbClass s w p ∨ arbClass s x y = arbClass s w p ∧
          (partAge s x y < partAge s w p ∨ partAge s x y = partAge s w p ∧
            (slotKey s w < slotKey s x ∨ slotKey s w = slotKey s x ∧ p.q ≤ y.q))) ∧
      t.focus = some qr ∧ kget t.runs qr = some { wave := key, q := p.q, pc := p.pc } ∧
      t.part key p.q = some { p with readyAt := cycleOf s (coreOf key), class4 := false })

/-- MISS_SPLIT (R25, R21, R22) and FUSEDEAD (R31, R32, R222): a part that stalls on the scoreboard or for fault records, and that may be split,
is split along its buddy blocks, of which those whose quads are all ready go on at the word and the others stay in the wait, each for its own
quads' records; FUSEDEAD makes each part of the wave take cause 5 at the word it waits at, with the mask of the waiting quads, once every part has
waited for 64 consecutive cycles for a fuse that cannot come, or at a barrier that waits for its own wave. -/
def Obligations.SplitAndDeadlockEvents : Prop :=
  (∀ s key w p out, s.wave key = some w → w.parts = [p] → missSplit s w p = some out →
    ∃ t, exec (.missSplit key p.q) s = .next t ∧
      ∀ b ∈ buddyBlocks out 5 p.q p.n, ∃ p', t.part key b.1 = some p' ∧ p'.n = b.2 ∧ p'.pc = p.pc ∧
        (out b.1 = true → p'.wait = .ready) ∧
        (out b.1 = false → ∀ ids lanes, p.wait = .board ids lanes → p'.wait = .board ids lanes) ∧
        (out b.1 = false → ∀ recs, p.wait = .cond (.records recs) →
          p'.wait = .cond (.records (recs.filter fun r => decide (b.1 ≤ r.2) && decide (r.2 < b.1 + b.2))))) ∧
  (∀ s key w p, s.wave key = some w → partAt w.parts p.q = some p → missSplit s w p = none → exec (.missSplit key p.q) s = .next s) ∧
  (∀ s w p out, missSplit s w p = some out → modeSplOf p.mode = 2 ∧ p.handler = false ∧ w.stopped = false ∧
    ((∃ ids lanes, p.wait = .board ids lanes ∧ uniPending p ids = false ∧ out = missOut w p ids lanes) ∨
      ∃ recs, p.wait = .cond (.records recs) ∧ out = stallOut s w p recs)) ∧
  (∀ s key w, s.wave key = some w → w.parts.any (widthLost w) = false → fusedeadDue s w = false →
    exec (.fusedead key) s = .next s) ∧
  (∀ s key w, s.wave key = some w → w.parts.any (widthLost w) = false → fusedeadDue s w = true → (w.parts.map (·.q)).Nodup →
    (∀ p ∈ w.parts, p.handler = false ∧ hasHandler p = true) →
    ∃ t, exec (.fusedead key) s = .next t ∧ ∀ p ∈ w.parts, ∃ p', t.part key p.q = some p' ∧
      p'.handler = true ∧ p'.entry = 5 ∧ p'.wait = .ready ∧ p'.pc = p.tvec.val ∧ p'.tcause.toNat % 256 = 5 ∧
      p'.tinfo = BitVec.ofNat 32 (((w.parts.filter inFuse).flatMap fun p => (List.range p.n).map (· + p.q)).map (2 ^ ·)).sum) ∧
  (∀ s w, fusedeadDue s w = true ↔ w.parts ≠ [] ∧ (∀ p ∈ w.parts, fuseWaiter p = true ∨ barrierSelf s w p = true) ∧
    findFuse w.parts = none ∧ w.stopped = false ∧ ∃ c, w.deadSince = some c ∧ c + 64 ≤ cycleOf s (coreOf w.key))

/-! ## Events: memory, engines and draws -/

/-- WRITE_PERFORMED (R249, R250), ASTP_ACK (R261), PAGE_WALK (R373, R383), FRACK_WRITE and FRHEAD_WRITE (R382). A store performed at SYSTEM scope
is on its way no more, its bytes are what every party finds there, and a party that saw every store to a byte reads there what it read before; a
peer's answer performs the oldest stores sent to it, and a lost answer gives the grid the status PEER_FAIL; a walk that ends at a leaf that allows
the access caches it with A set, and no other is cached; FRACK answers a record, and FRHEAD makes room in the ring. Where the spec leaves a choice, it is the model's: logs 12, 66, 68. -/
def Obligations.MemoryEvents : Prop :=
  (∀ s id sc, (s.stores.map (·.id)).Nodup → ∃ t, exec (.writePerformed id sc) s = .next t ∧
    (5 ≤ sc → ∀ x ∈ t.stores, x.id ≠ id) ∧
    (∀ vw m a, (∀ x ∈ s.stores, x.covers m a = true → x.visible vw = true ∧ x.scope < fullScope m) → ∀ tag, physRead t vw m tag a = physRead s vw m tag a) ∧
    (5 ≤ sc → ∀ xs x ys a, s.stores = xs ++ x :: ys → x.id = id → x.covers x.mem a = true → (∀ y ∈ ys, y.covers x.mem a = false) →
      ∀ vw, physRead t vw x.mem x.tag a = x.bytes.getD (a - x.addr) 0#8)) ∧
  (∀ s dev x, s.astps.find? (fun x => decide (x.dev = dev)) = some x →
    let gone := engineDone x.id { s with astps := s.astps.filter fun y => decide (y.id ≠ x.id) }
    let wrote := fun u => x.pieces.foldl (fun s y => if pieceLost y then s else physWrite s y.1 y.2.2.1 y.2.1 y.2.2.2) u
    (x.pieces.any pieceLost = false → exec (.astpAck dev true) s = .next (wrote gone)) ∧
    ∀ ok, (ok = false ∨ x.pieces.any pieceLost = true) → ∃ t, exec (.astpAck dev ok) s = .next t ∧ t.astps = gone.astps ∧
      (∀ g, kget s.grids x.grid = some g → kget t.grids x.grid = some { g with status := if g.status = 0x0100 then 0x0107 else g.status }) ∧
      ((∀ m a, (t.memOf m).read a = (s.memOf m).read a) ∨ ∀ m a, (t.memOf m).read a = ((wrote gone).memOf m).read a)) ∧
  (∀ s dev ok, (∀ x ∈ s.astps, x.dev ≠ dev) → exec (.astpAck dev ok) s = .next s) ∧
  (∀ s p ctx va die acc,
    let y : Party := { die := some die, p := p, ctx := ctx, ctrl := false }
    let a := va % 2 ^ 55
    (∀ pte at_ level, walk s p ctx a = .leaf pte at_ level → leafKind s y (accOf acc) pte level a = none →
      ∃ t e, exec (.pageWalk p ctx va die acc) s = .next t ∧ e ∈ t.tlb ∧ e.place = .die die ∧ e.partition = p ∧ e.ctx = ctx ∧ e.level = level ∧
        e.page = a / 2 ^ leafBits level ∧ e.glob = pte.testBit 4 ∧ e.pte.testBit 12 = true ∧ e.pteAddr = at_ ∧
        (pte.testBit 12 = true → e.pte = pte ∧ t = { s with tlb := t.tlb, ptrs := t.ptrs })) ∧
    ((∀ pte at_ level, walk s p ctx a = .leaf pte at_ level → leafKind s y (accOf acc) pte level a ≠ none) →
      exec (.pageWalk p ctx va die acc) s = .next s)) ∧
  (∀ s p n, ∃ t, exec (.frackWrite p n) s = .next t ∧ t = { s with faultRings := t.faultRings } ∧
    t.fring p = { s.fring p with recs := (s.fring p).recs.filter fun r => decide (r.num ≠ some n) } ∧
    ∀ k, k ≠ p → t.fring k = s.fring k) ∧
  (∀ s p v,
    let g := s.fring p
    let left := (g.tail + 2 ^ 32 - v % 2 ^ 32) % 2 ^ 32
    (g.size < left → exec (.frheadWrite p v) s = .next s) ∧
    (left ≤ g.size → (∀ r ∈ g.recs, r.num ≠ none) →
      exec (.frheadWrite p v) s = .next { s with faultRings := kput s.faultRings p { g with head := v % 2 ^ 32 } }) ∧
    (left < g.size → hostRingOk s g.base = true → ∀ r ∈ g.recs, r.num = none → ∃ t, exec (.frheadWrite p v) s = .next t ∧ ∃ x ∈ (t.fring p).recs, x.num = some g.tail))

/-- COPY_SECTOR_DELIVER (R288, R303), COPY_COMPLETE (R300), XPAIR_EMIT (R408, R414), XPAIR_COMPLETE (R412) and XRAY_COMPLETE (R416, R417). A
request that nothing holds delivers its next sector or row, and the write pointer of its workgroup rises by the bytes; one that has moved every byte
completes behind the earlier ones of its workgroup and channel, and posts its record, or, without a queue, an event if its status is not DONE;
a traversal walks to its next emission, and a cancelled one is gone; its end writes the status and the count; a ray's end writes the lane's four
registers. What is held stays as it is. Where the spec leaves a choice, it is the model's: logs 26, 39, 40, 94. -/
def Obligations.EngineEvents : Prop :=
  (∀ s id x, kget s.copies id = some x → copyMoves s id x = false → exec (.copySectorDeliver id) s = .next s) ∧
  (∀ s id x u y n, kget s.copies id = some x → copyMoves s id x = true → deliverNext x s = .ok u y n → y.ben = false →
    ∃ t, exec (.copySectorDeliver id) s = .next t ∧ kget t.copies id = some { y with done := y.done + n } ∧
      (∀ k, k ≠ id → kget t.copies k = kget u.copies k) ∧
      (∀ g, kget u.wgs y.owner.wg = some g →
        kget t.wgs y.owner.wg = some { g with wp := cellsPut 0 g.wp y.ch ((cellsGet 0 g.wp y.ch + n) % 2 ^ 64) }) ∧
      (∀ vw m tag a, physRead t vw m tag a = physRead u vw m tag a)) ∧
  (∀ s id x, kget s.copies id = some x → copyMoves s id x = true → x.gather = none → x.ben = false →
    let n := min (32 - (x.dst + x.done) % 32) (x.total - x.done)
    let wrote := fun (u : State) (ps : Places) (bs : List Byte) => ∃ t, exec (.copySectorDeliver id) s = .next t ∧
      kget t.copies id = some { x with done := x.done + n } ∧
      ∀ vw m tag a, physRead t vw m tag a = physRead (ps.foldl (writePieceAt x.owner.core (copyScope u x) bs) u) vw m tag a
    (x.fn = 3 → ∀ u ps, RangeGranted x.owner accWrite (x.dst + x.done) n s u ps →
      wrote u ps ((List.range n).map fun i => BitVec.ofNat 8 (x.src / 2 ^ (8 * ((x.done + i) % 8))))) ∧
    (x.fn = 0 → ∀ u ps v qs, RangeGranted x.owner accRead (x.src + x.done) n s u ps → placesPoisoned u ps = false →
      let bs := readPlaces u (.core x.owner.core) ps
      RangeGranted x.owner accWrite (x.dst + x.done) bs.length u v qs → wrote v qs bs)) ∧
  (∀ x s u y n, x.gather = none → deliverNext x s = .ok u y n → n = min (32 - (x.dst + x.done) % 32) (x.total - x.done)) ∧
  (∀ s id x u ls, kget s.copies id = some x → copyMoves s id x = true → deliverNext x s = .stall u ls →
    ∃ t y, exec (.copySectorDeliver id) s = .next t ∧ kget t.copies id = some y ∧ y = { x with waits := y.waits, fifo := false } ∧
      y.waits.length = ls.length) ∧
  (∀ s id x, kget s.copies id = some x → copyEnd s id x = none → exec (.copyComplete id) s = .next s) ∧
  (∀ s id x st, kget s.copies id = some x → copyEnd s id x = some st →
    let done := fun u : State => freeWg x.owner.wg (engineDone id { u with copies := kdel u.copies id })
    (x.queue = none → exec (.copyComplete id) s =
      .next (done (if st.1 = 0 then s else cqEvent (kgetD {} s.grids x.owner.grid) (copyRec x st) s))) ∧
    (∀ n, x.queue = some n → exec (.copyComplete id) s = .next (match postCq x.owner.grid n (copyRec x st) s with
      | some u => done u
      | none => s))) ∧
  (∀ s id x st, kget s.copies id = some x → copyEnd s id x = some st → x.status = none →
    (x.total = 0 → st = (0, 0)) ∧ (x.total ≠ 0 → x.done = x.total ∧ st = (if x.ovf then 2 else 0, 0))) ∧
  (∀ s id x, kget s.pairs id = some x → x.cancelled = true →
    ∃ t, exec (.xpairEmit id) s = .next t ∧ kget t.pairs id = none) ∧
  (∀ s id x, kget s.pairs id = some x → x.cancelled = false → x.saved = true ∨ travMoves s x.owner.partition x.waits = false →
    exec (.xpairEmit id) s = .next s) ∧
  (∀ s id x, kget s.pairs id = some x → x.cancelled = false → x.saved = false → x.yields = false → x.result = none →
    travMoves s x.owner.partition x.waits = true → x.started = false →
    (rqFits x s = false → exec (.xpairEmit id) s = .next { s with pairs := kput s.pairs id { x with started := true, result := some (6, 0) } }) ∧
    (rqFits x s = true → x.resume = false → exec (.xpairEmit id) s = .next { s with pairs := kput s.pairs id { x with
      started := true, stack := [{ x := x.roota, y := if x.sw then 0 else if x.self then x.roota else x.rootb, pnx := noNode, pny := noNode,
                                   sx := 0, sy := 0 }] } })) ∧
  (∀ s id x u y, kget s.pairs id = some x → x.cancelled = false → x.saved = false → x.yields = false → x.result = none →
    travMoves s x.owner.partition x.waits = true → stepPairs x s = .ok u y →
    exec (.xpairEmit id) s = .next { u with pairs := kput u.pairs id y }) ∧
  (∀ s id x, kget s.pairs id = some x → x.result = none → exec (.xpairComplete id) s = .next s) ∧
  (∀ s id x st k, kget s.pairs id = some x → x.result = some (st, k) →
    ∃ t, exec (.xpairComplete id) s = .next t ∧ kget t.pairs id = none ∧
      ∀ key q p y, s.part key q = some p → y ∈ p.pend → y.trav = some id →
        ∃ p' y', t.part key q = some p' ∧ y' ∈ p'.pend ∧ y'.id = y.id ∧ y'.trav = none ∧
          (∀ l r v, (l, r, v) ∈ y.vals → (l, r, BitVec.ofNat 32 (if r % 2 = 0 then st + 65536 * k else x.count)) ∈ y'.vals)) ∧
  (∀ s id x y, kget s.rays id = some x → x.lanes.find? (fun z => decide (z.lane = y.lane)) = some y →
    (travMoves s x.owner.partition y.waits = false → exec (.xrayComplete id y.lane) s = .next s) ∧
    (travMoves s x.owner.partition y.waits = true → y.stack = [] →
      exec (.xrayComplete id y.lane) s = .next (finishRay id y.lane (rayWords y (if y.leaf.isSome then 0 else 1) 0) x.key s)) ∧
    (travMoves s x.owner.partition y.waits = true → ∀ u z st k, rayWalk x 4096 y s = .done u z st k →
      exec (.xrayComplete id y.lane) s = .next (finishRay id y.lane (rayWords z st k) x.key u)) ∧
    (travMoves s x.owner.partition y.waits = true → ∀ u z, rayWalk x 4096 y s = .more u z →
      exec (.xrayComplete id y.lane) s = .next (putRay id y.lane (some z) u))) ∧
  (∀ z st k, rayWords z st k = if h : st = 0 ∧ z.leaf.isSome then
      [BitVec.ofNat 32 (z.leaf.getD 0), BitVec.ofNat 32 (fmtF32.round 0 (dataVal z.t)), BitVec.ofNat 32 z.prim, 0#32]
    else [0xFFFFFFFF#32, 0x7FC00000#32, 0xFFFFFFFF#32, BitVec.ofNat 32 (st + 65536 * k)])

/-- TESSELLATE (R359, R362), PRIMITIVE_RELEASE (R357, R358) and RASTER_LAUNCH (R363, R356). The tessellator cuts the oldest patch into lanes
of domain waves, in order, and full waves of 64 lanes are launched; primitives leave the queue in order, each with the next id, until one comes that
something still running may precede, and nothing happens to other draws; a batch of at most 64 primitives of a tile's bin is launched as one workgroup
of the raster grid, with the registers of R363, only once the tile is at rest and earlier draws are done with it. Where the spec leaves a choice, it is the model's: logs 36, 37, 38. -/
def Obligations.DrawEvents : Prop :=
  (∀ s did d gid g x xs, s.draw did = some d → d.dom = some gid → kget s.grids gid = some g → d.cancelled = false →
    d.patches = x :: xs → d.lanes.length < 64 →
    let all := d.lanes ++ patchLanes x
    let n := all.length / 64
    ∃ t d' g', exec (.tessellate did) s = .next t ∧ t.draw did = some d' ∧ kget t.grids gid = some g' ∧
      d' = { d with patches := xs, lanes := all.drop (64 * n), domKeys := d'.domKeys } ∧
      g' = { g with total := g.total + n, inits := g'.inits } ∧
      (∀ i, i < n → (kget d'.domKeys (g.total + i)) = some (((all.drop (64 * i)).take 64).map (·.1))) ∧
      (∀ k, k ≠ did → t.draw k = s.draw k)) ∧
  (∀ s did d, s.draw did = some d → (d.dom = none ∨ d.cancelled = true ∨ d.patches = [] ∧ partialDue s d = false) →
    exec (.tessellate did) s = .next s) ∧
  (∀ s did d, s.draw did = some d → ∃ t n d', exec (.primitiveRelease did) s = .next t ∧ t = { s with draws := t.draws } ∧
    t.draw did = some d' ∧ d' = { d with prims := d.prims.drop n, released := d.released + n, bins := d'.bins } ∧ n ≤ d.prims.length ∧
    releasable t d' = false ∧ (releasable s d = true → 0 < n) ∧ ∀ k, k ≠ did → t.draw k = s.draw k) ∧
  (∀ d x xs, d.prims = x :: xs → (releaseOne d).bins = if primDropped d (recWords x.bytes) then d.bins else
    (primTiles d (recWords x.bytes)).foldl
      (fun m t => kput m t (kgetD [] m t ++ [x.bytes.take 48 ++ bytesOfNat 4 d.released ++ x.bytes.drop 52])) d.bins) ∧
  (∀ s did d tile, s.draw did = some d → rasterDue s did d tile = false → exec (.rasterLaunch did tile) s = .next s) ∧
  (∀ s did d tile g, s.draw did = some d → rasterDue s did d tile = true → d.vendor = false → kget s.grids d.rast = some g →
    let bin := kgetD [] d.bins tile
    let n := min 64 bin.length
    ∃ t d' g' i, exec (.rasterLaunch did tile) s = .next t ∧ t.draw did = some d' ∧ kget t.grids d.rast = some g' ∧
      kgetD [] d'.bins tile = bin.drop 64 ∧ kget d'.active tile = some g.total ∧ g'.total = g.total + 1 ∧
      kget g'.inits g.total = some i ∧ i.lanes = n ∧
      i.w = [BitVec.ofNat 32 n, BitVec.ofNat 32 (tile % tilesAcross d), BitVec.ofNat 32 (tile / tilesAcross d), 0#32,
        BitVec.ofNat 32 d.rt, BitVec.ofNat 32 (d.rt / 2 ^ 32)] ∧
      ∀ l r, l < n → r < 16 → cellsGet 0#32 i.v (r * 64 + l) = (recWords (bin.getD l [])).getD r 0#32) ∧
  (∀ s did d tile, s.draw did = some d → rasterDue s did d tile = true → d.vendor = true →
    let bin := kgetD [] d.bins tile
    ∃ t d', exec (.rasterLaunch did tile) s = .next t ∧ t = { s with draws := t.draws } ∧ t.draw did = some d' ∧
      kgetD [] d'.bins tile = bin.drop 64 ∧ kget d'.jobs tile = some ((bin.take 64).flatMap (primJobs d tile)) ∧ d'.active = d.active)

/-! ## Events: the dispatcher and the Ademan complex -/

/-- WORKGROUP_PLACE (R50, R52, R98, R105, R229, R69, R70). With nothing that has room nothing happens. A new workgroup stands on the chosen core with
the grid's next linear index, each of its waves in its slot as one part at the grid's entry with every register zero, and its scratchpad allocation
zero; a launch whose backing-store area is not writable ends at once; a pre-empted workgroup goes on with its waves' registers and
its parts where they stood, none of them halted or yielded any more. Where the spec leaves a choice, it is the model's: logs 10, 11. -/
def Obligations.PlacementEvent : Prop :=
  (∀ s p, placement s p = none → exec (.workgroupPlace p) s = .next s) ∧
  (∀ s p cls q gid g c, placement s p = some (cls, q, .fresh gid, g, c) → g.placed = 0 → areaOkay s g = false →
    ∃ t, exec (.workgroupPlace p) s = .next t ∧ t.wgs = s.wgs ∧ t.waves = s.waves ∧
      kget t.grids gid = some { g with status := 0x0106, placed := g.total, ended := g.total }) ∧
  (∀ s p cls q gid g c, placement s p = some (cls, q, .fresh gid, g, c) → ¬ (g.placed = 0 ∧ areaOkay s g = false) →
    (c.room.slots.map (·.1)).Nodup → g.launch.wave ≤ 64 →
    ∃ t, exec (.workgroupPlace p) s = .next t ∧
      (∃ g', kget t.grids gid = some g' ∧ g' = { g with placed := g.placed + 1, session := g'.session }) ∧
      kget t.wgs s.nextId = some
        { grid := gid, lin := g.placed, x := (wgCoords g g.placed).1, y := (wgCoords g g.placed).2.1, z := (wgCoords g g.placed).2.2,
          core := c.core, waves := c.room.slots.map fun x => c.core * 64 + x.1, spadBase := c.room.spad, spadSize := g.launch.scratch } ∧
      (∀ i a, i < g.launch.scratch → a = c.core * 2 ^ 19 + c.room.spad + i → t.spad.read a = 0#8) ∧
      ∀ i slot grant base, c.room.slots[i]? = some (slot, grant) → c.room.bases[i]? = some base → kget g.inits g.placed = none →
        ∃ w, t.wave (c.core * 64 + slot) = some w ∧ w.wg = s.nextId ∧ w.grid = gid ∧ w.index = i ∧ w.width = g.launch.wave ∧
          w.v = [] ∧ w.x = [] ∧ w.nest = [] ∧ w.ended = [] ∧ w.tiles = List.replicate g.launch.tiles {} ∧ w.ctrl = false ∧
          ∃ x, w.parts = [x] ∧ x.q = 0 ∧ x.n = g.launch.wave / 4 ∧ x.pc = g.pc ∧ x.mode = 0 ∧ x.loops = [] ∧ x.recs = [] ∧ x.wait = .ready ∧
            x.handler = false ∧ x.tvec.val = BitVec.ofNat 32 g.launch.tvec ∧ ∀ r, (x.getW r).val = 0) ∧
  (∀ (s : State) (p cls q id gid : Nat) (g : Grid) (c : Choice) (k : Parked), placement s p = some (cls, q, .again id gid, g, c) → kget s.parked id = some k → (c.room.slots.map (·.1)).Nodup →
    ∃ t wg, exec (.workgroupPlace p) s = .next t ∧ kget t.parked id = none ∧ kget t.wgs id = some wg ∧ wg.core = c.core ∧ wg.g = k.wg.g ∧
      wg.lin = k.wg.lin ∧ wg.stage = k.wg.stage ∧
      ∀ (i : Nat) (w : Wave) (slot grant base : Nat), k.waves[i]? = some w → c.room.slots[i]? = some (slot, grant) → c.room.bases[i]? = some base →
        ∃ w', t.wave (c.core * 64 + slot) = some w' ∧ w'.v = w.v ∧ w'.x = w.x ∧ w'.nest = w.nest ∧ w'.tiles = w.tiles ∧ w'.ended = w.ended ∧
          w'.parts.map (fun x : Part => (x.q, x.n, x.pc, x.mode, x.w, x.loops, x.recs)) =
            w.parts.map (fun x : Part => (x.q, x.n, x.pc, x.mode, x.w, x.loops, x.recs)) ∧
          ∀ x ∈ w'.parts, x.wait ≠ .yielded ∧ x.halted = false ∧ x.preempt = false)

/-- GRID_COMPLETE (R41), BUDGET_EXCEEDED (R66), PREDL_EXPIRY and HARDWARE_SAVE (R70), WEIGHT_CLASS_UPDATE (R49), REPLAY_PASS (R453, R455),
SHADOW_EXCHANGE (R72) and WIPE_COMPLETE (R243), each under its condition, and nothing before it. A core's report weighs every core anew, each by its
own temperature and its island's stretches of the last 10 µs. Where the spec leaves a choice, it is the model's: logs 31, 49, 58. -/
def Obligations.DispatcherEvents : Prop :=
  (∀ s gid g, kget s.grids gid = some g → g.ended ≠ g.total ∨ g.more = true ∨ g.session.isSome = true ∨
      (g.flushed = true ∧ gridEnded s gid g = false) → exec (.gridComplete gid) s = .next s) ∧
  (∀ s gid g, kget s.grids gid = some g → g.more = false → g.session = none → gridEnded s gid g = true → g.parent = none →
    ∃ t, exec (.gridComplete gid) s = .next t ∧ t = finishGrid gid g s ∧ kget t.grids gid = none ∧
      (∀ x, x.core ∈ partitionCores s g.partition → x ∈ s.stores → ∀ y ∈ t.stores, y.id ≠ x.id)) ∧
  (∀ s gid g, gridEnded s gid g = true → g.ended = g.total ∧ (∀ e ∈ s.grids, e.2.parent ≠ some gid) ∧ (∀ a ∈ s.astps, a.grid ≠ gid)) ∧
  (∀ s id g, kget s.wgs id = some g → g.ended = false →
    let x := kgetD {} s.grids g.grid
    exec (.budgetExceeded id) s = .next (if x.cls = 0 ∧ x.launch.budget * chargeUnit < g.charge then
      g.waves.foldl (fun s k => terminateWave k 0x0103 0x21 none s) s else s)) ∧
  (∀ s id g, kget s.wgs id = some g → (∀ t, g.predl = some t → s.time < t) → exec (.predlExpiry id) s = .next s) ∧
  (∀ s id g d, kget s.wgs id = some g → g.predl = some d → d ≤ s.time → g.waves.Nodup →
    ∃ t, exec (.predlExpiry id) s = .next t ∧ kget t.wgs id = some { g with predl := none } ∧
      ∀ k ∈ g.waves, ∀ w, s.wave k = some w →
        (∀ r, kget t.runs (quarterOf k) = some r → r.wave ≠ k) ∧
        ((∀ r, kget s.runs (quarterOf k) = some r → r.wave ≠ k) →
          t.wave k = some { w with parts := w.parts.map fun p => if partParked p then p else { p with halted := true } }) ∧
        ∃ w', t.wave k = some w' ∧ w'.v = w.v ∧ w'.x = w.x ∧ w'.tiles = w.tiles ∧
          w'.parts.map (fun x : Part => (x.q, x.n, x.pc, x.mode, x.w, x.loops, x.recs, x.wait, x.halted)) =
            w.parts.map fun x : Part => (x.q, x.n, x.pc, x.mode, x.w, x.loops, x.recs, x.wait, if partParked x then x.halted else true)) ∧
  (∀ s id g, kget s.wgs id = some g →
    let ws := wgWaves s g
    let finished := ws ≠ [] ∧ ∀ w ∈ ws, (∀ p ∈ w.parts, partParked p = true) ∧ waveDrained w = true
    (¬ finished → exec (.hardwareSave id) s = .next s) ∧
    (finished → ∃ (t : State) (pk : Parked), exec (.hardwareSave id) s = .next t ∧ kget t.wgs id = none ∧ kget t.parked id = some pk ∧
      pk.wg = { g with predl := none } ∧ (∀ k ∈ g.waves, t.wave k = none) ∧
      pk.waves.map (fun w : Wave => (w.v, w.x, w.parts)) = ws.map (fun w : Wave => (w.v, w.x, w.parts.map performReads)))) ∧
  (∀ s core temp more, core < 256 →
    let c := fun n : Nat => (if n < 85 then 0 else if n < 95 then 1 else if n < 105 then 2 else 3 : Nat)
    let d := fun n : Nat => (if n ≤ 3 then 0 else if n ≤ 15 then 1 else if n ≤ 63 then 2 else 3 : Nat)
    let recent := s.dev.droops.filter fun e => decide (s.time < e.2 + 10000)
    let now := fun k => if core ≤ k ∧ k ≤ core + more ∧ k < 256 then temp else (s.core k).temp
    ∃ t, exec (.weightClassUpdate core temp more) s = .next t ∧
      t = { s with cores := t.cores, dev := { s.dev with hot := t.dev.hot, weighed := s.time, droops := recent } } ∧
      (t.dev.hot = true ↔ ∃ e ∈ t.cores, 105 ≤ e.2.temp) ∧
      ∀ k, ∃ rs, t.core k = { s.core k with
        temp := now k, rounds := rs,
        weight := if k < 256 then max (c (now k)) (d (recent.filter fun e => decide (e.1 = islandOf k)).length) else (s.core k).weight }) ∧
  (∀ s gid g, kget s.grids gid = some g → g.session = none ∨ g.ended ≠ g.total → exec (.replayPass gid) s = .next s) ∧
  (∀ s gid g x, kget s.grids gid = some g → g.session = some x → g.more = false → gridEnded s gid g = true →
    ∃ t g', exec (.replayPass gid) s = .next t ∧ kget t.grids gid = some g' ∧
      (g.status ≠ 0x0100 ∨ x.full = true ∨ x.groups ≤ x.pass → g'.session = none) ∧
      (g.status = 0x0100 ∧ x.full = false ∧ x.pass < x.groups →
        g'.placed = 0 ∧ g'.ended = 0 ∧ g'.flushed = false ∧ g'.session.map (·.pass) = some (x.pass + 1) ∧
        ∀ y, kget s.partitions g.partition = some y → (kgetD {} t.partitions g.partition).ptr = x.ptr)) ∧
  (∀ s p x, kget s.partitions p = some x →
    let after := fun t : State => (kgetD {} t.partitions p).swap
    (x.swap = 0 ∨ x.swap = 3 ∨ (x.swap = 1 ∧ holdsDeadline s p = true) ∨ (x.swap = 2 ∧ swapDrained s p = false) →
      exec (.shadowExchange p) s = .next s) ∧
    (x.swap = 1 → holdsDeadline s p = false → ∃ t, exec (.shadowExchange p) s = .next t ∧ after t = 2 ∧
      ∀ k w, s.wave k = some w → w.partition = p → ∀ r, kget t.runs (quarterOf k) = some r → r.wave ≠ k) ∧
    (x.swap = 2 → swapDrained s p = true → ∃ t, exec (.shadowExchange p) s = .next t ∧ after t = 3 ∧
      (∀ k ∈ t.l1Locks, k.place ∉ partitionCores s p) ∧
      ∀ x ∈ s.stores, x.core ∈ partitionCores s p → ∀ y ∈ t.stores, y.id ≠ x.id) ∧
    (x.swap = 4 → ∃ t, exec (.shadowExchange p) s = .next t ∧ after t = 0)) ∧
  (∀ s p, (kgetD {} s.partitions p).wiping = false → exec (.wipeComplete p) s = .next s) ∧
  (∀ s p x, kget s.partitions p = some x → x.wiping = true → (∀ e ∈ s.queues, ∀ k ∈ e.2.packets, k.busy = false) →
    ∃ t, exec (.wipeComplete p) s = .next t ∧
      (∀ a, x.hbmBase ≤ a → a < x.hbmBase + x.hbmSize → t.hbm.read a = 0#8) ∧
      (∀ a, a / 2 ^ 19 ∈ partitionCores s p → t.spad.read a = 0#8) ∧ (∀ e ∈ t.tlb, e.partition ≠ p) ∧ (∀ e ∈ t.ptrs, e.partition ≠ p) ∧
      (x.undef = false → kget t.partitions p = some { x with wiping := false }) ∧
      (x.undef = true → kget t.partitions p = none ∧ t.dev.mbox.busy = false ∧ ∀ e ∈ t.keys, e.2.bound ≠ some p))

/-! ## Events: host packets -/

/-- PACKET_FETCH (R308, R311, R314): when it is the queue's turn, QHEAD advances by one modulo 2^32, and a packet that passes the checks is held, not
started, with its bytes and its sequence number; one that fails them, or whose slot cannot be read, puts the queue into ERROR with the reason. When
it is not the queue's turn nothing happens.
LAUNCH, BUNDLE, DRAW, COPYSCHED, SIGNAL, WAITSIG, TIMESTAMP, EVENT and QBARRIER (R313, R315, R317, R318, R302, R354). A packet that may not start
yet stays; one that starts takes INV of its buffer list, and then its effect: a launch record that cannot be read stops it with FETCH, else its grids are
submitted, and the two packets of a spliced pair start one grid together; SIGNAL releases at SYSTEM scope and sets or adds; WAITSIG completes when its condition holds, and with WAITTO when its time is
over; TIMESTAMP writes the time; EVENT posts USER; QBARRIER completes when nothing fetched before it is left in the named queues. Where the spec leaves a choice, it is the model's: logs 29, 30, 32, 35. -/
def Obligations.HostPacketEvents : Prop :=
  (
    (∀ s q, nextQueue s (s.queue q).part ≠ some q → exec (.packetFetch q) s = .next s) ∧
    (∀ s q, nextQueue s (s.queue q).part = some q →
      let x := s.queue q
      let s1 := { s with fetched := cellsPut 0 s.fetched (x.part * 4 + x.cls) q,
                         queues := kput s.queues q { x with head := (x.head + 1) % 2 ^ 32, mate := none, mateCode := 0 } }
      ∃ t, exec (.packetFetch q) s = .next t ∧ (t.queue q).head = (x.head + 1) % 2 ^ 32 ∧
        (∀ n, x.mate = some n → (t.queue q).packets = x.packets ++ [{ n with order := s.nextId, time := s.time }]) ∧
        (x.mate = none → packetBytes s q x.head = none →
          (t.queue q).state = 3 ∧ (t.queue q).reason = 6 ∧ (t.queue q).packets = x.packets) ∧
        (∀ b u reason count, x.mate = none → packetBytes s q x.head = some b → checkPacket q b s1 = .bad u reason count →
          (t.queue q).state = 3 ∧ (t.queue q).reason = reason ∧ (t.queue q).packets = x.packets) ∧
        (∀ b u bl, x.mate = none → packetBytes s q x.head = some b → checkPacket q b s1 = .ok u bl → (∀ y ∈ x.packets, y.seq ≠ x.head) →
          ∃ p, (t.queue q).packets = x.packets ++ [p] ∧ p.seq = x.head ∧ p.order = u.nextId ∧ p.bytes = b ∧ p.bl = bl ∧ p.started = false ∧
            p.time = u.time ∧ p.grids = [] ∧ p.results = [] ∧ p.second = false)) ∧
    (∀ q b s, (numAt b 0 1 = 0 ∨ 0x0B < numAt b 0 1) → checkPacket q b s = .bad s 1 0) ∧
    (∀ q b s, numAt b 0 1 = 0x0B → reservedBroken b = false → (s.queue q).priv = false → checkPacket q b s = .bad s 3 0)) ∧
  (
    ∀ s q seq p, s.packet q seq = some p →
      let started := fun s : State => blBefore (packetParty s q) p.bl (s.modPacket q seq fun p => { p with started := true })
      let num := numAt p.bytes
      let addr := num 16 8
      let may := mayStart s q seq false
      let last := mayStart s q seq true
      let room := hostWaiting s (s.queue q).part < 1024
      let fails := failPacket q seq (addr % 2 ^ 32)
      let done := donePacket q seq 0x0100 0
      (may = true → p.started = false) ∧
      (last = true → may = true ∧ (s.queue q).packets.takeWhile (fun x => decide (x.seq ≠ seq)) = []) ∧
      (p.ty = 1 → (may = false ∨ ¬ room ∨ pairReady s q p = false → exec (.launchPacket q seq) s = .next s) ∧
        (may = true → room → pairReady s q p = true →
          (p.pair = none → recordAt q addr (started s) = none → exec (.launchPacket q seq) s = .next (fails (started s))) ∧
          (∀ u b, p.pair = none → recordAt q addr (started s) = some (u, b) →
            exec (.launchPacket q seq) s = .next (startRecord q p b p.splice u)) ∧
          ∀ g n, p.pair = some g → nextPacket (started s) q seq = some n →
            exec (.launchPacket q seq) s = .next (startSpliced q p n g (started s)))) ∧
      (p.ty = 2 → exec (.bundle q seq) s = .next (if may ∧ room then startBundle q p (started s) else s)) ∧
      (p.ty = 3 → exec (.draw q seq) s = .next (if may ∧ room then startDraw q p (started s) else s)) ∧
      (p.ty = 4 → exec (.copysched q seq) s = .next (if may then startSched q p (started s) else s)) ∧
      (p.ty = 5 → (last = false → exec (.signalPacket q seq) s = .next s) ∧
        (last = true → let u := performStores (started s) (fun x => decide (4 ≤ x.scope)) 5
          (packetRead q addr 8 u = none → exec (.signalPacket q seq) s = .next (fails u)) ∧
          ∀ u' old u'', packetRead q addr 8 u = some (u', old) →
            packetWrite q addr (bytesOfNat 8 (if num 32 1 = 1 then (natOfBytes old + num 24 8) % 2 ^ 64 else num 24 8)) u' = some u'' →
            exec (.signalPacket q seq) s = .next (done u''))) ∧
      (p.ty = 6 →
        let poll := fun s : State => match packetRead q addr 8 s with
          | none => fails s
          | some (u, b) => if (num 32 1 = 0 ∧ num 24 8 ≤ natOfBytes b) ∨ (num 32 1 = 1 ∧ natOfBytes b = num 24 8) ∨
              (num 32 1 ≠ 0 ∧ num 32 1 ≠ 1 ∧ natOfBytes b ≠ num 24 8) then done u else u
        exec (.waitsig q seq) s = .next (if may then
            poll ((started s).modPacket q seq fun p => { p with deadline := if num 36 4 = 0 then none else some ((started s).time + 1000 * num 36 4) })
          else s) ∧
        exec (.waitsigPoll q seq) s = .next (if p.started then poll s else s) ∧
        exec (.waitsigTimeout q seq) s = .next (if p.started ∧ ∃ t, p.deadline = some t ∧ t ≤ s.time then donePacket q seq 0x010C 0 s else s)) ∧
      (p.ty = 7 → exec (.timestamp q seq) s = .next (if last then
          match packetWrite q addr (bytesOfNat 8 (started s).time) (started s) with
          | none => fails (started s)
          | some u => done u
        else s)) ∧
      (p.ty = 8 → exec (.eventPacket q seq) s = .next (if last then
          done (postEvent ((started s).queue q).evq { status := 0x0200, queue := q, splice := p.splice, tag := num 4 4, count := num 16 4 } (started s))
        else s)) ∧
      (p.ty = 9 →
        let finished := ∀ i, i < num 16 1 → ∀ x ∈ (s.queue (num (18 + 2 * i) 2)).packets, p.order ≤ x.order
        (last = false → p.started = false → exec (.qbarrier q seq) s = .next s) ∧
        (last = true → (finished → exec (.qbarrier q seq) s = .next (done (started s))) ∧
          (¬ finished → exec (.qbarrier q seq) s = .next (started s))) ∧
        (p.started = true → (finished → exec (.qbarrier q seq) s = .next (done s)) ∧ (¬ finished → exec (.qbarrier q seq) s = .next s))))

/-- CONFIG and PARTCTL (R316, R60, R70, R234, R236, R69, R72, R242, R243). A value in range changes its one parameter of the queue's partition and the
packet completes with DONE; any other changes nothing and completes with CFGREF; a PARTCTL op has its effect on the named partition or key
slot, or completes with FAULT and the code for which it cannot, and a swap or a wipe completes when it is done. Before it may start nothing
happens. Where the spec leaves a choice, it is the model's: logs 34, 35, 53. -/
def Obligations.ConfigAndPartitionPackets : Prop :=
  ∀ s q seq p, s.packet q seq = some p →
    let u := blBefore (packetParty s q) p.bl (s.modPacket q seq fun p => { p with started := true })
    let num := numAt p.bytes
    let v := num 24 8
    let part := (u.queue q).part
    let may := mayStart s q seq true
    let done := donePacket q seq 0x0100 0
    let put := fun f : Partition → Partition => { u with partitions := kmod f u.partitions part }
    let config := fun (w : Instr) (item : Nat) (ok : Prop) (f : Partition → Partition) =>
      p.ty = 0x0A → num 16 1 = item → (may = false → exec w s = .next s) ∧
        (may = true → ok → exec w s = .next (done (put f))) ∧ (may = true → ¬ ok → exec w s = .next (donePacket q seq 0x010D 0 u))
    let target := num 17 1
    let op := fun (w : Instr) (n : Nat) (r : Except Nat State) (waits : State → Bool) =>
      p.ty = 0x0B → num 16 1 = n → (may = false → exec w s = .next s) ∧
        (may = true → exec w s = .next (match r with
          | .error code => donePacket q seq 0x0108 code u
          | .ok t => if waits t then t.modPacket q seq fun p => { p with busy := true } else done t))
    let moves := fun t : State => swapping t target
    let minw := v % 256
    let maxw := v / 256 % 256
    let cls := v / 65536
    let fits := fun (own : Partition → List (Nat × Nat)) (share : Partition → Bool) =>
      minSum ((u.partitions.filter fun e => share e.2).map fun e =>
        if e.1 = part then (own (kgetD {} u.partitions part)).set cls (minw, maxw) else own e.2) ≤ 12
    let limits := cls < 4 ∧ minw ≤ maxw ∧ maxw ≤ 16
    config (.configAgemax q seq) 0 (16 ≤ v ∧ v ≤ 1023) (fun x => { x with agemax := v }) ∧
    config (.configPredl q seq) 1 (1 ≤ v ∧ v ≤ 1000) (fun x => { x with predl := v }) ∧
    config (.configLkquota q seq) 2 (v ≤ 65535) (fun x => { x with lkquota := v }) ∧
    config (.configL2Ways q seq) 3
      (limits ∧ ∀ d, d < 2 → onDie (kgetD {} u.partitions part) d = true → fits (·.l2ways) fun x => onDie x d)
      (fun x => { x with l2ways := (kgetD {} u.partitions part).l2ways.set cls (minw, maxw) }) ∧
    config (.configLlcWays q seq) 4 (limits ∧ fits (·.llcways) fun _ => true)
      (fun x => { x with llcways := (kgetD {} u.partitions part).llcways.set cls (minw, maxw) }) ∧
    op (.partctlPreempt q seq) 0 (if (kget u.partitions target).isNone then .error 0x4C else .ok (preemptTag target (num 20 4) u)) (fun _ => false) ∧
    op (.partctlSwapout q seq) 1 (startSwap target false u) moves ∧
    op (.partctlSwapin q seq) 2 (startSwap target true u) moves ∧
    op (.partctlWipe q seq) 3 (startWipe target u) (fun _ => true) ∧
    op (.partctlKeybind q seq) 4 (keyBind (num 18 1) target u) (fun _ => false) ∧
    op (.partctlKeyzero q seq) 5 (.ok { u with keys := kdel u.keys (num 18 1) }) (fun _ => false)

/-! ## Events: registers, mailboxes and the platform -/

/-- What software writes and reads in BAR 0 (R307, R309, R310, R321, R323, R445, R456, R463, R501): QTAIL with OVERRUN, EN, the end of a drain, RST
and its end, the counts that a read clears, a hold limit that has come, MSI-X messages and their masks, SPANEN, CAP with the package limit, and the
fields that act by their value alone; in RECOVERY none of them answers but the management mailbox (R467). A write or an event whose condition does
not hold changes nothing. Where the spec leaves a choice, it is the model's: logs 7, 64, 96. -/
def Obligations.RegisterEvents : Prop :=
  (∀ s, s.dev.recovery = true →
    (∀ q v, exec (.qtailWrite q v) s = .next s ∧ exec (.queueEnable q) s = .next s ∧ exec (.queueDisable q) s = .next s ∧
      exec (.queueReset q) s = .next s ∧ exec (.eqlostRead q) s = .next s ∧ exec (.trlostRead q) s = .next s ∧ exec (.capWrite q v) s = .next s) ∧
    exec .spanEnable s = .next s ∧ exec .spanDisable s = .next s ∧
    ∀ off v, off < 0x500000 ∨ 0x502000 ≤ off → exec (.registerWrite off v) s = .next s) ∧
  (∀ s q v, s.dev.recovery = false →
    let x := s.queue q
    let n := (v % 2 ^ 32 + 2 ^ 32 - x.head) % 2 ^ 32
    let put := fun y => { s with queues := kput s.queues q y }
    (x.resetting = true → exec (.qtailWrite q v) s = .next s) ∧
    (x.resetting = false → n ≤ x.size → exec (.qtailWrite q v) s = .next (put { x with tail := v % 2 ^ 32 })) ∧
    (x.resetting = false → x.size < n → exec (.qtailWrite q v) s =
      .next (postEvent x.evq { status := 0x010B, queue := q, count := n } (put { x with tail := v % 2 ^ 32, state := 2 }))) ∧
    exec (.queueEnable q) s = .next (if s.dev.ready = true ∧ x.state ≤ 1 ∧ x.resetting = false ∧ (kget s.partitions x.part).isSome then
      put { x with en := true, state := 1 } else s) ∧
    exec (.queueDisable q) s = .next (if x.state = 1 ∧ x.resetting = false then put { x with en := false } else s) ∧
    exec (.queueStopped q) s = .next (if x.state = 1 ∧ x.en = false ∧ ∀ p ∈ x.packets, p.started = true then put { x with state := 0 } else s) ∧
    exec (.queueReset q) s = .next (put { x with resetting := true, shadow := x.shadow.or (some
      { head := x.head, tail := x.tail, en := x.en, state := x.state, reason := x.reason }) }) ∧
    exec (.queueResetComplete q) s = .next (if x.resetting = true ∧ x.packets = [] then
      put { x with head := 0, tail := 0, state := 0, en := false, reason := 0, resetting := false, shadow := none, mateCode := 0 } else s) ∧
    (∀ y, x.shadow = some y →
      queueWord x 0x0C = y.head ∧ queueWord x 0x10 = y.tail ∧ queueWord x 0x18 = y.state + 256 * y.reason)) ∧
  (∀ s e,
    let x := s.evq e
    let put := fun y => { s with evqs := kput s.evqs e y }
    (s.dev.recovery = false → exec (.eqlostRead e) s = .next (put { x with lost := 0 })) ∧
    (∀ t ts, x.held = t :: ts → exec (.eventHoldmax e) s = .next (if t + 1000 * x.holdmax ≤ s.time then put { x with due := true } else s)) ∧
    (x.held = [] → exec (.eventHoldmax e) s = .next s) ∧ (x.due = false → exec (.msixSend e) s = .next s)) ∧
  (∀ s e x, kget s.evqs e = some x → x.due = true →
    let sent := fun t : State => kget t.evqs e = some { x with due := false, held := [] } ∧ x.vec ∉ t.msixPending ∧
      cellsGet 0 t.msixSent x.vec = cellsGet 0 s.msixSent x.vec + 1 ∧
      ∀ k y, kget s.evqs k = some y → (y.vec ≠ x.vec ∨ y.due = false) → kget t.evqs k = some y
    (x.vec ∈ s.unmasked → s.funcMask = false → ∃ t, exec (.msixSend e) s = .next t ∧ sent t) ∧
    (x.vec ∉ s.unmasked ∨ s.funcMask = true →
      ∃ t, exec (.msixSend e) s = .next t ∧ t = { s with msixPending := t.msixPending } ∧ x.vec ∈ t.msixPending) ∧
    (x.vec ∈ s.msixPending → s.msixPending.Nodup → (∀ v ∈ s.msixPending, v ∉ s.unmasked) → s.funcMask = false →
      ∃ t, exec (.msixUnmask x.vec) s = .next t ∧ x.vec ∈ t.unmasked ∧ sent t)) ∧
  (∀ s v, ((∀ u ∈ s.msixPending, u ≠ v ∧ u ∉ s.unmasked) ∨ s.funcMask = true) →
    ∃ t, exec (.msixUnmask v) s = .next t ∧ t = { s with unmasked := t.unmasked } ∧ v ∈ t.unmasked) ∧
  (∀ s p, s.dev.recovery = false → exec (.trlostRead p) s = .next { s with traces := kput s.traces p { s.trace p with lost := 0 } }) ∧
  (∀ s, s.dev.recovery = false → exec .spanEnable s = .next { s with dev := { s.dev with spanen := true, spandn := 0, ports := [] } } ∧
    exec .spanDisable s = .next { s with dev := { s.dev with spanen := false, spandn := 0, ports := [] } }) ∧
  (∀ s p v, s.dev.recovery = false → ∃ t, exec (.capWrite p v) s = .next t ∧ t = { s with dev := { s.dev with caps := t.dev.caps } } ∧
    let limit := if s.dev.form = .boardE then 700 else 2400
    (capSum s s.dev.caps ≤ limit → capSum t t.dev.caps ≤ limit) ∧
    ∀ c h, s.dev.caps[p]? = some (c, h) →
      let hit := h && !(v.testBit 12)
      t.dev.caps[p]? = some (if capSum s (s.dev.caps.set p (v % 4096, hit)) ≤ limit then (v % 4096, hit) else (c, hit))) ∧
  (∀ s v, s.dev.recovery = false → exec (.registerWrite 4 v) s = .next { s with dev := { s.dev with
    hevq := v % 2048, devnum := if s.dev.spanen = true then s.dev.devnum else v / 2 ^ 11 % 256 } }) ∧
  (∀ s q v, q < 1024 → s.dev.recovery = false →
    let x := s.queue q
    let at_ := fun i => 0x100000 + 64 * q + i
    let put := fun y => { s with queues := kput s.queues q y }
    (x.state ≠ 0 ∨ x.resetting = true → ∀ i, i < 64 → exec (.registerWrite (at_ i) v) s = .next s) ∧
    (x.state = 0 → x.resetting = false →
      exec (.registerWrite (at_ 8) v) s = .next (if 16 ≤ v ∧ v ≤ 1048576 ∧ 2 ^ Nat.log2 v = v then put { x with size := v } else s) ∧
      exec (.registerWrite (at_ 0x14) v) s =
        .next (put { x with cls := v / 4 % 4, part := v / 16 % 8, cc := v / 128 % 4, evq := v / 512 % 2048 }))) ∧
  (∀ s e v, e < 2048 → s.dev.recovery = false →
    let x := s.evq e
    let put := fun y => { s with evqs := kput s.evqs e y }
    exec (.registerWrite (0x200000 + 32 * e + 0x0C) v) s =
      .next (if (x.tail + 2 ^ 32 - v % 2 ^ 32) % 2 ^ 32 ≤ x.size then put { x with head := v % 2 ^ 32 } else s) ∧
    exec (.registerWrite (0x200000 + 32 * e + 0x14) v) s = .next (put
      { x with en := v.testBit 0, ovf := x.ovf && !(v.testBit 1), vec := v / 4 % 2048, thresh := v / 2 ^ 13 % 256,
               holdmax := if v / 2 ^ 21 % 1024 = 0 ∨ 1000 < v / 2 ^ 21 % 1024 then x.holdmax else v / 2 ^ 21 % 1024 })) ∧
  (∀ s p v, p < 8 → s.dev.recovery = false →
    let g := s.trace p
    let put := fun y => { s with traces := kput s.traces p y }
    exec (.registerWrite (0x310000 + 64 * p + 0x14) v) s = .next (put { g with en := v.testBit 0, ovf := g.ovf && !(v.testBit 1) }) ∧
    exec (.registerWrite (0x310000 + 64 * p + 0x18) v) s = .next (put { g with speriod := v % 2 ^ 16 }) ∧
    exec (.registerWrite (0x310000 + 64 * p + 0x20) v) s = .next (put { g with trsel := v % 2 ^ 18 }))

/-- The commands of the management mailbox (R468, R469, R470, R473, R474, R475) on a device with power: one that arrives while another runs is lost;
in RECOVERY all but FWLOAD finish with STATE; a bad ARG finishes with BADARG; else the command has its effect and finishes with OK and
its output, or with its code and no effect. A lifecycle change wipes the device; UNLOCK opens the debug port after it; a refused token
changes nothing but the status. Where the spec leaves a choice, it is the model's: logs 42, 43, 44. -/
def Obligations.ManagementCommands : Prop :=
  let up := fun s : State => s.dev.off = false ∧ s.dev.ready = true ∧ s.dev.recovery = false
  let ends := fun (r : Nat) (s : State) =>
    { s with dev := { s.dev with mbox := { s.dev.mbox with busy := false, result := r, outlen := 0 } } }
  let num := fun (s : State) o n => mbNum s.dev.mbox o n
  let gate := fun (w : Nat → Instr) (fw : Bool) (ok : Nat → Bool) =>
    ∀ s arg, s.dev.off = false → (s.dev.ready = true ∨ s.dev.recovery = true) →
      (s.dev.mbox.busy = true → exec (w arg) s = .next { s with dev := { s.dev with mbox := { s.dev.mbox with lost := true } } }) ∧
      (s.dev.mbox.busy = false → s.dev.recovery = true → fw = false → exec (w arg) s = .next (ends 3 s)) ∧
      (s.dev.mbox.busy = false → (s.dev.recovery = false ∨ fw = true) → (256 ≤ arg ∨ ok arg = false) → exec (w arg) s = .next (ends 2 s))
  let wiped := fun (s t : State) => t.hbm = [] ∧ t.spad = [] ∧ t.waves = [] ∧ t.grids = [] ∧ t.keys = [] ∧ t.queues = [] ∧ t.partitions = [] ∧
    t.contexts = [] ∧ t.host = s.host ∧ t.peer = s.peer ∧ t.dev.ready = true
  let good := fun s : State => ∃ n d, s.dev.nonce = some (n, d) ∧ s.time < d ∧
    Config.verify 1 (beNat (sha512 (challengeBytes s n ++ mbBytes s.dev.mbox 0 4))) (beNat (mbBytes s.dev.mbox 4 132)) = true
  gate .fwload true noArg ∧ gate .attest false (fun a => decide (a / 8 % 16 = 0)) ∧ gate .challenge false noArg ∧ gate .unlock false noArg ∧
  gate .relock false noArg ∧ gate .setpriv false noArg ∧ gate .lifecycle false (fun a => decide (a ≤ 4)) ∧ gate .partdef false (fun a => decide (a < 8)) ∧
  gate .partundef false (fun a => decide (a < 8)) ∧ gate .ctxdef false (fun a => decide (a < 8)) ∧ gate .ctxundef false (fun a => decide (a < 8)) ∧
  ∀ s, up s → s.dev.mbox.busy = false →
    (let a := num s 0 8
     let n := num s 8 8
     let img := physReadN s .system .host 0 a n
     let digest := beNat (sha512 img)
     exec (.fwload 0) s = .next (if 2 ^ 26 < n then ends 2 s else if 2 ^ 64 < a + n then ends 6 s
       else if Config.verify 0 digest (natOfBytes img) then ends 0 { s with dev := { s.dev with image := some digest } } else ends 4 s)) ∧
    (∀ a, a < 256 → a / 8 % 16 = 0 →
      (s.dev.life = 4 ∨ s.dev.key = false ∨ (128 ≤ a ∧ kget s.partitions (a % 8) = none) → exec (.attest a) s = .next (ends 3 s)) ∧
      (s.dev.life ≠ 4 → s.dev.key = true → (a < 128 ∨ (kget s.partitions (a % 8)).isSome = true) →
        ∃ t, exec (.attest a) s = .next t ∧ t.dev.mbox.result = 0 ∧ t.dev.mbox.outlen = 488 ∧
          mbBytes t.dev.mbox 0 64 = mbBytes s.dev.mbox 0 64 ∧ num t 80 1 = s.dev.life % 256 ∧
          mbBytes t.dev.mbox 96 64 = measBytes s 0 ∧
          mbBytes t.dev.mbox 224 64 = measBytes s (if a < 128 then 2 else 4 + a % 8))) ∧
    (∃ t, exec (.challenge 0) s = .next t ∧ t.dev.mbox.result = 0 ∧ t.dev.mbox.outlen = 52 ∧
      t.dev.nonce = some (s.fresh, s.time + 60000000000) ∧ mbBytes t.dev.mbox 0 52 = challengeBytes s s.fresh) ∧
    (let scope := num s 0 4
     (scope / 8 % 2 ^ 28 ≠ 0 → exec (.unlock 0) s = .next (ends 2 s)) ∧
     (scope / 8 % 2 ^ 28 = 0 → (s.dev.life ≠ 2 ∨ scope.testBit 31 = true ∨ ¬ good s) → exec (.unlock 0) s = .next (ends 1 s)) ∧
     (scope / 8 % 2 ^ 28 = 0 → s.dev.life = 2 → scope.testBit 31 = false → good s →
       ∃ t, exec (.unlock 0) s = .next t ∧ t.hbm = [] ∧ t.spad = [] ∧ t.waves = [] ∧ t.grids = [] ∧ t.keys = [] ∧ t.dev.life = 3 ∧
         t.dev.dbgOpen = true ∧ t.dev.dbgScope = scope ∧ t.dev.nonce = none ∧
         cellsGet 0 t.dev.meas 2 = beNat (sha512 (beBytes 64 0 ++ beBytes 64 (beNat (sha512 (mbBytes s.dev.mbox 0 136))))))) ∧
    (exec (.relock 0) s = .next (ends 3 s) ∨ (s.dev.life = 3 ∧ s.dev.trips ≠ 0)) ∧
    (s.dev.life = 3 → s.dev.trips ≠ 0 → ∃ t, exec (.relock 0) s = .next t ∧ wiped s t ∧ t.dev.life = 2 ∧ t.dev.trips = s.dev.trips - 1 ∧
      t.dev.dbgOpen = false) ∧
    (exec (.setpriv 0) s = .next (if num s 0 2 < 1024 ∧ num s 2 1 ≤ 1 then
      ends 0 { s with queues := kput s.queues (num s 0 2) { s.queue (num s 0 2) with priv := decide (num s 2 1 = 1) } } else ends 2 s)) ∧
    (s.dev.life = 1 → ∃ t, exec (.lifecycle 2) s = .next t ∧ wiped s t ∧ t.dev.life = 2) ∧
    (s.dev.life ≠ 0 → s.dev.life ≠ 4 → num s 0 4 / 8 % 2 ^ 28 = 0 → (num s 0 4).testBit 31 = true → good s →
      ∃ t, exec (.lifecycle 4) s = .next t ∧ wiped s t ∧ t.dev.life = 4 ∧ t.dev.key = false) ∧
    (∀ a, a ≤ 4 → (a ≠ 2 ∨ s.dev.life ≠ 1) → (a ≠ 4 ∨ s.dev.life = 0 ∨ s.dev.life = 4) → exec (.lifecycle a) s = .next (ends 3 s)) ∧
    (∀ p, p < 8 → exec (.partdef p) s = .next (match partInput s.dev.mbox with
      | none => ends 2 s
      | some x => if (kget s.partitions p).isSome then ends 3 s else if partInUse s x then ends 5 s
        else ends 0 { s with partitions := kput s.partitions p { x with clock := if s.dev.form = .boardE then 900 else 1000 } })) ∧
    (∀ p, p < 8 → exec (.partundef p) s = .next (if kget s.partitions p = none then ends 3 s
      else if hasWorkgroups s p = true ∨ ∃ e ∈ s.queues, e.2.part = p ∧ e.2.en = true then ends 5 s
      else { s with partitions := kmod (fun x => { x with wiping := true, undef := true }) s.partitions p,
                    dev := { s.dev with mbox := { s.dev.mbox with busy := true } } })) ∧
    (∀ p, p < 8 →
      let id := num s 0 2
      (kget s.partitions p = none ∨ (id < 4096 ∧ (kget s.contexts (p * 4096 + id)).isSome = true) → exec (.ctxdef p) s = .next (ends 3 s)) ∧
      ((kget s.partitions p).isSome = true → id < 4096 → kget s.contexts (p * 4096 + id) = none → mbZero s.dev.mbox 2 8 = true →
        mbZero s.dev.mbox 16 4096 = true → rootOk s p (num s 8 8) = true →
        exec (.ctxdef p) s = .next (ends 0 { s with contexts := kput s.contexts (p * 4096 + id) { root := num s 8 8 } })) ∧
      (id < 4096 → (kget s.partitions p).isSome = true → (kget s.contexts (p * 4096 + id)).isSome = true →
        (ctxInUse s p id = true → exec (.ctxundef p) s = .next (ends 5 s)) ∧
        (ctxInUse s p id = false → ∃ t, exec (.ctxundef p) s = .next t ∧ kget t.contexts (p * 4096 + id) = none ∧ t.dev.mbox.result = 0 ∧
          (∀ e ∈ t.tlb, ¬ (e.partition = p ∧ e.ctx = id)) ∧ ∀ e ∈ t.ptrs, ¬ (e.partition = p ∧ e.ctx = id))))

/-- The commands of the debug port (R448, R450, R451, R113): DENIED while the port is closed or outside the token's scope, BADARG for a name that
matches nothing, STATE for a wave that runs; else STOP stops the wave and frees its port, RESUME lets it go on with its cycle counts standing where
they stood, STEP marks one ready part, RDREG and REPORT read without a change, WRREG and DROP change the registers and the writebacks of the
lanes named, BPEN a context's stops, and MEMRD and MEMWR move bytes through the context's translation. Where the spec leaves a choice, it is the model's: logs 42, 45. -/
def Obligations.DebugCommands : Prop :=
  let ends := fun (r : Nat) (s : State) =>
    { s with dev := { s.dev with dbox := { s.dev.dbox with busy := false, result := r, outlen := 0 } } }
  let gives := fun (out : List Byte) (s : State) =>
    { s with dev := { s.dev with dbox := { s.dev.dbox with busy := false, result := 0, outlen := out.length, data := s.dev.dbox.data.writeN 0 out } } }
  let gate := fun (w : Nat → Instr) (bit : Nat) => ∀ s arg,
    (s.dev.ready = false → exec (w arg) s = .next s) ∧
    (s.dev.ready = true → s.dev.dbox.busy = true →
      exec (w arg) s = .next { s with dev := { s.dev with dbox := { s.dev.dbox with lost := true } } }) ∧
    (s.dev.ready = true → s.dev.dbox.busy = false → (s.dev.dbgOpen = false ∨ s.dev.dbgScope.testBit bit = false) →
      exec (w arg) s = .next (ends 1 s))
  let up := fun (bit : Nat) (s : State) => s.dev.ready = true ∧ s.dev.dbox.busy = false ∧ s.dev.dbgOpen = true ∧ s.dev.dbgScope.testBit bit = true
  let num := fun (s : State) o n => mbNum s.dev.dbox o n
  let key := fun s : State => num s 0 2 * 64 + num s 2 1
  gate .stop 0 ∧ gate .resume 0 ∧ gate .step 0 ∧ gate .rdreg 0 ∧ gate .wrreg 0 ∧ gate .drop 0 ∧ gate .bpen 0 ∧ gate .report 0 ∧ gate .memrd 2 ∧
  gate .memwr 2 ∧
  (∀ s, up 0 s → s.wave (key s) = none → ∀ w ∈ [Instr.stop 0, .resume 0, .step 0, .rdreg 0, .wrreg 0, .drop 0, .report 0],
    exec w s = .next (ends 2 s)) ∧
  (∀ s w, up 0 s → s.wave (key s) = some w → w.stopped = false → ∀ i ∈ [Instr.step 0, .rdreg 0, .wrreg 0, .drop 0], exec i s = .next (ends 3 s)) ∧
  (∀ s w, up 0 s → s.wave (key s) = some w → w.stopped = true → partAt w.parts (num s 3 1) = none →
    ∀ i ∈ [Instr.step 0, .rdreg 0, .wrreg 0, .drop 0], exec i s = .next (ends 2 s)) ∧
  (∀ s w, up 0 s → s.wave (key s) = some w → w.key = key s →
    (w.stopped = false → midPrefix w = false → ∃ t w', exec (.stop 0) s = .next t ∧ t.wave (key s) = some w' ∧ w'.stopped = true ∧
      w'.cycBase = w.cycBase + (cycleOf s (coreOf (key s)) - w.cycle0) ∧ w'.cycle0 = cycleOf s (coreOf (key s)) ∧ w'.stopTime = s.time ∧
      w'.v = w.v ∧ w'.parts.map (fun x : Part => (x.q, x.n, x.pc, x.mode, x.w, x.loops, x.recs, x.wait)) =
        w.parts.map (fun x : Part => (x.q, x.n, x.pc, x.mode, x.w, x.loops, x.recs, x.wait)) ∧
      ((∀ r, kget s.runs (quarterOf (key s)) = some r → r.wave ≠ key s) → w'.parts = w.parts) ∧
      (∀ r, kget t.runs (quarterOf (key s)) = some r → r.wave ≠ key s) ∧ t.dev.dbox.result = 0) ∧
    (w.stopped = true → exec (.stop 0) s = .next (ends 0 s)) ∧
    (w.stopped = true →
      let now := cycleOf s (coreOf (key s))
      let w' := { w with stopped := false, stepping := none, stopReq := none, cycle0 := now,
                         deadSince := w.deadSince.map (· + now - w.cycle0), parts := w.parts.map (thawPart w.cycle0 now) }
      exec (.resume 0) s = .next (ends 0 (s.modWave (key s) fun _ => w'))) ∧
    (w.stopped = false → exec (.resume 0) s = .next (ends 0 s)) ∧
    (exec (.report 0) s = .next (gives (w.parts.flatMap
      (stopRecord (if w.stopped then { s with time := w.stopTime } else s) w (if w.stopped then w.stopCause else 0))) s)) ∧
    ∀ p, w.stopped = true → partAt w.parts (num s 3 1) = some p →
      (p.wait = .ready → p.preempt = false → partHolding w p.q = some p → ∃ t w', exec (.step 0) s = .next t ∧ t.wave (key s) = some w' ∧
        w' = { w with stepping := some p.q, stopReq := some 2 } ∧ t.dev.dbox.result = 0) ∧
      (∀ r, num s 4 1 = 0 → num s 5 1 = r → r < w.regs → r < 0x60 →
        let named := fun l => l < w.width ∧ (num s 8 8).testBit l = true
        (∃ out, exec (.rdreg 0) s = .next (gives out s) ∧ out.length = 8 + 4 * w.width ∧
          ∀ l, l < w.width → numAt out (8 + 4 * l) 4 = if (num s 8 8).testBit l then (w.getV r l).toNat else 0) ∧
        (w.width ≤ 64 → ∃ t w', exec (.wrreg 0) s = .next t ∧ t.wave (key s) = some w' ∧ t.dev.dbox.result = 0 ∧
          w' = { w with v := w'.v, poison := w'.poison, flaws := w'.flaws } ∧
          ∀ k l, l < 64 → (k = r ∧ named l → w'.getV k l = BitVec.ofNat 32 (num s (16 + 4 * l) 4)) ∧
            (¬ (k = r ∧ named l) → w'.getV k l = w.getV k l)) ∧
        ∃ t w', exec (.drop 0) s = .next t ∧ t.wave (key s) = some w' ∧ w'.v = w.v ∧ t.dev.dbox.result = 0 ∧
          ∀ x ∈ w'.parts, ∀ y ∈ x.pend, ∀ v ∈ y.vals, ¬ (named v.1 ∧ v.2.1 = r))) ∧
  (∀ s arg p id, up 0 s → arg ≤ 1 → num s 0 2 = id → num s 2 1 = p →
    (4096 ≤ id ∨ kget s.contexts (p * 4096 + id) = none → exec (.bpen arg) s = .next (ends 2 s)) ∧
    (∀ x, id < 4096 → kget s.contexts (p * 4096 + id) = some x → ∃ t, exec (.bpen arg) s = .next t ∧
      kget t.contexts (p * 4096 + id) = some { x with bkpt := decide (arg = 1) } ∧ t.dev.dbox.result = 0)) ∧
  (∀ s p id n a, up 2 s → num s 0 2 = id → num s 2 1 = p → num s 8 8 = a → num s 16 4 = n →
    (n = 0 ∨ 4032 < n ∨ 4096 ≤ id ∨ kget s.contexts (p * 4096 + id) = none →
      exec (.memrd 0) s = .next (ends 2 s) ∧ exec (.memwr 0) s = .next (ends 2 s)) ∧
    (1 ≤ n → n ≤ 4032 → id < 4096 → (kget s.contexts (p * 4096 + id)).isSome = true →
      exec (.memrd 0) s = .next (match ctlRead p id a n s with
        | none => ends 6 s
        | some r => gives r.2 r.1) ∧
      exec (.memwr 0) s = .next (match ctlWrite p id a (mbBytes s.dev.dbox 64 n) s with
        | none => ends 6 s
        | some t => ends 0 t)))

/-- Health, power, reset and others' accesses (R49, R108, R457 to R461, R465 to R467, R471 to R473, R475): a core that trips leaves placement and
comes back below 105 °C; a retired core's place goes to a spare of its die, or LOST rises and the device asks to be replaced; a failing
pseudo-channel takes its stack's spare; clocks step down above a cap and up again below 95 % of it; a Span port goes down and comes up; writes of peers and of the
host are performed at the DEVICE point; the scrubber marks an uncorrectable word poisoned; a full reset leaves every memory of the device
zero and no grid, and keeps the key slots (R244). An event whose condition does not hold changes nothing. Where the spec leaves a choice, it is the model's: logs 43, 46, 55, 95. -/
def Obligations.PlatformEvents : Prop :=
  (∀ s core temp, core < 256 →
    (temp < 115 → exec (.coreThermalTrip core temp) s = .next s) ∧
    (115 ≤ temp → ∃ t, exec (.coreThermalTrip core temp) s = .next t ∧ (t.core core).tripped = true ∧ t.dev.hot = true ∧
      t = { s with cores := t.cores, dev := { s.dev with hot := true } }) ∧
    (105 ≤ temp → exec (.coreThermalRecover core temp) s = .next s) ∧
    (temp < 105 → ∃ t, exec (.coreThermalRecover core temp) s = .next t ∧ (t.core core).tripped = false ∧
      t = { s with cores := t.cores, dev := { s.dev with hot := t.dev.hot } })) ∧
  (∀ s core cause,
    let c := s.core core
    let d := s.dev
    let spare := if core < 128 then d.spare0 else d.spare1
    (256 ≤ core ∨ c.retired = true → exec (.coreRetire core cause) s = .next s) ∧
    (core < 256 → c.retired = false → cause ≠ 0 → c.reserved.isSome = true → ∃ t, exec (.coreRetire core cause) s = .next t ∧
      t = { s with cores := t.cores } ∧ t.core core = { c with retiring := some cause }) ∧
    (core < 256 → c.retired = false → (cause = 0 ∨ c.reserved = none) → (∀ g ∈ s.wgs, g.2.core ≠ core) →
      ∃ t, exec (.coreRetire core cause) s = .next t ∧ t.dev.burns = d.burns + 1 ∧
        (∀ b ∈ t.icache, b.core ≠ core) ∧ (∀ k ∈ t.l1Locks, k.place ≠ core) ∧ (∀ e ∈ t.tlb, e.place ≠ .core core) ∧
        (spare ≠ 0 → (t.core core).spare = true ∧ (t.core core).retired = false ∧ t.dev.lost = d.lost ∧
          (if core < 128 then t.dev.spare0 else t.dev.spare1) = spare - 1) ∧
        (spare = 0 → (t.core core).retired = true ∧ t.dev.lost = d.lost + 1 ∧ t.dev.svcreq = true))) ∧
  (∀ s stack ch,
    (16 ≤ stack → exec (.pseudoChannelFail stack ch) s = .next s) ∧
    (stack < 16 → stack ∉ s.dev.spentStacks → exec (.pseudoChannelFail stack ch) s = .next { s with dev :=
      { s.dev with spentStacks := s.dev.spentStacks ++ [stack], hbmx := s.dev.hbmx + 1, copying := s.dev.copying ++ [(stack, ch)] } }) ∧
    (stack < 16 → stack ∈ s.dev.spentStacks → exec (.pseudoChannelFail stack ch) s = .next (postEvent s.dev.hevq
      { status := 0x0201, fsum := 2,
        count := s.dev.spare0 + 16 * s.dev.spare1 + 256 * s.dev.lost + 2 ^ 16 * s.dev.spandn + 2 ^ 21 * (s.dev.hbmx % 16) }
      { s with dev := { s.dev with svcreq := true } })) ∧
    ∃ t, exec (.pseudoChannelCopyDone stack ch) s = .next t ∧ t = { s with dev := { s.dev with copying := t.dev.copying } } ∧
      (∀ x, x ∈ t.dev.copying ↔ x ∈ s.dev.copying ∧ x ≠ (stack, ch))) ∧
  (∀ s die temp, exec (.packageThermalTrip die temp) s =
    .next (if 125 ≤ temp then { s with dev := { s.dev with off := true, ready := false } } else s)) ∧
  (∀ s i mv, ∃ t u, exec (.droopStretch i mv) s = .next t ∧ exec (.droopStretchEnd i) s = .next u ∧
    t = { s with dev := { s.dev with
      stretched := t.dev.stretched, droops := if i < 64 ∧ mv ≤ 427 then s.dev.droops ++ [(i, s.time)] else s.dev.droops } } ∧
    u = { s with dev := { s.dev with stretched := u.dev.stretched } } ∧
    (∀ k, k ∈ t.dev.stretched ↔ k ∈ s.dev.stretched ∨ (k = i ∧ i < 64 ∧ mv ≤ 427)) ∧ (∀ k, k ∈ u.dev.stretched ↔ k ∈ s.dev.stretched ∧ k ≠ i)) ∧
  (∀ s p watts x, kget s.partitions p = some x →
    let capw := (s.dev.caps.getD p (0, false)).1
    let nominal := if s.dev.form = .boardE then 900 else 1000
    let clock := min x.clock nominal
    let put := fun f : Partition → Partition => { s with partitions := kmod f s.partitions p }
    (capw ≠ 0 → powerCap s p = some capw) ∧ (capw = 0 → s.dev.form ≠ .boardE → powerCap s p = none) ∧
    (capw = 0 → s.dev.form = .boardE → powerCap s p = some ((700 - capSum s s.dev.caps) /
      max 1 (s.partitions.filter fun e => decide ((s.dev.caps.getD e.1 (0, false)).1 = 0)).length)) ∧
    (∀ cap, powerCap s p = some cap → cap < watts → 850 < clock →
      exec (.powerWindow p watts) s = .next (put fun x => { x with clock := max 850 (clock - 25) })) ∧
    (∀ cap, powerCap s p = some cap → cap < watts → clock ≤ 850 → ∃ t, exec (.powerWindow p watts) s = .next t ∧
      kget t.partitions p = some { x with throttled := true } ∧ (p < s.dev.caps.length → t.dev.caps[p]? = some (capw, true))) ∧
    ((∀ cap, powerCap s p = some cap → watts ≤ cap ∧ 100 * watts < 95 * cap) → exec (.powerWindow p watts) s =
      .next (put fun x => { x with clock := min nominal (clock + 25), throttled := false })) ∧
    (∀ cap, powerCap s p = some cap → watts ≤ cap → 95 * cap ≤ 100 * watts → exec (.powerWindow p watts) s = .next s)) ∧
  (∀ s k, exec (.flitRetry k) s = .next s) ∧
  (∀ s k, (32 ≤ k ∨ s.dev.spanen = false ∨ (kget s.dev.ports k).isSome = true → exec (.spanPortDown k) s = .next s ∧
      exec (.spanPortTrained k false) s = .next s) ∧
    (k < 32 → s.dev.spanen = true → kget s.dev.ports k = none → (s.astps.map (·.id)).Nodup →
      let down := fun t : State => t.dev.spandn = s.dev.spandn + 1 ∧ kget t.dev.ports k = some (s.time, false)
      (∃ t, exec (.spanPortTrained k false) s = .next t ∧ down t) ∧
      ∃ t, exec (.spanPortDown k) s = .next t ∧ down t ∧ (∀ x ∈ t.astps, astpPort s x.dev ≠ some k) ∧
        ∀ x ∈ s.astps, astpPort s x.dev = some k → ∀ g, kget s.grids x.grid = some g → g.status = 0x0100 →
          ∃ g', kget t.grids x.grid = some g' ∧ g'.status = 0x0107) ∧
    (kget s.dev.ports k = none → exec (.spanPortTrained k true) s = .next s) ∧
    ((kget s.dev.ports k).isSome = true → exec (.spanPortTrained k true) s =
      .next { s with dev := { s.dev with ports := kdel s.dev.ports k, spandn := s.dev.spandn - 1 } }) ∧
    (∀ t r, kget s.dev.ports k = some (t, r) →
      (s.dev.spanen = false ∨ r = true ∨ s.time < t + 60000000000 → exec (.spanDownSvcreq k) s = .next s) ∧
      (s.dev.spanen = true → r = false → t + 60000000000 ≤ s.time →
        ∃ u, exec (.spanDownSvcreq k) s = .next u ∧ u.dev.svcreq = true ∧ kget u.dev.ports k = some (t, true)))) ∧
  (∀ s kind addr data size,
    let ok := s.dev.ready = true ∧ s.dev.spanen = true ∧ 1 ≤ kind ∧ kind ≤ 3 ∧ addr + size ≤ Config.hbmSize
    (¬ ok → exec (.peerRequest kind addr data size) s = .next s) ∧
    (ok → ∃ t, exec (.peerRequest kind addr data size) s = .next t ∧ t.waves = s.waves ∧
      ∀ i, i < size → ∀ vw, (∀ x ∈ s.stores, x.covers .hbm (addr + i) = true → x.visible vw = false) →
        physRead t vw .hbm 0 (addr + i) = BitVec.ofNat 8 (data / 256 ^ i))) ∧
  (∀ s addr byte, exec (.cxlmemRead addr) s = .next s ∧
    ((hiddenFromHost s addr = true ∨ Config.hbmSize ≤ addr) → exec (.cxlmemWrite addr byte) s = .next s) ∧
    (hiddenFromHost s addr = false → addr < Config.hbmSize → ∃ t, exec (.cxlmemWrite addr byte) s = .next t ∧ t.waves = s.waves ∧
      ∀ vw, (∀ x ∈ s.stores, x.covers .hbm addr = true → x.visible vw = false) → physRead t vw .hbm 0 addr = BitVec.ofNat 8 byte)) ∧
  (∀ s addr, (s.stores.map (·.id)).Nodup → ∃ t, exec (.hostSnoop addr) s = .next t ∧
    (∀ x ∈ t.stores, x.overlaps .host (addr / 64 * 64) 64 = false) ∧
    ∀ vw m a, (∀ x ∈ s.stores, x.covers m a = true → x.visible vw = true ∧ x.scope < fullScope m) →
      ∀ tag, physRead t vw m tag a = physRead s vw m tag a) ∧
  (∀ s n d, s.dev.nonce = some (n, d) → exec .nonceExpiry s = .next (if d ≤ s.time then { s with dev := { s.dev with nonce := none } } else s)) ∧
  (∀ s kind, (s.dev.off = false ∨ kind = 0 ∨ kind = 3) → ∃ t, exec (.fullReset kind) s = .next t ∧ t.hbm = [] ∧ t.spad = [] ∧ t.stores = [] ∧
    t.waves = [] ∧ t.wgs = [] ∧ t.grids = [] ∧ t.keys = s.keys ∧ t.queues = [] ∧ t.partitions = [] ∧ t.host = s.host ∧ t.dev.life = s.dev.life ∧
    t.dev.off = false ∧ t.dev.dbgOpen = false ∧
    (s.dev.life ≠ 0 → kind ≠ 3 → t.dev.ready = true ∧ t.dev.recovery = false ∧
      cellsGet 0 t.dev.meas 0 = beNat (sha512 (beBytes 64 0 ++ beBytes 64 (s.dev.image.getD Config.shippedImage.toNat)))) ∧
    (s.dev.life ≠ 0 → kind = 3 → t.dev.ready = false ∧ t.dev.recovery = true) ∧ (s.dev.life = 0 → t.dev.ready = false)) ∧
  (∀ s kind, s.dev.off = true → kind ≠ 0 → kind ≠ 3 → exec (.fullReset kind) s = .next s) ∧
  (∀ s, (s.dev.life ≠ 0 → exec .provisioning s = .next s) ∧
    (s.dev.life = 0 → ∃ t, exec .provisioning s = .next t ∧ t.dev.life = 1 ∧ t.dev.key = true ∧ t.hbm = [] ∧ t.dev.ready = true)) ∧
  (∀ s key r l found w, s.wave key = some w →
    let k := r * 64 + l
    (found ≠ 2 ∨ w.vbound ≤ r ∨ w.width ≤ l ∨ k ∈ w.poison →
      (k ∉ w.flaws → (found ≠ 1 ∨ w.vbound ≤ r ∨ w.width ≤ l) → exec (.scrubPass key r l found) s = .next s) ∧
      (k ∈ w.flaws ∨ (found = 1 ∧ r < w.vbound ∧ l < w.width) →
        ∃ t, exec (.scrubPass key r l found) s = .next t ∧
          t = { s.modWave key (fun w => { w with flaws := w.flaws.filter (· ≠ k) }) with cores := t.cores } ∧
          (coreOf key < 256 →
            let c := s.core (coreOf key)
            let times := (c.scrubs.filter fun x => decide (s.time < x + 1000000000)) ++ [s.time]
            t.core (coreOf key) = { c with scrubs := times, retiring := if 4096 < times.length then c.retiring.or (some 1) else c.retiring }))) ∧
    (found = 2 → r < w.vbound → l < w.width → k ∉ w.poison →
      exec (.scrubPass key r l found) s =
        .next (s.modWave key fun w => { w with poison := w.poison ++ [k], flaws := w.flaws.filter (· ≠ k) })))

/-! ## Checks, traps, decoding, the step and reset -/

/-- PRIVILEGE AND THE EMPTY PART (R89, R90, R91, R222): a privileged word outside control mode takes PRIV at the first word of its prefix group,
with its F and its MAJ in TINFO, before anything else is checked; and with no active lane a word that has no description for it is checked for
nothing, traps for nothing, and only advances the PC, in the datapath cycles that the word takes whatever lanes are active (R138, R159, R177).
Where the spec leaves a choice, it is the model's: log 15. -/
def Obligations.PrivilegeAndIdleWords : Prop :=
  (∀ (d a : BitVec 7) (l k : BitVec 4) (p n : BitVec 3) (b : BitVec 1) (i : BitVec 12) (e : BitVec 2) (q r : BitVec 10),
    let prv := fun (w : Bool → Instr) (maj f : Nat) =>
      ∀ z s c, issueCtx z s = some c → guardHits c = [] → guardPoison c = false → c.act ≠ [] → c.w.ctrl = false →
        exec (w z) s = .next (endWord c (passes c.p.n) (some 2)
          (takeTrap c.key c.q c.pc0 { cause := 2, info := BitVec.ofNat 32 (f + 256 * maj) } s))
    prv (.pmcwr · d n) 0x30 2 ∧ prv (.tlbinv · d a l) 0x38 8 ∧ prv (.tlbinva · d l) 0x38 9 ∧
    prv (.qfetch · d q) 0x39 0 ∧ prv (.qdisp · d b p) 0x39 1 ∧ prv (.swaitc · d i e) 0x39 2 ∧
    prv (.keyopGen · d p k) 0x39 3 ∧ prv (.keyopBind · d p k) 0x39 3 ∧ prv (.keyopUnbind · d p k) 0x39 3 ∧
    prv (.keyopZero · d p k) 0x39 3 ∧ prv (.keyopZeroall · d p k) 0x39 3 ∧ prv (.keyopSign · d p k) 0x39 3 ∧
    prv (.fuserd · d r) 0x39 4 ∧ prv (.wipe · p) 0x39 5 ∧ prv (.shadow · b p) 0x39 6 ∧ prv (.measx · d k) 0x39 7) ∧
  (∀ (d a b : BitVec 7) (x : BitVec 1) (k : BitVec 2) (c n m : BitVec 3) (l t : BitVec 4),
    let four := fun c : Ctx => if c.et = 4 ∨ c.et = 5 then 4 else 1
    let f64 := fun c : Ctx => if c.et = 6 then 4 else 1
    let cvt := fun c : Ctx => if etWide c.et ∨ etWide c.et2 then 4 else 1
    (∀ w ∈ ([(.nop ·), (.iadd · d a b), (.isub · d a b), (.imin · d a b), (.imax · d a b), (.ineg · d a), (.iabs · d a),
        (.and · d a b), (.or · d a b), (.xor · d a b), (.andn · d a b), (.shl · d a b), (.shr · d a b), (.sar · d a b),
        (.rot · d a b), (.clz · d a), (.ctz · d a), (.popc · d a), (.brev · d a), (.bil3 · d a b), (.bdil3 · d a b), (.bil2 · d a b),
        (.bdil2 · d a), (.bfx · d a b), (.bfxs · d a b), (.bfi · d a b), (.mov · d a), (.sel · d a b), (.perm · d a b),
        (.idot4 · d a b), (.isad · d a b), (.icmpEq · d a b), (.icmpTstz · d a b), (.add64 · d a b), (.lea8 · d a b), (.wide · d a b),
        (.rcp · d a t), (.atan · d a t)] ++
       [(.ld · d a b l), (.st · d a b l), (.ldv · d a b l), (.ldx · d a x k t l), (.stx · d a k t l), (.atomAdd · d a c l), (.atomCas · d a c l),
        (.fput · d a c l), (.fputT · d a c l), (.ftake · d a c l), (.ftakeN · d a c l), (.fpeek · d a c l), (.fclr · a c l), (.pref · a l),
        (.clock1 · d a l), (.cunlk2 · a l), (.cwb · a l), (.cinv · a l), (.togenL · d a), (.fromgenC · d a), (.isspc · d a), (.astp · d a t l),
        (.copy · d a c x l), (.cfill · d a c x l), (.agath · d a t m l), (.gread · d 0#5), (.gadd · d 0#5), (.dinit · d a l), (.time · d),
        (.launch · d a l), (.enqr · d a l), (.evpost · d a l), (.cpoll · d a l), (.signal · d a l), (.qfetch · d 0#10), (.wipe · n),
        (.xpair · d a 0#1 x x x l), (.xray · d a x x l), (.texSample · d a t l), (.pxtk · d a), (.vemit · d a), (.atr · d a l),
        (.tlbinva · d l), (.endW ·), (.trap · 0#14), (.bkpt · 0#14)] : List (Bool → Instr)), IdlesIf (fun _ _ => True) w (fun _ s => s)) ∧
    ∀ w ∈ ([((.imul · d a b), four), ((.imulh · d a b), four), ((.imad · d a b), four), ((.imadh · d a b), four), ((.fadd · d a b), f64),
        ((.fmul · d a b), f64), ((.ffma · d a b), f64), ((.fcmpLt · d a b), f64), ((.cvt · d a), cvt), ((.cvtz · d a), cvt), ((.cvts · d a), cvt),
        ((.nrw · d a b x k), fun _ => 4), ((.wide4 · d a b), fun _ => 2), ((.shfl · d a b 1#1), fun _ => 2), ((.ballot · d a 1#1), fun _ => 2),
        ((.vote · d a 1#1), fun _ => 2)] : List ((Bool → Instr) × (Ctx → Nat))), IdlesFor (fun _ _ => True) w.1 w.2 (fun _ s => s))

/-- TAKING AN EXCEPTION (R217 to R222). A part with a handler enters it: its windows close, TRAPPC, TCAUSE, TINFO, TSPC, TPART, and TADDR where
the cause names an address, are written, HANDLER is set, the PC is TVEC, and everything else of the part, of its wave and of every other part and
wave is as before, but for held writebacks that land. In a handler it is a double trap: the wave ends and its grid's status is DOUBLE; without a
handler the wave ends with status FAULT; the fault summary holds the cause. Where the spec leaves a choice, it is the model's: logs 50, 58. -/
def Obligations.TrapEntry : Prop :=
  ∀ s key w p pc t, s.wave key = some w → partAt w.parts p.q = some p →
    let u := takeTrap key p.q pc t s
    let o := originOf s w pc
    let next : Word := if t.following then 4#32 else 0#32
    let dies := fun status : Nat => u.wave key = none ∧
      ∀ g, kget s.grids w.grid = some g → ∃ g', kget u.grids w.grid = some g' ∧
        (g.status = 0x0100 → g'.status = status ∧ g'.fsum = t.cause) ∧ (g.status ≠ 0x0100 → g'.status = g.status ∧ g'.fsum = g.fsum)
    (p.handler = true → dies 0x0105) ∧
    (p.handler = false → p.tvec.val &&& 3#32 ≠ 0#32 → dies 0x0108) ∧
    (p.handler = false → p.tvec.val &&& 3#32 = 0#32 → ∃ w' p', u.wave key = some w' ∧ u.part key p.q = some p' ∧
      p'.trappc = BitVec.ofNat 32 o.1 + next ∧
      (p'.tcause.extractLsb' 0 8 = BitVec.ofNat 8 t.cause ∧ (t.cause < 256 → p'.tcause.getLsbD 8 = o.2.1 ∧ p'.tcause.getLsbD 9 = o.2.2.1 ∧
        p'.tcause.toNat < 1024)) ∧
      p'.tinfo = t.info ∧ (∀ a, t.addr = some a → p'.taddr = a) ∧ (t.addr = none → p'.taddr = p.taddr) ∧
      p'.tspc = (if o.2.1 then pc + next else 0#32) ∧ p'.tpart = tpartWord p.q p.n ∧
      p'.handler = true ∧ p'.entry = t.cause ∧ p'.pc = p.tvec.val ∧ p'.wait = .ready ∧
      p' = { p with trappc := p'.trappc, tcause := p'.tcause, tinfo := p'.tinfo, taddr := p'.taddr, tspc := p'.tspc, tpart := p'.tpart,
                    handler := true, entry := p'.entry, pc := p'.pc, wait := .ready, readyAt := cycleOf s (coreOf w.key), prefixPc := none,
                    prefixHi := none, prefixK := none, prefixN := 0, timeout := none, w := p'.w, pend := p'.pend } ∧
      (∀ x ∈ p'.pend, x.window = 0) ∧ ((∀ x ∈ p.pend, x.window = 0) → p'.w = p.w ∧ w'.v = w.v ∧ p'.pend = p.pend) ∧
      w' = { w with v := w'.v, poison := w'.poison, flaws := w'.flaws, parts := w'.parts, sumWords := w'.sumWords, sumWait := w'.sumWait } ∧
      (∀ q, q ≠ p.q → u.part key q = s.part key q) ∧ (∀ k, k ≠ key → u.wave k = s.wave k) ∧
      u.wgs = s.wgs ∧ u.grids = s.grids ∧ u.runs = s.runs)

/-- EVENT RECORDS (R322): a record of an enabled queue with room is written at EQBASE + 32 × (EQTAIL mod EQSIZE), performed at SYSTEM scope,
and EQTAIL advances; with EN 0, a full ring or one that cannot be reached (R501) it is dropped: EQLOST counts it, saturating (R321), OVF is set, and the next interrupt is due. -/
def Obligations.EventRecords : Prop :=
  ∀ e r s,
    let x := s.evq e
    let t := postEvent e r s
    let place := ringPlace (x.base + 32 * (x.tail % x.size))
    let full := (x.tail + 2 ^ 32 - x.head) % 2 ^ 32 = x.size
    (x.en = true → ¬ full → ringOk s (x.base + 32 * (x.tail % x.size)) 32 = true →
      (∀ i, i < 32 → ∀ vw, (∀ y ∈ s.stores, y.covers place.1 (place.2 + i) = true → y.visible vw = false) →
        physRead t vw place.1 0 (place.2 + i) = (eventBytes s.time r).getD i 0#8) ∧
      (t.evq e).tail = (x.tail + 1) % 2 ^ 32 ∧ (t.evq e).lost = x.lost ∧ (t.evq e).ovf = x.ovf) ∧
    (x.en = false ∨ full ∨ ringOk s (x.base + 32 * (x.tail % x.size)) 32 = false →
      t.evq e = { x with lost := min (x.lost + 1) (2 ^ 32 - 1), ovf := true, due := true } ∧ t = { s with evqs := t.evqs }) ∧
    (∀ k, k ≠ e → t.evq k = s.evq k)

/-- DECODING (R73, R75, R89, R92): words that the spec writes out, read bit by bit, are the instructions that it says; reserved majors and
functions and nonzero unused fields are refused by their reason. -/
def Obligations.DecodedWords : Prop :=
  decode 0x00000000#32 = .ok (.nop false) ∧ decode 0x80000000#32 = .ok (.nop true) ∧
  decode 0x04080014#32 = .ok (.bil3 false 2#7 0#7 1#7) ∧ decode 0x04142000#32 = .ok (.clz false 5#7 4#7) ∧
  decode 0x0A1810A5#32 = .ok (.lea8 false 6#7 2#7 10#7) ∧ decode 0x0E0C0820#32 = .ok (.ffma false 3#7 1#7 2#7) ∧
  decode 0x30181400#32 = .ok (.atomAdd false 6#7 2#7 4#3 0#4) ∧ decode 0x30201190#32 = .ok (.atomCas false 8#7 2#7 1#3 0#4) ∧
  decode 0x52000000#32 = .ok (.endW false) ∧ decode 0x520002A1#32 = .ok (.trap false 0x2A#14) ∧
  decode 0x52000003#32 = .ok (.eret false) ∧ decode 0x53880004#32 = .ok (.yield false 0x62#7) ∧
  decode 0x52000015#32 = .ok (.role false 1#2) ∧ decode 0x520000A6#32 = .ok (.sleep false 10#14) ∧
  (∀ w, 0x3A ≤ (w.extractLsb' 25 6 : BitVec 6).toNat → (w.extractLsb' 25 6 : BitVec 6).toNat ≤ 0x3D → decode w = .error .major) ∧
  (∀ w, w.extractLsb' 25 6 = 0#6 → w.extractLsb' 0 25 ≠ 0#25 → decode w = .error .major) ∧
  (∀ w, w.extractLsb' 25 6 = 2#6 → 14 ≤ (w.extractLsb' 0 4 : BitVec 4).toNat → decode w = .error .func)

/-- DECODE AND ENCODE AGREE (R73, R75, R92), for every instruction word with every operand at every value: decoding what the encoder gives is the
instruction again, and the word that decodes to an instruction is the one that the encoder gives for it, so that no bit of a word is dropped. -/
def Obligations.DecodeEncode : Prop :=
  (∀ i w, encode i = some w → decode w = .ok i) ∧ ∀ w i, decode w = .ok i → encode i = some w

/-- A STEP RUNS THE DECODED INSTRUCTION. An event that is told happens, and an act from outside; the part that is told to issue, once its port is
free and it holds it, runs the word that the fetch at its PC gives: `exec` of what the word decodes to, or the trap of a word that is no
instruction (R89), or what a fetch that fails comes to (R379, R381); behind a prefix the rest of its group follows as one unit (R84), and behind
an ERET a PREEMPT that has arrived (R221). With nothing told, what is due happens, else a free port chooses, else the next quarter issues, else a
cycle passes. Around each, the homes of backed registers follow. Which quarter comes next is the model's own order (logs 1, 80). -/
def Obligations.StepRunsTheWord : Prop :=
  ∀ s : State,
    let runs := fun (qr : Nat) (v : State) (o : Out) =>
      ∀ c, issueCtx false (issuing qr v) = some c →
        let u := issuing qr v
        (∀ t x i, fetchPart u c.w c.p c.p.pc = .word t x → decode (BitVec.ofNat 32 x) = .ok i →
          o = behindWord c (issueGroup 3) (exec i t)) ∧
        (∀ t x e, fetchPart u c.w c.p c.p.pc = .word t x → decode (BitVec.ofNat 32 x) = .error e →
          o = behindWord c (issueGroup 3) (rejectWord (BitVec.ofNat 32 x) e t)) ∧
        (∀ kind level va, fetchPart u c.w c.p c.p.pc = .bad kind level va → o = finish c u (.trap u (fetchTrap kind level va))) ∧
        (∀ level va, fetchPart u c.w c.p c.p.pc = .replay level va → o = finish c u (.stall (fetchStall c level va)))
    let lone := fun (c : Ctx) (t : State) => (∀ p, t.part c.key c.q = some p → p.prefixN ≤ c.p.prefixN) ∧
      (c.p.handler = true → ∀ p, t.part c.key c.q = some p → p.handler = true ∨ p.preempt = false)
    (∀ c more t, lone c t → behindWord c more (.next t) = .next t) ∧
    (∀ c more t, groupGoesOn c t = true → behindWord c more (.next t) = more t) ∧
    (∀ i rest, s.agenda = .event i :: rest → step s = keepHomes s (exec i { s with agenda := rest })) ∧
    (∀ e rest, s.agenda = .env e :: rest → step s = keepHomes s (.next (act e { s with agenda := rest }))) ∧
    (∀ key q rest, s.agenda = .word key q :: rest →
      let a := { s with agenda := rest }
      let v := arbitrate (quarterOf key) (probeParts (preemptAt key q a))
      (s.dev.off = true → step s = keepHomes s (.next a)) ∧
      (s.dev.off = false → (portFree a (quarterOf key) = false ∨ inOrder a key q = false) → step s = keepHomes s (.next (tick 1 s))) ∧
      (s.dev.off = false → portFree a (quarterOf key) = true → inOrder a key q = true →
        (∀ r, kget v.runs (quarterOf key) = some r → r.wave = key → r.q = q → runReady v (quarterOf key) = true →
          ∃ o, step s = keepHomes s o ∧ runs (quarterOf key) v o) ∧
        ((∀ r, kget v.runs (quarterOf key) = some r → ¬ (r.wave = key ∧ r.q = q)) ∨ runReady v (quarterOf key) = false →
          step s = keepHomes s (.next v)))) ∧
    (s.agenda = [] →
      let v := probeParts (preemptReady (settle s))
      (∀ i, dueEvent v = some i → step s = keepHomes s (exec i v)) ∧
      (dueEvent v = none → v.dev.off = true → step s = keepHomes s (.next (tick 1 v))) ∧
      (dueEvent v = none → v.dev.off = false →
        (∀ qr, arbQuarter v = some qr → step s = keepHomes s (exec (.issueArbitration qr) v)) ∧
        (∀ qr, arbQuarter v = none → nextIssue v = some qr → ∃ o, step s = keepHomes s o ∧ runs qr v o) ∧
        (arbQuarter v = none → nextIssue v = none → step s = keepHomes s (.next (tick 1 v)))))

/-- AFTER RESET (R243, R306, R316, R321, R382, R443, R445, R456, R468, R469): the registers hold the values that their tables give, every byte of HBM
and of the scratchpads is zero, no partition is configured, nothing is resident, and the device is not ready. The memories are in their canonical
form. (LIFE, STEP and the spare counts come from fuses: log 4; the host's and the peers' bytes: log 8.) -/
def Obligations.ResetState : Prop :=
  let s := State.reset
  MemWf s ∧ (∀ a, s.hbm.read a = 0#8) ∧ (∀ a, s.spad.read a = 0#8) ∧
  s.partitions = [] ∧ s.contexts = [] ∧ s.waves = [] ∧ s.wgs = [] ∧ s.grids = [] ∧ s.copies = [] ∧ s.stores = [] ∧ s.tlb = [] ∧ s.ptrs = [] ∧
  s.dev.ready = false ∧ s.dev.recovery = false ∧ s.dev.svcreq = false ∧ s.dev.hot = false ∧ s.dev.hevq = 0 ∧ s.dev.devnum = 0 ∧
  s.dev.spanen = false ∧ s.dev.spandn = 0 ∧ (∀ p, p < 8 → s.dev.caps.getD p (1, true) = (0, false)) ∧
  (∀ m ∈ [s.dev.mbox, s.dev.dbox], m.busy = false ∧ m.lost = false ∧ m.result = 0 ∧ m.outlen = 0 ∧ ∀ a, m.data.read a = 0#8) ∧
  (∀ q, let x := s.queue q
    x.base = 0 ∧ x.size = 16 ∧ x.head = 0 ∧ x.tail = 0 ∧ x.en = false ∧ x.cls = 2 ∧ x.part = 0 ∧ x.cc = 0 ∧ x.evq = 0 ∧ x.priv = false ∧
    x.state = 0 ∧ x.reason = 0) ∧
  (∀ e, let x := s.evq e
    x.base = 0 ∧ x.size = 16 ∧ x.head = 0 ∧ x.tail = 0 ∧ x.lost = 0 ∧ x.en = false ∧ x.ovf = false ∧ x.vec = 0 ∧ x.thresh = 1 ∧ x.holdmax = 16) ∧
  (∀ p, let x := s.fring p
    x.base = 0 ∧ x.size = 16 ∧ x.head = 0 ∧ x.tail = 0 ∧ x.en = false ∧ x.evq = 0) ∧
  (∀ p, let x := s.trace p
    x.base = 0 ∧ x.size = 16 ∧ x.head = 0 ∧ x.tail = 0 ∧ x.en = false ∧ x.ovf = false ∧ x.speriod = 0 ∧ x.trwg = 0 ∧ x.trsel = 0 ∧ x.lost = 0) ∧
  (∀ c, (s.core c).pmcsel = [0, 0, 0, 0])

/-- EVERY STEP KEEPS THE MEMORIES IN THEIR CANONICAL FORM: addresses rise strictly and no listed byte is zero, so that equal memories are equal
data. It holds at reset (`ResetState`). -/
def Obligations.StepKeepsMemory : Prop := ∀ s t, MemWf s → step s = .next t → MemWf t
end

