-- ==== Sys2Proof/Laws/Access.lean ====
section
/-! SUPPORT. The checks of a memory word (R264) answer exactly when every access is granted. -/

namespace Sys2Proof.Laws

open Sys2Proof.Machine Sys2Proof.Safety

/-- No piece of a lane has failed. -/
def LaneClean (x : LaneAcc) : Prop := x.bad = none ∧ x.stalled = none ∧ x.fault = none

theorem resolveLane_clean (y : Party) (a : Acc) (r : Req) (xs : List Piece) :
    ∀ (s : State) (x : LaneAcc), LaneClean (resolveLane y a r s x xs).2 → LaneClean x := by
  induction xs with
  | nil => exact fun _ _ h => h
  | cons p xs ih =>
    intro s x h
    unfold resolveLane at h
    split at h <;>
    · obtain ⟨h1, h2, h3⟩ := ih _ _ h
      refine ⟨?_, ?_, ?_⟩ <;> simp_all

/-- Pieces that resolve add their places. -/
theorem resolveLane_of {y : Party} {a : Acc} {s t : State} {xs : List Piece} {ps : Places} (r : Req) (h : PiecesResolve y a s xs t ps) :
    ∀ x : LaneAcc, resolveLane y a r s x xs = (t, { x with places := x.places ++ ps }) := by
  induction h with
  | done => intro x; simp [resolveLane]
  | spad s t p xs ps addr hx h ih =>
    intro x
    have : resolvePiece s y a p = (s, .ok (.byte .spad addr 0 false)) := by simp [resolvePiece, hx]
    simp [resolveLane, this, ih]
  | byte s u t p xs ps va addr tag m repl hx hv h ih =>
    intro x
    have : resolvePiece s y a p = (u, .ok (.byte m addr tag repl)) := by simp [resolvePiece, hx, hv]
    simp [resolveLane, this, ih]
  | empty s u t p xs ps va hx hv h ih =>
    intro x
    have : resolvePiece s y a p = (u, .ok .empty) := by simp [resolvePiece, hx, hv]
    simp [resolveLane, this, ih]

/-- A lane in which nothing fails has resolved its pieces. -/
theorem resolveLane_inv (y : Party) (a : Acc) (r : Req) (xs : List Piece) :
    ∀ (s : State) (x : LaneAcc), LaneClean (resolveLane y a r s x xs).2 →
      ∃ ps, PiecesResolve y a s xs (resolveLane y a r s x xs).1 ps ∧ (resolveLane y a r s x xs).2.places = x.places ++ ps := by
  induction xs with
  | nil => exact fun s x _ => ⟨[], .done s, by simp [resolveLane]⟩
  | cons p xs ih =>
    intro s x h
    cases e : resolvePiece s y a p with
    | mk u q =>
      cases q with
      | ok pl =>
        simp only [resolveLane, e] at h ⊢
        obtain ⟨ps, h1, h2⟩ := ih _ _ h
        refine ⟨(p.off, p.n, pl) :: ps, ?_, by simp [h2]⟩
        cases hd : p.dest with
        | spad addr =>
          simp only [resolvePiece, hd] at e
          obtain ⟨rfl, rfl⟩ := Prod.mk.inj e |>.imp id (PieceRes.ok.inj)
          exact .spad _ _ _ _ _ addr hd h1
        | va va =>
          simp only [resolvePiece, hd] at e
          split at e
          · next v hv =>
            obtain ⟨rfl, hq⟩ := Prod.mk.inj e
            cases hq
            exact .byte _ _ _ _ _ _ va _ _ _ _ hd hv h1
          · next hv =>
            obtain ⟨rfl, hq⟩ := Prod.mk.inj e
            cases hq
            exact .empty _ _ _ _ _ _ va hd hv h1
          · split at e
            · split at e <;> cases e
            · cases e
          · cases e
      | bad k l =>
        simp only [resolveLane, e] at h
        have := resolveLane_clean _ _ _ _ _ _ h
        simp [LaneClean] at this
      | replay l =>
        simp only [resolveLane, e] at h
        have := resolveLane_clean _ _ _ _ _ _ h
        simp [LaneClean] at this
      | noMem f =>
        simp only [resolveLane, e] at h
        have := resolveLane_clean _ _ _ _ _ _ h
        simp [LaneClean] at this

/-- No lane has failed. -/
def AllClean (x : AllAcc) : Prop := x.trap = none ∧ x.stalled = [] ∧ x.fault = none

theorem resolveAll_clean (y : Party) (a : Acc) (rs : List (Req × List Piece)) :
    ∀ (s : State) (x : AllAcc), AllClean (resolveAll y a s x rs).2 → AllClean x := by
  induction rs with
  | nil => exact fun _ _ h => h
  | cons r rs ih =>
    intro s x h
    simp only [resolveAll] at h
    obtain ⟨h1, h2, h3⟩ := ih _ _ h
    simp only [Option.or_eq_none_iff, List.append_eq_nil_iff] at h1 h2 h3
    exact ⟨h1.1, h2.1, h3.1⟩

theorem resolveAll_of {y : Party} {a : Acc} {s t : State} {rs : List (Req × List Piece)} {ps : List (Nat × Places)}
    (h : LanesResolve y a s rs t ps) :
    ∀ x : AllAcc, resolveAll y a s x rs = (t, { x with lanes := x.lanes ++ ps }) := by
  induction h with
  | done => intro x; simp [resolveAll]
  | lane s u t r xs rest p ps h hr ih => intro x; simp [resolveAll, resolveLane_of r h, ih]

theorem resolveAll_inv (y : Party) (a : Acc) (rs : List (Req × List Piece)) :
    ∀ (s : State) (x : AllAcc), AllClean (resolveAll y a s x rs).2 →
      ∃ ps, LanesResolve y a s rs (resolveAll y a s x rs).1 ps ∧ (resolveAll y a s x rs).2.lanes = x.lanes ++ ps := by
  induction rs with
  | nil => exact fun s x _ => ⟨[], .done s, by simp [resolveAll]⟩
  | cons r rs ih =>
    intro s x h
    obtain ⟨r, xs⟩ := r
    simp only [resolveAll] at h ⊢
    obtain ⟨h1, h2, h3⟩ := resolveAll_clean _ _ _ _ _ h
    simp only [Option.or_eq_none_iff, List.append_eq_nil_iff, Option.map_eq_none_iff, Option.toList_eq_nil_iff] at h1 h2 h3
    obtain ⟨p, hp, hpl⟩ := resolveLane_inv y a r xs s {} ⟨h1.2, h2.2, h3.2⟩
    obtain ⟨ps, hps, hl⟩ := ih _ _ h
    simp only [List.nil_append] at hpl
    exact ⟨(r.lane, p) :: ps, .lane _ _ _ r xs rs p ps hp hps, by rw [hl, hpl]; simp⟩

/-- A word's checks let it go on exactly when every access is granted. -/
theorem memAccess_ok_iff (w : Wave) (reqs : List Req) (align : Nat) (a : Acc) (extra : Req → Bool) (s u : State) (ps : List (Nat × Places)) :
    memAccess w reqs align a extra s = .ok u ps ↔ Granted w reqs align a extra s u ps := by
  have hmap : ((reqs.map fun r => (r, piecesOf s w r.lane r.ea r.n)).map fun x => (x.1, x.2.getD [])) =
      reqs.map fun r => (r, (piecesOf s w r.lane r.ea r.n).getD []) := by simp [List.map_map, Function.comp_def]
  constructor
  · intro h
    unfold memAccess at h
    dsimp only at h
    split at h
    · cases h
    · next h1 =>
      split at h
      · cases h
      · next h2 =>
        rw [hmap] at h
        rw [List.find?_eq_none] at h1 h2
        refine ⟨fun r hr => ?_, fun r hr => by simpa using h2 r hr, ?_⟩
        · have := h1 (r, piecesOf s w r.lane r.ea r.n) (List.mem_map.2 ⟨r, hr, rfl⟩)
          simpa [Option.isSome_iff_ne_none] using this
        · generalize e : resolveAll (partyOf w) a s {} (reqs.map fun r => (r, (piecesOf s w r.lane r.ea r.n).getD [])) = z at h
          obtain ⟨t, x⟩ := z
          dsimp only at h
          split at h <;> try cases h
          next ht hf hs =>
          have hc : AllClean (resolveAll (partyOf w) a s {} (reqs.map fun r => (r, (piecesOf s w r.lane r.ea r.n).getD []))).2 := by
            rw [e]; exact ⟨ht, hs, hf⟩
          obtain ⟨ps, hp, hl⟩ := resolveAll_inv _ _ _ _ _ hc
          rw [e] at hp hl
          simp only [List.nil_append] at hl
          rw [hl]
          exact hp
  · rintro ⟨h1, h2, h3⟩
    unfold memAccess
    dsimp only
    rw [hmap, resolveAll_of h3]
    have e1 : (reqs.map fun r => (r, piecesOf s w r.lane r.ea r.n)).find? (fun x => x.2.isNone || extra x.1) = none := by
      rw [List.find?_eq_none]
      intro x hx
      obtain ⟨r, hr, rfl⟩ := List.mem_map.1 hx
      have := h1 r hr
      simp [Option.isSome_iff_ne_none] at this
      simp [this]
    have e2 : reqs.find? (fun r => decide (r.ea % align ≠ 0)) = none := by
      rw [List.find?_eq_none]
      intro r hr
      simp [h2 r hr]
    rw [e1, e2]
    simp

end Sys2Proof.Laws
end

