-- ==== Sys2Proof/Laws/Cells.lean ====
section
/-! SUPPORT. The containers of State: what a read gives after a write, and the canonical form of sparse arrays and of memory. -/

namespace Sys2Proof.Laws

open Sys2Proof.Machine

/-! ## Finite maps -/

@[simp] theorem kget_kput_same {α : Type} (m : KMap α) (n : Nat) (v : α) : kget (kput m n v) n = some v := by
  induction m with
  | nil => simp [kput, kget]
  | cons e m ih =>
    obtain ⟨k, w⟩ := e
    simp only [kput]
    split
    · simp [kget]
    · split
      · simp [kget]
      · simp_all [kget]

theorem kget_kput_other {α : Type} (m : KMap α) (n a : Nat) (v : α) (h : a ≠ n) : kget (kput m n v) a = kget m a := by
  induction m with
  | nil => simp [kput, kget, h]
  | cons e m ih =>
    obtain ⟨k, w⟩ := e
    simp only [kput]
    split
    · simp [kget, h]
    · split
      · simp_all [kget]
      · simp only [kget, ih]

@[simp] theorem kget_kmod_same {α : Type} (f : α → α) (m : KMap α) (n : Nat) : kget (kmod f m n) n = (kget m n).map f := by
  induction m with
  | nil => rfl
  | cons e m ih =>
    obtain ⟨k, w⟩ := e
    simp only [kmod]
    split <;> simp_all [kget]

theorem kget_kmod_other {α : Type} (f : α → α) (m : KMap α) (n a : Nat) (h : a ≠ n) : kget (kmod f m n) a = kget m a := by
  induction m with
  | nil => rfl
  | cons e m ih =>
    obtain ⟨k, w⟩ := e
    simp only [kmod]
    split <;> simp_all [kget]

theorem kget_kdel_other {α : Type} (m : KMap α) (n a : Nat) (h : a ≠ n) : kget (kdel m n) a = kget m a := by
  induction m with
  | nil => rfl
  | cons e m ih =>
    obtain ⟨k, w⟩ := e
    simp only [kdel]
    split <;> simp_all [kget]

@[simp] theorem kget_kdel_same {α : Type} (m : KMap α) (n : Nat) : kget (kdel m n) n = none := by
  induction m with
  | nil => rfl
  | cons e m ih =>
    obtain ⟨k, w⟩ := e
    simp only [kdel]
    split
    · exact ih
    · simp only [kget]
      split <;> simp_all

/-- Changing every record changes what a key gives. -/
theorem kget_kmap {α β : Type} (f : Nat → α → β) (m : KMap α) (n : Nat) : kget (kmap f m) n = (kget m n).map (f n) := by
  induction m with
  | nil => rfl
  | cons e m ih =>
    obtain ⟨k, w⟩ := e
    simp only [kmap, List.map_cons, kget] at ih ⊢
    split <;> simp_all

/-! ## Sparse arrays -/

variable {α : Type} [DecidableEq α]

/-- Every index from `lo` on, rising, no default value: the canonical form above a bound. -/
def wfFrom (d : α) : Nat → Cells α → Prop
  | _, [] => True
  | lo, (k, v) :: c => lo ≤ k ∧ v ≠ d ∧ wfFrom d (k + 1) c

omit [DecidableEq α] in
theorem wfFrom_mono (d : α) (c : Cells α) (lo lo' : Nat) (h : lo' ≤ lo) (w : wfFrom d lo c) : wfFrom d lo' c := by
  cases c with
  | nil => trivial
  | cons e c => exact ⟨le_trans h w.1, w.2⟩

theorem cellsWf_cons (d : α) (k : Nat) (v : α) (c : Cells α) : cellsWf d ((k, v) :: c) = true ↔ v ≠ d ∧ wfFrom d (k + 1) c := by
  induction c generalizing k v with
  | nil => simp [cellsWf, wfFrom]
  | cons e c ih =>
    obtain ⟨k', v'⟩ := e
    simp only [cellsWf, Bool.and_eq_true, decide_eq_true_eq, ih, wfFrom]
    constructor
    · rintro ⟨⟨a, b⟩, e, f⟩; exact ⟨a, by omega, e, f⟩
    · rintro ⟨a, b, e, f⟩; exact ⟨⟨a, by omega⟩, e, f⟩

/-- The canonical form, as a recursion over the entries. -/
theorem cellsWf_iff (d : α) (c : Cells α) : cellsWf d c = true ↔ wfFrom d 0 c := by
  cases c with
  | nil => simp [cellsWf, wfFrom]
  | cons e c =>
    obtain ⟨k, v⟩ := e
    rw [cellsWf_cons]
    simp [wfFrom]

omit [DecidableEq α] in
theorem wfFrom_del (d : α) (c : Cells α) (lo n : Nat) (w : wfFrom d lo c) : wfFrom d lo (cellsDel c n) := by
  induction c generalizing lo with
  | nil => trivial
  | cons e c ih =>
    obtain ⟨k, u⟩ := e
    obtain ⟨h1, h2, h3⟩ := w
    simp only [cellsDel]
    split
    · exact wfFrom_mono d _ _ _ (by omega) (ih _ h3)
    · exact ⟨h1, h2, ih _ h3⟩

omit [DecidableEq α] in
theorem wfFrom_ins (d : α) (c : Cells α) (lo n : Nat) (v : α) (hv : v ≠ d) (h : lo ≤ n) (w : wfFrom d lo c) :
    wfFrom d lo (cellsIns c n v) := by
  induction c generalizing lo with
  | nil => exact ⟨h, hv, trivial⟩
  | cons e c ih =>
    obtain ⟨k, u⟩ := e
    obtain ⟨h1, h2, h3⟩ := w
    simp only [cellsIns]
    split
    · exact ⟨h, hv, by omega, h2, h3⟩
    · split
      · rename_i hk
        exact ⟨h, hv, by rw [hk]; exact h3⟩
      · exact ⟨h1, h2, ih (k + 1) (by omega) h3⟩

theorem wfFrom_put (d : α) (c : Cells α) (lo n : Nat) (v : α) (h : lo ≤ n) (w : wfFrom d lo c) : wfFrom d lo (cellsPut d c n v) := by
  unfold cellsPut
  split
  · exact wfFrom_del d c lo n w
  · exact wfFrom_ins d c lo n v ‹_› h w

/-- A store keeps the canonical form. -/
theorem cellsWf_put (d : α) (c : Cells α) (n : Nat) (v : α) (w : cellsWf d c = true) : cellsWf d (cellsPut d c n v) = true := by
  rw [cellsWf_iff] at *
  exact wfFrom_put d c 0 n v (Nat.zero_le n) w

omit [DecidableEq α] in
theorem cellsGet_del (d : α) (c : Cells α) (n a : Nat) : cellsGet d (cellsDel c n) a = if a = n then d else cellsGet d c a := by
  induction c with
  | nil => simp [cellsDel, cellsGet]
  | cons e c ih =>
    obtain ⟨k, u⟩ := e
    simp only [cellsDel]
    split
    · simp only [ih, cellsGet]
      split <;> simp_all
    · simp only [cellsGet, ih]
      split <;> simp_all

omit [DecidableEq α] in
theorem cellsGet_ins (d : α) (c : Cells α) (n a : Nat) (v : α) : cellsGet d (cellsIns c n v) a = if a = n then v else cellsGet d c a := by
  induction c with
  | nil => simp [cellsIns, cellsGet]
  | cons e c ih =>
    obtain ⟨k, u⟩ := e
    simp only [cellsIns]
    split
    · simp only [cellsGet]
    · split
      · simp only [cellsGet]
        split <;> simp_all
      · simp only [cellsGet, ih]
        split <;> split <;> simp_all

/-- Reading what has been stored, and reading elsewhere. -/
theorem cellsGet_put (d : α) (c : Cells α) (n a : Nat) (v : α) :
    cellsGet d (cellsPut d c n v) a = if a = n then v else cellsGet d c a := by
  unfold cellsPut
  split
  · rename_i h
    rw [cellsGet_del, h]
  · exact cellsGet_ins d c n a v

omit [DecidableEq α] in
/-- Reading a list in which a place has been filled. -/
theorem getD_listPut (d : α) (l : List α) (n a : Nat) (v : α) : (listPut d l n v).getD a d = if a = n then v else l.getD a d := by
  induction n generalizing l a with
  | zero => cases l <;> cases a <;> simp [listPut]
  | succ n ih =>
    simp only [List.getD_eq_getElem?_getD] at ih
    cases l <;> cases a <;> simp [listPut, ih]

/-! ## Memory -/

/-- A byte store keeps the canonical form. -/
theorem Memory.wf_write (m : Memory) (a : Nat) (b : Byte) (w : m.wf = true) : (m.write a b).wf = true :=
  cellsWf_put 0#8 m a b w

/-- A store of bytes keeps the canonical form. -/
theorem Memory.wf_writeN (bs : List Byte) (m : Memory) (a : Nat) (w : m.wf = true) : (m.writeN a bs).wf = true := by
  induction bs generalizing m a with
  | nil => exact w
  | cons b bs ih => exact ih _ _ (Memory.wf_write m a b w)

/-- A byte store changes its byte and no other. -/
theorem Memory.read_write (m : Memory) (a x : Nat) (b : Byte) : (m.write a b).read x = if x = a then b else m.read x :=
  cellsGet_put 0#8 m a x b

/-- A store of bytes changes its bytes and no others. -/
theorem Memory.read_writeN (bs : List Byte) (m : Memory) (a x : Nat) :
    (m.writeN a bs).read x = if a ≤ x ∧ x < a + bs.length then bs.getD (x - a) 0#8 else m.read x := by
  induction bs generalizing m a with
  | nil =>
    simp only [Memory.writeN, List.length_nil]
    rw [if_neg (by omega)]
  | cons b bs ih =>
    simp only [Memory.writeN, List.length_cons]
    rw [ih, Memory.read_write]
    by_cases h : x = a
    · subst h
      rw [if_neg (by omega), if_pos rfl, if_pos (by omega)]
      simp
    · by_cases h2 : a + 1 ≤ x ∧ x < a + 1 + bs.length
      · rw [if_pos h2, if_pos (by omega)]
        obtain ⟨k, hk⟩ : ∃ k, x - a = k + 1 := ⟨x - a - 1, by omega⟩
        rw [hk, show x - (a + 1) = k by omega]
        simp
      · rw [if_neg h2, if_neg h, if_neg (by omega)]

omit [DecidableEq α] in
theorem wfFrom_filter (d : α) (p : Nat × α → Bool) (c : Cells α) (lo : Nat) (w : wfFrom d lo c) : wfFrom d lo (c.filter p) := by
  induction c generalizing lo with
  | nil => exact w
  | cons e c ih =>
    obtain ⟨k, u⟩ := e
    obtain ⟨h1, h2, h3⟩ := w
    rw [List.filter_cons]
    split
    · exact ⟨h1, h2, ih _ h3⟩
    · exact wfFrom_mono d _ _ _ (by omega) (ih _ h3)

/-- Dropping entries keeps the canonical form. -/
theorem cellsWf_filter (d : α) (p : Nat × α → Bool) (c : Cells α) (w : cellsWf d c = true) : cellsWf d (c.filter p) = true := by
  rw [cellsWf_iff] at *
  exact wfFrom_filter d p c 0 w

/-- Clearing a range keeps the canonical form. -/
theorem Memory.wf_clear (m : Memory) (lo hi : Nat) (w : m.wf = true) : (m.clear lo hi).wf = true :=
  cellsWf_filter 0#8 _ m w

end Sys2Proof.Laws
end

