-- ==== Sys2Proof/Laws/State.lean ====
section
/-! SUPPORT. What each named update of State, of a wave and of a part leaves in every field, one lemma a field. -/

namespace Sys2Proof.Laws

open Sys2Proof.Machine

set_option Elab.async false

/-! ## State -/

@[simp] theorem modWave_agenda (s : State) (key : Nat) (f : Wave → Wave) : (s.modWave key f).agenda = s.agenda := rfl
@[simp] theorem modWave_fresh (s : State) (key : Nat) (f : Wave → Wave) : (s.modWave key f).fresh = s.fresh := rfl
@[simp] theorem modWave_nextId (s : State) (key : Nat) (f : Wave → Wave) : (s.modWave key f).nextId = s.nextId := rfl
@[simp] theorem modWave_time (s : State) (key : Nat) (f : Wave → Wave) : (s.modWave key f).time = s.time := rfl
@[simp] theorem modWave_lag (s : State) (key : Nat) (f : Wave → Wave) : (s.modWave key f).lag = s.lag := rfl
@[simp] theorem modWave_focus (s : State) (key : Nat) (f : Wave → Wave) : (s.modWave key f).focus = s.focus := rfl
@[simp] theorem modWave_runs (s : State) (key : Nat) (f : Wave → Wave) : (s.modWave key f).runs = s.runs := rfl
@[simp] theorem modWave_waves (s : State) (key : Nat) (f : Wave → Wave) : (s.modWave key f).waves = kmod f s.waves key := rfl
@[simp] theorem modWave_wgs (s : State) (key : Nat) (f : Wave → Wave) : (s.modWave key f).wgs = s.wgs := rfl
@[simp] theorem modWave_parked (s : State) (key : Nat) (f : Wave → Wave) : (s.modWave key f).parked = s.parked := rfl
@[simp] theorem modWave_fused (s : State) (key : Nat) (f : Wave → Wave) : (s.modWave key f).fused = s.fused := rfl
@[simp] theorem modWave_l1Locks (s : State) (key : Nat) (f : Wave → Wave) : (s.modWave key f).l1Locks = s.l1Locks := rfl
@[simp] theorem modWave_l2Locks (s : State) (key : Nat) (f : Wave → Wave) : (s.modWave key f).l2Locks = s.l2Locks := rfl
@[simp] theorem modWave_cores (s : State) (key : Nat) (f : Wave → Wave) : (s.modWave key f).cores = s.cores := rfl
@[simp] theorem modWave_hbm (s : State) (key : Nat) (f : Wave → Wave) : (s.modWave key f).hbm = s.hbm := rfl
@[simp] theorem modWave_host (s : State) (key : Nat) (f : Wave → Wave) : (s.modWave key f).host = s.host := rfl
@[simp] theorem modWave_peer (s : State) (key : Nat) (f : Wave → Wave) : (s.modWave key f).peer = s.peer := rfl
@[simp] theorem modWave_spad (s : State) (key : Nat) (f : Wave → Wave) : (s.modWave key f).spad = s.spad := rfl
@[simp] theorem modWave_hbmTag (s : State) (key : Nat) (f : Wave → Wave) : (s.modWave key f).hbmTag = s.hbmTag := rfl
@[simp] theorem modWave_hbmPoison (s : State) (key : Nat) (f : Wave → Wave) : (s.modWave key f).hbmPoison = s.hbmPoison := rfl
@[simp] theorem modWave_stores (s : State) (key : Nat) (f : Wave → Wave) : (s.modWave key f).stores = s.stores := rfl
@[simp] theorem modWave_touched (s : State) (key : Nat) (f : Wave → Wave) : (s.modWave key f).touched = s.touched := rfl
@[simp] theorem modWave_stale (s : State) (key : Nat) (f : Wave → Wave) : (s.modWave key f).stale = s.stale := rfl
@[simp] theorem modWave_astps (s : State) (key : Nat) (f : Wave → Wave) : (s.modWave key f).astps = s.astps := rfl
@[simp] theorem modWave_copies (s : State) (key : Nat) (f : Wave → Wave) : (s.modWave key f).copies = s.copies := rfl
@[simp] theorem modWave_pairs (s : State) (key : Nat) (f : Wave → Wave) : (s.modWave key f).pairs = s.pairs := rfl
@[simp] theorem modWave_rays (s : State) (key : Nat) (f : Wave → Wave) : (s.modWave key f).rays = s.rays := rfl
@[simp] theorem modWave_tlb (s : State) (key : Nat) (f : Wave → Wave) : (s.modWave key f).tlb = s.tlb := rfl
@[simp] theorem modWave_ptrs (s : State) (key : Nat) (f : Wave → Wave) : (s.modWave key f).ptrs = s.ptrs := rfl
@[simp] theorem modWave_icache (s : State) (key : Nat) (f : Wave → Wave) : (s.modWave key f).icache = s.icache := rfl
@[simp] theorem modWave_loopBufs (s : State) (key : Nat) (f : Wave → Wave) : (s.modWave key f).loopBufs = s.loopBufs := rfl
@[simp] theorem modWave_faultRings (s : State) (key : Nat) (f : Wave → Wave) : (s.modWave key f).faultRings = s.faultRings := rfl
@[simp] theorem modWave_partitions (s : State) (key : Nat) (f : Wave → Wave) : (s.modWave key f).partitions = s.partitions := rfl
@[simp] theorem modWave_contexts (s : State) (key : Nat) (f : Wave → Wave) : (s.modWave key f).contexts = s.contexts := rfl
@[simp] theorem modWave_grids (s : State) (key : Nat) (f : Wave → Wave) : (s.modWave key f).grids = s.grids := rfl
@[simp] theorem modWave_draws (s : State) (key : Nat) (f : Wave → Wave) : (s.modWave key f).draws = s.draws := rfl
@[simp] theorem modWave_evqs (s : State) (key : Nat) (f : Wave → Wave) : (s.modWave key f).evqs = s.evqs := rfl
@[simp] theorem modWave_traces (s : State) (key : Nat) (f : Wave → Wave) : (s.modWave key f).traces = s.traces := rfl
@[simp] theorem modWave_keys (s : State) (key : Nat) (f : Wave → Wave) : (s.modWave key f).keys = s.keys := rfl
@[simp] theorem modWave_queues (s : State) (key : Nat) (f : Wave → Wave) : (s.modWave key f).queues = s.queues := rfl
@[simp] theorem modWave_unmasked (s : State) (key : Nat) (f : Wave → Wave) : (s.modWave key f).unmasked = s.unmasked := rfl
@[simp] theorem modWave_funcMask (s : State) (key : Nat) (f : Wave → Wave) : (s.modWave key f).funcMask = s.funcMask := rfl
@[simp] theorem modWave_msixPending (s : State) (key : Nat) (f : Wave → Wave) : (s.modWave key f).msixPending = s.msixPending := rfl
@[simp] theorem modWave_msixSent (s : State) (key : Nat) (f : Wave → Wave) : (s.modWave key f).msixSent = s.msixSent := rfl
@[simp] theorem modWave_muted (s : State) (key : Nat) (f : Wave → Wave) : (s.modWave key f).muted = s.muted := rfl
@[simp] theorem modWave_dev (s : State) (key : Nat) (f : Wave → Wave) : (s.modWave key f).dev = s.dev := rfl
@[simp] theorem modWave_handed (s : State) (key : Nat) (f : Wave → Wave) : (s.modWave key f).handed = s.handed := rfl
@[simp] theorem modWave_fetched (s : State) (key : Nat) (f : Wave → Wave) : (s.modWave key f).fetched = s.fetched := rfl
@[simp] theorem modWave_served (s : State) (key : Nat) (f : Wave → Wave) : (s.modWave key f).served = s.served := rfl

@[simp] theorem modPart_agenda (s : State) (key q : Nat) (f : Part → Part) : (s.modPart key q f).agenda = s.agenda := rfl
@[simp] theorem modPart_fresh (s : State) (key q : Nat) (f : Part → Part) : (s.modPart key q f).fresh = s.fresh := rfl
@[simp] theorem modPart_nextId (s : State) (key q : Nat) (f : Part → Part) : (s.modPart key q f).nextId = s.nextId := rfl
@[simp] theorem modPart_time (s : State) (key q : Nat) (f : Part → Part) : (s.modPart key q f).time = s.time := rfl
@[simp] theorem modPart_lag (s : State) (key q : Nat) (f : Part → Part) : (s.modPart key q f).lag = s.lag := rfl
@[simp] theorem modPart_focus (s : State) (key q : Nat) (f : Part → Part) : (s.modPart key q f).focus = s.focus := rfl
@[simp] theorem modPart_runs (s : State) (key q : Nat) (f : Part → Part) : (s.modPart key q f).runs = s.runs := rfl
@[simp] theorem modPart_waves (s : State) (key q : Nat) (f : Part → Part) : (s.modPart key q f).waves = kmod (fun w => { w with parts := partMod f w.parts q }) s.waves key := rfl
@[simp] theorem modPart_wgs (s : State) (key q : Nat) (f : Part → Part) : (s.modPart key q f).wgs = s.wgs := rfl
@[simp] theorem modPart_parked (s : State) (key q : Nat) (f : Part → Part) : (s.modPart key q f).parked = s.parked := rfl
@[simp] theorem modPart_fused (s : State) (key q : Nat) (f : Part → Part) : (s.modPart key q f).fused = s.fused := rfl
@[simp] theorem modPart_l1Locks (s : State) (key q : Nat) (f : Part → Part) : (s.modPart key q f).l1Locks = s.l1Locks := rfl
@[simp] theorem modPart_l2Locks (s : State) (key q : Nat) (f : Part → Part) : (s.modPart key q f).l2Locks = s.l2Locks := rfl
@[simp] theorem modPart_cores (s : State) (key q : Nat) (f : Part → Part) : (s.modPart key q f).cores = s.cores := rfl
@[simp] theorem modPart_hbm (s : State) (key q : Nat) (f : Part → Part) : (s.modPart key q f).hbm = s.hbm := rfl
@[simp] theorem modPart_host (s : State) (key q : Nat) (f : Part → Part) : (s.modPart key q f).host = s.host := rfl
@[simp] theorem modPart_peer (s : State) (key q : Nat) (f : Part → Part) : (s.modPart key q f).peer = s.peer := rfl
@[simp] theorem modPart_spad (s : State) (key q : Nat) (f : Part → Part) : (s.modPart key q f).spad = s.spad := rfl
@[simp] theorem modPart_hbmTag (s : State) (key q : Nat) (f : Part → Part) : (s.modPart key q f).hbmTag = s.hbmTag := rfl
@[simp] theorem modPart_hbmPoison (s : State) (key q : Nat) (f : Part → Part) : (s.modPart key q f).hbmPoison = s.hbmPoison := rfl
@[simp] theorem modPart_stores (s : State) (key q : Nat) (f : Part → Part) : (s.modPart key q f).stores = s.stores := rfl
@[simp] theorem modPart_touched (s : State) (key q : Nat) (f : Part → Part) : (s.modPart key q f).touched = s.touched := rfl
@[simp] theorem modPart_stale (s : State) (key q : Nat) (f : Part → Part) : (s.modPart key q f).stale = s.stale := rfl
@[simp] theorem modPart_astps (s : State) (key q : Nat) (f : Part → Part) : (s.modPart key q f).astps = s.astps := rfl
@[simp] theorem modPart_copies (s : State) (key q : Nat) (f : Part → Part) : (s.modPart key q f).copies = s.copies := rfl
@[simp] theorem modPart_pairs (s : State) (key q : Nat) (f : Part → Part) : (s.modPart key q f).pairs = s.pairs := rfl
@[simp] theorem modPart_rays (s : State) (key q : Nat) (f : Part → Part) : (s.modPart key q f).rays = s.rays := rfl
@[simp] theorem modPart_tlb (s : State) (key q : Nat) (f : Part → Part) : (s.modPart key q f).tlb = s.tlb := rfl
@[simp] theorem modPart_ptrs (s : State) (key q : Nat) (f : Part → Part) : (s.modPart key q f).ptrs = s.ptrs := rfl
@[simp] theorem modPart_icache (s : State) (key q : Nat) (f : Part → Part) : (s.modPart key q f).icache = s.icache := rfl
@[simp] theorem modPart_loopBufs (s : State) (key q : Nat) (f : Part → Part) : (s.modPart key q f).loopBufs = s.loopBufs := rfl
@[simp] theorem modPart_faultRings (s : State) (key q : Nat) (f : Part → Part) : (s.modPart key q f).faultRings = s.faultRings := rfl
@[simp] theorem modPart_partitions (s : State) (key q : Nat) (f : Part → Part) : (s.modPart key q f).partitions = s.partitions := rfl
@[simp] theorem modPart_contexts (s : State) (key q : Nat) (f : Part → Part) : (s.modPart key q f).contexts = s.contexts := rfl
@[simp] theorem modPart_grids (s : State) (key q : Nat) (f : Part → Part) : (s.modPart key q f).grids = s.grids := rfl
@[simp] theorem modPart_draws (s : State) (key q : Nat) (f : Part → Part) : (s.modPart key q f).draws = s.draws := rfl
@[simp] theorem modPart_evqs (s : State) (key q : Nat) (f : Part → Part) : (s.modPart key q f).evqs = s.evqs := rfl
@[simp] theorem modPart_traces (s : State) (key q : Nat) (f : Part → Part) : (s.modPart key q f).traces = s.traces := rfl
@[simp] theorem modPart_keys (s : State) (key q : Nat) (f : Part → Part) : (s.modPart key q f).keys = s.keys := rfl
@[simp] theorem modPart_queues (s : State) (key q : Nat) (f : Part → Part) : (s.modPart key q f).queues = s.queues := rfl
@[simp] theorem modPart_unmasked (s : State) (key q : Nat) (f : Part → Part) : (s.modPart key q f).unmasked = s.unmasked := rfl
@[simp] theorem modPart_funcMask (s : State) (key q : Nat) (f : Part → Part) : (s.modPart key q f).funcMask = s.funcMask := rfl
@[simp] theorem modPart_msixPending (s : State) (key q : Nat) (f : Part → Part) : (s.modPart key q f).msixPending = s.msixPending := rfl
@[simp] theorem modPart_msixSent (s : State) (key q : Nat) (f : Part → Part) : (s.modPart key q f).msixSent = s.msixSent := rfl
@[simp] theorem modPart_muted (s : State) (key q : Nat) (f : Part → Part) : (s.modPart key q f).muted = s.muted := rfl
@[simp] theorem modPart_dev (s : State) (key q : Nat) (f : Part → Part) : (s.modPart key q f).dev = s.dev := rfl
@[simp] theorem modPart_handed (s : State) (key q : Nat) (f : Part → Part) : (s.modPart key q f).handed = s.handed := rfl
@[simp] theorem modPart_fetched (s : State) (key q : Nat) (f : Part → Part) : (s.modPart key q f).fetched = s.fetched := rfl
@[simp] theorem modPart_served (s : State) (key q : Nat) (f : Part → Part) : (s.modPart key q f).served = s.served := rfl

@[simp] theorem modWg_agenda (s : State) (id : Nat) (f : Wg → Wg) : (s.modWg id f).agenda = s.agenda := rfl
@[simp] theorem modWg_fresh (s : State) (id : Nat) (f : Wg → Wg) : (s.modWg id f).fresh = s.fresh := rfl
@[simp] theorem modWg_nextId (s : State) (id : Nat) (f : Wg → Wg) : (s.modWg id f).nextId = s.nextId := rfl
@[simp] theorem modWg_time (s : State) (id : Nat) (f : Wg → Wg) : (s.modWg id f).time = s.time := rfl
@[simp] theorem modWg_lag (s : State) (id : Nat) (f : Wg → Wg) : (s.modWg id f).lag = s.lag := rfl
@[simp] theorem modWg_focus (s : State) (id : Nat) (f : Wg → Wg) : (s.modWg id f).focus = s.focus := rfl
@[simp] theorem modWg_runs (s : State) (id : Nat) (f : Wg → Wg) : (s.modWg id f).runs = s.runs := rfl
@[simp] theorem modWg_waves (s : State) (id : Nat) (f : Wg → Wg) : (s.modWg id f).waves = s.waves := rfl
@[simp] theorem modWg_wgs (s : State) (id : Nat) (f : Wg → Wg) : (s.modWg id f).wgs = kmod f s.wgs id := rfl
@[simp] theorem modWg_parked (s : State) (id : Nat) (f : Wg → Wg) : (s.modWg id f).parked = s.parked := rfl
@[simp] theorem modWg_fused (s : State) (id : Nat) (f : Wg → Wg) : (s.modWg id f).fused = s.fused := rfl
@[simp] theorem modWg_l1Locks (s : State) (id : Nat) (f : Wg → Wg) : (s.modWg id f).l1Locks = s.l1Locks := rfl
@[simp] theorem modWg_l2Locks (s : State) (id : Nat) (f : Wg → Wg) : (s.modWg id f).l2Locks = s.l2Locks := rfl
@[simp] theorem modWg_cores (s : State) (id : Nat) (f : Wg → Wg) : (s.modWg id f).cores = s.cores := rfl
@[simp] theorem modWg_hbm (s : State) (id : Nat) (f : Wg → Wg) : (s.modWg id f).hbm = s.hbm := rfl
@[simp] theorem modWg_host (s : State) (id : Nat) (f : Wg → Wg) : (s.modWg id f).host = s.host := rfl
@[simp] theorem modWg_peer (s : State) (id : Nat) (f : Wg → Wg) : (s.modWg id f).peer = s.peer := rfl
@[simp] theorem modWg_spad (s : State) (id : Nat) (f : Wg → Wg) : (s.modWg id f).spad = s.spad := rfl
@[simp] theorem modWg_hbmTag (s : State) (id : Nat) (f : Wg → Wg) : (s.modWg id f).hbmTag = s.hbmTag := rfl
@[simp] theorem modWg_hbmPoison (s : State) (id : Nat) (f : Wg → Wg) : (s.modWg id f).hbmPoison = s.hbmPoison := rfl
@[simp] theorem modWg_stores (s : State) (id : Nat) (f : Wg → Wg) : (s.modWg id f).stores = s.stores := rfl
@[simp] theorem modWg_touched (s : State) (id : Nat) (f : Wg → Wg) : (s.modWg id f).touched = s.touched := rfl
@[simp] theorem modWg_stale (s : State) (id : Nat) (f : Wg → Wg) : (s.modWg id f).stale = s.stale := rfl
@[simp] theorem modWg_astps (s : State) (id : Nat) (f : Wg → Wg) : (s.modWg id f).astps = s.astps := rfl
@[simp] theorem modWg_copies (s : State) (id : Nat) (f : Wg → Wg) : (s.modWg id f).copies = s.copies := rfl
@[simp] theorem modWg_pairs (s : State) (id : Nat) (f : Wg → Wg) : (s.modWg id f).pairs = s.pairs := rfl
@[simp] theorem modWg_rays (s : State) (id : Nat) (f : Wg → Wg) : (s.modWg id f).rays = s.rays := rfl
@[simp] theorem modWg_tlb (s : State) (id : Nat) (f : Wg → Wg) : (s.modWg id f).tlb = s.tlb := rfl
@[simp] theorem modWg_ptrs (s : State) (id : Nat) (f : Wg → Wg) : (s.modWg id f).ptrs = s.ptrs := rfl
@[simp] theorem modWg_icache (s : State) (id : Nat) (f : Wg → Wg) : (s.modWg id f).icache = s.icache := rfl
@[simp] theorem modWg_loopBufs (s : State) (id : Nat) (f : Wg → Wg) : (s.modWg id f).loopBufs = s.loopBufs := rfl
@[simp] theorem modWg_faultRings (s : State) (id : Nat) (f : Wg → Wg) : (s.modWg id f).faultRings = s.faultRings := rfl
@[simp] theorem modWg_partitions (s : State) (id : Nat) (f : Wg → Wg) : (s.modWg id f).partitions = s.partitions := rfl
@[simp] theorem modWg_contexts (s : State) (id : Nat) (f : Wg → Wg) : (s.modWg id f).contexts = s.contexts := rfl
@[simp] theorem modWg_grids (s : State) (id : Nat) (f : Wg → Wg) : (s.modWg id f).grids = s.grids := rfl
@[simp] theorem modWg_draws (s : State) (id : Nat) (f : Wg → Wg) : (s.modWg id f).draws = s.draws := rfl
@[simp] theorem modWg_evqs (s : State) (id : Nat) (f : Wg → Wg) : (s.modWg id f).evqs = s.evqs := rfl
@[simp] theorem modWg_traces (s : State) (id : Nat) (f : Wg → Wg) : (s.modWg id f).traces = s.traces := rfl
@[simp] theorem modWg_keys (s : State) (id : Nat) (f : Wg → Wg) : (s.modWg id f).keys = s.keys := rfl
@[simp] theorem modWg_queues (s : State) (id : Nat) (f : Wg → Wg) : (s.modWg id f).queues = s.queues := rfl
@[simp] theorem modWg_unmasked (s : State) (id : Nat) (f : Wg → Wg) : (s.modWg id f).unmasked = s.unmasked := rfl
@[simp] theorem modWg_funcMask (s : State) (id : Nat) (f : Wg → Wg) : (s.modWg id f).funcMask = s.funcMask := rfl
@[simp] theorem modWg_msixPending (s : State) (id : Nat) (f : Wg → Wg) : (s.modWg id f).msixPending = s.msixPending := rfl
@[simp] theorem modWg_msixSent (s : State) (id : Nat) (f : Wg → Wg) : (s.modWg id f).msixSent = s.msixSent := rfl
@[simp] theorem modWg_muted (s : State) (id : Nat) (f : Wg → Wg) : (s.modWg id f).muted = s.muted := rfl
@[simp] theorem modWg_dev (s : State) (id : Nat) (f : Wg → Wg) : (s.modWg id f).dev = s.dev := rfl
@[simp] theorem modWg_handed (s : State) (id : Nat) (f : Wg → Wg) : (s.modWg id f).handed = s.handed := rfl
@[simp] theorem modWg_fetched (s : State) (id : Nat) (f : Wg → Wg) : (s.modWg id f).fetched = s.fetched := rfl
@[simp] theorem modWg_served (s : State) (id : Nat) (f : Wg → Wg) : (s.modWg id f).served = s.served := rfl

@[simp] theorem modGrid_agenda (s : State) (id : Nat) (f : Grid → Grid) : (s.modGrid id f).agenda = s.agenda := rfl
@[simp] theorem modGrid_fresh (s : State) (id : Nat) (f : Grid → Grid) : (s.modGrid id f).fresh = s.fresh := rfl
@[simp] theorem modGrid_nextId (s : State) (id : Nat) (f : Grid → Grid) : (s.modGrid id f).nextId = s.nextId := rfl
@[simp] theorem modGrid_time (s : State) (id : Nat) (f : Grid → Grid) : (s.modGrid id f).time = s.time := rfl
@[simp] theorem modGrid_lag (s : State) (id : Nat) (f : Grid → Grid) : (s.modGrid id f).lag = s.lag := rfl
@[simp] theorem modGrid_focus (s : State) (id : Nat) (f : Grid → Grid) : (s.modGrid id f).focus = s.focus := rfl
@[simp] theorem modGrid_runs (s : State) (id : Nat) (f : Grid → Grid) : (s.modGrid id f).runs = s.runs := rfl
@[simp] theorem modGrid_waves (s : State) (id : Nat) (f : Grid → Grid) : (s.modGrid id f).waves = s.waves := rfl
@[simp] theorem modGrid_wgs (s : State) (id : Nat) (f : Grid → Grid) : (s.modGrid id f).wgs = s.wgs := rfl
@[simp] theorem modGrid_parked (s : State) (id : Nat) (f : Grid → Grid) : (s.modGrid id f).parked = s.parked := rfl
@[simp] theorem modGrid_fused (s : State) (id : Nat) (f : Grid → Grid) : (s.modGrid id f).fused = s.fused := rfl
@[simp] theorem modGrid_l1Locks (s : State) (id : Nat) (f : Grid → Grid) : (s.modGrid id f).l1Locks = s.l1Locks := rfl
@[simp] theorem modGrid_l2Locks (s : State) (id : Nat) (f : Grid → Grid) : (s.modGrid id f).l2Locks = s.l2Locks := rfl
@[simp] theorem modGrid_cores (s : State) (id : Nat) (f : Grid → Grid) : (s.modGrid id f).cores = s.cores := rfl
@[simp] theorem modGrid_hbm (s : State) (id : Nat) (f : Grid → Grid) : (s.modGrid id f).hbm = s.hbm := rfl
@[simp] theorem modGrid_host (s : State) (id : Nat) (f : Grid → Grid) : (s.modGrid id f).host = s.host := rfl
@[simp] theorem modGrid_peer (s : State) (id : Nat) (f : Grid → Grid) : (s.modGrid id f).peer = s.peer := rfl
@[simp] theorem modGrid_spad (s : State) (id : Nat) (f : Grid → Grid) : (s.modGrid id f).spad = s.spad := rfl
@[simp] theorem modGrid_hbmTag (s : State) (id : Nat) (f : Grid → Grid) : (s.modGrid id f).hbmTag = s.hbmTag := rfl
@[simp] theorem modGrid_hbmPoison (s : State) (id : Nat) (f : Grid → Grid) : (s.modGrid id f).hbmPoison = s.hbmPoison := rfl
@[simp] theorem modGrid_stores (s : State) (id : Nat) (f : Grid → Grid) : (s.modGrid id f).stores = s.stores := rfl
@[simp] theorem modGrid_touched (s : State) (id : Nat) (f : Grid → Grid) : (s.modGrid id f).touched = s.touched := rfl
@[simp] theorem modGrid_stale (s : State) (id : Nat) (f : Grid → Grid) : (s.modGrid id f).stale = s.stale := rfl
@[simp] theorem modGrid_astps (s : State) (id : Nat) (f : Grid → Grid) : (s.modGrid id f).astps = s.astps := rfl
@[simp] theorem modGrid_copies (s : State) (id : Nat) (f : Grid → Grid) : (s.modGrid id f).copies = s.copies := rfl
@[simp] theorem modGrid_pairs (s : State) (id : Nat) (f : Grid → Grid) : (s.modGrid id f).pairs = s.pairs := rfl
@[simp] theorem modGrid_rays (s : State) (id : Nat) (f : Grid → Grid) : (s.modGrid id f).rays = s.rays := rfl
@[simp] theorem modGrid_tlb (s : State) (id : Nat) (f : Grid → Grid) : (s.modGrid id f).tlb = s.tlb := rfl
@[simp] theorem modGrid_ptrs (s : State) (id : Nat) (f : Grid → Grid) : (s.modGrid id f).ptrs = s.ptrs := rfl
@[simp] theorem modGrid_icache (s : State) (id : Nat) (f : Grid → Grid) : (s.modGrid id f).icache = s.icache := rfl
@[simp] theorem modGrid_loopBufs (s : State) (id : Nat) (f : Grid → Grid) : (s.modGrid id f).loopBufs = s.loopBufs := rfl
@[simp] theorem modGrid_faultRings (s : State) (id : Nat) (f : Grid → Grid) : (s.modGrid id f).faultRings = s.faultRings := rfl
@[simp] theorem modGrid_partitions (s : State) (id : Nat) (f : Grid → Grid) : (s.modGrid id f).partitions = s.partitions := rfl
@[simp] theorem modGrid_contexts (s : State) (id : Nat) (f : Grid → Grid) : (s.modGrid id f).contexts = s.contexts := rfl
@[simp] theorem modGrid_grids (s : State) (id : Nat) (f : Grid → Grid) : (s.modGrid id f).grids = kmod f s.grids id := rfl
@[simp] theorem modGrid_draws (s : State) (id : Nat) (f : Grid → Grid) : (s.modGrid id f).draws = s.draws := rfl
@[simp] theorem modGrid_evqs (s : State) (id : Nat) (f : Grid → Grid) : (s.modGrid id f).evqs = s.evqs := rfl
@[simp] theorem modGrid_traces (s : State) (id : Nat) (f : Grid → Grid) : (s.modGrid id f).traces = s.traces := rfl
@[simp] theorem modGrid_keys (s : State) (id : Nat) (f : Grid → Grid) : (s.modGrid id f).keys = s.keys := rfl
@[simp] theorem modGrid_queues (s : State) (id : Nat) (f : Grid → Grid) : (s.modGrid id f).queues = s.queues := rfl
@[simp] theorem modGrid_unmasked (s : State) (id : Nat) (f : Grid → Grid) : (s.modGrid id f).unmasked = s.unmasked := rfl
@[simp] theorem modGrid_funcMask (s : State) (id : Nat) (f : Grid → Grid) : (s.modGrid id f).funcMask = s.funcMask := rfl
@[simp] theorem modGrid_msixPending (s : State) (id : Nat) (f : Grid → Grid) : (s.modGrid id f).msixPending = s.msixPending := rfl
@[simp] theorem modGrid_msixSent (s : State) (id : Nat) (f : Grid → Grid) : (s.modGrid id f).msixSent = s.msixSent := rfl
@[simp] theorem modGrid_muted (s : State) (id : Nat) (f : Grid → Grid) : (s.modGrid id f).muted = s.muted := rfl
@[simp] theorem modGrid_dev (s : State) (id : Nat) (f : Grid → Grid) : (s.modGrid id f).dev = s.dev := rfl
@[simp] theorem modGrid_handed (s : State) (id : Nat) (f : Grid → Grid) : (s.modGrid id f).handed = s.handed := rfl
@[simp] theorem modGrid_fetched (s : State) (id : Nat) (f : Grid → Grid) : (s.modGrid id f).fetched = s.fetched := rfl
@[simp] theorem modGrid_served (s : State) (id : Nat) (f : Grid → Grid) : (s.modGrid id f).served = s.served := rfl

@[simp] theorem modCore_agenda (s : State) (c : Nat) (f : Core → Core) : (s.modCore c f).agenda = s.agenda := rfl
@[simp] theorem modCore_fresh (s : State) (c : Nat) (f : Core → Core) : (s.modCore c f).fresh = s.fresh := rfl
@[simp] theorem modCore_nextId (s : State) (c : Nat) (f : Core → Core) : (s.modCore c f).nextId = s.nextId := rfl
@[simp] theorem modCore_time (s : State) (c : Nat) (f : Core → Core) : (s.modCore c f).time = s.time := rfl
@[simp] theorem modCore_lag (s : State) (c : Nat) (f : Core → Core) : (s.modCore c f).lag = s.lag := rfl
@[simp] theorem modCore_focus (s : State) (c : Nat) (f : Core → Core) : (s.modCore c f).focus = s.focus := rfl
@[simp] theorem modCore_runs (s : State) (c : Nat) (f : Core → Core) : (s.modCore c f).runs = s.runs := rfl
@[simp] theorem modCore_waves (s : State) (c : Nat) (f : Core → Core) : (s.modCore c f).waves = s.waves := rfl
@[simp] theorem modCore_wgs (s : State) (c : Nat) (f : Core → Core) : (s.modCore c f).wgs = s.wgs := rfl
@[simp] theorem modCore_parked (s : State) (c : Nat) (f : Core → Core) : (s.modCore c f).parked = s.parked := rfl
@[simp] theorem modCore_fused (s : State) (c : Nat) (f : Core → Core) : (s.modCore c f).fused = s.fused := rfl
@[simp] theorem modCore_l1Locks (s : State) (c : Nat) (f : Core → Core) : (s.modCore c f).l1Locks = s.l1Locks := rfl
@[simp] theorem modCore_l2Locks (s : State) (c : Nat) (f : Core → Core) : (s.modCore c f).l2Locks = s.l2Locks := rfl
@[simp] theorem modCore_cores (s : State) (c : Nat) (f : Core → Core) : (s.modCore c f).cores = kput s.cores c (f (s.core c)) := rfl
@[simp] theorem modCore_hbm (s : State) (c : Nat) (f : Core → Core) : (s.modCore c f).hbm = s.hbm := rfl
@[simp] theorem modCore_host (s : State) (c : Nat) (f : Core → Core) : (s.modCore c f).host = s.host := rfl
@[simp] theorem modCore_peer (s : State) (c : Nat) (f : Core → Core) : (s.modCore c f).peer = s.peer := rfl
@[simp] theorem modCore_spad (s : State) (c : Nat) (f : Core → Core) : (s.modCore c f).spad = s.spad := rfl
@[simp] theorem modCore_hbmTag (s : State) (c : Nat) (f : Core → Core) : (s.modCore c f).hbmTag = s.hbmTag := rfl
@[simp] theorem modCore_hbmPoison (s : State) (c : Nat) (f : Core → Core) : (s.modCore c f).hbmPoison = s.hbmPoison := rfl
@[simp] theorem modCore_stores (s : State) (c : Nat) (f : Core → Core) : (s.modCore c f).stores = s.stores := rfl
@[simp] theorem modCore_touched (s : State) (c : Nat) (f : Core → Core) : (s.modCore c f).touched = s.touched := rfl
@[simp] theorem modCore_stale (s : State) (c : Nat) (f : Core → Core) : (s.modCore c f).stale = s.stale := rfl
@[simp] theorem modCore_astps (s : State) (c : Nat) (f : Core → Core) : (s.modCore c f).astps = s.astps := rfl
@[simp] theorem modCore_copies (s : State) (c : Nat) (f : Core → Core) : (s.modCore c f).copies = s.copies := rfl
@[simp] theorem modCore_pairs (s : State) (c : Nat) (f : Core → Core) : (s.modCore c f).pairs = s.pairs := rfl
@[simp] theorem modCore_rays (s : State) (c : Nat) (f : Core → Core) : (s.modCore c f).rays = s.rays := rfl
@[simp] theorem modCore_tlb (s : State) (c : Nat) (f : Core → Core) : (s.modCore c f).tlb = s.tlb := rfl
@[simp] theorem modCore_ptrs (s : State) (c : Nat) (f : Core → Core) : (s.modCore c f).ptrs = s.ptrs := rfl
@[simp] theorem modCore_icache (s : State) (c : Nat) (f : Core → Core) : (s.modCore c f).icache = s.icache := rfl
@[simp] theorem modCore_loopBufs (s : State) (c : Nat) (f : Core → Core) : (s.modCore c f).loopBufs = s.loopBufs := rfl
@[simp] theorem modCore_faultRings (s : State) (c : Nat) (f : Core → Core) : (s.modCore c f).faultRings = s.faultRings := rfl
@[simp] theorem modCore_partitions (s : State) (c : Nat) (f : Core → Core) : (s.modCore c f).partitions = s.partitions := rfl
@[simp] theorem modCore_contexts (s : State) (c : Nat) (f : Core → Core) : (s.modCore c f).contexts = s.contexts := rfl
@[simp] theorem modCore_grids (s : State) (c : Nat) (f : Core → Core) : (s.modCore c f).grids = s.grids := rfl
@[simp] theorem modCore_draws (s : State) (c : Nat) (f : Core → Core) : (s.modCore c f).draws = s.draws := rfl
@[simp] theorem modCore_evqs (s : State) (c : Nat) (f : Core → Core) : (s.modCore c f).evqs = s.evqs := rfl
@[simp] theorem modCore_traces (s : State) (c : Nat) (f : Core → Core) : (s.modCore c f).traces = s.traces := rfl
@[simp] theorem modCore_keys (s : State) (c : Nat) (f : Core → Core) : (s.modCore c f).keys = s.keys := rfl
@[simp] theorem modCore_queues (s : State) (c : Nat) (f : Core → Core) : (s.modCore c f).queues = s.queues := rfl
@[simp] theorem modCore_unmasked (s : State) (c : Nat) (f : Core → Core) : (s.modCore c f).unmasked = s.unmasked := rfl
@[simp] theorem modCore_funcMask (s : State) (c : Nat) (f : Core → Core) : (s.modCore c f).funcMask = s.funcMask := rfl
@[simp] theorem modCore_msixPending (s : State) (c : Nat) (f : Core → Core) : (s.modCore c f).msixPending = s.msixPending := rfl
@[simp] theorem modCore_msixSent (s : State) (c : Nat) (f : Core → Core) : (s.modCore c f).msixSent = s.msixSent := rfl
@[simp] theorem modCore_muted (s : State) (c : Nat) (f : Core → Core) : (s.modCore c f).muted = s.muted := rfl
@[simp] theorem modCore_dev (s : State) (c : Nat) (f : Core → Core) : (s.modCore c f).dev = s.dev := rfl
@[simp] theorem modCore_handed (s : State) (c : Nat) (f : Core → Core) : (s.modCore c f).handed = s.handed := rfl
@[simp] theorem modCore_fetched (s : State) (c : Nat) (f : Core → Core) : (s.modCore c f).fetched = s.fetched := rfl
@[simp] theorem modCore_served (s : State) (c : Nat) (f : Core → Core) : (s.modCore c f).served = s.served := rfl

@[simp] theorem modEvq_agenda (s : State) (e : Nat) (f : Evq → Evq) : (s.modEvq e f).agenda = s.agenda := rfl
@[simp] theorem modEvq_fresh (s : State) (e : Nat) (f : Evq → Evq) : (s.modEvq e f).fresh = s.fresh := rfl
@[simp] theorem modEvq_nextId (s : State) (e : Nat) (f : Evq → Evq) : (s.modEvq e f).nextId = s.nextId := rfl
@[simp] theorem modEvq_time (s : State) (e : Nat) (f : Evq → Evq) : (s.modEvq e f).time = s.time := rfl
@[simp] theorem modEvq_lag (s : State) (e : Nat) (f : Evq → Evq) : (s.modEvq e f).lag = s.lag := rfl
@[simp] theorem modEvq_focus (s : State) (e : Nat) (f : Evq → Evq) : (s.modEvq e f).focus = s.focus := rfl
@[simp] theorem modEvq_runs (s : State) (e : Nat) (f : Evq → Evq) : (s.modEvq e f).runs = s.runs := rfl
@[simp] theorem modEvq_waves (s : State) (e : Nat) (f : Evq → Evq) : (s.modEvq e f).waves = s.waves := rfl
@[simp] theorem modEvq_wgs (s : State) (e : Nat) (f : Evq → Evq) : (s.modEvq e f).wgs = s.wgs := rfl
@[simp] theorem modEvq_parked (s : State) (e : Nat) (f : Evq → Evq) : (s.modEvq e f).parked = s.parked := rfl
@[simp] theorem modEvq_fused (s : State) (e : Nat) (f : Evq → Evq) : (s.modEvq e f).fused = s.fused := rfl
@[simp] theorem modEvq_l1Locks (s : State) (e : Nat) (f : Evq → Evq) : (s.modEvq e f).l1Locks = s.l1Locks := rfl
@[simp] theorem modEvq_l2Locks (s : State) (e : Nat) (f : Evq → Evq) : (s.modEvq e f).l2Locks = s.l2Locks := rfl
@[simp] theorem modEvq_cores (s : State) (e : Nat) (f : Evq → Evq) : (s.modEvq e f).cores = s.cores := rfl
@[simp] theorem modEvq_hbm (s : State) (e : Nat) (f : Evq → Evq) : (s.modEvq e f).hbm = s.hbm := rfl
@[simp] theorem modEvq_host (s : State) (e : Nat) (f : Evq → Evq) : (s.modEvq e f).host = s.host := rfl
@[simp] theorem modEvq_peer (s : State) (e : Nat) (f : Evq → Evq) : (s.modEvq e f).peer = s.peer := rfl
@[simp] theorem modEvq_spad (s : State) (e : Nat) (f : Evq → Evq) : (s.modEvq e f).spad = s.spad := rfl
@[simp] theorem modEvq_hbmTag (s : State) (e : Nat) (f : Evq → Evq) : (s.modEvq e f).hbmTag = s.hbmTag := rfl
@[simp] theorem modEvq_hbmPoison (s : State) (e : Nat) (f : Evq → Evq) : (s.modEvq e f).hbmPoison = s.hbmPoison := rfl
@[simp] theorem modEvq_stores (s : State) (e : Nat) (f : Evq → Evq) : (s.modEvq e f).stores = s.stores := rfl
@[simp] theorem modEvq_touched (s : State) (e : Nat) (f : Evq → Evq) : (s.modEvq e f).touched = s.touched := rfl
@[simp] theorem modEvq_stale (s : State) (e : Nat) (f : Evq → Evq) : (s.modEvq e f).stale = s.stale := rfl
@[simp] theorem modEvq_astps (s : State) (e : Nat) (f : Evq → Evq) : (s.modEvq e f).astps = s.astps := rfl
@[simp] theorem modEvq_copies (s : State) (e : Nat) (f : Evq → Evq) : (s.modEvq e f).copies = s.copies := rfl
@[simp] theorem modEvq_pairs (s : State) (e : Nat) (f : Evq → Evq) : (s.modEvq e f).pairs = s.pairs := rfl
@[simp] theorem modEvq_rays (s : State) (e : Nat) (f : Evq → Evq) : (s.modEvq e f).rays = s.rays := rfl
@[simp] theorem modEvq_tlb (s : State) (e : Nat) (f : Evq → Evq) : (s.modEvq e f).tlb = s.tlb := rfl
@[simp] theorem modEvq_ptrs (s : State) (e : Nat) (f : Evq → Evq) : (s.modEvq e f).ptrs = s.ptrs := rfl
@[simp] theorem modEvq_icache (s : State) (e : Nat) (f : Evq → Evq) : (s.modEvq e f).icache = s.icache := rfl
@[simp] theorem modEvq_loopBufs (s : State) (e : Nat) (f : Evq → Evq) : (s.modEvq e f).loopBufs = s.loopBufs := rfl
@[simp] theorem modEvq_faultRings (s : State) (e : Nat) (f : Evq → Evq) : (s.modEvq e f).faultRings = s.faultRings := rfl
@[simp] theorem modEvq_partitions (s : State) (e : Nat) (f : Evq → Evq) : (s.modEvq e f).partitions = s.partitions := rfl
@[simp] theorem modEvq_contexts (s : State) (e : Nat) (f : Evq → Evq) : (s.modEvq e f).contexts = s.contexts := rfl
@[simp] theorem modEvq_grids (s : State) (e : Nat) (f : Evq → Evq) : (s.modEvq e f).grids = s.grids := rfl
@[simp] theorem modEvq_draws (s : State) (e : Nat) (f : Evq → Evq) : (s.modEvq e f).draws = s.draws := rfl
@[simp] theorem modEvq_evqs (s : State) (e : Nat) (f : Evq → Evq) : (s.modEvq e f).evqs = kput s.evqs e (f (s.evq e)) := rfl
@[simp] theorem modEvq_traces (s : State) (e : Nat) (f : Evq → Evq) : (s.modEvq e f).traces = s.traces := rfl
@[simp] theorem modEvq_keys (s : State) (e : Nat) (f : Evq → Evq) : (s.modEvq e f).keys = s.keys := rfl
@[simp] theorem modEvq_queues (s : State) (e : Nat) (f : Evq → Evq) : (s.modEvq e f).queues = s.queues := rfl
@[simp] theorem modEvq_unmasked (s : State) (e : Nat) (f : Evq → Evq) : (s.modEvq e f).unmasked = s.unmasked := rfl
@[simp] theorem modEvq_funcMask (s : State) (e : Nat) (f : Evq → Evq) : (s.modEvq e f).funcMask = s.funcMask := rfl
@[simp] theorem modEvq_msixPending (s : State) (e : Nat) (f : Evq → Evq) : (s.modEvq e f).msixPending = s.msixPending := rfl
@[simp] theorem modEvq_msixSent (s : State) (e : Nat) (f : Evq → Evq) : (s.modEvq e f).msixSent = s.msixSent := rfl
@[simp] theorem modEvq_muted (s : State) (e : Nat) (f : Evq → Evq) : (s.modEvq e f).muted = s.muted := rfl
@[simp] theorem modEvq_dev (s : State) (e : Nat) (f : Evq → Evq) : (s.modEvq e f).dev = s.dev := rfl
@[simp] theorem modEvq_handed (s : State) (e : Nat) (f : Evq → Evq) : (s.modEvq e f).handed = s.handed := rfl
@[simp] theorem modEvq_fetched (s : State) (e : Nat) (f : Evq → Evq) : (s.modEvq e f).fetched = s.fetched := rfl
@[simp] theorem modEvq_served (s : State) (e : Nat) (f : Evq → Evq) : (s.modEvq e f).served = s.served := rfl

@[simp] theorem modQueue_agenda (s : State) (q : Nat) (f : HostQueue → HostQueue) : (s.modQueue q f).agenda = s.agenda := rfl
@[simp] theorem modQueue_fresh (s : State) (q : Nat) (f : HostQueue → HostQueue) : (s.modQueue q f).fresh = s.fresh := rfl
@[simp] theorem modQueue_nextId (s : State) (q : Nat) (f : HostQueue → HostQueue) : (s.modQueue q f).nextId = s.nextId := rfl
@[simp] theorem modQueue_time (s : State) (q : Nat) (f : HostQueue → HostQueue) : (s.modQueue q f).time = s.time := rfl
@[simp] theorem modQueue_lag (s : State) (q : Nat) (f : HostQueue → HostQueue) : (s.modQueue q f).lag = s.lag := rfl
@[simp] theorem modQueue_focus (s : State) (q : Nat) (f : HostQueue → HostQueue) : (s.modQueue q f).focus = s.focus := rfl
@[simp] theorem modQueue_runs (s : State) (q : Nat) (f : HostQueue → HostQueue) : (s.modQueue q f).runs = s.runs := rfl
@[simp] theorem modQueue_waves (s : State) (q : Nat) (f : HostQueue → HostQueue) : (s.modQueue q f).waves = s.waves := rfl
@[simp] theorem modQueue_wgs (s : State) (q : Nat) (f : HostQueue → HostQueue) : (s.modQueue q f).wgs = s.wgs := rfl
@[simp] theorem modQueue_parked (s : State) (q : Nat) (f : HostQueue → HostQueue) : (s.modQueue q f).parked = s.parked := rfl
@[simp] theorem modQueue_fused (s : State) (q : Nat) (f : HostQueue → HostQueue) : (s.modQueue q f).fused = s.fused := rfl
@[simp] theorem modQueue_l1Locks (s : State) (q : Nat) (f : HostQueue → HostQueue) : (s.modQueue q f).l1Locks = s.l1Locks := rfl
@[simp] theorem modQueue_l2Locks (s : State) (q : Nat) (f : HostQueue → HostQueue) : (s.modQueue q f).l2Locks = s.l2Locks := rfl
@[simp] theorem modQueue_cores (s : State) (q : Nat) (f : HostQueue → HostQueue) : (s.modQueue q f).cores = s.cores := rfl
@[simp] theorem modQueue_hbm (s : State) (q : Nat) (f : HostQueue → HostQueue) : (s.modQueue q f).hbm = s.hbm := rfl
@[simp] theorem modQueue_host (s : State) (q : Nat) (f : HostQueue → HostQueue) : (s.modQueue q f).host = s.host := rfl
@[simp] theorem modQueue_peer (s : State) (q : Nat) (f : HostQueue → HostQueue) : (s.modQueue q f).peer = s.peer := rfl
@[simp] theorem modQueue_spad (s : State) (q : Nat) (f : HostQueue → HostQueue) : (s.modQueue q f).spad = s.spad := rfl
@[simp] theorem modQueue_hbmTag (s : State) (q : Nat) (f : HostQueue → HostQueue) : (s.modQueue q f).hbmTag = s.hbmTag := rfl
@[simp] theorem modQueue_hbmPoison (s : State) (q : Nat) (f : HostQueue → HostQueue) : (s.modQueue q f).hbmPoison = s.hbmPoison := rfl
@[simp] theorem modQueue_stores (s : State) (q : Nat) (f : HostQueue → HostQueue) : (s.modQueue q f).stores = s.stores := rfl
@[simp] theorem modQueue_touched (s : State) (q : Nat) (f : HostQueue → HostQueue) : (s.modQueue q f).touched = s.touched := rfl
@[simp] theorem modQueue_stale (s : State) (q : Nat) (f : HostQueue → HostQueue) : (s.modQueue q f).stale = s.stale := rfl
@[simp] theorem modQueue_astps (s : State) (q : Nat) (f : HostQueue → HostQueue) : (s.modQueue q f).astps = s.astps := rfl
@[simp] theorem modQueue_copies (s : State) (q : Nat) (f : HostQueue → HostQueue) : (s.modQueue q f).copies = s.copies := rfl
@[simp] theorem modQueue_pairs (s : State) (q : Nat) (f : HostQueue → HostQueue) : (s.modQueue q f).pairs = s.pairs := rfl
@[simp] theorem modQueue_rays (s : State) (q : Nat) (f : HostQueue → HostQueue) : (s.modQueue q f).rays = s.rays := rfl
@[simp] theorem modQueue_tlb (s : State) (q : Nat) (f : HostQueue → HostQueue) : (s.modQueue q f).tlb = s.tlb := rfl
@[simp] theorem modQueue_ptrs (s : State) (q : Nat) (f : HostQueue → HostQueue) : (s.modQueue q f).ptrs = s.ptrs := rfl
@[simp] theorem modQueue_icache (s : State) (q : Nat) (f : HostQueue → HostQueue) : (s.modQueue q f).icache = s.icache := rfl
@[simp] theorem modQueue_loopBufs (s : State) (q : Nat) (f : HostQueue → HostQueue) : (s.modQueue q f).loopBufs = s.loopBufs := rfl
@[simp] theorem modQueue_faultRings (s : State) (q : Nat) (f : HostQueue → HostQueue) : (s.modQueue q f).faultRings = s.faultRings := rfl
@[simp] theorem modQueue_partitions (s : State) (q : Nat) (f : HostQueue → HostQueue) : (s.modQueue q f).partitions = s.partitions := rfl
@[simp] theorem modQueue_contexts (s : State) (q : Nat) (f : HostQueue → HostQueue) : (s.modQueue q f).contexts = s.contexts := rfl
@[simp] theorem modQueue_grids (s : State) (q : Nat) (f : HostQueue → HostQueue) : (s.modQueue q f).grids = s.grids := rfl
@[simp] theorem modQueue_draws (s : State) (q : Nat) (f : HostQueue → HostQueue) : (s.modQueue q f).draws = s.draws := rfl
@[simp] theorem modQueue_evqs (s : State) (q : Nat) (f : HostQueue → HostQueue) : (s.modQueue q f).evqs = s.evqs := rfl
@[simp] theorem modQueue_traces (s : State) (q : Nat) (f : HostQueue → HostQueue) : (s.modQueue q f).traces = s.traces := rfl
@[simp] theorem modQueue_keys (s : State) (q : Nat) (f : HostQueue → HostQueue) : (s.modQueue q f).keys = s.keys := rfl
@[simp] theorem modQueue_queues (s : State) (q : Nat) (f : HostQueue → HostQueue) : (s.modQueue q f).queues = kput s.queues q (f (s.queue q)) := rfl
@[simp] theorem modQueue_unmasked (s : State) (q : Nat) (f : HostQueue → HostQueue) : (s.modQueue q f).unmasked = s.unmasked := rfl
@[simp] theorem modQueue_funcMask (s : State) (q : Nat) (f : HostQueue → HostQueue) : (s.modQueue q f).funcMask = s.funcMask := rfl
@[simp] theorem modQueue_msixPending (s : State) (q : Nat) (f : HostQueue → HostQueue) : (s.modQueue q f).msixPending = s.msixPending := rfl
@[simp] theorem modQueue_msixSent (s : State) (q : Nat) (f : HostQueue → HostQueue) : (s.modQueue q f).msixSent = s.msixSent := rfl
@[simp] theorem modQueue_muted (s : State) (q : Nat) (f : HostQueue → HostQueue) : (s.modQueue q f).muted = s.muted := rfl
@[simp] theorem modQueue_dev (s : State) (q : Nat) (f : HostQueue → HostQueue) : (s.modQueue q f).dev = s.dev := rfl
@[simp] theorem modQueue_handed (s : State) (q : Nat) (f : HostQueue → HostQueue) : (s.modQueue q f).handed = s.handed := rfl
@[simp] theorem modQueue_fetched (s : State) (q : Nat) (f : HostQueue → HostQueue) : (s.modQueue q f).fetched = s.fetched := rfl
@[simp] theorem modQueue_served (s : State) (q : Nat) (f : HostQueue → HostQueue) : (s.modQueue q f).served = s.served := rfl

@[simp] theorem modPacket_agenda (s : State) (q seq : Nat) (f : Packet → Packet) : (s.modPacket q seq f).agenda = s.agenda := rfl
@[simp] theorem modPacket_fresh (s : State) (q seq : Nat) (f : Packet → Packet) : (s.modPacket q seq f).fresh = s.fresh := rfl
@[simp] theorem modPacket_nextId (s : State) (q seq : Nat) (f : Packet → Packet) : (s.modPacket q seq f).nextId = s.nextId := rfl
@[simp] theorem modPacket_time (s : State) (q seq : Nat) (f : Packet → Packet) : (s.modPacket q seq f).time = s.time := rfl
@[simp] theorem modPacket_lag (s : State) (q seq : Nat) (f : Packet → Packet) : (s.modPacket q seq f).lag = s.lag := rfl
@[simp] theorem modPacket_focus (s : State) (q seq : Nat) (f : Packet → Packet) : (s.modPacket q seq f).focus = s.focus := rfl
@[simp] theorem modPacket_runs (s : State) (q seq : Nat) (f : Packet → Packet) : (s.modPacket q seq f).runs = s.runs := rfl
@[simp] theorem modPacket_waves (s : State) (q seq : Nat) (f : Packet → Packet) : (s.modPacket q seq f).waves = s.waves := rfl
@[simp] theorem modPacket_wgs (s : State) (q seq : Nat) (f : Packet → Packet) : (s.modPacket q seq f).wgs = s.wgs := rfl
@[simp] theorem modPacket_parked (s : State) (q seq : Nat) (f : Packet → Packet) : (s.modPacket q seq f).parked = s.parked := rfl
@[simp] theorem modPacket_fused (s : State) (q seq : Nat) (f : Packet → Packet) : (s.modPacket q seq f).fused = s.fused := rfl
@[simp] theorem modPacket_l1Locks (s : State) (q seq : Nat) (f : Packet → Packet) : (s.modPacket q seq f).l1Locks = s.l1Locks := rfl
@[simp] theorem modPacket_l2Locks (s : State) (q seq : Nat) (f : Packet → Packet) : (s.modPacket q seq f).l2Locks = s.l2Locks := rfl
@[simp] theorem modPacket_cores (s : State) (q seq : Nat) (f : Packet → Packet) : (s.modPacket q seq f).cores = s.cores := rfl
@[simp] theorem modPacket_hbm (s : State) (q seq : Nat) (f : Packet → Packet) : (s.modPacket q seq f).hbm = s.hbm := rfl
@[simp] theorem modPacket_host (s : State) (q seq : Nat) (f : Packet → Packet) : (s.modPacket q seq f).host = s.host := rfl
@[simp] theorem modPacket_peer (s : State) (q seq : Nat) (f : Packet → Packet) : (s.modPacket q seq f).peer = s.peer := rfl
@[simp] theorem modPacket_spad (s : State) (q seq : Nat) (f : Packet → Packet) : (s.modPacket q seq f).spad = s.spad := rfl
@[simp] theorem modPacket_hbmTag (s : State) (q seq : Nat) (f : Packet → Packet) : (s.modPacket q seq f).hbmTag = s.hbmTag := rfl
@[simp] theorem modPacket_hbmPoison (s : State) (q seq : Nat) (f : Packet → Packet) : (s.modPacket q seq f).hbmPoison = s.hbmPoison := rfl
@[simp] theorem modPacket_stores (s : State) (q seq : Nat) (f : Packet → Packet) : (s.modPacket q seq f).stores = s.stores := rfl
@[simp] theorem modPacket_touched (s : State) (q seq : Nat) (f : Packet → Packet) : (s.modPacket q seq f).touched = s.touched := rfl
@[simp] theorem modPacket_stale (s : State) (q seq : Nat) (f : Packet → Packet) : (s.modPacket q seq f).stale = s.stale := rfl
@[simp] theorem modPacket_astps (s : State) (q seq : Nat) (f : Packet → Packet) : (s.modPacket q seq f).astps = s.astps := rfl
@[simp] theorem modPacket_copies (s : State) (q seq : Nat) (f : Packet → Packet) : (s.modPacket q seq f).copies = s.copies := rfl
@[simp] theorem modPacket_pairs (s : State) (q seq : Nat) (f : Packet → Packet) : (s.modPacket q seq f).pairs = s.pairs := rfl
@[simp] theorem modPacket_rays (s : State) (q seq : Nat) (f : Packet → Packet) : (s.modPacket q seq f).rays = s.rays := rfl
@[simp] theorem modPacket_tlb (s : State) (q seq : Nat) (f : Packet → Packet) : (s.modPacket q seq f).tlb = s.tlb := rfl
@[simp] theorem modPacket_ptrs (s : State) (q seq : Nat) (f : Packet → Packet) : (s.modPacket q seq f).ptrs = s.ptrs := rfl
@[simp] theorem modPacket_icache (s : State) (q seq : Nat) (f : Packet → Packet) : (s.modPacket q seq f).icache = s.icache := rfl
@[simp] theorem modPacket_loopBufs (s : State) (q seq : Nat) (f : Packet → Packet) : (s.modPacket q seq f).loopBufs = s.loopBufs := rfl
@[simp] theorem modPacket_faultRings (s : State) (q seq : Nat) (f : Packet → Packet) : (s.modPacket q seq f).faultRings = s.faultRings := rfl
@[simp] theorem modPacket_partitions (s : State) (q seq : Nat) (f : Packet → Packet) : (s.modPacket q seq f).partitions = s.partitions := rfl
@[simp] theorem modPacket_contexts (s : State) (q seq : Nat) (f : Packet → Packet) : (s.modPacket q seq f).contexts = s.contexts := rfl
@[simp] theorem modPacket_grids (s : State) (q seq : Nat) (f : Packet → Packet) : (s.modPacket q seq f).grids = s.grids := rfl
@[simp] theorem modPacket_draws (s : State) (q seq : Nat) (f : Packet → Packet) : (s.modPacket q seq f).draws = s.draws := rfl
@[simp] theorem modPacket_evqs (s : State) (q seq : Nat) (f : Packet → Packet) : (s.modPacket q seq f).evqs = s.evqs := rfl
@[simp] theorem modPacket_traces (s : State) (q seq : Nat) (f : Packet → Packet) : (s.modPacket q seq f).traces = s.traces := rfl
@[simp] theorem modPacket_keys (s : State) (q seq : Nat) (f : Packet → Packet) : (s.modPacket q seq f).keys = s.keys := rfl
@[simp] theorem modPacket_unmasked (s : State) (q seq : Nat) (f : Packet → Packet) : (s.modPacket q seq f).unmasked = s.unmasked := rfl
@[simp] theorem modPacket_funcMask (s : State) (q seq : Nat) (f : Packet → Packet) : (s.modPacket q seq f).funcMask = s.funcMask := rfl
@[simp] theorem modPacket_msixPending (s : State) (q seq : Nat) (f : Packet → Packet) : (s.modPacket q seq f).msixPending = s.msixPending := rfl
@[simp] theorem modPacket_msixSent (s : State) (q seq : Nat) (f : Packet → Packet) : (s.modPacket q seq f).msixSent = s.msixSent := rfl
@[simp] theorem modPacket_muted (s : State) (q seq : Nat) (f : Packet → Packet) : (s.modPacket q seq f).muted = s.muted := rfl
@[simp] theorem modPacket_dev (s : State) (q seq : Nat) (f : Packet → Packet) : (s.modPacket q seq f).dev = s.dev := rfl
@[simp] theorem modPacket_handed (s : State) (q seq : Nat) (f : Packet → Packet) : (s.modPacket q seq f).handed = s.handed := rfl
@[simp] theorem modPacket_fetched (s : State) (q seq : Nat) (f : Packet → Packet) : (s.modPacket q seq f).fetched = s.fetched := rfl
@[simp] theorem modPacket_served (s : State) (q seq : Nat) (f : Packet → Packet) : (s.modPacket q seq f).served = s.served := rfl

@[simp] theorem modDraw_agenda (s : State) (d : Nat) (f : Draw → Draw) : (s.modDraw d f).agenda = s.agenda := rfl
@[simp] theorem modDraw_fresh (s : State) (d : Nat) (f : Draw → Draw) : (s.modDraw d f).fresh = s.fresh := rfl
@[simp] theorem modDraw_nextId (s : State) (d : Nat) (f : Draw → Draw) : (s.modDraw d f).nextId = s.nextId := rfl
@[simp] theorem modDraw_time (s : State) (d : Nat) (f : Draw → Draw) : (s.modDraw d f).time = s.time := rfl
@[simp] theorem modDraw_lag (s : State) (d : Nat) (f : Draw → Draw) : (s.modDraw d f).lag = s.lag := rfl
@[simp] theorem modDraw_focus (s : State) (d : Nat) (f : Draw → Draw) : (s.modDraw d f).focus = s.focus := rfl
@[simp] theorem modDraw_runs (s : State) (d : Nat) (f : Draw → Draw) : (s.modDraw d f).runs = s.runs := rfl
@[simp] theorem modDraw_waves (s : State) (d : Nat) (f : Draw → Draw) : (s.modDraw d f).waves = s.waves := rfl
@[simp] theorem modDraw_wgs (s : State) (d : Nat) (f : Draw → Draw) : (s.modDraw d f).wgs = s.wgs := rfl
@[simp] theorem modDraw_parked (s : State) (d : Nat) (f : Draw → Draw) : (s.modDraw d f).parked = s.parked := rfl
@[simp] theorem modDraw_fused (s : State) (d : Nat) (f : Draw → Draw) : (s.modDraw d f).fused = s.fused := rfl
@[simp] theorem modDraw_l1Locks (s : State) (d : Nat) (f : Draw → Draw) : (s.modDraw d f).l1Locks = s.l1Locks := rfl
@[simp] theorem modDraw_l2Locks (s : State) (d : Nat) (f : Draw → Draw) : (s.modDraw d f).l2Locks = s.l2Locks := rfl
@[simp] theorem modDraw_cores (s : State) (d : Nat) (f : Draw → Draw) : (s.modDraw d f).cores = s.cores := rfl
@[simp] theorem modDraw_hbm (s : State) (d : Nat) (f : Draw → Draw) : (s.modDraw d f).hbm = s.hbm := rfl
@[simp] theorem modDraw_host (s : State) (d : Nat) (f : Draw → Draw) : (s.modDraw d f).host = s.host := rfl
@[simp] theorem modDraw_peer (s : State) (d : Nat) (f : Draw → Draw) : (s.modDraw d f).peer = s.peer := rfl
@[simp] theorem modDraw_spad (s : State) (d : Nat) (f : Draw → Draw) : (s.modDraw d f).spad = s.spad := rfl
@[simp] theorem modDraw_hbmTag (s : State) (d : Nat) (f : Draw → Draw) : (s.modDraw d f).hbmTag = s.hbmTag := rfl
@[simp] theorem modDraw_hbmPoison (s : State) (d : Nat) (f : Draw → Draw) : (s.modDraw d f).hbmPoison = s.hbmPoison := rfl
@[simp] theorem modDraw_stores (s : State) (d : Nat) (f : Draw → Draw) : (s.modDraw d f).stores = s.stores := rfl
@[simp] theorem modDraw_touched (s : State) (d : Nat) (f : Draw → Draw) : (s.modDraw d f).touched = s.touched := rfl
@[simp] theorem modDraw_stale (s : State) (d : Nat) (f : Draw → Draw) : (s.modDraw d f).stale = s.stale := rfl
@[simp] theorem modDraw_astps (s : State) (d : Nat) (f : Draw → Draw) : (s.modDraw d f).astps = s.astps := rfl
@[simp] theorem modDraw_copies (s : State) (d : Nat) (f : Draw → Draw) : (s.modDraw d f).copies = s.copies := rfl
@[simp] theorem modDraw_pairs (s : State) (d : Nat) (f : Draw → Draw) : (s.modDraw d f).pairs = s.pairs := rfl
@[simp] theorem modDraw_rays (s : State) (d : Nat) (f : Draw → Draw) : (s.modDraw d f).rays = s.rays := rfl
@[simp] theorem modDraw_tlb (s : State) (d : Nat) (f : Draw → Draw) : (s.modDraw d f).tlb = s.tlb := rfl
@[simp] theorem modDraw_ptrs (s : State) (d : Nat) (f : Draw → Draw) : (s.modDraw d f).ptrs = s.ptrs := rfl
@[simp] theorem modDraw_icache (s : State) (d : Nat) (f : Draw → Draw) : (s.modDraw d f).icache = s.icache := rfl
@[simp] theorem modDraw_loopBufs (s : State) (d : Nat) (f : Draw → Draw) : (s.modDraw d f).loopBufs = s.loopBufs := rfl
@[simp] theorem modDraw_faultRings (s : State) (d : Nat) (f : Draw → Draw) : (s.modDraw d f).faultRings = s.faultRings := rfl
@[simp] theorem modDraw_partitions (s : State) (d : Nat) (f : Draw → Draw) : (s.modDraw d f).partitions = s.partitions := rfl
@[simp] theorem modDraw_contexts (s : State) (d : Nat) (f : Draw → Draw) : (s.modDraw d f).contexts = s.contexts := rfl
@[simp] theorem modDraw_grids (s : State) (d : Nat) (f : Draw → Draw) : (s.modDraw d f).grids = s.grids := rfl
@[simp] theorem modDraw_draws (s : State) (d : Nat) (f : Draw → Draw) : (s.modDraw d f).draws = kmod f s.draws d := rfl
@[simp] theorem modDraw_evqs (s : State) (d : Nat) (f : Draw → Draw) : (s.modDraw d f).evqs = s.evqs := rfl
@[simp] theorem modDraw_traces (s : State) (d : Nat) (f : Draw → Draw) : (s.modDraw d f).traces = s.traces := rfl
@[simp] theorem modDraw_keys (s : State) (d : Nat) (f : Draw → Draw) : (s.modDraw d f).keys = s.keys := rfl
@[simp] theorem modDraw_queues (s : State) (d : Nat) (f : Draw → Draw) : (s.modDraw d f).queues = s.queues := rfl
@[simp] theorem modDraw_unmasked (s : State) (d : Nat) (f : Draw → Draw) : (s.modDraw d f).unmasked = s.unmasked := rfl
@[simp] theorem modDraw_funcMask (s : State) (d : Nat) (f : Draw → Draw) : (s.modDraw d f).funcMask = s.funcMask := rfl
@[simp] theorem modDraw_msixPending (s : State) (d : Nat) (f : Draw → Draw) : (s.modDraw d f).msixPending = s.msixPending := rfl
@[simp] theorem modDraw_msixSent (s : State) (d : Nat) (f : Draw → Draw) : (s.modDraw d f).msixSent = s.msixSent := rfl
@[simp] theorem modDraw_muted (s : State) (d : Nat) (f : Draw → Draw) : (s.modDraw d f).muted = s.muted := rfl
@[simp] theorem modDraw_dev (s : State) (d : Nat) (f : Draw → Draw) : (s.modDraw d f).dev = s.dev := rfl
@[simp] theorem modDraw_handed (s : State) (d : Nat) (f : Draw → Draw) : (s.modDraw d f).handed = s.handed := rfl
@[simp] theorem modDraw_fetched (s : State) (d : Nat) (f : Draw → Draw) : (s.modDraw d f).fetched = s.fetched := rfl
@[simp] theorem modDraw_served (s : State) (d : Nat) (f : Draw → Draw) : (s.modDraw d f).served = s.served := rfl

@[simp] theorem setMem_agenda (s : State) (m : Mem) (x : Memory) : (s.setMem m x).agenda = s.agenda := by cases m <;> rfl
@[simp] theorem setMem_fresh (s : State) (m : Mem) (x : Memory) : (s.setMem m x).fresh = s.fresh := by cases m <;> rfl
@[simp] theorem setMem_nextId (s : State) (m : Mem) (x : Memory) : (s.setMem m x).nextId = s.nextId := by cases m <;> rfl
@[simp] theorem setMem_time (s : State) (m : Mem) (x : Memory) : (s.setMem m x).time = s.time := by cases m <;> rfl
@[simp] theorem setMem_lag (s : State) (m : Mem) (x : Memory) : (s.setMem m x).lag = s.lag := by cases m <;> rfl
@[simp] theorem setMem_focus (s : State) (m : Mem) (x : Memory) : (s.setMem m x).focus = s.focus := by cases m <;> rfl
@[simp] theorem setMem_runs (s : State) (m : Mem) (x : Memory) : (s.setMem m x).runs = s.runs := by cases m <;> rfl
@[simp] theorem setMem_waves (s : State) (m : Mem) (x : Memory) : (s.setMem m x).waves = s.waves := by cases m <;> rfl
@[simp] theorem setMem_wgs (s : State) (m : Mem) (x : Memory) : (s.setMem m x).wgs = s.wgs := by cases m <;> rfl
@[simp] theorem setMem_parked (s : State) (m : Mem) (x : Memory) : (s.setMem m x).parked = s.parked := by cases m <;> rfl
@[simp] theorem setMem_fused (s : State) (m : Mem) (x : Memory) : (s.setMem m x).fused = s.fused := by cases m <;> rfl
@[simp] theorem setMem_l1Locks (s : State) (m : Mem) (x : Memory) : (s.setMem m x).l1Locks = s.l1Locks := by cases m <;> rfl
@[simp] theorem setMem_l2Locks (s : State) (m : Mem) (x : Memory) : (s.setMem m x).l2Locks = s.l2Locks := by cases m <;> rfl
@[simp] theorem setMem_cores (s : State) (m : Mem) (x : Memory) : (s.setMem m x).cores = s.cores := by cases m <;> rfl
@[simp] theorem setMem_hbmTag (s : State) (m : Mem) (x : Memory) : (s.setMem m x).hbmTag = s.hbmTag := by cases m <;> rfl
@[simp] theorem setMem_hbmPoison (s : State) (m : Mem) (x : Memory) : (s.setMem m x).hbmPoison = s.hbmPoison := by cases m <;> rfl
@[simp] theorem setMem_stores (s : State) (m : Mem) (x : Memory) : (s.setMem m x).stores = s.stores := by cases m <;> rfl
@[simp] theorem setMem_touched (s : State) (m : Mem) (x : Memory) : (s.setMem m x).touched = s.touched := by cases m <;> rfl
@[simp] theorem setMem_stale (s : State) (m : Mem) (x : Memory) : (s.setMem m x).stale = s.stale := by cases m <;> rfl
@[simp] theorem setMem_astps (s : State) (m : Mem) (x : Memory) : (s.setMem m x).astps = s.astps := by cases m <;> rfl
@[simp] theorem setMem_copies (s : State) (m : Mem) (x : Memory) : (s.setMem m x).copies = s.copies := by cases m <;> rfl
@[simp] theorem setMem_pairs (s : State) (m : Mem) (x : Memory) : (s.setMem m x).pairs = s.pairs := by cases m <;> rfl
@[simp] theorem setMem_rays (s : State) (m : Mem) (x : Memory) : (s.setMem m x).rays = s.rays := by cases m <;> rfl
@[simp] theorem setMem_tlb (s : State) (m : Mem) (x : Memory) : (s.setMem m x).tlb = s.tlb := by cases m <;> rfl
@[simp] theorem setMem_ptrs (s : State) (m : Mem) (x : Memory) : (s.setMem m x).ptrs = s.ptrs := by cases m <;> rfl
@[simp] theorem setMem_icache (s : State) (m : Mem) (x : Memory) : (s.setMem m x).icache = s.icache := by cases m <;> rfl
@[simp] theorem setMem_loopBufs (s : State) (m : Mem) (x : Memory) : (s.setMem m x).loopBufs = s.loopBufs := by cases m <;> rfl
@[simp] theorem setMem_faultRings (s : State) (m : Mem) (x : Memory) : (s.setMem m x).faultRings = s.faultRings := by cases m <;> rfl
@[simp] theorem setMem_partitions (s : State) (m : Mem) (x : Memory) : (s.setMem m x).partitions = s.partitions := by cases m <;> rfl
@[simp] theorem setMem_contexts (s : State) (m : Mem) (x : Memory) : (s.setMem m x).contexts = s.contexts := by cases m <;> rfl
@[simp] theorem setMem_grids (s : State) (m : Mem) (x : Memory) : (s.setMem m x).grids = s.grids := by cases m <;> rfl
@[simp] theorem setMem_draws (s : State) (m : Mem) (x : Memory) : (s.setMem m x).draws = s.draws := by cases m <;> rfl
@[simp] theorem setMem_evqs (s : State) (m : Mem) (x : Memory) : (s.setMem m x).evqs = s.evqs := by cases m <;> rfl
@[simp] theorem setMem_traces (s : State) (m : Mem) (x : Memory) : (s.setMem m x).traces = s.traces := by cases m <;> rfl
@[simp] theorem setMem_keys (s : State) (m : Mem) (x : Memory) : (s.setMem m x).keys = s.keys := by cases m <;> rfl
@[simp] theorem setMem_queues (s : State) (m : Mem) (x : Memory) : (s.setMem m x).queues = s.queues := by cases m <;> rfl
@[simp] theorem setMem_unmasked (s : State) (m : Mem) (x : Memory) : (s.setMem m x).unmasked = s.unmasked := by cases m <;> rfl
@[simp] theorem setMem_funcMask (s : State) (m : Mem) (x : Memory) : (s.setMem m x).funcMask = s.funcMask := by cases m <;> rfl
@[simp] theorem setMem_msixPending (s : State) (m : Mem) (x : Memory) : (s.setMem m x).msixPending = s.msixPending := by cases m <;> rfl
@[simp] theorem setMem_msixSent (s : State) (m : Mem) (x : Memory) : (s.setMem m x).msixSent = s.msixSent := by cases m <;> rfl
@[simp] theorem setMem_muted (s : State) (m : Mem) (x : Memory) : (s.setMem m x).muted = s.muted := by cases m <;> rfl
@[simp] theorem setMem_dev (s : State) (m : Mem) (x : Memory) : (s.setMem m x).dev = s.dev := by cases m <;> rfl
@[simp] theorem setMem_handed (s : State) (m : Mem) (x : Memory) : (s.setMem m x).handed = s.handed := by cases m <;> rfl
@[simp] theorem setMem_fetched (s : State) (m : Mem) (x : Memory) : (s.setMem m x).fetched = s.fetched := by cases m <;> rfl
@[simp] theorem setMem_served (s : State) (m : Mem) (x : Memory) : (s.setMem m x).served = s.served := by cases m <;> rfl

@[simp] theorem memOf_setMem_same (s : State) (m : Mem) (x : Memory) : (s.setMem m x).memOf m = x := by cases m <;> rfl

theorem memOf_setMem_other (s : State) (m m' : Mem) (x : Memory) (h : m' ≠ m) : (s.setMem m x).memOf m' = s.memOf m' := by
  cases m <;> cases m' <;> first | rfl | exact absurd rfl h

/-! ## Time and events -/

/-- Applying stores changes memories and their marks, and nothing else. -/
theorem applyStores_frame (xs : List Store) (s : State) : ∃ hb ht ho pe sp tc,
    applyStores s xs = { s with hbm := hb, hbmTag := ht, host := ho, peer := pe, spad := sp, touched := tc } := by
  induction xs generalizing s with
  | nil => exact ⟨_, _, _, _, _, _, rfl⟩
  | cons x xs ih =>
    obtain ⟨hb, ht, ho, pe, sp, tc, h⟩ := ih (baseWrite s x.mem x.tag x.addr x.bytes)
    refine ⟨hb, ht, ho, pe, sp, tc, ?_⟩
    rw [applyStores, h]
    cases x.mem <;> rfl

/-- Dropping copies changes nothing but the copies. -/
theorem dropL2s_frame (xs : List Store) (s : State) : ∃ st, xs.foldl (fun s x => dropL2 x s) s = { s with stale := st } := by
  induction xs generalizing s with
  | nil => exact ⟨_, rfl⟩
  | cons x xs ih =>
    obtain ⟨st, h⟩ := ih (dropL2 x s)
    exact ⟨st, by rw [List.foldl_cons, h]; rfl⟩

/-- Performing stores changes memories, their marks, the stores and the copies that may be old. -/
theorem performStores_frame (s : State) (sel : Store → Bool) (scope : Nat) : ∃ hb ht ho pe sp tc ss st,
    performStores s sel scope =
      { s with hbm := hb, hbmTag := ht, host := ho, peer := pe, spad := sp, touched := tc, stores := ss, stale := st } := by
  unfold performStores
  split
  · exact ⟨_, _, _, _, _, _, _, _, rfl⟩
  · dsimp only
    split
    · obtain ⟨hb, ht, ho, pe, sp, tc, h⟩ := applyStores_frame _ _
      rw [h]
      exact ⟨_, _, _, _, _, _, _, _, rfl⟩
    · obtain ⟨st, h1⟩ := dropL2s_frame _ s
      rw [h1]
      obtain ⟨hb, ht, ho, pe, sp, tc, h⟩ := applyStores_frame _ _
      rw [h]
      exact ⟨_, _, _, _, _, _, _, _, rfl⟩

/-- The passing of time changes the clocks, the cores' counts, the charges, and what the stores that fall due change. -/
theorem tick_frame (n : Nat) (s : State) : ∃ hb ht ho pe sp tc ss st lg co wg,
    tick n s =
      { s with time := s.time + n, lag := lg, cores := co, wgs := wg, hbm := hb, hbmTag := ht, host := ho, peer := pe, spad := sp,
               touched := tc, stores := ss, stale := st } := by
  unfold tick performOld
  obtain ⟨hb, ht, ho, pe, sp, tc, ss, st, h⟩ := performStores_frame { s with time := s.time + n, lag := lagAfter n s }
    (fun x => decide (x.time + 4000 ≤ s.time + n)) 5
  rw [h]
  unfold chargeCycles chargeWgs countCycles
  dsimp only
  split <;> exact ⟨_, _, _, _, _, _, _, _, _, _, _, rfl⟩

@[simp] theorem tick_agenda (n : Nat) (s : State) : (tick n s).agenda = s.agenda := by
  obtain ⟨_, _, _, _, _, _, _, _, _, _, _, h⟩ := tick_frame n s; rw [h]
@[simp] theorem tick_fresh (n : Nat) (s : State) : (tick n s).fresh = s.fresh := by
  obtain ⟨_, _, _, _, _, _, _, _, _, _, _, h⟩ := tick_frame n s; rw [h]
@[simp] theorem tick_nextId (n : Nat) (s : State) : (tick n s).nextId = s.nextId := by
  obtain ⟨_, _, _, _, _, _, _, _, _, _, _, h⟩ := tick_frame n s; rw [h]
@[simp] theorem tick_time (n : Nat) (s : State) : (tick n s).time = s.time + n := by
  obtain ⟨_, _, _, _, _, _, _, _, _, _, _, h⟩ := tick_frame n s; rw [h]
@[simp] theorem tick_focus (n : Nat) (s : State) : (tick n s).focus = s.focus := by
  obtain ⟨_, _, _, _, _, _, _, _, _, _, _, h⟩ := tick_frame n s; rw [h]
@[simp] theorem tick_runs (n : Nat) (s : State) : (tick n s).runs = s.runs := by
  obtain ⟨_, _, _, _, _, _, _, _, _, _, _, h⟩ := tick_frame n s; rw [h]
@[simp] theorem tick_waves (n : Nat) (s : State) : (tick n s).waves = s.waves := by
  obtain ⟨_, _, _, _, _, _, _, _, _, _, _, h⟩ := tick_frame n s; rw [h]
@[simp] theorem tick_parked (n : Nat) (s : State) : (tick n s).parked = s.parked := by
  obtain ⟨_, _, _, _, _, _, _, _, _, _, _, h⟩ := tick_frame n s; rw [h]
@[simp] theorem tick_fused (n : Nat) (s : State) : (tick n s).fused = s.fused := by
  obtain ⟨_, _, _, _, _, _, _, _, _, _, _, h⟩ := tick_frame n s; rw [h]
@[simp] theorem tick_l1Locks (n : Nat) (s : State) : (tick n s).l1Locks = s.l1Locks := by
  obtain ⟨_, _, _, _, _, _, _, _, _, _, _, h⟩ := tick_frame n s; rw [h]
@[simp] theorem tick_l2Locks (n : Nat) (s : State) : (tick n s).l2Locks = s.l2Locks := by
  obtain ⟨_, _, _, _, _, _, _, _, _, _, _, h⟩ := tick_frame n s; rw [h]
@[simp] theorem tick_hbmPoison (n : Nat) (s : State) : (tick n s).hbmPoison = s.hbmPoison := by
  obtain ⟨_, _, _, _, _, _, _, _, _, _, _, h⟩ := tick_frame n s; rw [h]
@[simp] theorem tick_astps (n : Nat) (s : State) : (tick n s).astps = s.astps := by
  obtain ⟨_, _, _, _, _, _, _, _, _, _, _, h⟩ := tick_frame n s; rw [h]
@[simp] theorem tick_copies (n : Nat) (s : State) : (tick n s).copies = s.copies := by
  obtain ⟨_, _, _, _, _, _, _, _, _, _, _, h⟩ := tick_frame n s; rw [h]
@[simp] theorem tick_pairs (n : Nat) (s : State) : (tick n s).pairs = s.pairs := by
  obtain ⟨_, _, _, _, _, _, _, _, _, _, _, h⟩ := tick_frame n s; rw [h]
@[simp] theorem tick_rays (n : Nat) (s : State) : (tick n s).rays = s.rays := by
  obtain ⟨_, _, _, _, _, _, _, _, _, _, _, h⟩ := tick_frame n s; rw [h]
@[simp] theorem tick_tlb (n : Nat) (s : State) : (tick n s).tlb = s.tlb := by
  obtain ⟨_, _, _, _, _, _, _, _, _, _, _, h⟩ := tick_frame n s; rw [h]
@[simp] theorem tick_ptrs (n : Nat) (s : State) : (tick n s).ptrs = s.ptrs := by
  obtain ⟨_, _, _, _, _, _, _, _, _, _, _, h⟩ := tick_frame n s; rw [h]
@[simp] theorem tick_icache (n : Nat) (s : State) : (tick n s).icache = s.icache := by
  obtain ⟨_, _, _, _, _, _, _, _, _, _, _, h⟩ := tick_frame n s; rw [h]
@[simp] theorem tick_loopBufs (n : Nat) (s : State) : (tick n s).loopBufs = s.loopBufs := by
  obtain ⟨_, _, _, _, _, _, _, _, _, _, _, h⟩ := tick_frame n s; rw [h]
@[simp] theorem tick_faultRings (n : Nat) (s : State) : (tick n s).faultRings = s.faultRings := by
  obtain ⟨_, _, _, _, _, _, _, _, _, _, _, h⟩ := tick_frame n s; rw [h]
@[simp] theorem tick_partitions (n : Nat) (s : State) : (tick n s).partitions = s.partitions := by
  obtain ⟨_, _, _, _, _, _, _, _, _, _, _, h⟩ := tick_frame n s; rw [h]
@[simp] theorem tick_contexts (n : Nat) (s : State) : (tick n s).contexts = s.contexts := by
  obtain ⟨_, _, _, _, _, _, _, _, _, _, _, h⟩ := tick_frame n s; rw [h]
@[simp] theorem tick_grids (n : Nat) (s : State) : (tick n s).grids = s.grids := by
  obtain ⟨_, _, _, _, _, _, _, _, _, _, _, h⟩ := tick_frame n s; rw [h]
@[simp] theorem tick_draws (n : Nat) (s : State) : (tick n s).draws = s.draws := by
  obtain ⟨_, _, _, _, _, _, _, _, _, _, _, h⟩ := tick_frame n s; rw [h]
@[simp] theorem tick_evqs (n : Nat) (s : State) : (tick n s).evqs = s.evqs := by
  obtain ⟨_, _, _, _, _, _, _, _, _, _, _, h⟩ := tick_frame n s; rw [h]
@[simp] theorem tick_traces (n : Nat) (s : State) : (tick n s).traces = s.traces := by
  obtain ⟨_, _, _, _, _, _, _, _, _, _, _, h⟩ := tick_frame n s; rw [h]
@[simp] theorem tick_keys (n : Nat) (s : State) : (tick n s).keys = s.keys := by
  obtain ⟨_, _, _, _, _, _, _, _, _, _, _, h⟩ := tick_frame n s; rw [h]
@[simp] theorem tick_queues (n : Nat) (s : State) : (tick n s).queues = s.queues := by
  obtain ⟨_, _, _, _, _, _, _, _, _, _, _, h⟩ := tick_frame n s; rw [h]
@[simp] theorem tick_unmasked (n : Nat) (s : State) : (tick n s).unmasked = s.unmasked := by
  obtain ⟨_, _, _, _, _, _, _, _, _, _, _, h⟩ := tick_frame n s; rw [h]
@[simp] theorem tick_funcMask (n : Nat) (s : State) : (tick n s).funcMask = s.funcMask := by
  obtain ⟨_, _, _, _, _, _, _, _, _, _, _, h⟩ := tick_frame n s; rw [h]
@[simp] theorem tick_msixPending (n : Nat) (s : State) : (tick n s).msixPending = s.msixPending := by
  obtain ⟨_, _, _, _, _, _, _, _, _, _, _, h⟩ := tick_frame n s; rw [h]
@[simp] theorem tick_msixSent (n : Nat) (s : State) : (tick n s).msixSent = s.msixSent := by
  obtain ⟨_, _, _, _, _, _, _, _, _, _, _, h⟩ := tick_frame n s; rw [h]
@[simp] theorem tick_muted (n : Nat) (s : State) : (tick n s).muted = s.muted := by
  obtain ⟨_, _, _, _, _, _, _, _, _, _, _, h⟩ := tick_frame n s; rw [h]
@[simp] theorem tick_dev (n : Nat) (s : State) : (tick n s).dev = s.dev := by
  obtain ⟨_, _, _, _, _, _, _, _, _, _, _, h⟩ := tick_frame n s; rw [h]
@[simp] theorem tick_handed (n : Nat) (s : State) : (tick n s).handed = s.handed := by
  obtain ⟨_, _, _, _, _, _, _, _, _, _, _, h⟩ := tick_frame n s; rw [h]
@[simp] theorem tick_fetched (n : Nat) (s : State) : (tick n s).fetched = s.fetched := by
  obtain ⟨_, _, _, _, _, _, _, _, _, _, _, h⟩ := tick_frame n s; rw [h]
@[simp] theorem tick_served (n : Nat) (s : State) : (tick n s).served = s.served := by
  obtain ⟨_, _, _, _, _, _, _, _, _, _, _, h⟩ := tick_frame n s; rw [h]


@[simp] theorem countEvent_agenda (core event n ctx : Nat) (s : State) : (countEvent core event n ctx s).agenda = s.agenda := by
  unfold countEvent; split <;> rfl
@[simp] theorem countEvent_fresh (core event n ctx : Nat) (s : State) : (countEvent core event n ctx s).fresh = s.fresh := by
  unfold countEvent; split <;> rfl
@[simp] theorem countEvent_nextId (core event n ctx : Nat) (s : State) : (countEvent core event n ctx s).nextId = s.nextId := by
  unfold countEvent; split <;> rfl
@[simp] theorem countEvent_time (core event n ctx : Nat) (s : State) : (countEvent core event n ctx s).time = s.time := by
  unfold countEvent; split <;> rfl
@[simp] theorem countEvent_lag (core event n ctx : Nat) (s : State) : (countEvent core event n ctx s).lag = s.lag := by
  unfold countEvent; split <;> rfl
@[simp] theorem countEvent_focus (core event n ctx : Nat) (s : State) : (countEvent core event n ctx s).focus = s.focus := by
  unfold countEvent; split <;> rfl
@[simp] theorem countEvent_runs (core event n ctx : Nat) (s : State) : (countEvent core event n ctx s).runs = s.runs := by
  unfold countEvent; split <;> rfl
@[simp] theorem countEvent_waves (core event n ctx : Nat) (s : State) : (countEvent core event n ctx s).waves = s.waves := by
  unfold countEvent; split <;> rfl
@[simp] theorem countEvent_wgs (core event n ctx : Nat) (s : State) : (countEvent core event n ctx s).wgs = s.wgs := by
  unfold countEvent; split <;> rfl
@[simp] theorem countEvent_parked (core event n ctx : Nat) (s : State) : (countEvent core event n ctx s).parked = s.parked := by
  unfold countEvent; split <;> rfl
@[simp] theorem countEvent_fused (core event n ctx : Nat) (s : State) : (countEvent core event n ctx s).fused = s.fused := by
  unfold countEvent; split <;> rfl
@[simp] theorem countEvent_l1Locks (core event n ctx : Nat) (s : State) : (countEvent core event n ctx s).l1Locks = s.l1Locks := by
  unfold countEvent; split <;> rfl
@[simp] theorem countEvent_l2Locks (core event n ctx : Nat) (s : State) : (countEvent core event n ctx s).l2Locks = s.l2Locks := by
  unfold countEvent; split <;> rfl
@[simp] theorem countEvent_hbm (core event n ctx : Nat) (s : State) : (countEvent core event n ctx s).hbm = s.hbm := by
  unfold countEvent; split <;> rfl
@[simp] theorem countEvent_host (core event n ctx : Nat) (s : State) : (countEvent core event n ctx s).host = s.host := by
  unfold countEvent; split <;> rfl
@[simp] theorem countEvent_peer (core event n ctx : Nat) (s : State) : (countEvent core event n ctx s).peer = s.peer := by
  unfold countEvent; split <;> rfl
@[simp] theorem countEvent_spad (core event n ctx : Nat) (s : State) : (countEvent core event n ctx s).spad = s.spad := by
  unfold countEvent; split <;> rfl
@[simp] theorem countEvent_hbmTag (core event n ctx : Nat) (s : State) : (countEvent core event n ctx s).hbmTag = s.hbmTag := by
  unfold countEvent; split <;> rfl
@[simp] theorem countEvent_hbmPoison (core event n ctx : Nat) (s : State) : (countEvent core event n ctx s).hbmPoison = s.hbmPoison := by
  unfold countEvent; split <;> rfl
@[simp] theorem countEvent_stores (core event n ctx : Nat) (s : State) : (countEvent core event n ctx s).stores = s.stores := by
  unfold countEvent; split <;> rfl
@[simp] theorem countEvent_touched (core event n ctx : Nat) (s : State) : (countEvent core event n ctx s).touched = s.touched := by
  unfold countEvent; split <;> rfl
@[simp] theorem countEvent_stale (core event n ctx : Nat) (s : State) : (countEvent core event n ctx s).stale = s.stale := by
  unfold countEvent; split <;> rfl
@[simp] theorem countEvent_astps (core event n ctx : Nat) (s : State) : (countEvent core event n ctx s).astps = s.astps := by
  unfold countEvent; split <;> rfl
@[simp] theorem countEvent_copies (core event n ctx : Nat) (s : State) : (countEvent core event n ctx s).copies = s.copies := by
  unfold countEvent; split <;> rfl
@[simp] theorem countEvent_pairs (core event n ctx : Nat) (s : State) : (countEvent core event n ctx s).pairs = s.pairs := by
  unfold countEvent; split <;> rfl
@[simp] theorem countEvent_rays (core event n ctx : Nat) (s : State) : (countEvent core event n ctx s).rays = s.rays := by
  unfold countEvent; split <;> rfl
@[simp] theorem countEvent_tlb (core event n ctx : Nat) (s : State) : (countEvent core event n ctx s).tlb = s.tlb := by
  unfold countEvent; split <;> rfl
@[simp] theorem countEvent_ptrs (core event n ctx : Nat) (s : State) : (countEvent core event n ctx s).ptrs = s.ptrs := by
  unfold countEvent; split <;> rfl
@[simp] theorem countEvent_icache (core event n ctx : Nat) (s : State) : (countEvent core event n ctx s).icache = s.icache := by
  unfold countEvent; split <;> rfl
@[simp] theorem countEvent_loopBufs (core event n ctx : Nat) (s : State) : (countEvent core event n ctx s).loopBufs = s.loopBufs := by
  unfold countEvent; split <;> rfl
@[simp] theorem countEvent_faultRings (core event n ctx : Nat) (s : State) : (countEvent core event n ctx s).faultRings = s.faultRings := by
  unfold countEvent; split <;> rfl
@[simp] theorem countEvent_partitions (core event n ctx : Nat) (s : State) : (countEvent core event n ctx s).partitions = s.partitions := by
  unfold countEvent; split <;> rfl
@[simp] theorem countEvent_contexts (core event n ctx : Nat) (s : State) : (countEvent core event n ctx s).contexts = s.contexts := by
  unfold countEvent; split <;> rfl
@[simp] theorem countEvent_grids (core event n ctx : Nat) (s : State) : (countEvent core event n ctx s).grids = s.grids := by
  unfold countEvent; split <;> rfl
@[simp] theorem countEvent_draws (core event n ctx : Nat) (s : State) : (countEvent core event n ctx s).draws = s.draws := by
  unfold countEvent; split <;> rfl
@[simp] theorem countEvent_evqs (core event n ctx : Nat) (s : State) : (countEvent core event n ctx s).evqs = s.evqs := by
  unfold countEvent; split <;> rfl
@[simp] theorem countEvent_traces (core event n ctx : Nat) (s : State) : (countEvent core event n ctx s).traces = s.traces := by
  unfold countEvent; split <;> rfl
@[simp] theorem countEvent_keys (core event n ctx : Nat) (s : State) : (countEvent core event n ctx s).keys = s.keys := by
  unfold countEvent; split <;> rfl
@[simp] theorem countEvent_queues (core event n ctx : Nat) (s : State) : (countEvent core event n ctx s).queues = s.queues := by
  unfold countEvent; split <;> rfl
@[simp] theorem countEvent_unmasked (core event n ctx : Nat) (s : State) : (countEvent core event n ctx s).unmasked = s.unmasked := by
  unfold countEvent; split <;> rfl
@[simp] theorem countEvent_funcMask (core event n ctx : Nat) (s : State) : (countEvent core event n ctx s).funcMask = s.funcMask := by
  unfold countEvent; split <;> rfl
@[simp] theorem countEvent_msixPending (core event n ctx : Nat) (s : State) : (countEvent core event n ctx s).msixPending = s.msixPending := by
  unfold countEvent; split <;> rfl
@[simp] theorem countEvent_msixSent (core event n ctx : Nat) (s : State) : (countEvent core event n ctx s).msixSent = s.msixSent := by
  unfold countEvent; split <;> rfl
@[simp] theorem countEvent_muted (core event n ctx : Nat) (s : State) : (countEvent core event n ctx s).muted = s.muted := by
  unfold countEvent; split <;> rfl
@[simp] theorem countEvent_dev (core event n ctx : Nat) (s : State) : (countEvent core event n ctx s).dev = s.dev := by
  unfold countEvent; split <;> rfl
@[simp] theorem countEvent_handed (core event n ctx : Nat) (s : State) : (countEvent core event n ctx s).handed = s.handed := by
  unfold countEvent; split <;> rfl
@[simp] theorem countEvent_fetched (core event n ctx : Nat) (s : State) : (countEvent core event n ctx s).fetched = s.fetched := by
  unfold countEvent; split <;> rfl
@[simp] theorem countEvent_served (core event n ctx : Nat) (s : State) : (countEvent core event n ctx s).served = s.served := by
  unfold countEvent; split <;> rfl

/-! ## Looking things up after an update -/

@[simp] theorem wave_modWave_same (s : State) (key : Nat) (f : Wave → Wave) : (s.modWave key f).wave key = (s.wave key).map f :=
  kget_kmod_same f s.waves key

theorem wave_modWave_other (s : State) (key a : Nat) (f : Wave → Wave) (h : a ≠ key) : (s.modWave key f).wave a = s.wave a :=
  kget_kmod_other f s.waves key a h

@[simp] theorem wave_modPart_same (s : State) (key q : Nat) (f : Part → Part) :
    (s.modPart key q f).wave key = (s.wave key).map fun w => { w with parts := partMod f w.parts q } :=
  kget_kmod_same _ s.waves key

theorem wave_modPart_other (s : State) (key q a : Nat) (f : Part → Part) (h : a ≠ key) : (s.modPart key q f).wave a = s.wave a :=
  kget_kmod_other _ s.waves key a h

theorem partAt_partMod_same (f : Part → Part) (ps : List Part) (q : Nat) (hq : ∀ p, (f p).q = p.q) :
    partAt (partMod f ps q) q = (partAt ps q).map f := by
  induction ps with
  | nil => rfl
  | cons p ps ih =>
    simp only [partMod]
    split
    · rename_i h
      simp [partAt, hq, h]
    · rename_i h
      simp only [partAt, if_neg h, ih]

theorem partAt_partMod_other (f : Part → Part) (ps : List Part) (q a : Nat) (hq : ∀ p, (f p).q = p.q) (h : a ≠ q) :
    partAt (partMod f ps q) a = partAt ps a := by
  induction ps with
  | nil => rfl
  | cons p ps ih =>
    simp only [partMod]
    split
    · rename_i hp
      have : ¬ (p.q = a) := by omega
      simp [partAt, hq, this]
    · simp only [partAt, ih]

theorem part_modPart_same (s : State) (key q : Nat) (f : Part → Part) (hq : ∀ p, (f p).q = p.q) :
    (s.modPart key q f).part key q = (s.part key q).map f := by
  unfold State.part
  rw [wave_modPart_same]
  cases s.wave key with
  | none => rfl
  | some w => exact partAt_partMod_same f w.parts q hq

@[simp] theorem kget_modCore_same (s : State) (c : Nat) (f : Core → Core) : (s.modCore c f).core c = f (s.core c) := by
  simp [State.core, kgetD]

@[simp] theorem evq_modEvq_same (s : State) (e : Nat) (f : Evq → Evq) : (s.modEvq e f).evq e = f (s.evq e) := by
  simp [State.evq, kgetD]

@[simp] theorem queue_modQueue_same (s : State) (q : Nat) (f : HostQueue → HostQueue) : (s.modQueue q f).queue q = f (s.queue q) := by
  simp [State.queue, kgetD]

/-! ## Waves -/

@[simp] theorem setV_key (w : Wave) (r l : Nat) (x : Word) : (w.setV r l x).key = w.key := rfl
@[simp] theorem setV_wg (w : Wave) (r l : Nat) (x : Word) : (w.setV r l x).wg = w.wg := rfl
@[simp] theorem setV_grid (w : Wave) (r l : Nat) (x : Word) : (w.setV r l x).grid = w.grid := rfl
@[simp] theorem setV_index (w : Wave) (r l : Nat) (x : Word) : (w.setV r l x).index = w.index := rfl
@[simp] theorem setV_width (w : Wave) (r l : Nat) (x : Word) : (w.setV r l x).width = w.width := rfl
@[simp] theorem setV_parts (w : Wave) (r l : Nat) (x : Word) : (w.setV r l x).parts = w.parts := rfl
@[simp] theorem setV_x (w : Wave) (r l : Nat) (x : Word) : (w.setV r l x).x = w.x := rfl
@[simp] theorem setV_nest (w : Wave) (r l : Nat) (x : Word) : (w.setV r l x).nest = w.nest := rfl
@[simp] theorem setV_ended (w : Wave) (r l : Nat) (x : Word) : (w.setV r l x).ended = w.ended := rfl
@[simp] theorem setV_tiles (w : Wave) (r l : Nat) (x : Word) : (w.setV r l x).tiles = w.tiles := rfl
@[simp] theorem setV_rto (w : Wave) (r l : Nat) (x : Word) : (w.setV r l x).rto = w.rto := rfl
@[simp] theorem setV_regs (w : Wave) (r l : Nat) (x : Word) : (w.setV r l x).regs = w.regs := rfl
@[simp] theorem setV_vbase (w : Wave) (r l : Nat) (x : Word) : (w.setV r l x).vbase = w.vbase := rfl
@[simp] theorem setV_vbound (w : Wave) (r l : Nat) (x : Word) : (w.setV r l x).vbound = w.vbound := rfl
@[simp] theorem setV_backing (w : Wave) (r l : Nat) (x : Word) : (w.setV r l x).backing = w.backing := rfl
@[simp] theorem setV_areaLost (w : Wave) (r l : Nat) (x : Word) : (w.setV r l x).areaLost = w.areaLost := rfl
@[simp] theorem setV_ctrl (w : Wave) (r l : Nat) (x : Word) : (w.setV r l x).ctrl = w.ctrl := rfl
@[simp] theorem setV_partition (w : Wave) (r l : Nat) (x : Word) : (w.setV r l x).partition = w.partition := rfl
@[simp] theorem setV_ctx (w : Wave) (r l : Nat) (x : Word) : (w.setV r l x).ctx = w.ctx := rfl
@[simp] theorem setV_localBase (w : Wave) (r l : Nat) (x : Word) : (w.setV r l x).localBase = w.localBase := rfl
@[simp] theorem setV_cycle0 (w : Wave) (r l : Nat) (x : Word) : (w.setV r l x).cycle0 = w.cycle0 := rfl
@[simp] theorem setV_cycBase (w : Wave) (r l : Nat) (x : Word) : (w.setV r l x).cycBase = w.cycBase := rfl
@[simp] theorem setV_deadSince (w : Wave) (r l : Nat) (x : Word) : (w.setV r l x).deadSince = w.deadSince := rfl
@[simp] theorem setV_sig (w : Wave) (r l : Nat) (x : Word) : (w.setV r l x).sig = w.sig := rfl
@[simp] theorem setV_region (w : Wave) (r l : Nat) (x : Word) : (w.setV r l x).region = w.region := rfl
@[simp] theorem setV_grant (w : Wave) (r l : Nat) (x : Word) : (w.setV r l x).grant = w.grant := rfl
@[simp] theorem setV_stopped (w : Wave) (r l : Nat) (x : Word) : (w.setV r l x).stopped = w.stopped := rfl
@[simp] theorem setV_stopTime (w : Wave) (r l : Nat) (x : Word) : (w.setV r l x).stopTime = w.stopTime := rfl
@[simp] theorem setV_stopCause (w : Wave) (r l : Nat) (x : Word) : (w.setV r l x).stopCause = w.stopCause := rfl
@[simp] theorem setV_stepping (w : Wave) (r l : Nat) (x : Word) : (w.setV r l x).stepping = w.stepping := rfl
@[simp] theorem setV_stopReq (w : Wave) (r l : Nat) (x : Word) : (w.setV r l x).stopReq = w.stopReq := rfl
@[simp] theorem setV_sumWords (w : Wave) (r l : Nat) (x : Word) : (w.setV r l x).sumWords = w.sumWords := rfl
@[simp] theorem setV_sumWait (w : Wave) (r l : Nat) (x : Word) : (w.setV r l x).sumWait = w.sumWait := rfl
@[simp] theorem setV_sumMark (w : Wave) (r l : Nat) (x : Word) : (w.setV r l x).sumMark = w.sumMark := rfl

/-! ## Parts -/

@[simp] theorem setW_q (p : Part) (r : Nat) (x : Word) : (p.setW r x).q = p.q := rfl
@[simp] theorem setW_n (p : Part) (r : Nat) (x : Word) : (p.setW r x).n = p.n := rfl
@[simp] theorem setW_pc (p : Part) (r : Nat) (x : Word) : (p.setW r x).pc = p.pc := rfl
@[simp] theorem setW_mode (p : Part) (r : Nat) (x : Word) : (p.setW r x).mode = p.mode := rfl
@[simp] theorem setW_ucf (p : Part) (r : Nat) (x : Word) : (p.setW r x).ucf = p.ucf := rfl
@[simp] theorem setW_poison (p : Part) (r : Nat) (x : Word) : (p.setW r x).poison = p.poison := rfl
@[simp] theorem setW_corr (p : Part) (r : Nat) (x : Word) : (p.setW r x).corr = p.corr := rfl
@[simp] theorem setW_handler (p : Part) (r : Nat) (x : Word) : (p.setW r x).handler = p.handler := rfl
@[simp] theorem setW_entry (p : Part) (r : Nat) (x : Word) : (p.setW r x).entry = p.entry := rfl
@[simp] theorem setW_loops (p : Part) (r : Nat) (x : Word) : (p.setW r x).loops = p.loops := rfl
@[simp] theorem setW_tvec (p : Part) (r : Nat) (x : Word) : (p.setW r x).tvec = p.tvec := rfl
@[simp] theorem setW_trappc (p : Part) (r : Nat) (x : Word) : (p.setW r x).trappc = p.trappc := rfl
@[simp] theorem setW_tcause (p : Part) (r : Nat) (x : Word) : (p.setW r x).tcause = p.tcause := rfl
@[simp] theorem setW_tinfo (p : Part) (r : Nat) (x : Word) : (p.setW r x).tinfo = p.tinfo := rfl
@[simp] theorem setW_taddr (p : Part) (r : Nat) (x : Word) : (p.setW r x).taddr = p.taddr := rfl
@[simp] theorem setW_tspc (p : Part) (r : Nat) (x : Word) : (p.setW r x).tspc = p.tspc := rfl
@[simp] theorem setW_tpart (p : Part) (r : Nat) (x : Word) : (p.setW r x).tpart = p.tpart := rfl
@[simp] theorem setW_recs (p : Part) (r : Nat) (x : Word) : (p.setW r x).recs = p.recs := rfl
@[simp] theorem setW_role (p : Part) (r : Nat) (x : Word) : (p.setW r x).role = p.role := rfl
@[simp] theorem setW_nextRole (p : Part) (r : Nat) (x : Word) : (p.setW r x).nextRole = p.nextRole := rfl
@[simp] theorem setW_readyAt (p : Part) (r : Nat) (x : Word) : (p.setW r x).readyAt = p.readyAt := rfl
@[simp] theorem setW_class4 (p : Part) (r : Nat) (x : Word) : (p.setW r x).class4 = p.class4 := rfl
@[simp] theorem setW_wait (p : Part) (r : Nat) (x : Word) : (p.setW r x).wait = p.wait := rfl
@[simp] theorem setW_prefixPc (p : Part) (r : Nat) (x : Word) : (p.setW r x).prefixPc = p.prefixPc := rfl
@[simp] theorem setW_prefixHi (p : Part) (r : Nat) (x : Word) : (p.setW r x).prefixHi = p.prefixHi := rfl
@[simp] theorem setW_prefixK (p : Part) (r : Nat) (x : Word) : (p.setW r x).prefixK = p.prefixK := rfl
@[simp] theorem setW_prefixN (p : Part) (r : Nat) (x : Word) : (p.setW r x).prefixN = p.prefixN := rfl
@[simp] theorem setW_notBefore (p : Part) (r : Nat) (x : Word) : (p.setW r x).notBefore = p.notBefore := rfl
@[simp] theorem setW_pend (p : Part) (r : Nat) (x : Word) : (p.setW r x).pend = p.pend := rfl
@[simp] theorem setW_halted (p : Part) (r : Nat) (x : Word) : (p.setW r x).halted = p.halted := rfl
@[simp] theorem setW_timeout (p : Part) (r : Nat) (x : Word) : (p.setW r x).timeout = p.timeout := rfl
@[simp] theorem setW_preempt (p : Part) (r : Nat) (x : Word) : (p.setW r x).preempt = p.preempt := rfl
@[simp] theorem setW_engines (p : Part) (r : Nat) (x : Word) : (p.setW r x).engines = p.engines := rfl

@[simp] theorem fallPart_q (p : Part) : (fallPart p).q = p.q := by
  unfold fallPart; split <;> (try split) <;> (try split) <;> rfl
@[simp] theorem fallPart_n (p : Part) : (fallPart p).n = p.n := by
  unfold fallPart; split <;> (try split) <;> (try split) <;> rfl
@[simp] theorem fallPart_mode (p : Part) : (fallPart p).mode = p.mode := by
  unfold fallPart; split <;> (try split) <;> (try split) <;> rfl
@[simp] theorem fallPart_ucf (p : Part) : (fallPart p).ucf = p.ucf := by
  unfold fallPart; split <;> (try split) <;> (try split) <;> rfl
@[simp] theorem fallPart_poison (p : Part) : (fallPart p).poison = p.poison := by
  unfold fallPart; split <;> (try split) <;> (try split) <;> rfl
@[simp] theorem fallPart_corr (p : Part) : (fallPart p).corr = p.corr := by
  unfold fallPart; split <;> (try split) <;> (try split) <;> rfl
@[simp] theorem fallPart_handler (p : Part) : (fallPart p).handler = p.handler := by
  unfold fallPart; split <;> (try split) <;> (try split) <;> rfl
@[simp] theorem fallPart_entry (p : Part) : (fallPart p).entry = p.entry := by
  unfold fallPart; split <;> (try split) <;> (try split) <;> rfl
@[simp] theorem fallPart_w (p : Part) : (fallPart p).w = p.w := by
  unfold fallPart; split <;> (try split) <;> (try split) <;> rfl
@[simp] theorem fallPart_tvec (p : Part) : (fallPart p).tvec = p.tvec := by
  unfold fallPart; split <;> (try split) <;> (try split) <;> rfl
@[simp] theorem fallPart_trappc (p : Part) : (fallPart p).trappc = p.trappc := by
  unfold fallPart; split <;> (try split) <;> (try split) <;> rfl
@[simp] theorem fallPart_tcause (p : Part) : (fallPart p).tcause = p.tcause := by
  unfold fallPart; split <;> (try split) <;> (try split) <;> rfl
@[simp] theorem fallPart_tinfo (p : Part) : (fallPart p).tinfo = p.tinfo := by
  unfold fallPart; split <;> (try split) <;> (try split) <;> rfl
@[simp] theorem fallPart_taddr (p : Part) : (fallPart p).taddr = p.taddr := by
  unfold fallPart; split <;> (try split) <;> (try split) <;> rfl
@[simp] theorem fallPart_tspc (p : Part) : (fallPart p).tspc = p.tspc := by
  unfold fallPart; split <;> (try split) <;> (try split) <;> rfl
@[simp] theorem fallPart_tpart (p : Part) : (fallPart p).tpart = p.tpart := by
  unfold fallPart; split <;> (try split) <;> (try split) <;> rfl
@[simp] theorem fallPart_recs (p : Part) : (fallPart p).recs = p.recs := by
  unfold fallPart; split <;> (try split) <;> (try split) <;> rfl
@[simp] theorem fallPart_role (p : Part) : (fallPart p).role = p.role := by
  unfold fallPart; split <;> (try split) <;> (try split) <;> rfl
@[simp] theorem fallPart_nextRole (p : Part) : (fallPart p).nextRole = p.nextRole := by
  unfold fallPart; split <;> (try split) <;> (try split) <;> rfl
@[simp] theorem fallPart_readyAt (p : Part) : (fallPart p).readyAt = p.readyAt := by
  unfold fallPart; split <;> (try split) <;> (try split) <;> rfl
@[simp] theorem fallPart_class4 (p : Part) : (fallPart p).class4 = p.class4 := by
  unfold fallPart; split <;> (try split) <;> (try split) <;> rfl
@[simp] theorem fallPart_wait (p : Part) : (fallPart p).wait = p.wait := by
  unfold fallPart; split <;> (try split) <;> (try split) <;> rfl
@[simp] theorem fallPart_prefixPc (p : Part) : (fallPart p).prefixPc = p.prefixPc := by
  unfold fallPart; split <;> (try split) <;> (try split) <;> rfl
@[simp] theorem fallPart_prefixHi (p : Part) : (fallPart p).prefixHi = p.prefixHi := by
  unfold fallPart; split <;> (try split) <;> (try split) <;> rfl
@[simp] theorem fallPart_prefixK (p : Part) : (fallPart p).prefixK = p.prefixK := by
  unfold fallPart; split <;> (try split) <;> (try split) <;> rfl
@[simp] theorem fallPart_prefixN (p : Part) : (fallPart p).prefixN = p.prefixN := by
  unfold fallPart; split <;> (try split) <;> (try split) <;> rfl
@[simp] theorem fallPart_notBefore (p : Part) : (fallPart p).notBefore = p.notBefore := by
  unfold fallPart; split <;> (try split) <;> (try split) <;> rfl
@[simp] theorem fallPart_pend (p : Part) : (fallPart p).pend = p.pend := by
  unfold fallPart; split <;> (try split) <;> (try split) <;> rfl
@[simp] theorem fallPart_halted (p : Part) : (fallPart p).halted = p.halted := by
  unfold fallPart; split <;> (try split) <;> (try split) <;> rfl
@[simp] theorem fallPart_timeout (p : Part) : (fallPart p).timeout = p.timeout := by
  unfold fallPart; split <;> (try split) <;> (try split) <;> rfl
@[simp] theorem fallPart_preempt (p : Part) : (fallPart p).preempt = p.preempt := by
  unfold fallPart; split <;> (try split) <;> (try split) <;> rfl
@[simp] theorem fallPart_engines (p : Part) : (fallPart p).engines = p.engines := by
  unfold fallPart; split <;> (try split) <;> (try split) <;> rfl

/-- Outside a loop body's last word a part falls through to the next word (R74, R429). -/
theorem fallPart_pc (p : Part) (h : ∀ l, p.loops.getLast? = some l → p.pc ≠ l.stop) : (fallPart p).pc = p.pc + 4#32 := by
  unfold fallPart
  split
  · rfl
  · rename_i l hl
    rw [if_neg (h l hl)]

end Sys2Proof.Laws
end

