-- ==== Sys2Proof/Laws/Issue.lean ====
section
/-! SUPPORT. What issuing a word comes to when the word is ready: its own effect, and what `finish` adds to it. -/

namespace Sys2Proof.Laws

open Sys2Proof.Machine Sys2Proof.Safety

/-- A ready word takes its own effect in the state that `begun` gives. -/
theorem issueWord_ready (z : Bool) (sig : Ctx → Sig) (idle body : Ctx → State → Res) (s : State) (c : Ctx)
    (h : Ready z s c (sig c)) : issueWord z sig idle body s = finish c s (body c (begun c (sig c) s)) := by
  obtain ⟨h1, h2, h9, h3, h4, h5, h6, h7, h8⟩ := h
  have h4' : c.act.isEmpty = false := by simpa using h4
  simp [issueWord, h1, h2, h9, h3, h4', h5, h6, h7, h8]

/-- With no active lane no operand is read: what SECDED corrects does not depend on the word (R91, R108). -/
theorem begun_idle (c : Ctx) (g : Sig) (s : State) (h : c.act = []) : begun c g s = begun c noSig s := by
  have e : ∀ (w : Wave) (os : List Opd), correctReads c.q [] os w = w := by
    intro w os
    have : ∀ k, readsMark w [] os k = false := by intro k; simp [readsMark]
    simp [correctReads, this]
  simp [begun, h, e]

/-- With no active lane a word that is wide enough takes its idle effect (R91). -/
theorem issueWord_idle (z : Bool) (sig : Ctx → Sig) (idle body : Ctx → State → Res) (s : State) (c : Ctx)
    (h1 : issueCtx z s = some c) (h2 : guardHits c = []) (h5 : guardPoison c = false) (h3 : tooNarrow c (sig c) = false) (h4 : c.act = []) :
    issueWord z sig idle body s = finish c s (idle c (begun c noSig s)) := by
  simp [issueWord, h1, h2, h5, h3, h4, begun_idle c (sig c) s h4]

/-- A word that fails a check of R89 takes the trap of that check. -/
theorem issueWord_trap (z : Bool) (sig : Ctx → Sig) (idle body : Ctx → State → Res) (s : State) (c : Ctx) (t : Trap)
    (h1 : issueCtx z s = some c) (h2 : guardHits c = []) (h6 : guardPoison c = false) (h3 : tooNarrow c (sig c) = false) (h4 : c.act ≠ [])
    (h5 : checkSig c (sig c) = some t) : issueWord z sig idle body s = finish c s (.trap s t) := by
  have h4' : c.act.isEmpty = false := by simpa using h4
  simp [issueWord, h1, h2, h6, h3, h4', h5]

@[simp] theorem finish_fall (c : Ctx) (s0 s : State) (cost : Nat) :
    finish c s0 (.fall s cost) = .next (endWord c (cost * passes c.p.n + redirect c s) none (fallThrough c s)) := rfl

@[simp] theorem finish_custom (c : Ctx) (s0 s : State) (cause : Nat) :
    finish c s0 (.custom s cause) = .next (endWord c (passes c.p.n) (some cause) s) := rfl

@[simp] theorem finish_stay (c : Ctx) (s0 s : State) : finish c s0 (.stay s) = .next (endWord c (passes c.p.n) none s) := rfl

@[simp] theorem finish_trap (c : Ctx) (s0 s : State) (t : Trap) :
    finish c s0 (.trap s t) =
      .next (endWord c (passes c.p.n) (some 2) (takeTrap c.key c.q (if t.bare || t.following then c.p.pc else c.pc0) t s)) := rfl

/-- A word that issues finishes with a next state, unless its effect stops the machine. -/
theorem finish_next (c : Ctx) (s0 : State) (r : Res) (hf : ∀ f, r ≠ .fault f) (hr : ∀ f, r ≠ .refuse f) :
    ∃ t, finish c s0 r = .next t := by
  cases r <;> first | exact ⟨_, rfl⟩ | exact absurd rfl (hf _) | exact absurd rfl (hr _)

/-! ## The word that issues -/

theorem issueCtx_eq (z : Bool) (s : State) (c : Ctx) (h : issueCtx z s = some c) :
    s.wave c.key = some c.w ∧ partAt c.w.parts c.q = some c.p ∧ c.z = z ∧ c.act = activeLanes c.w c.p := by
  unfold issueCtx at h
  simp only [Option.bind_eq_some_iff, Option.map_eq_some_iff] at h
  obtain ⟨qr, _, r, _, w, hw, p, hp, rfl⟩ := h
  exact ⟨hw, hp, rfl, rfl⟩

end Sys2Proof.Laws
end

