-- ==== Sys2Proof/Laws/Effects.lean ====
section
/-! SUPPORT. What a word that completes leaves: the bookkeeping at its end (`Booked`), the writes of a destination (`Wrote`), and the words
that only write one destination and fall through. -/

set_option Elab.async false
set_option linter.unusedSimpArgs false

namespace Sys2Proof.Laws

open Sys2Proof.Machine Sys2Proof.Safety

/-! ## Small relations -/

theorem rested_refl (p : Part) : RestedPart p p := rfl

theorem rested_trans {p p' p'' : Part} (h1 : RestedPart p p') (h2 : RestedPart p' p'') : RestedPart p p'' := by
  unfold RestedPart at *
  rw [h1] at h2
  exact h2

theorem rested_restPart (cycle : Nat) (old p : Part) : RestedPart p (restPart cycle old p) := by
  unfold restPart RestedPart
  cases p.nextRole <;> dsimp only <;> split <;> rfl

@[simp] theorem restPart_q (cycle : Nat) (old p : Part) : (restPart cycle old p).q = p.q := by
  rw [rested_restPart cycle old p]

theorem keptState_trans {s t u : State} (h1 : KeptState s t) (h2 : KeptState t u) : KeptState s u := by
  unfold KeptState at *
  rw [h1] at h2
  exact h2

/-- What the debugger and the SUMMARY record count of a wave, and what the end of a run does to its parts. -/
def BookedWave (w w' : Wave) : Prop :=
  w' = { w with parts := w'.parts, sumWords := w'.sumWords, stopped := w'.stopped, stepping := w'.stepping, stopReq := w'.stopReq,
                cycBase := w'.cycBase, cycle0 := w'.cycle0, stopTime := w'.stopTime, stopCause := w'.stopCause } ∧
  ∀ q, match partAt w.parts q with
    | some p => ∃ p', partAt w'.parts q = some p' ∧ RestedPart p p'
    | none => partAt w'.parts q = none

theorem bookedWave_refl (w : Wave) : BookedWave w w := by
  refine ⟨rfl, fun q => ?_⟩
  split
  · exact ⟨_, ‹_›, rested_refl _⟩
  · assumption

theorem bookedWave_trans {w w' w'' : Wave} (h1 : BookedWave w w') (h2 : BookedWave w' w'') : BookedWave w w'' := by
  obtain ⟨a1, b1⟩ := h1
  obtain ⟨a2, b2⟩ := h2
  refine ⟨by rw [a1] at a2; exact a2, fun q => ?_⟩
  have x1 := b1 q
  have x2 := b2 q
  cases hp : partAt w.parts q with
  | none => rw [hp] at x1; dsimp only at x1 ⊢; rw [x1] at x2; exact x2
  | some p =>
    rw [hp] at x1
    obtain ⟨p', e, r⟩ := x1
    rw [e] at x2
    obtain ⟨p'', e', r'⟩ := x2
    exact ⟨p'', e', rested_trans r r'⟩

/-- The bookkeeping at the end of a word of wave `key`, which belongs to partition `P`. -/
structure Booked (P key : Nat) (s t : State) : Prop where
  waves : ∀ k, k ≠ key → t.wave k = s.wave k
  wave : ∀ w, s.wave key = some w → ∃ w', t.wave key = some w' ∧ BookedWave w w'
  wgs : t.wgs = s.wgs
  state : (∀ w, s.wave key = some w → w.partition = P) → (s.trace P).en = false → KeptState s t ∧ (t.trace P).en = false

theorem booked_refl (P key : Nat) (s : State) : Booked P key s s :=
  ⟨fun _ _ => rfl, fun w h => ⟨w, h, bookedWave_refl w⟩, rfl, fun _ h => ⟨rfl, h⟩⟩

theorem wave_none_of_booked {P key : Nat} {s t : State} (h : Booked P key s t) (w' : Wave) (e : t.wave key = some w')
    (hs : ∃ w, s.wave key = some w) : ∃ w, s.wave key = some w ∧ BookedWave w w' := by
  obtain ⟨w, hw⟩ := hs
  obtain ⟨w'', h1, h2⟩ := h.wave w hw
  rw [e] at h1
  cases h1
  exact ⟨w, hw, h2⟩

/-- One stage after another, in a wave that is there. -/
theorem booked_trans {P key : Nat} {s t u : State} (hs : ∃ w, s.wave key = some w) (h1 : Booked P key s t) (h2 : Booked P key t u) :
    Booked P key s u := by
  refine ⟨fun k hk => (h2.waves k hk).trans (h1.waves k hk), fun w hw => ?_, h2.wgs.trans h1.wgs, fun hp he => ?_⟩
  · obtain ⟨w', e, b⟩ := h1.wave w hw
    obtain ⟨w'', e', b'⟩ := h2.wave w' e
    exact ⟨w'', e', bookedWave_trans b b'⟩
  · obtain ⟨k1, e1⟩ := h1.state hp he
    have hp' : ∀ w', t.wave key = some w' → w'.partition = P := fun w' e => by
      obtain ⟨w, hw, b⟩ := wave_none_of_booked h1 w' e hs
      rw [b.1]
      exact hp w hw
    obtain ⟨k2, e2⟩ := h2.state hp' e1
    exact ⟨keptState_trans k1 k2, e2⟩

/-- The wave is still there. -/
theorem booked_there {P key : Nat} {s t : State} (hs : ∃ w, s.wave key = some w) (h : Booked P key s t) : ∃ w, t.wave key = some w := by
  obtain ⟨w, hw⟩ := hs
  obtain ⟨w', e, _⟩ := h.wave w hw
  exact ⟨w', e⟩

/-! ## The stages -/

theorem trace_eq (s t : State) (P : Nat) (h : t.traces = s.traces) : t.trace P = s.trace P := by simp [State.trace, h]

theorem wave_eq (s t : State) (k : Nat) (h : t.waves = s.waves) : t.wave k = s.wave k := by simp [State.wave, h]

theorem booked_of_kept {P key : Nat} {s t : State} (hw : t.waves = s.waves)
    (hg : t.wgs = s.wgs)
    (hk : (s.trace P).en = false → KeptState s t ∧ (t.trace P).en = false) : Booked P key s t :=
  ⟨fun k _ => wave_eq s t k hw, fun w h => ⟨w, by rw [wave_eq s t key hw]; exact h, bookedWave_refl w⟩, hg, fun _ h => hk h⟩

theorem booked_modCore (P key c : Nat) (f : Core → Core) (s : State) : Booked P key s (s.modCore c f) :=
  booked_of_kept rfl rfl (fun h => ⟨rfl, h⟩)

theorem booked_usePort (P key : Nat) (w : Wave) (n : Nat) (s : State) : Booked P key s (usePort w n s) := by
  unfold usePort
  exact booked_modCore P key _ _ s

theorem booked_countEvent (P key core event n ctx : Nat) (s : State) : Booked P key s (countEvent core event n ctx s) := by
  unfold countEvent
  split
  · exact booked_refl P key s
  · exact booked_of_kept rfl rfl (fun h => ⟨rfl, h⟩)

theorem booked_runs (P key : Nat) (r : KMap Run) (fo : Option Nat) (s : State) : Booked P key s { s with runs := r, focus := fo } :=
  booked_of_kept rfl rfl (fun h => ⟨rfl, h⟩)

theorem booked_dropRun (P key qr : Nat) (s : State) : Booked P key s (dropRun qr s) :=
  booked_of_kept rfl rfl (fun h => ⟨rfl, h⟩)

theorem trace_kput (s : State) (p P : Nat) (r : TraceRing) (h : r.en = (s.trace p).en) :
    (({ s with traces := kput s.traces p r } : State).trace P).en = (s.trace P).en := by
  unfold State.trace kgetD at *
  by_cases hp : P = p
  · subst hp; simp [h]
  · rw [show (kget (kput s.traces p r) P) = kget s.traces P from kget_kput_other _ _ _ _ hp]

theorem booked_traces (P key p : Nat) (r : TraceRing) (s : State) (h : r.en = (s.trace p).en) :
    Booked P key s { s with traces := kput s.traces p r } :=
  booked_of_kept rfl rfl (fun he => ⟨rfl, by rw [trace_kput s p P r h]; exact he⟩)

theorem booked_traceSelect (P key : Nat) (w : Wave) (q : Nat) (s : State) : Booked P key s (traceSelect w q s) := by
  unfold traceSelect
  dsimp only
  split
  · exact booked_traces P key _ _ s rfl
  · exact booked_refl P key s

theorem physWrite_same (s : State) (m : Mem) (tag a : Nat) (bs : List Byte) :
    (physWrite s m tag a bs).waves = s.waves ∧ (physWrite s m tag a bs).wgs = s.wgs ∧ (physWrite s m tag a bs).traces = s.traces := by
  cases m <;> exact ⟨rfl, rfl, rfl⟩

theorem postTrace_same (p : Nat) (bs : List Byte) (s : State) :
    (postTrace p bs s).waves = s.waves ∧ (postTrace p bs s).wgs = s.wgs := by
  unfold postTrace
  dsimp only
  split
  · exact ⟨(physWrite_same s _ _ _ _).1, (physWrite_same s _ _ _ _).2.1⟩
  · exact ⟨rfl, rfl⟩

theorem postTrace_off (p : Nat) (bs : List Byte) (s : State) (h : (s.trace p).en = false) :
    postTrace p bs s = { s with traces := kput s.traces p { s.trace p with lost := min ((s.trace p).lost + 1) (2 ^ 32 - 1), ovf := true } } := by
  simp [postTrace, h]

theorem booked_postTrace (P key : Nat) (bs : List Byte) (s : State) : Booked P key s (postTrace P bs s) := by
  refine booked_of_kept (postTrace_same P bs s).1 (postTrace_same P bs s).2 (fun h => ?_)
  rw [postTrace_off P bs s h]
  exact ⟨rfl, (trace_kput s P P { s.trace P with lost := min ((s.trace P).lost + 1) (2 ^ 32 - 1), ovf := true } rfl).trans h⟩

theorem booked_traceRun (key : Nat) (w : Wave) (p : Part) (r : Run) (cause : Nat) (s : State) :
    Booked w.partition key s (traceRun s w p r cause s) := by
  unfold traceRun
  dsimp only
  split
  · exact booked_postTrace _ key _ s
  · exact booked_refl _ key s

/-- A change of the wave that only books. -/
theorem booked_modWave (P key : Nat) (f : Wave → Wave) (hf : ∀ w, BookedWave w (f w)) (s : State) : Booked P key s (s.modWave key f) := by
  refine ⟨fun k hk => wave_modWave_other s key k f hk, fun w hw => ⟨f w, by simp [hw], hf w⟩, rfl, fun _ h => ⟨rfl, h⟩⟩

theorem partAt_map (f : Part → Part) (hq : ∀ p, (f p).q = p.q) (ps : List Part) (q : Nat) : partAt (ps.map f) q = (partAt ps q).map f := by
  induction ps with
  | nil => rfl
  | cons p ps ih =>
    simp only [List.map_cons, partAt, hq]
    split
    · rfl
    · exact ih

theorem bookedWave_rest (cycle : Nat) (old : Part) (w : Wave) : BookedWave w { w with parts := w.parts.map (restPart cycle old) } := by
  refine ⟨rfl, fun q => ?_⟩
  rw [partAt_map _ (restPart_q cycle old)]
  cases partAt w.parts q with
  | none => rfl
  | some p => exact ⟨_, rfl, rested_restPart cycle old p⟩

theorem bookedWave_book (w w' : Wave) (hp : w'.parts = w.parts)
    (h : w' = { w with parts := w'.parts, sumWords := w'.sumWords, stopped := w'.stopped, stepping := w'.stepping,
                       stopReq := w'.stopReq, cycBase := w'.cycBase, cycle0 := w'.cycle0, stopTime := w'.stopTime, stopCause := w'.stopCause }) :
    BookedWave w w' := by
  refine ⟨h, fun q => ?_⟩
  rw [hp]
  split
  · exact ⟨_, ‹_›, rested_refl _⟩
  · assumption

/-- The end of a run of a part of wave `w` only books. -/
theorem booked_closeRun (key : Nat) (w : Wave) (p : Part) (r : Run) (cause : Nat) (s : State) (hs : ∃ v, s.wave key = some v) :
    Booked w.partition key s (closeRun key w p r cause s) := by
  unfold closeRun
  dsimp only
  have h1 : Booked w.partition key s (if r.words = 0 then s else traceRun s w p r cause s) := by
    split
    · exact booked_refl _ _ s
    · exact booked_traceRun key w p r cause s
  generalize (if r.words = 0 then s else traceRun s w p r cause s) = t at h1 ⊢
  exact booked_trans hs (booked_trans hs h1 (booked_dropRun _ _ _ t)) (booked_modWave _ _ _ (fun v => bookedWave_rest _ p v) _)

theorem booked_stopRun (c : Ctx) (cause : Nat) (s : State) (hs : ∃ w, s.wave c.key = some w) :
    Booked c.w.partition c.key s (stopRun c cause s) := by
  unfold stopRun
  split
  · exact booked_refl _ _ s
  · exact booked_closeRun c.key c.w c.p ‹_› cause s hs

theorem booked_foldTrace (P key : Nat) (ps : List Part) (s : State) (hs : ∃ w, s.wave key = some w)
    (g : State → Part → State) (hg : ∀ s p, ∃ bs, g s p = postTrace P bs s) : Booked P key s (ps.foldl g s) := by
  induction ps generalizing s with
  | nil => exact booked_refl P key s
  | cons p ps ih =>
    obtain ⟨bs, e⟩ := hg s p
    rw [List.foldl_cons, e]
    have h := booked_postTrace P key bs s
    exact booked_trans hs h (ih _ (booked_there hs h))

theorem booked_endRun (P key cause : Nat) (s : State) (hs : ∃ w, s.wave key = some w ∧ w.partition = P) :
    Booked P key s (endRun key cause s) := by
  obtain ⟨w, hw, hp⟩ := hs
  unfold endRun
  rw [show kget s.waves key = some w from hw]
  split
  · rename_i r w' hr e
    cases e
    split
    · split
      · have h := booked_closeRun key w ‹_› ‹_› cause s ⟨w, hw⟩
        rw [hp] at h
        exact h
      · exact booked_dropRun P key _ s
    · exact booked_refl P key s
  · exact booked_refl P key s

theorem bookedWave_freeze (now : Nat) (w : Wave) (st : Nat) (cause : Nat) :
    BookedWave w { freezeWave now w with stopped := true, stepping := none, stopReq := none, stopTime := st, stopCause := cause } := by
  refine bookedWave_book w _ ?_ ?_ <;> (unfold freezeWave; split <;> rfl)

theorem booked_stopWave (P key cause : Nat) (s : State) (hs : ∃ w, s.wave key = some w ∧ w.partition = P) :
    Booked P key s (stopWave key cause s) := by
  have hs' : ∃ w, s.wave key = some w := by obtain ⟨w, hw, _⟩ := hs; exact ⟨w, hw⟩
  have h1 := booked_endRun P key 2 s hs
  obtain ⟨w, hw, hp⟩ := hs
  unfold stopWave
  rw [show kget s.waves key = some w from hw]
  dsimp only
  generalize endRun key 2 s = t at h1 ⊢
  have h2 := booked_trans hs' h1 (booked_modWave P key
    (fun w => { freezeWave (cycleOf t (coreOf key)) w with
                stopped := true, stepping := none, stopReq := none, stopTime := t.time, stopCause := cause })
    (fun w => bookedWave_freeze _ w _ _) t)
  exact booked_trans hs' h2 (booked_foldTrace P key w.parts _ (booked_there hs' h2) _ (fun s p => ⟨_, by rw [hp]⟩))

theorem booked_stopIfAsked (P key : Nat) (s : State) (hs : ∃ w, s.wave key = some w ∧ w.partition = P) :
    Booked P key s (stopIfAsked key s) := by
  unfold stopIfAsked
  split
  · exact booked_stopWave P key _ s hs
  · exact booked_refl P key s

theorem booked_part {P key : Nat} {s t : State} (hs : ∃ w, s.wave key = some w ∧ w.partition = P) (h : Booked P key s t) :
    ∃ w, t.wave key = some w ∧ w.partition = P := by
  obtain ⟨w, hw, hp⟩ := hs
  obtain ⟨w', e, b⟩ := h.wave w hw
  refine ⟨w', e, ?_⟩
  rw [b.1]
  exact hp

/-- THE END OF A WORD only books: the port, counters, runs, the debugger and the trace. -/
theorem booked_endWord (c : Ctx) (cost : Nat) (ended : Option Nat) (s : State)
    (hs : ∃ w, s.wave c.key = some w ∧ w.partition = c.w.partition) :
    Booked c.w.partition c.key s (endWord c cost ended s) := by
  have hs' : ∀ {t}, Booked c.w.partition c.key s t → ∃ w, t.wave c.key = some w := fun h => by
    obtain ⟨w, e, _⟩ := booked_part hs h; exact ⟨w, e⟩
  have h0 : ∃ w, s.wave c.key = some w := by obtain ⟨w, e, _⟩ := hs; exact ⟨w, e⟩
  unfold endWord
  dsimp only
  generalize hn : c.p.prefixN + 1 = n
  have h1 : Booked c.w.partition c.key s
      ((countEvent (coreOf c.key) 0x02 (n * c.act.length) c.w.ctx (countEvent (coreOf c.key) 0x01 n c.w.ctx
        ((usePort c.w (cost + c.p.prefixN * passes c.p.n) s).modCore (coreOf c.key) fun x => { x with inst := (x.inst + n) % 2 ^ 48 }))).modWave
          c.key fun w => { w with sumWords := w.sumWords + n }) := by
    refine booked_trans h0 (booked_trans h0 (booked_trans h0 (booked_trans h0 (booked_usePort _ _ c.w _ s) (booked_modCore _ _ _ _ _))
      (booked_countEvent _ _ _ _ _ _ _)) (booked_countEvent _ _ _ _ _ _ _))
      (booked_modWave _ _ (fun w => { w with sumWords := w.sumWords + n }) (fun w => bookedWave_book w _ rfl rfl) _)
  generalize (State.modWave _ c.key fun w => { w with sumWords := w.sumWords + n }) = t at h1 ⊢
  split
  · exact h1
  · rename_i r hr
    have h2 : Booked c.w.partition c.key s (if r.words = 0 then traceSelect c.w c.p.q t else t) := by
      split
      · exact booked_trans h0 h1 (booked_traceSelect _ _ _ _ _)
      · exact h1
    generalize (if r.words = 0 then traceSelect c.w c.p.q t else t) = t2 at h2 ⊢
    generalize hr' : (if r.words = 0 then { r with pc := c.pc0, mask := laneMask c.act } else r) = r'
    have h3 := booked_trans h0 h2 (booked_runs c.w.partition c.key (kput t2.runs (quarterOf c.key) { r' with words := r'.words + n }) t2.focus t2)
    have h4 : ∀ k, Booked c.w.partition c.key s
        (stopRun c k { t2 with runs := kput t2.runs (quarterOf c.key) { r' with words := r'.words + n } }) := fun k =>
      booked_trans h0 h3 (booked_stopRun c k _ (hs' h3))
    have h5 : ∀ x, Booked c.w.partition c.key s x → Booked c.w.partition c.key s (stopIfAsked c.key x) := fun x hx =>
      booked_trans h0 hx (booked_stopIfAsked _ _ _ (booked_part hs hx))
    apply h5
    cases ended with
    | some cause => exact h4 cause
    | none =>
      dsimp only
      split
      · exact h4 0
      · split
        · exact h4 5
        · exact h3

/-! ## Writing a destination -/

theorem getV_setV (w : Wave) (r l r' l' : Nat) (x : Word) (h : l < 64) (h' : l' < 64) :
    (w.setV r l x).getV r' l' = if r' = r ∧ l' = l then x else w.getV r' l' := by
  unfold Wave.getV Wave.setV
  dsimp only
  rw [cellsGet_put]
  by_cases e : r' = r ∧ l' = l
  · rw [if_pos e, if_pos (by rw [e.1, e.2])]
  · rw [if_neg e, if_neg (by omega)]

/-- Nothing of the wave but its vector registers with their poison and error marks. -/
def KeptRegs (w w' : Wave) : Prop := w' = { w with v := w'.v, poison := w'.poison, flaws := w'.flaws }

theorem keptRegs_trans {w w' w'' : Wave} (h1 : KeptRegs w w') (h2 : KeptRegs w' w'') : KeptRegs w w'' := by
  unfold KeptRegs at *
  rw [h1] at h2
  exact h2

theorem keptRegs_setSpan (xs : List Word) (w : Wave) (r l : Nat) : KeptRegs w (w.setSpan r l xs) := by
  induction xs generalizing w r with
  | nil => rfl
  | cons x xs ih => exact keptRegs_trans (show KeptRegs w (w.setV r l x) from rfl) (ih (w.setV r l x) (r + 1))

theorem getV_setSpan (xs : List Word) (w : Wave) (r l r' l' : Nat) (h : l < 64) (h' : l' < 64) :
    (w.setSpan r l xs).getV r' l' = if l' = l ∧ r ≤ r' ∧ r' < r + xs.length then xs.getD (r' - r) 0#32 else w.getV r' l' := by
  induction xs generalizing w r with
  | nil =>
    simp only [Wave.setSpan, List.length_nil]
    rw [if_neg (by omega)]
  | cons x xs ih =>
    simp only [Wave.setSpan, List.length_cons]
    rw [ih, getV_setV w r l r' l' x h h']
    by_cases hl : l' = l
    · by_cases hr : r' = r
      · subst hr
        rw [if_neg (by omega), if_pos ⟨rfl, hl⟩, if_pos (by omega)]
        simp
      · by_cases h2 : r + 1 ≤ r' ∧ r' < r + 1 + xs.length
        · rw [if_pos ⟨hl, h2⟩, if_pos (by omega)]
          obtain ⟨k, hk⟩ : ∃ k, r' - r = k + 1 := ⟨r' - r - 1, by omega⟩
          rw [hk, show r' - (r + 1) = k by omega]
          simp
        · rw [if_neg (fun e => h2 e.2), if_neg (fun e => hr e.1), if_neg (by omega)]
    · rw [if_neg (fun e => hl e.1), if_neg (fun e => hl e.2), if_neg (fun e => hl e.1)]

theorem regNum_kept {w w' : Wave} (h : KeptRegs w w') (code : BitVec 7) (l : Nat) : regNum w' code l = regNum w code l := by
  rw [h]
  rfl

theorem keptRegs_writeLanes (code : BitVec 7) (f : Nat → List Word) (ls : List Nat) (w : Wave) : KeptRegs w (writeLanes code f w ls) := by
  induction ls generalizing w with
  | nil => rfl
  | cons l ls ih => exact keptRegs_trans (keptRegs_setSpan _ _ _ _) (ih _)

theorem getV_writeLanes (code : BitVec 7) (f : Nat → List Word) (ls : List Nat) (w : Wave) (hl : ∀ l ∈ ls, l < 64) (hn : ls.Nodup)
    (r l : Nat) (h : l < 64) :
    (writeLanes code f w ls).getV r l =
      if l ∈ ls ∧ regNum w code l ≤ r ∧ r < regNum w code l + (f l).length then (f l).getD (r - regNum w code l) 0#32 else w.getV r l := by
  induction ls generalizing w with
  | nil => simp [writeLanes]
  | cons a ls ih =>
    simp only [writeLanes]
    have hk := keptRegs_setSpan (f a) w (regNum w code a) a
    rw [ih _ (fun l hl' => hl l (List.mem_cons_of_mem _ hl')) (List.nodup_cons.1 hn).2, regNum_kept hk,
      getV_setSpan _ _ _ _ _ _ (hl a (List.mem_cons_self)) h]
    have hna := (List.nodup_cons.1 hn).1
    by_cases e : l = a
    · subst e
      rw [if_neg (fun x => hna x.1)]
      by_cases hr : regNum w code l ≤ r ∧ r < regNum w code l + (f l).length
      · rw [if_pos ⟨rfl, hr⟩, if_pos ⟨List.mem_cons_self, hr⟩]
      · rw [if_neg (fun x => hr x.2), if_neg (fun x => hr x.2)]
    · rw [if_neg (fun x : l = a ∧ _ => e x.1)]
      simp only [List.mem_cons, e, false_or]

theorem lanes_nodup (w : Wave) (p : Part) : (activeLanes w p).Nodup := by
  unfold activeLanes blockLanes
  refine List.Nodup.filter _ (List.Nodup.filter _ ?_)
  exact List.Nodup.map (fun a b h => by simpa using h) List.nodup_range

theorem lanes_lt (w : Wave) (p : Part) (l : Nat) (h : l ∈ activeLanes w p) : l < 64 := by
  unfold activeLanes blockLanes at h
  have := (List.mem_filter.1 h).1
  simpa using (List.mem_filter.1 this).2

/-- Nothing of a part but its view. -/
def KeptView (p p' : Part) : Prop := p' = { p with w := p'.w }

theorem keptView_setSpan (xs : List Word) (p : Part) (r : Nat) : KeptView p (p.setSpan r xs) := by
  induction xs generalizing p r with
  | nil => rfl
  | cons x xs ih =>
    have := ih (p.setW r x) (r + 1)
    unfold KeptView at *
    exact this

theorem getW_setSpan (xs : List Word) (p : Part) (r r' : Nat) :
    ((p.setSpan r xs).getW r').val = if r ≤ r' ∧ r' < r + xs.length then xs.getD (r' - r) 0#32 else (p.getW r').val := by
  induction xs generalizing p r with
  | nil =>
    simp only [Part.setSpan, List.length_nil]
    rw [if_neg (by omega)]
  | cons x xs ih =>
    simp only [Part.setSpan, List.length_cons]
    rw [ih]
    have h1 : ((p.setW r x).getW r').val = if r' = r then x else (p.getW r').val := by
      unfold Part.setW Part.getW
      dsimp only
      rw [getD_listPut]
      split <;> rfl
    rw [h1]
    by_cases hr : r' = r
    · subst hr
      rw [if_neg (by omega), if_pos rfl, if_pos (by omega)]
      simp
    · by_cases h2 : r + 1 ≤ r' ∧ r' < r + 1 + xs.length
      · rw [if_pos h2, if_pos (by omega)]
        obtain ⟨k, hk⟩ : ∃ k, r' - r = k + 1 := ⟨r' - r - 1, by omega⟩
        rw [hk, show r' - (r + 1) = k by omega]
        simp
      · rw [if_neg h2, if_neg hr, if_neg (by omega)]

/-! ## A word that writes one destination and falls through -/

theorem partMod_partMod (f g : Part → Part) (ps : List Part) (q : Nat) (hq : ∀ p, (f p).q = p.q) :
    partMod g (partMod f ps q) q = partMod (fun p => g (f p)) ps q := by
  induction ps with
  | nil => rfl
  | cons p ps ih =>
    simp only [partMod]
    split
    · rename_i h
      simp [partMod, hq, h]
    · rename_i h
      simp only [partMod, if_neg h, ih]

theorem partMod_id (ps : List Part) (q : Nat) : partMod (fun p => p) ps q = ps := by
  induction ps with
  | nil => rfl
  | cons p ps ih => simp only [partMod, ih]; split <;> rfl

/-- A change of the issuing part before its word takes effect: its windows have shrunk, its prefix group is used up, and CORR may be set. -/
def BegunPart (f : Part → Part) : Prop :=
  ∀ p, f p = { p with pend := (f p).pend, prefixPc := none, prefixHi := none, prefixK := none, prefixN := 0, timeout := none, corr := (f p).corr }

theorem correctReads_eq (q : Nat) (ls : List Nat) (os : List Opd) (w : Wave) :
    ∃ fl, ∃ b : Bool, (w.flaws = [] → b = false) ∧
      correctReads q ls os w = { w with flaws := fl, parts := partMod (fun p => { p with corr := b || p.corr }) w.parts q } := by
  unfold correctReads
  split
  · rename_i h
    refine ⟨_, true, fun e => ?_, rfl⟩
    simp [e] at h
  · refine ⟨w.flaws, false, fun _ => rfl, ?_⟩
    simp only [Bool.false_or]
    rw [partMod_id]

/-- The wave when its word takes its effect. -/
theorem begun_wave (c : Ctx) (g : Sig) (s : State) (hw : s.wave c.key = some c.w) :
    ∃ fl f, BegunPart f ∧ (c.w.flaws = [] → ∀ p, (f p).corr = p.corr) ∧
      (begun c g s).wave c.key = some { c.w with flaws := fl, parts := partMod f c.w.parts c.q } := by
  have key : ∀ (w : Wave), ∃ fl, ∃ b : Bool, (w.flaws = [] → b = false) ∧
      (if w.flaws.isEmpty then w else correctReads c.q c.act g.opds (correctReads c.q (guardLanes c) (guardOpds c.p) w)) =
        { w with flaws := fl, parts := partMod (fun p => { p with corr := b || p.corr }) w.parts c.q } := by
    intro w
    split
    · refine ⟨w.flaws, false, fun _ => rfl, ?_⟩
      simp only [Bool.false_or]
      rw [partMod_id]
    · rename_i hf
      obtain ⟨fl1, b1, -, e1⟩ := correctReads_eq c.q (guardLanes c) (guardOpds c.p) w
      rw [e1]
      obtain ⟨fl2, b2, -, e2⟩ := correctReads_eq c.q c.act g.opds
        { w with flaws := fl1, parts := partMod (fun p => { p with corr := b1 || p.corr }) w.parts c.q }
      rw [e2]
      refine ⟨fl2, b2 || b1, fun e => absurd (by simp [e]) hf, ?_⟩
      dsimp only
      rw [partMod_partMod (fun p => { p with corr := b1 || p.corr }) _ _ _ (fun _ => rfl)]
      simp only [Bool.or_assoc]
  obtain ⟨fl, b, hb, e⟩ := key c.w
  refine ⟨fl, fun p => { ungroup (shrinkWindows (c.p.pend.map (·.id)) { p with corr := b || p.corr }) with timeout := none },
    fun p => rfl, fun h p => ?_, ?_⟩
  · rw [hb h]; rfl
  · unfold begun
    rw [wave_modPart_same, wave_modWave_same, hw]
    simp only [Option.map_some]
    rw [e]
    dsimp only
    rw [partMod_partMod (fun p => { p with corr := b || p.corr }) _ _ _ (fun _ => rfl)]

theorem begun_other (c : Ctx) (g : Sig) (s : State) (k : Nat) (h : k ≠ c.key) : (begun c g s).wave k = s.wave k := by
  unfold begun
  rw [wave_modPart_other _ _ _ _ _ h, wave_modWave_other _ _ _ _ h]

theorem begun_state (c : Ctx) (g : Sig) (s : State) : begun c g s = { s with waves := (begun c g s).waves } := rfl

theorem fallThrough_cases (c : Ctx) (s : State) :
    ∃ n : Bool, ∃ f : Wave → Wave, (∀ w, f w = { w with sig := (f w).sig }) ∧
      fallThrough c s =
        (if n then countEvent (coreOf c.key) 0x06 1 c.w.ctx (s.modPart c.key c.q fallPart) else s.modPart c.key c.q fallPart).modWave c.key f := by
  unfold fallThrough
  dsimp only
  split
  · exact ⟨_, _, fun w => rfl, rfl⟩
  · refine ⟨false, id, fun w => rfl, ?_⟩
    simp only [Bool.false_eq_true, if_false, State.modWave]
    have : ∀ (m : KMap Wave) (k : Nat), kmod id m k = m := by
      intro m k
      induction m with
      | nil => rfl
      | cons e m ih => obtain ⟨a, b⟩ := e; simp only [kmod, ih, id]; split <;> rfl
    rw [this]

/-- The fields of a state that a change of waves leaves. -/
theorem kept_modWave (s : State) (key : Nat) (f : Wave → Wave) : KeptState s (s.modWave key f) := rfl

theorem kept_countEvent (core event n ctx : Nat) (s : State) : KeptState s (countEvent core event n ctx s) := by
  unfold countEvent
  split <;> rfl

theorem writeRegs_cases (c : Ctx) (code : BitVec 7) (f : Nat → List Word) (s : State) (ha : c.act ≠ []) :
    writeRegs c code f s =
      if codeIsVec code = true then s.modWave c.key fun w => writeLanes code f w c.act
      else if codeIsW code = true then s.modPart c.key c.q fun p => p.setSpan (code.toNat - 0x60) (f c.l0)
      else s := by
  unfold writeRegs Ctx.l0
  split
  · rfl
  · split
    · cases h : c.act with
      | nil => exact absurd h ha
      | cons l ls => rfl
    · rfl

/-- THE FRAME LEMMA of a word that writes one destination and falls through. -/
theorem wrote_fall (z : Bool) (s : State) (c : Ctx) (code : BitVec 7) (f : Nat → List Word) (g0 : Sig) (k : Nat) (ended : Option Nat)
    (hc : issueCtx z s = some c) (ha : c.act ≠ []) :
    Wrote s (endWord c k ended (fallThrough c (writeRegs c code f (begun c g0 s)))) c code f := by
  obtain ⟨hw, hp, -, hact⟩ := issueCtx_eq z s c hc
  have hlt : ∀ l ∈ c.act, l < 64 := fun l hl => by rw [hact] at hl; exact lanes_lt _ _ l hl
  have hnd : c.act.Nodup := by rw [hact]; exact lanes_nodup _ _
  -- the wave and the state when the word is over
  obtain ⟨fl, bp, hbp, hcorr, hbw⟩ := begun_wave c g0 s hw
  have hgp : ∀ p : Part, (bp p).q = p.q := fun p => by rw [hbp]
  have hsp : ∀ p : Part, (p.setSpan (code.toNat - 0x60) (f c.l0)).q = p.q := fun p => by rw [keptView_setSpan]
  obtain ⟨n, g, hg, hft⟩ := fallThrough_cases c (writeRegs c code f (begun c g0 s))
  rw [hft, writeRegs_cases c code f _ ha]
  have hbo := fun k hk => begun_other c g0 s k hk
  have hbs := begun_state c g0 s
  generalize begun c g0 s = b at hbw hbo hbs hft ⊢
  generalize hu : (State.modWave _ c.key g) = u
  have hwave : ∃ w3, u.wave c.key = some w3 ∧ w3.partition = c.w.partition ∧ KeptWave c.w w3 ∧
      (∀ r l, l < 64 → w3.getV r l =
        if codeIsVec code = true ∧ l ∈ c.act ∧ regNum c.w code l ≤ r ∧ r < regNum c.w code l + (f l).length then
          (f l).getD (r - regNum c.w code l) 0#32 else c.w.getV r l) ∧
      (∃ p3, partAt w3.parts c.q = some p3 ∧ KeptPart c.p p3 ∧ p3.pc = (fallPart c.p).pc ∧ p3.loops = (fallPart c.p).loops ∧
        (c.w.flaws = [] → p3.corr = c.p.corr) ∧
        ∀ r, (p3.getW r).val = if codeIsVec code = false ∧ codeIsW code = true ∧ code.toNat - 0x60 ≤ r ∧
          r < code.toNat - 0x60 + (f c.l0).length then (f c.l0).getD (r - (code.toNat - 0x60)) 0#32 else (c.p.getW r).val) ∧
      (∀ q, q ≠ c.q → partAt w3.parts q = partAt c.w.parts q) := by
    have hfp : ∀ p : Part, ∃ a b, fallPart p = { p with pc := a, loops := b } := fun p => by
      unfold fallPart
      split
      · exact ⟨_, _, rfl⟩
      · split
        · split
          · exact ⟨_, _, rfl⟩
          · exact ⟨_, _, rfl⟩
        · exact ⟨_, _, rfl⟩
    have hfq : ∀ p : Part, (fallPart p).q = p.q := fun p => by simp
    have hfe : ∀ p p' : Part, p'.pc = p.pc → p'.loops = p.loops → (fallPart p').pc = (fallPart p).pc ∧
        (fallPart p').loops = (fallPart p).loops := fun p p' h1 h2 => by
      unfold fallPart
      rw [h1, h2]
      cases p.loops.getLast? with
      | none => exact ⟨rfl, rfl⟩
      | some l => dsimp only; split <;> (try split) <;> exact ⟨rfl, rfl⟩
    have hcount : ∀ (x : State), ((if n then countEvent (coreOf c.key) 0x06 1 c.w.ctx x else x).modWave c.key g).wave c.key =
        (x.wave c.key).map g := fun x => by
      rw [wave_modWave_same]
      split
      · rw [wave_eq x _ c.key (by simp)]
      · rfl
    by_cases hv : codeIsVec code = true
    · rw [if_pos hv] at hu
      refine ⟨g { writeLanes code f { c.w with flaws := fl, parts := partMod bp c.w.parts c.q } c.act with
          parts := partMod fallPart (partMod bp c.w.parts c.q) c.q }, ?_, ?_, ?_, ?_, ?_, ?_⟩
      · rw [← hu, hcount, wave_modPart_same, wave_modWave_same, hbw]
        dsimp only [Option.map_some]
        rw [(keptRegs_writeLanes code f c.act _)]
      · rw [hg, (keptRegs_writeLanes code f c.act _)]
      · unfold KeptWave
        rw [hg, (keptRegs_writeLanes code f c.act _)]
      · intro r l hl
        have := getV_writeLanes code f c.act { c.w with flaws := fl, parts := partMod bp c.w.parts c.q } hlt hnd r l hl
        rw [hg]
        have e1 : regNum { c.w with flaws := fl, parts := partMod bp c.w.parts c.q } code l = regNum c.w code l := rfl
        rw [e1] at this
        simp only [hv, true_and]
        exact this
      · refine ⟨fallPart (bp c.p), ?_, ?_, ?_, ?_, ?_, ?_⟩
        · rw [hg]
          dsimp only
          rw [partAt_partMod_same _ _ _ hfq, partAt_partMod_same _ _ _ hgp, hp]
          rfl
        · obtain ⟨a, b, e⟩ := hfp (bp c.p)
          rw [e]
          unfold KeptPart
          rw [hbp c.p]
        · exact (hfe c.p (bp c.p) (by rw [hbp]) (by rw [hbp])).1
        · exact (hfe c.p (bp c.p) (by rw [hbp]) (by rw [hbp])).2
        · intro hf
          rw [fallPart_corr]
          exact hcorr hf c.p
        · intro r
          rw [if_neg (by rw [hv]; simp)]
          obtain ⟨a, b, e⟩ := hfp (bp c.p)
          rw [e, hbp c.p]
          rfl
      · intro q hq
        rw [hg]
        dsimp only
        rw [partAt_partMod_other _ _ _ _ hfq hq, partAt_partMod_other _ _ _ _ hgp hq]
    · rw [if_neg hv] at hu
      have hv' : codeIsVec code = false := by simpa using hv
      by_cases hu2 : codeIsW code = true
      · rw [if_pos hu2] at hu
        refine ⟨g { c.w with flaws := fl, parts := partMod fallPart (partMod (fun p => p.setSpan (code.toNat - 0x60) (f c.l0))
            (partMod bp c.w.parts c.q) c.q) c.q }, ?_, ?_, ?_, ?_, ?_, ?_⟩
        · rw [← hu, hcount, wave_modPart_same, wave_modPart_same, hbw]
          rfl
        · rw [hg]
        · unfold KeptWave
          rw [hg]
        · intro r l hl
          rw [if_neg (by rw [hv']; simp), hg]
          rfl
        · refine ⟨fallPart ((bp c.p).setSpan (code.toNat - 0x60) (f c.l0)), ?_, ?_, ?_, ?_, ?_, ?_⟩
          · rw [hg]
            dsimp only
            rw [partAt_partMod_same _ _ _ hfq, partAt_partMod_same _ _ _ hsp, partAt_partMod_same _ _ _ hgp, hp]
            rfl
          · obtain ⟨a, b, e⟩ := hfp ((bp c.p).setSpan (code.toNat - 0x60) (f c.l0))
            rw [e, keptView_setSpan]
            unfold KeptPart
            rw [hbp c.p]
          · exact (hfe c.p _ (by rw [keptView_setSpan, hbp]) (by rw [keptView_setSpan, hbp])).1
          · exact (hfe c.p _ (by rw [keptView_setSpan, hbp]) (by rw [keptView_setSpan, hbp])).2
          · intro hf
            rw [fallPart_corr, keptView_setSpan]
            exact hcorr hf c.p
          · intro r
            have h1 := getW_setSpan (f c.l0) (bp c.p) (code.toNat - 0x60) r
            obtain ⟨a, b, e⟩ := hfp ((bp c.p).setSpan (code.toNat - 0x60) (f c.l0))
            rw [e]
            simp only [hv', hu2, true_and]
            rw [show c.p.getW r = (bp c.p).getW r by rw [hbp c.p]; rfl]
            exact h1
        · intro q hq
          rw [hg]
          dsimp only
          rw [partAt_partMod_other _ _ _ _ hfq hq, partAt_partMod_other _ _ _ _ hsp hq, partAt_partMod_other _ _ _ _ hgp hq]
      · rw [if_neg hu2] at hu
        refine ⟨g { c.w with flaws := fl, parts := partMod fallPart (partMod bp c.w.parts c.q) c.q }, ?_, ?_, ?_, ?_, ?_, ?_⟩
        · rw [← hu, hcount, wave_modPart_same, hbw]
          rfl
        · rw [hg]
        · unfold KeptWave
          rw [hg]
        · intro r l hl
          rw [if_neg (by rw [hv']; simp), hg]
          rfl
        · refine ⟨fallPart (bp c.p), ?_, ?_, ?_, ?_, ?_, ?_⟩
          · rw [hg]
            dsimp only
            rw [partAt_partMod_same _ _ _ hfq, partAt_partMod_same _ _ _ hgp, hp]
            rfl
          · obtain ⟨a, b, e⟩ := hfp (bp c.p)
            rw [e]
            unfold KeptPart
            rw [hbp c.p]
          · exact (hfe c.p (bp c.p) (by rw [hbp]) (by rw [hbp])).1
          · exact (hfe c.p (bp c.p) (by rw [hbp]) (by rw [hbp])).2
          · intro hf
            rw [fallPart_corr]
            exact hcorr hf c.p
          · intro r
            rw [if_neg (fun x => hu2 x.2.1)]
            obtain ⟨a, b, e⟩ := hfp (bp c.p)
            rw [e, hbp c.p]
            rfl
        · intro q hq
          rw [hg]
          dsimp only
          rw [partAt_partMod_other _ _ _ _ hfq hq, partAt_partMod_other _ _ _ _ hgp hq]
  have hkept : u = { s with cores := u.cores, waves := u.waves } := by
    rw [← hu, hbs]
    split <;> split <;> (try split) <;> first | rfl | (unfold countEvent; split <;> rfl)
  have hothers : ∀ k, k ≠ c.key → u.wave k = s.wave k := by
    intro k hk
    have hco : ∀ (x : State), ((if n then countEvent (coreOf c.key) 0x06 1 c.w.ctx x else x).modWave c.key g).wave k = x.wave k :=
      fun x => by
        rw [wave_modWave_other _ _ _ _ hk]
        split
        · rw [wave_eq x _ k (by simp)]
        · rfl
    rw [← hu, hco, wave_modPart_other _ _ _ _ _ hk]
    split
    · rw [wave_modWave_other _ _ _ _ hk, hbo k hk]
    · split
      · rw [wave_modPart_other _ _ _ _ _ hk, hbo k hk]
      · exact hbo k hk
  obtain ⟨w3, e3, hpart, hk3, hv3, ⟨p3, ep3, kp3, pc3, lo3, co3, uw3⟩, ho3⟩ := hwave
  have hb := booked_endWord c k ended u ⟨w3, e3, hpart⟩
  generalize endWord c k ended u = t at hb
  obtain ⟨w4, e4, b4⟩ := hb.wave w3 e3
  have hvv : ∀ r l, w4.getV r l = w3.getV r l := fun r l => by rw [b4.1]; rfl
  have hp4 : ∀ q p, partAt w3.parts q = some p → ∃ p', partAt w4.parts q = some p' ∧ RestedPart p p' := fun q p h => by
    have := b4.2 q
    rw [h] at this
    exact this
  have hp4n : ∀ q, partAt w3.parts q = none → partAt w4.parts q = none := fun q h => by
    have := b4.2 q
    rw [h] at this
    exact this
  refine ⟨?_, ?_, ?_, ?_, ?_, ?_, ?_, ?_⟩
  · intro r l hl
    simp only [vAt, e4, hw, Option.map_some, Option.getD_some]
    rw [hvv, hv3 r l hl]
  · intro q r
    by_cases hq : q = c.q
    · subst hq
      obtain ⟨p4, e, r4⟩ := hp4 c.q p3 ep3
      simp only [uAt, State.part, e4, hw, Option.bind_some, e, hp, Option.map_some, Option.getD_some, true_and]
      rw [show (p4.getW r).val = (p3.getW r).val by rw [r4]; rfl, uw3]
    · rw [if_neg (fun x => hq x.2.2.1)]
      simp only [uAt, State.part, e4, hw, Option.bind_some]
      rw [← ho3 q hq]
      cases h : partAt w3.parts q with
      | none => rw [hp4n q h]
      | some p =>
        obtain ⟨p', e, r4⟩ := hp4 q p h
        rw [e]
        simp only [Option.map_some, Option.getD_some]
        rw [r4]
        rfl
  · obtain ⟨p4, e, r4⟩ := hp4 c.q p3 ep3
    refine ⟨p4, by simp only [State.part, e4, Option.bind_some]; exact e, ?_, ?_, ?_, ?_⟩
    · unfold KeptPart at *
      rw [r4, kp3]
    · rw [r4]; exact pc3
    · rw [r4]; exact lo3
    · intro hf
      rw [r4]
      exact co3 hf
  · intro q p hq hpq
    simp only [State.part, hw, Option.bind_some] at hpq
    rw [← ho3 q hq] at hpq
    obtain ⟨p', e, r4⟩ := hp4 q p hpq
    exact ⟨p', by simp only [State.part, e4, Option.bind_some]; exact e, r4⟩
  · refine ⟨w4, e4, ?_⟩
    unfold KeptWave at *
    rw [b4.1, hk3]
  · intro a ha'
    rw [hb.waves a ha', hothers a ha']
  · rw [hb.wgs, hkept]
  · intro he
    have := hb.state (fun w hw' => by rw [e3] at hw'; cases hw'; exact hpart) (by rw [hkept]; exact he)
    have h2 := this.1
    rw [hkept] at h2
    exact h2

/-- A word whose effect is to write one destination completes by writing it. -/
theorem writesDIf_intro (P : State → Ctx → Prop) (i : Bool → Instr) (sig : Ctx → Sig) (d : BitVec 7) (f : Ctx → Nat → List Word)
    (idle body : Ctx → State → Res) (he : ∀ z s, exec (i z) s = issueWord z sig idle body s)
    (hb : ∀ z s c, Ready z s c (sig c) → P s c → ∃ k u, body c (begun c (sig c) s) = .fall u k ∧ u = writeRegs c d (f c) (begun c (sig c) s)) :
    WritesDIf P i sig d f := by
  intro z s c h hp
  obtain ⟨k, u, hk, rfl⟩ := hb z s c h hp
  refine ⟨_, ?_, wrote_fall z s c d (f c) (sig c) (k * passes c.p.n + redirect c (writeRegs c d (f c) (begun c (sig c) s))) none h.ctx h.live⟩
  rw [he, issueWord_ready z sig idle body s c h, hk, finish_fall]

theorem writesD_intro (i : Bool → Instr) (sig : Ctx → Sig) (d : BitVec 7) (f : Ctx → Nat → List Word) (idle body : Ctx → State → Res)
    (he : ∀ z s, exec (i z) s = issueWord z sig idle body s)
    (hb : ∀ z s c, Ready z s c (sig c) → ∃ k u, body c (begun c (sig c) s) = .fall u k ∧ u = writeRegs c d (f c) (begun c (sig c) s)) :
    WritesD i sig d f := fun z s c h =>
  writesDIf_intro (fun _ _ => True) i sig d f idle body he (fun z s c h _ => hb z s c h) z s c h trivial

/-- A word whose effect lets the part fall through completes with that effect. -/
theorem fallsIf_intro (P : State → Ctx → Prop) (i : Bool → Instr) (sig : Ctx → Sig) (cost : Ctx → Nat) (eff : Ctx → State → State)
    (idle body : Ctx → State → Res) (he : ∀ z s, exec (i z) s = issueWord z sig idle body s)
    (hb : ∀ z s c, Ready z s c (sig c) → P s c → body c (begun c (sig c) s) = .fall (eff c (begun c (sig c) s)) (cost c)) :
    FallsIf P i sig cost eff := by
  intro z s c h hp
  rw [he, issueWord_ready z sig idle body s c h, hb z s c h hp, finish_fall]

theorem falls_intro (i : Bool → Instr) (sig : Ctx → Sig) (cost : Ctx → Nat) (eff : Ctx → State → State) (idle body : Ctx → State → Res)
    (he : ∀ z s, exec (i z) s = issueWord z sig idle body s)
    (hb : ∀ z s c, Ready z s c (sig c) → body c (begun c (sig c) s) = .fall (eff c (begun c (sig c) s)) (cost c)) : Falls i sig cost eff :=
  fallsIf_intro _ i sig cost eff idle body he (fun z s c h _ => hb z s c h)

/-- A memory word whose effect lets the part fall through completes with that effect once its accesses resolve. -/
theorem memFallsIn_intro (awake : Ctx → List Nat) (reads : Bool) (i : Bool → Instr) (sig : Ctx → Sig) (reqs : Ctx → List Req) (align : Ctx → Nat) (acc : Acc)
    (extra : State → Ctx → Req → Bool) (eff : Ctx → List (Nat × Places) → State → State) (idle body : Ctx → State → Res)
    (he : ∀ z s, exec (i z) s = issueWord z sig idle body s)
    (hb : ∀ s c u ps, memAccess c.w (reqs c) (align c) acc (extra (begun c (sig c) s) c) (begun c (sig c) s) = .ok u ps →
      takeWaits c (awake c) = [] → (reads = true → (ps.any fun x => placesPoisoned u x.2) = false) → body c (begun c (sig c) s) = .fall (eff c ps u) 1) :
    MemFallsIn awake reads i sig reqs align acc extra eff := by
  intro z s c u ps h hm ht hp
  rw [he, issueWord_ready z sig idle body s c h, hb s c u ps ((memAccess_ok_iff _ _ _ _ _ _ _ _).2 hm) ht hp, finish_fall, Nat.one_mul]

/-- A memory word whose accesses resolve takes what it does with them; one of poisoned data is stopped by `poisonRes_clean`. -/
theorem memWord_ok (c : Ctx) (reqs : List Req) (align : Nat) (a : Acc) (extra : Req → Bool) (k : State → List (Nat × Places) → Res)
    (s u : State) (ps : List (Nat × Places)) (h : memAccess c.w reqs align a extra s = .ok u ps)
    (ht : takeWaits c c.act = []) : memWord c reqs align a extra k s = k u ps := by
  simp [memWord, afterTakes, h, ht]

/-- No lane of two sets sleeps if none of either does. -/
theorem takeWaits_append (c : Ctx) (l m : List Nat) : takeWaits c (l ++ m) = [] ↔ takeWaits c l = [] ∧ takeWaits c m = [] := by
  unfold takeWaits
  split
  · simp
  · simp only [List.map_eq_nil_iff, List.filter_eq_nil_iff, List.any_eq_true, not_exists, ← forall_and]
    refine forall_congr' fun x => ?_
    simp only [List.contains_eq_mem, List.mem_append, Bool.and_eq_true, decide_eq_true_eq]
    refine forall_congr' fun _ => forall_congr' fun k => ?_
    tauto

/-- The same for a word that is a release by the part. -/
theorem releaseWord_ok (c : Ctx) (reqs : List Req) (align : Nat) (a : Acc) (extra : Req → Bool) (k : State → List (Nat × Places) → Res)
    (s u : State) (ps : List (Nat × Places)) (h : memAccess c.w reqs align a extra s = .ok u ps)
    (ht : takeWaits c (c.act ++ blockLanes c.p.q c.p.n) = []) : releaseWord c reqs align a extra k s = k u ps := by
  obtain ⟨h1, h2⟩ := (takeWaits_append c _ _).1 ht
  simp [releaseWord, memWord_ok c reqs align a extra _ s u ps h h1, afterTakes, h2]

theorem poisonRes_clean (s : State) (ps : List (Nat × Places)) (k : Res) (h : (ps.any fun x => placesPoisoned s x.2) = false) :
    poisonRes s ps k = k := by
  simp [poisonRes, h]

/-- A word whose effect is a trap traps. -/
theorem trapsIf_intro (P : State → Ctx → Prop) (i : Bool → Instr) (sig : Ctx → Sig) (tr : Ctx → Trap) (idle body : Ctx → State → Res)
    (he : ∀ z s, exec (i z) s = issueWord z sig idle body s)
    (hb : ∀ z s c, Ready z s c (sig c) → P s c → body c (begun c (sig c) s) = .trap (begun c (sig c) s) (tr c)) : TrapsIf P i sig tr := by
  intro z s c h hp
  rw [he, issueWord_ready z sig idle body s c h, hb z s c h hp]
  rfl

/-- A word that gives up the port waits. -/
theorem waitsIf_intro (P : State → Ctx → Prop) (i : Bool → Instr) (sig : Ctx → Sig) (wt : Ctx → Wait) (idle body : Ctx → State → Res)
    (he : ∀ z s, exec (i z) s = issueWord z sig idle body s)
    (hb : ∀ z s c, Ready z s c (sig c) → P s c → body c (begun c (sig c) s) = .brk (wt c)) : WaitsIf P i sig wt := by
  intro z s c h hp
  rw [he, issueWord_ready z sig idle body s c h, hb z s c h hp]
  rfl

/-- A word that goes to a target jumps. -/
theorem jumpsIf_intro (P : State → Ctx → Prop) (i : Bool → Instr) (sig : Ctx → Sig) (target : Ctx → Word) (eff : Ctx → State → State) (idle body : Ctx → State → Res)
    (he : ∀ z s, exec (i z) s = issueWord z sig idle body s)
    (hb : ∀ z s c, Ready z s c (sig c) → P s c → body c (begun c (sig c) s) = .goto (eff c (begun c (sig c) s)) (target c)) : JumpsIf P i sig target eff := by
  intro z s c h hp
  rw [he, issueWord_ready z sig idle body s c h, hb z s c h hp]
  rfl

/-- A word that ends in a wait rests. -/
theorem restsIf_intro (P : State → Ctx → Prop) (i : Bool → Instr) (sig : Ctx → Sig) (wt : Ctx → State → Wait) (eff : Ctx → State → State) (idle body : Ctx → State → Res)
    (he : ∀ z s, exec (i z) s = issueWord z sig idle body s)
    (hb : ∀ z s c, Ready z s c (sig c) → P s c → body c (begun c (sig c) s) = .rest (eff c (begun c (sig c) s)) (wt c (begun c (sig c) s))) : RestsIf P i sig wt eff := by
  intro z s c h hp
  rw [he, issueWord_ready z sig idle body s c h, hb z s c h hp]
  rfl

/-- A word that places its part itself, and whose run goes on or ends. -/
theorem placesIf_intro (P : State → Ctx → Prop) (i : Bool → Instr) (sig : Ctx → Sig) (ended : Option Nat) (eff : Ctx → State → State)
    (idle body : Ctx → State → Res) (he : ∀ z s, exec (i z) s = issueWord z sig idle body s)
    (hb : ∀ z s c, Ready z s c (sig c) → P s c → body c (begun c (sig c) s) =
      match ended with
      | none => .stay (eff c (begun c (sig c) s))
      | some cause => .custom (eff c (begun c (sig c) s)) cause) : PlacesIf P i sig ended eff := by
  intro z s c h hp
  rw [he, issueWord_ready z sig idle body s c h, hb z s c h hp]
  cases ended <;> rfl

/-- A word with no active lane. -/
theorem idlesFor_intro (P : State → Ctx → Prop) (i : Bool → Instr) (sig : Ctx → Sig) (cost : Ctx → Nat) (eff : Ctx → State → State)
    (idle body : Ctx → State → Res)
    (he : ∀ z s, exec (i z) s = issueWord z sig idle body s) (hn : ∀ c, (sig c).minQuads = none)
    (hb : ∀ s c, P s c → idle c (begun c noSig s) = .fall (eff c (begun c noSig s)) (cost c)) : IdlesFor P i cost eff := by
  intro z s c h1 h2 h4 h3 hp
  rw [he, issueWord_idle z sig idle body s c h1 h2 h4 (by simp [tooNarrow, hn]) h3, hb s c hp]
  rfl

end Sys2Proof.Laws
end

