-- ==== Sys2Proof/Laws/Words.lean ====
section
/-! SUPPORT. The fields of the words that the encoder builds: each field reads back as what was put in (R73, R75). -/

namespace Sys2Proof.Laws

/-- The high part of two strings put together. -/
theorem extract_high {n m : Nat} (x : BitVec n) (y : BitVec m) (a b : Nat) :
    (x ++ y).extractLsb' (m + a) b = x.extractLsb' a b := by
  ext i hi
  rw [BitVec.getElem_extractLsb', BitVec.getElem_extractLsb', BitVec.getLsbD_append, if_neg (by omega)]
  congr 1
  omega

/-- A part that lies in the low string. -/
theorem extract_low {n m : Nat} (x : BitVec n) (y : BitVec m) (a b : Nat) (h : a + b ≤ m) :
    (x ++ y).extractLsb' a b = y.extractLsb' a b := by
  ext i hi
  rw [BitVec.getElem_extractLsb', BitVec.getElem_extractLsb', BitVec.getLsbD_append, if_pos (by omega)]

/-- All of a string. -/
@[simp] theorem extract_all {n : Nat} (x : BitVec n) : x.extractLsb' 0 n = x := by
  ext i hi
  simp

@[simp] theorem fieldMaj_wordA (z : Bool) (m : BitVec 6) (d a b : BitVec 7) (f : BitVec 4) : fieldMaj (wordA z m d a b f) = m :=
  (extract_high (n := 28) (m := 4) _ f 21 6) |>.trans (extract_high (n := 21) (m := 7) _ b 14 6) |>.trans (extract_high (n := 14) (m := 7) _ a 7 6) |>.trans (extract_high (n := 7) (m := 7) _ d 0 6) |>.trans (extract_low (n := 1) (m := 6) _ m 0 6 (by decide)) |>.trans (extract_all m)

@[simp] theorem fieldZ_wordA (z : Bool) (m : BitVec 6) (d a b : BitVec 7) (f : BitVec 4) : fieldZ (wordA z m d a b f) = z := by
  have h : (wordA z m d a b f).extractLsb' 31 1 = BitVec.ofBool z :=
    (extract_high (n := 28) (m := 4) _ f 27 1) |>.trans (extract_high (n := 21) (m := 7) _ b 20 1) |>.trans (extract_high (n := 14) (m := 7) _ a 13 1) |>.trans (extract_high (n := 7) (m := 7) _ d 6 1) |>.trans (extract_high (n := 1) (m := 6) _ m 0 1) |>.trans (extract_all (BitVec.ofBool z))
  have e : (wordA z m d a b f).getLsbD 31 = ((wordA z m d a b f).extractLsb' 31 1).getLsbD 0 := by
    rw [BitVec.getLsbD_extractLsb']; rfl
  rw [fieldZ, e, h]
  cases z <;> rfl

@[simp] theorem fieldD_wordA (z : Bool) (m : BitVec 6) (d a b : BitVec 7) (f : BitVec 4) : fieldD (wordA z m d a b f) = d :=
  (extract_high (n := 28) (m := 4) _ f 14 7) |>.trans (extract_high (n := 21) (m := 7) _ b 7 7) |>.trans (extract_high (n := 14) (m := 7) _ a 0 7) |>.trans (extract_low (n := 7) (m := 7) _ d 0 7 (by decide)) |>.trans (extract_all d)

@[simp] theorem fieldA_wordA (z : Bool) (m : BitVec 6) (d a b : BitVec 7) (f : BitVec 4) : fieldA (wordA z m d a b f) = a :=
  (extract_high (n := 28) (m := 4) _ f 7 7) |>.trans (extract_high (n := 21) (m := 7) _ b 0 7) |>.trans (extract_low (n := 14) (m := 7) _ a 0 7 (by decide)) |>.trans (extract_all a)

@[simp] theorem fieldB_wordA (z : Bool) (m : BitVec 6) (d a b : BitVec 7) (f : BitVec 4) : fieldB (wordA z m d a b f) = b :=
  (extract_high (n := 28) (m := 4) _ f 0 7) |>.trans (extract_low (n := 21) (m := 7) _ b 0 7 (by decide)) |>.trans (extract_all b)

@[simp] theorem fieldF_wordA (z : Bool) (m : BitVec 6) (d a b : BitVec 7) (f : BitVec 4) : fieldF (wordA z m d a b f) = f :=
  (extract_low (n := 28) (m := 4) _ f 0 4 (by decide)) |>.trans (extract_all f)

@[simp] theorem fieldMaj_wordS (z : Bool) (m : BitVec 6) (d : BitVec 7) (s : BitVec 14) (f : BitVec 4) : fieldMaj (wordS z m d s f) = m :=
  (extract_high (n := 28) (m := 4) _ f 21 6) |>.trans (extract_high (n := 14) (m := 14) _ s 7 6) |>.trans (extract_high (n := 7) (m := 7) _ d 0 6) |>.trans (extract_low (n := 1) (m := 6) _ m 0 6 (by decide)) |>.trans (extract_all m)

@[simp] theorem fieldZ_wordS (z : Bool) (m : BitVec 6) (d : BitVec 7) (s : BitVec 14) (f : BitVec 4) : fieldZ (wordS z m d s f) = z := by
  have h : (wordS z m d s f).extractLsb' 31 1 = BitVec.ofBool z :=
    (extract_high (n := 28) (m := 4) _ f 27 1) |>.trans (extract_high (n := 14) (m := 14) _ s 13 1) |>.trans (extract_high (n := 7) (m := 7) _ d 6 1) |>.trans (extract_high (n := 1) (m := 6) _ m 0 1) |>.trans (extract_all (BitVec.ofBool z))
  have e : (wordS z m d s f).getLsbD 31 = ((wordS z m d s f).extractLsb' 31 1).getLsbD 0 := by
    rw [BitVec.getLsbD_extractLsb']; rfl
  rw [fieldZ, e, h]
  cases z <;> rfl

@[simp] theorem fieldD_wordS (z : Bool) (m : BitVec 6) (d : BitVec 7) (s : BitVec 14) (f : BitVec 4) : fieldD (wordS z m d s f) = d :=
  (extract_high (n := 28) (m := 4) _ f 14 7) |>.trans (extract_high (n := 14) (m := 14) _ s 0 7) |>.trans (extract_low (n := 7) (m := 7) _ d 0 7 (by decide)) |>.trans (extract_all d)

@[simp] theorem fieldSel_wordS (z : Bool) (m : BitVec 6) (d : BitVec 7) (s : BitVec 14) (f : BitVec 4) : fieldSel (wordS z m d s f) = s :=
  (extract_high (n := 28) (m := 4) _ f 0 14) |>.trans (extract_low (n := 14) (m := 14) _ s 0 14 (by decide)) |>.trans (extract_all s)

@[simp] theorem fieldF_wordS (z : Bool) (m : BitVec 6) (d : BitVec 7) (s : BitVec 14) (f : BitVec 4) : fieldF (wordS z m d s f) = f :=
  (extract_low (n := 28) (m := 4) _ f 0 4 (by decide)) |>.trans (extract_all f)

@[simp] theorem fieldMaj_wordJ18 (z : Bool) (m : BitVec 6) (a : BitVec 7) (o : BitVec 18) : fieldMaj (wordJ18 z m a o) = m :=
  (extract_high (n := 14) (m := 18) _ o 7 6) |>.trans (extract_high (n := 7) (m := 7) _ a 0 6) |>.trans (extract_low (n := 1) (m := 6) _ m 0 6 (by decide)) |>.trans (extract_all m)

@[simp] theorem fieldZ_wordJ18 (z : Bool) (m : BitVec 6) (a : BitVec 7) (o : BitVec 18) : fieldZ (wordJ18 z m a o) = z := by
  have h : (wordJ18 z m a o).extractLsb' 31 1 = BitVec.ofBool z :=
    (extract_high (n := 14) (m := 18) _ o 13 1) |>.trans (extract_high (n := 7) (m := 7) _ a 6 1) |>.trans (extract_high (n := 1) (m := 6) _ m 0 1) |>.trans (extract_all (BitVec.ofBool z))
  have e : (wordJ18 z m a o).getLsbD 31 = ((wordJ18 z m a o).extractLsb' 31 1).getLsbD 0 := by
    rw [BitVec.getLsbD_extractLsb']; rfl
  rw [fieldZ, e, h]
  cases z <;> rfl

@[simp] theorem fieldD_wordJ18 (z : Bool) (m : BitVec 6) (a : BitVec 7) (o : BitVec 18) : fieldD (wordJ18 z m a o) = a :=
  (extract_high (n := 14) (m := 18) _ o 0 7) |>.trans (extract_low (n := 7) (m := 7) _ a 0 7 (by decide)) |>.trans (extract_all a)

@[simp] theorem fieldO18_wordJ18 (z : Bool) (m : BitVec 6) (a : BitVec 7) (o : BitVec 18) : fieldO18 (wordJ18 z m a o) = o :=
  (extract_low (n := 14) (m := 18) _ o 0 18 (by decide)) |>.trans (extract_all o)

@[simp] theorem fieldMaj_wordJ25 (z : Bool) (m : BitVec 6) (o : BitVec 25) : fieldMaj (wordJ25 z m o) = m :=
  (extract_high (n := 7) (m := 25) _ o 0 6) |>.trans (extract_low (n := 1) (m := 6) _ m 0 6 (by decide)) |>.trans (extract_all m)

@[simp] theorem fieldZ_wordJ25 (z : Bool) (m : BitVec 6) (o : BitVec 25) : fieldZ (wordJ25 z m o) = z := by
  have h : (wordJ25 z m o).extractLsb' 31 1 = BitVec.ofBool z :=
    (extract_high (n := 7) (m := 25) _ o 6 1) |>.trans (extract_high (n := 1) (m := 6) _ m 0 1) |>.trans (extract_all (BitVec.ofBool z))
  have e : (wordJ25 z m o).getLsbD 31 = ((wordJ25 z m o).extractLsb' 31 1).getLsbD 0 := by
    rw [BitVec.getLsbD_extractLsb']; rfl
  rw [fieldZ, e, h]
  cases z <;> rfl

@[simp] theorem fieldO25_wordJ25 (z : Bool) (m : BitVec 6) (o : BitVec 25) : fieldO25 (wordJ25 z m o) = o :=
  (extract_low (n := 7) (m := 25) _ o 0 25 (by decide)) |>.trans (extract_all o)

@[simp] theorem fieldMaj_wordM (z : Bool) (m : BitVec 6) (t : BitVec 3) (a b : BitVec 7) (v l : BitVec 4) : fieldMaj (wordM z m t a b v l) = m :=
  (extract_high (n := 28) (m := 4) _ l 21 6) |>.trans (extract_high (n := 24) (m := 4) _ v 17 6) |>.trans (extract_high (n := 17) (m := 7) _ b 10 6) |>.trans (extract_high (n := 10) (m := 7) _ a 3 6) |>.trans (extract_high (n := 7) (m := 3) _ t 0 6) |>.trans (extract_low (n := 1) (m := 6) _ m 0 6 (by decide)) |>.trans (extract_all m)

@[simp] theorem fieldZ_wordM (z : Bool) (m : BitVec 6) (t : BitVec 3) (a b : BitVec 7) (v l : BitVec 4) : fieldZ (wordM z m t a b v l) = z := by
  have h : (wordM z m t a b v l).extractLsb' 31 1 = BitVec.ofBool z :=
    (extract_high (n := 28) (m := 4) _ l 27 1) |>.trans (extract_high (n := 24) (m := 4) _ v 23 1) |>.trans (extract_high (n := 17) (m := 7) _ b 16 1) |>.trans (extract_high (n := 10) (m := 7) _ a 9 1) |>.trans (extract_high (n := 7) (m := 3) _ t 6 1) |>.trans (extract_high (n := 1) (m := 6) _ m 0 1) |>.trans (extract_all (BitVec.ofBool z))
  have e : (wordM z m t a b v l).getLsbD 31 = ((wordM z m t a b v l).extractLsb' 31 1).getLsbD 0 := by
    rw [BitVec.getLsbD_extractLsb']; rfl
  rw [fieldZ, e, h]
  cases z <;> rfl

@[simp] theorem fieldT_wordM (z : Bool) (m : BitVec 6) (t : BitVec 3) (a b : BitVec 7) (v l : BitVec 4) : fieldT (wordM z m t a b v l) = t :=
  (extract_high (n := 28) (m := 4) _ l 18 3) |>.trans (extract_high (n := 24) (m := 4) _ v 14 3) |>.trans (extract_high (n := 17) (m := 7) _ b 7 3) |>.trans (extract_high (n := 10) (m := 7) _ a 0 3) |>.trans (extract_low (n := 7) (m := 3) _ t 0 3 (by decide)) |>.trans (extract_all t)

@[simp] theorem fieldMA_wordM (z : Bool) (m : BitVec 6) (t : BitVec 3) (a b : BitVec 7) (v l : BitVec 4) : fieldMA (wordM z m t a b v l) = a :=
  (extract_high (n := 28) (m := 4) _ l 11 7) |>.trans (extract_high (n := 24) (m := 4) _ v 7 7) |>.trans (extract_high (n := 17) (m := 7) _ b 0 7) |>.trans (extract_low (n := 10) (m := 7) _ a 0 7 (by decide)) |>.trans (extract_all a)

@[simp] theorem fieldMB_wordM (z : Bool) (m : BitVec 6) (t : BitVec 3) (a b : BitVec 7) (v l : BitVec 4) : fieldMB (wordM z m t a b v l) = b :=
  (extract_high (n := 28) (m := 4) _ l 4 7) |>.trans (extract_high (n := 24) (m := 4) _ v 0 7) |>.trans (extract_low (n := 17) (m := 7) _ b 0 7 (by decide)) |>.trans (extract_all b)

@[simp] theorem fieldMV_wordM (z : Bool) (m : BitVec 6) (t : BitVec 3) (a b : BitVec 7) (v l : BitVec 4) : fieldMV (wordM z m t a b v l) = v :=
  (extract_high (n := 28) (m := 4) _ l 0 4) |>.trans (extract_low (n := 24) (m := 4) _ v 0 4 (by decide)) |>.trans (extract_all v)

@[simp] theorem fieldF_wordM (z : Bool) (m : BitVec 6) (t : BitVec 3) (a b : BitVec 7) (v l : BitVec 4) : fieldF (wordM z m t a b v l) = l :=
  (extract_low (n := 28) (m := 4) _ l 0 4 (by decide)) |>.trans (extract_all l)

end Sys2Proof.Laws
end

