-- ==== Sys2Proof/Laws/PerInstr.lean ====
section
/-! SUPPORT. Decoding an encoded instruction gives it back, one lemma for each constructor (R73, R75, R92). -/

namespace Sys2Proof.Laws

set_option Elab.async false
set_option linter.unusedSimpArgs false

theorem sub_0 (e : BitVec 4) : BitVec.extractLsb' 0 4 (0#10 ++ e : BitVec 14) = e :=
  (extract_low (n := 10) (m := 4) _ (e) 0 4 (by decide)) |>.trans (extract_all e)

theorem sub_1 (e : BitVec 4) : BitVec.extractLsb' 4 10 (0#10 ++ e : BitVec 14) = 0#10 :=
  (extract_high (n := 10) (m := 4) _ (e) 0 10) |>.trans (by decide)

theorem sub_2 (e : BitVec 4) : BitVec.extractLsb' 7 1 (0#10 ++ e : BitVec 14) = 0#1 :=
  (extract_high (n := 10) (m := 4) _ (e) 3 1) |>.trans (by decide)

theorem sub_3 (e : BitVec 4) : BitVec.extractLsb' 7 7 (0#10 ++ e : BitVec 14) = 0#7 :=
  (extract_high (n := 10) (m := 4) _ (e) 3 7) |>.trans (by decide)

theorem sub_4 (e : BitVec 4) : BitVec.extractLsb' 8 1 (0#10 ++ e : BitVec 14) = 0#1 :=
  (extract_high (n := 10) (m := 4) _ (e) 4 1) |>.trans (by decide)

theorem sub_5 (e : BitVec 4) : BitVec.extractLsb' 9 5 (0#10 ++ e : BitVec 14) = 0#5 :=
  (extract_high (n := 10) (m := 4) _ (e) 5 5) |>.trans (by decide)

theorem sub_6 (e : BitVec 3) : BitVec.extractLsb' 0 3 (0#11 ++ e : BitVec 14) = e :=
  (extract_low (n := 11) (m := 3) _ (e) 0 3 (by decide)) |>.trans (extract_all e)

theorem sub_7 (e : BitVec 3) : BitVec.extractLsb' 3 11 (0#11 ++ e : BitVec 14) = 0#11 :=
  (extract_high (n := 11) (m := 3) _ (e) 0 11) |>.trans (by decide)

theorem sub_8 (e : BitVec 3) : BitVec.extractLsb' 4 10 (0#11 ++ e : BitVec 14) = 0#10 :=
  (extract_high (n := 11) (m := 3) _ (e) 1 10) |>.trans (by decide)

theorem sub_9 (e : BitVec 3) : BitVec.extractLsb' 7 1 (0#11 ++ e : BitVec 14) = 0#1 :=
  (extract_high (n := 11) (m := 3) _ (e) 4 1) |>.trans (by decide)

theorem sub_10 (e : BitVec 3) : BitVec.extractLsb' 7 7 (0#11 ++ e : BitVec 14) = 0#7 :=
  (extract_high (n := 11) (m := 3) _ (e) 4 7) |>.trans (by decide)

theorem sub_11 (e : BitVec 3) : BitVec.extractLsb' 8 1 (0#11 ++ e : BitVec 14) = 0#1 :=
  (extract_high (n := 11) (m := 3) _ (e) 5 1) |>.trans (by decide)

theorem sub_12 (e : BitVec 3) : BitVec.extractLsb' 9 5 (0#11 ++ e : BitVec 14) = 0#5 :=
  (extract_high (n := 11) (m := 3) _ (e) 6 5) |>.trans (by decide)

theorem sub_13 (e : BitVec 1) : BitVec.extractLsb' 0 1 (0#13 ++ e : BitVec 14) = e :=
  (extract_low (n := 13) (m := 1) _ (e) 0 1 (by decide)) |>.trans (extract_all e)

theorem sub_14 (e : BitVec 1) : BitVec.extractLsb' 1 13 (0#13 ++ e : BitVec 14) = 0#13 :=
  (extract_high (n := 13) (m := 1) _ (e) 0 13) |>.trans (by decide)

theorem sub_15 (e : BitVec 1) : BitVec.extractLsb' 2 12 (0#13 ++ e : BitVec 14) = 0#12 :=
  (extract_high (n := 13) (m := 1) _ (e) 1 12) |>.trans (by decide)

theorem sub_16 (e : BitVec 1) : BitVec.extractLsb' 3 11 (0#13 ++ e : BitVec 14) = 0#11 :=
  (extract_high (n := 13) (m := 1) _ (e) 2 11) |>.trans (by decide)

theorem sub_17 (e : BitVec 1) : BitVec.extractLsb' 4 10 (0#13 ++ e : BitVec 14) = 0#10 :=
  (extract_high (n := 13) (m := 1) _ (e) 3 10) |>.trans (by decide)

theorem sub_18 (e : BitVec 1) : BitVec.extractLsb' 7 1 (0#13 ++ e : BitVec 14) = 0#1 :=
  (extract_high (n := 13) (m := 1) _ (e) 6 1) |>.trans (by decide)

theorem sub_19 (e : BitVec 1) : BitVec.extractLsb' 7 7 (0#13 ++ e : BitVec 14) = 0#7 :=
  (extract_high (n := 13) (m := 1) _ (e) 6 7) |>.trans (by decide)

theorem sub_20 (e : BitVec 1) : BitVec.extractLsb' 8 1 (0#13 ++ e : BitVec 14) = 0#1 :=
  (extract_high (n := 13) (m := 1) _ (e) 7 1) |>.trans (by decide)

theorem sub_21 (e : BitVec 1) : BitVec.extractLsb' 9 5 (0#13 ++ e : BitVec 14) = 0#5 :=
  (extract_high (n := 13) (m := 1) _ (e) 8 5) |>.trans (by decide)

theorem sub_22 (g : BitVec 1) (p : BitVec 1) (r : BitVec 7) : BitVec.extractLsb' 0 7 (0#5 ++ g ++ p ++ r : BitVec 14) = r :=
  (extract_low (n := 7) (m := 7) _ (r) 0 7 (by decide)) |>.trans (extract_all r)

theorem sub_23 (g : BitVec 1) (p : BitVec 1) (r : BitVec 7) : BitVec.extractLsb' 7 1 (0#5 ++ g ++ p ++ r : BitVec 14) = p :=
  (extract_high (n := 7) (m := 7) _ (r) 0 1) |>.trans (extract_low (n := 6) (m := 1) _ (p) 0 1 (by decide)) |>.trans (extract_all p)

theorem sub_24 (g : BitVec 1) (p : BitVec 1) (r : BitVec 7) : BitVec.extractLsb' 8 1 (0#5 ++ g ++ p ++ r : BitVec 14) = g :=
  (extract_high (n := 7) (m := 7) _ (r) 1 1) |>.trans (extract_high (n := 6) (m := 1) _ (p) 0 1) |>.trans (extract_low (n := 5) (m := 1) _ (g) 0 1 (by decide)) |>.trans (extract_all g)

theorem sub_25 (g : BitVec 1) (p : BitVec 1) (r : BitVec 7) : BitVec.extractLsb' 9 5 (0#5 ++ g ++ p ++ r : BitVec 14) = 0#5 :=
  (extract_high (n := 7) (m := 7) _ (r) 2 5) |>.trans (extract_high (n := 6) (m := 1) _ (p) 1 5) |>.trans (extract_high (n := 5) (m := 1) _ (g) 0 5) |>.trans (by decide)

theorem sub_26 (r : BitVec 7) : BitVec.extractLsb' 0 7 (0#7 ++ r : BitVec 14) = r :=
  (extract_low (n := 7) (m := 7) _ (r) 0 7 (by decide)) |>.trans (extract_all r)

theorem sub_27 (r : BitVec 7) : BitVec.extractLsb' 7 1 (0#7 ++ r : BitVec 14) = 0#1 :=
  (extract_high (n := 7) (m := 7) _ (r) 0 1) |>.trans (by decide)

theorem sub_28 (r : BitVec 7) : BitVec.extractLsb' 7 7 (0#7 ++ r : BitVec 14) = 0#7 :=
  (extract_high (n := 7) (m := 7) _ (r) 0 7) |>.trans (by decide)

theorem sub_29 (r : BitVec 7) : BitVec.extractLsb' 8 1 (0#7 ++ r : BitVec 14) = 0#1 :=
  (extract_high (n := 7) (m := 7) _ (r) 1 1) |>.trans (by decide)

theorem sub_30 (r : BitVec 7) : BitVec.extractLsb' 9 5 (0#7 ++ r : BitVec 14) = 0#5 :=
  (extract_high (n := 7) (m := 7) _ (r) 2 5) |>.trans (by decide)

theorem sub_31 (e : BitVec 2) : BitVec.extractLsb' 0 2 (0#12 ++ e : BitVec 14) = e :=
  (extract_low (n := 12) (m := 2) _ (e) 0 2 (by decide)) |>.trans (extract_all e)

theorem sub_32 (e : BitVec 2) : BitVec.extractLsb' 2 12 (0#12 ++ e : BitVec 14) = 0#12 :=
  (extract_high (n := 12) (m := 2) _ (e) 0 12) |>.trans (by decide)

theorem sub_33 (e : BitVec 2) : BitVec.extractLsb' 3 11 (0#12 ++ e : BitVec 14) = 0#11 :=
  (extract_high (n := 12) (m := 2) _ (e) 1 11) |>.trans (by decide)

theorem sub_34 (e : BitVec 2) : BitVec.extractLsb' 4 10 (0#12 ++ e : BitVec 14) = 0#10 :=
  (extract_high (n := 12) (m := 2) _ (e) 2 10) |>.trans (by decide)

theorem sub_35 (e : BitVec 2) : BitVec.extractLsb' 7 1 (0#12 ++ e : BitVec 14) = 0#1 :=
  (extract_high (n := 12) (m := 2) _ (e) 5 1) |>.trans (by decide)

theorem sub_36 (e : BitVec 2) : BitVec.extractLsb' 7 7 (0#12 ++ e : BitVec 14) = 0#7 :=
  (extract_high (n := 12) (m := 2) _ (e) 5 7) |>.trans (by decide)

theorem sub_37 (e : BitVec 2) : BitVec.extractLsb' 8 1 (0#12 ++ e : BitVec 14) = 0#1 :=
  (extract_high (n := 12) (m := 2) _ (e) 6 1) |>.trans (by decide)

theorem sub_38 (e : BitVec 2) : BitVec.extractLsb' 9 5 (0#12 ++ e : BitVec 14) = 0#5 :=
  (extract_high (n := 12) (m := 2) _ (e) 7 5) |>.trans (by decide)

theorem sub_39 (k : BitVec 5) : BitVec.extractLsb' 0 5 (0#9 ++ k : BitVec 14) = k :=
  (extract_low (n := 9) (m := 5) _ (k) 0 5 (by decide)) |>.trans (extract_all k)

theorem sub_40 (k : BitVec 5) : BitVec.extractLsb' 5 9 (0#9 ++ k : BitVec 14) = 0#9 :=
  (extract_high (n := 9) (m := 5) _ (k) 0 9) |>.trans (by decide)

theorem sub_41 (k : BitVec 7) : BitVec.extractLsb' 0 7 (0#18 ++ k : BitVec 25) = k :=
  (extract_low (n := 18) (m := 7) _ (k) 0 7 (by decide)) |>.trans (extract_all k)

theorem sub_42 (k : BitVec 7) : BitVec.extractLsb' 7 18 (0#18 ++ k : BitVec 25) = 0#18 :=
  (extract_high (n := 18) (m := 7) _ (k) 0 18) |>.trans (by decide)

theorem sub_43 (x : BitVec 1) (k : BitVec 2) : BitVec.extractLsb' 0 2 (x ++ 0#1 ++ k : BitVec 4) = k :=
  (extract_low (n := 2) (m := 2) _ (k) 0 2 (by decide)) |>.trans (extract_all k)

theorem sub_44 (x : BitVec 1) (k : BitVec 2) : BitVec.extractLsb' 2 1 (x ++ 0#1 ++ k : BitVec 4) = 0#1 :=
  (extract_high (n := 2) (m := 2) _ (k) 0 1) |>.trans (extract_low (n := 1) (m := 1) _ (0#1) 0 1 (by decide)) |>.trans (by decide)

theorem sub_45 (x : BitVec 1) (k : BitVec 2) : BitVec.extractLsb' 3 1 (x ++ 0#1 ++ k : BitVec 4) = x :=
  (extract_high (n := 2) (m := 2) _ (k) 1 1) |>.trans (extract_high (n := 1) (m := 1) _ (0#1) 0 1) |>.trans (extract_all x)

theorem sub_46 (p : BitVec 1) : BitVec.extractLsb' 0 3 (p ++ 0#3 : BitVec 4) = 0#3 :=
  (extract_low (n := 1) (m := 3) _ (0#3) 0 3 (by decide)) |>.trans (by decide)

theorem sub_47 (p : BitVec 1) : BitVec.extractLsb' 3 1 (p ++ 0#3 : BitVec 4) = p :=
  (extract_high (n := 1) (m := 3) _ (0#3) 0 1) |>.trans (extract_all p)

theorem sub_48 (p : BitVec 1) : BitVec.extractLsb' 0 3 (p ++ 1#3 : BitVec 4) = 1#3 :=
  (extract_low (n := 1) (m := 3) _ (1#3) 0 3 (by decide)) |>.trans (by decide)

theorem sub_49 (p : BitVec 1) : BitVec.extractLsb' 3 1 (p ++ 1#3 : BitVec 4) = p :=
  (extract_high (n := 1) (m := 3) _ (1#3) 0 1) |>.trans (extract_all p)

theorem sub_50 (p : BitVec 1) : BitVec.extractLsb' 0 3 (p ++ 2#3 : BitVec 4) = 2#3 :=
  (extract_low (n := 1) (m := 3) _ (2#3) 0 3 (by decide)) |>.trans (by decide)

theorem sub_51 (p : BitVec 1) : BitVec.extractLsb' 3 1 (p ++ 2#3 : BitVec 4) = p :=
  (extract_high (n := 1) (m := 3) _ (2#3) 0 1) |>.trans (extract_all p)

theorem sub_52 (p : BitVec 1) : BitVec.extractLsb' 0 3 (p ++ 3#3 : BitVec 4) = 3#3 :=
  (extract_low (n := 1) (m := 3) _ (3#3) 0 3 (by decide)) |>.trans (by decide)

theorem sub_53 (p : BitVec 1) : BitVec.extractLsb' 3 1 (p ++ 3#3 : BitVec 4) = p :=
  (extract_high (n := 1) (m := 3) _ (3#3) 0 1) |>.trans (extract_all p)

theorem sub_54 (p : BitVec 1) : BitVec.extractLsb' 0 3 (p ++ 4#3 : BitVec 4) = 4#3 :=
  (extract_low (n := 1) (m := 3) _ (4#3) 0 3 (by decide)) |>.trans (by decide)

theorem sub_55 (p : BitVec 1) : BitVec.extractLsb' 3 1 (p ++ 4#3 : BitVec 4) = p :=
  (extract_high (n := 1) (m := 3) _ (4#3) 0 1) |>.trans (extract_all p)

theorem sub_56 (p : BitVec 1) : BitVec.extractLsb' 0 3 (p ++ 5#3 : BitVec 4) = 5#3 :=
  (extract_low (n := 1) (m := 3) _ (5#3) 0 3 (by decide)) |>.trans (by decide)

theorem sub_57 (p : BitVec 1) : BitVec.extractLsb' 3 1 (p ++ 5#3 : BitVec 4) = p :=
  (extract_high (n := 1) (m := 3) _ (5#3) 0 1) |>.trans (extract_all p)

theorem sub_58 (p : BitVec 1) : BitVec.extractLsb' 0 3 (p ++ 6#3 : BitVec 4) = 6#3 :=
  (extract_low (n := 1) (m := 3) _ (6#3) 0 3 (by decide)) |>.trans (by decide)

theorem sub_59 (p : BitVec 1) : BitVec.extractLsb' 3 1 (p ++ 6#3 : BitVec 4) = p :=
  (extract_high (n := 1) (m := 3) _ (6#3) 0 1) |>.trans (extract_all p)

theorem sub_60 (p : BitVec 1) : BitVec.extractLsb' 0 3 (p ++ 7#3 : BitVec 4) = 7#3 :=
  (extract_low (n := 1) (m := 3) _ (7#3) 0 3 (by decide)) |>.trans (by decide)

theorem sub_61 (p : BitVec 1) : BitVec.extractLsb' 3 1 (p ++ 7#3 : BitVec 4) = p :=
  (extract_high (n := 1) (m := 3) _ (7#3) 0 1) |>.trans (extract_all p)

theorem sub_62 (k : BitVec 4) : BitVec.extractLsb' 0 4 (0#3 ++ k : BitVec 7) = k :=
  (extract_low (n := 3) (m := 4) _ (k) 0 4 (by decide)) |>.trans (extract_all k)

theorem sub_63 (k : BitVec 4) : BitVec.extractLsb' 4 3 (0#3 ++ k : BitVec 7) = 0#3 :=
  (extract_high (n := 3) (m := 4) _ (k) 0 3) |>.trans (by decide)

theorem sub_64 (k : BitVec 4) : BitVec.extractLsb' 0 4 (1#3 ++ k : BitVec 7) = k :=
  (extract_low (n := 3) (m := 4) _ (k) 0 4 (by decide)) |>.trans (extract_all k)

theorem sub_65 (k : BitVec 4) : BitVec.extractLsb' 4 3 (1#3 ++ k : BitVec 7) = 1#3 :=
  (extract_high (n := 3) (m := 4) _ (k) 0 3) |>.trans (by decide)

theorem sub_66 (k : BitVec 4) : BitVec.extractLsb' 0 4 (2#3 ++ k : BitVec 7) = k :=
  (extract_low (n := 3) (m := 4) _ (k) 0 4 (by decide)) |>.trans (extract_all k)

theorem sub_67 (k : BitVec 4) : BitVec.extractLsb' 4 3 (2#3 ++ k : BitVec 7) = 2#3 :=
  (extract_high (n := 3) (m := 4) _ (k) 0 3) |>.trans (by decide)

theorem sub_68 (k : BitVec 4) : BitVec.extractLsb' 0 4 (3#3 ++ k : BitVec 7) = k :=
  (extract_low (n := 3) (m := 4) _ (k) 0 4 (by decide)) |>.trans (extract_all k)

theorem sub_69 (k : BitVec 4) : BitVec.extractLsb' 4 3 (3#3 ++ k : BitVec 7) = 3#3 :=
  (extract_high (n := 3) (m := 4) _ (k) 0 3) |>.trans (by decide)

theorem sub_70 (k : BitVec 4) : BitVec.extractLsb' 0 4 (4#3 ++ k : BitVec 7) = k :=
  (extract_low (n := 3) (m := 4) _ (k) 0 4 (by decide)) |>.trans (extract_all k)

theorem sub_71 (k : BitVec 4) : BitVec.extractLsb' 4 3 (4#3 ++ k : BitVec 7) = 4#3 :=
  (extract_high (n := 3) (m := 4) _ (k) 0 3) |>.trans (by decide)

theorem sub_72 (k : BitVec 4) : BitVec.extractLsb' 0 4 (5#3 ++ k : BitVec 7) = k :=
  (extract_low (n := 3) (m := 4) _ (k) 0 4 (by decide)) |>.trans (extract_all k)

theorem sub_73 (k : BitVec 4) : BitVec.extractLsb' 4 3 (5#3 ++ k : BitVec 7) = 5#3 :=
  (extract_high (n := 3) (m := 4) _ (k) 0 3) |>.trans (by decide)

theorem sub_74 (k : BitVec 4) : BitVec.extractLsb' 0 4 (6#3 ++ k : BitVec 7) = k :=
  (extract_low (n := 3) (m := 4) _ (k) 0 4 (by decide)) |>.trans (extract_all k)

theorem sub_75 (k : BitVec 4) : BitVec.extractLsb' 4 3 (6#3 ++ k : BitVec 7) = 6#3 :=
  (extract_high (n := 3) (m := 4) _ (k) 0 3) |>.trans (by decide)

theorem sub_76 (k : BitVec 4) : BitVec.extractLsb' 0 4 (7#3 ++ k : BitVec 7) = k :=
  (extract_low (n := 3) (m := 4) _ (k) 0 4 (by decide)) |>.trans (extract_all k)

theorem sub_77 (k : BitVec 4) : BitVec.extractLsb' 4 3 (7#3 ++ k : BitVec 7) = 7#3 :=
  (extract_high (n := 3) (m := 4) _ (k) 0 3) |>.trans (by decide)

theorem sub_78 (b : BitVec 6) : BitVec.extractLsb' 0 6 (0#1 ++ b : BitVec 7) = b :=
  (extract_low (n := 1) (m := 6) _ (b) 0 6 (by decide)) |>.trans (extract_all b)

theorem sub_79 (b : BitVec 6) : BitVec.extractLsb' 6 1 (0#1 ++ b : BitVec 7) = 0#1 :=
  (extract_high (n := 1) (m := 6) _ (b) 0 1) |>.trans (by decide)

theorem sub_80 (b : BitVec 6) : BitVec.extractLsb' 0 6 (1#1 ++ b : BitVec 7) = b :=
  (extract_low (n := 1) (m := 6) _ (b) 0 6 (by decide)) |>.trans (extract_all b)

theorem sub_81 (b : BitVec 6) : BitVec.extractLsb' 6 1 (1#1 ++ b : BitVec 7) = 1#1 :=
  (extract_high (n := 1) (m := 6) _ (b) 0 1) |>.trans (by decide)

theorem sub_82 (i : BitVec 1) (h : BitVec 2) (n : BitVec 4) : BitVec.extractLsb' 0 4 (i ++ h ++ n : BitVec 7) = n :=
  (extract_low (n := 3) (m := 4) _ (n) 0 4 (by decide)) |>.trans (extract_all n)

theorem sub_83 (i : BitVec 1) (h : BitVec 2) (n : BitVec 4) : BitVec.extractLsb' 4 2 (i ++ h ++ n : BitVec 7) = h :=
  (extract_high (n := 3) (m := 4) _ (n) 0 2) |>.trans (extract_low (n := 1) (m := 2) _ (h) 0 2 (by decide)) |>.trans (extract_all h)

theorem sub_84 (i : BitVec 1) (h : BitVec 2) (n : BitVec 4) : BitVec.extractLsb' 6 1 (i ++ h ++ n : BitVec 7) = i :=
  (extract_high (n := 3) (m := 4) _ (n) 2 1) |>.trans (extract_high (n := 1) (m := 2) _ (h) 0 1) |>.trans (extract_all i)

theorem sub_85 (h : BitVec 2) (n : BitVec 4) : BitVec.extractLsb' 0 4 (0#1 ++ h ++ n : BitVec 7) = n :=
  (extract_low (n := 3) (m := 4) _ (n) 0 4 (by decide)) |>.trans (extract_all n)

theorem sub_86 (h : BitVec 2) (n : BitVec 4) : BitVec.extractLsb' 4 2 (0#1 ++ h ++ n : BitVec 7) = h :=
  (extract_high (n := 3) (m := 4) _ (n) 0 2) |>.trans (extract_low (n := 1) (m := 2) _ (h) 0 2 (by decide)) |>.trans (extract_all h)

theorem sub_87 (h : BitVec 2) (n : BitVec 4) : BitVec.extractLsb' 6 1 (0#1 ++ h ++ n : BitVec 7) = 0#1 :=
  (extract_high (n := 3) (m := 4) _ (n) 2 1) |>.trans (extract_high (n := 1) (m := 2) _ (h) 0 1) |>.trans (by decide)

theorem sub_88 (c : BitVec 3) : BitVec.extractLsb' 0 4 (c ++ 0#4 : BitVec 7) = 0#4 :=
  (extract_low (n := 3) (m := 4) _ (0#4) 0 4 (by decide)) |>.trans (by decide)

theorem sub_89 (c : BitVec 3) : BitVec.extractLsb' 4 3 (c ++ 0#4 : BitVec 7) = c :=
  (extract_high (n := 3) (m := 4) _ (0#4) 0 3) |>.trans (extract_all c)

theorem sub_90 (c : BitVec 3) : BitVec.extractLsb' 0 4 (c ++ 1#4 : BitVec 7) = 1#4 :=
  (extract_low (n := 3) (m := 4) _ (1#4) 0 4 (by decide)) |>.trans (by decide)

theorem sub_91 (c : BitVec 3) : BitVec.extractLsb' 4 3 (c ++ 1#4 : BitVec 7) = c :=
  (extract_high (n := 3) (m := 4) _ (1#4) 0 3) |>.trans (extract_all c)

theorem sub_92 (c : BitVec 3) : BitVec.extractLsb' 0 4 (c ++ 2#4 : BitVec 7) = 2#4 :=
  (extract_low (n := 3) (m := 4) _ (2#4) 0 4 (by decide)) |>.trans (by decide)

theorem sub_93 (c : BitVec 3) : BitVec.extractLsb' 4 3 (c ++ 2#4 : BitVec 7) = c :=
  (extract_high (n := 3) (m := 4) _ (2#4) 0 3) |>.trans (extract_all c)

theorem sub_94 (c : BitVec 3) : BitVec.extractLsb' 0 4 (c ++ 3#4 : BitVec 7) = 3#4 :=
  (extract_low (n := 3) (m := 4) _ (3#4) 0 4 (by decide)) |>.trans (by decide)

theorem sub_95 (c : BitVec 3) : BitVec.extractLsb' 4 3 (c ++ 3#4 : BitVec 7) = c :=
  (extract_high (n := 3) (m := 4) _ (3#4) 0 3) |>.trans (extract_all c)

theorem sub_96 (c : BitVec 3) : BitVec.extractLsb' 0 4 (c ++ 4#4 : BitVec 7) = 4#4 :=
  (extract_low (n := 3) (m := 4) _ (4#4) 0 4 (by decide)) |>.trans (by decide)

theorem sub_97 (c : BitVec 3) : BitVec.extractLsb' 4 3 (c ++ 4#4 : BitVec 7) = c :=
  (extract_high (n := 3) (m := 4) _ (4#4) 0 3) |>.trans (extract_all c)

theorem sub_98 (c : BitVec 3) : BitVec.extractLsb' 0 4 (c ++ 5#4 : BitVec 7) = 5#4 :=
  (extract_low (n := 3) (m := 4) _ (5#4) 0 4 (by decide)) |>.trans (by decide)

theorem sub_99 (c : BitVec 3) : BitVec.extractLsb' 4 3 (c ++ 5#4 : BitVec 7) = c :=
  (extract_high (n := 3) (m := 4) _ (5#4) 0 3) |>.trans (extract_all c)

theorem sub_100 (c : BitVec 3) : BitVec.extractLsb' 0 4 (c ++ 6#4 : BitVec 7) = 6#4 :=
  (extract_low (n := 3) (m := 4) _ (6#4) 0 4 (by decide)) |>.trans (by decide)

theorem sub_101 (c : BitVec 3) : BitVec.extractLsb' 4 3 (c ++ 6#4 : BitVec 7) = c :=
  (extract_high (n := 3) (m := 4) _ (6#4) 0 3) |>.trans (extract_all c)

theorem sub_102 (c : BitVec 3) : BitVec.extractLsb' 0 4 (c ++ 7#4 : BitVec 7) = 7#4 :=
  (extract_low (n := 3) (m := 4) _ (7#4) 0 4 (by decide)) |>.trans (by decide)

theorem sub_103 (c : BitVec 3) : BitVec.extractLsb' 4 3 (c ++ 7#4 : BitVec 7) = c :=
  (extract_high (n := 3) (m := 4) _ (7#4) 0 3) |>.trans (extract_all c)

theorem sub_104 (c : BitVec 3) : BitVec.extractLsb' 0 4 (c ++ 8#4 : BitVec 7) = 8#4 :=
  (extract_low (n := 3) (m := 4) _ (8#4) 0 4 (by decide)) |>.trans (by decide)

theorem sub_105 (c : BitVec 3) : BitVec.extractLsb' 4 3 (c ++ 8#4 : BitVec 7) = c :=
  (extract_high (n := 3) (m := 4) _ (8#4) 0 3) |>.trans (extract_all c)

theorem sub_106 (c : BitVec 3) : BitVec.extractLsb' 0 4 (c ++ 9#4 : BitVec 7) = 9#4 :=
  (extract_low (n := 3) (m := 4) _ (9#4) 0 4 (by decide)) |>.trans (by decide)

theorem sub_107 (c : BitVec 3) : BitVec.extractLsb' 4 3 (c ++ 9#4 : BitVec 7) = c :=
  (extract_high (n := 3) (m := 4) _ (9#4) 0 3) |>.trans (extract_all c)

theorem sub_108 (c : BitVec 3) : BitVec.extractLsb' 0 4 (c ++ 10#4 : BitVec 7) = 10#4 :=
  (extract_low (n := 3) (m := 4) _ (10#4) 0 4 (by decide)) |>.trans (by decide)

theorem sub_109 (c : BitVec 3) : BitVec.extractLsb' 4 3 (c ++ 10#4 : BitVec 7) = c :=
  (extract_high (n := 3) (m := 4) _ (10#4) 0 3) |>.trans (extract_all c)

theorem sub_110 (c : BitVec 3) : BitVec.extractLsb' 0 4 (c ++ 11#4 : BitVec 7) = 11#4 :=
  (extract_low (n := 3) (m := 4) _ (11#4) 0 4 (by decide)) |>.trans (by decide)

theorem sub_111 (c : BitVec 3) : BitVec.extractLsb' 4 3 (c ++ 11#4 : BitVec 7) = c :=
  (extract_high (n := 3) (m := 4) _ (11#4) 0 3) |>.trans (extract_all c)

theorem sub_112 (c : BitVec 3) : BitVec.extractLsb' 0 4 (c ++ 12#4 : BitVec 7) = 12#4 :=
  (extract_low (n := 3) (m := 4) _ (12#4) 0 4 (by decide)) |>.trans (by decide)

theorem sub_113 (c : BitVec 3) : BitVec.extractLsb' 4 3 (c ++ 12#4 : BitVec 7) = c :=
  (extract_high (n := 3) (m := 4) _ (12#4) 0 3) |>.trans (extract_all c)

theorem sub_114 (c : BitVec 3) : BitVec.extractLsb' 0 2 (c ++ 0#4 : BitVec 7) = 0#2 :=
  (extract_low (n := 3) (m := 4) _ (0#4) 0 2 (by decide)) |>.trans (by decide)

theorem sub_115 (c : BitVec 3) : BitVec.extractLsb' 2 1 (c ++ 0#4 : BitVec 7) = 0#1 :=
  (extract_low (n := 3) (m := 4) _ (0#4) 2 1 (by decide)) |>.trans (by decide)

theorem sub_116 (c : BitVec 3) : BitVec.extractLsb' 2 2 (c ++ 0#4 : BitVec 7) = 0#2 :=
  (extract_low (n := 3) (m := 4) _ (0#4) 2 2 (by decide)) |>.trans (by decide)

theorem sub_117 (c : BitVec 3) : BitVec.extractLsb' 3 1 (c ++ 0#4 : BitVec 7) = 0#1 :=
  (extract_low (n := 3) (m := 4) _ (0#4) 3 1 (by decide)) |>.trans (by decide)

theorem sub_118 (c : BitVec 3) : BitVec.extractLsb' 0 2 (c ++ 4#4 : BitVec 7) = 0#2 :=
  (extract_low (n := 3) (m := 4) _ (4#4) 0 2 (by decide)) |>.trans (by decide)

theorem sub_119 (c : BitVec 3) : BitVec.extractLsb' 2 1 (c ++ 4#4 : BitVec 7) = 1#1 :=
  (extract_low (n := 3) (m := 4) _ (4#4) 2 1 (by decide)) |>.trans (by decide)

theorem sub_120 (c : BitVec 3) : BitVec.extractLsb' 2 2 (c ++ 4#4 : BitVec 7) = 1#2 :=
  (extract_low (n := 3) (m := 4) _ (4#4) 2 2 (by decide)) |>.trans (by decide)

theorem sub_121 (c : BitVec 3) : BitVec.extractLsb' 3 1 (c ++ 4#4 : BitVec 7) = 0#1 :=
  (extract_low (n := 3) (m := 4) _ (4#4) 3 1 (by decide)) |>.trans (by decide)

theorem sub_122 (c : BitVec 3) : BitVec.extractLsb' 0 2 (c ++ 1#4 : BitVec 7) = 1#2 :=
  (extract_low (n := 3) (m := 4) _ (1#4) 0 2 (by decide)) |>.trans (by decide)

theorem sub_123 (c : BitVec 3) : BitVec.extractLsb' 2 1 (c ++ 1#4 : BitVec 7) = 0#1 :=
  (extract_low (n := 3) (m := 4) _ (1#4) 2 1 (by decide)) |>.trans (by decide)

theorem sub_124 (c : BitVec 3) : BitVec.extractLsb' 2 2 (c ++ 1#4 : BitVec 7) = 0#2 :=
  (extract_low (n := 3) (m := 4) _ (1#4) 2 2 (by decide)) |>.trans (by decide)

theorem sub_125 (c : BitVec 3) : BitVec.extractLsb' 3 1 (c ++ 1#4 : BitVec 7) = 0#1 :=
  (extract_low (n := 3) (m := 4) _ (1#4) 3 1 (by decide)) |>.trans (by decide)

theorem sub_126 (c : BitVec 3) : BitVec.extractLsb' 0 2 (c ++ 5#4 : BitVec 7) = 1#2 :=
  (extract_low (n := 3) (m := 4) _ (5#4) 0 2 (by decide)) |>.trans (by decide)

theorem sub_127 (c : BitVec 3) : BitVec.extractLsb' 2 1 (c ++ 5#4 : BitVec 7) = 1#1 :=
  (extract_low (n := 3) (m := 4) _ (5#4) 2 1 (by decide)) |>.trans (by decide)

theorem sub_128 (c : BitVec 3) : BitVec.extractLsb' 2 2 (c ++ 5#4 : BitVec 7) = 1#2 :=
  (extract_low (n := 3) (m := 4) _ (5#4) 2 2 (by decide)) |>.trans (by decide)

theorem sub_129 (c : BitVec 3) : BitVec.extractLsb' 3 1 (c ++ 5#4 : BitVec 7) = 0#1 :=
  (extract_low (n := 3) (m := 4) _ (5#4) 3 1 (by decide)) |>.trans (by decide)

theorem sub_130 (c : BitVec 3) : BitVec.extractLsb' 0 2 (c ++ 2#4 : BitVec 7) = 2#2 :=
  (extract_low (n := 3) (m := 4) _ (2#4) 0 2 (by decide)) |>.trans (by decide)

theorem sub_131 (c : BitVec 3) : BitVec.extractLsb' 2 1 (c ++ 2#4 : BitVec 7) = 0#1 :=
  (extract_low (n := 3) (m := 4) _ (2#4) 2 1 (by decide)) |>.trans (by decide)

theorem sub_132 (c : BitVec 3) : BitVec.extractLsb' 2 2 (c ++ 2#4 : BitVec 7) = 0#2 :=
  (extract_low (n := 3) (m := 4) _ (2#4) 2 2 (by decide)) |>.trans (by decide)

theorem sub_133 (c : BitVec 3) : BitVec.extractLsb' 3 1 (c ++ 2#4 : BitVec 7) = 0#1 :=
  (extract_low (n := 3) (m := 4) _ (2#4) 3 1 (by decide)) |>.trans (by decide)

theorem sub_134 (c : BitVec 3) : BitVec.extractLsb' 0 2 (c ++ 3#4 : BitVec 7) = 3#2 :=
  (extract_low (n := 3) (m := 4) _ (3#4) 0 2 (by decide)) |>.trans (by decide)

theorem sub_135 (c : BitVec 3) : BitVec.extractLsb' 2 1 (c ++ 3#4 : BitVec 7) = 0#1 :=
  (extract_low (n := 3) (m := 4) _ (3#4) 2 1 (by decide)) |>.trans (by decide)

theorem sub_136 (c : BitVec 3) : BitVec.extractLsb' 2 2 (c ++ 3#4 : BitVec 7) = 0#2 :=
  (extract_low (n := 3) (m := 4) _ (3#4) 2 2 (by decide)) |>.trans (by decide)

theorem sub_137 (c : BitVec 3) : BitVec.extractLsb' 3 1 (c ++ 3#4 : BitVec 7) = 0#1 :=
  (extract_low (n := 3) (m := 4) _ (3#4) 3 1 (by decide)) |>.trans (by decide)

theorem sub_138 (e : BitVec 1) (c : BitVec 3) : BitVec.extractLsb' 0 3 (0#7 ++ e ++ 0#3 ++ c : BitVec 14) = c :=
  (extract_low (n := 11) (m := 3) _ (c) 0 3 (by decide)) |>.trans (extract_all c)

theorem sub_139 (e : BitVec 1) (c : BitVec 3) : BitVec.extractLsb' 3 2 (0#7 ++ e ++ 0#3 ++ c : BitVec 14) = 0#2 :=
  (extract_high (n := 11) (m := 3) _ (c) 0 2) |>.trans (extract_low (n := 8) (m := 3) _ (0#3) 0 2 (by decide)) |>.trans (by decide)

theorem sub_140 (e : BitVec 1) (c : BitVec 3) : BitVec.extractLsb' 5 1 (0#7 ++ e ++ 0#3 ++ c : BitVec 14) = 0#1 :=
  (extract_high (n := 11) (m := 3) _ (c) 2 1) |>.trans (extract_low (n := 8) (m := 3) _ (0#3) 2 1 (by decide)) |>.trans (by decide)

theorem sub_141 (e : BitVec 1) (c : BitVec 3) : BitVec.extractLsb' 6 1 (0#7 ++ e ++ 0#3 ++ c : BitVec 14) = e :=
  (extract_high (n := 11) (m := 3) _ (c) 3 1) |>.trans (extract_high (n := 8) (m := 3) _ (0#3) 0 1) |>.trans (extract_low (n := 7) (m := 1) _ (e) 0 1 (by decide)) |>.trans (extract_all e)

theorem sub_142 (e : BitVec 1) (c : BitVec 3) : BitVec.extractLsb' 7 7 (0#7 ++ e ++ 0#3 ++ c : BitVec 14) = 0#7 :=
  (extract_high (n := 11) (m := 3) _ (c) 4 7) |>.trans (extract_high (n := 8) (m := 3) _ (0#3) 1 7) |>.trans (extract_high (n := 7) (m := 1) _ (e) 0 7) |>.trans (by decide)

theorem sub_143 (e : BitVec 1) (c : BitVec 3) : BitVec.extractLsb' 0 3 (0#7 ++ e ++ 1#3 ++ c : BitVec 14) = c :=
  (extract_low (n := 11) (m := 3) _ (c) 0 3 (by decide)) |>.trans (extract_all c)

theorem sub_144 (e : BitVec 1) (c : BitVec 3) : BitVec.extractLsb' 3 2 (0#7 ++ e ++ 1#3 ++ c : BitVec 14) = 1#2 :=
  (extract_high (n := 11) (m := 3) _ (c) 0 2) |>.trans (extract_low (n := 8) (m := 3) _ (1#3) 0 2 (by decide)) |>.trans (by decide)

theorem sub_145 (e : BitVec 1) (c : BitVec 3) : BitVec.extractLsb' 5 1 (0#7 ++ e ++ 1#3 ++ c : BitVec 14) = 0#1 :=
  (extract_high (n := 11) (m := 3) _ (c) 2 1) |>.trans (extract_low (n := 8) (m := 3) _ (1#3) 2 1 (by decide)) |>.trans (by decide)

theorem sub_146 (e : BitVec 1) (c : BitVec 3) : BitVec.extractLsb' 6 1 (0#7 ++ e ++ 1#3 ++ c : BitVec 14) = e :=
  (extract_high (n := 11) (m := 3) _ (c) 3 1) |>.trans (extract_high (n := 8) (m := 3) _ (1#3) 0 1) |>.trans (extract_low (n := 7) (m := 1) _ (e) 0 1 (by decide)) |>.trans (extract_all e)

theorem sub_147 (e : BitVec 1) (c : BitVec 3) : BitVec.extractLsb' 7 7 (0#7 ++ e ++ 1#3 ++ c : BitVec 14) = 0#7 :=
  (extract_high (n := 11) (m := 3) _ (c) 4 7) |>.trans (extract_high (n := 8) (m := 3) _ (1#3) 1 7) |>.trans (extract_high (n := 7) (m := 1) _ (e) 0 7) |>.trans (by decide)

theorem sub_148 (e : BitVec 1) (c : BitVec 3) : BitVec.extractLsb' 0 3 (0#7 ++ e ++ 2#3 ++ c : BitVec 14) = c :=
  (extract_low (n := 11) (m := 3) _ (c) 0 3 (by decide)) |>.trans (extract_all c)

theorem sub_149 (e : BitVec 1) (c : BitVec 3) : BitVec.extractLsb' 3 2 (0#7 ++ e ++ 2#3 ++ c : BitVec 14) = 2#2 :=
  (extract_high (n := 11) (m := 3) _ (c) 0 2) |>.trans (extract_low (n := 8) (m := 3) _ (2#3) 0 2 (by decide)) |>.trans (by decide)

theorem sub_150 (e : BitVec 1) (c : BitVec 3) : BitVec.extractLsb' 5 1 (0#7 ++ e ++ 2#3 ++ c : BitVec 14) = 0#1 :=
  (extract_high (n := 11) (m := 3) _ (c) 2 1) |>.trans (extract_low (n := 8) (m := 3) _ (2#3) 2 1 (by decide)) |>.trans (by decide)

theorem sub_151 (e : BitVec 1) (c : BitVec 3) : BitVec.extractLsb' 6 1 (0#7 ++ e ++ 2#3 ++ c : BitVec 14) = e :=
  (extract_high (n := 11) (m := 3) _ (c) 3 1) |>.trans (extract_high (n := 8) (m := 3) _ (2#3) 0 1) |>.trans (extract_low (n := 7) (m := 1) _ (e) 0 1 (by decide)) |>.trans (extract_all e)

theorem sub_152 (e : BitVec 1) (c : BitVec 3) : BitVec.extractLsb' 7 7 (0#7 ++ e ++ 2#3 ++ c : BitVec 14) = 0#7 :=
  (extract_high (n := 11) (m := 3) _ (c) 4 7) |>.trans (extract_high (n := 8) (m := 3) _ (2#3) 1 7) |>.trans (extract_high (n := 7) (m := 1) _ (e) 0 7) |>.trans (by decide)

theorem sub_153 (e : BitVec 1) (c : BitVec 3) : BitVec.extractLsb' 0 3 (0#7 ++ e ++ 3#3 ++ c : BitVec 14) = c :=
  (extract_low (n := 11) (m := 3) _ (c) 0 3 (by decide)) |>.trans (extract_all c)

theorem sub_154 (e : BitVec 1) (c : BitVec 3) : BitVec.extractLsb' 3 2 (0#7 ++ e ++ 3#3 ++ c : BitVec 14) = 3#2 :=
  (extract_high (n := 11) (m := 3) _ (c) 0 2) |>.trans (extract_low (n := 8) (m := 3) _ (3#3) 0 2 (by decide)) |>.trans (by decide)

theorem sub_155 (e : BitVec 1) (c : BitVec 3) : BitVec.extractLsb' 5 1 (0#7 ++ e ++ 3#3 ++ c : BitVec 14) = 0#1 :=
  (extract_high (n := 11) (m := 3) _ (c) 2 1) |>.trans (extract_low (n := 8) (m := 3) _ (3#3) 2 1 (by decide)) |>.trans (by decide)

theorem sub_156 (e : BitVec 1) (c : BitVec 3) : BitVec.extractLsb' 6 1 (0#7 ++ e ++ 3#3 ++ c : BitVec 14) = e :=
  (extract_high (n := 11) (m := 3) _ (c) 3 1) |>.trans (extract_high (n := 8) (m := 3) _ (3#3) 0 1) |>.trans (extract_low (n := 7) (m := 1) _ (e) 0 1 (by decide)) |>.trans (extract_all e)

theorem sub_157 (e : BitVec 1) (c : BitVec 3) : BitVec.extractLsb' 7 7 (0#7 ++ e ++ 3#3 ++ c : BitVec 14) = 0#7 :=
  (extract_high (n := 11) (m := 3) _ (c) 4 7) |>.trans (extract_high (n := 8) (m := 3) _ (3#3) 1 7) |>.trans (extract_high (n := 7) (m := 1) _ (e) 0 7) |>.trans (by decide)

theorem sub_158 (q : BitVec 3) (u : BitVec 1) : BitVec.extractLsb' 0 3 (q ++ u ++ 0#3 : BitVec 7) = 0#3 :=
  (extract_low (n := 4) (m := 3) _ (0#3) 0 3 (by decide)) |>.trans (by decide)

theorem sub_159 (q : BitVec 3) (u : BitVec 1) : BitVec.extractLsb' 3 1 (q ++ u ++ 0#3 : BitVec 7) = u :=
  (extract_high (n := 4) (m := 3) _ (0#3) 0 1) |>.trans (extract_low (n := 3) (m := 1) _ (u) 0 1 (by decide)) |>.trans (extract_all u)

theorem sub_160 (q : BitVec 3) (u : BitVec 1) : BitVec.extractLsb' 4 3 (q ++ u ++ 0#3 : BitVec 7) = q :=
  (extract_high (n := 4) (m := 3) _ (0#3) 1 3) |>.trans (extract_high (n := 3) (m := 1) _ (u) 0 3) |>.trans (extract_all q)

theorem sub_161 (q : BitVec 3) (u : BitVec 1) : BitVec.extractLsb' 0 3 (q ++ u ++ 1#3 : BitVec 7) = 1#3 :=
  (extract_low (n := 4) (m := 3) _ (1#3) 0 3 (by decide)) |>.trans (by decide)

theorem sub_162 (q : BitVec 3) (u : BitVec 1) : BitVec.extractLsb' 3 1 (q ++ u ++ 1#3 : BitVec 7) = u :=
  (extract_high (n := 4) (m := 3) _ (1#3) 0 1) |>.trans (extract_low (n := 3) (m := 1) _ (u) 0 1 (by decide)) |>.trans (extract_all u)

theorem sub_163 (q : BitVec 3) (u : BitVec 1) : BitVec.extractLsb' 4 3 (q ++ u ++ 1#3 : BitVec 7) = q :=
  (extract_high (n := 4) (m := 3) _ (1#3) 1 3) |>.trans (extract_high (n := 3) (m := 1) _ (u) 0 3) |>.trans (extract_all q)

theorem sub_164 (q : BitVec 3) (u : BitVec 1) : BitVec.extractLsb' 0 3 (q ++ u ++ 2#3 : BitVec 7) = 2#3 :=
  (extract_low (n := 4) (m := 3) _ (2#3) 0 3 (by decide)) |>.trans (by decide)

theorem sub_165 (q : BitVec 3) (u : BitVec 1) : BitVec.extractLsb' 3 1 (q ++ u ++ 2#3 : BitVec 7) = u :=
  (extract_high (n := 4) (m := 3) _ (2#3) 0 1) |>.trans (extract_low (n := 3) (m := 1) _ (u) 0 1 (by decide)) |>.trans (extract_all u)

theorem sub_166 (q : BitVec 3) (u : BitVec 1) : BitVec.extractLsb' 4 3 (q ++ u ++ 2#3 : BitVec 7) = q :=
  (extract_high (n := 4) (m := 3) _ (2#3) 1 3) |>.trans (extract_high (n := 3) (m := 1) _ (u) 0 3) |>.trans (extract_all q)

theorem sub_167 (q : BitVec 3) (u : BitVec 1) : BitVec.extractLsb' 0 3 (q ++ u ++ 3#3 : BitVec 7) = 3#3 :=
  (extract_low (n := 4) (m := 3) _ (3#3) 0 3 (by decide)) |>.trans (by decide)

theorem sub_168 (q : BitVec 3) (u : BitVec 1) : BitVec.extractLsb' 3 1 (q ++ u ++ 3#3 : BitVec 7) = u :=
  (extract_high (n := 4) (m := 3) _ (3#3) 0 1) |>.trans (extract_low (n := 3) (m := 1) _ (u) 0 1 (by decide)) |>.trans (extract_all u)

theorem sub_169 (q : BitVec 3) (u : BitVec 1) : BitVec.extractLsb' 4 3 (q ++ u ++ 3#3 : BitVec 7) = q :=
  (extract_high (n := 4) (m := 3) _ (3#3) 1 3) |>.trans (extract_high (n := 3) (m := 1) _ (u) 0 3) |>.trans (extract_all q)

theorem sub_170 (s : BitVec 4) (n : BitVec 3) : BitVec.extractLsb' 0 3 (s ++ n : BitVec 7) = n :=
  (extract_low (n := 4) (m := 3) _ (n) 0 3 (by decide)) |>.trans (extract_all n)

theorem sub_171 (s : BitVec 4) (n : BitVec 3) : BitVec.extractLsb' 3 4 (s ++ n : BitVec 7) = s :=
  (extract_high (n := 4) (m := 3) _ (n) 0 4) |>.trans (extract_all s)

theorem sub_172 (n : BitVec 4) : BitVec.extractLsb' 0 4 (0#3 ++ n : BitVec 7) = n :=
  (extract_low (n := 3) (m := 4) _ (n) 0 4 (by decide)) |>.trans (extract_all n)

theorem sub_173 (n : BitVec 4) : BitVec.extractLsb' 4 3 (0#3 ++ n : BitVec 7) = 0#3 :=
  (extract_high (n := 3) (m := 4) _ (n) 0 3) |>.trans (by decide)

theorem sub_174 (r : BitVec 2) : BitVec.extractLsb' 0 2 (0#12 ++ r : BitVec 14) = r :=
  (extract_low (n := 12) (m := 2) _ (r) 0 2 (by decide)) |>.trans (extract_all r)

theorem sub_175 (r : BitVec 2) : BitVec.extractLsb' 2 12 (0#12 ++ r : BitVec 14) = 0#12 :=
  (extract_high (n := 12) (m := 2) _ (r) 0 12) |>.trans (by decide)

theorem sub_176 (c : BitVec 4) : BitVec.extractLsb' 0 4 (0#10 ++ c : BitVec 14) = c :=
  (extract_low (n := 10) (m := 4) _ (c) 0 4 (by decide)) |>.trans (extract_all c)

theorem sub_177 (c : BitVec 4) : BitVec.extractLsb' 4 10 (0#10 ++ c : BitVec 14) = 0#10 :=
  (extract_high (n := 10) (m := 4) _ (c) 0 10) |>.trans (by decide)

theorem sub_178 (c : BitVec 4) : BitVec.extractLsb' 7 7 (0#10 ++ c : BitVec 14) = 0#7 :=
  (extract_high (n := 10) (m := 4) _ (c) 3 7) |>.trans (by decide)

theorem sub_179 (p : BitVec 1) : BitVec.extractLsb' 0 1 (0#13 ++ p : BitVec 14) = p :=
  (extract_low (n := 13) (m := 1) _ (p) 0 1 (by decide)) |>.trans (extract_all p)

theorem sub_180 (p : BitVec 1) : BitVec.extractLsb' 1 13 (0#13 ++ p : BitVec 14) = 0#13 :=
  (extract_high (n := 13) (m := 1) _ (p) 0 13) |>.trans (by decide)

theorem sub_181 (p : BitVec 1) : BitVec.extractLsb' 3 4 (0#13 ++ p : BitVec 14) = 0#4 :=
  (extract_high (n := 13) (m := 1) _ (p) 2 4) |>.trans (by decide)

theorem sub_182 (p : BitVec 1) : BitVec.extractLsb' 4 10 (0#13 ++ p : BitVec 14) = 0#10 :=
  (extract_high (n := 13) (m := 1) _ (p) 3 10) |>.trans (by decide)

theorem sub_183 (p : BitVec 1) : BitVec.extractLsb' 7 7 (0#13 ++ p : BitVec 14) = 0#7 :=
  (extract_high (n := 13) (m := 1) _ (p) 6 7) |>.trans (by decide)

theorem sub_184 (v : BitVec 4) (t : BitVec 3) : BitVec.extractLsb' 0 3 (0#7 ++ v ++ t : BitVec 14) = t :=
  (extract_low (n := 11) (m := 3) _ (t) 0 3 (by decide)) |>.trans (extract_all t)

theorem sub_185 (v : BitVec 4) (t : BitVec 3) : BitVec.extractLsb' 3 4 (0#7 ++ v ++ t : BitVec 14) = v :=
  (extract_high (n := 11) (m := 3) _ (t) 0 4) |>.trans (extract_low (n := 7) (m := 4) _ (v) 0 4 (by decide)) |>.trans (extract_all v)

theorem sub_186 (v : BitVec 4) (t : BitVec 3) : BitVec.extractLsb' 7 7 (0#7 ++ v ++ t : BitVec 14) = 0#7 :=
  (extract_high (n := 11) (m := 3) _ (t) 4 7) |>.trans (extract_high (n := 7) (m := 4) _ (v) 0 7) |>.trans (by decide)

theorem sub_187 (i : BitVec 4) : BitVec.extractLsb' 0 4 (0#10 ++ i : BitVec 14) = i :=
  (extract_low (n := 10) (m := 4) _ (i) 0 4 (by decide)) |>.trans (extract_all i)

theorem sub_188 (i : BitVec 4) : BitVec.extractLsb' 4 10 (0#10 ++ i : BitVec 14) = 0#10 :=
  (extract_high (n := 10) (m := 4) _ (i) 0 10) |>.trans (by decide)

theorem sub_189 (n : BitVec 3) : BitVec.extractLsb' 0 3 (0#11 ++ n : BitVec 14) = n :=
  (extract_low (n := 11) (m := 3) _ (n) 0 3 (by decide)) |>.trans (extract_all n)

theorem sub_190 (n : BitVec 3) : BitVec.extractLsb' 3 11 (0#11 ++ n : BitVec 14) = 0#11 :=
  (extract_high (n := 11) (m := 3) _ (n) 0 11) |>.trans (by decide)

theorem sub_191 (n : BitVec 3) : BitVec.extractLsb' 4 10 (0#11 ++ n : BitVec 14) = 0#10 :=
  (extract_high (n := 11) (m := 3) _ (n) 1 10) |>.trans (by decide)

theorem sub_192 (t : BitVec 3) : BitVec.extractLsb' 0 3 (0#11 ++ t : BitVec 14) = t :=
  (extract_low (n := 11) (m := 3) _ (t) 0 3 (by decide)) |>.trans (extract_all t)

theorem sub_193 (t : BitVec 3) : BitVec.extractLsb' 3 11 (0#11 ++ t : BitVec 14) = 0#11 :=
  (extract_high (n := 11) (m := 3) _ (t) 0 11) |>.trans (by decide)

theorem sub_194 (t : BitVec 3) : BitVec.extractLsb' 4 10 (0#11 ++ t : BitVec 14) = 0#10 :=
  (extract_high (n := 11) (m := 3) _ (t) 1 10) |>.trans (by decide)

theorem sub_195 (q : BitVec 10) : BitVec.extractLsb' 0 10 (0#4 ++ q : BitVec 14) = q :=
  (extract_low (n := 4) (m := 10) _ (q) 0 10 (by decide)) |>.trans (extract_all q)

theorem sub_196 (q : BitVec 10) : BitVec.extractLsb' 10 4 (0#4 ++ q : BitVec 14) = 0#4 :=
  (extract_high (n := 4) (m := 10) _ (q) 0 4) |>.trans (by decide)

theorem sub_197 (q : BitVec 10) : BitVec.extractLsb' 11 3 (0#4 ++ q : BitVec 14) = 0#3 :=
  (extract_high (n := 4) (m := 10) _ (q) 1 3) |>.trans (by decide)

theorem sub_198 (b : BitVec 1) (p : BitVec 3) : BitVec.extractLsb' 0 3 (0#10 ++ b ++ p : BitVec 14) = p :=
  (extract_low (n := 11) (m := 3) _ (p) 0 3 (by decide)) |>.trans (extract_all p)

theorem sub_199 (b : BitVec 1) (p : BitVec 3) : BitVec.extractLsb' 3 1 (0#10 ++ b ++ p : BitVec 14) = b :=
  (extract_high (n := 11) (m := 3) _ (p) 0 1) |>.trans (extract_low (n := 10) (m := 1) _ (b) 0 1 (by decide)) |>.trans (extract_all b)

theorem sub_200 (b : BitVec 1) (p : BitVec 3) : BitVec.extractLsb' 4 4 (0#10 ++ b ++ p : BitVec 14) = 0#4 :=
  (extract_high (n := 11) (m := 3) _ (p) 1 4) |>.trans (extract_high (n := 10) (m := 1) _ (b) 0 4) |>.trans (by decide)

theorem sub_201 (b : BitVec 1) (p : BitVec 3) : BitVec.extractLsb' 4 10 (0#10 ++ b ++ p : BitVec 14) = 0#10 :=
  (extract_high (n := 11) (m := 3) _ (p) 1 10) |>.trans (extract_high (n := 10) (m := 1) _ (b) 0 10) |>.trans (by decide)

theorem sub_202 (b : BitVec 1) (p : BitVec 3) : BitVec.extractLsb' 8 3 (0#10 ++ b ++ p : BitVec 14) = 0#3 :=
  (extract_high (n := 11) (m := 3) _ (p) 5 3) |>.trans (extract_high (n := 10) (m := 1) _ (b) 4 3) |>.trans (by decide)

theorem sub_203 (b : BitVec 1) (p : BitVec 3) : BitVec.extractLsb' 10 4 (0#10 ++ b ++ p : BitVec 14) = 0#4 :=
  (extract_high (n := 11) (m := 3) _ (p) 7 4) |>.trans (extract_high (n := 10) (m := 1) _ (b) 6 4) |>.trans (by decide)

theorem sub_204 (b : BitVec 1) (p : BitVec 3) : BitVec.extractLsb' 11 3 (0#10 ++ b ++ p : BitVec 14) = 0#3 :=
  (extract_high (n := 11) (m := 3) _ (p) 8 3) |>.trans (extract_high (n := 10) (m := 1) _ (b) 7 3) |>.trans (by decide)

theorem sub_205 (i : BitVec 12) (c : BitVec 2) : BitVec.extractLsb' 0 2 (i ++ c : BitVec 14) = c :=
  (extract_low (n := 12) (m := 2) _ (c) 0 2 (by decide)) |>.trans (extract_all c)

theorem sub_206 (i : BitVec 12) (c : BitVec 2) : BitVec.extractLsb' 2 12 (i ++ c : BitVec 14) = i :=
  (extract_high (n := 12) (m := 2) _ (c) 0 12) |>.trans (extract_all i)

theorem sub_207 (p : BitVec 3) (s : BitVec 4) : BitVec.extractLsb' 0 2 (0#3 ++ p ++ s ++ 0#4 : BitVec 14) = 0#2 :=
  (extract_low (n := 10) (m := 4) _ (0#4) 0 2 (by decide)) |>.trans (by decide)

theorem sub_208 (p : BitVec 3) (s : BitVec 4) : BitVec.extractLsb' 0 3 (0#3 ++ p ++ s ++ 0#4 : BitVec 14) = 0#3 :=
  (extract_low (n := 10) (m := 4) _ (0#4) 0 3 (by decide)) |>.trans (by decide)

theorem sub_209 (p : BitVec 3) (s : BitVec 4) : BitVec.extractLsb' 0 4 (0#3 ++ p ++ s ++ 0#4 : BitVec 14) = 0#4 :=
  (extract_low (n := 10) (m := 4) _ (0#4) 0 4 (by decide)) |>.trans (by decide)

theorem sub_210 (p : BitVec 3) (s : BitVec 4) : BitVec.extractLsb' 3 1 (0#3 ++ p ++ s ++ 0#4 : BitVec 14) = 0#1 :=
  (extract_low (n := 10) (m := 4) _ (0#4) 3 1 (by decide)) |>.trans (by decide)

theorem sub_211 (p : BitVec 3) (s : BitVec 4) : BitVec.extractLsb' 4 4 (0#3 ++ p ++ s ++ 0#4 : BitVec 14) = s :=
  (extract_high (n := 10) (m := 4) _ (0#4) 0 4) |>.trans (extract_low (n := 6) (m := 4) _ (s) 0 4 (by decide)) |>.trans (extract_all s)

theorem sub_212 (p : BitVec 3) (s : BitVec 4) : BitVec.extractLsb' 8 3 (0#3 ++ p ++ s ++ 0#4 : BitVec 14) = p :=
  (extract_high (n := 10) (m := 4) _ (0#4) 4 3) |>.trans (extract_high (n := 6) (m := 4) _ (s) 0 3) |>.trans (extract_low (n := 3) (m := 3) _ (p) 0 3 (by decide)) |>.trans (extract_all p)

theorem sub_213 (p : BitVec 3) (s : BitVec 4) : BitVec.extractLsb' 11 3 (0#3 ++ p ++ s ++ 0#4 : BitVec 14) = 0#3 :=
  (extract_high (n := 10) (m := 4) _ (0#4) 7 3) |>.trans (extract_high (n := 6) (m := 4) _ (s) 3 3) |>.trans (extract_high (n := 3) (m := 3) _ (p) 0 3) |>.trans (by decide)

theorem sub_214 (p : BitVec 3) (s : BitVec 4) : BitVec.extractLsb' 0 2 (0#3 ++ p ++ s ++ 1#4 : BitVec 14) = 1#2 :=
  (extract_low (n := 10) (m := 4) _ (1#4) 0 2 (by decide)) |>.trans (by decide)

theorem sub_215 (p : BitVec 3) (s : BitVec 4) : BitVec.extractLsb' 0 3 (0#3 ++ p ++ s ++ 1#4 : BitVec 14) = 1#3 :=
  (extract_low (n := 10) (m := 4) _ (1#4) 0 3 (by decide)) |>.trans (by decide)

theorem sub_216 (p : BitVec 3) (s : BitVec 4) : BitVec.extractLsb' 0 4 (0#3 ++ p ++ s ++ 1#4 : BitVec 14) = 1#4 :=
  (extract_low (n := 10) (m := 4) _ (1#4) 0 4 (by decide)) |>.trans (by decide)

theorem sub_217 (p : BitVec 3) (s : BitVec 4) : BitVec.extractLsb' 3 1 (0#3 ++ p ++ s ++ 1#4 : BitVec 14) = 0#1 :=
  (extract_low (n := 10) (m := 4) _ (1#4) 3 1 (by decide)) |>.trans (by decide)

theorem sub_218 (p : BitVec 3) (s : BitVec 4) : BitVec.extractLsb' 4 4 (0#3 ++ p ++ s ++ 1#4 : BitVec 14) = s :=
  (extract_high (n := 10) (m := 4) _ (1#4) 0 4) |>.trans (extract_low (n := 6) (m := 4) _ (s) 0 4 (by decide)) |>.trans (extract_all s)

theorem sub_219 (p : BitVec 3) (s : BitVec 4) : BitVec.extractLsb' 8 3 (0#3 ++ p ++ s ++ 1#4 : BitVec 14) = p :=
  (extract_high (n := 10) (m := 4) _ (1#4) 4 3) |>.trans (extract_high (n := 6) (m := 4) _ (s) 0 3) |>.trans (extract_low (n := 3) (m := 3) _ (p) 0 3 (by decide)) |>.trans (extract_all p)

theorem sub_220 (p : BitVec 3) (s : BitVec 4) : BitVec.extractLsb' 11 3 (0#3 ++ p ++ s ++ 1#4 : BitVec 14) = 0#3 :=
  (extract_high (n := 10) (m := 4) _ (1#4) 7 3) |>.trans (extract_high (n := 6) (m := 4) _ (s) 3 3) |>.trans (extract_high (n := 3) (m := 3) _ (p) 0 3) |>.trans (by decide)

theorem sub_221 (p : BitVec 3) (s : BitVec 4) : BitVec.extractLsb' 0 2 (0#3 ++ p ++ s ++ 2#4 : BitVec 14) = 2#2 :=
  (extract_low (n := 10) (m := 4) _ (2#4) 0 2 (by decide)) |>.trans (by decide)

theorem sub_222 (p : BitVec 3) (s : BitVec 4) : BitVec.extractLsb' 0 3 (0#3 ++ p ++ s ++ 2#4 : BitVec 14) = 2#3 :=
  (extract_low (n := 10) (m := 4) _ (2#4) 0 3 (by decide)) |>.trans (by decide)

theorem sub_223 (p : BitVec 3) (s : BitVec 4) : BitVec.extractLsb' 0 4 (0#3 ++ p ++ s ++ 2#4 : BitVec 14) = 2#4 :=
  (extract_low (n := 10) (m := 4) _ (2#4) 0 4 (by decide)) |>.trans (by decide)

theorem sub_224 (p : BitVec 3) (s : BitVec 4) : BitVec.extractLsb' 3 1 (0#3 ++ p ++ s ++ 2#4 : BitVec 14) = 0#1 :=
  (extract_low (n := 10) (m := 4) _ (2#4) 3 1 (by decide)) |>.trans (by decide)

theorem sub_225 (p : BitVec 3) (s : BitVec 4) : BitVec.extractLsb' 4 4 (0#3 ++ p ++ s ++ 2#4 : BitVec 14) = s :=
  (extract_high (n := 10) (m := 4) _ (2#4) 0 4) |>.trans (extract_low (n := 6) (m := 4) _ (s) 0 4 (by decide)) |>.trans (extract_all s)

theorem sub_226 (p : BitVec 3) (s : BitVec 4) : BitVec.extractLsb' 8 3 (0#3 ++ p ++ s ++ 2#4 : BitVec 14) = p :=
  (extract_high (n := 10) (m := 4) _ (2#4) 4 3) |>.trans (extract_high (n := 6) (m := 4) _ (s) 0 3) |>.trans (extract_low (n := 3) (m := 3) _ (p) 0 3 (by decide)) |>.trans (extract_all p)

theorem sub_227 (p : BitVec 3) (s : BitVec 4) : BitVec.extractLsb' 11 3 (0#3 ++ p ++ s ++ 2#4 : BitVec 14) = 0#3 :=
  (extract_high (n := 10) (m := 4) _ (2#4) 7 3) |>.trans (extract_high (n := 6) (m := 4) _ (s) 3 3) |>.trans (extract_high (n := 3) (m := 3) _ (p) 0 3) |>.trans (by decide)

theorem sub_228 (p : BitVec 3) (s : BitVec 4) : BitVec.extractLsb' 0 2 (0#3 ++ p ++ s ++ 3#4 : BitVec 14) = 3#2 :=
  (extract_low (n := 10) (m := 4) _ (3#4) 0 2 (by decide)) |>.trans (by decide)

theorem sub_229 (p : BitVec 3) (s : BitVec 4) : BitVec.extractLsb' 0 3 (0#3 ++ p ++ s ++ 3#4 : BitVec 14) = 3#3 :=
  (extract_low (n := 10) (m := 4) _ (3#4) 0 3 (by decide)) |>.trans (by decide)

theorem sub_230 (p : BitVec 3) (s : BitVec 4) : BitVec.extractLsb' 0 4 (0#3 ++ p ++ s ++ 3#4 : BitVec 14) = 3#4 :=
  (extract_low (n := 10) (m := 4) _ (3#4) 0 4 (by decide)) |>.trans (by decide)

theorem sub_231 (p : BitVec 3) (s : BitVec 4) : BitVec.extractLsb' 3 1 (0#3 ++ p ++ s ++ 3#4 : BitVec 14) = 0#1 :=
  (extract_low (n := 10) (m := 4) _ (3#4) 3 1 (by decide)) |>.trans (by decide)

theorem sub_232 (p : BitVec 3) (s : BitVec 4) : BitVec.extractLsb' 4 4 (0#3 ++ p ++ s ++ 3#4 : BitVec 14) = s :=
  (extract_high (n := 10) (m := 4) _ (3#4) 0 4) |>.trans (extract_low (n := 6) (m := 4) _ (s) 0 4 (by decide)) |>.trans (extract_all s)

theorem sub_233 (p : BitVec 3) (s : BitVec 4) : BitVec.extractLsb' 8 3 (0#3 ++ p ++ s ++ 3#4 : BitVec 14) = p :=
  (extract_high (n := 10) (m := 4) _ (3#4) 4 3) |>.trans (extract_high (n := 6) (m := 4) _ (s) 0 3) |>.trans (extract_low (n := 3) (m := 3) _ (p) 0 3 (by decide)) |>.trans (extract_all p)

theorem sub_234 (p : BitVec 3) (s : BitVec 4) : BitVec.extractLsb' 11 3 (0#3 ++ p ++ s ++ 3#4 : BitVec 14) = 0#3 :=
  (extract_high (n := 10) (m := 4) _ (3#4) 7 3) |>.trans (extract_high (n := 6) (m := 4) _ (s) 3 3) |>.trans (extract_high (n := 3) (m := 3) _ (p) 0 3) |>.trans (by decide)

theorem sub_235 (p : BitVec 3) (s : BitVec 4) : BitVec.extractLsb' 0 2 (0#3 ++ p ++ s ++ 4#4 : BitVec 14) = 0#2 :=
  (extract_low (n := 10) (m := 4) _ (4#4) 0 2 (by decide)) |>.trans (by decide)

theorem sub_236 (p : BitVec 3) (s : BitVec 4) : BitVec.extractLsb' 0 3 (0#3 ++ p ++ s ++ 4#4 : BitVec 14) = 4#3 :=
  (extract_low (n := 10) (m := 4) _ (4#4) 0 3 (by decide)) |>.trans (by decide)

theorem sub_237 (p : BitVec 3) (s : BitVec 4) : BitVec.extractLsb' 0 4 (0#3 ++ p ++ s ++ 4#4 : BitVec 14) = 4#4 :=
  (extract_low (n := 10) (m := 4) _ (4#4) 0 4 (by decide)) |>.trans (by decide)

theorem sub_238 (p : BitVec 3) (s : BitVec 4) : BitVec.extractLsb' 3 1 (0#3 ++ p ++ s ++ 4#4 : BitVec 14) = 0#1 :=
  (extract_low (n := 10) (m := 4) _ (4#4) 3 1 (by decide)) |>.trans (by decide)

theorem sub_239 (p : BitVec 3) (s : BitVec 4) : BitVec.extractLsb' 4 4 (0#3 ++ p ++ s ++ 4#4 : BitVec 14) = s :=
  (extract_high (n := 10) (m := 4) _ (4#4) 0 4) |>.trans (extract_low (n := 6) (m := 4) _ (s) 0 4 (by decide)) |>.trans (extract_all s)

theorem sub_240 (p : BitVec 3) (s : BitVec 4) : BitVec.extractLsb' 8 3 (0#3 ++ p ++ s ++ 4#4 : BitVec 14) = p :=
  (extract_high (n := 10) (m := 4) _ (4#4) 4 3) |>.trans (extract_high (n := 6) (m := 4) _ (s) 0 3) |>.trans (extract_low (n := 3) (m := 3) _ (p) 0 3 (by decide)) |>.trans (extract_all p)

theorem sub_241 (p : BitVec 3) (s : BitVec 4) : BitVec.extractLsb' 11 3 (0#3 ++ p ++ s ++ 4#4 : BitVec 14) = 0#3 :=
  (extract_high (n := 10) (m := 4) _ (4#4) 7 3) |>.trans (extract_high (n := 6) (m := 4) _ (s) 3 3) |>.trans (extract_high (n := 3) (m := 3) _ (p) 0 3) |>.trans (by decide)

theorem sub_242 (p : BitVec 3) (s : BitVec 4) : BitVec.extractLsb' 0 2 (0#3 ++ p ++ s ++ 5#4 : BitVec 14) = 1#2 :=
  (extract_low (n := 10) (m := 4) _ (5#4) 0 2 (by decide)) |>.trans (by decide)

theorem sub_243 (p : BitVec 3) (s : BitVec 4) : BitVec.extractLsb' 0 3 (0#3 ++ p ++ s ++ 5#4 : BitVec 14) = 5#3 :=
  (extract_low (n := 10) (m := 4) _ (5#4) 0 3 (by decide)) |>.trans (by decide)

theorem sub_244 (p : BitVec 3) (s : BitVec 4) : BitVec.extractLsb' 0 4 (0#3 ++ p ++ s ++ 5#4 : BitVec 14) = 5#4 :=
  (extract_low (n := 10) (m := 4) _ (5#4) 0 4 (by decide)) |>.trans (by decide)

theorem sub_245 (p : BitVec 3) (s : BitVec 4) : BitVec.extractLsb' 3 1 (0#3 ++ p ++ s ++ 5#4 : BitVec 14) = 0#1 :=
  (extract_low (n := 10) (m := 4) _ (5#4) 3 1 (by decide)) |>.trans (by decide)

theorem sub_246 (p : BitVec 3) (s : BitVec 4) : BitVec.extractLsb' 4 4 (0#3 ++ p ++ s ++ 5#4 : BitVec 14) = s :=
  (extract_high (n := 10) (m := 4) _ (5#4) 0 4) |>.trans (extract_low (n := 6) (m := 4) _ (s) 0 4 (by decide)) |>.trans (extract_all s)

theorem sub_247 (p : BitVec 3) (s : BitVec 4) : BitVec.extractLsb' 8 3 (0#3 ++ p ++ s ++ 5#4 : BitVec 14) = p :=
  (extract_high (n := 10) (m := 4) _ (5#4) 4 3) |>.trans (extract_high (n := 6) (m := 4) _ (s) 0 3) |>.trans (extract_low (n := 3) (m := 3) _ (p) 0 3 (by decide)) |>.trans (extract_all p)

theorem sub_248 (p : BitVec 3) (s : BitVec 4) : BitVec.extractLsb' 11 3 (0#3 ++ p ++ s ++ 5#4 : BitVec 14) = 0#3 :=
  (extract_high (n := 10) (m := 4) _ (5#4) 7 3) |>.trans (extract_high (n := 6) (m := 4) _ (s) 3 3) |>.trans (extract_high (n := 3) (m := 3) _ (p) 0 3) |>.trans (by decide)

theorem sub_249 (r : BitVec 10) : BitVec.extractLsb' 0 10 (0#4 ++ r : BitVec 14) = r :=
  (extract_low (n := 4) (m := 10) _ (r) 0 10 (by decide)) |>.trans (extract_all r)

theorem sub_250 (r : BitVec 10) : BitVec.extractLsb' 10 4 (0#4 ++ r : BitVec 14) = 0#4 :=
  (extract_high (n := 4) (m := 10) _ (r) 0 4) |>.trans (by decide)

theorem sub_251 (r : BitVec 10) : BitVec.extractLsb' 11 3 (0#4 ++ r : BitVec 14) = 0#3 :=
  (extract_high (n := 4) (m := 10) _ (r) 1 3) |>.trans (by decide)

theorem sub_252 (p : BitVec 3) : BitVec.extractLsb' 0 3 (0#11 ++ p : BitVec 14) = p :=
  (extract_low (n := 11) (m := 3) _ (p) 0 3 (by decide)) |>.trans (extract_all p)

theorem sub_253 (p : BitVec 3) : BitVec.extractLsb' 3 1 (0#11 ++ p : BitVec 14) = 0#1 :=
  (extract_high (n := 11) (m := 3) _ (p) 0 1) |>.trans (by decide)

theorem sub_254 (p : BitVec 3) : BitVec.extractLsb' 3 11 (0#11 ++ p : BitVec 14) = 0#11 :=
  (extract_high (n := 11) (m := 3) _ (p) 0 11) |>.trans (by decide)

theorem sub_255 (p : BitVec 3) : BitVec.extractLsb' 4 4 (0#11 ++ p : BitVec 14) = 0#4 :=
  (extract_high (n := 11) (m := 3) _ (p) 1 4) |>.trans (by decide)

theorem sub_256 (p : BitVec 3) : BitVec.extractLsb' 4 10 (0#11 ++ p : BitVec 14) = 0#10 :=
  (extract_high (n := 11) (m := 3) _ (p) 1 10) |>.trans (by decide)

theorem sub_257 (p : BitVec 3) : BitVec.extractLsb' 8 3 (0#11 ++ p : BitVec 14) = 0#3 :=
  (extract_high (n := 11) (m := 3) _ (p) 5 3) |>.trans (by decide)

theorem sub_258 (p : BitVec 3) : BitVec.extractLsb' 10 4 (0#11 ++ p : BitVec 14) = 0#4 :=
  (extract_high (n := 11) (m := 3) _ (p) 7 4) |>.trans (by decide)

theorem sub_259 (p : BitVec 3) : BitVec.extractLsb' 11 3 (0#11 ++ p : BitVec 14) = 0#3 :=
  (extract_high (n := 11) (m := 3) _ (p) 8 3) |>.trans (by decide)

theorem sub_260 (x : BitVec 1) (p : BitVec 3) : BitVec.extractLsb' 0 3 (0#10 ++ x ++ p : BitVec 14) = p :=
  (extract_low (n := 11) (m := 3) _ (p) 0 3 (by decide)) |>.trans (extract_all p)

theorem sub_261 (x : BitVec 1) (p : BitVec 3) : BitVec.extractLsb' 3 1 (0#10 ++ x ++ p : BitVec 14) = x :=
  (extract_high (n := 11) (m := 3) _ (p) 0 1) |>.trans (extract_low (n := 10) (m := 1) _ (x) 0 1 (by decide)) |>.trans (extract_all x)

theorem sub_262 (x : BitVec 1) (p : BitVec 3) : BitVec.extractLsb' 4 4 (0#10 ++ x ++ p : BitVec 14) = 0#4 :=
  (extract_high (n := 11) (m := 3) _ (p) 1 4) |>.trans (extract_high (n := 10) (m := 1) _ (x) 0 4) |>.trans (by decide)

theorem sub_263 (x : BitVec 1) (p : BitVec 3) : BitVec.extractLsb' 4 10 (0#10 ++ x ++ p : BitVec 14) = 0#10 :=
  (extract_high (n := 11) (m := 3) _ (p) 1 10) |>.trans (extract_high (n := 10) (m := 1) _ (x) 0 10) |>.trans (by decide)

theorem sub_264 (x : BitVec 1) (p : BitVec 3) : BitVec.extractLsb' 8 3 (0#10 ++ x ++ p : BitVec 14) = 0#3 :=
  (extract_high (n := 11) (m := 3) _ (p) 5 3) |>.trans (extract_high (n := 10) (m := 1) _ (x) 4 3) |>.trans (by decide)

theorem sub_265 (x : BitVec 1) (p : BitVec 3) : BitVec.extractLsb' 10 4 (0#10 ++ x ++ p : BitVec 14) = 0#4 :=
  (extract_high (n := 11) (m := 3) _ (p) 7 4) |>.trans (extract_high (n := 10) (m := 1) _ (x) 6 4) |>.trans (by decide)

theorem sub_266 (x : BitVec 1) (p : BitVec 3) : BitVec.extractLsb' 11 3 (0#10 ++ x ++ p : BitVec 14) = 0#3 :=
  (extract_high (n := 11) (m := 3) _ (p) 8 3) |>.trans (extract_high (n := 10) (m := 1) _ (x) 7 3) |>.trans (by decide)

theorem sub_267 (m : BitVec 4) : BitVec.extractLsb' 0 4 (0#10 ++ m : BitVec 14) = m :=
  (extract_low (n := 10) (m := 4) _ (m) 0 4 (by decide)) |>.trans (extract_all m)

theorem sub_268 (m : BitVec 4) : BitVec.extractLsb' 4 4 (0#10 ++ m : BitVec 14) = 0#4 :=
  (extract_high (n := 10) (m := 4) _ (m) 0 4) |>.trans (by decide)

theorem sub_269 (m : BitVec 4) : BitVec.extractLsb' 4 10 (0#10 ++ m : BitVec 14) = 0#10 :=
  (extract_high (n := 10) (m := 4) _ (m) 0 10) |>.trans (by decide)

theorem sub_270 (m : BitVec 4) : BitVec.extractLsb' 8 3 (0#10 ++ m : BitVec 14) = 0#3 :=
  (extract_high (n := 10) (m := 4) _ (m) 4 3) |>.trans (by decide)

theorem sub_271 (m : BitVec 4) : BitVec.extractLsb' 10 4 (0#10 ++ m : BitVec 14) = 0#4 :=
  (extract_high (n := 10) (m := 4) _ (m) 6 4) |>.trans (by decide)

theorem sub_272 (m : BitVec 4) : BitVec.extractLsb' 11 3 (0#10 ++ m : BitVec 14) = 0#3 :=
  (extract_high (n := 10) (m := 4) _ (m) 7 3) |>.trans (by decide)

theorem sub_273 (w : BitVec 1) (r : BitVec 1) (c : BitVec 1) (s : BitVec 1) : BitVec.extractLsb' 0 1 (0#3 ++ w ++ r ++ c ++ s : BitVec 7) = s :=
  (extract_low (n := 6) (m := 1) _ (s) 0 1 (by decide)) |>.trans (extract_all s)

theorem sub_274 (w : BitVec 1) (r : BitVec 1) (c : BitVec 1) (s : BitVec 1) : BitVec.extractLsb' 1 1 (0#3 ++ w ++ r ++ c ++ s : BitVec 7) = c :=
  (extract_high (n := 6) (m := 1) _ (s) 0 1) |>.trans (extract_low (n := 5) (m := 1) _ (c) 0 1 (by decide)) |>.trans (extract_all c)

theorem sub_275 (w : BitVec 1) (r : BitVec 1) (c : BitVec 1) (s : BitVec 1) : BitVec.extractLsb' 2 1 (0#3 ++ w ++ r ++ c ++ s : BitVec 7) = r :=
  (extract_high (n := 6) (m := 1) _ (s) 1 1) |>.trans (extract_high (n := 5) (m := 1) _ (c) 0 1) |>.trans (extract_low (n := 4) (m := 1) _ (r) 0 1 (by decide)) |>.trans (extract_all r)

theorem sub_276 (w : BitVec 1) (r : BitVec 1) (c : BitVec 1) (s : BitVec 1) : BitVec.extractLsb' 3 1 (0#3 ++ w ++ r ++ c ++ s : BitVec 7) = w :=
  (extract_high (n := 6) (m := 1) _ (s) 2 1) |>.trans (extract_high (n := 5) (m := 1) _ (c) 1 1) |>.trans (extract_high (n := 4) (m := 1) _ (r) 0 1) |>.trans (extract_low (n := 3) (m := 1) _ (w) 0 1 (by decide)) |>.trans (extract_all w)

theorem sub_277 (w : BitVec 1) (r : BitVec 1) (c : BitVec 1) (s : BitVec 1) : BitVec.extractLsb' 4 3 (0#3 ++ w ++ r ++ c ++ s : BitVec 7) = 0#3 :=
  (extract_high (n := 6) (m := 1) _ (s) 3 3) |>.trans (extract_high (n := 5) (m := 1) _ (c) 2 3) |>.trans (extract_high (n := 4) (m := 1) _ (r) 1 3) |>.trans (extract_high (n := 3) (m := 1) _ (w) 0 3) |>.trans (by decide)

theorem sub_278 (c : BitVec 1) (y : BitVec 1) : BitVec.extractLsb' 0 1 (0#5 ++ c ++ y : BitVec 7) = y :=
  (extract_low (n := 6) (m := 1) _ (y) 0 1 (by decide)) |>.trans (extract_all y)

theorem sub_279 (c : BitVec 1) (y : BitVec 1) : BitVec.extractLsb' 1 1 (0#5 ++ c ++ y : BitVec 7) = c :=
  (extract_high (n := 6) (m := 1) _ (y) 0 1) |>.trans (extract_low (n := 5) (m := 1) _ (c) 0 1 (by decide)) |>.trans (extract_all c)

theorem sub_280 (c : BitVec 1) (y : BitVec 1) : BitVec.extractLsb' 2 5 (0#5 ++ c ++ y : BitVec 7) = 0#5 :=
  (extract_high (n := 6) (m := 1) _ (y) 1 5) |>.trans (extract_high (n := 5) (m := 1) _ (c) 0 5) |>.trans (by decide)

theorem sub_281 (s : BitVec 4) : BitVec.extractLsb' 0 4 (0#3 ++ s : BitVec 7) = s :=
  (extract_low (n := 3) (m := 4) _ (s) 0 4 (by decide)) |>.trans (extract_all s)

theorem sub_282 (s : BitVec 4) : BitVec.extractLsb' 4 3 (0#3 ++ s : BitVec 7) = 0#3 :=
  (extract_high (n := 3) (m := 4) _ (s) 0 3) |>.trans (by decide)

theorem sub_283 (s : BitVec 4) : BitVec.extractLsb' 0 4 (1#3 ++ s : BitVec 7) = s :=
  (extract_low (n := 3) (m := 4) _ (s) 0 4 (by decide)) |>.trans (extract_all s)

theorem sub_284 (s : BitVec 4) : BitVec.extractLsb' 4 3 (1#3 ++ s : BitVec 7) = 1#3 :=
  (extract_high (n := 3) (m := 4) _ (s) 0 3) |>.trans (by decide)

theorem sub_285 (s : BitVec 4) : BitVec.extractLsb' 0 4 (2#3 ++ s : BitVec 7) = s :=
  (extract_low (n := 3) (m := 4) _ (s) 0 4 (by decide)) |>.trans (extract_all s)

theorem sub_286 (s : BitVec 4) : BitVec.extractLsb' 4 3 (2#3 ++ s : BitVec 7) = 2#3 :=
  (extract_high (n := 3) (m := 4) _ (s) 0 3) |>.trans (by decide)

theorem sub_287 (s : BitVec 4) : BitVec.extractLsb' 0 4 (3#3 ++ s : BitVec 7) = s :=
  (extract_low (n := 3) (m := 4) _ (s) 0 4 (by decide)) |>.trans (extract_all s)

theorem sub_288 (s : BitVec 4) : BitVec.extractLsb' 4 3 (3#3 ++ s : BitVec 7) = 3#3 :=
  (extract_high (n := 3) (m := 4) _ (s) 0 3) |>.trans (by decide)

theorem decode_maj00 (w : Word) (h : fieldMaj w = 0x00#6) : decode w = decodeMaj00 (fieldZ w) (fieldO25 w) := by
  rw [decode, h]; rfl

theorem decode_maj01 (w : Word) (h : fieldMaj w = 0x01#6) : decode w = decodeMaj01 (fieldZ w) (fieldD w) (fieldA w) (fieldB w) (fieldF w) := by
  rw [decode, h]; rfl

theorem decode_maj02 (w : Word) (h : fieldMaj w = 0x02#6) : decode w = decodeMaj02 (fieldZ w) (fieldD w) (fieldA w) (fieldB w) (fieldF w) := by
  rw [decode, h]; rfl

theorem decode_maj03 (w : Word) (h : fieldMaj w = 0x03#6) : decode w = decodeMaj03 (fieldZ w) (fieldD w) (fieldA w) (fieldB w) (fieldF w) := by
  rw [decode, h]; rfl

theorem decode_maj04 (w : Word) (h : fieldMaj w = 0x04#6) : decode w = decodeMaj04 (fieldZ w) (fieldD w) (fieldA w) (fieldB w) (fieldF w) := by
  rw [decode, h]; rfl

theorem decode_maj05 (w : Word) (h : fieldMaj w = 0x05#6) : decode w = decodeMaj05 (fieldZ w) (fieldD w) (fieldA w) (fieldB w) (fieldF w) := by
  rw [decode, h]; rfl

theorem decode_maj06 (w : Word) (h : fieldMaj w = 0x06#6) : decode w = decodeMaj06 (fieldZ w) (fieldD w) (fieldA w) (fieldB w) (fieldF w) := by
  rw [decode, h]; rfl

theorem decode_maj07 (w : Word) (h : fieldMaj w = 0x07#6) : decode w = decodeMaj07 (fieldZ w) (fieldD w) (fieldA w) (fieldB w) (fieldF w) := by
  rw [decode, h]; rfl

theorem decode_maj08 (w : Word) (h : fieldMaj w = 0x08#6) : decode w = decodeMaj08 (fieldZ w) (fieldD w) (fieldA w) (fieldB w) (fieldF w) := by
  rw [decode, h]; rfl

theorem decode_maj09 (w : Word) (h : fieldMaj w = 0x09#6) : decode w = decodeMaj09 (fieldZ w) (fieldD w) (fieldA w) (fieldB w) (fieldF w) := by
  rw [decode, h]; rfl

theorem decode_maj0A (w : Word) (h : fieldMaj w = 0x0A#6) : decode w = decodeMaj0A (fieldZ w) (fieldD w) (fieldA w) (fieldB w) (fieldF w) := by
  rw [decode, h]; rfl

theorem decode_maj0B (w : Word) (h : fieldMaj w = 0x0B#6) : decode w = decodeMaj0B (fieldZ w) (fieldD w) (fieldA w) (fieldB w) (fieldF w) := by
  rw [decode, h]; rfl

theorem decode_maj0C (w : Word) (h : fieldMaj w = 0x0C#6) : decode w = decodeMaj0C (fieldZ w) (fieldD w) (fieldA w) (fieldB w) (fieldF w) := by
  rw [decode, h]; rfl

theorem decode_maj0D (w : Word) (h : fieldMaj w = 0x0D#6) : decode w = decodeMaj0D (fieldZ w) (fieldD w) (fieldA w) (fieldB w) (fieldF w) := by
  rw [decode, h]; rfl

theorem decode_maj0E (w : Word) (h : fieldMaj w = 0x0E#6) : decode w = decodeMaj0E (fieldZ w) (fieldD w) (fieldA w) (fieldB w) (fieldF w) := by
  rw [decode, h]; rfl

theorem decode_maj0F (w : Word) (h : fieldMaj w = 0x0F#6) : decode w = decodeMaj0F (fieldZ w) (fieldD w) (fieldA w) (fieldB w) (fieldF w) := by
  rw [decode, h]; rfl

theorem decode_maj10 (w : Word) (h : fieldMaj w = 0x10#6) : decode w = decodeMaj10 (fieldZ w) (fieldT w) (fieldMA w) (fieldMB w) (fieldMV w) (fieldF w) := by
  rw [decode, h]; rfl

theorem decode_maj11 (w : Word) (h : fieldMaj w = 0x11#6) : decode w = decodeMaj11 (fieldZ w) (fieldT w) (fieldMA w) (fieldMB w) (fieldMV w) (fieldF w) := by
  rw [decode, h]; rfl

theorem decode_maj12 (w : Word) (h : fieldMaj w = 0x12#6) : decode w = decodeMaj12 (fieldZ w) (fieldT w) (fieldMA w) (fieldMB w) (fieldMV w) (fieldF w) := by
  rw [decode, h]; rfl

theorem decode_maj13 (w : Word) (h : fieldMaj w = 0x13#6) : decode w = decodeMaj13 (fieldZ w) (fieldD w) (fieldA w) (fieldB w) (fieldF w) := by
  rw [decode, h]; rfl

theorem decode_maj14 (w : Word) (h : fieldMaj w = 0x14#6) : decode w = decodeMaj14 (fieldZ w) (fieldD w) (fieldA w) (fieldB w) (fieldF w) := by
  rw [decode, h]; rfl

theorem decode_maj15 (w : Word) (h : fieldMaj w = 0x15#6) : decode w = decodeMaj15 (fieldZ w) (fieldD w) (fieldA w) (fieldB w) (fieldF w) := by
  rw [decode, h]; rfl

theorem decode_maj16 (w : Word) (h : fieldMaj w = 0x16#6) : decode w = decodeMaj16 (fieldZ w) (fieldD w) (fieldA w) (fieldB w) (fieldF w) := by
  rw [decode, h]; rfl

theorem decode_maj17 (w : Word) (h : fieldMaj w = 0x17#6) : decode w = decodeMaj17 (fieldZ w) (fieldD w) (fieldA w) (fieldB w) (fieldF w) := by
  rw [decode, h]; rfl

theorem decode_maj18 (w : Word) (h : fieldMaj w = 0x18#6) : decode w = decodeMaj18 (fieldZ w) (fieldD w) (fieldA w) (fieldB w) (fieldF w) := by
  rw [decode, h]; rfl

theorem decode_maj19 (w : Word) (h : fieldMaj w = 0x19#6) : decode w = decodeMaj19 (fieldZ w) (fieldD w) (fieldA w) (fieldB w) (fieldF w) := by
  rw [decode, h]; rfl

theorem decode_maj1A (w : Word) (h : fieldMaj w = 0x1A#6) : decode w = decodeMaj1A (fieldZ w) (fieldD w) (fieldSel w) (fieldF w) := by
  rw [decode, h]; rfl

theorem decode_maj1B (w : Word) (h : fieldMaj w = 0x1B#6) : decode w = decodeMaj1B (fieldZ w) (fieldD w) (fieldA w) (fieldB w) (fieldF w) := by
  rw [decode, h]; rfl

theorem decode_maj1C (w : Word) (h : fieldMaj w = 0x1C#6) : decode w = decodeMaj1C (fieldZ w) (fieldD w) (fieldA w) (fieldB w) (fieldF w) := by
  rw [decode, h]; rfl

theorem decode_maj1D (w : Word) (h : fieldMaj w = 0x1D#6) : decode w = decodeMaj1D (fieldZ w) (fieldD w) (fieldA w) (fieldB w) (fieldF w) := by
  rw [decode, h]; rfl

theorem decode_maj1E (w : Word) (h : fieldMaj w = 0x1E#6) : decode w = decodeMaj1E (fieldZ w) (fieldD w) (fieldA w) (fieldB w) (fieldF w) := by
  rw [decode, h]; rfl

theorem decode_maj1F (w : Word) (h : fieldMaj w = 0x1F#6) : decode w = decodeMaj1F (fieldZ w) (fieldD w) (fieldA w) (fieldB w) (fieldF w) := by
  rw [decode, h]; rfl

theorem decode_maj20 (w : Word) (h : fieldMaj w = 0x20#6) : decode w = decodeMaj20 (fieldZ w) (fieldO25 w) := by
  rw [decode, h]; rfl

theorem decode_maj21 (w : Word) (h : fieldMaj w = 0x21#6) : decode w = decodeMaj21 (fieldZ w) (fieldO25 w) := by
  rw [decode, h]; rfl

theorem decode_maj22 (w : Word) (h : fieldMaj w = 0x22#6) : decode w = decodeMaj22 (fieldZ w) (fieldD w) (fieldO18 w) := by
  rw [decode, h]; rfl

theorem decode_maj23 (w : Word) (h : fieldMaj w = 0x23#6) : decode w = decodeMaj23 (fieldZ w) (fieldD w) (fieldO18 w) := by
  rw [decode, h]; rfl

theorem decode_maj24 (w : Word) (h : fieldMaj w = 0x24#6) : decode w = decodeMaj24 (fieldZ w) (fieldD w) (fieldO18 w) := by
  rw [decode, h]; rfl

theorem decode_maj25 (w : Word) (h : fieldMaj w = 0x25#6) : decode w = decodeMaj25 (fieldZ w) (fieldD w) (fieldSel w) (fieldF w) := by
  rw [decode, h]; rfl

theorem decode_maj26 (w : Word) (h : fieldMaj w = 0x26#6) : decode w = decodeMaj26 (fieldZ w) (fieldD w) (fieldSel w) (fieldF w) := by
  rw [decode, h]; rfl

theorem decode_maj27 (w : Word) (h : fieldMaj w = 0x27#6) : decode w = decodeMaj27 (fieldZ w) (fieldD w) (fieldSel w) (fieldF w) := by
  rw [decode, h]; rfl

theorem decode_maj28 (w : Word) (h : fieldMaj w = 0x28#6) : decode w = decodeMaj28 (fieldZ w) (fieldD w) (fieldSel w) (fieldF w) := by
  rw [decode, h]; rfl

theorem decode_maj29 (w : Word) (h : fieldMaj w = 0x29#6) : decode w = decodeMaj29 (fieldZ w) (fieldD w) (fieldSel w) (fieldF w) := by
  rw [decode, h]; rfl

theorem decode_maj2A (w : Word) (h : fieldMaj w = 0x2A#6) : decode w = decodeMaj2A (fieldZ w) (fieldD w) (fieldSel w) (fieldF w) := by
  rw [decode, h]; rfl

theorem decode_maj2B (w : Word) (h : fieldMaj w = 0x2B#6) : decode w = decodeMaj2B (fieldZ w) (fieldD w) (fieldSel w) (fieldF w) := by
  rw [decode, h]; rfl

theorem decode_maj2C (w : Word) (h : fieldMaj w = 0x2C#6) : decode w = decodeMaj2C (fieldZ w) (fieldD w) (fieldSel w) (fieldF w) := by
  rw [decode, h]; rfl

theorem decode_maj2D (w : Word) (h : fieldMaj w = 0x2D#6) : decode w = decodeMaj2D (fieldZ w) (fieldD w) (fieldSel w) (fieldF w) := by
  rw [decode, h]; rfl

theorem decode_maj2E (w : Word) (h : fieldMaj w = 0x2E#6) : decode w = decodeMaj2E (fieldZ w) (fieldD w) (fieldSel w) (fieldF w) := by
  rw [decode, h]; rfl

theorem decode_maj2F (w : Word) (h : fieldMaj w = 0x2F#6) : decode w = decodeMaj2F (fieldZ w) (fieldD w) (fieldA w) (fieldB w) (fieldF w) := by
  rw [decode, h]; rfl

theorem decode_maj30 (w : Word) (h : fieldMaj w = 0x30#6) : decode w = decodeMaj30 (fieldZ w) (fieldD w) (fieldSel w) (fieldF w) := by
  rw [decode, h]; rfl

theorem decode_maj31 (w : Word) (h : fieldMaj w = 0x31#6) : decode w = decodeMaj31 (fieldZ w) (fieldD w) (fieldA w) (fieldB w) (fieldF w) := by
  rw [decode, h]; rfl

theorem decode_maj32 (w : Word) (h : fieldMaj w = 0x32#6) : decode w = decodeMaj32 (fieldZ w) (fieldD w) (fieldA w) (fieldB w) (fieldF w) := by
  rw [decode, h]; rfl

theorem decode_maj33 (w : Word) (h : fieldMaj w = 0x33#6) : decode w = decodeMaj33 (fieldZ w) (fieldD w) (fieldA w) (fieldB w) (fieldF w) := by
  rw [decode, h]; rfl

theorem decode_maj34 (w : Word) (h : fieldMaj w = 0x34#6) : decode w = decodeMaj34 (fieldZ w) (fieldD w) (fieldA w) (fieldB w) (fieldF w) := by
  rw [decode, h]; rfl

theorem decode_maj35 (w : Word) (h : fieldMaj w = 0x35#6) : decode w = decodeMaj35 (fieldZ w) (fieldD w) (fieldA w) (fieldB w) (fieldF w) := by
  rw [decode, h]; rfl

theorem decode_maj36 (w : Word) (h : fieldMaj w = 0x36#6) : decode w = decodeMaj36 (fieldZ w) (fieldD w) (fieldA w) (fieldB w) (fieldF w) := by
  rw [decode, h]; rfl

theorem decode_maj37 (w : Word) (h : fieldMaj w = 0x37#6) : decode w = decodeMaj37 (fieldZ w) (fieldD w) (fieldA w) (fieldB w) (fieldF w) := by
  rw [decode, h]; rfl

theorem decode_maj38 (w : Word) (h : fieldMaj w = 0x38#6) : decode w = decodeMaj38 (fieldZ w) (fieldD w) (fieldA w) (fieldB w) (fieldF w) := by
  rw [decode, h]; rfl

theorem decode_maj39 (w : Word) (h : fieldMaj w = 0x39#6) : decode w = decodeMaj39 (fieldZ w) (fieldD w) (fieldSel w) (fieldF w) := by
  rw [decode, h]; rfl

theorem decode_maj3E (w : Word) (h : fieldMaj w = 0x3E#6) : decode w = decodeMaj3E (fieldZ w) (fieldO25 w) := by
  rw [decode, h]; rfl

theorem decode_maj3F (w : Word) (h : fieldMaj w = 0x3F#6) : decode w = decodeMaj3F (fieldZ w) (fieldO25 w) := by
  rw [decode, h]; rfl

/-- Decoding the word of an instruction gives the instruction; an event has no word. -/
def RoundTrip.Statement (i : Instr) : Prop := ∀ w, encode i = some w → decode w = .ok i

theorem RoundTrip.nop (z : Bool) : RoundTrip.Statement (.nop z) := by
  intro w h
  obtain rfl := Option.some.inj h
  rw [decode_maj00 _ (fieldMaj_wordJ25 ..)]
  simp [decodeMaj00]

theorem RoundTrip.iadd (z : Bool) (d : BitVec 7) (a : BitVec 7) (b : BitVec 7) : RoundTrip.Statement (.iadd z d a b) := by
  intro w h
  obtain rfl := Option.some.inj h
  rw [decode_maj01 _ (fieldMaj_wordA ..)]
  simp [decodeMaj01]

theorem RoundTrip.isub (z : Bool) (d : BitVec 7) (a : BitVec 7) (b : BitVec 7) : RoundTrip.Statement (.isub z d a b) := by
  intro w h
  obtain rfl := Option.some.inj h
  rw [decode_maj01 _ (fieldMaj_wordA ..)]
  simp [decodeMaj01]

theorem RoundTrip.imul (z : Bool) (d : BitVec 7) (a : BitVec 7) (b : BitVec 7) : RoundTrip.Statement (.imul z d a b) := by
  intro w h
  obtain rfl := Option.some.inj h
  rw [decode_maj01 _ (fieldMaj_wordA ..)]
  simp [decodeMaj01]

theorem RoundTrip.imulh (z : Bool) (d : BitVec 7) (a : BitVec 7) (b : BitVec 7) : RoundTrip.Statement (.imulh z d a b) := by
  intro w h
  obtain rfl := Option.some.inj h
  rw [decode_maj01 _ (fieldMaj_wordA ..)]
  simp [decodeMaj01]

theorem RoundTrip.imin (z : Bool) (d : BitVec 7) (a : BitVec 7) (b : BitVec 7) : RoundTrip.Statement (.imin z d a b) := by
  intro w h
  obtain rfl := Option.some.inj h
  rw [decode_maj01 _ (fieldMaj_wordA ..)]
  simp [decodeMaj01]

theorem RoundTrip.imax (z : Bool) (d : BitVec 7) (a : BitVec 7) (b : BitVec 7) : RoundTrip.Statement (.imax z d a b) := by
  intro w h
  obtain rfl := Option.some.inj h
  rw [decode_maj01 _ (fieldMaj_wordA ..)]
  simp [decodeMaj01]

theorem RoundTrip.ineg (z : Bool) (d : BitVec 7) (a : BitVec 7) : RoundTrip.Statement (.ineg z d a) := by
  intro w h
  obtain rfl := Option.some.inj h
  rw [decode_maj01 _ (fieldMaj_wordA ..)]
  simp [decodeMaj01]

theorem RoundTrip.iabs (z : Bool) (d : BitVec 7) (a : BitVec 7) : RoundTrip.Statement (.iabs z d a) := by
  intro w h
  obtain rfl := Option.some.inj h
  rw [decode_maj01 _ (fieldMaj_wordA ..)]
  simp [decodeMaj01]

theorem RoundTrip.and (z : Bool) (d : BitVec 7) (a : BitVec 7) (b : BitVec 7) : RoundTrip.Statement (.and z d a b) := by
  intro w h
  obtain rfl := Option.some.inj h
  rw [decode_maj01 _ (fieldMaj_wordA ..)]
  simp [decodeMaj01]

theorem RoundTrip.or (z : Bool) (d : BitVec 7) (a : BitVec 7) (b : BitVec 7) : RoundTrip.Statement (.or z d a b) := by
  intro w h
  obtain rfl := Option.some.inj h
  rw [decode_maj01 _ (fieldMaj_wordA ..)]
  simp [decodeMaj01]

theorem RoundTrip.xor (z : Bool) (d : BitVec 7) (a : BitVec 7) (b : BitVec 7) : RoundTrip.Statement (.xor z d a b) := by
  intro w h
  obtain rfl := Option.some.inj h
  rw [decode_maj01 _ (fieldMaj_wordA ..)]
  simp [decodeMaj01]

theorem RoundTrip.andn (z : Bool) (d : BitVec 7) (a : BitVec 7) (b : BitVec 7) : RoundTrip.Statement (.andn z d a b) := by
  intro w h
  obtain rfl := Option.some.inj h
  rw [decode_maj01 _ (fieldMaj_wordA ..)]
  simp [decodeMaj01]

theorem RoundTrip.shl (z : Bool) (d : BitVec 7) (a : BitVec 7) (b : BitVec 7) : RoundTrip.Statement (.shl z d a b) := by
  intro w h
  obtain rfl := Option.some.inj h
  rw [decode_maj01 _ (fieldMaj_wordA ..)]
  simp [decodeMaj01]

theorem RoundTrip.shr (z : Bool) (d : BitVec 7) (a : BitVec 7) (b : BitVec 7) : RoundTrip.Statement (.shr z d a b) := by
  intro w h
  obtain rfl := Option.some.inj h
  rw [decode_maj01 _ (fieldMaj_wordA ..)]
  simp [decodeMaj01]

theorem RoundTrip.sar (z : Bool) (d : BitVec 7) (a : BitVec 7) (b : BitVec 7) : RoundTrip.Statement (.sar z d a b) := by
  intro w h
  obtain rfl := Option.some.inj h
  rw [decode_maj01 _ (fieldMaj_wordA ..)]
  simp [decodeMaj01]

theorem RoundTrip.rot (z : Bool) (d : BitVec 7) (a : BitVec 7) (b : BitVec 7) : RoundTrip.Statement (.rot z d a b) := by
  intro w h
  obtain rfl := Option.some.inj h
  rw [decode_maj01 _ (fieldMaj_wordA ..)]
  simp [decodeMaj01]

theorem RoundTrip.clz (z : Bool) (d : BitVec 7) (a : BitVec 7) : RoundTrip.Statement (.clz z d a) := by
  intro w h
  obtain rfl := Option.some.inj h
  rw [decode_maj02 _ (fieldMaj_wordA ..)]
  simp [decodeMaj02]

theorem RoundTrip.ctz (z : Bool) (d : BitVec 7) (a : BitVec 7) : RoundTrip.Statement (.ctz z d a) := by
  intro w h
  obtain rfl := Option.some.inj h
  rw [decode_maj02 _ (fieldMaj_wordA ..)]
  simp [decodeMaj02]

theorem RoundTrip.popc (z : Bool) (d : BitVec 7) (a : BitVec 7) : RoundTrip.Statement (.popc z d a) := by
  intro w h
  obtain rfl := Option.some.inj h
  rw [decode_maj02 _ (fieldMaj_wordA ..)]
  simp [decodeMaj02]

theorem RoundTrip.brev (z : Bool) (d : BitVec 7) (a : BitVec 7) : RoundTrip.Statement (.brev z d a) := by
  intro w h
  obtain rfl := Option.some.inj h
  rw [decode_maj02 _ (fieldMaj_wordA ..)]
  simp [decodeMaj02]

theorem RoundTrip.bil3 (z : Bool) (d : BitVec 7) (a : BitVec 7) (b : BitVec 7) : RoundTrip.Statement (.bil3 z d a b) := by
  intro w h
  obtain rfl := Option.some.inj h
  rw [decode_maj02 _ (fieldMaj_wordA ..)]
  simp [decodeMaj02]

theorem RoundTrip.bdil3 (z : Bool) (d : BitVec 7) (a : BitVec 7) (b : BitVec 7) : RoundTrip.Statement (.bdil3 z d a b) := by
  intro w h
  obtain rfl := Option.some.inj h
  rw [decode_maj02 _ (fieldMaj_wordA ..)]
  simp [decodeMaj02]

theorem RoundTrip.bil2 (z : Bool) (d : BitVec 7) (a : BitVec 7) (b : BitVec 7) : RoundTrip.Statement (.bil2 z d a b) := by
  intro w h
  obtain rfl := Option.some.inj h
  rw [decode_maj02 _ (fieldMaj_wordA ..)]
  simp [decodeMaj02]

theorem RoundTrip.bdil2 (z : Bool) (d : BitVec 7) (a : BitVec 7) : RoundTrip.Statement (.bdil2 z d a) := by
  intro w h
  obtain rfl := Option.some.inj h
  rw [decode_maj02 _ (fieldMaj_wordA ..)]
  simp [decodeMaj02]

theorem RoundTrip.bfx (z : Bool) (d : BitVec 7) (a : BitVec 7) (b : BitVec 7) : RoundTrip.Statement (.bfx z d a b) := by
  intro w h
  obtain rfl := Option.some.inj h
  rw [decode_maj02 _ (fieldMaj_wordA ..)]
  simp [decodeMaj02]

theorem RoundTrip.bfxs (z : Bool) (d : BitVec 7) (a : BitVec 7) (b : BitVec 7) : RoundTrip.Statement (.bfxs z d a b) := by
  intro w h
  obtain rfl := Option.some.inj h
  rw [decode_maj02 _ (fieldMaj_wordA ..)]
  simp [decodeMaj02]

theorem RoundTrip.bfi (z : Bool) (d : BitVec 7) (a : BitVec 7) (b : BitVec 7) : RoundTrip.Statement (.bfi z d a b) := by
  intro w h
  obtain rfl := Option.some.inj h
  rw [decode_maj02 _ (fieldMaj_wordA ..)]
  simp [decodeMaj02]

theorem RoundTrip.mov (z : Bool) (d : BitVec 7) (a : BitVec 7) : RoundTrip.Statement (.mov z d a) := by
  intro w h
  obtain rfl := Option.some.inj h
  rw [decode_maj02 _ (fieldMaj_wordA ..)]
  simp [decodeMaj02]

theorem RoundTrip.sel (z : Bool) (d : BitVec 7) (a : BitVec 7) (b : BitVec 7) : RoundTrip.Statement (.sel z d a b) := by
  intro w h
  obtain rfl := Option.some.inj h
  rw [decode_maj02 _ (fieldMaj_wordA ..)]
  simp [decodeMaj02]

theorem RoundTrip.perm (z : Bool) (d : BitVec 7) (a : BitVec 7) (b : BitVec 7) : RoundTrip.Statement (.perm z d a b) := by
  intro w h
  obtain rfl := Option.some.inj h
  rw [decode_maj02 _ (fieldMaj_wordA ..)]
  simp [decodeMaj02]

theorem RoundTrip.imad (z : Bool) (d : BitVec 7) (a : BitVec 7) (b : BitVec 7) : RoundTrip.Statement (.imad z d a b) := by
  intro w h
  obtain rfl := Option.some.inj h
  rw [decode_maj03 _ (fieldMaj_wordA ..)]
  simp [decodeMaj03]

theorem RoundTrip.imadh (z : Bool) (d : BitVec 7) (a : BitVec 7) (b : BitVec 7) : RoundTrip.Statement (.imadh z d a b) := by
  intro w h
  obtain rfl := Option.some.inj h
  rw [decode_maj03 _ (fieldMaj_wordA ..)]
  simp [decodeMaj03]

theorem RoundTrip.idot4 (z : Bool) (d : BitVec 7) (a : BitVec 7) (b : BitVec 7) : RoundTrip.Statement (.idot4 z d a b) := by
  intro w h
  obtain rfl := Option.some.inj h
  rw [decode_maj03 _ (fieldMaj_wordA ..)]
  simp [decodeMaj03]

theorem RoundTrip.isad (z : Bool) (d : BitVec 7) (a : BitVec 7) (b : BitVec 7) : RoundTrip.Statement (.isad z d a b) := by
  intro w h
  obtain rfl := Option.some.inj h
  rw [decode_maj03 _ (fieldMaj_wordA ..)]
  simp [decodeMaj03]

theorem RoundTrip.icmpEq (z : Bool) (d : BitVec 7) (a : BitVec 7) (b : BitVec 7) : RoundTrip.Statement (.icmpEq z d a b) := by
  intro w h
  obtain rfl := Option.some.inj h
  rw [decode_maj04 _ (fieldMaj_wordA ..)]
  simp [decodeMaj04]

theorem RoundTrip.icmpNe (z : Bool) (d : BitVec 7) (a : BitVec 7) (b : BitVec 7) : RoundTrip.Statement (.icmpNe z d a b) := by
  intro w h
  obtain rfl := Option.some.inj h
  rw [decode_maj04 _ (fieldMaj_wordA ..)]
  simp [decodeMaj04]

theorem RoundTrip.icmpLt (z : Bool) (d : BitVec 7) (a : BitVec 7) (b : BitVec 7) : RoundTrip.Statement (.icmpLt z d a b) := by
  intro w h
  obtain rfl := Option.some.inj h
  rw [decode_maj04 _ (fieldMaj_wordA ..)]
  simp [decodeMaj04]

theorem RoundTrip.icmpLe (z : Bool) (d : BitVec 7) (a : BitVec 7) (b : BitVec 7) : RoundTrip.Statement (.icmpLe z d a b) := by
  intro w h
  obtain rfl := Option.some.inj h
  rw [decode_maj04 _ (fieldMaj_wordA ..)]
  simp [decodeMaj04]

theorem RoundTrip.icmpGt (z : Bool) (d : BitVec 7) (a : BitVec 7) (b : BitVec 7) : RoundTrip.Statement (.icmpGt z d a b) := by
  intro w h
  obtain rfl := Option.some.inj h
  rw [decode_maj04 _ (fieldMaj_wordA ..)]
  simp [decodeMaj04]

theorem RoundTrip.icmpGe (z : Bool) (d : BitVec 7) (a : BitVec 7) (b : BitVec 7) : RoundTrip.Statement (.icmpGe z d a b) := by
  intro w h
  obtain rfl := Option.some.inj h
  rw [decode_maj04 _ (fieldMaj_wordA ..)]
  simp [decodeMaj04]

theorem RoundTrip.icmpLtn (z : Bool) (d : BitVec 7) (a : BitVec 7) (b : BitVec 7) : RoundTrip.Statement (.icmpLtn z d a b) := by
  intro w h
  obtain rfl := Option.some.inj h
  rw [decode_maj04 _ (fieldMaj_wordA ..)]
  simp [decodeMaj04]

theorem RoundTrip.icmpLen (z : Bool) (d : BitVec 7) (a : BitVec 7) (b : BitVec 7) : RoundTrip.Statement (.icmpLen z d a b) := by
  intro w h
  obtain rfl := Option.some.inj h
  rw [decode_maj04 _ (fieldMaj_wordA ..)]
  simp [decodeMaj04]

theorem RoundTrip.icmpGtn (z : Bool) (d : BitVec 7) (a : BitVec 7) (b : BitVec 7) : RoundTrip.Statement (.icmpGtn z d a b) := by
  intro w h
  obtain rfl := Option.some.inj h
  rw [decode_maj04 _ (fieldMaj_wordA ..)]
  simp [decodeMaj04]

theorem RoundTrip.icmpGen (z : Bool) (d : BitVec 7) (a : BitVec 7) (b : BitVec 7) : RoundTrip.Statement (.icmpGen z d a b) := by
  intro w h
  obtain rfl := Option.some.inj h
  rw [decode_maj04 _ (fieldMaj_wordA ..)]
  simp [decodeMaj04]

theorem RoundTrip.icmpTstz (z : Bool) (d : BitVec 7) (a : BitVec 7) (b : BitVec 7) : RoundTrip.Statement (.icmpTstz z d a b) := by
  intro w h
  obtain rfl := Option.some.inj h
  rw [decode_maj04 _ (fieldMaj_wordA ..)]
  simp [decodeMaj04]

theorem RoundTrip.icmpTstnz (z : Bool) (d : BitVec 7) (a : BitVec 7) (b : BitVec 7) : RoundTrip.Statement (.icmpTstnz z d a b) := by
  intro w h
  obtain rfl := Option.some.inj h
  rw [decode_maj04 _ (fieldMaj_wordA ..)]
  simp [decodeMaj04]

theorem RoundTrip.add64 (z : Bool) (d : BitVec 7) (a : BitVec 7) (b : BitVec 7) : RoundTrip.Statement (.add64 z d a b) := by
  intro w h
  obtain rfl := Option.some.inj h
  rw [decode_maj05 _ (fieldMaj_wordA ..)]
  simp [decodeMaj05]

theorem RoundTrip.sub64 (z : Bool) (d : BitVec 7) (a : BitVec 7) (b : BitVec 7) : RoundTrip.Statement (.sub64 z d a b) := by
  intro w h
  obtain rfl := Option.some.inj h
  rw [decode_maj05 _ (fieldMaj_wordA ..)]
  simp [decodeMaj05]

theorem RoundTrip.lea1 (z : Bool) (d : BitVec 7) (a : BitVec 7) (b : BitVec 7) : RoundTrip.Statement (.lea1 z d a b) := by
  intro w h
  obtain rfl := Option.some.inj h
  rw [decode_maj05 _ (fieldMaj_wordA ..)]
  simp [decodeMaj05]

theorem RoundTrip.lea2 (z : Bool) (d : BitVec 7) (a : BitVec 7) (b : BitVec 7) : RoundTrip.Statement (.lea2 z d a b) := by
  intro w h
  obtain rfl := Option.some.inj h
  rw [decode_maj05 _ (fieldMaj_wordA ..)]
  simp [decodeMaj05]

theorem RoundTrip.lea4 (z : Bool) (d : BitVec 7) (a : BitVec 7) (b : BitVec 7) : RoundTrip.Statement (.lea4 z d a b) := by
  intro w h
  obtain rfl := Option.some.inj h
  rw [decode_maj05 _ (fieldMaj_wordA ..)]
  simp [decodeMaj05]

theorem RoundTrip.lea8 (z : Bool) (d : BitVec 7) (a : BitVec 7) (b : BitVec 7) : RoundTrip.Statement (.lea8 z d a b) := by
  intro w h
  obtain rfl := Option.some.inj h
  rw [decode_maj05 _ (fieldMaj_wordA ..)]
  simp [decodeMaj05]

theorem RoundTrip.lea16 (z : Bool) (d : BitVec 7) (a : BitVec 7) (b : BitVec 7) : RoundTrip.Statement (.lea16 z d a b) := by
  intro w h
  obtain rfl := Option.some.inj h
  rw [decode_maj05 _ (fieldMaj_wordA ..)]
  simp [decodeMaj05]

theorem RoundTrip.mov64 (z : Bool) (d : BitVec 7) (a : BitVec 7) : RoundTrip.Statement (.mov64 z d a) := by
  intro w h
  obtain rfl := Option.some.inj h
  rw [decode_maj05 _ (fieldMaj_wordA ..)]
  simp [decodeMaj05]

theorem RoundTrip.shl64 (z : Bool) (d : BitVec 7) (a : BitVec 7) (b : BitVec 7) : RoundTrip.Statement (.shl64 z d a b) := by
  intro w h
  obtain rfl := Option.some.inj h
  rw [decode_maj05 _ (fieldMaj_wordA ..)]
  simp [decodeMaj05]

theorem RoundTrip.shr64 (z : Bool) (d : BitVec 7) (a : BitVec 7) (b : BitVec 7) : RoundTrip.Statement (.shr64 z d a b) := by
  intro w h
  obtain rfl := Option.some.inj h
  rw [decode_maj05 _ (fieldMaj_wordA ..)]
  simp [decodeMaj05]

theorem RoundTrip.modeEt (z : Bool) (e : BitVec 4) : RoundTrip.Statement (.modeEt z e) := by
  intro w h
  obtain rfl := Option.some.inj h
  rw [decode_maj2A _ (fieldMaj_wordS ..)]
  simp [decodeMaj2A, sub_0, sub_1, sub_2, sub_3, sub_4, sub_5]

theorem RoundTrip.modeEt2 (z : Bool) (e : BitVec 4) : RoundTrip.Statement (.modeEt2 z e) := by
  intro w h
  obtain rfl := Option.some.inj h
  rw [decode_maj2A _ (fieldMaj_wordS ..)]
  simp [decodeMaj2A, sub_0, sub_1, sub_2, sub_3, sub_4, sub_5]

theorem RoundTrip.modeRnd (z : Bool) (e : BitVec 3) : RoundTrip.Statement (.modeRnd z e) := by
  intro w h
  obtain rfl := Option.some.inj h
  rw [decode_maj2A _ (fieldMaj_wordS ..)]
  simp [decodeMaj2A, sub_6, sub_7, sub_8, sub_9, sub_10, sub_11, sub_12]

theorem RoundTrip.modeSat (z : Bool) (e : BitVec 1) : RoundTrip.Statement (.modeSat z e) := by
  intro w h
  obtain rfl := Option.some.inj h
  rw [decode_maj2A _ (fieldMaj_wordS ..)]
  simp [decodeMaj2A, sub_13, sub_14, sub_15, sub_16, sub_17, sub_18, sub_19, sub_20, sub_21]

theorem RoundTrip.modeFtz (z : Bool) (e : BitVec 1) : RoundTrip.Statement (.modeFtz z e) := by
  intro w h
  obtain rfl := Option.some.inj h
  rw [decode_maj2A _ (fieldMaj_wordS ..)]
  simp [decodeMaj2A, sub_13, sub_14, sub_15, sub_16, sub_17, sub_18, sub_19, sub_20, sub_21]

theorem RoundTrip.modeGuard (z : Bool) (g : BitVec 1) (p : BitVec 1) (r : BitVec 7) : RoundTrip.Statement (.modeGuard z g p r) := by
  intro w h
  obtain rfl := Option.some.inj h
  rw [decode_maj2A _ (fieldMaj_wordS ..)]
  simp [decodeMaj2A, sub_22, sub_23, sub_24, sub_25]

theorem RoundTrip.modeFreg (z : Bool) (r : BitVec 7) : RoundTrip.Statement (.modeFreg z r) := by
  intro w h
  obtain rfl := Option.some.inj h
  rw [decode_maj2A _ (fieldMaj_wordS ..)]
  simp [decodeMaj2A, sub_26, sub_27, sub_28, sub_29, sub_30]

theorem RoundTrip.modeSpl (z : Bool) (e : BitVec 2) : RoundTrip.Statement (.modeSpl z e) := by
  intro w h
  obtain rfl := Option.some.inj h
  rw [decode_maj2A _ (fieldMaj_wordS ..)]
  simp [decodeMaj2A, sub_31, sub_32, sub_33, sub_34, sub_35, sub_36, sub_37, sub_38]

theorem RoundTrip.modeUtrap (z : Bool) (e : BitVec 1) : RoundTrip.Statement (.modeUtrap z e) := by
  intro w h
  obtain rfl := Option.some.inj h
  rw [decode_maj2A _ (fieldMaj_wordS ..)]
  simp [decodeMaj2A, sub_13, sub_14, sub_15, sub_16, sub_17, sub_18, sub_19, sub_20, sub_21]

theorem RoundTrip.modeWord (z : Bool) (d : BitVec 7) : RoundTrip.Statement (.modeWord z d) := by
  intro w h
  obtain rfl := Option.some.inj h
  rw [decode_maj2A _ (fieldMaj_wordS ..)]
  simp [decodeMaj2A]

theorem RoundTrip.sread (z : Bool) (d : BitVec 7) (e : BitVec 14) : RoundTrip.Statement (.sread z d e) := by
  intro w h
  obtain rfl := Option.some.inj h
  rw [decode_maj2B _ (fieldMaj_wordS ..)]
  simp [decodeMaj2B]

theorem RoundTrip.swrite (z : Bool) (d : BitVec 7) (e : BitVec 14) : RoundTrip.Statement (.swrite z d e) := by
  intro w h
  obtain rfl := Option.some.inj h
  rw [decode_maj2B _ (fieldMaj_wordS ..)]
  simp [decodeMaj2B]

theorem RoundTrip.gread (z : Bool) (d : BitVec 7) (k : BitVec 5) : RoundTrip.Statement (.gread z d k) := by
  intro w h
  obtain rfl := Option.some.inj h
  rw [decode_maj2B _ (fieldMaj_wordS ..)]
  simp [decodeMaj2B, sub_39, sub_40]

theorem RoundTrip.gwrite (z : Bool) (d : BitVec 7) (k : BitVec 5) : RoundTrip.Statement (.gwrite z d k) := by
  intro w h
  obtain rfl := Option.some.inj h
  rw [decode_maj2B _ (fieldMaj_wordS ..)]
  simp [decodeMaj2B, sub_39, sub_40]

theorem RoundTrip.gxchg (z : Bool) (d : BitVec 7) (k : BitVec 5) : RoundTrip.Statement (.gxchg z d k) := by
  intro w h
  obtain rfl := Option.some.inj h
  rw [decode_maj2B _ (fieldMaj_wordS ..)]
  simp [decodeMaj2B, sub_39, sub_40]

theorem RoundTrip.gadd (z : Bool) (d : BitVec 7) (k : BitVec 5) : RoundTrip.Statement (.gadd z d k) := by
  intro w h
  obtain rfl := Option.some.inj h
  rw [decode_maj2B _ (fieldMaj_wordS ..)]
  simp [decodeMaj2B, sub_39, sub_40]

theorem RoundTrip.rgn (z : Bool) (a : BitVec 7) (i : BitVec 14) : RoundTrip.Statement (.rgn z a i) := by
  intro w h
  obtain rfl := Option.some.inj h
  rw [decode_maj2C _ (fieldMaj_wordS ..)]
  simp [decodeMaj2C]

theorem RoundTrip.rgnadd (z : Bool) (a : BitVec 7) (i : BitVec 14) : RoundTrip.Statement (.rgnadd z a i) := by
  intro w h
  obtain rfl := Option.some.inj h
  rw [decode_maj2C _ (fieldMaj_wordS ..)]
  simp [decodeMaj2C]

theorem RoundTrip.kx (k : BitVec 25) : RoundTrip.Statement (.kx k) := by
  intro w h
  obtain rfl := Option.some.inj h
  rw [decode_maj3F _ (fieldMaj_wordJ25 ..)]
  simp [decodeMaj3F]

theorem RoundTrip.kxw (k : BitVec 7) : RoundTrip.Statement (.kxw k) := by
  intro w h
  obtain rfl := Option.some.inj h
  rw [decode_maj3E _ (fieldMaj_wordJ25 ..)]
  simp [decodeMaj3E, sub_41, sub_42]

theorem RoundTrip.fadd (z : Bool) (d : BitVec 7) (a : BitVec 7) (b : BitVec 7) : RoundTrip.Statement (.fadd z d a b) := by
  intro w h
  obtain rfl := Option.some.inj h
  rw [decode_maj06 _ (fieldMaj_wordA ..)]
  simp [decodeMaj06]

theorem RoundTrip.fsub (z : Bool) (d : BitVec 7) (a : BitVec 7) (b : BitVec 7) : RoundTrip.Statement (.fsub z d a b) := by
  intro w h
  obtain rfl := Option.some.inj h
  rw [decode_maj06 _ (fieldMaj_wordA ..)]
  simp [decodeMaj06]

theorem RoundTrip.fmul (z : Bool) (d : BitVec 7) (a : BitVec 7) (b : BitVec 7) : RoundTrip.Statement (.fmul z d a b) := by
  intro w h
  obtain rfl := Option.some.inj h
  rw [decode_maj06 _ (fieldMaj_wordA ..)]
  simp [decodeMaj06]

theorem RoundTrip.fmin (z : Bool) (d : BitVec 7) (a : BitVec 7) (b : BitVec 7) : RoundTrip.Statement (.fmin z d a b) := by
  intro w h
  obtain rfl := Option.some.inj h
  rw [decode_maj06 _ (fieldMaj_wordA ..)]
  simp [decodeMaj06]

theorem RoundTrip.fmax (z : Bool) (d : BitVec 7) (a : BitVec 7) (b : BitVec 7) : RoundTrip.Statement (.fmax z d a b) := by
  intro w h
  obtain rfl := Option.some.inj h
  rw [decode_maj06 _ (fieldMaj_wordA ..)]
  simp [decodeMaj06]

theorem RoundTrip.fabs (z : Bool) (d : BitVec 7) (a : BitVec 7) : RoundTrip.Statement (.fabs z d a) := by
  intro w h
  obtain rfl := Option.some.inj h
  rw [decode_maj06 _ (fieldMaj_wordA ..)]
  simp [decodeMaj06]

theorem RoundTrip.fneg (z : Bool) (d : BitVec 7) (a : BitVec 7) : RoundTrip.Statement (.fneg z d a) := by
  intro w h
  obtain rfl := Option.some.inj h
  rw [decode_maj06 _ (fieldMaj_wordA ..)]
  simp [decodeMaj06]

theorem RoundTrip.fcls (z : Bool) (d : BitVec 7) (a : BitVec 7) : RoundTrip.Statement (.fcls z d a) := by
  intro w h
  obtain rfl := Option.some.inj h
  rw [decode_maj06 _ (fieldMaj_wordA ..)]
  simp [decodeMaj06]

theorem RoundTrip.fminm (z : Bool) (d : BitVec 7) (a : BitVec 7) (b : BitVec 7) : RoundTrip.Statement (.fminm z d a b) := by
  intro w h
  obtain rfl := Option.some.inj h
  rw [decode_maj06 _ (fieldMaj_wordA ..)]
  simp [decodeMaj06]

theorem RoundTrip.fmaxm (z : Bool) (d : BitVec 7) (a : BitVec 7) (b : BitVec 7) : RoundTrip.Statement (.fmaxm z d a b) := by
  intro w h
  obtain rfl := Option.some.inj h
  rw [decode_maj06 _ (fieldMaj_wordA ..)]
  simp [decodeMaj06]

theorem RoundTrip.frnd (z : Bool) (d : BitVec 7) (a : BitVec 7) : RoundTrip.Statement (.frnd z d a) := by
  intro w h
  obtain rfl := Option.some.inj h
  rw [decode_maj06 _ (fieldMaj_wordA ..)]
  simp [decodeMaj06]

theorem RoundTrip.fscl (z : Bool) (d : BitVec 7) (a : BitVec 7) (b : BitVec 7) : RoundTrip.Statement (.fscl z d a b) := by
  intro w h
  obtain rfl := Option.some.inj h
  rw [decode_maj06 _ (fieldMaj_wordA ..)]
  simp [decodeMaj06]

theorem RoundTrip.fcpy (z : Bool) (d : BitVec 7) (a : BitVec 7) (b : BitVec 7) : RoundTrip.Statement (.fcpy z d a b) := by
  intro w h
  obtain rfl := Option.some.inj h
  rw [decode_maj06 _ (fieldMaj_wordA ..)]
  simp [decodeMaj06]

theorem RoundTrip.ffma (z : Bool) (d : BitVec 7) (a : BitVec 7) (b : BitVec 7) : RoundTrip.Statement (.ffma z d a b) := by
  intro w h
  obtain rfl := Option.some.inj h
  rw [decode_maj07 _ (fieldMaj_wordA ..)]
  simp [decodeMaj07]

theorem RoundTrip.ffms (z : Bool) (d : BitVec 7) (a : BitVec 7) (b : BitVec 7) : RoundTrip.Statement (.ffms z d a b) := by
  intro w h
  obtain rfl := Option.some.inj h
  rw [decode_maj07 _ (fieldMaj_wordA ..)]
  simp [decodeMaj07]

theorem RoundTrip.fnma (z : Bool) (d : BitVec 7) (a : BitVec 7) (b : BitVec 7) : RoundTrip.Statement (.fnma z d a b) := by
  intro w h
  obtain rfl := Option.some.inj h
  rw [decode_maj07 _ (fieldMaj_wordA ..)]
  simp [decodeMaj07]

theorem RoundTrip.fcmpEq (z : Bool) (d : BitVec 7) (a : BitVec 7) (b : BitVec 7) : RoundTrip.Statement (.fcmpEq z d a b) := by
  intro w h
  obtain rfl := Option.some.inj h
  rw [decode_maj08 _ (fieldMaj_wordA ..)]
  simp [decodeMaj08]

theorem RoundTrip.fcmpNe (z : Bool) (d : BitVec 7) (a : BitVec 7) (b : BitVec 7) : RoundTrip.Statement (.fcmpNe z d a b) := by
  intro w h
  obtain rfl := Option.some.inj h
  rw [decode_maj08 _ (fieldMaj_wordA ..)]
  simp [decodeMaj08]

theorem RoundTrip.fcmpLt (z : Bool) (d : BitVec 7) (a : BitVec 7) (b : BitVec 7) : RoundTrip.Statement (.fcmpLt z d a b) := by
  intro w h
  obtain rfl := Option.some.inj h
  rw [decode_maj08 _ (fieldMaj_wordA ..)]
  simp [decodeMaj08]

theorem RoundTrip.fcmpLe (z : Bool) (d : BitVec 7) (a : BitVec 7) (b : BitVec 7) : RoundTrip.Statement (.fcmpLe z d a b) := by
  intro w h
  obtain rfl := Option.some.inj h
  rw [decode_maj08 _ (fieldMaj_wordA ..)]
  simp [decodeMaj08]

theorem RoundTrip.fcmpGt (z : Bool) (d : BitVec 7) (a : BitVec 7) (b : BitVec 7) : RoundTrip.Statement (.fcmpGt z d a b) := by
  intro w h
  obtain rfl := Option.some.inj h
  rw [decode_maj08 _ (fieldMaj_wordA ..)]
  simp [decodeMaj08]

theorem RoundTrip.fcmpGe (z : Bool) (d : BitVec 7) (a : BitVec 7) (b : BitVec 7) : RoundTrip.Statement (.fcmpGe z d a b) := by
  intro w h
  obtain rfl := Option.some.inj h
  rw [decode_maj08 _ (fieldMaj_wordA ..)]
  simp [decodeMaj08]

theorem RoundTrip.fcmpUn (z : Bool) (d : BitVec 7) (a : BitVec 7) (b : BitVec 7) : RoundTrip.Statement (.fcmpUn z d a b) := by
  intro w h
  obtain rfl := Option.some.inj h
  rw [decode_maj08 _ (fieldMaj_wordA ..)]
  simp [decodeMaj08]

theorem RoundTrip.fcmpOrd (z : Bool) (d : BitVec 7) (a : BitVec 7) (b : BitVec 7) : RoundTrip.Statement (.fcmpOrd z d a b) := by
  intro w h
  obtain rfl := Option.some.inj h
  rw [decode_maj08 _ (fieldMaj_wordA ..)]
  simp [decodeMaj08]

theorem RoundTrip.cvt (z : Bool) (d : BitVec 7) (a : BitVec 7) : RoundTrip.Statement (.cvt z d a) := by
  intro w h
  obtain rfl := Option.some.inj h
  rw [decode_maj09 _ (fieldMaj_wordA ..)]
  simp [decodeMaj09]

theorem RoundTrip.cvtz (z : Bool) (d : BitVec 7) (a : BitVec 7) : RoundTrip.Statement (.cvtz z d a) := by
  intro w h
  obtain rfl := Option.some.inj h
  rw [decode_maj09 _ (fieldMaj_wordA ..)]
  simp [decodeMaj09]

theorem RoundTrip.cvts (z : Bool) (d : BitVec 7) (a : BitVec 7) : RoundTrip.Statement (.cvts z d a) := by
  intro w h
  obtain rfl := Option.some.inj h
  rw [decode_maj09 _ (fieldMaj_wordA ..)]
  simp [decodeMaj09]

theorem RoundTrip.pack2 (z : Bool) (d : BitVec 7) (a : BitVec 7) (b : BitVec 7) : RoundTrip.Statement (.pack2 z d a b) := by
  intro w h
  obtain rfl := Option.some.inj h
  rw [decode_maj09 _ (fieldMaj_wordA ..)]
  simp [decodeMaj09]

theorem RoundTrip.unpk (z : Bool) (d : BitVec 7) (a : BitVec 7) : RoundTrip.Statement (.unpk z d a) := by
  intro w h
  obtain rfl := Option.some.inj h
  rw [decode_maj09 _ (fieldMaj_wordA ..)]
  simp [decodeMaj09]

theorem RoundTrip.unpkh (z : Bool) (d : BitVec 7) (a : BitVec 7) : RoundTrip.Statement (.unpkh z d a) := by
  intro w h
  obtain rfl := Option.some.inj h
  rw [decode_maj09 _ (fieldMaj_wordA ..)]
  simp [decodeMaj09]

theorem RoundTrip.nrw (z : Bool) (d : BitVec 7) (a : BitVec 7) (b : BitVec 7) (x : BitVec 1) (k : BitVec 2) : RoundTrip.Statement (.nrw z d a b x k) := by
  intro w h
  obtain rfl := Option.some.inj h
  rw [decode_maj0A _ (fieldMaj_wordA ..)]
  simp [decodeMaj0A, sub_43, sub_44, sub_45]

theorem RoundTrip.wide (z : Bool) (d : BitVec 7) (a : BitVec 7) (b : BitVec 7) : RoundTrip.Statement (.wide z d a b) := by
  intro w h
  obtain rfl := Option.some.inj h
  rw [decode_maj0B _ (fieldMaj_wordA ..)]
  simp [decodeMaj0B]

theorem RoundTrip.wide4 (z : Bool) (d : BitVec 7) (a : BitVec 7) (b : BitVec 7) : RoundTrip.Statement (.wide4 z d a b) := by
  intro w h
  obtain rfl := Option.some.inj h
  rw [decode_maj0B _ (fieldMaj_wordA ..)]
  simp [decodeMaj0B]

theorem RoundTrip.scaleof (z : Bool) (d : BitVec 7) (a : BitVec 7) : RoundTrip.Statement (.scaleof z d a) := by
  intro w h
  obtain rfl := Option.some.inj h
  rw [decode_maj0B _ (fieldMaj_wordA ..)]
  simp [decodeMaj0B]

theorem RoundTrip.setsc (z : Bool) (d : BitVec 7) (a : BitVec 7) : RoundTrip.Statement (.setsc z d a) := by
  intro w h
  obtain rfl := Option.some.inj h
  rw [decode_maj0B _ (fieldMaj_wordA ..)]
  simp [decodeMaj0B]

theorem RoundTrip.shfl (z : Bool) (d : BitVec 7) (a : BitVec 7) (b : BitVec 7) (p : BitVec 1) : RoundTrip.Statement (.shfl z d a b p) := by
  intro w h
  obtain rfl := Option.some.inj h
  rw [decode_maj0C _ (fieldMaj_wordA ..)]
  simp [decodeMaj0C, sub_46, sub_47]

theorem RoundTrip.shflx (z : Bool) (d : BitVec 7) (a : BitVec 7) (b : BitVec 7) (p : BitVec 1) : RoundTrip.Statement (.shflx z d a b p) := by
  intro w h
  obtain rfl := Option.some.inj h
  rw [decode_maj0C _ (fieldMaj_wordA ..)]
  simp [decodeMaj0C, sub_48, sub_49]

theorem RoundTrip.shflu (z : Bool) (d : BitVec 7) (a : BitVec 7) (b : BitVec 7) (p : BitVec 1) : RoundTrip.Statement (.shflu z d a b p) := by
  intro w h
  obtain rfl := Option.some.inj h
  rw [decode_maj0C _ (fieldMaj_wordA ..)]
  simp [decodeMaj0C, sub_50, sub_51]

theorem RoundTrip.shfld (z : Bool) (d : BitVec 7) (a : BitVec 7) (b : BitVec 7) (p : BitVec 1) : RoundTrip.Statement (.shfld z d a b p) := by
  intro w h
  obtain rfl := Option.some.inj h
  rw [decode_maj0C _ (fieldMaj_wordA ..)]
  simp [decodeMaj0C, sub_52, sub_53]

theorem RoundTrip.bcst (z : Bool) (d : BitVec 7) (a : BitVec 7) (b : BitVec 7) (p : BitVec 1) : RoundTrip.Statement (.bcst z d a b p) := by
  intro w h
  obtain rfl := Option.some.inj h
  rw [decode_maj0C _ (fieldMaj_wordA ..)]
  simp [decodeMaj0C, sub_54, sub_55]

theorem RoundTrip.qswz (z : Bool) (d : BitVec 7) (a : BitVec 7) (b : BitVec 7) (p : BitVec 1) : RoundTrip.Statement (.qswz z d a b p) := by
  intro w h
  obtain rfl := Option.some.inj h
  rw [decode_maj0C _ (fieldMaj_wordA ..)]
  simp [decodeMaj0C, sub_56, sub_57]

theorem RoundTrip.ballot (z : Bool) (d : BitVec 7) (a : BitVec 7) (p : BitVec 1) : RoundTrip.Statement (.ballot z d a p) := by
  intro w h
  obtain rfl := Option.some.inj h
  rw [decode_maj0C _ (fieldMaj_wordA ..)]
  simp [decodeMaj0C, sub_58, sub_59]

theorem RoundTrip.vote (z : Bool) (d : BitVec 7) (a : BitVec 7) (p : BitVec 1) : RoundTrip.Statement (.vote z d a p) := by
  intro w h
  obtain rfl := Option.some.inj h
  rw [decode_maj0C _ (fieldMaj_wordA ..)]
  simp [decodeMaj0C, sub_60, sub_61]

theorem RoundTrip.redadd (z : Bool) (d : BitVec 7) (a : BitVec 7) (p : BitVec 1) : RoundTrip.Statement (.redadd z d a p) := by
  intro w h
  obtain rfl := Option.some.inj h
  rw [decode_maj0D _ (fieldMaj_wordA ..)]
  simp [decodeMaj0D, sub_46, sub_47]

theorem RoundTrip.redmin (z : Bool) (d : BitVec 7) (a : BitVec 7) (p : BitVec 1) : RoundTrip.Statement (.redmin z d a p) := by
  intro w h
  obtain rfl := Option.some.inj h
  rw [decode_maj0D _ (fieldMaj_wordA ..)]
  simp [decodeMaj0D, sub_48, sub_49]

theorem RoundTrip.redmax (z : Bool) (d : BitVec 7) (a : BitVec 7) (p : BitVec 1) : RoundTrip.Statement (.redmax z d a p) := by
  intro w h
  obtain rfl := Option.some.inj h
  rw [decode_maj0D _ (fieldMaj_wordA ..)]
  simp [decodeMaj0D, sub_50, sub_51]

theorem RoundTrip.redand (z : Bool) (d : BitVec 7) (a : BitVec 7) (p : BitVec 1) : RoundTrip.Statement (.redand z d a p) := by
  intro w h
  obtain rfl := Option.some.inj h
  rw [decode_maj0D _ (fieldMaj_wordA ..)]
  simp [decodeMaj0D, sub_52, sub_53]

theorem RoundTrip.redor (z : Bool) (d : BitVec 7) (a : BitVec 7) (p : BitVec 1) : RoundTrip.Statement (.redor z d a p) := by
  intro w h
  obtain rfl := Option.some.inj h
  rw [decode_maj0D _ (fieldMaj_wordA ..)]
  simp [decodeMaj0D, sub_54, sub_55]

theorem RoundTrip.redxor (z : Bool) (d : BitVec 7) (a : BitVec 7) (p : BitVec 1) : RoundTrip.Statement (.redxor z d a p) := by
  intro w h
  obtain rfl := Option.some.inj h
  rw [decode_maj0D _ (fieldMaj_wordA ..)]
  simp [decodeMaj0D, sub_56, sub_57]

theorem RoundTrip.scanadd (z : Bool) (d : BitVec 7) (a : BitVec 7) (p : BitVec 1) : RoundTrip.Statement (.scanadd z d a p) := by
  intro w h
  obtain rfl := Option.some.inj h
  rw [decode_maj0D _ (fieldMaj_wordA ..)]
  simp [decodeMaj0D, sub_58, sub_59]

theorem RoundTrip.scanaddx (z : Bool) (d : BitVec 7) (a : BitVec 7) (p : BitVec 1) : RoundTrip.Statement (.scanaddx z d a p) := by
  intro w h
  obtain rfl := Option.some.inj h
  rw [decode_maj0D _ (fieldMaj_wordA ..)]
  simp [decodeMaj0D, sub_60, sub_61]

theorem RoundTrip.rcp (z : Bool) (d : BitVec 7) (a : BitVec 7) (k : BitVec 4) : RoundTrip.Statement (.rcp z d a k) := by
  intro w h
  obtain rfl := Option.some.inj h
  rw [decode_maj0E _ (fieldMaj_wordA ..)]
  simp [decodeMaj0E, sub_62, sub_63]

theorem RoundTrip.rsq (z : Bool) (d : BitVec 7) (a : BitVec 7) (k : BitVec 4) : RoundTrip.Statement (.rsq z d a k) := by
  intro w h
  obtain rfl := Option.some.inj h
  rw [decode_maj0E _ (fieldMaj_wordA ..)]
  simp [decodeMaj0E, sub_64, sub_65]

theorem RoundTrip.sqrt (z : Bool) (d : BitVec 7) (a : BitVec 7) (k : BitVec 4) : RoundTrip.Statement (.sqrt z d a k) := by
  intro w h
  obtain rfl := Option.some.inj h
  rw [decode_maj0E _ (fieldMaj_wordA ..)]
  simp [decodeMaj0E, sub_66, sub_67]

theorem RoundTrip.exp2 (z : Bool) (d : BitVec 7) (a : BitVec 7) (k : BitVec 4) : RoundTrip.Statement (.exp2 z d a k) := by
  intro w h
  obtain rfl := Option.some.inj h
  rw [decode_maj0E _ (fieldMaj_wordA ..)]
  simp [decodeMaj0E, sub_68, sub_69]

theorem RoundTrip.log2 (z : Bool) (d : BitVec 7) (a : BitVec 7) (k : BitVec 4) : RoundTrip.Statement (.log2 z d a k) := by
  intro w h
  obtain rfl := Option.some.inj h
  rw [decode_maj0E _ (fieldMaj_wordA ..)]
  simp [decodeMaj0E, sub_70, sub_71]

theorem RoundTrip.sin (z : Bool) (d : BitVec 7) (a : BitVec 7) (k : BitVec 4) : RoundTrip.Statement (.sin z d a k) := by
  intro w h
  obtain rfl := Option.some.inj h
  rw [decode_maj0E _ (fieldMaj_wordA ..)]
  simp [decodeMaj0E, sub_72, sub_73]

theorem RoundTrip.cos (z : Bool) (d : BitVec 7) (a : BitVec 7) (k : BitVec 4) : RoundTrip.Statement (.cos z d a k) := by
  intro w h
  obtain rfl := Option.some.inj h
  rw [decode_maj0E _ (fieldMaj_wordA ..)]
  simp [decodeMaj0E, sub_74, sub_75]

theorem RoundTrip.tanh (z : Bool) (d : BitVec 7) (a : BitVec 7) (k : BitVec 4) : RoundTrip.Statement (.tanh z d a k) := by
  intro w h
  obtain rfl := Option.some.inj h
  rw [decode_maj0E _ (fieldMaj_wordA ..)]
  simp [decodeMaj0E, sub_76, sub_77]

theorem RoundTrip.sigm (z : Bool) (d : BitVec 7) (a : BitVec 7) (k : BitVec 4) : RoundTrip.Statement (.sigm z d a k) := by
  intro w h
  obtain rfl := Option.some.inj h
  rw [decode_maj0F _ (fieldMaj_wordA ..)]
  simp [decodeMaj0F, sub_62, sub_63]

theorem RoundTrip.erf (z : Bool) (d : BitVec 7) (a : BitVec 7) (k : BitVec 4) : RoundTrip.Statement (.erf z d a k) := by
  intro w h
  obtain rfl := Option.some.inj h
  rw [decode_maj0F _ (fieldMaj_wordA ..)]
  simp [decodeMaj0F, sub_64, sub_65]

theorem RoundTrip.silu (z : Bool) (d : BitVec 7) (a : BitVec 7) (k : BitVec 4) : RoundTrip.Statement (.silu z d a k) := by
  intro w h
  obtain rfl := Option.some.inj h
  rw [decode_maj0F _ (fieldMaj_wordA ..)]
  simp [decodeMaj0F, sub_66, sub_67]

theorem RoundTrip.atan (z : Bool) (d : BitVec 7) (a : BitVec 7) (k : BitVec 4) : RoundTrip.Statement (.atan z d a k) := by
  intro w h
  obtain rfl := Option.some.inj h
  rw [decode_maj0F _ (fieldMaj_wordA ..)]
  simp [decodeMaj0F, sub_68, sub_69]

theorem RoundTrip.sfnResult (wave : Nat) (id : Nat) (quad : Nat) : RoundTrip.Statement (.sfnResult wave id quad) := by
  intro w h; cases h

theorem RoundTrip.mma (z : Bool) (t : BitVec 3) (a : BitVec 7) (b : BitVec 7) (v : BitVec 4) (l : BitVec 4) : RoundTrip.Statement (.mma z t a b v l) := by
  intro w h
  obtain rfl := Option.some.inj h
  rw [decode_maj10 _ (fieldMaj_wordM ..)]
  simp [decodeMaj10]

theorem RoundTrip.mmat (z : Bool) (t : BitVec 3) (a : BitVec 7) (b : BitVec 6) (v : BitVec 4) (l : BitVec 4) : RoundTrip.Statement (.mmat z t a b v l) := by
  intro w h
  obtain rfl := Option.some.inj h
  rw [decode_maj11 _ (fieldMaj_wordM ..)]
  simp [decodeMaj11, sub_78, sub_79]

theorem RoundTrip.mmatSp (z : Bool) (t : BitVec 3) (a : BitVec 7) (b : BitVec 6) (v : BitVec 4) (l : BitVec 4) : RoundTrip.Statement (.mmatSp z t a b v l) := by
  intro w h
  obtain rfl := Option.some.inj h
  rw [decode_maj11 _ (fieldMaj_wordM ..)]
  simp [decodeMaj11, sub_80, sub_81]

theorem RoundTrip.aclr (z : Bool) (t : BitVec 3) (v : BitVec 4) (l : BitVec 4) : RoundTrip.Statement (.aclr z t v l) := by
  intro w h
  obtain rfl := Option.some.inj h
  rw [decode_maj12 _ (fieldMaj_wordM ..)]
  simp [decodeMaj12]

theorem RoundTrip.amovr (z : Bool) (t : BitVec 3) (a : BitVec 7) (v : BitVec 4) (l : BitVec 4) : RoundTrip.Statement (.amovr z t a v l) := by
  intro w h
  obtain rfl := Option.some.inj h
  rw [decode_maj12 _ (fieldMaj_wordM ..)]
  simp [decodeMaj12]

theorem RoundTrip.amovw (z : Bool) (t : BitVec 3) (a : BitVec 7) (v : BitVec 4) (l : BitVec 4) : RoundTrip.Statement (.amovw z t a v l) := by
  intro w h
  obtain rfl := Option.some.inj h
  rw [decode_maj12 _ (fieldMaj_wordM ..)]
  simp [decodeMaj12]

theorem RoundTrip.ascl (z : Bool) (t : BitVec 3) (a : BitVec 7) (v : BitVec 4) (l : BitVec 4) : RoundTrip.Statement (.ascl z t a v l) := by
  intro w h
  obtain rfl := Option.some.inj h
  rw [decode_maj12 _ (fieldMaj_wordM ..)]
  simp [decodeMaj12]

theorem RoundTrip.matrixComplete (wave : Nat) (tile : Nat) : RoundTrip.Statement (.matrixComplete wave tile) := by
  intro w h; cases h

theorem RoundTrip.ld (z : Bool) (d : BitVec 7) (a : BitVec 7) (b : BitVec 7) (l : BitVec 4) : RoundTrip.Statement (.ld z d a b l) := by
  intro w h
  obtain rfl := Option.some.inj h
  rw [decode_maj14 _ (fieldMaj_wordA ..)]
  simp [decodeMaj14]

theorem RoundTrip.st (z : Bool) (d : BitVec 7) (a : BitVec 7) (b : BitVec 7) (l : BitVec 4) : RoundTrip.Statement (.st z d a b l) := by
  intro w h
  obtain rfl := Option.some.inj h
  rw [decode_maj15 _ (fieldMaj_wordA ..)]
  simp [decodeMaj15]

theorem RoundTrip.ldv (z : Bool) (d : BitVec 7) (a : BitVec 7) (b : BitVec 7) (l : BitVec 4) : RoundTrip.Statement (.ldv z d a b l) := by
  intro w h
  obtain rfl := Option.some.inj h
  rw [decode_maj16 _ (fieldMaj_wordA ..)]
  simp [decodeMaj16]

theorem RoundTrip.ldx (z : Bool) (d : BitVec 7) (a : BitVec 7) (i : BitVec 1) (h : BitVec 2) (n : BitVec 4) (l : BitVec 4) : RoundTrip.Statement (.ldx z d a i h n l) := by
  intro w h
  obtain rfl := Option.some.inj h
  rw [decode_maj17 _ (fieldMaj_wordA ..)]
  simp [decodeMaj17, sub_82, sub_83, sub_84]

theorem RoundTrip.stx (z : Bool) (d : BitVec 7) (a : BitVec 7) (h : BitVec 2) (n : BitVec 4) (l : BitVec 4) : RoundTrip.Statement (.stx z d a h n l) := by
  intro w h
  obtain rfl := Option.some.inj h
  rw [decode_maj13 _ (fieldMaj_wordA ..)]
  simp [decodeMaj13, sub_85, sub_86, sub_87]

theorem RoundTrip.loadWriteback (wave : Nat) (id : Nat) (quad : Nat) : RoundTrip.Statement (.loadWriteback wave id quad) := by
  intro w h; cases h

theorem RoundTrip.atomAdd (z : Bool) (d : BitVec 7) (a : BitVec 7) (c : BitVec 3) (l : BitVec 4) : RoundTrip.Statement (.atomAdd z d a c l) := by
  intro w h
  obtain rfl := Option.some.inj h
  rw [decode_maj18 _ (fieldMaj_wordA ..)]
  simp [decodeMaj18, sub_88, sub_89]

theorem RoundTrip.atomMin (z : Bool) (d : BitVec 7) (a : BitVec 7) (c : BitVec 3) (l : BitVec 4) : RoundTrip.Statement (.atomMin z d a c l) := by
  intro w h
  obtain rfl := Option.some.inj h
  rw [decode_maj18 _ (fieldMaj_wordA ..)]
  simp [decodeMaj18, sub_90, sub_91]

theorem RoundTrip.atomMax (z : Bool) (d : BitVec 7) (a : BitVec 7) (c : BitVec 3) (l : BitVec 4) : RoundTrip.Statement (.atomMax z d a c l) := by
  intro w h
  obtain rfl := Option.some.inj h
  rw [decode_maj18 _ (fieldMaj_wordA ..)]
  simp [decodeMaj18, sub_92, sub_93]

theorem RoundTrip.atomMinn (z : Bool) (d : BitVec 7) (a : BitVec 7) (c : BitVec 3) (l : BitVec 4) : RoundTrip.Statement (.atomMinn z d a c l) := by
  intro w h
  obtain rfl := Option.some.inj h
  rw [decode_maj18 _ (fieldMaj_wordA ..)]
  simp [decodeMaj18, sub_94, sub_95]

theorem RoundTrip.atomMaxn (z : Bool) (d : BitVec 7) (a : BitVec 7) (c : BitVec 3) (l : BitVec 4) : RoundTrip.Statement (.atomMaxn z d a c l) := by
  intro w h
  obtain rfl := Option.some.inj h
  rw [decode_maj18 _ (fieldMaj_wordA ..)]
  simp [decodeMaj18, sub_96, sub_97]

theorem RoundTrip.atomAnd (z : Bool) (d : BitVec 7) (a : BitVec 7) (c : BitVec 3) (l : BitVec 4) : RoundTrip.Statement (.atomAnd z d a c l) := by
  intro w h
  obtain rfl := Option.some.inj h
  rw [decode_maj18 _ (fieldMaj_wordA ..)]
  simp [decodeMaj18, sub_98, sub_99]

theorem RoundTrip.atomOr (z : Bool) (d : BitVec 7) (a : BitVec 7) (c : BitVec 3) (l : BitVec 4) : RoundTrip.Statement (.atomOr z d a c l) := by
  intro w h
  obtain rfl := Option.some.inj h
  rw [decode_maj18 _ (fieldMaj_wordA ..)]
  simp [decodeMaj18, sub_100, sub_101]

theorem RoundTrip.atomXor (z : Bool) (d : BitVec 7) (a : BitVec 7) (c : BitVec 3) (l : BitVec 4) : RoundTrip.Statement (.atomXor z d a c l) := by
  intro w h
  obtain rfl := Option.some.inj h
  rw [decode_maj18 _ (fieldMaj_wordA ..)]
  simp [decodeMaj18, sub_102, sub_103]

theorem RoundTrip.atomXchg (z : Bool) (d : BitVec 7) (a : BitVec 7) (c : BitVec 3) (l : BitVec 4) : RoundTrip.Statement (.atomXchg z d a c l) := by
  intro w h
  obtain rfl := Option.some.inj h
  rw [decode_maj18 _ (fieldMaj_wordA ..)]
  simp [decodeMaj18, sub_104, sub_105]

theorem RoundTrip.atomCas (z : Bool) (d : BitVec 7) (a : BitVec 7) (c : BitVec 3) (l : BitVec 4) : RoundTrip.Statement (.atomCas z d a c l) := by
  intro w h
  obtain rfl := Option.some.inj h
  rw [decode_maj18 _ (fieldMaj_wordA ..)]
  simp [decodeMaj18, sub_106, sub_107]

theorem RoundTrip.atomFadd (z : Bool) (d : BitVec 7) (a : BitVec 7) (c : BitVec 3) (l : BitVec 4) : RoundTrip.Statement (.atomFadd z d a c l) := by
  intro w h
  obtain rfl := Option.some.inj h
  rw [decode_maj18 _ (fieldMaj_wordA ..)]
  simp [decodeMaj18, sub_108, sub_109]

theorem RoundTrip.atomIncw (z : Bool) (d : BitVec 7) (a : BitVec 7) (c : BitVec 3) (l : BitVec 4) : RoundTrip.Statement (.atomIncw z d a c l) := by
  intro w h
  obtain rfl := Option.some.inj h
  rw [decode_maj18 _ (fieldMaj_wordA ..)]
  simp [decodeMaj18, sub_110, sub_111]

theorem RoundTrip.atomFmin (z : Bool) (d : BitVec 7) (a : BitVec 7) (c : BitVec 3) (l : BitVec 4) : RoundTrip.Statement (.atomFmin z d a c l) := by
  intro w h
  obtain rfl := Option.some.inj h
  rw [decode_maj18 _ (fieldMaj_wordA ..)]
  simp [decodeMaj18, sub_112, sub_113]

theorem RoundTrip.fput (z : Bool) (d : BitVec 7) (a : BitVec 7) (c : BitVec 3) (l : BitVec 4) : RoundTrip.Statement (.fput z d a c l) := by
  intro w h
  obtain rfl := Option.some.inj h
  rw [decode_maj19 _ (fieldMaj_wordA ..)]
  simp [decodeMaj19, sub_114, sub_115, sub_116, sub_117, sub_89]

theorem RoundTrip.fputT (z : Bool) (d : BitVec 7) (a : BitVec 7) (c : BitVec 3) (l : BitVec 4) : RoundTrip.Statement (.fputT z d a c l) := by
  intro w h
  obtain rfl := Option.some.inj h
  rw [decode_maj19 _ (fieldMaj_wordA ..)]
  simp [decodeMaj19, sub_118, sub_119, sub_120, sub_121, sub_97]

theorem RoundTrip.ftake (z : Bool) (d : BitVec 7) (a : BitVec 7) (c : BitVec 3) (l : BitVec 4) : RoundTrip.Statement (.ftake z d a c l) := by
  intro w h
  obtain rfl := Option.some.inj h
  rw [decode_maj19 _ (fieldMaj_wordA ..)]
  simp [decodeMaj19, sub_122, sub_123, sub_124, sub_125, sub_91]

theorem RoundTrip.ftakeN (z : Bool) (d : BitVec 7) (a : BitVec 7) (c : BitVec 3) (l : BitVec 4) : RoundTrip.Statement (.ftakeN z d a c l) := by
  intro w h
  obtain rfl := Option.some.inj h
  rw [decode_maj19 _ (fieldMaj_wordA ..)]
  simp [decodeMaj19, sub_126, sub_127, sub_128, sub_129, sub_99]

theorem RoundTrip.fpeek (z : Bool) (d : BitVec 7) (a : BitVec 7) (c : BitVec 3) (l : BitVec 4) : RoundTrip.Statement (.fpeek z d a c l) := by
  intro w h
  obtain rfl := Option.some.inj h
  rw [decode_maj19 _ (fieldMaj_wordA ..)]
  simp [decodeMaj19, sub_130, sub_131, sub_132, sub_133, sub_93]

theorem RoundTrip.fclr (z : Bool) (a : BitVec 7) (c : BitVec 3) (l : BitVec 4) : RoundTrip.Statement (.fclr z a c l) := by
  intro w h
  obtain rfl := Option.some.inj h
  rw [decode_maj19 _ (fieldMaj_wordA ..)]
  simp [decodeMaj19, sub_134, sub_135, sub_136, sub_137, sub_95]

theorem RoundTrip.fenceAcq (z : Bool) (e : BitVec 1) (c : BitVec 3) : RoundTrip.Statement (.fenceAcq z e c) := by
  intro w h
  obtain rfl := Option.some.inj h
  rw [decode_maj1A _ (fieldMaj_wordS ..)]
  simp [decodeMaj1A, sub_138, sub_139, sub_140, sub_141, sub_142]

theorem RoundTrip.fenceRel (z : Bool) (e : BitVec 1) (c : BitVec 3) : RoundTrip.Statement (.fenceRel z e c) := by
  intro w h
  obtain rfl := Option.some.inj h
  rw [decode_maj1A _ (fieldMaj_wordS ..)]
  simp [decodeMaj1A, sub_143, sub_144, sub_145, sub_146, sub_147]

theorem RoundTrip.fenceAr (z : Bool) (e : BitVec 1) (c : BitVec 3) : RoundTrip.Statement (.fenceAr z e c) := by
  intro w h
  obtain rfl := Option.some.inj h
  rw [decode_maj1A _ (fieldMaj_wordS ..)]
  simp [decodeMaj1A, sub_148, sub_149, sub_150, sub_151, sub_152]

theorem RoundTrip.fenceSc (z : Bool) (e : BitVec 1) (c : BitVec 3) : RoundTrip.Statement (.fenceSc z e c) := by
  intro w h
  obtain rfl := Option.some.inj h
  rw [decode_maj1A _ (fieldMaj_wordS ..)]
  simp [decodeMaj1A, sub_153, sub_154, sub_155, sub_156, sub_157]

theorem RoundTrip.pref (z : Bool) (a : BitVec 7) (l : BitVec 4) : RoundTrip.Statement (.pref z a l) := by
  intro w h
  obtain rfl := Option.some.inj h
  rw [decode_maj1B _ (fieldMaj_wordA ..)]
  simp [decodeMaj1B]

theorem RoundTrip.pref2 (z : Bool) (a : BitVec 7) (l : BitVec 4) : RoundTrip.Statement (.pref2 z a l) := by
  intro w h
  obtain rfl := Option.some.inj h
  rw [decode_maj1B _ (fieldMaj_wordA ..)]
  simp [decodeMaj1B]

theorem RoundTrip.clock1 (z : Bool) (d : BitVec 7) (a : BitVec 7) (l : BitVec 4) : RoundTrip.Statement (.clock1 z d a l) := by
  intro w h
  obtain rfl := Option.some.inj h
  rw [decode_maj1B _ (fieldMaj_wordA ..)]
  simp [decodeMaj1B]

theorem RoundTrip.clock2 (z : Bool) (d : BitVec 7) (a : BitVec 7) (l : BitVec 4) : RoundTrip.Statement (.clock2 z d a l) := by
  intro w h
  obtain rfl := Option.some.inj h
  rw [decode_maj1B _ (fieldMaj_wordA ..)]
  simp [decodeMaj1B]

theorem RoundTrip.cunlk1 (z : Bool) (a : BitVec 7) (l : BitVec 4) : RoundTrip.Statement (.cunlk1 z a l) := by
  intro w h
  obtain rfl := Option.some.inj h
  rw [decode_maj1B _ (fieldMaj_wordA ..)]
  simp [decodeMaj1B]

theorem RoundTrip.cunlk2 (z : Bool) (a : BitVec 7) (l : BitVec 4) : RoundTrip.Statement (.cunlk2 z a l) := by
  intro w h
  obtain rfl := Option.some.inj h
  rw [decode_maj1B _ (fieldMaj_wordA ..)]
  simp [decodeMaj1B]

theorem RoundTrip.cwb (z : Bool) (a : BitVec 7) (l : BitVec 4) : RoundTrip.Statement (.cwb z a l) := by
  intro w h
  obtain rfl := Option.some.inj h
  rw [decode_maj1B _ (fieldMaj_wordA ..)]
  simp [decodeMaj1B]

theorem RoundTrip.cinv (z : Bool) (a : BitVec 7) (l : BitVec 4) : RoundTrip.Statement (.cinv z a l) := by
  intro w h
  obtain rfl := Option.some.inj h
  rw [decode_maj1B _ (fieldMaj_wordA ..)]
  simp [decodeMaj1B]

theorem RoundTrip.cwbinv (z : Bool) (a : BitVec 7) (l : BitVec 4) : RoundTrip.Statement (.cwbinv z a l) := by
  intro w h
  obtain rfl := Option.some.inj h
  rw [decode_maj1B _ (fieldMaj_wordA ..)]
  simp [decodeMaj1B]

theorem RoundTrip.isync (z : Bool) (l : BitVec 4) : RoundTrip.Statement (.isync z l) := by
  intro w h
  obtain rfl := Option.some.inj h
  rw [decode_maj1B _ (fieldMaj_wordA ..)]
  simp [decodeMaj1B]

theorem RoundTrip.copy (z : Bool) (d : BitVec 7) (a : BitVec 7) (q : BitVec 3) (u : BitVec 1) (l : BitVec 4) : RoundTrip.Statement (.copy z d a q u l) := by
  intro w h
  obtain rfl := Option.some.inj h
  rw [decode_maj1C _ (fieldMaj_wordA ..)]
  simp [decodeMaj1C, sub_158, sub_159, sub_160]

theorem RoundTrip.ccvt (z : Bool) (d : BitVec 7) (a : BitVec 7) (q : BitVec 3) (u : BitVec 1) (l : BitVec 4) : RoundTrip.Statement (.ccvt z d a q u l) := by
  intro w h
  obtain rfl := Option.some.inj h
  rw [decode_maj1C _ (fieldMaj_wordA ..)]
  simp [decodeMaj1C, sub_161, sub_162, sub_163]

theorem RoundTrip.csum (z : Bool) (d : BitVec 7) (a : BitVec 7) (q : BitVec 3) (u : BitVec 1) (l : BitVec 4) : RoundTrip.Statement (.csum z d a q u l) := by
  intro w h
  obtain rfl := Option.some.inj h
  rw [decode_maj1C _ (fieldMaj_wordA ..)]
  simp [decodeMaj1C, sub_164, sub_165, sub_166]

theorem RoundTrip.cfill (z : Bool) (d : BitVec 7) (a : BitVec 7) (q : BitVec 3) (u : BitVec 1) (l : BitVec 4) : RoundTrip.Statement (.cfill z d a q u l) := by
  intro w h
  obtain rfl := Option.some.inj h
  rw [decode_maj1C _ (fieldMaj_wordA ..)]
  simp [decodeMaj1C, sub_167, sub_168, sub_169]

theorem RoundTrip.agath (z : Bool) (d : BitVec 7) (a : BitVec 7) (s : BitVec 4) (n : BitVec 3) (l : BitVec 4) : RoundTrip.Statement (.agath z d a s n l) := by
  intro w h
  obtain rfl := Option.some.inj h
  rw [decode_maj1D _ (fieldMaj_wordA ..)]
  simp [decodeMaj1D, sub_170, sub_171]

theorem RoundTrip.astp (z : Bool) (d : BitVec 7) (a : BitVec 7) (n : BitVec 4) (l : BitVec 4) : RoundTrip.Statement (.astp z d a n l) := by
  intro w h
  obtain rfl := Option.some.inj h
  rw [decode_maj1E _ (fieldMaj_wordA ..)]
  simp [decodeMaj1E, sub_172, sub_173]

theorem RoundTrip.astpAck (dev : Nat) (ok : Bool) : RoundTrip.Statement (.astpAck dev ok) := by
  intro w h; cases h

theorem RoundTrip.copySectorDeliver (id : Nat) : RoundTrip.Statement (.copySectorDeliver id) := by
  intro w h; cases h

theorem RoundTrip.copyComplete (id : Nat) : RoundTrip.Statement (.copyComplete id) := by
  intro w h; cases h

theorem RoundTrip.togenL (z : Bool) (d : BitVec 7) (a : BitVec 7) : RoundTrip.Statement (.togenL z d a) := by
  intro w h
  obtain rfl := Option.some.inj h
  rw [decode_maj1F _ (fieldMaj_wordA ..)]
  simp [decodeMaj1F]

theorem RoundTrip.togenS (z : Bool) (d : BitVec 7) (a : BitVec 7) : RoundTrip.Statement (.togenS z d a) := by
  intro w h
  obtain rfl := Option.some.inj h
  rw [decode_maj1F _ (fieldMaj_wordA ..)]
  simp [decodeMaj1F]

theorem RoundTrip.togenC (z : Bool) (d : BitVec 7) (a : BitVec 7) : RoundTrip.Statement (.togenC z d a) := by
  intro w h
  obtain rfl := Option.some.inj h
  rw [decode_maj1F _ (fieldMaj_wordA ..)]
  simp [decodeMaj1F]

theorem RoundTrip.fromgenL (z : Bool) (d : BitVec 7) (a : BitVec 7) : RoundTrip.Statement (.fromgenL z d a) := by
  intro w h
  obtain rfl := Option.some.inj h
  rw [decode_maj1F _ (fieldMaj_wordA ..)]
  simp [decodeMaj1F]

theorem RoundTrip.fromgenS (z : Bool) (d : BitVec 7) (a : BitVec 7) : RoundTrip.Statement (.fromgenS z d a) := by
  intro w h
  obtain rfl := Option.some.inj h
  rw [decode_maj1F _ (fieldMaj_wordA ..)]
  simp [decodeMaj1F]

theorem RoundTrip.fromgenC (z : Bool) (d : BitVec 7) (a : BitVec 7) : RoundTrip.Statement (.fromgenC z d a) := by
  intro w h
  obtain rfl := Option.some.inj h
  rw [decode_maj1F _ (fieldMaj_wordA ..)]
  simp [decodeMaj1F]

theorem RoundTrip.isspc (z : Bool) (d : BitVec 7) (a : BitVec 7) : RoundTrip.Statement (.isspc z d a) := by
  intro w h
  obtain rfl := Option.some.inj h
  rw [decode_maj1F _ (fieldMaj_wordA ..)]
  simp [decodeMaj1F]

theorem RoundTrip.bra (z : Bool) (o : BitVec 25) : RoundTrip.Statement (.bra z o) := by
  intro w h
  obtain rfl := Option.some.inj h
  rw [decode_maj20 _ (fieldMaj_wordJ25 ..)]
  simp [decodeMaj20]

theorem RoundTrip.call (z : Bool) (o : BitVec 25) : RoundTrip.Statement (.call z o) := by
  intro w h
  obtain rfl := Option.some.inj h
  rw [decode_maj21 _ (fieldMaj_wordJ25 ..)]
  simp [decodeMaj21]

theorem RoundTrip.brw (z : Bool) (a : BitVec 7) (o : BitVec 18) : RoundTrip.Statement (.brw z a o) := by
  intro w h
  obtain rfl := Option.some.inj h
  rw [decode_maj22 _ (fieldMaj_wordJ18 ..)]
  simp [decodeMaj22]

theorem RoundTrip.brwz (z : Bool) (a : BitVec 7) (o : BitVec 18) : RoundTrip.Statement (.brwz z a o) := by
  intro w h
  obtain rfl := Option.some.inj h
  rw [decode_maj23 _ (fieldMaj_wordJ18 ..)]
  simp [decodeMaj23]

theorem RoundTrip.brd (z : Bool) (a : BitVec 7) (o : BitVec 18) : RoundTrip.Statement (.brd z a o) := by
  intro w h
  obtain rfl := Option.some.inj h
  rw [decode_maj24 _ (fieldMaj_wordJ18 ..)]
  simp [decodeMaj24]

theorem RoundTrip.jmpi (z : Bool) (a : BitVec 7) : RoundTrip.Statement (.jmpi z a) := by
  intro w h
  obtain rfl := Option.some.inj h
  rw [decode_maj25 _ (fieldMaj_wordS ..)]
  simp [decodeMaj25]

theorem RoundTrip.ret (z : Bool) : RoundTrip.Statement (.ret z) := by
  intro w h
  obtain rfl := Option.some.inj h
  rw [decode_maj25 _ (fieldMaj_wordS ..)]
  simp [decodeMaj25]

theorem RoundTrip.calli (z : Bool) (a : BitVec 7) : RoundTrip.Statement (.calli z a) := by
  intro w h
  obtain rfl := Option.some.inj h
  rw [decode_maj25 _ (fieldMaj_wordS ..)]
  simp [decodeMaj25]

theorem RoundTrip.missSplit (wave : Nat) (q : Nat) : RoundTrip.Statement (.missSplit wave q) := by
  intro w h; cases h

theorem RoundTrip.rcv (z : Bool) (i : BitVec 14) : RoundTrip.Statement (.rcv z i) := by
  intro w h
  obtain rfl := Option.some.inj h
  rw [decode_maj28 _ (fieldMaj_wordS ..)]
  simp [decodeMaj28]

theorem RoundTrip.rcvW (z : Bool) : RoundTrip.Statement (.rcvW z) := by
  intro w h
  obtain rfl := Option.some.inj h
  rw [decode_maj28 _ (fieldMaj_wordS ..)]
  simp [decodeMaj28]

theorem RoundTrip.rcvDeadline (wave : Nat) (q : Nat) : RoundTrip.Statement (.rcvDeadline wave q) := by
  intro w h; cases h

theorem RoundTrip.fusedead (wave : Nat) : RoundTrip.Statement (.fusedead wave) := by
  intro w h; cases h

theorem RoundTrip.endW (z : Bool) : RoundTrip.Statement (.endW z) := by
  intro w h
  obtain rfl := Option.some.inj h
  rw [decode_maj29 _ (fieldMaj_wordS ..)]
  simp [decodeMaj29]

theorem RoundTrip.trap (z : Bool) (i : BitVec 14) : RoundTrip.Statement (.trap z i) := by
  intro w h
  obtain rfl := Option.some.inj h
  rw [decode_maj29 _ (fieldMaj_wordS ..)]
  simp [decodeMaj29]

theorem RoundTrip.bkpt (z : Bool) (i : BitVec 14) : RoundTrip.Statement (.bkpt z i) := by
  intro w h
  obtain rfl := Option.some.inj h
  rw [decode_maj29 _ (fieldMaj_wordS ..)]
  simp [decodeMaj29]

theorem RoundTrip.eret (z : Bool) : RoundTrip.Statement (.eret z) := by
  intro w h
  obtain rfl := Option.some.inj h
  rw [decode_maj29 _ (fieldMaj_wordS ..)]
  simp [decodeMaj29]

theorem RoundTrip.yield (z : Bool) (d : BitVec 7) : RoundTrip.Statement (.yield z d) := by
  intro w h
  obtain rfl := Option.some.inj h
  rw [decode_maj29 _ (fieldMaj_wordS ..)]
  simp [decodeMaj29]

theorem RoundTrip.role (z : Bool) (r : BitVec 2) : RoundTrip.Statement (.role z r) := by
  intro w h
  obtain rfl := Option.some.inj h
  rw [decode_maj29 _ (fieldMaj_wordS ..)]
  simp [decodeMaj29, sub_174, sub_175]

theorem RoundTrip.sleep (z : Bool) (i : BitVec 14) : RoundTrip.Statement (.sleep z i) := by
  intro w h
  obtain rfl := Option.some.inj h
  rw [decode_maj29 _ (fieldMaj_wordS ..)]
  simp [decodeMaj29]

theorem RoundTrip.sleepExpiry (wave : Nat) (q : Nat) : RoundTrip.Statement (.sleepExpiry wave q) := by
  intro w h; cases h

theorem RoundTrip.ifW (z : Bool) (a : BitVec 7) (i : BitVec 14) : RoundTrip.Statement (.ifW z a i) := by
  intro w h
  obtain rfl := Option.some.inj h
  rw [decode_maj26 _ (fieldMaj_wordS ..)]
  simp [decodeMaj26]

theorem RoundTrip.ifS (z : Bool) (a : BitVec 7) (i : BitVec 14) : RoundTrip.Statement (.ifS z a i) := by
  intro w h
  obtain rfl := Option.some.inj h
  rw [decode_maj26 _ (fieldMaj_wordS ..)]
  simp [decodeMaj26]

theorem RoundTrip.elseW (z : Bool) (i : BitVec 14) : RoundTrip.Statement (.elseW z i) := by
  intro w h
  obtain rfl := Option.some.inj h
  rw [decode_maj26 _ (fieldMaj_wordS ..)]
  simp [decodeMaj26]

theorem RoundTrip.endif (z : Bool) : RoundTrip.Statement (.endif z) := by
  intro w h
  obtain rfl := Option.some.inj h
  rw [decode_maj26 _ (fieldMaj_wordS ..)]
  simp [decodeMaj26]

theorem RoundTrip.loops (z : Bool) (i : BitVec 14) : RoundTrip.Statement (.loops z i) := by
  intro w h
  obtain rfl := Option.some.inj h
  rw [decode_maj26 _ (fieldMaj_wordS ..)]
  simp [decodeMaj26]

theorem RoundTrip.brk (z : Bool) (a : BitVec 7) (i : BitVec 14) : RoundTrip.Statement (.brk z a i) := by
  intro w h
  obtain rfl := Option.some.inj h
  rw [decode_maj26 _ (fieldMaj_wordS ..)]
  simp [decodeMaj26]

theorem RoundTrip.cont (z : Bool) (a : BitVec 7) (i : BitVec 14) : RoundTrip.Statement (.cont z a i) := by
  intro w h
  obtain rfl := Option.some.inj h
  rw [decode_maj26 _ (fieldMaj_wordS ..)]
  simp [decodeMaj26]

theorem RoundTrip.endls (z : Bool) (i : BitVec 14) : RoundTrip.Statement (.endls z i) := by
  intro w h
  obtain rfl := Option.some.inj h
  rw [decode_maj26 _ (fieldMaj_wordS ..)]
  simp [decodeMaj26]

theorem RoundTrip.loop (z : Bool) (a : BitVec 7) (i : BitVec 14) : RoundTrip.Statement (.loop z a i) := by
  intro w h
  obtain rfl := Option.some.inj h
  rw [decode_maj27 _ (fieldMaj_wordS ..)]
  simp [decodeMaj27]

theorem RoundTrip.lexit (z : Bool) (a : BitVec 7) : RoundTrip.Statement (.lexit z a) := by
  intro w h
  obtain rfl := Option.some.inj h
  rw [decode_maj27 _ (fieldMaj_wordS ..)]
  simp [decodeMaj27]

theorem RoundTrip.waitt (z : Bool) (i : BitVec 14) : RoundTrip.Statement (.waitt z i) := by
  intro w h
  obtain rfl := Option.some.inj h
  rw [decode_maj2D _ (fieldMaj_wordS ..)]
  simp [decodeMaj2D]

theorem RoundTrip.wpwait (z : Bool) (a : BitVec 7) (c : BitVec 4) : RoundTrip.Statement (.wpwait z a c) := by
  intro w h
  obtain rfl := Option.some.inj h
  rw [decode_maj2D _ (fieldMaj_wordS ..)]
  simp [decodeMaj2D, sub_176, sub_177, sub_178]

theorem RoundTrip.dwait (z : Bool) (a : BitVec 7) (p : BitVec 1) : RoundTrip.Statement (.dwait z a p) := by
  intro w h
  obtain rfl := Option.some.inj h
  rw [decode_maj2D _ (fieldMaj_wordS ..)]
  simp [decodeMaj2D, sub_179, sub_180, sub_181, sub_182, sub_183]

theorem RoundTrip.vwait (z : Bool) (v : BitVec 4) (t : BitVec 3) : RoundTrip.Statement (.vwait z v t) := by
  intro w h
  obtain rfl := Option.some.inj h
  rw [decode_maj2D _ (fieldMaj_wordS ..)]
  simp [decodeMaj2D, sub_184, sub_185, sub_186]

theorem RoundTrip.sleepw (z : Bool) (a : BitVec 7) : RoundTrip.Statement (.sleepw z a) := by
  intro w h
  obtain rfl := Option.some.inj h
  rw [decode_maj2D _ (fieldMaj_wordS ..)]
  simp [decodeMaj2D]

theorem RoundTrip.sleepwExpiry (wave : Nat) (q : Nat) : RoundTrip.Statement (.sleepwExpiry wave q) := by
  intro w h; cases h

theorem RoundTrip.bar (z : Bool) (a : BitVec 7) (i : BitVec 4) : RoundTrip.Statement (.bar z a i) := by
  intro w h
  obtain rfl := Option.some.inj h
  rw [decode_maj2E _ (fieldMaj_wordS ..)]
  simp [decodeMaj2E, sub_187, sub_188]

theorem RoundTrip.barp (z : Bool) (a : BitVec 7) (i : BitVec 4) : RoundTrip.Statement (.barp z a i) := by
  intro w h
  obtain rfl := Option.some.inj h
  rw [decode_maj2E _ (fieldMaj_wordS ..)]
  simp [decodeMaj2E, sub_187, sub_188]

theorem RoundTrip.bara (z : Bool) (a : BitVec 7) (i : BitVec 4) : RoundTrip.Statement (.bara z a i) := by
  intro w h
  obtain rfl := Option.some.inj h
  rw [decode_maj2E _ (fieldMaj_wordS ..)]
  simp [decodeMaj2E, sub_187, sub_188]

theorem RoundTrip.barw (z : Bool) (i : BitVec 4) : RoundTrip.Statement (.barw z i) := by
  intro w h
  obtain rfl := Option.some.inj h
  rw [decode_maj2E _ (fieldMaj_wordS ..)]
  simp [decodeMaj2E, sub_187, sub_188]

theorem RoundTrip.barb (z : Bool) (a : BitVec 7) (i : BitVec 14) : RoundTrip.Statement (.barb z a i) := by
  intro w h
  obtain rfl := Option.some.inj h
  rw [decode_maj2E _ (fieldMaj_wordS ..)]
  simp [decodeMaj2E]

theorem RoundTrip.cstg (z : Bool) (a : BitVec 7) : RoundTrip.Statement (.cstg z a) := by
  intro w h
  obtain rfl := Option.some.inj h
  rw [decode_maj2E _ (fieldMaj_wordS ..)]
  simp [decodeMaj2E]

theorem RoundTrip.phaseResume (core : Nat) : RoundTrip.Statement (.phaseResume core) := by
  intro w h; cases h

theorem RoundTrip.dinit (z : Bool) (d : BitVec 7) (a : BitVec 7) (l : BitVec 4) : RoundTrip.Statement (.dinit z d a l) := by
  intro w h
  obtain rfl := Option.some.inj h
  rw [decode_maj2F _ (fieldMaj_wordA ..)]
  simp [decodeMaj2F]

theorem RoundTrip.dexp (z : Bool) (d : BitVec 7) (a : BitVec 7) (l : BitVec 4) : RoundTrip.Statement (.dexp z d a l) := by
  intro w h
  obtain rfl := Option.some.inj h
  rw [decode_maj2F _ (fieldMaj_wordA ..)]
  simp [decodeMaj2F]

theorem RoundTrip.darr (z : Bool) (d : BitVec 7) (a : BitVec 7) (l : BitVec 4) : RoundTrip.Statement (.darr z d a l) := by
  intro w h
  obtain rfl := Option.some.inj h
  rw [decode_maj2F _ (fieldMaj_wordA ..)]
  simp [decodeMaj2F]

theorem RoundTrip.dqry (z : Bool) (d : BitVec 7) (a : BitVec 7) (l : BitVec 4) : RoundTrip.Statement (.dqry z d a l) := by
  intro w h
  obtain rfl := Option.some.inj h
  rw [decode_maj2F _ (fieldMaj_wordA ..)]
  simp [decodeMaj2F]

theorem RoundTrip.time (z : Bool) (d : BitVec 7) : RoundTrip.Statement (.time z d) := by
  intro w h
  obtain rfl := Option.some.inj h
  rw [decode_maj30 _ (fieldMaj_wordS ..)]
  simp [decodeMaj30]

theorem RoundTrip.pmcrd (z : Bool) (d : BitVec 7) (n : BitVec 3) : RoundTrip.Statement (.pmcrd z d n) := by
  intro w h
  obtain rfl := Option.some.inj h
  rw [decode_maj30 _ (fieldMaj_wordS ..)]
  simp [decodeMaj30, sub_189, sub_190, sub_191]

theorem RoundTrip.pmcwr (z : Bool) (d : BitVec 7) (n : BitVec 3) : RoundTrip.Statement (.pmcwr z d n) := by
  intro w h
  obtain rfl := Option.some.inj h
  rw [decode_maj30 _ (fieldMaj_wordS ..)]
  simp [decodeMaj30, sub_189, sub_190, sub_191]

theorem RoundTrip.accv (z : Bool) (d : BitVec 7) (t : BitVec 3) : RoundTrip.Statement (.accv z d t) := by
  intro w h
  obtain rfl := Option.some.inj h
  rw [decode_maj30 _ (fieldMaj_wordS ..)]
  simp [decodeMaj30, sub_192, sub_193, sub_194]

theorem RoundTrip.wprd (z : Bool) (d : BitVec 7) (c : BitVec 4) : RoundTrip.Statement (.wprd z d c) := by
  intro w h
  obtain rfl := Option.some.inj h
  rw [decode_maj30 _ (fieldMaj_wordS ..)]
  simp [decodeMaj30, sub_176, sub_177]

theorem RoundTrip.cycle (z : Bool) (d : BitVec 7) : RoundTrip.Statement (.cycle z d) := by
  intro w h
  obtain rfl := Option.some.inj h
  rw [decode_maj30 _ (fieldMaj_wordS ..)]
  simp [decodeMaj30]

theorem RoundTrip.launch (z : Bool) (d : BitVec 7) (a : BitVec 7) (l : BitVec 4) : RoundTrip.Statement (.launch z d a l) := by
  intro w h
  obtain rfl := Option.some.inj h
  rw [decode_maj31 _ (fieldMaj_wordA ..)]
  simp [decodeMaj31]

theorem RoundTrip.launchb (z : Bool) (d : BitVec 7) (a : BitVec 7) (l : BitVec 4) : RoundTrip.Statement (.launchb z d a l) := by
  intro w h
  obtain rfl := Option.some.inj h
  rw [decode_maj31 _ (fieldMaj_wordA ..)]
  simp [decodeMaj31]

theorem RoundTrip.enqr (z : Bool) (d : BitVec 7) (a : BitVec 7) (l : BitVec 4) : RoundTrip.Statement (.enqr z d a l) := by
  intro w h
  obtain rfl := Option.some.inj h
  rw [decode_maj32 _ (fieldMaj_wordA ..)]
  simp [decodeMaj32]

theorem RoundTrip.rqflush (z : Bool) (d : BitVec 7) (a : BitVec 7) (l : BitVec 4) : RoundTrip.Statement (.rqflush z d a l) := by
  intro w h
  obtain rfl := Option.some.inj h
  rw [decode_maj32 _ (fieldMaj_wordA ..)]
  simp [decodeMaj32]

theorem RoundTrip.rqstat (z : Bool) (d : BitVec 7) (a : BitVec 7) (l : BitVec 4) : RoundTrip.Statement (.rqstat z d a l) := by
  intro w h
  obtain rfl := Option.some.inj h
  rw [decode_maj32 _ (fieldMaj_wordA ..)]
  simp [decodeMaj32]

theorem RoundTrip.evpost (z : Bool) (d : BitVec 7) (a : BitVec 7) (l : BitVec 4) : RoundTrip.Statement (.evpost z d a l) := by
  intro w h
  obtain rfl := Option.some.inj h
  rw [decode_maj33 _ (fieldMaj_wordA ..)]
  simp [decodeMaj33]

theorem RoundTrip.cpoll (z : Bool) (d : BitVec 7) (a : BitVec 7) (l : BitVec 4) : RoundTrip.Statement (.cpoll z d a l) := by
  intro w h
  obtain rfl := Option.some.inj h
  rw [decode_maj33 _ (fieldMaj_wordA ..)]
  simp [decodeMaj33]

theorem RoundTrip.csleep (z : Bool) (d : BitVec 7) (a : BitVec 7) (l : BitVec 4) : RoundTrip.Statement (.csleep z d a l) := by
  intro w h
  obtain rfl := Option.some.inj h
  rw [decode_maj33 _ (fieldMaj_wordA ..)]
  simp [decodeMaj33]

theorem RoundTrip.signal (z : Bool) (d : BitVec 7) (a : BitVec 7) (l : BitVec 4) : RoundTrip.Statement (.signal z d a l) := by
  intro w h
  obtain rfl := Option.some.inj h
  rw [decode_maj33 _ (fieldMaj_wordA ..)]
  simp [decodeMaj33]

theorem RoundTrip.csleepTimeout (wave : Nat) (q : Nat) : RoundTrip.Statement (.csleepTimeout wave q) := by
  intro w h; cases h

theorem RoundTrip.qfetch (z : Bool) (d : BitVec 7) (q : BitVec 10) : RoundTrip.Statement (.qfetch z d q) := by
  intro w h
  obtain rfl := Option.some.inj h
  rw [decode_maj39 _ (fieldMaj_wordS ..)]
  simp [decodeMaj39, sub_195, sub_196, sub_197]

theorem RoundTrip.qdisp (z : Bool) (d : BitVec 7) (b : BitVec 1) (p : BitVec 3) : RoundTrip.Statement (.qdisp z d b p) := by
  intro w h
  obtain rfl := Option.some.inj h
  rw [decode_maj39 _ (fieldMaj_wordS ..)]
  simp [decodeMaj39, sub_198, sub_199, sub_200, sub_201, sub_202, sub_203, sub_204]

theorem RoundTrip.swaitc (z : Bool) (d : BitVec 7) (i : BitVec 12) (c : BitVec 2) : RoundTrip.Statement (.swaitc z d i c) := by
  intro w h
  obtain rfl := Option.some.inj h
  rw [decode_maj39 _ (fieldMaj_wordS ..)]
  simp [decodeMaj39, sub_205, sub_206]

theorem RoundTrip.keyopGen (z : Bool) (d : BitVec 7) (p : BitVec 3) (s : BitVec 4) : RoundTrip.Statement (.keyopGen z d p s) := by
  intro w h
  obtain rfl := Option.some.inj h
  rw [decode_maj39 _ (fieldMaj_wordS ..)]
  simp [decodeMaj39, sub_207, sub_208, sub_209, sub_210, sub_211, sub_212, sub_213]

theorem RoundTrip.keyopBind (z : Bool) (d : BitVec 7) (p : BitVec 3) (s : BitVec 4) : RoundTrip.Statement (.keyopBind z d p s) := by
  intro w h
  obtain rfl := Option.some.inj h
  rw [decode_maj39 _ (fieldMaj_wordS ..)]
  simp [decodeMaj39, sub_214, sub_215, sub_216, sub_217, sub_218, sub_219, sub_220]

theorem RoundTrip.keyopUnbind (z : Bool) (d : BitVec 7) (p : BitVec 3) (s : BitVec 4) : RoundTrip.Statement (.keyopUnbind z d p s) := by
  intro w h
  obtain rfl := Option.some.inj h
  rw [decode_maj39 _ (fieldMaj_wordS ..)]
  simp [decodeMaj39, sub_221, sub_222, sub_223, sub_224, sub_225, sub_226, sub_227]

theorem RoundTrip.keyopZero (z : Bool) (d : BitVec 7) (p : BitVec 3) (s : BitVec 4) : RoundTrip.Statement (.keyopZero z d p s) := by
  intro w h
  obtain rfl := Option.some.inj h
  rw [decode_maj39 _ (fieldMaj_wordS ..)]
  simp [decodeMaj39, sub_228, sub_229, sub_230, sub_231, sub_232, sub_233, sub_234]

theorem RoundTrip.keyopZeroall (z : Bool) (d : BitVec 7) (p : BitVec 3) (s : BitVec 4) : RoundTrip.Statement (.keyopZeroall z d p s) := by
  intro w h
  obtain rfl := Option.some.inj h
  rw [decode_maj39 _ (fieldMaj_wordS ..)]
  simp [decodeMaj39, sub_235, sub_236, sub_237, sub_238, sub_239, sub_240, sub_241]

theorem RoundTrip.keyopSign (z : Bool) (d : BitVec 7) (p : BitVec 3) (s : BitVec 4) : RoundTrip.Statement (.keyopSign z d p s) := by
  intro w h
  obtain rfl := Option.some.inj h
  rw [decode_maj39 _ (fieldMaj_wordS ..)]
  simp [decodeMaj39, sub_242, sub_243, sub_244, sub_245, sub_246, sub_247, sub_248]

theorem RoundTrip.fuserd (z : Bool) (d : BitVec 7) (r : BitVec 10) : RoundTrip.Statement (.fuserd z d r) := by
  intro w h
  obtain rfl := Option.some.inj h
  rw [decode_maj39 _ (fieldMaj_wordS ..)]
  simp [decodeMaj39, sub_249, sub_250, sub_251]

theorem RoundTrip.wipe (z : Bool) (p : BitVec 3) : RoundTrip.Statement (.wipe z p) := by
  intro w h
  obtain rfl := Option.some.inj h
  rw [decode_maj39 _ (fieldMaj_wordS ..)]
  simp [decodeMaj39, sub_252, sub_253, sub_254, sub_255, sub_256, sub_257, sub_258, sub_259]

theorem RoundTrip.wipeComplete (p : Nat) : RoundTrip.Statement (.wipeComplete p) := by
  intro w h; cases h

theorem RoundTrip.shadow (z : Bool) (x : BitVec 1) (p : BitVec 3) : RoundTrip.Statement (.shadow z x p) := by
  intro w h
  obtain rfl := Option.some.inj h
  rw [decode_maj39 _ (fieldMaj_wordS ..)]
  simp [decodeMaj39, sub_260, sub_261, sub_262, sub_263, sub_264, sub_265, sub_266]

theorem RoundTrip.measx (z : Bool) (d : BitVec 7) (m : BitVec 4) : RoundTrip.Statement (.measx z d m) := by
  intro w h
  obtain rfl := Option.some.inj h
  rw [decode_maj39 _ (fieldMaj_wordS ..)]
  simp [decodeMaj39, sub_267, sub_268, sub_269, sub_270, sub_271, sub_272]

theorem RoundTrip.shadowExchange (p : Nat) : RoundTrip.Statement (.shadowExchange p) := by
  intro w h; cases h

theorem RoundTrip.xpair (z : Bool) (d : BitVec 7) (a : BitVec 7) (w : BitVec 1) (r : BitVec 1) (c : BitVec 1) (s : BitVec 1) (l : BitVec 4) : RoundTrip.Statement (.xpair z d a w r c s l) := by
  intro w h
  obtain rfl := Option.some.inj h
  rw [decode_maj34 _ (fieldMaj_wordA ..)]
  simp [decodeMaj34, sub_273, sub_274, sub_275, sub_276, sub_277]

theorem RoundTrip.xpairEmit (id : Nat) : RoundTrip.Statement (.xpairEmit id) := by
  intro w h; cases h

theorem RoundTrip.xpairComplete (id : Nat) : RoundTrip.Statement (.xpairComplete id) := by
  intro w h; cases h

theorem RoundTrip.xray (z : Bool) (d : BitVec 7) (a : BitVec 7) (c : BitVec 1) (y : BitVec 1) (l : BitVec 4) : RoundTrip.Statement (.xray z d a c y l) := by
  intro w h
  obtain rfl := Option.some.inj h
  rw [decode_maj35 _ (fieldMaj_wordA ..)]
  simp [decodeMaj35, sub_278, sub_279, sub_280]

theorem RoundTrip.xrayComplete (id : Nat) (lane : Nat) : RoundTrip.Statement (.xrayComplete id lane) := by
  intro w h; cases h

theorem RoundTrip.texSample (z : Bool) (d : BitVec 7) (a : BitVec 7) (s : BitVec 4) (l : BitVec 4) : RoundTrip.Statement (.texSample z d a s l) := by
  intro w h
  obtain rfl := Option.some.inj h
  rw [decode_maj36 _ (fieldMaj_wordA ..)]
  simp [decodeMaj36, sub_281, sub_282]

theorem RoundTrip.texGath4 (z : Bool) (d : BitVec 7) (a : BitVec 7) (s : BitVec 4) (l : BitVec 4) : RoundTrip.Statement (.texGath4 z d a s l) := by
  intro w h
  obtain rfl := Option.some.inj h
  rw [decode_maj36 _ (fieldMaj_wordA ..)]
  simp [decodeMaj36, sub_283, sub_284]

theorem RoundTrip.texLoadi (z : Bool) (d : BitVec 7) (a : BitVec 7) (s : BitVec 4) (l : BitVec 4) : RoundTrip.Statement (.texLoadi z d a s l) := by
  intro w h
  obtain rfl := Option.some.inj h
  rw [decode_maj36 _ (fieldMaj_wordA ..)]
  simp [decodeMaj36, sub_285, sub_286]

theorem RoundTrip.texQuery (z : Bool) (d : BitVec 7) (a : BitVec 7) (s : BitVec 4) (l : BitVec 4) : RoundTrip.Statement (.texQuery z d a s l) := by
  intro w h
  obtain rfl := Option.some.inj h
  rw [decode_maj36 _ (fieldMaj_wordA ..)]
  simp [decodeMaj36, sub_287, sub_288]

theorem RoundTrip.cover (z : Bool) (d : BitVec 7) (a : BitVec 7) (b : BitVec 7) : RoundTrip.Statement (.cover z d a b) := by
  intro w h
  obtain rfl := Option.some.inj h
  rw [decode_maj37 _ (fieldMaj_wordA ..)]
  simp [decodeMaj37]

theorem RoundTrip.edge (z : Bool) (d : BitVec 7) (a : BitVec 7) : RoundTrip.Statement (.edge z d a) := by
  intro w h
  obtain rfl := Option.some.inj h
  rw [decode_maj37 _ (fieldMaj_wordA ..)]
  simp [decodeMaj37]

theorem RoundTrip.pxtk (z : Bool) (d : BitVec 7) (a : BitVec 7) : RoundTrip.Statement (.pxtk z d a) := by
  intro w h
  obtain rfl := Option.some.inj h
  rw [decode_maj37 _ (fieldMaj_wordA ..)]
  simp [decodeMaj37]

theorem RoundTrip.pxlk (z : Bool) (a : BitVec 7) (b : BitVec 7) : RoundTrip.Statement (.pxlk z a b) := by
  intro w h
  obtain rfl := Option.some.inj h
  rw [decode_maj37 _ (fieldMaj_wordA ..)]
  simp [decodeMaj37]

theorem RoundTrip.pxul (z : Bool) (a : BitVec 7) (b : BitVec 7) : RoundTrip.Statement (.pxul z a b) := by
  intro w h
  obtain rfl := Option.some.inj h
  rw [decode_maj37 _ (fieldMaj_wordA ..)]
  simp [decodeMaj37]

theorem RoundTrip.vemit (z : Bool) (d : BitVec 7) (a : BitVec 7) : RoundTrip.Statement (.vemit z d a) := by
  intro w h
  obtain rfl := Option.some.inj h
  rw [decode_maj37 _ (fieldMaj_wordA ..)]
  simp [decodeMaj37]

theorem RoundTrip.tsemit (z : Bool) (d : BitVec 7) (a : BitVec 7) : RoundTrip.Statement (.tsemit z d a) := by
  intro w h
  obtain rfl := Option.some.inj h
  rw [decode_maj37 _ (fieldMaj_wordA ..)]
  simp [decodeMaj37]

theorem RoundTrip.tessellate (draw : Nat) : RoundTrip.Statement (.tessellate draw) := by
  intro w h; cases h

theorem RoundTrip.primitiveRelease (draw : Nat) : RoundTrip.Statement (.primitiveRelease draw) := by
  intro w h; cases h

theorem RoundTrip.rasterLaunch (draw : Nat) (tile : Nat) : RoundTrip.Statement (.rasterLaunch draw tile) := by
  intro w h; cases h

theorem RoundTrip.atr (z : Bool) (d : BitVec 7) (a : BitVec 7) (l : BitVec 4) : RoundTrip.Statement (.atr z d a l) := by
  intro w h
  obtain rfl := Option.some.inj h
  rw [decode_maj38 _ (fieldMaj_wordA ..)]
  simp [decodeMaj38]

theorem RoundTrip.atw (z : Bool) (d : BitVec 7) (a : BitVec 7) (l : BitVec 4) : RoundTrip.Statement (.atw z d a l) := by
  intro w h
  obtain rfl := Option.some.inj h
  rw [decode_maj38 _ (fieldMaj_wordA ..)]
  simp [decodeMaj38]

theorem RoundTrip.tlbinv (z : Bool) (d : BitVec 7) (a : BitVec 7) (l : BitVec 4) : RoundTrip.Statement (.tlbinv z d a l) := by
  intro w h
  obtain rfl := Option.some.inj h
  rw [decode_maj38 _ (fieldMaj_wordA ..)]
  simp [decodeMaj38]

theorem RoundTrip.tlbinva (z : Bool) (d : BitVec 7) (l : BitVec 4) : RoundTrip.Statement (.tlbinva z d l) := by
  intro w h
  obtain rfl := Option.some.inj h
  rw [decode_maj38 _ (fieldMaj_wordA ..)]
  simp [decodeMaj38]

theorem RoundTrip.pageWalk (p : Nat) (ctx : Nat) (va : Nat) (die : Nat) (acc : Nat) : RoundTrip.Statement (.pageWalk p ctx va die acc) := by
  intro w h; cases h

theorem RoundTrip.issueArbitration (quarter : Nat) : RoundTrip.Statement (.issueArbitration quarter) := by
  intro w h; cases h

theorem RoundTrip.agemaxReached (wave : Nat) (q : Nat) : RoundTrip.Statement (.agemaxReached wave q) := by
  intro w h; cases h

theorem RoundTrip.workgroupPlace (p : Nat) : RoundTrip.Statement (.workgroupPlace p) := by
  intro w h; cases h

theorem RoundTrip.weightClassUpdate (core : Nat) (temp : Nat) (more : Nat) : RoundTrip.Statement (.weightClassUpdate core temp more) := by
  intro w h; cases h

theorem RoundTrip.budgetExceeded (wg : Nat) : RoundTrip.Statement (.budgetExceeded wg) := by
  intro w h; cases h

theorem RoundTrip.predlExpiry (wg : Nat) : RoundTrip.Statement (.predlExpiry wg) := by
  intro w h; cases h

theorem RoundTrip.hardwareSave (wg : Nat) : RoundTrip.Statement (.hardwareSave wg) := by
  intro w h; cases h

theorem RoundTrip.gridComplete (grid : Nat) : RoundTrip.Statement (.gridComplete grid) := by
  intro w h; cases h

theorem RoundTrip.packetFetch (q : Nat) : RoundTrip.Statement (.packetFetch q) := by
  intro w h; cases h

theorem RoundTrip.launchPacket (q : Nat) (seq : Nat) : RoundTrip.Statement (.launchPacket q seq) := by
  intro w h; cases h

theorem RoundTrip.bundle (q : Nat) (seq : Nat) : RoundTrip.Statement (.bundle q seq) := by
  intro w h; cases h

theorem RoundTrip.draw (q : Nat) (seq : Nat) : RoundTrip.Statement (.draw q seq) := by
  intro w h; cases h

theorem RoundTrip.copysched (q : Nat) (seq : Nat) : RoundTrip.Statement (.copysched q seq) := by
  intro w h; cases h

theorem RoundTrip.signalPacket (q : Nat) (seq : Nat) : RoundTrip.Statement (.signalPacket q seq) := by
  intro w h; cases h

theorem RoundTrip.waitsig (q : Nat) (seq : Nat) : RoundTrip.Statement (.waitsig q seq) := by
  intro w h; cases h

theorem RoundTrip.waitsigPoll (q : Nat) (seq : Nat) : RoundTrip.Statement (.waitsigPoll q seq) := by
  intro w h; cases h

theorem RoundTrip.waitsigTimeout (q : Nat) (seq : Nat) : RoundTrip.Statement (.waitsigTimeout q seq) := by
  intro w h; cases h

theorem RoundTrip.swaitcTimeout (wave : Nat) (q : Nat) : RoundTrip.Statement (.swaitcTimeout wave q) := by
  intro w h; cases h

theorem RoundTrip.timestamp (q : Nat) (seq : Nat) : RoundTrip.Statement (.timestamp q seq) := by
  intro w h; cases h

theorem RoundTrip.eventPacket (q : Nat) (seq : Nat) : RoundTrip.Statement (.eventPacket q seq) := by
  intro w h; cases h

theorem RoundTrip.qbarrier (q : Nat) (seq : Nat) : RoundTrip.Statement (.qbarrier q seq) := by
  intro w h; cases h

theorem RoundTrip.configAgemax (q : Nat) (seq : Nat) : RoundTrip.Statement (.configAgemax q seq) := by
  intro w h; cases h

theorem RoundTrip.configPredl (q : Nat) (seq : Nat) : RoundTrip.Statement (.configPredl q seq) := by
  intro w h; cases h

theorem RoundTrip.configLkquota (q : Nat) (seq : Nat) : RoundTrip.Statement (.configLkquota q seq) := by
  intro w h; cases h

theorem RoundTrip.configL2Ways (q : Nat) (seq : Nat) : RoundTrip.Statement (.configL2Ways q seq) := by
  intro w h; cases h

theorem RoundTrip.configLlcWays (q : Nat) (seq : Nat) : RoundTrip.Statement (.configLlcWays q seq) := by
  intro w h; cases h

theorem RoundTrip.partctlPreempt (q : Nat) (seq : Nat) : RoundTrip.Statement (.partctlPreempt q seq) := by
  intro w h; cases h

theorem RoundTrip.partctlSwapout (q : Nat) (seq : Nat) : RoundTrip.Statement (.partctlSwapout q seq) := by
  intro w h; cases h

theorem RoundTrip.partctlSwapin (q : Nat) (seq : Nat) : RoundTrip.Statement (.partctlSwapin q seq) := by
  intro w h; cases h

theorem RoundTrip.partctlWipe (q : Nat) (seq : Nat) : RoundTrip.Statement (.partctlWipe q seq) := by
  intro w h; cases h

theorem RoundTrip.partctlKeybind (q : Nat) (seq : Nat) : RoundTrip.Statement (.partctlKeybind q seq) := by
  intro w h; cases h

theorem RoundTrip.partctlKeyzero (q : Nat) (seq : Nat) : RoundTrip.Statement (.partctlKeyzero q seq) := by
  intro w h; cases h

theorem RoundTrip.eventHoldmax (e : Nat) : RoundTrip.Statement (.eventHoldmax e) := by
  intro w h; cases h

theorem RoundTrip.msixSend (e : Nat) : RoundTrip.Statement (.msixSend e) := by
  intro w h; cases h

theorem RoundTrip.qtailWrite (q : Nat) (v : Nat) : RoundTrip.Statement (.qtailWrite q v) := by
  intro w h; cases h

theorem RoundTrip.queueEnable (q : Nat) : RoundTrip.Statement (.queueEnable q) := by
  intro w h; cases h

theorem RoundTrip.queueDisable (q : Nat) : RoundTrip.Statement (.queueDisable q) := by
  intro w h; cases h

theorem RoundTrip.queueStopped (q : Nat) : RoundTrip.Statement (.queueStopped q) := by
  intro w h; cases h

theorem RoundTrip.queueReset (q : Nat) : RoundTrip.Statement (.queueReset q) := by
  intro w h; cases h

theorem RoundTrip.queueResetComplete (q : Nat) : RoundTrip.Statement (.queueResetComplete q) := by
  intro w h; cases h

theorem RoundTrip.eqlostRead (e : Nat) : RoundTrip.Statement (.eqlostRead e) := by
  intro w h; cases h

theorem RoundTrip.trlostRead (p : Nat) : RoundTrip.Statement (.trlostRead p) := by
  intro w h; cases h

theorem RoundTrip.frackWrite (p : Nat) (n : Nat) : RoundTrip.Statement (.frackWrite p n) := by
  intro w h; cases h

theorem RoundTrip.spanEnable : RoundTrip.Statement (.spanEnable ) := by
  intro w h; cases h

theorem RoundTrip.spanDisable : RoundTrip.Statement (.spanDisable ) := by
  intro w h; cases h

theorem RoundTrip.capWrite (p : Nat) (v : Nat) : RoundTrip.Statement (.capWrite p v) := by
  intro w h; cases h

theorem RoundTrip.registerWrite (off : Nat) (v : Nat) : RoundTrip.Statement (.registerWrite off v) := by
  intro w h; cases h

theorem RoundTrip.fwload (arg : Nat) : RoundTrip.Statement (.fwload arg) := by
  intro w h; cases h

theorem RoundTrip.attest (arg : Nat) : RoundTrip.Statement (.attest arg) := by
  intro w h; cases h

theorem RoundTrip.challenge (arg : Nat) : RoundTrip.Statement (.challenge arg) := by
  intro w h; cases h

theorem RoundTrip.unlock (arg : Nat) : RoundTrip.Statement (.unlock arg) := by
  intro w h; cases h

theorem RoundTrip.relock (arg : Nat) : RoundTrip.Statement (.relock arg) := by
  intro w h; cases h

theorem RoundTrip.setpriv (arg : Nat) : RoundTrip.Statement (.setpriv arg) := by
  intro w h; cases h

theorem RoundTrip.lifecycle (arg : Nat) : RoundTrip.Statement (.lifecycle arg) := by
  intro w h; cases h

theorem RoundTrip.partdef (arg : Nat) : RoundTrip.Statement (.partdef arg) := by
  intro w h; cases h

theorem RoundTrip.partundef (arg : Nat) : RoundTrip.Statement (.partundef arg) := by
  intro w h; cases h

theorem RoundTrip.ctxdef (arg : Nat) : RoundTrip.Statement (.ctxdef arg) := by
  intro w h; cases h

theorem RoundTrip.ctxundef (arg : Nat) : RoundTrip.Statement (.ctxundef arg) := by
  intro w h; cases h

theorem RoundTrip.nonceExpiry : RoundTrip.Statement (.nonceExpiry ) := by
  intro w h; cases h

theorem RoundTrip.stop (arg : Nat) : RoundTrip.Statement (.stop arg) := by
  intro w h; cases h

theorem RoundTrip.resume (arg : Nat) : RoundTrip.Statement (.resume arg) := by
  intro w h; cases h

theorem RoundTrip.step (arg : Nat) : RoundTrip.Statement (.step arg) := by
  intro w h; cases h

theorem RoundTrip.rdreg (arg : Nat) : RoundTrip.Statement (.rdreg arg) := by
  intro w h; cases h

theorem RoundTrip.wrreg (arg : Nat) : RoundTrip.Statement (.wrreg arg) := by
  intro w h; cases h

theorem RoundTrip.drop (arg : Nat) : RoundTrip.Statement (.drop arg) := by
  intro w h; cases h

theorem RoundTrip.bpen (arg : Nat) : RoundTrip.Statement (.bpen arg) := by
  intro w h; cases h

theorem RoundTrip.report (arg : Nat) : RoundTrip.Statement (.report arg) := by
  intro w h; cases h

theorem RoundTrip.memrd (arg : Nat) : RoundTrip.Statement (.memrd arg) := by
  intro w h; cases h

theorem RoundTrip.memwr (arg : Nat) : RoundTrip.Statement (.memwr arg) := by
  intro w h; cases h

theorem RoundTrip.traceSummaryTimer (wave : Nat) : RoundTrip.Statement (.traceSummaryTimer wave) := by
  intro w h; cases h

theorem RoundTrip.replayPass (grid : Nat) : RoundTrip.Statement (.replayPass grid) := by
  intro w h; cases h

theorem RoundTrip.scrubPass (wave : Nat) (reg : Nat) (lane : Nat) (found : Nat) : RoundTrip.Statement (.scrubPass wave reg lane found) := by
  intro w h; cases h

theorem RoundTrip.coreRetire (core : Nat) (cause : Nat) : RoundTrip.Statement (.coreRetire core cause) := by
  intro w h; cases h

theorem RoundTrip.pseudoChannelFail (stack : Nat) (ch : Nat) : RoundTrip.Statement (.pseudoChannelFail stack ch) := by
  intro w h; cases h

theorem RoundTrip.pseudoChannelCopyDone (stack : Nat) (ch : Nat) : RoundTrip.Statement (.pseudoChannelCopyDone stack ch) := by
  intro w h; cases h

theorem RoundTrip.coreThermalTrip (core : Nat) (temp : Nat) : RoundTrip.Statement (.coreThermalTrip core temp) := by
  intro w h; cases h

theorem RoundTrip.coreThermalRecover (core : Nat) (temp : Nat) : RoundTrip.Statement (.coreThermalRecover core temp) := by
  intro w h; cases h

theorem RoundTrip.packageThermalTrip (die : Nat) (temp : Nat) : RoundTrip.Statement (.packageThermalTrip die temp) := by
  intro w h; cases h

theorem RoundTrip.droopStretch (island : Nat) (mv : Nat) : RoundTrip.Statement (.droopStretch island mv) := by
  intro w h; cases h

theorem RoundTrip.powerWindow (p : Nat) (watts : Nat) : RoundTrip.Statement (.powerWindow p watts) := by
  intro w h; cases h

theorem RoundTrip.fullReset (kind : Nat) : RoundTrip.Statement (.fullReset kind) := by
  intro w h; cases h

theorem RoundTrip.flitRetry (port : Nat) : RoundTrip.Statement (.flitRetry port) := by
  intro w h; cases h

theorem RoundTrip.spanPortDown (port : Nat) : RoundTrip.Statement (.spanPortDown port) := by
  intro w h; cases h

theorem RoundTrip.spanDownSvcreq (port : Nat) : RoundTrip.Statement (.spanDownSvcreq port) := by
  intro w h; cases h

theorem RoundTrip.peerRequest (kind : Nat) (addr : Nat) (data : Nat) (size : Nat) : RoundTrip.Statement (.peerRequest kind addr data size) := by
  intro w h; cases h

theorem RoundTrip.cxlmemRead (addr : Nat) : RoundTrip.Statement (.cxlmemRead addr) := by
  intro w h; cases h

theorem RoundTrip.cxlmemWrite (addr : Nat) (byte : Nat) : RoundTrip.Statement (.cxlmemWrite addr byte) := by
  intro w h; cases h

theorem RoundTrip.writePerformed (id : Nat) (scope : Nat) : RoundTrip.Statement (.writePerformed id scope) := by
  intro w h; cases h

theorem RoundTrip.frheadWrite (p : Nat) (v : Nat) : RoundTrip.Statement (.frheadWrite p v) := by
  intro w h; cases h

theorem RoundTrip.provisioning : RoundTrip.Statement (.provisioning ) := by
  intro w h; cases h

theorem RoundTrip.droopStretchEnd (island : Nat) : RoundTrip.Statement (.droopStretchEnd island) := by
  intro w h; cases h

theorem RoundTrip.spanPortTrained (port : Nat) (up : Bool) : RoundTrip.Statement (.spanPortTrained port up) := by
  intro w h; cases h

theorem RoundTrip.hostSnoop (addr : Nat) : RoundTrip.Statement (.hostSnoop addr) := by
  intro w h; cases h

theorem RoundTrip.msixUnmask (vec : Nat) : RoundTrip.Statement (.msixUnmask vec) := by
  intro w h; cases h

end Sys2Proof.Laws
end

