-- ==== Sys2Proof/Laws/Physical.lean ====
section
/-! SUPPORT. Every operation on physical memory keeps each memory in its canonical form. -/

namespace Sys2Proof.Laws

open Sys2Proof.Machine Sys2Proof.Safety

theorem memWf_baseWrite (s : State) (m : Mem) (tag a : Nat) (bs : List Byte) (w : MemWf s) : MemWf (baseWrite s m tag a bs) := by
  obtain ⟨h1, h2, h3, h4⟩ := w
  cases m
  · exact ⟨Memory.wf_writeN bs _ a h1, h2, h3, h4⟩
  · exact ⟨h1, Memory.wf_writeN bs _ a h2, h3, h4⟩
  · exact ⟨h1, h2, Memory.wf_writeN bs _ a h3, h4⟩
  · exact ⟨h1, h2, h3, Memory.wf_writeN bs _ a h4⟩

theorem memWf_applyStores (xs : List Store) (s : State) (w : MemWf s) : MemWf (applyStores s xs) := by
  induction xs generalizing s with
  | nil => exact w
  | cons x xs ih => exact ih _ (memWf_baseWrite s x.mem x.tag x.addr x.bytes w)

theorem memWf_dropStale (who : Holder → Bool) (m : Mem) (a n : Nat) (s : State) (w : MemWf s) : MemWf (dropStale who m a n s) := w

theorem memWf_dropL2s (xs : List Store) (s : State) (w : MemWf s) : MemWf (xs.foldl (fun s x => dropL2 x s) s) := by
  induction xs generalizing s with
  | nil => exact w
  | cons x xs ih => exact ih _ (memWf_dropStale _ _ _ _ s w)

theorem memWf_performStores (s : State) (sel : Store → Bool) (scope : Nat) (w : MemWf s) : MemWf (performStores s sel scope) := by
  unfold performStores
  split
  · exact w
  · apply memWf_applyStores
    split
    · exact w
    · exact memWf_dropL2s _ s w

theorem memWf_physWrite (s : State) (m : Mem) (tag a : Nat) (bs : List Byte) (w : MemWf s) : MemWf (physWrite s m tag a bs) :=
  memWf_baseWrite s m tag a bs w

theorem memWf_physStore (s : State) (core : Nat) (m : Mem) (tag a : Nat) (bs : List Byte) (w : MemWf s) :
    MemWf (physStore s core m tag a bs) := by
  cases m
  case spad => exact memWf_baseWrite s .spad 0 a bs w
  all_goals
    unfold physStore
    dsimp only
    split <;> exact w

theorem memWf_physWriteAt (s : State) (core scope : Nat) (m : Mem) (tag a : Nat) (bs : List Byte) (w : MemWf s) :
    MemWf (physWriteAt s core scope m tag a bs) := by
  unfold physWriteAt
  split
  · exact memWf_baseWrite s .spad 0 a bs w
  · dsimp only
    split <;> split <;> first | exact memWf_physWrite _ m tag a bs w | exact w

theorem memWf_physRelease (s : State) (core scope : Nat) (w : MemWf s) : MemWf (physRelease s core scope) :=
  memWf_performStores s _ scope w

theorem memWf_physSync (s : State) (core scope : Nat) (m : Mem) (a n : Nat) (w : MemWf s) : MemWf (physSync s core scope m a n) := by
  unfold physSync
  split <;> exact memWf_performStores _ _ scope w

theorem memWf_postEvent (e : Nat) (r : EvRec) (s : State) (w : MemWf s) : MemWf (postEvent e r s) := by
  unfold postEvent
  dsimp only
  split
  · exact memWf_physWrite s _ 0 _ _ w
  · exact w

theorem memWf_postTrace (p : Nat) (bs : List Byte) (s : State) (w : MemWf s) : MemWf (postTrace p bs s) := by
  unfold postTrace
  dsimp only
  split
  · exact memWf_physWrite s _ 0 _ bs w
  · exact w

theorem memWf_reset : MemWf State.reset := ⟨rfl, rfl, rfl, rfl⟩

/-- A store that is performed everywhere changes the bytes it names and no other byte of any memory. -/
theorem read_baseWrite (s : State) (m m' : Mem) (tag a x : Nat) (bs : List Byte) :
    ((baseWrite s m tag a bs).memOf m').read x =
      if m' = m ∧ a ≤ x ∧ x < a + bs.length then bs.getD (x - a) 0#8 else (s.memOf m').read x := by
  cases m <;> cases m' <;> simp [baseWrite, noteWrite, State.memOf, Memory.read_writeN]

end Sys2Proof.Laws
end

