-- ==== Sys2Proof/WellFormed.lean ====
section
/-! DEFINITION. Well-formed instructions: the register codes and field values that the encoding rules accept by the word alone (R77 to
R81, and the fields of each word). What depends on MODE, on a span's length or on the wave is checked when the word issues. -/

namespace Sys2Proof

/-! ## Codes -/

/-- A direct v or w code is even, where a pair starts (R81). -/
def evenCode (c : BitVec 7) : Bool := decide (0x78 ≤ c.toNat) || !c.getLsbD 0

/-- A destination: neither LANE, K nor QUADIX (R78). -/
def destCode (c : BitVec 7) : Bool := !(decide (c = 0x79#7) || decide (c = 0x7A#7) || decide (c = 0x7B#7))

/-- A source pair (R81). -/
def pairCode (c : BitVec 7) : Bool := evenCode c

/-- A destination pair (R78, R81). -/
def pairDest (c : BitVec 7) : Bool := destCode c && evenCode c

/-- A span: a v code or an indirect code (R79). -/
def spanCode (c : BitVec 7) : Bool := decide (c.toNat < 0x60) || decide (0x7C ≤ c.toNat)

/-- A span of pairs (R79, R81). -/
def pairSpan (c : BitVec 7) : Bool := spanCode c && evenCode c

/-- A pair of vector or uniform registers (R81). -/
def pairReg (c : BitVec 7) : Bool := pairSpan c || (decide (0x60 ≤ c.toNat) && decide (c.toNat < 0x78) && evenCode c)

/-- A v code. -/
def vCode (c : BitVec 7) : Bool := decide (c.toNat < 0x60)

/-- A w code. -/
def wCode (c : BitVec 7) : Bool := decide (0x60 ≤ c.toNat) && decide (c.toNat < 0x78)

/-- A uniform source: a w code, ZERO or K. -/
def uniCode (c : BitVec 7) : Bool := wCode c || decide (c = 0x78#7) || decide (c = 0x7A#7)

/-- A w code or K (R437). -/
def wOrK (c : BitVec 7) : Bool := wCode c || decide (c = 0x7A#7)

/-- The scope of an atomic or a future word: 1 to 5 (R246, R273). -/
def scopeCode (c : BitVec 3) : Bool := decide (1 ≤ c.toNat) && decide (c.toNat ≤ 5)

/-- The scope of a fence: 0 to 5 (R246). -/
def fenceScope (c : BitVec 3) : Bool := decide (c.toNat ≤ 5)

/-- A special-function token: 0 to 13 (R185). -/
def tokenCode (k : BitVec 4) : Bool := decide (k.toNat ≤ 13)

/-! ## Instructions -/

/-- The constructor is an instruction word, and not an event of the device. -/
def Instr.isWord : Instr → Bool
  | .nop _ => true
  | .iadd _ _ _ _ => true
  | .isub _ _ _ _ => true
  | .imul _ _ _ _ => true
  | .imulh _ _ _ _ => true
  | .imin _ _ _ _ => true
  | .imax _ _ _ _ => true
  | .ineg _ _ _ => true
  | .iabs _ _ _ => true
  | .and _ _ _ _ => true
  | .or _ _ _ _ => true
  | .xor _ _ _ _ => true
  | .andn _ _ _ _ => true
  | .shl _ _ _ _ => true
  | .shr _ _ _ _ => true
  | .sar _ _ _ _ => true
  | .rot _ _ _ _ => true
  | .clz _ _ _ => true
  | .ctz _ _ _ => true
  | .popc _ _ _ => true
  | .brev _ _ _ => true
  | .bil3 _ _ _ _ => true
  | .bdil3 _ _ _ _ => true
  | .bil2 _ _ _ _ => true
  | .bdil2 _ _ _ => true
  | .bfx _ _ _ _ => true
  | .bfxs _ _ _ _ => true
  | .bfi _ _ _ _ => true
  | .mov _ _ _ => true
  | .sel _ _ _ _ => true
  | .perm _ _ _ _ => true
  | .imad _ _ _ _ => true
  | .imadh _ _ _ _ => true
  | .idot4 _ _ _ _ => true
  | .isad _ _ _ _ => true
  | .icmpEq _ _ _ _ => true
  | .icmpNe _ _ _ _ => true
  | .icmpLt _ _ _ _ => true
  | .icmpLe _ _ _ _ => true
  | .icmpGt _ _ _ _ => true
  | .icmpGe _ _ _ _ => true
  | .icmpLtn _ _ _ _ => true
  | .icmpLen _ _ _ _ => true
  | .icmpGtn _ _ _ _ => true
  | .icmpGen _ _ _ _ => true
  | .icmpTstz _ _ _ _ => true
  | .icmpTstnz _ _ _ _ => true
  | .add64 _ _ _ _ => true
  | .sub64 _ _ _ _ => true
  | .lea1 _ _ _ _ => true
  | .lea2 _ _ _ _ => true
  | .lea4 _ _ _ _ => true
  | .lea8 _ _ _ _ => true
  | .lea16 _ _ _ _ => true
  | .mov64 _ _ _ => true
  | .shl64 _ _ _ _ => true
  | .shr64 _ _ _ _ => true
  | .modeEt _ _ => true
  | .modeEt2 _ _ => true
  | .modeRnd _ _ => true
  | .modeSat _ _ => true
  | .modeFtz _ _ => true
  | .modeGuard _ _ _ _ => true
  | .modeFreg _ _ => true
  | .modeSpl _ _ => true
  | .modeUtrap _ _ => true
  | .modeWord _ _ => true
  | .sread _ _ _ => true
  | .swrite _ _ _ => true
  | .gread _ _ _ => true
  | .gwrite _ _ _ => true
  | .gxchg _ _ _ => true
  | .gadd _ _ _ => true
  | .rgn _ _ _ => true
  | .rgnadd _ _ _ => true
  | .kx _ => true
  | .kxw _ => true
  | .fadd _ _ _ _ => true
  | .fsub _ _ _ _ => true
  | .fmul _ _ _ _ => true
  | .fmin _ _ _ _ => true
  | .fmax _ _ _ _ => true
  | .fabs _ _ _ => true
  | .fneg _ _ _ => true
  | .fcls _ _ _ => true
  | .fminm _ _ _ _ => true
  | .fmaxm _ _ _ _ => true
  | .frnd _ _ _ => true
  | .fscl _ _ _ _ => true
  | .fcpy _ _ _ _ => true
  | .ffma _ _ _ _ => true
  | .ffms _ _ _ _ => true
  | .fnma _ _ _ _ => true
  | .fcmpEq _ _ _ _ => true
  | .fcmpNe _ _ _ _ => true
  | .fcmpLt _ _ _ _ => true
  | .fcmpLe _ _ _ _ => true
  | .fcmpGt _ _ _ _ => true
  | .fcmpGe _ _ _ _ => true
  | .fcmpUn _ _ _ _ => true
  | .fcmpOrd _ _ _ _ => true
  | .cvt _ _ _ => true
  | .cvtz _ _ _ => true
  | .cvts _ _ _ => true
  | .pack2 _ _ _ _ => true
  | .unpk _ _ _ => true
  | .unpkh _ _ _ => true
  | .nrw _ _ _ _ _ _ => true
  | .wide _ _ _ _ => true
  | .wide4 _ _ _ _ => true
  | .scaleof _ _ _ => true
  | .setsc _ _ _ => true
  | .shfl _ _ _ _ _ => true
  | .shflx _ _ _ _ _ => true
  | .shflu _ _ _ _ _ => true
  | .shfld _ _ _ _ _ => true
  | .bcst _ _ _ _ _ => true
  | .qswz _ _ _ _ _ => true
  | .ballot _ _ _ _ => true
  | .vote _ _ _ _ => true
  | .redadd _ _ _ _ => true
  | .redmin _ _ _ _ => true
  | .redmax _ _ _ _ => true
  | .redand _ _ _ _ => true
  | .redor _ _ _ _ => true
  | .redxor _ _ _ _ => true
  | .scanadd _ _ _ _ => true
  | .scanaddx _ _ _ _ => true
  | .rcp _ _ _ _ => true
  | .rsq _ _ _ _ => true
  | .sqrt _ _ _ _ => true
  | .exp2 _ _ _ _ => true
  | .log2 _ _ _ _ => true
  | .sin _ _ _ _ => true
  | .cos _ _ _ _ => true
  | .tanh _ _ _ _ => true
  | .sigm _ _ _ _ => true
  | .erf _ _ _ _ => true
  | .silu _ _ _ _ => true
  | .atan _ _ _ _ => true
  | .sfnResult _ _ _ => false
  | .mma _ _ _ _ _ _ => true
  | .mmat _ _ _ _ _ _ => true
  | .mmatSp _ _ _ _ _ _ => true
  | .aclr _ _ _ _ => true
  | .amovr _ _ _ _ _ => true
  | .amovw _ _ _ _ _ => true
  | .ascl _ _ _ _ _ => true
  | .matrixComplete _ _ => false
  | .ld _ _ _ _ _ => true
  | .st _ _ _ _ _ => true
  | .ldv _ _ _ _ _ => true
  | .ldx _ _ _ _ _ _ _ => true
  | .stx _ _ _ _ _ _ => true
  | .loadWriteback _ _ _ => false
  | .atomAdd _ _ _ _ _ => true
  | .atomMin _ _ _ _ _ => true
  | .atomMax _ _ _ _ _ => true
  | .atomMinn _ _ _ _ _ => true
  | .atomMaxn _ _ _ _ _ => true
  | .atomAnd _ _ _ _ _ => true
  | .atomOr _ _ _ _ _ => true
  | .atomXor _ _ _ _ _ => true
  | .atomXchg _ _ _ _ _ => true
  | .atomCas _ _ _ _ _ => true
  | .atomFadd _ _ _ _ _ => true
  | .atomIncw _ _ _ _ _ => true
  | .atomFmin _ _ _ _ _ => true
  | .fput _ _ _ _ _ => true
  | .fputT _ _ _ _ _ => true
  | .ftake _ _ _ _ _ => true
  | .ftakeN _ _ _ _ _ => true
  | .fpeek _ _ _ _ _ => true
  | .fclr _ _ _ _ => true
  | .fenceAcq _ _ _ => true
  | .fenceRel _ _ _ => true
  | .fenceAr _ _ _ => true
  | .fenceSc _ _ _ => true
  | .pref _ _ _ => true
  | .pref2 _ _ _ => true
  | .clock1 _ _ _ _ => true
  | .clock2 _ _ _ _ => true
  | .cunlk1 _ _ _ => true
  | .cunlk2 _ _ _ => true
  | .cwb _ _ _ => true
  | .cinv _ _ _ => true
  | .cwbinv _ _ _ => true
  | .isync _ _ => true
  | .copy _ _ _ _ _ _ => true
  | .ccvt _ _ _ _ _ _ => true
  | .csum _ _ _ _ _ _ => true
  | .cfill _ _ _ _ _ _ => true
  | .agath _ _ _ _ _ _ => true
  | .astp _ _ _ _ _ => true
  | .astpAck _ _ => false
  | .copySectorDeliver _ => false
  | .copyComplete _ => false
  | .togenL _ _ _ => true
  | .togenS _ _ _ => true
  | .togenC _ _ _ => true
  | .fromgenL _ _ _ => true
  | .fromgenS _ _ _ => true
  | .fromgenC _ _ _ => true
  | .isspc _ _ _ => true
  | .bra _ _ => true
  | .call _ _ => true
  | .brw _ _ _ => true
  | .brwz _ _ _ => true
  | .brd _ _ _ => true
  | .jmpi _ _ => true
  | .ret _ => true
  | .calli _ _ => true
  | .missSplit _ _ => false
  | .rcv _ _ => true
  | .rcvW _ => true
  | .rcvDeadline _ _ => false
  | .fusedead _ => false
  | .endW _ => true
  | .trap _ _ => true
  | .bkpt _ _ => true
  | .eret _ => true
  | .yield _ _ => true
  | .role _ _ => true
  | .sleep _ _ => true
  | .sleepExpiry _ _ => false
  | .ifW _ _ _ => true
  | .ifS _ _ _ => true
  | .elseW _ _ => true
  | .endif _ => true
  | .loops _ _ => true
  | .brk _ _ _ => true
  | .cont _ _ _ => true
  | .endls _ _ => true
  | .loop _ _ _ => true
  | .lexit _ _ => true
  | .waitt _ _ => true
  | .wpwait _ _ _ => true
  | .dwait _ _ _ => true
  | .vwait _ _ _ => true
  | .sleepw _ _ => true
  | .sleepwExpiry _ _ => false
  | .bar _ _ _ => true
  | .barp _ _ _ => true
  | .bara _ _ _ => true
  | .barw _ _ => true
  | .barb _ _ _ => true
  | .cstg _ _ => true
  | .phaseResume _ => false
  | .dinit _ _ _ _ => true
  | .dexp _ _ _ _ => true
  | .darr _ _ _ _ => true
  | .dqry _ _ _ _ => true
  | .time _ _ => true
  | .pmcrd _ _ _ => true
  | .pmcwr _ _ _ => true
  | .accv _ _ _ => true
  | .wprd _ _ _ => true
  | .cycle _ _ => true
  | .launch _ _ _ _ => true
  | .launchb _ _ _ _ => true
  | .enqr _ _ _ _ => true
  | .rqflush _ _ _ _ => true
  | .rqstat _ _ _ _ => true
  | .evpost _ _ _ _ => true
  | .cpoll _ _ _ _ => true
  | .csleep _ _ _ _ => true
  | .signal _ _ _ _ => true
  | .csleepTimeout _ _ => false
  | .qfetch _ _ _ => true
  | .qdisp _ _ _ _ => true
  | .swaitc _ _ _ _ => true
  | .keyopGen _ _ _ _ => true
  | .keyopBind _ _ _ _ => true
  | .keyopUnbind _ _ _ _ => true
  | .keyopZero _ _ _ _ => true
  | .keyopZeroall _ _ _ _ => true
  | .keyopSign _ _ _ _ => true
  | .fuserd _ _ _ => true
  | .wipe _ _ => true
  | .wipeComplete _ => false
  | .shadow _ _ _ => true
  | .measx _ _ _ => true
  | .shadowExchange _ => false
  | .xpair _ _ _ _ _ _ _ _ => true
  | .xpairEmit _ => false
  | .xpairComplete _ => false
  | .xray _ _ _ _ _ _ => true
  | .xrayComplete _ _ => false
  | .texSample _ _ _ _ _ => true
  | .texGath4 _ _ _ _ _ => true
  | .texLoadi _ _ _ _ _ => true
  | .texQuery _ _ _ _ _ => true
  | .cover _ _ _ _ => true
  | .edge _ _ _ => true
  | .pxtk _ _ _ => true
  | .pxlk _ _ _ => true
  | .pxul _ _ _ => true
  | .vemit _ _ _ => true
  | .tsemit _ _ _ => true
  | .tessellate _ => false
  | .primitiveRelease _ => false
  | .rasterLaunch _ _ => false
  | .atr _ _ _ _ => true
  | .atw _ _ _ _ => true
  | .tlbinv _ _ _ _ => true
  | .tlbinva _ _ _ => true
  | .pageWalk _ _ _ _ _ => false
  | .issueArbitration _ => false
  | .agemaxReached _ _ => false
  | .workgroupPlace _ => false
  | .weightClassUpdate _ _ _ => false
  | .budgetExceeded _ => false
  | .predlExpiry _ => false
  | .hardwareSave _ => false
  | .gridComplete _ => false
  | .packetFetch _ => false
  | .launchPacket _ _ => false
  | .bundle _ _ => false
  | .draw _ _ => false
  | .copysched _ _ => false
  | .signalPacket _ _ => false
  | .waitsig _ _ => false
  | .waitsigPoll _ _ => false
  | .waitsigTimeout _ _ => false
  | .swaitcTimeout _ _ => false
  | .timestamp _ _ => false
  | .eventPacket _ _ => false
  | .qbarrier _ _ => false
  | .configAgemax _ _ => false
  | .configPredl _ _ => false
  | .configLkquota _ _ => false
  | .configL2Ways _ _ => false
  | .configLlcWays _ _ => false
  | .partctlPreempt _ _ => false
  | .partctlSwapout _ _ => false
  | .partctlSwapin _ _ => false
  | .partctlWipe _ _ => false
  | .partctlKeybind _ _ => false
  | .partctlKeyzero _ _ => false
  | .eventHoldmax _ => false
  | .msixSend _ => false
  | .qtailWrite _ _ => false
  | .queueEnable _ => false
  | .queueDisable _ => false
  | .queueStopped _ => false
  | .queueReset _ => false
  | .queueResetComplete _ => false
  | .eqlostRead _ => false
  | .trlostRead _ => false
  | .frackWrite _ _ => false
  | .spanEnable => false
  | .spanDisable => false
  | .capWrite _ _ => false
  | .registerWrite _ _ => false
  | .fwload _ => false
  | .attest _ => false
  | .challenge _ => false
  | .unlock _ => false
  | .relock _ => false
  | .setpriv _ => false
  | .lifecycle _ => false
  | .partdef _ => false
  | .partundef _ => false
  | .ctxdef _ => false
  | .ctxundef _ => false
  | .nonceExpiry => false
  | .stop _ => false
  | .resume _ => false
  | .step _ => false
  | .rdreg _ => false
  | .wrreg _ => false
  | .drop _ => false
  | .bpen _ => false
  | .report _ => false
  | .memrd _ => false
  | .memwr _ => false
  | .traceSummaryTimer _ => false
  | .replayPass _ => false
  | .scrubPass _ _ _ _ => false
  | .coreRetire _ _ => false
  | .pseudoChannelFail _ _ => false
  | .pseudoChannelCopyDone _ _ => false
  | .coreThermalTrip _ _ => false
  | .coreThermalRecover _ _ => false
  | .packageThermalTrip _ _ => false
  | .droopStretch _ _ => false
  | .powerWindow _ _ => false
  | .fullReset _ => false
  | .flitRetry _ => false
  | .spanPortDown _ => false
  | .spanDownSvcreq _ => false
  | .peerRequest _ _ _ _ => false
  | .cxlmemRead _ => false
  | .cxlmemWrite _ _ => false
  | .writePerformed _ _ => false
  | .frheadWrite _ _ => false
  | .provisioning => false
  | .droopStretchEnd _ => false
  | .spanPortTrained _ _ => false
  | .hostSnoop _ => false
  | .msixUnmask _ => false

/-- The instruction keeps the encoding rules that its word alone decides. -/
def Instr.wellFormed : Instr → Bool
  | .nop _ => true
  | .iadd _ d _ _ => destCode d
  | .isub _ d _ _ => destCode d
  | .imul _ d _ _ => destCode d
  | .imulh _ d _ _ => destCode d
  | .imin _ d _ _ => destCode d
  | .imax _ d _ _ => destCode d
  | .ineg _ d _ => destCode d
  | .iabs _ d _ => destCode d
  | .and _ d _ _ => destCode d
  | .or _ d _ _ => destCode d
  | .xor _ d _ _ => destCode d
  | .andn _ d _ _ => destCode d
  | .shl _ d _ _ => destCode d
  | .shr _ d _ _ => destCode d
  | .sar _ d _ _ => destCode d
  | .rot _ d _ _ => destCode d
  | .clz _ d _ => destCode d
  | .ctz _ d _ => destCode d
  | .popc _ d _ => destCode d
  | .brev _ d _ => destCode d
  | .bil3 _ d _ _ => destCode d
  | .bdil3 _ d _ _ => destCode d
  | .bil2 _ d _ _ => destCode d
  | .bdil2 _ d _ => destCode d
  | .bfx _ d _ _ => destCode d
  | .bfxs _ d _ _ => destCode d
  | .bfi _ d _ _ => destCode d
  | .mov _ d _ => destCode d
  | .sel _ d _ _ => destCode d
  | .perm _ d _ _ => destCode d
  | .imad _ d _ _ => destCode d
  | .imadh _ d _ _ => destCode d
  | .idot4 _ d _ _ => destCode d
  | .isad _ d _ _ => destCode d
  | .icmpEq _ d _ _ => destCode d
  | .icmpNe _ d _ _ => destCode d
  | .icmpLt _ d _ _ => destCode d
  | .icmpLe _ d _ _ => destCode d
  | .icmpGt _ d _ _ => destCode d
  | .icmpGe _ d _ _ => destCode d
  | .icmpLtn _ d _ _ => destCode d
  | .icmpLen _ d _ _ => destCode d
  | .icmpGtn _ d _ _ => destCode d
  | .icmpGen _ d _ _ => destCode d
  | .icmpTstz _ d _ _ => destCode d
  | .icmpTstnz _ d _ _ => destCode d
  | .add64 _ d a b => pairDest d && pairCode a && pairCode b
  | .sub64 _ d a b => pairDest d && pairCode a && pairCode b
  | .lea1 _ d a _ => pairDest d && pairCode a
  | .lea2 _ d a _ => pairDest d && pairCode a
  | .lea4 _ d a _ => pairDest d && pairCode a
  | .lea8 _ d a _ => pairDest d && pairCode a
  | .lea16 _ d a _ => pairDest d && pairCode a
  | .mov64 _ d a => pairDest d && pairCode a
  | .shl64 _ d a _ => pairDest d && pairCode a
  | .shr64 _ d a _ => pairDest d && pairCode a
  | .modeEt _ _ => true
  | .modeEt2 _ _ => true
  | .modeRnd _ e => decide (e.toNat < 5)
  | .modeSat _ _ => true
  | .modeFtz _ _ => true
  | .modeGuard _ _ _ _ => true
  | .modeFreg _ _ => true
  | .modeSpl _ e => decide (e ≠ 3#2)
  | .modeUtrap _ _ => true
  | .modeWord _ _ => true
  | .sread _ d _ => destCode d
  | .swrite _ _ _ => true
  | .gread _ d _ => destCode d
  | .gwrite _ _ _ => true
  | .gxchg _ d _ => destCode d
  | .gadd _ d _ => destCode d
  | .rgn _ a _ => vCode a
  | .rgnadd _ a _ => vCode a
  | .kx _ => true
  | .kxw _ => true
  | .fadd _ d _ _ => destCode d
  | .fsub _ d _ _ => destCode d
  | .fmul _ d _ _ => destCode d
  | .fmin _ d _ _ => destCode d
  | .fmax _ d _ _ => destCode d
  | .fabs _ d _ => destCode d
  | .fneg _ d _ => destCode d
  | .fcls _ d _ => destCode d
  | .fminm _ d _ _ => destCode d
  | .fmaxm _ d _ _ => destCode d
  | .frnd _ d _ => destCode d
  | .fscl _ d _ _ => destCode d
  | .fcpy _ d _ _ => destCode d
  | .ffma _ d _ _ => destCode d
  | .ffms _ d _ _ => destCode d
  | .fnma _ d _ _ => destCode d
  | .fcmpEq _ d _ _ => destCode d
  | .fcmpNe _ d _ _ => destCode d
  | .fcmpLt _ d _ _ => destCode d
  | .fcmpLe _ d _ _ => destCode d
  | .fcmpGt _ d _ _ => destCode d
  | .fcmpGe _ d _ _ => destCode d
  | .fcmpUn _ d _ _ => destCode d
  | .fcmpOrd _ d _ _ => destCode d
  | .cvt _ d _ => destCode d
  | .cvtz _ d _ => destCode d
  | .cvts _ d _ => destCode d
  | .pack2 _ d _ _ => destCode d
  | .unpk _ d _ => destCode d
  | .unpkh _ d _ => destCode d
  | .nrw _ d a b x _ => spanCode d && spanCode a && (decide (x = 1#1) || decide (b = 0#7))
  | .wide _ d a _ => destCode d && spanCode a
  | .wide4 _ d a _ => spanCode d && spanCode a
  | .scaleof _ d a => destCode d && spanCode a
  | .setsc _ d _ => spanCode d
  | .shfl _ d _ _ _ => destCode d
  | .shflx _ d _ _ _ => destCode d
  | .shflu _ d _ _ _ => destCode d
  | .shfld _ d _ _ _ => destCode d
  | .bcst _ d _ _ _ => destCode d
  | .qswz _ d _ _ _ => destCode d
  | .ballot _ d _ _ => pairDest d
  | .vote _ d _ _ => destCode d
  | .redadd _ d _ _ => destCode d
  | .redmin _ d _ _ => destCode d
  | .redmax _ d _ _ => destCode d
  | .redand _ d _ _ => destCode d
  | .redor _ d _ _ => destCode d
  | .redxor _ d _ _ => destCode d
  | .scanadd _ d _ _ => destCode d
  | .scanaddx _ d _ _ => destCode d
  | .rcp _ d _ k => destCode d && tokenCode k
  | .rsq _ d _ k => destCode d && tokenCode k
  | .sqrt _ d _ k => destCode d && tokenCode k
  | .exp2 _ d _ k => destCode d && tokenCode k
  | .log2 _ d _ k => destCode d && tokenCode k
  | .sin _ d _ k => destCode d && tokenCode k
  | .cos _ d _ k => destCode d && tokenCode k
  | .tanh _ d _ k => destCode d && tokenCode k
  | .sigm _ d _ k => destCode d && tokenCode k
  | .erf _ d _ k => destCode d && tokenCode k
  | .silu _ d _ k => destCode d && tokenCode k
  | .atan _ d _ k => destCode d && tokenCode k
  | .sfnResult _ _ _ => true
  | .mma _ _ a b _ _ => spanCode a && spanCode b
  | .mmat _ _ a _ _ _ => spanCode a
  | .mmatSp _ _ a _ _ _ => spanCode a
  | .aclr _ _ _ _ => true
  | .amovr _ _ a _ _ => spanCode a
  | .amovw _ _ a _ _ => spanCode a
  | .ascl _ _ a _ _ => spanCode a
  | .matrixComplete _ _ => true
  | .ld _ d a _ _ => destCode d && pairCode a
  | .st _ _ a _ _ => pairCode a
  | .ldv _ d a _ _ => destCode d && pairCode a
  | .ldx _ d a _ _ _ _ => spanCode d && pairCode a
  | .stx _ d a _ _ _ => spanCode d && pairCode a
  | .loadWriteback _ _ _ => true
  | .atomAdd _ d a c _ => destCode d && pairCode a && scopeCode c
  | .atomMin _ d a c _ => destCode d && pairCode a && scopeCode c
  | .atomMax _ d a c _ => destCode d && pairCode a && scopeCode c
  | .atomMinn _ d a c _ => destCode d && pairCode a && scopeCode c
  | .atomMaxn _ d a c _ => destCode d && pairCode a && scopeCode c
  | .atomAnd _ d a c _ => destCode d && pairCode a && scopeCode c
  | .atomOr _ d a c _ => destCode d && pairCode a && scopeCode c
  | .atomXor _ d a c _ => destCode d && pairCode a && scopeCode c
  | .atomXchg _ d a c _ => destCode d && pairCode a && scopeCode c
  | .atomCas _ d a c _ => spanCode d && pairCode a && scopeCode c
  | .atomFadd _ d a c _ => destCode d && pairCode a && scopeCode c
  | .atomIncw _ d a c _ => destCode d && pairCode a && scopeCode c
  | .atomFmin _ d a c _ => destCode d && pairCode a && scopeCode c
  | .fput _ d a c _ => pairSpan d && pairCode a && scopeCode c
  | .fputT _ d a c _ => pairSpan d && pairCode a && scopeCode c
  | .ftake _ d a c _ => pairSpan d && pairCode a && scopeCode c
  | .ftakeN _ d a c _ => pairSpan d && pairCode a && scopeCode c
  | .fpeek _ d a c _ => pairSpan d && pairCode a && scopeCode c
  | .fclr _ a c _ => pairCode a && scopeCode c
  | .fenceAcq _ _ c => fenceScope c
  | .fenceRel _ _ c => fenceScope c
  | .fenceAr _ _ c => fenceScope c
  | .fenceSc _ _ c => fenceScope c
  | .pref _ a _ => pairCode a
  | .pref2 _ a _ => pairCode a
  | .clock1 _ d a _ => destCode d && pairCode a
  | .clock2 _ d a _ => destCode d && pairCode a
  | .cunlk1 _ a _ => pairCode a
  | .cunlk2 _ a _ => pairCode a
  | .cwb _ a _ => pairCode a
  | .cinv _ a _ => pairCode a
  | .cwbinv _ a _ => pairCode a
  | .isync _ _ => true
  | .copy _ _ a q u _ => spanCode a && (decide (u = 1#1) || decide (q = 0#3))
  | .ccvt _ _ a q u _ => spanCode a && (decide (u = 1#1) || decide (q = 0#3))
  | .csum _ _ a q u _ => spanCode a && (decide (u = 1#1) || decide (q = 0#3))
  | .cfill _ _ a q u _ => spanCode a && (decide (u = 1#1) || decide (q = 0#3))
  | .agath _ _ a _ _ _ => spanCode a
  | .astp _ d a _ _ => spanCode d && pairCode a
  | .astpAck _ _ => true
  | .copySectorDeliver _ => true
  | .copyComplete _ => true
  | .togenL _ d _ => pairDest d
  | .togenS _ d _ => pairDest d
  | .togenC _ d _ => pairDest d
  | .fromgenL _ d a => destCode d && pairCode a
  | .fromgenS _ d a => destCode d && pairCode a
  | .fromgenC _ d a => destCode d && pairCode a
  | .isspc _ d a => destCode d && pairCode a
  | .bra _ _ => true
  | .call _ _ => true
  | .brw _ a _ => uniCode a
  | .brwz _ a _ => uniCode a
  | .brd _ _ _ => true
  | .jmpi _ a => uniCode a
  | .ret _ => true
  | .calli _ a => uniCode a
  | .missSplit _ _ => true
  | .rcv _ _ => true
  | .rcvW _ => true
  | .rcvDeadline _ _ => true
  | .fusedead _ => true
  | .endW _ => true
  | .trap _ _ => true
  | .bkpt _ _ => true
  | .eret _ => true
  | .yield _ d => wCode d
  | .role _ r => decide (r ≠ 3#2)
  | .sleep _ _ => true
  | .sleepExpiry _ _ => true
  | .ifW _ _ i => decide (i ≠ 0#14)
  | .ifS _ _ i => decide (i ≠ 0#14)
  | .elseW _ i => decide (i ≠ 0#14)
  | .endif _ => true
  | .loops _ i => decide (i ≠ 0#14)
  | .brk _ _ i => decide (i ≠ 0#14)
  | .cont _ _ i => decide (i ≠ 0#14)
  | .endls _ i => decide (i ≠ 0#14)
  | .loop _ a i => uniCode a && decide (i ≠ 0#14)
  | .lexit _ a => uniCode a
  | .waitt _ _ => true
  | .wpwait _ a _ => pairCode a
  | .dwait _ a _ => pairCode a
  | .vwait _ _ _ => true
  | .sleepw _ a => pairCode a
  | .sleepwExpiry _ _ => true
  | .bar _ a _ => uniCode a
  | .barp _ a _ => uniCode a
  | .bara _ a _ => uniCode a
  | .barw _ _ => true
  | .barb _ a _ => wOrK a
  | .cstg _ a => uniCode a
  | .phaseResume _ => true
  | .dinit _ _ a _ => pairCode a
  | .dexp _ _ a _ => pairCode a
  | .darr _ _ a _ => pairCode a
  | .dqry _ d a _ => destCode d && pairCode a
  | .time _ d => pairDest d
  | .pmcrd _ d n => pairDest d && decide (n.toNat < 6)
  | .pmcwr _ d n => pairCode d && decide (n.toNat < 4)
  | .accv _ d _ => destCode d
  | .wprd _ d _ => pairDest d
  | .cycle _ d => pairDest d
  | .launch _ d a _ => destCode d && pairCode a
  | .launchb _ d a _ => destCode d && pairCode a
  | .enqr _ d a _ => spanCode d && pairCode a
  | .rqflush _ d a _ => destCode d && pairCode a
  | .rqstat _ d a _ => destCode d && pairCode a
  | .evpost _ _ _ _ => true
  | .cpoll _ d _ _ => spanCode d
  | .csleep _ d _ _ => spanCode d
  | .signal _ d a _ => pairCode d && pairCode a
  | .csleepTimeout _ _ => true
  | .qfetch _ d _ => vCode d
  | .qdisp _ d _ _ => pairCode d
  | .swaitc _ d _ c => vCode d && decide (c ≠ 3#2)
  | .keyopGen _ _ _ _ => true
  | .keyopBind _ _ _ _ => true
  | .keyopUnbind _ _ _ _ => true
  | .keyopZero _ _ _ _ => true
  | .keyopZeroall _ _ _ _ => true
  | .keyopSign _ d _ _ => vCode d
  | .fuserd _ d _ => destCode d
  | .wipe _ _ => true
  | .wipeComplete _ => true
  | .shadow _ _ _ => true
  | .measx _ d _ => vCode d
  | .shadowExchange _ => true
  | .xpair _ d a _ _ _ _ _ => pairReg d && pairSpan a
  | .xpairEmit _ => true
  | .xpairComplete _ => true
  | .xray _ d a _ _ _ => spanCode d && pairSpan a
  | .xrayComplete _ _ => true
  | .texSample _ d a _ _ => spanCode d && pairSpan a
  | .texGath4 _ d a _ _ => spanCode d && pairSpan a
  | .texLoadi _ d a _ _ => spanCode d && pairSpan a
  | .texQuery _ d a _ _ => spanCode d && pairSpan a
  | .cover _ d a _ => pairSpan d && pairSpan a
  | .edge _ d a => pairSpan d && spanCode a
  | .pxtk _ d a => destCode d && pairCode a
  | .pxlk _ a _ => pairCode a
  | .pxul _ a _ => pairCode a
  | .vemit _ d a => destCode d && spanCode a
  | .tsemit _ d a => destCode d && spanCode a
  | .tessellate _ => true
  | .primitiveRelease _ => true
  | .rasterLaunch _ _ => true
  | .atr _ d a _ => pairSpan d && pairCode a
  | .atw _ d a _ => pairSpan d && pairCode a
  | .tlbinv _ _ a _ => pairCode a
  | .tlbinva _ _ _ => true
  | .pageWalk _ _ _ _ _ => true
  | .issueArbitration _ => true
  | .agemaxReached _ _ => true
  | .workgroupPlace _ => true
  | .weightClassUpdate _ _ _ => true
  | .budgetExceeded _ => true
  | .predlExpiry _ => true
  | .hardwareSave _ => true
  | .gridComplete _ => true
  | .packetFetch _ => true
  | .launchPacket _ _ => true
  | .bundle _ _ => true
  | .draw _ _ => true
  | .copysched _ _ => true
  | .signalPacket _ _ => true
  | .waitsig _ _ => true
  | .waitsigPoll _ _ => true
  | .waitsigTimeout _ _ => true
  | .swaitcTimeout _ _ => true
  | .timestamp _ _ => true
  | .eventPacket _ _ => true
  | .qbarrier _ _ => true
  | .configAgemax _ _ => true
  | .configPredl _ _ => true
  | .configLkquota _ _ => true
  | .configL2Ways _ _ => true
  | .configLlcWays _ _ => true
  | .partctlPreempt _ _ => true
  | .partctlSwapout _ _ => true
  | .partctlSwapin _ _ => true
  | .partctlWipe _ _ => true
  | .partctlKeybind _ _ => true
  | .partctlKeyzero _ _ => true
  | .eventHoldmax _ => true
  | .msixSend _ => true
  | .qtailWrite _ _ => true
  | .queueEnable _ => true
  | .queueDisable _ => true
  | .queueStopped _ => true
  | .queueReset _ => true
  | .queueResetComplete _ => true
  | .eqlostRead _ => true
  | .trlostRead _ => true
  | .frackWrite _ _ => true
  | .spanEnable => true
  | .spanDisable => true
  | .capWrite _ _ => true
  | .registerWrite _ _ => true
  | .fwload _ => true
  | .attest _ => true
  | .challenge _ => true
  | .unlock _ => true
  | .relock _ => true
  | .setpriv _ => true
  | .lifecycle _ => true
  | .partdef _ => true
  | .partundef _ => true
  | .ctxdef _ => true
  | .ctxundef _ => true
  | .nonceExpiry => true
  | .stop _ => true
  | .resume _ => true
  | .step _ => true
  | .rdreg _ => true
  | .wrreg _ => true
  | .drop _ => true
  | .bpen _ => true
  | .report _ => true
  | .memrd _ => true
  | .memwr _ => true
  | .traceSummaryTimer _ => true
  | .replayPass _ => true
  | .scrubPass _ _ _ _ => true
  | .coreRetire _ _ => true
  | .pseudoChannelFail _ _ => true
  | .pseudoChannelCopyDone _ _ => true
  | .coreThermalTrip _ _ => true
  | .coreThermalRecover _ _ => true
  | .packageThermalTrip _ _ => true
  | .droopStretch _ _ => true
  | .powerWindow _ _ => true
  | .fullReset _ => true
  | .flitRetry _ => true
  | .spanPortDown _ => true
  | .spanDownSvcreq _ => true
  | .peerRequest _ _ _ _ => true
  | .cxlmemRead _ => true
  | .cxlmemWrite _ _ => true
  | .writePerformed _ _ => true
  | .frheadWrite _ _ => true
  | .provisioning => true
  | .droopStretchEnd _ => true
  | .spanPortTrained _ _ => true
  | .hostSnoop _ => true
  | .msixUnmask _ => true

end Sys2Proof
end

