-- ==== Sys2Proof/Tests/Slice0.lean ====
section
/-! SUPPORT. The model's own tests: ill-formed terms, words written bit by bit, one step, and states that meet the hypotheses of the
statements. Expected results come from the rules named. -/

set_option Elab.async false
set_option maxRecDepth 100000

namespace Sys2Proof.Tests

open Sys2Proof Sys2Proof.Machine Sys2Proof.Safety

/-! ## Ill-formed terms are refused: one for each check -/

theorem test_wf_dest_lane : (Instr.iadd false 0x79#7 0#7 1#7).wellFormed = false := by decide
theorem test_wf_dest_k : (Instr.fadd false 0x7A#7 0#7 1#7).wellFormed = false := by decide
theorem test_wf_dest_quadix : (Instr.mov false 0x7B#7 0#7).wellFormed = false := by decide
theorem test_wf_pair_dest_odd : (Instr.add64 false 3#7 0#7 2#7).wellFormed = false := by decide
theorem test_wf_pair_source_odd : (Instr.add64 false 4#7 1#7 2#7).wellFormed = false := by decide
theorem test_wf_span_uniform : (Instr.ldx false 0x60#7 2#7 0#1 0#2 3#4 0#4).wellFormed = false := by decide
theorem test_wf_pair_span_odd : (Instr.texSample false 8#7 3#7 0#4 0#4).wellFormed = false := by decide
theorem test_wf_pair_register : (Instr.xpair false 0x78#7 2#7 0#1 0#1 0#1 0#1 0#4).wellFormed = false := by decide
theorem test_wf_direct_vector : (Instr.qfetch false 0x7C#7 0#10).wellFormed = false := by decide
theorem test_wf_w_code : (Instr.yield false 0x78#7).wellFormed = false := by decide
theorem test_wf_uniform_source : (Instr.brw false 5#7 0#18).wellFormed = false := by decide
theorem test_wf_w_or_k : (Instr.barb false 0x78#7 0#14).wellFormed = false := by decide
theorem test_wf_scope_zero : (Instr.atomAdd false 6#7 2#7 0#3 0#4).wellFormed = false := by decide
theorem test_wf_scope_six : (Instr.fput false 6#7 2#7 6#3 0#4).wellFormed = false := by decide
theorem test_wf_fence_scope : (Instr.fenceRel false 0#1 6#3).wellFormed = false := by decide
theorem test_wf_token : (Instr.rcp false 6#7 2#7 14#4).wellFormed = false := by decide
theorem test_wf_rounding : (Instr.modeRnd false 5#3).wellFormed = false := by decide
theorem test_wf_split : (Instr.modeSpl false 3#2).wellFormed = false := by decide
theorem test_wf_role : (Instr.role false 3#2).wellFormed = false := by decide
theorem test_wf_if_zero : (Instr.ifW false 0x60#7 0#14).wellFormed = false := by decide
theorem test_wf_loops_zero : (Instr.loops false 0#14).wellFormed = false := by decide
theorem test_wf_pmcrd : (Instr.pmcrd false 2#7 6#3).wellFormed = false := by decide
theorem test_wf_pmcwr : (Instr.pmcwr false 2#7 4#3).wellFormed = false := by decide
theorem test_wf_swaitc : (Instr.swaitc false 2#7 0#12 3#2).wellFormed = false := by decide
theorem test_wf_nrw_unused : (Instr.nrw false 2#7 8#7 1#7 0#1 0#2).wellFormed = false := by decide
theorem test_wf_copy_unused : (Instr.copy false 2#7 8#7 1#3 0#1 0#4).wellFormed = false := by decide
theorem test_wf_good : (Instr.nrw false 2#7 8#7 1#7 1#1 0#2).wellFormed = true := by decide

/-! ## Words written bit by bit: B, MAJ and the fields of R73, R74 and the encodings of each family -/

/-- The three-register format of R73: B, MAJ, D, A, Bf, F. -/
def reg3 (z : BitVec 1) (maj : BitVec 6) (d a b : BitVec 7) (f : BitVec 4) : Word := z ++ maj ++ d ++ a ++ b ++ f

theorem test_decode_nop : decode 0x80000000#32 = .ok (.nop true) := by decide
theorem test_decode_iadd : decode (reg3 0#1 0x01#6 9#7 2#7 3#7 0#4) = .ok (.iadd false 9#7 2#7 3#7) := by decide
theorem test_decode_clz : decode (reg3 0#1 0x02#6 5#7 4#7 0#7 0#4) = .ok (.clz false 5#7 4#7) := by decide
theorem test_decode_idot4 : decode (reg3 0#1 0x03#6 5#7 4#7 6#7 2#4) = .ok (.idot4 false 5#7 4#7 6#7) := by decide
theorem test_decode_icmp : decode (reg3 1#1 0x04#6 5#7 4#7 6#7 6#4) = .ok (.icmpLtn true 5#7 4#7 6#7) := by decide
theorem test_decode_lea8 : decode (reg3 0#1 0x05#6 6#7 2#7 10#7 5#4) = .ok (.lea8 false 6#7 2#7 10#7) := by decide
theorem test_decode_fadd : decode (reg3 0#1 0x06#6 6#7 2#7 10#7 0#4) = .ok (.fadd false 6#7 2#7 10#7) := by decide
theorem test_decode_fnma : decode (reg3 0#1 0x07#6 3#7 1#7 2#7 2#4) = .ok (.fnma false 3#7 1#7 2#7) := by decide
theorem test_decode_fcmp : decode (reg3 0#1 0x08#6 3#7 1#7 2#7 7#4) = .ok (.fcmpOrd false 3#7 1#7 2#7) := by decide
theorem test_decode_cvtz : decode (reg3 0#1 0x09#6 3#7 1#7 0#7 1#4) = .ok (.cvtz false 3#7 1#7) := by decide
theorem test_decode_nrw : decode (reg3 0#1 0x0A#6 3#7 8#7 2#7 0xA#4) = .ok (.nrw false 3#7 8#7 2#7 1#1 2#2) := by decide
theorem test_decode_wide : decode (reg3 0#1 0x0B#6 3#7 8#7 2#7 0#4) = .ok (.wide false 3#7 8#7 2#7) := by decide
theorem test_decode_shfl : decode (reg3 0#1 0x0C#6 3#7 8#7 2#7 8#4) = .ok (.shfl false 3#7 8#7 2#7 1#1) := by decide
theorem test_decode_redadd : decode (reg3 0#1 0x0D#6 3#7 8#7 0#7 8#4) = .ok (.redadd false 3#7 8#7 1#1) := by decide
theorem test_decode_rcp : decode (0#1 ++ 0x0E#6 ++ 3#7 ++ 8#7 ++ 0#3 ++ 13#4 ++ 0#4) = .ok (.rcp false 3#7 8#7 13#4) := by decide
theorem test_decode_sigm : decode (0#1 ++ 0x0F#6 ++ 3#7 ++ 8#7 ++ 0#3 ++ 1#4 ++ 0#4) = .ok (.sigm false 3#7 8#7 1#4) := by decide
theorem test_decode_mma : decode (0#1 ++ 0x10#6 ++ 5#3 ++ 8#7 ++ 16#7 ++ 9#4 ++ 2#4) = .ok (.mma false 5#3 8#7 16#7 9#4 2#4) := by decide
theorem test_decode_mmat : decode (0#1 ++ 0x11#6 ++ 5#3 ++ 8#7 ++ 0#1 ++ 16#6 ++ 9#4 ++ 2#4) = .ok (.mmat false 5#3 8#7 16#6 9#4 2#4) := by decide
theorem test_decode_aclr : decode (0#1 ++ 0x12#6 ++ 5#3 ++ 0#14 ++ 9#4 ++ 2#4) = .ok (.aclr false 5#3 9#4 2#4) := by decide
theorem test_decode_stx : decode (0#1 ++ 0x13#6 ++ 8#7 ++ 2#7 ++ 0#1 ++ 3#2 ++ 7#4 ++ 1#4) = .ok (.stx false 8#7 2#7 3#2 7#4 1#4) := by decide
theorem test_decode_ld : decode (reg3 0#1 0x14#6 8#7 2#7 0x78#7 3#4) = .ok (.ld false 8#7 2#7 0x78#7 3#4) := by decide
theorem test_decode_st : decode (reg3 0#1 0x15#6 8#7 2#7 0x7A#7 3#4) = .ok (.st false 8#7 2#7 0x7A#7 3#4) := by decide
theorem test_decode_ldv : decode (reg3 0#1 0x16#6 8#7 2#7 5#7 3#4) = .ok (.ldv false 8#7 2#7 5#7 3#4) := by decide
theorem test_decode_ldx : decode (0#1 ++ 0x17#6 ++ 8#7 ++ 2#7 ++ 1#1 ++ 2#2 ++ 15#4 ++ 1#4) = .ok (.ldx false 8#7 2#7 1#1 2#2 15#4 1#4) := by decide
theorem test_decode_atom : decode (0#1 ++ 0x18#6 ++ 8#7 ++ 2#7 ++ 1#3 ++ 9#4 ++ 0#4) = .ok (.atomCas false 8#7 2#7 1#3 0#4) := by decide
theorem test_decode_fput : decode (0#1 ++ 0x19#6 ++ 8#7 ++ 2#7 ++ 4#3 ++ 0#4 ++ 0#4) = .ok (.fput false 8#7 2#7 4#3 0#4) := by decide
theorem test_decode_fence : decode (0#1 ++ 0x1A#6 ++ 0#14 ++ 1#1 ++ 0#3 ++ 5#3 ++ 0#4) = .ok (.fenceAcq false 1#1 5#3) := by decide
theorem test_decode_pref : decode (0#1 ++ 0x1B#6 ++ 0#7 ++ 2#7 ++ 0#7 ++ 4#4) = .ok (.pref false 2#7 4#4) := by decide
theorem test_decode_copy : decode (0#1 ++ 0x1C#6 ++ 3#7 ++ 8#7 ++ 6#3 ++ 1#1 ++ 0#3 ++ 2#4) = .ok (.copy false 3#7 8#7 6#3 1#1 2#4) := by decide
theorem test_decode_agath : decode (0#1 ++ 0x1D#6 ++ 3#7 ++ 8#7 ++ 6#4 ++ 1#3 ++ 2#4) = .ok (.agath false 3#7 8#7 6#4 1#3 2#4) := by decide
theorem test_decode_astp : decode (0#1 ++ 0x1E#6 ++ 3#7 ++ 8#7 ++ 0#3 ++ 1#4 ++ 2#4) = .ok (.astp false 3#7 8#7 1#4 2#4) := by decide
theorem test_decode_togen : decode (reg3 0#1 0x1F#6 4#7 3#7 0#7 0#4) = .ok (.togenL false 4#7 3#7) := by decide
theorem test_decode_bra : decode (1#1 ++ 0x20#6 ++ 0x1FFFFFF#25) = .ok (.bra true 0x1FFFFFF#25) := by decide
theorem test_decode_call : decode (0#1 ++ 0x21#6 ++ 9#25) = .ok (.call false 9#25) := by decide
theorem test_decode_brw : decode (0#1 ++ 0x22#6 ++ 0x61#7 ++ 0x3FFFF#18) = .ok (.brw false 0x61#7 0x3FFFF#18) := by decide
theorem test_decode_brwz : decode (0#1 ++ 0x23#6 ++ 0x61#7 ++ 5#18) = .ok (.brwz false 0x61#7 5#18) := by decide
theorem test_decode_brd : decode (0#1 ++ 0x24#6 ++ 11#7 ++ 5#18) = .ok (.brd false 11#7 5#18) := by decide
theorem test_decode_jmpi : decode (0#1 ++ 0x25#6 ++ 0x77#7 ++ 0#18) = .ok (.jmpi false 0x77#7) := by decide
theorem test_decode_if : decode (0#1 ++ 0x26#6 ++ 7#7 ++ 3#14 ++ 0#4) = .ok (.ifW false 7#7 3#14) := by decide
theorem test_decode_loop : decode (0#1 ++ 0x27#6 ++ 0x62#7 ++ 3#14 ++ 0#4) = .ok (.loop false 0x62#7 3#14) := by decide
theorem test_decode_rcv : decode (0#1 ++ 0x28#6 ++ 0#7 ++ 100#14 ++ 0#4) = .ok (.rcv false 100#14) := by decide
theorem test_decode_trap : decode (0#1 ++ 0x29#6 ++ 0#7 ++ 0x2A#14 ++ 1#4) = .ok (.trap false 0x2A#14) := by decide
theorem test_decode_mode : decode (0#1 ++ 0x2A#6 ++ 0#17 ++ 6#4 ++ 0#4) = .ok (.modeEt false 6#4) := by decide
theorem test_decode_sread : decode (0#1 ++ 0x2B#6 ++ 4#7 ++ 0x13#14 ++ 0#4) = .ok (.sread false 4#7 0x13#14) := by decide
theorem test_decode_rgn : decode (0#1 ++ 0x2C#6 ++ 4#7 ++ 0x2003#14 ++ 0#4) = .ok (.rgn false 4#7 0x2003#14) := by decide
theorem test_decode_waitt : decode (0#1 ++ 0x2D#6 ++ 0#7 ++ 0x3FFF#14 ++ 0#4) = .ok (.waitt false 0x3FFF#14) := by decide
theorem test_decode_bar : decode (0#1 ++ 0x2E#6 ++ 0x78#7 ++ 0#10 ++ 15#4 ++ 0#4) = .ok (.bar false 0x78#7 15#4) := by decide
theorem test_decode_dinit : decode (0#1 ++ 0x2F#6 ++ 3#7 ++ 8#7 ++ 0#7 ++ 2#4) = .ok (.dinit false 3#7 8#7 2#4) := by decide
theorem test_decode_time : decode (0#1 ++ 0x30#6 ++ 4#7 ++ 0#18) = .ok (.time false 4#7) := by decide
theorem test_decode_launch : decode (0#1 ++ 0x31#6 ++ 3#7 ++ 8#7 ++ 0#7 ++ 2#4) = .ok (.launch false 3#7 8#7 2#4) := by decide
theorem test_decode_enqr : decode (0#1 ++ 0x32#6 ++ 8#7 ++ 2#7 ++ 0#7 ++ 2#4) = .ok (.enqr false 8#7 2#7 2#4) := by decide
theorem test_decode_evpost : decode (0#1 ++ 0x33#6 ++ 3#7 ++ 8#7 ++ 0#7 ++ 2#4) = .ok (.evpost false 3#7 8#7 2#4) := by decide
theorem test_decode_xpair :
    decode (0#1 ++ 0x34#6 ++ 4#7 ++ 8#7 ++ 0#3 ++ 0#1 ++ 1#1 ++ 0#1 ++ 1#1 ++ 2#4) = .ok (.xpair false 4#7 8#7 0#1 1#1 0#1 1#1 2#4) := by decide
theorem test_decode_xray : decode (0#1 ++ 0x35#6 ++ 4#7 ++ 8#7 ++ 0#5 ++ 1#1 ++ 0#1 ++ 2#4) = .ok (.xray false 4#7 8#7 1#1 0#1 2#4) := by decide
theorem test_decode_tex : decode (0#1 ++ 0x36#6 ++ 4#7 ++ 8#7 ++ 0#3 ++ 12#4 ++ 2#4) = .ok (.texSample false 4#7 8#7 12#4 2#4) := by decide
theorem test_decode_cover : decode (reg3 0#1 0x37#6 4#7 8#7 3#7 0#4) = .ok (.cover false 4#7 8#7 3#7) := by decide
theorem test_decode_atr : decode (0#1 ++ 0x38#6 ++ 4#7 ++ 8#7 ++ 0#7 ++ 2#4) = .ok (.atr false 4#7 8#7 2#4) := by decide
theorem test_decode_qfetch : decode (0#1 ++ 0x39#6 ++ 16#7 ++ 0#4 ++ 1023#10 ++ 0#4) = .ok (.qfetch false 16#7 1023#10) := by decide
theorem test_decode_kxw : decode (0#1 ++ 0x3E#6 ++ 0#18 ++ 0x55#7) = .ok (.kxw 0x55#7) := by decide
theorem test_decode_kx : decode (0#1 ++ 0x3F#6 ++ 0x1234567#25) = .ok (.kx 0x1234567#25) := by decide

/-- What the encoder gives for an instruction is the word written out. -/
theorem test_encode_lea8 : encode (.lea8 false 6#7 2#7 10#7) = some 0x0A1810A5#32 := by decide
theorem test_event_has_no_word : encode (.sfnResult 0 0 0) = none := by decide

/-! ## Small states -/

/-- Rows of per-lane values of a vector register: the register's number and the value of each lane. -/
def rows (xs : List (Nat × (Nat → Nat))) : Cells Word :=
  xs.flatMap fun x => (List.range 16).map fun l => (64 * x.1 + l, BitVec.ofNat 32 (x.2 l))

/-- One resident wave of 16 lanes whose part holds the port, with a MODE word and vector registers, its part and wave changed. -/
noncomputable def at0 (m : Nat) (v : List (Nat × (Nat → Nat))) (g : Part → Part) (f : Wave → Wave) : State :=
  let s := { State.reset.withFetchWord 32 0 with agenda := [], focus := some 0, runs := [(0, { wave := 0, q := 0 })] }
  s.modWave 0 fun w => f { w with v := rows v, parts := w.parts.map fun p => g { p with mode := BitVec.ofNat 32 m } }

/-- The same with nothing changed. -/
noncomputable def at1 (m : Nat) (v : List (Nat × (Nat → Nat))) : State := at0 m v id id

/-- Every lane of the wave has executed END. -/
def idle (w : Wave) : Wave := { w with ended := List.range 16 }

/-- A word is ready in a state and its condition holds there, as a Bool. -/
def sat (s : State) (g : Ctx → Sig) (P : Ctx → Bool := fun _ => true) : Bool :=
  match issueCtx false s with
  | none => false
  | some c =>
    (guardHits c).isEmpty && !guardPoison c && !tooNarrow c (g c) && !c.act.isEmpty && (checkSig c (g c)).isNone && (boardHits c (g c)).isEmpty &&
      !touchesLost c (g c) && !readsPoison c.w c.act (g c).opds && P c

/-- What `sat` says: the hypotheses of the statements about words. -/
theorem ready_of_sat (s : State) (g : Ctx → Sig) (P : Ctx → Bool) (h : sat s g P = true) : ∃ c, Ready false s c (g c) ∧ P c = true := by
  unfold sat at h
  split at h
  · cases h
  · rename_i c hc
    simp only [Bool.and_eq_true, Bool.not_eq_true', List.isEmpty_iff, List.isEmpty_eq_false_iff, Option.isNone_iff_eq_none] at h
    obtain ⟨⟨⟨⟨⟨⟨⟨⟨h1, h2⟩, h3⟩, h4⟩, h5⟩, h6⟩, h7⟩, h8⟩, h9⟩ := h
    exact ⟨c, ⟨hc, h1, h2, h3, h4, h5, h6, h7, h8⟩, h9⟩

/-- The same, with a condition on the state in which the word takes its effect. -/
def satAt (s : State) (g : Ctx → Sig) (P : Ctx → State → Bool) : Bool := sat s g fun c => P c (begun c (g c) s)

/-- Every signature of a list is ready in a state. -/
def sats (s : State) (gs : List (Ctx → Sig)) : Bool := gs.all fun g => sat s g

/-- The part holds the port, its guard can be read, and a condition holds: the hypotheses of a word that is not checked. -/
def holds (s : State) (P : Ctx → Bool) : Bool :=
  match issueCtx false s with
  | none => false
  | some c => (guardHits c).isEmpty && !guardPoison c && P c

/-- The same, with a condition on the state that follows. -/
def holdsAt (s : State) (P : Ctx → State → Bool) : Bool := holds s fun c => P c (begun c noSig s)

/-- The accesses of a memory word are granted, no store of its wave is due before it, and no byte that it reads is poisoned. -/
def satMem (s : State) (g : Ctx → Sig) (reqs : Ctx → List Req) (align : Ctx → Nat) (acc : Acc) (extra : State → Ctx → Req → Bool)
    (Q : Ctx → State → List (Nat × Places) → Bool := fun _ _ _ => true) : Bool :=
  sat s g fun c =>
    let t := begun c (g c) s
    match memAccess c.w (reqs c) (align c) acc (extra t c) t with
    | .ok u ps => !(ps.any fun x => placesPoisoned u x.2) && (takeWaits c (c.act ++ blockLanes c.p.q c.p.n)).isEmpty && Q c u ps
    | _ => false

/-- What `satMem` says: the word is ready and its accesses are granted. -/
theorem granted_of_satMem (s : State) (g : Ctx → Sig) (reqs : Ctx → List Req) (align : Ctx → Nat) (acc : Acc) (extra : State → Ctx → Req → Bool)
    (Q : Ctx → State → List (Nat × Places) → Bool) (h : satMem s g reqs align acc extra Q = true) :
    ∃ c u ps, Ready false s c (g c) ∧ Granted c.w (reqs c) (align c) acc (extra (begun c (g c) s) c) (begun c (g c) s) u ps ∧
      takeWaits c (c.act ++ blockLanes c.p.q c.p.n) = [] ∧ (ps.any fun x => placesPoisoned u x.2) = false ∧ Q c u ps = true := by
  obtain ⟨c, hc, h⟩ := ready_of_sat s g _ h
  dsimp only at h
  split at h
  · next u ps hm =>
    simp only [Bool.and_eq_true, Bool.not_eq_true', List.isEmpty_iff] at h
    exact ⟨c, u, ps, hc, (Laws.memAccess_ok_iff ..).1 hm, h.1.2, h.1.1, h.2⟩
  · cases h

/-! ## Words that compute in registers -/

theorem witness_IntegerResults :
    ((List.range 16).all fun f => sats (at1 1 []) [ialuSig f 8#7 2#7 4#7] && sats (at1 4 []) [ialuSig f 0x60#7 2#7 0x78#7]) = true := by decide

theorem witness_BitResults :
    ((List.range 14).all fun f => sats (at1 2 []) [ibitSig f 8#7 2#7 4#7, ibitSig f 0x78#7 2#7 0x60#7]) = true := by decide

theorem witness_MultiplyAddAndCompareResults :
    sats (at1 2 []) ((List.range 4).map (fun f => imadSig f 8#7 2#7 4#7) ++ [icmpSig 8#7 2#7 4#7]) = true ∧
    sats (at1 5 []) [imadSig 0 8#7 2#7 4#7, icmpSig 0x60#7 2#7 0x78#7] = true := by decide

theorem witness_AddressResults : sats (at1 0 []) ((List.range 10).map (fun f => addrSig f 8#7 2#7 4#7) ++ [fun _ => { maj := 0 }]) = true := by decide

theorem witness_FloatResults :
    ((List.range 13).all fun f => sats (at1 3 []) [faluSig f 8#7 2#7 4#7] && sats (at1 6 []) [faluSig f 8#7 2#7 4#7]) = true := by decide

theorem witness_FusedAndFloatCompares :
    (sats (at1 3 []) [ffmaSig 8#7 2#7 4#7, fcmpSig 8#7 2#7 4#7] && sats (at1 7 []) [ffmaSig 8#7 2#7 4#7, fcmpSig 8#7 2#7 4#7]) = true := by decide

theorem witness_ConversionResults :
    sats (at1 0x13 []) [cvtSig 8#7 2#7] = true ∧ sats (at1 0x38 []) [pack2Sig 8#7 2#7 4#7] = true ∧ sats (at1 0x73 []) [unpkSig 8#7 2#7] = true ∧
    sats (at1 3 []) [nrwSig 8#7 40#7 4#7 1#1 2#2, nrwSig 8#7 40#7 0#7 0#1 0#2,
      fun _ => { maj := 0x0B, opds := [wr 8#7, rdSpan 16#7 1] },
      fun _ => { maj := 0x0B, opds := [{ rdSpan 8#7 1 with dst := true }, rd 4#7] }] = true ∧
    sats (at1 0xB3 []) [wideSig 8#7 16#7 4#7, wide4Sig 8#7 16#7 4#7] = true := by decide

theorem witness_ShuffleResults :
    ([0#1, 1#1].all fun p => sat (at1 1 []) (shflSig 8#7 2#7 4#7 p)
      fun c => (domainHits c (rdW (etWide (modeEtOf c.p.mode)) 2#7)).isEmpty && !readsPoison c.w (domainLanes c) [rdW (etWide (modeEtOf c.p.mode)) 2#7]) = true ∧
    (sat (at1 1 []) (fun c => { maj := 0x0C, opds := [wrW true 8#7, rd 2#7], minQuads := some (c.w.width / 4) })
      fun c => (domainHits c (rd 2#7)).isEmpty && !readsPoison c.w (domainLanes c) [rd 2#7]) = true := by decide

theorem witness_ReductionResults :
    ((List.range 8).all fun f => sat (at1 1 []) (wredSig f 8#7 2#7 0#1)
      fun c => (domainHits c (rdW false 2#7)).isEmpty && !readsPoison c.w (domainLanes c) [rdW false 2#7]) = true ∧
    holds (at1 1 [(2, fun l => l * l)]) (fun c => !c.act.isEmpty && etInt (modeEtOf c.p.mode)) = true := by decide

theorem witness_SpecialFunctionIssue :
    satAt (at1 3 []) (sfnSig false 8#7 2#7 13#4) (fun c u => sfnQueued u (quarterOf c.key) + c.p.n ≤ 64) = true ∧
    satAt (at1 7 []) (sfnSig true 8#7 2#7 0#4) (fun c u => sfnQueued u (quarterOf c.key) + c.p.n ≤ 64) = true := by decide

/-- Sixteen words of four quads fill the queue. -/
theorem witness_SpecialFunctionIssue_full :
    satAt (at0 3 [] (fun p => { p with pend := (List.range 16).map fun i =>
      { id := 100 + i, kind := .sfn 0, window := 0, vals := [], uvals := [], bq := 0, bn := 4, ulane := 0, lanes := [], quads := [0, 1, 2, 3] } }) id)
      (sfnSig false 8#7 2#7 13#4) (fun c u => ¬ sfnQueued u (quarterOf c.key) + c.p.n ≤ 64) = true := by decide

theorem witness_PrefixAndModeWords :
    holds (at1 0 []) (fun c => c.p.prefixK.isNone && c.p.prefixPc.isNone && !c.act.isEmpty) = true ∧
    holds (at0 0 [] (fun p => { p with prefixHi := some 0x55#32, prefixPc := some 0#32 }) id) (fun c => c.p.prefixK.isNone && c.p.prefixPc.isSome && !c.act.isEmpty) = true ∧
    holds (at0 0 [] (fun p => { p with prefixK := some 1#32, prefixPc := some 0#32 }) id) (fun c => c.p.prefixK.isSome && !c.act.isEmpty) = true ∧
    holds (at0 0 [] id fun w => { w with ended := List.range 16 }) (fun c => c.act.isEmpty) = true ∧
    holds (at0 0 [] id idle) (fun c => c.act.isEmpty && modeOk 6#32 && (modeBeyond c.w 6#32).isNone && !modeOk 0x500#32) = true ∧
    ([6, 0x20, 0x400, 0x800, 0x1000, 0x2000 + 0x8000 * 95, 0x400000 * 0x60, 0x80000000, 0x20000000].all fun m =>
      sat (at1 0 []) (fun _ => { maj := 0x2A, badMode := !modeOk (BitVec.ofNat 32 m) }) fun c => (modeBeyond c.w (BitVec.ofNat 32 m)).isNone) = true ∧
    sat (at1 0 [(8, fun _ => 3)]) (fun _ => { maj := 0x2A, opds := [rd 8#7] })
      (fun c => modeOk (c.read 8#7 c.l0) && (modeBeyond c.w (c.read 8#7 c.l0)).isNone) = true := by decide

theorem witness_RegisterAccessWords :
    ([0x00, 0x13, 0x26, 0x2A, 0x33].all fun e =>
      sat (at1 0 []) fun _ => { maj := 0x2B, badField := !selListed e, opds := [wrW (selWide e) 8#7] }) = true ∧
    ([0x13, 0x16, 0x20, 0x21, 0x22, 0x23, 0x24, 0x30, 0x33].all fun e =>
      sat (at1 0 []) fun _ => { maj := 0x2B, badField := !selWritable e, opds := [rdW (selWide e) 8#7] }) = true ∧
    sats (at1 0 []) [fun _ => { maj := 0x2B, opds := [wr 8#7] }, fun _ => { maj := 0x2B, opds := [rd 8#7] },
      fun _ => { maj := 0x2B, opds := [rw_ false 0x61#7] }] = true ∧
    sat (at1 0 []) (rgnSig 80#7) (fun c => (markedRegs 80#7 0x3FFF#14).all fun r => decide (r < c.w.regs)) = true := by decide

/-- Format words of MMA (S8 by S8), MMAT and ASCL, in the register that FREG names. -/
noncomputable def tileState (et fmt : Nat) (t : Tile) : State :=
  at0 (et + 0x400000 * 90) [(90, fun _ => fmt)] id fun w => { w with tiles := t :: w.tiles.drop 1 }

theorem witness_MatrixWords_mma :
    sat (tileState 0 0 {}) (mmaSig 0#3 8#7 24#7) (fun c => (c.w.tile 0).va == 0 && decide ((c.w.tile 0).ops.length < 8) &&
      (fmtTrap .mma c 0 0).isNone && ((rdSpan 8#7 (rowRegs (bitsOf (fmtWord c) 3 0))).bound c.w c.act).isNone &&
      ((rdSpan 24#7 (rowRegs (bitsOf (fmtWord c) 7 4))).bound c.w c.act).isNone && (fixTrap c 0 0 false).isNone) = true := by decide

theorem witness_MatrixWords_mmat :
    ([false, true].all fun sp => sat { tileState 0 0x141 {} with dev := { (tileState 0 0x141 {}).dev with b0 := true } }
      (fun c => { mmatSig 0#3 8#7 32#6 c with badStep := sp && !c.b0 })
      fun c => (c.w.tile 0).va == 0 && (fmtTrap .mmat c 0 0).isNone && (fixTrap c 0 0 true).isNone &&
        (scaleTrap c 0 0 (c.act.map fun l => (l, tRow c 8#7 l)) (c.act.map fun l => (l, natOfWords (c.readSpan 32#7 5 l)))).isNone) = true := by decide

theorem witness_MatrixWords_tile :
    sat (tileState 0 0 {}) (mtileSig 0#3 false []) (fun c => (c.w.tile 0).va == 0 && decide ((c.w.tile 0).ops.length < 8)) = true ∧
    ([mtileSig 0#3 false [wrSpan 8#7 16], mtileSig 0#3 false [rdSpan 8#7 16], mtileSig 0#3 (!asclEt 3) [rd 90#7, wrSpan 8#7 16]].all fun g =>
      sat (tileState 3 0 { shape := { width := 16 } }) g fun c => (c.w.tile 0).va == 0 && decide ((c.w.tile 0).ops.length < 8) && (widthTrap c 0 0).isNone &&
        (fmtTrap .ascl c 0 0).isNone) = true := by decide

theorem witness_MatrixWords_version :
    ([[], [{ id := 1, counts := true, elems := [], clears := false }]].all fun ops =>
      [mmaSig 0#3 8#7 32#7, mmatSig 0#3 8#7 32#6, mtileSig 0#3 false [], mtileSig 0#3 false [wrSpan 8#7 16], mtileSig 0#3 false [rdSpan 8#7 16],
          mtileSig 0#3 (!asclEt 3) [rd 90#7, wrSpan 8#7 16]].all fun g =>
        sat (tileState 3 0 { ops := ops, va := 2 }) g fun c => (c.w.tile 0).va != 3 && ((c.w.tile 0).ops == ops)) = true := by decide

/-! ## Words that access memory -/

/-- Addresses in v2 and v3: an offset for each lane, under a high word. -/
noncomputable def mem0 (m hi : Nat) (lo : Nat → Nat) : State := at1 m [(2, lo), (3, fun _ => hi)]

theorem witness_LoadsAndStores :
    satMem (mem0 1 0 fun l => 4 * l) (loadSig 0x14 8#7 2#7 0x78#7) (fun c => laneReqs c (fun k => (c.read64 false 2#7 k).toNat) 4) (fun _ => 4)
      accRead (fun _ _ => noExtra) = true ∧
    satMem (mem0 1 0 fun l => 4096 + 4 * l) (fun c => { maj := 0x15, opds := [rdW (etWide (modeEtOf c.p.mode)) 8#7, rdAddr 2#7, rd 0x78#7] })
      (fun c => laneReqs c (fun k => (c.read64 false 2#7 k).toNat) 4) (fun _ => 4) accWrite (fun _ _ => noExtra) = true ∧
    satMem (mem0 0 0 fun l => 64 * l) (fun _ => { maj := 0x17, opds := [wrSpan 8#7 16, rdAddr 2#7] })
      (fun c => laneReqs c (fun k => (c.read64 false 2#7 k).toNat) 64) (fun _ => 1) accRead (fun _ _ => noExtra) = true ∧
    satMem (mem0 0 0 fun l => 64 * l + 1) (fun _ => { maj := 0x13, opds := [rdSpan 8#7 16, rdAddr 2#7] })
      (fun c => laneReqs c (fun k => (c.read64 false 2#7 k).toNat) 64) (fun _ => 1) accWrite (fun _ _ => noExtra) = true := by decide

theorem witness_StoreFrame :
    ¬ coversByte [(0, [(0, 4, Place.byte .hbm 64 0 false)])] .hbm 68 ∧
    (∀ x ∈ [(0, [(0, 4, Place.byte .hbm 64 0 false)])], ∀ y ∈ x.2, ∀ m a k, y.2.2 ≠ Place.byte m a k true) := by
  refine ⟨?_, ?_⟩
  · rintro ⟨x, hx, off, n, a0, tag, r, hy, h1, h2⟩
    simp only [List.mem_singleton] at hx
    subst hx
    simp only [List.mem_singleton, Prod.mk.injEq, Place.byte.injEq] at hy
    omega
  · intro x hx y hy m a k
    simp only [List.mem_singleton] at hx
    subst hx
    simp only [List.mem_singleton] at hy
    subst hy
    simp

theorem witness_AtomicWords :
    ((List.range 13).all fun op => satMem (mem0 (if op = 10 ∨ op = 12 then 3 else 1) 0 fun _ => 64) (atomSig op 8#7 2#7 4#3)
      (fun c => laneReqs c (eaPair c 2#7) 4) (fun _ => 4) accAtomic (fun s c => peerScope s c.w 4)) = true := by decide

theorem witness_FutureWords :
    ([(2, 3), (2, 2), (0, 2), (0, 3), (0, 0)].all fun x => satMem (mem0 0 0 fun l => 64 + 16 * l) (futSig 8#7 2#7 4#3 x.1 x.2)
      (fun c => laneReqs c (eaPair c 2#7) 16) (fun _ => 16) accAtomic (fun s c => peerScope s c.w 4)) = true := by decide

/-- FPUT.T meets only empty cells, or a full one; FTAKE meets only full cells, or an empty one. -/
theorem witness_FutureWords_cells :
    satMem (mem0 0 0 fun l => 64 + 16 * l) (futSig 8#7 2#7 4#3 2 2) (fun c => laneReqs c (eaPair c 2#7) 16) (fun _ => 16) accAtomic
      (fun s c => peerScope s c.w 4) (fun c u ps => (fputTLanes c 8#7 4 u ps).2 == none) = true ∧
    satMem (mem0 0 0 fun _ => 64) (futSig 8#7 2#7 4#3 2 2) (fun c => laneReqs c (eaPair c 2#7) 16) (fun _ => 16) accAtomic
      (fun s c => peerScope s c.w 4) (fun c u ps => (fputTLanes c 8#7 4 u ps).2 == some 1) = true ∧
    satMem (mem0 0 0 fun _ => 64) (futSig 8#7 2#7 4#3 0 2) (fun c => laneReqs c (eaPair c 2#7) 16) (fun _ => 16) accAtomic
      (fun s c => peerScope s c.w 4) (fun c u ps => !(ftakeLanes c 8#7 2#7 4 u ps).2.2.isEmpty) = true ∧
    satMem { at0 0 [(2, fun _ => 64)] id (fun w => { w with ended := (List.range 16).drop 1 }) with hbm := State.reset.hbm.writeN 0 (bytesOfNat 4 0 ++ List.replicate 60 0#8 ++ List.replicate 8 7#8 ++ [1#8]) |>.writeN 65536 (bytesOfNat 8 0xF00F) }
      (futSig 8#7 2#7 4#3 0 2) (fun c => laneReqs c (eaPair c 2#7) 16) (fun _ => 16) accAtomic
      (fun s c => peerScope s c.w 4) (fun c u ps => (ftakeLanes c 8#7 2#7 4 u ps).2.2.isEmpty) = true := by decide

theorem witness_FenceAndCacheWords :
    sat (at1 0 []) (fun _ => { maj := 0x1A, badField := decide (6 ≤ (5#3).toNat) }) (fun c => c.p.engines.isEmpty) = true ∧
    sat (at0 0 [] (fun p => { p with engines := [3] }) id) (fun _ => { maj := 0x1A, badField := decide (6 ≤ (0#3).toNat) })
      (fun c => c.p.engines == [3]) = true ∧
    holds (at0 0 [] id fun w => { w with ended := List.range 16 }) (fun c => c.act.isEmpty && c.p.engines.isEmpty) = true ∧
    sats (at1 0 []) [cacheSig [rdAddr 2#7], cacheSig []] = true ∧
    satMem (mem0 0 0 fun l => 128 * l) (cacheSig [rdAddr 2#7]) (fun c => laneReqs c (eaPair c 2#7) 1) (fun _ => 1) accDrop (fun _ _ => noExtra) = true ∧
    satMem (mem0 0 0 fun l => 128 * l) (cacheSig [wr 8#7, rdAddr 2#7]) (fun c => laneReqs c (eaPair c 2#7) 1) (fun _ => 1) accRead
      (fun _ _ => noExtra) = true := by decide

/-- A lane of the part sleeps on an FTAKE: the words that are a release by the part wait for it. -/
noncomputable def asleep (s : State) : State :=
  s.modPart 0 0 fun p => { p with pend := [{ id := 9, kind := .load, window := 0, vals := [], uvals := [], bq := 0, bn := 4, ulane := 0, lanes := [],
                                             sleepers := [{ lane := 15, reg := 90, ea := 64, places := [], scope := 4 }] }] }

theorem witness_FenceAndCacheWords_asleep :
    sat (asleep (at1 0 [])) (fun _ => { maj := 0x1A }) (fun c => takeWaits c (blockLanes c.p.q c.p.n) == [9] && c.p.engines.isEmpty) = true := by decide

/-- A page table whose second leaf maps an aperture of device 2 onto its memory. -/
noncomputable def peerState : State :=
  let s := mem0 0 0xFFC08000 fun l => 64 * l
  { s with hbm := s.hbm.writeN (65536 + 8 * 4128) (bytesOfNat 8 0xFC0F) }

theorem witness_SpaceAndPeerWords :
    sats (at1 0 []) [fun _ => { maj := 0x1F, opds := [wrW true 8#7, rd 2#7] }, fun _ => { maj := 0x1F, opds := [wr 8#7, rdAddr 2#7] }] = true ∧
    satMem peerState (fun _ => { maj := 0x1E, opds := [rdSpan 8#7 16, rdAddr 2#7] }) (fun c => laneReqs c (eaPair c 2#7) 64) (fun _ => 4) accWrite
      (fun s c => notPeer s c.w) = true := by decide

/-! ## Words that start requests -/

/-- A descriptor in v40 to v45: the high word of the source, its low word, the length, the control word; the destination is 0x2000. -/
noncomputable def copyState (hi lo len ctl : Nat) : State :=
  at1 0 [(40, fun _ => lo), (41, fun _ => hi), (42, fun _ => 0x2000), (44, fun _ => len), (45, fun _ => ctl)]

/-- The channel's FIFO is full. -/
noncomputable def fullChannel (s : State) : State :=
  let o : Owner := { partition := 0, ctx := 0, ctrl := false, grid := 1, wg := 2, core := 0, width := 16, lane := 0, localBase := 0, localSize := 0 }
  { s with copies := (List.range 16).map fun i => (100 + i, mkCopy o 0 0 0 0 0 none 0 0 false false) }

/-- What a request of function `fn` comes to: the shape, the offending address, the two alignments, and room. -/
def copyCase (s : State) (fn : Nat) (c : Ctx) : Option (Nat × Nat × Nat) × Option Nat × Bool × Bool :=
  let w := fun i => (c.readAt 40#7 i c.l0).toNat
  let src := w 0 + 2 ^ 32 * w 1
  let sh := copyShape fn (w 5) (w 4)
  let t := sh.getD (0, 1, 1)
  (sh, copySpace s (ownerOf s c.w c.l0) fn src (w 2) (w 4) t.1 (w 5), decide (fn = 3 ∨ src % t.2.1 = 0), decide (chLoad s 0 (w 5 % 16) < 16))

/-- The signature of a copy word with its descriptor in v40. -/
def copySig (_ : Ctx) : Sig := { maj := 0x1C, badField := decide (0#1 = 0#1 ∧ 0#3 ≠ 0#3), opds := [rd 4#7, rdSpan 40#7 6] }

theorem witness_CopyRequestWords_shape :
    satAt (copyState 0 0x1000 64 0x10) copySig (fun c u => (copyCase u 0 c).1 == none) = true := by decide
theorem witness_CopyRequestWords_outside :
    satAt (copyState 0x40000000 0 64 0) copySig (fun c u => copyCase u 0 c == (some (64, 1, 1), some (2 ^ 62), true, true)) = true := by decide
theorem witness_CopyRequestWords_misaligned :
    satAt (copyState 0 0x1001 64 0x330) copySig (fun c u => copyCase u 1 c == (some (64, 4, 4), none, false, true)) = true := by
  decide
theorem witness_CopyRequestWords_room :
    ([(0, 0, 64), (1, 0x330, 64), (2, 0x30, 256), (3, 0, 64)].all fun x =>
      satAt (copyState 0 0x1000 64 x.2.1) copySig fun c u => (copyCase u x.1 c).1.map (·.1) == some x.2.2 && (copyCase u x.1 c).2 == (none, true, true)) = true ∧
    satAt (fullChannel (copyState 0 0x1000 64 0)) copySig (fun c u => copyCase u 0 c == (some (64, 1, 1), none, true, false)) = true := by decide

theorem witness_CopyRequestWords_asleep :
    satAt (asleep (copyState 0 0x1000 64 0)) copySig (fun c u => copyCase u 0 c == (some (64, 1, 1), none, true, true) &&
      takeWaits c (blockLanes c.p.q c.p.n) == [9]) = true := by decide

/-- An AGATH descriptor in v40 to v47: ROWB, IDXR, DOFF. -/
noncomputable def gatherState (rowb idxr doff : Nat) : State :=
  at1 0 [(42, fun _ => rowb), (43, fun _ => 8), (44, fun _ => idxr), (45, fun _ => doff)]

/-- Whether the row size, the index register and the control word are accepted, and the offending address. -/
def gatherCase (s : State) (c : Ctx) : Bool × Option Nat :=
  let w := fun i => (c.readAt 40#7 i c.l0).toNat
  (rowbOk (w 2) 0 && decide (w 4 < 0x60) && agathCtlOk (w 7), agathSpace s (ownerOf s c.w c.l0) (w 5) (w 6) 2 (w 2) (w 7))

theorem witness_GatherAndStageWords :
    let sig : Ctx → Sig := fun _ => { maj := 0x1D, opds := [rd 4#7, rdSpan 40#7 8] }
    satAt (gatherState 0 8 0) sig (fun c u => !(gatherCase u c).1) = true ∧
    satAt (gatherState 16 95 0) sig (fun c u => (gatherCase u c).1 && decide (c.w.regs < 95 + 2)) = true ∧
    satAt (gatherState 16 94 4080) sig (fun c u => gatherCase u c == (true, some (2 ^ 40 + 2 ^ 32 + 4111))) = true ∧
    satAt (gatherState 16 94 4064) sig (fun c u => gatherCase u c == (true, none) && decide (chLoad u 0 0 < 16)) = true ∧
    satAt (at1 0 []) (fun _ => { maj := 0x2E, opds := [{ code := 0x60#7, allow := .uni }] }) (fun c u => (kget u.wgs c.w.wg).isSome) = true := by
  decide

/-! ## Transfers of control -/

/-- Uniform registers with values from w0 up. -/
def uni (xs : List Nat) (p : Part) : Part := { p with w := (xs.map fun x => { val := BitVec.ofNat 32 x, bn := 4 }) ++ p.w.drop xs.length }

/-- w23 holds a value. -/
def link (x : Nat) (p : Part) : Part := { p with w := p.w.take 23 ++ [{ val := BitVec.ofNat 32 x, bn := 4 }] }

/-- The wave's part has been split: the issuing half, and the other. -/
def halved (w : Wave) : Wave := { w with parts := w.parts.flatMap fun p => [{ p with n := 2 }, { p with q := 2, n := 2 }] }

/-- The signature of the words of a major that read one uniform register. -/
def uniSig (maj : Nat) (_ : Ctx) : Sig := { maj := maj, opds := [{ code := 0x60#7, allow := .uni }] }

theorem witness_BranchWords :
    sats (at1 0 []) [fun _ => { maj := 0x20 }, fun _ => { maj := 0x21, opds := [wr 0x77#7] }] = true ∧
    ([0, 8].all fun x => [0x22, 0x23].all fun m => sat (at0 0 [] (uni [x]) id) (uniSig m) fun c => c.read 0x60#7 0 == BitVec.ofNat 32 x) = true ∧
    ([6, 8].all fun x => sats (at0 0 [] (uni [x]) id) [uniSig 0x25, fun _ => { maj := 0x25, opds := [{ code := 0x60#7, allow := .uni }, wr 0x77#7] }] &&
      sat (at0 0 [] (link x) id) (fun _ => { maj := 0x25, opds := [rd 0x77#7] }) fun c => c.read 0x77#7 0 == BitVec.ofNat 32 x) = true ∧
    holds (at0 0 [] id idle) (fun c => c.act.isEmpty) = true := by decide

/-- What BRD finds: a quad whose active lanes disagree, and the outcome of each quad. -/
def brdCase (c : Ctx) : Bool × List Bool :=
  let cond := fun l => decide (c.read 8#7 l ≠ 0#32)
  ((List.range 4).any fun k => (c.act.filter fun l => l / 4 = k).any cond && (c.act.filter fun l => l / 4 = k).any fun l => !cond l,
    (List.range 4).map (quadOut c cond))

theorem witness_BranchWords_brd :
    ([((fun l => l), true, [true, true, true, true]), ((fun _ => 1), false, [true, true, true, true]), ((fun _ => 0), false, [false, false, false, false]),
        ((fun l => l / 4), false, [false, true, true, true])].all fun x =>
      sat (at1 0 [(8, x.1)]) (fun _ => { maj := 0x24, opds := [rd 8#7] }) fun c => brdCase c == x.2) = true := by decide

theorem witness_ReceiveWords :
    ([id, idle].all fun f => holds (at0 0 [] id f) fun c => 4 * c.p.n == c.w.width) = true ∧
    ([id, idle].all fun f => holds (at0 0 [] id (f ∘ halved)) fun c => 4 * c.p.n != c.w.width) = true ∧
    sat (at0 0 [] id halved) (fun _ => { maj := 0x28 }) (fun c => 4 * c.p.n != c.w.width && !blockEnded c.w (buddyOf c.p.q c.p.n) c.p.n) = true ∧
    sat (at0 0 [] (fun p => { p with recs := [{ addr := 0#32, side := true }] }) halved) (fun _ => { maj := 0x26 })
      (fun c => c.p.recs.head?.any (fun r => decide (r.addr = c.p.pc)) && !blockEnded c.w (buddyOf c.p.q c.p.n) c.p.n) = true := by decide

/-- A debugger is attached and the context's breakpoints stop. -/
noncomputable def debugged : State :=
  let s := at1 0 []
  { s with dev := { s.dev with dbgOpen := true }, contexts := kput s.contexts 0 { root := 65536, bkpt := true } }

/-- The part is in a handler, entered with a cause, with a return PC, and with w2 set. -/
noncomputable def inHandler (cause pc w2 : Nat) : State :=
  at0 0 [] (fun p => { uni [0, 0, w2] p with handler := true, entry := cause, trappc := BitVec.ofNat 32 pc }) id

theorem witness_SystemWords_idle :
    ([6, 8].all fun x => holds { inHandler 1 x 0 with waves := (inHandler 1 x 0).waves.map fun e => (e.1, idle e.2) } fun c =>
      c.act.isEmpty && c.p.handler && returnPc c.p == BitVec.ofNat 32 x) = true := by decide

theorem witness_SystemWords :
    let ysig : Ctx → Sig := fun _ => { maj := 0x29, opds := [{ code := 0x62#7, allow := .wOnly }] }
    sats (at1 0 []) [fun _ => { maj := 0x29 }, fun _ => { maj := 0x29, badField := decide ((2#2 : BitVec 2) = 3#2) }] = true ∧
    sat debugged (fun _ => { maj := 0x29 }) (fun c => debugged.dev.dbgOpen && (debugged.ctx c.w.partition c.w.ctx).bkpt) = true ∧
    sat (at1 0 []) (fun _ => { maj := 0x29 }) (fun c => !(at1 0 []).dev.dbgOpen && !c.p.handler) = true ∧
    ([6, 8].all fun x => sat (inHandler 1 x 0) (fun _ => { maj := 0x29 }) fun c => c.p.handler && returnPc c.p == BitVec.ofNat 32 x) = true ∧
    sat (at1 0 []) ysig (fun c => !c.p.handler) = true ∧
    ([6, 8].all fun x => sat (inHandler 0x15 0 x) ysig fun c => c.p.handler && c.p.entry == 0x15 && c.read 0x62#7 0 == BitVec.ofNat 32 x &&
      !tokenPending c.p 0x3FFF && !raysPending c.p) = true := by decide

/-- YIELD while a special-function result or a ray is pending. -/
theorem witness_SystemWords_yield :
    let ysig : Ctx → Sig := fun _ => { maj := 0x29, opds := [{ code := 0x62#7, allow := .wOnly }] }
    [(PendKind.sfn 0, true), (.load, false)].all (fun x =>
      sat ((inHandler 0x15 0 8).modPart 0 0 fun p => { p with pend :=
        [{ id := 9, kind := x.1, window := 0, vals := [(0, 50, 0#32)], uvals := [], bq := 0, bn := 4, ulane := 0, lanes := [0] }] }) ysig
        fun c => c.p.handler && c.p.entry == 0x15 && c.read 0x62#7 0 == 8#32 && tokenPending c.p 0x3FFF == x.2 && raysPending c.p == !x.2) = true := by
  decide

/-! ## Structured control -/

/-- NEST of every lane. -/
def nested (n : Nat) (w : Wave) : Wave := { w with nest := (List.range 16).map fun l => (l, n) }

/-- The signature of a structured word whose condition is in v8. -/
def ifSig (_ : Ctx) : Sig := { maj := 0x26, badField := (3#14 : BitVec 14) = 0#14, opds := [rd 8#7] }

/-- The signature of a structured word without a condition. -/
def structSig (_ : Ctx) : Sig := { maj := 0x26, badField := (3#14 : BitVec 14) = 0#14 }

/-- No lane is active once the NEST counters are changed. -/
def noneAfter (s : State) (f : Ctx → Nat → Nat → Nat) (c : Ctx) : Bool := noneActive c (nestState c (f c) s)

/-- Whether IF.S may split, and no counter stands at a limit. -/
def ifCase (limit : Nat) (c : Ctx) : Bool × Bool := (ifsSplits 8#7 c, ((liveLanes c.w c.p).find? fun l => decide (limit ≤ c.w.nestOf l)).isNone)

theorem witness_StructuredWords_if :
    let opens : Ctx → Nat → Nat → Nat := fun c l n => if 0 < n then n + 1 else if c.act.contains l && !decide (c.read 8#7 l ≠ 0#32) then 1 else n
    let deep := fun w : Wave => { w with nest := [(15, 63)] }
    sat (at0 0 [] id deep) ifSig (fun c => ifCase 63 c == (false, false)) = true ∧
    ([0, 1].all fun x => satAt (at1 0 [(8, fun _ => x)]) ifSig fun c u =>
      ifCase 63 c == (false, true) && noneAfter u opens c == decide (x = 0)) = true ∧
    sat (at1 0x40000000 [(8, fun l => l / 8)]) ifSig (fun c => ifCase 63 c == (true, true)) = true := by decide

theorem witness_StructuredWords_else :
    let flips : Ctx → Nat → Nat → Nat := fun c l n => if n = 1 then 0 else if n = 0 && c.act.contains l then 1 else n
    let recs := fun (side : Bool) (p : Part) => { p with recs := [{ addr := 12#32, side := side }] }
    satAt (at1 0 []) structSig (fun c u => noneAfter u flips c) = true ∧
    (let s := at0 0 [] id fun w => { w with nest := [(15, 1)] }
     satAt s structSig (fun c u => c.p.recs.isEmpty && !noneAfter u flips c) = true) ∧
    ([true, false].all fun b => sat (at0 0 [] (recs b) id) structSig fun c => c.p.recs.head?.any fun r => decide (r.addr = c.p.pc + 12#32)) = true := by decide

theorem witness_StructuredWords_loops :
    let again : Ctx → Nat → Nat → Nat := fun _ _ n => if n = 1 then 0 else n
    let onCond := fun (k : Nat) (c : Ctx) l n => if c.act.contains l && decide (c.read 8#7 l ≠ 0#32) then k else n
    sat (at0 0 [] id fun w => { w with nest := [(15, 62)] }) structSig (fun c => (ifCase 62 c).2 == false) = true ∧
    sat (at1 0 []) structSig (fun c => (ifCase 62 c).2) = true ∧
    ([1, 2].all fun k => [0, 1].all fun x => satAt (at1 0 [(8, fun _ => x)]) ifSig fun c u =>
      noneAfter u (onCond k) c == decide (x = 1)) = true ∧
    satAt (at1 0 []) structSig (fun c u => !noneAfter u again c) = true ∧
    sat (at1 0 []) (fun _ => { maj := 0x26 }) (fun c => c.p.recs.isEmpty) = true := by decide

/-- With no active lane: lanes masked at a NEST, with a record or none; whether any is active after a change. -/
theorem witness_StructuredWords_idle :
    let flips : Ctx → Nat → Nat → Nat := fun c l n => if n = 1 then 0 else if n = 0 && c.act.contains l then 1 else n
    let again : Ctx → Nat → Nat → Nat := fun _ _ n => if n = 1 then 0 else n
    let keep : Ctx → Nat → Nat → Nat := fun _ _ n => n
    let recs := fun (side : Bool) (p : Part) => { p with recs := [{ addr := 12#32, side := side }] }
    ([1, 2].all fun n => holdsAt (at0 0 [] id (nested n)) fun c u => c.act.isEmpty && c.p.recs.isEmpty &&
      noneAfter u flips c == decide (n = 2) && noneAfter u again c == decide (n = 2) && noneAfter u keep c) = true ∧
    ([true, false].all fun b => holds (at0 0 [] (recs b) (nested 1)) fun c => c.act.isEmpty &&
      c.p.recs.head?.any fun r => decide (r.addr = c.p.pc + 12#32)) = true := by decide

/-- Loop levels that are open. -/
def looped (n : Nat) (p : Part) : Part := { p with loops := List.replicate n { lc := 2#32, start := 4#32, stop := 16#32 } }

theorem witness_LoopWords_idle :
    ([(3, 2), (0, 0), (0, 2), (1, 0), (1, 2)].all fun x => holds (at0 0 [] (looped x.1 ∘ uni [x.2]) idle) fun c =>
      c.act.isEmpty && c.p.loops.length == x.1 && uniformSource c 0x60#7 && c.read 0x60#7 0 == BitVec.ofNat 32 x.2 &&
        (c.p.pend.filter (boardHit c.w [] [rd 0x60#7])).isEmpty) = true := by decide

theorem witness_LoopWords :
    let sig : Ctx → Sig := fun _ => { maj := 0x27, badField := (3#14 : BitVec 14) = 0#14, opds := [{ code := 0x60#7, allow := .uni }] }
    ([0, 2].all fun x => sat (at0 0 [] (looped 2 ∘ uni [x]) id) sig fun c => decide (c.p.loops.length < 3) && c.read 0x60#7 0 == BitVec.ofNat 32 x) = true ∧
    sat (at0 0 [] (looped 3) id) sig (fun c => decide (3 ≤ c.p.loops.length)) = true ∧
    sat (at1 0 []) (uniSig 0x27) (fun c => c.p.loops.isEmpty) = true ∧
    ([0, 2].all fun x => sat (at0 0 [] (looped 1 ∘ uni [x]) id) (uniSig 0x27) fun c => c.p.loops.getLast?.isSome && c.read 0x60#7 0 == BitVec.ofNat 32 x) = true := by
  decide

/-! ## Waits, barriers and counters -/

/-- A load in flight under a token's kind, or a plain one. -/
def pending (k : PendKind) : Pend := { id := 9, kind := k, window := 0, vals := [(0, 50, 0#32)], uvals := [], bq := 0, bn := 4, ulane := 0, lanes := [0] }

theorem witness_WaitWords :
    let sig : Ctx → Sig := fun _ => { maj := 0x2D, opds := [rdW true 2#7] }
    sat (at1 0 []) (fun _ => { maj := 0x2D }) (fun c => !tokenPending c.p 1) = true ∧
    sat (at0 0 [] (fun p => { p with pend := [pending (.sfn 0)] }) id) (fun _ => { maj := 0x2D }) (fun c => tokenPending c.p 1) = true ∧
    ([0, 1].all fun x => satAt (mem0 0 0 fun _ => x) sig fun c u =>
      decide (waitVal c 2#7 ≤ wpOf u c.w 3) == decide (x = 0) && decide (waitVal c 2#7 ≤ u.time) == decide (x = 0)) = true ∧
    satAt (mem0 0 257 fun _ => 128) sig (fun c u => match dbarAddr c u (waitVal c 2#7) with
      | .ok x => x == 128 && dbarPhase u x == false
      | _ => false) = true ∧
    ([(257, 64), (0, 128)].all fun x => satAt (mem0 0 x.1 fun _ => x.2) sig fun c u =>
      match dbarAddr c u (waitVal c 2#7) with | .error _ => true | _ => false) = true := by decide

theorem witness_WaitWords_tile :
    let sig : Ctx → Sig := fun c => { maj := 0x2D, badField := decide (c.w.tiles.length ≤ 0) }
    sat (tileState 0 0 { v := 2 }) sig (fun c => (c.w.tile 0).ops.isEmpty && (c.w.tile 0).v == 2) = true ∧
    sat (tileState 0 0 { ops := [{ id := 1, counts := true, elems := [], clears := false }] }) sig (fun c => !(c.w.tile 0).ops.isEmpty) = true ∧
    ([0x62#7, 2#7].all fun a => holdsAt (at0 0 [] id idle) fun c u => c.act.isEmpty && (c.p.pend.filter (boardHit c.w [] [rdW true a])).isEmpty &&
      decide (waitVal c a ≤ u.time) && (c.w.tile 0).ops.isEmpty) = true := by decide

theorem witness_BarrierWords_asleep :
    sat (asleep (at1 0 [])) (uniSig 0x2E) (fun c => takeWaits c (blockLanes c.p.q c.p.n) == [9] && !tokenPending c.p 0x3FFF) = true := by decide

/-- A workgroup whose barrier 5 has been reached by a wave's own key, or by another. -/
noncomputable def barState (e : Nat) (phased : Bool) (came : List Nat) : State :=
  let s := at0 0 [] (uni [e]) id
  { s with wgs := kmod (fun g => { g with waves := [0, 1], bars := if came = [] then [] else [(5, { waves := came })] }) s.wgs 2,
           grids := kmod (fun g => { g with launch := { g.launch with phased := phased } }) s.grids 1 }

/-- Whether the wave has arrived, whether its arrival completes the phase, and whether its grid is PHASED. -/
def barCase (s : State) (c : Ctx) : Bool × Bool × Bool :=
  let e := (c.read 0x60#7 0).toNat
  (hasArrived s c.w 5, decide (barPhase (completeBar c.w.wg 5 (arriveBar c.w.wg 5 e c.w c.p s)) c.w 5 ≠ barPhase s c.w 5),
   (kgetD {} s.grids c.w.grid).launch.phased)

theorem witness_BarrierWords :
    sat (barState 17 false []) (uniSig 0x2E) (fun c => decide (16 < (c.read 0x60#7 0).toNat)) = true ∧
    ([false, true].all fun ph => satAt (barState 2 ph [0]) (uniSig 0x2E) fun c u => (barCase u c).1 && (barCase u c).2.2 == ph && !tokenPending c.p 0x3FFF) = true ∧
    satAt (barState 1 false []) (uniSig 0x2E) (fun c u => barCase u c == (false, true, false)) = true ∧
    ([false, true].all fun ph => satAt (barState 2 ph []) (uniSig 0x2E) fun c u => barCase u c == (false, false, ph)) = true ∧
    sat { barState 2 true [] with waves := ((barState 2 true []).waves.map fun e => (e.1, { e.2 with parts := e.2.parts.map fun p => { p with pend := [pending (.sfn 0)] } })) }
      (uniSig 0x2E) (fun c => tokenPending c.p 0x3FFF) = true ∧
    sat (at1 0 []) (fun _ => { maj := 0x2E }) = true := by decide

theorem witness_BarrierWords_barb :
    ([0, 3, 2 ^ 24].all fun x => satAt (at0 0 [] (uni [x]) id) (fun _ => { maj := 0x2E, opds := [{ code := 0x60#7, allow := .wOnly }] }) fun c u =>
      decide (128 * 31 + 64 ≤ (kgetD {} u.grids c.w.grid).launch.scratch) && c.read 0x60#7 0 == BitVec.ofNat 32 x) = true ∧
    satAt (at1 0 []) (fun _ => { maj := 0x2E, opds := [{ code := 0x60#7, allow := .wOnly }] })
      (fun c u => !decide (128 * 32 + 64 ≤ (kgetD {} u.grids c.w.grid).launch.scratch)) = true := by decide

/-- An address in shared space and a value in v8; the header of the barrier there has COUNT 2. -/
noncomputable def dlvState (hi lo v : Nat) : State :=
  let s := at1 0 [(2, fun _ => lo), (3, fun _ => hi), (8, fun _ => v)]
  { s with spad := State.reset.spad.writeN 128 (bytesOfNat 4 2) }

/-- The barrier's address, and whether the value is one for DINIT and one for DEXP and DARR. -/
def dlvCase (s : State) (c : Ctx) : Option Nat × Bool × Bool :=
  let v := (c.read 8#7 c.l0).toNat
  match dbarAddr c s (c.read64 false 2#7 c.l0).toNat with
  | .ok x => (some x, decide (1 ≤ v ∧ v ≤ 8), decide (v < 2 ^ 27 ∧ v / 2 ^ 24 < spadNat s x 4 % 16))
  | .error _ => (none, false, false)

theorem witness_DeliveryAndCounterWords :
    ([(257, 128, 8, some 128, true, true), (257, 128, 9, some 128, false, true), (257, 128, 2 ^ 25, some 128, false, false),
        (257, 128, 2 ^ 24 + 5, some 128, false, true), (257, 64, 1, none, false, false), (0, 128, 1, none, false, false)].all fun x =>
      [[rd 8#7, rdAddr 2#7], [wr 8#7, rdAddr 2#7]].all fun os =>
        satAt (dlvState x.1 x.2.1 x.2.2.1) (fun _ => { maj := 0x2F, opds := os }) fun c u => dlvCase u c == x.2.2.2) = true ∧
    sats (at1 0 []) [fun _ => { maj := 0x30, badField := decide (5 < (5#3 : BitVec 3).toNat), opds := [wrW true 8#7] },
      fun c => { maj := 0x30, badField := decide (c.w.tiles.length ≤ 7), opds := [wr 8#7] }] = true ∧
    sat (at0 0 [] id fun w => { w with ctrl := true })
      (fun _ => { maj := 0x30, priv := some 2, badField := decide (3 < (3#3 : BitVec 3).toNat), opds := [rdW true 8#7] }) = true := by decide

/-! ## Launches and queues -/

theorem witness_LaunchWords :
    ([256, 64].all fun n => satMem (mem0 0 0 fun l => 4096 * l) (fun _ => { maj := 0x31, opds := [wr 8#7, rdAddr 2#7] })
      (fun c => laneReqs c (eaPair c 2#7) n) (fun _ => n) accRead (fun s c => notGlobal s c.w)) = true ∧
    (let s := at1 0 []
     (kgetD {} s.grids 1).depth ≠ 10 ∧ waitingChildren s 0 + 1 ≤ 4096 ∧ (submitAll 1 [64] s).2 = none ∧
       (kgetD {} (kput s.grids 1 { depth := 10 }) 1).depth = 10) := by decide

/-- A record queue bound at 0x8000 with records of 16 bytes. -/
noncomputable def rqState : State :=
  let s := mem0 0 0 fun _ => 0x8000
  { s with grids := kmod (fun g => { g with rqs := [{ addr := 0x8000 }] }) s.grids 1, hbm := s.hbm.writeN 0x8008 (bytesOfNat 4 16) }

theorem witness_RecordQueueWords :
    let sig := fun n (_ : Ctx) => ({ maj := 0x32, opds := [{ wrSpan (BitVec.ofNat 7 n) 1 with late := true }, rdAddr 2#7] } : Sig)
    satAt (mem0 0 0 fun _ => 0x8000) (sig 8) (fun c u => c.act.all fun k =>
      let o := enqSpan c 8#7 2#7 u k
      o.len == 1 && (o.bound c.w [k]).isNone && c.p.pend.isEmpty) = true ∧
    (findRq (mem0 0 0 fun _ => 0x8000) 0x8000 12 1 = none) ∧
    (findRq rqState 0x8000 12 1 = some (1, 0)) ∧
    sats (mem0 0 0 fun _ => 0x8000) [fun _ => { maj := 0x32, opds := [wr 8#7, rdAddr 2#7] },
      fun _ => { maj := 0x32, opds := [{ wr 8#7 with len := 2 }, rdAddr 2#7] }] = true := by decide

theorem witness_RecordQueueWords_span :
    let sig := fun n (_ : Ctx) => ({ maj := 0x32, opds := [{ wrSpan (BitVec.ofNat 7 n) 1 with late := true }, rdAddr 2#7] } : Sig)
    let span := fun (n : Nat) (c : Ctx) u k => enqSpan c (BitVec.ofNat 7 n) 2#7 u k
    satAt rqState (sig 8) (fun c u => c.act.all fun k => decide (1 < (span 8 c u k).len) && ((span 8 c u k).bound c.w [k]).isNone &&
      !readsPoison c.w [k] [{ span 8 c u k with src := true }]) = true ∧
    satAt rqState (sig 95) (fun c u => (c.act.find? (fun k => ((span 95 c u k).bound c.w [k]).isSome)) == some 0) = true := by decide

theorem witness_EventWords :
    let sig : Ctx → Sig := fun _ => { maj := 0x33, opds := [wrSpan 8#7 4, rd 4#7] }
    sats (at1 0 []) [fun _ => { maj := 0x33, opds := [rd 8#7, rd 4#7] }, sig] = true ∧
    sat { at1 0 [] with time := 5 } sig (fun c => !cqHas (at1 0 []) c.w.grid 0) = true ∧
    sat { at0 0 [] (fun p => { p with timeout := some 3 }) id with time := 5 } sig (fun c => c.p.timeout == some 3) = true ∧
    satMem (mem0 0 0 fun _ => 0x8000) (fun _ => { maj := 0x33, opds := [rdW true 8#7, rdAddr 2#7] })
      (fun c => [{ lane := c.l0, ea := eaPair c 2#7 c.l0, n := 8 }]) (fun _ => 8) accAtomic (fun s c => notMapped s c.w) = true := by decide

/-! ## Control mode -/

/-- A control wave. -/
def control (w : Wave) : Wave := { w with ctrl := true }

/-- A control wave's state with a queue, its packets in HBM, and with vector registers. -/
noncomputable def ctl0 (x : HostQueue) (v : List (Nat × (Nat → Nat))) (packet : Nat) : State :=
  let s := at0 0 v id control
  { s with queues := [(5, x)], hbm := s.hbm.writeN 0x10000 (bytesOfNat 8 0xF00F) |>.writeN 0x20000 (bytesOfNat 1 packet) }

/-- A queue that runs, with the packets up to a tail, in a ring at 0x20000. -/
def ring (tail : Nat) : HostQueue := { base := 0x20000, state := 1, en := true, tail := tail, part := 0 }

/-- The signature of QFETCH into v16 to v31. -/
def qfetchSig (_ : Ctx) : Sig := { maj := 0x39, priv := some 0, opds := [{ code := 16#7, len := 16, dst := true, src := false, allow := .vOnly }] }

theorem witness_QueueControlWords_qfetch :
    satAt (ctl0 {} [] 0) qfetchSig (fun _ u => (u.queue 5).state == 0) = true ∧
    satAt (ctl0 (ring 0) [] 0) qfetchSig (fun _ u => (u.queue 5).state == 1 && (u.queue 5).head == 0) = true ∧
    ([(0, false), (9, true)].all fun x => satAt (ctl0 (ring 1) [] x.1) qfetchSig fun _ s =>
      match packetBytes (s.modQueue 5 fun y => { y with head := 1 }) 5 0 with
      | none => false
      | some bs => match checkPacket 5 bs (s.modQueue 5 fun y => { y with head := 1 }) with
        | .ok _ _ => x.2
        | .bad _ r _ => !x.2 && r == 1) = true := by decide

/-- Grids of the host that wait in partition 0. -/
noncomputable def crowded : State :=
  let s := ctl0 {} [(2, fun _ => 0x3000)] 0
  { s with grids := s.grids ++ (List.range 1024).map fun i => (100 + i, { total := 1 }) }

/-- The signature of QDISP with its address in v2. -/
def qdispSig (_ : Ctx) : Sig := { maj := 0x39, priv := some 1, opds := [rdW true 2#7] }

/-- A launch record of 256 bytes that names a wave of 16 lanes, or one that names none. -/
noncomputable def dispState (hi : Nat) : State := ctl0 {} [(2, fun _ => 0x3000), (3, fun _ => hi)] 0

theorem witness_QueueControlWords_qdisp :
    satAt (dispState 0) qdispSig (fun _ u => (kget u.partitions 3).isNone) = true ∧
    satAt (dispState 0) qdispSig (fun _ u => (kget u.partitions 0).isSome && decide (hostWaiting u 0 < 1024) &&
      match (dispRecords 0 5 [0x3000] u).2 with | .error _ => true | .ok _ => false) = true ∧
    satAt crowded qdispSig (fun _ u => decide (1024 ≤ hostWaiting u 0)) = true := by decide

/-- A launch record that the dispatcher takes: a kernel of one wave of 16 lanes, in an object that is loaded. -/
noncomputable def goodState : State :=
  let rec_ := bytesOfNat 8 0x4000 ++ bytesOfNat 8 0 ++ bytesOfNat 4 1 ++ bytesOfNat 2 1 ++ bytesOfNat 2 1 ++ [16#8, 1#8, 8#8, 8#8, 0#8, 2#8]
  let k : Symbol := { name := [], bind := 1, kind := 1, value := 0, regs := 8, width := 16, waves := 1 }
  let s := dispState 0
  { s with hbm := (s.hbm.writeN 0x3000 rec_).writeN 0x3080 (bytesOfNat 4 0x10000),
           contexts := [(0, { root := 65536, fixed := true, objs := [{ id := 6, addr := 0x4000, gen := 0, used := 1, syms := [k, k], minregs := 8 }] })] }

theorem witness_QueueControlWords_admitted :
    satAt goodState qdispSig (fun _ u => match (dispRecords 0 5 [0x3000] u).2 with | .error _ => false | .ok ids => ids.length == 1) = true := by decide

theorem witness_QueueControlWords_swaitc :
    let sig : Ctx → Sig := fun _ => { maj := 0x39, priv := some 2, opds := [{ code := 4#7, len := 4, allow := .vOnly }], badField := decide ((0#2 : BitVec 2) = 3#2) }
    [(0, none), (1, none), (1, some 0)].all (fun x =>
      let s := { ctl0 {} [(4, fun _ => 0x3000), (6, fun _ => x.1)] 0 with time := 5 }
      let s := { s with waves := s.waves.map fun e => (e.1, { e.2 with parts := e.2.parts.map fun p => { p with timeout := x.2 } }) }
      satAt s sig fun c u => match memAccess c.w [{ lane := c.l0, ea := 0x3000, n := 8 }] 8 accRead noExtra u with
        | .ok u ps => signalMeets 0 (natOfBytes (readPlaces u .system (placesOf ps c.l0))) x.1 == decide (x.1 = 0)
        | _ => false) = true := by decide

/-- A key in slot 1, bound to partition 2. -/
noncomputable def keyState (xs : KMap KeySlot) (m : Part → Part) : State :=
  { at0 0 [] m control with keys := xs }

theorem witness_DeviceControlWords :
    let sig := fun (f : Nat) (os : List Opd) (_ : Ctx) => ({ maj := 0x39, priv := some f, opds := os } : Sig)
    let span : Nat → Bool → Bool → Opd := fun n dst src => { code := 8#7, len := n, dst := dst, src := src, allow := .vOnly }
    let s := fun xs => keyState xs id
    ([3, 5, 6].all fun f => sats (s []) [sig f []]) = true ∧
    sats (s []) [sig 4 [wr 8#7], sig 3 [span 49 true false, span 16 false true], sig 7 [span 16 false true]] = true ∧
    (s []).dev.key = true ∧
    (match keyBind 1 2 (s []) with | .error e => e == 0x45 | .ok _ => false) = true ∧
    (match keyBind 1 2 (s [(1, { key := some 7 })]) with | .error _ => false | .ok _ => true) = true ∧
    (match keyUnbind 1 2 (s [(1, { key := some 7, bound := some 2 })]) with | .error _ => false | .ok _ => true) = true ∧
    (match startWipe 3 (s []), startWipe 0 (s []) with | .error _, _ => true | _, _ => false) = true ∧
    holds (keyState [] fun p => { p with timeout := some 0 }) (fun c => c.p.timeout == some 0) = true := by decide

/-! ## Hierarchies, images, graphics and translation -/

/-- The operands of XPAIR in v40 to v55: the continuation's address, the queue, and a reserved word. -/
noncomputable def pairState (cont hi rq rsv : Nat) : State :=
  at1 0 [(40, fun _ => 0), (52, fun _ => cont), (53, fun _ => hi), (54, fun _ => rq), (55, fun _ => rsv)]

/-- The signature of XPAIR with its operands in v40. -/
def pairSig (c : Ctx) : Sig :=
  { maj := 0x34, badStep := decide ((0#1 : BitVec 1) = 1#1) && !c.b0, badField := decide ((0#1 : BitVec 1) = 1#1) && decide ((0#1 : BitVec 1) = 1#1),
    opds := [{ code := 8#7, len := 2, even := true, dst := true, src := false, allow := .reg }, { rdSpan 40#7 16 with even := true }] }

/-- Whether the descriptor has no reserved bit, and the trap of its bases. -/
def pairCase (u : State) (c : Ctx) : Bool × Bool :=
  let x := mkPairs c u 40#7 false false false false
  (decide (x.qmask < 65536) && decide (x.rq < 8) && decide (c.readAt 40#7 15 c.l0 = 0#32),
   (baseTrap u c.w c.l0 [(x.nodea, 64), (x.leafa, 32), (x.nodeb, 64), (x.leafb, 32), (x.cont, 64)]).isNone)

/-- Traversals that fill the core's unit. -/
noncomputable def fullUnit (s : State) : State :=
  match issueCtx false s with
  | none => s
  | some c => { s with pairs := (List.range 256).map fun i => (100 + i, mkPairs c s 40#7 false false false false) }

theorem witness_HierarchyWords_xpair :
    ([(0, 0, 0, 1, false, true), (0, 0, 8, 0, false, true), (32, 0, 0, 0, true, false), (0, 0x40000000, 0, 0, true, false),
        (64, 0, 7, 0, true, true)].all fun x =>
      satAt (pairState x.1 x.2.1 x.2.2.1 x.2.2.2.1) pairSig fun c u => pairCase u c == x.2.2.2.2) = true ∧
    satAt (pairState 64 0 7 0) pairSig (fun _ u => decide (travLoad u 0 < 256)) = true ∧
    travLoad (fullUnit (pairState 64 0 7 0)) 0 = 256 ∧ sat (fullUnit (pairState 64 0 7 0)) pairSig = true := by decide

theorem witness_HierarchyWords_asleep :
    satAt (asleep (pairState 64 0 7 0)) pairSig (fun c u => pairCase u c == (true, true) && decide (travLoad u 0 < 256) &&
      takeWaits c (blockLanes c.p.q c.p.n) == [9]) = true := by decide

/-- Operands of XRAY in v40 to v53: the low word of the node base, and the mask. -/
noncomputable def rayState (base mask : Nat) : State := at1 0 [(48, fun _ => base), (53, fun _ => mask)]

/-- The signature of XRAY with its operands in v40. -/
def raySig (_ : Ctx) : Sig := { maj := 0x35, opds := [wrSpan 8#7 4, { rdSpan 40#7 14 with even := true }] }

theorem witness_HierarchyWords_xray :
    ([(0, 256, false, true), (1, 255, true, false), (0, 255, true, true)].all fun x =>
      satAt (rayState x.1 x.2.1) raySig fun c u => c.act.all (fun k => decide ((c.readAt 40#7 13 k).toNat < 256)) == x.2.2.1 &&
        (rayTrap c u 40#7).isNone == x.2.2.2) = true ∧
    (let s := fullUnit (rayState 0 255)
     satAt s raySig fun c u => decide (256 < travLoad u 0 + c.act.length)) = true := by decide

/-- A table of image descriptors at an address in v40, v41. -/
noncomputable def texState (lo hi : Nat) : State := at1 0 [(40, fun _ => lo), (41, fun _ => hi)]

theorem witness_ImageWords :
    let sig : Ctx → Sig := fun _ => { maj := 0x36, opds := [wrSpan 8#7 4, { rdSpan 40#7 5 with even := true }] }
    ([0, 1, 2, 3].all fun op => satAt (texState 0x3000 0) sig fun c s =>
      (texBaseTrap 40#7 c s).isNone && (match memAccess c.w (laneReqs c (fun k => eaPair c 40#7 k + 32 * 5) 32) 1 accRead noExtra s with
        | .ok u ps => !(ps.any fun x => placesPoisoned u x.2) && (match memAccess c.w (texReqs op 40#7 c u ps) 1 accRead noExtra u with
          | .ok v ts => !(ts.any fun x => placesPoisoned v x.2)
          | _ => false)
        | _ => false)) = true ∧
    satAt (texState 0x3001 0) sig (fun c u => (texBaseTrap 40#7 c u).isSome) = true := by decide

/-- An image of two levels whose filtering is on or off, and a lane that names its second level, or none. -/
theorem witness_ImageWords_args :
    let m : Image := { base := 0, width := 2, height := 1, fmt := 0, mode := 1, levels := 2 }
    let x : TexArgs := { a := 1#32, b := 0#32, c := 0#32 }
    m.mode.testBit 0 = true ∧ ({ m with mode := 0 } : Image).mode.testBit 0 = false ∧ x.a.toNat < m.levels ∧ loadiInside m x = true ∧
      loadiInside m { x with a := 2#32 } = false := by decide

/-- An order word at 0x3000: the ticket that is served, in its high half. -/
noncomputable def pixState (served ticket : Nat) : State :=
  let s := at1 0 [(2, fun _ => 0x3000), (4, fun _ => ticket)]
  { s with hbm := s.hbm.writeN 0x3000 (bytesOfNat 4 (65536 * served)) }

theorem witness_GraphicsWords :
    sats (at1 0 []) [fun _ => { maj := 0x37, opds := [{ wrSpan 8#7 13 with even := true }, rdSpan 40#7 6] },
      fun _ => { maj := 0x37, opds := [{ wrSpan 8#7 2 with even := true }, { rdSpan 40#7 13 with even := true }, rd 4#7] }] = true ∧
    satMem (pixState 0 0) (fun _ => { maj := 0x37, opds := [wr 8#7, rdAddr 2#7] }) (fun c => laneReqs c (eaPair c 2#7) 4) (fun _ => 4) accAtomic
      (fun _ _ => noExtra) = true ∧
    satMem (at0 0 [(2, fun _ => 0x3000)] id fun w => { w with ended := (List.range 16).drop 1 }) (fun _ => { maj := 0x37, opds := [wr 0x60#7, rdAddr 2#7] })
      (fun c => laneReqs c (eaPair c 2#7) 4) (fun _ => 4) accAtomic (fun _ _ => noExtra) (fun c u ps => (ticketLanes (coreOf c.key) ps u).2.2.isEmpty) = true ∧
    ([(3, true), (4, false)].all fun x => satMem (pixState 3 x.1) (fun _ => { maj := 0x37, opds := [rdAddr 2#7, rd 4#7] })
      (fun c => [{ lane := c.l0, ea := eaPair c 2#7 c.l0, n := 4 }]) (fun _ => 4) accPeek (fun _ _ => noExtra)
      fun c u ps => mayEnter (natOfBytes (atomStep (coreOf c.key) 4 (placesOf ps c.l0) (fun _ => none) u).2) ((c.read 4#7 c.l0).toNat % 65536) == x.2) = true := by
  decide

/-- A geometry wave of a draw with a domain grid. -/
noncomputable def geomState : State :=
  let s := at1 0 []
  { s with grids := kmod (fun g => { g with draw := some (7, 0), placed := 1, total := 1 }) s.grids 1,
           draws := [(7, { queue := 0, seq := 0, partition := 0, ctx := 0, geom := 1, dom := some 3, rast := 4, vendor := false, rt := 0, width := 64, height := 64, order := 0 })] }

theorem witness_GraphicsWords_emit :
    vemitLegal geomState = true ∧ tsemitLegal geomState = true ∧
    satAt geomState (fun _ => { maj := 0x37, opds := [wr 8#7, rdSpan 40#7 13] }) (fun c u => (drawOfWave u c.key).isSome && emitRoom u c.w) = true ∧
    sat geomState (fun _ => { maj := 0x37, opds := [wr 8#7, rdSpan 40#7 8] }) = true := by decide

theorem witness_TranslationWords :
    sats (at1 0 []) [fun _ => { maj := 0x38, opds := [{ wrSpan 8#7 4 with even := true }, rdAddr 2#7] }] = true ∧
    ([0x8000, 0x10000].all fun x => ([(8, [rd 8#7, rdAddr 2#7]), (9, [rd 8#7])] : List (Nat × List Opd)).all fun y =>
      sat (at0 0 [(8, fun _ => x)] id control) (fun _ => { maj := 0x38, priv := some y.1, opds := y.2 }) fun c => (c.read 8#7 c.l0).toNat == x) = true ∧
    astpIds (at1 0 []) 0 = [] ∧
    astpIds { at1 0 [] with astps := [{ id := 4, dev := 2, partition := 0, grid := 1, pieces := [] }] } 0 = [4] := by decide

/-! ## Events -/

/-- A wave of 16 lanes in slot 0 of core 0 with some parts. -/
def wv (ps : List Part) : Wave := { key := 0, wg := 2, grid := 1, index := 0, width := 16, parts := ps }

/-- A machine that holds only that wave. -/
def one (ps : List Part) : State := { waves := [(0, wv ps)], time := 9000 }

/-- A whole part in a wait. -/
def pt (x : Wait) : Part := { q := 0, n := 4, wait := x }

/-- A result of a special-function word for lane 5, and a load's for lane 5 with its window open or closed. -/
theorem witness_WritebackEvents :
    let x : Pend := { pending (.sfn 1) with vals := [(5, 50, 7#32)], lanes := [5] }
    let y : Nat → Pend := fun n => { pending .load with window := n, vals := [(5, 50, 7#32)], lanes := [] }
    sfnOf { pt .ready with pend := [x] } 9 = some x ∧ (wv [{ pt .ready with pend := [x] }]).parts = [{ pt .ready with pend := [x] }] ∧
    mayLand 1 (y 1) = false ∧ [y 0].find? (fun z => decide (z.id = 9) && mayLand 1 z) = some (y 0) ∧ (y 0).sleepers = [] := by decide

theorem witness_WritebackEvents_matrix :
    let o : TileOp := { id := 4, counts := true, elems := [(65, 3#32)], clears := false }
    (({ wv [pt .ready] with tiles := [{ ops := [o] }, {}] } : Wave).tile 0).ops = [o] ∧
    (({ wv [pt .ready] with tiles := [{ ops := [o] }, {}] } : Wave).tile 1).ops = [] := by decide

/-- Parts that sleep until a cycle or a time that has come (9000) or not (9001), at CSLEEP, SWAITC and RCV, where the deadline is over (8999), falls
due in this very cycle, or has not come. -/
theorem witness_WaitEvents :
    ([.sleep 9000, .sleep 9001, .cond (.time 9000), .cond (.time 9001), .cond (.ring 0 (some 9000)), .cond (.signal 64 1 0 (some 9001)),
        .fuse .rcv (some 8999) 100, .fuse .rcv (some 9000) 100, .fuse .rcv (some 9001) 100, .ready] : List Wait).all (fun x =>
      ((one [pt x]).part 0 0 == some (pt x)) && (findFuse [pt x]).isNone && !(wv [pt x]).stopped) = true ∧
    cycleOf (one []) 0 = 9000 ∧ portFree (one []) (quarterOf 0) = true ∧ portFree { one [] with cores := [(0, { busy := [(0, 9001)] })] } (quarterOf 0) = false ∧
    (∃ x ∈ [pt (.fuse .rcv (some 9000) 100), pt .ready], x.wait = .ready ∧ x.halted = false) ∧
    (∀ x ∈ [pt (.fuse .rcv (some 9000) 100)], x.wait = .ready → x.halted = true) ∧
    agemaxOf (one [pt .ready]) (wv [pt .ready]) = 256 ∧ (wv [pt .ready]).sumMark < 200000 / 65536 := by decide

/-- A workgroup at the head of the phase queue whose wave waits at BARP; and an empty queue. -/
theorem witness_WaitEvents_phase :
    let g : Wg := { grid := 1, lin := 0, x := 0, y := 0, z := 0, core := 0, waves := [0], phaseAt := some 3 }
    let s : State := { one [pt (.barrier 3 true true)] with wgs := [(2, g)], cores := [(0, { phaseQueue := [2] })] }
    (s.core 0).phaseQueue = [2] ∧ kget s.wgs 2 = some g ∧ g.waves.Nodup ∧ s.part 0 0 = some (pt (.barrier 3 true true)) ∧
    (s.core 1).phaseQueue = [] := by decide

theorem witness_ArbitrationEvent :
    let s := one [{ pt .ready with n := 2 }, { pt .ready with q := 2, n := 2, readyAt := 5 }]
    readyParts s 0 ≠ [] ∧ readyParts s 1 = [] ∧ kget s.runs 0 = none ∧ (s.waves.map (·.1)).Nodup ∧
    (∀ e ∈ s.waves, (e.2.parts.map (·.q)).Nodup) ∧ (kget ({ s with runs := [(0, { wave := 0, q := 0 })] } : State).runs 0).isSome = true := by decide

/-- A part with MODE.SPL that waits for a load of quad 1, or for the fault record of quad 2 alone. -/
theorem witness_SplitAndDeadlockEvents_miss :
    let p : Part := { pt (.board [9] [4, 5, 6, 7]) with mode := 0x80000000#32, pend := [{ pending .load with vals := [(5, 50, 7#32)], lanes := [] }] }
    let x : Part := { p with wait := .cond (.records [(1, 2)]) }
    let s := one [x]
    let s : State := { s with faultRings := [(0, { recs := [{ id := 1, num := some 3, page := 0, ctx := 0, acc := 0, level := 1, count := 1 }] })] }
    let halves := fun (p : Part) s => (missSplit s (wv [p]) p).map fun out => buddyBlocks out 5 0 4
    halves p (one [p]) = some [(0, 1), (1, 1), (2, 2)] ∧ halves x s = some [(0, 2), (2, 1), (3, 1)] ∧ halves { p with mode := 0 } (one [p]) = none := by
  decide

/-- Two parts at RCV.W at different words for 64 cycles, and for 63; a wave that waits at a barrier for itself. -/
theorem witness_SplitAndDeadlockEvents_dead :
    let a : Part := { pt (.fuse .rcvW none 0) with n := 2, tvec := { val := 64#32 } }
    let b : Part := { a with q := 2, pc := 8#32 }
    let w : Nat → Wave := fun t => { wv [a, b] with deadSince := some t }
    (w 0).parts.any (widthLost (w 0)) = false ∧ fusedeadDue (one [a, b]) (w 8936) = true ∧ fusedeadDue (one [a, b]) (w 8937) = false ∧
    ((w 0).parts.map (·.q)).Nodup ∧ (∀ p ∈ (w 0).parts, p.handler = false ∧ hasHandler p = true) := by decide

/-- A store of four bytes on its way, and the place of a mapped page's entry. -/
theorem witness_MemoryEvents :
    let x : Store := { id := 7, mem := .hbm, addr := 0x3000, bytes := [1#8, 2#8, 3#8, 4#8], tag := 0, core := 0, scope := 1, time := 0 }
    let s : State := { one [] with stores := [x] }
    (s.stores.map (·.id)).Nodup ∧ x.covers .hbm 0x3002 = true ∧ x.covers .hbm 0x3004 = false ∧ x.visible (.core 0) = true ∧
    (let a : Astp := { id := 4, dev := 2, pieces := [(.peer, 2 ^ 47, 0, [1#8])], partition := 0, grid := 1 }
     [a].find? (fun y => decide (y.dev = 2)) = some a ∧ ∀ y ∈ [a], y.dev ≠ 3) := by decide

/-- The page tables that `withFetchWord` builds: the first 4 TiB are mapped, what lies above is not. -/
theorem witness_MemoryEvents_walk :
    let s := at1 0 []
    let y : Party := { die := some 0, p := 0, ctx := 0, ctrl := false }
    walk s 0 0 0x3000 = .leaf 0xF00F 65536 1 ∧ leafKind s y (accOf 0) 0xF00F 1 0x3000 = none ∧ leafKind s y (accOf 2) 0xF00F 1 0x3000 ≠ some 2 ∧
    (match walk s 0 0 (2 ^ 43) with | .leaf _ _ _ => false | _ => true) = true := by decide

/-- A fault ring with a record that is written, and one that waits for room. -/
theorem witness_MemoryEvents_ring :
    let r : FaultRec := { id := 1, num := some 3, page := 0, ctx := 0, acc := 0, level := 1, count := 1 }
    let s : State := { one [] with faultRings := [(0, { size := 16, head := 0, tail := 16, recs := [r] }),
      (1, { size := 16, head := 0, tail := 16, recs := [{ r with num := none }] })] }
    let left := fun p v => ((s.fring p).tail + 2 ^ 32 - v) % 2 ^ 32
    16 < left 0 17 ∧ left 0 4 ≤ 16 ∧ (∀ r ∈ (s.fring 0).recs, r.num ≠ none) ∧ left 1 4 < 16 ∧ (∀ r ∈ (s.fring 1).recs, r.num = none) := by decide

/-- A lane of the resident wave. -/
def lane0 : Owner :=
  { partition := 0, ctx := 0, ctrl := false, grid := 1, wg := 2, core := 0, width := 16, lane := 0, localBase := 2 ^ 20, localSize := 256 }

/-- A copy of 64 bytes to an address. -/
def copyReq (dst done : Nat) : Copy := { owner := lane0, ch := 0, fn := 0, src := 0x3000, dst := dst, total := 64, done := done }

/-- How the next sector of a request comes out: delivered, ended, or stopped. -/
def delivered : CopyRes → Nat
  | .ok _ _ _ => 0
  | .bad _ _ => 1
  | .stall _ _ => 2
  | .fault _ => 3

/-- A machine with one request, whose fault ring takes records. -/
noncomputable def engState (x : Copy) : State := { at1 0 [] with copies := [(5, x)], faultRings := [(0, { base := 2 ^ 53, en := true })] }

theorem witness_EngineEvents_copy :
    ([(copyReq 0x4010 0, true, 0), (copyReq (2 ^ 43) 0, true, 2), (copyReq (2 ^ 60) 0, true, 1)] : List (Copy × Bool × Nat)).all (fun y =>
      copyMoves (engState y.1) 5 y.1 == y.2.1 && delivered (deliverNext y.1 (engState y.1)) == y.2.2 && (copyEnd (engState y.1) 5 y.1).isNone) = true ∧
    (match deliverNext (copyReq 0x4010 0) (engState (copyReq 0x4010 0)) with | .ok _ _ n => n == 16 | _ => false) = true ∧
    copyMoves (engState { copyReq 0x4000 0 with waits := [3] }) 5 { copyReq 0x4000 0 with waits := [3] } = false ∧
    copyEnd (engState (copyReq 0x4000 64)) 5 (copyReq 0x4000 64) = some (0, 0) ∧
    copyEnd (engState { copyReq 0x4000 0 with total := 0 }) 5 { copyReq 0x4000 0 with total := 0 } = some (0, 0) ∧
    copyEnd (engState { copyReq 0x4000 32 with status := some (1, 5) }) 5 { copyReq 0x4000 32 with status := some (1, 5) } = some (1, 5) := by decide

/-- The ranges that COPY and CFILL name are granted: the checks leave no piece behind. -/
theorem witness_EngineEvents_granted :
    let s := engState (copyReq 0x4010 0)
    [(accRead, 0x3000), (accWrite, 0x4010)].all (fun x =>
      match piecesFor s lane0 x.2 16 with
      | some xs => let r := resolveLane lane0.party x.1
                      { lane := 0, ea := x.2, n := 16 } s {} xs
                   r.2.bad.isNone && r.2.stalled.isNone && r.2.fault.isNone && !placesPoisoned r.1 r.2.places
      | none => false) = true := by decide

/-- What such a check says. -/
theorem granted_of_check (o : Owner) (a : Acc) (ea n : Nat) (s : State) (xs : List Piece) (hx : piecesFor s o ea n = some xs)
    (h : Laws.LaneClean (resolveLane o.party a { lane := 0, ea := ea, n := n } s {} xs).2) :
    ∃ u ps, RangeGranted o a ea n s u ps := by
  obtain ⟨ps, hp, _⟩ := Laws.resolveLane_inv _ _ _ _ _ _ h
  exact ⟨_, ps, ⟨xs, hx, hp⟩⟩

/-- A traversal of a table at 0x3000 whose roots are a leaf and a leaf. -/
def pairReq : Xpair :=
  { owner := lane0, key := 0, self := false, canon := false, resume := false, sw := false, nodea := 0x3000, leafa := 0x4000, nodeb := 0x5000,
    leafb := 0x6000, roota := 2 ^ 31, rootb := 2 ^ 31, qmask := 0xFFFF, user := 0, cont := 0x7000, rq := 0 }

theorem witness_EngineEvents_pair :
    let s := at1 0 []
    travMoves s 0 [] = true ∧ travMoves s 0 [3] = false ∧ rqFits pairReq s = false ∧ pairReq.started = false ∧ pairReq.saved = false ∧
    (let t := { s with grids := kmod (fun g => { g with rqs := [{ addr := 0x8000 }] }) s.grids 1, hbm := s.hbm.writeN 0x8008 (bytesOfNat 4 16) }
     rqFits { pairReq with rq := 0 } t = true) ∧
    (match stepPairs pairReq s with | .ok _ y => y.started && y.result.isSome | _ => false) = true ∧
    (let y : Pend := { pending .load with trav := some 5, vals := [(0, 50, 0#32), (0, 51, 0#32)], lanes := [] }
     (one [{ pt .ready with pend := [y] }]).part 0 0 = some { pt .ready with pend := [y] } ∧ y.trav = some 5) := by decide

/-- A ray with an empty stack, with no hit or a hit at leaf 7, and one whose node cannot be read. -/
def rayReq (stack : List Nat) (leaf : Option Nat) : RayLane := { lane := 0, ops := List.replicate 14 0#32, stack := stack, leaf := leaf, t := (false, 3, 2) }

theorem witness_EngineEvents_ray :
    let x : Xray := { owner := lane0, key := 0, any := false, cull := false, lanes := [rayReq [] none] }
    ([(([] : List Nat), (none : Option Nat), 1), ([], some 7, 0)].all fun y => match rayOne x (rayReq y.1 y.2.1) (at1 0 []) with
      | .done _ _ st _ => st == y.2.2
      | _ => false) = true ∧
    (match rayOne x (rayReq [0] none) (at1 0 []) with | .done _ _ st _ => st == 3 | _ => false) = true ∧
    (match rayWalk x 4096 (rayReq [] none) (at1 0 []) with | .done _ _ st _ => st == 1 | _ => false) = true := by decide

/-- A draw of 64 by 64 pixels. -/
def draw0 : Draw := { queue := 0, seq := 0, partition := 0, ctx := 0, geom := 1, dom := some 3, rast := 4, vendor := false, rt := 0x3000, width := 64, height := 64, order := 0 }

/-- A machine with that draw: its geometry grid is over or still running. -/
def drawState (d : Draw) (done : Bool) : State :=
  { one [] with draws := [(7, d)], grids := [(1, { total := 1, placed := 1, ended := b2n done, draw := some (7, 0) }), (3, { draw := some (7, 1), more := true }),
    (4, { draw := some (7, 2), more := true })] }

/-- The record of a primitive whose first corners are at (0, 0), (32, 0) and (0, 32). -/
def prim0 : Prim :=
  { key := [0, 0, 0, 0], bytes := ([0, 0, 0, 0, 0x42000000, 0, 0, 0, 0, 0x42000000, 0, 0, 0, 0, 0, 0] : List Nat).flatMap (bytesOfNat 4) }

theorem witness_DrawEvents :
    (let x : Patch := { key := [0, 0, 0], dom := 0, part := 0, factors := List.replicate 4 0x3F800000, user := 5#32 }
     let d := { draw0 with patches := [x] }
     (drawState d false).draw 7 = some d ∧ d.dom = some 3 ∧ (kget (drawState d false).grids 3).isSome = true ∧ d.lanes.length < 64) ∧
    (drawState draw0 false).draw 7 = some draw0 ∧ draw0.patches = [] ∧ partialDue (drawState draw0 false) draw0 = false ∧
    (let d := { draw0 with prims := [prim0] }
     releasable (drawState d true) d = true ∧ releasable (drawState d false) d = true ∧ primDropped d (recWords prim0.bytes) = false) := by decide

theorem witness_DrawEvents_raster :
    ([false, true].all fun v =>
      let d := { draw0 with vendor := v, bins := [(0, [prim0.bytes])] }
      rasterDue (drawState d false) 7 d 0 && !rasterDue (drawState d false) 7 d 1) = true := by decide

/-- A grid of one wave of 16 lanes to place, with its backing-store area at an address. -/
noncomputable def placeState (area placed : Nat) : State :=
  let s := at1 0 []
  { s with waves := [], wgs := [], grids := [(1, { launch := { wave := 16, regs := 8, scratch := 128, regarea := area, tvec := 64 }, total := 2, placed := placed })] }

/-- A pre-empted workgroup of that grid. -/
noncomputable def parkState : State :=
  { placeState 0x40000 2 with parked := [(9, { wg := { grid := 1, lin := 0, x := 0, y := 0, z := 0, core := 0, waves := [0], spadSize := 128 }, waves := [{ wv [pt .yielded] with wg := 9 }] })] }

/-- What is placed: a new workgroup, or a pre-empted one; whether its area is writable; and whether the room is well-formed. -/
noncomputable def placeCase (s : State) : Option (Bool × Bool × Bool) :=
  (placement s 0).map fun x => (match x.2.2.1 with | .fresh _ => true | .again _ _ => false, areaOkay s x.2.2.2.1,
    decide (x.2.2.2.2.room.slots.map (·.1)).Nodup && x.2.2.2.2.room.bases.length == 1 && decide (x.2.2.2.1.launch.wave ≤ 64))

theorem witness_PlacementEvent :
    placeCase (placeState 0x40000 0) = some (true, true, true) ∧ placeCase (placeState (2 ^ 43) 0) = some (true, false, true) ∧
    placeCase (placeState 0x40000 1) = some (true, true, true) ∧ placement (placeState 0x40000 2) 0 = none ∧ placeCase parkState = some (false, true, true) ∧
    (kget parkState.parked 9).isSome = true := by decide

/-- A workgroup of the resident wave; its grid is a DEADLINE launch with a budget. -/
def wg0 : Wg := { grid := 1, lin := 0, x := 0, y := 0, z := 0, core := 0, waves := [0] }

/-- A machine with that workgroup and grid. -/
def wgState (g : Wg) (x : Grid) (ps : List Part) : State := { one ps with wgs := [(2, g)], grids := [(1, x)] }

theorem witness_DispatcherEvents :
    let done : Grid := { total := 1, placed := 1, ended := 1, flushed := true }
    let x : Session := { groups := 2, savea := 0, savesz := 0, reca := 0, events := [] }
    let s := fun g : Grid => wgState { wg0 with ended := true } g []
    gridEnded (s done) 1 done = true ∧ gridEnded { s done with astps := [{ id := 4, dev := 2, pieces := [], partition := 0, grid := 1 }] } 1 done = false ∧
    done.ended = done.total ∧ done.more = false ∧ done.session = none ∧ done.parent = none ∧
    gridEnded (s { done with session := some x }) 1 { done with session := some x } = true ∧ x.pass < x.groups := by decide

theorem witness_DispatcherEvents_workgroups :
    let s := wgState { wg0 with predl := some 9000, charge := 1 } { cls := 0, launch := { budget := 0 } } [pt .ready]
    kget s.wgs 2 = some { wg0 with predl := some 9000, charge := 1 } ∧ 9000 ≤ s.time ∧ wg0.ended = false ∧ wg0.waves.Nodup ∧ overBudget s { wg0 with charge := 1 } = true ∧
    (let t := wgState wg0 {} [pt .yielded]
     wgWaves t wg0 ≠ [] ∧ ∀ w ∈ wgWaves t wg0, (∀ p ∈ w.parts, partParked p = true) ∧ waveDrained w = true) ∧
    (let t := wgState wg0 {} [pt .ready]
     ∃ w ∈ wgWaves t wg0, ∃ p ∈ w.parts, partParked p = false) := by decide

theorem witness_DispatcherEvents_partitions :
    ([(1, true, 0), (1, false, 0), (2, false, 1), (2, false, 0), (3, false, 0), (4, false, 0)].all fun (x : Nat × Bool × Nat) =>
      let s : State := { one [{ pt .ready with pend := List.replicate x.2.2 (pending (.sfn 0)) }] with
        partitions := [(0, { swap := x.1 })], grids := [(1, { due := if x.2.1 then some 5 else none })] }
      (kgetD {} s.partitions 0).swap == x.1 && holdsDeadline s 0 == x.2.1 && swapDrained s 0 == (x.2.2 == 0)) = true ∧
    ([false, true].all fun u => (kgetD {} ({ one [] with partitions := [(0, { wiping := true, undef := u, hbmSize := 2 ^ 29 })] } : State).partitions 0).undef == u) = true := by
  decide

/-- A packet of a type in a queue, with more of its bytes, started or not. -/
def pkt (ty : Nat) (body : List Byte) (started : Bool) : Packet :=
  { seq := 0, order := 1, bytes := (bytesOfNat 1 ty ++ List.replicate 15 0#8 ++ body ++ List.replicate 64 0#8).take 64, time := 0, started := started }

/-- A machine whose queue 5 runs and holds a packet. -/
noncomputable def packetState (p : Packet) : State :=
  let s := at1 0 []
  { s with queues := [(5, { ring 1 with head := 1, priv := true, packets := [p] })], time := 9000 }

theorem witness_HostPacketEvents_fetch :
    ([(0, false), (9, true)].all fun (x : Nat × Bool) =>
      let s := ctl0 (ring 1) [] x.1
      nextQueue s (s.queue 5).part == some 5 && (match packetBytes s 5 0 with
        | some b => (match checkPacket 5 b s with | .ok _ _ => x.2 | .bad _ _ _ => !x.2)
        | none => false)) = true ∧
    nextQueue (ctl0 (ring 0) [] 9) 0 ≠ some 5 ∧
    (let s := ctl0 { ring 1 with base := 2 ^ 40 } [] 9
     nextQueue s 0 = some 5 ∧ packetBytes s 5 0 = none) ∧
    ((ctl0 { ring 1 with mate := some (pkt 1 [] false) } [] 9).queue 5).mate.isSome = true ∧
    (let b := bytesOfNat 1 0x0B ++ List.replicate 63 0#8
     numAt b 0 1 = 0x0B ∧ reservedBroken b = false ∧ ((packetState (pkt 1 [] false)).queue 6).priv = false) := by decide

/-- Every type may start in sequence; behind an earlier packet that has not started it may not. -/
theorem witness_HostPacketEvents_start :
    ([1, 2, 3, 4, 5, 6, 7, 8, 9, 10, 11].all fun ty =>
      let s := packetState (pkt ty [] false)
      s.packet 5 0 == some (pkt ty [] false) && (pkt ty [] false).ty == ty && mayStart s 5 0 false && mayStart s 5 0 true && decide (hostWaiting s (s.queue 5).part < 1024)) = true ∧
    (let s := packetState (pkt 1 [] false)
     let t := { s with queues := [(5, { ring 2 with head := 2, packets := [pkt 1 [] false, { pkt 1 [] false with seq := 1, order := 2 }] })] }
     mayStart t 5 1 false = false ∧ (t.packet 5 1).isSome = true) ∧
    (let s := { packetState (pkt 1 [] false) with grids := (List.range 1024).map fun i => (100 + i, { queue := 5, total := 1 }) }
     hostWaiting s 0 = 1024) := by decide

/-- Addresses of LAUNCH, SIGNAL, WAITSIG and TIMESTAMP that can be read and written, and one that cannot. -/
theorem witness_HostPacketEvents_memory :
    ([(0x3000, true), (2 ^ 43, false)].all fun (x : Nat × Bool) =>
      let s := packetState (pkt 5 (bytesOfNat 8 x.1) false)
      (recordAt 5 x.1 s).isSome == x.2 && (packetRead 5 x.1 8 s).isSome == x.2 && (packetWrite 5 x.1 (bytesOfNat 8 1) s).isSome == x.2) = true ∧
    (let p := pkt 1 (bytesOfNat 8 0x3000) false
     let first := { p with plan := [{ grid := some {} }] }
     let both : State := { packetState first with queues := [(5, { ring 2 with head := 2, packets := [first, { p with seq := 1, order := 2, second := true }] })] }
     p.pair = none ∧ pairReady (packetState p) 5 p = true ∧ first.pair = some {} ∧ pairReady (packetState first) 5 first = false ∧
       pairReady both 5 first = true ∧ (nextPacket both 5 0).isSome = true) ∧
    (let s := packetState { pkt 9 (bytesOfNat 1 1) true with deadline := some 9000 }
     (s.packet 5 0).map (·.started) = some true) := by decide

/-- CONFIG and PARTCTL packets, with their item and value. -/
theorem witness_ConfigAndPartitionPackets :
    ([(0x0A, 0), (0x0A, 4), (0x0B, 0), (0x0B, 5)].all fun (x : Nat × Nat) =>
      let p := pkt x.1 (bytesOfNat 8 x.2 ++ bytesOfNat 8 256) false
      (packetState p).packet 5 0 == some p && p.ty == x.1 && numAt p.bytes 16 1 == x.2 && numAt p.bytes 24 8 == 256 && mayStart (packetState p) 5 0 true) = true := by decide

theorem witness_RegisterEvents :
    let s : State := { one [] with
      queues := [(0, {}), (1, { state := 1, en := true, head := 2, tail := 3, packets := [pkt 1 [] true] }), (2, { resetting := true })],
      evqs := [(0, { held := [5], due := true, vec := 3 }), (1, { due := true, vec := 4 })], unmasked := [3], msixPending := [4] }
    s.dev.recovery = false ∧ ({ s with dev := { s.dev with recovery := true } } : State).dev.recovery = true ∧
    (s.queue 0).resetting = false ∧ (s.queue 0).state = 0 ∧ (20 + 2 ^ 32 - (s.queue 0).head) % 2 ^ 32 > (s.queue 0).size ∧
    (16 + 2 ^ 32 - (s.queue 0).head) % 2 ^ 32 ≤ (s.queue 0).size ∧ (s.queue 1).state ≠ 0 ∧ (s.queue 2).resetting = true ∧
    ((s.queue 0).shadow.or (some { head := 0, tail := 0, en := false, state := 0, reason := 0 })).isSome = true ∧
    s.funcMask = false ∧ ({ s with funcMask := true } : State).funcMask = true ∧ (∀ v ∈ s.msixPending, v ∉ s.unmasked) ∧
    capSum { s with dev := { s.dev with form := .boardE } } s.dev.caps ≤ 700 ∧
    (s.evq 0).held = [5] ∧ (s.evq 1).held = [] ∧ (s.evq 2).due = false ∧ (kget s.evqs 0).map (·.due) = some true ∧ 3 ∈ s.unmasked ∧ 4 ∉ s.unmasked ∧
    4 ∈ s.msixPending ∧ 5 ∉ s.msixPending ∧ s.dev.caps[0]? = some (0, false) ∧ capSum s s.dev.caps ≤ 2400 := by decide

/-- A device with power that is ready, its mailbox's bytes, its lifecycle, and one partition with a context. -/
def mgmtState (life : Nat) (data : List Byte) : State :=
  { one [] with dev := { State.reset.dev with ready := true, life := life, mbox := { data := State.reset.hbm.writeN 0 data } },
                partitions := [(1, { gmask := 1, hbmSize := 2 ^ 29 })], contexts := [(4096 + 7, { root := 0 })] }

/-- Each lifecycle's commands, and contexts that exist or may be defined: the name 8, and 7 that is taken. -/
theorem witness_ManagementCommands :
    ([0, 1, 2, 3, 4].all fun life => (mgmtState life []).dev.life == life && (mgmtState life []).dev.ready && !(mgmtState life []).dev.off &&
      !(mgmtState life []).dev.recovery && !(mgmtState life []).dev.mbox.busy && (mgmtState life []).dev.key && (mgmtState life []).dev.trips != 0) = true ∧
    (let s := mgmtState 2 (bytesOfNat 8 8)
     mbNum s.dev.mbox 0 2 = 8 ∧ (kget s.partitions 1).isSome = true ∧ kget s.contexts (4096 + 8) = none ∧ mbZero s.dev.mbox 2 8 = true ∧
       mbZero s.dev.mbox 16 4096 = true ∧ rootOk s 1 (mbNum s.dev.mbox 8 8) = true ∧ kget s.partitions 2 = none) ∧
    (let s := mgmtState 2 (bytesOfNat 8 7)
     mbNum s.dev.mbox 0 2 = 7 ∧ (kget s.contexts (4096 + 7)).isSome = true ∧ ctxInUse s 1 7 = false ∧
       ctxInUse { s with grids := [(1, { partition := 1, launch := { ctxid := 7 }, total := 1 })] } 1 7 = true) := by decide

/-- A scope with the bit of RMA, and one without. Whether a signature verifies is no value of the model (log 43): the clauses that need one hold
wherever the opaque check answers so. -/
theorem witness_ManagementCommands_token :
    ([(2 ^ 31, true), (5, false)].all fun (x : Nat × Bool) =>
      let s := { mgmtState 2 (bytesOfNat 4 x.1) with dev := { (mgmtState 2 (bytesOfNat 4 x.1)).dev with nonce := some (3, 9001) } }
      mbNum s.dev.mbox 0 4 / 8 % 2 ^ 28 == 0 && (mbNum s.dev.mbox 0 4).testBit 31 == x.2 && decide (s.time < 9001)) = true ∧
    mbNum (mgmtState 2 (bytesOfNat 4 8)).dev.mbox 0 4 / 8 % 2 ^ 28 ≠ 0 := by decide

/-- A debugger's mailbox on a machine: the port open with every scope; the bytes name core 0, slot 0, quad 0, and what follows. -/
noncomputable def dbgState (stopped : Bool) (data : List Byte) : State :=
  let s := at0 0 [] (fun p => { p with wait := .ready }) fun w => { w with stopped := stopped }
  { s with dev := { s.dev with ready := true, dbgOpen := true, dbgScope := 7, dbox := { data := State.reset.hbm.writeN 0 data } } }

theorem witness_DebugCommands :
    ([false, true].all fun x =>
      let s := dbgState x (bytesOfNat 4 0 ++ [0#8, 5#8])
      s.dev.dbgScope.testBit 0 && s.dev.dbgScope.testBit 2 && !s.dev.dbox.busy && mbNum s.dev.dbox 5 1 == 5 &&
        (match s.wave 0 with
          | some w => w.stopped == x && !midPrefix w && decide (w.key = 0) && decide (w.width ≤ 64) && decide (5 < w.regs) &&
              (partAt w.parts 0).isSome && (partHolding w 0).isSome && w.parts.all (fun p => decide (p.wait = .ready) && !p.preempt)
          | none => false)) = true ∧
    (let s := dbgState true (bytesOfNat 4 (3 * 2 ^ 24))
     mbNum s.dev.dbox 3 1 = 3 ∧ (s.wave 0).bind (fun w => partAt w.parts 3) = none) ∧
    (let s := dbgState true (bytesOfNat 4 1)
     s.wave (mbNum s.dev.dbox 0 2 * 64 + mbNum s.dev.dbox 2 1) = none) := by decide

/-- MEMRD and MEMWR of 16 bytes at a mapped address, and at one that is not. -/
theorem witness_DebugCommands_memory :
    ([(0x3000, true), (2 ^ 43, false)].all fun (x : Nat × Bool) =>
      let s := dbgState true (bytesOfNat 8 0 ++ bytesOfNat 8 x.1 ++ bytesOfNat 4 16)
      mbNum s.dev.dbox 8 8 == x.1 && mbNum s.dev.dbox 16 4 == 16 && (kget s.contexts 0).isSome && (kget s.contexts 9).isNone &&
        (ctlRead 0 0 x.1 16 s).isSome == x.2 && (ctlWrite 0 0 x.1 (mbBytes s.dev.dbox 64 16) s).isSome == x.2) = true := by decide

theorem witness_PlatformEvents :
    let s : State := { one [pt .ready] with
      cores := [(1, { reserved := some 1 }), (2, { retired := true })], partitions := [(0, { gmask := 1, hbmSize := 2 ^ 29 }), (1, { clock := 850 })],
      keys := [(1, { key := some 1, bound := some 0 })],
      dev := { State.reset.dev with ready := true, spanen := true, spentStacks := [3], ports := [(4, (0, false)), (5, (0, true))], caps := [(100, false), (0, false)],
                                    nonce := some (3, 9001) },
      stores := [{ id := 7, mem := .host, addr := 0x3000, bytes := [1#8], tag := 0, core := 0, scope := 1, time := 0 }], time := 60000000000 }
    (s.core 1).reserved.isSome = true ∧ (s.core 2).retired = true ∧ (s.core 0).retired = false ∧ (s.core 0).reserved = none ∧ (∀ g ∈ s.wgs, g.2.core ≠ 0) ∧
    s.dev.spare0 ≠ 0 ∧ 3 ∈ s.dev.spentStacks ∧ 4 ∉ s.dev.spentStacks ∧
    (s.dev.caps.getD 0 (0, false)).1 = 100 ∧ (s.dev.caps.getD 1 (0, false)).1 = 0 ∧ (kget s.partitions 0).map (·.clock) = some 1000 ∧ (kget s.partitions 1).map (·.clock) = some 850 ∧
    kget s.dev.ports 3 = none ∧ kget s.dev.ports 4 = some (0, false) ∧ kget s.dev.ports 5 = some (0, true) ∧ (s.astps.map (·.id)).Nodup ∧
    hiddenFromHost s 0 = true ∧ hiddenFromHost s (2 ^ 30) = false ∧ (s.stores.map (·.id)).Nodup ∧ s.dev.nonce = some (3, 9001) ∧
    (let d : Device := { spare0 := 0, off := true, life := 0 }
     d.spare0 = 0 ∧ d.off = true ∧ d.life = 0 ∧ State.reset.dev.off = false ∧ State.reset.dev.life ≠ 0) ∧
    ((s.wave 0).any fun w => decide (5 < w.vbound) && decide (3 < w.width) && !w.poison.contains (5 * 64 + 3)) = true := by decide

/-- Board form: a partition without a cap shares what the capped ones leave of 700 W; windows above and below. A word that SECDED will correct. -/
theorem witness_PlatformEvents_form :
    (let s : State := { one [] with partitions := [(0, {}), (1, {})], dev := { State.reset.dev with form := .boardE, caps := [(100, false), (0, false)] } }
     powerCap s 0 = some 100 ∧ powerCap s 1 = some 600 ∧ powerCap { s with dev := { s.dev with form := .package } } 1 = none) ∧
    (let w : Wave := { wv [pt .ready] with vbound := 8, flaws := [5 * 64 + 3] }
     5 * 64 + 3 ∈ w.flaws ∧ 5 < w.vbound ∧ 3 < w.width ∧ 5 * 64 + 3 ∉ w.poison) := by decide

theorem witness_PrivilegeAndIdleWords :
    holds (at1 0 []) (fun c => !c.act.isEmpty && !c.w.ctrl) = true ∧ holds (at0 0 [] id idle) (fun c => c.act.isEmpty) = true := by decide

theorem witness_TrapEntry :
    let p : Part := { pt .ready with tvec := { val := 64#32 }, pend := [{ pending .load with window := 0 }] }
    let t : Trap := { cause := 0x08, info := 5#32, addr := some 0x3000#64 }
    (one [p]).part 0 0 = some p ∧ p.handler = false ∧ p.tvec.val &&& 3#32 = 0#32 ∧ ({ p with tvec := { val := 66#32 } } : Part).tvec.val &&& 3#32 ≠ 0#32 ∧
    t.cause < 256 ∧ (∀ x ∈ p.pend, x.window = 0) ∧ ({ p with handler := true } : Part).handler = true := by decide

theorem witness_EventRecords :
    let s : State := { one [] with evqs := [(0, { en := true, base := 0x3000 }), (1, { en := true, tail := 16 })] }
    let full := fun e => ((s.evq e).tail + 2 ^ 32 - (s.evq e).head) % 2 ^ 32 = (s.evq e).size
    (s.evq 0).en = true ∧ ¬ full 0 ∧ ringOk s ((s.evq 0).base + 32 * ((s.evq 0).tail % (s.evq 0).size)) 32 = true ∧ full 1 ∧ (s.evq 2).en = false ∧
    ringOk { s with muted := true } (2 ^ 53) 32 = false ∧ (∀ y ∈ s.stores, y.covers .hbm 0x3000 = true → y.visible .device = false) := by decide

theorem witness_DecodedWords :
    (0x3A ≤ ((0x74000000#32).extractLsb' 25 6 : BitVec 6).toNat ∧ ((0x74000000#32).extractLsb' 25 6 : BitVec 6).toNat ≤ 0x3D) ∧
    ((0x00000001#32).extractLsb' 25 6 = 0#6 ∧ (0x00000001#32).extractLsb' 0 25 ≠ 0#25) ∧
    ((0x0400000F#32).extractLsb' 25 6 = 2#6 ∧ 14 ≤ ((0x0400000F#32).extractLsb' 0 4 : BitVec 4).toNat) := by decide

theorem witness_DecodeEncode : encode (.nop true) = some 0x80000000#32 ∧ decode 0x80000000#32 = .ok (.nop true) := by decide

/-- What the next fetch gives: a word that decodes, one that does not, or a fault. -/
noncomputable def fetched (s : State) : Nat :=
  let v := arbitrate 0 (probeParts (preemptAt 0 0 { s with agenda := [] }))
  let u := issuing 0 v
  match kget v.runs 0, issueCtx false u with
  | some r, some c => if r.wave = 0 ∧ r.q = 0 ∧ runReady v 0 then (match fetchPart u c.w c.p c.p.pc with
    | .word _ x => if (decode (BitVec.ofNat 32 x)).toOption.isSome then 1 else 2
    | .bad _ _ _ => 3
    | _ => 4) else 5
  | _, _ => 0

theorem witness_StepRunsTheWord :
    [State.reset.withFetchWord 32 0, State.reset.withFetchWord 32 0x7A000000,
      (State.reset.withFetchWord 32 0).modWave 0 fun w => { w with parts := w.parts.map fun p => { p with pc := 0x100#32 } },
      { State.reset.withFetchWord 32 0 with contexts := [(0, { root := 65536, codewin := 2 ^ 43 })] }].map fetched = [1, 2, 1, 3] ∧
    (State.reset.withFetchWord 32 0).agenda = [.word 0 0] ∧ (State.reset.withFetchWord 32 0).dev.off = false ∧
    portFree (State.reset.withFetchWord 32 0) (quarterOf 0) = true ∧ inOrder (State.reset.withFetchWord 32 0) 0 0 = true ∧
    (let s : State := { State.reset.withFetchWord 32 0 with cores := [(0, { last := some (0, 5) })] }
     inOrder s 0 0 = false) := by decide

/-- Behind a KX the group goes on; behind a word that leaves no prefix nothing follows. -/
theorem witness_StepRunsTheWord_group :
    let c? := issueCtx false (at1 0 [])
    (c?.any fun c => groupGoesOn c ((at1 0 []).modPart 0 0 fun p => { p with prefixN := 1 })) = true ∧
    (c?.any fun c => !c.p.handler && (at1 0 []).part c.key c.q == some c.p) = true := by decide

/-- With nothing told: bring-up is due after reset; a ready device with a wave first chooses, then issues; one without power lets a cycle pass. -/
theorem witness_StepRunsTheWord_agenda :
    let settled := fun s => probeParts (preemptReady (settle s))
    State.reset.agenda = [] ∧ dueEvent (settled State.reset) = some (.fullReset 0) ∧
    (let v := settled { State.reset.withFetchWord 32 0 with agenda := [] }
     dueEvent v = none ∧ arbQuarter v = some 0 ∧ v.dev.off = false) ∧
    (let v := settled { at1 0 [] with focus := none }
     dueEvent v = none ∧ arbQuarter v = none ∧ nextIssue v = some 0) ∧
    (let v := settled { at1 0 [] with runs := [], waves := [] }
     dueEvent v = none ∧ arbQuarter v = none ∧ nextIssue v = none) ∧
    (let s : State := { State.reset with dev := { State.reset.dev with off := true } }
     dueEvent (settled s) = none ∧ (settled s).dev.off = true) := by decide

theorem witness_StepKeepsMemory : MemWf State.reset ∧ MemWf (State.reset.withFetchWord 32 0) := by
  unfold MemWf
  decide

/-- The machine can take a step from each of these states. -/
noncomputable def goes (s : State) : Bool := match step s with | .next _ => true | _ => false

theorem test_step_from_reset : goes State.reset = true := by decide
theorem test_step_runs_nop : goes (State.reset.withFetchWord 32 0) = true := by decide

/-! ## One step: words as the spec writes them, with the results that it states -/

/-- The state after one step that runs a word: MODE, vector registers, and the part and the wave changed. -/
noncomputable def stepWord (word m : Nat) (v : List (Nat × (Nat → Nat))) (g : Part → Part := id) (f : Wave → Wave := id) (q : Nat := 0) : Option State :=
  let s := State.reset.withFetchWord 32 word
  match step (({ s with agenda := [.word 0 q] } : State).modWave 0 fun w =>
      f { w with v := rows v, parts := w.parts.map fun p => g { p with mode := BitVec.ofNat 32 m } }) with
  | .next t => some t
  | _ => none

/-- What vector register `r` of lane `l` reads after that step. -/
noncomputable def laneAfter (word m : Nat) (v : List (Nat × (Nat → Nat))) (r l : Nat) : Option Nat :=
  (stepWord word m v).map fun t => (vAt t 0 r l).toNat

/-- A field of the part after that step. -/
noncomputable def partAfter (word : Nat) (v : List (Nat × (Nat → Nat))) (g : Part → Part) (f : Part → Nat) (q : Nat := 0) : Option Nat :=
  ((stepWord word 0 v g id q).bind fun t => t.part 0 q).map f

/-- R142's worked example: BIL3 of 5, 3 and 6, and CLZ of 8. -/
theorem test_bil3 : laneAfter 0x04080014 0 [(0, fun _ => 5), (1, fun _ => 3), (2, fun _ => 6)] 2 3 = some 0x173 := by decide
theorem test_clz : laneAfter 0x04142000 0 [(4, fun _ => 0x173 ^^^ 0x17B)] 5 15 = some 28 := by decide

/-- R115: S8 with SAT and without; N32 with SAT. -/
theorem test_iadd_saturates : laneAfter 0x02001200 (11 + 0x800) [(2, fun _ => 100), (32, fun _ => 100)] 0 0 = some 0x7F := by decide
theorem test_iadd_wraps : laneAfter 0x02001200 11 [(2, fun _ => 100), (32, fun _ => 100)] 0 0 = some 0xFFFFFFC8 := by decide

/-- R145: IDOT4 D = v8, A = v2, Bf = v4 under S32, with SAT and without. -/
theorem test_idot4_saturates : laneAfter (0x06000002 + 8 * 2 ^ 18 + 2 * 2 ^ 11 + 4 * 16) (1 + 0x800) [(2, fun _ => 0x7F7F7F7F), (4, fun _ => 0x7F7F7F7F), (8, fun _ => 0x7FFFFF00)] 8 0 = some 0x7FFFFFFF := by decide
theorem test_idot4_wraps : laneAfter (0x06000002 + 8 * 2 ^ 18 + 2 * 2 ^ 11 + 4 * 16) 1 [(2, fun _ => 0x7F7F7F7F), (4, fun _ => 0x7F7F7F7F), (8, fun _ => 0x7FFFFF00)] 8 0 = some 0x8000FB04 := by decide

/-- LEA8: the carry passes into the high word. -/
theorem test_lea8 : (laneAfter 0x0A1810A5 0 [(2, fun _ => 0xFFFFFFF8), (3, fun _ => 0x12), (10, fun _ => 3)] 6 1,
    laneAfter 0x0A1810A5 0 [(2, fun _ => 0xFFFFFFF8), (3, fun _ => 0x12), (10, fun _ => 3)] 7 1) = (some 0x10, some 0x13) := by decide

/-- FFMA rounds once. -/
theorem test_ffma : laneAfter 0x0E0C0820 3 [(1, fun _ => 0x3F800001), (2, fun _ => 0x3F7FFFFF), (3, fun _ => 0xBF800000)] 3 0 = some 0x337FFFFE := by decide

/-- SHFLU with lane 3 inactive by the guard: lane 0 keeps its own, lane 3 is unchanged, lane 4 reads the inactive lane. -/
theorem test_shflu : ([0, 3, 4, 5].map fun l => laneAfter 0x18080832 (7 * 0x8000 + 0x2000) [(1, fun l => 10 * l), (2, fun _ => 77), (3, fun _ => 1), (7, fun l => if l = 3 then 0 else 1)] 2 l) =
    [some 0, some 77, some 30, some 40] := by decide

/-- The tree order of REDADD under F32. -/
theorem test_redadd : ((stepWord 0x1A182800 3 [(5, fun l => [0x4B800000, 0x3F800000, 0x3F800000, 0x3F800000, 0xCB800000, 0x3F800000, 0x3F800000, 0x3F800000].getD l 0)]
    (fun p => { p with n := 2 }) (fun w => { w with width := 8 })).map fun t => vAt t 0 6 7) = some 0x40A00000#32 := by decide

/-- WIDE of element 1 of the record of R132, and SETSC. -/
theorem test_wide : laneAfter 0x16C94310 (3 + 16 * 13) [(40, fun _ => 0x344C7D80), (49, fun _ => 1)] 50 0 = some 0x40C00000 := by decide
theorem test_setsc : laneAfter 0x16A19803 (3 + 16 * 13) [(40, fun _ => 0x344C7D80), (51, fun _ => 0x84)] 40 0 = some 0x344C7D84 := by decide

/-- BRW with an offset of 15 words, taken and not taken. -/
theorem test_brw_taken : partAfter 0x4594000F [] (fun p => { p with w := (p.w.take 5) ++ [{ val := 1#32, bn := 4 }] ++ p.w.drop 6 }) (fun p => p.pc.toNat) = some 0x40 := by decide
theorem test_brw_not_taken : partAfter 0x4594000F [] id (fun p => p.pc.toNat) = some 4 := by decide

/-- BRD with a third of its quads taken: the parts of the example of R24 in a wave of 16 lanes, and their PCs. -/
theorem test_brd_splits : ((stepWord 0x4800000F 0 [(0, fun l => b2n (decide (l < 4)))]).bind (·.wave 0)).map (fun w => w.parts.map fun p => (p.q, p.n, p.pc.toNat)) =
    some [(0, 1, 0x40), (1, 1, 4), (2, 2, 4)] := by decide

/-- TRAP 0x2A enters the handler as the worked example of the flow words says, at offset 0. -/
theorem test_trap : ([(fun p : Part => p.trappc.toNat), (fun p => p.tcause.toNat), (fun p => p.tinfo.toNat), (fun p => p.tpart.toNat), (fun p => p.tspc.toNat), (fun p => b2n p.handler), (fun p => p.pc.toNat)].map fun f =>
    partAfter 0x520002A1 [] (fun p => { p with tvec := { val := 0x800#32 }, tpart := 0x22#32, q := 2, n := 2 }) f 2) =
    [some 4, some 0x13, some 0x2A, some 0x22, some 0, some 1, some 0x800] := by decide

/-- A reserved major takes ILLEGAL, at the word itself. -/
theorem test_reserved_major : ([(fun p : Part => p.trappc.toNat), (fun p => p.tcause.toNat % 256), (fun p => p.pc.toNat)].map fun f =>
    partAfter 0x74000000 [] (fun p => { p with tvec := { val := 0x800#32 } }) f) = [some 0, some 1, some 0x800] := by decide

/-- ATOM.ADD: lanes 0 to 3 name one word of zero and add 1 to 4; the word ends at 10 (R246). -/
theorem test_atom_add : ((stepWord 0x30181400 1 [(2, fun _ => 0x3000), (6, fun l => l + 1)] (fun p => p) (fun w => { w with ended := (List.range 16).drop 4 })).map fun t =>
    (physNat t .device .hbm 0 0x3000 4)) = some 10 := by decide

end Sys2Proof.Tests
end

section
/-! The events that end a wait (R28, R43, R59, R214, R327, R334, R335, R431, R447): a change of one part decides itself on that part alone, and
every wait that ends leaves the part as `wakePart` or `passPart` makes it. -/

namespace Sys2Proof.Proofs

open Sys2Proof.Machine Sys2Proof.Laws

/-! ## Changes that depend on the record they change -/

theorem kmod_congr {α : Type} {f g : α → α} {m : KMap α} {n : Nat} {v : α} (hv : kget m n = some v) (h : f v = g v) :
    kmod f m n = kmod g m n := by
  induction m with
  | nil => rfl
  | cons e m ih =>
    obtain ⟨k, x⟩ := e
    simp only [kget] at hv
    simp only [kmod]
    split
    · rename_i hk
      rw [if_pos hk] at hv
      cases hv
      rw [h]
    · rename_i hk
      rw [if_neg hk] at hv
      rw [ih hv]

theorem kmod_id {α : Type} (m : KMap α) (n : Nat) : kmod (fun v => v) m n = m := by
  induction m with
  | nil => rfl
  | cons e m ih => simp only [kmod, ih, ite_self]

theorem partMod_congr {f g : Part → Part} {ps : List Part} {q : Nat} {p : Part} (hp : partAt ps q = some p) (h : f p = g p) :
    partMod f ps q = partMod g ps q := by
  induction ps with
  | nil => rfl
  | cons x ps ih =>
    simp only [partAt] at hp
    simp only [partMod]
    split
    · rename_i hx
      rw [if_pos hx] at hp
      cases hp
      rw [h]
    · rename_i hx
      rw [if_neg hx] at hp
      rw [ih hp]

theorem modWave_congr {s : State} {key : Nat} {w : Wave} {f g : Wave → Wave} (hw : s.wave key = some w) (h : f w = g w) :
    s.modWave key f = s.modWave key g := by
  unfold State.modWave
  rw [kmod_congr hw h]

theorem modWave_id (s : State) (key : Nat) : (s.modWave key fun w => w) = s := by
  unfold State.modWave
  rw [kmod_id]

/-- A change that each part decides on for itself takes place exactly when it does for the part that is there. -/
theorem modWave_partMod_ite {s : State} {key q : Nat} {w : Wave} {p : Part} {g : Wave → Part → Part} {f : Part → Part} {due : Prop}
    [Decidable due] (hw : s.wave key = some w) (hp : partAt w.parts q = some p) (h : g w p = if due then f p else p) :
    (s.modWave key fun v => { v with parts := partMod (g v) v.parts q }) = if due then s.modPart key q f else s := by
  by_cases hd : due
  · rw [if_pos hd] at h ⊢
    refine modWave_congr hw ?_
    rw [partMod_congr hp h]
  · rw [if_neg hd] at h ⊢
    have hid : { w with parts := partMod (g w) w.parts q } = w := by
      rw [partMod_congr (g := fun x => x) hp h, partMod_id]
    exact (modWave_congr (g := fun v => v) hw hid).trans (modWave_id s key)

/-! ## Sets of waves -/

theorem kget_modWaves_of_notMem (f : Wave → Wave) {ks : List Nat} {k : Nat} (h : k ∉ ks) (m : KMap Wave) :
    kget (modWaves f m ks) k = kget m k := by
  induction ks generalizing m with
  | nil => rfl
  | cons a ks ih =>
    obtain ⟨hne, hks⟩ := not_or.1 (mt List.mem_cons.2 h)
    rw [modWaves, ih hks, kget_kmod_other f m a k hne]

/-- Each wave of the set is changed once. -/
theorem kget_modWaves_of_mem (f : Wave → Wave) {ks : List Nat} {k : Nat} (hn : ks.Nodup) (h : k ∈ ks) (m : KMap Wave) :
    kget (modWaves f m ks) k = (kget m k).map f := by
  induction ks generalizing m with
  | nil => cases h
  | cons a ks ih =>
    obtain ⟨ha, hks⟩ := List.nodup_cons.1 hn
    rw [modWaves]
    rcases List.mem_cons.1 h with rfl | hk
    · rw [kget_modWaves_of_notMem f ha, kget_kmod_same]
    · have hne : k ≠ a := fun e => ha (e ▸ hk)
      rw [ih hks hk, kget_kmod_other f m a k hne]

/-! ## Parts that go on -/

/-- Falling through moves the PC and the loop stack alone. -/
theorem fallPart_frame (p : Part) : fallPart p = { p with pc := (fallPart p).pc, loops := (fallPart p).loops } := by
  unfold fallPart
  split
  · rfl
  · split
    · split <;> rfl
    · rfl

theorem fallPart_setPend (p : Part) (ys : List Pend) : fallPart { p with pend := ys } = { fallPart p with pend := ys } := by
  unfold fallPart
  dsimp only
  cases p.loops.getLast? with
  | none => rfl
  | some l =>
    dsimp only
    split_ifs <;> rfl

/-- What a part is behind the word it waited at. -/
theorem passPart_eq (cycle : Nat) (p : Part) :
    passPart cycle p = { p with wait := .ready, readyAt := cycle, pc := (fallPart p).pc, loops := (fallPart p).loops,
                                prefixPc := none, prefixHi := none, prefixK := none, prefixN := 0 } := by
  unfold passPart
  rw [fallPart_frame p]
  rfl

@[simp] theorem passPart_q (cycle : Nat) (p : Part) : (passPart cycle p).q = p.q := fallPart_q p

@[simp] theorem againPart_q (cycle : Nat) (p : Part) : (againPart cycle p).q = p.q := rfl

@[simp] theorem popRecord_q (p : Part) : (popRecord p).q = p.q := by
  unfold popRecord
  split <;> rfl

@[simp] theorem fuseDone_q (cycle : Nat) (w : Wave) (p : Part) : (fuseDone cycle w p).q = p.q := by
  unfold fuseDone
  split
  · split <;> rfl
  · simp [apply_ite Part.q]
  · rfl

@[simp] theorem resumePart_q (cycle b : Nat) (p : Part) : (resumePart cycle b p).q = p.q := by
  unfold resumePart
  split
  · split <;> simp
  · split <;> rfl
  · rfl

/-! ## Sleeps and timeouts (R214, R327, R334, R335, R431) -/

theorem execSleepExpiry_sleep {s : State} {key q : Nat} {w : Wave} {p : Part} {u : Nat} (hw : s.wave key = some w)
    (hp : partAt w.parts q = some p) (hs : w.stopped = false) (h : p.wait = .sleep u) :
    execSleepExpiry key q s = .next (if u ≤ cycleOf s (coreOf key) then s.modPart key q (wakePart (cycleOf s (coreOf key))) else s) :=
  congrArg Host.Outcome.next (modWave_partMod_ite hw hp (by simp [sleepDue, h, hs]))

theorem execSleepwExpiry_time {s : State} {key q : Nat} {w : Wave} {p : Part} {t : Nat} (hw : s.wave key = some w)
    (hp : partAt w.parts q = some p) (hs : w.stopped = false) (h : p.wait = .cond (.time t)) :
    execSleepwExpiry key q s = .next (if t ≤ s.time then s.modPart key q (wakePart (cycleOf s (coreOf key))) else s) :=
  congrArg Host.Outcome.next (modWave_partMod_ite hw hp (by simp [timeDue, h, hs]))

theorem execCsleepTimeout_ring {s : State} {key q : Nat} {w : Wave} {p : Part} {n t : Nat} (hw : s.wave key = some w)
    (hp : partAt w.parts q = some p) (hs : w.stopped = false) (h : p.wait = .cond (.ring n (some t))) :
    execCsleepTimeout key q s = .next (if t ≤ s.time then s.modPart key q (wakePart (cycleOf s (coreOf key))) else s) :=
  congrArg Host.Outcome.next (modWave_partMod_ite hw hp (by simp [h, hs]))

theorem execSwaitcTimeout_signal {s : State} {key q : Nat} {w : Wave} {p : Part} {a v m t : Nat} (hw : s.wave key = some w)
    (hp : partAt w.parts q = some p) (hs : w.stopped = false) (h : p.wait = .cond (.signal a v m (some t))) :
    execSwaitcTimeout key q s = .next (if t ≤ s.time then s.modPart key q (wakePart (cycleOf s (coreOf key))) else s) :=
  congrArg Host.Outcome.next (modWave_partMod_ite hw hp (by simp [h, hs]))

/-! ## The deadline of an RCV (R28) -/

theorem deadlineDue_iff {s : State} {w : Wave} {p : Part} {k : FuseKind} {d c : Nat} (h : p.wait = .fuse k (some d) c) :
    deadlineDue s w p = true ↔ d < cycleOf s (coreOf w.key) ∨ d = cycleOf s (coreOf w.key) ∧
      (portFree s (quarterOf w.key) = false ∨ ∀ x ∈ w.parts, x.wait = .ready → x.halted = true) := by
  simp [deadlineDue, h]

theorem execRcvDeadline_eq {s : State} {key q : Nat} {w : Wave} {p : Part} (hw : s.wave key = some w) (hp : partAt w.parts q = some p)
    (hs : w.stopped = false) : execRcvDeadline key q s = .next (if deadlineDue s w p = true then fuseNow key s else s) := by
  unfold State.wave at hw
  simp [execRcvDeadline, hw, hp, hs]

/-- Once its deadline has come, a part at RCV goes on alone. -/
theorem fuseDone_rcv {cycle d c : Nat} {p : Part} (w : Wave) (h : p.wait = .fuse .rcv (some d) c) (hd : d ≤ cycle) :
    fuseDone cycle w p = passPart cycle p := by
  simp [fuseDone, popRecord, h, hd]

/-- Where no two parts may fuse, the fuse checks only end waits, and nothing traps. -/
theorem fuseWave_alone {w : Wave} (cycle : Nat) (h : findFuse w.parts = none) :
    fuseWave cycle w = ({ w with parts := w.parts.map (fuseDone cycle w) }, []) := by
  simp [fuseWave, fuseLoop, h]

theorem wave_fuseNow_alone {s : State} {key : Nat} {w : Wave} (hw : s.wave key = some w) (h : findFuse w.parts = none) :
    (fuseNow key s).wave key = some { w with parts := w.parts.map (fuseDone (cycleOf s (coreOf key)) w) } := by
  unfold State.wave at hw ⊢
  simp [fuseNow, hw, fuseWave_alone _ h, traceFused]

/-- A part at RCV whose deadline has come is behind it after the fuse checks. -/
theorem part_fuseNow_rcv {s : State} {key q d c : Nat} {w : Wave} {p : Part} (hw : s.wave key = some w) (hp : partAt w.parts q = some p)
    (h : findFuse w.parts = none) (hr : p.wait = .fuse .rcv (some d) c) (hd : d ≤ cycleOf s (coreOf key)) :
    (fuseNow key s).part key q = some (passPart (cycleOf s (coreOf key)) p) := by
  rw [State.part, wave_fuseNow_alone hw h, Option.bind_some, partAt_map _ (fuseDone_q _ w), hp, Option.map_some, fuseDone_rcv w hr hd]

/-! ## Ages (R59) -/

theorem execAgemaxReached_ready {s : State} {key q : Nat} {w : Wave} {p : Part} (hw : s.wave key = some w) (hp : partAt w.parts q = some p)
    (hs : w.stopped = false) (hr : p.wait = .ready) :
    execAgemaxReached key q s = .next (if agemaxOf s w ≤ cycleOf s (coreOf w.key) - p.readyAt then
      s.modPart key q fun x => { x with class4 := true } else s) := by
  simp [execAgemaxReached, State.part, partAge, hw, hp, hs, hr]

/-! ## The periodic SUMMARY (R447) -/

/-- Writing a SUMMARY changes only what the wave counts for the next one. -/
theorem wave_traceSummary {s : State} {key : Nat} {w : Wave} (hw : s.wave key = some w) :
    ∃ a b, (traceSummary key s).wave key = some { w with sumWords := a, sumWait := b } := by
  have hw' : kget s.waves key = some w := hw
  unfold traceSummary
  rw [hw']
  dsimp only
  split_ifs
  · split
    · exact ⟨w.sumWords, w.sumWait, hw⟩
    · refine ⟨0, 0, ?_⟩
      rw [wave_modWave_same, wave_eq s _ key (postTrace_same _ _ s).1, hw]
      rfl
  · exact ⟨w.sumWords, w.sumWait, hw⟩

theorem residence_running {s : State} {w : Wave} (hs : w.stopped = false) :
    residence s w = (w.cycBase + (cycleOf s (coreOf w.key) - w.cycle0)) / 65536 := by
  simp [residence, waveCycles, hs]

theorem execTraceSummaryTimer_running {s : State} {key : Nat} {w : Wave} (hw : s.wave key = some w) (hs : w.stopped = false) :
    execTraceSummaryTimer key s = .next (if w.sumMark < residence s w then
      (traceSummary key s).modWave key fun x => { x with sumMark := residence s w } else s) := by
  obtain ⟨a, b, ht⟩ := wave_traceSummary hw
  have hmark : ((traceSummary key s).modWave key fun x => { x with sumMark := residence s x }) =
      (traceSummary key s).modWave key fun x => { x with sumMark := residence s w } := modWave_congr ht rfl
  simp [execTraceSummaryTimer, hw, hs, hmark]

/-! ## Phase boundaries (R43) -/

/-- The boundary takes only pending writebacks from a part. -/
theorem partAt_boundaryWave {w : Wave} {q : Nat} {p : Part} (keep : List Nat) (hp : partAt w.parts q = some p) :
    ∃ ys, partAt (boundaryWave keep w).parts q = some { p with pend := ys } := by
  unfold boundaryWave
  dsimp only
  rw [partAt_map, hp]
  · exact ⟨_, rfl⟩
  · exact fun _ => rfl

/-- A part that waits at BARP for the barrier of the phase goes on behind it. -/
theorem resumePart_barrier {p : Part} {b : Nat} {ph own : Bool} (cycle : Nat) (h : p.wait = .barrier b ph own) :
    resumePart cycle b p = passPart cycle p := by
  simp [resumePart, h]

/-- A wave of the workgroup whose next phase begins. -/
def resumedWave (cycle b : Nat) (keep : List Nat) (w : Wave) : Wave :=
  { boundaryWave keep w with parts := (boundaryWave keep w).parts.map (resumePart cycle b) }

theorem partAt_resumedWave {w : Wave} {q b : Nat} {p : Part} {ph own : Bool} (cycle : Nat) (keep : List Nat)
    (hp : partAt w.parts q = some p) (hb : p.wait = .barrier b ph own) :
    ∃ ys, partAt (resumedWave cycle b keep w).parts q = some { passPart cycle p with pend := ys } := by
  obtain ⟨ys, hys⟩ := partAt_boundaryWave keep hp
  refine ⟨ys, ?_⟩
  rw [resumedWave, partAt_map _ (resumePart_q cycle b), hys, Option.map_some, resumePart_barrier cycle (p := { p with pend := ys }) hb,
    passPart, fallPart_setPend]
  rfl

/-- What serving the head of a phase queue leaves: the queue behind the head, the workgroup outside its boundary, and its waves resumed. -/
theorem execPhaseResume_head {s : State} {core id b : Nat} {rest : List Nat} {g : Wg} (hq : (s.core core).phaseQueue = id :: rest)
    (hg : kget s.wgs id = some g) (hb : g.phaseAt = some b) :
    ∃ t, ∃ keep : Wave → List Nat, execPhaseResume core s = .next t ∧ (t.core core).phaseQueue = rest ∧
      kget t.wgs id = some { g with phaseAt := none } ∧
      t.waves = modWaves (fun w => resumedWave (cycleOf s core) b (keep w) w) s.waves g.waves := by
  simp only [execPhaseResume, hq, modCore_wgs, hg, hb]
  refine ⟨_, fun w => carrySet _ w b, rfl, ?_, ?_, rfl⟩
  · simp [State.core, kgetD]
  · simp [hg]

/-- The parts of the workgroup that wait at the boundary go on behind their BARP. -/
theorem part_of_resumed {s t : State} {cycle b : Nat} {ks : List Nat} {keep : Wave → List Nat} {k q : Nat} {w : Wave} {p : Part} {ph own : Bool}
    (ht : t.waves = modWaves (fun w => resumedWave cycle b (keep w) w) s.waves ks) (hn : ks.Nodup) (hk : k ∈ ks) (hw : s.wave k = some w)
    (hp : partAt w.parts q = some p) (hb : p.wait = .barrier b ph own) :
    ∃ ys, t.part k q = some { passPart cycle p with pend := ys } := by
  obtain ⟨ys, hys⟩ := partAt_resumedWave cycle (keep w) hp hb
  have hwt : t.wave k = some (resumedWave cycle b (keep w) w) := by
    rw [State.wave, ht, kget_modWaves_of_mem _ hn hk, show kget s.waves k = some w from hw, Option.map_some]
  exact ⟨ys, by rw [State.part, hwt, Option.bind_some, hys]⟩

end Sys2Proof.Proofs
end

section
/-! The statement on the events that end a wait. -/

namespace Sys2Proof.Proofs

open Sys2Proof.Machine Sys2Proof.Laws

/-- Settles O39: each event decides on the part that is there, and the part it wakes is as `wakePart` or `passPart` makes it. -/
theorem waitEvents : Obligations.WaitEvents := by
  unfold Obligations.WaitEvents
  refine ⟨?part, ?summary, ?idle, ?phase⟩
  case part =>
    intro s key q w p hw hp hs hkey now woken
    refine ⟨fun _ => execSleepExpiry_sleep hw hp hs, fun _ => execSleepwExpiry_time hw hp hs, fun _ _ => execCsleepTimeout_ring hw hp hs,
      fun _ _ _ _ => execSwaitcTimeout_signal hw hp hs, ?rcv, ?age⟩
    case rcv =>
      intro d c hr
      have hexec : exec (.rcvDeadline key q) s = .next (if deadlineDue s w p = true then fuseNow key s else s) :=
        execRcvDeadline_eq hw hp hs
      have hdue := deadlineDue_iff (s := s) (w := w) hr
      rw [hkey] at hdue
      refine ⟨fun hd => ?early, fun hd hport hx => ?buddy, fun hd hf => ?alone⟩
      case early => rw [hexec, if_neg (by rw [hdue]; omega)]
      case buddy =>
        obtain ⟨x, hx, hready, hrun⟩ := hx
        rw [hexec, if_neg]
        rw [hdue]
        rintro (hlt | ⟨-, hno | hall⟩)
        · omega
        · simp [hport] at hno
        · simp [hall x hx hready] at hrun
      case alone =>
        rw [if_pos (hdue.2 hd)] at hexec
        have hle : d ≤ now := by omega
        exact ⟨_, _, hexec, part_fuseNow_rcv hw hp hf hr hle, passPart_eq now p⟩
    case age =>
      intro hr
      have h := execAgemaxReached_ready hw hp hs hr
      rw [hkey] at h
      exact h
  case summary =>
    intro s key w hw hs n
    have h := execTraceSummaryTimer_running hw hs
    rw [residence_running hs] at h
    exact h
  case idle =>
    intro s core hq
    show execPhaseResume core s = .next s
    simp only [execPhaseResume, hq]
  case phase =>
    intro s core id rest g b hq hg hb hn
    obtain ⟨t, keep, hexec, hrest, hwg, hwaves⟩ := execPhaseResume_head hq hg hb
    refine ⟨t, hexec, hrest, hwg, fun k hk w q p ph hw hp hwait => ?_⟩
    obtain ⟨ys, hpart⟩ := part_of_resumed hwaves hn hk hw hp hwait
    rw [passPart_eq] at hpart
    exact ⟨_, hpart, rfl, rfl, rfl, rfl⟩

end Sys2Proof.Proofs
end

section
/-! Transfers of control and the words that wait: what the condition of each word comes to (R76, R209, R210). -/

namespace Sys2Proof.Proofs

open Sys2Proof.Machine Sys2Proof.Laws Sys2Proof.Safety

/-! ## Words that wait before they complete -/

/-- A word that waits before it completes holds. -/
theorem holdsIf_intro (P : State → Ctx → Prop) (i : Bool → Instr) (sig : Ctx → Sig) (wt : Ctx → State → Wait) (eff : Ctx → State → State)
    (idle body : Ctx → State → Res) (he : ∀ z s, exec (i z) s = issueWord z sig idle body s)
    (hb : ∀ z s c, Ready z s c (sig c) → P s c → body c (begun c (sig c) s) = .hold (eff c (begun c (sig c) s)) (wt c (begun c (sig c) s))) :
    HoldsIf P i sig wt eff := by
  intro z s c h hp
  rw [he, issueWord_ready z sig idle body s c h, hb z s c h hp]
  rfl

/-! ## The meanings of the words -/

theorem exec_bra (z : Bool) (o : BitVec 25) (s : State) : exec (.bra z o) s = execBra z o s := rfl

theorem exec_call (z : Bool) (o : BitVec 25) (s : State) : exec (.call z o) s = execCall z o s := rfl

theorem exec_brw (z : Bool) (a : BitVec 7) (o : BitVec 18) (s : State) : exec (.brw z a o) s = execBrw z a o s := rfl

theorem exec_brwz (z : Bool) (a : BitVec 7) (o : BitVec 18) (s : State) : exec (.brwz z a o) s = execBrwz z a o s := rfl

theorem exec_jmpi (z : Bool) (a : BitVec 7) (s : State) : exec (.jmpi z a) s = execJmpi z a s := rfl

theorem exec_ret (z : Bool) (s : State) : exec (.ret z) s = execRet z s := rfl

theorem exec_calli (z : Bool) (a : BitVec 7) (s : State) : exec (.calli z a) s = execCalli z a s := rfl

theorem exec_brd (z : Bool) (a : BitVec 7) (o : BitVec 18) (s : State) : exec (.brd z a o) s = execBrd z a o s := rfl

/-! ## Targets (R209) -/

/-- A multiple of 4 is a word with its two low bits clear. -/
theorem aligned4_iff (t : Word) : aligned4 t = true ↔ t &&& 3#32 = 0#32 := by
  have hmod : (t &&& 3#32).toNat = t.toNat % 4 := by
    rw [BitVec.toNat_and]
    exact Nat.and_two_pow_sub_one_eq_mod t.toNat 2
  rw [aligned4, decide_eq_true_eq, ← BitVec.toNat_inj, ← BitVec.toNat_inj (y := 0#32), hmod, BitVec.extractLsb'_toNat]
  simp

/-- A jump to a multiple of 4 is taken. -/
theorem jumpTo_aligned {c : Ctx} {t : Word} {s s' : State} (h : t &&& 3#32 = 0#32) : jumpTo c t s s' = takeTo c t s' :=
  if_pos ((aligned4_iff t).2 h)

/-- A jump to any other address raises PCALIGN. -/
theorem jumpTo_unaligned {c : Ctx} {t : Word} {s s' : State} (h : ¬ t &&& 3#32 = 0#32) : jumpTo c t s s' = .trap s (pcAlign t) :=
  if_neg (mt (aligned4_iff t).1 h)

/-- A transfer word with no active lane falls through, and folds that it is not taken. -/
theorem idlesIf_transfer (i : Bool → Instr) (sig : Ctx → Sig) (body : Ctx → State → Res)
    (he : ∀ z s, exec (i z) s = issueWord z sig idleTransfer body s) (hn : ∀ c, (sig c).minQuads = none) :
    IdlesIf (fun _ _ => True) i (fun c s => foldSig c.key c.p.pc c.q false s) :=
  idlesFor_intro _ i sig _ _ idleTransfer body he hn fun _ _ _ => rfl

/-! ## The outcomes of a BRD (R210) -/

/-- A mask is the sum of the bits it names. -/
theorem laneMask_eq_sum (ls : List Nat) : laneMask ls = (ls.map (2 ^ ·)).sum := by
  rw [laneMask, ← List.foldl_map (f := fun l => 2 ^ l) (g := fun m x => m + x), List.sum_eq_foldl]

/-- A mask is zero exactly when it names nothing. -/
theorem laneMask_eq_zero_iff (ls : List Nat) : laneMask ls = 0 ↔ ls = [] := by
  rw [laneMask_eq_sum]
  cases ls with
  | nil => simp
  | cons l ls => simp

/-- No quad of the part disagrees exactly when the divergence mask is zero. -/
theorem divMask_eq_zero_iff (c : Ctx) (cond : Nat → Bool) :
    divMask c cond = 0 ↔ ∀ k ∈ partQuads c.p, ((quadActive c k).any cond && (quadActive c k).any fun l => !cond l) = false := by
  simp only [divMask, laneMask_eq_zero_iff, List.filter_eq_nil_iff, Bool.not_eq_true]

/-- A block holds one outcome when each of its quads has that of the first. -/
theorem sameOutcome_iff (out : Nat → Bool) (q n : Nat) :
    sameOutcome out q n = true ↔ ∀ k ∈ (List.range n).map (· + q), out k = out q := by
  simp [sameOutcome, Nat.add_comm]

variable {a : BitVec 7} {o : BitVec 18} {c : Ctx} {s : State}

/-- The outcome of each quad of a BRD. -/
def brdOut (a : BitVec 7) (c : Ctx) : Nat → Bool := quadOut c fun l => decide (c.read a l ≠ 0#32)

theorem brdBody_mixed (h : divMask c (fun l => decide (c.read a l ≠ 0#32)) ≠ 0) :
    brdBody a o c s = .trap s { cause := 0x04, info := BitVec.ofNat 32 (divMask c fun l => decide (c.read a l ≠ 0#32)) } :=
  if_pos h

/-- With one outcome in every quad the part jumps or falls through. -/
theorem brdBody_whole (hm : divMask c (fun l => decide (c.read a l ≠ 0#32)) = 0) (hs : sameOutcome (brdOut a c) c.p.q c.p.n = true) :
    brdBody a o c s = if brdOut a c c.p.q = true then .goto (foldQuads c (brdOut a c) s) (targetOf c (o.signExtend 32))
      else .fall (foldQuads c (brdOut a c) s) 1 :=
  (if_neg (not_not_intro hm)).trans (if_pos hs)

/-- The state that a BRD which splits its part leaves. -/
def brdSplit (a : BitVec 7) (o : BitVec 18) (c : Ctx) (s : State) : State :=
  let s1 := foldQuads c (brdOut a c) s
  countEvent (coreOf c.key) 0x06 1 c.w.ctx (countSplit c (brdOut a c) (splitPart c.key
    ((partAt ((kgetD c.w s1.waves c.key).parts) c.q).getD c.p) (brdOut a c)
    (fun taken p => if taken then { p with pc := targetOf c (o.signExtend 32) } else fallPart p) (foldBlocks c (brdOut a c) s1)))

theorem brdBody_split (hm : divMask c (fun l => decide (c.read a l ≠ 0#32)) = 0) (hs : ¬ sameOutcome (brdOut a c) c.p.q c.p.n = true) :
    brdBody a o c s = .custom (brdSplit a o c s) 3 :=
  (if_neg (not_not_intro hm)).trans (if_neg hs)

end Sys2Proof.Proofs
end

section
/-! The statement on the transfers of control. -/

namespace Sys2Proof.Proofs

open Sys2Proof.Machine Sys2Proof.Laws Sys2Proof.Safety

/-- Settles O22: a computed target is taken when it is a multiple of 4; BRD goes by its divergence mask and by whether its quads have one
outcome. -/
theorem branchWords : Obligations.BranchWords := by
  refine ⟨fun a o o18 => ⟨?bra, ?call, ?brwTaken, ?brwNot, ?brwzTaken, ?brwzNot, ?jmpi, ?jmpiBad, ?ret, ?retBad, ?calli, ?calliBad,
    ?idleBra, ?idleCall, ?idleBrw, ?idleBrwz, ?idleJmpi, ?idleRet, ?idleCalli⟩,
    fun a o => ⟨?brdMixed, ?brdJump, ?brdFall, ?brdSplit, ?idleBrd⟩⟩
  case bra => exact jumpsIf_intro _ _ _ _ _ _ _ (exec_bra · o) fun _ _ _ _ _ => rfl
  case call => exact jumpsIf_intro _ _ _ _ _ _ _ (exec_call · o) fun _ _ _ _ _ => rfl
  case brwTaken => exact jumpsIf_intro _ _ _ _ _ _ _ (exec_brw · a o18) fun _ _ _ _ h => if_pos h
  case brwNot => exact fallsIf_intro _ _ _ _ _ _ _ (exec_brw · a o18) fun _ _ _ _ h => if_neg (not_not_intro h)
  case brwzTaken => exact jumpsIf_intro _ _ _ _ _ _ _ (exec_brwz · a o18) fun _ _ _ _ h => if_pos h
  case brwzNot => exact fallsIf_intro _ _ _ _ _ _ _ (exec_brwz · a o18) fun _ _ _ _ h => if_neg h
  case jmpi => exact jumpsIf_intro _ _ _ _ _ _ _ (exec_jmpi · a) fun _ _ _ _ h => jumpTo_aligned h
  case jmpiBad => exact trapsIf_intro _ _ _ _ _ _ (exec_jmpi · a) fun _ _ _ _ h => jumpTo_unaligned h
  case ret => exact jumpsIf_intro _ _ _ _ _ _ _ exec_ret fun _ _ _ _ h => jumpTo_aligned h
  case retBad => exact trapsIf_intro _ _ _ _ _ _ exec_ret fun _ _ _ _ h => jumpTo_unaligned h
  case calli => exact jumpsIf_intro _ _ _ _ _ _ _ (exec_calli · a) fun _ _ _ _ h => jumpTo_aligned h
  case calliBad => exact trapsIf_intro _ _ _ _ _ _ (exec_calli · a) fun _ _ _ _ h => jumpTo_unaligned h
  case brdMixed =>
    refine trapsIf_intro _ _ _ _ _ _ (exec_brd · a o) fun _ s c _ h => ?_
    have hm : divMask c (fun l => decide (c.read a l ≠ 0#32)) ≠ 0 := mt (divMask_eq_zero_iff c _).1 h
    rw [brdBody_mixed hm, divMask, laneMask_eq_sum]
    rfl
  case brdJump =>
    refine jumpsIf_intro _ _ _ _ _ _ _ (exec_brd · a o) fun _ s c _ h => ?_
    obtain ⟨hclear, hwhole, hout⟩ := h
    exact (brdBody_whole ((divMask_eq_zero_iff c _).2 hclear) ((sameOutcome_iff _ _ _).2 hwhole)).trans (if_pos hout)
  case brdFall =>
    refine fallsIf_intro _ _ _ _ _ _ _ (exec_brd · a o) fun _ s c _ h => ?_
    obtain ⟨hclear, hwhole, hout⟩ := h
    exact (brdBody_whole ((divMask_eq_zero_iff c _).2 hclear) ((sameOutcome_iff _ _ _).2 hwhole)).trans
      (if_neg (Bool.not_eq_true _ ▸ hout))
  case brdSplit =>
    refine placesIf_intro _ _ _ _ _ _ _ (exec_brd · a o) fun _ s c _ h => ?_
    obtain ⟨hclear, hsplit⟩ := h
    exact brdBody_split ((divMask_eq_zero_iff c _).2 hclear) (mt (sameOutcome_iff _ _ _).1 hsplit)
  case idleBra => exact idlesIf_transfer _ _ _ (exec_bra · o) fun _ => rfl
  case idleCall => exact idlesIf_transfer _ _ _ (exec_call · o) fun _ => rfl
  case idleBrw => exact idlesIf_transfer _ _ _ (exec_brw · a o18) fun _ => rfl
  case idleBrwz => exact idlesIf_transfer _ _ _ (exec_brwz · a o18) fun _ => rfl
  case idleJmpi => exact idlesIf_transfer _ _ _ (exec_jmpi · a) fun _ => rfl
  case idleRet => exact idlesIf_transfer _ _ _ exec_ret fun _ => rfl
  case idleCalli => exact idlesIf_transfer _ _ _ (exec_calli · a) fun _ => rfl
  case idleBrd => exact idlesIf_transfer _ _ _ (exec_brd · a o) fun _ => rfl

end Sys2Proof.Proofs
end

section
/-! Fuse points (R27 to R30): a part at one falls through or waits, with active lanes and without. -/

namespace Sys2Proof.Proofs

open Sys2Proof.Machine Sys2Proof.Laws Sys2Proof.Safety

theorem exec_rcv (z : Bool) (i : BitVec 14) (s : State) : exec (.rcv z i) s = execRcv z i s := rfl

theorem exec_rcvW (z : Bool) (s : State) : exec (.rcvW z) s = execRcvW z s := rfl

theorem exec_endif (z : Bool) (s : State) : exec (.endif z) s = execEndif z s := rfl

/-- No fuse can come: the part covers its wave, or its buddy block has a terminated quad (R28, R29). -/
def FusesNoMore (c : Ctx) : Prop := 4 * c.p.n = c.w.width ∨ blockEnded c.w (buddyOf c.p.q c.p.n) c.p.n = true

/-- The state of a part that goes on at a fuse point: an ENDIF has popped its record (R426). -/
def passPoint (kind : FuseKind) (c : Ctx) (s : State) : State :=
  match kind with
  | .endif _ => s.modPart c.key c.q fun p => { p with recs := p.recs.drop 1 }
  | _ => s

/-- The state of a part that has stood at a fuse point through the fuse checks of the cycle (R27, R28). -/
def waitPoint (kind : FuseKind) (t : Option Nat) (c : Ctx) (s : State) : State :=
  fuseNow c.key ((closeWindows c.key c.q s).modPart c.key c.q fun p =>
    { keepPrefix c (settleRole p) with
      wait := .fuse kind (t.map fun n => cycleOf s (coreOf c.key) + 16 * n) (cycleOf s (coreOf c.key)),
      readyAt := cycleOf s (coreOf c.key) })

theorem fusesNoMore_iff (c : Ctx) :
    (decide (4 * c.p.n = c.w.width) || blockEnded c.w (buddyOf c.p.q c.p.n) c.p.n) = true ↔ FusesNoMore c := by
  simp [FusesNoMore]

theorem fusePoint_pass {kind : FuseKind} {t : Option Nat} {c : Ctx} {s : State} (h : FusesNoMore c) :
    fusePoint kind t c s = .fall (passPoint kind c s) 1 := by
  cases kind <;> exact if_pos ((fusesNoMore_iff c).2 h)

theorem fusePoint_wait {kind : FuseKind} {t : Option Nat} {c : Ctx} {s : State} (h : ¬ FusesNoMore c) :
    fusePoint kind t c s = .custom (waitPoint kind t c s)
      (if ((kget (waitPoint kind t c s).waves c.key).map (·.parts.length)) = some c.w.parts.length then 2 else 3) :=
  if_neg (mt (fusesNoMore_iff c).1 h)

/-- A word with one effect, with active lanes or without, takes it whenever the part can issue. -/
theorem issueWord_either {z live : Bool} {g : Sig} {body : Ctx → State → Res} {s : State} {c : Ctx} (hc : issueCtx z s = some c)
    (hg : guardHits c = []) (hp : guardPoison c = false) (hn : g.minQuads = none) (hidle : live = false → c.act = [])
    (hready : live = true → Ready z s c g) : issueWord z (fun _ => g) body body s = finish c s (body c (begun c g s)) := by
  cases live with
  | true => exact issueWord_ready z _ body body s c (hready rfl)
  | false => rw [issueWord_idle z _ body body s c hc hg hp (by simp [tooNarrow, hn]) (hidle rfl), begun_idle c g s (hidle rfl)]

/-- A word that acts as a fuse point falls through where no fuse can come, and waits elsewhere. -/
theorem exec_fuseWord {w : Bool → Instr} {maj : Nat} {body : Ctx → State → Res} {P : Ctx → Prop} {kind : FuseKind} {t : Ctx → Option Nat}
    (he : ∀ z s, exec (w z) s = issueWord z (fun _ => { maj := maj }) body body s)
    (hb : ∀ c s, P c → body c s = fusePoint kind (t c) c s) (live z : Bool) (s : State) (c : Ctx) (hc : issueCtx z s = some c)
    (hg : guardHits c = []) (hp : guardPoison c = false) (hidle : live = false → c.act = [])
    (hready : live = true → Ready z s c { maj := maj }) (hP : P c) :
    let u := begun c { maj := maj } s
    (FusesNoMore c → exec (w z) s =
      .next (endWord c (1 * passes c.p.n + redirect c (passPoint kind c u)) none (fallThrough c (passPoint kind c u)))) ∧
    (¬ FusesNoMore c → exec (w z) s = .next (endWord c (passes c.p.n)
      (some (if (kget (waitPoint kind (t c) c u).waves c.key).map (·.parts.length) = some c.w.parts.length then 2 else 3))
      (waitPoint kind (t c) c u))) := by
  intro u
  have hexec : exec (w z) s = finish c s (fusePoint kind (t c) c u) := by
    rw [he, issueWord_either hc hg hp rfl hidle hready, hb c _ hP]
  refine ⟨fun h => ?pass, fun h => ?wait⟩
  case pass => rw [hexec, fusePoint_pass h, finish_fall]
  case wait => rw [hexec, fusePoint_wait h, finish_custom]

/-- An ENDIF at the address of the top record acts as RCV with ARBCFG.RTO (R30). -/
theorem endifBody_recorded {c : Ctx} {s : State} (h : ∃ r ∈ c.p.recs.head?, r.addr = c.p.pc) :
    endifBody c s = fusePoint (.endif false) (some c.w.rto) c s := by
  obtain ⟨r, hr, haddr⟩ := h
  have htop : topRecord c c.p.pc = some r := by
    rw [topRecord, Option.mem_def.1 hr, Option.filter_some, if_pos (decide_eq_true haddr)]
  rw [endifBody, htop]

end Sys2Proof.Proofs
end

section
/-! The statement on the words that wait for a buddy. -/

namespace Sys2Proof.Proofs

open Sys2Proof.Machine Sys2Proof.Laws Sys2Proof.Safety

/-- Settles O23: each word is a fuse point whether or not a lane is active. -/
theorem receiveWords : Obligations.ReceiveWords := by
  intro i
  have rcv := exec_fuseWord (P := fun _ => True) (t := fun _ => some i.toNat) (exec_rcv · i) fun _ _ _ => rfl
  have rcvW := exec_fuseWord (P := fun _ => True) (t := fun _ => none) exec_rcvW fun _ _ _ => rfl
  have endif := exec_fuseWord exec_endif fun _ _ => endifBody_recorded
  exact ⟨⟨rcv true, rcv false⟩, ⟨rcvW true, rcvW false⟩, ⟨endif true, endif false⟩⟩

end Sys2Proof.Proofs
end

section
/-! Workgroup barriers (R42, R433 to R435, R437): what a barrier word does by its count, by whether its wave has arrived, and by whether its
arrival completes the phase. -/

namespace Sys2Proof.Proofs

open Sys2Proof.Machine Sys2Proof.Laws Sys2Proof.Safety

/-! ## The meanings of the words -/

/-- The effect of BARP with its count (R42, R186, R434). -/
def barpBody (b e : Nat) (c : Ctx) (s : State) : Res :=
  if tokenPending c.p 0x3FFF then .hold s (.cond (.tokens 0x3FFF))
  else if phased s c.w then barBoundary b c s else barWait b e c s

theorem exec_bar (z : Bool) (a : BitVec 7) (b : BitVec 4) (s : State) :
    exec (.bar z a b) s = barWord z a (barWait b.toNat) s := rfl

theorem exec_barp (z : Bool) (a : BitVec 7) (b : BitVec 4) (s : State) :
    exec (.barp z a b) s = barWord z a (barpBody b.toNat) s := rfl

theorem exec_bara (z : Bool) (a : BitVec 7) (b : BitVec 4) (s : State) :
    exec (.bara z a b) s = barWord z a (barArrive b.toNat) s := rfl

theorem exec_barw (z : Bool) (b : BitVec 4) (s : State) : exec (.barw z b) s = execBarw z b s := rfl

theorem exec_barb (z : Bool) (a : BitVec 7) (i : BitVec 14) (s : State) : exec (.barb z a i) s = execBarb z a i s := rfl

/-! ## Counts (R433) -/

/-- The own effect of a barrier word with a count, some lane being active. -/
def countedBody (a : BitVec 7) (f : Nat → Ctx → State → Res) (c : Ctx) (s : State) : Res :=
  match barCount (c.read a 0) with
  | some e => f e c s
  | none => .trap s (illegal 0x2E 0x03)

variable {a : BitVec 7} {f : Nat → Ctx → State → Res} {c : Ctx} {s : State} {k : State → Res} {b e : Nat}

theorem countedBody_above (h : 16 < (c.read a 0).toNat) : countedBody a f c s = .trap s (illegal 0x2E 0x03) := by
  rw [countedBody, barCount, if_neg (by omega)]

theorem countedBody_within (h : (c.read a 0).toNat ≤ 16) : countedBody a f c s = f (c.read a 0).toNat c s := by
  rw [countedBody, barCount, if_pos h]

/-! ## Arrivals (R434, R435) -/

/-- No lane of the part sleeps on an FTAKE. -/
def Awake (c : Ctx) : Prop := takeWaits c (blockLanes c.p.q c.p.n) = []

theorem arrival_asleep (h : ¬ Awake c) :
    arrival b c s k = .brk (.board (takeWaits c (blockLanes c.p.q c.p.n)) (blockLanes c.p.q c.p.n)) := by
  have hne : (takeWaits c (blockLanes c.p.q c.p.n)).isEmpty = false := by simpa [Awake] using h
  simp [arrival, afterTakes, hne]

theorem arrival_again (ha : Awake c) (h : hasArrived s c.w b = true) :
    arrival b c s k = .hold s (.barrierNext b (barPhase s c.w b)) := by
  simp [arrival, show takeWaits c (blockLanes c.p.q c.p.n) = [] from ha, h]

theorem arrival_first (ha : Awake c) (h : hasArrived s c.w b = false) :
    arrival b c s k = k (s.modPart c.key c.q performReads) := by
  simp [arrival, show takeWaits c (blockLanes c.p.q c.p.n) = [] from ha, h]

/-- The arrival of the part in state `s`, its loads performed before it. -/
def arrived (b e : Nat) (c : Ctx) (s : State) : State :=
  arriveBar c.w.wg b e c.w c.p (s.modPart c.key c.q performReads)

/-- The arrival completes the phase. -/
def Completes (b e : Nat) (c : Ctx) (s : State) : Prop :=
  barPhase (completeBar c.w.wg b (arrived b e c s)) c.w b ≠ barPhase s c.w b

theorem barWait_completes (ha : Awake c) (h : hasArrived s c.w b = false) (hf : Completes b e c s) :
    barWait b e c s = .fall (completeBar c.w.wg b (arrived b e c s)) 1 := by
  rw [barWait, arrival_first ha h]
  exact if_pos (bne_iff_ne.2 hf)

theorem barWait_waits (ha : Awake c) (h : hasArrived s c.w b = false) (hf : ¬ Completes b e c s) :
    barWait b e c s = .custom (waitAt c (.barrier b (barPhase s c.w b) true) (closeWindows c.key c.q (arrived b e c s))) 2 := by
  rw [barWait, arrival_first ha h]
  exact if_neg (mt bne_iff_ne.1 hf)

/-! ## BARP (R42, R43) -/

theorem barpBody_tokens (h : ¬ tokenPending c.p 0x3FFF = false) : barpBody b e c s = .hold s (.cond (.tokens 0x3FFF)) :=
  if_pos (Bool.not_eq_false _ ▸ h)

theorem barpBody_flat (h : tokenPending c.p 0x3FFF = false) (hf : phased s c.w = false) : barpBody b e c s = barWait b e c s := by
  simp [barpBody, h, hf]

theorem barpBody_phased (h : tokenPending c.p 0x3FFF = false) (hf : ¬ phased s c.w = false) : barpBody b e c s = barBoundary b c s := by
  simp [barpBody, h, hf]

/-! ## BARB (R437) -/

theorem barbBody_outside {i : BitVec 14} (h : ¬ 128 * i.toNat + 64 ≤ (kgetD {} s.grids c.w.grid).launch.scratch) :
    barbBody a i c s = .trap s (addrTrap 0x0E { lane := c.l0, ea := (s.partition c.w.partition).apshared + 128 * i.toNat, n := 64 }) :=
  if_pos (Nat.lt_of_not_le h)

theorem barbBody_range {i : BitVec 14} (h : 128 * i.toNat + 64 ≤ (kgetD {} s.grids c.w.grid).launch.scratch)
    (hx : (c.read a 0).toNat = 0 ∨ 2 ^ 24 ≤ (c.read a 0).toNat) : barbBody a i c s = .trap s (illegal 0x2E 0x03) :=
  (if_neg (Nat.not_lt.2 h)).trans (if_pos hx)

/-! ## The clauses that the counted words share -/

/-- The checks of a barrier word with a count. -/
def barSig (a : BitVec 7) (_ : Ctx) : Sig := { maj := 0x2E, opds := [uniOpd a] }

section Counted

variable {w : Bool → Instr} {P : State → Ctx → Prop} (hw : ∀ z s, exec (w z) s = barWord z a f s)

include hw

theorem counted_traps : TrapsIf (fun _ c => 16 < (c.read a 0).toNat) w (barSig a) fun _ => illegal 0x2E 0x03 :=
  trapsIf_intro _ _ _ _ _ _ hw fun _ _ _ _ h => countedBody_above h

/-- An arrival waits for the FTAKEs of its lanes (log 24). -/
theorem counted_sleeps (hf : ∀ s c, P s c → ∃ k, f (c.read a 0).toNat c (begun c (barSig a c) s) = arrival b c (begun c (barSig a c) s) k) :
    WaitsIf (fun s c => P s c ∧ (c.read a 0).toNat ≤ 16 ∧ ¬ Awake c) w (barSig a)
      fun c => .board (takeWaits c (blockLanes c.p.q c.p.n)) (blockLanes c.p.q c.p.n) := by
  refine waitsIf_intro _ _ _ _ _ _ hw fun _ s c _ h => ?_
  obtain ⟨hP, hcount, hasleep⟩ := h
  obtain ⟨k, hk⟩ := hf s c hP
  exact (countedBody_within hcount).trans (hk.trans (arrival_asleep hasleep))

/-- A wave arrives once in a phase (R434). -/
theorem counted_again (hf : ∀ s c, P s c → ∃ k, f (c.read a 0).toNat c (begun c (barSig a c) s) = arrival b c (begun c (barSig a c) s) k) :
    HoldsIf (fun s c => P s c ∧ (c.read a 0).toNat ≤ 16 ∧ Awake c ∧ hasArrived s c.w b = true) w (barSig a)
      (fun c s => .barrierNext b (barPhase s c.w b)) fun _ s => s := by
  refine holdsIf_intro _ _ _ _ _ _ _ hw fun _ s c _ h => ?_
  obtain ⟨hP, hcount, hawake, harrived⟩ := h
  obtain ⟨k, hk⟩ := hf s c hP
  exact (countedBody_within hcount).trans (hk.trans (arrival_again hawake harrived))

variable (hf : ∀ s c, P s c → f (c.read a 0).toNat c (begun c (barSig a c) s) = barWait b (c.read a 0).toNat c (begun c (barSig a c) s))

include hf

theorem barWait_goesOn :
    FallsIf (fun s c => P s c ∧ ((c.read a 0).toNat ≤ 16 ∧ Awake c ∧ hasArrived s c.w b = false) ∧
      Completes b (c.read a 0).toNat c (begun c (barSig a c) s)) w (barSig a) (fun _ => 1)
      fun c s => completeBar c.w.wg b (arrived b (c.read a 0).toNat c s) := by
  refine fallsIf_intro _ _ _ _ _ _ _ hw fun _ s c _ h => ?_
  obtain ⟨hP, ⟨hcount, hawake, hfresh⟩, hfull⟩ := h
  exact (countedBody_within hcount).trans ((hf s c hP).trans (barWait_completes hawake hfresh hfull))

theorem barWait_stands :
    PlacesIf (fun s c => P s c ∧ ((c.read a 0).toNat ≤ 16 ∧ Awake c ∧ hasArrived s c.w b = false) ∧
      ¬ Completes b (c.read a 0).toNat c (begun c (barSig a c) s)) w (barSig a) (some 2)
      fun c s => waitAt c (.barrier b (barPhase s c.w b) true) (closeWindows c.key c.q (arrived b (c.read a 0).toNat c s)) := by
  refine placesIf_intro _ _ _ _ _ _ _ hw fun _ s c _ h => ?_
  obtain ⟨hP, ⟨hcount, hawake, hfresh⟩, hopen⟩ := h
  exact (countedBody_within hcount).trans ((hf s c hP).trans (barWait_waits hawake hfresh hopen))

end Counted

end Sys2Proof.Proofs
end

section
/-! The statement on the barrier words. -/

namespace Sys2Proof.Proofs

open Sys2Proof.Machine Sys2Proof.Laws Sys2Proof.Safety

/-- Settles O27: every word with a count goes by its count and is an arrival; BAR, and BARP outside PHASED grids, wait as `barWait` says. -/
theorem barrierWords : Obligations.BarrierWords := by
  intro a b i
  have flatIs : ∀ s c, (phased s c.w = false ∧ tokenPending c.p 0x3FFF = false) →
      barpBody b.toNat (c.read a 0).toNat c (begun c (barSig a c) s) = barWait b.toNat (c.read a 0).toNat c (begun c (barSig a c) s) :=
    fun _ _ ⟨hflat, hquiet⟩ => barpBody_flat hquiet hflat
  have phasedIs : ∀ s c, (¬ phased s c.w = false ∧ tokenPending c.p 0x3FFF = false) →
      barpBody b.toNat (c.read a 0).toNat c (begun c (barSig a c) s) = barBoundary b.toNat c (begun c (barSig a c) s) :=
    fun _ _ ⟨hphased, hquiet⟩ => barpBody_phased hquiet hphased
  refine ⟨⟨?barTraps, ?barSleeps, ?barAgain, ?barOn, ?barStands⟩, ⟨?barpTraps, ?barpSleeps, ?barpAgain, ?barpOn, ?barpStands⟩,
    ?barpTokens, ?phasedSleeps, ?phasedAgain, ?phasedStands, ?baraTraps, ?baraSleeps, ?baraAgain, ?baraOn, ?barw, ?barbOutside, ?barbRange,
    ?barbArms⟩
  case barTraps => exact counted_traps (exec_bar · a b)
  case barSleeps => exact counted_sleeps (exec_bar · a b) fun _ _ _ => ⟨_, rfl⟩
  case barAgain => exact counted_again (exec_bar · a b) fun _ _ _ => ⟨_, rfl⟩
  case barOn => exact barWait_goesOn (exec_bar · a b) fun _ _ _ => rfl
  case barStands => exact barWait_stands (exec_bar · a b) fun _ _ _ => rfl
  case barpTraps => exact counted_traps (exec_barp · a b)
  case barpSleeps => exact counted_sleeps (exec_barp · a b) fun s c h => ⟨_, flatIs s c h⟩
  case barpAgain => exact counted_again (exec_barp · a b) fun s c h => ⟨_, flatIs s c h⟩
  case barpOn => exact barWait_goesOn (exec_barp · a b) flatIs
  case barpStands => exact barWait_stands (exec_barp · a b) flatIs
  case barpTokens =>
    refine holdsIf_intro _ _ _ _ _ _ _ (exec_barp · a b) fun _ s c _ h => ?_
    obtain ⟨hcount, hpending⟩ := h
    exact (countedBody_within hcount).trans (barpBody_tokens hpending)
  case phasedSleeps => exact counted_sleeps (exec_barp · a b) fun s c h => ⟨_, phasedIs s c h⟩
  case phasedAgain =>
    intro z s c hready ⟨hphased, hcame, hquiet⟩
    exact counted_again (exec_barp · a b) (fun s c h => ⟨_, phasedIs s c h⟩) z s c hready ⟨⟨hphased, hquiet⟩, hcame⟩
  case phasedStands =>
    refine placesIf_intro _ _ _ _ _ _ _ (exec_barp · a b) fun _ s c _ h => ?_
    obtain ⟨hphased, ⟨hcount, hawake, hfresh⟩, hquiet⟩ := h
    exact (countedBody_within hcount).trans ((phasedIs s c ⟨hphased, hquiet⟩).trans (arrival_first hawake hfresh))
  case baraTraps => exact counted_traps (exec_bara · a b)
  case baraSleeps => exact counted_sleeps (exec_bara · a b) fun _ _ _ => ⟨_, rfl⟩
  case baraAgain =>
    intro z s c hready hcame
    exact counted_again (P := fun _ _ => True) (exec_bara · a b) (fun _ _ _ => ⟨_, rfl⟩) z s c hready ⟨trivial, hcame⟩
  case baraOn =>
    refine fallsIf_intro _ _ _ _ _ _ _ (exec_bara · a b) fun _ s c _ h => ?_
    obtain ⟨hcount, hawake, hfresh⟩ := h
    exact (countedBody_within hcount).trans (arrival_first hawake hfresh)
  case barw => exact placesIf_intro _ _ _ _ _ _ _ (exec_barw · b) fun _ _ _ _ _ => rfl
  case barbOutside =>
    intro ap
    refine trapsIf_intro _ _ _ _ _ _ (exec_barb · a i) fun _ s c _ h => ?_
    obtain ⟨houtside, rfl⟩ := h
    exact barbBody_outside houtside
  case barbRange =>
    refine trapsIf_intro _ _ _ _ _ _ (exec_barb · a i) fun _ s c _ h => ?_
    obtain ⟨hinside, hrange⟩ := h
    exact barbBody_range hinside hrange
  case barbArms =>
    refine fallsIf_intro _ _ _ _ _ _ _ (exec_barb · a i) fun _ s c _ h => ?_
    obtain ⟨hinside, hpos, hlt⟩ := h
    exact (if_neg (Nat.not_lt.2 hinside)).trans (if_neg (not_or.2 ⟨hpos.ne', hlt.not_ge⟩))

end Sys2Proof.Proofs
end

section
/-! The end of a run, the split of a part into blocks, and what a trap makes of a part, as changes of waves (R21, R22, R54, R217 to R220). -/

namespace Sys2Proof.Proofs

open Sys2Proof.Machine Sys2Proof.Laws Sys2Proof.Safety

/-! ## The end of a run (R54) -/

theorem waves_traceRun (s : State) (w : Wave) (p : Part) (r : Run) (cause : Nat) : (traceRun s w p r cause s).waves = s.waves := by
  unfold traceRun
  dsimp only
  split
  · exact (postTrace_same _ _ s).1
  · rfl

/-- The end of a run only rests the parts of its wave. -/
theorem wave_closeRun {s : State} {key : Nat} {w v : Wave} {p : Part} {r : Run} {cause : Nat} (hv : s.wave key = some v) :
    ∃ cycle, (closeRun key w p r cause s).wave key = some { v with parts := v.parts.map (restPart cycle p) } := by
  have hwaves : (if r.words = 0 then s else traceRun s w p r cause s).waves = s.waves := by
    split
    · rfl
    · exact waves_traceRun s w p r cause
  unfold closeRun
  dsimp only
  generalize (if r.words = 0 then s else traceRun s w p r cause s) = t at hwaves
  refine ⟨cycleOf t (coreOf key), ?_⟩
  rw [wave_modWave_same, wave_eq s (dropRun (quarterOf key) t) key hwaves, hv]
  rfl

/-- A run that ends leaves each part of the wave rested, and changes nothing else in the wave. -/
theorem wave_endRun {s : State} {key : Nat} {w : Wave} (cause : Nat) (hw : s.wave key = some w) :
    ∃ f, (∀ p, RestedPart p (f p)) ∧ (endRun key cause s).wave key = some { w with parts := w.parts.map f } := by
  have hsame : ∀ t : State, t.waves = s.waves → t.wave key = some { w with parts := w.parts.map id } := fun t ht => by
    rw [wave_eq s t key ht, hw, List.map_id]
  unfold endRun
  split
  · rename_i r v _ hv
    obtain rfl : v = w := Option.some.inj (hv.symm.trans hw)
    split_ifs
    · split
      · rename_i p _
        obtain ⟨cycle, hclose⟩ := wave_closeRun (w := v) (p := p) (r := r) (cause := cause) hw
        exact ⟨restPart cycle p, rested_restPart cycle p, hclose⟩
      · exact ⟨id, rested_refl, hsame _ rfl⟩
    · exact ⟨id, rested_refl, hsame _ rfl⟩
  · exact ⟨id, rested_refl, hsame _ rfl⟩

/-! ## Buddy blocks (R21) -/

/-- A block that holds two outcomes has two quads. -/
theorem two_le_of_mixed {out : Nat → Bool} {q n : Nat} (h : ¬ sameOutcome out q n = true) : 2 ≤ n := by
  by_contra hn
  obtain rfl | rfl : n = 0 ∨ n = 1 := by omega
  · simp [sameOutcome] at h
  · simp [sameOutcome] at h

/-- The blocks lie within the part, and their first quads rise. -/
theorem buddyBlocks_sorted (out : Nat → Bool) (fuel : Nat) : ∀ q n,
    (∀ b ∈ buddyBlocks out fuel q n, q ≤ b.1 ∧ b.1 < q + max 1 n) ∧ (buddyBlocks out fuel q n).Pairwise fun a b => a.1 < b.1 := by
  induction fuel with
  | zero => intro q n; simp [buddyBlocks]
  | succ fuel ih =>
    intro q n
    unfold buddyBlocks
    split_ifs with h
    · simp
    · have hn := two_le_of_mixed h
      obtain ⟨hlo, hloSorted⟩ := ih q (n / 2)
      obtain ⟨hhi, hhiSorted⟩ := ih (q + n / 2) (n / 2)
      refine ⟨fun b hb => ?_, List.pairwise_append.2 ⟨hloSorted, hhiSorted, fun a ha b hb => ?_⟩⟩
      · rcases List.mem_append.1 hb with hb | hb
        · have := hlo b hb; omega
        · have := hhi b hb; omega
      · have := hlo a ha
        have := hhi b hb
        omega

/-! ## Parts in order -/

theorem partIns_append {x : Part} {ps : List Part} (h : ∀ p ∈ ps, p.q < x.q) : partIns x ps = ps ++ [x] := by
  induction ps with
  | nil => rfl
  | cons p ps ih =>
    have hp := h p List.mem_cons_self
    rw [partIns, if_neg (by omega), ih fun y hy => h y (List.mem_cons_of_mem p hy), List.cons_append]

/-- Parts put in one after another, by rising first quads, stand in that order. -/
theorem foldl_partIns_append {xs : List Part} (hxs : xs.Pairwise fun a b => a.q < b.q) :
    ∀ ps : List Part, (∀ p ∈ ps, ∀ x ∈ xs, p.q < x.q) → xs.foldl (fun ps c => partIns c ps) ps = ps ++ xs := by
  induction xs with
  | nil => simp
  | cons x xs ih =>
    intro ps hps
    obtain ⟨hx, hrest⟩ := List.pairwise_cons.1 hxs
    rw [List.foldl_cons, partIns_append fun p hp => hps p hp x List.mem_cons_self, ih hrest, List.append_assoc, List.singleton_append]
    intro p hp y hy
    rcases List.mem_append.1 hp with hp | hp
    · exact hps p hp y (List.mem_cons_of_mem x hy)
    · rw [List.mem_singleton.1 hp]
      exact hx y hy

/-- A part is found by its first quad where first quads rise. -/
theorem partAt_of_mem {ps : List Part} (h : (ps.map (·.q)).Nodup) {p : Part} (hp : p ∈ ps) : partAt ps p.q = some p := by
  induction ps with
  | nil => cases hp
  | cons x ps ih =>
    rw [List.map_cons, List.nodup_cons] at h
    obtain ⟨hx, hrest⟩ := h
    rw [partAt]
    rcases List.mem_cons.1 hp with rfl | hp
    · exact if_pos rfl
    · have hne : x.q ≠ p.q := fun e => hx (List.mem_map.2 ⟨p, hp, e.symm⟩)
      rw [if_neg hne, ih hrest hp]

/-! ## A wave that is one part splits (R20, R21) -/

/-- The child of a split for a block, as `f` finishes it. -/
def splitChild (cycle : Nat) (p : Part) (out : Nat → Bool) (f : Bool → Part → Part) (b : Nat × Nat) : Part :=
  f (out b.1) (childPart cycle p b)

theorem part_splitPart {s : State} {key : Nat} {w : Wave} {p : Part} {out : Nat → Bool} {f : Bool → Part → Part}
    (hf : ∀ r x, (f r x).q = x.q) (hw : s.wave key = some w) (hp : w.parts = [p]) {b : Nat × Nat} (hb : b ∈ buddyBlocks out 5 p.q p.n) :
    (splitPart key p out f s).part key b.1 = some (splitChild (cycleOf s (coreOf key)) p out f b) := by
  let child := splitChild (cycleOf s (coreOf key)) p out f
  have hq : ∀ b, (child b).q = b.1 := fun b => hf _ _
  have hsorted : ((buddyBlocks out 5 p.q p.n).map child).Pairwise fun a b => a.q < b.q := by
    rw [List.pairwise_map]
    simpa only [hq] using (buddyBlocks_sorted out 5 p.q p.n).2
  have hparts : (splitPart key p out f s).wave key = some { w with parts := (buddyBlocks out 5 p.q p.n).map child } := by
    simp only [splitPart, wave_modWave_same, hw, Option.map_some, hp, partDel, if_true]
    rw [show (buddyBlocks out 5 p.q p.n).map (fun b => f (out b.1) (childPart (cycleOf s (coreOf key)) p b)) =
      (buddyBlocks out 5 p.q p.n).map child from rfl, foldl_partIns_append hsorted [] (by simp), List.nil_append]
  have hnodup : (((buddyBlocks out 5 p.q p.n).map child).map (·.q)).Nodup := by
    rw [List.Nodup, List.pairwise_map]
    exact hsorted.imp fun h => Nat.ne_of_lt h
  rw [State.part, hparts, Option.bind_some]
  dsimp only
  rw [← hq b]
  exact partAt_of_mem hnodup (List.mem_map_of_mem hb)

end Sys2Proof.Proofs
end

section
/-! The miss split (R25). -/

namespace Sys2Proof.Proofs

open Sys2Proof.Machine Sys2Proof.Laws Sys2Proof.Safety

/-! ## When a part may be split by a miss -/

theorem maySplit_iff (w : Wave) (p : Part) :
    maySplit w p = true ↔ modeSplOf p.mode = 2 ∧ p.handler = false ∧ w.stopped = false ∧ activeLanes w p ≠ [] := by
  simp [maySplit, and_assoc]

/-- A miss splits a part that stalls on the scoreboard for vector registers, or for fault records, and that may be split. -/
theorem missSplit_some {s : State} {w : Wave} {p : Part} {out : Nat → Bool} (h : missSplit s w p = some out) :
    maySplit w p = true ∧ ((∃ ids lanes, p.wait = .board ids lanes ∧ uniPending p ids = false ∧ out = missOut w p ids lanes) ∨
      ∃ recs, p.wait = .cond (.records recs) ∧ out = stallOut s w p recs) := by
  unfold missSplit at h
  split at h
  · rename_i ids lanes hwait
    obtain ⟨hc, ho⟩ := Option.ite_none_right_eq_some.1 h
    obtain rfl := Option.some.inj ho
    simp only [Bool.and_eq_true, Bool.not_eq_true'] at hc
    obtain ⟨⟨hmay, huni⟩, -⟩ := hc
    exact ⟨hmay, .inl ⟨ids, lanes, hwait, huni, rfl⟩⟩
  · rename_i recs hwait
    obtain ⟨hc, ho⟩ := Option.ite_none_right_eq_some.1 h
    obtain rfl := Option.some.inj ho
    rw [Bool.and_eq_true] at hc
    exact ⟨hc.1, .inr ⟨recs, hwait, rfl⟩⟩
  · cases h

/-! ## The children -/

@[simp] theorem missChild_q (wt : Wait) (r : Bool) (x : Part) : (missChild wt r x).q = x.q := by
  cases r <;> rfl

@[simp] theorem missChild_n (wt : Wait) (r : Bool) (x : Part) : (missChild wt r x).n = x.n := by
  cases r <;> rfl

@[simp] theorem missChild_pc (wt : Wait) (r : Bool) (x : Part) : (missChild wt r x).pc = x.pc := by
  cases r <;> rfl

/-- The state before a miss splits a part: the run of the part has ended (R54), and the blocks count as SPLITS. -/
def missReady (key q : Nat) (w : Wave) (n : Nat) (s : State) : State :=
  countEvent (coreOf key) 0x03 n w.ctx
    (match kget s.runs (quarterOf key) with
     | some r => if decide (r.wave = key) && decide (r.q = q) then endRun key 3 s else s
     | none => s)

theorem wave_missReady {s : State} {key : Nat} {w : Wave} (q n : Nat) (hw : s.wave key = some w) :
    ∃ f, (∀ p, RestedPart p (f p)) ∧ (missReady key q w n s).wave key = some { w with parts := w.parts.map f } := by
  have hsame : s.wave key = some { w with parts := w.parts.map id } := by rw [hw, List.map_id]
  unfold missReady
  rw [wave_eq _ _ key (countEvent_waves ..)]
  split
  · split_ifs
    · exact wave_endRun 3 hw
    · exact ⟨id, rested_refl, hsame⟩
  · exact ⟨id, rested_refl, hsame⟩

theorem execMissSplit_some {s : State} {key : Nat} {w : Wave} {p : Part} {out : Nat → Bool} (hw : s.wave key = some w)
    (hp : partAt w.parts p.q = some p) (h : missSplit s w p = some out) :
    execMissSplit key p.q s = .next (splitPart key
      (((missReady key p.q w (buddyBlocks out 5 p.q p.n).length s).part key p.q).getD p) out (missChild p.wait)
      (missReady key p.q w (buddyBlocks out 5 p.q p.n).length s)) := by
  rw [State.wave] at hw
  simp only [execMissSplit, hw, hp, h]
  rfl

theorem execMissSplit_none {s : State} {key : Nat} {w : Wave} {p : Part} (hw : s.wave key = some w)
    (hp : partAt w.parts p.q = some p) (h : missSplit s w p = none) : execMissSplit key p.q s = .next s := by
  rw [State.wave] at hw
  simp only [execMissSplit, hw, hp, h]

/-- MISS_SPLIT leaves a child for each block: what was left of the part at the end of its run, as `missChild` makes it. -/
theorem part_execMissSplit {s : State} {key : Nat} {w : Wave} {p : Part} {out : Nat → Bool} (hw : s.wave key = some w) (hp : w.parts = [p])
    (h : missSplit s w p = some out) :
    ∃ t cycle p1, execMissSplit key p.q s = .next t ∧ RestedPart p p1 ∧
      ∀ b ∈ buddyBlocks out 5 p.q p.n, t.part key b.1 = some (missChild p.wait (out b.1) (childPart cycle p1 b)) := by
  obtain ⟨f, hf, hready⟩ := wave_missReady p.q (buddyBlocks out 5 p.q p.n).length hw
  have hexec := execMissSplit_some hw (by simp [hp, partAt]) h
  generalize missReady key p.q w (buddyBlocks out 5 p.q p.n).length s = u at hready hexec
  have hq : (f p).q = p.q := by rw [hf p]
  have hn : (f p).n = p.n := by rw [hf p]
  have hpart : (u.part key p.q).getD p = f p := by
    simp [State.part, hready, hp, partAt, hq]
  rw [hpart] at hexec
  refine ⟨_, cycleOf u (coreOf key), f p, hexec, hf p, fun b hb => ?_⟩
  exact part_splitPart (fun _ _ => missChild_q _ _ _) hready (by simp [hp]) (by rwa [hq, hn])

end Sys2Proof.Proofs
end

section
/-! FUSEDEAD (R31, R32, R222): what a trap makes of a part, and the traps of all the parts of a wave. -/

namespace Sys2Proof.Proofs

open Sys2Proof.Machine Sys2Proof.Laws Sys2Proof.Safety

/-! ## Landing (R62) -/

theorem landUvals_frame (bq bn : Nat) (vs : List (Nat × Word)) : ∀ p : Part, landUvals bq bn p vs = { p with w := (landUvals bq bn p vs).w } := by
  induction vs with
  | nil => exact fun _ => rfl
  | cons v vs ih =>
    intro p
    rw [landUvals, ih]

theorem landVals_parts (vs : List (Nat × Nat × Word)) : ∀ w : Wave, (landVals w vs).parts = w.parts := by
  induction vs with
  | nil => exact fun _ => rfl
  | cons v vs ih =>
    intro w
    rw [landVals, ih]
    rfl

/-- What lands in a part changes its view and its writebacks alone, and of the wave no part. -/
theorem landHeld_frame (xs : List Pend) : ∀ (w : Wave) (p : Part), (landHeld w p xs).1.parts = w.parts ∧
    (landHeld w p xs).2 = { p with w := (landHeld w p xs).2.w, pend := (landHeld w p xs).2.pend } := by
  induction xs with
  | nil => exact fun _ _ => ⟨rfl, rfl⟩
  | cons x xs ih =>
    intro w p
    unfold landHeld
    split
    · split
      · exact ih w p
      · rename_i y _
        obtain ⟨hparts, hpart⟩ := ih (landVals w y.vals)
          (overwrite y.id y.vals y.uvals (settleReads y.id y.reads (landUvals y.bq y.bn { p with pend := p.pend.filter (·.id ≠ y.id) } y.uvals)))
        refine ⟨hparts.trans (landVals_parts _ w), hpart.trans ?_⟩
        rw [landUvals_frame]
        rfl
    · exact ih w p

theorem part_of_wave {s : State} {key q : Nat} {w : Wave} (hw : s.wave key = some w) : s.part key q = partAt w.parts q := by
  rw [State.part, hw, Option.bind_some]

theorem part_eq_of_waves {s t : State} (key q : Nat) (h : t.waves = s.waves) : t.part key q = s.part key q := by
  rw [State.part, State.part, wave_eq s t key h]

theorem part_modPart_other {s : State} {key q a : Nat} {f : Part → Part} (hq : ∀ p, (f p).q = p.q) (h : a ≠ q) :
    (s.modPart key q f).part key a = s.part key a := by
  unfold State.part
  rw [wave_modPart_same]
  cases s.wave key with
  | none => rfl
  | some w => exact partAt_partMod_other f w.parts q a hq h

/-- A part whose held writebacks have landed: the view and the writebacks of the part are new. -/
def landedPart (regs : List UReg) (pend : List Pend) (p : Part) : Part := { p with w := regs, pend := pend }

@[simp] theorem landedPart_q (regs : List UReg) (pend : List Pend) (p : Part) : (landedPart regs pend p).q = p.q := rfl

/-- The windows of a part close: the part is changed as `landedPart` says, and no other part of its wave. -/
theorem part_closeWindows {s : State} {key q : Nat} {p : Part} (hp : s.part key q = some p) :
    ∃ regs pend, ∀ a, (closeWindows key q s).part key a = (s.modPart key q (landedPart regs pend)).part key a := by
  obtain ⟨w, hw, hpw⟩ := Option.bind_eq_some_iff.1 hp
  obtain ⟨hparts, hpart⟩ := landHeld_frame p.pend w p
  refine ⟨(landHeld w p p.pend).2.w, (landHeld w p p.pend).2.pend.map fun x => { x with window := 0 }, fun a => ?_⟩
  rw [closeWindows, State.part, wave_modWave_same, hw, Option.map_some, Option.bind_some, hpw]
  rw [part_of_wave (by rw [wave_modPart_same, hw, Option.map_some])]
  dsimp only
  rw [hparts]
  congr 1
  refine partMod_congr hpw ?_
  rw [hpart]
  rfl

/-! ## A trap with a user handler (R217 to R220) -/

/-- The part has taken trap `t` into its user handler. -/
structure Trapped (t : Trap) (p p' : Part) : Prop where
  handler : p'.handler = true
  entry : p'.entry = t.cause
  wait : p'.wait = .ready
  pc : p'.pc = p.tvec.val
  cause : p'.tcause.toNat % 256 = t.cause % 256
  info : p'.tinfo = t.info

@[simp] theorem enterHandler_q (w : Wave) (s : State) (pc : Word) (t : Trap) (p : Part) : (enterHandler w s pc t p).q = p.q := rfl

/-- The handler is entered with the cause in the low byte of TCAUSE (R219). -/
theorem trapped_enterHandler (w : Wave) (s : State) (pc : Word) (t : Trap) (regs : List UReg) (pend : List Pend) (p : Part) :
    Trapped t p (enterHandler w s pc t (landedPart regs pend p)) where
  handler := rfl
  entry := rfl
  wait := rfl
  pc := rfl
  cause := by
    simp only [enterHandler, BitVec.toNat_ofNat]
    omega
  info := rfl

theorem part_traceSummary (s : State) (key q : Nat) : (traceSummary key s).part key q = s.part key q := by
  cases hw : s.wave key with
  | none =>
    have hget : kget s.waves key = none := hw
    rw [traceSummary, hget]
  | some w =>
    obtain ⟨a, b, ht⟩ := wave_traceSummary hw
    rw [part_of_wave ht, part_of_wave hw]

/-- Outside a handler, with a user handler, a part that traps enters the handler, and no other part of its wave changes. -/
theorem part_takeTrap {s : State} {key q : Nat} {p : Part} (pc : Word) (t : Trap) (hp : s.part key q = some p) (hout : p.handler = false)
    (hvec : hasHandler p = true) : (∃ p', (takeTrap key q pc t s).part key q = some p' ∧ Trapped t p p') ∧
      ∀ a, a ≠ q → (takeTrap key q pc t s).part key a = s.part key a := by
  obtain ⟨w, hw, hpw⟩ := Option.bind_eq_some_iff.1 hp
  have hget : kget s.waves key = some w := hw
  have htake : takeTrap key q pc t s =
      (countEvent (coreOf key) 0x13 1 w.ctx (closeWindows key q (traceSummary key s))).modPart key q
        (enterHandler w (countEvent (coreOf key) 0x13 1 w.ctx (closeWindows key q (traceSummary key s))) pc t) := by
    simp [takeTrap, hget, hpw, hout, hvec]
  generalize hu : countEvent (coreOf key) 0x13 1 w.ctx (closeWindows key q (traceSummary key s)) = u at htake
  obtain ⟨regs, pend, hland⟩ := part_closeWindows ((part_traceSummary s key q).trans hp)
  have hpart : ∀ a, u.part key a = ((traceSummary key s).modPart key q (landedPart regs pend)).part key a := fun a => by
    rw [← hland, ← hu, part_eq_of_waves key a (countEvent_waves ..)]
  rw [htake]
  refine ⟨⟨_, ?_, trapped_enterHandler w u pc t regs pend p⟩, fun a ha => ?_⟩
  · rw [part_modPart_same _ _ _ _ (enterHandler_q w u pc t), hpart, part_modPart_same _ _ _ _ (landedPart_q regs pend), part_traceSummary, hp]
    rfl
  · rw [part_modPart_other (enterHandler_q w u pc t) ha, hpart, part_modPart_other (landedPart_q regs pend) ha, part_traceSummary]

/-! ## The deadlock of a wave (R31, R32) -/

/-- An arrival that is withdrawn changes no wave. -/
theorem waves_leaveWait (key q : Nat) (s : State) : (leaveWait key q s).waves = s.waves := by
  unfold leaveWait
  split
  · split <;> rfl
  · rfl

/-- The trap that FUSEDEAD raises. -/
def fusedeadTrap (mask : Nat) : Trap := { cause := 0x05, info := BitVec.ofNat 32 mask }

theorem part_fusedeadPart {s : State} {key : Nat} {p : Part} (mask : Nat) (hp : s.part key p.q = some p) (hout : p.handler = false)
    (hvec : hasHandler p = true) :
    (∃ p', (fusedeadPart key mask s p).part key p.q = some p' ∧ Trapped (fusedeadTrap mask) p p') ∧
      ∀ a, a ≠ p.q → (fusedeadPart key mask s p).part key a = s.part key a := by
  have hleave : ∀ a, (leaveWait key p.q s).part key a = s.part key a := fun a => part_eq_of_waves key a (waves_leaveWait key p.q s)
  obtain ⟨htrap, hothers⟩ := part_takeTrap (p.prefixPc.getD p.pc) (fusedeadTrap mask) ((hleave p.q).trans hp) hout hvec
  exact ⟨htrap, fun a ha => (hothers a ha).trans (hleave a)⟩

/-- FUSEDEAD in parts with different first quads: each enters its handler, and no other part changes. -/
theorem part_foldl_fusedead {key : Nat} (mask : Nat) {ps : List Part} (hn : (ps.map (·.q)).Nodup)
    (hps : ∀ p ∈ ps, p.handler = false ∧ hasHandler p = true) :
    ∀ s : State, (∀ p ∈ ps, s.part key p.q = some p) →
      (∀ p ∈ ps, ∃ p', (ps.foldl (fusedeadPart key mask) s).part key p.q = some p' ∧ Trapped (fusedeadTrap mask) p p') ∧
      ∀ a, a ∉ ps.map (·.q) → (ps.foldl (fusedeadPart key mask) s).part key a = s.part key a := by
  induction ps with
  | nil => simp
  | cons x ps ih =>
    intro s hs
    obtain ⟨hx, hrest⟩ := List.nodup_cons.1 hn
    obtain ⟨hout, hvec⟩ := hps x List.mem_cons_self
    obtain ⟨htrap, hothers⟩ := part_fusedeadPart mask (hs x List.mem_cons_self) hout hvec
    obtain ⟨hrec, hkept⟩ := ih hrest (fun p hp => hps p (List.mem_cons_of_mem x hp)) (fusedeadPart key mask s x) fun p hp => by
      have hne : p.q ≠ x.q := fun e => hx (List.mem_map.2 ⟨p, hp, e⟩)
      rw [hothers p.q hne, hs p (List.mem_cons_of_mem x hp)]
    rw [List.foldl_cons]
    refine ⟨fun p hp => ?_, fun a ha => ?_⟩
    · rcases List.mem_cons.1 hp with rfl | hp
      · rwa [hkept p.q hx]
      · exact hrec p hp
    · obtain ⟨hne, hnot⟩ := not_or.1 (mt List.mem_cons.2 ha)
      rw [hkept a hnot, hothers a hne]

variable {s : State} {key : Nat} {w : Wave}

theorem execFusedead_early (hw : s.wave key = some w) (hl : w.parts.any (widthLost w) = false) (hd : fusedeadDue s w = false) :
    execFusedead key s = .next s := by
  rw [State.wave] at hw
  simp [execFusedead, hw, hl, hd]

theorem execFusedead_due (hw : s.wave key = some w) (hl : w.parts.any (widthLost w) = false) (hd : fusedeadDue s w = true) :
    execFusedead key s = .next (w.parts.foldl (fusedeadPart key (fuseMask w)) s) := by
  rw [State.wave] at hw
  simp [execFusedead, hw, hl, hd]

/-- When FUSEDEAD is due (R32, R450, log 73). -/
theorem fusedeadDue_iff (s : State) (w : Wave) :
    fusedeadDue s w = true ↔ w.parts ≠ [] ∧ (∀ p ∈ w.parts, fuseWaiter p = true ∨ barrierSelf s w p = true) ∧
      findFuse w.parts = none ∧ w.stopped = false ∧ ∃ c, w.deadSince = some c ∧ c + 64 ≤ cycleOf s (coreOf w.key) := by
  cases h : w.deadSince <;> simp [fusedeadDue, deadNow, h, and_assoc]

end Sys2Proof.Proofs
end

section
/-! The statement on the miss split and FUSEDEAD. -/

namespace Sys2Proof.Proofs

open Sys2Proof.Machine Sys2Proof.Laws Sys2Proof.Safety

/-- Settles O41: a miss split leaves one child a block, as `missChild` makes it; FUSEDEAD traps each part of the wave. -/
theorem splitAndDeadlockEvents : Obligations.SplitAndDeadlockEvents := by
  refine ⟨?splits, ?whole, ?may, ?early, ?due, fusedeadDue_iff⟩
  case splits =>
    intro s key w p out hw hp h
    obtain ⟨t, cycle, p1, hexec, hrested, hparts⟩ := part_execMissSplit hw hp h
    refine ⟨t, hexec, fun b hb => ⟨_, hparts b hb, ?n, ?pc, ?ready, ?board, ?records⟩⟩
    case n => simp [childPart]
    case pc => rw [missChild_pc, hrested]; rfl
    case ready => intro hb; rw [hb]; rfl
    case board => intro hb ids lanes hwait; rw [hb, hwait]; rfl
    case records => intro hb recs hwait; rw [hb, hwait]; rfl
  case whole => exact fun _ _ _ _ hw hp h => execMissSplit_none hw hp h
  case may =>
    intro s w p out h
    obtain ⟨hmay, hwait⟩ := missSplit_some h
    obtain ⟨hspl, hout, hstop, -⟩ := (maySplit_iff w p).1 hmay
    exact ⟨hspl, hout, hstop, hwait⟩
  case early => exact fun _ _ _ hw hl hd => execFusedead_early hw hl hd
  case due =>
    intro s key w hw hl hd hn hps
    obtain ⟨htraps, -⟩ := part_foldl_fusedead (key := key) (fuseMask w) hn hps s fun p hp => by
      rw [part_of_wave hw, partAt_of_mem hn hp]
    refine ⟨_, execFusedead_due hw hl hd, fun p hp => ?_⟩
    obtain ⟨p', hp', ht⟩ := htraps p hp
    refine ⟨p', hp', ht.handler, ht.entry, ht.wait, ht.pc, ht.cause, ht.info.trans ?_⟩
    rw [fusedeadTrap, fuseMask, laneMask_eq_sum]
    rfl

end Sys2Proof.Proofs
end

section
/-! What reaches memory (R245 to R260, R373 to R385): an access changes memories, pending stores and translation caches, and no store is
pending after it that was not pending before. -/

namespace Sys2Proof.Proofs

open Sys2Proof.Machine Sys2Proof.Laws

/-! ## Two frames -/

/-- Every pending store of `t` was pending in `s`; it may have reached a wider scope. -/
def NoNewStore (s t : State) : Prop := ∀ y ∈ t.stores, ∃ x ∈ s.stores, x.id = y.id

theorem noNewStore_of_eq {s t : State} (h : t.stores = s.stores) : NoNewStore s t := fun y hy => ⟨y, h ▸ hy, rfl⟩

theorem noNewStore_trans {s t u : State} (h1 : NoNewStore s t) (h2 : NoNewStore t u) : NoNewStore s u := fun y hy => by
  obtain ⟨z, hz, hzy⟩ := h2 y hy
  obtain ⟨x, hx, hxz⟩ := h1 z hz
  exact ⟨x, hx, hxz.trans hzy⟩

/-- Only memories, their tags, what is noted of writes, old copies and pending stores have changed. -/
structure MemoryOnly (s t : State) : Prop where
  rest : t = { s with hbm := t.hbm, host := t.host, peer := t.peer, spad := t.spad, hbmTag := t.hbmTag, touched := t.touched,
                      stale := t.stale, stores := t.stores }
  ids : NoNewStore s t

theorem memoryOnly_refl (s : State) : MemoryOnly s s := ⟨rfl, noNewStore_of_eq rfl⟩

theorem memoryOnly_trans {s t u : State} (h1 : MemoryOnly s t) (h2 : MemoryOnly t u) : MemoryOnly s u := by
  refine ⟨?_, noNewStore_trans h1.ids h2.ids⟩
  have h := h2.rest
  rw [h1.rest] at h
  exact h

/-- Only what an access, an event, a trace record or the completion of a packet or of a grid changes has changed. -/
structure ServiceOnly (s t : State) : Prop where
  rest : t = { s with hbm := t.hbm, host := t.host, peer := t.peer, spad := t.spad, hbmTag := t.hbmTag, touched := t.touched,
                      stale := t.stale, stores := t.stores, tlb := t.tlb, ptrs := t.ptrs, grids := t.grids, fresh := t.fresh,
                      evqs := t.evqs, traces := t.traces, queues := t.queues, draws := t.draws }
  ids : NoNewStore s t

theorem serviceOnly_refl (s : State) : ServiceOnly s s := ⟨rfl, noNewStore_of_eq rfl⟩

theorem serviceOnly_trans {s t u : State} (h1 : ServiceOnly s t) (h2 : ServiceOnly t u) : ServiceOnly s u := by
  refine ⟨?_, noNewStore_trans h1.ids h2.ids⟩
  have h := h2.rest
  rw [h1.rest] at h
  exact h

theorem MemoryOnly.service {s t : State} (h : MemoryOnly s t) : ServiceOnly s t := by
  refine ⟨?_, h.ids⟩
  rw [h.rest]

theorem memoryOnly_foldl {α : Type} {f : State → α → State} (hf : ∀ s x, MemoryOnly s (f s x)) (xs : List α) (s : State) :
    MemoryOnly s (xs.foldl f s) :=
  List.foldlRecOn xs f (memoryOnly_refl s) fun u hu x _ => memoryOnly_trans hu (hf u x)

theorem serviceOnly_foldl {α : Type} {f : State → α → State} (hf : ∀ s x, ServiceOnly s (f s x)) (xs : List α) (s : State) :
    ServiceOnly s (xs.foldl f s) :=
  List.foldlRecOn xs f (serviceOnly_refl s) fun u hu x _ => serviceOnly_trans hu (hf u x)

/-- A service that may fail changes nothing where it does. -/
theorem serviceOnly_getD {s : State} {r : Option State} (h : ∀ t, r = some t → ServiceOnly s t) : ServiceOnly s (r.getD s) := by
  cases r with
  | none => exact serviceOnly_refl s
  | some t => exact h t rfl

theorem ServiceOnly.waves {s t : State} (h : ServiceOnly s t) : t.waves = s.waves := by rw [h.rest]

theorem ServiceOnly.wgs {s t : State} (h : ServiceOnly s t) : t.wgs = s.wgs := by rw [h.rest]

theorem ServiceOnly.runs {s t : State} (h : ServiceOnly s t) : t.runs = s.runs := by rw [h.rest]

theorem ServiceOnly.partitions {s t : State} (h : ServiceOnly s t) : t.partitions = s.partitions := by rw [h.rest]

theorem ServiceOnly.l1Locks {s t : State} (h : ServiceOnly s t) : t.l1Locks = s.l1Locks := by rw [h.rest]

theorem MemoryOnly.grids {s t : State} (h : MemoryOnly s t) : t.grids = s.grids := by rw [h.rest]

/-! ## Writes -/

theorem memoryOnly_baseWrite (s : State) (m : Mem) (tag a : Nat) (bs : List Byte) : MemoryOnly s (baseWrite s m tag a bs) := by
  cases m <;> exact ⟨rfl, noNewStore_of_eq rfl⟩

theorem memoryOnly_physWrite (s : State) (m : Mem) (tag a : Nat) (bs : List Byte) : MemoryOnly s (physWrite s m tag a bs) :=
  memoryOnly_baseWrite s m tag a bs

theorem memoryOnly_dropStale (who : Holder → Bool) (m : Mem) (a n : Nat) (s : State) : MemoryOnly s (dropStale who m a n s) :=
  ⟨rfl, noNewStore_of_eq rfl⟩

theorem memoryOnly_physAcquire (s : State) (core scope : Nat) : MemoryOnly s (physAcquire s core scope) := ⟨rfl, noNewStore_of_eq rfl⟩

theorem applyStores_frame (xs : List Store) : ∀ s : State, MemoryOnly s (applyStores s xs) ∧ (applyStores s xs).stores = s.stores := by
  induction xs with
  | nil => exact fun s => ⟨memoryOnly_refl s, rfl⟩
  | cons x xs ih =>
    intro s
    obtain ⟨hframe, hstores⟩ := ih (baseWrite s x.mem x.tag x.addr x.bytes)
    refine ⟨memoryOnly_trans (memoryOnly_baseWrite s _ _ _ _) hframe, hstores.trans ?_⟩
    cases x.mem <;> rfl

/-! ## Performing stores (R249, R251) -/

/-- The stores that a choice performs, by identity. -/
def chosenIds (sel : Store → Bool) (s : State) : List Nat := (selectStores sel s.stores).map (·.id)

/-- A pending store after its choice: one that is chosen has reached the scope. -/
def raiseStore (sel : Store → Bool) (scope : Nat) (s : State) (x : Store) : Store :=
  if (chosenIds sel s).contains x.id then { x with scope := max x.scope (pointScope s x.core scope) } else x

@[simp] theorem raiseStore_id (sel : Store → Bool) (scope : Nat) (s : State) (x : Store) : (raiseStore sel scope s x).id = x.id := by
  unfold raiseStore
  split <;> rfl

/-- What is performed everywhere is pending no more, and the rest has reached its scope. -/
theorem performStores_frame (s : State) (sel : Store → Bool) (scope : Nat) : MemoryOnly s (performStores s sel scope) ∧
    (performStores s sel scope).stores = (s.stores.map (raiseStore sel scope s)).filter fun x => decide (x.scope < fullScope x.mem) := by
  unfold performStores
  split
  · rename_i h
    rw [List.isEmpty_iff] at h
    exact ⟨memoryOnly_refl s, by simp [h]⟩
  · dsimp only
    rw [show (s.stores.map fun x => if ((selectStores sel s.stores).map (·.id)).contains x.id then
      { x with scope := max x.scope (pointScope s x.core scope) } else x) = s.stores.map (raiseStore sel scope s) from rfl]
    generalize hu : (if s.stale.isEmpty then s else _) = u
    have hmem : MemoryOnly s u := by
      rw [← hu]
      split
      · exact memoryOnly_refl s
      · exact memoryOnly_foldl (fun s x => memoryOnly_dropStale _ _ _ _ s) _ s
    obtain ⟨hframe, hstores⟩ := applyStores_frame ((s.stores.map (raiseStore sel scope s)).filter fun x => !(decide (x.scope < fullScope x.mem)))
      { u with stores := (s.stores.map (raiseStore sel scope s)).filter fun x => decide (x.scope < fullScope x.mem) }
    refine ⟨memoryOnly_trans ⟨?_, ?_⟩ hframe, hstores⟩
    · rw [hmem.rest]
    · intro y hy
      obtain ⟨x, hx, rfl⟩ := List.mem_map.1 (List.mem_filter.1 hy).1
      exact ⟨x, hx, (raiseStore_id ..).symm⟩

theorem memoryOnly_performStores (s : State) (sel : Store → Bool) (scope : Nat) : MemoryOnly s (performStores s sel scope) :=
  (performStores_frame s sel scope).1

theorem mem_selectStores {sel : Store → Bool} {xs : List Store} {x : Store} (hx : x ∈ xs) (h : sel x = true) : x ∈ selectStores sel xs := by
  induction xs with
  | nil => cases hx
  | cons y ys ih =>
    rw [selectStores]
    rcases List.mem_cons.1 hx with rfl | hx
    · simp [h]
    · split
      · exact List.mem_cons_of_mem y (ih hx)
      · exact ih hx

theorem fullScope_le (m : Mem) : fullScope m ≤ 5 := by
  cases m <;> decide

/-- A store that is performed at SYSTEM scope is pending no more, and no store with its identity (R248). -/
theorem performStores_done {s : State} {sel : Store → Bool} {x : Store} (hx : x ∈ s.stores) (h : sel x = true) :
    ∀ y ∈ (performStores s sel 5).stores, y.id ≠ x.id := by
  intro y hy hid
  rw [(performStores_frame s sel 5).2, List.mem_filter, decide_eq_true_eq] at hy
  obtain ⟨hy, hscope⟩ := hy
  obtain ⟨z, -, rfl⟩ := List.mem_map.1 hy
  rw [raiseStore_id] at hid
  have hchosen : (chosenIds sel s).contains z.id = true :=
    List.contains_iff_mem.2 (hid ▸ List.mem_map_of_mem (mem_selectStores hx h))
  have hraised : raiseStore sel 5 s z = { z with scope := max z.scope 5 } := by
    rw [raiseStore, if_pos hchosen]
    simp [pointScope]
  have hfull := fullScope_le z.mem
  rw [hraised] at hscope
  dsimp only at hscope
  omega

/-! ## Translation (R373 to R385) -/

theorem memoryOnly_rawWrite (s : State) (p ctx va : Nat) (bs : List Byte) : MemoryOnly s (rawWrite s p ctx va bs) := by
  unfold rawWrite
  split
  · exact memoryOnly_physWrite s _ _ _ _
  · exact memoryOnly_refl s

theorem serviceOnly_modGrid (s : State) (gid : Nat) (f : Grid → Grid) : ServiceOnly s (s.modGrid gid f) := ⟨rfl, noNewStore_of_eq rfl⟩

theorem serviceOnly_captureWrite (p ctx va : Nat) (s : State) : ServiceOnly s (captureWrite p ctx va s) := by
  unfold captureWrite
  split
  · split
    · unfold capturePage
      dsimp only
      split_ifs
      · exact serviceOnly_refl s
      · exact serviceOnly_modGrid s _ _
      · exact serviceOnly_trans (memoryOnly_trans (memoryOnly_rawWrite s _ _ _ _) (memoryOnly_rawWrite _ _ _ _ _)).service
          (serviceOnly_modGrid _ _ _)
    · exact serviceOnly_refl s
  · exact serviceOnly_refl s

theorem serviceOnly_tlb (s : State) (ts : List TlbEntry) : ServiceOnly s { s with tlb := ts } := ⟨rfl, noNewStore_of_eq rfl⟩

theorem serviceOnly_tlbFill (s : State) (y : Party) (va pte addr level : Nat) : ServiceOnly s (tlbFill s y va pte addr level).1 := by
  unfold tlbFill
  dsimp only
  refine serviceOnly_trans ?_ (serviceOnly_tlb _ _)
  split
  · exact serviceOnly_refl s
  · exact (memoryOnly_physWrite s _ _ _ _).service

theorem serviceOnly_notePtrs (s : State) (y : Party) (va : Nat) : ServiceOnly s (notePtrs s y va) := by
  unfold notePtrs
  split
  · exact serviceOnly_refl s
  · exact ⟨rfl, noNewStore_of_eq rfl⟩

theorem serviceOnly_useLeaf (s : State) (y : Party) (a : Acc) (va pte addr level : Nat) :
    ServiceOnly s (useLeaf s y a va pte addr level).1 := by
  have hcapture : ServiceOnly s (if a.dirty && bitOf pte 6 then captureWrite y.p y.ctx va s else s) := by
    split
    · exact serviceOnly_captureWrite _ _ _ s
    · exact serviceOnly_refl s
  unfold useLeaf
  dsimp only
  split
  · exact serviceOnly_refl s
  · split
    · exact serviceOnly_refl s
    · refine serviceOnly_trans hcapture ?_
      generalize (if a.dirty && bitOf pte 6 then captureWrite y.p y.ctx va s else s) = u
      split
      · exact serviceOnly_trans (memoryOnly_physWrite u _ _ _ _).service (serviceOnly_tlb _ _)
      · exact serviceOnly_refl u

theorem serviceOnly_walkUse (s : State) (y : Party) (a : Acc) (va : Nat) (found : Walk) : ServiceOnly s (walkUse s y a va found).1 := by
  have hptrs := serviceOnly_notePtrs s y va
  unfold walkUse
  dsimp only
  split
  · exact hptrs
  · exact hptrs
  · exact hptrs
  · split
    · exact hptrs
    · exact serviceOnly_trans hptrs (serviceOnly_trans (serviceOnly_tlbFill _ _ _ _ _ _) (serviceOnly_useLeaf _ _ _ _ _ _ _))

theorem serviceOnly_cachedUse (s : State) (y : Party) (a : Acc) (va : Nat) (t : TlbEntry) : ServiceOnly s (cachedUse s y a va t).1 := by
  unfold cachedUse
  split
  · exact serviceOnly_walkUse s y a va _
  · exact serviceOnly_useLeaf s y a va _ _ _

theorem serviceOnly_fresh (s : State) (n : Nat) : ServiceOnly s { s with fresh := n } := ⟨rfl, noNewStore_of_eq rfl⟩

theorem serviceOnly_xlate (s : State) (y : Party) (a : Acc) (va : Nat) : ServiceOnly s (xlate s y a va).1 := by
  have hfresh : ServiceOnly s (if agreed (routes s y va) then s else { s with fresh := s.fresh + 1 }) := by
    split
    · exact serviceOnly_refl s
    · exact serviceOnly_fresh s _
  unfold xlate
  dsimp only
  split
  · exact serviceOnly_trans hfresh (serviceOnly_cachedUse _ _ _ _ _)
  · exact serviceOnly_trans hfresh (serviceOnly_walkUse _ _ _ _ _)

/-! ## Ranges -/

theorem serviceOnly_rangePlaces {y : Party} {a : Acc} (fuel : Nat) :
    ∀ {s t : State} {off g n : Nat} {ps : Places}, rangePlaces y a fuel s off g n = some (t, ps) → ServiceOnly s t := by
  induction fuel with
  | zero =>
    intro s t off g n ps h
    obtain ⟨rfl, -⟩ := Prod.mk.inj (Option.some.inj h)
    exact serviceOnly_refl s
  | succ fuel ih =>
    intro s t off g n ps h
    unfold rangePlaces at h
    have hx := serviceOnly_xlate s y a (g % 2 ^ 55)
    split at h
    · obtain ⟨rfl, -⟩ := Prod.mk.inj (Option.some.inj h)
      exact serviceOnly_refl s
    · dsimp only at h
      generalize xlate s y a (g % 2 ^ 55) = r at h hx
      split at h
      · obtain ⟨u, hu, he⟩ := Option.map_eq_some_iff.1 h
        obtain ⟨rfl, -⟩ := Prod.mk.inj he
        exact serviceOnly_trans hx (ih hu)
      · obtain ⟨u, hu, he⟩ := Option.map_eq_some_iff.1 h
        obtain ⟨rfl, -⟩ := Prod.mk.inj he
        exact serviceOnly_trans hx (ih hu)
      · cases h

theorem serviceOnly_mappedPlaces {y : Party} {a : Acc} {s : State} {g n : Nat} {r : State × Places} (h : mappedPlaces y a s g n = some r) :
    ServiceOnly s r.1 := by
  unfold mappedPlaces at h
  split at h
  · exact serviceOnly_rangePlaces _ h
  · cases h

theorem memoryOnly_writePieceAt (core : Nat) (bs : List Byte) (s : State) (x : Nat × Nat × Place) :
    MemoryOnly s (writePieceAt core 5 bs s x) := by
  obtain ⟨off, n, pl⟩ := x
  cases pl with
  | empty => exact memoryOnly_refl s
  | byte m a tag repl =>
    have hscope : (if repl then max 4 5 else 5) = 5 := by cases repl <;> rfl
    simp only [writePieceAt, hscope, physWriteAt, fullScope_le, if_true]
    split
    · exact memoryOnly_baseWrite s _ _ _ _
    · split
      · exact memoryOnly_physWrite s _ _ _ _
      · exact memoryOnly_trans (memoryOnly_dropStale _ _ _ _ s) (memoryOnly_physWrite _ _ _ _ _)

theorem serviceOnly_readFor {y : Party} {g n : Nat} {s : State} {r : State × List Byte} (h : readFor y g n s = some r) : ServiceOnly s r.1 := by
  obtain ⟨x, hx, rfl⟩ := Option.map_eq_some_iff.1 h
  exact serviceOnly_mappedPlaces hx

theorem serviceOnly_writeFor {y : Party} {g : Nat} {bs : List Byte} {s t : State} (h : writeFor y g bs s = some t) : ServiceOnly s t := by
  obtain ⟨x, hx, rfl⟩ := Option.map_eq_some_iff.1 h
  exact serviceOnly_trans (serviceOnly_mappedPlaces hx) (memoryOnly_foldl (memoryOnly_writePieceAt 0 bs) _ _).service

theorem serviceOnly_ctlWrite {p ctx g : Nat} {bs : List Byte} {s t : State} (h : ctlWrite p ctx g bs s = some t) : ServiceOnly s t := by
  obtain ⟨x, hx, rfl⟩ := Option.map_eq_some_iff.1 h
  exact serviceOnly_trans (serviceOnly_mappedPlaces hx) (memoryOnly_foldl (memoryOnly_writePieceAt 0 bs) _ _).service

/-- What a workgroup saves goes to its context unit (R387). -/
theorem serviceOnly_writeUnit (g : Wg) (s : State) : ServiceOnly s (writeUnit g s) :=
  serviceOnly_trans (serviceOnly_getD fun _ h => serviceOnly_ctlWrite h) (serviceOnly_fresh _ _)

end Sys2Proof.Proofs
end

section
/-! Events, packets and grids that complete (R315, R317, R322, R325, R332, R445): each is a service as `ServiceOnly` says. -/

namespace Sys2Proof.Proofs

open Sys2Proof.Machine Sys2Proof.Laws

theorem serviceOnly_evqs (s : State) (e : Nat) (f : Evq → Evq) : ServiceOnly s (s.modEvq e f) := ⟨rfl, noNewStore_of_eq rfl⟩

theorem serviceOnly_modQueue (s : State) (q : Nat) (f : HostQueue → HostQueue) : ServiceOnly s (s.modQueue q f) := ⟨rfl, noNewStore_of_eq rfl⟩

theorem serviceOnly_traces (s : State) (x : KMap TraceRing) : ServiceOnly s { s with traces := x } := ⟨rfl, noNewStore_of_eq rfl⟩

theorem serviceOnly_postEvent (e : Nat) (r : EvRec) (s : State) : ServiceOnly s (postEvent e r s) := by
  unfold postEvent
  dsimp only
  split
  · exact serviceOnly_trans (memoryOnly_physWrite s _ _ _ _).service (serviceOnly_evqs _ _ _)
  · exact serviceOnly_evqs s _ _

theorem serviceOnly_postTrace (p : Nat) (bs : List Byte) (s : State) : ServiceOnly s (postTrace p bs s) := by
  unfold postTrace
  dsimp only
  split
  · exact serviceOnly_trans (memoryOnly_physWrite s _ _ _ _).service (serviceOnly_traces _ _)
  · exact serviceOnly_traces s _

theorem serviceOnly_traceRun (s0 : State) (w : Wave) (p : Part) (r : Run) (cause : Nat) (s : State) :
    ServiceOnly s (traceRun s0 w p r cause s) := by
  unfold traceRun
  dsimp only
  split
  · exact serviceOnly_postTrace _ _ s
  · exact serviceOnly_refl s

/-! ## Buffer lists (R317) -/

theorem serviceOnly_syncPage (y : Party) (s : State) (a n : Nat) : ServiceOnly s (syncPage y s a n) := by
  have hx := serviceOnly_xlate s y accRead (a % 2 ^ 55)
  unfold syncPage
  generalize xlate s y accRead (a % 2 ^ 55) = r at hx
  split
  · exact serviceOnly_trans hx (memoryOnly_performStores _ _ _).service
  · exact hx

theorem serviceOnly_flushRange (y : Party) (a n : Nat) (s : State) : ServiceOnly s (flushRange y a n s) := by
  unfold flushRange
  split
  · exact serviceOnly_refl s
  · exact serviceOnly_foldl (fun s x => serviceOnly_syncPage y s _ _) _ s

theorem serviceOnly_blAfter (y : Party) (bl : List (Nat × Nat × Nat)) (s : State) : ServiceOnly s (blAfter y bl s) := by
  refine serviceOnly_foldl (fun s e => ?_) bl s
  split
  · exact serviceOnly_flushRange y _ _ s
  · exact serviceOnly_refl s

/-! ## Packets (R315, R318) -/

theorem serviceOnly_completePacket (q seq status fsum origin : Nat) (s : State) :
    ServiceOnly s (completePacket q seq status fsum origin s) := by
  unfold completePacket
  split
  · exact serviceOnly_refl s
  · rename_i p _
    have hdone := serviceOnly_trans (serviceOnly_blAfter (packetParty s q) p.bl s)
      (serviceOnly_modQueue _ q fun x => { x with packets := x.packets.filter fun y => y.seq ≠ seq })
    dsimp only
    split
    · exact hdone
    · exact serviceOnly_trans hdone (serviceOnly_postEvent _ _ _)

theorem serviceOnly_resultTo (gid : Nat) (g : Grid) (status fsum q : Nat) (s : State) (p : Packet) :
    ServiceOnly s (resultTo gid g status fsum q s p) := by
  have hresult := serviceOnly_modQueue s q fun x =>
    { x with packets := x.packets.map fun y => if y.seq = p.seq then { y with results := y.results ++ [(gid, status, fsum)] } else y }
  unfold resultTo
  split
  · dsimp only
    split
    · exact hresult
    · split
      · exact serviceOnly_trans hresult (serviceOnly_completePacket _ _ _ _ _ _)
      · exact hresult
  · exact serviceOnly_refl s

theorem serviceOnly_resultToAll (gid : Nat) (g : Grid) (status fsum : Nat) (s : State) :
    ServiceOnly s (resultToAll gid g status fsum s) := by
  unfold resultToAll
  split
  · exact serviceOnly_postEvent _ _ s
  · exact serviceOnly_foldl (fun s (e : Nat × HostQueue) => serviceOnly_foldl (fun s p => serviceOnly_resultTo gid g status fsum e.1 s p) _ s) _ s

theorem serviceOnly_donePartctl (ops : List Nat) (p : Nat) (s : State) : ServiceOnly s (donePartctl ops p s) := by
  refine serviceOnly_foldl (fun s e => serviceOnly_foldl (fun s x => ?_) _ s) _ s
  split
  · exact serviceOnly_completePacket _ _ _ _ _ s
  · exact serviceOnly_refl s

/-! ## Grids (R325, R332, R351, R355) -/

theorem serviceOnly_modRq (gid n : Nat) (f : Rq → Rq) (s : State) : ServiceOnly s (modRq gid n f s) := serviceOnly_modGrid s gid _

theorem serviceOnly_advanceFree (gid n : Nat) (s : State) : ServiceOnly s (advanceFree gid n s) := by
  unfold advanceFree
  dsimp only
  split
  · exact serviceOnly_refl s
  · split
    · exact serviceOnly_refl s
    · rename_i r _ _
      refine serviceOnly_trans (serviceOnly_modRq gid n (fun x => { x with batches := x.batches.drop (endedBatches r.batches) }) s) ?_
      split
      · exact serviceOnly_refl _
      · rename_i hread
        exact serviceOnly_trans (serviceOnly_readFor hread) (serviceOnly_getD fun _ h => serviceOnly_writeFor h)

theorem serviceOnly_consumerEnded (gid : Nat) (s : State) : ServiceOnly s (consumerEnded gid s) := by
  unfold consumerEnded
  split
  · exact serviceOnly_refl s
  · dsimp only
    split
    · exact serviceOnly_refl s
    · exact serviceOnly_trans (serviceOnly_modRq _ _ _ s) (serviceOnly_advanceFree _ _ _)

theorem serviceOnly_noteDraw (g : Grid) (status fsum : Nat) (s : State) : ServiceOnly s (noteDraw g status fsum s) := by
  unfold noteDraw
  split
  · exact serviceOnly_refl s
  · split
    · exact serviceOnly_refl s
    · exact ⟨rfl, noNewStore_of_eq rfl⟩

theorem serviceOnly_freeElided (g : Grid) (s : State) : ServiceOnly s (freeElided g s) :=
  serviceOnly_foldl (fun _ _ => serviceOnly_trans (serviceOnly_getD fun _ h => serviceOnly_writeFor h) (serviceOnly_fresh _ _)) _ s

end Sys2Proof.Proofs
end

section
/-! GRID_COMPLETE (R41). -/

namespace Sys2Proof.Proofs

open Sys2Proof.Machine Sys2Proof.Laws

/-- The services of a completion: the buffer list, the results, and the bytes of elided stores. -/
def completionServices (gid : Nat) (g : Grid) (s : State) : State :=
  let u := blAfter (partyOfGrid g) g.bl (freeElided g s)
  resultToAll gid g (finalStatus u g) g.fsum (noteDraw g (finalStatus u g) g.fsum (consumerEnded gid u))

theorem serviceOnly_completionServices (gid : Nat) (g : Grid) (s : State) : ServiceOnly s (completionServices gid g s) := by
  have hlist := serviceOnly_trans (serviceOnly_freeElided g s) (serviceOnly_blAfter (partyOfGrid g) g.bl _)
  exact serviceOnly_trans hlist (serviceOnly_trans (serviceOnly_consumerEnded gid _)
    (serviceOnly_trans (serviceOnly_noteDraw g _ g.fsum _) (serviceOnly_resultToAll gid g _ g.fsum _)))

/-- A grid's place is free: its cores, its locks, its code, and the grid itself are gone. -/
def clearGrid (gid : Nat) (g : Grid) (s : State) : State :=
  sweepObjs g.partition g.launch.ctxid
    (dropLocks g.partition g.launch.ctxid (freeCores gid { s with grids := kdel s.grids gid }))

theorem clearGrid_grids (gid : Nat) (g : Grid) (s : State) : (clearGrid gid g s).grids = kdel s.grids gid := by
  unfold clearGrid sweepObjs dropLocks
  split <;> rfl

theorem clearGrid_stores (gid : Nat) (g : Grid) (s : State) : (clearGrid gid g s).stores = s.stores := by
  unfold clearGrid sweepObjs dropLocks
  split <;> rfl

/-- A host-launched grid owes no record to a completion queue. -/
theorem finishGrid_root {gid : Nat} {g : Grid} (h : g.parent = none) (s : State) :
    finishGrid gid g s = clearGrid gid g (completionServices gid g (performGrid g s)) := by
  simp only [finishGrid, gridRecord, h, Option.isSome_none, Bool.false_and, Bool.false_eq_true, if_false]
  rfl

theorem finishGrid_done {gid : Nat} {g : Grid} (h : g.parent = none) (s : State) : kget (finishGrid gid g s).grids gid = none ∧
    ∀ x, x.core ∈ partitionCores s g.partition → x ∈ s.stores → ∀ y ∈ (finishGrid gid g s).stores, y.id ≠ x.id := by
  rw [finishGrid_root h]
  refine ⟨by rw [clearGrid_grids, kget_kdel_same], fun x hcore hx y hy => ?_⟩
  rw [clearGrid_stores] at hy
  obtain ⟨z, hz, hzy⟩ := (serviceOnly_completionServices gid g (performGrid g s)).ids y hy
  rw [← hzy]
  exact performStores_done (sel := fun x => (partitionCores s g.partition).contains x.core) hx (List.contains_iff_mem.2 hcore) z hz

theorem gridEnded_parts {s : State} {gid : Nat} {g : Grid} (h : gridEnded s gid g = true) :
    g.ended = g.total ∧ g.flushed = true ∧ (∀ e ∈ s.grids, e.2.parent ≠ some gid) ∧ ∀ a ∈ s.astps, a.grid ≠ gid := by
  simp only [gridEnded, Bool.and_eq_true, decide_eq_true_eq, Bool.not_eq_true', List.any_eq_false] at h
  obtain ⟨⟨⟨⟨⟨hended, hflushed⟩, hparent⟩, hastp⟩, -⟩, -⟩ := h
  exact ⟨hended, hflushed, hparent, hastp⟩

variable {s : State} {gid : Nat} {g : Grid}

theorem completeGrid_early (hg : kget s.grids gid = some g) (h : g.ended ≠ g.total ∨ g.more = true ∨ g.session.isSome = true ∨
    (g.flushed = true ∧ gridEnded s gid g = false)) : completeGrid gid s = s := by
  unfold completeGrid
  rw [hg]
  dsimp only
  rcases h with h | h | h | ⟨hflushed, hopen⟩
  · exact if_neg fun hc => h hc.1
  · exact if_neg fun hc => by simp [h] at hc
  · exact if_neg fun hc => by simp [Option.isSome_iff_ne_none.1 h] at hc
  · simp [hflushed, hg, hopen]

theorem completeGrid_ended (hg : kget s.grids gid = some g) (hmore : g.more = false) (hsession : g.session = none)
    (h : gridEnded s gid g = true) : completeGrid gid s = finishGrid gid g s := by
  obtain ⟨hended, hflushed, -, -⟩ := gridEnded_parts h
  simp [completeGrid, hg, hended, hmore, hsession, hflushed, h]

end Sys2Proof.Proofs
end

section
/-! Runs that end between two words, and workgroups that are halted and give up their core (R54, R66, R69, R70). -/

namespace Sys2Proof.Proofs

open Sys2Proof.Machine Sys2Proof.Laws Sys2Proof.Safety

/-! ## BUDGET_EXCEEDED (R66) -/

theorem execBudgetExceeded_eq {s : State} {id : Nat} {g : Wg} (hg : kget s.wgs id = some g) (he : g.ended = false) :
    execBudgetExceeded id s = .next (if (kgetD {} s.grids g.grid).cls = 0 ∧ (kgetD {} s.grids g.grid).launch.budget * chargeUnit < g.charge then
      g.waves.foldl (fun s k => terminateWave k 0x0103 0x21 none s) s else s) := by
  simp [execBudgetExceeded, overBudget, hg, he]

/-! ## The end of a run, and what it leaves (R54) -/

/-- The wave holds the issue port of its quarter. -/
def HoldsPort (s : State) (key : Nat) : Prop := ∃ r, kget s.runs (quarterOf key) = some r ∧ r.wave = key

/-- Every run of `t` was under way in `s`. -/
def RunsWithin (s t : State) : Prop := ∀ qr r, kget t.runs qr = some r → kget s.runs qr = some r

theorem runsWithin_of_eq {s t : State} (h : t.runs = s.runs) : RunsWithin s t := fun _ _ hr => h ▸ hr

theorem HoldsPort.of_within {s t : State} {key : Nat} (h : RunsWithin s t) (ht : HoldsPort t key) : HoldsPort s key := by
  obtain ⟨r, hr, hkey⟩ := ht
  exact ⟨r, h _ r hr, hkey⟩

theorem kget_kdel_some {α : Type} {m : KMap α} {n a : Nat} {v : α} (h : kget (kdel m n) a = some v) : a ≠ n ∧ kget m a = some v := by
  by_cases ha : a = n
  · rw [ha, kget_kdel_same] at h
    cases h
  · rw [kget_kdel_other m n a ha] at h
    exact ⟨ha, h⟩

/-- What the end of a run of wave `key` leaves as it was. -/
structure RunEnded (key : Nat) (s t : State) : Prop where
  wgs : t.wgs = s.wgs
  partitions : t.partitions = s.partitions
  runs : RunsWithin s t
  others : ∀ k, k ≠ key → t.wave k = s.wave k

theorem runEnded_refl (key : Nat) (s : State) : RunEnded key s s := ⟨rfl, rfl, runsWithin_of_eq rfl, fun _ _ => rfl⟩

/-- A run that ends is under way no more. -/
theorem runEnded_dropRun (key : Nat) (s : State) : RunEnded key s (dropRun (quarterOf key) s) ∧ ¬ HoldsPort (dropRun (quarterOf key) s) key :=
  ⟨⟨rfl, rfl, fun _ _ h => (kget_kdel_some h).2, fun _ _ => rfl⟩, fun ⟨_, hr, _⟩ => (kget_kdel_some hr).1 rfl⟩

theorem runEnded_closeRun (key : Nat) (w : Wave) (p : Part) (r : Run) (cause : Nat) (s : State) :
    RunEnded key s (closeRun key w p r cause s) ∧ ¬ HoldsPort (closeRun key w p r cause s) key := by
  have htrace : ServiceOnly s (if r.words = 0 then s else traceRun s w p r cause s) := by
    split
    · exact serviceOnly_refl s
    · exact serviceOnly_traceRun s w p r cause s
  unfold closeRun
  dsimp only
  generalize (if r.words = 0 then s else traceRun s w p r cause s) = u at htrace
  obtain ⟨⟨hwgs, hparts, hruns, hothers⟩, hfree⟩ := runEnded_dropRun key u
  refine ⟨⟨hwgs.trans htrace.wgs, hparts.trans htrace.partitions, fun qr x hx => ?_, fun k hk => ?_⟩, hfree⟩
  · rw [← htrace.runs]
    exact hruns qr x hx
  · rw [wave_modWave_other _ _ _ _ hk, hothers k hk, wave_eq s u k htrace.waves]

/-- A wave that does not hold its port has no run to end. -/
theorem endRun_idle {key cause : Nat} {s : State} (h : ¬ HoldsPort s key) : endRun key cause s = s := by
  unfold endRun
  split
  · rename_i r w hr _
    exact if_neg fun hkey => h ⟨r, hr, hkey⟩
  · rfl

theorem runEnded_endRun (key cause : Nat) (s : State) : RunEnded key s (endRun key cause s) := by
  unfold endRun
  split
  · split_ifs
    · split
      · exact (runEnded_closeRun key _ _ _ cause s).1
      · exact (runEnded_dropRun key s).1
    · exact runEnded_refl key s
  · exact runEnded_refl key s

/-- After the end of its run a wave does not hold its port. -/
theorem endRun_free {key : Nat} {s : State} {w : Wave} (cause : Nat) (hw : s.wave key = some w) : ¬ HoldsPort (endRun key cause s) key := by
  by_cases h : HoldsPort s key
  · obtain ⟨r, hr, hkey⟩ := h
    have hget : kget s.waves key = some w := hw
    unfold endRun
    rw [hr, hget]
    dsimp only
    rw [if_pos hkey]
    split
    · exact (runEnded_closeRun key w _ r cause s).2
    · exact (runEnded_dropRun key s).2
  · rwa [endRun_idle h]

/-! ## The runs of a set of waves -/

theorem dropRuns_frame (ks : List Nat) : ∀ s : State,
    (dropRuns ks s).wgs = s.wgs ∧ (dropRuns ks s).partitions = s.partitions ∧ RunsWithin s (dropRuns ks s) := by
  induction ks with
  | nil => exact fun s => ⟨rfl, rfl, runsWithin_of_eq rfl⟩
  | cons k ks ih =>
    intro s
    obtain ⟨hwgs, hparts, hruns, -⟩ := runEnded_endRun k 2 s
    obtain ⟨hwgs', hparts', hruns'⟩ := ih (endRun k 2 s)
    exact ⟨hwgs'.trans hwgs, hparts'.trans hparts, fun qr r hr => hruns qr r (hruns' qr r hr)⟩

/-- A wave without a run is as before. -/
theorem wave_dropRuns_idle {k : Nat} (ks : List Nat) : ∀ {s : State}, ¬ HoldsPort s k → (dropRuns ks s).wave k = s.wave k := by
  induction ks with
  | nil => exact fun _ => rfl
  | cons a ks ih =>
    intro s h
    have hended := runEnded_endRun a 2 s
    show (dropRuns ks (endRun a 2 s)).wave k = s.wave k
    rw [ih (mt (HoldsPort.of_within hended.runs) h)]
    by_cases ha : k = a
    · rw [← ha, endRun_idle h]
    · exact hended.others k ha

/-- Each wave keeps its parts, rested. -/
theorem wave_dropRuns {k : Nat} (ks : List Nat) : ∀ {s : State} {w : Wave}, s.wave k = some w →
    ∃ f, (∀ p, RestedPart p (f p)) ∧ (dropRuns ks s).wave k = some { w with parts := w.parts.map f } := by
  induction ks with
  | nil =>
    intro s w hw
    exact ⟨id, rested_refl, by rw [List.map_id]; exact hw⟩
  | cons a ks ih =>
    intro s w hw
    by_cases ha : k = a
    · subst ha
      obtain ⟨f, hf, hwave⟩ := wave_endRun 2 hw
      obtain ⟨g, hg, hdrop⟩ := ih hwave
      refine ⟨g ∘ f, fun p => rested_trans (hf p) (hg (f p)), ?_⟩
      rw [← List.map_map]
      exact hdrop
    · exact ih (((runEnded_endRun a 2 s).others k ha).trans hw)

/-- No wave of the set holds its port any more. -/
theorem dropRuns_free {k : Nat} {ks : List Nat} (hk : k ∈ ks) : ∀ {s : State} {w : Wave}, s.wave k = some w → ¬ HoldsPort (dropRuns ks s) k := by
  induction ks with
  | nil => cases hk
  | cons a ks ih =>
    intro s w hw
    show ¬ HoldsPort (dropRuns ks (endRun a 2 s)) k
    rcases List.mem_cons.1 hk with rfl | hmem
    · exact mt (HoldsPort.of_within (dropRuns_frame ks _).2.2) (endRun_free 2 hw)
    · by_cases ha : k = a
      · subst ha
        exact mt (HoldsPort.of_within (dropRuns_frame ks _).2.2) (endRun_free 2 hw)
      · exact ih hmem (((runEnded_endRun a 2 s).others k ha).trans hw)

/-! ## PREDL_EXPIRY (R70) -/

/-- The waves of a workgroup that is halted. -/
def haltWave (w : Wave) : Wave := { w with parts := w.parts.map haltPart }

/-- What halting a part keeps of it. -/
theorem haltPart_kept {p p' : Part} (h : RestedPart p p') :
    ((haltPart p').q, (haltPart p').n, (haltPart p').pc, (haltPart p').mode, (haltPart p').w, (haltPart p').loops, (haltPart p').recs,
      (haltPart p').wait, (haltPart p').halted) =
    (p.q, p.n, p.pc, p.mode, p.w, p.loops, p.recs, p.wait, if partParked p then p.halted else true) := by
  have hparked : partParked p' = partParked p := by rw [h]; rfl
  unfold haltPart
  rw [hparked]
  split <;> (rw [h])

variable {s : State} {id k : Nat} {g : Wg} {w : Wave}

theorem haltWg_eq (hg : kget s.wgs id = some g) : haltWg id s =
    { writeUnit g (dropRuns g.waves s) with waves := modWaves haltWave (writeUnit g (dropRuns g.waves s)).waves g.waves } := by
  rw [haltWg, hg]
  rfl

theorem haltWg_wgs (hg : kget s.wgs id = some g) : (haltWg id s).wgs = s.wgs := by
  rw [haltWg_eq hg]
  exact (serviceOnly_writeUnit g _).wgs.trans (dropRuns_frame g.waves s).1

theorem haltWg_free (hg : kget s.wgs id = some g) (hk : k ∈ g.waves) (hw : s.wave k = some w) : ¬ HoldsPort (haltWg id s) k := by
  rw [haltWg_eq hg]
  exact mt (HoldsPort.of_within (runsWithin_of_eq (serviceOnly_writeUnit g _).runs)) (dropRuns_free hk hw)

theorem haltWg_wave (hg : kget s.wgs id = some g) (hn : g.waves.Nodup) (hk : k ∈ g.waves) :
    (haltWg id s).wave k = ((dropRuns g.waves s).wave k).map haltWave := by
  rw [haltWg_eq hg]
  show kget (modWaves haltWave (writeUnit g (dropRuns g.waves s)).waves g.waves) k = _
  rw [kget_modWaves_of_mem haltWave hn hk, (serviceOnly_writeUnit g _).waves]
  rfl

theorem execPredlExpiry_early (hg : kget s.wgs id = some g) (h : ∀ t, g.predl = some t → s.time < t) : execPredlExpiry id s = .next s := by
  have hno : g.predl.any (fun t => decide (t ≤ s.time)) = false := by
    cases hp : g.predl with
    | none => rfl
    | some t => simpa using h t hp
  simp [execPredlExpiry, hg, hno]

theorem execPredlExpiry_due {d : Nat} (hg : kget s.wgs id = some g) (hp : g.predl = some d) (hd : d ≤ s.time) :
    execPredlExpiry id s = .next (haltWg id (s.modWg id fun g => { g with predl := none })) := by
  simp [execPredlExpiry, hg, hp, hd]

/-! ## HARDWARE_SAVE (R69, R70) -/

theorem unfuse_kept (core : Nat) (s : State) : (unfuse core s).waves = s.waves ∧ (unfuse core s).wgs = s.wgs ∧
    (unfuse core s).parked = s.parked := by
  unfold unfuse
  split
  · exact ⟨rfl, rfl, rfl⟩
  · dsimp only
    rw [(memoryOnly_performStores _ _ _).rest]
    exact ⟨rfl, rfl, rfl⟩

theorem kget_foldl_kdel {α : Type} {ks : List Nat} (hk : k ∈ ks) : ∀ m : KMap α, kget (ks.foldl kdel m) k = none := by
  have hgone : ∀ (ks : List Nat) (m : KMap α), kget m k = none → kget (ks.foldl kdel m) k = none := by
    intro ks
    induction ks with
    | nil => exact fun _ h => h
    | cons a ks ih =>
      intro m h
      refine ih _ ?_
      by_cases ha : k = a
      · rw [ha, kget_kdel_same]
      · rw [kget_kdel_other m a k ha, h]
  induction ks with
  | nil => cases hk
  | cons a ks ih =>
    intro m
    rcases List.mem_cons.1 hk with rfl | hk
    · exact hgone ks _ (kget_kdel_same m k)
    · exact ih hk _

theorem freezeWave_kept (now : Nat) (w : Wave) :
    ((freezeWave now w).v, (freezeWave now w).x, (freezeWave now w).parts) = (w.v, w.x, w.parts) := by
  unfold freezeWave
  split <;> rfl

/-- A wave that is saved keeps its registers, and its parts, whose loads are performed. -/
theorem savedWave_kept (now : Nat) (whole : Bool) (w : Wave) :
    ((freezeWave now (parkWave whole w)).v, (freezeWave now (parkWave whole w)).x, (freezeWave now (parkWave whole w)).parts) =
      (w.v, w.x, w.parts.map performReads) :=
  freezeWave_kept now (parkWave whole w)

/-- A workgroup that gives up its core is resident no more, and parked with its waves. -/
theorem giveUp_parked (id : Nat) (g : Wg) (ws : List Wave) (s : State) :
    kget (giveUp id g ws s).wgs id = none ∧ (∀ k ∈ g.waves, (giveUp id g ws s).wave k = none) ∧
    ∃ pk, kget (giveUp id g ws s).parked id = some pk ∧ pk.wg = { g with predl := none } ∧
      pk.waves.map (fun w : Wave => (w.v, w.x, w.parts)) = ws.map fun w : Wave => (w.v, w.x, w.parts.map performReads) := by
  unfold giveUp
  dsimp only
  generalize hpk : Parked.mk { g with predl := none } _ _ = pk
  generalize (if (State.core _ g.core).records.any fun k => g.waves.contains k then _ else _ : State) = u
  generalize (s.l1Locks.filter _ : List Lock) = locks
  obtain ⟨hwaves, hwgs, hparked⟩ := unfuse_kept g.core
    { u with waves := g.waves.foldl kdel u.waves, wgs := kdel u.wgs id, parked := kput u.parked id pk, l1Locks := locks }
  refine ⟨?_, fun k hk => ?_, pk, ?_, ?_, ?_⟩
  · rw [hwgs, kget_kdel_same]
  · rw [State.wave, hwaves, kget_foldl_kdel hk]
  · rw [hparked, kget_kput_same]
  · rw [← hpk]
  · rw [← hpk, List.map_map]
    exact List.map_congr_left fun w _ => savedWave_kept _ _ w

/-- Every part of a workgroup has yielded, ended or been halted and drained (R70). -/
def WgFinished (s : State) (g : Wg) : Prop :=
  wgWaves s g ≠ [] ∧ ∀ w ∈ wgWaves s g, (∀ p ∈ w.parts, partParked p = true) ∧ waveDrained w = true

theorem wgFinished_iff (s : State) (g : Wg) :
    (!(wgWaves s g).isEmpty && (wgWaves s g).all fun w => w.parts.all partParked && waveDrained w) = true ↔ WgFinished s g := by
  simp [WgFinished]

theorem parkWg_finished (hg : kget s.wgs id = some g) (h : WgFinished s g) : parkWg id s = giveUp id g (wgWaves s g) s := by
  rw [parkWg, hg]
  exact if_pos ((wgFinished_iff s g).2 h)

theorem parkWg_open (hg : kget s.wgs id = some g) (h : ¬ WgFinished s g) : parkWg id s = s := by
  rw [parkWg, hg]
  exact if_neg (mt (wgFinished_iff s g).1 h)

end Sys2Proof.Proofs
end

section
/-! WEIGHT_CLASS_UPDATE (R49, log 5, log 75): temperatures are noted first, and then every core is weighed anew. -/

namespace Sys2Proof.Proofs

open Sys2Proof.Machine Sys2Proof.Laws

theorem mem_of_kget {α : Type} {m : KMap α} {n : Nat} {v : α} (h : kget m n = some v) : (n, v) ∈ m := by
  induction m with
  | nil => cases h
  | cons e m ih =>
    obtain ⟨k, w⟩ := e
    rw [kget] at h
    split_ifs at h with hk
    · rw [hk, Option.some.inj h]
      exact List.mem_cons_self
    · exact List.mem_cons_of_mem _ (ih h)

/-- A record that satisfies a test as the one before it did changes nothing of whether some record satisfies it. -/
theorem any_kput {α : Type} {d v : α} {n : Nat} {P : α → Bool} (hd : P d = false) :
    ∀ {m : KMap α}, P v = P (kgetD d m n) → (kput m n v).any (fun e => P e.2) = m.any fun e => P e.2 := by
  intro m
  induction m with
  | nil => intro hv; simpa [kput, kgetD, kget, hd] using hv
  | cons e m ih =>
    intro hv
    have hfound : P v = true → ((e :: m).any fun x => P x.2) = true := fun h => by
      rw [h, kgetD] at hv
      cases hg : kget (e :: m) n with
      | none => simp [hg, hd] at hv
      | some x =>
        rw [hg, Option.getD_some] at hv
        exact List.any_eq_true.2 ⟨(n, x), mem_of_kget hg, hv.symm⟩
    obtain ⟨k, w⟩ := e
    rw [kput]
    split_ifs with hlt heq
    · rw [List.any_cons]
      cases hPv : P v with
      | false => rfl
      | true => rw [hfound hPv]; rfl
    · have hw : P v = P w := by simpa [kgetD, kget, heq] using hv
      rw [List.any_cons, List.any_cons, hw]
    · rw [List.any_cons, List.any_cons, ih]
      simpa [kgetD, kget, heq] using hv

theorem core_modCore_other {s : State} {c k : Nat} (f : Core → Core) (h : k ≠ c) : (s.modCore c f).core k = s.core k := by
  simp only [State.core, State.modCore, kgetD, kget_kput_other _ _ _ _ h]

/-! ## Temperatures (R456) -/

/-- A report is at 105 °C or above. -/
def isHot (c : Core) : Bool := decide (105 ≤ c.temp)

/-- HOT says whether some core's last report is hot. -/
def HotNoted (s : State) : Prop := s.dev.hot = s.cores.any fun e => isHot e.2

/-- Only the cores' records and HOT have changed. -/
def CoresOnly (s t : State) : Prop := t = { s with cores := t.cores, dev := { s.dev with hot := t.dev.hot } }

theorem coresOnly_trans {s t u : State} (h1 : CoresOnly s t) (h2 : CoresOnly t u) : CoresOnly s u := by
  unfold CoresOnly at *
  rw [h1] at h2
  exact h2

theorem coresOnly_foldl {α : Type} {f : State → α → State} (hf : ∀ s x, CoresOnly s (f s x)) (xs : List α) (s : State) :
    CoresOnly s (xs.foldl f s) :=
  List.foldlRecOn xs f rfl fun u hu x _ => coresOnly_trans hu (hf u x)

theorem coresOnly_noteTemp (core temp : Nat) (s : State) : CoresOnly s (noteTemp core temp s) := rfl

theorem coresOnly_noteTemps (core temp more : Nat) (s : State) : CoresOnly s (noteTemps core temp more s) :=
  coresOnly_foldl (fun s i => coresOnly_noteTemp (core + i) temp s) _ s

theorem core_noteTemp (core temp : Nat) (s : State) (k : Nat) :
    (noteTemp core temp s).core k = { s.core k with temp := if k = core then temp else (s.core k).temp } := by
  show (s.modCore core fun c => { c with temp := temp }).core k = _
  by_cases h : k = core
  · rw [if_pos h, h, kget_modCore_same]
  · rw [if_neg h, core_modCore_other _ h]

theorem core_foldl_noteTemp (core temp : Nat) (is : List Nat) (k : Nat) : ∀ s : State,
    (is.foldl (fun s i => noteTemp (core + i) temp s) s).core k =
      { s.core k with temp := if ∃ i ∈ is, k = core + i then temp else (s.core k).temp } := by
  induction is with
  | nil => intro s; simp
  | cons i is ih =>
    intro s
    rw [List.foldl_cons, ih, core_noteTemp]
    by_cases h : k = core + i
    · simp [h]
    · simp [h]

/-- The cores of the device from `core` to `core + more` have the temperature, and no other has a new one. -/
theorem core_noteTemps (core temp more : Nat) (s : State) (k : Nat) :
    (noteTemps core temp more s).core k =
      { s.core k with temp := if core ≤ k ∧ k ≤ core + more ∧ k < 256 then temp else (s.core k).temp } := by
  have hin : (∃ i ∈ (List.range (more + 1)).filter fun i => core + i < 256, k = core + i) ↔ core ≤ k ∧ k ≤ core + more ∧ k < 256 := by
    simp only [List.mem_filter, List.mem_range, decide_eq_true_eq]
    constructor
    · rintro ⟨i, hi, rfl⟩
      omega
    · intro h
      exact ⟨k - core, by omega, by omega⟩
  rw [noteTemps, core_foldl_noteTemp]
  simp only [hin]

theorem hotNoted_noteTemp (core temp : Nat) (s : State) : HotNoted (noteTemp core temp s) := rfl

theorem hotNoted_noteTemps {core : Nat} (temp more : Nat) (s : State) (h : core < 256) : HotNoted (noteTemps core temp more s) := by
  obtain ⟨i, is, his⟩ : ∃ i is, ((List.range (more + 1)).filter fun i => decide (core + i < 256)) = i :: is :=
    List.exists_cons_of_ne_nil (List.ne_nil_of_mem (List.mem_filter.2 ⟨List.mem_range.2 more.succ_pos, decide_eq_true h⟩))
  rw [noteTemps, his, List.foldl_cons]
  exact List.foldlRecOn is _ (hotNoted_noteTemp _ _ s) fun u _ j _ => hotNoted_noteTemp _ _ u

/-! ## Weights (R49) -/

/-- The class of a core by its last temperature and the stretches of its island. -/
def classOf (s : State) (k : Nat) : Nat := weightClass (s.core k).temp (recentDroops s (islandOf k))

theorem markRound_eq (round : Nat) (c : Core) : markRound round c = { c with rounds := (markRound round c).rounds } := by
  unfold markRound
  split <;> rfl

theorem isHot_markRound (round : Nat) (c : Core) : isHot (markRound round c) = isHot c := by
  rw [markRound_eq]
  rfl

/-- A core that is weighed has its class; its rounds may be marked. -/
theorem core_weighCore (s : State) (core k : Nat) :
    ∃ rs, (weighCore s core).core k = { s.core k with rounds := rs, weight := if k = core then classOf s k else (s.core k).weight } := by
  unfold weighCore
  dsimp only
  by_cases hk : k = core
  · subst hk
    rw [if_pos rfl]
    split
    · rename_i hw
      exact ⟨_, by rw [classOf, ← hw]⟩
    · refine ⟨(markRound (roundOf s k) (s.core k)).rounds, ?_⟩
      rw [kget_modCore_same, markRound_eq]
      rfl
  · rw [if_neg hk]
    split
    · exact ⟨_, rfl⟩
    · exact ⟨_, core_modCore_other _ hk⟩

theorem coresOnly_weighCore (s : State) (core : Nat) : CoresOnly s (weighCore s core) := by
  unfold weighCore
  dsimp only
  split <;> rfl

/-- Weighing a core leaves every class as it was: it changes no temperature and no stretch. -/
theorem classOf_weighCore (s : State) (core k : Nat) : classOf (weighCore s core) k = classOf s k := by
  obtain ⟨rs, h⟩ := core_weighCore s core k
  have hdroops : recentDroops (weighCore s core) (islandOf k) = recentDroops s (islandOf k) := by
    rw [coresOnly_weighCore s core]
    rfl
  rw [classOf, h, hdroops, classOf]

theorem hotNoted_weighCore {s : State} (core : Nat) (h : HotNoted s) : HotNoted (weighCore s core) := by
  unfold weighCore
  dsimp only
  split
  · exact h
  · exact h.trans (any_kput (d := {}) rfl (isHot_markRound (roundOf s core) (s.core core))).symm

theorem core_weighCores (ks : List Nat) (k : Nat) : ∀ s : State, ∃ rs, (ks.foldl weighCore s).core k =
    { s.core k with rounds := rs, weight := if k ∈ ks then classOf s k else (s.core k).weight } := by
  induction ks with
  | nil => exact fun s => ⟨(s.core k).rounds, by simp⟩
  | cons a ks ih =>
    intro s
    obtain ⟨rs, hrest⟩ := ih (weighCore s a)
    obtain ⟨rs', hfirst⟩ := core_weighCore s a k
    refine ⟨rs, ?_⟩
    rw [List.foldl_cons, hrest, classOf_weighCore, hfirst]
    by_cases hk : k ∈ ks
    · simp [hk]
    · simp [hk]

/-- The end of WEIGHT_CLASS_UPDATE: its time is noted, and the stretches of the last 10 µs are kept. -/
def noteWeighed (s : State) : State :=
  { s with dev := { s.dev with weighed := s.time, droops := s.dev.droops.filter fun d => decide (s.time < d.2 + 10000) } }

/-- The state that WEIGHT_CLASS_UPDATE leaves. -/
def weighed (core temp more : Nat) (s : State) : State :=
  noteWeighed ((List.range 256).foldl weighCore (noteTemps core temp more s))

theorem execWeightClassUpdate_core {core : Nat} (temp more : Nat) (s : State) (h : core < 256) :
    execWeightClassUpdate core temp more s = .next (weighed core temp more s) :=
  congrArg Host.Outcome.next (if_pos h)

theorem noteWeighed_frame {s u : State} (h : CoresOnly s u) :
    noteWeighed u = { s with cores := u.cores, dev := { s.dev with
      hot := u.dev.hot, weighed := s.time, droops := s.dev.droops.filter fun e => decide (s.time < e.2 + 10000) } } := by
  rw [h]
  rfl

theorem noteWeighed_hot {u : State} (h : HotNoted u) :
    (noteWeighed u).dev.hot = true ↔ ∃ e ∈ (noteWeighed u).cores, 105 ≤ e.2.temp := by
  have hany : (noteWeighed u).dev.hot = (noteWeighed u).cores.any fun e => isHot e.2 := h
  rw [hany, List.any_eq_true]
  simp [isHot]

theorem core_noteWeighed (s : State) (k : Nat) : (noteWeighed s).core k = s.core k := rfl

theorem weighed_frame (core temp more : Nat) (s : State) :
    weighed core temp more s = { s with cores := (weighed core temp more s).cores, dev := { s.dev with
      hot := (weighed core temp more s).dev.hot, weighed := s.time, droops := s.dev.droops.filter fun e => decide (s.time < e.2 + 10000) } } := by
  have hcores := coresOnly_trans (coresOnly_noteTemps core temp more s) (coresOnly_foldl coresOnly_weighCore (List.range 256) _)
  unfold weighed
  generalize (List.range 256).foldl weighCore (noteTemps core temp more s) = u at hcores
  exact noteWeighed_frame hcores

theorem weighed_hot {core : Nat} (temp more : Nat) (s : State) (h : core < 256) :
    (weighed core temp more s).dev.hot = true ↔ ∃ e ∈ (weighed core temp more s).cores, 105 ≤ e.2.temp :=
  noteWeighed_hot (List.foldlRecOn _ _ (hotNoted_noteTemps temp more s h) fun _ hu k _ => hotNoted_weighCore k hu)

/-- The stretches of an island in the last 10 µs, among all the stretches of that time. -/
theorem recentDroops_eq (s : State) (i : Nat) : recentDroops s i =
    ((s.dev.droops.filter fun e => decide (s.time < e.2 + 10000)).filter fun e => decide (e.1 = i)).length := by
  rw [recentDroops, List.filter_filter]

theorem recentDroops_coresOnly {s t : State} (h : CoresOnly s t) (i : Nat) : recentDroops t i = recentDroops s i := by
  rw [h]
  rfl

theorem weighed_core (core temp more : Nat) (s : State) (k : Nat) :
    ∃ rs, (weighed core temp more s).core k = { s.core k with
      temp := if core ≤ k ∧ k ≤ core + more ∧ k < 256 then temp else (s.core k).temp, rounds := rs,
      weight := if k < 256 then
        weightClass (if core ≤ k ∧ k ≤ core + more ∧ k < 256 then temp else (s.core k).temp) (recentDroops s (islandOf k))
        else (s.core k).weight } := by
  obtain ⟨rs, hcore⟩ := core_weighCores (List.range 256) k (noteTemps core temp more s)
  refine ⟨rs, ?_⟩
  rw [weighed, core_noteWeighed, hcore, classOf, recentDroops_coresOnly (coresOnly_noteTemps core temp more s), core_noteTemps]
  simp only [List.mem_range]

end Sys2Proof.Proofs
end

section
/-! REPLAY_PASS (R453, R455): what the end of a pass writes reaches memories alone, so the grid and its session are what the event says. -/

namespace Sys2Proof.Proofs

open Sys2Proof.Machine Sys2Proof.Laws

theorem MemoryOnly.partitions {s t : State} (h : MemoryOnly s t) : t.partitions = s.partitions := h.service.partitions

theorem memoryOnly_recordCounters (p ctx : Nat) (x : Session) (s : State) : MemoryOnly s (recordCounters p ctx x s) :=
  memoryOnly_foldl (fun s _ => memoryOnly_rawWrite s p ctx _ _) _ s

theorem memoryOnly_restorePages (p ctx : Nat) (x : Session) (s : State) : MemoryOnly s (restorePages p ctx x s) :=
  memoryOnly_foldl (fun s _ => memoryOnly_rawWrite s p ctx _ _) _ s

theorem memoryOnly_performGrid (g : Grid) (s : State) : MemoryOnly s (performGrid g s) := memoryOnly_performStores s _ 5

/-- A comparison changes signatures, hashes and mismatches only. -/
theorem comparePass_kept (hash : Nat) (x : Session) : comparePass hash x =
    { x with sigs := (comparePass hash x).sigs, hash := (comparePass hash x).hash, pathmis := (comparePass hash x).pathmis,
             datamis := (comparePass hash x).datamis } := by
  unfold comparePass
  split <;> rfl

/-- The session that the end of a pass records. -/
def comparedSession (g : Grid) (hash : Nat) (x : Session) : Session := { comparePass hash x with aborted := decide (g.status ≠ 0x0100) }

/-- The session has had its last pass, or is aborted. -/
def SessionOver (g : Grid) (x : Session) : Prop := g.status ≠ 0x0100 ∨ x.full = true ∨ x.groups ≤ x.pass

theorem comparedSession_over (g : Grid) (hash : Nat) (x : Session) :
    ((comparedSession g hash x).aborted || (comparedSession g hash x).full ||
      decide ((comparedSession g hash x).groups ≤ (comparedSession g hash x).pass)) = true ↔ SessionOver g x := by
  rw [comparedSession, comparePass_kept]
  simp only [Bool.or_eq_true, decide_eq_true_eq, SessionOver, or_assoc]

/-- A pass ends with its records written, and then the session ends or its next pass starts. -/
theorem endPass_cases (gid : Nat) (g : Grid) (x : Session) (s : State) : ∃ hash u, MemoryOnly s u ∧ endPass gid g x s =
    if (comparedSession g hash x).aborted || (comparedSession g hash x).full ||
        decide ((comparedSession g hash x).groups ≤ (comparedSession g hash x).pass) then
      u.modGrid gid fun g => { g with session := none }
    else nextPass gid g (comparedSession g hash x) u :=
  ⟨_, _, memoryOnly_trans (memoryOnly_performGrid g s)
    (memoryOnly_trans (memoryOnly_recordCounters _ _ x _) (memoryOnly_rawWrite _ _ _ _ _)), rfl⟩

/-- The grid as a pass that starts leaves it. -/
def passStarted (x : Session) (g : Grid) : Grid :=
  { g with session := some { x with pass := x.pass + 1, cur := [], cores := [] }, placed := 0, ended := 0, flushed := false }

theorem nextPass_grids (gid : Nat) (g : Grid) (x : Session) (s : State) :
    ∃ u, MemoryOnly s u ∧ nextPass gid g x s = (modPartition g.partition (fun y => { y with ptr := x.ptr }) u).modGrid gid (passStarted x) :=
  ⟨_, memoryOnly_trans (memoryOnly_restorePages _ _ x s) (memoryOnly_foldl (fun s c => memoryOnly_physAcquire s c 5) _ _), rfl⟩

theorem kget_modGrid (s : State) (gid : Nat) (f : Grid → Grid) : kget (s.modGrid gid f).grids gid = (kget s.grids gid).map f :=
  kget_kmod_same f s.grids gid

variable {s : State} {gid : Nat} {g : Grid} {x : Session}

theorem endPass_over (hg : kget s.grids gid = some g) (h : SessionOver g x) :
    kget (endPass gid g x s).grids gid = some { g with session := none } := by
  obtain ⟨hash, u, hmem, heq⟩ := endPass_cases gid g x s
  rw [heq, if_pos ((comparedSession_over g hash x).2 h), kget_modGrid, hmem.grids, hg]
  rfl

theorem endPass_next (hg : kget s.grids gid = some g) (h : ¬ SessionOver g x) :
    ∃ hash, kget (endPass gid g x s).grids gid = some (passStarted (comparedSession g hash x) g) ∧
      ∀ y, kget s.partitions g.partition = some y → (kgetD {} (endPass gid g x s).partitions g.partition).ptr = x.ptr := by
  obtain ⟨hash, u, hmem, heq⟩ := endPass_cases gid g x s
  obtain ⟨v, hmem', hnext⟩ := nextPass_grids gid g (comparedSession g hash x) u
  refine ⟨hash, ?_, fun y hy => ?_⟩
  · rw [heq, if_neg (mt (comparedSession_over g hash x).1 h), hnext, kget_modGrid]
    show (kget v.grids gid).map _ = _
    rw [hmem'.grids, hmem.grids, hg]
    rfl
  · rw [heq, if_neg (mt (comparedSession_over g hash x).1 h), hnext]
    show (kgetD {} (kmod _ v.partitions g.partition) g.partition).ptr = x.ptr
    rw [kgetD, kget_kmod_same, hmem'.partitions, hmem.partitions, hy]
    show (comparePass hash x).ptr = x.ptr
    rw [comparePass_kept]

theorem execReplayPass_early (hg : kget s.grids gid = some g) (h : g.session = none ∨ g.ended ≠ g.total) : execReplayPass gid s = .next s := by
  unfold execReplayPass
  rw [hg]
  dsimp only
  rw [if_neg]
  rcases h with h | h <;> simp [h]

theorem execReplayPass_ended (hg : kget s.grids gid = some g) (hx : g.session = some x) (hmore : g.more = false)
    (h : gridEnded s gid g = true) : execReplayPass gid s = .next (endPass gid g x s) := by
  obtain ⟨hended, hflushed, -, -⟩ := gridEnded_parts h
  simp [execReplayPass, hg, hx, hmore, hended, hflushed, passOver, h]

end Sys2Proof.Proofs
end

section
/-! SHADOW_EXCHANGE (R72): the stages of a swap. -/

namespace Sys2Proof.Proofs

open Sys2Proof.Machine Sys2Proof.Laws

theorem kgetD_kmod_same {α : Type} (d : α) (f : α → α) {m : KMap α} {n : Nat} {v : α} (h : kget m n = some v) :
    kgetD d (kmod f m n) n = f v := by
  rw [kgetD, kget_kmod_same, h]
  rfl

theorem kgetD_of_kget {α : Type} (d : α) {m : KMap α} {n : Nat} {v : α} (h : kget m n = some v) : kgetD d m n = v := by
  rw [kgetD, h]
  rfl

variable {s : State} {p : Nat} {x : Partition}

/-- The stage of a partition's swap. -/
def swapStage (p : Nat) (s : State) : Nat := (kgetD {} s.partitions p).swap

theorem haltPartition_stage (hx : kget s.partitions p = some x) : swapStage p (haltPartition p s) = 2 := by
  show (kgetD {} (kmod _ (dropRuns _ s).partitions p) p).swap = 2
  rw [(dropRuns_frame _ s).2.1, kgetD_kmod_same {} _ hx]

/-- No wave of a halted partition holds its port. -/
theorem haltPartition_free {k : Nat} {w : Wave} (hw : s.wave k = some w) (hp : w.partition = p) : ¬ HoldsPort (haltPartition p s) k := by
  have hk : k ∈ (s.waves.filter fun e => e.2.partition = p).map (·.1) :=
    List.mem_map.2 ⟨(k, w), List.mem_filter.2 ⟨mem_of_kget hw, decide_eq_true hp⟩, rfl⟩
  exact dropRuns_free hk hw

/-- What the end of a swap changes besides waves: the packets that waited for it complete. -/
theorem swapDone_kept (p : Nat) (s : State) : (swapDone p s).partitions = s.partitions ∧ (swapDone p s).l1Locks = s.l1Locks ∧
    NoNewStore s (swapDone p s) :=
  have h := serviceOnly_donePartctl [1, 2] p s
  ⟨h.partitions, h.l1Locks, h.ids⟩

theorem swapDone_stage (p : Nat) (s : State) : swapStage p (swapDone p s) = swapStage p s := by
  rw [swapStage, (swapDone_kept p s).1, swapStage]

theorem swapOut_stage (hx : kget s.partitions p = some x) : swapStage p (swapOut p s) = 3 := by
  show (kgetD {} (kmod _ (performStores s _ 5).partitions p) p).swap = 3
  rw [(memoryOnly_performStores s _ 5).partitions, kgetD_kmod_same {} _ hx]

theorem swapOut_l1Locks : ∀ k ∈ (swapOut p s).l1Locks, k.place ∉ partitionCores s p := by
  intro k hk
  simpa using (List.mem_filter.1 hk).2

theorem swapOut_stores {y : Store} (hy : y ∈ s.stores) (hcore : y.core ∈ partitionCores s p) : ∀ z ∈ (swapOut p s).stores, z.id ≠ y.id :=
  performStores_done (sel := fun x => (partitionCores s p).contains x.core) hy (List.contains_iff_mem.2 hcore)

theorem swapIn_stage (hx : kget s.partitions p = some x) :
    swapStage p (modPartition p (fun x => { x with swap := 0 }) (swapIn p s)) = 0 := by
  show (kgetD {} (kmod _ s.partitions p) p).swap = 0
  rw [kgetD_kmod_same {} _ hx]

theorem execShadowExchange_idle (hx : kget s.partitions p = some x) (h : x.swap = 0 ∨ x.swap = 3 ∨ (x.swap = 1 ∧ holdsDeadline s p = true) ∨
    (x.swap = 2 ∧ swapDrained s p = false)) : execShadowExchange p s = .next s := by
  unfold execShadowExchange
  rw [kgetD_of_kget {} hx]
  rcases h with h | h | ⟨h, hd⟩ | ⟨h, hd⟩
  · rw [h]; rfl
  · rw [h]; rfl
  · rw [h, hd]; rfl
  · rw [h, hd]; rfl

theorem execShadowExchange_halt (hx : kget s.partitions p = some x) (h : x.swap = 1) (hd : holdsDeadline s p = false) :
    execShadowExchange p s = .next (haltPartition p s) := by
  rw [execShadowExchange, kgetD_of_kget {} hx, h, hd]
  rfl

theorem execShadowExchange_out (hx : kget s.partitions p = some x) (h : x.swap = 2) (hd : swapDrained s p = true) :
    execShadowExchange p s = .next (swapDone p (swapOut p s)) := by
  rw [execShadowExchange, kgetD_of_kget {} hx, h, hd]
  rfl

theorem execShadowExchange_in (hx : kget s.partitions p = some x) (h : x.swap = 4) :
    execShadowExchange p s = .next (swapDone p (modPartition p (fun x => { x with swap := 0 }) (swapIn p s))) := by
  rw [execShadowExchange, kgetD_of_kget {} hx, h]
  rfl

end Sys2Proof.Proofs
end

section
/-! WIPE_COMPLETE (R243, R469). -/

namespace Sys2Proof.Proofs

open Sys2Proof.Machine Sys2Proof.Laws

/-- A place that a filter drops reads as the default. -/
theorem cellsGet_filter_dropped {α : Type} (d : α) {P : Nat × α → Bool} {n : Nat} (hn : ∀ v, P (n, v) = false) (c : Cells α) :
    cellsGet d (c.filter P) n = d := by
  induction c with
  | nil => rfl
  | cons e c ih =>
    obtain ⟨k, v⟩ := e
    rw [List.filter_cons]
    split_ifs with hk
    · have hne : n ≠ k := fun he => by simp [← he, hn] at hk
      rw [cellsGet, if_neg hne, ih]
    · exact ih

theorem read_clear {m : Memory} {lo hi a : Nat} (h1 : lo ≤ a) (h2 : a < hi) : (m.clear lo hi).read a = 0#8 :=
  cellsGet_filter_dropped 0#8 (fun _ => by simp [h1, h2]) m

/-- What a wiped partition has lost. -/
structure Wiped (p lo hi : Nat) (cores : List Nat) (t : State) : Prop where
  hbm : ∀ a, lo ≤ a → a < hi → t.hbm.read a = 0#8
  spad : ∀ a, a / 2 ^ 19 ∈ cores → t.spad.read a = 0#8
  tlb : ∀ e ∈ t.tlb, e.partition ≠ p
  ptrs : ∀ e ∈ t.ptrs, e.partition ≠ p

variable {s : State} {p : Nat} {x : Partition}

theorem wiped_wipePartition (hx : kget s.partitions p = some x) :
    Wiped p x.hbmBase (x.hbmBase + x.hbmSize) (partitionCores s p) (wipePartition p s) where
  hbm a h1 h2 := by
    show (s.hbm.clear (kgetD {} s.partitions p).hbmBase _).read a = 0#8
    rw [kgetD_of_kget {} hx]
    exact read_clear h1 h2
  spad a ha := cellsGet_filter_dropped 0#8 (fun _ => by simpa using ha) s.spad
  tlb e he := by simpa using (List.mem_filter.1 he).2
  ptrs e he := by simpa using (List.mem_filter.1 he).2

/-- No packet is under way. -/
def NoBusyPacket (s : State) : Prop := ∀ e ∈ s.queues, ∀ k ∈ e.2.packets, k.busy = false

theorem donePartctl_idle {ops : List Nat} {p : Nat} {s : State} (h : NoBusyPacket s) : donePartctl ops p s = s := by
  have hqueues : ∀ es ⊆ s.queues, es.foldl (fun s e => e.2.packets.foldl (fun s x =>
      if decide (x.ty = 0x0B) && x.busy && ops.contains (numAt x.bytes 16 1) && decide (numAt x.bytes 17 1 = p) then
        donePacket e.1 x.seq 0x0100 0 s else s) s) s = s := fun es hes =>
    List.foldlRecOn (motive := fun t => t = s) es _ rfl fun t ht e he =>
      List.foldlRecOn (motive := fun t => t = s) e.2.packets _ ht fun u hu k hk => by
        rw [h e (hes he) k hk]
        simpa using hu
  exact hqueues s.queues (List.Subset.refl _)

/-- The wipe's end without a packet that waits for it: the waves that wait for it go on. -/
def wipeDone (p : Nat) (s : State) : State :=
  wakeConds (fun c => decide (c = .wipe p)) (modPartition p (fun x => { x with wiping := false }) (wipePartition p s))

theorem wiped_wipeDone (hx : kget s.partitions p = some x) :
    Wiped p x.hbmBase (x.hbmBase + x.hbmSize) (partitionCores s p) (wipeDone p s) :=
  have h := wiped_wipePartition hx
  ⟨h.hbm, h.spad, h.tlb, h.ptrs⟩

theorem wipeDone_partition (hx : kget s.partitions p = some x) : kget (wipeDone p s).partitions p = some { x with wiping := false } := by
  show kget (kmod _ s.partitions p) p = _
  rw [kget_kmod_same, hx]
  rfl

theorem execWipeComplete_idle (h : (kgetD {} s.partitions p).wiping = false) : execWipeComplete p s = .next s := by
  rw [execWipeComplete, h]
  rfl

theorem execWipeComplete_wiping (hx : kget s.partitions p = some x) (hw : x.wiping = true) (hidle : NoBusyPacket s) :
    execWipeComplete p s = .next (if x.undef then endPartition p (wipeDone p s) else wipeDone p s) := by
  have hnone : donePartctl [3] p (modPartition p (fun x => { x with wiping := false }) (wipePartition p s)) = _ := donePartctl_idle hidle
  rw [execWipeComplete, kgetD_of_kget {} hx, hw, if_pos rfl, hnone]
  rfl

/-! ## A partition ends (R469, R470) -/

/-- Only contexts, the configuration of partitions, and cached translations have changed, of which some are gone. -/
structure ContextsOnly (s t : State) : Prop where
  rest : t = { s with contexts := t.contexts, partitions := t.partitions, tlb := t.tlb, ptrs := t.ptrs }
  tlb : t.tlb ⊆ s.tlb
  ptrs : t.ptrs ⊆ s.ptrs

theorem contextsOnly_refl (s : State) : ContextsOnly s s := ⟨rfl, List.Subset.refl _, List.Subset.refl _⟩

theorem contextsOnly_trans {s t u : State} (h1 : ContextsOnly s t) (h2 : ContextsOnly t u) : ContextsOnly s u := by
  refine ⟨?_, List.Subset.trans h2.tlb h1.tlb, List.Subset.trans h2.ptrs h1.ptrs⟩
  have h := h2.rest
  rw [h1.rest] at h
  exact h

theorem contextsOnly_foldl {α : Type} {f : State → α → State} (hf : ∀ s x, ContextsOnly s (f s x)) (xs : List α) (s : State) :
    ContextsOnly s (xs.foldl f s) :=
  List.foldlRecOn xs f (contextsOnly_refl s) fun u hu x _ => contextsOnly_trans hu (hf u x)

theorem contextsOnly_unloadObj (p ctx id : Nat) (s : State) : ContextsOnly s (unloadObj p ctx id s) :=
  ⟨rfl, List.Subset.refl _, List.Subset.refl _⟩

theorem contextsOnly_endContext (p id : Nat) (s : State) : ContextsOnly s (endContext p id s) :=
  contextsOnly_trans (contextsOnly_foldl (fun s o => contextsOnly_unloadObj p id o s) _ s)
    ⟨rfl, List.filter_subset_self _, List.filter_subset_self _⟩

/-- The end of a partition's contexts, once its key slots are unbound. -/
def endContexts (p : Nat) (s : State) : State :=
  (partContexts s p).foldl (fun s c => endContext p c s) { s with keys := s.keys.filter fun k => decide (k.2.bound ≠ some p) }

theorem contextsOnly_endContexts (p : Nat) (s : State) :
    ContextsOnly { s with keys := s.keys.filter fun k => decide (k.2.bound ≠ some p) } (endContexts p s) :=
  contextsOnly_foldl (fun s c => contextsOnly_endContext p c s) _ _

theorem endPartition_ended (p : Nat) (s : State) : kget (endPartition p s).partitions p = none ∧ (endPartition p s).dev.mbox.busy = false ∧
    ∀ e ∈ (endPartition p s).keys, e.2.bound ≠ some p := by
  refine ⟨kget_kdel_same _ p, rfl, fun e he => ?_⟩
  have hkeys : e ∈ (endContexts p s).keys := he
  rw [(contextsOnly_endContexts p s).rest] at hkeys
  simpa using (List.mem_filter.1 hkeys).2

theorem wiped_endPartition {lo hi : Nat} {cores : List Nat} (h : Wiped p lo hi cores s) : Wiped p lo hi cores (endPartition p s) := by
  have hframe := contextsOnly_endContexts p s
  refine ⟨fun a h1 h2 => ?_, fun a ha => ?_, fun e he => h.tlb e (hframe.tlb he), fun e he => h.ptrs e (hframe.ptrs he)⟩
  · show (endContexts p s).hbm.read a = 0#8
    rw [hframe.rest]
    exact h.hbm a h1 h2
  · show (endContexts p s).spad.read a = 0#8
    rw [hframe.rest]
    exact h.spad a ha

end Sys2Proof.Proofs
end

section
/-! What a halted workgroup's waves keep (R70), and the report of the sensors as one result (R49). -/

namespace Sys2Proof.Proofs

open Sys2Proof.Machine Sys2Proof.Laws

theorem not_holdsPort_iff {s : State} {k : Nat} : ¬ HoldsPort s k ↔ ∀ r, kget s.runs (quarterOf k) = some r → r.wave ≠ k := by
  simp [HoldsPort]

variable {s : State} {id k : Nat} {g : Wg} {w : Wave}

/-- A wave without a run is halted as it is. -/
theorem haltWg_idle (hg : kget s.wgs id = some g) (hn : g.waves.Nodup) (hk : k ∈ g.waves) (hw : s.wave k = some w) (hidle : ¬ HoldsPort s k) :
    (haltWg id s).wave k = some (haltWave w) := by
  rw [haltWg_wave hg hn hk, wave_dropRuns_idle g.waves hidle, hw]
  rfl

/-- A wave whose run ends keeps its registers and tiles, and its parts all but what a run counts. -/
theorem haltWg_keeps (hg : kget s.wgs id = some g) (hn : g.waves.Nodup) (hk : k ∈ g.waves) (hw : s.wave k = some w) :
    ∃ w', (haltWg id s).wave k = some w' ∧ w'.v = w.v ∧ w'.x = w.x ∧ w'.tiles = w.tiles ∧
      w'.parts.map (fun x : Part => (x.q, x.n, x.pc, x.mode, x.w, x.loops, x.recs, x.wait, x.halted)) =
        w.parts.map fun x : Part => (x.q, x.n, x.pc, x.mode, x.w, x.loops, x.recs, x.wait, if partParked x then x.halted else true) := by
  obtain ⟨f, hf, hrest⟩ := wave_dropRuns g.waves hw
  refine ⟨haltWave { w with parts := w.parts.map f }, by rw [haltWg_wave hg hn hk, hrest]; rfl, rfl, rfl, rfl, ?_⟩
  show ((w.parts.map f).map haltPart).map _ = _
  rw [List.map_map, List.map_map]
  exact List.map_congr_left fun p _ => haltPart_kept (hf p)

end Sys2Proof.Proofs
end

section
/-! O46: the dispatcher's events. -/

namespace Sys2Proof.Proofs

open Sys2Proof.Machine Sys2Proof.Laws

theorem exec_gridComplete (gid : Nat) (s : State) : exec (.gridComplete gid) s = .next (completeGrid gid s) := rfl

theorem exec_hardwareSave (id : Nat) (s : State) : exec (.hardwareSave id) s = .next (parkWg id s) := rfl

variable {s : State} {id gid p : Nat}

theorem exec_predlExpiry_due {g : Wg} {d : Nat} (hg : kget s.wgs id = some g) (hp : g.predl = some d) (hd : d ≤ s.time) (hn : g.waves.Nodup) :
    ∃ t, exec (.predlExpiry id) s = .next t ∧ kget t.wgs id = some { g with predl := none } ∧
      ∀ k ∈ g.waves, ∀ w, s.wave k = some w →
        (∀ r, kget t.runs (quarterOf k) = some r → r.wave ≠ k) ∧
        ((∀ r, kget s.runs (quarterOf k) = some r → r.wave ≠ k) →
          t.wave k = some { w with parts := w.parts.map fun p => if partParked p then p else { p with halted := true } }) ∧
        ∃ w', t.wave k = some w' ∧ w'.v = w.v ∧ w'.x = w.x ∧ w'.tiles = w.tiles ∧
          w'.parts.map (fun x : Part => (x.q, x.n, x.pc, x.mode, x.w, x.loops, x.recs, x.wait, x.halted)) =
            w.parts.map fun x : Part => (x.q, x.n, x.pc, x.mode, x.w, x.loops, x.recs, x.wait, if partParked x then x.halted else true) := by
  have hg' : kget (s.modWg id fun g => { g with predl := none }).wgs id = some { g with predl := none } := by
    show kget (kmod _ s.wgs id) id = _
    rw [kget_kmod_same, hg]
    rfl
  refine ⟨_, execPredlExpiry_due hg hp hd, (haltWg_wgs hg').symm ▸ hg', fun k hk w hw => ⟨?_, fun hidle => ?_, ?_⟩⟩
  · exact not_holdsPort_iff.1 (haltWg_free hg' hk hw)
  · exact haltWg_idle hg' hn hk hw (not_holdsPort_iff.2 hidle)
  · exact haltWg_keeps hg' hn hk hw

theorem exec_hardwareSave_finished {g : Wg} (hg : kget s.wgs id = some g) (h : WgFinished s g) :
    ∃ (t : State) (pk : Parked), exec (.hardwareSave id) s = .next t ∧ kget t.wgs id = none ∧ kget t.parked id = some pk ∧
      pk.wg = { g with predl := none } ∧ (∀ k ∈ g.waves, t.wave k = none) ∧
      pk.waves.map (fun w : Wave => (w.v, w.x, w.parts)) = (wgWaves s g).map (fun w : Wave => (w.v, w.x, w.parts.map performReads)) := by
  obtain ⟨hwgs, hwaves, pk, hparked, hwg, hkept⟩ := giveUp_parked id g (wgWaves s g) s
  exact ⟨_, pk, by rw [exec_hardwareSave, parkWg_finished hg h], hwgs, hparked, hwg, hwaves, hkept⟩

theorem exec_replayPass_ended {g : Grid} {x : Session} (hg : kget s.grids gid = some g) (hx : g.session = some x) (hmore : g.more = false)
    (h : gridEnded s gid g = true) : ∃ t g', exec (.replayPass gid) s = .next t ∧ kget t.grids gid = some g' ∧
      (g.status ≠ 0x0100 ∨ x.full = true ∨ x.groups ≤ x.pass → g'.session = none) ∧
      (g.status = 0x0100 ∧ x.full = false ∧ x.pass < x.groups →
        g'.placed = 0 ∧ g'.ended = 0 ∧ g'.flushed = false ∧ g'.session.map (·.pass) = some (x.pass + 1) ∧
        ∀ y, kget s.partitions g.partition = some y → (kgetD {} t.partitions g.partition).ptr = x.ptr) := by
  by_cases hover : SessionOver g x
  · refine ⟨_, _, execReplayPass_ended hg hx hmore h, endPass_over hg hover, fun _ => rfl, ?_⟩
    rintro ⟨hstatus, hfull, hpass⟩
    rcases hover with hs | hf | hp
    · exact absurd hstatus hs
    · simp [hf] at hfull
    · omega
  · obtain ⟨hash, hgrid, hptr⟩ := endPass_next hg hover
    refine ⟨_, _, execReplayPass_ended hg hx hmore h, hgrid, fun h => absurd h hover, fun _ => ⟨rfl, rfl, rfl, ?_, hptr⟩⟩
    show some ((comparePass hash x).pass + 1) = some (x.pass + 1)
    rw [comparePass_kept]

theorem exec_wipeComplete_wiping {x : Partition} (hx : kget s.partitions p = some x) (hw : x.wiping = true) (hidle : NoBusyPacket s) :
    ∃ t, exec (.wipeComplete p) s = .next t ∧ Wiped p x.hbmBase (x.hbmBase + x.hbmSize) (partitionCores s p) t ∧
      (x.undef = false → kget t.partitions p = some { x with wiping := false }) ∧
      (x.undef = true → kget t.partitions p = none ∧ t.dev.mbox.busy = false ∧ ∀ e ∈ t.keys, e.2.bound ≠ some p) := by
  refine ⟨_, execWipeComplete_wiping hx hw hidle, ?_⟩
  by_cases hu : x.undef = true
  · rw [if_pos hu]
    exact ⟨wiped_endPartition (wiped_wipeDone hx), fun h => absurd (hu.symm.trans h) nofun, fun _ => endPartition_ended p _⟩
  · rw [if_neg hu]
    exact ⟨wiped_wipeDone hx, fun _ => wipeDone_partition hx, fun h => absurd h hu⟩

/-- Settles O46: each event does nothing before its condition; what it does then is said of the memories, runs, cores and records that the
services of a completion, of a halt and of a swap leave alone. -/
theorem dispatcherEvents : Obligations.DispatcherEvents := by
  unfold Obligations.DispatcherEvents
  refine ⟨?gridEarly, ?gridEnds, ?gridParts, ?budget, ?predlEarly, ?predlDue, ?save, ?weigh, ?replayEarly, ?replayEnds, ?swap, ?wipeIdle, ?wipe⟩
  case gridEarly =>
    intro s gid g hg h
    rw [exec_gridComplete, completeGrid_early hg h]
  case gridEnds =>
    intro s gid g hg hmore hsession hended hparent
    obtain ⟨hgone, hstores⟩ := finishGrid_done (gid := gid) hparent s
    exact ⟨_, by rw [exec_gridComplete, completeGrid_ended hg hmore hsession hended], rfl, hgone, hstores⟩
  case gridParts =>
    intro s gid g h
    obtain ⟨hended, -, hparent, hastp⟩ := gridEnded_parts h
    exact ⟨hended, hparent, hastp⟩
  case budget => exact fun s id g hg he => execBudgetExceeded_eq hg he
  case predlEarly => exact fun s id g hg h => execPredlExpiry_early hg h
  case predlDue => exact fun s id g d hg hp hd hn => exec_predlExpiry_due hg hp hd hn
  case save =>
    intro s id g hg
    refine ⟨fun h => ?_, fun h => exec_hardwareSave_finished hg h⟩
    rw [exec_hardwareSave, parkWg_open hg h]
  case weigh =>
    intro s core temp more hcore
    refine ⟨_, execWeightClassUpdate_core temp more s hcore, weighed_frame core temp more s, weighed_hot temp more s hcore, fun k => ?_⟩
    obtain ⟨rs, h⟩ := weighed_core core temp more s k
    rw [recentDroops_eq] at h
    exact ⟨rs, h⟩
  case replayEarly => exact fun s gid g hg h => execReplayPass_early hg h
  case replayEnds => exact fun s gid g x hg hx hmore h => exec_replayPass_ended hg hx hmore h
  case swap =>
    intro s p x hx
    refine ⟨fun h => execShadowExchange_idle hx h, fun h hd => ?_, fun h hd => ?_, fun h => ?_⟩
    · exact ⟨_, execShadowExchange_halt hx h hd, haltPartition_stage hx, fun k w hw hp => not_holdsPort_iff.1 (haltPartition_free hw hp)⟩
    · obtain ⟨-, hlocks, hids⟩ := swapDone_kept p (swapOut p s)
      refine ⟨_, execShadowExchange_out hx h hd, (swapDone_stage p _).trans (swapOut_stage hx), fun k hk => ?_, fun y hy hcore z hz => ?_⟩
      · exact swapOut_l1Locks k (hlocks ▸ hk)
      · obtain ⟨z', hz', hid⟩ := hids z hz
        exact hid ▸ swapOut_stores hy hcore z' hz'
    · exact ⟨_, execShadowExchange_in hx h, (swapDone_stage p _).trans (swapIn_stage hx)⟩
  case wipeIdle => exact fun s p h => execWipeComplete_idle h
  case wipe =>
    intro s p x hx hw hidle
    obtain ⟨t, hexec, ⟨hhbm, hspad, htlb, hptrs⟩, hkept, hended⟩ := exec_wipeComplete_wiping hx hw hidle
    exact ⟨t, hexec, hhbm, hspad, htlb, hptrs, hkept, hended⟩

end Sys2Proof.Proofs
end

section
/-! A step (R54, R55, R57, R84, R89, R221, R379, R381): what the part that holds the port comes to, and who is served when. -/

namespace Sys2Proof.Proofs

open Sys2Proof.Machine Sys2Proof.Laws

/-! ## What follows a word (R84, R221) -/

/-- No further word of the group has been taken up, and no PREEMPT waits behind an ERET. -/
def Lone (c : Ctx) (t : State) : Prop :=
  (∀ p, t.part c.key c.q = some p → p.prefixN ≤ c.p.prefixN) ∧
    (c.p.handler = true → ∀ p, t.part c.key c.q = some p → p.handler = true ∨ p.preempt = false)

theorem groupGoesOn_lone {c : Ctx} {t : State} (h : Lone c t) : groupGoesOn c t = false := by
  rw [groupGoesOn, Option.any_eq_false]
  exact fun p hp => decide_eq_false (Nat.not_lt.2 (h.1 p hp))

theorem leftHandler_lone {c : Ctx} {t : State} (h : Lone c t) : leftHandler c t = false := by
  rw [leftHandler, Bool.and_eq_false_iff]
  refine or_iff_not_imp_left.2 fun hc => (Option.any_eq_false _ _).2 fun p hp => ?_
  rcases h.2 (Bool.not_eq_false _ ▸ hc) p hp with hh | hq
  · rw [hh]; rfl
  · rw [hq, Bool.and_false]

theorem behindWord_lone {c : Ctx} {t : State} (more : State → Out) (h : Lone c t) : behindWord c more (.next t) = .next t := by
  simp [behindWord, groupGoesOn_lone h, leftHandler_lone h]

theorem behindWord_group {c : Ctx} {t : State} (more : State → Out) (h : groupGoesOn c t = true) :
    behindWord c more (.next t) = more t := by
  simp [behindWord, h]

/-! ## The word at the PC -/

theorem runWord_ok {x : Nat} {i : Instr} (s : State) (h : decode (BitVec.ofNat 32 x) = .ok i) : runWord x s = exec i s := by
  rw [runWord, h]

theorem runWord_error {x : Nat} {e : Reject} (s : State) (h : decode (BitVec.ofNat 32 x) = .error e) :
    runWord x s = rejectWord (BitVec.ofNat 32 x) e s := by
  rw [runWord, h]

section Fetched

variable {fuel : Nat} {s t : State} {c : Ctx} (hc : issueCtx false s = some c)
include hc

theorem issueGroup_word {x : Nat} (h : fetchPart s c.w c.p c.p.pc = .word t x) :
    issueGroup (fuel + 1) s = behindWord c (issueGroup fuel) (runWord x t) := by
  simp only [issueGroup, hc, h]

theorem issueGroup_bad {kind level va : Nat} (h : fetchPart s c.w c.p c.p.pc = .bad kind level va) :
    issueGroup (fuel + 1) s = finish c s (.trap s (fetchTrap kind level va)) := by
  simp only [issueGroup, hc, h]

theorem issueGroup_replay {level va : Nat} (h : fetchPart s c.w c.p c.p.pc = .replay level va) :
    issueGroup (fuel + 1) s = finish c s (.stall (fetchStall c level va)) := by
  simp only [issueGroup, hc, h]

end Fetched

/-- The part that holds a quarter's port comes to `o` by the word that the fetch at its PC gives. -/
def RunsWord (qr : Nat) (v : State) (o : Out) : Prop :=
  ∀ c, issueCtx false (issuing qr v) = some c →
    let u := issuing qr v
    (∀ t x i, fetchPart u c.w c.p c.p.pc = .word t x → decode (BitVec.ofNat 32 x) = .ok i →
      o = behindWord c (issueGroup 3) (exec i t)) ∧
    (∀ t x e, fetchPart u c.w c.p c.p.pc = .word t x → decode (BitVec.ofNat 32 x) = .error e →
      o = behindWord c (issueGroup 3) (rejectWord (BitVec.ofNat 32 x) e t)) ∧
    (∀ kind level va, fetchPart u c.w c.p c.p.pc = .bad kind level va → o = finish c u (.trap u (fetchTrap kind level va))) ∧
    (∀ level va, fetchPart u c.w c.p c.p.pc = .replay level va → o = finish c u (.stall (fetchStall c level va)))

theorem issueOn_runsWord (qr : Nat) (v : State) : RunsWord qr v (issueOn qr v) := by
  refine fun c hc => ⟨fun t x i hf hd => ?_, fun t x e hf hd => ?_, fun kind level va hf => ?_, fun level va hf => ?_⟩
  · rw [issueOn, issueGroup_word hc hf, runWord_ok t hd]
  · rw [issueOn, issueGroup_word hc hf, runWord_error t hd]
  · exact issueGroup_bad hc hf
  · exact issueGroup_replay hc hf

/-! ## The part that is told to issue -/

/-- The state in which the part that is told to issue may hold its port. -/
noncomputable def toldState (key q : Nat) (s : State) : State := arbitrate (quarterOf key) (probeParts (preemptAt key q s))

section Told

variable {key q : Nat} {s : State}

theorem issueAt_off (h : s.dev.off = true) : issueAt key q s = .next s := by
  simp [issueAt, h]

theorem issueAt_later (h : s.dev.off = false) (hw : portFree s (quarterOf key) = false ∨ inOrder s key q = false) :
    issueAt key q s = .next (tick 1 { s with agenda := .word key q :: s.agenda }) := by
  have hnot : (portFree s (quarterOf key) && inOrder s key q) = false := Bool.and_eq_false_iff.2 hw
  simp [issueAt, h, hnot]

section Free

variable (h : s.dev.off = false) (hf : portFree s (quarterOf key) = true) (ho : inOrder s key q = true)
include h hf ho

theorem issueAt_noRun (hr : kget (toldState key q s).runs (quarterOf key) = none) : issueAt key q s = .next (toldState key q s) := by
  unfold toldState at hr ⊢
  simp only [issueAt, h, hf, ho, hr, Bool.and_self, Bool.not_true, Bool.false_eq_true, if_false]

theorem issueAt_run {r : Run} (hr : kget (toldState key q s).runs (quarterOf key) = some r) :
    issueAt key q s = if decide (r.wave = key) && decide (r.q = q) && runReady (toldState key q s) (quarterOf key) then
      issueOn (quarterOf key) (toldState key q s) else .next (toldState key q s) := by
  unfold toldState at hr ⊢
  simp only [issueAt, h, hf, ho, hr, Bool.and_self, Bool.not_true, Bool.false_eq_true, if_false]

theorem issueAt_holder {r : Run} (hr : kget (toldState key q s).runs (quarterOf key) = some r) (hk : r.wave = key) (hq : r.q = q)
    (hready : runReady (toldState key q s) (quarterOf key) = true) :
    issueAt key q s = issueOn (quarterOf key) (toldState key q s) := by
  simp [issueAt_run h hf ho hr, hk, hq, hready]

theorem issueAt_other (hn : (∀ r, kget (toldState key q s).runs (quarterOf key) = some r → ¬ (r.wave = key ∧ r.q = q)) ∨
    runReady (toldState key q s) (quarterOf key) = false) : issueAt key q s = .next (toldState key q s) := by
  cases hr : kget (toldState key q s).runs (quarterOf key) with
  | none => exact issueAt_noRun h hf ho hr
  | some r =>
    rw [issueAt_run h hf ho hr]
    refine if_neg fun hall => ?_
    simp only [Bool.and_eq_true, decide_eq_true_eq] at hall
    rcases hn with hn | hn
    · exact hn r hr hall.1
    · simp [hn] at hall

end Free

end Told

/-! ## Nothing told -/

/-- The state in which it is decided what happens next when nothing is told. -/
noncomputable def idleState (s : State) : State := probeParts (preemptReady (settle s))

section Idle

variable {s : State}

theorem runOn_due {i : Instr} (h : dueEvent (idleState s) = some i) : runOn s = exec i (idleState s) := by
  unfold idleState at h ⊢
  simp only [runOn, h]

theorem runOn_off (h : dueEvent (idleState s) = none) (ho : (idleState s).dev.off = true) :
    runOn s = .next (tick 1 (idleState s)) := by
  unfold idleState at h ho ⊢
  simp only [runOn, h, ho, if_true]

section On

variable (h : dueEvent (idleState s) = none) (ho : (idleState s).dev.off = false)
include h ho

theorem runOn_arbitrates {qr : Nat} (hq : arbQuarter (idleState s) = some qr) :
    runOn s = exec (.issueArbitration qr) (idleState s) := by
  unfold idleState at h ho hq ⊢
  simp only [runOn, h, ho, hq, Bool.false_eq_true, if_false]

theorem runOn_issues {qr : Nat} (hq : arbQuarter (idleState s) = none) (hi : nextIssue (idleState s) = some qr) :
    runOn s = issueOn qr (idleState s) := by
  unfold idleState at h ho hq hi ⊢
  simp only [runOn, h, ho, hq, hi, Bool.false_eq_true, if_false]

theorem runOn_ticks (hq : arbQuarter (idleState s) = none) (hi : nextIssue (idleState s) = none) :
    runOn s = .next (tick 1 (idleState s)) := by
  unfold idleState at h ho hq hi ⊢
  simp only [runOn, h, ho, hq, hi, Bool.false_eq_true, if_false]

end On

end Idle

/-! ## The step -/

section Agenda

variable {s : State} {rest : List Agenda}

theorem step_event {i : Instr} (h : s.agenda = .event i :: rest) : step s = keepHomes s (exec i { s with agenda := rest }) := by
  simp only [step, h]

theorem step_env {e : Env} (h : s.agenda = .env e :: rest) : step s = keepHomes s (.next (act e { s with agenda := rest })) := by
  simp only [step, h]

theorem step_word {key q : Nat} (h : s.agenda = .word key q :: rest) :
    step s = keepHomes s (issueAt key q { s with agenda := rest }) := by
  simp only [step, h]

theorem step_nothing (h : s.agenda = []) : step s = keepHomes s (runOn s) := by
  simp only [step, h]

end Agenda

/-- Settles O58: each entry of the agenda, and each stage of a step with nothing told, by the equation of the function that serves it. -/
theorem stepRunsTheWord : Obligations.StepRunsTheWord := by
  unfold Obligations.StepRunsTheWord
  intro s runs lone
  refine ⟨fun c more t h => behindWord_lone more h, fun c more t h => behindWord_group more h, fun i rest h => step_event h,
    fun e rest h => step_env h, ?told, ?idle⟩
  case told =>
    intro key q rest h a v
    have hstep : step s = keepHomes s (issueAt key q a) := step_word h
    refine ⟨fun hoff => ?off, fun hon hwait => ?later, fun hon hport horder => ⟨fun r hr hk hq hready => ?holder, fun hn => ?other⟩⟩
    case off => exact hstep.trans (congrArg _ (issueAt_off (s := a) hoff))
    case later =>
      have hs : { a with agenda := .word key q :: rest } = s := h ▸ rfl
      rw [hstep, issueAt_later (s := a) hon hwait, hs]
    case holder =>
      exact ⟨_, hstep.trans (congrArg _ (issueAt_holder (s := a) hon hport horder hr hk hq hready)), issueOn_runsWord _ v⟩
    case other => exact hstep.trans (congrArg _ (issueAt_other (s := a) hon hport horder hn))
  case idle =>
    intro h v
    have hv : v = idleState s := rfl
    clear_value v
    subst hv
    have hstep : step s = keepHomes s (runOn s) := step_nothing h
    exact ⟨fun i hi => hstep.trans (congrArg _ (runOn_due hi)), fun hd hoff => hstep.trans (congrArg _ (runOn_off hd hoff)),
      fun hd hon => ⟨fun qr hq => hstep.trans (congrArg _ (runOn_arbitrates hd hon hq)),
        fun qr hq hi => ⟨_, hstep.trans (congrArg _ (runOn_issues hd hon hq hi)), issueOn_runsWord qr _⟩,
        fun hq hi => hstep.trans (congrArg _ (runOn_ticks hd hon hq hi))⟩⟩

end Sys2Proof.Proofs
end

section
/-! Arbitration (R57, R58, R453): the order of the keys, the part it puts first, and what that part's run begins with. -/

namespace Sys2Proof.Proofs

open Sys2Proof.Machine Sys2Proof.Laws

/-- A record of a map whose keys differ is found under its key. -/
theorem kget_of_mem {α : Type} {m : KMap α} (hn : (m.map (·.1)).Nodup) {k : Nat} {v : α} (h : (k, v) ∈ m) : kget m k = some v := by
  induction m with
  | nil => cases h
  | cons e m ih =>
    rw [List.map_cons, List.nodup_cons] at hn
    obtain ⟨he, hm⟩ := hn
    rw [kget]
    rcases List.mem_cons.1 h with rfl | h
    · exact if_pos rfl
    · have hne : k ≠ e.1 := fun hk => he (List.mem_map.2 ⟨(k, v), h, hk⟩)
      rw [if_neg hne, ih hm h]

/-! ## The keys (R57) -/

/-- The keys of `b` are those of `a` or stand before them. -/
def NoLater (b a : Nat × Nat × Nat × Nat) : Prop :=
  b.1 < a.1 ∨ b.1 = a.1 ∧ (a.2.1 < b.2.1 ∨ a.2.1 = b.2.1 ∧ (b.2.2.1 < a.2.2.1 ∨ b.2.2.1 = a.2.2.1 ∧ b.2.2.2 ≤ a.2.2.2))

theorem arbBefore_eq_false_iff (a b : Nat × Nat × Nat × Nat) : arbBefore a b = false ↔ NoLater b a := by
  unfold arbBefore NoLater
  split_ifs <;> simp only [decide_eq_false_iff_not] <;> omega

theorem noLater_refl (a : Nat × Nat × Nat × Nat) : NoLater a a := by
  unfold NoLater
  omega

theorem noLater_trans {a b c : Nat × Nat × Nat × Nat} (h1 : NoLater a b) (h2 : NoLater b c) : NoLater a c := by
  unfold NoLater at *
  omega

theorem noLater_of_before {a b : Nat × Nat × Nat × Nat} (h : arbBefore a b = true) : NoLater a b := by
  rw [← arbBefore_eq_false_iff]
  unfold arbBefore at h ⊢
  split_ifs at h ⊢ <;> simp only [decide_eq_true_eq, decide_eq_false_iff_not] at h ⊢ <;> omega

/-- A list that is not empty has a first by R57: no other stands before it. -/
theorem arbBest_first {xs : List ((Nat × Nat) × (Nat × Nat × Nat × Nat))} (h : xs ≠ []) :
    ∃ y, arbBest xs = some y ∧ y ∈ xs ∧ ∀ z ∈ xs, NoLater y.2 z.2 := by
  induction xs with
  | nil => exact absurd rfl h
  | cons x xs ih =>
    cases xs with
    | nil => exact ⟨x, rfl, List.mem_singleton_self x, fun z hz => List.mem_singleton.1 hz ▸ noLater_refl _⟩
    | cons x' xs =>
      obtain ⟨y, hy, hmem, hfirst⟩ := ih (List.cons_ne_nil _ _)
      have hbest : arbBest (x :: x' :: xs) = if arbBefore y.2 x.2 = true then some y else some x := by
        rw [arbBest, hy]
      rw [hbest]
      by_cases hb : arbBefore y.2 x.2 = true
      · refine ⟨y, if_pos hb, List.mem_cons_of_mem x hmem, fun z hz => ?_⟩
        rcases List.mem_cons.1 hz with rfl | hz
        · exact noLater_of_before hb
        · exact hfirst z hz
      · refine ⟨x, if_neg hb, List.mem_cons_self, fun z hz => ?_⟩
        rcases List.mem_cons.1 hz with rfl | hz
        · exact noLater_refl _
        · exact noLater_trans ((arbBefore_eq_false_iff _ _).1 (Bool.not_eq_true _ ▸ hb)) (hfirst z hz)

theorem arbClass_le (s : State) (w : Wave) (p : Part) : arbClass s w p ≤ 4 := by
  unfold arbClass roleClass
  split_ifs <;> omega

/-- What the order of the keys says of two parts. -/
theorem noLater_arbKeys {s : State} {w x : Wave} {p y : Part} (h : NoLater (arbKeys s w p) (arbKeys s x y)) :
    arbClass s x y < arbClass s w p ∨ arbClass s x y = arbClass s w p ∧
      (partAge s x y < partAge s w p ∨ partAge s x y = partAge s w p ∧
        (slotKey s w < slotKey s x ∨ slotKey s w = slotKey s x ∧ p.q ≤ y.q)) := by
  have hw := arbClass_le s w p
  have hx := arbClass_le s x y
  simp only [NoLater, arbKeys] at h
  omega

/-! ## The ready parts -/

theorem mem_readyParts {s : State} {qr : Nat} {z : (Nat × Nat) × (Nat × Nat × Nat × Nat)} :
    z ∈ readyParts s qr ↔ ∃ k w p, (k, w) ∈ s.waves ∧ quarterOf k = qr ∧ p ∈ w.parts ∧ canIssue s w p = true ∧
      z = ((k, p.q), arbKeys s w p) := by
  simp only [readyParts, List.mem_flatMap, List.mem_filter, List.mem_map, decide_eq_true_eq, Prod.exists]
  constructor
  · rintro ⟨k, w, ⟨hk, hq⟩, p, ⟨hp, hc⟩, rfl⟩
    exact ⟨k, w, p, hk, hq, hp, hc, rfl⟩
  · rintro ⟨k, w, p, hk, hq, hp, hc, rfl⟩
    exact ⟨k, w, ⟨hk, hq⟩, p, ⟨hp, hc⟩, rfl⟩

/-! ## The choice -/

theorem execIssueArbitration_idle {s : State} {qr : Nat} (h : (kget s.runs qr).isSome = true ∨ readyParts s qr = []) :
    execIssueArbitration qr s = .next s := by
  rw [execIssueArbitration, arbitrate]
  rcases h with h | h
  · rw [if_pos h]
  · simp only [h, arbBest, ite_self]

/-- A part whose run begins: its age begins anew. -/
def beginPart (cycle : Nat) (p : Part) : Part := { p with readyAt := cycle, class4 := false }

theorem countReady_modPart {s : State} {key : Nat} {w : Wave} {p : Part} (f : Part → Part) (hf : ∀ x, (f x).q = x.q)
    (hw : s.wave key = some w) (hp : partAt w.parts p.q = some p) :
    ((countReady s key p.q).modPart key p.q f).part key p.q = some (f p) := by
  have hpart : s.part key p.q = some p := by rw [part_of_wave hw, hp]
  have hready : (countReady s key p.q).wave key = some { w with sumWait := w.sumWait + partAge s w p } := by
    simp only [countReady, hw, hpart, wave_modWave_same, Option.map_some]
  rw [part_modPart_same _ _ _ _ hf, part_of_wave hready]
  exact congrArg _ hp

theorem cycleOf_countReady (s : State) (key q core : Nat) : cycleOf (countReady s key q) core = cycleOf s core := by
  unfold countReady
  split <;> rfl

/-- The part that the arbiter chooses holds the port with a run from its PC. -/
theorem execIssueArbitration_chosen {s : State} {qr key : Nat} {w : Wave} {p : Part} {ks : Nat × Nat × Nat × Nat}
    (hr : kget s.runs qr = none) (hb : arbBest (readyParts s qr) = some ((key, p.q), ks)) (hw : s.wave key = some w)
    (hp : partAt w.parts p.q = some p) :
    ∃ t, execIssueArbitration qr s = .next t ∧ t.focus = some qr ∧ kget t.runs qr = some { wave := key, q := p.q, pc := p.pc } ∧
      t.part key p.q = some (beginPart (cycleOf s (coreOf key)) p) := by
  have hbegun := countReady_modPart (beginPart (cycleOf s (coreOf key))) (fun _ => rfl) hw hp
  refine ⟨{ (countReady s key p.q).modPart key p.q (beginPart (cycleOf s (coreOf key))) with
    runs := kput ((countReady s key p.q).modPart key p.q (beginPart (cycleOf s (coreOf key)))).runs qr { wave := key, q := p.q, pc := p.pc },
    focus := some qr }, ?_, rfl, kget_kput_same _ _ _, hbegun⟩
  rw [execIssueArbitration, arbitrate, if_neg (by simp [hr]), hb]
  dsimp only
  rw [cycleOf_countReady]
  unfold beginPart at hbegun ⊢
  simp only [hbegun]

/-- Settles O40: the arbiter's choice is the first of the ready parts in the order of their keys. -/
theorem arbitrationEvent : Obligations.ArbitrationEvent := by
  unfold Obligations.ArbitrationEvent
  refine ⟨fun s qr h => execIssueArbitration_idle h, fun s qr hr hready hkeys hquads => ?_⟩
  obtain ⟨z, hbest, hz, hfirst⟩ := arbBest_first hready
  obtain ⟨key, w, p, hmem, hqr, hp, hcan, rfl⟩ := mem_readyParts.1 hz
  have hw : s.wave key = some w := kget_of_mem hkeys hmem
  have hpart : partAt w.parts p.q = some p := partAt_of_mem (hquads _ hmem) hp
  obtain ⟨t, hexec, hfocus, hrun, ht⟩ := execIssueArbitration_chosen hr hbest hw hpart
  refine ⟨t, key, w, p, hexec, hw, hp, hqr, hcan, fun k x y hx hk hy hc => ?_, hfocus, hrun, ht⟩
  exact noLater_arbKeys (hfirst _ (mem_readyParts.2 ⟨k, x, y, mem_of_kget hx, hk, hy, hc, rfl⟩))

end Sys2Proof.Proofs
end

section
/-! The words of CTRL that act on keys, fuses, wipes, swaps and measurements (R72, R243, R334, R335, R473, R474). -/

namespace Sys2Proof.Proofs

open Sys2Proof.Machine Sys2Proof.Laws Sys2Proof.Safety

/-- A word that completes by writing what it finds in the state. -/
theorem wrote_intro {i : Bool → Instr} {sig : Ctx → Sig} {idle body : Ctx → State → Res} {z : Bool} {s : State} {c : Ctx} {d : BitVec 7}
    {f : Nat → List Word} {k : Nat} (he : ∀ z s, exec (i z) s = issueWord z sig idle body s) (h : Ready z s c (sig c))
    (hb : body c (begun c (sig c) s) = .fall (writeRegs c d f (begun c (sig c) s)) k) : ∃ t, exec (i z) s = .next t ∧ Wrote s t c d f := by
  refine ⟨_, ?_, wrote_fall z s c d f (sig c) (k * passes c.p.n + redirect c (writeRegs c d f (begun c (sig c) s))) none h.ctx h.live⟩
  rw [he, issueWord_ready z sig idle body s c h, hb, finish_fall]

/-! ## The meanings of the words -/

theorem exec_keyopGen (z : Bool) (d : BitVec 7) (p : BitVec 3) (k : BitVec 4) (s : State) :
    exec (.keyopGen z d p k) s = execKeyopGen z d p k s := rfl

theorem exec_keyopBind (z : Bool) (d : BitVec 7) (p : BitVec 3) (k : BitVec 4) (s : State) :
    exec (.keyopBind z d p k) s = execKeyopBind z d p k s := rfl

theorem exec_keyopUnbind (z : Bool) (d : BitVec 7) (p : BitVec 3) (k : BitVec 4) (s : State) :
    exec (.keyopUnbind z d p k) s = execKeyopUnbind z d p k s := rfl

theorem exec_keyopZero (z : Bool) (d : BitVec 7) (p : BitVec 3) (k : BitVec 4) (s : State) :
    exec (.keyopZero z d p k) s = execKeyopZero z d p k s := rfl

theorem exec_keyopZeroall (z : Bool) (d : BitVec 7) (p : BitVec 3) (k : BitVec 4) (s : State) :
    exec (.keyopZeroall z d p k) s = execKeyopZeroall z d p k s := rfl

theorem exec_keyopSign (z : Bool) (d : BitVec 7) (p : BitVec 3) (k : BitVec 4) (s : State) :
    exec (.keyopSign z d p k) s = execKeyopSign z d p k s := rfl

theorem exec_fuserd (z : Bool) (d : BitVec 7) (r : BitVec 10) (s : State) : exec (.fuserd z d r) s = execFuserd z d r s := rfl

theorem exec_wipe (z : Bool) (p : BitVec 3) (s : State) : exec (.wipe z p) s = execWipe z p s := rfl

theorem exec_shadow (z : Bool) (x : BitVec 1) (p : BitVec 3) (s : State) : exec (.shadow z x p) s = execShadow z x p s := rfl

theorem exec_measx (z : Bool) (d : BitVec 7) (m : BitVec 4) (s : State) : exec (.measx z d m) s = execMeasx z d m s := rfl

/-- TINFO of a control-mode fault that names a partition and a slot (R335). -/
theorem ctrlTrap_partition (code p slot : Nat) :
    ctrlTrap code 0 p slot 0 = { cause := code, info := BitVec.ofNat 32 (2 ^ 10 * p + 2 ^ 16 * slot) } := by
  simp [ctrlTrap]

/-! ## Keys (R242, R334) -/

section Keyop

variable {P : State → Ctx → Prop} {w : Bool → Instr} {f : State → Except Nat State} {slot p : Nat}
  (hw : ∀ z s, exec (w z) s = keyopWord z f slot p s)
include hw

theorem keyop_falls {eff : State → State} (hf : ∀ s c, P s c → f (begun c (ctrlSig 3 [] c) s) = .ok (eff (begun c (ctrlSig 3 [] c) s))) :
    FallsIf P w (ctrlSig 3 []) (fun _ => 1) fun _ => eff :=
  fallsIf_intro _ _ _ _ _ _ _ hw fun _ s c _ h => by rw [hf s c h]

theorem keyop_traps {code : Nat} (hf : ∀ s c, P s c → f (begun c (ctrlSig 3 [] c) s) = .error code) :
    TrapsIf P w (ctrlSig 3 []) fun _ => { cause := code, info := BitVec.ofNat 32 (2 ^ 10 * p + 2 ^ 16 * slot) } :=
  trapsIf_intro _ _ _ _ _ _ hw fun _ s c _ h => by rw [hf s c h]; exact congrArg _ (ctrlTrap_partition _ _ _)

end Keyop

/-- A key slot holds a key, and is bound to no partition but `p`. -/
def SlotFree (slot p : Nat) (s : State) : Prop :=
  (kgetD {} s.keys slot).key ≠ none ∧ ∀ y, (kgetD {} s.keys slot).bound = some y → y = p

theorem slotTaken_iff (slot p : Nat) (s : State) :
    ((s.key slot).key.isNone || (s.key slot).bound.any fun x => decide (x ≠ p)) = true ↔ ¬ SlotFree slot p s := by
  simp [SlotFree, State.key, Option.any_eq_true, or_iff_not_imp_left]

theorem keyBind_free {slot p : Nat} {s : State} (h : SlotFree slot p s) :
    keyBind slot p s = .ok { s with keys := kput s.keys slot { kgetD {} s.keys slot with bound := some p } } :=
  if_neg fun ht => (slotTaken_iff slot p s).1 ht h

theorem keyBind_taken {slot p : Nat} {s : State} (h : ¬ SlotFree slot p s) : keyBind slot p s = .error 0x45 :=
  if_pos ((slotTaken_iff slot p s).2 h)

theorem keyUnbind_free {slot p : Nat} {s : State} (h : SlotFree slot p s) :
    keyUnbind slot p s = .ok { s with keys := kput s.keys slot { kgetD {} s.keys slot with bound := none } } :=
  if_neg fun ht => (slotTaken_iff slot p s).1 ht h

theorem keyUnbind_taken {slot p : Nat} {s : State} (h : ¬ SlotFree slot p s) : keyUnbind slot p s = .error 0x45 :=
  if_pos ((slotTaken_iff slot p s).2 h)

theorem keyopSignBody_noKey {d : BitVec 7} {slot p : Nat} {c : Ctx} {s : State} (h : s.dev.key = false) :
    keyopSignBody d slot p c s = .trap s (ctrlTrap 0x46 0 p slot 0) := by
  simp [keyopSignBody, h]

theorem keyopSignBody_signs {d : BitVec 7} {slot p : Nat} {c : Ctx} {s : State} (h : s.dev.key = true) :
    keyopSignBody d slot p c s = .fall (writeRegs c (d + 16#7) (fun _ => bytesWords 33 (beBytes 132 (Config.freeBits s.fresh).toNat))
      { s with fresh := s.fresh + 1 }) 1 := by
  simp [keyopSignBody, h, freshSignature]

/-! ## Words that start something and complete when it is done -/

section Until

variable {start : State → Except Nat State} {busy : State → Bool} {cond : Cond} {p n code : Nat} {c : Ctx} {s t : State}

theorem untilDone_done (h : c.p.timeout ≠ none) (hb : busy s = false) : untilDone start busy cond p c s = .fall s 1 := by
  simp [untilDone, Option.isSome_iff_ne_none, h, hb]

theorem untilDone_waits (h : c.p.timeout ≠ none) (hb : busy s = true) :
    untilDone start busy cond p c s = .hold (s.modPart c.key c.q fun y => { y with timeout := c.p.timeout }) (.cond cond) := by
  simp [untilDone, Option.isSome_iff_ne_none, h, hb]

theorem untilDone_refused (h : c.p.timeout = none) (hs : start s = .error code) :
    untilDone start busy cond p c s = .trap s (ctrlTrap code 0 p 0 0) := by
  simp [untilDone, h, hs]

theorem untilDone_atOnce (h : c.p.timeout = none) (hs : start s = .ok t) (hb : busy t = false) :
    untilDone start busy cond p c s = .fall t 1 := by
  simp [untilDone, h, hs, hb]

theorem untilDone_starts (h : c.p.timeout = none) (hs : start s = .ok t) (hb : busy t = true) :
    untilDone start busy cond p c s = .hold (t.modPart c.key c.q fun y => { y with timeout := some t.time }) (.cond cond) := by
  simp [untilDone, h, hs, hb]

/-- The first issue of a word for a partition that is configured. -/
def FirstFor (p : Nat) (P : State → Prop) (s : State) (c : Ctx) : Prop :=
  c.p.timeout = none ∧ (kget s.partitions p).isSome = true ∧ P s

variable {w : Bool → Instr} (hw : ∀ z s, exec (w z) s = issueWord z (ctrlSig n []) idleWord (untilDone start busy cond p) s)
include hw

/-- From its second issue on the word completes when what it has started is done, and waits until then. -/
theorem until_later (hbusy : ∀ c g s, busy (begun c g s) = busy s) (hnone : ∀ s, kget s.partitions p = none → start s = .error 0x4C) :
    TrapsIf (fun s c => c.p.timeout = none ∧ kget s.partitions p = none) w (ctrlSig n [])
      (fun _ => { cause := 0x4C, info := BitVec.ofNat 32 (2 ^ 10 * p + 2 ^ 16 * 0) }) ∧
    FallsIf (fun s c => c.p.timeout ≠ none ∧ busy s = false) w (ctrlSig n []) (fun _ => 1) (fun _ s => s) ∧
    HoldsIf (fun s c => c.p.timeout ≠ none ∧ busy s = true) w (ctrlSig n []) (fun _ _ => .cond cond)
      fun c s => s.modPart c.key c.q fun y => { y with timeout := c.p.timeout } := by
  refine ⟨trapsIf_intro _ _ _ _ _ _ hw fun _ s c _ h => ?none, fallsIf_intro _ _ _ _ _ _ _ hw fun _ s c _ h => ?done,
    holdsIf_intro _ _ _ _ _ _ _ hw fun _ s c _ h => ?waits⟩
  case none => exact (untilDone_refused h.1 (hnone (begun c _ s) h.2)).trans (congrArg _ (ctrlTrap_partition ..))
  case done => exact untilDone_done h.1 ((hbusy c _ s).trans h.2)
  case waits => exact untilDone_waits h.1 ((hbusy c _ s).trans h.2)

theorem until_refused {P : State → Prop} (hs : ∀ s, (kget s.partitions p).isSome = true → P s → start s = .error code)
    (hP : ∀ c g s, P s → P (begun c g s)) :
    TrapsIf (FirstFor p P) w (ctrlSig n []) fun _ => { cause := code, info := BitVec.ofNat 32 (2 ^ 10 * p + 2 ^ 16 * 0) } :=
  trapsIf_intro _ _ _ _ _ _ hw fun _ s c _ h => by
    obtain ⟨hfirst, hpart, hp⟩ := h
    exact (untilDone_refused hfirst (hs (begun c _ s) hpart (hP c _ s hp))).trans (congrArg _ (ctrlTrap_partition ..))

theorem until_atOnce {P : State → Prop} (hs : ∀ s, (kget s.partitions p).isSome = true → P s → start s = .ok s ∧ busy s = false)
    (hP : ∀ c g s, P s → P (begun c g s)) : FallsIf (FirstFor p P) w (ctrlSig n []) (fun _ => 1) fun _ s => s :=
  fallsIf_intro _ _ _ _ _ _ _ hw fun _ s c _ h => by
    obtain ⟨hfirst, hpart, hp⟩ := h
    obtain ⟨hstart, hbusy⟩ := hs (begun c (ctrlSig n [] c) s) hpart (hP c _ s hp)
    exact untilDone_atOnce hfirst hstart hbusy

theorem until_starts {P : State → Prop} {f : State → State}
    (hs : ∀ s, (kget s.partitions p).isSome = true → P s → start s = .ok (f s) ∧ busy (f s) = true ∧ (f s).time = s.time)
    (hP : ∀ c g s, P s → P (begun c g s)) :
    HoldsIf (FirstFor p P) w (ctrlSig n []) (fun _ _ => .cond cond)
      fun c s => (f s).modPart c.key c.q fun y => { y with timeout := some s.time } :=
  holdsIf_intro _ _ _ _ _ _ _ hw fun _ s c _ h => by
    obtain ⟨hfirst, hpart, hp⟩ := h
    obtain ⟨hstart, hbusy, htime⟩ := hs (begun c (ctrlSig n [] c) s) hpart (hP c _ s hp)
    rw [untilDone_starts hfirst hstart hbusy, htime]

end Until

/-! ## Wipes and swaps (R72, R243) -/

section Partition

variable {p : Nat} {s : State}

theorem startWipe_none (h : kget s.partitions p = none) : startWipe p s = .error 0x4C := by
  simp [startWipe, h]

theorem startWipe_busy (h : (kget s.partitions p).isSome = true) (hb : hasWorkgroups s p = true) : startWipe p s = .error 0x48 := by
  simp [startWipe, Option.isNone_eq_false_iff.2 h, hb]

theorem startWipe_idle (h : (kget s.partitions p).isSome = true) (hb : hasWorkgroups s p = false) :
    startWipe p s = .ok (modPartition p (fun y => { y with wiping := true }) s) := by
  simp [startWipe, Option.isNone_eq_false_iff.2 h, hb]

/-- What a change of a partition that is configured leaves of it. -/
theorem kgetD_modPartition (f : Partition → Partition) (h : (kget s.partitions p).isSome = true) :
    kgetD {} (modPartition p f s).partitions p = f (kgetD {} s.partitions p) := by
  obtain ⟨x, hx⟩ := Option.isSome_iff_exists.1 h
  rw [kgetD_of_kget {} hx]
  exact kgetD_kmod_same {} f hx

/-- Another partition is in the shadow slot of one of the partition's cores. -/
def ShadowTaken (p : Nat) (s : State) : Prop :=
  ∃ e ∈ s.partitions, e.1 ≠ p ∧ e.2.swap = 3 ∧ Nat.land e.2.gmask (kgetD {} s.partitions p).gmask ≠ 0

theorem swapping_iff : swapping s p = true ↔ swapStage p s ≠ 0 ∧ swapStage p s ≠ 3 := by
  simp [swapping, swapStage]

theorem startSwap_none (in_ : Bool) (h : kget s.partitions p = none) : startSwap p in_ s = .error 0x4C := by
  simp [startSwap, h]

section Configured

variable (h : (kget s.partitions p).isSome = true)
include h

theorem startSwap_in : startSwap p true s =
    if swapStage p s = 3 then .ok (modPartition p (fun y => { y with swap := 4 }) s) else .error 0x4A := by
  obtain ⟨x, hx⟩ := Option.isSome_iff_exists.1 h
  have hstage : swapStage p s = x.swap := by rw [swapStage, kgetD_of_kget {} hx]
  simp only [startSwap, hx, hstage, if_true]

theorem startSwap_taken (ht : ShadowTaken p s) : startSwap p false s = .error 0x49 := by
  obtain ⟨x, hx⟩ := Option.isSome_iff_exists.1 h
  obtain ⟨e, he, hne, h3, hmask⟩ := ht
  rw [kgetD_of_kget {} hx] at hmask
  have hany : (s.partitions.any fun e => decide (e.1 ≠ p) && decide (e.2.swap = 3) && decide (Nat.land e.2.gmask x.gmask ≠ 0)) = true :=
    List.any_eq_true.2 ⟨e, he, by simp only [hne, h3, hmask, decide_true, Bool.and_self, ne_eq, not_false_eq_true]⟩
  simp only [startSwap, hx, hany, Bool.false_eq_true, if_false, if_true]

theorem startSwap_out (ht : ¬ ShadowTaken p s) : startSwap p false s =
    if swapStage p s ≠ 0 then .ok s
    else if holdsDeadline s p then .ok (modPartition p (fun y => { y with swap := 1 }) s) else .ok (haltPartition p s) := by
  obtain ⟨x, hx⟩ := Option.isSome_iff_exists.1 h
  have hany : (s.partitions.any fun e => decide (e.1 ≠ p) && decide (e.2.swap = 3) && decide (Nat.land e.2.gmask x.gmask ≠ 0)) = false := by
    refine Bool.eq_false_iff.2 fun hall => ht ?_
    obtain ⟨e, he, hc⟩ := List.any_eq_true.1 hall
    simp only [Bool.and_eq_true, decide_eq_true_eq] at hc
    obtain ⟨⟨hne, h3⟩, hmask⟩ := hc
    exact ⟨e, he, hne, h3, by rwa [kgetD_of_kget {} hx]⟩
  have hstage : swapStage p s = x.swap := by rw [swapStage, kgetD_of_kget {} hx]
  simp only [startSwap, hx, hany, hstage, Bool.false_eq_true, if_false]

/-- A partition that a swap has been started for is under way. -/
theorem swapping_stage {n : Nat} (h0 : n ≠ 0) (h3 : n ≠ 3) : swapping (modPartition p (fun y => { y with swap := n }) s) p = true := by
  rw [swapping_iff, swapStage, kgetD_modPartition _ h]
  exact ⟨h0, h3⟩

theorem swapping_halted : swapping (haltPartition p s) p = true := by
  obtain ⟨x, hx⟩ := Option.isSome_iff_exists.1 h
  rw [swapping_iff, haltPartition_stage hx]
  decide

end Configured

/-- Ending a run takes no time. -/
theorem time_closeRun (key : Nat) (w : Wave) (q : Part) (r : Run) (cause : Nat) (s : State) : (closeRun key w q r cause s).time = s.time := by
  unfold closeRun
  dsimp only
  split
  · rfl
  · exact (congrArg State.time (serviceOnly_traceRun s w q r cause s).rest :)

theorem time_endRun (key cause : Nat) (s : State) : (endRun key cause s).time = s.time := by
  unfold endRun
  split
  · split_ifs
    · split
      · exact time_closeRun ..
      · rfl
    · rfl
  · rfl

theorem time_haltPartition (p : Nat) (s : State) : (haltPartition p s).time = s.time :=
  List.foldlRecOn (motive := fun t => t.time = s.time) _ _ rfl fun u hu k _ => (time_endRun k 2 u).trans hu

end Partition

/-! ## Measurements (R474) -/

theorem measxBody_beyond {d : BitVec 7} {m : Nat} {c : Ctx} {s : State} (h : 12 ≤ m) : measxBody d m c s = .trap s (ctrlTrap 0x4B 0 0 0 0) :=
  if_pos h

theorem measxBody_extends {d : BitVec 7} {m : Nat} {c : Ctx} {s : State} (h : m < 12) :
    measxBody d m c s = .fall (extendMeas m (beNat (regBytes c d 16)) s) 1 :=
  if_neg (Nat.not_le.2 h)

end Sys2Proof.Proofs
end

section
/-! The statement on the words of CTRL that act on the device. -/

namespace Sys2Proof.Proofs

open Sys2Proof.Machine Sys2Proof.Laws Sys2Proof.Safety

/-- Settles O33: KEYOP by what its slot holds, WIPE and SHADOW as words that complete when what they started is done. -/
theorem deviceControlWords : Obligations.DeviceControlWords := by
  unfold Obligations.DeviceControlWords
  intro d p k m r x sig trap span ssig slot mine bind first marked starts until_ part elsewhere swaps
  have hwipe : ∀ z s, exec (.wipe z p) s = execWipe z p s := (exec_wipe · p)
  have hshadow : ∀ z s, exec (.shadow z x p) s = execShadow z x p s := (exec_shadow · x p)
  refine ⟨?gen, ⟨?bind, ?bound⟩, ⟨?unbind, ?unbound⟩, ?zero, ?zeroall, ?unsigned, ?sign, ?fuserd, ?wipeLater, ?wipeBusy, ?wipe, ?swapLater,
    ?noShadow, ?swapIn, ?taken, ?shadowed, ?moving, ?deadline, ?halt, ?noMeasure, ?measure⟩
  case gen => exact keyop_falls (exec_keyopGen · d p k) fun _ _ _ => rfl
  case bind => exact keyop_falls (exec_keyopBind · d p k) fun s c h => keyBind_free (s := begun c _ s) h
  case bound => exact keyop_traps (exec_keyopBind · d p k) fun s c h => keyBind_taken (s := begun c _ s) h
  case unbind => exact keyop_falls (exec_keyopUnbind · d p k) fun s c h => keyUnbind_free (s := begun c _ s) h
  case unbound => exact keyop_traps (exec_keyopUnbind · d p k) fun s c h => keyUnbind_taken (s := begun c _ s) h
  case zero => exact keyop_falls (exec_keyopZero · d p k) fun _ _ _ => rfl
  case zeroall => exact keyop_falls (exec_keyopZeroall · d p k) fun _ _ _ => rfl
  case unsigned =>
    exact trapsIf_intro _ _ _ _ _ _ (exec_keyopSign · d p k) fun _ s c _ h =>
      (keyopSignBody_noKey (s := begun c _ s) h).trans (congrArg _ (ctrlTrap_partition ..))
  case sign => exact fallsIf_intro _ _ _ _ _ _ _ (exec_keyopSign · d p k) fun _ s c _ h =>
    keyopSignBody_signs (s := begun c _ s) h
  case fuserd => exact fun z s c h => wrote_intro (exec_fuserd · d r) h rfl
  case wipeLater => exact until_later hwipe (fun _ _ _ => rfl) fun _ => startWipe_none
  case wipeBusy => exact until_refused hwipe (fun _ => startWipe_busy) fun _ _ _ h => h
  case wipe =>
    exact until_starts hwipe (fun s hp h => ⟨startWipe_idle hp h, congrArg Partition.wiping (kgetD_modPartition _ hp), rfl⟩) fun _ _ _ h => h
  case swapLater => exact until_later hshadow (fun _ _ _ => rfl) fun _ => startSwap_none _
  case noShadow =>
    refine until_refused hshadow (fun s hp h => ?_) fun _ _ _ h => h
    obtain ⟨rfl, hstage⟩ := h
    exact (startSwap_in hp).trans (if_neg hstage)
  case swapIn =>
    refine until_starts hshadow (fun s hp h => ?_) fun _ _ _ h => h
    obtain ⟨rfl, hstage⟩ := h
    exact ⟨(startSwap_in hp).trans (if_pos hstage), swapping_stage hp (by decide) (by decide), rfl⟩
  case taken =>
    refine until_refused hshadow (fun s hp h => ?_) fun _ _ _ h => h
    obtain ⟨rfl, htaken⟩ := h
    exact startSwap_taken hp htaken
  case shadowed =>
    refine until_atOnce hshadow (fun s hp h => ?_) fun _ _ _ h => h
    obtain ⟨rfl, hfree, hstage⟩ := h
    exact ⟨(startSwap_out hp hfree).trans (if_pos (by rw [swapStage, hstage]; decide)), Bool.eq_false_iff.2 fun h => (swapping_iff.1 h).2 hstage⟩
  case moving =>
    refine until_starts hshadow (fun s hp h => ?_) fun _ _ _ h => h
    obtain ⟨rfl, hfree, h3, h0⟩ := h
    exact ⟨(startSwap_out hp hfree).trans (if_pos h0), swapping_iff.2 ⟨h0, h3⟩, rfl⟩
  case deadline =>
    refine until_starts hshadow (fun s hp h => ?_) fun _ _ _ h => h
    obtain ⟨rfl, hfree, hstage, hdeadline⟩ := h
    exact ⟨(startSwap_out hp hfree).trans ((if_neg (not_not_intro hstage)).trans (if_pos hdeadline)),
      swapping_stage hp (by decide) (by decide), rfl⟩
  case halt =>
    refine until_starts hshadow (fun s hp h => ?_) fun _ _ _ h => h
    obtain ⟨rfl, hfree, hstage, hdeadline⟩ := h
    exact ⟨(startSwap_out hp hfree).trans ((if_neg (not_not_intro hstage)).trans (if_neg (Bool.eq_false_iff.1 hdeadline))),
      swapping_halted hp, time_haltPartition _ s⟩
  case noMeasure =>
    exact trapsIf_intro _ _ _ _ _ _ (exec_measx · d m) fun _ s c _ h =>
      (measxBody_beyond (s := begun c _ s) h).trans (congrArg _ (ctrlTrap_partition ..))
  case measure => exact fallsIf_intro _ _ _ _ _ _ _ (exec_measx · d m) fun _ s c _ h => measxBody_extends h

end Sys2Proof.Proofs
end

section
/-! CONFIG and PARTCTL packets (R234, R316): when one starts, what it comes to, and when new cache limits are kept. -/

namespace Sys2Proof.Proofs

open Sys2Proof.Machine Sys2Proof.Laws

/-! ## The meanings of the packets -/

theorem exec_configAgemax (q seq : Nat) (s : State) : exec (.configAgemax q seq) s = execConfigAgemax q seq s := rfl

theorem exec_configPredl (q seq : Nat) (s : State) : exec (.configPredl q seq) s = execConfigPredl q seq s := rfl

theorem exec_configLkquota (q seq : Nat) (s : State) : exec (.configLkquota q seq) s = execConfigLkquota q seq s := rfl

theorem exec_configL2Ways (q seq : Nat) (s : State) : exec (.configL2Ways q seq) s = execConfigL2Ways q seq s := rfl

theorem exec_configLlcWays (q seq : Nat) (s : State) : exec (.configLlcWays q seq) s = execConfigLlcWays q seq s := rfl

theorem exec_partctlPreempt (q seq : Nat) (s : State) : exec (.partctlPreempt q seq) s = execPartctlPreempt q seq s := rfl

theorem exec_partctlSwapout (q seq : Nat) (s : State) : exec (.partctlSwapout q seq) s = execPartctlSwapout q seq s := rfl

theorem exec_partctlSwapin (q seq : Nat) (s : State) : exec (.partctlSwapin q seq) s = execPartctlSwapin q seq s := rfl

theorem exec_partctlWipe (q seq : Nat) (s : State) : exec (.partctlWipe q seq) s = execPartctlWipe q seq s := rfl

theorem exec_partctlKeybind (q seq : Nat) (s : State) : exec (.partctlKeybind q seq) s = execPartctlKeybind q seq s := rfl

theorem exec_partctlKeyzero (q seq : Nat) (s : State) : exec (.partctlKeyzero q seq) s = execPartctlKeyzero q seq s := rfl

/-- The state in which a packet that starts takes its effect: it has started, and INV of its buffer list has come first (R317). -/
def packetStarted (q seq : Nat) (p : Packet) (s : State) : State :=
  blBefore (packetParty s q) p.bl (s.modPacket q seq fun p => { p with started := true })

section Start

variable {s : State} {q seq ty : Nat} {waits : Bool} {p : Packet} {f : Packet → State → State} (hp : s.packet q seq = some p)
include hp

theorem startPacket_early (h : mayStart s q seq waits = false) : startPacket q seq ty waits f s = .next s := by
  simp [startPacket, hp, h]

theorem startPacket_starts (hty : p.ty = ty) (h : mayStart s q seq waits = true) :
    startPacket q seq ty waits f s = .next (f p (packetStarted q seq p s)) := by
  simp [startPacket, hp, hty, h, packetStarted]

end Start

/-! ## CONFIG -/

section Config

variable {s t : State} {q seq item : Nat} {p : Packet} {f : Nat → Nat → State → Option State} (hp : s.packet q seq = some p)
  (hty : p.ty = 0x0A) (hi : numAt p.bytes 16 1 = item)
include hp hi

theorem configPacket_early (h : mayStart s q seq true = false) : configPacket item f q seq s = .next s := by
  simp [configPacket, hp, hi, startPacket_early hp h]

include hty

theorem configPacket_accepted (h : mayStart s q seq true = true)
    (hf : f ((packetStarted q seq p s).queue q).part (numAt p.bytes 24 8) (packetStarted q seq p s) = some t) :
    configPacket item f q seq s = .next (donePacket q seq 0x0100 0 t) := by
  simp [configPacket, hp, hi, startPacket_starts hp hty h, hf]

theorem configPacket_refused (h : mayStart s q seq true = true)
    (hf : f ((packetStarted q seq p s).queue q).part (numAt p.bytes 24 8) (packetStarted q seq p s) = none) :
    configPacket item f q seq s = .next (donePacket q seq 0x010D 0 (packetStarted q seq p s)) := by
  simp [configPacket, hp, hi, startPacket_starts hp hty h, hf]

end Config

/-- The limits of a class that a value names are limits (R234). -/
def LimitsOk (v : Nat) : Prop := v / 65536 < 4 ∧ v % 256 ≤ v / 256 % 256 ∧ v / 256 % 256 ≤ 16

/-- A set of limits with those of a class changed as a value says. -/
def newLimits (v : Nat) (own : List (Nat × Nat)) : List (Nat × Nat) := own.set (v / 65536) (v % 256, v / 256 % 256)

theorem wayLimits_kept {v : Nat} {own : List (Nat × Nat)} {sharers : List (Nat × Nat) → List (List (List (Nat × Nat)))} (h : LimitsOk v)
    (hs : ∀ xs ∈ sharers (newLimits v own), minSum xs ≤ 12) : wayLimits v own sharers = some (newLimits v own) := by
  obtain ⟨hc, hle, hmax⟩ := h
  exact if_pos ⟨hc, hle, hmax, List.all_eq_true.2 fun xs hxs => decide_eq_true (hs xs hxs)⟩

theorem wayLimits_broken {v : Nat} {own : List (Nat × Nat)} {sharers : List (Nat × Nat) → List (List (List (Nat × Nat)))}
    (h : ¬ (LimitsOk v ∧ ∀ xs ∈ sharers (newLimits v own), minSum xs ≤ 12)) : wayLimits v own sharers = none := by
  refine if_neg fun hall => h ?_
  obtain ⟨hc, hle, hmax, hs⟩ := hall
  exact ⟨⟨hc, hle, hmax⟩, fun xs hxs => of_decide_eq_true (List.all_eq_true.1 hs xs hxs)⟩

/-- The dies of a partition are of the two. -/
theorem mem_dies_iff (x : Partition) (d : Nat) : d ∈ [0, 1].filter (onDie x) ↔ d < 2 ∧ onDie x d = true := by
  rw [List.mem_filter]
  refine and_congr_left fun _ => ?_
  simp only [List.mem_cons, List.not_mem_nil, or_false]
  omega

/-! ## PARTCTL -/

section Partctl

variable {s t : State} {q seq op code : Nat} {p : Packet} {waits : State → Nat → Bool} {f : Packet → Nat → State → Except Nat State}
  (hp : s.packet q seq = some p) (hty : p.ty = 0x0B) (hi : numAt p.bytes 16 1 = op)
include hp hi

theorem partctl_early (h : mayStart s q seq true = false) : partctl op waits f q seq s = .next s := by
  simp [partctl, hp, hi, startPacket_early hp h]

include hty

theorem partctl_refused (h : mayStart s q seq true = true) (hf : f p (numAt p.bytes 17 1) (packetStarted q seq p s) = .error code) :
    partctl op waits f q seq s = .next (donePacket q seq 0x0108 code (packetStarted q seq p s)) := by
  simp [partctl, hp, hi, startPacket_starts hp hty h, hf]

theorem partctl_done (h : mayStart s q seq true = true) (hf : f p (numAt p.bytes 17 1) (packetStarted q seq p s) = .ok t) :
    partctl op waits f q seq s =
      .next (if waits t (numAt p.bytes 17 1) then t.modPacket q seq fun p => { p with busy := true } else donePacket q seq 0x0100 0 t) := by
  simp [partctl, hp, hi, startPacket_starts hp hty h, hf]

end Partctl

end Sys2Proof.Proofs
end

section
/-! The statement on CONFIG and PARTCTL packets. -/

namespace Sys2Proof.Proofs

open Sys2Proof.Machine Sys2Proof.Laws

/-- Settles O48: a CONFIG packet by whether its value is kept, a PARTCTL packet by what its op answers. -/
theorem configAndPartitionPackets : Obligations.ConfigAndPartitionPackets := by
  unfold Obligations.ConfigAndPartitionPackets
  intro s q seq p hp u num v part may done put config target op moves minw maxw cls fits limits
  have hconfig : ∀ {w item ok f} (g : Nat → Nat → State → Option State), exec w s = configPacket item g q seq s →
      (ok → g part v u = some (put f)) → (¬ ok → g part v u = none) → config w item ok f := by
    intro w item ok f g hw hok hbad hty hi
    rw [hw]
    exact ⟨fun h => configPacket_early hp hi h, fun h hk => configPacket_accepted hp hty hi h (hok hk),
      fun h hk => configPacket_refused hp hty hi h (hbad hk)⟩
  have hop : ∀ {w n r waits} (g : Packet → Nat → State → Except Nat State) (wt : State → Nat → Bool), exec w s = partctl n wt g q seq s →
      g p target u = r → (∀ t, wt t target = waits t) → op w n r waits := by
    intro w n r waits g wt hw hg hwt hty hi
    rw [hw]
    refine ⟨fun h => partctl_early hp hi h, fun h => ?_⟩
    cases r with
    | error code => exact partctl_refused hp hty hi h hg
    | ok t => rw [partctl_done hp hty hi h hg, hwt]
  refine ⟨?agemax, ?predl, ?lkquota, ?l2, ?llc, ?preempt, ?swapout, ?swapin, ?wipe, ?bind, ?zero⟩
  case agemax => exact hconfig _ (exec_configAgemax q seq s) (fun h => if_pos h) fun h => if_neg h
  case predl => exact hconfig _ (exec_configPredl q seq s) (fun h => if_pos h) fun h => if_neg h
  case lkquota => exact hconfig _ (exec_configLkquota q seq s) (fun h => if_pos h) fun h => if_neg h
  case l2 =>
    refine hconfig _ (exec_configL2Ways q seq s) (fun h => ?_) fun h => ?_
    · obtain ⟨hlimits, hfits⟩ := h
      refine congrArg (Option.map _) (wayLimits_kept hlimits fun xs hxs => ?_)
      obtain ⟨d, hd, rfl⟩ := List.mem_map.1 hxs
      obtain ⟨hlt, hon⟩ := (mem_dies_iff _ d).1 hd
      exact hfits d hlt hon
    · refine congrArg (Option.map _) (wayLimits_broken fun hall => h ⟨hall.1, fun d hlt hon => ?_⟩)
      exact hall.2 _ (List.mem_map_of_mem ((mem_dies_iff _ d).2 ⟨hlt, hon⟩))
  case llc =>
    have hall : (u.partitions.filter fun _ => true) = u.partitions := List.filter_true _
    refine hconfig _ (exec_configLlcWays q seq s) (fun h => ?_) fun h => ?_
    · obtain ⟨hlimits, hfits⟩ := h
      refine congrArg (Option.map _) (wayLimits_kept hlimits fun xs hxs => ?_)
      obtain rfl := List.mem_singleton.1 hxs
      dsimp only [fits] at hfits
      rwa [hall] at hfits
    · refine congrArg (Option.map _) (wayLimits_broken fun hkept => h ⟨hkept.1, ?_⟩)
      dsimp only [fits]
      rw [hall]
      exact hkept.2 _ (List.mem_singleton_self _)
  case preempt => exact hop _ _ (exec_partctlPreempt q seq s) rfl fun _ => rfl
  case swapout => exact hop _ _ (exec_partctlSwapout q seq s) rfl fun _ => rfl
  case swapin => exact hop _ _ (exec_partctlSwapin q seq s) rfl fun _ => rfl
  case wipe => exact hop _ _ (exec_partctlWipe q seq s) rfl fun _ => rfl
  case bind => exact hop _ _ (exec_partctlKeybind q seq s) rfl fun _ => rfl
  case zero => exact hop _ _ (exec_partctlKeyzero q seq s) rfl fun _ => rfl

end Sys2Proof.Proofs
end

section
/-! What lands in vector registers (R61, R185): the lanes that it reaches, and the registers that it leaves. -/

namespace Sys2Proof.Proofs

open Sys2Proof.Machine Sys2Proof.Laws Sys2Proof.Safety

/-! ## Values that land -/

/-- No lane but those of a quad has a register changed. -/
def SameBesides (quad : Nat) (w w' : Wave) : Prop := ∀ r l, l < 64 → l / 4 ≠ quad → w'.getV r l = w.getV r l

theorem sameBesides_refl (quad : Nat) (w : Wave) : SameBesides quad w w := fun _ _ _ _ => rfl

theorem sameBesides_trans {quad : Nat} {w w' w'' : Wave} (h1 : SameBesides quad w w') (h2 : SameBesides quad w' w'') :
    SameBesides quad w w'' := fun r l hl hq => (h2 r l hl hq).trans (h1 r l hl hq)

theorem sameBesides_landVals {quad : Nat} (hquad : quad < 16) {vs : List (Nat × Nat × Word)} (h : ∀ v ∈ vs, v.1 / 4 = quad) :
    ∀ w : Wave, SameBesides quad w (landVals w vs) := by
  induction vs with
  | nil => exact sameBesides_refl quad
  | cons v vs ih =>
    intro w r l hl hq
    have hv : v.1 / 4 = quad := h v List.mem_cons_self
    rw [landVals, ih (fun u hu => h u (List.mem_cons_of_mem v hu)) _ r l hl hq, getV_setV _ _ _ _ _ _ (by omega) hl,
      if_neg fun e : r = v.2.1 ∧ l = v.1 => hq (e.2 ▸ hv)]

/-- A register that one value lands in, and no other, holds it. -/
theorem getV_landVals {r l : Nat} {x : Word} (hl : l < 64) {vs : List (Nat × Nat × Word)} (hlanes : ∀ v ∈ vs, v.1 < 64)
    (hone : ∀ y, (l, r, y) ∈ vs → y = x) : ∀ w : Wave, w.getV r l = x ∨ (l, r, x) ∈ vs → (landVals w vs).getV r l = x := by
  induction vs with
  | nil => exact fun w h => h.resolve_right List.not_mem_nil
  | cons v vs ih =>
    obtain ⟨l', r', y⟩ := v
    intro w h
    refine ih (fun u hu => hlanes u (List.mem_cons_of_mem _ hu)) (fun z hz => hone z (List.mem_cons_of_mem _ hz)) _ ?_
    rw [getV_setV _ _ _ _ _ _ (hlanes _ List.mem_cons_self) hl]
    by_cases he : r = r' ∧ l = l'
    · obtain ⟨rfl, rfl⟩ := he
      rw [if_pos ⟨rfl, rfl⟩]
      exact .inl (hone y List.mem_cons_self)
    · rw [if_neg he]
      refine h.imp_right fun hmem => (List.mem_cons.1 hmem).resolve_left fun heq => he ?_
      simp only [Prod.mk.injEq] at heq
      exact ⟨heq.2.1, heq.1⟩

/-! ## Registers of a state -/

theorem vAt_eq_of_waves {s t : State} (h : t.waves = s.waves) (key r l : Nat) : vAt t key r l = vAt s key r l := by
  rw [vAt, vAt, wave_eq s t key h]

theorem vAt_of_wave {s : State} {key : Nat} {w : Wave} (h : s.wave key = some w) (r l : Nat) : vAt s key r l = w.getV r l := by
  rw [vAt, h]
  rfl

theorem vAt_modWave {s : State} {key r l : Nat} {f : Wave → Wave} (h : ∀ w, s.wave key = some w → (f w).getV r l = w.getV r l) :
    vAt (s.modWave key f) key r l = vAt s key r l := by
  unfold vAt
  rw [wave_modWave_same]
  cases hw : s.wave key with
  | none => rfl
  | some w => exact h w hw

theorem vAt_modPart (s : State) (key q : Nat) (f : Part → Part) (r l : Nat) : vAt (s.modPart key q f) key r l = vAt s key r l :=
  vAt_modWave fun _ _ => rfl

/-! ## Special-function results (R185) -/

theorem landSfnLanes_frame (mine : Nat → Bool) (x : Pend) (w : Wave) (p : Part) :
    (landSfnLanes mine x w p).2 = { p with w := (landSfnLanes mine x w p).2.w, pend := (landSfnLanes mine x w p).2.pend } := by
  unfold landSfnLanes
  dsimp only
  rw [landUvals_frame]

theorem landSfnLanes_q (mine : Nat → Bool) (x : Pend) (w : Wave) (p : Part) : (landSfnLanes mine x w p).2.q = p.q := by
  rw [landSfnLanes_frame]

/-- No result of a quad is pending under the identity any more, nor is its entry. -/
def QuadLanded (id quad : Nat) (p : Part) : Prop := ∀ y ∈ p.pend, y.id = id → quad ∉ y.quads ∧ ∀ l ∈ y.lanes, l / 4 ≠ quad

theorem quadLanded_landSfnLanes (quad : Nat) (x : Pend) (w : Wave) (p : Part) :
    QuadLanded x.id quad (landSfnLanes (fun l => decide (l / 4 = quad)) x w p).2 := by
  intro y hy hid
  unfold landSfnLanes at hy
  dsimp only at hy
  rw [landUvals_frame] at hy
  obtain ⟨z, -, rfl⟩ := List.mem_map.1 (List.mem_filter.1 hy).1
  have hz : z.id = x.id := by
    by_contra hne
    rw [if_neg hne] at hid
    exact hne hid
  rw [if_pos hz]
  refine ⟨fun hq => ?_, fun l hl => ?_⟩
  · simp at hq
  · simpa using (List.mem_filter.1 hl).2

theorem landSfnParts_here {id q : Nat} {mine : Nat → Bool} {w : Wave} {p : Part} {x : Pend} (qs : List Nat)
    (hp : partAt w.parts q = some p) (hx : sfnOf p id = some x) : landSfnParts id mine w (q :: qs) =
      landSfnParts id mine { (landSfnLanes mine x w p).1 with
        parts := partMod (fun _ => (landSfnLanes mine x w p).2) (landSfnLanes mine x w p).1.parts q } qs := by
  rw [landSfnParts, hp]
  simp only [hx]

theorem landSfnParts_elsewhere {id q : Nat} {mine : Nat → Bool} {w : Wave} (qs : List Nat)
    (h : ∀ p, partAt w.parts q = some p → sfnOf p id = none) : landSfnParts id mine w (q :: qs) = landSfnParts id mine w qs := by
  rw [landSfnParts]
  split
  · rfl
  · rename_i p hp
    rw [h p hp]

theorem sameBesides_landSfnParts {quad : Nat} (hquad : quad < 16) (id : Nat) (qs : List Nat) : ∀ w : Wave,
    SameBesides quad w (landSfnParts id (fun l => decide (l / 4 = quad)) w qs) := by
  induction qs with
  | nil => exact sameBesides_refl quad
  | cons q qs ih =>
    intro w
    by_cases h : ∃ p, partAt w.parts q = some p ∧ ∃ x, sfnOf p id = some x
    · obtain ⟨p, hp, x, hx⟩ := h
      rw [landSfnParts_here qs hp hx]
      refine sameBesides_trans (sameBesides_landVals hquad (fun v hv => ?_) w) (ih _)
      exact of_decide_eq_true (Bool.and_eq_true_iff.1 (List.mem_filter.1 hv).2).1
    · rw [landSfnParts_elsewhere qs fun p hp => Option.eq_none_iff_forall_ne_some.2 fun x hx => h ⟨p, hp, x, hx⟩]
      exact ih w

/-- What SFN_RESULT leaves of a wave that is one part, where the part holds the writeback. -/
theorem landSfnParts_single {id : Nat} {mine : Nat → Bool} {w : Wave} {p : Part} {x : Pend} (hp : w.parts = [p]) (hx : sfnOf p id = some x) :
    landSfnParts id mine w (w.parts.map (·.q)) = { (landSfnLanes mine x w p).1 with parts := [(landSfnLanes mine x w p).2] } := by
  rw [hp, List.map_singleton, landSfnParts_here [] (by simp [hp, partAt]) hx, landSfnParts]
  simp [landSfnLanes, landVals_parts, hp, partMod]

theorem sfnOf_id {p : Part} {id : Nat} {x : Pend} (h : sfnOf p id = some x) : x.id = id := by
  have := List.find?_some h
  simp only [Bool.and_eq_true, decide_eq_true_eq] at this
  exact this.1

theorem part_single {s : State} {key : Nat} {w : Wave} {p : Part} (hw : s.wave key = some w) (hp : w.parts = [p]) :
    s.part key p.q = some p := by
  rw [part_of_wave hw, hp]
  exact if_pos rfl

end Sys2Proof.Proofs
end

section
/-! Loads that land (R61, R278): the lanes asleep at a cell take their values first, which changes no register. -/

namespace Sys2Proof.Proofs

open Sys2Proof.Machine Sys2Proof.Laws Sys2Proof.Safety

/-! ## Atomic steps -/

theorem waves_foldl {α : Type} {f : State → α → State} (hf : ∀ s x, (f s x).waves = s.waves) (xs : List α) (s : State) :
    (xs.foldl f s).waves = s.waves :=
  List.foldlRecOn (motive := fun t => t.waves = s.waves) xs f rfl fun u hu x _ => (hf u x).trans hu

theorem waves_performStores (s : State) (sel : Store → Bool) (scope : Nat) : (performStores s sel scope).waves = s.waves :=
  (memoryOnly_performStores s sel scope).service.waves

theorem waves_physWriteAt (s : State) (core scope : Nat) (m : Mem) (tag a : Nat) (bs : List Byte) :
    (physWriteAt s core scope m tag a bs).waves = s.waves := by
  have hdrop : (if s.stale.isEmpty then s else dropStale (readsThrough s core) m a bs.length s).waves = s.waves := by
    split <;> rfl
  unfold physWriteAt
  dsimp only
  split_ifs
  · exact (memoryOnly_baseWrite s _ _ _ _).service.waves
  · exact (memoryOnly_physWrite s _ _ _ _).service.waves
  · exact (memoryOnly_physWrite _ _ _ _ _).service.waves
  · rfl
  · rfl

theorem waves_syncPiece (core scope : Nat) (s : State) (x : Nat × Nat × Place) : (syncPiece core scope s x).waves = s.waves := by
  obtain ⟨off, n, pl⟩ := x
  cases pl with
  | empty => rfl
  | byte m a tag repl =>
    refine (waves_performStores _ _ _).trans ?_
    split <;> rfl

theorem waves_writePieceAt (core scope : Nat) (bs : List Byte) (s : State) (x : Nat × Nat × Place) :
    (writePieceAt core scope bs s x).waves = s.waves := by
  obtain ⟨off, n, pl⟩ := x
  cases pl with
  | empty => rfl
  | byte m a tag repl => exact waves_physWriteAt ..

theorem waves_atomStep (core scope : Nat) (ps : Places) (f : List Byte → Option (List Byte)) (s : State) :
    (atomStep core scope ps f s).1.waves = s.waves := by
  have hsync := waves_foldl (waves_syncPiece core (pieceScope scope ps)) ps s
  unfold atomStep
  dsimp only
  split
  · exact (waves_foldl (waves_writePieceAt core _ _) ps _).trans hsync
  · exact hsync

/-! ## Sleeping lanes (R278) -/

theorem waves_takeFor (core : Nat) (x : Sleeper) (s : State) : (takeFor core x s).1.waves = s.waves := by
  unfold takeFor takeTicket takeCell
  split
  · exact waves_atomStep ..
  · dsimp only
    split
    · exact waves_atomStep ..
    · exact waves_atomStep ..

theorem waves_wakeSleepers (core quad : Nat) (xs : List Sleeper) : ∀ s : State, (wakeSleepers core quad s xs).1.waves = s.waves := by
  induction xs with
  | nil => exact fun _ => rfl
  | cons x xs ih =>
    intro s
    have htake := waves_takeFor core x s
    unfold wakeSleepers
    split
    · rfl
    · split
      · exact ih s
      · generalize takeFor core x s = r at htake
        obtain ⟨u, _ | ws⟩ := r
        · dsimp only
          split
          · exact htake
          · exact (ih u).trans htake
        · exact (ih u).trans htake

theorem vAt_wakePend (key q id quad : Nat) (s : State) (r l : Nat) : vAt (wakePend key q id quad s) key r l = vAt s key r l := by
  unfold wakePend
  split
  · rfl
  · dsimp only
    split
    · rfl
    · exact (vAt_modPart ..).trans (vAt_eq_of_waves (waves_wakeSleepers ..) key r l)

/-- Where no lane sleeps there is nothing to take. -/
theorem wakePend_awake {s : State} {key q id quad : Nat} {p : Part} (hp : s.part key q = some p) (h : ∀ y ∈ p.pend, y.sleepers = []) :
    wakePend key q id quad s = s := by
  unfold wakePend
  rw [hp, Option.bind_some]
  split
  · rfl
  · rename_i x hx
    rw [h x (List.mem_of_find?_eq_some hx)]
    rfl

/-! ## A quad lands (R61) -/

theorem sameBesides_landQuad {quad : Nat} (hquad : quad < 16) (id : Nat) (w : Wave) (q : Nat) : SameBesides quad w (landQuad id quad w q) := by
  unfold landQuad
  split
  · exact sameBesides_refl quad w
  · split
    · exact sameBesides_refl quad w
    · exact sameBesides_landVals hquad (fun v hv => of_decide_eq_true (List.mem_filter.1 hv).2) w

/-- What is left of a writeback when a quad of it has landed. -/
def landedRest (quad : Nat) (x : Pend) : Pend :=
  { x with
    vals := x.vals.filter fun v => !decide (v.1 / 4 = quad), uvals := if decide (x.ulane / 4 = quad) then [] else x.uvals,
    reads := x.reads.filter fun r => decide (r.lane / 4 ≠ quad) }

/-- The part in which a quad of a writeback has landed. -/
def quadPart (id quad : Nat) (x : Pend) (p : Part) : Part :=
  let uvals := if decide (x.ulane / 4 = quad) then x.uvals else []
  overwrite id (x.vals.filter fun v => decide (v.1 / 4 = quad)) uvals
    (settleReads id (x.reads.filter fun r => decide (r.lane / 4 = quad))
      { landUvals x.bq x.bn p uvals with
        pend := (p.pend.map fun y => if y.id = id then landedRest quad x else y).filter fun y => !(decide (y.id = id) && y.empty) })

theorem quadPart_q (id quad : Nat) (x : Pend) (p : Part) : (quadPart id quad x p).q = p.q := by
  unfold quadPart
  dsimp only
  rw [landUvals_frame]
  rfl

/-- A writeback that may land does so in the wave and in its part. -/
theorem landQuad_lands {id quad : Nat} {w : Wave} {p : Part} {x : Pend} (hp : partAt w.parts p.q = some p)
    (hx : p.pend.find? (fun y => decide (y.id = id) && mayLand quad y) = some x) : landQuad id quad w p.q =
      { landVals w (x.vals.filter fun v => decide (v.1 / 4 = quad)) with parts := partMod (fun _ => quadPart id quad x p) w.parts p.q } := by
  unfold landQuad
  simp only [hp, hx]
  rfl

theorem landing_mayLand {id quad : Nat} {xs : List Pend} {x : Pend}
    (h : xs.find? (fun y => decide (y.id = id) && mayLand quad y) = some x) : x.id = id ∧ mayLand quad x = true := by
  have := List.find?_some h
  simpa only [Bool.and_eq_true, decide_eq_true_eq] using this

theorem landQuad_keeps {id quad : Nat} {w : Wave} {p : Part} (hp : partAt w.parts p.q = some p)
    (h : ∀ y ∈ p.pend, y.id = id → mayLand quad y = false) : landQuad id quad w p.q = w := by
  have hnone : p.pend.find? (fun y => decide (y.id = id) && mayLand quad y) = none := by
    refine List.find?_eq_none.2 fun y hy hc => ?_
    simp only [Bool.and_eq_true, decide_eq_true_eq] at hc
    simp [h y hy hc.1] at hc
  unfold landQuad
  simp only [hp, hnone]

/-- A value that lands takes from later writebacks only. -/
theorem mem_pend_overwrite {id : Nat} {vals : List (Nat × Nat × Word)} {uvals : List (Nat × Word)} {p : Part} {y : Pend}
    (hy : y ∈ (overwrite id vals uvals p).pend) (hid : y.id = id) : y ∈ p.pend := by
  unfold overwrite at hy
  obtain ⟨z, hz, rfl⟩ := List.mem_map.1 (List.mem_filter.1 hy).1
  split at hid
  · rename_i hc
    simp only [Bool.and_eq_true, decide_eq_true_eq] at hc
    exact absurd hid (Nat.ne_of_gt hc.2)
  · rename_i hc
    rwa [if_neg hc]

theorem mem_pend_settleReads {id : Nat} {rs : List Read} {p : Part} {y : Pend} (hy : y ∈ (settleReads id rs p).pend) (hid : y.id = id) :
    y ∈ p.pend := by
  unfold settleReads at hy
  obtain ⟨z, hz, rfl⟩ := List.mem_map.1 hy
  split at hid
  · rename_i hc
    exact absurd hid (Nat.ne_of_lt hc)
  · rename_i hc
    rwa [if_neg hc]

/-- No value of the quad is pending under the identity any more. -/
theorem quadPart_vals (id quad : Nat) (x : Pend) (p : Part) :
    ∀ y ∈ (quadPart id quad x p).pend, y.id = id → ∀ v ∈ y.vals, v.1 / 4 ≠ quad := by
  intro y hy hid v hv
  have hmem := mem_pend_settleReads (mem_pend_overwrite hy hid) hid
  obtain ⟨z, -, rfl⟩ := List.mem_map.1 (List.mem_filter.1 hmem).1
  have hz : z.id = id := by
    by_contra hne
    rw [if_neg hne] at hid
    exact hne hid
  rw [if_pos hz] at hv
  simpa using (List.mem_filter.1 hv).2

/-- The state in which the sleeping lanes of a quad have taken their values, where they may (R278). -/
def sleepersTaken (key id quad : Nat) (w : Wave) (s : State) : State :=
  w.parts.foldl (fun t p => if decide ((kgetD {} s.partitions w.partition).swap < 2) && !p.halted then wakePend key p.q id quad t else t) s

section Land

variable {s : State} {key id quad : Nat} {w : Wave}

theorem vAt_sleepersTaken (r l : Nat) : vAt (sleepersTaken key id quad w s) key r l = vAt s key r l := by
  refine List.foldlRecOn (motive := fun t => vAt t key r l = vAt s key r l) _ _ rfl fun u hu p _ => ?_
  split
  · exact (vAt_wakePend key p.q id quad u r l).trans hu
  · exact hu

/-- Where no lane sleeps nothing is taken. -/
theorem sleepersTaken_awake {p : Part} (hw : s.wave key = some w) (hp : w.parts = [p]) (h : ∀ y ∈ p.pend, y.sleepers = []) :
    sleepersTaken key id quad w s = s := by
  rw [sleepersTaken, hp, List.foldl_cons, List.foldl_nil, wakePend_awake (part_single hw hp) h, ite_self]

/-- Nothing lands in a shadow slot (R278). -/
theorem landLoad_shadow (hw : s.wave key = some w) (h : (kgetD {} s.partitions w.partition).swap = 3) : landLoad key id quad s = s := by
  have hget : kget s.waves key = some w := hw
  simp only [landLoad, hget, h, if_true]
  refine List.foldlRecOn (motive := fun t => t = s) _ _ rfl fun u hu p _ => ?_
  simpa using hu

theorem landLoad_live (hw : s.wave key = some w) (h : (kgetD {} s.partitions w.partition).swap ≠ 3) : landLoad key id quad s =
    (sleepersTaken key id quad w s).modWave key fun w => w.parts.foldl (fun w p => landQuad id quad w p.q) w := by
  have hget : kget s.waves key = some w := hw
  simp only [landLoad, hget]
  exact if_neg h

theorem sameBesides_landQuads (hquad : quad < 16) (id : Nat) (ps : List Part) (w : Wave) :
    SameBesides quad w (ps.foldl (fun w p => landQuad id quad w p.q) w) :=
  List.foldlRecOn ps _ (sameBesides_refl quad w) fun u hu p _ => sameBesides_trans hu (sameBesides_landQuad hquad id u p.q)

theorem vAt_landLoad (hquad : quad < 16) (s : State) {r l : Nat} (hl : l < 64) (hq : l / 4 ≠ quad) :
    vAt (landLoad key id quad s) key r l = vAt s key r l := by
  cases hw : s.wave key with
  | none =>
    have hget : kget s.waves key = none := hw
    simp only [landLoad, hget]
  | some w =>
    by_cases h : (kgetD {} s.partitions w.partition).swap = 3
    · rw [landLoad_shadow hw h]
    · rw [landLoad_live hw h, vAt_modWave fun u _ => sameBesides_landQuads hquad id u.parts u r l hl hq, vAt_sleepersTaken]

/-- What LOAD_WRITEBACK does with a wave that is one part in which no lane sleeps. -/
theorem landLoad_single {p : Part} (hw : s.wave key = some w) (hp : w.parts = [p]) (h : ∀ y ∈ p.pend, y.sleepers = [])
    (hs : (kgetD {} s.partitions w.partition).swap ≠ 3) : landLoad key id quad s = s.modWave key fun _ => landQuad id quad w p.q := by
  rw [landLoad_live hw hs, sleepersTaken_awake hw hp h]
  refine modWave_congr hw ?_
  rw [hp]
  rfl

end Land

/-! ## Matrix operations (R190, R198) -/

/-- A wave in which the oldest operation of tile `i` has taken its effect, and nothing waits for it. -/
def tileDone (i : Nat) (o : TileOp) (os : List TileOp) (w : Wave) : Wave :=
  { w with
    tiles := w.tiles.set i (finishOp o os (w.tile i)),
    parts := w.parts.map fun p => { p with pend := p.pend.map fun x => { x with after := x.after.filter (· ≠ o.id) } } }

theorem tile_tileDone_same {i : Nat} {o : TileOp} {os : List TileOp} {w : Wave} (h : i < w.tiles.length) :
    (tileDone i o os w).tile i = finishOp o os (w.tile i) := by
  simp [tileDone, Wave.tile, h]

theorem tile_tileDone_other {i j : Nat} {o : TileOp} {os : List TileOp} {w : Wave} (h : j ≠ i) : (tileDone i o os w).tile j = w.tile j := by
  simp [tileDone, Wave.tile, List.getD_eq_getElem?_getD, h.symm]

section Tile

variable {s : State} {key i : Nat} {w : Wave} (hw : s.wave key = some w)
include hw

theorem completeTile_none (h : (w.tile i).ops = []) : completeTile key i s = s := by
  have hget : kget s.waves key = some w := hw
  simp only [completeTile, hget, h]

theorem completeTile_oldest {o : TileOp} {os : List TileOp} (h : (w.tile i).ops = o :: os) :
    (completeTile key i s).wave key = some (tileDone i o os w) ∧ (∀ k, k ≠ key → (completeTile key i s).wave k = s.wave k) ∧
      completeTile key i s = { s with waves := (completeTile key i s).waves } := by
  have hget : kget s.waves key = some w := hw
  simp only [completeTile, hget, h, modTile]
  refine ⟨?_, fun k hk => ?_, rfl⟩
  · rw [wave_modWave_same, wave_modWave_same, hw]
    rfl
  · rw [wave_modWave_other _ _ _ _ hk, wave_modWave_other _ _ _ _ hk]

end Tile

end Sys2Proof.Proofs
end

section
/-! The statement on results that land. -/

namespace Sys2Proof.Proofs

open Sys2Proof.Machine Sys2Proof.Laws Sys2Proof.Safety

theorem exec_sfnResult (key id quad : Nat) (s : State) :
    exec (.sfnResult key id quad) s = .next (sfnLand key id (fun l => decide (l / 4 = quad)) s) := rfl

theorem exec_loadWriteback (key id quad : Nat) (s : State) : exec (.loadWriteback key id quad) s = .next (landLoad key id quad s) := rfl

theorem exec_matrixComplete (key i : Nat) (s : State) : exec (.matrixComplete key i) s = .next (completeTile key i s) := rfl

/-- Settles O38: what lands is written by `landVals`, lane by lane, and the writeback keeps what is left of it. -/
theorem writebackEvents : Obligations.WritebackEvents := by
  unfold Obligations.WritebackEvents
  refine ⟨?sfn, ?shadow, ?load, ?matrix, ?idle⟩
  case sfn =>
    intro s key id quad hquad
    refine ⟨_, exec_sfnResult key id quad s, rfl, fun k hk => wave_modWave_other _ _ _ _ hk,
      fun r l hl hq => vAt_modWave fun w _ => sameBesides_landSfnParts hquad id _ w r l hl hq, fun w p x hw hp hx => ?_⟩
    have hland : (sfnLand key id (fun l => decide (l / 4 = quad)) s).wave key = some
        { (landSfnLanes (fun l => decide (l / 4 = quad)) x w p).1 with parts := [(landSfnLanes (fun l => decide (l / 4 = quad)) x w p).2] } := by
      rw [sfnLand, wave_modWave_same, hw, Option.map_some, landSfnParts_single hp hx]
    refine ⟨fun l r v hv hlane hq hone => ?value, _, ?part, sfnOf_id hx ▸ quadLanded_landSfnLanes quad x w p⟩
    case value =>
      rw [vAt_of_wave hland]
      refine getV_landVals (by omega) (fun u hu => ?_) (fun y hy => hone y (List.mem_filter.1 hy).1) w
        (.inr (List.mem_filter.2 ⟨hv, by simp [hq, hlane]⟩))
      have := of_decide_eq_true (Bool.and_eq_true_iff.1 (List.mem_filter.1 hu).2).1
      omega
    case part => exact landSfnLanes_q (fun l => decide (l / 4 = quad)) x w p ▸ part_single hland rfl
  case shadow =>
    intro s key id quad w hw h
    rw [exec_loadWriteback, landLoad_shadow hw h]
  case load =>
    intro s key id quad hquad
    refine ⟨_, exec_loadWriteback key id quad s, fun r l hl hq => vAt_landLoad hquad s hl hq, fun w p hw hp hawake hswap => ?_⟩
    have hpart : partAt w.parts p.q = some p := by rw [hp]; exact if_pos rfl
    rw [landLoad_single hw hp hawake hswap]
    refine ⟨rfl, fun k hk => wave_modWave_other _ _ _ _ hk, fun hnone => ?early, fun x hx => ?lands⟩
    case early =>
      rw [landQuad_keeps hpart hnone]
      exact (modWave_congr (g := fun v => v) hw rfl).trans (modWave_id s key)
    case lands =>
      have hid : x.id = id := (landing_mayLand hx).1
      have hland : (s.modWave key fun _ => landQuad id quad w p.q).wave key = some
          { landVals w (x.vals.filter fun v => decide (v.1 / 4 = quad)) with parts := [quadPart id quad x p] } := by
        rw [wave_modWave_same, hw, Option.map_some, landQuad_lands hpart hx, hp, partMod, if_pos rfl]
      refine ⟨fun l r v hv hq hone => ?_, _,
        (congrArg (State.part _ key) (quadPart_q id quad x p).symm).trans (part_single hland rfl), quadPart_vals id quad x p⟩
      rw [vAt_of_wave hland]
      refine getV_landVals (by omega) (fun u hu => ?_) (fun y hy => hone y (List.mem_filter.1 hy).1) w
        (.inr (List.mem_filter.2 ⟨hv, decide_eq_true hq⟩))
      have := of_decide_eq_true (List.mem_filter.1 hu).2
      omega
  case matrix =>
    intro s key i w o os hw hi h
    obtain ⟨hwave, hothers, hrest⟩ := completeTile_oldest hw h
    exact ⟨_, _, exec_matrixComplete key i s, hrest, hwave, hothers, rfl, tile_tileDone_same hi, fun j hj => tile_tileDone_other hj, rfl⟩
  case idle =>
    intro s key i w hw h
    rw [exec_matrixComplete, completeTile_none hw h]

end Sys2Proof.Proofs
end

section
/-! Placement (R50, R52, R98, R229, R69, R70): what the steps of a placement leave alone, and the waves that stand in their slots. -/

namespace Sys2Proof.Proofs

open Sys2Proof.Machine Sys2Proof.Laws

/-! ## The dispatcher's pointer (R50, R51) -/

/-- Moving the pointer changes partitions and cores alone. -/
theorem movePtr_kept (p next : Nat) (s : State) :
    movePtr p next s = { s with partitions := (movePtr p next s).partitions, cores := (movePtr p next s).cores } := by
  have hcores : ∀ (f : Core → Core) (cs : List Nat), cs.foldl (fun s c => s.modCore c f) s =
      { s with cores := (cs.foldl (fun s c => s.modCore c f) s).cores } := fun f cs =>
    List.foldlRecOn (motive := fun (t : State) => t = { s with cores := t.cores }) cs _ rfl fun u hu c _ => by
      rw [hu]
      rfl
  unfold movePtr
  dsimp only
  split
  · rfl
  · rw [hcores]
    rfl

/-! ## The allocation and the cluster of the core (R229, R232) -/

/-- The state in which a core holds the scratchpad allocation of a workgroup, and what its caches held is old. -/
def coreTaken (g : Grid) (core base size : Nat) (bytes : Memory) (s : State) : State :=
  physAcquire (fuseCluster g core (fillSpad core base size bytes s)) core 5

theorem coreTaken_kept (g : Grid) (core base size : Nat) (bytes : Memory) (s : State) : coreTaken g core base size bytes s =
    { fillSpad core base size bytes s with
      fused := (coreTaken g core base size bytes s).fused, stale := (coreTaken g core base size bytes s).stale } := by
  unfold coreTaken fuseCluster
  split <;> rfl

/-- A new allocation reads zero. -/
theorem spad_coreTaken_zero (g : Grid) {core base size i : Nat} (s : State) (h : i < size) :
    (coreTaken g core base size [] s).spad.read (core * 2 ^ 19 + base + i) = 0#8 := by
  rw [coreTaken_kept]
  exact read_clear (by omega) (by omega)

/-! ## The counters of a MEASURE pass (R453) -/

theorem sessionCore_kept (core gid : Nat) (g : Grid) (s : State) :
    sessionCore core gid g s = { s with grids := (sessionCore core gid g s).grids, cores := (sessionCore core gid g s).cores } := by
  unfold sessionCore
  split
  · rfl
  · split <;> rfl

/-- Of its grid only the session changes. -/
theorem sessionCore_grid (core : Nat) {gid : Nat} {g : Grid} {s : State} (h : kget s.grids gid = some g) :
    ∃ x, kget (sessionCore core gid g s).grids gid = some { g with session := x } := by
  unfold sessionCore
  split
  · exact ⟨g.session, h⟩
  · split
    · exact ⟨g.session, h⟩
    · rename_i x _ _
      refine ⟨some { x with cores := x.cores ++ [core] }, ?_⟩
      rw [modCore_grids, kget_modGrid, h]
      rfl

/-! ## Waves put one after another -/

section Put

variable {α : Type} {F : List α → Nat → State → State} {key : α → Nat} {W : α → Nat → State → Wave} (hnil : ∀ n s, F [] n s = s)
  (hcons : ∀ x xs n s, F (x :: xs) n s = F xs (n + 1) { s with fresh := s.fresh + 1, waves := kput s.waves (key x) (W x n s) })
include hnil hcons

theorem putWaves_kept (xs : List α) : ∀ n s, F xs n s = { s with fresh := (F xs n s).fresh, waves := (F xs n s).waves } := by
  induction xs with
  | nil =>
    intro n s
    rw [hnil]
  | cons x xs ih =>
    intro n s
    rw [hcons]
    exact ih _ _

theorem putWaves_other {k : Nat} {xs : List α} (h : k ∉ xs.map key) : ∀ n s, (F xs n s).wave k = s.wave k := by
  induction xs with
  | nil =>
    intro n s
    rw [hnil]
  | cons x xs ih =>
    intro n s
    obtain ⟨hne, hrest⟩ := not_or.1 (mt List.mem_cons.2 h)
    rw [hcons, ih hrest]
    exact kget_kput_other _ _ _ _ hne

/-- Waves with keys of their own stand under them. -/
theorem putWaves_at {i : Nat} {x : α} {xs : List α} (hn : (xs.map key).Nodup) (hx : xs[i]? = some x) :
    ∀ n s, ∃ u, (F xs n s).wave (key x) = some (W x (n + i) u) := by
  induction xs generalizing i with
  | nil => cases hx
  | cons y ys ih =>
    intro n s
    obtain ⟨hy, hrest⟩ := List.nodup_cons.1 hn
    rw [hcons]
    cases i with
    | zero =>
      obtain rfl := Option.some.inj hx
      refine ⟨s, ?_⟩
      rw [putWaves_other hnil hcons hy]
      exact kget_kput_same _ _ _
    | succ i =>
      obtain ⟨u, hu⟩ := ih hrest hx (n + 1) { s with fresh := s.fresh + 1, waves := kput s.waves (key y) (W y n s) }
      exact ⟨u, by rw [hu, Nat.add_right_comm, Nat.add_assoc]⟩

end Put

theorem zip_fst_sublist {α β : Type} (xs : List α) : ∀ ys : List β, ((xs.zip ys).map (·.1)).Sublist xs := by
  induction xs with
  | nil => exact fun _ => List.Sublist.refl _
  | cons x xs ih =>
    intro ys
    cases ys with
    | nil => exact List.nil_sublist _
    | cons y ys => exact (ih ys).cons_cons x

/-- Waves in slots of their own have keys of their own. -/
theorem slotKeys_nodup (core : Nat) {slots xs : List (Nat × Nat)} (hs : xs.Sublist slots) (h : (slots.map (·.1)).Nodup) :
    (xs.map fun x => core * 64 + x.1).Nodup := by
  have hmap : (xs.map fun x => core * 64 + x.1) = (xs.map (·.1)).map (core * 64 + ·) := by rw [List.map_map]; rfl
  rw [hmap]
  exact (h.sublist (hs.map _)) |>.map fun _ _ h => Nat.add_left_cancel h

/-! ## A new workgroup (R52, R98) -/

section New

variable (core wg gid : Nat) (g : Grid) (lin unit vb : Nat)

theorem newWaves_kept (xs : List ((Nat × Nat) × Nat)) (n : Nat) (s : State) : newWaves core wg gid g lin unit vb xs n s =
    { s with fresh := (newWaves core wg gid g lin unit vb xs n s).fresh, waves := (newWaves core wg gid g lin unit vb xs n s).waves } :=
  putWaves_kept (F := newWaves core wg gid g lin unit vb) (key := fun x => core * 64 + x.1.1)
    (W := fun x n s => newWave s (core * 64 + x.1.1) wg gid g lin unit n x.1.2 x.2 vb) (fun _ _ => rfl) (fun _ _ _ _ => rfl) xs n s

theorem newWaves_at {slots : List (Nat × Nat)} {bases : List Nat} (hn : (slots.map (·.1)).Nodup) {i slot grant base : Nat}
    (hs : slots[i]? = some (slot, grant)) (hb : bases[i]? = some base) (s : State) :
    ∃ u, (newWaves core wg gid g lin unit vb (slots.zip bases) 0 s).wave (core * 64 + slot) =
      some (newWave u (core * 64 + slot) wg gid g lin unit i grant base vb) := by
  have hkeys := slotKeys_nodup core (zip_fst_sublist slots bases) hn
  rw [List.map_map] at hkeys
  obtain ⟨u, hu⟩ := putWaves_at (F := newWaves core wg gid g lin unit vb) (key := fun x => core * 64 + x.1.1)
    (W := fun x n s => newWave s (core * 64 + x.1.1) wg gid g lin unit n x.1.2 x.2 vb) (fun _ _ => rfl) (fun _ _ _ _ => rfl) hkeys
    (List.getElem?_zip_eq_some (z := ((slot, grant), base)).2 ⟨hs, hb⟩) 0 s
  exact ⟨u, by rw [hu, Nat.zero_add]⟩

end New

/-- The record of a new workgroup on a chosen core. -/
def freshWg (gid : Nat) (g : Grid) (c : Choice) : Wg :=
  { grid := gid, lin := g.placed, x := (wgCoords g g.placed).1, y := (wgCoords g g.placed).2.1, z := (wgCoords g g.placed).2.2,
    core := c.core, waves := c.room.slots.map fun x => c.core * 64 + x.1, spadBase := c.room.spad, spadSize := g.launch.scratch }

/-- The state in which a new workgroup has its record, before its waves stand in their slots. -/
def freshState (gid : Nat) (g : Grid) (c : Choice) (s : State) : State :=
  let u := coreTaken g c.core c.room.spad g.launch.scratch [] s
  { u with nextId := u.nextId + 1, wgs := kput u.wgs s.nextId (freshWg gid g c) }.modGrid gid fun g => { g with placed := g.placed + 1 }

theorem freshState_kept (gid : Nat) (g : Grid) (c : Choice) (s : State) :
    (freshState gid g c s).wgs = kput s.wgs s.nextId (freshWg gid g c) ∧
      (freshState gid g c s).grids = kmod (fun g => { g with placed := g.placed + 1 }) s.grids gid ∧
      (freshState gid g c s).spad = (coreTaken g c.core c.room.spad g.launch.scratch [] s).spad := by
  unfold freshState
  rw [coreTaken_kept]
  exact ⟨rfl, rfl, rfl⟩

/-- The waves of a new workgroup. -/
def freshWaves (gid : Nat) (g : Grid) (c : Choice) (s : State) : State :=
  newWaves c.core s.nextId gid g g.placed (wgLin (freshState gid g c s) (freshWg gid g c))
    (min g.launch.vgrant (kgetD {} (freshState gid g c s).partitions g.partition).vbudget) (c.room.slots.zip c.room.bases) 0
    (freshState gid g c s)

theorem placeFresh_eq (gid : Nat) (g : Grid) (c : Choice) (s : State) :
    placeFresh gid g c s = sessionCore c.core gid (kgetD {} (freshState gid g c s).grids gid) (freshWaves gid g c s) := rfl

theorem freshWaves_kept (gid : Nat) (g : Grid) (c : Choice) (s : State) : freshWaves gid g c s =
    { freshState gid g c s with fresh := (freshWaves gid g c s).fresh, waves := (freshWaves gid g c s).waves } := by
  unfold freshWaves
  exact newWaves_kept ..

/-- A new part reads zero in every register. -/
theorem getW_newPart (cycle : Nat) (g : Grid) (r : Nat) : ((newPart cycle g none).getW r).val = 0 := by
  have hw : (newPart cycle g none).w = List.replicate 24 { val := 0#32, bq := 0, bn := g.launch.wave / 4 } := rfl
  unfold Part.getW
  rw [hw, List.getD_eq_getElem?_getD, List.getElem?_replicate]
  split <;> rfl

/-- What a placement found: the grid of its item is there. -/
theorem placement_grid {s : State} {p cls q : Nat} {item : Item} {g : Grid} {c : Choice} (h : placement s p = some (cls, q, item, g, c)) :
    kget s.grids item.gid = some g := by
  unfold placement at h
  split at h
  · obtain ⟨x, _, h⟩ := Option.bind_eq_some_iff.1 h
    obtain ⟨y, hy, h⟩ := Option.bind_eq_some_iff.1 h
    obtain ⟨_, _, h⟩ := Option.map_eq_some_iff.1 h
    cases h
    exact hy
  · cases h

/-! ## A pre-empted workgroup goes on (R69, R70) -/

/-- What placing a part or a wave again keeps of a part. -/
def placeOf (x : Part) : Nat × Nat × Word × Word × List UReg × List LoopLevel × List RecRecord := (x.q, x.n, x.pc, x.mode, x.w, x.loops, x.recs)

theorem placeOf_sleepLater (since now : Nat) (p : Part) : placeOf (sleepLater since now p) = placeOf p := by
  unfold sleepLater
  split <;> rfl

theorem placeOf_returnPart (f : Nat → Nat) (cycle : Nat) (p : Part) : placeOf (returnPart f cycle p) = placeOf p := by
  unfold returnPart
  dsimp only
  split <;> rfl

theorem returnPart_awake (f : Nat → Nat) (cycle : Nat) (p : Part) : (returnPart f cycle p).wait ≠ .yielded := by
  unfold returnPart
  dsimp only
  split
  · exact nofun
  · exact nofun
  · exact nofun
  · assumption

theorem returnCounts_kept (now : Nat) (w : Wave) : returnCounts now w =
    { w with parts := (returnCounts now w).parts, cycle0 := (returnCounts now w).cycle0, deadSince := (returnCounts now w).deadSince } := by
  unfold returnCounts thawWave
  dsimp only
  split <;> rfl

theorem returnCounts_parts (now : Nat) (w : Wave) : (returnCounts now w).parts.map placeOf = w.parts.map placeOf := by
  unfold returnCounts thawWave
  dsimp only
  split
  · rfl
  · rw [List.map_map, List.map_map]
    exact List.map_congr_left fun p _ => placeOf_sleepLater _ _ p

theorem returnWave_parts (f : Nat → Nat) (cycle key grant vbase : Nat) (w : Wave) :
    (returnWave f cycle key grant vbase w).parts.map placeOf = w.parts.map placeOf := by
  rw [← returnCounts_parts cycle w]
  unfold returnWave
  dsimp only
  rw [List.map_map]
  exact List.map_congr_left fun p _ => placeOf_returnPart f cycle p

/-- A wave placed again holds what it held, and no part of it is halted or yielded. -/
theorem returnWave_spec (f : Nat → Nat) (cycle key grant vbase : Nat) (w : Wave) :
    let w' := returnWave f cycle key grant vbase w
    w'.v = w.v ∧ w'.x = w.x ∧ w'.nest = w.nest ∧ w'.tiles = w.tiles ∧ w'.ended = w.ended ∧ w'.parts.map placeOf = w.parts.map placeOf ∧
      ∀ x ∈ w'.parts, x.wait ≠ .yielded ∧ x.halted = false ∧ x.preempt = false := by
  refine ⟨?_, ?_, ?_, ?_, ?_, returnWave_parts f cycle key grant vbase w, fun x hx => ?_⟩
  iterate 5 (unfold returnWave; rw [returnCounts_kept])
  obtain ⟨p, _, rfl⟩ := List.mem_map.1 hx
  exact ⟨returnPart_awake f cycle p, rfl, rfl⟩

theorem resumeWaves_kept (f : Nat → Nat) (core : Nat) (xs : List (((Nat × Nat) × Nat) × Wave)) (s : State) : resumeWaves f core xs s =
    { s with fresh := (resumeWaves f core xs s).fresh, waves := (resumeWaves f core xs s).waves } :=
  putWaves_kept (F := fun xs _ s => resumeWaves f core xs s) (key := fun x => core * 64 + x.1.1.1)
    (W := fun x _ s => returnWave f (cycleOf s core) (core * 64 + x.1.1.1) x.1.1.2 x.1.2 x.2) (fun _ _ => rfl) (fun _ _ _ _ => rfl) xs 0 s

theorem resumeWaves_at (f : Nat → Nat) (core : Nat) {slots : List (Nat × Nat)} {bases : List Nat} {ws : List Wave}
    (hn : (slots.map (·.1)).Nodup) {i slot grant base : Nat} {w : Wave}
    (hs : slots[i]? = some (slot, grant)) (hb : bases[i]? = some base) (hw : ws[i]? = some w) (s : State) :
    ∃ cycle, (resumeWaves f core ((slots.zip bases).zip ws) s).wave (core * 64 + slot) =
      some (returnWave f cycle (core * 64 + slot) grant base w) := by
  have hsub : (((slots.zip bases).zip ws).map (·.1.1)).Sublist slots := by
    have h := (zip_fst_sublist (slots.zip bases) ws).map (·.1)
    rw [List.map_map] at h
    exact h.trans (zip_fst_sublist slots bases)
  have hkeys := slotKeys_nodup core hsub hn
  rw [List.map_map] at hkeys
  obtain ⟨u, hu⟩ := putWaves_at (F := fun xs _ s => resumeWaves f core xs s) (key := fun x => core * 64 + x.1.1.1)
    (W := fun x _ s => returnWave f (cycleOf s core) (core * 64 + x.1.1.1) x.1.1.2 x.1.2 x.2) (fun _ _ => rfl) (fun _ _ _ _ => rfl) hkeys
    (List.getElem?_zip_eq_some (z := (((slot, grant), base), w)).2
      ⟨List.getElem?_zip_eq_some (z := ((slot, grant), base)).2 ⟨hs, hb⟩, hw⟩) 0 s
  exact ⟨_, hu⟩

/-- Requests that enter their channels change nothing but requests. -/
theorem admitCopies_kept (s : State) : admitCopies s = { s with copies := (admitCopies s).copies } := by
  have hone : ∀ (u : State) id, admitCopy u id = { u with copies := (admitCopy u id).copies } := by
    intro u id
    unfold admitCopy
    split
    · rfl
    · split <;> rfl
  unfold admitCopies
  split
  · exact List.foldlRecOn (motive := fun (t : State) => t = { s with copies := t.copies }) _ _ rfl fun u hu id _ => by
      rw [hone, hu]
  · rfl

/-- The state in which a workgroup placed again has its record, before its waves stand in their slots. -/
def againState (id : Nat) (g : Grid) (k : Parked) (c : Choice) (s : State) : State :=
  let m := (k.waves.map (·.key)).zip (c.room.slots.map fun x => c.core * 64 + x.1)
  let u := coreTaken g c.core c.room.spad k.wg.spadSize k.spad s
  { u with
    wgs := kput u.wgs id
      { k.wg with core := c.core, waves := m.map (·.2), spadBase := c.room.spad, bars := kmap (fun _ x => moveBar m x) k.wg.bars }
    parked := kdel u.parked id
    copies := kmap (fun _ (x : Copy) =>
      if x.owner.wg = id then { x with saved := false, owner := { x.owner with core := c.core } } else x) u.copies
    pairs := kmap (fun _ (x : Xpair) =>
      if x.owner.wg = id then { x with saved := false, key := newKey m x.key, owner := { x.owner with core := c.core } } else x) u.pairs }

/-- The addresses of the old allocation, in the new one. -/
def againMove (k : Parked) (c : Choice) : Nat → Nat :=
  moveAddr (k.wg.core * 2 ^ 19 + k.wg.spadBase) (c.core * 2 ^ 19 + c.room.spad) k.wg.spadSize

/-- The state in which the waves of a workgroup placed again stand in their slots. -/
def againWaves (id : Nat) (g : Grid) (k : Parked) (c : Choice) (s : State) : State :=
  resumeWaves (againMove k c) c.core ((c.room.slots.zip c.room.bases).zip k.waves) (againState id g k c s)

theorem placeAgain_kept (id gid : Nat) (g : Grid) (k : Parked) (c : Choice) (s : State) :
    (placeAgain id gid g k c s).parked = (againState id g k c s).parked ∧ (placeAgain id gid g k c s).wgs = (againState id g k c s).wgs ∧
      (placeAgain id gid g k c s).waves = (againWaves id g k c s).waves := by
  have hstay : ∀ (b : Bool) (v : State) (f : Core → Core), (if b then v.modCore c.core f else v).parked = v.parked ∧
      (if b then v.modCore c.core f else v).wgs = v.wgs ∧ (if b then v.modCore c.core f else v).waves = v.waves := by
    intro b v f
    cases b <;> exact ⟨rfl, rfl, rfl⟩
  have hw : againWaves id g k c s =
      { againState id g k c s with fresh := (againWaves id g k c s).fresh, waves := (againWaves id g k c s).waves } := resumeWaves_kept ..
  have hv := sessionCore_kept c.core gid g (againWaves id g k c s)
  have hp : (sessionCore c.core gid g (againWaves id g k c s)).parked = (againState id g k c s).parked ∧
      (sessionCore c.core gid g (againWaves id g k c s)).wgs = (againState id g k c s).wgs ∧
      (sessionCore c.core gid g (againWaves id g k c s)).waves = (againWaves id g k c s).waves := by
    rw [hv, hw]
    exact ⟨rfl, rfl, rfl⟩
  obtain ⟨hp1, hp2, hp3⟩ := hp
  unfold placeAgain
  dsimp only
  rw [admitCopies_kept]
  obtain ⟨h1, h2, h3⟩ := hstay _ (sessionCore c.core gid g (againWaves id g k c s)) _
  exact ⟨h1.trans hp1, h2.trans hp2, h3.trans hp3⟩

theorem againState_kept (id : Nat) (g : Grid) (k : Parked) (c : Choice) (s : State) :
    kget (againState id g k c s).parked id = none ∧ ∃ wg, kget (againState id g k c s).wgs id = some wg ∧ wg.core = c.core ∧
      wg.g = k.wg.g ∧ wg.lin = k.wg.lin ∧ wg.stage = k.wg.stage :=
  ⟨kget_kdel_same _ _, _, kget_kput_same _ _ _, rfl, rfl, rfl, rfl⟩

/-! ## What a placement comes to -/

section Fresh

variable {gid : Nat} {g : Grid} {c : Choice} {u : State}

/-- The state after a new workgroup, field by field: only the session of its MEASURE pass comes after its waves. -/
theorem placeFresh_kept (gid : Nat) (g : Grid) (c : Choice) (u : State) :
    (placeFresh gid g c u).wgs = kput u.wgs u.nextId (freshWg gid g c) ∧
      (placeFresh gid g c u).spad = (coreTaken g c.core c.room.spad g.launch.scratch [] u).spad ∧
      (placeFresh gid g c u).waves = (freshWaves gid g c u).waves := by
  obtain ⟨hwgs, _, hspad⟩ := freshState_kept gid g c u
  rw [placeFresh_eq, sessionCore_kept]
  refine ⟨?_, ?_, rfl⟩
  · rw [freshWaves_kept]
    exact hwgs
  · rw [freshWaves_kept]
    exact hspad

theorem placeFresh_grid (h : kget u.grids gid = some g) :
    ∃ x, kget (placeFresh gid g c u).grids gid = some { g with placed := g.placed + 1, session := x } := by
  obtain ⟨_, hgrids, _⟩ := freshState_kept gid g c u
  have hg : kget (freshState gid g c u).grids gid = some { g with placed := g.placed + 1 } := by
    rw [hgrids, kget_kmod_same, h]
    rfl
  have hw : kget (freshWaves gid g c u).grids gid = some { g with placed := g.placed + 1 } := by
    rw [freshWaves_kept]
    exact hg
  rw [placeFresh_eq, kgetD, hg]
  exact sessionCore_grid c.core hw

theorem placeFresh_wave (hn : (c.room.slots.map (·.1)).Nodup) {i slot grant base : Nat} (hs : c.room.slots[i]? = some (slot, grant))
    (hb : c.room.bases[i]? = some base) : ∃ v, (placeFresh gid g c u).wave (c.core * 64 + slot) =
      some (newWave v (c.core * 64 + slot) u.nextId gid g g.placed (wgLin (freshState gid g c u) (freshWg gid g c)) i grant base
        (min g.launch.vgrant (kgetD {} (freshState gid g c u).partitions g.partition).vbudget)) := by
  obtain ⟨_, _, hwaves⟩ := placeFresh_kept gid g c u
  obtain ⟨v, hv⟩ := newWaves_at c.core u.nextId gid g g.placed (wgLin (freshState gid g c u) (freshWg gid g c))
    (min g.launch.vgrant (kgetD {} (freshState gid g c u).partitions g.partition).vbudget) hn hs hb (freshState gid g c u)
  exact ⟨v, (congrArg (kget · _) hwaves).trans hv⟩

end Fresh

theorem placeNext_fresh {s : State} {p cls q gid : Nat} {g : Grid} {c : Choice} (h : placement s p = some (cls, q, .fresh gid, g, c)) :
    placeNext p s = if g.placed = 0 ∧ areaOkay s g = false then refuseArea gid { s with served := cellsPut 0 s.served (p * 4 + cls) q }
      else placeFresh gid g c (movePtr p c.next { s with served := cellsPut 0 s.served (p * 4 + cls) q }) := by
  rw [placeNext, h]

theorem placeNext_again {s : State} {p cls q id gid : Nat} {g : Grid} {c : Choice} {k : Parked}
    (h : placement s p = some (cls, q, .again id gid, g, c)) (hk : kget s.parked id = some k) :
    placeNext p s = placeAgain id gid g k c (movePtr p c.next s) := by
  rw [placeNext, h]
  dsimp only
  rw [hk]

/-- Settles O45: a new workgroup is `newWaves` after its record, one placed again `resumeWaves`. -/
theorem placementEvent : Obligations.PlacementEvent := by
  refine ⟨fun s p h => ?_, fun s p cls q gid g c h h0 ha => ?_, fun s p cls q gid g c h hok hn _ => ?_,
    fun s p cls q id gid g c k h hk hn => ?_⟩
  · show Host.Outcome.next (placeNext p s) = _
    rw [placeNext, h]
  · refine ⟨_, congrArg Host.Outcome.next ((placeNext_fresh h).trans (if_pos ⟨h0, ha⟩)), rfl, rfl, (kget_modGrid _ _ _).trans ?_⟩
    exact congrArg (Option.map _) (placement_grid h)
  · refine ⟨_, congrArg Host.Outcome.next ((placeNext_fresh h).trans (if_neg hok)), ?_⟩
    have hu := movePtr_kept p c.next { s with served := cellsPut 0 s.served (p * 4 + cls) q }
    generalize movePtr p c.next { s with served := cellsPut 0 s.served (p * 4 + cls) q } = u at hu
    have hid : u.nextId = s.nextId := by rw [hu]
    have hgrid : kget u.grids gid = some g := by
      rw [hu]
      exact placement_grid h
    obtain ⟨hwgs, hspad, _⟩ := placeFresh_kept gid g c u
    obtain ⟨x, hx⟩ := placeFresh_grid (c := c) hgrid
    refine ⟨⟨_, hx, rfl⟩, ?_, fun i a hi ha => ?_, fun i slot grant base hs hb hinit => ?_⟩
    · rw [hwgs, hid]
      exact kget_kput_same _ _ _
    · rw [hspad, ha]
      exact spad_coreTaken_zero g u hi
    · obtain ⟨v, hv⟩ := placeFresh_wave (gid := gid) (g := g) (u := u) hn hs hb
      refine ⟨_, hv, ?_⟩
      rw [newWave, hinit]
      exact ⟨hid, rfl, rfl, rfl, rfl, rfl, rfl, rfl, rfl, rfl, _, rfl, rfl, rfl, rfl, rfl, rfl, rfl, rfl, rfl, rfl, getW_newPart _ g⟩
  · obtain ⟨hparked, hwgs, hwaves⟩ := placeAgain_kept id gid g k c (movePtr p c.next s)
    obtain ⟨hnone, wg, hwg, hcore, hgg, hlin, hstage⟩ := againState_kept id g k c (movePtr p c.next s)
    refine ⟨_, wg, congrArg Host.Outcome.next (placeNext_again h hk), ?_, ?_, hcore, hgg, hlin, hstage,
      fun i w slot grant base hw hs hb => ?_⟩
    · rw [hparked]
      exact hnone
    · rw [hwgs]
      exact hwg
    · obtain ⟨cycle, hr⟩ := resumeWaves_at (againMove k c) c.core hn hs hb hw (againState id g k c (movePtr p c.next s))
      exact ⟨_, (congrArg (kget · _) hwaves).trans hr, returnWave_spec ..⟩

end Sys2Proof.Proofs
end

section
/-! The platform (R457 to R475): what a thermal report, a retirement, a lost Span port, another party's write and a full reset come to. -/

namespace Sys2Proof.Proofs

open Sys2Proof.Machine Sys2Proof.Laws

/-! ## Temperatures (R49) -/

/-- A report at 105 °C or above makes the device hot. -/
theorem hot_noteTemp {core temp : Nat} (s : State) (h : 105 ≤ temp) : (noteTemp core temp s).dev.hot = true :=
  List.any_eq_true.2 ⟨_, mem_of_kget (kget_kput_same s.cores core _), decide_eq_true h⟩

/-- A report and a change of the core's record change cores and HOT alone. -/
theorem coresOnly_modCore_noteTemp (core temp : Nat) (f : Core → Core) (s : State) : CoresOnly s (noteTemp core temp (s.modCore core f)) := rfl

theorem tripped_noteTemp (core temp : Nat) (b : Bool) (s : State) :
    ((noteTemp core temp (s.modCore core fun c => { c with tripped := b })).core core).tripped = b := by
  rw [core_noteTemp, kget_modCore_same]

/-! ## Event records and replacement requests (R322, R472) -/

/-- An event record changes memory and its queue. -/
theorem postEvent_kept (e : Nat) (r : EvRec) (s : State) : postEvent e r s =
    { s with
      hbm := (postEvent e r s).hbm, host := (postEvent e r s).host, peer := (postEvent e r s).peer, spad := (postEvent e r s).spad,
      hbmTag := (postEvent e r s).hbmTag, touched := (postEvent e r s).touched, stale := (postEvent e r s).stale,
      stores := (postEvent e r s).stores, evqs := (postEvent e r s).evqs } := by
  unfold postEvent
  dsimp only
  split
  · have h := (memoryOnly_physWrite s (ringPlace ((s.evq e).base + 32 * ((s.evq e).tail % (s.evq e).size))).1 0
      (ringPlace ((s.evq e).base + 32 * ((s.evq e).tail % (s.evq e).size))).2 (eventBytes s.time r)).rest
    rw [h]
    rfl
  · rfl

/-- What a replacement request leaves: SVCREQ is set, and the device is otherwise as it was. -/
theorem svcreq_kept (cause : Nat) (s : State) :
    (svcreq cause s).dev = { s.dev with svcreq := true } ∧ (svcreq cause s).cores = s.cores ∧ (svcreq cause s).icache = s.icache ∧
      (svcreq cause s).l1Locks = s.l1Locks ∧ (svcreq cause s).tlb = s.tlb := by
  unfold svcreq
  dsimp only
  rw [postEvent_kept]
  exact ⟨rfl, rfl, rfl, rfl, rfl⟩

/-! ## Retirement (R471) -/

/-- The record of a core whose number is out of service. -/
def lostCore (c : Core) : Core := { c with retired := true, retiring := none }

section Retire

variable {core : Nat} {s : State} (hfree : ∀ g ∈ s.wgs, g.2.core ≠ core)
include hfree

/-- A core without workgroups evicts none. -/
theorem evicted_nil : ((s.wgs.filter fun e => decide (e.2.core = core) && !e.2.ended).map (·.1)) = [] := by
  rw [List.map_eq_nil_iff, List.filter_eq_nil_iff]
  intro e he
  simp [hfree e he]

theorem retireCore_spare (h : (if core < 128 then s.dev.spare0 else s.dev.spare1) ≠ 0) : retireCore core s =
    { (zeroCore core s).modCore core spareCore with
      dev := { s.dev with
        burns := s.dev.burns + 1, spare0 := if core < 128 then s.dev.spare0 - 1 else s.dev.spare0,
        spare1 := if core < 128 then s.dev.spare1 else s.dev.spare1 - 1 } } := by
  unfold retireCore
  rw [evicted_nil hfree]
  by_cases hc : core < 128
  · rw [if_pos hc] at h
    simp only [if_pos hc]
    exact if_pos ⟨hc, h⟩
  · rw [if_neg hc] at h
    simp only [if_neg hc]
    exact (if_neg fun h' => hc h'.1).trans (if_pos ⟨Nat.le_of_not_lt hc, h⟩)

theorem retireCore_lost (h : (if core < 128 then s.dev.spare0 else s.dev.spare1) = 0) : retireCore core s =
    svcreq 1 { (zeroCore core s).modCore core lostCore with
      dev := { s.dev with burns := s.dev.burns + 1, lost := s.dev.lost + 1 } } := by
  unfold retireCore
  rw [evicted_nil hfree]
  have h0 : ¬ (core < 128 ∧ s.dev.spare0 ≠ 0) := fun hc => hc.2 ((if_pos hc.1).symm.trans h)
  have h1 : ¬ (128 ≤ core ∧ s.dev.spare1 ≠ 0) := fun hc => hc.2 ((if_neg (Nat.not_lt.2 hc.1)).symm.trans h)
  exact (if_neg h0).trans (if_neg h1)

end Retire

/-- Nothing of the core's own stores is found any more. -/
theorem zeroCore_gone (core : Nat) (s : State) :
    (∀ b ∈ (zeroCore core s).icache, b.core ≠ core) ∧ (∀ k ∈ (zeroCore core s).l1Locks, k.place ≠ core) ∧
      ∀ e ∈ (zeroCore core s).tlb, e.place ≠ .core core :=
  ⟨fun _ hb => of_decide_eq_true (List.mem_filter.1 hb).2, fun _ hk => of_decide_eq_true (List.mem_filter.1 hk).2,
    fun _ he => of_decide_eq_true (List.mem_filter.1 he).2⟩

/-! ## Lists of islands -/

theorem mem_addVec {v k : Nat} {vs : List Nat} : k ∈ addVec v vs ↔ k ∈ vs ∨ k = v := by
  unfold addVec
  split
  · rename_i h
    constructor
    · exact Or.inl
    · rintro (hk | rfl)
      · exact hk
      · exact List.contains_iff_mem.1 h
  · rw [List.mem_append, List.mem_singleton]

/-! ## Bytes of memory under their key tags (R233, R250) -/

@[simp] theorem length_bytesOfNat (n x : Nat) : (bytesOfNat n x).length = n := by
  induction n generalizing x with
  | zero => rfl
  | succ n ih => rw [bytesOfNat, List.length_cons, ih]

theorem getD_bytesOfNat {n i : Nat} (x : Nat) (h : i < n) : (bytesOfNat n x).getD i 0#8 = BitVec.ofNat 8 (x / 256 ^ i) := by
  induction n generalizing x i with
  | zero => omega
  | succ n ih =>
    cases i with
    | zero => rw [Nat.pow_zero, Nat.div_one]; rfl
    | succ i => rw [Nat.pow_succ', ← Nat.div_div_eq_div_mul]; exact ih (x / 256) (Nat.lt_of_succ_lt_succ h)

theorem cellsGet_tagN (tag k : Nat) (n : Nat) : ∀ (c : Cells Nat) (a : Nat),
    cellsGet 0 (tagN c a tag n) k = if a ≤ k ∧ k < a + n then tag else cellsGet 0 c k := by
  induction n with
  | zero => exact fun c a => (if_neg (by omega)).symm
  | succ n ih =>
    intro c a
    rw [tagN, ih, cellsGet_put]
    by_cases hk : k = a
    · rw [if_neg (by omega), if_pos hk, if_pos (by omega)]
    · rw [if_neg hk]
      exact if_congr (by omega) rfl rfl

/-- What a covered byte of a store reads as. -/
def storeByte (x : Store) (m : Mem) (tag a : Nat) : Byte :=
  match m with
  | .hbm => tagged a x.tag tag (x.bytes.getD (a - x.addr) 0#8)
  | _ => x.bytes.getD (a - x.addr) 0#8

theorem pendingByte_cons (vw : View) (m : Mem) (tag a : Nat) (d : Byte) (x : Store) (xs : List Store) :
    pendingByte vw m tag a d (x :: xs) =
      pendingByte vw m tag a (if x.covers m a && x.visible vw then storeByte x m tag a else d) xs := by
  cases m <;> rfl

/-- Stores that cannot be seen count for nothing. -/
theorem pendingByte_unseen {vw : View} {m : Mem} {tag a : Nat} {xs : List Store} (h : ∀ x ∈ xs, x.covers m a = true → x.visible vw = false) :
    ∀ d, pendingByte vw m tag a d xs = d := by
  induction xs with
  | nil => exact fun _ => rfl
  | cons x xs ih =>
    intro d
    have hx : (x.covers m a && x.visible vw) = false := by
      cases hc : x.covers m a with
      | false => rfl
      | true => exact h x List.mem_cons_self hc
    rw [pendingByte_cons, hx]
    exact ih (fun y hy => h y (List.mem_cons_of_mem x hy)) d

/-- A store that is performed everywhere gives its bytes their values, and no others. -/
theorem baseByte_baseWrite (s : State) (x : Store) (m : Mem) (tag a : Nat) :
    baseByte (baseWrite s x.mem x.tag x.addr x.bytes) m tag a =
      if x.covers m a = true then storeByte x m tag a else baseByte s m tag a := by
  obtain ⟨id, mem, addr, bytes, xtag, core, scope, time⟩ := x
  cases mem <;> cases m <;>
    simp only [baseByte, baseWrite, noteWrite, Store.covers, storeByte, Memory.read_writeN, cellsGet_tagN, decide_true, decide_false,
      Bool.true_and, Bool.false_and, Bool.and_eq_true, decide_eq_true_eq, reduceCtorEq, if_false, Bool.false_eq_true]
  split_ifs <;> rfl

theorem baseByte_applyStores (m : Mem) (tag a : Nat) (vw : View) {xs : List Store} :
    ∀ {s : State}, (∀ x ∈ xs, x.covers m a = true → x.visible vw = true) →
      baseByte (applyStores s xs) m tag a = pendingByte vw m tag a (baseByte s m tag a) xs := by
  induction xs with
  | nil => exact fun _ => rfl
  | cons x xs ih =>
    intro s h
    rw [applyStores, ih fun y hy => h y (List.mem_cons_of_mem x hy), baseByte_baseWrite, pendingByte_cons]
    have hx : (x.covers m a && x.visible vw) = x.covers m a := by
      cases hc : x.covers m a with
      | false => rfl
      | true => exact h x List.mem_cons_self hc
    rw [hx]

/-- Who sees no pending store over a byte of the device's memory reads what was written there last. -/
theorem physRead_physWrite {s : State} {vw : View} {addr i size data : Nat} (hi : i < size)
    (h : ∀ x ∈ s.stores, x.covers .hbm (addr + i) = true → x.visible vw = false) :
    physRead (physWrite s .hbm 0 addr (bytesOfNat size data)) vw .hbm 0 (addr + i) = BitVec.ofNat 8 (data / 256 ^ i) := by
  have hrange : addr ≤ addr + i ∧ addr + i < addr + size := by omega
  have hbyte : baseByte (baseWrite s .hbm 0 addr (bytesOfNat size data)) .hbm 0 (addr + i) = (bytesOfNat size data).getD i 0#8 := by
    simp only [baseByte, baseWrite, noteWrite, Memory.read_writeN, cellsGet_tagN, length_bytesOfNat, if_pos hrange, Nat.add_sub_cancel_left]
    rfl
  exact (pendingByte_unseen h _).trans (hbyte.trans (getD_bytesOfNat data hi))

/-! ## Stores performed for the home agent (R457) -/

/-- Stores over a byte, some of them performed before the rest: the byte reads as before where none is kept that is older than one performed. -/
theorem pendingByte_performed {vw : View} {m : Mem} {tag a : Nat} (r : Store → Store) (k : Store → Bool) {xs : List Store}
    (hr : ∀ x, (r x).covers m a = x.covers m a ∧ storeByte (r x) m tag a = storeByte x m tag a)
    (hv : ∀ x ∈ xs, x.covers m a = true → x.visible vw = true ∧ (r x).visible vw = true)
    (hp : xs.Pairwise fun x y => x.covers m a = true → y.covers m a = true → k (r x) = true → k (r y) = true) :
    ∀ d, pendingByte vw m tag a (pendingByte vw m tag a d ((xs.map r).filter fun x => !k x)) ((xs.map r).filter k) =
      pendingByte vw m tag a d xs := by
  induction xs with
  | nil => exact fun _ => rfl
  | cons x xs ih =>
    intro d
    obtain ⟨hhead, htail⟩ := List.pairwise_cons.1 hp
    have hrest := ih (fun y hy => hv y (List.mem_cons_of_mem x hy)) htail
    obtain ⟨hcov, hbyte⟩ := hr x
    cases hc : x.covers m a with
    | false =>
      have hskip : ∀ (e : Byte) ys, pendingByte vw m tag a e (r x :: ys) = pendingByte vw m tag a e ys := fun e ys => by
        rw [pendingByte_cons, hcov, hc]
        rfl
      have hskip' : pendingByte vw m tag a d (x :: xs) = pendingByte vw m tag a d xs := by
        rw [pendingByte_cons, hc]
        rfl
      rw [hskip', ← hrest, List.map_cons, List.filter_cons, List.filter_cons]
      cases k (r x) with
      | true => exact hskip _ _
      | false => exact congrArg (fun e => pendingByte vw m tag a e _) (hskip d _)
    | true =>
      obtain ⟨hsee, hsee'⟩ := hv x List.mem_cons_self hc
      have htake : ∀ (e : Byte) ys, pendingByte vw m tag a e (r x :: ys) = pendingByte vw m tag a (storeByte x m tag a) ys := fun e ys => by
        rw [pendingByte_cons, hcov, hc, hsee', hbyte]
        rfl
      have htake' : pendingByte vw m tag a d (x :: xs) = pendingByte vw m tag a (storeByte x m tag a) xs := by
        rw [pendingByte_cons, hc, hsee]
        rfl
      rw [htake', ← hrest, List.map_cons, List.filter_cons, List.filter_cons]
      cases hk : k (r x) with
      | false => exact congrArg (fun e => pendingByte vw m tag a e _) (htake d _)
      | true =>
        have hnone : ∀ e, pendingByte vw m tag a e ((xs.map r).filter fun x => !k x) = e := by
          refine pendingByte_unseen fun z hz hzc => ?_
          obtain ⟨hz, hkz⟩ := List.mem_filter.1 hz
          obtain ⟨y, hy, rfl⟩ := List.mem_map.1 hz
          rw [hhead y hy hc ((hr y).1 ▸ hzc) hk] at hkz
          cases hkz
        rw [hnone]
        exact (congrArg (fun e => pendingByte vw m tag a e _) (hnone d)).trans (htake d _)

/-- A store that is not performed everywhere. -/
def isPending (x : Store) : Bool := decide (x.scope < fullScope x.mem)

theorem baseByte_performStores (s : State) (sel : Store → Bool) (scope : Nat) (m : Mem) (tag a : Nat) :
    baseByte (performStores s sel scope) m tag a =
      baseByte (applyStores s ((s.stores.map (raiseStore sel scope s)).filter fun x => !isPending x)) m tag a := by
  have happly : ∀ (xs : List Store) (u v : State), (∀ tag, baseByte u m tag a = baseByte v m tag a) →
      baseByte (applyStores u xs) m tag a = baseByte (applyStores v xs) m tag a := by
    intro xs
    induction xs with
    | nil => exact fun u v h => h tag
    | cons x xs ih => exact fun u v h => ih _ _ fun tag => by rw [baseByte_baseWrite, baseByte_baseWrite, h]
  unfold performStores
  split
  · rename_i h
    rw [List.isEmpty_iff] at h
    rw [h]
    rfl
  · dsimp only
    refine happly _ _ s fun tag => ?_
    split
    · cases m <;> rfl
    · obtain ⟨st, hst⟩ := dropL2s_frame ((s.stores.map (raiseStore sel scope s)).filter fun x =>
        ((selectStores sel s.stores).map (·.id)).contains x.id && decide (3 ≤ x.scope)) s
      have hu : ∀ u : State, u = { s with stale := st } → ∀ ss, baseByte { u with stores := ss } m tag a = baseByte s m tag a := by
        rintro u rfl ss
        cases m <;> rfl
      exact hu _ hst _

theorem mem_selectStores_cons {sel : Store → Bool} {x y : Store} {xs : List Store} :
    y ∈ selectStores sel (x :: xs) ↔
      y ∈ selectStores sel xs ∨ y = x ∧ (sel x = true ∨ ∃ z ∈ selectStores sel xs, z.overlaps x.mem x.addr x.bytes.length = true) := by
  rw [selectStores]
  simp only [Bool.or_eq_true, List.any_eq_true]
  split
  · rename_i h
    rw [List.mem_cons, or_comm, and_iff_left h]
  · rename_i h
    rw [or_iff_left fun hx => h hx.2]

theorem mem_of_mem_selectStores {sel : Store → Bool} {y : Store} {xs : List Store} (h : y ∈ selectStores sel xs) : y ∈ xs := by
  induction xs with
  | nil => exact h
  | cons x xs ih =>
    rcases mem_selectStores_cons.1 h with hy | ⟨rfl, _⟩
    · exact List.mem_cons_of_mem x (ih hy)
    · exact List.mem_cons_self

/-- A chosen store brings the older ones that it overlaps. -/
theorem selectStores_older {sel : Store → Bool} {xs : List Store} (hn : xs.Nodup) :
    xs.Pairwise fun x y => y ∈ selectStores sel xs → y.overlaps x.mem x.addr x.bytes.length = true → x ∈ selectStores sel xs := by
  induction xs with
  | nil => exact List.Pairwise.nil
  | cons z xs ih =>
    obtain ⟨hz, hxs⟩ := List.nodup_cons.1 hn
    refine List.pairwise_cons.2 ⟨fun y hy hs ho => ?_, (ih hxs).imp_of_mem fun {x y} _ hy hrest hs ho => ?_⟩
    · rcases mem_selectStores_cons.1 hs with hs | ⟨rfl, _⟩
      · exact mem_selectStores_cons.2 (Or.inr ⟨rfl, Or.inr ⟨y, hs, ho⟩⟩)
      · exact absurd hy hz
    · rcases mem_selectStores_cons.1 hs with hs | ⟨rfl, _⟩
      · exact mem_selectStores_cons.2 (Or.inl (hrest hs ho))
      · exact absurd hy hz

/-- Stores over one byte overlap. -/
theorem overlaps_of_covers {x y : Store} {m : Mem} {a : Nat} (hx : x.covers m a = true) (hy : y.covers m a = true) :
    y.overlaps x.mem x.addr x.bytes.length = true := by
  simp only [Store.covers, Store.overlaps, Bool.and_eq_true, decide_eq_true_eq] at *
  obtain ⟨⟨rfl, _⟩, _⟩ := hx
  obtain ⟨⟨hm, _⟩, _⟩ := hy
  exact ⟨⟨hm, by omega⟩, by omega⟩

theorem visible_mono {x : Store} {vw : View} {n : Nat} (h : x.scope ≤ n) (hv : x.visible vw = true) :
    { x with scope := n }.visible vw = true := by
  cases vw <;> simp only [Store.visible, Bool.or_eq_true, Bool.and_eq_true, decide_eq_true_eq] at hv ⊢ <;> omega

/-- A store raised to its choice is the same store at no narrower scope. -/
theorem raiseStore_eq (sel : Store → Bool) (scope : Nat) (s : State) (x : Store) :
    ∃ n, x.scope ≤ n ∧ raiseStore sel scope s x = { x with scope := n } := by
  unfold raiseStore
  split
  · exact ⟨_, Nat.le_max_left _ _, rfl⟩
  · exact ⟨x.scope, Nat.le_refl _, rfl⟩

section Perform

variable {s : State} {sel : Store → Bool} {x : Store}

theorem mem_chosenIds (hn : (s.stores.map (·.id)).Nodup) (hx : x ∈ s.stores) :
    (chosenIds sel s).contains x.id = true ↔ x ∈ selectStores sel s.stores := by
  rw [List.contains_iff_mem, chosenIds, List.mem_map]
  constructor
  · rintro ⟨y, hy, hid⟩
    exact List.inj_on_of_nodup_map hn (mem_of_mem_selectStores hy) hx hid ▸ hy
  · exact fun h => ⟨x, h, rfl⟩

/-- A store chosen at SYSTEM scope is performed. -/
theorem isPending_chosen (h : (chosenIds sel s).contains x.id = true) : isPending (raiseStore sel 5 s x) = false := by
  have hfull := fullScope_le x.mem
  have hraised : raiseStore sel 5 s x = { x with scope := max x.scope 5 } := by
    rw [raiseStore, if_pos h]
    simp [pointScope]
  rw [isPending, hraised]
  exact decide_eq_false (by dsimp only; omega)

theorem isPending_unchosen (h : ¬ (chosenIds sel s).contains x.id = true) : isPending (raiseStore sel 5 s x) = isPending x := by
  rw [raiseStore, if_neg h]

/-- Stores performed at SYSTEM scope change nothing of a byte whose pending stores can all be seen. -/
theorem physRead_performStores {vw : View} {m : Mem} {a : Nat} (hn : (s.stores.map (·.id)).Nodup)
    (h : ∀ x ∈ s.stores, x.covers m a = true → x.visible vw = true ∧ x.scope < fullScope m) (tag : Nat) :
    physRead (performStores s sel 5) vw m tag a = physRead s vw m tag a := by
  have hsame : ∀ x, (raiseStore sel 5 s x).covers m a = x.covers m a ∧ storeByte (raiseStore sel 5 s x) m tag a = storeByte x m tag a := by
    intro x
    obtain ⟨n, -, hx⟩ := raiseStore_eq sel 5 s x
    rw [hx]
    exact ⟨rfl, rfl⟩
  have hsee : ∀ x ∈ s.stores, x.covers m a = true → x.visible vw = true ∧ (raiseStore sel 5 s x).visible vw = true := by
    intro x hx hc
    obtain ⟨n, hle, heq⟩ := raiseStore_eq sel 5 s x
    exact ⟨(h x hx hc).1, heq ▸ visible_mono hle (h x hx hc).1⟩
  have holder : s.stores.Pairwise fun x y => x.covers m a = true → y.covers m a = true →
      isPending (raiseStore sel 5 s x) = true → isPending (raiseStore sel 5 s y) = true := by
    refine (selectStores_older (sel := sel) (List.Nodup.of_map _ hn)).imp_of_mem fun {x y} hx hy hxy hcx hcy hkeep => ?_
    have hchosen : ¬ (chosenIds sel s).contains y.id = true := by
      intro hc
      have hxs := hxy ((mem_chosenIds hn hy).1 hc) (overlaps_of_covers hcx hcy)
      rw [isPending_chosen ((mem_chosenIds hn hx).2 hxs)] at hkeep
      cases hkeep
    have hmem : y.mem = m := of_decide_eq_true (Bool.and_eq_true_iff.1 (Bool.and_eq_true_iff.1 hcy).1).1
    rw [isPending_unchosen hchosen, isPending, hmem]
    exact decide_eq_true (h y hy hcy).2
  have hperf : ∀ x ∈ (s.stores.map (raiseStore sel 5 s)).filter fun x => !isPending x, x.covers m a = true → x.visible vw = true := by
    intro z hz hc
    obtain ⟨y, hy, rfl⟩ := List.mem_map.1 (List.mem_filter.1 hz).1
    exact (hsee y hy ((hsame y).1 ▸ hc)).2
  calc physRead (performStores s sel 5) vw m tag a
      = pendingByte vw m tag a (baseByte (performStores s sel 5) m tag a) ((s.stores.map (raiseStore sel 5 s)).filter isPending) :=
        congrArg (pendingByte vw m tag a _) (performStores_frame s sel 5).2
    _ = pendingByte vw m tag a (pendingByte vw m tag a (baseByte s m tag a) ((s.stores.map (raiseStore sel 5 s)).filter fun x => !isPending x))
          ((s.stores.map (raiseStore sel 5 s)).filter isPending) := by
        rw [baseByte_performStores, baseByte_applyStores m tag a vw hperf]
    _ = physRead s vw m tag a := pendingByte_performed _ _ hsame hsee holder _

/-- What was chosen at SYSTEM scope is pending no more. -/
theorem performStores_unchosen (h : x ∈ (performStores s sel 5).stores) :
    ∃ y n, y ∈ s.stores ∧ sel y = false ∧ x = { y with scope := n } := by
  obtain ⟨hx, -⟩ := List.mem_filter.1 ((performStores_frame s sel 5).2 ▸ h)
  obtain ⟨y, hy, rfl⟩ := List.mem_map.1 hx
  obtain ⟨n, -, heq⟩ := raiseStore_eq sel 5 s y
  refine ⟨y, n, hy, ?_, heq⟩
  cases hs : sel y with
  | false => rfl
  | true => exact absurd (raiseStore_id sel 5 s y) (performStores_done hy hs _ h)

end Perform

/-! ## Stores that a Span port loses (R460) -/

/-- A peer's failing answer takes its oldest store, and makes the status of the store's grid PEER_FAIL if it was running. -/
theorem astpAnswer_failed {u : State} {dev : Nat} {x : Astp} (h : u.astps.find? (·.dev = dev) = some x) :
    (astpAnswer dev false u).dev = u.dev ∧ (astpAnswer dev false u).time = u.time ∧
      (astpAnswer dev false u).astps = u.astps.filter (·.id ≠ x.id) ∧
      (astpAnswer dev false u).grids = (u.modGrid x.grid fun g => if g.status = 0x0100 then { g with status := 0x0107 } else g).grids := by
  have hwrite : ∀ v : State, MemoryOnly v (astpWrite x v) := fun v =>
    memoryOnly_foldl (fun s y => by
      split
      · exact memoryOnly_refl s
      · exact memoryOnly_physWrite s _ _ _ _) x.pieces v
  unfold astpAnswer
  rw [h]
  dsimp only
  rw [Bool.false_and, if_neg Bool.false_ne_true]
  split
  · rw [(hwrite _).rest]
    exact ⟨rfl, rfl, rfl, rfl⟩
  · exact ⟨rfl, rfl, rfl, rfl⟩

theorem astpAnswer_none {u : State} {dev : Nat} (ok : Bool) (h : u.astps.find? (·.dev = dev) = none) : astpAnswer dev ok u = u := by
  unfold astpAnswer
  rw [h]

/-- Stores to peers have been lost since `s`: the device is as it was, and a grid of a lost store that was running has status PEER_FAIL. -/
structure PeersLost (s u : State) : Prop where
  dev : u.dev = s.dev
  time : u.time = s.time
  sub : u.astps.Sublist s.astps
  status : ∀ gid g, kget s.grids gid = some g → g.status = 0x0100 →
    ∃ g', kget u.grids gid = some g' ∧ (g'.status = 0x0100 ∧ (∀ x ∈ s.astps, x.grid = gid → x ∈ u.astps) ∨ g'.status = 0x0107)

theorem peersLost_refl (s : State) : PeersLost s s :=
  ⟨rfl, rfl, List.Sublist.refl _, fun _ g hg h => ⟨g, hg, Or.inl ⟨h, fun _ hx _ => hx⟩⟩⟩

theorem peersLost_answer {s u : State} (dev : Nat) (hn : (s.astps.map (·.id)).Nodup) (h : PeersLost s u) :
    PeersLost s (astpAnswer dev false u) := by
  cases hf : u.astps.find? (·.dev = dev) with
  | none => rwa [astpAnswer_none false hf]
  | some x =>
    obtain ⟨hdev, htime, hastps, hgrids⟩ := astpAnswer_failed hf
    have hx : x ∈ s.astps := h.sub.subset (List.mem_of_find?_eq_some hf)
    refine ⟨hdev.trans h.dev, htime.trans h.time, hastps ▸ List.filter_sublist.trans h.sub, fun gid g hg hs => ?_⟩
    obtain ⟨g', hg', hst⟩ := h.status gid g hg hs
    rw [hgrids, modGrid_grids, hastps]
    by_cases hgid : gid = x.grid
    · subst hgid
      rw [kget_kmod_same, hg']
      refine ⟨_, rfl, Or.inr ?_⟩
      rcases hst with ⟨hst, _⟩ | hst
      · exact congrArg Grid.status (if_pos hst)
      · exact (congrArg Grid.status (if_neg (by rw [hst]; decide))).trans hst
    · rw [kget_kmod_other _ _ _ _ hgid]
      refine ⟨g', hg', hst.imp_left fun ⟨hrun, hall⟩ => ⟨hrun, fun y hy hyg => List.mem_filter.2 ⟨hall y hy hyg, ?_⟩⟩⟩
      refine decide_eq_true fun hid => hgid ?_
      rw [← hyg, List.inj_on_of_nodup_map hn hy hx hid]

/-- As many failing answers as a peer has stores on their way leave none of them. -/
theorem astps_answers {α : Type} (dev : Nat) (ys : List α) : ∀ {u : State}, (u.astps.map (·.id)).Nodup →
    (u.astps.filter fun x => decide (x.dev = dev)).length ≤ ys.length →
    (ys.foldl (fun s _ => astpAnswer dev false s) u).astps = u.astps.filter fun x => !decide (x.dev = dev) := by
  induction ys with
  | nil =>
    intro u _ h
    have hnone := List.filter_eq_nil_iff.1 (List.length_eq_zero_iff.1 (Nat.le_zero.1 h))
    exact (List.filter_eq_self.2 fun x hx => by simpa using hnone x hx).symm
  | cons y ys ih =>
    intro u hn h
    rw [List.foldl_cons]
    cases hf : u.astps.find? (·.dev = dev) with
    | none =>
      rw [astpAnswer_none false hf]
      refine ih hn ?_
      rw [List.filter_eq_nil_iff.2 (List.find?_eq_none.1 hf)]
      exact Nat.zero_le _
    | some x =>
      obtain ⟨-, -, hastps, -⟩ := astpAnswer_failed hf
      have hx := List.mem_of_find?_eq_some hf
      have hxd : x.dev = dev := by simpa using List.find?_some hf
      have hlt : ((u.astps.filter fun z => decide (z.dev = dev)).filter fun z => decide (z.id ≠ x.id)).length <
          (u.astps.filter fun z => decide (z.dev = dev)).length :=
        List.length_filter_lt_length_iff_exists.2 ⟨x, List.mem_filter.2 ⟨hx, decide_eq_true hxd⟩, by simp⟩
      rw [ih, hastps, List.filter_filter]
      · refine List.filter_congr fun z hz => ?_
        by_cases hid : z.id = x.id
        · rw [List.inj_on_of_nodup_map hn hz hx hid]
          simp [hxd]
        · simp [hid]
      · rw [hastps]
        exact hn.sublist (List.filter_sublist.map _)
      · rw [hastps, List.filter_comm]
        rw [List.length_cons] at h
        omega

theorem losePeer_spec {s u : State} (dev : Nat) (hn : (s.astps.map (·.id)).Nodup) (h : PeersLost s u) :
    PeersLost s (losePeer u dev) ∧ (losePeer u dev).astps = u.astps.filter fun x => !decide (x.dev = dev) :=
  ⟨List.foldlRecOn _ _ h fun _ hv _ _ => peersLost_answer dev hn hv,
    astps_answers dev _ (hn.sublist (h.sub.map _)) (Nat.le_refl _)⟩

theorem losePeers_spec {s : State} (hn : (s.astps.map (·.id)).Nodup) (ds : List Nat) : ∀ {u : State}, PeersLost s u →
    PeersLost s (ds.foldl losePeer u) ∧ ∀ x ∈ (ds.foldl losePeer u).astps, x ∈ u.astps ∧ x.dev ∉ ds := by
  induction ds with
  | nil => exact fun h => ⟨h, fun x hx => ⟨hx, List.not_mem_nil⟩⟩
  | cons d ds ih =>
    intro u h
    obtain ⟨hlost, hastps⟩ := losePeer_spec d hn h
    obtain ⟨hall, hnone⟩ := ih hlost
    refine ⟨hall, fun x hx => ?_⟩
    obtain ⟨hmem, hds⟩ := hnone x hx
    obtain ⟨hxu, hxd⟩ := List.mem_filter.1 (hastps ▸ hmem)
    refine ⟨hxu, fun h => ?_⟩
    rcases List.mem_cons.1 h with rfl | h
    · simp at hxd
    · exact hds h

/-- A port that is lost leaves no store that travels on it. -/
theorem losePort_spec {s : State} (hn : (s.astps.map (·.id)).Nodup) (k : Nat) :
    PeersLost s ((portPeers s k).foldl losePeer s) ∧
      ∀ x ∈ ((portPeers s k).foldl losePeer s).astps, x ∈ s.astps ∧ astpPort s x.dev ≠ some k := by
  obtain ⟨hlost, hnone⟩ := losePeers_spec hn (portPeers s k) (peersLost_refl s)
  refine ⟨hlost, fun x hx => ?_⟩
  obtain ⟨hxs, hxd⟩ := hnone x hx
  refine ⟨hxs, fun hp => hxd (List.mem_filter.2 ⟨?_, decide_eq_true hp⟩)⟩
  exact List.mem_eraseDups.2 (List.mem_map_of_mem hxs)

/-- Counting a port down changes the device block alone. -/
theorem countDown_kept (k : Nat) (u : State) : (countDown k u).astps = u.astps ∧ (countDown k u).grids = u.grids := by
  unfold countDown
  split <;> exact ⟨rfl, rfl⟩

theorem countDown_up {k : Nat} {u : State} (h : k < 32 ∧ u.dev.spanen = true ∧ portDown u k = false) :
    (countDown k u).dev.spandn = u.dev.spandn + 1 ∧ kget (countDown k u).dev.ports k = some (u.time, false) := by
  unfold countDown
  rw [if_pos h]
  exact ⟨rfl, kget_kput_same _ _ _⟩

/-! ## Power (R464, R465) -/

theorem nominalMhz_eq (f : Form) : nominalMhz f = if f = .boardE then 900 else 1000 := by
  cases f <;> rfl

theorem powerCap_set {s : State} {p : Nat} (h : (s.dev.caps.getD p (0, false)).1 ≠ 0) :
    powerCap s p = some (s.dev.caps.getD p (0, false)).1 := if_pos h

theorem powerCap_unset {s : State} {p : Nat} (h : (s.dev.caps.getD p (0, false)).1 = 0) : powerCap s p =
    if s.dev.form = .boardE then some ((capLimit s.dev.form - capSum s s.dev.caps) /
      max 1 (s.partitions.filter fun e => decide ((s.dev.caps.getD e.1 (0, false)).1 = 0)).length) else none :=
  if_neg (not_not.2 h)

section Power

variable {s : State} {p watts : Nat} {x : Partition} (hx : kget s.partitions p = some x)
include hx

theorem powerWindow_above {cap : Nat} (hc : powerCap s p = some cap) (h : cap < watts) : exec (.powerWindow p watts) s =
    .next (if 850 < min x.clock (nominalMhz s.dev.form) then
        modPartition p (fun y => { y with clock := max 850 (min x.clock (nominalMhz s.dev.form) - 25) }) s
      else setCaphit p (modPartition p (fun y => { y with throttled := true }) s)) := by
  show execPowerWindow p watts s = _
  rw [execPowerWindow, hx, hc]
  exact congrArg Host.Outcome.next (if_pos (decide_eq_true h))

theorem powerWindow_below (h : ∀ cap, powerCap s p = some cap → watts ≤ cap ∧ 100 * watts < 95 * cap) : exec (.powerWindow p watts) s =
    .next (modPartition p (fun y =>
      { y with clock := min (nominalMhz s.dev.form) (min x.clock (nominalMhz s.dev.form) + 25), throttled := false }) s) := by
  show execPowerWindow p watts s = _
  rw [execPowerWindow, hx]
  cases hc : powerCap s p with
  | none => rfl
  | some cap =>
    obtain ⟨hle, hlt⟩ := h cap hc
    exact congrArg Host.Outcome.next ((if_neg (by simpa using hle)).trans (if_pos (decide_eq_true hlt)))

theorem powerWindow_between {cap : Nat} (hc : powerCap s p = some cap) (h : watts ≤ cap) (h95 : 95 * cap ≤ 100 * watts) :
    exec (.powerWindow p watts) s = .next s := by
  show execPowerWindow p watts s = _
  rw [execPowerWindow, hx, hc]
  exact congrArg Host.Outcome.next ((if_neg (by simpa using h)).trans (if_neg (by simpa using h95)))

end Power

/-! ## The scrubber (R108) -/

theorem noteScrub_kept (core : Nat) (s : State) : noteScrub core s = { s with cores := (noteScrub core s).cores } := by
  unfold noteScrub
  split <;> rfl

theorem core_noteScrub {core : Nat} (h : core < 256) (s : State) :
    let times := ((s.core core).scrubs.filter fun x => decide (s.time < x + 1000000000)) ++ [s.time]
    (noteScrub core s).core core = { s.core core with
      scrubs := times, retiring := if 4096 < times.length then (s.core core).retiring.or (some 1) else (s.core core).retiring } := by
  unfold noteScrub
  rw [if_pos h, kget_modCore_same]
  rfl

theorem scrubPass_eq {s : State} {key r l found : Nat} {w : Wave} (hw : s.wave key = some w) : exec (.scrubPass key r l found) s =
    .next (if found = 2 ∧ r < w.vbound ∧ l < w.width ∧ r * 64 + l ∉ w.poison then
        s.modWave key fun w => { w with poison := w.poison ++ [r * 64 + l], flaws := w.flaws.filter (· ≠ r * 64 + l) }
      else if r * 64 + l ∈ w.flaws ∨ (found = 1 ∧ r < w.vbound ∧ l < w.width) then
        noteScrub (coreOf key) (s.modWave key fun w => { w with flaws := w.flaws.filter (· ≠ r * 64 + l) })
      else s) := by
  show execScrubPass key r l found s = _
  rw [execScrubPass, hw]
  refine congrArg Host.Outcome.next (if_congr ?_ rfl (if_congr ?_ rfl rfl))
  · simp [and_assoc]
  · simp [and_assoc]

/-! ## Full reset (R467) -/

/-- After a full reset the state is the wiped one but for the device block, which keeps its lifecycle. -/
theorem fullReset_kept (ok : Bool) (s : State) : fullReset ok s = { wipedState s with dev := (fullReset ok s).dev } ∧
    (fullReset ok s).dev.life = s.dev.life ∧ (fullReset ok s).dev.off = false ∧ (fullReset ok s).dev.dbgOpen = false := by
  unfold fullReset
  dsimp only
  split
  · exact ⟨rfl, rfl, rfl, rfl⟩
  · split <;> exact ⟨rfl, rfl, rfl, rfl⟩

theorem fullReset_blank (ok : Bool) {s : State} (h : s.dev.life = 0) : fullReset ok s = wipedState s := if_pos h

theorem fullReset_up {s : State} (h : s.dev.life ≠ 0) : fullReset true s = bringUp (wipedState s) := if_neg h

theorem fullReset_recovery {s : State} (h : s.dev.life ≠ 0) :
    fullReset false s = { wipedState s with dev := { fusedDevice s.dev with recovery := true } } := if_neg h

/-- Bring-up of a wiped device measures its image into M0. -/
theorem bringUp_wiped (s : State) : (bringUp (wipedState s)).dev.ready = true ∧ (bringUp (wipedState s)).dev.recovery = false ∧
    cellsGet 0 (bringUp (wipedState s)).dev.meas 0 =
      beNat (sha512 (beBytes 64 0 ++ beBytes 64 (s.dev.image.getD Config.shippedImage.toNat))) := by
  refine ⟨rfl, rfl, ?_⟩
  have hother : ∀ (d : Nat) (u : State), cellsGet 0 (extendMeas 1 d u).dev.meas 0 = cellsGet 0 u.dev.meas 0 := fun d u =>
    (cellsGet_put 0 u.dev.meas 1 0 _).trans (if_neg Nat.zero_ne_one)
  refine (hother _ _).trans ((cellsGet_put 0 _ 0 0 _).trans (if_pos rfl))

/-! ## The statement -/

/-- Settles O52: each event is its condition and the state its lemma gives; an event whose condition does not hold changes nothing. -/
theorem platformEvents : Obligations.PlatformEvents := by
  refine ⟨?thermal, ?retire, ?channel, fun s die temp => rfl, ?droop, ?power, fun s k => rfl, ?span, ?peer, ?cxl, ?snoop, ?nonce, ?reset,
    fun s kind hoff h0 h3 => ?_, ?provisioning, ?scrub⟩
  case thermal =>
    intro s core temp hcore
    refine ⟨fun h => congrArg Host.Outcome.next (if_neg fun h' => Nat.not_le.2 h h'.2), fun h => ?_,
      fun h => congrArg Host.Outcome.next (if_neg fun h' => Nat.not_lt.2 h h'.2), fun h => ?_⟩
    · have hu := coresOnly_modCore_noteTemp core temp (fun c => { c with tripped := true }) s
      have hhot := hot_noteTemp (core := core) (s.modCore core fun c => { c with tripped := true }) (Nat.le_trans (by omega : 105 ≤ 115) h)
      refine ⟨_, congrArg Host.Outcome.next (if_pos ⟨hcore, h⟩), tripped_noteTemp core temp true s, hhot, ?_⟩
      rw [CoresOnly, hhot] at hu
      exact hu
    · exact ⟨_, congrArg Host.Outcome.next (if_pos ⟨hcore, h⟩), tripped_noteTemp core temp false s, rfl⟩
  case retire =>
    intro s core cause
    have hexec : ∀ (h : core < 256) (hr : (s.core core).retired = false), exec (.coreRetire core cause) s =
        .next (if cause ≠ 0 ∧ (s.core core).reserved.isSome then s.modCore core fun c => { c with retiring := some cause }
          else retireCore core s) := fun h hr =>
      congrArg Host.Outcome.next (if_neg (by rw [hr]; simp [h]))
    refine ⟨fun h => congrArg Host.Outcome.next (if_pos h), fun h hr hc hres => ?_, fun h hr hc hfree => ?_⟩
    · exact ⟨_, (hexec h hr).trans (congrArg Host.Outcome.next (if_pos ⟨hc, hres⟩)), rfl, kget_modCore_same ..⟩
    · have hnow : ¬ (cause ≠ 0 ∧ (s.core core).reserved.isSome = true) := by
        rintro ⟨h0, hs⟩
        rcases hc with hc | hc
        · exact h0 hc
        · rw [hc] at hs
          cases hs
      refine ⟨_, (hexec h hr).trans (congrArg Host.Outcome.next (if_neg hnow)), ?_⟩
      obtain ⟨hcode, hlocks, htlb⟩ := zeroCore_gone core s
      by_cases hspare : (if core < 128 then s.dev.spare0 else s.dev.spare1) = 0
      · rw [retireCore_lost hfree hspare]
        obtain ⟨hdev, hcores, hic, hl1, ht⟩ := svcreq_kept 1
          { (zeroCore core s).modCore core lostCore with
            dev := { s.dev with burns := s.dev.burns + 1, lost := s.dev.lost + 1 } }
        rw [State.core, hdev, hcores, hic, hl1, ht]
        refine ⟨rfl, hcode, hlocks, htlb, fun hne => absurd hspare hne, fun _ => ⟨?_, rfl, rfl⟩⟩
        exact congrArg Core.retired (kget_modCore_same (zeroCore core s) core lostCore)
      · rw [retireCore_spare hfree hspare]
        have hnew := kget_modCore_same (zeroCore core s) core spareCore
        refine ⟨rfl, hcode, hlocks, htlb, fun _ => ⟨congrArg Core.spare hnew, congrArg Core.retired hnew, rfl, ?_⟩,
          fun h0 => absurd h0 hspare⟩
        dsimp only
        split <;> rfl
  case channel =>
    intro s stack ch
    refine ⟨fun h => congrArg Host.Outcome.next (if_pos h), fun h hs => ?_, fun h hs => ?_, _, rfl, rfl, fun x => ?_⟩
    · exact congrArg Host.Outcome.next ((if_neg (Nat.not_le.2 h)).trans (if_neg (mt List.contains_iff_mem.1 hs)))
    · exact congrArg Host.Outcome.next ((if_neg (Nat.not_le.2 h)).trans (if_pos (List.contains_iff_mem.2 hs)))
    · exact List.mem_filter.trans (and_congr_right' decide_eq_true_iff)
  case droop =>
    intro s i mv
    refine ⟨_, _, rfl, rfl, ?_, rfl, fun k => ?_, fun k => List.mem_filter.trans (and_congr_right' decide_eq_true_iff)⟩
    · by_cases h : i < 64 ∧ mv ≤ 427
      · rw [if_pos h, if_pos h]
      · rw [if_neg h, if_neg h]
    · by_cases h : i < 64 ∧ mv ≤ 427
      · rw [if_pos h]
        exact mem_addVec.trans (or_congr_right (iff_self_and.2 fun _ => h))
      · rw [if_neg h]
        exact (or_iff_left fun h' => h h'.2).symm
  case power =>
    intro s p watts x hx
    rw [← nominalMhz_eq]
    refine ⟨powerCap_set, fun h0 hf => (powerCap_unset h0).trans (if_neg hf), fun h0 hf => ?_, fun cap hc h hclock => ?_,
      fun cap hc h hclock => ?_, powerWindow_below hx, fun cap hc h h95 => powerWindow_between hx hc h h95⟩
    · rw [powerCap_unset h0, if_pos hf, hf]
      rfl
    · exact (powerWindow_above hx hc h).trans (congrArg Host.Outcome.next (if_pos hclock))
    · refine ⟨_, (powerWindow_above hx hc h).trans (congrArg Host.Outcome.next (if_neg (Nat.not_lt.2 hclock))), ?_, fun hp => ?_⟩
      · exact (kget_kmod_same _ _ _).trans (congrArg (Option.map _) hx)
      · exact List.getElem?_set_self hp
  case span =>
    intro s k
    refine ⟨fun h => ?_, fun hk hen hup hn => ?_, fun h => ?_, fun h => congrArg Host.Outcome.next (if_pos h),
      fun t r h => ⟨fun hr => ?_, fun hen hr ht => ?_⟩⟩
    · have hcond : ¬ (k < 32 ∧ s.dev.spanen = true ∧ portDown s k = false) := by
        rintro ⟨hk, hen, hp⟩
        rcases h with h | h | h
        · omega
        · rw [h] at hen
          cases hen
        · rw [portDown, h] at hp
          cases hp
      exact ⟨congrArg Host.Outcome.next (if_neg hcond), congrArg Host.Outcome.next (if_neg hcond)⟩
    · have hcond : k < 32 ∧ s.dev.spanen = true ∧ portDown s k = false := ⟨hk, hen, by rw [portDown, hup]; rfl⟩
      obtain ⟨hlost, hgone⟩ := losePort_spec hn k
      have hdown : ∀ u : State, u.dev = s.dev → u.time = s.time →
          (countDown k u).dev.spandn = s.dev.spandn + 1 ∧ kget (countDown k u).dev.ports k = some (s.time, false) := by
        intro u hu ht
        rw [← hu, ← ht]
        exact countDown_up (by rw [portDown, hu]; exact hcond)
      refine ⟨⟨_, rfl, hdown s rfl rfl⟩, _, congrArg Host.Outcome.next (if_pos hcond), hdown _ hlost.dev hlost.time, ?_⟩
      rw [(countDown_kept k _).1, (countDown_kept k _).2]
      refine ⟨fun x hx => (hgone x hx).2, fun x hx hp g hg hs => ?_⟩
      obtain ⟨g', hg', ⟨_, hall⟩ | hst⟩ := hlost.status x.grid g hg hs
      · exact absurd hp (hgone x (hall x hx rfl)).2
      · exact ⟨g', hg', hst⟩
    · refine congrArg Host.Outcome.next ((if_pos rfl).trans (if_neg ?_))
      rw [portDown, h]
      exact Bool.false_ne_true
    · refine congrArg Host.Outcome.next (if_neg ?_)
      rw [portOverdue, h]
      rcases hr with hr | hr | hr <;> simp [hr]
    · have hdue : portOverdue s k = true := by
        rw [portOverdue, h]
        simp [hen, hr, ht]
      refine ⟨_, congrArg Host.Outcome.next (if_pos hdue), ?_⟩
      rw [(svcreq_kept _ _).1]
      exact ⟨rfl, (kget_kmod_same _ _ _).trans (congrArg (Option.map _) h)⟩
  case peer =>
    intro s kind addr data size
    refine ⟨fun h => congrArg Host.Outcome.next (if_neg ?_), fun h => ⟨_, congrArg Host.Outcome.next (if_pos ?_), rfl,
      fun i hi vw hvw => physRead_physWrite hi hvw⟩⟩
    · simpa [and_assoc] using h
    · simpa [and_assoc] using h
  case cxl =>
    intro s addr byte
    refine ⟨rfl, fun h => congrArg Host.Outcome.next (if_pos ?_),
      fun hh ha => ⟨_, congrArg Host.Outcome.next (if_neg ?_), rfl, fun vw hvw => ?_⟩⟩
    · simpa using h
    · simp [hh, ha]
    · have hread := physRead_physWrite (size := 1) (data := byte) Nat.one_pos hvw
      rwa [Nat.pow_zero, Nat.div_one] at hread
  case snoop =>
    intro s addr hn
    refine ⟨_, rfl, fun x hx => ?_, fun vw m a h tag => physRead_performStores hn h tag⟩
    obtain ⟨y, n, -, hy, rfl⟩ := performStores_unchosen hx
    exact hy
  case nonce =>
    intro s n d h
    refine congrArg Host.Outcome.next ?_
    rw [nonceOld, h]
    exact if_congr decide_eq_true_iff rfl rfl
  case reset =>
    intro s kind h
    have hgo : exec (.fullReset kind) s = .next (fullReset (kind != 3) s) := by
      refine congrArg Host.Outcome.next (if_neg ?_)
      rcases h with h | h | h <;> simp [h]
    obtain ⟨hrest, hlife, hoff, hdbg⟩ := fullReset_kept (kind != 3) s
    refine ⟨_, hgo, ?_⟩
    rw [hlife, hoff, hdbg]
    refine ⟨?_, ?_, ?_, ?_, ?_, ?_, ?_, ?_, ?_, ?_, rfl, rfl, rfl, fun hl hk => ?_, fun hl hk => ?_, fun hl => ?_⟩
    iterate 10 (rw [hrest]; rfl)
    · have hk' : (kind != 3) = true := by simpa using hk
      rw [hk', fullReset_up hl]
      exact bringUp_wiped s
    · have hk' : (kind != 3) = false := by simpa using hk
      rw [hk', fullReset_recovery hl]
      exact ⟨rfl, rfl⟩
    · rw [fullReset_blank _ hl]
      rfl
  case provisioning =>
    intro s
    refine ⟨fun h => congrArg Host.Outcome.next (if_neg h), fun h => ⟨_, congrArg Host.Outcome.next (if_pos h), rfl, rfl, rfl, rfl⟩⟩
  case scrub =>
    intro s key r l found w hw
    refine ⟨fun h => ?_, fun hf hr hl hp => ?_⟩
    · have hmark : ¬ (found = 2 ∧ r < w.vbound ∧ l < w.width ∧ r * 64 + l ∉ w.poison) := by
        rintro ⟨hf, hr, hl, hp⟩
        rcases h with h | h | h | h
        · exact h hf
        · omega
        · omega
        · exact hp h
      have hexec := (scrubPass_eq (r := r) (l := l) (found := found) hw).trans (congrArg Host.Outcome.next (if_neg hmark))
      refine ⟨fun hk hf => hexec.trans (congrArg Host.Outcome.next (if_neg ?_)), fun hk =>
        ⟨_, hexec.trans (congrArg Host.Outcome.next (if_pos hk)), noteScrub_kept _ _, fun hc => core_noteScrub hc _⟩⟩
      rintro (hk' | ⟨hf', hr, hl⟩)
      · exact hk hk'
      · rcases hf with hf | hf | hf
        · exact hf hf'
        · omega
        · omega
    · exact (scrubPass_eq hw).trans (congrArg Host.Outcome.next (if_pos ⟨hf, hr, hl, hp⟩))
  · refine congrArg Host.Outcome.next (if_pos ?_)
    simp [hoff, h0, h3]

end Sys2Proof.Proofs
end

section
/-! The encoder and the decoder agree (R73, R75, R92). Each constructor's round trip stands in the laws; here is the other direction: the fields of a
word make the word again, and what a major's decoder answers has, field by field, the word that it was given. -/

namespace Sys2Proof.Proofs

open Sys2Proof.Laws

/-! ## The fields make the word (R73, R75) -/

/-- Two strings put together, as a number. -/
theorem toNat_append_eq {m n : Nat} (x : BitVec m) (y : BitVec n) : (x ++ y).toNat = x.toNat * 2 ^ n + y.toNat := by
  rw [BitVec.toNat_append, ← Nat.shiftLeft_add_eq_or_of_lt y.isLt, Nat.shiftLeft_eq]

/-- A part of a string, as a number. -/
theorem toNat_extract_eq {n : Nat} (x : BitVec n) (s k : Nat) : (x.extractLsb' s k).toNat = x.toNat / 2 ^ s % 2 ^ k := by
  rw [BitVec.extractLsb'_toNat, Nat.shiftRight_eq_div_pow]

/-- B as a number: the highest bit. -/
theorem toNat_ofBool_fieldZ (w : Word) : (BitVec.ofBool (fieldZ w)).toNat = w.toNat / 2 ^ 31 := by
  have := w.isLt
  rw [fieldZ, BitVec.toNat_ofBool, BitVec.getLsbD, Nat.testBit_eq_decide_div_mod_eq]
  by_cases h : w.toNat / 2 ^ 31 % 2 = 1
  · simp only [h, decide_true, Bool.toNat_true]; omega
  · simp only [h, decide_false, Bool.toNat_false]; omega

/-- A word is made of its fields, in each format. -/
theorem wordA_fields (w : Word) : wordA (fieldZ w) (fieldMaj w) (fieldD w) (fieldA w) (fieldB w) (fieldF w) = w := by
  apply BitVec.eq_of_toNat_eq
  simp only [wordA, toNat_append_eq, toNat_ofBool_fieldZ, fieldMaj, fieldD, fieldA, fieldB, fieldF, toNat_extract_eq]
  omega

theorem wordS_fields (w : Word) : wordS (fieldZ w) (fieldMaj w) (fieldD w) (fieldSel w) (fieldF w) = w := by
  apply BitVec.eq_of_toNat_eq
  simp only [wordS, toNat_append_eq, toNat_ofBool_fieldZ, fieldMaj, fieldD, fieldSel, fieldF, toNat_extract_eq]
  omega

theorem wordM_fields (w : Word) : wordM (fieldZ w) (fieldMaj w) (fieldT w) (fieldMA w) (fieldMB w) (fieldMV w) (fieldF w) = w := by
  apply BitVec.eq_of_toNat_eq
  simp only [wordM, toNat_append_eq, toNat_ofBool_fieldZ, fieldMaj, fieldT, fieldMA, fieldMB, fieldMV, fieldF, toNat_extract_eq]
  omega

theorem wordJ18_fields (w : Word) : wordJ18 (fieldZ w) (fieldMaj w) (fieldD w) (fieldO18 w) = w := by
  apply BitVec.eq_of_toNat_eq
  simp only [wordJ18, toNat_append_eq, toNat_ofBool_fieldZ, fieldMaj, fieldD, fieldO18, toNat_extract_eq]
  omega

theorem wordJ25_fields (w : Word) : wordJ25 (fieldZ w) (fieldMaj w) (fieldO25 w) = w := by
  apply BitVec.eq_of_toNat_eq
  simp only [wordJ25, toNat_append_eq, toNat_ofBool_fieldZ, fieldMaj, fieldO25, toNat_extract_eq]
  omega

/-! ## What each major decodes to has the word that was decoded (R75, R92) -/

/-- Where a word decodes to an instruction, the word is the one of that instruction. -/
structure Encodes (w : Word) (r : Except Reject Instr) : Prop where
  word : ∀ i, r = .ok i → encode i = some w

theorem encodes_error (w : Word) (e : Reject) : Encodes w (.error e) := by
  constructor
  rintro _ ⟨⟩

/-- The word of the instruction is the one that was decoded when each field of the two is the same number. -/
theorem encodes_wordA {i : Instr} {z : Bool} {m m' : BitVec 6} {d a b d' a' b' : BitVec 7} {f f' : BitVec 4}
    (h : encode i = some (wordA z m d a b f))
    (hf : m.toNat = m'.toNat ∧ d.toNat = d'.toNat ∧ a.toNat = a'.toNat ∧ b.toNat = b'.toNat ∧ f.toNat = f'.toNat) :
    Encodes (wordA z m' d' a' b' f') (.ok i) := by
  simp only [BitVec.toNat_inj] at hf
  obtain ⟨rfl, rfl, rfl, rfl, rfl⟩ := hf
  constructor
  rintro _ ⟨⟩
  exact h

theorem encodes_wordS {i : Instr} {z : Bool} {m m' : BitVec 6} {d d' : BitVec 7} {s s' : BitVec 14} {f f' : BitVec 4}
    (h : encode i = some (wordS z m d s f))
    (hf : m.toNat = m'.toNat ∧ d.toNat = d'.toNat ∧ s.toNat = s'.toNat ∧ f.toNat = f'.toNat) :
    Encodes (wordS z m' d' s' f') (.ok i) := by
  simp only [BitVec.toNat_inj] at hf
  obtain ⟨rfl, rfl, rfl, rfl⟩ := hf
  constructor
  rintro _ ⟨⟩
  exact h

theorem encodes_wordM {i : Instr} {z : Bool} {m m' : BitVec 6} {t t' : BitVec 3} {a b a' b' : BitVec 7} {v f v' f' : BitVec 4}
    (h : encode i = some (wordM z m t a b v f))
    (hf : m.toNat = m'.toNat ∧ t.toNat = t'.toNat ∧ a.toNat = a'.toNat ∧ b.toNat = b'.toNat ∧ v.toNat = v'.toNat ∧ f.toNat = f'.toNat) :
    Encodes (wordM z m' t' a' b' v' f') (.ok i) := by
  simp only [BitVec.toNat_inj] at hf
  obtain ⟨rfl, rfl, rfl, rfl, rfl, rfl⟩ := hf
  constructor
  rintro _ ⟨⟩
  exact h

theorem encodes_wordJ18 {i : Instr} {z : Bool} {m m' : BitVec 6} {a a' : BitVec 7} {o o' : BitVec 18}
    (h : encode i = some (wordJ18 z m a o)) (hf : m.toNat = m'.toNat ∧ a.toNat = a'.toNat ∧ o.toNat = o'.toNat) :
    Encodes (wordJ18 z m' a' o') (.ok i) := by
  simp only [BitVec.toNat_inj] at hf
  obtain ⟨rfl, rfl, rfl⟩ := hf
  constructor
  rintro _ ⟨⟩
  exact h

theorem encodes_wordJ25 {i : Instr} {z : Bool} {m m' : BitVec 6} {o o' : BitVec 25}
    (h : encode i = some (wordJ25 z m o)) (hf : m.toNat = m'.toNat ∧ o.toNat = o'.toNat) : Encodes (wordJ25 z m' o') (.ok i) := by
  simp only [BitVec.toNat_inj] at hf
  obtain ⟨rfl, rfl⟩ := hf
  constructor
  rintro _ ⟨⟩
  exact h

/-- Integer, float, conversion, cross-lane and special-function words. -/
theorem encodes_arithmetic (z : Bool) (m : BitVec 6) (d a b : BitVec 7) (f : BitVec 4) :
    (m.toNat = 0x01 → Encodes (wordA z m d a b f) (decodeMaj01 z d a b f)) ∧
    (m.toNat = 0x02 → Encodes (wordA z m d a b f) (decodeMaj02 z d a b f)) ∧
    (m.toNat = 0x03 → Encodes (wordA z m d a b f) (decodeMaj03 z d a b f)) ∧
    (m.toNat = 0x04 → Encodes (wordA z m d a b f) (decodeMaj04 z d a b f)) ∧
    (m.toNat = 0x05 → Encodes (wordA z m d a b f) (decodeMaj05 z d a b f)) ∧
    (m.toNat = 0x06 → Encodes (wordA z m d a b f) (decodeMaj06 z d a b f)) ∧
    (m.toNat = 0x07 → Encodes (wordA z m d a b f) (decodeMaj07 z d a b f)) ∧
    (m.toNat = 0x08 → Encodes (wordA z m d a b f) (decodeMaj08 z d a b f)) ∧
    (m.toNat = 0x09 → Encodes (wordA z m d a b f) (decodeMaj09 z d a b f)) ∧
    (m.toNat = 0x0A → Encodes (wordA z m d a b f) (decodeMaj0A z d a b f)) ∧
    (m.toNat = 0x0B → Encodes (wordA z m d a b f) (decodeMaj0B z d a b f)) ∧
    (m.toNat = 0x0C → Encodes (wordA z m d a b f) (decodeMaj0C z d a b f)) ∧
    (m.toNat = 0x0D → Encodes (wordA z m d a b f) (decodeMaj0D z d a b f)) ∧
    (m.toNat = 0x0E → Encodes (wordA z m d a b f) (decodeMaj0E z d a b f)) ∧
    (m.toNat = 0x0F → Encodes (wordA z m d a b f) (decodeMaj0F z d a b f)) := by
  unfold decodeMaj01 decodeMaj02 decodeMaj03 decodeMaj04 decodeMaj05 decodeMaj06 decodeMaj07 decodeMaj08 decodeMaj09 decodeMaj0A decodeMaj0B
    decodeMaj0C decodeMaj0D decodeMaj0E decodeMaj0F
  and_intros
  all_goals
    intro _
    repeat' split
  any_goals exact encodes_error ..
  all_goals
    refine encodes_wordA rfl ?_
    simp only [← BitVec.toNat_inj, toNat_append_eq, toNat_extract_eq, BitVec.toNat_ofNat, imp_false, true_and] at *
    omega

/-- Memory, copy, queue, hierarchy, image, graphics and translation words. -/
theorem encodes_data (z : Bool) (m : BitVec 6) (d a b : BitVec 7) (f : BitVec 4) :
    (m.toNat = 0x13 → Encodes (wordA z m d a b f) (decodeMaj13 z d a b f)) ∧
    (m.toNat = 0x14 → Encodes (wordA z m d a b f) (decodeMaj14 z d a b f)) ∧
    (m.toNat = 0x15 → Encodes (wordA z m d a b f) (decodeMaj15 z d a b f)) ∧
    (m.toNat = 0x16 → Encodes (wordA z m d a b f) (decodeMaj16 z d a b f)) ∧
    (m.toNat = 0x17 → Encodes (wordA z m d a b f) (decodeMaj17 z d a b f)) ∧
    (m.toNat = 0x18 → Encodes (wordA z m d a b f) (decodeMaj18 z d a b f)) ∧
    (m.toNat = 0x19 → Encodes (wordA z m d a b f) (decodeMaj19 z d a b f)) ∧
    (m.toNat = 0x1B → Encodes (wordA z m d a b f) (decodeMaj1B z d a b f)) ∧
    (m.toNat = 0x1C → Encodes (wordA z m d a b f) (decodeMaj1C z d a b f)) ∧
    (m.toNat = 0x1D → Encodes (wordA z m d a b f) (decodeMaj1D z d a b f)) ∧
    (m.toNat = 0x1E → Encodes (wordA z m d a b f) (decodeMaj1E z d a b f)) ∧
    (m.toNat = 0x1F → Encodes (wordA z m d a b f) (decodeMaj1F z d a b f)) ∧
    (m.toNat = 0x2F → Encodes (wordA z m d a b f) (decodeMaj2F z d a b f)) ∧
    (m.toNat = 0x31 → Encodes (wordA z m d a b f) (decodeMaj31 z d a b f)) ∧
    (m.toNat = 0x32 → Encodes (wordA z m d a b f) (decodeMaj32 z d a b f)) ∧
    (m.toNat = 0x33 → Encodes (wordA z m d a b f) (decodeMaj33 z d a b f)) ∧
    (m.toNat = 0x34 → Encodes (wordA z m d a b f) (decodeMaj34 z d a b f)) ∧
    (m.toNat = 0x35 → Encodes (wordA z m d a b f) (decodeMaj35 z d a b f)) ∧
    (m.toNat = 0x36 → Encodes (wordA z m d a b f) (decodeMaj36 z d a b f)) ∧
    (m.toNat = 0x37 → Encodes (wordA z m d a b f) (decodeMaj37 z d a b f)) ∧
    (m.toNat = 0x38 → Encodes (wordA z m d a b f) (decodeMaj38 z d a b f)) := by
  unfold decodeMaj13 decodeMaj14 decodeMaj15 decodeMaj16 decodeMaj17 decodeMaj18 decodeMaj19 decodeMaj1B decodeMaj1C decodeMaj1D decodeMaj1E
    decodeMaj1F decodeMaj2F decodeMaj31 decodeMaj32 decodeMaj33 decodeMaj34 decodeMaj35 decodeMaj36 decodeMaj37 decodeMaj38
  and_intros
  all_goals
    intro _
    repeat' split
  any_goals exact encodes_error ..
  all_goals
    refine encodes_wordA rfl ?_
    simp only [← BitVec.toNat_inj, toNat_append_eq, toNat_extract_eq, BitVec.toNat_ofNat, imp_false, true_and, and_true] at *
    omega

/-- Fences, flow, MODE, registers, waits, counters and control-mode words. -/
theorem encodes_control (z : Bool) (m : BitVec 6) (d : BitVec 7) (s : BitVec 14) (f : BitVec 4) :
    (m.toNat = 0x1A → Encodes (wordS z m d s f) (decodeMaj1A z d s f)) ∧
    (m.toNat = 0x25 → Encodes (wordS z m d s f) (decodeMaj25 z d s f)) ∧
    (m.toNat = 0x26 → Encodes (wordS z m d s f) (decodeMaj26 z d s f)) ∧
    (m.toNat = 0x27 → Encodes (wordS z m d s f) (decodeMaj27 z d s f)) ∧
    (m.toNat = 0x28 → Encodes (wordS z m d s f) (decodeMaj28 z d s f)) ∧
    (m.toNat = 0x29 → Encodes (wordS z m d s f) (decodeMaj29 z d s f)) ∧
    (m.toNat = 0x2A → Encodes (wordS z m d s f) (decodeMaj2A z d s f)) ∧
    (m.toNat = 0x2B → Encodes (wordS z m d s f) (decodeMaj2B z d s f)) ∧
    (m.toNat = 0x2C → Encodes (wordS z m d s f) (decodeMaj2C z d s f)) ∧
    (m.toNat = 0x2D → Encodes (wordS z m d s f) (decodeMaj2D z d s f)) ∧
    (m.toNat = 0x2E → Encodes (wordS z m d s f) (decodeMaj2E z d s f)) ∧
    (m.toNat = 0x30 → Encodes (wordS z m d s f) (decodeMaj30 z d s f)) ∧
    (m.toNat = 0x39 → Encodes (wordS z m d s f) (decodeMaj39 z d s f)) := by
  unfold decodeMaj1A decodeMaj25 decodeMaj26 decodeMaj27 decodeMaj28 decodeMaj29 decodeMaj2A decodeMaj2B decodeMaj2C decodeMaj2D decodeMaj2E
    decodeMaj30 decodeMaj39
  and_intros
  all_goals
    intro _
    repeat' split
  any_goals exact encodes_error ..
  all_goals
    refine encodes_wordS rfl ?_
    simp only [← BitVec.toNat_inj, toNat_append_eq, toNat_extract_eq, BitVec.toNat_ofNat, imp_false, true_and] at *
    omega

/-- Matrix words. -/
theorem encodes_matrix (z : Bool) (m : BitVec 6) (t : BitVec 3) (a b : BitVec 7) (v f : BitVec 4) :
    (m.toNat = 0x10 → Encodes (wordM z m t a b v f) (decodeMaj10 z t a b v f)) ∧
    (m.toNat = 0x11 → Encodes (wordM z m t a b v f) (decodeMaj11 z t a b v f)) ∧
    (m.toNat = 0x12 → Encodes (wordM z m t a b v f) (decodeMaj12 z t a b v f)) := by
  unfold decodeMaj10 decodeMaj11 decodeMaj12
  and_intros
  all_goals
    intro _
    repeat' split
  any_goals exact encodes_error ..
  all_goals
    refine encodes_wordM rfl ?_
    simp only [← BitVec.toNat_inj, toNat_append_eq, toNat_extract_eq, BitVec.toNat_ofNat, imp_false, true_and, and_true] at *
    omega

/-- The branches of format J18. -/
theorem encodes_branch (z : Bool) (m : BitVec 6) (a : BitVec 7) (o : BitVec 18) :
    (m.toNat = 0x22 → Encodes (wordJ18 z m a o) (decodeMaj22 z a o)) ∧
    (m.toNat = 0x23 → Encodes (wordJ18 z m a o) (decodeMaj23 z a o)) ∧
    (m.toNat = 0x24 → Encodes (wordJ18 z m a o) (decodeMaj24 z a o)) :=
  ⟨fun h => encodes_wordJ18 rfl ⟨h.symm, rfl, rfl⟩, fun h => encodes_wordJ18 rfl ⟨h.symm, rfl, rfl⟩,
    fun h => encodes_wordJ18 rfl ⟨h.symm, rfl, rfl⟩⟩

/-- NOP, the long branches and the prefixes; KX and KXW have no B (R84). -/
theorem encodes_long (z : Bool) (m : BitVec 6) (o : BitVec 25) :
    (m.toNat = 0x00 → Encodes (wordJ25 z m o) (decodeMaj00 z o)) ∧
    (m.toNat = 0x20 → Encodes (wordJ25 z m o) (decodeMaj20 z o)) ∧
    (m.toNat = 0x21 → Encodes (wordJ25 z m o) (decodeMaj21 z o)) ∧
    (m.toNat = 0x3E → Encodes (wordJ25 z m o) (decodeMaj3E z o)) ∧
    (m.toNat = 0x3F → Encodes (wordJ25 z m o) (decodeMaj3F z o)) := by
  unfold decodeMaj00 decodeMaj3E decodeMaj3F
  refine ⟨fun h => ?_, fun h => encodes_wordJ25 rfl ⟨h.symm, rfl⟩, fun h => encodes_wordJ25 rfl ⟨h.symm, rfl⟩, fun h => ?_, fun h => ?_⟩
  all_goals split
  any_goals exact encodes_error ..
  · next ho => exact encodes_wordJ25 rfl ⟨h.symm, by rw [ho]⟩
  · next hzo =>
    obtain ⟨rfl, ho⟩ := hzo
    refine encodes_wordJ25 rfl ⟨h.symm, ?_⟩
    simp only [← BitVec.toNat_inj, toNat_append_eq, toNat_extract_eq, BitVec.toNat_ofNat] at *
    omega
  · next hz =>
    subst hz
    exact encodes_wordJ25 rfl ⟨h.symm, rfl⟩

/-- No bit of a word is dropped: the word that decodes to an instruction is the one that the encoder gives for it. -/
theorem encodes_decode (w : Word) : Encodes w (decode w) := by
  have hA := encodes_arithmetic (fieldZ w) (fieldMaj w) (fieldD w) (fieldA w) (fieldB w) (fieldF w)
  have hD := encodes_data (fieldZ w) (fieldMaj w) (fieldD w) (fieldA w) (fieldB w) (fieldF w)
  have hS := encodes_control (fieldZ w) (fieldMaj w) (fieldD w) (fieldSel w) (fieldF w)
  have hM := encodes_matrix (fieldZ w) (fieldMaj w) (fieldT w) (fieldMA w) (fieldMB w) (fieldMV w) (fieldF w)
  have hB := encodes_branch (fieldZ w) (fieldMaj w) (fieldD w) (fieldO18 w)
  have hL := encodes_long (fieldZ w) (fieldMaj w) (fieldO25 w)
  simp only [wordA_fields, wordS_fields, wordM_fields, wordJ18_fields, wordJ25_fields] at hA hD hS hM hB hL
  obtain ⟨h01, h02, h03, h04, h05, h06, h07, h08, h09, h0A, h0B, h0C, h0D, h0E, h0F⟩ := hA
  obtain ⟨h13, h14, h15, h16, h17, h18, h19, h1B, h1C, h1D, h1E, h1F, h2F, h31, h32, h33, h34, h35, h36, h37, h38⟩ := hD
  obtain ⟨h1A, h25, h26, h27, h28, h29, h2A, h2B, h2C, h2D, h2E, h30, h39⟩ := hS
  obtain ⟨h10, h11, h12⟩ := hM
  obtain ⟨h22, h23, h24⟩ := hB
  obtain ⟨h00, h20, h21, h3E, h3F⟩ := hL
  unfold decode
  split
  all_goals rename_i hm
  exacts [h00 hm, h01 hm, h02 hm, h03 hm, h04 hm, h05 hm, h06 hm, h07 hm, h08 hm, h09 hm, h0A hm, h0B hm, h0C hm, h0D hm, h0E hm, h0F hm, h10 hm, h11 hm,
    h12 hm, h13 hm, h14 hm, h15 hm, h16 hm, h17 hm, h18 hm, h19 hm, h1A hm, h1B hm, h1C hm, h1D hm, h1E hm, h1F hm, h20 hm, h21 hm, h22 hm, h23 hm,
    h24 hm, h25 hm, h26 hm, h27 hm, h28 hm, h29 hm, h2A hm, h2B hm, h2C hm, h2D hm, h2E hm, h2F hm, h30 hm, h31 hm, h32 hm, h33 hm, h34 hm, h35 hm,
    h36 hm, h37 hm, h38 hm, h39 hm, h3E hm, h3F hm, encodes_error ..]

/-- Decoding the word of any instruction gives the instruction. -/
theorem decode_encode (i : Instr) : RoundTrip.Statement i :=
  Instr.casesOn i
    RoundTrip.nop RoundTrip.iadd RoundTrip.isub RoundTrip.imul RoundTrip.imulh RoundTrip.imin RoundTrip.imax RoundTrip.ineg RoundTrip.iabs
    RoundTrip.and RoundTrip.or RoundTrip.xor RoundTrip.andn RoundTrip.shl RoundTrip.shr RoundTrip.sar RoundTrip.rot RoundTrip.clz RoundTrip.ctz
    RoundTrip.popc RoundTrip.brev RoundTrip.bil3 RoundTrip.bdil3 RoundTrip.bil2 RoundTrip.bdil2 RoundTrip.bfx RoundTrip.bfxs RoundTrip.bfi
    RoundTrip.mov RoundTrip.sel RoundTrip.perm RoundTrip.imad RoundTrip.imadh RoundTrip.idot4 RoundTrip.isad RoundTrip.icmpEq RoundTrip.icmpNe
    RoundTrip.icmpLt RoundTrip.icmpLe RoundTrip.icmpGt RoundTrip.icmpGe RoundTrip.icmpLtn RoundTrip.icmpLen RoundTrip.icmpGtn RoundTrip.icmpGen
    RoundTrip.icmpTstz RoundTrip.icmpTstnz RoundTrip.add64 RoundTrip.sub64 RoundTrip.lea1 RoundTrip.lea2 RoundTrip.lea4 RoundTrip.lea8
    RoundTrip.lea16 RoundTrip.mov64 RoundTrip.shl64 RoundTrip.shr64 RoundTrip.modeEt RoundTrip.modeEt2 RoundTrip.modeRnd RoundTrip.modeSat
    RoundTrip.modeFtz RoundTrip.modeGuard RoundTrip.modeFreg RoundTrip.modeSpl RoundTrip.modeUtrap RoundTrip.modeWord RoundTrip.sread
    RoundTrip.swrite RoundTrip.gread RoundTrip.gwrite RoundTrip.gxchg RoundTrip.gadd RoundTrip.rgn RoundTrip.rgnadd RoundTrip.kx RoundTrip.kxw
    RoundTrip.fadd RoundTrip.fsub RoundTrip.fmul RoundTrip.fmin RoundTrip.fmax RoundTrip.fabs RoundTrip.fneg RoundTrip.fcls RoundTrip.fminm
    RoundTrip.fmaxm RoundTrip.frnd RoundTrip.fscl RoundTrip.fcpy RoundTrip.ffma RoundTrip.ffms RoundTrip.fnma RoundTrip.fcmpEq RoundTrip.fcmpNe
    RoundTrip.fcmpLt RoundTrip.fcmpLe RoundTrip.fcmpGt RoundTrip.fcmpGe RoundTrip.fcmpUn RoundTrip.fcmpOrd RoundTrip.cvt RoundTrip.cvtz
    RoundTrip.cvts RoundTrip.pack2 RoundTrip.unpk RoundTrip.unpkh RoundTrip.nrw RoundTrip.wide RoundTrip.wide4 RoundTrip.scaleof RoundTrip.setsc
    RoundTrip.shfl RoundTrip.shflx RoundTrip.shflu RoundTrip.shfld RoundTrip.bcst RoundTrip.qswz RoundTrip.ballot RoundTrip.vote RoundTrip.redadd
    RoundTrip.redmin RoundTrip.redmax RoundTrip.redand RoundTrip.redor RoundTrip.redxor RoundTrip.scanadd RoundTrip.scanaddx RoundTrip.rcp
    RoundTrip.rsq RoundTrip.sqrt RoundTrip.exp2 RoundTrip.log2 RoundTrip.sin RoundTrip.cos RoundTrip.tanh RoundTrip.sigm RoundTrip.erf
    RoundTrip.silu RoundTrip.atan RoundTrip.sfnResult RoundTrip.mma RoundTrip.mmat RoundTrip.mmatSp RoundTrip.aclr RoundTrip.amovr RoundTrip.amovw
    RoundTrip.ascl RoundTrip.matrixComplete RoundTrip.ld RoundTrip.st RoundTrip.ldv RoundTrip.ldx RoundTrip.stx RoundTrip.loadWriteback
    RoundTrip.atomAdd RoundTrip.atomMin RoundTrip.atomMax RoundTrip.atomMinn RoundTrip.atomMaxn RoundTrip.atomAnd RoundTrip.atomOr RoundTrip.atomXor
    RoundTrip.atomXchg RoundTrip.atomCas RoundTrip.atomFadd RoundTrip.atomIncw RoundTrip.atomFmin RoundTrip.fput RoundTrip.fputT RoundTrip.ftake
    RoundTrip.ftakeN RoundTrip.fpeek RoundTrip.fclr RoundTrip.fenceAcq RoundTrip.fenceRel RoundTrip.fenceAr RoundTrip.fenceSc RoundTrip.pref
    RoundTrip.pref2 RoundTrip.clock1 RoundTrip.clock2 RoundTrip.cunlk1 RoundTrip.cunlk2 RoundTrip.cwb RoundTrip.cinv RoundTrip.cwbinv
    RoundTrip.isync RoundTrip.copy RoundTrip.ccvt RoundTrip.csum RoundTrip.cfill RoundTrip.agath RoundTrip.astp RoundTrip.astpAck
    RoundTrip.copySectorDeliver RoundTrip.copyComplete RoundTrip.togenL RoundTrip.togenS RoundTrip.togenC RoundTrip.fromgenL RoundTrip.fromgenS
    RoundTrip.fromgenC RoundTrip.isspc RoundTrip.bra RoundTrip.call RoundTrip.brw RoundTrip.brwz RoundTrip.brd RoundTrip.jmpi RoundTrip.ret
    RoundTrip.calli RoundTrip.missSplit RoundTrip.rcv RoundTrip.rcvW RoundTrip.rcvDeadline RoundTrip.fusedead RoundTrip.endW RoundTrip.trap
    RoundTrip.bkpt RoundTrip.eret RoundTrip.yield RoundTrip.role RoundTrip.sleep RoundTrip.sleepExpiry RoundTrip.ifW RoundTrip.ifS RoundTrip.elseW
    RoundTrip.endif RoundTrip.loops RoundTrip.brk RoundTrip.cont RoundTrip.endls RoundTrip.loop RoundTrip.lexit RoundTrip.waitt RoundTrip.wpwait
    RoundTrip.dwait RoundTrip.vwait RoundTrip.sleepw RoundTrip.sleepwExpiry RoundTrip.bar RoundTrip.barp RoundTrip.bara RoundTrip.barw
    RoundTrip.barb RoundTrip.cstg RoundTrip.phaseResume RoundTrip.dinit RoundTrip.dexp RoundTrip.darr RoundTrip.dqry RoundTrip.time RoundTrip.pmcrd
    RoundTrip.pmcwr RoundTrip.accv RoundTrip.wprd RoundTrip.cycle RoundTrip.launch RoundTrip.launchb RoundTrip.enqr RoundTrip.rqflush
    RoundTrip.rqstat RoundTrip.evpost RoundTrip.cpoll RoundTrip.csleep RoundTrip.signal RoundTrip.csleepTimeout RoundTrip.qfetch RoundTrip.qdisp
    RoundTrip.swaitc RoundTrip.keyopGen RoundTrip.keyopBind RoundTrip.keyopUnbind RoundTrip.keyopZero RoundTrip.keyopZeroall RoundTrip.keyopSign
    RoundTrip.fuserd RoundTrip.wipe RoundTrip.wipeComplete RoundTrip.shadow RoundTrip.measx RoundTrip.shadowExchange RoundTrip.xpair
    RoundTrip.xpairEmit RoundTrip.xpairComplete RoundTrip.xray RoundTrip.xrayComplete RoundTrip.texSample RoundTrip.texGath4 RoundTrip.texLoadi
    RoundTrip.texQuery RoundTrip.cover RoundTrip.edge RoundTrip.pxtk RoundTrip.pxlk RoundTrip.pxul RoundTrip.vemit RoundTrip.tsemit
    RoundTrip.tessellate RoundTrip.primitiveRelease RoundTrip.rasterLaunch RoundTrip.atr RoundTrip.atw RoundTrip.tlbinv RoundTrip.tlbinva
    RoundTrip.pageWalk RoundTrip.issueArbitration RoundTrip.agemaxReached RoundTrip.workgroupPlace RoundTrip.weightClassUpdate
    RoundTrip.budgetExceeded RoundTrip.predlExpiry RoundTrip.hardwareSave RoundTrip.gridComplete RoundTrip.packetFetch RoundTrip.launchPacket
    RoundTrip.bundle RoundTrip.draw RoundTrip.copysched RoundTrip.signalPacket RoundTrip.waitsig RoundTrip.waitsigPoll RoundTrip.waitsigTimeout
    RoundTrip.swaitcTimeout RoundTrip.timestamp RoundTrip.eventPacket RoundTrip.qbarrier RoundTrip.configAgemax RoundTrip.configPredl
    RoundTrip.configLkquota RoundTrip.configL2Ways RoundTrip.configLlcWays RoundTrip.partctlPreempt RoundTrip.partctlSwapout RoundTrip.partctlSwapin
    RoundTrip.partctlWipe RoundTrip.partctlKeybind RoundTrip.partctlKeyzero RoundTrip.eventHoldmax RoundTrip.msixSend RoundTrip.qtailWrite
    RoundTrip.queueEnable RoundTrip.queueDisable RoundTrip.queueStopped RoundTrip.queueReset RoundTrip.queueResetComplete RoundTrip.eqlostRead
    RoundTrip.trlostRead RoundTrip.frackWrite RoundTrip.spanEnable RoundTrip.spanDisable RoundTrip.capWrite RoundTrip.registerWrite RoundTrip.fwload
    RoundTrip.attest RoundTrip.challenge RoundTrip.unlock RoundTrip.relock RoundTrip.setpriv RoundTrip.lifecycle RoundTrip.partdef
    RoundTrip.partundef RoundTrip.ctxdef RoundTrip.ctxundef RoundTrip.nonceExpiry RoundTrip.stop RoundTrip.resume RoundTrip.step RoundTrip.rdreg
    RoundTrip.wrreg RoundTrip.drop RoundTrip.bpen RoundTrip.report RoundTrip.memrd RoundTrip.memwr RoundTrip.traceSummaryTimer RoundTrip.replayPass
    RoundTrip.scrubPass RoundTrip.coreRetire RoundTrip.pseudoChannelFail RoundTrip.pseudoChannelCopyDone RoundTrip.coreThermalTrip
    RoundTrip.coreThermalRecover RoundTrip.packageThermalTrip RoundTrip.droopStretch RoundTrip.powerWindow RoundTrip.fullReset RoundTrip.flitRetry
    RoundTrip.spanPortDown RoundTrip.spanDownSvcreq RoundTrip.peerRequest RoundTrip.cxlmemRead RoundTrip.cxlmemWrite RoundTrip.writePerformed
    RoundTrip.frheadWrite RoundTrip.provisioning RoundTrip.droopStretchEnd RoundTrip.spanPortTrained RoundTrip.hostSnoop RoundTrip.msixUnmask

/-- Settles O57: each constructor's round trip, and each major's words from their fields. -/
theorem decodeEncode : Obligations.DecodeEncode :=
  ⟨decode_encode, fun w => (encodes_decode w).word⟩

/-! ## Words that are refused (R89, R90) -/

theorem decode_reservedMajor {w : Word} (hl : 0x3A ≤ (fieldMaj w).toNat) (hh : (fieldMaj w).toNat ≤ 0x3D) : decode w = .error .major := by
  unfold decode
  interval_cases (fieldMaj w).toNat <;> rfl

theorem decode_zeroMajor {w : Word} (h : fieldMaj w = 0#6) (ho : fieldO25 w ≠ 0#25) : decode w = .error .major := by
  rw [decode_maj00 w h, decodeMaj00, if_neg ho]

theorem decode_reservedBitFunction {w : Word} (h : fieldMaj w = 2#6) (hf : 14 ≤ (fieldF w).toNat) : decode w = .error .func := by
  have hlt : (fieldF w).toNat < 16 := (fieldF w).isLt
  rw [decode_maj02 w h, decodeMaj02]
  interval_cases (fieldF w).toNat <;> rfl

/-- Settles O56: the words written out are evaluated, the refused ones go by their major and function. -/
theorem decodedWords : Obligations.DecodedWords :=
  ⟨by decide, by decide, by decide, by decide, by decide, by decide, by decide, by decide, by decide, by decide, by decide, by decide, by decide, by decide,
    fun _ => decode_reservedMajor, fun _ => decode_zeroMajor, fun _ => decode_reservedBitFunction⟩

end Sys2Proof.Proofs
end

section

/-! ## Privileged words outside control mode, and words with no active lane (O53) -/

namespace Sys2Proof.Proofs
open Sys2Proof.Machine Sys2Proof.Laws Sys2Proof.Safety

/-- The outcome of a privileged word, function `f` of major `maj`, outside control mode: PRIV at the first word of its group (R89, R222). -/
def TakesPriv (i : Bool → Instr) (maj f : Nat) : Prop :=
  ∀ z s c, issueCtx z s = some c → guardHits c = [] → guardPoison c = false → c.act ≠ [] → c.w.ctrl = false →
    exec (i z) s = .next (endWord c (passes c.p.n) (some 2)
      (takeTrap c.key c.q c.pc0 { cause := 2, info := BitVec.ofNat 32 (f + 256 * maj) } s))

/-- R89: a word whose checks say "privileged, function `f`" takes PRIV outside control mode, before its width and its operands are looked at.
`e` is the word's own meaning, which `he` and `hw` tie to `exec` and to the common issue of a word. -/
theorem takesPriv_word {i : Bool → Instr} {maj f : Nat} {sig : Bool → State → Ctx → Sig} {idle body : Bool → State → Ctx → State → Res}
    (e : Bool → State → Out)
    (he : ∀ z s, exec (i z) s = e z s := by intros; rfl)
    (hw : ∀ z s, e z s = issueWord z (sig z s) (idle z s) (body z s) s := by intros; rfl)
    (hn : ∀ z s c, (sig z s c).minQuads = none := by intros; rfl)
    (hs : ∀ z s c, (sig z s c).badStep = false := by intros; rfl)
    (hf : ∀ z s c, (sig z s c).priv = some f := by intros; rfl)
    (hm : ∀ z s c, (sig z s c).maj = maj := by intros; rfl)
    (h16 : f < 16 := by decide) : TakesPriv i maj f := by
  intro z s c hc hg hp ha hu
  have trap : checkSig c (sig z s c) = some { cause := 2, info := BitVec.ofNat 32 (f + 256 * maj) } := by
    simp [checkSig, hs, hf, hm, hu, Nat.mod_eq_of_lt h16]
  rw [he, hw, issueWord_trap z (sig z s) (idle z s) (body z s) s c _ hc hg hp (by simp [tooNarrow, hn]) ha trap]
  rfl

/-- A KEYOP word without registers is privileged, whatever it does to the key slots. -/
theorem takesPriv_keyop {i : Bool → Instr} {f : State → Except Nat State} {slot p : Nat} (he : ∀ z s, exec (i z) s = keyopWord z f slot p s) :
    TakesPriv i 0x39 3 :=
  takesPriv_word (sig := fun _ _ => ctrlSig 3 []) (keyopWord · f slot p) he

/-- R91: a word with no active lane only falls through, in its own cycles, when its checks ask for no width and its effect then is `idleCost`.
`e` is the word's own meaning, as in `takesPriv_word`. -/
theorem idlesFor_word {P : State → Ctx → Prop} {i : Bool → Instr} {m cost : Ctx → Nat} {sig : Bool → State → Ctx → Sig}
    {body : Bool → State → Ctx → State → Res} (e : Bool → State → Out)
    (he : ∀ z s, exec (i z) s = e z s := by intros; rfl)
    (hw : ∀ z s, e z s = issueWord z (sig z s) (idleCost m) (body z s) s := by intros; rfl)
    (hn : ∀ z s c, (sig z s c).minQuads = none := by intros; rfl)
    (hm : ∀ c, m c = cost c := by intros; rfl) : IdlesFor P i cost fun _ s => s := by
  intro z s c hc hg hp ha _
  rw [he, hw, issueWord_idle z (sig z s) (idleCost m) (body z s) s c hc hg hp (by simp [tooNarrow, hn]) ha, idleCost, hm]
  rfl

/-! ### The datapath cycles of a word (R138, R159, R177), as the statement writes them -/

theorem ialuCost_one {f : Nat} (h2 : f ≠ 2) (h3 : f ≠ 3) (c : Ctx) : ialuCost f c = 1 := by
  simp [ialuCost, h2, h3]

theorem ialuCost_mul {f : Nat} (h : f = 2 ∨ f = 3) (c : Ctx) : ialuCost f c = if c.et = 4 ∨ c.et = 5 then 4 else 1 := by
  rcases h with rfl | rfl <;> simp [ialuCost, Ctx.int64]

theorem imadCost_mul {f : Nat} (h : f = 0 ∨ f = 1) (c : Ctx) : imadCost f c = if c.et = 4 ∨ c.et = 5 then 4 else 1 := by
  rcases h with rfl | rfl <;> simp [imadCost, imadWide, Ctx.int64]

theorem f64Cost_eq (c : Ctx) : f64Cost c = if c.et = 6 then 4 else 1 := by
  simp [f64Cost, Ctx.f64]

theorem cvtCost_eq (c : Ctx) : cvtCost c = if etWide c.et ∨ etWide c.et2 then 4 else 1 := by
  simp [cvtCost]

/-- A word of the integer ALU that is no multiplication takes one pass with no active lane. -/
theorem idlesIf_ialu {P : State → Ctx → Prop} {i : Bool → Instr} {f : Nat} {sig : Bool → State → Ctx → Sig}
    {body : Bool → State → Ctx → State → Res} (e : Bool → State → Out)
    (he : ∀ z s, exec (i z) s = e z s := by intros; rfl)
    (hw : ∀ z s, e z s = issueWord z (sig z s) (idleCost (ialuCost f)) (body z s) s := by intros; rfl)
    (hn : ∀ z s c, (sig z s c).minQuads = none := by intros; rfl)
    (h2 : f ≠ 2 := by decide) (h3 : f ≠ 3 := by decide) : IdlesIf P i fun _ s => s :=
  idlesFor_word e he hw hn (ialuCost_one h2 h3)

/-- Settles O53: the sixteen privileged words are `takesPriv_word` with their function and major, and each word without a description of its
own for the empty part is `idlesFor_word` with its own cost. -/
theorem privilegeAndIdleWords : Obligations.PrivilegeAndIdleWords := by
  unfold Obligations.PrivilegeAndIdleWords
  refine ⟨?privileged, ?idle⟩
  case privileged =>
    intro d a l k p n b i e q r
    exact ⟨takesPriv_word (execPmcwr · d n), takesPriv_word (execTlbinv · d a l), takesPriv_word (execTlbinva · d l),
           takesPriv_word (execQfetch · d q), takesPriv_word (execQdisp · d b p), takesPriv_word (execSwaitc · d i e),
           takesPriv_keyop (exec_keyopGen · d p k), takesPriv_keyop (exec_keyopBind · d p k), takesPriv_keyop (exec_keyopUnbind · d p k),
           takesPriv_keyop (exec_keyopZero · d p k), takesPriv_keyop (exec_keyopZeroall · d p k), takesPriv_word (execKeyopSign · d p k),
           takesPriv_word (execFuserd · d r), takesPriv_word (execWipe · p), takesPriv_word (execShadow · b p),
           takesPriv_word (execMeasx · d k)⟩
  case idle =>
    intro d a b x k c n m l t
    refine ⟨?onePass, ?ownCost⟩
    case onePass =>
      simp only [List.cons_append, List.nil_append, List.forall_mem_cons, List.not_mem_nil, false_imp_iff, implies_true, and_true]
      exact ⟨idlesFor_word (execNop ·), idlesIf_ialu (execIadd · d a b), idlesIf_ialu (execIsub · d a b), idlesIf_ialu (execImin · d a b),
             idlesIf_ialu (execImax · d a b), idlesIf_ialu (execIneg · d a), idlesIf_ialu (execIabs · d a), idlesIf_ialu (execAnd · d a b),
             idlesIf_ialu (execOr · d a b), idlesIf_ialu (execXor · d a b), idlesIf_ialu (execAndn · d a b),
             idlesIf_ialu (execShl · d a b), idlesIf_ialu (execShr · d a b), idlesIf_ialu (execSar · d a b),
             idlesIf_ialu (execRot · d a b), idlesFor_word (execClz · d a), idlesFor_word (execCtz · d a), idlesFor_word (execPopc · d a),
             idlesFor_word (execBrev · d a), idlesFor_word (execBil3 · d a b), idlesFor_word (execBdil3 · d a b),
             idlesFor_word (execBil2 · d a b), idlesFor_word (execBdil2 · d a), idlesFor_word (execBfx · d a b),
             idlesFor_word (execBfxs · d a b), idlesFor_word (execBfi · d a b), idlesFor_word (execMov · d a),
             idlesFor_word (execSel · d a b), idlesFor_word (execPerm · d a b), idlesFor_word (execIdot4 · d a b),
             idlesFor_word (execIsad · d a b), idlesFor_word (execIcmpEq · d a b), idlesFor_word (execIcmpTstz · d a b),
             idlesFor_word (execAdd64 · d a b), idlesFor_word (execLea8 · d a b), idlesFor_word (execWide · d a b),
             idlesFor_word (execRcp · d a t), idlesFor_word (execAtan · d a t), idlesFor_word (execLd · d a b l),
             idlesFor_word (execSt · d a b l), idlesFor_word (execLdv · d a b l), idlesFor_word (execLdx · d a x k t l),
             idlesFor_word (execStx · d a k t l), idlesFor_word (execAtomAdd · d a c l), idlesFor_word (execAtomCas · d a c l),
             idlesFor_word (execFput · d a c l), idlesFor_word (execFputT · d a c l), idlesFor_word (execFtake · d a c l),
             idlesFor_word (execFtakeN · d a c l), idlesFor_word (execFpeek · d a c l), idlesFor_word (execFclr · a c l),
             idlesFor_word (execPref · a l), idlesFor_word (execClock1 · d a l), idlesFor_word (execCunlk2 · a l),
             idlesFor_word (execCwb · a l), idlesFor_word (execCinv · a l), idlesFor_word (execTogenL · d a),
             idlesFor_word (execFromgenC · d a), idlesFor_word (execIsspc · d a), idlesFor_word (execAstp · d a t l),
             idlesFor_word (execCopy · d a c x l), idlesFor_word (execCfill · d a c x l), idlesFor_word (execAgath · d a t m l),
             idlesFor_word (execGread · d 0#5), idlesFor_word (execGadd · d 0#5), idlesFor_word (execDinit · d a l),
             idlesFor_word (cntWord · (fun _ => false) (fun _ s => s.time) d), idlesFor_word (execLaunch · d a l),
             idlesFor_word (execEnqr · d a l), idlesFor_word (execEvpost · d a l), idlesFor_word (execCpoll · d a l),
             idlesFor_word (execSignal · d a l), idlesFor_word (execQfetch · d 0#10), idlesFor_word (execWipe · n),
             idlesFor_word (execXpair · d a 0#1 x x x l), idlesFor_word (execXray · d a x x l), idlesFor_word (execTexSample · d a t l),
             idlesFor_word (execPxtk · d a), idlesFor_word (execVemit · d a), idlesFor_word (execAtr · d a l),
             idlesFor_word (execTlbinva · d l), idlesFor_word (execEndW ·), idlesFor_word (execTrap · 0#14),
             idlesFor_word (execBkpt · 0#14)⟩
    case ownCost =>
      simp only [List.forall_mem_cons, List.not_mem_nil, false_imp_iff, implies_true, and_true]
      exact ⟨idlesFor_word (execImul · d a b) (hm := ialuCost_mul (by decide)),
             idlesFor_word (execImulh · d a b) (hm := ialuCost_mul (by decide)),
             idlesFor_word (execImad · d a b) (hm := imadCost_mul (by decide)),
             idlesFor_word (execImadh · d a b) (hm := imadCost_mul (by decide)), idlesFor_word (execFadd · d a b) (hm := f64Cost_eq),
             idlesFor_word (execFmul · d a b) (hm := f64Cost_eq), idlesFor_word (execFfma · d a b) (hm := f64Cost_eq),
             idlesFor_word (execFcmpLt · d a b) (hm := f64Cost_eq), idlesFor_word (execCvt · d a) (hm := cvtCost_eq),
             idlesFor_word (execCvtz · d a) (hm := cvtCost_eq), idlesFor_word (execCvts · d a) (hm := cvtCost_eq),
             idlesFor_word (execNrw · d a b x k), idlesFor_word (execWide4 · d a b), idlesFor_word (execShfl · d a b 1#1),
             idlesFor_word (execBallot · d a 1#1), idlesFor_word (execVote · d a 1#1)⟩

end Sys2Proof.Proofs
end

section

/-! ## Prefix words and MODE words (O11) -/

namespace Sys2Proof.Proofs
open Sys2Proof.Machine Sys2Proof.Laws Sys2Proof.Safety

/-! ### Prefixes (R83, R84) -/

section Prefix

variable {s : State} {c : Ctx} {maj : Nat} {bad : Part → Bool} {f : Part → Part}
  (hc : issueCtx false s = some c) (hg : guardHits c = []) (hp : guardPoison c = false)
include hc hg hp

/-- A KX or KXW that may stand here, or whose part has no active lane, is put before the word that follows. -/
theorem issuePrefix_goes (h : c.act = [] ∨ bad c.p = false) :
    issuePrefix maj bad f s = .next (s.modPart c.key c.q fun p =>
      { f p with prefixPc := some (p.prefixPc.getD p.pc), pc := p.pc + 4#32, prefixN := p.prefixN + 1 }) := by
  have hb : (!c.act.isEmpty && bad c.p) = false := by
    rcases h with h | h <;> simp [h]
  simp [issuePrefix, hc, hg, hp, hb]

/-- A KX or KXW that may not stand here raises ILLEGAL with REASON 5 at itself, not at the start of its group (log 81). -/
theorem issuePrefix_traps (ha : c.act ≠ []) (h : bad c.p = true) :
    issuePrefix maj bad f s =
      .next (endWord c (passes c.p.n) (some 2) (takeTrap c.key c.q c.p.pc { illegal maj 5 with bare := true } s)) := by
  simp [issuePrefix, hc, hg, hp, ha, h]

end Prefix

/-- KX extends its sign, or gives the low bits below those of a KXW (R83); it may follow anything but a KX. -/
theorem exec_kx (k : BitVec 25) (s : State) :
    exec (.kx k) s = issuePrefix 0x3F (fun p => p.prefixK.isSome)
      (fun p => { p with prefixK := some (match p.prefixHi with
        | some h => h ||| k.zeroExtend 32
        | none => k.signExtend 32) }) s := rfl

/-- KXW gives the high bits (R83); it may only begin a group. -/
theorem exec_kxw (h : BitVec 7) (s : State) :
    exec (.kxw h) s = issuePrefix 0x3E (fun p => p.prefixPc.isSome) (fun p => { p with prefixHi := some (h.zeroExtend 32 <<< 25) }) s := rfl

/-! ### The fields of MODE (R85, R151) -/

/-- Inside the field a bit comes from the new value, elsewhere from the old word. -/
theorem getLsbD_putField (m : Word) (lo n x : Nat) {i : Nat} (hi : i < 32) :
    (putField m lo n x).getLsbD i = if lo ≤ i ∧ i - lo < n then x.testBit (i - lo) else m.getLsbD i := by
  have mask : (BitVec.ofNat 32 ((2 ^ n - 1) * 2 ^ lo)).getLsbD i = decide (lo ≤ i ∧ i - lo < n) := by
    rw [BitVec.getLsbD_ofNat, Nat.testBit_mul_two_pow, Nat.testBit_two_pow_sub_one]
    simp [hi]
  have value : (BitVec.ofNat 32 (x * 2 ^ lo)).getLsbD i = (decide (lo ≤ i) && x.testBit (i - lo)) := by
    rw [BitVec.getLsbD_ofNat, Nat.testBit_mul_two_pow]
    simp [hi]
  simp only [putField, BitVec.getLsbD_or, BitVec.getLsbD_and, BitVec.getLsbD_not, mask, value, hi]
  by_cases inside : lo ≤ i ∧ i - lo < n
  · simp [inside]
  · simp [inside]

/-- A field of MODE, replaced: the bits below it, its new value, the bits above it. -/
theorem putField_eq (m : Word) {lo n x : Nat} (hx : x < 2 ^ n) :
    putField m lo n x = BitVec.ofNat 32 (m.toNat % 2 ^ lo + 2 ^ lo * x + 2 ^ (lo + n) * (m.toNat / 2 ^ (lo + n))) := by
  have split : m.toNat % 2 ^ lo + 2 ^ lo * x + 2 ^ (lo + n) * (m.toNat / 2 ^ (lo + n)) =
      2 ^ lo * (2 ^ n * (m.toNat / 2 ^ (lo + n)) + x) + m.toNat % 2 ^ lo := by ring
  refine BitVec.eq_of_getLsbD_eq fun i hi => ?_
  rw [getLsbD_putField m lo n x hi, split, BitVec.getLsbD_ofNat, Nat.testBit_two_pow_mul_add _ (Nat.mod_lt _ (Nat.two_pow_pos lo)),
    Nat.testBit_two_pow_mul_add _ hx]
  by_cases below : i < lo
  · simp [below, hi, Nat.testBit_mod_two_pow, BitVec.testBit_toNat]
  · by_cases inside : i - lo < n
    · simp [below, inside, hi, Nat.not_lt.1 below]
    · have above : i - lo - n + (lo + n) = i := by omega
      simp [below, inside, hi, Nat.testBit_div_two_pow, above, BitVec.testBit_toNat]

/-! ### MODE words (R86, R151 to R153) -/

theorem modeIdle_accepted {m : Word} {c : Ctx} (s : State) (h : modeOk m = true ∧ modeBeyond c.w m = none) : modeIdle m c s = putMode c m s := by
  simp [modeIdle, h]

theorem modeIdle_refused {m : Word} {c : Ctx} (s : State) (h : ¬ (modeOk m = true ∧ modeBeyond c.w m = none)) : modeIdle m c s = .fall s 1 :=
  if_neg (by simpa using h)

theorem modeBody_within {m : Word} {c : Ctx} (s : State) (h : modeBeyond c.w m = none) : modeBody m c s = putMode c m s := by
  simp [modeBody, h]

theorem modeWordBody_accepted {d : BitVec 7} {c : Ctx} (s : State) (hk : modeOk (c.read d c.l0) = true)
    (hb : modeBeyond c.w (c.read d c.l0) = none) : modeWordBody d c s = putMode c (c.read d c.l0) s := by
  simp [modeWordBody, hk, modeBody_within s hb]

theorem exec_modeWord (d : BitVec 7) (z : Bool) (s : State) : exec (.modeWord z d) s = execModeWord z d s := rfl

/-- Word `i` makes MODE `f MODE`: with an active lane when no register of the new value lies beyond the declared count, with none when the
new value is accepted; with none and another value it changes nothing (R86, R152). -/
def SetsMode (i : Bool → Instr) (f : Word → Word) : Prop :=
  let put := fun (c : Ctx) (s : State) => s.modPart c.key c.q fun p => { p with mode := f c.p.mode }
  let accepted := fun c : Ctx => modeOk (f c.p.mode) = true ∧ modeBeyond c.w (f c.p.mode) = none
  FallsIf (fun _ c => modeBeyond c.w (f c.p.mode) = none) i (fun c => { maj := 0x2A, badMode := !modeOk (f c.p.mode) }) (fun _ => 1) put ∧
  IdlesIf (fun _ c => accepted c) i put ∧ IdlesIf (fun _ c => ¬ accepted c) i (fun _ s => s)

/-- The MODE words of F 0 to 8 share one meaning, `execModeField`. -/
theorem setsMode_execModeField {i : Bool → Instr} {f : Word → Word} (he : ∀ z s, exec (i z) s = execModeField z f s) : SetsMode i f :=
  ⟨fallsIf_intro _ _ _ _ _ _ _ he fun _ s c _ h => modeBody_within (begun c _ s) h,
   idlesFor_intro _ _ _ _ _ _ _ he (fun _ => rfl) fun s c h => modeIdle_accepted (begun c noSig s) h,
   idlesFor_intro _ _ _ _ _ _ _ he (fun _ => rfl) fun s c h => modeIdle_refused (begun c noSig s) h⟩

/-- A MODE word that replaces one field by a value that fits it. -/
theorem setsMode_field {i : Bool → Instr} {lo n x : Nat} (he : ∀ z s, exec (i z) s = execModeField z (fun m => putField m lo n x) s)
    (hx : x < 2 ^ n) :
    SetsMode i fun m => BitVec.ofNat 32 (m.toNat % 2 ^ lo + 2 ^ lo * x + 2 ^ (lo + n) * (m.toNat / 2 ^ (lo + n))) := by
  have same : (fun m => putField m lo n x) =
      fun m : Word => BitVec.ofNat 32 (m.toNat % 2 ^ lo + 2 ^ lo * x + 2 ^ (lo + n) * (m.toNat / 2 ^ (lo + n))) :=
    funext fun m => putField_eq m hx
  exact same ▸ setsMode_execModeField he

/-- GEN, GPOL and GREG together fill the nine bits of MODE.GUARD. -/
theorem guardValue_lt (g p : BitVec 1) (r : BitVec 7) : g.toNat + 2 * p.toNat + 4 * r.toNat < 2 ^ 9 := by
  omega

/-- Settles O11: the prefixes by the two outcomes of `issuePrefix`, the nine fields of MODE by `setsMode_field`. -/
theorem prefixAndModeWords : Obligations.PrefixAndModeWords := by
  unfold Obligations.PrefixAndModeWords
  refine ⟨?prefixes, ?modes⟩
  case prefixes =>
    intro s c k h hc hg hp
    refine ⟨fun free => ?_, fun free => ?_, fun ha taken => ?_, fun ha taken => ?_⟩
    · exact (exec_kx k s).trans (issuePrefix_goes hc hg hp (free.imp_right fun fresh => by simp [fresh]))
    · exact (exec_kxw h s).trans (issuePrefix_goes hc hg hp (free.imp_right fun fresh => by simp [fresh]))
    · exact (exec_kx k s).trans (issuePrefix_traps hc hg hp ha (Option.isSome_iff_ne_none.2 taken))
    · exact (exec_kxw h s).trans (issuePrefix_traps hc hg hp ha (Option.isSome_iff_ne_none.2 taken))
  case modes =>
    intro e4 e3 e2 e1 g p r d
    refine ⟨setsMode_field (fun _ _ => rfl) e4.isLt, setsMode_field (fun _ _ => rfl) e4.isLt, setsMode_field (fun _ _ => rfl) e3.isLt,
      setsMode_field (fun _ _ => rfl) e1.isLt, setsMode_field (fun _ _ => rfl) e1.isLt, setsMode_field (fun _ _ => rfl) (guardValue_lt g p r),
      setsMode_field (fun _ _ => rfl) r.isLt, setsMode_field (fun _ _ => rfl) e2.isLt, setsMode_field (fun _ _ => rfl) e1.isLt, ?word⟩
    case word =>
      exact fallsIf_intro _ _ _ _ _ _ (modeWordBody d) (exec_modeWord d) fun _ s c _ ⟨hk, hb⟩ => modeWordBody_accepted (begun c _ s) hk hb

end Sys2Proof.Proofs
end

section

/-! ## Special registers, g registers and regions (O12) -/

namespace Sys2Proof.Proofs
open Sys2Proof.Machine Sys2Proof.Laws Sys2Proof.Safety

/-! ### The meanings of the words -/

theorem exec_sread (d : BitVec 7) (e : BitVec 14) (z : Bool) (s : State) : exec (.sread z d e) s = execSread z d e s := rfl

theorem exec_swrite (d : BitVec 7) (e : BitVec 14) (z : Bool) (s : State) : exec (.swrite z d e) s = execSwrite z d e s := rfl

theorem exec_gread (d : BitVec 7) (k : BitVec 5) (z : Bool) (s : State) : exec (.gread z d k) s = execGread z d k s := rfl

theorem exec_gwrite (d : BitVec 7) (k : BitVec 5) (z : Bool) (s : State) : exec (.gwrite z d k) s = execGwrite z d k s := rfl

theorem exec_gxchg (d : BitVec 7) (k : BitVec 5) (z : Bool) (s : State) : exec (.gxchg z d k) s = execGxchg z d k s := rfl

theorem exec_gadd (d : BitVec 7) (k : BitVec 5) (z : Bool) (s : State) : exec (.gadd z d k) s = execGadd z d k s := rfl

theorem exec_rgn (a : BitVec 7) (i : BitVec 14) (z : Bool) (s : State) : exec (.rgn z a i) s = execRgn z a i s := rfl

theorem exec_rgnadd (a : BitVec 7) (i : BitVec 14) (z : Bool) (s : State) : exec (.rgnadd z a i) s = execRgnadd z a i s := rfl

/-! ### Special registers (R99 to R102, R155) -/

/-- The part after an SWRITE of `e`, of the value `x`, or `y` for the selector of 64 bits (R99, R101, R102, R219). -/
def swrittenPart (e : Nat) (x : Word) (y : DWord) (p : Part) : Part :=
  if e = 0x13 then { p with ucf := p.ucf && !x.getLsbD 0, poison := p.poison && !x.getLsbD 1, corr := p.corr && !x.getLsbD 2 }
  else if e = 0x20 then { p with tvec := { val := x, bq := p.q, bn := p.n } }
  else if e = 0x21 then { p with trappc := x }
  else if e = 0x22 then { p with tcause := x &&& 0x3FF#32 }
  else if e = 0x23 then { p with tinfo := x }
  else if e = 0x24 then { p with taddr := y }
  else p

/-- A value of 32 bits goes through the 64 of `selPart` unchanged; of the selectors it knows only TADDR is wide. -/
theorem selPart_eq (e : Nat) (x : Word) (y : DWord) : selPart e (if selWide e then y else x.zeroExtend 64) = swrittenPart e x y := by
  funext p
  generalize hv : (if selWide e then y else x.zeroExtend 64) = v
  unfold selPart
  split
  case h_7 => simp_all [swrittenPart]
  all_goals
    subst hv
    simp [swrittenPart, selWide]

theorem swriteState_eq (c : Ctx) (e : Nat) (d : BitVec 7) (s : State) :
    swriteState c e d s =
      if 0x30 ≤ e then s.modWave c.key fun w => writeX (e - 0x30) (c.read d) w c.act
      else if e = 0x16 then s.modWave c.key fun w => { w with rto := (c.read d c.l0).toNat % 2 ^ 14 }
      else s.modPart c.key c.q (swrittenPart e (c.read d c.l0) (c.read64 false d c.l0)) := by
  rw [← selPart_eq]
  rfl

/-! ### Regions (R156) -/

theorem rgnBody_declared {add : Bool} {a : BitVec 7} {i : BitVec 14} {c : Ctx} (s : State) (h : ∀ r ∈ markedRegs a i, r < c.w.regs) :
    rgnBody add a i c s = .fall (s.modWave c.key fun w =>
      { w with region := (markedRegs a i).foldl (fun t r => setIns r t) (if add then w.region else []) }) 1 := by
  have hnone : (markedRegs a i).find? (fun r => decide (c.w.regs ≤ r)) = none := by
    simpa [List.find?_eq_none] using h
  simp [rgnBody, hnone]

/-- Settles O12: SREAD and GREAD write what they find, SWRITE is `swriteState_eq`, the other words are their bodies. -/
theorem registerAccessWords : Obligations.RegisterAccessWords := by
  unfold Obligations.RegisterAccessWords
  refine ⟨⟨?words, ?values⟩, ?shared⟩
  case words =>
    intro d e
    refine ⟨fun z s c h => ?sread, ?swrite⟩
    case sread => exact wrote_intro (exec_sread d e) h rfl
    case swrite =>
      exact falls_intro _ _ _ _ _ _ (exec_swrite d e) fun _ s c _ => congrArg (Res.fall · 1) (swriteState_eq c e.toNat d (begun c _ s))
  case values =>
    intro s c l
    refine ⟨rfl, rfl, rfl, rfl, rfl, rfl, rfl, rfl, rfl, rfl, rfl, rfl, rfl, rfl, rfl, rfl, rfl, rfl, rfl, ?status, rfl, rfl, rfl, rfl,
      rfl, rfl, rfl, rfl, rfl, rfl, rfl, rfl, rfl, rfl, fun i hi => ?loops, fun i hi => ?index⟩
    case status => exact BitVec.toNat_ofNat ..
    case loops => interval_cases i <;> rfl
    case index => interval_cases i <;> rfl
  case shared =>
    intro d a k i
    refine ⟨fun z s c h => ?gread, ?gwrite, ?gxchg, ?gadd, ?rgn, ?rgnadd⟩
    case gread => exact wrote_intro (exec_gread d k) h rfl
    case gwrite => exact falls_intro _ _ _ _ _ _ (exec_gwrite d k) fun _ _ _ _ => rfl
    case gxchg => exact falls_intro _ _ _ _ _ _ (exec_gxchg d k) fun _ _ _ _ => rfl
    case gadd => exact falls_intro _ _ _ _ _ _ (exec_gadd d k) fun _ _ _ _ => rfl
    case rgn => exact fallsIf_intro _ _ _ _ _ _ _ (exec_rgn a i) fun _ s c _ h => rgnBody_declared (begun c _ s) h
    case rgnadd => exact fallsIf_intro _ _ _ _ _ _ _ (exec_rgnadd a i) fun _ s c _ h => rgnBody_declared (begun c _ s) h

end Sys2Proof.Proofs
end

section

/-! ## The debug port (O51) -/

namespace Sys2Proof.Proofs
open Sys2Proof.Machine Sys2Proof.Laws Sys2Proof.Safety

/-! ### The meanings of the commands -/

theorem exec_stop (arg : Nat) (s : State) : exec (.stop arg) s = execStop arg s := rfl

theorem exec_resume (arg : Nat) (s : State) : exec (.resume arg) s = execResume arg s := rfl

theorem exec_step (arg : Nat) (s : State) : exec (.step arg) s = execStep arg s := rfl

theorem exec_rdreg (arg : Nat) (s : State) : exec (.rdreg arg) s = execRdreg arg s := rfl

theorem exec_wrreg (arg : Nat) (s : State) : exec (.wrreg arg) s = execWrreg arg s := rfl

theorem exec_drop (arg : Nat) (s : State) : exec (.drop arg) s = execDrop arg s := rfl

theorem exec_bpen (arg : Nat) (s : State) : exec (.bpen arg) s = execBpen arg s := rfl

theorem exec_report (arg : Nat) (s : State) : exec (.report arg) s = execReport arg s := rfl

theorem exec_memrd (arg : Nat) (s : State) : exec (.memrd arg) s = execMemrd arg s := rfl

theorem exec_memwr (arg : Nat) (s : State) : exec (.memwr arg) s = execMemwr arg s := rfl

/-! ### The gate of the port (R451) -/

/-- The port answers commands of a scope. -/
def PortOpen (bit : Nat) (s : State) : Prop :=
  s.dev.ready = true ∧ s.dev.dbox.busy = false ∧ s.dev.dbgOpen = true ∧ s.dev.dbgScope.testBit bit = true

/-- A command that nothing takes before READY, that is lost while one runs, and that is DENIED outside the token's scope. -/
def Gated (w : Nat → Instr) (bit : Nat) : Prop := ∀ s arg,
  (s.dev.ready = false → exec (w arg) s = .next s) ∧
  (s.dev.ready = true → s.dev.dbox.busy = true →
    exec (w arg) s = .next { s with dev := { s.dev with dbox := { s.dev.dbox with lost := true } } }) ∧
  (s.dev.ready = true → s.dev.dbox.busy = false → (s.dev.dbgOpen = false ∨ s.dev.dbgScope.testBit bit = false) →
    exec (w arg) s = .next (finishDbox (.error 1) s))

theorem gated_intro {w : Nat → Instr} {bit : Nat} {f : Nat → State → MbRes} (he : ∀ arg s, exec (w arg) s = debugCommand bit f arg s) :
    Gated w bit := by
  refine fun s arg => ⟨fun hr => ?_, fun hr hb => ?_, fun hr hb hd => ?_⟩
  · simp [he, debugCommand, hr]
  · simp [he, debugCommand, hr, hb]
  · have denied : (!s.dev.dbgOpen || !bitOf s.dev.dbgScope bit) = true := by
      rcases hd with h | h <;> simp [h, bitOf]
    simp [he, debugCommand, hr, hb, denied]

section Command

variable {bit arg : Nat} {i : Instr} {f : Nat → State → MbRes} {s : State} (h : PortOpen bit s) (he : exec i s = debugCommand bit f arg s)
include h he

/-- An open port finishes the command with its result. -/
theorem exec_finishes (harg : arg < 256) : exec i s = .next (finishDbox (f arg s) s) := by
  obtain ⟨hr, hb, ho, hs⟩ := h
  simp [he, debugCommand, hr, hb, ho, hs, bitOf, Nat.not_le.2 harg]

theorem exec_refuses {code : Nat} (hf : f arg s = .error code) (harg : arg < 256 := by omega) :
    exec i s = .next (finishDbox (.error code) s) :=
  hf ▸ exec_finishes h he harg

theorem exec_answers {t : State} {out : List Byte} (hf : f arg s = .ok (t, out)) (harg : arg < 256 := by omega) :
    exec i s = .next (finishDbox (.ok (t, out)) s) :=
  hf ▸ exec_finishes h he harg

end Command

/-! ### The wave, part and register that a command names (R451) -/

section Named

variable {s : State} {w : Wave} {p : Part} {r : DbgReg}

/-- The commands on a part of a stopped wave. -/
theorem exec_onPart (s : State) :
    ∀ i ∈ [Instr.step 0, .rdreg 0, .wrreg 0, .drop 0], ∃ f, exec i s = debugCommand 0 (fun _ => onPart f) 0 s := by
  simp only [List.forall_mem_cons, List.not_mem_nil, false_imp_iff, implies_true, and_true]
  exact ⟨⟨_, exec_step 0 s⟩, ⟨_, exec_rdreg 0 s⟩, ⟨_, exec_wrreg 0 s⟩, ⟨_, exec_drop 0 s⟩⟩

theorem onPart_noWave (f : Wave → Part → State → MbRes) (hw : s.wave (dbgKey s) = none) : onPart f s = .error 2 := by
  simp [onPart, onStopped, hw]

theorem onPart_running (f : Wave → Part → State → MbRes) (hw : s.wave (dbgKey s) = some w) (hs : w.stopped = false) :
    onPart f s = .error 3 := by
  simp [onPart, onStopped, hw, hs]

theorem onPart_noPart (f : Wave → Part → State → MbRes) (hw : s.wave (dbgKey s) = some w) (hs : w.stopped = true)
    (hp : partAt w.parts (mbNum s.dev.dbox 3 1) = none) : onPart f s = .error 2 := by
  simp [onPart, onStopped, hw, hs, hp]

theorem onPart_named (f : Wave → Part → State → MbRes) (hw : s.wave (dbgKey s) = some w) (hs : w.stopped = true)
    (hp : partAt w.parts (mbNum s.dev.dbox 3 1) = some p) : onPart f s = f w p s := by
  simp [onPart, onStopped, hw, hs, hp]

theorem onReg_named (f : Wave → Part → DbgReg → State → MbRes) (hw : s.wave (dbgKey s) = some w) (hs : w.stopped = true)
    (hp : partAt w.parts (mbNum s.dev.dbox 3 1) = some p) (hr : dbgReg s w = some r) : onReg f s = f w p r s := by
  rw [onReg, onPart_named _ hw hs hp, hr]

/-- Bytes 4 and 5 name a vector register within the declared count. -/
theorem dbgReg_vector {k : Nat} (hclass : mbNum s.dev.dbox 4 1 = 0) (hcode : mbNum s.dev.dbox 5 1 = k) (hk : k < w.regs) :
    dbgReg s w = some (.v k) := by
  simp [dbgReg, hclass, hcode, hk]

theorem mem_dbgLanes {l : Nat} : l ∈ dbgLanes s w ↔ l < w.width ∧ (mbNum s.dev.dbox 8 8).testBit l = true := by
  simp [dbgLanes, bitOf]

end Named

/-! ### STOP and RESUME (R448, R450) -/

theorem ServiceOnly.time {s t : State} (h : ServiceOnly s t) : t.time = s.time := by rw [h.rest]

theorem ServiceOnly.lag {s t : State} (h : ServiceOnly s t) : t.lag = s.lag := by rw [h.rest]

theorem closeRun_clock (key : Nat) (w : Wave) (p : Part) (r : Run) (cause : Nat) (s : State) :
    (closeRun key w p r cause s).time = s.time ∧ (closeRun key w p r cause s).lag = s.lag := by
  have traced := serviceOnly_traceRun s w p r cause s
  unfold closeRun
  dsimp only
  split
  · exact ⟨rfl, rfl⟩
  · exact ⟨traced.time, traced.lag⟩

/-- The end of a run takes no time. -/
theorem endRun_clock (key cause : Nat) (s : State) : (endRun key cause s).time = s.time ∧ (endRun key cause s).lag = s.lag := by
  unfold endRun
  split
  · split_ifs
    · split
      · exact closeRun_clock key _ _ _ cause s
      · exact ⟨rfl, rfl⟩
    · exact ⟨rfl, rfl⟩
  · exact ⟨rfl, rfl⟩

theorem cycleOf_endRun (key cause : Nat) (s : State) (core : Nat) : cycleOf (endRun key cause s) core = cycleOf s core := by
  obtain ⟨htime, hlag⟩ := endRun_clock key cause s
  rw [cycleOf, htime, hlag, cycleOf]

/-- A running wave as STOP leaves it, with its parts rested by `f`. -/
def stoppedWave (f : Part → Part) (now time cause : Nat) (w : Wave) : Wave :=
  { w with parts := w.parts.map f, stopped := true, stepping := none, stopReq := none, stopTime := time, stopCause := cause,
           cycBase := w.cycBase + (now - w.cycle0), cycle0 := now }

/-- Once its run has ended and the wave is marked, a stop only writes its records, to memory and the trace ring. -/
theorem serviceOnly_stopWave {s : State} {key : Nat} {w : Wave} (cause : Nat) (hw : s.wave key = some w) :
    ServiceOnly ((endRun key 2 s).modWave key fun v =>
        { freezeWave (cycleOf s (coreOf key)) v with
          stopped := true, stepping := none, stopReq := none, stopTime := s.time, stopCause := cause })
      (stopWave key cause s) := by
  rw [stopWave, show kget s.waves key = some w from hw, ← cycleOf_endRun key 2, ← (endRun_clock key 2 s).1]
  exact serviceOnly_foldl (fun u p => serviceOnly_postTrace _ _ u) w.parts _

theorem wave_stopWave {s : State} {key : Nat} {w : Wave} (cause : Nat) (hw : s.wave key = some w) (hs : w.stopped = false) :
    ∃ f, (∀ p, RestedPart p (f p)) ∧ (¬ HoldsPort s key → w.parts.map f = w.parts) ∧
      (stopWave key cause s).wave key = some (stoppedWave f (cycleOf s (coreOf key)) s.time cause w) := by
  have frame := (serviceOnly_stopWave cause hw).waves
  obtain ⟨f, hf, hended⟩ := wave_endRun 2 hw
  refine ⟨f, hf, fun hfree => ?_, ?_⟩
  · rw [endRun_idle hfree, hw] at hended
    exact (congrArg Wave.parts (Option.some.inj hended)).symm
  · rw [wave_eq _ _ key frame, wave_modWave_same, hended]
    simp [freezeWave, hs, stoppedWave]

/-- A wave that has stopped does not hold its port. -/
theorem stopWave_free {s : State} {key : Nat} {w : Wave} (cause : Nat) (hw : s.wave key = some w) : ¬ HoldsPort (stopWave key cause s) key := by
  rw [not_holdsPort_iff, (serviceOnly_stopWave cause hw).runs]
  exact not_holdsPort_iff.1 (endRun_free 2 hw)

theorem stopByCommand_running {s : State} {key : Nat} {w : Wave} (hw : s.wave key = some w) (hs : w.stopped = false)
    (hm : midPrefix w = false) : stopByCommand key s = .ok (stopWave key 0 s, []) := by
  simp [stopByCommand, hw, hs, hm]

theorem stopByCommand_stopped {s : State} {key : Nat} {w : Wave} (hw : s.wave key = some w) (hs : w.stopped = true) :
    stopByCommand key s = .ok (s, []) := by
  simp [stopByCommand, hw, hs]

theorem stopByCommand_missing {s : State} {key : Nat} (hw : s.wave key = none) : stopByCommand key s = .error 2 := by
  simp [stopByCommand, hw]

/-- A stopped wave as RESUME leaves it. -/
def resumedByCommand (now : Nat) (w : Wave) : Wave :=
  { w with stopped := false, stepping := none, stopReq := none, cycle0 := now,
           deadSince := w.deadSince.map (· + now - w.cycle0), parts := w.parts.map (thawPart w.cycle0 now) }

theorem resumeWave_stopped {s : State} {key : Nat} {w : Wave} (hw : s.wave key = some w) (hs : w.stopped = true) :
    resumeWave key s = s.modWave key fun _ => resumedByCommand (cycleOf s (coreOf key)) w :=
  modWave_congr hw (by simp [hs, thawWave, resumedByCommand])

theorem resumeWave_running {s : State} {key : Nat} {w : Wave} (hw : s.wave key = some w) (hs : w.stopped = false) : resumeWave key s = s :=
  (modWave_congr (g := fun v => v) hw (by simp [hs])).trans (modWave_id s key)

/-! ### STEP (R451) -/

theorem partAt_first {ps : List Part} {q : Nat} {p : Part} (h : partAt ps q = some p) : p.q = q := by
  induction ps with
  | nil => cases h
  | cons x ps ih =>
    unfold partAt at h
    split at h
    · next hq => exact Option.some.inj h ▸ hq
    · exact ih h

/-- A ready part that holds its first quad and has no PREEMPT to take is marked to issue one word. -/
theorem stepPart_ready {s : State} {w : Wave} {p : Part} (hw : s.wave w.key = some w) (hp : partAt w.parts p.q = some p)
    (hwait : p.wait = .ready) (hpre : p.preempt = false) (hold : partHolding w p.q = some p) :
    stepPart w p s = .ok (s.modWave w.key fun w => { w with stepping := some p.q, stopReq := some 2 }, []) := by
  simp [stepPart, deliverPreempt, hpre, hw, part_of_wave hw, hp, hwait, hold]

/-! ### RDREG (R113) -/

/-- Bytes that hold a number read back as what is left of it. -/
theorem natOfBytes_bytesOfNat (n x : Nat) : natOfBytes (bytesOfNat n x) = x % 256 ^ n := by
  induction n generalizing x with
  | zero => simp [bytesOfNat, natOfBytes, Nat.mod_one]
  | succ n ih =>
    have split : x % 256 ^ (n + 1) = x % 256 + 256 * (x / 256 % 256 ^ n) := by rw [pow_succ', Nat.mod_mul]
    rw [bytesOfNat, natOfBytes, ih, split, BitVec.toNat_ofNat]

/-- Entry `i` of a table of entries of `k` bytes. -/
theorem take_drop_flatMap {α : Type} {f : α → List Byte} {k : Nat} (hf : ∀ x, (f x).length = k) {xs : List α} :
    ∀ {i : Nat} (h : i < xs.length), ((xs.flatMap f).drop (k * i)).take k = f xs[i] := by
  induction xs with
  | nil => exact fun h => absurd h (Nat.not_lt_zero _)
  | cons x xs ih =>
    intro i h
    cases i with
    | zero => simp [List.take_left' (hf x)]
    | succ i =>
      rw [List.flatMap_cons, Nat.mul_succ, Nat.add_comm, ← List.drop_drop, List.drop_left' (hf x)]
      exact ih (Nat.lt_of_succ_lt_succ h)

theorem numAt_table {f : Nat → Nat} {n i : Nat} (k : Nat) (hd : List Byte) (h : i < n) :
    numAt (hd ++ (List.range n).flatMap fun l => bytesOfNat k (f l)) (hd.length + k * i) k = f i % 256 ^ k := by
  rw [numAt, ← List.drop_drop, List.drop_left, take_drop_flatMap (fun _ => length_bytesOfNat _ _) (by simpa using h), List.getElem_range,
    natOfBytes_bytesOfNat]

theorem length_rdregOut (s : State) (w : Wave) (p : Part) (r : DbgReg) : (rdregOut w p r s).length = 8 + 4 * w.width := by
  simp [rdregOut, List.length_flatMap, Nat.mul_comm]

theorem numAt_rdregOut (s : State) (w : Wave) (p : Part) (k : Nat) {l : Nat} (hl : l < w.width) :
    numAt (rdregOut w p (.v k) s) (8 + 4 * l) 4 = if (mbNum s.dev.dbox 8 8).testBit l then (w.getV k l).toNat else 0 := by
  have entry := numAt_table (f := fun l => if (dbgLanes s w).contains l then dbgRead s w p l (.v k) else 0) 4
    (bytesOfNat 8 (laneMask ((dbgLanes s w).filter fun l => dbgPending w p l (.v k)))) hl
  rw [length_bytesOfNat] at entry
  refine entry.trans ?_
  simp only [List.contains_eq_mem, mem_dbgLanes, hl, true_and, decide_eq_true_eq, dbgRead]
  split_ifs
  · exact Nat.mod_eq_of_lt (w.getV k l).isLt
  · rfl

/-! ### WRREG and DROP (R113) -/

/-- The lanes of a list take their values in one vector register. -/
def setLanes (k : Nat) (f : Nat → Word) (ls : List Nat) (w : Wave) : Wave := ls.foldl (fun w l => w.setV k l (f l)) w

theorem keptRegs_setLanes (k : Nat) (f : Nat → Word) (ls : List Nat) (w : Wave) : KeptRegs w (setLanes k f ls w) :=
  List.foldlRecOn ls _ (motive := KeptRegs w) rfl fun _ h l _ => keptRegs_trans h (show KeptRegs _ (Wave.setV _ k l (f l)) from rfl)

theorem getV_setLanes {f : Nat → Word} {ls : List Nat} (hls : ∀ l ∈ ls, l < 64) {l : Nat} (hl : l < 64) (k r : Nat) :
    ∀ w : Wave, (setLanes k f ls w).getV r l = if r = k ∧ l ∈ ls then f l else w.getV r l := by
  induction ls with
  | nil => simp [setLanes]
  | cons a ls ih =>
    intro w
    have hrest : ∀ x ∈ ls, x < 64 := fun x hx => hls x (List.mem_cons_of_mem _ hx)
    rw [setLanes, List.foldl_cons, ← setLanes, ih hrest, getV_setV w k a r l _ (hls a List.mem_cons_self) hl]
    by_cases ha : l = a
    · subst ha
      by_cases hr : r = k <;> simp [hr]
    · simp [ha]

/-- Each lane that WRREG names takes its value from MBDATA; no other register of a lane changes. -/
theorem getV_wrreg {s : State} {w : Wave} (hwide : w.width ≤ 64) (k r : Nat) {l : Nat} (hl : l < 64) :
    (setLanes k (dbgInput s) (dbgLanes s w) w).getV r l =
      if r = k ∧ l < w.width ∧ (mbNum s.dev.dbox 8 8).testBit l = true then dbgInput s l else w.getV r l := by
  have hlanes : ∀ x ∈ dbgLanes s w, x < 64 := fun x hx => (mem_dbgLanes.1 hx).1.trans_le hwide
  simp only [getV_setLanes hlanes hl, mem_dbgLanes]

/-- DROP of a vector register acts on every part. -/
def dropWave (ls : List Nat) (k : Nat) (w : Wave) : Wave :=
  { w with parts := w.parts.map fun x => { x with pend := (x.pend.map (dropPend ls (.v k))).filter fun y => !y.empty } }

theorem dropWave_dropped {ls : List Nat} {k : Nat} {w : Wave} {x : Part} {y : Pend} {v : Nat × Nat × Word} (hx : x ∈ (dropWave ls k w).parts)
    (hy : y ∈ x.pend) (hv : v ∈ y.vals) : ¬ (v.1 ∈ ls ∧ v.2.1 = k) := by
  obtain ⟨x0, -, rfl⟩ := List.mem_map.1 hx
  obtain ⟨y0, -, rfl⟩ := List.mem_map.1 (List.mem_filter.1 hy).1
  intro ⟨hl, hk⟩
  simpa [hl, hk] using (List.mem_filter.1 hv).2

/-! ### The context and the range that a command names (R451) -/

theorem dbgContext_missing {s : State} (h : 4096 ≤ mbNum s.dev.dbox 0 2 ∨
    kget s.contexts (mbNum s.dev.dbox 2 1 * 4096 + mbNum s.dev.dbox 0 2) = none) : dbgContext s = none := by
  rw [dbgContext]
  refine if_neg fun ⟨hid, hx⟩ => ?_
  rcases h with h | h
  · exact absurd hid (Nat.not_lt.2 h)
  · rw [ctxKey, h] at hx
    cases hx

theorem dbgContext_named {s : State} (hid : mbNum s.dev.dbox 0 2 < 4096)
    (h : (kget s.contexts (mbNum s.dev.dbox 2 1 * 4096 + mbNum s.dev.dbox 0 2)).isSome = true) :
    dbgContext s = some (mbNum s.dev.dbox 2 1, mbNum s.dev.dbox 0 2) :=
  if_pos ⟨hid, h⟩

theorem contexts_modCtx {s : State} {p id : Nat} {x : Context} (f : Context → Context) (hx : kget s.contexts (p * 4096 + id) = some x) :
    kget (s.modCtx p id f).contexts (p * 4096 + id) = some (f x) := by
  rw [← kgetD_of_kget {} hx]
  exact kget_kput_same _ _ _

theorem dbgRange_missing {s : State} (h : mbNum s.dev.dbox 16 4 = 0 ∨ 4032 < mbNum s.dev.dbox 16 4 ∨ dbgContext s = none) :
    dbgRange s = none := by
  rw [dbgRange]
  split_ifs with hn
  · rcases h with h | h | h
    · omega
    · omega
    · rw [h]
      rfl
  · rfl

theorem dbgRange_named {s : State} {p id : Nat} (h1 : 1 ≤ mbNum s.dev.dbox 16 4) (h2 : mbNum s.dev.dbox 16 4 ≤ 4032)
    (h : dbgContext s = some (p, id)) : dbgRange s = some (p, id, mbNum s.dev.dbox 8 8, mbNum s.dev.dbox 16 4) := by
  rw [dbgRange, if_pos ⟨h1, h2⟩, h]
  rfl

/-! ### The statement -/

/-- Settles O51: each command by what it answers for the wave, part, register or context that it names. -/
theorem debugCommands : Obligations.DebugCommands := by
  unfold Obligations.DebugCommands
  refine ⟨gated_intro exec_stop, gated_intro exec_resume, gated_intro exec_step, gated_intro exec_rdreg, gated_intro exec_wrreg,
    gated_intro exec_drop, gated_intro exec_bpen, gated_intro exec_report, gated_intro exec_memrd, gated_intro exec_memwr, ?missing, ?running,
    ?noPart, ?wave, ?context, ?memory⟩
  case missing =>
    intro s (h : PortOpen 0 s) (hw : s.wave (dbgKey s) = none)
    have parts : ∀ i ∈ [Instr.step 0, .rdreg 0, .wrreg 0, .drop 0], exec i s = .next (finishDbox (.error 2) s) := fun i hi => by
      obtain ⟨f, he⟩ := exec_onPart s i hi
      exact exec_refuses h he (onPart_noWave f hw)
    simp only [List.forall_mem_cons, List.not_mem_nil, false_imp_iff, implies_true, and_true] at parts ⊢
    obtain ⟨hstep, hrdreg, hwrreg, hdrop⟩ := parts
    exact ⟨exec_refuses h (exec_stop 0 s) (stopByCommand_missing hw), exec_refuses h (exec_resume 0 s) (by simp [hw]), hstep, hrdreg, hwrreg, hdrop,
      exec_refuses h (exec_report 0 s) (by simp [hw])⟩
  case running =>
    intro s w (h : PortOpen 0 s) (hw : s.wave (dbgKey s) = some w) hs i hi
    obtain ⟨f, he⟩ := exec_onPart s i hi
    exact exec_refuses h he (onPart_running f hw hs)
  case noPart =>
    intro s w (h : PortOpen 0 s) (hw : s.wave (dbgKey s) = some w) hs hp i hi
    obtain ⟨f, he⟩ := exec_onPart s i hi
    exact exec_refuses h he (onPart_noPart f hw hs hp)
  case wave =>
    intro s w (h : PortOpen 0 s) (hw : s.wave (dbgKey s) = some w) (hkey : w.key = dbgKey s)
    have changed : ∀ f, (s.modWave w.key f).wave (dbgKey s) = some (f w) := fun f => by
      rw [hkey, wave_modWave_same, hw, Option.map_some]
    refine ⟨fun hs hm => ?stop, fun hs => ?stopAgain, fun hs => ?resume, fun hs => ?resumeRunning, ?report, fun p hs hp => ⟨?step, ?reg⟩⟩
    case stop =>
      obtain ⟨f, hf, hfree, hwave⟩ := wave_stopWave 0 hw hs
      refine ⟨_, _, exec_answers h (exec_stop 0 s) (stopByCommand_running hw hs hm), hwave, rfl, rfl, rfl, rfl, rfl, ?_,
        fun hidle => hfree (not_holdsPort_iff.2 hidle), not_holdsPort_iff.1 (stopWave_free 0 hw), rfl⟩
      refine (List.map_map ..).trans (List.map_congr_left fun x _ => ?_)
      rw [Function.comp_apply, hf x]
    case stopAgain => exact exec_answers h (exec_stop 0 s) (stopByCommand_stopped hw hs)
    case resume => exact exec_answers h (exec_resume 0 s) (by rw [hw, resumeWave_stopped hw hs]; rfl)
    case resumeRunning => exact exec_answers h (exec_resume 0 s) (by rw [hw, resumeWave_running hw hs]; rfl)
    case report => exact exec_answers h (exec_report 0 s) (by rw [hw]; rfl)
    case step =>
      intro hwait hpre hold
      have hw' : s.wave w.key = some w := hkey ▸ hw
      have hp' : partAt w.parts p.q = some p := (partAt_first hp).symm ▸ hp
      exact ⟨_, _, exec_answers h (exec_step 0 s) ((onPart_named _ hw hs hp).trans (stepPart_ready hw' hp' hwait hpre hold)), changed _, rfl, rfl⟩
    case reg =>
      intro k hclass hcode hk _
      have hreg := dbgReg_vector hclass hcode hk
      refine ⟨⟨_, exec_answers h (exec_rdreg 0 s) (onReg_named _ hw hs hp hreg), length_rdregOut s w p _,
        fun l hl => numAt_rdregOut s w p k hl⟩, fun hwide => ?wrreg, ?drop⟩
      case wrreg =>
        exact ⟨_, _, exec_answers h (exec_wrreg 0 s) (onReg_named _ hw hs hp hreg), changed _, rfl, keptRegs_setLanes k _ _ w,
          fun r l hl => ⟨fun hn => (getV_wrreg hwide k r hl).trans (if_pos hn), fun hn => (getV_wrreg hwide k r hl).trans (if_neg hn)⟩⟩
      case drop =>
        exact ⟨_, dropWave (dbgLanes s w) k w, exec_answers h (exec_drop 0 s) (onReg_named _ hw hs hp hreg), changed _, rfl, rfl,
          fun x hx y hy v hv hn => dropWave_dropped hx hy hv ⟨mem_dbgLanes.2 hn.1, hn.2⟩⟩
  case context =>
    intro s arg p id (h : PortOpen 0 s) harg hid hp
    subst hid hp
    refine ⟨fun hmiss => ?missing, fun x hid hx => ?named⟩
    case missing => exact exec_refuses h (exec_bpen arg s) (by rw [dbgContext_missing hmiss])
    case named =>
      have hctx := dbgContext_named hid (Option.isSome_of_eq_some hx)
      refine ⟨_, exec_answers h (exec_bpen arg s) (by rw [hctx]; exact if_pos harg), ?_, rfl⟩
      exact contexts_modCtx (fun c => { c with bkpt := decide (arg = 1) }) hx
  case memory =>
    intro s p id n a (h : PortOpen 2 s) hid hp ha hn
    subst hid hp ha hn
    refine ⟨fun hmiss => ?missing, fun h1 h2 hid hx => ?named⟩
    case missing =>
      have hrange := dbgRange_missing (hmiss.imp_right (Or.imp_right dbgContext_missing))
      exact ⟨exec_refuses h (exec_memrd 0 s) (by rw [hrange]), exec_refuses h (exec_memwr 0 s) (by rw [hrange])⟩
    case named =>
      have hrange := dbgRange_named h1 h2 (dbgContext_named hid hx)
      constructor
      · split
        next hr => exact exec_refuses h (exec_memrd 0 s) (by rw [hrange]; dsimp only; rw [hr])
        next r hr => exact exec_answers h (exec_memrd 0 s) (by rw [hrange]; dsimp only; rw [hr])
      · split
        next hr => exact exec_refuses h (exec_memwr 0 s) (by rw [hrange]; dsimp only; rw [hr])
        next t hr => exact exec_answers h (exec_memwr 0 s) (by rw [hrange]; dsimp only; rw [hr])

end Sys2Proof.Proofs
end

section

/-! ## Integer, bit, multiply-add, comparison and address words (O1 to O4) -/

namespace Sys2Proof.Proofs
open Sys2Proof.Machine Sys2Proof.Laws Sys2Proof.Safety

/-! ### What a ready word knows of its element type -/

/-- A word that passes its checks has an element type that it accepts (R89, R137). -/
theorem badMode_of_checks {c : Ctx} {g : Sig} (h : checkSig c g = none) : g.badMode = false := by
  unfold checkSig at h
  split_ifs at h with _ _ _ _ _ _ _ _ hm
  exact Bool.eq_false_iff.2 hm

/-! ### IALU (R140, R141) -/

/-- An IALU word writes its result function, extended to the register. `e` is the word's own meaning, which `he` and `hw` tie to `exec` and to
the common issue of IALU words. -/
theorem writesD_ialu {i : Bool → Instr} {f : Nat} {d a b : BitVec 7} {v : Ctx → Nat → List Word} (e : Bool → State → Out)
    (he : ∀ z s, exec (i z) s = e z s := by intros; rfl) (hw : ∀ z s, e z s = execIalu f z d a b s := by intros; rfl)
    (hv : ∀ c l, wordsOf (etWide c.et) (extendRes (etWidth c.et) (etSigned c.et) (ialuRes f (etWidth c.et) (etSigned c.et) (modeSatOf c.p.mode)
      (c.readNat (etWide c.et) false a l) (c.readNat (etWide c.et) false b l) (c.read b l).toNat)) = v c l := by intros; rfl) :
    WritesD i (ialuSig f d a b) d v :=
  writesD_intro _ _ _ _ _ (ialuBody f d a b) (fun z s => (he z s).trans (hw z s)) fun _ _ c _ =>
    ⟨_, _, rfl, congrArg (writeRegs c d · _) (funext (hv c))⟩

/-- IABS (R141) is the absolute value modulo 2^n. -/
theorem ialuRes_abs (n : Nat) (signed sat : Bool) (a b cnt : Nat) :
    ialuRes 7 n signed sat a b cnt = wrapInt n |intOf n signed a| := by
  refine congrArg (wrapInt n) ?_
  split
  next h => exact (abs_of_neg h).symm
  next h => exact (abs_of_nonneg (not_lt.1 h)).symm

theorem sintOf_mod (n x : Nat) : sintOf n (x % 2 ^ n) = sintOf n x := by
  simp [sintOf]

/-- SAR (R141) may read the pattern that the type cuts off. -/
theorem ialuRes_sar (n : Nat) (signed sat : Bool) (a b cnt : Nat) :
    ialuRes 14 n signed sat a b cnt = wrapInt n ((sintOf n (a % 2 ^ n)).fdiv (2 ^ min cnt (n - 1) : Nat)) := by
  rw [sintOf_mod]
  rfl

/-- Settles O1: fourteen functions are the model's own; IABS is written by its sign there, and SAR reads the whole pattern. -/
theorem integerResults : Obligations.IntegerResults := by
  unfold Obligations.IntegerResults
  intro d a b
  exact ⟨writesD_ialu (execIadd · d a b), writesD_ialu (execIsub · d a b), writesD_ialu (execImul · d a b), writesD_ialu (execImulh · d a b),
         writesD_ialu (execImin · d a b), writesD_ialu (execImax · d a b), writesD_ialu (execIneg · d a),
         writesD_ialu (execIabs · d a) (hv := fun _ _ => by rw [ialuRes_abs]; rfl),
         writesD_ialu (execAnd · d a b), writesD_ialu (execOr · d a b), writesD_ialu (execXor · d a b), writesD_ialu (execAndn · d a b),
         writesD_ialu (execShl · d a b), writesD_ialu (execShr · d a b),
         writesD_ialu (execSar · d a b) (hv := fun _ _ => by rw [ialuRes_sar]; rfl),
         writesD_ialu (execRot · d a b)⟩

/-! ### IBIT (R142, R143) -/

/-- The positions of an IBIT function that are pairs under a 64-bit type (R142): all, the source alone, or none, every position
being a single register. -/
inductive PairedAs (f : Nat) : (Nat → Bool) → (Nat → Bool) → Prop where
  | all (h : f = 3 ∨ f = 11 ∨ f = 12 := by decide) : PairedAs f etWide etWide
  | source (h : f ≤ 2 := by decide) : PairedAs f etWide fun _ => false
  | single (h : 4 ≤ f ∧ f ≠ 11 ∧ f ≠ 12 := by decide) : PairedAs f (fun _ => false) fun _ => false

theorem ibitWide_of_pairedAs {f : Nat} {w wd : Nat → Bool} (h : PairedAs f w wd) (et : Nat) :
    ibitWide f et = w et ∧ ibitWideD f et = wd et := by
  cases h with
  | all h => rcases h with rfl | rfl | rfl <;> simp [ibitWide, ibitWideD]
  | source h => simp [ibitWide, ibitWideD, show f ≤ 3 by omega, show ¬ 3 ≤ f by omega]
  | single h =>
    obtain ⟨h4, h11, h12⟩ := h
    simp [ibitWide, ibitWideD, h11, h12, show ¬ f ≤ 3 by omega]

/-- An IBIT word writes its result function. `e` is the word's own meaning, as in `writesD_ialu`. -/
theorem writesD_ibit {i : Bool → Instr} {f : Nat} {d a b : BitVec 7} {v : Ctx → Nat → List Word} {w wd : Nat → Bool} (hp : PairedAs f w wd)
    (e : Bool → State → Out) (he : ∀ z s, exec (i z) s = e z s := by intros; rfl)
    (hw : ∀ z s, e z s = execIbit f z d a b s := by intros; rfl)
    (hv : ∀ c l, wordsOf (wd c.et) (ibitRes f (if w c.et then 64 else 32) (c.readNat (w c.et) (decide (c.et = 6)) a l)
      (c.readNat (w c.et) (decide (c.et = 6)) b l) (c.readNat (wd c.et) (decide (c.et = 6)) d l)) = v c l := by intros; rfl) :
    WritesD i (ibitSig f d a b) d v := by
  refine writesD_intro _ _ _ _ _ (ibitBody f d a b) (fun z s => (he z s).trans (hw z s)) fun _ _ c _ => ⟨1, _, rfl, ?_⟩
  obtain ⟨hsrc, hdst⟩ := ibitWide_of_pairedAs hp c.et
  refine congrArg (writeRegs c d · _) (funext fun l => ?_)
  rw [hsrc, hdst]
  exact hv c l

/-- Settles O2: each function is the model's own once the widths of its positions are told. -/
theorem bitResults : Obligations.BitResults := by
  unfold Obligations.BitResults
  intro d a b
  exact ⟨writesD_ibit .source (execClz · d a), writesD_ibit .source (execCtz · d a), writesD_ibit .source (execPopc · d a),
         writesD_ibit .all (execBrev · d a), writesD_ibit .single (execBil3 · d a b), writesD_ibit .single (execBdil3 · d a b),
         writesD_ibit .single (execBil2 · d a b), writesD_ibit .single (execBdil2 · d a), writesD_ibit .single (execBfx · d a b),
         writesD_ibit .single (execBfxs · d a b), writesD_ibit .single (execBfi · d a b), writesD_ibit .all (execMov · d a),
         writesD_ibit .all (execSel · d a b), writesD_ibit .single (execPerm · d a b)⟩

/-! ### IMAD (R144, R145) -/

/-- The accepted types of 64 bits are those of the functions with pairs (R137, R144). -/
theorem imadWide_of_accepted {f : Nat} {c : Ctx} (hf : f < 4) (h : imadEt f c.et = true) : imadWide f c = etWide c.et := by
  simp only [imadWide, Ctx.int64]
  generalize c.et = et at h ⊢
  match f, hf, h with
  | 0, _, h | 1, _, h =>
    simp only [imadEt, Bool.or_eq_true, beq_iff_eq] at h
    rcases h with ((rfl | rfl) | rfl) | rfl <;> rfl
  | 2, _, h | 3, _, h =>
    simp only [imadEt, Bool.or_eq_true, beq_iff_eq] at h
    rcases h with rfl | rfl <;> rfl

/-- An IMAD word writes its result function. `e` is the word's own meaning, as in `writesD_ialu`. -/
theorem writesD_imad {i : Bool → Instr} {f : Nat} {d a b : BitVec 7} {v : Ctx → Nat → List Word} (e : Bool → State → Out)
    (he : ∀ z s, exec (i z) s = e z s := by intros; rfl) (hw : ∀ z s, e z s = execImadF f z d a b s := by intros; rfl)
    (hf : f < 4 := by decide)
    (hv : ∀ c l, wordsOf (etWide c.et) (imadRes f (etWidth c.et) (etSigned c.et) (modeSatOf c.p.mode) (c.readNat (etWide c.et) false a l)
      (c.readNat (etWide c.et) false b l) (c.readNat (etWide c.et) false d l)) = v c l := by intros; rfl) :
    WritesD i (imadSig f d a b) d v := by
  refine writesD_intro _ _ _ _ _ (imadBody f d a b) (fun z s => (he z s).trans (hw z s)) fun _ _ c h => ⟨_, _, rfl, ?_⟩
  have accepted : imadEt f c.et = true := by simpa [imadSig] using badMode_of_checks h.checks
  refine congrArg (writeRegs c d · _) (funext fun l => ?_)
  rw [imadWide_of_accepted hf accepted]
  exact hv c l

/-- IDOT4 (R145) adds the sum of four products of bytes. -/
theorem imadRes_dot (n : Nat) (signed sat : Bool) (a b d : Nat) :
    imadRes 2 n signed sat a b d = fitInt sat n signed (intOf n signed d +
      ((List.range 4).map fun j => intOf 8 signed (byteOf a j) * intOf 8 signed (byteOf b j)).sum) := by
  simp [imadRes, List.range_succ, add_assoc]

/-- ISAD (R145) adds the sum of four distances of bytes. -/
theorem imadRes_sad (n : Nat) (signed sat : Bool) (a b d : Nat) :
    imadRes 3 n signed sat a b d = wrapInt n (intOf n signed d +
      ((List.range 4).map fun j => |(byteOf a j : Int) - (byteOf b j : Int)|).sum) := by
  simp [imadRes, List.range_succ, add_assoc]

/-! ### ICMP (R146, R147) -/

/-- An ICMP word writes all ones where its condition holds. `e` is the word's own meaning, as in `writesD_ialu`. -/
theorem writesD_icmp {i : Bool → Instr} {f : Nat} {d a b : BitVec 7} {v : Ctx → Nat → List Word} (e : Bool → State → Out)
    (he : ∀ z s, exec (i z) s = e z s := by intros; rfl) (hw : ∀ z s, e z s = execIcmp f z d a b s := by intros; rfl)
    (hv : ∀ c l, [condWord (icmpCond f (etWidth c.et) (c.readNat (etWide c.et) false a l) (c.readNat (etWide c.et) false b l))] = v c l := by
      intros; rfl) :
    WritesD i (icmpSig d a b) d v :=
  writesD_intro _ _ _ _ _ (icmpBody f d a b) (fun z s => (he z s).trans (hw z s)) fun _ _ c _ =>
    ⟨_, _, rfl, congrArg (writeRegs c d · _) (funext (hv c))⟩

/-- Settles O3: IDOT4 and ISAD by the sums of their four bytes; the other functions and every condition are the model's own. -/
theorem multiplyAddAndCompareResults : Obligations.MultiplyAddAndCompareResults := by
  unfold Obligations.MultiplyAddAndCompareResults
  refine ⟨?multiplyAdd, ?compare⟩
  case multiplyAdd =>
    intro d a b
    exact ⟨writesD_imad (execImad · d a b), writesD_imad (execImadh · d a b),
           writesD_imad (execIdot4 · d a b) (hv := fun _ _ => by rw [imadRes_dot]; rfl),
           writesD_imad (execIsad · d a b) (hv := fun _ _ => by rw [imadRes_sad]; rfl)⟩
  case compare =>
    intro d a b
    exact ⟨writesD_icmp (execIcmpEq · d a b), writesD_icmp (execIcmpNe · d a b), writesD_icmp (execIcmpLt · d a b),
           writesD_icmp (execIcmpLe · d a b), writesD_icmp (execIcmpGt · d a b), writesD_icmp (execIcmpGe · d a b),
           writesD_icmp (execIcmpLtn · d a b), writesD_icmp (execIcmpLen · d a b), writesD_icmp (execIcmpGtn · d a b),
           writesD_icmp (execIcmpGen · d a b), writesD_icmp (execIcmpTstz · d a b), writesD_icmp (execIcmpTstnz · d a b)⟩

/-! ### ADDR (R148, R149) and NOP (R89) -/

/-- An ADDR word writes its result as a pair. `e` is the word's own meaning, as in `writesD_ialu`. -/
theorem writesD_addr {i : Bool → Instr} {f : Nat} {d a b : BitVec 7} {y : Ctx → Nat → Int} (e : Bool → State → Out)
    (he : ∀ z s, exec (i z) s = e z s := by intros; rfl) (hw : ∀ z s, e z s = execAddr f z d a b s := by intros; rfl)
    (hv : ∀ c l, addrRes f (c.read64 false a l) (c.read64 false b l) (c.read b l) = BitVec.ofInt 64 (y c l)) :
    WritesD i (addrSig f d a b) d fun c l => words64 (BitVec.ofInt 64 (y c l)) :=
  writesD_intro _ _ _ _ _ (addrBody f d a b) (fun z s => (he z s).trans (hw z s)) fun _ _ c _ =>
    ⟨1, _, rfl, congrArg (writeRegs c d · _) (funext fun l => congrArg words64 (hv c l))⟩

section Results

variable (a b : DWord) (x : Word)

theorem addrRes_add : addrRes 0 a b x = BitVec.ofInt 64 (a.toNat + b.toNat) := by
  simp [addrRes, BitVec.ofInt_add]

theorem addrRes_sub : addrRes 1 a b x = BitVec.ofInt 64 (a.toNat - b.toNat) := by
  rw [sub_eq_add_neg, BitVec.ofInt_add, BitVec.ofInt_neg]
  simp [addrRes, BitVec.sub_eq_add_neg]

/-- LEA1 to LEA16 (R149) add the signed word, scaled by a power of two. -/
theorem addrRes_lea (k : Nat) (hk : k ≤ 4) : addrRes (k + 2) a b x = BitVec.ofInt 64 (a.toNat + x.toInt * 2 ^ k) := by
  have scaled : x.signExtend 64 <<< k = BitVec.ofInt 64 (x.toInt * 2 ^ k) := by
    rw [BitVec.shiftLeft_eq_mul_twoPow, BitVec.ofInt_mul]
    congr 1
    interval_cases k <;> rfl
  have lea : addrRes (k + 2) a b x = a + x.signExtend 64 <<< k := by
    interval_cases k <;> rfl
  simp [lea, scaled, BitVec.ofInt_add]

theorem addrRes_mov : addrRes 7 a b x = BitVec.ofInt 64 a.toNat := by
  simp [addrRes]

theorem addrRes_shl : addrRes 8 a b x = BitVec.ofInt 64 (if 64 ≤ x.toNat then 0 else a.toNat * 2 ^ x.toNat) := by
  simp only [addrRes]
  split
  case isTrue h => rfl
  case isFalse h =>
    refine BitVec.eq_of_toNat_eq ?_
    rw [BitVec.toNat_shiftLeft, Nat.shiftLeft_eq]
    norm_cast

theorem addrRes_shr : addrRes 9 a b x = BitVec.ofInt 64 (if 64 ≤ x.toNat then 0 else a.toNat / 2 ^ x.toNat) := by
  simp only [addrRes]
  split
  case isTrue h => rfl
  case isFalse h =>
    have small : a.toNat / 2 ^ x.toNat < 2 ^ 64 := (Nat.div_le_self ..).trans_lt a.isLt
    refine BitVec.eq_of_toNat_eq ?_
    rw [BitVec.toNat_ushiftRight, Nat.shiftRight_eq_div_pow]
    exact_mod_cast (Nat.mod_eq_of_lt small).symm

end Results

/-- A write to ZERO changes nothing (R78). -/
theorem writeRegs_zero (c : Ctx) (f : Nat → List Word) (s : State) : writeRegs c 0x78#7 f s = s := rfl

/-- Settles O4: each result is the pair's sum, difference or shift over the integers; NOP is a write to ZERO. -/
theorem addressResults : Obligations.AddressResults := by
  unfold Obligations.AddressResults
  intro d a b
  refine ⟨writesD_addr (execAdd64 · d a b) (hv := fun _ _ => addrRes_add ..), writesD_addr (execSub64 · d a b) (hv := fun _ _ => addrRes_sub ..),
    writesD_addr (execLea1 · d a b) (hv := fun _ _ => addrRes_lea _ _ _ 0 (by decide)),
    writesD_addr (execLea2 · d a b) (hv := fun _ _ => addrRes_lea _ _ _ 1 (by decide)),
    writesD_addr (execLea4 · d a b) (hv := fun _ _ => addrRes_lea _ _ _ 2 (by decide)),
    writesD_addr (execLea8 · d a b) (hv := fun _ _ => addrRes_lea _ _ _ 3 (by decide)),
    writesD_addr (execLea16 · d a b) (hv := fun _ _ => addrRes_lea _ _ _ 4 (by decide)),
    writesD_addr (execMov64 · d a) (hv := fun _ _ => addrRes_mov ..), writesD_addr (execShl64 · d a b) (hv := fun _ _ => addrRes_shl ..),
    writesD_addr (execShr64 · d a b) (hv := fun _ _ => addrRes_shr ..), ?nop⟩
  case nop =>
    exact writesD_intro _ _ _ _ idleWord idleWord (fun _ _ => rfl) fun _ s c _ => ⟨1, begun c _ s, rfl, (writeRegs_zero ..).symm⟩

end Sys2Proof.Proofs
end

section

/-! ## Float, conversion and record words (O5 to O7) -/

namespace Sys2Proof.Proofs
open Sys2Proof.Machine Sys2Proof.Laws Sys2Proof.Safety

/-- A word whose body writes `v` to `d` and falls through completes by that write. `e` is the word's own meaning, which `he` and `hw` tie to
`exec` and to the issue of a word with this body. -/
theorem writesD_body {i : Bool → Instr} {sig : Ctx → Sig} {d : BitVec 7} {v : Ctx → Nat → List Word} {k : Ctx → Nat}
    {idle : Ctx → State → Res} (body : Ctx → State → Res) (e : Bool → State → Out)
    (he : ∀ z s, exec (i z) s = e z s := by intros; rfl) (hw : ∀ z s, e z s = issueWord z sig idle body s := by intros; rfl)
    (hv : ∀ c s, body c s = .fall (writeRegs c d (v c) s) (k c) := by intros; rfl) : WritesD i sig d v :=
  writesD_intro _ _ _ _ idle body (fun z s => (he z s).trans (hw z s)) fun _ _ c _ => ⟨k c, _, hv c _, rfl⟩

/-! ### FALU (R161 to R163) -/

/-- Every FALU function but FCLS writes its result as a number of the format: a pair under F64 (R161). -/
theorem faluBody_eq {f : Nat} (hf : (f != 7) = true) (d a b : BitVec 7) (c : Ctx) (s : State) :
    faluBody f d a b c s = .fall (writeRegs c d (fun l => wordsOf c.f64 (faluRes f (fmtOf c.et) c.rnd c.ftz
      (c.readNat c.f64 true a l) (c.readNat c.f64 true b l) (c.read b l).toNat)) s) (f64Cost c) := by
  simp only [faluBody, writeNat, hf, Bool.and_true]

/-- FCLS writes its class mask to one register whatever the format (R161, R163). -/
theorem faluBody_fcls (d a b : BitVec 7) (c : Ctx) (s : State) :
    faluBody 7 d a b c s = .fall (writeRegs c d (fun l => wordsOf false (fclsMask (fmtOf c.et) (c.readNat c.f64 true a l))) s) (f64Cost c) := by
  simp only [faluBody, writeNat, faluRes, bne_self_eq_false, Bool.and_false]

/-- A FALU word other than FCLS writes its result function. `e` is the word's own meaning, as in `writesD_body`. -/
theorem writesD_falu {i : Bool → Instr} {f : Nat} {d a b : BitVec 7} {v : Ctx → Nat → List Word} (e : Bool → State → Out)
    (he : ∀ z s, exec (i z) s = e z s := by intros; rfl) (hw : ∀ z s, e z s = execFalu f z d a b s := by intros; rfl)
    (hf : (f != 7) = true := by decide)
    (hv : ∀ c l, wordsOf c.f64 (faluRes f (fmtOf c.et) c.rnd c.ftz (c.readNat c.f64 true a l) (c.readNat c.f64 true b l)
      (c.read b l).toNat) = v c l := by intros; rfl) :
    WritesD i (faluSig f d a b) d v :=
  writesD_body (faluBody f d a b) e he hw fun c s =>
    (faluBody_eq hf d a b c s).trans (congrArg (fun g => Res.fall (writeRegs c d g s) (f64Cost c)) (funext (hv c)))

/-- Settles O5: the functions are the model's own once the width of the destination is told, which FCLS alone fixes. -/
theorem floatResults : Obligations.FloatResults := by
  unfold Obligations.FloatResults
  intro d a b
  exact ⟨writesD_falu (execFadd · d a b), writesD_falu (execFsub · d a b), writesD_falu (execFmul · d a b),
         writesD_falu (execFmin · d a b), writesD_falu (execFmax · d a b), writesD_falu (execFabs · d a), writesD_falu (execFneg · d a),
         writesD_body (faluBody 7 d a 0#7) (execFcls · d a) (hv := faluBody_fcls d a 0#7),
         writesD_falu (execFminm · d a b), writesD_falu (execFmaxm · d a b), writesD_falu (execFrnd · d a), writesD_falu (execFscl · d a b),
         writesD_falu (execFcpy · d a b)⟩

/-! ### FFMA and FCMP (R164 to R167) -/

/-- Settles O6: each word's body is the stated write, whose functions `ffmaRes` and `fcmpCond` evaluate to the stated ones. -/
theorem fusedAndFloatCompares : Obligations.FusedAndFloatCompares := by
  unfold Obligations.FusedAndFloatCompares
  intro d a b
  exact ⟨writesD_body (ffmaBody 0 d a b) (execFfma · d a b), writesD_body (ffmaBody 1 d a b) (execFfms · d a b),
         writesD_body (ffmaBody 2 d a b) (execFnma · d a b),
         writesD_body (fcmpBody 0 d a b) (execFcmpEq · d a b), writesD_body (fcmpBody 1 d a b) (execFcmpNe · d a b),
         writesD_body (fcmpBody 2 d a b) (execFcmpLt · d a b), writesD_body (fcmpBody 3 d a b) (execFcmpLe · d a b),
         writesD_body (fcmpBody 4 d a b) (execFcmpGt · d a b), writesD_body (fcmpBody 5 d a b) (execFcmpGe · d a b),
         writesD_body (fcmpBody 6 d a b) (execFcmpUn · d a b), writesD_body (fcmpBody 7 d a b) (execFcmpOrd · d a b)⟩

/-! ### CVT, NRW and WID (R168 to R174) -/

/-- Settles O7: CVT and CVTS convert under MODE.RND and CVTZ toward zero; every body is the stated write. -/
theorem conversionResults : Obligations.ConversionResults := by
  unfold Obligations.ConversionResults
  intro d a b x k
  exact ⟨writesD_body (fun c => cvtBody c.rnd false d a c) (execCvt · d a), writesD_body (cvtBody 1 false d a) (execCvtz · d a),
         writesD_body (fun c => cvtBody c.rnd true d a c) (execCvts · d a),
         writesD_body (pack2Body d a b) (execPack2 · d a b),
         writesD_body (unpkBody false d a) (execUnpk · d a), writesD_body (unpkBody true d a) (execUnpkh · d a),
         writesD_body (nrwBody d a b x k) (execNrw · d a b x k),
         writesD_body (wideBody d a b) (execWide · d a b), writesD_body (wide4Body d a b) (execWide4 · d a b),
         writesD_body (scaleofBody d a) (execScaleof · d a), writesD_body (setscBody d a) (execSetsc · d a)⟩

end Sys2Proof.Proofs
end

section

/-! ## Cross-lane and special-function words (O8 to O10) -/

namespace Sys2Proof.Proofs
open Sys2Proof.Machine Sys2Proof.Laws Sys2Proof.Safety

/-! ### Words over a domain (R175, R176) -/

/-- A is settled and unpoisoned in every lane of the domain (R109, R176). -/
def Settled (c : Ctx) (o : Opd) : Prop := domainHits c o = [] ∧ readsPoison c.w (domainLanes c) [o] = false

theorem domainRes_settled {c : Ctx} {o : Opd} (h : Settled c o) (s : State) (r : Res) : domainRes c o s r = r := by
  obtain ⟨hits, clean⟩ := h
  simp [domainRes, hits, clean]

/-- A word over a domain that writes `v` completes by that write once its source is settled. `e` is the word's own meaning, as in
`writesD_body`. -/
theorem writesDIf_domain {i : Bool → Instr} {sig : Ctx → Sig} {d : BitVec 7} {v : Ctx → Nat → List Word} {o : Ctx → Opd} {k : Ctx → Nat}
    {idle : Ctx → State → Res} (body : Ctx → State → Res) (e : Bool → State → Out)
    (he : ∀ z s, exec (i z) s = e z s := by intros; rfl) (hw : ∀ z s, e z s = issueWord z sig idle body s := by intros; rfl)
    (hv : ∀ c s, body c s = domainRes c (o c) s (.fall (writeRegs c d (v c) s) (k c)) := by intros; rfl) :
    WritesDIf (fun _ c => Settled c (o c)) i sig d v :=
  writesDIf_intro _ _ _ _ _ idle body (fun z s => (he z s).trans (hw z s)) fun _ _ c _ h =>
    ⟨k c, _, (hv c _).trans (domainRes_settled h ..), rfl⟩

/-! ### XLANE (R178, R179) -/

/-- BALLOT's mask (R179) is the sum of the bits of the active lanes whose A is nonzero. -/
theorem ballotMask_eq (c : Ctx) (a : BitVec 7) :
    ballotMask c a = ((c.act.filter fun l => decide (c.read a l ≠ 0#32)).map fun l => 2 ^ (l - 4 * c.p.q)).sum := by
  rw [List.sum_eq_foldl, List.foldl_map, List.foldl_filter]
  rfl

theorem mul_b2n (m : Nat) (b : Bool) : m * b2n b = if b then m else 0 := by
  cases b <;> simp [b2n]

/-- VOTE writes its three flags (R179). -/
theorem voteBody_eq (d a : BitVec 7) (c : Ctx) (s : State) :
    voteBody d a c s = domainRes c (rd a) s (.fall (writeRegs c d (fun _ => wordsOf false
      ((if c.act.any (fun l => decide (c.read a l ≠ 0#32)) then 1 else 0) +
       (if c.act.all (fun l => decide (c.read a l ≠ 0#32)) then 2 else 0) +
       (if c.act.all (fun l => decide (c.read a l = c.read a c.l0)) then 4 else 0))) s) 2) := by
  rw [← mul_b2n 2, ← mul_b2n 4]
  rfl

/-- Settles O8: each shuffle is the model's own once its function is told; BALLOT's mask is a sum, as VOTE's flags are. -/
theorem shuffleResults : Obligations.ShuffleResults := by
  unfold Obligations.ShuffleResults
  intro d a b p
  exact ⟨writesDIf_domain (shflBody 0 d a b) (execShfl · d a b p), writesDIf_domain (shflBody 1 d a b) (execShflx · d a b p),
         writesDIf_domain (shflBody 2 d a b) (execShflu · d a b p), writesDIf_domain (shflBody 3 d a b) (execShfld · d a b p),
         writesDIf_domain (shflBody 4 d a b) (execBcst · d a b p), writesDIf_domain (shflBody 5 d a b) (execQswz · d a b p),
         writesDIf_domain (ballotBody d a) (execBallot · d a p) (hv := fun c _ => by rw [← ballotMask_eq]; rfl),
         writesDIf_domain (voteBody d a) (execVote · d a p) (hv := voteBody_eq d a)⟩

/-! ### The lanes of a part, in order (R87) -/

theorem blockLanes_sorted (q n : Nat) : (blockLanes q n).Pairwise (· < ·) :=
  (List.pairwise_map.2 (List.pairwise_lt_range.imp fun h => Nat.add_lt_add_right h _)).filter _

theorem length_blockLanes_le (q n : Nat) : (blockLanes q n).length ≤ 64 := by
  have sub : blockLanes q n ⊆ List.range 64 := fun l h => by simpa using (List.mem_filter.1 h).2
  simpa using (List.subperm_of_subset (blockLanes_sorted q n).nodup sub).length_le

/-- The domain's lanes that are active are all the active lanes (R181). -/
theorem domainLanes_filter_act {c : Ctx} (h : c.act = activeLanes c.w c.p) : (domainLanes c).filter (c.act.contains ·) = c.act := by
  rw [h]
  refine List.filter_congr fun l hl => ?_
  rw [Bool.eq_iff_iff, List.contains_iff_mem]
  exact ⟨fun hm => (List.mem_filter.1 hm).2, fun hm => List.mem_filter.2 ⟨hl, hm⟩⟩

/-! ### The tree of R181

A reduction is told by a relation `P` between the numbers that went into a subtree and the number that came out of it: if `P` holds at each
leaf and the combination keeps it, it holds of the active lanes and the result. -/

/-- A position of the tree holds what its subtree's numbers come to, and is absent where there are none. -/
def Holds (P : List Nat → Nat → Prop) (xs : List Nat) : Option Nat → Prop
  | some x => P xs x
  | none => xs = []

/-- The positions of a level, one after another, hold what the numbers `xs` come to. -/
inductive Covers (P : List Nat → Nat → Prop) : List Nat → List (Option Nat) → Prop where
  | nil : Covers P [] []
  | cons {xs ys : List Nat} {x : Option Nat} {t : List (Option Nat)} (h : Holds P xs x) (r : Covers P ys t) : Covers P (xs ++ ys) (x :: t)

/-- The leaves hold the numbers of the lanes that are present. -/
theorem covers_leaves {P : List Nat → Nat → Prop} (p : Nat → Bool) (g : Nat → Nat) (ls : List Nat)
    (one : ∀ l ∈ ls, p l = true → P [g l] (g l)) : Covers P ((ls.filter p).map g) (ls.map fun l => if p l then some (g l) else none) := by
  induction ls with
  | nil => exact .nil
  | cons l ls ih =>
    obtain ⟨here, rest⟩ := List.forall_mem_cons.1 one
    cases hl : p l with
    | true => simpa [hl] using Covers.cons (show Holds P [g l] (some (g l)) from here hl) (ih rest)
    | false => simpa [hl] using Covers.cons (show Holds P [] none from rfl) (ih rest)

/-- The top holds what all the numbers come to. -/
theorem covers_top {P : List Nat → Nat → Prop} {xs : List Nat} {t : List (Option Nat)} (h : Covers P xs t) (hn : t.length ≤ 1) (hx : xs ≠ []) :
    P xs ((t.headD none).getD 0) := by
  cases h with
  | nil => exact absurd rfl hx
  | @cons xs ys x t h r =>
    obtain rfl : t = [] := List.length_eq_zero_iff.1 (by simpa using hn)
    cases r
    rw [List.append_nil] at hx ⊢
    cases x with
    | some x => exact h
    | none => exact absurd h hx

section Tree

variable {P : List Nat → Nat → Prop} {op : Nat → Nat → Nat} (join : ∀ xs ys x y, P xs x → P ys y → P (xs ++ ys) (op x y))

include join

theorem holds_comb {xs ys : List Nat} {x y : Option Nat} (hx : Holds P xs x) (hy : Holds P ys y) : Holds P (xs ++ ys) (wredComb op x y) := by
  match x, y with
  | some x, some y => exact join _ _ _ _ hx hy
  | some x, none => obtain rfl : ys = [] := hy; simpa [wredComb] using hx
  | none, y => obtain rfl : xs = [] := hx; simpa [wredComb] using hy

theorem covers_level {xs : List Nat} {t : List (Option Nat)} (h : Covers P xs t) : Covers P xs (wredLevel op t) := by
  match t, h with
  | [], h => exact h
  | [_], h => exact h
  | _ :: _ :: _, .cons hx (.cons hy r) =>
    rw [← List.append_assoc]
    exact .cons (holds_comb join hx hy) (covers_level r)

theorem covers_tree {xs : List Nat} (fuel : Nat) {t : List (Option Nat)} (h : Covers P xs t) : Covers P xs (wredTree op fuel t) := by
  induction fuel generalizing t with
  | zero => exact h
  | succ fuel ih =>
    rw [wredTree]
    split
    · exact h
    · exact ih (covers_level join h)

end Tree

theorem length_wredLevel (op : Nat → Nat → Nat) : ∀ t, (wredLevel op t).length = (t.length + 1) / 2
  | [] => rfl
  | [x] => by simp [wredLevel]
  | x :: y :: t => by simp only [wredLevel, List.length_cons, length_wredLevel op t]; omega

/-- As many levels as the logarithm of the positions leave one. -/
theorem length_wredTree_le (op : Nat → Nat → Nat) (fuel : Nat) {t : List (Option Nat)} (h : t.length ≤ 2 ^ fuel) :
    (wredTree op fuel t).length ≤ 1 := by
  induction fuel generalizing t with
  | zero => exact h
  | succ fuel ih =>
    rw [wredTree]
    split
    · assumption
    · exact ih (by rw [length_wredLevel]; omega)

/-! ### Numbers combined (R180, R181) -/

/-- `x` is a number of `xs` whose key is least. -/
def LeastBy (key : Nat → Int) (xs : List Nat) (x : Nat) : Prop := x ∈ xs ∧ ∀ y ∈ xs, key x ≤ key y

theorem leastBy_singleton (key : Nat → Int) (x : Nat) : LeastBy key [x] x := by
  simp [LeastBy]

theorem leastBy_append {key : Nat → Int} {xs ys : List Nat} {x y : Nat} (hx : LeastBy key xs x) (hy : LeastBy key ys y) :
    LeastBy key (xs ++ ys) (if key y < key x then y else x) := by
  obtain ⟨mx, lx⟩ := hx
  obtain ⟨my, ly⟩ := hy
  split
  case isTrue h =>
    exact ⟨List.mem_append_right _ my, List.forall_mem_append.2 ⟨fun k hk => h.le.trans (lx k hk), ly⟩⟩
  case isFalse h =>
    exact ⟨List.mem_append_left _ mx, List.forall_mem_append.2 ⟨lx, fun k hk => (not_lt.1 h).trans (ly k hk)⟩⟩

theorem foldl_xor_append (xs ys : List Nat) :
    (xs ++ ys).foldl (· ^^^ ·) 0 = xs.foldl (· ^^^ ·) 0 ^^^ ys.foldl (· ^^^ ·) 0 := by
  have : Std.Associative fun x y : Nat => x ^^^ y := ⟨Nat.xor_assoc⟩
  rw [List.foldl_append, ← List.foldl_assoc (op := (· ^^^ ·)), Nat.xor_zero]

/-! ### Integer WRED (R180 to R182) -/

/-- The pattern of A that an integer WRED word takes from a lane (R114, R181). -/
def wredPat (c : Ctx) (a : BitVec 7) (l : Nat) : Nat := c.readNat (etWide c.et) false a l % 2 ^ etWidth c.et

theorem etFloat_of_etInt {et : Nat} (h : etInt et = true) : etFloat et = false := by
  simp [etInt, etFloat] at h ⊢
  omega

section Integer

variable {c : Ctx} (hint : etInt c.et = true)

include hint

theorem wredIn_int (a : BitVec 7) : wredIn c a = wredPat c a := by
  have hf := etFloat_of_etInt hint
  have h6 : c.et ≠ 6 := fun h => by simp [h, etFloat] at hf
  funext l
  simp [wredIn, wredPat, hf, h6]

theorem wredAdd_int : wredAdd c.et c.rnd c.ftz = fun x y => (x + y) % 2 ^ etWidth c.et := by
  funext x y
  simp [wredAdd, etFloat_of_etInt hint]

theorem wredPair_min : wredPair 1 c.et =
    fun x y => if intOf (etWidth c.et) (etSigned c.et) y < intOf (etWidth c.et) (etSigned c.et) x then y else x := by
  funext x y
  simp [wredPair, etFloat_of_etInt hint]

/-- The greatest is the least by the negated value. -/
theorem wredPair_max : wredPair 2 c.et =
    fun x y => if -intOf (etWidth c.et) (etSigned c.et) y < -intOf (etWidth c.et) (etSigned c.et) x then y else x := by
  funext x y
  simp [wredPair, etFloat_of_etInt hint]

/-- A scan's value in a lane (R182) is what it started from and the sum of the lanes up to that one, which counts itself or not. -/
theorem cellsGet_wredScan (excl : Bool) (a : BitVec 7) {l acc : Nat} {ls : List Nat}
    (sorted : ls.Pairwise (· < ·)) (hl : l ∈ ls) (hacc : acc < 2 ^ etWidth c.et) :
    cellsGet 0 (wredScan excl c a acc ls) l =
      (acc + ((ls.filter fun k => if excl then decide (k < l) else decide (k ≤ l)).map (wredPat c a)).sum) % 2 ^ etWidth c.et := by
  induction ls generalizing acc with
  | nil => cases hl
  | cons k ls ih =>
    obtain ⟨above, sorted⟩ := List.pairwise_cons.1 sorted
    simp only [wredScan, cellsGet, wredIn_int hint, wredAdd_int hint]
    obtain rfl | hl := List.mem_cons.1 hl
    · have none_above : (ls.filter fun k => if excl then decide (k < l) else decide (k ≤ l)) = [] := by
        refine List.filter_eq_nil_iff.2 fun k hk => ?_
        have := above k hk
        cases excl <;> simp <;> omega
      rw [if_pos rfl, List.filter_cons, none_above]
      cases excl <;> simp [Nat.mod_eq_of_lt hacc]
    · have lt := above l hl
      rw [if_neg (Nat.ne_of_gt lt), ih sorted hl (Nat.mod_lt _ (Nat.two_pow_pos _)), Nat.mod_add_mod]
      cases excl <;> simp [lt, lt.le, Nat.add_assoc]

variable (hlanes : c.act = activeLanes c.w c.p) (hne : c.act ≠ [])

include hlanes hne

/-- What each leaf satisfies and the combination keeps is so of the active lanes' patterns and the reduction (R181). -/
theorem wredRes_int {P : List Nat → Nat → Prop} {op : Nat → Nat → Nat} (f : Nat) (a : BitVec 7)
    (hop : (if f = 0 then wredAdd c.et c.rnd c.ftz else wredPair f c.et) = op) (one : ∀ x < 2 ^ etWidth c.et, P [x] x)
    (join : ∀ xs ys x y, P xs x → P ys y → P (xs ++ ys) (op x y)) : P (c.act.map (wredPat c a)) (wredRes f a c) := by
  have leaves := covers_leaves (P := P) (c.act.contains ·) (wredPat c a) (domainLanes c)
    fun l _ _ => one _ (Nat.mod_lt _ (Nat.two_pow_pos _))
  rw [domainLanes_filter_act hlanes] at leaves
  have top := covers_top (covers_tree join 6 leaves)
    (length_wredTree_le op 6 (by simpa [domainLanes] using length_blockLanes_le c.p.q c.p.n)) (by simpa using hne)
  simpa only [wredRes, hop, wredIn_int hint, etFloat_of_etInt hint, Bool.false_and, Bool.false_eq_true, if_false] using top

variable (a : BitVec 7)

theorem wredRes_add : wredRes 0 a c = (c.act.map (wredPat c a)).sum % 2 ^ etWidth c.et :=
  wredRes_int (P := fun xs x => x = xs.sum % 2 ^ etWidth c.et) hint hlanes hne 0 a (wredAdd_int hint) (fun x hx => by simp [Nat.mod_eq_of_lt hx])
    fun xs ys x y hx hy => by rw [hx, hy, List.sum_append]; exact (Nat.add_mod ..).symm

theorem wredRes_min : LeastBy (intOf (etWidth c.et) (etSigned c.et)) (c.act.map (wredPat c a)) (wredRes 1 a c) :=
  wredRes_int hint hlanes hne 1 a (wredPair_min hint) (fun _ _ => leastBy_singleton ..) fun _ _ _ _ => leastBy_append

theorem wredRes_max : LeastBy (fun x => -intOf (etWidth c.et) (etSigned c.et) x) (c.act.map (wredPat c a)) (wredRes 2 a c) :=
  wredRes_int hint hlanes hne 2 a (wredPair_max hint) (fun _ _ => leastBy_singleton ..) fun _ _ _ _ => leastBy_append

theorem testBit_wredRes_and (i : Nat) : (wredRes 3 a c).testBit i = (c.act.map (wredPat c a)).all (·.testBit i) :=
  wredRes_int (P := fun xs x => x.testBit i = xs.all (·.testBit i)) hint hlanes hne 3 a rfl (fun x _ => by simp) fun xs ys x y hx hy => by
    rw [List.all_append, ← hx, ← hy]
    exact Nat.testBit_and x y i

theorem testBit_wredRes_or (i : Nat) : (wredRes 4 a c).testBit i = (c.act.map (wredPat c a)).any (·.testBit i) :=
  wredRes_int (P := fun xs x => x.testBit i = xs.any (·.testBit i)) hint hlanes hne 4 a rfl (fun x _ => by simp) fun xs ys x y hx hy => by
    rw [List.any_append, ← hx, ← hy]
    exact Nat.testBit_or x y i

theorem wredRes_xor : wredRes 5 a c = (c.act.map (wredPat c a)).foldl (· ^^^ ·) 0 :=
  wredRes_int (P := fun xs x => x = xs.foldl (· ^^^ ·) 0) hint hlanes hne 5 a rfl (fun x _ => by simp) fun xs ys x y hx hy => by
    rw [foldl_xor_append, ← hx, ← hy]
    rfl

end Integer

/-- The lanes of the issuing part are in order (R87). -/
theorem act_sorted {c : Ctx} (h : c.act = activeLanes c.w c.p) : c.act.Pairwise (· < ·) := by
  rw [h]
  exact (blockLanes_sorted ..).filter _

/-- Settles O9: each word by its body; under an integer type the tree gives what `wredRes_int` carries up it, and a scan its running sum. -/
theorem reductionResults : Obligations.ReductionResults := by
  unfold Obligations.ReductionResults
  refine ⟨fun d a p => ?completes, fun z s c a hc hne hint => ?integers⟩
  case completes =>
    exact ⟨writesDIf_domain (wredBody 0 d a) (execRedadd · d a p), writesDIf_domain (wredBody 1 d a) (execRedmin · d a p),
           writesDIf_domain (wredBody 2 d a) (execRedmax · d a p), writesDIf_domain (wredBody 3 d a) (execRedand · d a p),
           writesDIf_domain (wredBody 4 d a) (execRedor · d a p), writesDIf_domain (wredBody 5 d a) (execRedxor · d a p),
           writesDIf_domain (wredBody 6 d a) (execScanadd · d a p), writesDIf_domain (wredBody 7 d a) (execScanaddx · d a p)⟩
  case integers =>
    obtain ⟨-, -, -, hlanes⟩ := issueCtx_eq z s c hc
    obtain ⟨min_mem, min_le⟩ := wredRes_min hint hlanes hne a
    obtain ⟨max_mem, max_le⟩ := wredRes_max hint hlanes hne a
    have scan := fun excl l (hl : l ∈ c.act) => cellsGet_wredScan hint excl a (act_sorted hlanes) hl (Nat.two_pow_pos _)
    simp only [List.forall_mem_map] at min_le max_le
    simp only [Nat.zero_add] at scan
    exact ⟨wredRes_add hint hlanes hne a,
           fun i => (testBit_wredRes_and hint hlanes hne a i).trans List.all_map,
           fun i => (testBit_wredRes_or hint hlanes hne a i).trans List.any_map,
           wredRes_xor hint hlanes hne a, ⟨min_mem, min_le⟩, ⟨max_mem, fun l hl => neg_le_neg_iff.1 (max_le l hl)⟩,
           scan false, scan true⟩

/-! ### SFN (R183, R184) -/

/-- The state with one more writeback of a special-function word, which its event counts (R184). -/
def sfnEnqueued (f : Nat) (d a : BitVec 7) (k : BitVec 4) (c : Ctx) (s : State) : State :=
  countEvent (coreOf c.key) 0x0D c.p.n c.w.ctx
    ({ s with nextId := s.nextId + 1 }.modPart c.key c.q fun p => { p with pend := p.pend ++ [sfnPend f d a k c s] })

section Sfn

variable {f : Nat} {d a : BitVec 7} {k : BitVec 4} {c : Ctx} {s : State}

theorem sfnBody_room (h : sfnQueued s (quarterOf c.key) + c.p.n ≤ 64) : sfnBody f d a k c s = .fall (sfnEnqueued f d a k c s) 1 :=
  if_neg (Nat.not_lt.2 h)

theorem sfnBody_full (h : ¬ sfnQueued s (quarterOf c.key) + c.p.n ≤ 64) : sfnBody f d a k c s = .brk (.cond (.sfnRoom c.p.n)) :=
  if_pos (Nat.not_le.1 h)

end Sfn

/-- There is room in the quarter's queue when the word takes its effect (R184). -/
def SfnRoom (hi : Bool) (d a : BitVec 7) (k : BitVec 4) (s : State) (c : Ctx) : Prop :=
  sfnQueued (begun c (sfnSig hi d a k c) s) (quarterOf c.key) + c.p.n ≤ 64

/-- A special-function word enqueues its results or waits for room. `e` is the word's own meaning, as in `writesD_body`. -/
theorem sfn_enqueues_or_waits {i : Bool → Instr} {f : Nat} {hi : Bool} {d a : BitVec 7} {k : BitVec 4} (e : Bool → State → Out)
    (he : ∀ z s, exec (i z) s = e z s := by intros; rfl)
    (hw : ∀ z s, e z s = issueWord z (sfnSig hi d a k) idleWord (sfnBody f d a k) s := by intros; rfl) :
    FallsIf (SfnRoom hi d a k) i (sfnSig hi d a k) (fun _ => 1) (sfnEnqueued f d a k) ∧
    WaitsIf (fun s c => ¬ SfnRoom hi d a k s c) i (sfnSig hi d a k) (fun c => .cond (.sfnRoom c.p.n)) :=
  have issues := fun z s => (he z s).trans (hw z s)
  ⟨fallsIf_intro _ _ _ _ _ _ _ issues fun _ _ _ _ => sfnBody_room, waitsIf_intro _ _ _ _ _ _ issues fun _ _ _ _ => sfnBody_full⟩

/-- Settles O10: each word by whether the queue has room for it. -/
theorem specialFunctionIssue : Obligations.SpecialFunctionIssue := by
  unfold Obligations.SpecialFunctionIssue
  intro d a k
  exact ⟨sfn_enqueues_or_waits (execRcp · d a k), sfn_enqueues_or_waits (execRsq · d a k), sfn_enqueues_or_waits (execSqrt · d a k),
         sfn_enqueues_or_waits (execExp2 · d a k), sfn_enqueues_or_waits (execLog2 · d a k), sfn_enqueues_or_waits (execSin · d a k),
         sfn_enqueues_or_waits (execCos · d a k), sfn_enqueues_or_waits (execTanh · d a k), sfn_enqueues_or_waits (execSigm · d a k),
         sfn_enqueues_or_waits (execErf · d a k), sfn_enqueues_or_waits (execSilu · d a k), sfn_enqueues_or_waits (execAtan · d a k)⟩

end Sys2Proof.Proofs
end

section

/-! ## Matrix words (O13) -/

namespace Sys2Proof.Proofs
open Sys2Proof.Machine Sys2Proof.Laws Sys2Proof.Safety

/-! ### Acceptance (R190) -/

section Version

variable {t : BitVec 3} {v : BitVec 4} {k : Ctx → State → Res} {c : Ctx} {s : State}

theorem versionStep_accepts (hv : (c.w.tile t.toNat).va = v.toNat) (room : (c.w.tile t.toNat).ops.length < 8) :
    versionStep true t v k c s = k c s := by
  simp [versionStep, hv, Nat.not_le.2 room]

theorem versionStep_full (hv : (c.w.tile t.toNat).va = v.toNat) (full : 8 ≤ (c.w.tile t.toNat).ops.length) :
    versionStep true t v k c s = .brk (.cond (.tileRoom t.toNat)) := by
  simp [versionStep, hv, full]

theorem versionStep_pending {acts : Bool} (hv : (c.w.tile t.toNat).va ≠ v.toNat) (pending : (c.w.tile t.toNat).ops ≠ []) :
    versionStep acts t v k c s = .brk (.cond (.tile t.toNat v.toNat)) := by
  simp [versionStep, hv, pending]

theorem versionStep_traps {acts : Bool} (hv : (c.w.tile t.toNat).va ≠ v.toNat) (settled : (c.w.tile t.toNat).ops = []) (live : c.act ≠ []) :
    versionStep acts t v k c s = .trap s (tileTrap 9 c t.toNat v.toNat 0) := by
  simp [versionStep, hv, settled, live]

end Version

/-- A matrix word accepted under `P` has the effect that its own steps come to. `e` is the word's own meaning, which `he` and `hw` tie to `exec`
and to the version step. -/
theorem fallsIf_matrix {i : Bool → Instr} {sig : Ctx → Sig} {t : BitVec 3} {v : BitVec 4} {P : Ctx → Prop} {eff : Ctx → State → State}
    {idle k : Ctx → State → Res} (e : Bool → State → Out)
    (hk : ∀ c s, P c → k c s = .fall (eff c s) 1)
    (he : ∀ z s, exec (i z) s = e z s := by intros; rfl)
    (hw : ∀ z s, e z s = issueWord z sig idle (versionStep true t v k) s := by intros; rfl) :
    FallsIf (fun _ c => ((c.w.tile t.toNat).va = v.toNat ∧ (c.w.tile t.toNat).ops.length < 8) ∧ P c) i sig (fun _ => 1) eff :=
  fallsIf_intro _ _ _ _ _ _ _ (fun z s => (he z s).trans (hw z s)) fun _ _ c _ ⟨⟨hv, room⟩, hP⟩ =>
    (versionStep_accepts hv room).trans (hk c _ hP)

/-- VERSION (R190): what every matrix word does away from its version, or with eight operations pending. -/
theorem matrix_waits_or_traps {i : Bool → Instr} {sig : Ctx → Sig} {t : BitVec 3} {v : BitVec 4} {idle k : Ctx → State → Res}
    (e : Bool → State → Out)
    (he : ∀ z s, exec (i z) s = e z s := by intros; rfl)
    (hw : ∀ z s, e z s = issueWord z sig idle (versionStep true t v k) s := by intros; rfl) :
    WaitsIf (fun _ c => (c.w.tile t.toNat).va ≠ v.toNat ∧ (c.w.tile t.toNat).ops ≠ []) i sig (fun _ => .cond (.tile t.toNat v.toNat)) ∧
    WaitsIf (fun _ c => ¬ (c.w.tile t.toNat).va ≠ v.toNat ∧ 8 ≤ (c.w.tile t.toNat).ops.length) i sig (fun _ => .cond (.tileRoom t.toNat)) ∧
    TrapsIf (fun _ c => (c.w.tile t.toNat).va ≠ v.toNat ∧ (c.w.tile t.toNat).ops = []) i sig (fun c => tileTrap 9 c t.toNat v.toNat 0) :=
  have issues := fun z s => (he z s).trans (hw z s)
  ⟨waitsIf_intro _ _ _ _ _ _ issues fun _ _ _ _ ⟨hv, pending⟩ => versionStep_pending hv pending,
   waitsIf_intro _ _ _ _ _ _ issues fun _ _ _ _ ⟨hv, full⟩ => versionStep_full (not_not.1 hv) full,
   trapsIf_intro _ _ _ _ _ _ issues fun _ _ _ ready ⟨hv, settled⟩ => versionStep_traps hv settled ready.live⟩

/-! ### Elements of pairs of active lanes (R193) -/

/-- A table over lanes gives back what it was made of. -/
theorem kgetD_map_mem {α : Type} (d : α) (f : Nat → α) {ls : List Nat} {l : Nat} (hl : l ∈ ls) :
    kgetD d (ls.map fun x => (x, f x)) l = f l := by
  induction ls with
  | nil => cases hl
  | cons x xs ih =>
    by_cases hx : l = x
    · simp [kgetD, kget, hx]
    · simpa [kgetD, kget, hx] using ih (List.mem_of_ne_of_mem hx hl)

/-- Only active lanes supply rows and columns. -/
theorem newElems_congr {c : Ctx} {t : Nat} {f g : Word → Nat → Nat → Word} (h : ∀ i ∈ c.act, ∀ j ∈ c.act, ∀ x, f x i j = g x i j) :
    newElems c t f = newElems c t g :=
  List.flatMap_congr fun i hi => List.map_congr_left fun j hj => congrArg (Prod.mk _) (h i hi j hj _)

/-! ### MMA (R200) -/

/-- The state after an accepted MMA: an operation on the tile, whose shape is fixed, and POISON for a poison scale of an S8 record. -/
def mmaAccepted (t : BitVec 3) (a b : BitVec 7) (c : Ctx) (s : State) : State :=
  let ka := bitsOf (fmtWord c) 3 0
  let kb := bitsOf (fmtWord c) 7 4
  poisonPart c (c.act.any (fun l => s8Poison ka (laneRow c a ka l)) || c.act.any fun l => s8Poison kb (laneRow c b kb l))
    (acceptOp c t.toNat false (newElems c t.toNat fun x i j => mmaAcc (fmtWord c) x (laneRow c a ka i) (laneRow c b kb j))
      (fun x => { x with width := 4 * c.p.n, s32 := false }) s)

theorem mmaAccept_accepted {t : BitVec 3} {v : BitVec 4} {a b : BitVec 7} (c : Ctx) (s : State)
    (h : fmtTrap .mma c t.toNat v.toNat = none ∧ (rdSpan a (rowRegs (bitsOf (fmtWord c) 3 0))).bound c.w c.act = none ∧
      (rdSpan b (rowRegs (bitsOf (fmtWord c) 7 4))).bound c.w c.act = none ∧ fixTrap c t.toNat v.toNat false = none) :
    mmaAccept t v a b c s = .fall (mmaAccepted t a b c s) 1 := by
  obtain ⟨fmt, boundA, boundB, fix⟩ := h
  simp only [mmaAccept, fmt, boundA, boundB, fix, Option.none_or, List.any_map, Function.comp_def, mmaAccepted]
  rw [newElems_congr fun i hi j hj x => by rw [kgetD_map_mem 0 _ hi, kgetD_map_mem 0 _ hj]]

/-! ### MMAT (R200 to R203) -/

/-- The codes of a column image, dense or sparse, and whether it names a position twice. -/
def mmatCodes (sparse : Bool) (b : Nat) : List Nat × Bool := if sparse then sparseCodes b else (denseCodes b, false)

/-- The rows of A that the active lanes supply to MMAT, two records each (R192). -/
def mmatRows (a : BitVec 7) (c : Ctx) : List (Nat × Nat × Nat) := c.act.map fun l => (l, tRow c a l)

/-- The columns of B that the active lanes supply to MMAT (R192). -/
def mmatCols (b : BitVec 6) (c : Ctx) : List (Nat × Nat) := c.act.map fun l => (l, natOfWords (c.readSpan (b.zeroExtend 7) 5 l))

/-- The shape after an accepted MMAT: width and type fixed, and the scales that are new to it recorded. -/
def mmatShape (a : BitVec 7) (b : BitVec 6) (c : Ctx) (x : TileMeta) : TileMeta :=
  { x with
    width := 4 * c.p.n, s32 := true,
    sa := (mmatRows a c).foldl (fun r y => scaleNote (scaleNote r (rowOf c y.1, recScale y.2.1)) (rowOf c y.1, recScale y.2.2)) x.sa,
    sb := (mmatCols b c).foldl (fun r y => scaleNote r (rowOf c y.1, recScale y.2)) x.sb }

/-- The state after an accepted MMAT: an operation on the tile, whose shape is `mmatShape`, and POISON for a poison scale, a position named twice
or the code 0b10. -/
def mmatAccepted (sparse : Bool) (t : BitVec 3) (a : BitVec 7) (b : BitVec 6) (c : Ctx) (s : State) : State :=
  let col := fun l => natOfWords (c.readSpan (b.zeroExtend 7) 5 l)
  let codes := fun l => mmatCodes sparse (col l)
  poisonPart c (c.act.any (fun l => recScale (tRow c a l).1 == 0xFF || recScale (tRow c a l).2 == 0xFF) ||
      c.act.any fun l => recScale (col l) == 0xFF || (codes l).2 || (codes l).1.any (· == 2))
    (acceptOp c t.toNat false (newElems c t.toNat fun x i j => accT2 x (tRow c a i).1 (tRow c a i).2 (col j) (codes j).1) (mmatShape a b c) s)

theorem mmatAccept_accepted {sparse : Bool} {t : BitVec 3} {v : BitVec 4} {a : BitVec 7} {b : BitVec 6} (c : Ctx) (s : State)
    (h : fmtTrap .mmat c t.toNat v.toNat = none ∧ fixTrap c t.toNat v.toNat true = none ∧
      scaleTrap c t.toNat v.toNat (mmatRows a c) (mmatCols b c) = none) :
    mmatAccept sparse t v a b c s = .fall (mmatAccepted sparse t a b c s) 1 := by
  obtain ⟨fmt, fix, scale⟩ := h
  simp only [mmatRows, mmatCols] at scale
  simp only [mmatAccept, fmt, fix, scale, Option.none_or, List.any_map, List.map_map, Function.comp_def, mmatAccepted, mmatCodes]
  rw [newElems_congr fun i hi j hj x => by rw [kgetD_map_mem (0, 0) _ hi, kgetD_map_mem (0, [], false) _ hj]]
  rfl

/-! ### MTILE (R205, R206) -/

/-- The state after an accepted AMOVR: a read of the tile's row of each lane. -/
def amovrAccepted (t : BitVec 3) (a : BitVec 7) (l : BitVec 4) (c : Ctx) (s : State) : State :=
  readTile c t.toNat a l.toNat (fun i => (List.range (4 * c.p.n)).map fun j => tileElem (c.w.tile t.toNat).settled (rowOf c i) j) s

theorem amovrAccept_accepted {t : BitVec 3} {v l : BitVec 4} {a : BitVec 7} (c : Ctx) (s : State) (h : widthTrap c t.toNat v.toNat = none) :
    amovrAccept t v a l.toNat c s = .fall (amovrAccepted t a l c s) 1 := by
  simp only [amovrAccept, h, amovrAccepted]

/-- The state after an accepted AMOVW: an operation that puts each lane's registers into its row. -/
def amovwAccepted (t : BitVec 3) (a : BitVec 7) (c : Ctx) (s : State) : State :=
  acceptOp c t.toNat false (c.act.flatMap fun i => (List.range (4 * c.p.n)).map fun j => (64 * rowOf c i + j, c.readAt a j i)) id s

theorem amovwAccept_accepted {t : BitVec 3} {v : BitVec 4} {a : BitVec 7} (c : Ctx) (s : State) (h : widthTrap c t.toNat v.toNat = none) :
    amovwAccept t v a c s = .fall (amovwAccepted t a c s) 1 := by
  simp only [amovwAccept, h, amovwAccepted]

/-- The state after an accepted ASCL: a read of the tile's row of each lane, scaled, converted and packed. -/
def asclAccepted (t : BitVec 3) (a : BitVec 7) (l : BitVec 4) (c : Ctx) (s : State) : State :=
  let x := c.w.tile t.toNat
  let bits := etWidth c.et
  let k := sintOf 8 (bitsOf (fmtWord c) 23 16)
  let elem := fun i j =>
    convTo c.et c.rnd (modeSatOf c.p.mode) false false (asclValue x.accepted k (rowOf c i) j (tileElem x.settled (rowOf c i) j))
  readTile c t.toNat a l.toNat (fun i => (List.range (4 * c.p.n * bits / 32)).map fun m => packElems bits (32 / bits) (elem i) m) s

theorem asclAccept_accepted {t : BitVec 3} {v l : BitVec 4} {a : BitVec 7} (c : Ctx) (s : State)
    (h : fmtTrap .ascl c t.toNat v.toNat = none ∧ widthTrap c t.toNat v.toNat = none) :
    asclAccept t v a l.toNat c s = .fall (asclAccepted t a l c s) 1 := by
  obtain ⟨fmt, width⟩ := h
  simp only [asclAccept, fmt, width, Option.none_or, asclAccepted]

/-- Settles O13: each word is accepted with the state that its own steps leave, and waits or traps as the version step of R190 says. -/
theorem matrixWords : Obligations.MatrixWords := by
  unfold Obligations.MatrixWords
  refine ⟨fun t a b b6 v l => ⟨?mma, ?mmat, ?mmatSp, ?aclr, ?amovr, ?amovw, ?ascl⟩, fun t a b b6 v l => ?version⟩
  case mma => exact fallsIf_matrix (execMma · t a b v l) mmaAccept_accepted
  case mmat => exact fallsIf_matrix (execMmat · t a b6 v l) (mmatAccept_accepted (sparse := false))
  case mmatSp => exact fallsIf_matrix (execMmatSp · t a b6 v l) (mmatAccept_accepted (sparse := true))
  case aclr =>
    exact fallsIf_intro _ _ _ _ _ _ _ (fun _ _ => rfl) fun _ _ _ _ ⟨hv, room⟩ => versionStep_accepts hv room
  case amovr => exact fallsIf_matrix (execAmovr · t a v l) amovrAccept_accepted
  case amovw => exact fallsIf_matrix (execAmovw · t a v l) amovwAccept_accepted
  case ascl => exact fallsIf_matrix (execAscl · t a v l) asclAccept_accepted
  case version =>
    exact ⟨matrix_waits_or_traps (execMma · t a b v l), matrix_waits_or_traps (execMmat · t a b6 v l),
      matrix_waits_or_traps (execMmatSp · t a b6 v l), matrix_waits_or_traps (execAclr · t v l), matrix_waits_or_traps (execAmovr · t a v l),
      matrix_waits_or_traps (execAmovw · t a v l), matrix_waits_or_traps (execAscl · t a v l)⟩

end Sys2Proof.Proofs
end

section

/-! ## Words that end, trap, return, yield, set the role and sleep (O24) -/

namespace Sys2Proof.Proofs
open Sys2Proof.Machine Sys2Proof.Laws Sys2Proof.Safety

/-- A word that, with no active lane, places its part itself, and whose run goes on or ends. -/
theorem idlePlacesIf_intro (P : State → Ctx → Prop) (i : Bool → Instr) (sig : Ctx → Sig) (ended : Option Nat) (eff : Ctx → State → State)
    (idle body : Ctx → State → Res) (he : ∀ z s, exec (i z) s = issueWord z sig idle body s) (hn : ∀ c, (sig c).minQuads = none)
    (hb : ∀ s c, P s c → finish c s (idle c (begun c noSig s)) = .next (endWord c (passes c.p.n) ended (eff c (begun c noSig s)))) :
    IdlePlacesIf P i ended eff := by
  intro z s c hc hg hp ha hP
  rw [he, issueWord_idle z sig idle body s c hc hg hp (by simp [tooNarrow, hn]) ha, hb s c hP]

/-! ### The meanings of the words (R212) -/

theorem exec_endW (z : Bool) (s : State) : exec (.endW z) s = execEndW z s := rfl

theorem exec_trap (z : Bool) (i : BitVec 14) (s : State) : exec (.trap z i) s = execTrap z i s := rfl

theorem exec_role (z : Bool) (r : BitVec 2) (s : State) : exec (.role z r) s = execRole z r s := rfl

theorem exec_sleep (z : Bool) (i : BitVec 14) (s : State) : exec (.sleep z i) s = execSleep z i s := rfl

/-- What ERET comes to with an active lane (R221). -/
def eretBody (c : Ctx) (s : State) : Res :=
  if !c.p.handler then .trap s (illegal 0x29 0x02)
  else if aligned4 (returnPc c.p) then .stay (s.modPart c.key c.q (leaveHandler (cycleOf s (coreOf c.key)) (returnPc c.p)))
  else .trap s (pcAlign (returnPc c.p))

/-- What ERET comes to with none (R91, R212): where it would trap it has no effect. -/
def eretIdle (c : Ctx) (s : State) : Res :=
  if c.p.handler && aligned4 (returnPc c.p) then .stay (s.modPart c.key c.q (leaveHandler (cycleOf s (coreOf c.key)) (returnPc c.p)))
  else .fall s 1

theorem exec_eret (z : Bool) (s : State) : exec (.eret z) s = issueWord z (fun _ => { maj := 0x29 }) eretIdle eretBody s := rfl

/-- What YIELD comes to with an active lane (R216). -/
def yieldBody (d : BitVec 7) (c : Ctx) (s : State) : Res :=
  if !mayYield c then .trap s (illegal 0x29 0x02)
  else if aligned4 (c.read d 0) then yieldTo c (c.read d 0) s
  else .trap s (pcAlign (c.read d 0))

/-- What YIELD comes to with none (R91, R212): where it would trap it has no effect. -/
def yieldIdle (d : BitVec 7) (c : Ctx) (s : State) : Res :=
  if mayYield c && codeIsW d && aligned4 (c.read d 0) then idleReads c [rd d] (yieldTo c (c.read d 0) s) else .fall s 1

theorem exec_yield (z : Bool) (d : BitVec 7) (s : State) :
    exec (.yield z d) s =
      issueWord z (fun _ => { maj := 0x29, opds := [{ code := d, allow := .wOnly }] }) (yieldIdle d) (yieldBody d) s := rfl

/-- What BKPT comes to with an active lane (R223). -/
def bkptBody (i : BitVec 14) (c : Ctx) (s : State) : Res :=
  if attached s c.w then .custom ((fallThrough c s).modWave c.key fun w => { w with stopReq := some 1 }) 2
  else .trap s { cause := 0x14, info := i.zeroExtend 32, following := true }

theorem exec_bkpt (z : Bool) (i : BitVec 14) (s : State) :
    exec (.bkpt z i) s = issueWord z (fun _ => { maj := 0x29 }) idleWord (bkptBody i) s := rfl

/-! ### ERET (R221) -/

section Eret

variable {c : Ctx} {s : State}

theorem eretBody_outside (h : c.p.handler = false) : eretBody c s = .trap s (illegal 0x29 0x02) :=
  if_pos (by rw [h]; rfl)

theorem eretBody_unaligned (h : c.p.handler = true) (hpc : ¬ returnPc c.p &&& 3#32 = 0#32) : eretBody c s = .trap s (pcAlign (returnPc c.p)) :=
  (if_neg (by simp [h])).trans (if_neg (mt (aligned4_iff _).1 hpc))

theorem eretBody_aligned (h : c.p.handler = true) (hpc : returnPc c.p &&& 3#32 = 0#32) :
    eretBody c s = .stay (s.modPart c.key c.q (leaveHandler (cycleOf s (coreOf c.key)) (returnPc c.p))) :=
  (if_neg (by simp [h])).trans (if_pos ((aligned4_iff _).2 hpc))

/-- The two conditions under which ERET returns. -/
theorem eret_returns_iff (p : Part) :
    (p.handler && aligned4 (returnPc p)) = true ↔ p.handler = true ∧ returnPc p &&& 3#32 = 0#32 := by
  rw [Bool.and_eq_true, aligned4_iff]

theorem eretIdle_returns (h : c.p.handler = true ∧ returnPc c.p &&& 3#32 = 0#32) :
    eretIdle c s = .stay (s.modPart c.key c.q (leaveHandler (cycleOf s (coreOf c.key)) (returnPc c.p))) :=
  if_pos ((eret_returns_iff c.p).2 h)

theorem eretIdle_falls (h : ¬ (c.p.handler = true ∧ returnPc c.p &&& 3#32 = 0#32)) : eretIdle c s = .fall s 1 :=
  if_neg (mt (eret_returns_iff c.p).1 h)

end Eret

/-! ### YIELD (R216) -/

section Yield

variable {c : Ctx} {d : BitVec 7} {s : State}

/-- YIELD is legal in a handler entered by PREEMPT. -/
theorem mayYield_iff (c : Ctx) : mayYield c = true ↔ c.p.handler = true ∧ c.p.entry = 0x15 := by
  rw [mayYield, Bool.and_eq_true, decide_eq_true_eq]

theorem yieldBody_outside (h : ¬ (c.p.handler = true ∧ c.p.entry = 0x15)) : yieldBody d c s = .trap s (illegal 0x29 0x02) :=
  if_pos (by simp [mt (mayYield_iff c).1 h])

theorem yieldBody_unaligned (h : c.p.handler = true ∧ c.p.entry = 0x15) (hpc : ¬ c.read d 0 &&& 3#32 = 0#32) :
    yieldBody d c s = .trap s (pcAlign (c.read d 0)) :=
  (if_neg (by simp [(mayYield_iff c).2 h])).trans (if_neg (mt (aligned4_iff _).1 hpc))

theorem yieldBody_aligned (h : c.p.handler = true ∧ c.p.entry = 0x15) (hpc : c.read d 0 &&& 3#32 = 0#32) :
    yieldBody d c s = yieldTo c (c.read d 0) s :=
  (if_neg (by simp [(mayYield_iff c).2 h])).trans (if_pos ((aligned4_iff _).2 hpc))

variable {pc : Word}

/-- YIELD waits for special-function results first (R186). -/
theorem yieldTo_tokens (ht : tokenPending c.p 0x3FFF = true) : yieldTo c pc s = .hold s (.cond (.tokens 0x3FFF)) :=
  if_pos ht

/-- Then it waits for ray traversals (R417). -/
theorem yieldTo_rays (ht : tokenPending c.p 0x3FFF = false) (hr : raysPending c.p = true) : yieldTo c pc s = .hold s (.cond .rays) :=
  (if_neg (Bool.not_eq_true _ ▸ ht)).trans (if_pos hr)

/-- With neither pending the part gives up its registers (R69). -/
theorem yieldTo_yields (h : ¬ (tokenPending c.p 0x3FFF = true ∨ raysPending c.p = true)) :
    yieldTo c pc s = .custom (parkWg c.w.wg ((yieldTravs c (landAll c.key c.q s)).modWave c.key (yieldWave c.q pc))) 2 := by
  obtain ⟨ht, hr⟩ := not_or.1 h
  exact (if_neg ht).trans (if_neg hr)

end Yield

/-! ### BKPT (R223) -/

theorem attached_iff (s : State) (w : Wave) :
    attached s w = true ↔ s.dev.dbgOpen = true ∧ (s.ctx w.partition w.ctx).bkpt = true := by
  rw [attached, Bool.and_eq_true]

/-- Beginning a word attaches no debugger. -/
theorem attached_begun (c : Ctx) (g : Sig) (s : State) (w : Wave) : attached (begun c g s) w = attached s w := rfl

/-- Settles O24: each word by whether it is legal where it stands, and with an address by whether that is a multiple of 4. -/
theorem systemWords : Obligations.SystemWords := by
  refine fun d i r => ⟨?endW, ?trap, ?bkptStops, ?bkptTraps, ?eretOutside, ?eretBad, ?eretReturns, ?yieldOutside, ?yieldBad, ?yields,
    ?yieldTokens, ?yieldRays, ?role, ?sleep, ?idleEret, ?idleEretFalls, ?idleRole, ?idleSleep⟩
  case endW => exact placesIf_intro _ _ _ _ _ _ _ exec_endW fun _ _ _ _ _ => rfl
  case trap => exact trapsIf_intro _ _ _ _ _ _ (exec_trap · i) fun _ _ _ _ _ => rfl
  case bkptStops =>
    exact placesIf_intro _ _ _ _ _ _ _ (exec_bkpt · i) fun _ s c _ h => if_pos ((attached_begun c _ s c.w).trans ((attached_iff s c.w).2 h))
  case bkptTraps =>
    exact trapsIf_intro _ _ _ _ _ _ (exec_bkpt · i) fun _ s c _ h => if_neg fun ha => h ((attached_iff s c.w).1 (attached_begun c _ s c.w ▸ ha))
  case eretOutside => exact trapsIf_intro _ _ _ _ _ _ exec_eret fun _ _ _ _ h => eretBody_outside h
  case eretBad => exact trapsIf_intro _ _ _ _ _ _ exec_eret fun _ _ _ _ ⟨h, hpc⟩ => eretBody_unaligned h hpc
  case eretReturns => exact placesIf_intro _ _ _ _ _ _ _ exec_eret fun _ _ _ _ ⟨h, hpc⟩ => eretBody_aligned h hpc
  case yieldOutside => exact trapsIf_intro _ _ _ _ _ _ (exec_yield · d) fun _ _ _ _ h => yieldBody_outside h
  case yieldBad => exact trapsIf_intro _ _ _ _ _ _ (exec_yield · d) fun _ _ _ _ ⟨h, hpc⟩ => yieldBody_unaligned h hpc
  case yields =>
    exact placesIf_intro _ _ _ _ _ _ _ (exec_yield · d) fun _ _ _ _ ⟨h, hpc, hbusy⟩ =>
      (yieldBody_aligned h hpc).trans (yieldTo_yields hbusy)
  case yieldTokens =>
    exact holdsIf_intro _ _ _ _ _ _ _ (exec_yield · d) fun _ _ _ _ ⟨h, hpc, ht⟩ => (yieldBody_aligned h hpc).trans (yieldTo_tokens ht)
  case yieldRays =>
    exact holdsIf_intro _ _ _ _ _ _ _ (exec_yield · d) fun _ _ _ _ ⟨h, hpc, ht, hr⟩ =>
      (yieldBody_aligned h hpc).trans (yieldTo_rays ht hr)
  case role => exact fallsIf_intro _ _ _ _ _ _ _ (exec_role · r) fun _ _ _ _ _ => rfl
  case sleep => exact restsIf_intro _ _ _ _ _ _ _ (exec_sleep · i) fun _ _ _ _ _ => rfl
  case idleEret =>
    exact idlePlacesIf_intro _ _ _ _ _ _ _ exec_eret (fun _ => rfl) fun _ _ h => by rw [eretIdle_returns h]; rfl
  case idleEretFalls => exact idlesFor_intro _ _ _ _ _ _ _ exec_eret (fun _ => rfl) fun _ _ h => eretIdle_falls h
  case idleRole =>
    exact fun hr => idlesFor_intro _ _ _ _ _ _ _ (exec_role · r) (fun _ => rfl) fun _ _ _ => by rw [if_neg hr]; rfl
  case idleSleep => exact idlePlacesIf_intro _ _ _ _ _ _ _ (exec_sleep · i) (fun _ => rfl) fun _ _ _ => rfl

end Sys2Proof.Proofs
end

section

/-! ## Taking an exception (O54) -/

namespace Sys2Proof.Proofs
open Sys2Proof.Machine Sys2Proof.Laws Sys2Proof.Safety

/-! ### The end of a wave (R213, R217): the first quads of its parts, one part after another -/

/-- The first quads of the parts of the wave at a key, if there is one. -/
def quadsAt (s : State) (key : Nat) : Option (List Nat) := (s.wave key).map fun w => w.parts.map (·.q)

theorem quadsAt_of_wave {s : State} {key : Nat} {w : Wave} (hw : s.wave key = some w) : quadsAt s key = some (w.parts.map (·.q)) := by
  rw [quadsAt, hw, Option.map_some]

theorem quadsAt_eq_none_iff {s : State} {key : Nat} : quadsAt s key = none ↔ s.wave key = none := by
  rw [quadsAt, Option.map_eq_none_iff]

theorem quadsAt_of_waves {s t : State} (key : Nat) (h : t.waves = s.waves) : quadsAt t key = quadsAt s key := by
  rw [quadsAt, quadsAt, wave_eq s t key h]

theorem partMod_quads (f : Part → Part) (hf : ∀ p, (f p).q = p.q) (ps : List Part) (q : Nat) :
    (partMod f ps q).map (·.q) = ps.map (·.q) := by
  induction ps with
  | nil => rfl
  | cons p ps ih =>
    unfold partMod
    split
    · simp [hf]
    · simp [ih]

/-- The part has a view and writebacks as they are once its windows have closed. -/
def closedPart (w : Wave) (p : Part) : Part → Part :=
  landedPart (landHeld w p p.pend).2.w ((landHeld w p p.pend).2.pend.map fun x => { x with window := 0 })

@[simp] theorem closedPart_q (w : Wave) (p x : Part) : (closedPart w p x).q = x.q := rfl

/-- The windows of a part close: registers of its wave and the part's own view and writebacks are new (R62). -/
theorem wave_closeWindows {s : State} {key q : Nat} {w : Wave} {p : Part} (hw : s.wave key = some w) (hp : partAt w.parts q = some p) :
    (closeWindows key q s).wave key =
      some { (landHeld w p p.pend).1 with parts := partMod (closedPart w p) w.parts q } := by
  obtain ⟨hparts, hpart⟩ := landHeld_frame p.pend w p
  rw [closeWindows, wave_modWave_same, hw, Option.map_some, hp]
  dsimp only
  rw [hparts, partMod_congr hp (g := closedPart w p)]
  rw [hpart]
  rfl

theorem quadsAt_closeWindows (s : State) (key q : Nat) : quadsAt (closeWindows key q s) key = quadsAt s key := by
  cases hw : s.wave key with
  | none => rw [quadsAt, quadsAt, closeWindows, wave_modWave_same, hw, Option.map_none]
  | some w =>
    cases hp : partAt w.parts q with
    | none => rw [quadsAt, quadsAt, closeWindows, wave_modWave_same, hw, Option.map_some, hp]
    | some p =>
      rw [quadsAt_of_wave hw, quadsAt_of_wave (wave_closeWindows hw hp)]
      exact congrArg some (partMod_quads _ (closedPart_q w p) w.parts q)

/-- The end of a run rests the parts where they stand. -/
theorem quadsAt_endRun (s : State) (key cause : Nat) : quadsAt (endRun key cause s) key = quadsAt s key := by
  cases hw : s.wave key with
  | none =>
    have hget : kget s.waves key = none := hw
    rw [endRun, hget]
    cases kget s.runs (quarterOf key) <;> rfl
  | some w =>
    obtain ⟨f, hf, hend⟩ := wave_endRun cause hw
    rw [quadsAt_of_wave hw, quadsAt_of_wave hend, List.map_map]
    exact congrArg some (List.map_congr_left fun p _ => by rw [Function.comp_apply, hf p])

@[simp] theorem releasePart_q (cycle b : Nat) (phase : Bool) (p : Part) : (releasePart cycle b phase p).q = p.q := by
  unfold releasePart
  split
  · split <;> simp
  · split <;> rfl
  · rfl

/-- A change of a set of waves keeps what it keeps of each wave. -/
theorem map_kget_modWaves {α : Type} {f : Wave → Wave} {g : Wave → α} (h : ∀ w, g (f w) = g w) (ks : List Nat) (k : Nat) :
    ∀ m : KMap Wave, (kget (modWaves f m ks) k).map g = (kget m k).map g := by
  induction ks with
  | nil => exact fun _ => rfl
  | cons a ks ih =>
    intro m
    rw [modWaves, ih]
    by_cases ha : k = a
    · rw [ha, kget_kmod_same, Option.map_map, show g ∘ f = g from funext h]
    · rw [kget_kmod_other f m a k ha]

/-- What the completion of a barrier phase keeps: parts that go on stay where they are, and no grid changes. -/
theorem completeBar_kept (id b : Nat) (s : State) (key : Nat) :
    quadsAt (completeBar id b s) key = quadsAt s key ∧ (completeBar id b s).grids = s.grids := by
  unfold completeBar
  split
  · exact ⟨rfl, rfl⟩
  · dsimp only
    split_ifs
    · exact ⟨rfl, rfl⟩
    · refine ⟨map_kget_modWaves (fun w => ?_) _ key s.waves, rfl⟩
      simp
    · exact ⟨rfl, rfl⟩

theorem recountBars_kept (id : Nat) (s : State) (key : Nat) :
    quadsAt (recountBars id s) key = quadsAt s key ∧ (recountBars id s).grids = s.grids := by
  unfold recountBars
  split
  · exact ⟨rfl, rfl⟩
  · dsimp only
    refine List.foldlRecOn (motive := fun t => quadsAt t key = quadsAt s key ∧ t.grids = s.grids) _ _ ⟨rfl, rfl⟩
      fun u ⟨hquads, hgrids⟩ e _ => ?_
    obtain ⟨hq, hg⟩ := completeBar_kept id e.1 u key
    exact ⟨hq.trans hquads, hg.trans hgrids⟩

/-! ### What becomes of the grids -/

/-- The completion status and the fault summary of a grid. -/
def outcomeAt (s : State) (id : Nat) : Option (Nat × Nat) := (kget s.grids id).map fun g => (g.status, g.fsum)

/-- Every grid has the status and the fault summary that it had. -/
def SameOutcomes (s t : State) : Prop := ∀ id, outcomeAt t id = outcomeAt s id

theorem sameOutcomes_of_grids {s t : State} (h : t.grids = s.grids) : SameOutcomes s t := fun id => by
  rw [outcomeAt, outcomeAt, h]

theorem SameOutcomes.trans {s t u : State} (h1 : SameOutcomes s t) (h2 : SameOutcomes t u) : SameOutcomes s u := fun id =>
  (h2 id).trans (h1 id)

/-- Wherever the grids are the same, so is what came of them. -/
theorem SameOutcomes.of_grids {s t u : State} (h : SameOutcomes s t) (hu : u.grids = t.grids) : SameOutcomes s u :=
  h.trans (sameOutcomes_of_grids hu)

theorem sameOutcomes_modGrid (s : State) (id : Nat) {f : Grid → Grid} (hf : ∀ g, (f g).status = g.status ∧ (f g).fsum = g.fsum) :
    SameOutcomes s (s.modGrid id f) := fun a => by
  unfold outcomeAt State.modGrid
  dsimp only
  by_cases ha : a = id
  · rw [ha, kget_kmod_same, Option.map_map]
    refine congrArg (Option.map · _) (funext fun g => ?_)
    obtain ⟨hstatus, hfsum⟩ := hf g
    rw [Function.comp_apply, hstatus, hfsum]
  · rw [kget_kmod_other f s.grids id a ha]

theorem unfuse_grids (core : Nat) (s : State) : (unfuse core s).grids = s.grids := by
  unfold unfuse
  split
  · rfl
  · exact (memoryOnly_performStores _ _ _).grids

/-- What freeing a workgroup keeps: every wave, and what came of every grid. -/
theorem freeWg_kept (id : Nat) (s : State) : (freeWg id s).waves = s.waves ∧ SameOutcomes s (freeWg id s) := by
  unfold freeWg
  split
  · exact ⟨rfl, sameOutcomes_of_grids rfl⟩
  · rename_i g _
    split_ifs
    · exact ⟨rfl, sameOutcomes_of_grids rfl⟩
    · have hcount : SameOutcomes s (s.modGrid g.grid fun x => { x with ended := x.ended + 1 }) :=
        sameOutcomes_modGrid s g.grid fun _ => ⟨rfl, rfl⟩
      exact ⟨(unfuse_kept g.core _).1, hcount.of_grids (unfuse_grids g.core _)⟩
    · exact ⟨rfl, sameOutcomes_of_grids rfl⟩

/-- A wave that ends is gone, and by itself it decides nothing for its grid. -/
theorem endWave_kept {s : State} {key : Nat} {w : Wave} (hw : s.wave key = some w) :
    (endWave key s).waves = kdel s.waves key ∧ SameOutcomes s (endWave key s) := by
  have hget : kget s.waves key = some w := hw
  have hsig : SameOutcomes s (recordSig w (traceEnded key { s with waves := kdel s.waves key })) :=
    sameOutcomes_modGrid (traceEnded key { s with waves := kdel s.waves key }) w.grid fun _ => ⟨rfl, rfl⟩
  have hwaves : (recordSig w (traceEnded key { s with waves := kdel s.waves key })).waves = kdel s.waves key := rfl
  unfold endWave
  rw [hget]
  dsimp only
  generalize recordSig w (traceEnded key { s with waves := kdel s.waves key }) = t at hsig hwaves ⊢
  generalize hu : (if (t.core (coreOf key)).records.contains key then
    t.modCore (coreOf key) fun c => { c with records := c.records.filter (· ≠ key) } else t) = u
  have hkept : u.waves = t.waves ∧ u.grids = t.grids := by
    rw [← hu]
    split <;> exact ⟨rfl, rfl⟩
  obtain ⟨hw2, hg2⟩ := hkept
  split
  · exact ⟨hw2.trans hwaves, hsig.of_grids hg2⟩
  · obtain ⟨hw3, hg3⟩ := freeWg_kept w.wg _
    refine ⟨hw3.trans ?_, SameOutcomes.trans (hsig.of_grids ?_) hg3⟩
    · split <;> exact hw2.trans hwaves
    · split <;> exact hg2

/-- A wave once its part at quad `q` has ended: the lanes are terminated, and buddies that waited for them go on (R29, R213). -/
def endedWave (cycle q : Nat) (p : Part) (w : Wave) : Wave :=
  let v := { w with ended := w.ended ++ (blockLanes p.q p.n).filter (fun l => !(w.ended.contains l)),
                    parts := (partDel w.parts q).map (discardResult p.q p.n) }
  { v with parts := v.parts.map (fuseDone cycle v) }

theorem endedWave_quads (cycle q : Nat) (p : Part) (w : Wave) : (endedWave cycle q p w).parts.map (·.q) = (partDel w.parts q).map (·.q) := by
  simp [endedWave, discardResult]

/-- The state in which the wave at a key has lost a part. -/
def withEnded (key q : Nat) (p : Part) (w : Wave) (s : State) : State :=
  { s with waves := kput s.waves key (endedWave (cycleOf s (coreOf key)) q p w) }

theorem wave_withEnded (key q : Nat) (p : Part) (w : Wave) (s : State) :
    (withEnded key q p w s).wave key = some (endedWave (cycleOf s (coreOf key)) q p w) := kget_kput_same _ _ _

theorem endPart_eq {s : State} {key q : Nat} {w : Wave} {p : Part} (hw : (closeWindows key q s).wave key = some w)
    (hp : partAt w.parts q = some p) :
    endPart key q s = recountBars w.wg
      (if (endedWave (cycleOf (closeWindows key q s) (coreOf key)) q p w).parts.isEmpty then
        endWave key (withEnded key q p w (closeWindows key q s)) else withEnded key q p w (closeWindows key q s)) := by
  have hget : kget (closeWindows key q s).waves key = some w := hw
  simp only [endPart, hget, hp]
  rfl

/-- The first part of a wave ends: the others stand where they stood, or the wave is gone (R213). -/
theorem endPart_kept {s : State} {key q : Nat} {qs : List Nat} (h : quadsAt s key = some (q :: qs)) :
    quadsAt (endPart key q s) key = (if qs = [] then none else some qs) ∧ SameOutcomes s (endPart key q s) := by
  obtain ⟨w, hw, hquads⟩ := Option.map_eq_some_iff.1 ((quadsAt_closeWindows s key q).trans h)
  obtain ⟨p, ps, hparts, hp, hps⟩ := List.map_eq_cons_iff.1 hquads
  have hleft : (endedWave (cycleOf (closeWindows key q s) (coreOf key)) q p w).parts.map (·.q) = qs := by
    rw [endedWave_quads, hparts, partDel, if_pos hp, hps]
  have hwave := wave_withEnded key q p w (closeWindows key q s)
  have hsame : SameOutcomes s (withEnded key q p w (closeWindows key q s)) := sameOutcomes_of_grids rfl
  rw [endPart_eq hw (by rw [hparts, partAt, if_pos hp])]
  generalize withEnded key q p w (closeWindows key q s) = t at hwave hsame
  generalize endedWave (cycleOf (closeWindows key q s) (coreOf key)) q p w = v at hwave hleft
  obtain ⟨hend, houtcome⟩ := endWave_kept hwave
  rw [← hleft]
  cases hv : v.parts with
  | nil =>
    obtain ⟨hq, hg⟩ := recountBars_kept w.wg (endWave key t) key
    refine ⟨hq.trans (quadsAt_eq_none_iff.2 ?_), (hsame.trans houtcome).of_grids hg⟩
    rw [State.wave, hend, kget_kdel_same]
  | cons x xs =>
    obtain ⟨hq, hg⟩ := recountBars_kept w.wg t key
    refine ⟨hq.trans ((quadsAt_of_wave hwave).trans ?_), hsame.of_grids hg⟩
    rw [hv]
    rfl

/-- Parts end one after another until the wave is gone. -/
theorem endParts_kept {key : Nat} {ps : List Part} (hne : ps ≠ []) :
    ∀ {s : State}, quadsAt s key = some (ps.map (·.q)) → (endParts key ps s).wave key = none ∧ SameOutcomes s (endParts key ps s) := by
  induction ps with
  | nil => exact absurd rfl hne
  | cons p ps ih =>
    intro s h
    obtain ⟨hquads, hsame⟩ := endPart_kept h
    cases ps with
    | nil => exact ⟨quadsAt_eq_none_iff.1 (hquads.trans (if_pos rfl)), hsame⟩
    | cons x xs =>
      obtain ⟨hgone, hrest⟩ := ih (List.cons_ne_nil x xs) (hquads.trans (if_neg (List.cons_ne_nil _ _)))
      exact ⟨hgone, hsame.trans hrest⟩

/-! ### A trace record changes memory and its ring (R445) -/

theorem postTrace_kept (p : Nat) (bs : List Byte) (s : State) : postTrace p bs s =
    { s with
      hbm := (postTrace p bs s).hbm, host := (postTrace p bs s).host, peer := (postTrace p bs s).peer, spad := (postTrace p bs s).spad,
      hbmTag := (postTrace p bs s).hbmTag, touched := (postTrace p bs s).touched, stale := (postTrace p bs s).stale,
      stores := (postTrace p bs s).stores, traces := (postTrace p bs s).traces } := by
  unfold postTrace
  dsimp only
  split
  · rw [(memoryOnly_physWrite s _ _ _ _).rest]
  · rfl

theorem endRun_grids (key cause : Nat) (s : State) : (endRun key cause s).grids = s.grids := by
  have hclose : ∀ w p r, (closeRun key w p r cause s).grids = s.grids := fun w p r => by
    unfold closeRun traceRun
    dsimp only
    split_ifs
    · rfl
    · rw [postTrace_kept]
      rfl
    · rfl
  unfold endRun
  split
  · split_ifs
    · split
      · exact hclose _ _ _
      · rfl
    · rfl
  · rfl

/-! ### A wave that is terminated (R217, R222) -/

section Terminated

/-- A grid as a wave of it is terminated: the first cause stays (R217, log 58). -/
def failGrid (status fsum origin : Nat) (g : Grid) : Grid :=
  if g.status = 0x0100 then { g with status := status, fsum := fsum, origin := origin } else g

/-- The grid of a terminated wave has its status, and the event is posted. -/
def reported (w : Wave) (g : Grid) (status fsum origin : Nat) (s : State) : State :=
  postEvent g.launch.evq { status := status, fsum := fsum, queue := g.queue, splice := g.splice, tag := g.tag, origin := origin }
    (s.modGrid w.grid (failGrid status fsum origin))

/-- The state in which the parts of a terminated wave end: its requests are cancelled, and its run is over. -/
def withdrawn (key : Nat) (w : Wave) (status : Nat) (s : State) : State :=
  endRun key 2 (cancelTravs w (if status = 0x0108 then s else cancelCopies w.wg (fun _ => true) s))

theorem quadsAt_withdrawn (key : Nat) (w : Wave) (status : Nat) (s : State) : quadsAt (withdrawn key w status s) key = quadsAt s key := by
  rw [withdrawn, quadsAt_endRun]
  split <;> rfl

theorem withdrawn_grids (key : Nat) (w : Wave) (status : Nat) (s : State) : (withdrawn key w status s).grids = s.grids := by
  rw [withdrawn, endRun_grids]
  split <;> rfl

variable {s : State} {key status : Nat} {w : Wave}

/-- A wave whose grid there is ends once this is reported (R217). -/
theorem terminateWave_grid {g : Grid} (fsum : Nat) (pc : Option Word) (hw : s.wave key = some w) (hg : kget s.grids w.grid = some g)
    (hstatus : status ≠ 0x0104) : terminateWave key status fsum pc s =
      endParts key w.parts (withdrawn key w status (reported w g status fsum (wordOrigin s key g pc) s)) := by
  have hget : kget s.waves key = some w := hw
  simp only [terminateWave, hget, if_neg hstatus, hg]
  rfl

theorem terminateWave_orphan (fsum : Nat) (pc : Option Word) (hw : s.wave key = some w) (hg : kget s.grids w.grid = none)
    (hstatus : status ≠ 0x0104) : terminateWave key status fsum pc s = endParts key w.parts s := by
  have hget : kget s.waves key = some w := hw
  simp only [terminateWave, hget, if_neg hstatus, hg]

/-- The wave at a key is gone, and its grid has a status and a fault summary unless it already had another status than success. -/
def Dies (key gid status fsum : Nat) (s u : State) : Prop :=
  u.wave key = none ∧ ∀ g, kget s.grids gid = some g → ∃ g', kget u.grids gid = some g' ∧
    (g.status = 0x0100 → g'.status = status ∧ g'.fsum = fsum) ∧ (g.status ≠ 0x0100 → g'.status = g.status ∧ g'.fsum = g.fsum)

theorem dies_terminateWave (fsum : Nat) (pc : Option Word) (hw : s.wave key = some w) (hne : w.parts ≠ []) (hstatus : status ≠ 0x0104) :
    Dies key w.grid status fsum s (terminateWave key status fsum pc s) := by
  cases hg : kget s.grids w.grid with
  | none =>
    rw [terminateWave_orphan fsum pc hw hg hstatus]
    exact ⟨(endParts_kept hne (quadsAt_of_wave hw)).1, fun g h => by rw [hg] at h; cases h⟩
  | some g =>
    rw [terminateWave_grid fsum pc hw hg hstatus]
    generalize wordOrigin s key g pc = origin
    have hreport : (reported w g status fsum origin s).waves = s.waves ∧
        (reported w g status fsum origin s).grids = kmod (failGrid status fsum origin) s.grids w.grid := by
      rw [reported, postEvent_kept]
      exact ⟨rfl, rfl⟩
    obtain ⟨hwaves, hgrids⟩ := hreport
    generalize reported w g status fsum origin s = u at hwaves hgrids
    obtain ⟨hgone, hsame⟩ := endParts_kept hne
      ((quadsAt_withdrawn key w status u).trans ((quadsAt_of_waves key hwaves).trans (quadsAt_of_wave hw)))
    have houtcome := hsame w.grid
    rw [outcomeAt, outcomeAt, withdrawn_grids, hgrids, kget_kmod_same, hg] at houtcome
    obtain ⟨g', hg', hout⟩ := Option.map_eq_some_iff.1 houtcome
    obtain ⟨hs, hf⟩ := Prod.mk.inj hout
    refine ⟨hgone, fun g0 h0 => ?_⟩
    obtain rfl : g = g0 := Option.some.inj (hg.symm.trans h0)
    refine ⟨g', hg', fun h => ?_, fun h => ?_⟩
    · rw [hs, hf, failGrid, if_pos h]
      exact ⟨rfl, rfl⟩
    · rw [hs, hf, failGrid, if_neg h]
      exact ⟨rfl, rfl⟩

end Terminated

/-! ### The entry to a handler (R218): what stays -/

/-- What the entry to a handler of wave `key` leaves as it was, beside that wave. -/
structure EntryKept (key : Nat) (s t : State) : Prop where
  time : t.time = s.time
  lag : t.lag = s.lag
  contexts : t.contexts = s.contexts
  wgs : t.wgs = s.wgs
  grids : t.grids = s.grids
  runs : t.runs = s.runs
  others : ∀ k, k ≠ key → t.wave k = s.wave k

theorem EntryKept.trans {key : Nat} {s t u : State} (h1 : EntryKept key s t) (h2 : EntryKept key t u) : EntryKept key s u where
  time := h2.time.trans h1.time
  lag := h2.lag.trans h1.lag
  contexts := h2.contexts.trans h1.contexts
  wgs := h2.wgs.trans h1.wgs
  grids := h2.grids.trans h1.grids
  runs := h2.runs.trans h1.runs
  others k hk := (h2.others k hk).trans (h1.others k hk)

theorem entryKept_refl (key : Nat) (s : State) : EntryKept key s s := ⟨rfl, rfl, rfl, rfl, rfl, rfl, fun _ _ => rfl⟩

theorem entryKept_modWave (key : Nat) (f : Wave → Wave) (s : State) : EntryKept key s (s.modWave key f) :=
  ⟨rfl, rfl, rfl, rfl, rfl, rfl, fun _ hk => wave_modWave_other _ _ _ _ hk⟩

theorem entryKept_countEvent (key core event n ctx : Nat) (s : State) : EntryKept key s (countEvent core event n ctx s) := by
  refine ⟨?_, ?_, ?_, ?_, ?_, ?_, fun k _ => wave_eq _ _ k ?_⟩ <;> simp

theorem entryKept_postTrace (key p : Nat) (bs : List Byte) (s : State) : EntryKept key s (postTrace p bs s) := by
  rw [postTrace_kept]
  exact ⟨rfl, rfl, rfl, rfl, rfl, rfl, fun _ _ => rfl⟩

theorem entryKept_traceSummary (key : Nat) (s : State) : EntryKept key s (traceSummary key s) := by
  unfold traceSummary
  split
  · exact entryKept_refl key s
  · dsimp only
    split_ifs
    · split
      · exact entryKept_refl key s
      · exact (entryKept_postTrace key _ _ s).trans (entryKept_modWave key _ _)
    · exact entryKept_refl key s

/-- The origin of a word and the cycle of a core stay (R220). -/
theorem enterHandler_of_kept {key : Nat} {s u : State} (h : EntryKept key s u) (w : Wave) (pc : Word) (t : Trap) :
    enterHandler w u pc t = enterHandler w s pc t := by
  have horigin : originOf u w pc = originOf s w pc := by
    rw [originOf, originOf, State.ctx, State.ctx, h.contexts, h.grids]
  have hcycle : ∀ core, cycleOf u core = cycleOf s core := fun core => by
    rw [cycleOf, cycleOf, h.time, h.lag]
  unfold enterHandler
  rw [horigin, hcycle]

/-! ### What lands at the entry (R62, R218) -/

theorem landVals_frame (vs : List (Nat × Nat × Word)) : ∀ w : Wave,
    landVals w vs = { w with v := (landVals w vs).v, poison := (landVals w vs).poison, flaws := (landVals w vs).flaws } := by
  induction vs with
  | nil => exact fun _ => rfl
  | cons v vs ih =>
    intro w
    rw [landVals, ih]
    rfl

/-- What lands in a part changes vector registers and their marks of its wave. -/
theorem landHeld_wave (xs : List Pend) : ∀ (w : Wave) (p : Part), (landHeld w p xs).1 =
    { w with v := (landHeld w p xs).1.v, poison := (landHeld w p xs).1.poison, flaws := (landHeld w p xs).1.flaws } := by
  induction xs with
  | nil => exact fun _ _ => rfl
  | cons x xs ih =>
    intro w p
    unfold landHeld
    split
    · split
      · exact ih w p
      · rw [ih, landVals_frame]
    · exact ih w p

/-- With no window open nothing lands. -/
theorem landHeld_closed {xs : List Pend} (w : Wave) (p : Part) (h : ∀ x ∈ xs, x.window = 0) : landHeld w p xs = (w, p) := by
  induction xs with
  | nil => rfl
  | cons x xs ih =>
    rw [landHeld, if_neg (by simp [h x List.mem_cons_self]), ih fun y hy => h y (List.mem_cons_of_mem x hy)]

/-- With no window open a part closes none. -/
theorem map_closed {xs : List Pend} (h : ∀ x ∈ xs, x.window = 0) : (xs.map fun x => { x with window := 0 }) = xs := by
  conv_rhs => rw [← List.map_id xs]
  refine List.map_congr_left fun x hx => ?_
  rw [← h x hx]
  rfl

/-! ### TCAUSE (R219) -/

/-- TCAUSE for a cause of trap, in spliced code or not, of the consumer kernel or not. -/
def causeWord (cause : Nat) (spliced consumer : Bool) : Word := BitVec.ofNat 32 (cause + 256 * b2n spliced + 512 * b2n consumer)

theorem causeWord_cause (cause : Nat) (a b : Bool) : (causeWord cause a b).extractLsb' 0 8 = BitVec.ofNat 8 cause := by
  apply BitVec.eq_of_toNat_eq
  rw [causeWord, BitVec.extractLsb'_toNat, BitVec.toNat_ofNat, BitVec.toNat_ofNat]
  omega

theorem causeWord_toNat {cause : Nat} (h : cause < 256) (a b : Bool) : (causeWord cause a b).toNat = cause + 256 * b2n a + 512 * b2n b := by
  rw [causeWord, BitVec.toNat_ofNat]
  have hbit : ∀ x : Bool, b2n x ≤ 1 := by decide
  have ha := hbit a
  have hb := hbit b
  omega

/-- SPLICED, ORIGIN and the reserved bits above them. -/
theorem causeWord_flags {cause : Nat} (h : cause < 256) (a b : Bool) :
    (causeWord cause a b).getLsbD 8 = a ∧ (causeWord cause a b).getLsbD 9 = b ∧ (causeWord cause a b).toNat < 1024 := by
  simp only [BitVec.getLsbD, causeWord_toNat h, Nat.testBit_eq_decide_div_mod_eq]
  cases a <;> cases b <;> simp [b2n] <;> omega

/-! ### The entry -/

section Entry

variable {s : State} {key : Nat} {w : Wave} {p : Part} (pc : Word) (t : Trap)

/-- The two low bits of TVEC say whether there is a user handler (R218). -/
theorem hasHandler_iff (p : Part) : hasHandler p = true ↔ p.tvec.val &&& 3#32 = 0#32 := by
  rw [← aligned4_iff]
  rfl

/-- The state at the entry: the SUMMARY is written, the windows have closed, the trap is counted (R218, R444, R447). -/
def trapReady (key q : Nat) (w : Wave) (s : State) : State :=
  countEvent (coreOf key) 0x13 1 w.ctx (closeWindows key q (traceSummary key s))

theorem entryKept_trapReady (key q : Nat) (w : Wave) (s : State) : EntryKept key s (trapReady key q w s) :=
  (entryKept_traceSummary key s).trans ((entryKept_modWave key _ _).trans (entryKept_countEvent key _ _ _ _ _))

theorem takeTrap_double (hw : s.wave key = some w) (hp : partAt w.parts p.q = some p) (h : p.handler = true) :
    takeTrap key p.q pc t s = terminateWave key 0x0105 t.cause (some pc) s := by
  have hget : kget s.waves key = some w := hw
  simp only [takeTrap, hget, hp, h, if_true]

theorem takeTrap_fatal (hw : s.wave key = some w) (hp : partAt w.parts p.q = some p) (h : p.handler = false)
    (hvec : ¬ p.tvec.val &&& 3#32 = 0#32) : takeTrap key p.q pc t s = terminateWave key 0x0108 t.cause (some pc) s := by
  have hget : kget s.waves key = some w := hw
  simp [takeTrap, hget, hp, h, mt (hasHandler_iff p).1 hvec]

theorem takeTrap_enters (hw : s.wave key = some w) (hp : partAt w.parts p.q = some p) (h : p.handler = false)
    (hvec : p.tvec.val &&& 3#32 = 0#32) :
    takeTrap key p.q pc t s = (trapReady key p.q w s).modPart key p.q (enterHandler w s pc t) := by
  have hget : kget s.waves key = some w := hw
  rw [← enterHandler_of_kept (entryKept_trapReady key p.q w s)]
  simp [takeTrap, hget, hp, h, (hasHandler_iff p).2 hvec, trapReady]

/-- The wave whose SUMMARY counts are `a` and `b`. -/
def summedWave (a b : Nat) (w : Wave) : Wave := { w with sumWords := a, sumWait := b }

/-- Wave `v` after its part `p` has entered a handler: what was held has landed, and the part is as `f` makes it. -/
def enteredWave (f : Part → Part) (p : Part) (v : Wave) : Wave :=
  { (landHeld v p p.pend).1 with parts := partMod f (partMod (closedPart v p) v.parts p.q) p.q }

/-- The wave after the entry of one of its parts: what its SUMMARY counts may begin anew. -/
theorem wave_takeTrap (hw : s.wave key = some w) (hp : partAt w.parts p.q = some p) (h : p.handler = false)
    (hvec : p.tvec.val &&& 3#32 = 0#32) :
    ∃ a b, (takeTrap key p.q pc t s).wave key = some (enteredWave (enterHandler w s pc t) p (summedWave a b w)) := by
  obtain ⟨a, b, hsum⟩ := wave_traceSummary hw
  refine ⟨a, b, ?_⟩
  rw [takeTrap_enters pc t hw hp h hvec, wave_modPart_same, trapReady, wave_eq _ _ key (countEvent_waves ..), wave_closeWindows hsum hp]
  rfl

theorem partAt_enteredWave {f : Part → Part} {v : Wave} (hf : ∀ x, (f x).q = x.q) (hp : partAt v.parts p.q = some p) :
    partAt (enteredWave f p v).parts p.q = some (f (closedPart v p p)) := by
  rw [enteredWave, partAt_partMod_same f _ _ hf, partAt_partMod_same _ _ _ (closedPart_q v p), hp]
  rfl

/-- Of the wave only vector registers with their marks and its parts have changed. -/
theorem enteredWave_frame (f : Part → Part) (p : Part) (v : Wave) : enteredWave f p v =
    { v with v := (enteredWave f p v).v, poison := (enteredWave f p v).poison, flaws := (enteredWave f p v).flaws,
             parts := (enteredWave f p v).parts } := by
  rw [enteredWave, landHeld_wave]

theorem closedPart_windows {v : Wave} {x : Pend} (hx : x ∈ (closedPart v p p).pend) : x.window = 0 := by
  obtain ⟨y, -, rfl⟩ := List.mem_map.1 hx
  rfl

/-- With no window open the entry changes no register and no writeback. -/
theorem entered_of_closed (f : Part → Part) (v : Wave) (h : ∀ x ∈ p.pend, x.window = 0) :
    closedPart v p p = p ∧ (enteredWave f p v).v = v.v := by
  rw [closedPart, enteredWave, landHeld_closed v p h, map_closed h]
  exact ⟨rfl, rfl⟩

theorem entryKept_takeTrap (hw : s.wave key = some w) (hp : partAt w.parts p.q = some p) (h : p.handler = false)
    (hvec : p.tvec.val &&& 3#32 = 0#32) : EntryKept key s (takeTrap key p.q pc t s) := by
  rw [takeTrap_enters pc t hw hp h hvec]
  exact (entryKept_trapReady key p.q w s).trans (entryKept_modWave key _ _)

end Entry

/-- Settles O54: in a handler or without one the wave is terminated; otherwise its part is as `enterHandler` makes it once its windows have
closed. -/
theorem trapEntry : Obligations.TrapEntry := by
  intro s key w p pc t hw hp
  have hne : w.parts ≠ [] := fun h => by rw [h] at hp; cases hp
  refine ⟨fun h => ?double, fun h hvec => ?fatal, fun h hvec => ?enters⟩
  case double =>
    rw [takeTrap_double pc t hw hp h]
    exact dies_terminateWave t.cause (some pc) hw hne (by decide)
  case fatal =>
    rw [takeTrap_fatal pc t hw hp h hvec]
    exact dies_terminateWave t.cause (some pc) hw hne (by decide)
  case enters =>
    obtain ⟨a, b, hwave⟩ := wave_takeTrap pc t hw hp h hvec
    have hpart : (takeTrap key p.q pc t s).part key p.q = some (enterHandler w s pc t (closedPart (summedWave a b w) p p)) :=
      (part_of_wave hwave).trans (partAt_enteredWave (enterHandler_q w s pc t) hp)
    have hkept := entryKept_takeTrap pc t hw hp h hvec
    have hothers := (part_takeTrap pc t ((part_of_wave hw).trans hp) h ((hasHandler_iff p).2 hvec)).2
    refine ⟨_, _, hwave, hpart, rfl, ⟨causeWord_cause _ _ _, fun hc => causeWord_flags hc _ _⟩, rfl, fun x hx => ?addr, fun hx => ?noAddr,
      rfl, rfl, rfl, rfl, rfl, rfl, rfl, fun x => closedPart_windows, fun hwin => ?nothingLands, ?wave,
      hothers, hkept.others, hkept.wgs, hkept.grids, hkept.runs⟩
    case addr => rw [enterHandler, hx, Option.getD_some]
    case noAddr =>
      rw [enterHandler, hx, Option.getD_none]
      rfl
    case nothingLands =>
      obtain ⟨hclosed, hv⟩ := entered_of_closed (enterHandler w s pc t) (summedWave a b w) hwin
      rw [hclosed]
      exact ⟨rfl, hv, rfl⟩
    case wave =>
      rw [enteredWave_frame]
      rfl

end Sys2Proof.Proofs
end

section

/-! ## Fences, cache words, space words, peer stores and the reset state (O18, O19, O59) -/

namespace Sys2Proof.Proofs
open Sys2Proof.Machine Sys2Proof.Laws Sys2Proof.Safety

/-! ### FENCE (R251, R260, R280) -/

section Fence

variable {acq rel : Bool} {e : BitVec 1} {sc : BitVec 3} {c : Ctx}

/-- The part's engine operations are joined where the fence asks for it, and it has none that a fence with E must join (R260). -/
def Joined (e : BitVec 1) (c : Ctx) : Prop := e = 0#1 ∨ c.p.engines = []

/-- What a fence leaves: the part's loads are performed, then the sides of the fence (R251). -/
def fenceEffect (acq rel : Bool) (e : BitVec 1) (sc : BitVec 3) (c : Ctx) (s : State) : State :=
  fenceSides (acq || decide (e = 1#1)) rel (coreOf c.key) sc.toNat (s.modPart c.key c.q performReads)

/-- A fence whose engine operations are joined waits for sleeping FTAKEs alone (log 24). -/
theorem fenceBody_joined (s : State) (hsc : sc.toNat < 6) (hj : Joined e c) :
    fenceBody acq rel e sc c s = afterTakes c (blockLanes c.p.q c.p.n) (.fall (fenceEffect acq rel e sc c s) 1) := by
  have hjoin : ¬ (e = 1#1 ∧ (!c.p.engines.isEmpty) = true) := by
    rintro ⟨rfl, he⟩
    rcases hj with h | h
    · exact absurd h (by decide)
    · simp [h] at he
  rw [fenceBody, if_neg (by omega), if_neg hjoin]
  rfl

theorem fenceBody_engines (s : State) (hsc : sc.toNat < 6) (hj : ¬ Joined e c) : fenceBody acq rel e sc c s = .brk (.cond .engines) := by
  obtain ⟨he, hc⟩ := not_or.1 hj
  have he1 : e = 1#1 := (BitVec.eq_zero_or_eq_one e).resolve_left he
  rw [fenceBody, if_neg (by omega), if_pos ⟨he1, by simp [hc]⟩]

theorem afterTakes_awake {lanes : List Nat} (k : Res) (h : takeWaits c lanes = []) : afterTakes c lanes k = k := by
  simp [afterTakes, h]

theorem afterTakes_asleep {lanes : List Nat} (k : Res) (h : takeWaits c lanes ≠ []) :
    afterTakes c lanes k = .brk (.board (takeWaits c lanes) lanes) := by
  simp [afterTakes, h]

/-- A FENCE word, with active lanes and without: it has its effect, or waits for engine operations or for sleeping lanes. -/
theorem fence_word {w : Bool → Instr} {eff : Ctx → State → State} (hsc : sc.toNat < 6)
    (he : ∀ z s, exec (w z) s = issueWord z (fenceSig sc) (fenceBody acq rel e sc) (fenceBody acq rel e sc) s)
    (heff : ∀ c s, fenceEffect acq rel e sc c s = eff c s) :
    FallsIf (fun _ c => Joined e c ∧ takeWaits c (blockLanes c.p.q c.p.n) = []) w (fenceSig sc) (fun _ => 1) eff ∧
    IdlesIf (fun _ c => Joined e c ∧ takeWaits c (blockLanes c.p.q c.p.n) = []) w eff ∧
    WaitsIf (fun _ c => ¬ Joined e c) w (fenceSig sc) (fun _ => .cond .engines) ∧
    WaitsIf (fun _ c => Joined e c ∧ takeWaits c (blockLanes c.p.q c.p.n) ≠ []) w (fenceSig sc)
      (fun c => .board (takeWaits c (blockLanes c.p.q c.p.n)) (blockLanes c.p.q c.p.n)) := by
  have done (c : Ctx) (s : State) (hj : Joined e c) (ht : takeWaits c (blockLanes c.p.q c.p.n) = []) :
      fenceBody acq rel e sc c s = .fall (eff c s) 1 := by
    rw [fenceBody_joined s hsc hj, afterTakes_awake _ ht, heff]
  refine ⟨?falls, ?idles, ?engines, ?sleeps⟩
  case falls => exact fallsIf_intro _ _ _ _ _ _ _ he fun _ s c _ h => done c _ h.1 h.2
  case idles => exact idlesFor_intro _ _ _ _ _ _ _ he (fun _ => rfl) fun s c h => done c _ h.1 h.2
  case engines => exact waitsIf_intro _ _ _ _ _ _ he fun _ s c _ h => fenceBody_engines _ hsc h
  case sleeps =>
    exact waitsIf_intro _ _ _ _ _ _ he fun _ s c _ h => by rw [fenceBody_joined _ hsc h.1, afterTakes_asleep _ h.2]

end Fence

/-! ### CACHE (R281 to R283) -/

/-- A CACHE word that works on lines: each active lane's line goes through `f` (R281). -/
theorem memFalls_line {w : Bool → Instr} {a : BitVec 7} (x : Acc) (f : Ctx → Mem → Nat → Bool → State → State)
    (he : ∀ z s, exec (w z) s = issueWord z (cacheSig [rdAddr a]) idleWord (lineBody x f a) s) :
    MemFalls false w (cacheSig [rdAddr a]) (fun c => laneReqs c (eaPair c a) 1) (fun _ => 1) x (fun _ _ => noExtra)
      (fun c ps u => lineLanes (f c) ps (sampled c (eaPair c a) 0x1B u)) :=
  memFallsIn_intro _ _ _ _ _ _ _ _ _ _ _ he fun _ c _ _ hm ht _ => memWord_ok c _ _ _ _ _ _ _ _ hm ht

/-- A CACHE word that locks lines: the statuses of `f` land later (R282). -/
theorem memFalls_lock {w : Bool → Instr} {d a : BitVec 7} {l : BitVec 4} (f : Ctx → Mem → Nat → Bool → State → State × Nat)
    (he : ∀ z s, exec (w z) s = issueWord z (cacheSig [wr d, rdAddr a]) idleWord (clockBody f d a l) s) :
    MemFalls false w (cacheSig [wr d, rdAddr a]) (fun c => laneReqs c (eaPair c a) 1) (fun _ => 1) accRead (fun _ _ => noExtra)
      (fun c ps u =>
        let r := clockLanes (f c) (sampled c (eaPair c a) 0x1B u) ps
        writeLater c d l.toNat (fun k => [kgetD 0#32 r.2 k]) r.1) :=
  memFallsIn_intro _ _ _ _ _ _ _ _ _ _ _ he fun _ c _ _ hm ht _ => memWord_ok c _ _ _ _ _ _ _ _ hm ht

/-- Settles O18: a fence is `fence_word`, a CACHE word on lines `memFalls_line` or `memFalls_lock`; PREF and ISYNC are their bodies. -/
theorem fenceAndCacheWords : Obligations.FenceAndCacheWords := by
  unfold Obligations.FenceAndCacheWords
  refine ⟨fun e sc hsc => ?fences, fun d a l => ?caches⟩
  case fences =>
    have rel_side (c : Ctx) (s : State) : fenceEffect false true e sc c s =
        if e = 1#1 then physAcquire (physRelease (s.modPart c.key c.q performReads) (coreOf c.key) sc.toNat) (coreOf c.key) sc.toNat
        else physRelease (s.modPart c.key c.q performReads) (coreOf c.key) sc.toNat := by
      by_cases h : e = 1#1 <;> simp [fenceEffect, fenceSides, h]
    exact ⟨fence_word (acq := true) (rel := false) hsc (fun _ _ => rfl) fun _ _ => rfl,
      fence_word (acq := false) (rel := true) hsc (fun _ _ => rfl) rel_side,
      fence_word (acq := true) (rel := true) hsc (fun _ _ => rfl) fun _ _ => rfl,
      fence_word (acq := true) (rel := true) hsc (fun _ _ => rfl) fun _ _ => rfl⟩
  case caches =>
    refine ⟨?pref, ?pref2, memFalls_lock _ fun _ _ => rfl, memFalls_lock _ fun _ _ => rfl, memFalls_line _ _ fun _ _ => rfl,
      memFalls_line _ _ fun _ _ => rfl, memFalls_line _ _ fun _ _ => rfl, memFalls_line _ _ fun _ _ => rfl,
      memFalls_line _ _ fun _ _ => rfl, ?isync, ?isyncIdle⟩
    case pref => exact falls_intro _ _ _ _ idleWord (prefBody a) (fun _ _ => rfl) fun _ _ _ _ => rfl
    case pref2 => exact falls_intro _ _ _ _ idleWord (prefBody a) (fun _ _ => rfl) fun _ _ _ _ => rfl
    case isync => exact falls_intro _ _ _ _ isyncBody isyncBody (fun _ _ => rfl) fun _ _ _ _ => rfl
    case isyncIdle => exact idlesFor_intro _ _ (cacheSig []) _ _ isyncBody isyncBody (fun _ _ => rfl) (fun _ => rfl) fun _ _ _ => rfl

/-! ### SPACE (R284) and ASTP (R285) -/

/-- The offset that FROMGEN writes, as one word (R284). -/
theorem fromgen_word (ap x : Nat) :
    wordsOf false (if ap ≤ x ∧ x - ap < 2 ^ 32 then x - ap else 0xFFFFFFFF) =
      [if ap ≤ x ∧ x - ap < 2 ^ 32 then BitVec.ofNat 32 (x - ap) else 0xFFFFFFFF#32] := by
  split <;> rfl

/-- The effect of ISSPC (R284). -/
def isspcBody (d a : BitVec 7) (c : Ctx) (s : State) : Res :=
  .fall (writeNat c false d (fun l => (spaceOf (kgetD {} s.partitions c.w.partition) (eaPair c a l)).code) s) 1

section Space

variable {d a : BitVec 7} {z : Bool} {s : State} {c : Ctx}

/-- A TOGEN word for the aperture whose base is `ap` (R284). -/
theorem wrote_togen (w : Bool → Instr) (ap : Partition → Nat) (k : Nat) (hap : ∀ pt, apertureOf pt k = ap pt)
    (he : ∀ z s, exec (w z) s = execTogen k z d a s)
    (h : Ready z s c { maj := 0x1F, opds := [wrW true d, rd a] }) : ∃ t, exec (w z) s = .next t ∧
      Wrote s t c d (fun l => words64 (BitVec.ofNat 64 (ap (kgetD {} s.partitions c.w.partition) + (c.read a l).toNat))) := by
  rw [← hap]
  exact wrote_intro (idle := idleWord) (body := togenBody k d a) he h rfl

/-- A FROMGEN word for the aperture whose base is `ap` (R284). -/
theorem wrote_fromgen (w : Bool → Instr) (ap : Partition → Nat) (k : Nat) (hap : ∀ pt, apertureOf pt k = ap pt)
    (he : ∀ z s, exec (w z) s = execFromgen k z d a s)
    (h : Ready z s c { maj := 0x1F, opds := [wr d, rdAddr a] }) : ∃ t, exec (w z) s = .next t ∧
      Wrote s t c d (fun l =>
        let x := eaPair c a l
        let b := ap (kgetD {} s.partitions c.w.partition)
        [if b ≤ x ∧ x - b < 2 ^ 32 then BitVec.ofNat 32 (x - b) else 0xFFFFFFFF#32]) := by
  rw [← hap]
  exact wrote_intro (idle := idleWord) (body := fromgenBody k d a) he h
    (congrArg (fun f => Res.fall (writeRegs c d f _) 1) (funext fun _ => fromgen_word _ _))

end Space

/-- Settles O19: the space words write what the aperture arithmetic gives, and ASTP is its body once its accesses are granted. -/
theorem spaceAndPeerWords : Obligations.SpaceAndPeerWords := by
  unfold Obligations.SpaceAndPeerWords
  intro d a n l
  refine ⟨?togenL, ?togenS, ?togenC, ?fromgenL, ?fromgenS, ?fromgenC, ?isspc, ?astp⟩
  case togenL => exact fun z s c => wrote_togen (.togenL · d a) (·.aplocal) 0 (fun _ => rfl) fun _ _ => rfl
  case togenS => exact fun z s c => wrote_togen (.togenS · d a) (·.apshared) 1 (fun _ => rfl) fun _ _ => rfl
  case togenC => exact fun z s c => wrote_togen (.togenC · d a) (·.apcluster) 2 (fun _ => rfl) fun _ _ => rfl
  case fromgenL => exact fun z s c => wrote_fromgen (.fromgenL · d a) (·.aplocal) 0 (fun _ => rfl) fun _ _ => rfl
  case fromgenS => exact fun z s c => wrote_fromgen (.fromgenS · d a) (·.apshared) 1 (fun _ => rfl) fun _ _ => rfl
  case fromgenC => exact fun z s c => wrote_fromgen (.fromgenC · d a) (·.apcluster) 2 (fun _ => rfl) fun _ _ => rfl
  case isspc => exact fun z s c h => wrote_intro (i := (.isspc · d a)) (idle := idleWord) (body := isspcBody d a) (fun _ _ => rfl) h rfl
  case astp =>
    exact memFallsIn_intro _ _ _ _ _ _ _ _ _ idleWord (astpBody d a (n.toNat + 1)) (fun _ _ => rfl) fun _ c _ _ hm ht _ =>
      releaseWord_ok c _ _ _ _ _ _ _ _ hm ht

/-! ### The reset state -/

/-- Settles O59: every part of the reset state is given by its tables, and no memory lists a byte. -/
theorem resetState : Obligations.ResetState := by
  unfold Obligations.ResetState
  refine ⟨memWf_reset, fun _ => rfl, fun _ => rfl, rfl, rfl, rfl, rfl, rfl, rfl, rfl, rfl, rfl, rfl, rfl, rfl, rfl, rfl, rfl, rfl, rfl,
    fun p hp => ?caps, fun m hm => ?mailboxes, fun q => ?queues, fun e => ?evqs, fun p => ?frings, fun p => ?traces, fun c => rfl⟩
  case caps => interval_cases p <;> rfl
  case mailboxes =>
    have hm' : m = {} := by simpa [State.reset] using hm
    subst hm'
    exact ⟨rfl, rfl, rfl, rfl, fun _ => rfl⟩
  case queues => exact ⟨rfl, rfl, rfl, rfl, rfl, rfl, rfl, rfl, rfl, rfl, rfl, rfl⟩
  case evqs => exact ⟨rfl, rfl, rfl, rfl, rfl, rfl, rfl, rfl, rfl, rfl⟩
  case frings => exact ⟨rfl, rfl, rfl, rfl, rfl, rfl⟩
  case traces => exact ⟨rfl, rfl, rfl, rfl, rfl, rfl, rfl, rfl, rfl, rfl⟩

end Sys2Proof.Proofs
end

section

/-! ## Every step keeps the canonical form of the memories (O60)

The memories change through `baseWrite`, `spadPut`, `fillSpad`, `wipePartition` and `wipedState` only. A function of the model that answers a
state composes such writes with changes of other fields, and one lemma for each such function, in the order of the model's files, carries the
canonical form through it. A function that only changes other fields needs no lemma: `MemWf` of its answer is `MemWf` of its argument by
definition. -/

namespace Sys2Proof.Proofs
open Sys2Proof.Machine Sys2Proof.Laws Sys2Proof.Safety

/-! ### The canonical form through the results of the model's functions -/

/-- The state of a result with further values is in canonical form. -/
def FstWf {α : Type} (r : State × α) : Prop := MemWf r.1

/-- What a function that may fail gives has a property. -/
def Yields {α : Type} (P : α → Prop) (o : Option α) : Prop := ∀ x ∈ o, P x

/-- What a function that may refuse gives has a property. -/
def Returns {ε α : Type} (P : α → Prop) (r : Except ε α) : Prop := ∀ x, r = .ok x → P x

/-- The next state, if there is one, is in canonical form. -/
def OutWf : Out → Prop
  | .next t => MemWf t
  | .fault _ => True
  | .refused _ => True

/-- Every state that the effect of a word answers is in canonical form. -/
def ResWf : Res → Prop
  | .fall s _ => MemWf s
  | .goto s _ => MemWf s
  | .stay s => MemWf s
  | .custom s _ => MemWf s
  | .rest s _ => MemWf s
  | .hold s _ => MemWf s
  | .brk _ => True
  | .stall f => ∀ s, MemWf s → MemWf (f s)
  | .trap s _ => MemWf s
  | .kill s _ _ => MemWf s
  | .fault _ => True
  | .refuse _ => True

/-- The state that a fetched word leaves is in canonical form. -/
def FetchWf : Fetch → Prop
  | .word s _ => MemWf s
  | .bad _ _ _ => True
  | .replay _ _ => True
  | .fault _ => True

/-- The state that the checks of an access leave is in canonical form. -/
def MemResWf : MemRes → Prop
  | .ok s _ => MemWf s
  | .trap _ => True
  | .stall _ => True
  | .fault _ => True

/-- The state that a submission leaves is in canonical form. -/
def SubWf : SubRes → Prop
  | .ok s _ => MemWf s
  | .refused s _ => MemWf s

/-- The state that the loading of an object leaves is in canonical form. -/
def LoadWf : LoadRes → Prop
  | .ok s _ => MemWf s
  | .refused s _ => MemWf s

/-- The state that the members of a bundle leave is in canonical form. -/
def MemberWf : MemberRes → Prop
  | .ok s _ => MemWf s
  | .refused s _ => MemWf s
  | .unread s _ => MemWf s

/-- The state that the checks of a packet leave is in canonical form. -/
def CheckWf : CheckRes → Prop
  | .ok s _ => MemWf s
  | .bad s _ _ => MemWf s

/-- The state that a post to a bound ring leaves is in canonical form. -/
def CqWf : CqRes → Prop
  | .done s => MemWf s
  | .full => True
  | .unreachable => True

/-- The state that a step of a traversal leaves is in canonical form. -/
def TravWf {α : Type} : Trav α → Prop
  | .ok s _ => MemWf s
  | .bad s _ => MemWf s
  | .malformed s => MemWf s
  | .stall s _ => MemWf s
  | .fault _ => True

/-- The state that a step of a ray leaves is in canonical form. -/
def RayWf : RayRes → Prop
  | .more s _ => MemWf s
  | .done s _ _ _ => MemWf s
  | .stall s _ => MemWf s
  | .fault _ => True

/-- The state that a step of a copy leaves is in canonical form. -/
def CopyWf : CopyRes → Prop
  | .ok s _ _ => MemWf s
  | .bad s _ => MemWf s
  | .stall s _ => MemWf s
  | .fault _ => True

section Rules

variable {α β ε : Type} {P : α → Prop} {Q : β → Prop}

theorem holds_ite {c : Prop} {_ : Decidable c} {x y : α} (hx : P x) (hy : P y) : P (if c then x else y) := by
  split
  · exact hx
  · exact hy

theorem memWf_ite {c : Prop} {_ : Decidable c} {s t : State} (hs : MemWf s) (ht : MemWf t) : MemWf (if c then s else t) :=
  holds_ite hs ht

theorem memWf_foldl {f : State → α → State} {xs : List α} {s : State} (hf : ∀ s x, MemWf s → MemWf (f s x)) (w : MemWf s) :
    MemWf (xs.foldl f s) :=
  List.foldlRecOn xs f w fun s w x _ => hf s x w

theorem fstWf_foldl {f : State × β → α → State × β} {xs : List α} {r : State × β} (hf : ∀ r x, FstWf r → FstWf (f r x)) (w : FstWf r) :
    FstWf (xs.foldl f r) :=
  List.foldlRecOn xs f w fun r w x _ => hf r x w

theorem yields_none : Yields P none := fun _ h => by cases h

theorem yields_some {x : α} (h : P x) : Yields P (some x) := fun _ e => Option.some.inj e ▸ h

theorem yields_map {o : Option α} {f : α → β} (ho : Yields P o) (hf : ∀ x, P x → Q (f x)) : Yields Q (o.map f) := by
  intro y hy
  obtain ⟨x, hx, rfl⟩ := Option.map_eq_some_iff.1 hy
  exact hf x (ho x hx)

theorem yields_map_of {o : Option α} {f : α → β} (hf : ∀ x, Q (f x)) : Yields Q (o.map f) := by
  intro y hy
  obtain ⟨x, -, rfl⟩ := Option.map_eq_some_iff.1 hy
  exact hf x

theorem yields_bind {o : Option α} {f : α → Option β} (ho : Yields P o) (hf : ∀ x, P x → Yields Q (f x)) : Yields Q (o.bind f) := by
  intro y hy
  obtain ⟨x, hx, hxy⟩ := Option.bind_eq_some_iff.1 hy
  exact hf x (ho x hx) y hxy

theorem yields_bind_of {o : Option α} {f : α → Option β} (hf : ∀ x, Yields Q (f x)) : Yields Q (o.bind f) := by
  intro y hy
  obtain ⟨x, -, hxy⟩ := Option.bind_eq_some_iff.1 hy
  exact hf x y hxy

theorem memWf_of_eq {r : State × α} {s : State} {x : α} (h : r = (s, x)) (w : FstWf r) : MemWf s := by
  subst h
  exact w

theorem holds_getD {o : Option α} {x : α} (ho : Yields P o) (hx : P x) : P (o.getD x) := by
  cases o with
  | none => exact hx
  | some y => exact ho y rfl

theorem returns_error {e : ε} : Returns P (Except.error e) := fun _ h => by cases h

theorem returns_ok {x : α} (h : P x) : Returns P (Except.ok x : Except ε α) := fun _ e => Except.ok.inj e ▸ h

end Rules

/-- A change of the device leaves the memories as they are. It is stated apart, since to compare a measured device with the one before it would
run SHA-512. -/
theorem memWf_setDev {s : State} (d : Device) (w : MemWf s) : MemWf { s with dev := d } := w

variable {s : State} {c : Ctx} {z : Bool}

/-! ### `Machine/Physical` -/

theorem memWf_holdSector {who : Holder} {m : Mem} {sector tag : Nat} (w : MemWf s) : MemWf (holdSector who m sector tag s) := by
  unfold holdSector
  extract_lets
  exact memWf_ite w w

theorem memWf_performOld (w : MemWf s) : MemWf (performOld s) :=
  memWf_performStores _ _ _ w

/-! ### `Machine/Trace` -/

theorem memWf_countEvent {core event n ctx : Nat} (w : MemWf s) : MemWf (countEvent core event n ctx s) := by
  unfold countEvent
  split <;> exact w

theorem memWf_traceSelect {w : Wave} {q : Nat} (ws : MemWf s) : MemWf (traceSelect w q s) := by
  unfold traceSelect
  extract_lets
  exact memWf_ite ws ws

theorem memWf_traceRun {s0 : State} {w : Wave} {p : Part} {r : Run} {cause : Nat} (ws : MemWf s) : MemWf (traceRun s0 w p r cause s) := by
  unfold traceRun
  extract_lets
  exact memWf_ite (memWf_postTrace _ _ _ ws) ws

theorem memWf_traceSummary {key : Nat} (w : MemWf s) : MemWf (traceSummary key s) := by
  unfold traceSummary
  split
  · exact w
  · extract_lets
    refine memWf_ite ?_ w
    split
    · exact w
    · extract_lets s1
      have ws1 : MemWf s1 := memWf_postTrace _ _ _ w
      exact ws1

theorem memWf_traceSample {w : Wave} {p : Part} {act : List Nat} {addr maj : Nat} (ws : MemWf s) : MemWf (traceSample w p act addr maj s) := by
  unfold traceSample
  extract_lets _ _ _ s1
  have ws1 : MemWf s1 := ws
  exact memWf_ite (memWf_ite (memWf_ite (memWf_postTrace _ _ _ ws) ws1) ws) ws

/-! ### `Machine/Parts` -/

theorem memWf_completeBar {id b : Nat} (w : MemWf s) : MemWf (completeBar id b s) := by
  unfold completeBar
  split
  · exact w
  · extract_lets
    exact memWf_ite (memWf_ite w w) w

theorem memWf_recountBars {id : Nat} (w : MemWf s) : MemWf (recountBars id s) := by
  unfold recountBars
  split
  · exact w
  · extract_lets _ s1
    have ws1 : MemWf s1 := w
    exact memWf_foldl (fun _ _ w1 => memWf_completeBar w1) ws1

theorem memWf_unfuse {core : Nat} (w : MemWf s) : MemWf (unfuse core s) := by
  unfold unfuse
  refine memWf_ite w ?_
  extract_lets s1
  have ws1 : MemWf s1 := w
  exact memWf_performStores _ _ _ ws1

theorem memWf_freeWg {id : Nat} (w : MemWf s) : MemWf (freeWg id s) := by
  unfold freeWg
  split
  · exact w
  · refine memWf_ite w (memWf_ite (memWf_unfuse ?_) w)
    extract_lets
    exact w

theorem memWf_endWave {key : Nat} (w : MemWf s) : MemWf (endWave key s) := by
  unfold endWave
  split
  · exact w
  · extract_lets s1 s2 s3
    have ws1 : MemWf s1 := w
    have ws2 : MemWf s2 := memWf_ite w ws1
    have ws3 : MemWf s3 := ws2
    split
    · exact ws3
    · exact memWf_freeWg (memWf_ite ws2 ws3)

theorem memWf_closeRun {key : Nat} {w : Wave} {p : Part} {r : Run} {cause : Nat} (ws : MemWf s) : MemWf (closeRun key w p r cause s) := by
  unfold closeRun
  extract_lets s1
  have ws1 : MemWf s1 := memWf_ite ws (memWf_traceRun ws)
  exact ws1

theorem memWf_endRun {key cause : Nat} (w : MemWf s) : MemWf (endRun key cause s) := by
  unfold endRun
  split
  · refine memWf_ite ?_ w
    split
    · exact memWf_closeRun w
    · exact w
  · exact w

theorem memWf_endPart {key q : Nat} (w : MemWf s) : MemWf (endPart key q s) := by
  unfold endPart
  extract_lets s1
  have ws1 : MemWf s1 := w
  split
  · exact ws1
  · split
    · exact ws1
    · extract_lets _ _ s2 s3
      have ws2 : MemWf s2 := w
      have ws3 : MemWf s3 := memWf_ite (memWf_endWave ws2) ws2
      exact memWf_recountBars ws3

theorem memWf_endParts {key : Nat} {xs : List Part} (w : MemWf s) : MemWf (endParts key xs s) := by
  induction xs generalizing s with
  | nil =>
    unfold endParts
    exact w
  | cons x xs ih =>
    unfold endParts
    exact ih (memWf_endPart w)

theorem memWf_noteUereg {core : Nat} (w : MemWf s) : MemWf (noteUereg core s) :=
  memWf_ite w w

theorem memWf_terminateWave {key status fsum : Nat} {pc : Option Word} (w : MemWf s) : MemWf (terminateWave key status fsum pc s) := by
  unfold terminateWave
  split
  · exact w
  · extract_lets s1
    have ws1 : MemWf s1 := memWf_ite (memWf_noteUereg w) w
    split
    · exact memWf_endParts ws1
    · extract_lets _ s2 s3
      have ws2 : MemWf s2 := ws1
      have ws3 : MemWf s3 := memWf_postEvent _ _ _ ws2
      exact memWf_endParts (memWf_endRun (memWf_ite ws3 ws3))

theorem memWf_stopWave {key cause : Nat} (w : MemWf s) : MemWf (stopWave key cause s) := by
  unfold stopWave
  split
  · exact w
  · extract_lets s1 s2
    have ws1 : MemWf s1 := memWf_endRun w
    have ws2 : MemWf s2 := ws1
    exact memWf_foldl (fun _ _ w2 => memWf_postTrace _ _ _ w2) ws2

/-! ### `Machine/Operands` -/

theorem memWf_writeRegs {code : BitVec 7} {f : Nat → List Word} (w : MemWf s) : MemWf (writeRegs c code f s) := by
  unfold writeRegs
  refine memWf_ite w (memWf_ite ?_ w)
  split <;> exact w

theorem memWf_writeReg {code : BitVec 7} {f : Nat → Word} (w : MemWf s) : MemWf (writeReg c code f s) :=
  memWf_writeRegs w

theorem memWf_writeNat {wide : Bool} {code : BitVec 7} {f : Nat → Nat} (w : MemWf s) : MemWf (writeNat c wide code f s) :=
  memWf_writeRegs w

theorem memWf_writeLater {code : BitVec 7} {la : Nat} {f : Nat → List Word} (w : MemWf s) : MemWf (writeLater c code la f s) := by
  unfold writeLater
  extract_lets _ s1
  have ws1 : MemWf s1 := w
  exact memWf_ite ws1 w

/-! ### `Machine/Ops` -/

theorem memWf_chargeWgs {n : Nat → Nat} (w : MemWf s) : MemWf (chargeWgs n s) :=
  memWf_ite w w

theorem memWf_chargeCycles {s0 : State} (w : MemWf s) : MemWf (chargeCycles s0 s) :=
  memWf_chargeWgs w

theorem memWf_tick {n : Nat} (w : MemWf s) : MemWf (tick n s) :=
  memWf_chargeCycles (memWf_performOld w)

theorem memWf_takeTrap {key q : Nat} {pc : Word} {t : Trap} (w : MemWf s) : MemWf (takeTrap key q pc t s) := by
  unfold takeTrap
  split
  · exact w
  · split
    · exact w
    · refine memWf_ite (memWf_terminateWave w) (memWf_ite (memWf_terminateWave w) ?_)
      extract_lets s1 s2
      have ws1 : MemWf s1 := memWf_traceSummary w
      have ws2 : MemWf s2 := memWf_countEvent ws1
      exact ws2

theorem memWf_fuseNow {key : Nat} (w : MemWf s) : MemWf (fuseNow key s) := by
  unfold fuseNow
  split
  · exact w
  · extract_lets _ s1
    have ws1 : MemWf s1 := memWf_countEvent w
    refine memWf_foldl (fun s2 x1 w2 => ?_) ws1
    split
    · exact w2
    · exact memWf_takeTrap w2

theorem memWf_stopRun {cause : Nat} (w : MemWf s) : MemWf (stopRun c cause s) := by
  unfold stopRun
  split
  · exact w
  · exact memWf_closeRun w

theorem memWf_stopIfAsked {key : Nat} (w : MemWf s) : MemWf (stopIfAsked key s) := by
  unfold stopIfAsked
  split
  · exact memWf_stopWave w
  · exact w

theorem memWf_endWord {cost : Nat} {ended : Option Nat} (w : MemWf s) : MemWf (endWord c cost ended s) := by
  unfold endWord
  extract_lets _ _ s1 s2 s3
  have ws1 : MemWf s1 := w
  have ws2 : MemWf s2 := memWf_countEvent (memWf_countEvent ws1)
  have ws3 : MemWf s3 := ws2
  split
  · exact ws3
  · extract_lets s4 _ _ s5 s6
    have ws4 : MemWf s4 := memWf_ite (memWf_traceSelect ws3) ws3
    have ws5 : MemWf s5 := ws4
    have ws6 : MemWf s6 := by
      unfold s6
      split
      · exact memWf_stopRun ws5
      · exact memWf_ite (memWf_stopRun ws5) (memWf_ite (memWf_stopRun ws5) ws5)
    exact memWf_stopIfAsked ws6

theorem memWf_breakRun {wt : Wait} (w : MemWf s) : MemWf (breakRun c wt s) := by
  unfold breakRun
  extract_lets s1
  have ws1 : MemWf s1 := w
  refine memWf_ite ws1 ?_
  split
  · exact ws1
  · exact memWf_stopRun (memWf_ite ws1 (memWf_countEvent ws1))

theorem memWf_fallThrough (w : MemWf s) : MemWf (fallThrough c s) := by
  unfold fallThrough
  extract_lets s1
  have ws1 : MemWf s1 := w
  exact memWf_ite (memWf_ite (memWf_countEvent ws1) ws1) ws1

theorem memWf_finish {s0 : State} {x : Res} (ws0 : MemWf s0) (wx : ResWf x) : OutWf (finish c s0 x) := by
  unfold finish
  split
  · exact memWf_endWord (memWf_fallThrough wx)
  · exact memWf_endWord (memWf_countEvent wx)
  · exact memWf_endWord wx
  · exact memWf_endWord wx
  · exact memWf_endWord wx
  · exact memWf_stopIfAsked (memWf_stopRun wx)
  · exact memWf_stopIfAsked (memWf_breakRun ws0)
  · exact memWf_stopIfAsked (memWf_stopRun (wx _ ws0))
  · exact memWf_endWord (memWf_takeTrap wx)
  · exact memWf_terminateWave wx
  · trivial
  · trivial

theorem memWf_widthWait {m : Nat} (w : MemWf s) : OutWf (widthWait c m s) := by
  unfold widthWait
  extract_lets s1
  have ws1 : MemWf s1 := w
  exact memWf_stopIfAsked (memWf_fuseNow (memWf_stopRun ws1))

theorem memWf_issueWord {sig : Ctx → Sig} {idle body : Ctx → State → Res} (hidle : ∀ x s, MemWf s → ResWf (idle x s))
    (hbody : ∀ x s, MemWf s → ResWf (body x s)) (w : MemWf s) : OutWf (issueWord z sig idle body s) := by
  unfold issueWord
  split
  · trivial
  · refine holds_ite (memWf_finish w trivial) (holds_ite (memWf_finish w w)
      (holds_ite (memWf_widthWait w) (holds_ite (memWf_finish w (hidle _ _ w)) ?_)))
    split
    · exact memWf_finish w w
    · exact holds_ite (memWf_finish w trivial) (holds_ite (memWf_finish w w) (holds_ite (memWf_finish w w) (memWf_finish w (hbody _ _ w))))

theorem memWf_idleWord {x : Ctx} (w : MemWf s) : ResWf (idleWord x s) :=
  w

theorem memWf_idleCost {m : Ctx → Nat} (w : MemWf s) : ResWf (idleCost m c s) :=
  w

/-! ### `Machine/Integer` -/

theorem memWf_ialuBody {f : Nat} {d a b : BitVec 7} (w : MemWf s) : ResWf (ialuBody f d a b c s) := by
  unfold ialuBody
  extract_lets
  exact memWf_writeNat w

theorem memWf_execIalu {f : Nat} {d a b : BitVec 7} (w : MemWf s) : OutWf (execIalu f z d a b s) :=
  memWf_issueWord (fun _ _ w1 => memWf_idleCost w1) (fun _ _ w1 => memWf_ialuBody w1) w

theorem memWf_ibitBody {f : Nat} {d a b : BitVec 7} (w : MemWf s) : ResWf (ibitBody f d a b c s) := by
  unfold ibitBody
  extract_lets
  exact memWf_writeNat w

theorem memWf_execIbit {f : Nat} {d a b : BitVec 7} (w : MemWf s) : OutWf (execIbit f z d a b s) :=
  memWf_issueWord (fun _ _ w1 => memWf_idleWord w1) (fun _ _ w1 => memWf_ibitBody w1) w

theorem memWf_imadBody {f : Nat} {d a b : BitVec 7} (w : MemWf s) : ResWf (imadBody f d a b c s) := by
  unfold imadBody
  extract_lets
  exact memWf_writeNat w

theorem memWf_execImadF {f : Nat} {d a b : BitVec 7} (w : MemWf s) : OutWf (execImadF f z d a b s) :=
  memWf_issueWord (fun _ _ w1 => memWf_idleCost w1) (fun _ _ w1 => memWf_imadBody w1) w

theorem memWf_icmpBody {f : Nat} {d a b : BitVec 7} (w : MemWf s) : ResWf (icmpBody f d a b c s) := by
  unfold icmpBody
  extract_lets
  exact memWf_writeReg w

theorem memWf_execIcmp {f : Nat} {d a b : BitVec 7} (w : MemWf s) : OutWf (execIcmp f z d a b s) :=
  memWf_issueWord (fun _ _ w1 => memWf_idleWord w1) (fun _ _ w1 => memWf_icmpBody w1) w

theorem memWf_addrBody {f : Nat} {d a b : BitVec 7} (w : MemWf s) : ResWf (addrBody f d a b c s) :=
  memWf_writeRegs w

theorem memWf_execAddr {f : Nat} {d a b : BitVec 7} (w : MemWf s) : OutWf (execAddr f z d a b s) :=
  memWf_issueWord (fun _ _ w1 => memWf_idleWord w1) (fun _ _ w1 => memWf_addrBody w1) w

/-! ### `Machine/Float` -/

theorem memWf_faluBody {f : Nat} {d a b : BitVec 7} (w : MemWf s) : ResWf (faluBody f d a b c s) := by
  unfold faluBody
  extract_lets
  exact memWf_writeNat w

theorem memWf_execFalu {f : Nat} {d a b : BitVec 7} (w : MemWf s) : OutWf (execFalu f z d a b s) :=
  memWf_issueWord (fun _ _ w1 => memWf_idleCost w1) (fun _ _ w1 => memWf_faluBody w1) w

theorem memWf_ffmaBody {f : Nat} {d a b : BitVec 7} (w : MemWf s) : ResWf (ffmaBody f d a b c s) := by
  unfold ffmaBody
  extract_lets
  exact memWf_writeNat w

theorem memWf_execFfmaF {f : Nat} {d a b : BitVec 7} (w : MemWf s) : OutWf (execFfmaF f z d a b s) :=
  memWf_issueWord (fun _ _ w1 => memWf_idleCost w1) (fun _ _ w1 => memWf_ffmaBody w1) w

theorem memWf_fcmpBody {f : Nat} {d a b : BitVec 7} (w : MemWf s) : ResWf (fcmpBody f d a b c s) := by
  unfold fcmpBody
  extract_lets
  exact memWf_writeReg w

theorem memWf_execFcmp {f : Nat} {d a b : BitVec 7} (w : MemWf s) : OutWf (execFcmp f z d a b s) :=
  memWf_issueWord (fun _ _ w1 => memWf_idleCost w1) (fun _ _ w1 => memWf_fcmpBody w1) w

theorem memWf_cvtBody {mode : Nat} {forced : Bool} {d a : BitVec 7} (w : MemWf s) : ResWf (cvtBody mode forced d a c s) :=
  memWf_writeNat w

theorem memWf_pack2Body {d a b : BitVec 7} (w : MemWf s) : ResWf (pack2Body d a b c s) := by
  unfold pack2Body
  extract_lets
  exact memWf_writeNat w

theorem memWf_unpkBody {hi : Bool} {d a : BitVec 7} (w : MemWf s) : ResWf (unpkBody hi d a c s) :=
  memWf_writeNat w

theorem memWf_nrwBody {d a b : BitVec 7} {x : BitVec 1} {k : BitVec 2} (w : MemWf s) : ResWf (nrwBody d a b x k c s) := by
  unfold nrwBody
  extract_lets
  exact memWf_writeRegs w

theorem memWf_wideBody {d a b : BitVec 7} (w : MemWf s) : ResWf (wideBody d a b c s) := by
  unfold wideBody
  extract_lets
  exact memWf_writeNat w

theorem memWf_wide4Body {d a b : BitVec 7} (w : MemWf s) : ResWf (wide4Body d a b c s) := by
  unfold wide4Body
  extract_lets
  exact memWf_writeRegs w

theorem memWf_scaleofBody {d a : BitVec 7} (w : MemWf s) : ResWf (scaleofBody d a c s) :=
  memWf_writeNat w

theorem memWf_setscBody {d a : BitVec 7} (w : MemWf s) : ResWf (setscBody d a c s) :=
  memWf_writeReg w

/-! ### `Machine/Lanes` -/

theorem memWf_domainRes {o : Opd} {r : Res} (w : MemWf s) (wr : ResWf r) : ResWf (domainRes c o s r) :=
  holds_ite trivial (holds_ite w wr)

theorem memWf_shflBody {f : Nat} {d a b : BitVec 7} (w : MemWf s) : ResWf (shflBody f d a b c s) := by
  unfold shflBody
  extract_lets
  exact memWf_domainRes w (memWf_writeNat w)

theorem memWf_execXlane {f : Nat} {d a b : BitVec 7} {p : BitVec 1} (w : MemWf s) : OutWf (execXlane f z d a b p s) :=
  memWf_issueWord (fun _ _ w1 => memWf_idleCost w1) (fun _ _ w1 => memWf_shflBody w1) w

theorem memWf_ballotBody {d a : BitVec 7} (w : MemWf s) : ResWf (ballotBody d a c s) :=
  memWf_domainRes w (memWf_writeNat w)

theorem memWf_voteBody {d a : BitVec 7} (w : MemWf s) : ResWf (voteBody d a c s) := by
  unfold voteBody
  extract_lets
  exact memWf_domainRes w (memWf_writeNat w)

theorem memWf_wredBody {f : Nat} {d a : BitVec 7} (w : MemWf s) : ResWf (wredBody f d a c s) := by
  unfold wredBody
  extract_lets
  exact memWf_domainRes w (holds_ite (memWf_writeNat w) (memWf_writeNat w))

theorem memWf_execWred {f : Nat} {d a : BitVec 7} {p : BitVec 1} (w : MemWf s) : OutWf (execWred f z d a p s) :=
  memWf_issueWord (fun _ _ w1 => memWf_idleCost w1) (fun _ _ w1 => memWf_wredBody w1) w

/-! ### `Machine/Special` -/

theorem memWf_sfnBody {f : Nat} {d a : BitVec 7} {t : BitVec 4} (w : MemWf s) : ResWf (sfnBody f d a t c s) :=
  holds_ite trivial (memWf_countEvent w)

theorem memWf_execSfn {f : Nat} {d a : BitVec 7} {t : BitVec 4} (w : MemWf s) : OutWf (execSfn f z d a t s) :=
  memWf_issueWord (fun _ _ w1 => memWf_idleWord w1) (fun _ _ w1 => memWf_sfnBody w1) w

/-! ### `Machine/Control` -/

theorem memWf_issuePrefix {maj : Nat} {bad : Part → Bool} {f : Part → Part} (w : MemWf s) : OutWf (issuePrefix maj bad f s) := by
  unfold issuePrefix
  split
  · trivial
  · exact holds_ite (memWf_finish w trivial) (holds_ite (memWf_finish w w) (holds_ite (memWf_finish w w) w))

theorem memWf_putMode {m : Word} (w : MemWf s) : ResWf (putMode c m s) :=
  w

theorem memWf_modeIdle {m : Word} (w : MemWf s) : ResWf (modeIdle m c s) :=
  holds_ite (memWf_putMode w) w

theorem memWf_modeBody {m : Word} (w : MemWf s) : ResWf (modeBody m c s) := by
  unfold modeBody
  split
  · exact w
  · exact memWf_putMode w

theorem memWf_execModeField {f : Word → Word} (w : MemWf s) : OutWf (execModeField z f s) :=
  memWf_issueWord (fun _ _ w1 => memWf_modeIdle w1) (fun _ _ w1 => memWf_modeBody w1) w

theorem memWf_idleReads {os : List Opd} {r : Res} (wr : ResWf r) : ResWf (idleReads c os r) := by
  unfold idleReads
  extract_lets
  exact holds_ite wr trivial

theorem memWf_modeWordBody {d : BitVec 7} (w : MemWf s) : ResWf (modeWordBody d c s) :=
  holds_ite (memWf_modeBody w) w

theorem memWf_swriteState {e : Nat} {d : BitVec 7} (w : MemWf s) : MemWf (swriteState c e d s) := by
  unfold swriteState
  refine memWf_ite w (memWf_ite w ?_)
  extract_lets
  exact w

theorem memWf_gopBody {ret : Bool} {f : Word → Word → Word} {d : BitVec 7} {k : Nat} (w : MemWf s) : ResWf (gopBody ret f d k c s) := by
  unfold gopBody
  extract_lets _ s1
  have ws1 : MemWf s1 := w
  exact memWf_ite (memWf_writeReg ws1) ws1

theorem memWf_rgnBody {add : Bool} {a : BitVec 7} {i : BitVec 14} (w : MemWf s) : ResWf (rgnBody add a i c s) := by
  unfold rgnBody
  split <;> exact w

/-! ### `Machine/Parking` -/

theorem memWf_giveUp {id : Nat} {g : Wg} {ws : List Wave} (w : MemWf s) : MemWf (giveUp id g ws s) := by
  unfold giveUp
  extract_lets _ _ _ _ _ s1 s2 s3
  have ws1 : MemWf s1 := memWf_ite w w
  have ws2 : MemWf s2 := memWf_foldl (fun _ _ w1 => w1) ws1
  have ws3 : MemWf s3 := memWf_ite ws2 ws2
  exact memWf_unfuse ws3

theorem memWf_parkWg {id : Nat} (w : MemWf s) : MemWf (parkWg id s) := by
  unfold parkWg
  split
  · exact w
  · extract_lets
    exact memWf_ite (memWf_giveUp w) w

/-! ### `Machine/Flow` -/

theorem memWf_takeTo {t : Word} (w : MemWf s) : ResWf (takeTo c t s) :=
  w

theorem memWf_notTaken (w : MemWf s) : ResWf (notTaken c s) :=
  w

theorem memWf_idleTransfer (w : MemWf s) : ResWf (idleTransfer c s) :=
  memWf_notTaken w

theorem memWf_link (w : MemWf s) : MemWf (link c s) :=
  memWf_writeReg w

theorem memWf_jumpTo {t : Word} {s' : State} (w : MemWf s) (ws' : MemWf s') : ResWf (jumpTo c t s s') :=
  holds_ite (memWf_takeTo ws') w

theorem memWf_foldQuads {out : Nat → Bool} (w : MemWf s) : MemWf (foldQuads c out s) :=
  memWf_foldl (fun _ _ w1 => w1) w

theorem memWf_foldBlocks {out : Nat → Bool} (w : MemWf s) : MemWf (foldBlocks c out s) :=
  memWf_foldl (fun _ _ w1 => w1) w

theorem memWf_countSplit {out : Nat → Bool} (w : MemWf s) : MemWf (countSplit c out s) :=
  memWf_countEvent w

theorem memWf_brdBody {a : BitVec 7} {o : BitVec 18} (w : MemWf s) : ResWf (brdBody a o c s) := by
  unfold brdBody
  extract_lets _ _ _ _ s1
  have ws1 : MemWf s1 := memWf_foldQuads w
  exact holds_ite w (holds_ite (holds_ite ws1 ws1) (memWf_countEvent (memWf_countSplit (memWf_foldBlocks ws1))))

theorem memWf_execMissSplit {wave q : Nat} (w : MemWf s) : OutWf (execMissSplit wave q s) := by
  unfold execMissSplit
  split
  · exact w
  · split
    · exact w
    · split
      · exact w
      · extract_lets s1
        have ws1 : MemWf s1 := by
          unfold s1
          refine memWf_countEvent ?_
          split
          · exact memWf_ite (memWf_endRun w) w
          · exact w
        exact ws1

theorem memWf_fusePoint {kind : FuseKind} {t : Option Nat} (w : MemWf s) : ResWf (fusePoint kind t c s) := by
  unfold fusePoint
  refine holds_ite ?_ ?_
  · split <;> exact w
  · extract_lets s1
    have ws1 : MemWf s1 := memWf_fuseNow w
    exact ws1

theorem memWf_execRcvDeadline {wave q : Nat} (w : MemWf s) : OutWf (execRcvDeadline wave q s) := by
  unfold execRcvDeadline
  split
  · exact w
  · split
    · exact w
    · exact memWf_ite (memWf_fuseNow w) w

theorem memWf_leaveWait {key q : Nat} (w : MemWf s) : MemWf (leaveWait key q s) := by
  unfold leaveWait
  split
  · split <;> exact w
  · exact w

theorem memWf_fusedeadPart {key mask : Nat} {p : Part} (w : MemWf s) : MemWf (fusedeadPart key mask s p) :=
  memWf_takeTrap (memWf_leaveWait w)

theorem memWf_execFusedead {wave : Nat} (w : MemWf s) : OutWf (execFusedead wave s) := by
  unfold execFusedead
  split
  · exact w
  · exact memWf_ite (memWf_foldl (fun _ _ w2 => memWf_fusedeadPart w2) w) (memWf_ite (memWf_foldl (fun _ _ w2 => memWf_fusedeadPart w2) w) w)

theorem memWf_yieldTo {pc : Word} (w : MemWf s) : ResWf (yieldTo c pc s) := by
  unfold yieldTo
  exact holds_ite w (holds_ite w (memWf_parkWg w))

theorem memWf_roleBody {r : BitVec 2} (w : MemWf s) : ResWf (roleBody r c s) :=
  w

theorem memWf_execRole {r : BitVec 2} (w : MemWf s) : OutWf (execRole z r s) := by
  unfold execRole
  refine memWf_issueWord (fun x s1 w1 => ?_) (fun _ _ w1 => memWf_roleBody w1) w
  split
  · exact memWf_idleWord w1
  · exact memWf_roleBody w1

theorem memWf_sleepBody {i : BitVec 14} (w : MemWf s) : ResWf (sleepBody i c s) :=
  memWf_fallThrough w

/-! ### `Machine/Translate` -/

theorem memWf_tlbFill {y : Party} {va pte addr level : Nat} (w : MemWf s) : FstWf (tlbFill s y va pte addr level) := by
  unfold tlbFill
  extract_lets _ s1
  have ws1 : MemWf s1 := memWf_ite w (memWf_physWrite _ _ _ _ _ w)
  exact ws1

theorem memWf_notePtrs {y : Party} {va : Nat} (w : MemWf s) : MemWf (notePtrs s y va) := by
  unfold notePtrs
  split <;> exact w

theorem memWf_rawWrite {p ctx va : Nat} {bs : List Byte} (w : MemWf s) : MemWf (rawWrite s p ctx va bs) := by
  unfold rawWrite
  split
  · exact memWf_physWrite _ _ _ _ _ w
  · exact w

theorem memWf_capturePage {p ctx gid page : Nat} {x : Session} (w : MemWf s) : MemWf (capturePage p ctx gid page x s) := by
  unfold capturePage
  extract_lets _ s1 s2
  have ws1 : MemWf s1 := memWf_rawWrite w
  have ws2 : MemWf s2 := memWf_rawWrite ws1
  exact memWf_ite w (memWf_ite w ws2)

theorem memWf_captureWrite {p ctx va : Nat} (w : MemWf s) : MemWf (captureWrite p ctx va s) := by
  unfold captureWrite
  split
  · split
    · exact memWf_capturePage w
    · exact w
  · exact w

theorem memWf_useLeaf {y : Party} {a : Acc} {va pte addr level : Nat} (w : MemWf s) : FstWf (useLeaf s y a va pte addr level) := by
  unfold useLeaf
  split
  · exact w
  · extract_lets _ s1 s2 r
    have ws1 : MemWf s1 := memWf_ite (memWf_captureWrite w) w
    have ws2 : MemWf s2 := memWf_physWrite _ _ _ _ _ ws1
    have wr : FstWf r := holds_ite ws2 ws1
    exact holds_ite w wr

theorem memWf_walkUse {y : Party} {a : Acc} {va : Nat} {found : Walk} (w : MemWf s) : FstWf (walkUse s y a va found) := by
  unfold walkUse
  extract_lets s1
  have ws1 : MemWf s1 := memWf_notePtrs w
  split
  · exact ws1
  · exact ws1
  · exact ws1
  · split
    · exact ws1
    · extract_lets r
      have wr : FstWf r := memWf_tlbFill ws1
      exact memWf_useLeaf wr

theorem memWf_cachedUse {y : Party} {a : Acc} {va : Nat} {t : TlbEntry} (w : MemWf s) : FstWf (cachedUse s y a va t) :=
  holds_ite (memWf_walkUse w) (memWf_useLeaf w)

theorem memWf_xlate {y : Party} {a : Acc} {va : Nat} (w : MemWf s) : FstWf (xlate s y a va) := by
  unfold xlate
  extract_lets _ _ u
  have wu : MemWf u := memWf_ite w w
  split
  · exact memWf_cachedUse wu
  · exact memWf_walkUse wu

theorem memWf_resolvePiece {y : Party} {a : Acc} {x : Piece} (w : MemWf s) : FstWf (resolvePiece s y a x) := by
  unfold resolvePiece
  split
  · exact w
  · split
    next s1 _ _ _ _ h1 =>
      have w1 : MemWf s1 := memWf_of_eq h1 (memWf_xlate w)
      exact w1
    next s1 h1 =>
      have w1 : MemWf s1 := memWf_of_eq h1 (memWf_xlate w)
      exact w1
    next s1 _ _ h1 =>
      have w1 : MemWf s1 := memWf_of_eq h1 (memWf_xlate w)
      exact holds_ite w1 w1
    next s1 _ h1 =>
      have w1 : MemWf s1 := memWf_of_eq h1 (memWf_xlate w)
      exact w1

theorem memWf_resolveLane {y : Party} {a : Acc} {r : Req} {x : LaneAcc} {xs : List Piece} (w : MemWf s) : FstWf (resolveLane y a r s x xs) := by
  induction xs generalizing s x with
  | nil =>
    unfold resolveLane
    exact w
  | cons x xs ih =>
    unfold resolveLane
    split
    next s1 _ h =>
      have w1 : MemWf s1 := memWf_of_eq h (memWf_resolvePiece w)
      exact ih w1
    next s1 _ _ h =>
      have w1 : MemWf s1 := memWf_of_eq h (memWf_resolvePiece w)
      exact ih w1
    next s1 _ h =>
      have w1 : MemWf s1 := memWf_of_eq h (memWf_resolvePiece w)
      extract_lets
      exact ih w1
    next s1 _ h =>
      have w1 : MemWf s1 := memWf_of_eq h (memWf_resolvePiece w)
      exact ih w1

theorem memWf_resolveAll {y : Party} {a : Acc} {x : AllAcc} {xs : List (Req × List Piece)} (w : MemWf s) : FstWf (resolveAll y a s x xs) := by
  induction xs generalizing s x with
  | nil =>
    unfold resolveAll
    exact w
  | cons x xs ih =>
    unfold resolveAll
    split
    next s1 _ h =>
      have w1 : MemWf s1 := memWf_of_eq h (memWf_resolveLane w)
      extract_lets
      exact ih w1

theorem memWf_memAccess {w : Wave} {reqs : List Req} {align : Nat} {a : Acc} {extra : Req → Bool} (ws : MemWf s) :
    MemResWf (memAccess w reqs align a extra s) := by
  unfold memAccess
  extract_lets
  split
  · trivial
  · split
    · trivial
    · split
      next s1 _ h2 =>
        have w1 : MemWf s1 := memWf_of_eq h2 (memWf_resolveAll ws)
        split
        · trivial
        · trivial
        · exact w1
        · trivial

theorem memWf_writeRecord {p : Nat} (w : MemWf s) : MemWf (writeRecord p s) := by
  unfold writeRecord
  extract_lets
  split
  · exact w
  · refine memWf_ite w (memWf_ite ?_ w)
    extract_lets s1 s2
    have ws1 : MemWf s1 := memWf_physWrite _ _ _ _ _ w
    have ws2 : MemWf s2 := ws1
    exact memWf_postEvent _ _ _ ws2

theorem memWf_writeRecords {p n : Nat} (w : MemWf s) : MemWf (writeRecords p n s) := by
  induction n generalizing s with
  | zero =>
    unfold writeRecords
    exact w
  | succ n ih =>
    unfold writeRecords
    exact ih (memWf_writeRecord w)

theorem memWf_addFault {p ctx va acc level : Nat} (w : MemWf s) : FstWf (addFault p ctx va acc level s) := by
  unfold addFault
  extract_lets
  split
  · extract_lets
    exact w
  · exact w

theorem memWf_addFaults {p ctx acc : Nat} {xs : List Stalled} (w : MemWf s) : FstWf (addFaults p ctx acc xs s) := by
  induction xs generalizing s with
  | nil =>
    unfold addFaults
    exact w
  | cons x xs ih =>
    unfold addFaults
    extract_lets r t
    have wr : FstWf r := memWf_addFault w
    have wt : FstWf t := ih wr
    exact wt

theorem memWf_stallPart {a : Acc} {ls : List Stalled} (w : MemWf s) : MemWf (stallPart c a ls s) := by
  unfold stallPart
  extract_lets r s1
  have wr : FstWf r := memWf_addFaults w
  have ws1 : MemWf s1 := memWf_writeRecords wr
  exact memWf_ite (memWf_countSplit ws1) ws1

theorem memWf_afterTakes {lanes : List Nat} {k : Res} (wk : ResWf k) : ResWf (afterTakes c lanes k) :=
  holds_ite wk trivial

theorem memWf_partRelease {scope : Nat} (w : MemWf s) : MemWf (partRelease c scope s) :=
  memWf_physRelease _ _ _ w

theorem memWf_memWord {reqs : List Req} {align : Nat} {a : Acc} {extra : Req → Bool} {k : State → List (Nat × Places) → Res}
    (hk : ∀ s xs, MemWf s → ResWf (k s xs)) (w : MemWf s) : ResWf (memWord c reqs align a extra k s) := by
  unfold memWord
  split
  next s1 _ h =>
    have w1 : MemWf s1 := (congrArg MemResWf h).mp (memWf_memAccess w)
    exact memWf_afterTakes (hk _ _ w1)
  · exact w
  · intro s1 w1
    exact memWf_stallPart w1
  · trivial

theorem memWf_releaseWord {reqs : List Req} {align : Nat} {a : Acc} {extra : Req → Bool} {k : State → List (Nat × Places) → Res}
    (hk : ∀ s xs, MemWf s → ResWf (k s xs)) (w : MemWf s) : ResWf (releaseWord c reqs align a extra k s) :=
  memWf_memWord (fun _ _ w1 => memWf_afterTakes (hk _ _ w1)) w

theorem memWf_storePiece {core : Nat} {bs : List Byte} {r : Nat × Nat × Place} (w : MemWf s) : MemWf (storePiece core bs s r) := by
  unfold storePiece
  split
  · extract_lets
    exact memWf_ite (memWf_physWrite _ _ _ _ _ w) (memWf_physStore _ _ _ _ _ _ w)
  · exact w

theorem memWf_storePlaces {core : Nat} {bs : List Byte} {ps : Places} (w : MemWf s) : MemWf (storePlaces core bs ps s) :=
  memWf_foldl (fun _ _ w1 => memWf_storePiece w1) w

theorem memWf_syncPiece {core scope : Nat} {r : Nat × Nat × Place} (w : MemWf s) : MemWf (syncPiece core scope s r) := by
  unfold syncPiece
  split
  · exact memWf_physSync _ _ _ _ _ _ w
  · exact w

theorem memWf_writePieceAt {core scope : Nat} {bs : List Byte} {r : Nat × Nat × Place} (w : MemWf s) : MemWf (writePieceAt core scope bs s r) := by
  unfold writePieceAt
  split
  · exact memWf_physWriteAt _ _ _ _ _ _ _ w
  · exact w

theorem memWf_rangePlaces {y : Party} {a : Acc} {n n1 n2 n3 : Nat} (w : MemWf s) : Yields FstWf (rangePlaces y a n s n1 n2 n3) := by
  induction n generalizing s n1 n2 n3 with
  | zero =>
    unfold rangePlaces
    exact yields_some w
  | succ n ih =>
    unfold rangePlaces
    refine holds_ite (yields_some w) ?_
    extract_lets
    split
    next s1 _ _ _ _ h =>
      have w1 : MemWf s1 := memWf_of_eq h (memWf_xlate w)
      exact yields_map (ih w1) (fun _ w2 => w2)
    next s1 h =>
      have w1 : MemWf s1 := memWf_of_eq h (memWf_xlate w)
      exact yields_map (ih w1) (fun _ w2 => w2)
    · exact yields_none

theorem memWf_mappedPlaces {y : Party} {a : Acc} {g n : Nat} (w : MemWf s) : Yields FstWf (mappedPlaces y a s g n) :=
  holds_ite (memWf_rangePlaces w) yields_none

theorem memWf_ctlRead {p ctx g n : Nat} (w : MemWf s) : Yields FstWf (ctlRead p ctx g n s) :=
  yields_map (memWf_mappedPlaces w) (fun _ w1 => w1)

theorem memWf_ctlWrite {p ctx g : Nat} {bs : List Byte} (w : MemWf s) : Yields MemWf (ctlWrite p ctx g bs s) :=
  yields_map (memWf_mappedPlaces w) (fun _ w1 => memWf_foldl (fun _ _ w2 => memWf_writePieceAt w2) w1)

/-! ### `Machine/Tables` -/

theorem memWf_atBody {x : Acc} {d a : BitVec 7} {la : BitVec 4} (w : MemWf s) : ResWf (atBody x d a la c s) :=
  memWf_writeLater w

theorem memWf_tlbDrop {sel : Nat} {hit : TlbEntry → Bool} {hitPtr : TablePtr → Bool} (w : MemWf s) : ResWf (tlbDrop c sel hit hitPtr s) := by
  unfold tlbDrop
  refine holds_ite w ?_
  extract_lets s1
  have ws1 : MemWf s1 := memWf_performStores _ _ _ w
  exact holds_ite ws1 (memWf_fallThrough ws1)

theorem memWf_execTlbinv {d a : BitVec 7} {x : BitVec 4} (w : MemWf s) : OutWf (execTlbinv z d a x s) := by
  unfold execTlbinv
  refine memWf_issueWord (fun _ _ w1 => memWf_idleWord w1) (fun x1 s1 w1 => ?_) w
  extract_lets
  exact memWf_tlbDrop w1

theorem memWf_execPageWalk {p ctx va die acc : Nat} (w : MemWf s) : OutWf (execPageWalk p ctx va die acc s) := by
  unfold execPageWalk
  extract_lets
  split
  · exact memWf_ite (memWf_tlbFill (memWf_notePtrs w)) w
  · exact w

theorem memWf_execFrackWrite {p n : Nat} (w : MemWf s) : OutWf (execFrackWrite p n s) := by
  unfold execFrackWrite
  extract_lets
  exact w

theorem memWf_execFrheadWrite {p v : Nat} (w : MemWf s) : OutWf (execFrheadWrite p v s) := by
  unfold execFrheadWrite
  extract_lets
  exact memWf_ite w (memWf_writeRecords w)

/-! ### `Machine/Structured` -/

theorem memWf_fetchMapped {w : Wave} {pc : Word} (ws : MemWf s) : FetchWf (fetchMapped s w pc) := by
  unfold fetchMapped
  extract_lets
  split
  · exact ws
  · split
    next s1 _ _ _ _ h1 =>
      have w1 : MemWf s1 := memWf_of_eq h1 (memWf_xlate ws)
      extract_lets
      exact w1
    next s1 h1 =>
      have w1 : MemWf s1 := memWf_of_eq h1 (memWf_xlate ws)
      exact w1
    · exact holds_ite trivial trivial
    · trivial

theorem memWf_fetchWord {w : Wave} {pc : Word} (ws : MemWf s) : FetchWf (fetchWord s w pc) := by
  unfold fetchWord
  split
  · exact ws
  · exact memWf_fetchMapped ws

theorem memWf_fillBodies {w : Wave} {p : Part} {pc : Word} {x : Nat} (ws : MemWf s) : MemWf (fillBodies w p pc x s) := by
  unfold fillBodies
  extract_lets
  exact memWf_ite ws ws

theorem memWf_fetchPart {w : Wave} {p : Part} {pc : Word} (ws : MemWf s) : FetchWf (fetchPart s w p pc) := by
  unfold fetchPart
  split
  · exact ws
  · split
    next s1 _ h1 =>
      have w1 : MemWf s1 := (congrArg FetchWf h1).mp (memWf_fetchWord ws)
      exact memWf_fillBodies w1
    · exact memWf_fetchWord ws

theorem memWf_jumpWord {t : Word} (w : MemWf s) : ResWf (jumpWord c t s) :=
  w

theorem memWf_nextWord (w : MemWf s) : ResWf (nextWord c s) :=
  w

theorem memWf_ifBody {a : BitVec 7} {i : BitVec 14} (w : MemWf s) : ResWf (ifBody a i c s) := by
  unfold ifBody
  split
  · exact w
  · extract_lets s1
    have ws1 : MemWf s1 := w
    exact holds_ite (memWf_jumpWord ws1) (memWf_nextWord ws1)

theorem memWf_ifIdle {i : BitVec 14} (w : MemWf s) : ResWf (ifIdle i c s) :=
  memWf_jumpWord w

theorem memWf_ifsBody {a : BitVec 7} {i : BitVec 14} (w : MemWf s) : ResWf (ifsBody a i c s) := by
  unfold ifsBody
  refine holds_ite ?_ (memWf_ifBody w)
  extract_lets
  exact memWf_countSplit (memWf_foldBlocks w)

theorem memWf_elseBody {i : BitVec 14} (w : MemWf s) : ResWf (elseBody i c s) := by
  unfold elseBody
  split
  · exact holds_ite (memWf_jumpWord w) (memWf_nextWord w)
  · extract_lets s1
    have ws1 : MemWf s1 := w
    exact holds_ite (memWf_jumpWord ws1) (memWf_nextWord ws1)

theorem memWf_endifBody (w : MemWf s) : ResWf (endifBody c s) := by
  unfold endifBody
  split
  · exact memWf_fusePoint w
  · exact w

theorem memWf_loopsBody (w : MemWf s) : ResWf (loopsBody c s) := by
  unfold loopsBody
  split
  · exact w
  · exact memWf_nextWord w

theorem memWf_leaveBody {mark : Nat} {a : BitVec 7} {i : BitVec 14} (w : MemWf s) : ResWf (leaveBody mark a i c s) := by
  unfold leaveBody
  extract_lets s1
  have ws1 : MemWf s1 := w
  exact holds_ite (memWf_jumpWord ws1) (memWf_nextWord ws1)

theorem memWf_endlsBody {i : BitVec 14} (w : MemWf s) : ResWf (endlsBody i c s) := by
  unfold endlsBody
  extract_lets s1
  have ws1 : MemWf s1 := w
  exact holds_ite (memWf_nextWord w) (memWf_jumpWord ws1)

theorem memWf_stayAt {pc : Word} {f : Part → Part} {taken : Bool} (w : MemWf s) : ResWf (stayAt c pc f taken s) :=
  w

theorem memWf_loopBody {x : Word} {i : BitVec 14} (w : MemWf s) : ResWf (loopBody x i c s) := by
  unfold loopBody
  extract_lets
  exact holds_ite (memWf_stayAt w) (memWf_stayAt (memWf_ite w w))

theorem memWf_lexitBody {a : BitVec 7} (w : MemWf s) : ResWf (lexitBody a c s) := by
  unfold lexitBody
  split
  · exact w
  · exact holds_ite (memWf_stayAt w) w

/-! ### `Machine/Counters` -/

theorem memWf_waitRes {done : Bool} {k : Cond} (w : MemWf s) : ResWf (waitRes done k s) :=
  holds_ite w w

theorem memWf_waitIdle {a : BitVec 7} {f : Ctx → State → Res} (hf : ∀ x s, MemWf s → ResWf (f x s)) (w : MemWf s) : ResWf (waitIdle a f c s) :=
  holds_ite (memWf_idleReads (hf _ _ w)) (hf _ _ w)

theorem memWf_waittBody {i : BitVec 14} (w : MemWf s) : ResWf (waittBody i c s) :=
  memWf_waitRes w

theorem memWf_wpwaitBody {a : BitVec 7} {ch : BitVec 4} (w : MemWf s) : ResWf (wpwaitBody a ch c s) :=
  memWf_waitRes w

theorem memWf_spadPut {a n x : Nat} (w : MemWf s) : MemWf (spadPut a n x s) := by
  obtain ⟨hh, ho, hp, hs⟩ := w
  exact ⟨hh, ho, hp, Memory.wf_writeN _ _ _ hs⟩

theorem memWf_dbarCheck {a : Nat} (w : MemWf s) : MemWf (dbarCheck a s) := by
  unfold dbarCheck
  extract_lets
  exact memWf_ite (memWf_foldl (fun _ _ w1 => memWf_spadPut w1) (memWf_spadPut w)) w

theorem memWf_dbarOver {a : Nat} (w : MemWf s) : MemWf (dbarOver a s) := by
  unfold dbarOver
  extract_lets
  exact memWf_ite w (memWf_spadPut w)

theorem memWf_dbarCredit {a k m : Nat} (w : MemWf s) : MemWf (dbarCredit a k m s) := by
  unfold dbarCredit
  extract_lets _ _ s1
  have ws1 : MemWf s1 := memWf_spadPut w
  exact memWf_ite (memWf_dbarOver w) (memWf_dbarCheck (memWf_ite (memWf_dbarOver ws1) ws1))

theorem memWf_dwaitBody {a : BitVec 7} {ph : BitVec 1} (w : MemWf s) : ResWf (dwaitBody a ph c s) := by
  unfold dwaitBody
  split <;> exact holds_ite w w

theorem memWf_completeTile {key t : Nat} (w : MemWf s) : MemWf (completeTile key t s) := by
  unfold completeTile
  split
  · exact w
  · split <;> exact w

theorem memWf_completeTiles {key : Nat} (w : MemWf s) : MemWf (completeTiles key s) := by
  unfold completeTiles
  split
  · exact w
  · exact memWf_foldl (fun _ _ w2 => memWf_foldl (fun _ _ w3 => memWf_completeTile w3) w2) w

theorem memWf_vwaitBody {v : BitVec 4} {t : BitVec 3} (w : MemWf s) : ResWf (vwaitBody v t c s) := by
  unfold vwaitBody
  extract_lets
  exact holds_ite w (holds_ite w w)

theorem memWf_sleepwBody {a : BitVec 7} (w : MemWf s) : ResWf (sleepwBody a c s) :=
  memWf_waitRes w

theorem memWf_arrival {b : Nat} {k : State → Res} (w : MemWf s) (hk : ∀ s, MemWf s → ResWf (k s)) : ResWf (arrival b c s k) :=
  holds_ite (memWf_afterTakes (hk _ w)) (holds_ite w (hk _ w))

theorem memWf_barWait {b e : Nat} (w : MemWf s) : ResWf (barWait b e c s) := by
  unfold barWait
  refine memWf_arrival w (fun s1 w1 => ?_)
  extract_lets _ s11 s2
  have ws11 : MemWf s11 := w1
  have ws2 : MemWf s2 := memWf_completeBar ws11
  exact holds_ite ws2 w1

theorem memWf_writeUnit {g : Wg} (w : MemWf s) : MemWf (writeUnit g s) := by
  unfold writeUnit
  extract_lets _ _ _ x
  have wx : MemWf x := holds_getD (memWf_ctlWrite w) w
  exact wx

theorem memWf_recordCarry {key : Nat} (w : MemWf s) : MemWf (recordCarry key s) := by
  unfold recordCarry
  split
  · exact w
  · exact memWf_ite w (memWf_writeUnit w)

theorem memWf_enterBoundary {key : Nat} {keep : List Nat} (w : MemWf s) : MemWf (enterBoundary key keep s) := by
  unfold enterBoundary
  extract_lets s1
  have ws1 : MemWf s1 := memWf_completeTiles w
  exact memWf_ite ws1 (memWf_recordCarry ws1)

theorem memWf_barBoundary {b : Nat} (w : MemWf s) : ResWf (barBoundary b c s) := by
  unfold barBoundary
  refine memWf_arrival w (fun s1 w1 => ?_)
  extract_lets _ _ s3 s4
  have ws3 : MemWf s3 := w1
  have ws4 : MemWf s4 := memWf_ite (memWf_enterBoundary ws3) ws3
  exact memWf_completeBar ws4

theorem memWf_barArrive {b e : Nat} (w : MemWf s) : ResWf (barArrive b e c s) :=
  memWf_arrival w (fun _ w1 => memWf_completeBar w1)

theorem memWf_barWord {a : BitVec 7} {f : Nat → Ctx → State → Res} (hf : ∀ n x s, MemWf s → ResWf (f n x s)) (w : MemWf s) :
    OutWf (barWord z a f s) := by
  unfold barWord
  refine memWf_issueWord (fun x s1 w1 => ?_) (fun x s1 w1 => ?_) w
  · split
    · exact memWf_idleReads (hf _ _ _ w1)
    · exact w1
  · split
    · exact hf _ _ _ w1
    · exact w1

theorem memWf_barwBody {i : BitVec 4} (w : MemWf s) : ResWf (barwBody i c s) :=
  w

theorem memWf_barbBody {a : BitVec 7} {i : BitVec 14} (w : MemWf s) : ResWf (barbBody a i c s) := by
  unfold barbBody
  extract_lets
  exact holds_ite w (holds_ite w (memWf_spadPut (memWf_spadPut w)))

theorem memWf_execPhaseResume {core : Nat} (w : MemWf s) : OutWf (execPhaseResume core s) := by
  unfold execPhaseResume
  split
  · exact w
  · extract_lets s1
    have ws1 : MemWf s1 := w
    split
    · exact ws1
    · split
      · exact ws1
      · extract_lets
        exact w

theorem memWf_dlvBody {ok : State → Nat → Nat → Bool} {f : Nat → Nat → State → State} {d a : BitVec 7} (hf : ∀ n n1 s, MemWf s → MemWf (f n n1 s))
    (w : MemWf s) : ResWf (dlvBody ok f d a c s) := by
  unfold dlvBody
  split
  · exact w
  · extract_lets
    exact holds_ite (hf _ _ _ w) w

theorem memWf_execDqry {d a : BitVec 7} {l : BitVec 4} (w : MemWf s) : OutWf (execDqry z d a l s) := by
  unfold execDqry
  refine memWf_issueWord (fun _ _ w1 => memWf_idleWord w1) (fun x s1 w1 => ?_) w
  split
  · exact w1
  · exact memWf_writeLater w1

theorem memWf_cntWord {bad : Ctx → Bool} {f : Ctx → State → Nat} {d : BitVec 7} (w : MemWf s) : OutWf (cntWord z bad f d s) :=
  memWf_issueWord (fun _ _ w1 => memWf_idleWord w1) (fun _ _ w1 => memWf_writeNat w1) w

/-! ### `Machine/Matrix` -/

theorem memWf_acceptOp {t : Nat} {clears : Bool} {elems : List (Nat × Word)} {f : TileMeta → TileMeta} (w : MemWf s) :
    MemWf (acceptOp c t clears elems f s) := by
  unfold acceptOp
  extract_lets
  exact memWf_countEvent w

theorem memWf_versionStep {acts : Bool} {t : BitVec 3} {v : BitVec 4} {k : Ctx → State → Res} (hk : ∀ x s, MemWf s → ResWf (k x s)) (w : MemWf s) :
    ResWf (versionStep acts t v k c s) := by
  unfold versionStep
  extract_lets
  exact holds_ite (holds_ite trivial (holds_ite w w)) (holds_ite trivial (hk _ _ w))

theorem memWf_matrixIdle {counts : Bool} {t : BitVec 3} {v : BitVec 4} (w : MemWf s) : ResWf (matrixIdle counts t v c s) :=
  holds_ite w (memWf_versionStep (fun _ _ w1 => memWf_ite (memWf_acceptOp w1) w1) w)

theorem memWf_mmaAccept {t : BitVec 3} {v : BitVec 4} {a b : BitVec 7} (w : MemWf s) : ResWf (mmaAccept t v a b c s) := by
  unfold mmaAccept
  extract_lets
  split
  · exact w
  · exact memWf_acceptOp w

theorem memWf_mmatAccept {sparse : Bool} {t : BitVec 3} {v : BitVec 4} {a : BitVec 7} {b : BitVec 6} (w : MemWf s) :
    ResWf (mmatAccept sparse t v a b c s) := by
  unfold mmatAccept
  extract_lets
  split
  · exact w
  · exact memWf_acceptOp w

theorem memWf_aclrAccept {t : BitVec 3} (w : MemWf s) : ResWf (aclrAccept t c s) :=
  memWf_acceptOp w

theorem memWf_amovrAccept {t : BitVec 3} {v : BitVec 4} {a : BitVec 7} {la : Nat} (w : MemWf s) : ResWf (amovrAccept t v a la c s) := by
  unfold amovrAccept
  split
  · exact w
  · extract_lets
    exact w

theorem memWf_amovwAccept {t : BitVec 3} {v : BitVec 4} {a : BitVec 7} (w : MemWf s) : ResWf (amovwAccept t v a c s) := by
  unfold amovwAccept
  split
  · exact w
  · extract_lets
    exact memWf_acceptOp w

theorem memWf_asclAccept {t : BitVec 3} {v : BitVec 4} {a : BitVec 7} {la : Nat} (w : MemWf s) : ResWf (asclAccept t v a la c s) := by
  unfold asclAccept
  split
  · exact w
  · extract_lets
    exact w

/-! ### `Machine/Memory` -/

theorem memWf_issuePend {la : Nat} {vals : List (Nat × Nat × Word)} {sl : List Sleeper} (w : MemWf s) : MemWf (issuePend c la vals sl s) := by
  unfold issuePend
  extract_lets _ s1
  have ws1 : MemWf s1 := w
  exact memWf_ite ws1 w

theorem memWf_poisonRes {ps : List (Nat × Places)} {k : Res} (w : MemWf s) (wk : ResWf k) : ResWf (poisonRes s ps k) :=
  holds_ite w wk

theorem memWf_sampled {ea : Nat → Nat} {maj : Nat} (w : MemWf s) : MemWf (sampled c ea maj s) :=
  memWf_traceSample w

theorem memWf_loadLater {d : BitVec 7} {la : Nat} {conv : Conv} {ps : List (Nat × Places)} (w : MemWf s) : MemWf (loadLater c d la conv ps s) := by
  unfold loadLater
  extract_lets s1
  have ws1 : MemWf s1 := memWf_writeLater w
  exact memWf_ite ws1 ws1

theorem memWf_invLater {d : BitVec 7} {la : Nat} {conv : Conv} {ps : List (Nat × Places)} (w : MemWf s) : MemWf (invLater c d la conv ps s) :=
  memWf_writeLater w

theorem memWf_loadBody {maj : Nat} {issue : Ctx → BitVec 7 → Nat → Conv → List (Nat × Places) → State → State} {d a b : BitVec 7} {la : BitVec 4}
    (hissue : ∀ x x1 n x2 xs s, MemWf s → MemWf (issue x x1 n x2 xs s)) (w : MemWf s) : ResWf (loadBody maj issue d a b la c s) := by
  unfold loadBody
  extract_lets
  exact memWf_memWord (fun _ _ w1 => memWf_poisonRes w1 (hissue _ _ _ _ _ _ (memWf_sampled w1))) w

theorem memWf_storeLanes {core : Nat} {f : Nat → List Byte} {ps : List (Nat × Places)} (w : MemWf s) : MemWf (storeLanes core f ps s) :=
  memWf_foldl (fun _ _ w1 => memWf_storePlaces w1) w

theorem memWf_stBody {d a b : BitVec 7} (w : MemWf s) : ResWf (stBody d a b c s) := by
  unfold stBody
  extract_lets
  exact memWf_memWord (fun _ _ w1 => memWf_storeLanes (memWf_sampled w1)) w

theorem memWf_ldxBody {inv : Bool} {d a : BitVec 7} {n : Nat} {la : BitVec 4} (w : MemWf s) : ResWf (ldxBody inv d a n la c s) := by
  unfold ldxBody
  refine memWf_memWord (fun s1 xs w1 => memWf_poisonRes w1 ?_) w
  split
  · exact memWf_invLater (memWf_sampled w1)
  · exact memWf_loadLater (memWf_sampled w1)

theorem memWf_stxBody {d a : BitVec 7} {n : Nat} (w : MemWf s) : ResWf (stxBody d a n c s) :=
  memWf_memWord (fun _ _ w1 => memWf_storeLanes (memWf_sampled w1)) w

theorem memWf_atomStep {core scope : Nat} {ps : Places} {f : List Byte → Option (List Byte)} (w : MemWf s) : FstWf (atomStep core scope ps f s) := by
  unfold atomStep
  extract_lets _ s1
  have ws1 : MemWf s1 := memWf_foldl (fun _ _ w1 => memWf_syncPiece w1) w
  split
  · exact memWf_foldl (fun _ _ w1 => memWf_writePieceAt w1) ws1
  · exact ws1

theorem memWf_atomLanes {op : Nat} {d : BitVec 7} {scope : Nat → Nat} {xs : List (Nat × Places)} (w : MemWf s) :
    FstWf (atomLanes c op d scope s xs) := by
  induction xs generalizing s with
  | nil =>
    unfold atomLanes
    exact w
  | cons x xs ih =>
    unfold atomLanes
    extract_lets _ r t
    have wr : FstWf r := memWf_atomStep w
    have wt : FstWf t := ih wr
    exact wt

theorem memWf_atomBody {op : Nat} {d a : BitVec 7} {sc : BitVec 3} {la : BitVec 4} (w : MemWf s) : ResWf (atomBody op d a sc la c s) := by
  unfold atomBody
  extract_lets
  refine memWf_memWord (fun s1 xs w1 => memWf_poisonRes w1 ?_) w
  extract_lets r
  have wr : FstWf r := memWf_atomLanes (memWf_countEvent w1)
  exact memWf_writeLater (memWf_sampled wr)

theorem memWf_execAtom {op : Nat} {d a : BitVec 7} {sc : BitVec 3} {la : BitVec 4} (w : MemWf s) : OutWf (execAtom op z d a sc la s) :=
  memWf_issueWord (fun _ _ w1 => memWf_idleWord w1) (fun _ _ w1 => memWf_atomBody w1) w

theorem memWf_fillCell {core scope v : Nat} {ps : Places} (w : MemWf s) : FstWf (fillCell core scope v ps s) := by
  unfold fillCell
  extract_lets
  exact holds_ite w (memWf_atomStep (memWf_physRelease _ _ _ w))

theorem memWf_takeCell {core scope : Nat} {ps : Places} (w : MemWf s) : FstWf (takeCell core scope ps s) := by
  unfold takeCell
  extract_lets r
  have wr : FstWf r := memWf_atomStep w
  exact holds_ite wr wr

theorem memWf_futWord {a : BitVec 7} {sc : BitVec 3} {x : Acc} {k : State → List (Nat × Places) → Res} (hk : ∀ s xs, MemWf s → ResWf (k s xs))
    (w : MemWf s) : ResWf (futWord c a sc x k s) :=
  memWf_memWord (fun _ _ w1 => memWf_poisonRes w1 (hk _ _ (memWf_sampled w1))) w

theorem memWf_fputLanes {d : BitVec 7} {scope : Nat → Nat} {xs : List (Nat × Places)} (w : MemWf s) : FstWf (fputLanes c d scope s xs) := by
  induction xs generalizing s with
  | nil =>
    unfold fputLanes
    exact w
  | cons x xs ih =>
    unfold fputLanes
    extract_lets r t
    have wr : FstWf r := memWf_fillCell w
    have wt : FstWf t := ih wr
    exact wt

theorem memWf_fputBody {d a : BitVec 7} {sc : BitVec 3} {la : BitVec 4} (w : MemWf s) : ResWf (fputBody d a sc la c s) := by
  unfold fputBody
  refine memWf_futWord (fun s1 xs w1 => ?_) w
  extract_lets r
  have wr : FstWf r := memWf_fputLanes w1
  exact memWf_issuePend wr

theorem memWf_fputTLanes {d : BitVec 7} {scope : Nat → Nat} {xs : List (Nat × Places)} (w : MemWf s) : FstWf (fputTLanes c d scope s xs) := by
  induction xs generalizing s with
  | nil =>
    unfold fputTLanes
    exact w
  | cons x xs ih =>
    unfold fputTLanes
    extract_lets r
    have wr : FstWf r := memWf_fillCell w
    exact holds_ite (ih wr) wr

theorem memWf_fputTBody {d a : BitVec 7} {sc : BitVec 3} (w : MemWf s) : ResWf (fputTBody d a sc c s) := by
  unfold fputTBody
  refine memWf_futWord (fun s1 xs w1 => ?_) w
  split
  next s2 h =>
    have w2 : MemWf s2 := memWf_of_eq h (memWf_fputTLanes w1)
    exact w2
  next s2 _ h =>
    have w2 : MemWf s2 := memWf_of_eq h (memWf_fputTLanes w1)
    exact w2

theorem memWf_ftakeLanes {d a : BitVec 7} {scope : Nat → Nat} {xs : List (Nat × Places)} (w : MemWf s) : FstWf (ftakeLanes c d a scope s xs) := by
  induction xs generalizing s with
  | nil =>
    unfold ftakeLanes
    exact w
  | cons x xs ih =>
    unfold ftakeLanes
    extract_lets r t
    have wr : FstWf r := memWf_takeCell w
    have wt : FstWf t := ih wr
    exact wt

theorem memWf_ftakeBody {d a : BitVec 7} {sc : BitVec 3} {la : BitVec 4} (w : MemWf s) : ResWf (ftakeBody d a sc la c s) := by
  unfold ftakeBody
  refine memWf_futWord (fun s1 xs w1 => ?_) w
  split
  next s2 _ h =>
    have w2 : MemWf s2 := memWf_of_eq h (memWf_ftakeLanes w1)
    exact memWf_issuePend w2
  next s2 _ _ _ h1 =>
    have w2 : MemWf s2 := memWf_of_eq h1 (memWf_ftakeLanes w1)
    exact memWf_fallThrough (memWf_issuePend w2)

theorem memWf_ftakeNLanes {d : BitVec 7} {scope : Nat → Nat} {xs : List (Nat × Places)} (w : MemWf s) : FstWf (ftakeNLanes c d scope s xs) := by
  induction xs generalizing s with
  | nil =>
    unfold ftakeNLanes
    exact w
  | cons x xs ih =>
    unfold ftakeNLanes
    extract_lets r t
    have wr : FstWf r := memWf_takeCell w
    have wt : FstWf t := ih wr
    exact wt

theorem memWf_ftakeNBody {d a : BitVec 7} {sc : BitVec 3} {la : BitVec 4} (w : MemWf s) : ResWf (ftakeNBody d a sc la c s) := by
  unfold ftakeNBody
  refine memWf_futWord (fun s1 xs w1 => ?_) w
  extract_lets r
  have wr : FstWf r := memWf_ftakeNLanes w1
  exact memWf_issuePend wr

theorem memWf_fpeekBody {d a : BitVec 7} {sc : BitVec 3} {la : BitVec 4} (w : MemWf s) : ResWf (fpeekBody d a sc la c s) := by
  unfold fpeekBody
  refine memWf_futWord (fun s1 xs w1 => ?_) w
  extract_lets
  exact memWf_issuePend w1

theorem memWf_fclrBody {a : BitVec 7} {sc : BitVec 3} (w : MemWf s) : ResWf (fclrBody a sc c s) :=
  memWf_futWord (fun _ _ w1 => memWf_foldl (fun _ _ w2 => memWf_atomStep w2) w1) w

theorem memWf_takeTicket {core : Nat} {ps : Places} (w : MemWf s) : FstWf (takeTicket core ps s) := by
  unfold takeTicket
  extract_lets _ r
  have wr : FstWf r := memWf_atomStep w
  exact wr

theorem memWf_takeFor {core : Nat} {x : Sleeper} (w : MemWf s) : FstWf (takeFor core x s) :=
  holds_ite (memWf_takeTicket w) (memWf_takeCell w)

theorem memWf_wakeSleepers {core quad : Nat} {xs : List Sleeper} (w : MemWf s) : FstWf (wakeSleepers core quad s xs) := by
  induction xs generalizing s with
  | nil =>
    unfold wakeSleepers
    exact w
  | cons x xs ih =>
    unfold wakeSleepers
    refine holds_ite w (holds_ite ?_ ?_)
    · extract_lets t
      have wt : FstWf t := ih w
      exact wt
    · split
      next s1 _ h =>
        have w1 : MemWf s1 := memWf_of_eq h (memWf_takeFor w)
        extract_lets t
        have wt : FstWf t := ih w1
        exact wt
      next s1 h =>
        have w1 : MemWf s1 := memWf_of_eq h (memWf_takeFor w)
        extract_lets t
        have wt : FstWf t := holds_ite w1 (ih w1)
        exact wt

theorem memWf_wakePend {key q id quad : Nat} (w : MemWf s) : MemWf (wakePend key q id quad s) := by
  unfold wakePend
  split
  · exact w
  · refine memWf_ite w ?_
    extract_lets r
    have wr : FstWf r := memWf_wakeSleepers w
    exact wr

theorem memWf_landLoad {key id quad : Nat} (w : MemWf s) : MemWf (landLoad key id quad s) := by
  unfold landLoad
  split
  · exact w
  · extract_lets _ s1
    have ws1 : MemWf s1 := memWf_foldl (fun _ _ w2 => memWf_ite (memWf_wakePend w2) w2) w
    exact memWf_ite ws1 ws1

theorem memWf_sampleRead {key q id lane : Nat} (w : MemWf s) : MemWf (sampleRead key q id lane s) := by
  unfold sampleRead
  split
  · exact w
  · split
    · exact w
    · extract_lets
      exact w

/-! ### `Machine/Caches` -/

theorem memWf_fenceSides {acq rel : Bool} {core scope : Nat} (w : MemWf s) : MemWf (fenceSides acq rel core scope s) := by
  unfold fenceSides
  extract_lets s1
  have ws1 : MemWf s1 := memWf_ite (memWf_physRelease _ _ _ w) w
  exact memWf_ite ws1 ws1

theorem memWf_fenceBody {acq rel : Bool} {e : BitVec 1} {sc : BitVec 3} (w : MemWf s) : ResWf (fenceBody acq rel e sc c s) :=
  holds_ite w (holds_ite trivial (memWf_afterTakes (memWf_fenceSides w)))

theorem memWf_execFence {acq rel : Bool} {e : BitVec 1} {sc : BitVec 3} (w : MemWf s) : OutWf (execFence acq rel z e sc s) :=
  memWf_issueWord (fun _ _ w1 => memWf_fenceBody w1) (fun _ _ w1 => memWf_fenceBody w1) w

theorem memWf_lockL1 {core ctx : Nat} {m : Mem} {a : Nat} {repl : Bool} (w : MemWf s) : FstWf (lockL1 core ctx m a repl s) := by
  unfold lockL1
  extract_lets
  exact holds_ite w (holds_ite w (holds_ite w w))

theorem memWf_lockL2 {die ctx quota : Nat} {m : Mem} {a : Nat} {repl : Bool} (w : MemWf s) : FstWf (lockL2 die ctx quota m a repl s) := by
  unfold lockL2
  extract_lets
  exact holds_ite w (holds_ite w (holds_ite w w))

theorem memWf_prefBody {a : BitVec 7} (w : MemWf s) : ResWf (prefBody a c s) := by
  unfold prefBody
  refine memWf_sampled (memWf_foldl (fun s1 x1 w1 => ?_) w)
  split
  · exact memWf_xlate w1
  · exact w1

theorem memWf_lineLanes {f : Mem → Nat → Bool → State → State} {ps : List (Nat × Places)} (hf : ∀ x n x1 s, MemWf s → MemWf (f x n x1 s))
    (w : MemWf s) : MemWf (lineLanes f ps s) := by
  unfold lineLanes
  refine memWf_foldl (fun s1 x1 w1 => ?_) w
  split
  · exact memWf_ite w1 (hf _ _ _ _ w1)
  · exact w1

theorem memWf_clockLanes {f : Mem → Nat → Bool → State → State × Nat} {xs : List (Nat × Places)} (hf : ∀ x n x1 s, MemWf s → FstWf (f x n x1 s))
    (w : MemWf s) : FstWf (clockLanes f s xs) := by
  induction xs generalizing s with
  | nil =>
    unfold clockLanes
    exact w
  | cons x xs ih =>
    unfold clockLanes
    extract_lets r t
    have wr : FstWf r := by
      unfold r
      split
      · refine holds_ite w ?_
        extract_lets y
        have wy : FstWf y := hf _ _ _ _ w
        exact wy
      · exact w
    have wt : FstWf t := ih wr
    exact wt

theorem memWf_clockBody {f : Ctx → Mem → Nat → Bool → State → State × Nat} {d a : BitVec 7} {la : BitVec 4}
    (hf : ∀ x x1 n x2 s, MemWf s → FstWf (f x x1 n x2 s)) (w : MemWf s) : ResWf (clockBody f d a la c s) := by
  unfold clockBody
  refine memWf_memWord (fun s1 xs w1 => ?_) w
  extract_lets r
  have wr : FstWf r := memWf_clockLanes (fun _ _ _ _ w2 => hf _ _ _ _ _ w2) (memWf_sampled w1)
  exact memWf_writeLater wr

theorem memWf_lineBody {x : Acc} {f : Ctx → Mem → Nat → Bool → State → State} {a : BitVec 7} (hf : ∀ x x1 n x2 s, MemWf s → MemWf (f x x1 n x2 s))
    (w : MemWf s) : ResWf (lineBody x f a c s) :=
  memWf_memWord (fun _ _ w1 => memWf_lineLanes (fun _ _ _ _ w2 => hf _ _ _ _ _ w2) (memWf_sampled w1)) w

theorem memWf_writeBack {m : Mem} {a : Nat} (w : MemWf s) : MemWf (writeBack m a s) :=
  memWf_performStores _ _ _ w

theorem memWf_execCwbinv {a : BitVec 7} {x : BitVec 4} (w : MemWf s) : OutWf (execCwbinv z a x s) := by
  unfold execCwbinv
  exact memWf_issueWord (fun _ _ w1 => memWf_idleWord w1) (fun _ _ w1 => memWf_lineBody (fun _ _ _ _ _ w2 => memWf_writeBack w2) w1) w

theorem memWf_isyncBody (w : MemWf s) : ResWf (isyncBody c s) :=
  w

theorem memWf_togenBody {k : Nat} {d a : BitVec 7} (w : MemWf s) : ResWf (togenBody k d a c s) := by
  unfold togenBody
  extract_lets
  exact memWf_writeNat w

theorem memWf_fromgenBody {k : Nat} {d a : BitVec 7} (w : MemWf s) : ResWf (fromgenBody k d a c s) := by
  unfold fromgenBody
  extract_lets
  exact memWf_writeNat w

theorem memWf_execTogen {k : Nat} {d a : BitVec 7} (w : MemWf s) : OutWf (execTogen k z d a s) :=
  memWf_issueWord (fun _ _ w1 => memWf_idleWord w1) (fun _ _ w1 => memWf_togenBody w1) w

theorem memWf_execFromgen {k : Nat} {d a : BitVec 7} (w : MemWf s) : OutWf (execFromgen k z d a s) :=
  memWf_issueWord (fun _ _ w1 => memWf_idleWord w1) (fun _ _ w1 => memWf_fromgenBody w1) w

theorem memWf_astpSend {ps : List (Nat × Mem × Nat × Nat × List Byte)} {xs : List Nat} (w : MemWf s) : FstWf (astpSend c ps s xs) := by
  induction xs generalizing s with
  | nil =>
    unfold astpSend
    exact w
  | cons x xs ih =>
    unfold astpSend
    extract_lets _ t
    have wt : FstWf t := ih w
    exact wt

theorem memWf_astpBody {d a : BitVec 7} {n : Nat} (w : MemWf s) : ResWf (astpBody d a n c s) := by
  unfold astpBody
  refine memWf_releaseWord (fun s1 xs w1 => ?_) w
  extract_lets _ r
  have wr : FstWf r := memWf_astpSend (memWf_physRelease _ _ _ (memWf_sampled w1))
  exact wr

theorem memWf_astpWrite {x : Astp} (w : MemWf s) : MemWf (astpWrite x s) :=
  memWf_foldl (fun _ _ w1 => memWf_ite w1 (memWf_physWrite _ _ _ _ _ w1)) w

theorem memWf_astpAnswer {dev : Nat} {ok : Bool} (w : MemWf s) : MemWf (astpAnswer dev ok s) := by
  unfold astpAnswer
  split
  · exact w
  · extract_lets s1 _ _ s3
    have ws1 : MemWf s1 := w
    have ws3 : MemWf s3 := w
    exact memWf_ite (memWf_astpWrite ws1) (memWf_ite (memWf_astpWrite ws3) ws3)

/-! ### `Machine/Rings` -/

theorem memWf_readFor {y : Party} {g n : Nat} (w : MemWf s) : Yields FstWf (readFor y g n s) :=
  yields_map (memWf_mappedPlaces w) (fun _ w1 => w1)

theorem memWf_writeFor {y : Party} {g : Nat} {bs : List Byte} (w : MemWf s) : Yields MemWf (writeFor y g bs s) :=
  yields_map (memWf_mappedPlaces w) (fun _ w1 => memWf_foldl (fun _ _ w2 => memWf_writePieceAt w2) w1)

theorem memWf_cqEvent {g : Grid} {r : CqRec} (w : MemWf s) : MemWf (cqEvent g r s) :=
  memWf_postEvent _ _ _ w

theorem memWf_cqWrite {y : Party} {hdr : Nat} {r : CqRec} (w : MemWf s) : CqWf (cqWrite y hdr r s) := by
  unfold cqWrite
  split
  · trivial
  next s1 _ h =>
    have w1 : MemWf s1 := memWf_readFor w _ h
    extract_lets
    refine holds_ite trivial ?_
    split
    · trivial
    next s2 h2 =>
      have w2 : MemWf s2 := (yields_bind (memWf_writeFor w1) (fun _ w2 => memWf_writeFor w2)) _ h2
      exact w2

theorem memWf_postCq {gid n : Nat} {r : CqRec} (w : MemWf s) : Yields MemWf (postCq gid n r s) := by
  unfold postCq
  extract_lets
  split
  · exact yields_some (memWf_cqEvent w)
  · split
    next s1 h1 =>
      have w1 : MemWf s1 := (congrArg CqWf h1).mp (memWf_cqWrite w)
      exact yields_some w1
    · exact yields_none
    · exact yields_some (memWf_cqEvent w)

/-! ### `Machine/Copy` -/

theorem memWf_admitCopy {id : Nat} (w : MemWf s) : MemWf (admitCopy s id) := by
  unfold admitCopy
  split
  · exact w
  · exact memWf_ite w w

theorem memWf_admitCopies (w : MemWf s) : MemWf (admitCopies s) :=
  memWf_ite (memWf_foldl (fun _ _ w1 => memWf_admitCopy w1) w) w

theorem memWf_enqueue {x : Copy} (w : MemWf s) : MemWf (enqueue c x s) := by
  unfold enqueue
  extract_lets s1
  have ws1 : MemWf s1 := memWf_physRelease _ _ _ w
  exact ws1

theorem memWf_acopyBody {fn : Nat} {d a : BitVec 7} {q : BitVec 3} {u : BitVec 1} (w : MemWf s) : ResWf (acopyBody fn d a q u c s) := by
  unfold acopyBody
  extract_lets
  split
  · exact w
  · split
    · exact w
    · exact holds_ite w (holds_ite w (holds_ite trivial (memWf_afterTakes (memWf_enqueue w))))

theorem memWf_execAcopy {fn : Nat} {d a : BitVec 7} {q : BitVec 3} {u : BitVec 1} (w : MemWf s) : OutWf (execAcopy fn z d a q u s) :=
  memWf_issueWord (fun _ _ w1 => memWf_idleWord w1) (fun _ _ w1 => memWf_acopyBody w1) w

theorem memWf_agathBody {d a : BitVec 7} {sw : BitVec 4} {n : Nat} (w : MemWf s) : ResWf (agathBody d a sw n c s) := by
  unfold agathBody
  extract_lets _ _ _ _ _ _ _ _ s1
  have ws1 : MemWf s1 := memWf_ite w w
  refine holds_ite w (holds_ite w ?_)
  split
  · exact w
  · exact holds_ite trivial (holds_ite ws1 (holds_ite ws1 (holds_ite trivial (memWf_afterTakes (memWf_enqueue ws1)))))

theorem memWf_execAgath {d a : BitVec 7} {w : BitVec 4} {n : BitVec 3} {x : BitVec 4} (ws : MemWf s) : OutWf (execAgath z d a w n x s) :=
  memWf_issueWord (fun _ _ w1 => memWf_idleWord w1) (fun _ _ w1 => memWf_agathBody w1) ws

theorem memWf_copyRange {x : Copy} {a : Acc} {ea n : Nat} {k : State → Places → CopyRes} (w : MemWf s) (hk : ∀ s xs, MemWf s → CopyWf (k s xs)) :
    CopyWf (copyRange x a ea n s k) := by
  unfold copyRange
  split
  · exact w
  · split
    next s1 _ h1 =>
      have w1 : MemWf s1 := memWf_of_eq h1 (memWf_resolveLane w)
      split
      · exact w1
      · trivial
      · exact w1
      · exact hk _ _ w1

theorem memWf_copyRead {x : Copy} {ea n : Nat} {k : State → List Byte → CopyRes} (w : MemWf s) (hk : ∀ s xs, MemWf s → CopyWf (k s xs)) :
    CopyWf (copyRead x ea n s k) :=
  memWf_copyRange w (fun _ _ w1 => holds_ite w1 (hk _ _ w1))

theorem memWf_copyWrite {x : Copy} {ea : Nat} {bs : List Byte} {k : State → CopyRes} (w : MemWf s) (hk : ∀ s, MemWf s → CopyWf (k s)) :
    CopyWf (copyWrite x ea bs s k) :=
  memWf_copyRange w (fun _ _ w1 => hk _ (memWf_foldl (fun _ _ w2 => memWf_writePieceAt w2) w1))

theorem memWf_accumCells {x : Copy} {n : Nat} {xs : List (List Byte)} {x1 : State → Copy → CopyRes} {x2 : Copy} (w : MemWf s)
    (hx1 : ∀ s x, MemWf s → CopyWf (x1 s x)) : CopyWf (accumCells x n xs s x1 x2) := by
  induction xs generalizing n s x1 x2 with
  | nil =>
    unfold accumCells
    exact hx1 _ _ w
  | cons x xs ih =>
    unfold accumCells
    refine memWf_copyRange w (fun s1 xs1 w1 => holds_ite w1 ?_)
    extract_lets r
    have wr : FstWf r := memWf_atomStep w1
    exact ih wr (fun _ _ w2 => hx1 _ _ w2)

theorem memWf_readCells {x : Copy} {n n1 : Nat} {x1 : State → Copy → List Byte → CopyRes} {x2 : Copy} {xs : List Byte} (w : MemWf s)
    (hx1 : ∀ s x xs, MemWf s → CopyWf (x1 s x xs)) : CopyWf (readCells x n n1 s x1 x2 xs) := by
  induction n1 generalizing n s x1 x2 xs with
  | zero =>
    unfold readCells
    exact hx1 _ _ _ w
  | succ n1 ih =>
    unfold readCells
    refine memWf_copyRange w (fun s1 xs1 w1 => holds_ite w1 ?_)
    extract_lets r
    have wr : FstWf r := memWf_atomStep w1
    exact ih wr (fun _ _ _ w2 => hx1 _ _ _ w2)

theorem memWf_deliverBytes {x : Copy} {off n : Nat} (w : MemWf s) : CopyWf (deliverBytes x off n s) := by
  unfold deliverBytes
  split
  · exact memWf_copyRead w (fun _ _ w1 => memWf_copyWrite w1 (fun _ w2 => w2))
  · extract_lets
    exact memWf_copyRead w (fun _ _ w1 => memWf_copyWrite w1 (fun _ w2 => w2))
  · exact holds_ite (memWf_copyRead w (fun _ _ w1 => memWf_copyRange w1 (fun _ _ w2 => memWf_accumCells w2 (fun _ _ w3 => w3))))
      (memWf_copyRange w (fun _ _ w1 => memWf_copyRange w1 (fun _ _ w2 => memWf_readCells w2 (fun _ _ _ w3 => memWf_copyWrite w3 (fun _ w4 => w4)))))
  · exact memWf_copyWrite w (fun _ w1 => w1)

theorem memWf_deliverRow {x : Copy} {g : Gather} {j : Nat} (w : MemWf s) : CopyWf (deliverRow x g j s) := by
  unfold deliverRow
  extract_lets
  exact holds_ite (memWf_copyRead w (fun _ _ w1 => memWf_copyWrite w1 (fun _ w2 => w2))) (memWf_copyWrite w (fun _ w1 => w1))

theorem memWf_deliverNext {x : Copy} (w : MemWf s) : CopyWf (deliverNext x s) := by
  unfold deliverNext
  split
  · exact memWf_deliverRow w
  · exact memWf_deliverBytes w

theorem memWf_creditBarrier {x : Copy} {n : Nat} (w : MemWf s) : Yields MemWf (creditBarrier x n s) := by
  unfold creditBarrier
  refine holds_ite (yields_some w) ?_
  split
  · exact yields_some (memWf_dbarCredit w)
  · exact yields_none

theorem memWf_afterSector {id : Nat} {x : Copy} {n : Nat} (w : MemWf s) : MemWf (afterSector id x n s) := by
  unfold afterSector
  extract_lets _ s1 s2
  have ws1 : MemWf s1 := w
  have ws2 : MemWf s2 := memWf_countEvent ws1
  split
  next s3 h =>
    have w1 : MemWf s3 := memWf_creditBarrier ws2 _ h
    exact w1
  · exact ws2

theorem memWf_stopCopy {id : Nat} {x : Copy} {ls : List (Nat × Stalled)} (w : MemWf s) : MemWf (stopCopy id x ls s) := by
  unfold stopCopy
  extract_lets r s1
  have wr : FstWf r := by
    unfold r
    refine fstWf_foldl (fun r1 x1 w1 => ?_) w
    extract_lets t
    have wt : FstWf t := memWf_addFault w1
    exact wt
  have ws1 : MemWf s1 := memWf_writeRecords wr
  exact ws1

theorem memWf_copyStep {id : Nat} (w : MemWf s) : OutWf (copyStep id s) := by
  unfold copyStep
  split
  · exact w
  · refine holds_ite ?_ w
    split
    next s1 _ _ h1 =>
      have w1 : MemWf s1 := (congrArg CopyWf h1).mp (memWf_deliverNext w)
      exact memWf_afterSector w1
    next s1 _ h1 =>
      have w1 : MemWf s1 := (congrArg CopyWf h1).mp (memWf_deliverNext w)
      exact w1
    next s1 _ h1 =>
      have w1 : MemWf s1 := (congrArg CopyWf h1).mp (memWf_deliverNext w)
      exact memWf_stopCopy w1
    · trivial

theorem memWf_completeCopy {id : Nat} (w : MemWf s) : MemWf (completeCopy id s) := by
  unfold completeCopy
  split
  · exact w
  · split
    · exact w
    · extract_lets posted
      have wposted : Yields MemWf posted := by
        unfold posted
        split
        · exact memWf_postCq w
        · exact yields_some (memWf_ite w (memWf_cqEvent w))
      clear_value posted
      split
      · exact w
      next h2 =>
        have w1 : MemWf h2 := wposted _ rfl
        exact memWf_freeWg w1

theorem memWf_releaseEntry {id k origin : Nat} (w : MemWf s) : MemWf (releaseEntry id k origin s) := by
  unfold releaseEntry
  split
  · exact w
  · extract_lets _ _ _ s1 r s2
    have ws1 : MemWf s1 := memWf_physRelease _ _ _ w
    have wr : FstWf r := by
      unfold r
      split
      next s3 _ h1 =>
        have w1 : MemWf s3 := memWf_readFor ws1 _ h1
        exact w1
      · exact ws1
    have ws2 : MemWf s2 := memWf_physRelease _ _ _ wr
    exact memWf_admitCopies ws2

theorem memWf_releaseEntries {id origin n n1 : Nat} (w : MemWf s) : FstWf (releaseEntries id origin n n1 s) := by
  induction n generalizing n1 s with
  | zero =>
    unfold releaseEntries
    exact w
  | succ n ih =>
    unfold releaseEntries
    extract_lets r
    have wr : FstWf r := ih (memWf_releaseEntry w)
    exact wr

theorem memWf_setStage {id stage origin : Nat} (w : MemWf s) : FstWf (setStage id stage origin s) := by
  unfold setStage
  split
  · exact w
  · extract_lets
    exact memWf_releaseEntries w

theorem memWf_cstgBody {a : BitVec 7} (w : MemWf s) : ResWf (cstgBody a c s) := by
  unfold cstgBody
  extract_lets _ r
  have wr : FstWf r := memWf_setStage w
  exact memWf_afterTakes wr

/-! ### `Machine/Loader` -/

theorem memWf_extendMeas {i digest : Nat} (w : MemWf s) : MemWf (extendMeas i digest s) := by
  exact memWf_setDev _ w

theorem memWf_writeCode {p ctx win : Nat} {bs : List Byte} (w : MemWf s) : MemWf (writeCode p ctx win bs s) := by
  unfold writeCode
  extract_lets
  split
  next s1 _ h =>
    have w1 : MemWf s1 := memWf_rangePlaces w _ h
    exact memWf_foldl (fun _ _ w2 => memWf_writePieceAt w2) w1
  · exact w

theorem memWf_putObj {p ctx codeobj gen codewin : Nat} {replaced : Option Nat} {x : Parsed} {o : CodeObj} (w : MemWf s) :
    FstWf (putObj p ctx codeobj gen codewin replaced x o s) := by
  unfold putObj
  extract_lets s1 _ s2
  have ws1 : MemWf s1 := by
    unfold s1
    split <;> exact w
  have ws2 : MemWf s2 := ws1
  exact memWf_foldl (fun _ _ w1 => memWf_writeCode w1) ws2

theorem memWf_loadObj {p ctx codeobj gen codewin evq : Nat} {replaced : Option Nat} (w : MemWf s) :
    LoadWf (loadObj p ctx codeobj gen codewin evq replaced s) := by
  unfold loadObj
  split
  · exact w
  next s1 _ h =>
    have w1 : MemWf s1 := memWf_ctlRead w _ h
    refine holds_ite w1 (holds_ite w1 ?_)
    split
    · exact w1
    next s2 _ h1 =>
      have w2 : MemWf s2 := memWf_ctlRead w1 _ h1
      extract_lets _ _ full s3
      have ws3 : MemWf s3 := by
        unfold s3
        clear_value full
        split <;> exact w2
      split
      · exact w2
      · split
        · exact w2
        · refine holds_ite w2 ?_
          extract_lets r s4
          have wr : FstWf r := memWf_putObj ws3
          have ws4 : MemWf s4 := memWf_extendMeas wr
          exact memWf_ite ws4 (memWf_postEvent _ _ _ ws4)

theorem memWf_ensureObj {p ctx codeobj gen codewin evq : Nat} (w : MemWf s) : LoadWf (ensureObj p ctx codeobj gen codewin evq s) := by
  unfold ensureObj
  split
  · exact holds_ite w (memWf_loadObj w)
  · exact memWf_loadObj w

/-! ### `Machine/Launch` -/

theorem memWf_readName {p ctx n n1 : Nat} (w : MemWf s) : FstWf (readName p ctx n n1 s) := by
  induction n generalizing n1 s with
  | zero =>
    unfold readName
    exact w
  | succ n ih =>
    unfold readName
    split
    next s1 _ h =>
      have w1 : MemWf s1 := memWf_ctlRead w _ h
      exact holds_ite w1 (ih w1)
    · exact w

theorem memWf_findEntry {p : Nat} {l : Launch} {id : Nat} (w : MemWf s) : FstWf (findEntry p l id s) := by
  unfold findEntry
  extract_lets
  refine holds_ite ?_ w
  split
  next s1 _ h =>
    have w1 : MemWf s1 := memWf_of_eq h (memWf_readName w)
    exact w1
  next s1 h =>
    have w1 : MemWf s1 := memWf_of_eq h (memWf_readName w)
    exact w1

theorem memWf_globalRead {p ctx a n : Nat} (w : MemWf s) : Yields FstWf (globalRead p ctx a n s) :=
  holds_ite (memWf_ctlRead w) yields_none

theorem memWf_readBindings {p ctx tab mask : Nat} {ok : State → Nat → List Byte → Bool} {xs : List Nat} (w : MemWf s) :
    Yields FstWf (readBindings p ctx tab mask ok xs s) := by
  induction xs generalizing s with
  | nil =>
    unfold readBindings
    exact yields_some w
  | cons x xs ih =>
    unfold readBindings
    refine holds_ite ?_ (ih w)
    split
    · exact yields_none
    next s1 _ h =>
      have w1 : MemWf s1 := memWf_ctlRead w _ h
      extract_lets
      refine holds_ite yields_none ?_
      split
      · exact yields_none
      next s2 _ h1 =>
        have w2 : MemWf s2 := memWf_globalRead w1 _ h1
        exact holds_ite (yields_map (ih w2) (fun _ w3 => w3)) yields_none

theorem memWf_bindQueues {p : Nat} {l : Launch} (w : MemWf s) : Yields FstWf (bindQueues p l s) := by
  unfold bindQueues
  split
  · exact yields_none
  next s1 _ h =>
    have w1 : MemWf s1 := memWf_readBindings w _ h
    split
    · exact yields_none
    next s2 _ h1 =>
      have w2 : MemWf s2 := memWf_readBindings w1 _ h1
      exact holds_ite (yields_some w2) yields_none

theorem memWf_readBl {y : Party} {a n : Nat} (w : MemWf s) : Yields FstWf (readBl y a n s) := by
  unfold readBl
  refine holds_ite (yields_some w) (yields_map (memWf_readFor w) (fun x1 w1 => ?_))
  extract_lets
  exact w1

theorem memWf_syncPage {y : Party} {a n : Nat} (w : MemWf s) : MemWf (syncPage y s a n) := by
  unfold syncPage
  split
  next s1 _ _ _ _ h =>
    have w1 : MemWf s1 := memWf_of_eq h (memWf_xlate w)
    exact memWf_performStores _ _ _ w1
  next s1 _ _ h1 =>
    have w1 : MemWf s1 := memWf_of_eq h1 (memWf_xlate w)
    exact w1

theorem memWf_flushRange {y : Party} {a n : Nat} (w : MemWf s) : MemWf (flushRange y a n s) :=
  memWf_ite w (memWf_foldl (fun _ _ w1 => memWf_syncPage w1) w)

theorem memWf_dropPage {y : Party} {a n : Nat} (w : MemWf s) : MemWf (dropPage y s a n) := by
  unfold dropPage
  split
  next s1 _ _ _ _ h =>
    have w1 : MemWf s1 := memWf_of_eq h (memWf_xlate w)
    extract_lets
    exact w1
  next s1 _ _ h1 =>
    have w1 : MemWf s1 := memWf_of_eq h1 (memWf_xlate w)
    exact w1

theorem memWf_dropRange {y : Party} {a n : Nat} (w : MemWf s) : MemWf (dropRange y a n s) :=
  memWf_ite w (memWf_foldl (fun _ _ w1 => memWf_dropPage w1) w)

theorem memWf_blBefore {y : Party} {bl : List (Nat × Nat × Nat)} (w : MemWf s) : MemWf (blBefore y bl s) :=
  memWf_foldl (fun _ _ w1 => memWf_ite (memWf_dropRange (memWf_flushRange w1)) w1) w

theorem memWf_blAfter {y : Party} {bl : List (Nat × Nat × Nat)} (w : MemWf s) : MemWf (blAfter y bl s) :=
  memWf_foldl (fun _ _ w1 => memWf_ite (memWf_flushRange w1) w1) w

theorem memWf_readSession {p : Nat} {l : Launch} (w : MemWf s) : Yields FstWf (readSession p l s) := by
  unfold readSession
  split
  · exact yields_none
  next s1 _ h =>
    have w1 : MemWf s1 := memWf_ctlRead w _ h
    extract_lets
    exact holds_ite yields_none (yields_map (memWf_ctlRead w1) (fun _ w2 => w2))

theorem memWf_readExtras {p : Nat} {l : Launch} (w : MemWf s) : Yields FstWf (readExtras p l s) := by
  unfold readExtras
  split
  next s1 _ h =>
    have w1 : MemWf s1 := memWf_readBl w _ h
    exact holds_ite (yields_map (memWf_readSession w1) (fun _ w2 => w2)) (yields_some w1)
  · exact yields_none

theorem memWf_checkLaunch {p : Nat} {l : Launch} {id : Nat} {bl : List (Nat × Nat × Nat)} {ses : Option Session} (w : MemWf s) :
    SubWf (checkLaunch p l id bl ses s) := by
  unfold checkLaunch
  refine holds_ite w ?_
  split
  next s1 h =>
    have w1 : MemWf s1 := memWf_of_eq h (memWf_findEntry w)
    exact w1
  next s1 _ _ h =>
    have w1 : MemWf s1 := memWf_of_eq h (memWf_findEntry w)
    refine holds_ite w1 ?_
    split
    · exact w1
    next s2 _ _ h1 =>
      have w2 : MemWf s2 := memWf_bindQueues w1 _ h1
      exact holds_ite w2 (holds_ite w2 w2)

theorem memWf_submitRec {p : Nat} {host : Bool} {b : List Byte} (w : MemWf s) : SubWf (submitRec p host b s) := by
  unfold submitRec
  extract_lets
  refine holds_ite w ?_
  split
  next s1 _ h =>
    have w1 : MemWf s1 := (congrArg LoadWf h).mp (memWf_ensureObj w)
    exact w1
  next s1 _ h =>
    have w1 : MemWf s1 := (congrArg LoadWf h).mp (memWf_ensureObj w)
    refine holds_ite w1 ?_
    split
    · exact w1
    next s2 _ _ h1 =>
      have w2 : MemWf s2 := memWf_readExtras w1 _ h1
      exact memWf_checkLaunch w2

theorem memWf_dropLaunchCode {g : Grid} (w : MemWf s) : MemWf (dropLaunchCode g s) := by
  unfold dropLaunchCode
  extract_lets
  exact memWf_foldl (fun _ _ w1 => w1) w

theorem memWf_addGrid {g : Grid} (w : MemWf s) : FstWf (addGrid g s) := by
  unfold addGrid
  extract_lets _ s1
  have ws1 : MemWf s1 := memWf_dropLaunchCode (memWf_blBefore w)
  exact ws1

theorem memWf_dropRuns {waves : List Nat} (w : MemWf s) : MemWf (dropRuns waves s) :=
  memWf_foldl (fun _ _ w1 => memWf_endRun w1) w

theorem memWf_haltWg {id : Nat} (w : MemWf s) : MemWf (haltWg id s) := by
  unfold haltWg
  split
  · exact w
  · extract_lets
    exact holds_getD (memWf_ctlWrite (memWf_dropRuns w)) (memWf_dropRuns w)

theorem memWf_clearCores {cores : List Nat} (w : MemWf s) : MemWf (clearCores cores s) :=
  memWf_foldl (fun _ _ w1 => memWf_haltWg w1) w

theorem memWf_admitGrid {g : Grid} {fetched : Nat} (w : MemWf s) : Returns FstWf (admitGrid g fetched s) := by
  unfold admitGrid
  refine holds_ite (returns_ok (memWf_addGrid w)) ?_
  extract_lets _ _ _ r s1
  have wr : FstWf r := memWf_addGrid w
  have ws1 : MemWf s1 := memWf_foldl (fun _ _ w1 => w1) wr
  exact holds_ite returns_error (holds_ite returns_error (returns_ok (memWf_clearCores ws1)))

/-! ### `Machine/Records` -/

theorem memWf_advanceFree {gid n : Nat} (w : MemWf s) : MemWf (advanceFree gid n s) := by
  unfold advanceFree
  extract_lets
  split
  · exact w
  · extract_lets _ s1
    have ws1 : MemWf s1 := w
    refine memWf_ite w ?_
    split
    · exact ws1
    next s2 _ h1 =>
      have w1 : MemWf s2 := memWf_readFor ws1 _ h1
      extract_lets
      exact holds_getD (memWf_writeFor w1) w1

theorem memWf_addBatch {gid n : Nat} {c : Option Nat} (w : MemWf s) : MemWf (addBatch gid n c s) :=
  memWf_advanceFree w

theorem memWf_refuseBatch {gid n k code : Nat} (w : MemWf s) : MemWf (refuseBatch gid n k code s) := by
  unfold refuseBatch
  extract_lets
  exact memWf_addBatch (memWf_postEvent _ _ _ w)

theorem memWf_launchBatch {gid n cons k c : Nat} (w : MemWf s) : MemWf (launchBatch gid n cons k c s) := by
  unfold launchBatch
  extract_lets
  split
  · exact memWf_refuseBatch w
  next s1 _ h =>
    have w1 : MemWf s1 := memWf_globalRead w _ h
    refine memWf_ite (memWf_refuseBatch w1) ?_
    split
    next s2 _ h1 =>
      have w2 : MemWf s2 := (congrArg SubWf h1).mp (memWf_submitRec w1)
      exact memWf_refuseBatch w2
    next s2 _ h1 =>
      have w2 : MemWf s2 := (congrArg SubWf h1).mp (memWf_submitRec w1)
      extract_lets r
      have wr : FstWf r := memWf_addGrid w2
      exact memWf_addBatch wr

theorem memWf_readRq {gid n : Nat} (w : MemWf s) : Yields FstWf (readRq s gid n) := by
  unfold readRq
  extract_lets
  exact yields_bind_of (fun _ => yields_map (memWf_readFor w) (fun _ w1 => w1))

theorem memWf_enqStep {core gid n : Nat} {data : List Byte} (w : MemWf s) : FstWf (enqStep core gid n data s) := by
  unfold enqStep
  split
  · exact w
  next s1 _ _ h =>
    have w1 : MemWf s1 := memWf_readRq w _ h
    extract_lets _ _ s2
    have ws2 : MemWf s2 := memWf_physRelease _ _ _ w1
    refine holds_ite w1 (holds_ite w1 ?_)
    split
    · exact ws2
    next s3 h1 =>
      have w2 : MemWf s3 := memWf_writeFor ws2 _ h1
      extract_lets s4
      have ws4 : MemWf s4 := holds_getD (memWf_writeFor w2) w2
      exact memWf_ite (memWf_launchBatch ws4) ws4

theorem memWf_flushRq {gid n : Nat} (w : MemWf s) : FstWf (flushRq gid n s) := by
  unfold flushRq
  split
  · exact w
  next s1 _ _ h =>
    have w1 : MemWf s1 := memWf_readRq w _ h
    refine holds_ite w1 ?_
    extract_lets _ _ s2
    have ws2 : MemWf s2 := holds_getD (memWf_writeFor w1) w1
    exact memWf_launchBatch ws2

theorem memWf_flushAll {gid : Nat} (w : MemWf s) : MemWf (flushAll gid s) := by
  unfold flushAll
  extract_lets
  exact memWf_foldl (fun _ _ w1 => memWf_flushRq w1) w

theorem memWf_consumerEnded {gid : Nat} (w : MemWf s) : MemWf (consumerEnded gid s) := by
  unfold consumerEnded
  split
  · exact w
  · extract_lets n
    clear_value n
    split
    · exact w
    · exact memWf_advanceFree w

theorem memWf_enqLanes {d a : BitVec 7} {xs : List Nat} {xs1 : List (Nat × Nat)} (w : MemWf s) : FstWf (enqLanes c d a xs s xs1) := by
  induction xs generalizing s xs1 with
  | nil =>
    unfold enqLanes
    exact w
  | cons x xs ih =>
    unfold enqLanes
    split
    · exact ih w
    · extract_lets _ _ r
      have wr : FstWf r := memWf_enqStep w
      exact ih wr

theorem memWf_enqrBody {d a : BitVec 7} {la : BitVec 4} (w : MemWf s) : ResWf (enqrBody d a la c s) := by
  unfold enqrBody
  split
  · exact w
  · extract_lets _ _ s1 r
    have ws1 : MemWf s1 := memWf_ite w w
    have wr : FstWf r := memWf_enqLanes ws1
    exact holds_ite trivial (holds_ite ws1 (holds_ite ws1 (memWf_afterTakes (memWf_writeLater wr))))

theorem memWf_flushLanes {a : BitVec 7} {xs : List Nat} {xs1 : List (Nat × Nat)} (w : MemWf s) : FstWf (flushLanes c a xs s xs1) := by
  induction xs generalizing s xs1 with
  | nil =>
    unfold flushLanes
    exact w
  | cons x xs ih =>
    unfold flushLanes
    split
    · exact ih w
    · extract_lets r
      have wr : FstWf r := memWf_flushRq w
      exact ih wr

theorem memWf_execRqflush {d a : BitVec 7} {l : BitVec 4} (w : MemWf s) : OutWf (execRqflush z d a l s) := by
  unfold execRqflush
  refine memWf_issueWord (fun _ _ w1 => memWf_idleWord w1) (fun x s1 w1 => ?_) w
  extract_lets r
  have wr : FstWf r := memWf_flushLanes w1
  exact memWf_writeLater wr

theorem memWf_submitAll {gid : Nat} {xs : List Nat} (w : MemWf s) : FstWf (submitAll gid xs s) := by
  induction xs generalizing s with
  | nil =>
    unfold submitAll
    exact w
  | cons x xs ih =>
    unfold submitAll
    extract_lets
    split
    · exact w
    next s1 _ h =>
      have w1 : MemWf s1 := (holds_ite (memWf_globalRead w) yields_none) _ h
      refine holds_ite w1 ?_
      split
      next s2 _ h1 =>
        have w2 : MemWf s2 := (congrArg SubWf h1).mp (memWf_submitRec w1)
        exact w2
      next s2 _ h1 =>
        have w2 : MemWf s2 := (congrArg SubWf h1).mp (memWf_submitRec w1)
        extract_lets r
        have wr : FstWf r := memWf_addGrid w2
        split
        next s3 _ h2 =>
          have w3 : MemWf s3 := memWf_of_eq h2 (ih wr)
          exact w3
        next s3 h2 =>
          have w3 : MemWf s3 := memWf_of_eq h2 (ih wr)
          exact w3

theorem memWf_bundleUp {ids : List Nat} (w : MemWf s) : MemWf (bundleUp ids s) := by
  unfold bundleUp
  split
  · exact w
  · exact memWf_foldl (fun _ _ w1 => w1) w

theorem memWf_deviceLaunch {gid : Nat} {addrs : List Nat} (w : MemWf s) : FstWf (deviceLaunch gid addrs s) := by
  unfold deviceLaunch
  extract_lets
  refine holds_ite w (holds_ite w (holds_ite w ?_))
  split
  next s1 _ h =>
    have w1 : MemWf s1 := memWf_of_eq h (memWf_submitAll w)
    exact memWf_ite w1 (memWf_bundleUp w1)
  next s1 h =>
    have w1 : MemWf s1 := memWf_of_eq h (memWf_submitAll w)
    exact w1

theorem memWf_launchLanes {bundle : Bool} {xs : List (Nat × Nat × Places)} {xs1 : List (Nat × Nat)} (w : MemWf s) :
    FstWf (launchLanes c bundle xs s xs1) := by
  induction xs generalizing s xs1 with
  | nil =>
    unfold launchLanes
    exact w
  | cons x xs ih =>
    unfold launchLanes
    extract_lets r
    have wr : FstWf r := memWf_deviceLaunch w
    exact ih wr

theorem memWf_launchBody {bundle : Bool} {d a : BitVec 7} {la : BitVec 4} (w : MemWf s) : ResWf (launchBody bundle d a la c s) := by
  unfold launchBody
  extract_lets
  refine memWf_releaseWord (fun s1 xs w1 => memWf_poisonRes w1 ?_) w
  extract_lets r
  have wr : FstWf r := memWf_launchLanes (memWf_partRelease w1)
  exact memWf_writeLater wr

theorem memWf_evpostBody {d a : BitVec 7} (w : MemWf s) : ResWf (evpostBody d a c s) :=
  memWf_afterTakes (memWf_postEvent _ _ _ (memWf_partRelease w))

theorem memWf_cqOpen {gid n : Nat} (w : MemWf s) : Yields FstWf (cqOpen s gid n) := by
  unfold cqOpen
  extract_lets
  exact yields_bind_of (fun _ => yields_map (memWf_readFor w) (fun _ w1 => w1))

theorem memWf_cqTake {gid n : Nat} (w : MemWf s) : FstWf (cqTake gid n s) := by
  unfold cqTake
  split
  · exact w
  next s' _ _ _ _ h =>
    have w1 : MemWf s' := memWf_cqOpen w _ h
    extract_lets
    refine holds_ite ?_ w1
    split
    · exact w1
    next s1 _ h1 =>
      have w2 : MemWf s1 := memWf_readFor w1 _ h1
      split
      · exact w2
      next s2 h2 =>
        have w3 : MemWf s2 := memWf_writeFor w2 _ h2
        exact w3

theorem memWf_pollLanes {a : BitVec 7} {xs : List Nat} {xs1 : List (Nat × List Word)} (w : MemWf s) : FstWf (pollLanes c a xs s xs1) := by
  induction xs generalizing s xs1 with
  | nil =>
    unfold pollLanes
    exact w
  | cons x xs ih =>
    unfold pollLanes
    extract_lets r
    have wr : FstWf r := memWf_cqTake w
    exact ih wr

theorem memWf_pollBody {d a : BitVec 7} {la : BitVec 4} (w : MemWf s) : ResWf (pollBody d a la c s) := by
  unfold pollBody
  extract_lets r
  have wr : FstWf r := memWf_pollLanes w
  exact memWf_writeLater wr

theorem memWf_csleepBody {d a : BitVec 7} {la : BitVec 4} (w : MemWf s) : ResWf (csleepBody d a la c s) := by
  unfold csleepBody
  extract_lets
  exact holds_ite (memWf_pollBody w) w

theorem memWf_signalBody {d a : BitVec 7} (w : MemWf s) : ResWf (signalBody d a c s) :=
  memWf_releaseWord (fun _ _ w1 => memWf_foldl (fun _ _ w2 => memWf_writePieceAt w2) (memWf_partRelease w1)) w

/-! ### `Machine/Packets` -/

theorem memWf_packetRead {q a n : Nat} (w : MemWf s) : Yields FstWf (packetRead q a n s) :=
  holds_ite (memWf_readFor w) yields_none

theorem memWf_packetWrite {q a : Nat} {bs : List Byte} (w : MemWf s) : Yields MemWf (packetWrite q a bs s) :=
  holds_ite (memWf_writeFor w) yields_none

theorem memWf_unreadable {q : Nat} {b : List Byte} {xs : List (Nat × Nat)} (w : MemWf s) : FstWf (unreadable q b xs s) := by
  induction xs generalizing s with
  | nil =>
    unfold unreadable
    exact w
  | cons x xs ih =>
    unfold unreadable
    split
    next s1 _ h =>
      have w1 : MemWf s1 := memWf_packetRead w _ h
      exact ih w1
    · exact w

theorem memWf_checkPacket {q : Nat} {b : List Byte} (w : MemWf s) : CheckWf (checkPacket q b s) := by
  unfold checkPacket
  refine holds_ite w (holds_ite w (holds_ite w (holds_ite w ?_)))
  extract_lets bl
  have wbl : Yields FstWf bl := holds_ite (yields_some w) (holds_ite (memWf_readBl w) yields_none)
  clear_value bl
  split
  · exact w
  next snd _ =>
    have w1 : MemWf snd := wbl _ rfl
    exact w1
  next bl2 _ =>
    have w1 : MemWf bl2 := wbl _ rfl
    split
    next s2 _ h1 =>
      have w2 : MemWf s2 := memWf_of_eq h1 (memWf_unreadable w1)
      exact w2
    next s2 h1 =>
      have w2 : MemWf s2 := memWf_of_eq h1 (memWf_unreadable w1)
      exact w2

theorem memWf_badPacket {q reason count tag splice : Nat} (w : MemWf s) : MemWf (badPacket q reason count tag splice s) :=
  memWf_postEvent _ _ _ w

theorem memWf_failPacket {q seq count : Nat} (w : MemWf s) : MemWf (failPacket q seq count s) := by
  unfold failPacket
  extract_lets
  exact memWf_badPacket w

theorem memWf_fetchNext {q : Nat} (w : MemWf s) : FstWf (fetchNext q s) := by
  unfold fetchNext
  extract_lets _ s1
  have ws1 : MemWf s1 := w
  split
  · exact w
  · split
    · exact memWf_badPacket ws1
    · split
      next s2 _ _ h2 =>
        have w1 : MemWf s2 := (congrArg CheckWf h2).mp (memWf_checkPacket ws1)
        exact memWf_badPacket w1
      next s2 _ h2 =>
        have w1 : MemWf s2 := (congrArg CheckWf h2).mp (memWf_checkPacket ws1)
        extract_lets
        exact w1

theorem memWf_completePacket {q seq status fsum origin : Nat} (w : MemWf s) : MemWf (completePacket q seq status fsum origin s) := by
  unfold completePacket
  split
  · exact w
  · extract_lets s1 s2
    have ws1 : MemWf s1 := memWf_blAfter w
    have ws2 : MemWf s2 := ws1
    exact memWf_ite ws2 (memWf_postEvent _ _ _ ws2)

theorem memWf_resultTo {gid : Nat} {g : Grid} {status fsum q : Nat} {p : Packet} (w : MemWf s) : MemWf (resultTo gid g status fsum q s p) := by
  unfold resultTo
  refine memWf_ite ?_ w
  extract_lets s1
  have ws1 : MemWf s1 := w
  split
  · exact ws1
  · refine memWf_ite ?_ ws1
    extract_lets
    exact memWf_completePacket ws1

theorem memWf_resultToAll {gid : Nat} {g : Grid} {status fsum : Nat} (w : MemWf s) : MemWf (resultToAll gid g status fsum s) :=
  memWf_ite (memWf_postEvent _ _ _ w) (memWf_foldl (fun _ _ w1 => memWf_foldl (fun _ _ w2 => memWf_resultTo w2) w1) w)

theorem memWf_performGrid {g : Grid} (w : MemWf s) : MemWf (performGrid g s) :=
  memWf_performStores _ _ _ w

theorem memWf_dropLocks {p ctx : Nat} (w : MemWf s) : MemWf (dropLocks p ctx s) :=
  memWf_ite w w

theorem memWf_gridRecord {gid : Nat} {g : Grid} (w : MemWf s) : Yields MemWf (gridRecord gid g s) :=
  holds_ite (memWf_postCq w) (yields_some w)

theorem memWf_noteDraw {g : Grid} {status fsum : Nat} (w : MemWf s) : MemWf (noteDraw g status fsum s) := by
  unfold noteDraw
  split
  · exact w
  · exact memWf_ite w w

theorem memWf_freeElided {g : Grid} (w : MemWf s) : MemWf (freeElided g s) := by
  unfold freeElided
  refine memWf_foldl (fun s1 x1 w1 => ?_) w
  extract_lets _ x
  have wx : MemWf x := holds_getD (memWf_writeFor w1) w1
  exact wx

theorem memWf_finishGrid {gid : Nat} {g : Grid} (w : MemWf s) : MemWf (finishGrid gid g s) := by
  unfold finishGrid
  extract_lets s1
  have ws1 : MemWf s1 := memWf_blAfter (memWf_freeElided (memWf_performGrid w))
  split
  · exact ws1
  next s2 h =>
    have w1 : MemWf s2 := memWf_gridRecord ws1 _ h
    extract_lets s3
    have ws3 : MemWf s3 := memWf_resultToAll (memWf_noteDraw (memWf_consumerEnded w1))
    exact memWf_dropLocks ws3

theorem memWf_completeGrid {gid : Nat} (w : MemWf s) : MemWf (completeGrid gid s) := by
  unfold completeGrid
  split
  · exact w
  · refine memWf_ite ?_ w
    extract_lets s1
    have ws1 : MemWf s1 := memWf_ite w (memWf_flushAll w)
    split
    · exact ws1
    · exact memWf_ite (memWf_finishGrid ws1) ws1

theorem memWf_startPacket {q seq ty : Nat} {waits : Bool} {f : Packet → State → State} (hf : ∀ x s, MemWf s → MemWf (f x s)) (w : MemWf s) :
    OutWf (startPacket q seq ty waits f s) := by
  unfold startPacket
  split
  · exact w
  · exact memWf_ite (hf _ _ (memWf_blBefore w)) w

theorem memWf_donePacket {q seq status fsum : Nat} (w : MemWf s) : MemWf (donePacket q seq status fsum s) :=
  memWf_completePacket w

/-! ### `Machine/Splicer` -/

theorem memWf_readKernel {p ctx : Nat} {o : CodeObj} {entry : Nat} {x : SpliceSect} (w : MemWf s) : FstWf (readKernel p ctx o entry x s) := by
  unfold readKernel
  split
  next s1 _ h =>
    have w1 : MemWf s1 := memWf_ctlRead w _ h
    exact w1
  · exact w

theorem memWf_spliceCheck {base : Nat} {a b : Grid} (w : MemWf s) : FstWf (spliceCheck base a b s) := by
  unfold spliceCheck
  split
  · refine holds_ite w ?_
    split
    next s1 h3 =>
      have w1 : MemWf s1 := memWf_of_eq h3 (memWf_readKernel w)
      exact w1
    next s1 _ h3 =>
      have w1 : MemWf s1 := memWf_of_eq h3 (memWf_readKernel w)
      split
      next s2 h4 =>
        have w2 : MemWf s2 := memWf_of_eq h4 (memWf_readKernel w1)
        exact w2
      next s2 _ h4 =>
        have w2 : MemWf s2 := memWf_of_eq h4 (memWf_readKernel w1)
        exact holds_ite w2 w2
  · exact w

theorem memWf_splicePair {a b : Grid} (w : MemWf s) : FstWf (splicePair a b s) := by
  unfold splicePair
  extract_lets _ e
  split
  next s1 _ h =>
    have w1 : MemWf s1 := memWf_of_eq h (memWf_spliceCheck w)
    exact w1
  next s1 _ h =>
    clear_value e
    split
    · have w2 : MemWf s1 := memWf_of_eq h (memWf_spliceCheck w)
      exact holds_ite w2 w2
    · have w2 : MemWf s1 := memWf_of_eq h (memWf_spliceCheck w)
      exact w2

/-! ### `Machine/Registers` -/

theorem memWf_onBar {f : State → State} (hf : ∀ s, MemWf s → MemWf (f s)) (w : MemWf s) : OutWf (onBar f s) :=
  memWf_ite w (hf _ w)

theorem memWf_writeTail {q v : Nat} (w : MemWf s) : MemWf (writeTail q v s) := by
  unfold writeTail
  extract_lets _ _ _ s1
  have ws1 : MemWf s1 := w
  exact memWf_ite w (memWf_ite (memWf_postEvent _ _ _ w) ws1)

theorem memWf_execQueueEnable {q : Nat} (w : MemWf s) : OutWf (execQueueEnable q s) := by
  unfold execQueueEnable
  refine memWf_onBar (fun s1 w1 => ?_) w
  extract_lets
  exact memWf_ite w1 w1

theorem memWf_execMsixSend {e : Nat} (w : MemWf s) : OutWf (execMsixSend e s) := by
  unfold execMsixSend
  extract_lets
  exact memWf_ite (memWf_ite w w) w

theorem memWf_sendPending (w : MemWf s) : MemWf (sendPending s) :=
  memWf_ite w (memWf_foldl (fun _ _ w1 => w1) w)

theorem memWf_maskFunc {on : Bool} (w : MemWf s) : MemWf (maskFunc on s) :=
  memWf_sendPending w

theorem memWf_execCapWrite {p v : Nat} (w : MemWf s) : OutWf (execCapWrite p v s) := by
  unfold execCapWrite
  refine memWf_onBar (fun s1 w1 => ?_) w
  extract_lets
  exact w1

theorem memWf_writeQueueReg {q off v : Nat} (w : MemWf s) : MemWf (writeQueueReg q off v s) := by
  unfold writeQueueReg
  extract_lets
  refine memWf_ite w ?_
  split
  · exact memWf_ite w w
  · exact memWf_ite w w
  · exact w
  · exact w

theorem memWf_writeEvqReg {e off v : Nat} (w : MemWf s) : MemWf (writeEvqReg e off v s) := by
  unfold writeEvqReg
  extract_lets
  split
  · exact memWf_ite w w
  · exact memWf_ite w w
  · exact memWf_ite w w
  · exact w
  · exact w

theorem memWf_writeFringReg {p off v : Nat} (w : MemWf s) : MemWf (writeFringReg p off v s) := by
  unfold writeFringReg
  extract_lets _ put s1
  have wput : ∀ (x : FaultRing), MemWf (put x) := fun _ => w
  have ws1 : MemWf s1 := wput _
  split
  · exact memWf_ite (wput _) w
  · exact memWf_ite (wput _) w
  · exact memWf_ite (memWf_writeRecords ws1) ws1
  · exact w

theorem memWf_writeTraceReg {p off v : Nat} (w : MemWf s) : MemWf (writeTraceReg p off v s) := by
  unfold writeTraceReg
  extract_lets _ put
  have wput : ∀ (x : TraceRing), MemWf (put x) := fun _ => w
  split
  · exact memWf_ite (wput _) w
  · exact memWf_ite (wput _) w
  · exact memWf_ite (wput _) w
  · exact wput _
  · exact wput _
  · exact wput _
  · exact wput _
  · exact w

theorem memWf_writeRegister {off v : Nat} (w : MemWf s) : MemWf (writeRegister off v s) := by
  unfold writeRegister
  refine memWf_ite ?_ (memWf_ite ?_ (memWf_ite ?_ (memWf_ite ?_ (memWf_ite ?_ (memWf_ite ?_ (memWf_ite ?_ (memWf_ite ?_ w)))))))
  · exact memWf_setDev _ w
  · exact memWf_writeQueueReg w
  · exact memWf_writeEvqReg w
  · exact memWf_writeFringReg w
  · exact memWf_writeTraceReg w
  · exact w
  · exact memWf_setDev _ w
  · exact memWf_setDev _ w

/-! ### `Machine/HostPackets` -/

theorem memWf_recordAt {q a : Nat} (w : MemWf s) : Yields FstWf (recordAt q a s) :=
  memWf_packetRead w

theorem memWf_admitPacket {q seq : Nat} {g : Grid} {time : Nat} (w : MemWf s) : MemWf (admitPacket q seq g time s) := by
  unfold admitPacket
  split
  · exact memWf_donePacket w
  next s1 _ h =>
    have w1 : MemWf s1 := memWf_admitGrid w _ h
    exact w1

theorem memWf_startRecord {q : Nat} {p : Packet} {b : List Byte} {splice : Nat} (w : MemWf s) : MemWf (startRecord q p b splice s) := by
  unfold startRecord
  split
  next s1 _ h =>
    have w1 : MemWf s1 := (congrArg SubWf h).mp (memWf_submitRec w)
    exact memWf_donePacket w1
  next s1 _ h =>
    have w1 : MemWf s1 := (congrArg SubWf h).mp (memWf_submitRec w)
    exact memWf_admitPacket w1

theorem memWf_startSpliced {q : Nat} {p n : Packet} {g : Grid} (w : MemWf s) : MemWf (startSpliced q p n g s) := by
  unfold startSpliced
  extract_lets r
  have wr : FstWf r := memWf_addGrid (memWf_blBefore w)
  exact wr

theorem memWf_startLaunch {q : Nat} {p : Packet} (w : MemWf s) : MemWf (startLaunch q p s) := by
  unfold startLaunch
  split
  · exact memWf_startSpliced w
  · split
    · exact memWf_failPacket w
    next s1 _ h1 =>
      have w1 : MemWf s1 := memWf_recordAt w _ h1
      exact memWf_startRecord w1

theorem memWf_submitMembers {q : Nat} {p : Packet} {xs : List Nat} (w : MemWf s) : MemberWf (submitMembers q p xs s) := by
  induction xs generalizing s with
  | nil =>
    unfold submitMembers
    exact w
  | cons x xs ih =>
    unfold submitMembers
    refine holds_ite w ?_
    split
    · exact w
    next s1 _ h =>
      have w1 : MemWf s1 := memWf_recordAt w _ h
      split
      next s2 _ h1 =>
        have w2 : MemWf s2 := (congrArg SubWf h1).mp (memWf_submitRec w1)
        exact w2
      next s2 _ h1 =>
        have w2 : MemWf s2 := (congrArg SubWf h1).mp (memWf_submitRec w1)
        split
        next s3 _ h2 =>
          have w3 : MemWf s3 := (congrArg MemberWf h2).mp (ih w2)
          exact w3
        · exact ih w2

theorem memWf_pairMembers {xs : List (Grid × Bool)} (w : MemWf s) : FstWf (pairMembers s xs) := by
  fun_induction pairMembers s xs with
  | case1 => exact w
  | case2 => exact w
  | case3 s a sa b sb rest hs s1 ps h ih => exact memWf_of_eq h (ih w)
  | case4 s a sa b sb rest hs r s1 x hr s2 ps h ih =>
    have wr : FstWf r := holds_ite (memWf_splicePair w) w
    exact memWf_of_eq h (ih (memWf_of_eq hr wr))
  | case5 s a sa b sb rest hs r s1 e hr s2 h ih =>
    have wr : FstWf r := holds_ite (memWf_splicePair w) w
    exact memWf_of_eq h (ih (memWf_of_eq hr wr))
  | case6 s a sa b sb rest hs r s1 e hr s2 p ps h ih =>
    have wr : FstWf r := holds_ite (memWf_splicePair w) w
    exact memWf_of_eq h (ih (memWf_of_eq hr wr))

theorem memWf_admitMembers {time : Nat} {xs : List (Grid × Bool)} {x : Option Nat} (w : MemWf s) : Returns FstWf (admitMembers time xs x s) := by
  induction xs generalizing x s with
  | nil =>
    unfold admitMembers
    exact returns_ok w
  | cons x xs ih =>
    unfold admitMembers
    split
    · exact returns_error
    next s1 _ h =>
      have w1 : MemWf s1 := memWf_admitGrid w _ h
      split
      · exact returns_error
      next s2 _ h1 =>
        have w2 : MemWf s2 := (ih w1) _ h1
        exact returns_ok w2

theorem memWf_startMembers {q : Nat} {p : Packet} {gs : List (Grid × Bool)} (w : MemWf s) : MemWf (startMembers q p gs s) := by
  unfold startMembers
  split
  · exact memWf_donePacket w
  next s1 _ h =>
    have w1 : MemWf s1 := memWf_admitMembers w _ h
    exact memWf_bundleUp w1

theorem memWf_startBundle {q : Nat} {p : Packet} (w : MemWf s) : MemWf (startBundle q p s) := by
  unfold startBundle
  split
  · exact memWf_failPacket w
  next s1 _ h =>
    have w1 : MemWf s1 := memWf_packetRead w _ h
    refine memWf_ite (memWf_donePacket w1) ?_
    split
    next s2 _ h1 =>
      have w2 : MemWf s2 := (congrArg MemberWf h1).mp (memWf_submitMembers w1)
      exact memWf_failPacket w2
    next s2 _ h1 =>
      have w2 : MemWf s2 := (congrArg MemberWf h1).mp (memWf_submitMembers w1)
      exact memWf_donePacket w2
    next s2 _ h1 =>
      have w2 : MemWf s2 := (congrArg MemberWf h1).mp (memWf_submitMembers w1)
      exact memWf_startMembers w2

theorem memWf_partnerOf {q : Nat} (w : MemWf s) : FstWf (partnerOf q s) := by
  unfold partnerOf
  refine holds_ite w ?_
  split
  next b s1 bl h =>
    obtain ⟨b', -, hb⟩ := Option.map_eq_some_iff.1 h
    have w1 : CheckWf (.ok s1 bl) := (Prod.mk.inj hb).2 ▸ memWf_checkPacket w
    split
    · exact w1
    next s2 cells h2 =>
      have w2 : MemWf s2 := holds_ite (memWf_recordAt w1) yields_none _ h2
      exact holds_ite w2 (holds_ite w2 w2)
  · exact w

theorem memWf_decideLaunch {q : Nat} {p : Packet} (w : MemWf s) : MemWf (decideLaunch q p s) := by
  unfold decideLaunch
  extract_lets
  split
  · exact w
  next s1 _ h =>
    have w1 : MemWf s1 := memWf_recordAt w _ h
    refine memWf_ite w1 ?_
    split
    next s2 _ h1 =>
      have w2 : MemWf s2 := memWf_of_eq h1 (memWf_partnerOf w1)
      exact w2
    next s2 _ _ h1 =>
      have w2 : MemWf s2 := memWf_of_eq h1 (memWf_partnerOf w1)
      split
      next s3 _ h2 =>
        have w3 : MemWf s3 := (congrArg SubWf h2).mp (memWf_submitRec w2)
        exact w3
      next s3 _ h2 =>
        have w3 : MemWf s3 := (congrArg SubWf h2).mp (memWf_submitRec w2)
        extract_lets r
        have wr : FstWf r := by
          unfold r
          split
          next s4 _ h3 =>
            have w4 : MemWf s4 := (congrArg SubWf h3).mp (memWf_submitRec w3)
            exact w4
          next s4 _ h3 =>
            have w4 : MemWf s4 := (congrArg SubWf h3).mp (memWf_submitRec w3)
            exact memWf_splicePair w4
        clear_value r
        split <;> exact wr

theorem memWf_decideBundle {q : Nat} {p : Packet} (w : MemWf s) : MemWf (decideBundle q p s) := by
  unfold decideBundle
  split
  · exact w
  next s1 _ h =>
    have w1 : MemWf s1 := memWf_packetRead w _ h
    split
    next s2 _ h1 =>
      have w2 : MemWf s2 := (congrArg MemberWf h1).mp (memWf_submitMembers w1)
      split
      next s3 _ h2 =>
        have w3 : MemWf s3 := memWf_of_eq h2 (memWf_pairMembers w2)
        exact w3
    next s2 _ h1 =>
      have w2 : MemWf s2 := (congrArg MemberWf h1).mp (memWf_submitMembers w1)
      exact w2
    next s2 _ h1 =>
      have w2 : MemWf s2 := (congrArg MemberWf h1).mp (memWf_submitMembers w1)
      exact w2

theorem memWf_fetchPacket {q : Nat} (w : MemWf s) : MemWf (fetchPacket q s) := by
  unfold fetchPacket
  split
  next s1 h =>
    have w1 : MemWf s1 := memWf_of_eq h (memWf_fetchNext w)
    exact w1
  next s1 _ h =>
    have w1 : MemWf s1 := memWf_of_eq h (memWf_fetchNext w)
    exact memWf_ite (memWf_decideLaunch w1) (memWf_ite (memWf_decideBundle w1) w1)

theorem memWf_startSched {q : Nat} {p : Packet} (w : MemWf s) : MemWf (startSched q p s) := by
  unfold startSched
  extract_lets
  split
  · exact w
  · extract_lets
    exact memWf_releaseEntries w

theorem memWf_hostRelease (w : MemWf s) : MemWf (hostRelease s) :=
  memWf_performStores _ _ _ w

theorem memWf_startSignal {q : Nat} {p : Packet} (w : MemWf s) : MemWf (startSignal q p s) := by
  unfold startSignal
  extract_lets _ s1
  have ws1 : MemWf s1 := memWf_hostRelease w
  split
  · exact memWf_failPacket ws1
  next s2 _ h =>
    have w1 : MemWf s2 := memWf_packetRead ws1 _ h
    extract_lets
    split
    · exact memWf_failPacket w1
    next s3 h1 =>
      have w2 : MemWf s3 := memWf_packetWrite w1 _ h1
      exact memWf_donePacket w2

theorem memWf_pollSignal {q : Nat} {p : Packet} (w : MemWf s) : MemWf (pollSignal q p s) := by
  unfold pollSignal
  extract_lets
  split
  · exact memWf_failPacket w
  next s1 _ h =>
    have w1 : MemWf s1 := memWf_packetRead w _ h
    exact memWf_ite (memWf_donePacket w1) w1

theorem memWf_startWaitsig {q : Nat} {p : Packet} (w : MemWf s) : MemWf (startWaitsig q p s) := by
  unfold startWaitsig
  extract_lets
  exact memWf_pollSignal w

theorem memWf_execWaitsigPoll {q seq : Nat} (w : MemWf s) : OutWf (execWaitsigPoll q seq s) := by
  unfold execWaitsigPoll
  split
  · exact memWf_pollSignal w
  · exact w

theorem memWf_execWaitsigTimeout {q seq : Nat} (w : MemWf s) : OutWf (execWaitsigTimeout q seq s) := by
  unfold execWaitsigTimeout
  split
  · exact memWf_ite (memWf_donePacket w) w
  · exact w

theorem memWf_execTimestamp {q seq : Nat} (w : MemWf s) : OutWf (execTimestamp q seq s) := by
  unfold execTimestamp
  refine memWf_startPacket (fun x s1 w1 => ?_) w
  split
  · exact memWf_failPacket w1
  next s2 h =>
    have w2 : MemWf s2 := memWf_packetWrite w1 _ h
    exact memWf_donePacket w2

theorem memWf_execQbarrier {q seq : Nat} (w : MemWf s) : OutWf (execQbarrier q seq s) := by
  unfold execQbarrier
  split
  · exact w
  · refine memWf_ite ?_ w
    extract_lets s1
    have ws1 : MemWf s1 := memWf_ite (memWf_blBefore w) w
    exact memWf_ite (memWf_donePacket ws1) ws1

/-! ### `Machine/Ademan` -/

theorem memWf_configPacket {item : Nat} {f : Nat → Nat → State → Option State} {q seq : Nat} (hf : ∀ n n1 s, MemWf s → Yields MemWf (f n n1 s))
    (w : MemWf s) : OutWf (configPacket item f q seq s) := by
  unfold configPacket
  split
  · exact w
  · extract_lets
    refine holds_ite (memWf_startPacket (fun x1 s1 w1 => ?_) w) w
    split
    next s2 h1 =>
      have w2 : MemWf s2 := (holds_ite (hf _ _ _ w1) yields_none) _ h1
      exact memWf_donePacket w2
    · exact memWf_donePacket w1

theorem memWf_execConfigL2Ways {q seq : Nat} (w : MemWf s) : OutWf (execConfigL2Ways q seq s) := by
  unfold execConfigL2Ways
  refine memWf_configPacket (fun n n1 s1 w1 => ?_) w
  extract_lets
  exact yields_map_of (fun _ => w1)

theorem memWf_execConfigLlcWays {q seq : Nat} (w : MemWf s) : OutWf (execConfigLlcWays q seq s) := by
  unfold execConfigLlcWays
  refine memWf_configPacket (fun n n1 s1 w1 => ?_) w
  extract_lets
  exact yields_map_of (fun _ => w1)

theorem memWf_preemptWg {id : Nat} (w : MemWf s) : MemWf (preemptWg id s) := by
  unfold preemptWg
  split
  · exact w
  · refine memWf_ite w (memWf_ite (memWf_parkWg (memWf_haltWg w)) ?_)
    extract_lets
    exact w

theorem memWf_preemptTag {p tag : Nat} (w : MemWf s) : MemWf (preemptTag p tag s) :=
  memWf_foldl (fun _ _ w1 => memWf_preemptWg w1) w

theorem memWf_keyBind {slot p : Nat} (w : MemWf s) : Returns MemWf (keyBind slot p s) := by
  unfold keyBind
  extract_lets
  exact holds_ite returns_error (returns_ok w)

theorem memWf_keyUnbind {slot p : Nat} (w : MemWf s) : Returns MemWf (keyUnbind slot p s) := by
  unfold keyUnbind
  extract_lets
  exact holds_ite returns_error (returns_ok w)

theorem memWf_startWipe {p : Nat} (w : MemWf s) : Returns MemWf (startWipe p s) :=
  holds_ite returns_error (holds_ite returns_error (returns_ok w))

theorem memWf_wipePartition {p : Nat} (w : MemWf s) : MemWf (wipePartition p s) := by
  obtain ⟨hh, ho, hp, hs⟩ := w
  exact ⟨Memory.wf_clear _ _ _ hh, ho, hp, cellsWf_filter _ _ _ hs⟩

theorem memWf_haltPartition {p : Nat} (w : MemWf s) : MemWf (haltPartition p s) :=
  memWf_dropRuns w

theorem memWf_startSwap {p : Nat} {in_ : Bool} (w : MemWf s) : Returns MemWf (startSwap p in_ s) := by
  unfold startSwap
  split
  · exact returns_error
  · exact holds_ite (holds_ite (returns_ok w) returns_error) (holds_ite returns_error
      (holds_ite (returns_ok w) (holds_ite (returns_ok w) (returns_ok (memWf_haltPartition w)))))

theorem memWf_swapOut {p : Nat} (w : MemWf s) : MemWf (swapOut p s) := by
  unfold swapOut
  extract_lets _ s1
  have ws1 : MemWf s1 := memWf_performStores _ _ _ w
  exact ws1

theorem memWf_donePartctl {ops : List Nat} {p : Nat} (w : MemWf s) : MemWf (donePartctl ops p s) :=
  memWf_foldl (fun _ _ w1 => memWf_foldl (fun _ _ w2 => memWf_ite (memWf_donePacket w2) w2) w1) w

theorem memWf_swapDone {p : Nat} (w : MemWf s) : MemWf (swapDone p s) :=
  memWf_donePartctl w

theorem memWf_execShadowExchange {p : Nat} (w : MemWf s) : OutWf (execShadowExchange p s) := by
  unfold execShadowExchange
  split
  · exact memWf_ite w (memWf_haltPartition w)
  · exact memWf_ite (memWf_swapDone (memWf_swapOut w)) w
  · exact memWf_swapDone w
  · exact w

theorem memWf_endContext {p id : Nat} (w : MemWf s) : MemWf (endContext p id s) := by
  unfold endContext
  extract_lets s1
  have ws1 : MemWf s1 := memWf_foldl (fun _ _ w1 => w1) w
  exact ws1

theorem memWf_endPartition {p : Nat} (w : MemWf s) : MemWf (endPartition p s) := by
  unfold endPartition
  extract_lets s1 s2
  have ws1 : MemWf s1 := w
  have ws2 : MemWf s2 := memWf_foldl (fun _ _ w1 => memWf_endContext w1) ws1
  exact ws2

theorem memWf_execWipeComplete {p : Nat} (w : MemWf s) : OutWf (execWipeComplete p s) := by
  unfold execWipeComplete
  refine memWf_ite ?_ w
  extract_lets t
  have wt : MemWf t := memWf_donePartctl (memWf_wipePartition w)
  exact memWf_ite (memWf_endPartition wt) wt

theorem memWf_partctl {op : Nat} {waits_ : State → Nat → Bool} {f : Packet → Nat → State → Except Nat State} {q seq : Nat}
    (hf : ∀ x n s, MemWf s → Returns MemWf (f x n s)) (w : MemWf s) : OutWf (partctl op waits_ f q seq s) := by
  unfold partctl
  split
  · exact w
  · refine holds_ite (memWf_startPacket (fun x1 s1 w1 => ?_) w) w
    split
    · exact memWf_donePacket w1
    next s2 h1 =>
      have w2 : MemWf s2 := (hf _ _ _ w1) _ h1
      exact memWf_ite w2 (memWf_donePacket w2)

theorem memWf_qfetchBody {d : BitVec 7} {q : Nat} (w : MemWf s) : ResWf (qfetchBody d q c s) := by
  unfold qfetchBody
  extract_lets _ s1
  have ws1 : MemWf s1 := w
  refine holds_ite w (holds_ite w ?_)
  split
  · exact memWf_badPacket ws1
  · split
    next s2 _ _ h1 =>
      have w1 : MemWf s2 := (congrArg CheckWf h1).mp (memWf_checkPacket ws1)
      exact memWf_badPacket w1
    next s2 _ h1 =>
      have w1 : MemWf s2 := (congrArg CheckWf h1).mp (memWf_checkPacket ws1)
      exact memWf_writeRegs w1

theorem memWf_dispRecords {p time : Nat} {xs : List Nat} (w : MemWf s) : FstWf (dispRecords p time xs s) := by
  induction xs generalizing s with
  | nil =>
    unfold dispRecords
    exact w
  | cons x xs ih =>
    unfold dispRecords
    split
    · exact w
    next s1 _ h =>
      have w1 : MemWf s1 := (holds_ite (memWf_ctlRead w) yields_none) _ h
      extract_lets
      split
      next s2 _ h1 =>
        have w2 : MemWf s2 := (congrArg SubWf h1).mp (memWf_submitRec w1)
        exact w2
      next s2 _ h1 =>
        have w2 : MemWf s2 := (congrArg SubWf h1).mp (memWf_submitRec w1)
        split
        · exact w2
        next s3 _ h2 =>
          have w3 : MemWf s3 := memWf_admitGrid w2 _ h2
          split
          next s4 _ h3 =>
            have w4 : MemWf s4 := memWf_of_eq h3 (ih w3)
            exact w4
          next s4 _ h3 =>
            have w4 : MemWf s4 := memWf_of_eq h3 (ih w3)
            exact w4

theorem memWf_dispAddrs {d : BitVec 7} {b : Bool} {p : Nat} (w : MemWf s) : FstWf (dispAddrs d b p c s) := by
  unfold dispAddrs
  extract_lets
  refine holds_ite ?_ w
  split
  next s1 _ h =>
    have w1 : MemWf s1 := memWf_ctlRead w _ h
    exact w1
  · exact w

theorem memWf_dispAll {p time : Nat} {x : State × List Nat} (wx : FstWf x) : FstWf (dispAll p time x) :=
  holds_ite wx (memWf_dispRecords wx)

theorem memWf_qdispBody {d : BitVec 7} {b : Bool} {p : Nat} (w : MemWf s) : ResWf (qdispBody d b p c s) := by
  unfold qdispBody
  extract_lets r _ x
  have wr : FstWf r := memWf_dispAddrs w
  have wx : MemWf x := wr
  refine holds_ite w (holds_ite w ?_)
  split
  next s1 _ h =>
    have w1 : MemWf s1 := memWf_of_eq h (memWf_dispAll wx)
    exact memWf_ite (memWf_bundleUp w1) w1
  next s' _ _ _ h =>
    have w1 : MemWf s' := memWf_of_eq h (memWf_dispAll wx)
    exact memWf_postEvent _ _ _ w1

theorem memWf_swaitcBody {d : BitVec 7} {timeout cmp : Nat} (w : MemWf s) : ResWf (swaitcBody d timeout cmp c s) := by
  unfold swaitcBody
  extract_lets
  exact memWf_memWord (fun _ _ w1 => holds_ite w1 (holds_ite w1 w1)) w

theorem memWf_keyopWord {f : State → Except Nat State} {slot p : Nat} (hf : ∀ s, MemWf s → Returns MemWf (f s)) (w : MemWf s) :
    OutWf (keyopWord z f slot p s) := by
  unfold keyopWord
  refine memWf_issueWord (fun _ _ w1 => memWf_idleWord w1) (fun x s1 w1 => ?_) w
  split
  next s2 h =>
    have w2 : MemWf s2 := (hf _ w1) _ h
    exact w2
  · exact w1

theorem memWf_freshSignature (w : MemWf s) : FstWf (freshSignature s) :=
  w

theorem memWf_keyopSignBody {d : BitVec 7} {slot p : Nat} (w : MemWf s) : ResWf (keyopSignBody d slot p c s) := by
  unfold keyopSignBody
  refine holds_ite w ?_
  extract_lets r
  have wr : FstWf r := memWf_freshSignature w
  exact memWf_writeRegs wr

theorem memWf_untilDone {start : State → Except Nat State} {busy : State → Bool} {cond : Cond} {p : Nat}
    (hstart : ∀ s, MemWf s → Returns MemWf (start s)) (w : MemWf s) : ResWf (untilDone start busy cond p c s) := by
  unfold untilDone
  refine holds_ite (holds_ite w w) ?_
  split
  · exact w
  next s1 h =>
    have w1 : MemWf s1 := (hstart _ w) _ h
    exact holds_ite w1 w1

theorem memWf_measxBody {d : BitVec 7} {m : Nat} (w : MemWf s) : ResWf (measxBody d m c s) :=
  holds_ite w (memWf_extendMeas w)

/-! ### `Machine/Dispatcher` -/

theorem memWf_noteTemps {core temp more : Nat} (w : MemWf s) : MemWf (noteTemps core temp more s) :=
  memWf_foldl (fun _ _ w1 => w1) w

theorem memWf_weighCore {core : Nat} (w : MemWf s) : MemWf (weighCore s core) := by
  unfold weighCore
  extract_lets
  exact memWf_ite w w

theorem memWf_execWeightClassUpdate {core temp more : Nat} (w : MemWf s) : OutWf (execWeightClassUpdate core temp more s) := by
  unfold execWeightClassUpdate
  exact memWf_ite (memWf_setDev _ (memWf_foldl (fun _ _ w1 => memWf_weighCore w1) (memWf_noteTemps w))) w

theorem memWf_movePtr {p next : Nat} (w : MemWf s) : MemWf (movePtr p next s) := by
  unfold movePtr
  extract_lets _ _ s1
  have ws1 : MemWf s1 := memWf_foldl (fun _ _ w1 => w1) w
  exact memWf_ite w ws1

theorem memWf_newWaves {core wg gid : Nat} {g : Grid} {lin unit vbound : Nat} {xs : List ((Nat × Nat) × Nat)} {n : Nat} (w : MemWf s) :
    MemWf (newWaves core wg gid g lin unit vbound xs n s) := by
  induction xs generalizing n s with
  | nil =>
    unfold newWaves
    exact w
  | cons x xs ih =>
    unfold newWaves
    extract_lets
    exact ih w

theorem memWf_sessionCore {core gid : Nat} {g : Grid} (w : MemWf s) : MemWf (sessionCore core gid g s) := by
  unfold sessionCore
  split
  · exact w
  · refine memWf_ite w ?_
    extract_lets
    exact w

theorem memWf_fillSpad {core base size : Nat} {bytes : Memory} (w : MemWf s) : MemWf (fillSpad core base size bytes s) := by
  obtain ⟨hh, ho, hp, hs⟩ := w
  refine ⟨hh, ho, hp, ?_⟩
  exact List.foldlRecOn (motive := fun m : Memory => m.wf = true) bytes _ (Memory.wf_clear _ _ _ hs) fun m hm c _ => Memory.wf_write m _ _ hm

theorem memWf_fuseCluster {g : Grid} {core : Nat} (w : MemWf s) : MemWf (fuseCluster g core s) :=
  memWf_ite w w

theorem memWf_placeFresh {gid : Nat} {g : Grid} {c : Choice} (w : MemWf s) : MemWf (placeFresh gid g c s) := by
  unfold placeFresh
  extract_lets _ _ _ _ _ _ s3
  have ws3 : MemWf s3 := memWf_fuseCluster (memWf_fillSpad w)
  exact memWf_sessionCore (memWf_newWaves ws3)

theorem memWf_resumeWaves {f : Nat → Nat} {core : Nat} {xs : List (((Nat × Nat) × Nat) × Wave)} (w : MemWf s) : MemWf (resumeWaves f core xs s) := by
  induction xs generalizing s with
  | nil =>
    unfold resumeWaves
    exact w
  | cons x xs ih =>
    unfold resumeWaves
    extract_lets
    exact ih w

theorem memWf_placeAgain {id gid : Nat} {g : Grid} {k : Parked} {c : Choice} (w : MemWf s) : MemWf (placeAgain id gid g k c s) := by
  unfold placeAgain
  extract_lets _ _ _ _ _ s2 s3
  have ws2 : MemWf s2 := memWf_fuseCluster (memWf_fillSpad w)
  have ws3 : MemWf s3 := memWf_sessionCore (memWf_resumeWaves ws2)
  exact memWf_admitCopies (memWf_ite ws3 ws3)

theorem memWf_placeNext {p : Nat} (w : MemWf s) : MemWf (placeNext p s) := by
  unfold placeNext
  split
  · exact w
  · split
    · extract_lets s1
      have ws1 : MemWf s1 := w
      exact memWf_ite w (memWf_placeFresh (memWf_movePtr ws1))
    · split
      · exact memWf_placeAgain (memWf_movePtr w)
      · exact w

theorem memWf_execBudgetExceeded {wg : Nat} (w : MemWf s) : OutWf (execBudgetExceeded wg s) := by
  unfold execBudgetExceeded
  split
  · exact w
  · exact memWf_ite (memWf_foldl (fun _ _ w1 => memWf_terminateWave w1) w) w

theorem memWf_endRunOf {w : Wave} {p : Part} {cause : Nat} (ws : MemWf s) : MemWf (endRunOf w p cause s) := by
  unfold endRunOf
  split
  · exact memWf_ite (memWf_endRun ws) ws
  · exact ws

theorem memWf_takePreempt {key q : Nat} (w : MemWf s) : MemWf (takePreempt key q s) := by
  unfold takePreempt
  split
  · refine memWf_ite ?_ w
    extract_lets s1 s2 s3
    have ws1 : MemWf s1 := memWf_endRunOf w
    have ws2 : MemWf s2 := memWf_traceSummary (memWf_leaveWait ws1)
    have ws3 : MemWf s3 := memWf_countEvent ws2
    exact memWf_ite ws3 ws1
  · exact w

theorem memWf_execPredlExpiry {wg : Nat} (w : MemWf s) : OutWf (execPredlExpiry wg s) := by
  unfold execPredlExpiry
  split
  · exact w
  · exact memWf_ite (memWf_haltWg w) w

theorem memWf_countReady {key q : Nat} (w : MemWf s) : MemWf (countReady s key q) := by
  unfold countReady
  split <;> exact w

theorem memWf_arbitrate {quarter : Nat} (w : MemWf s) : MemWf (arbitrate quarter s) := by
  unfold arbitrate
  refine memWf_ite w ?_
  split
  · exact w
  · extract_lets s1 s2
    have ws1 : MemWf s1 := memWf_countReady w
    have ws2 : MemWf s2 := ws1
    split
    · exact ws2
    · exact ws1

theorem memWf_execAgemaxReached {wave q : Nat} (w : MemWf s) : OutWf (execAgemaxReached wave q s) := by
  unfold execAgemaxReached
  split
  · exact memWf_ite w w
  · exact w

/-! ### `Machine/Pixels` -/

theorem memWf_ticketLanes {core : Nat} {xs : List (Nat × Places)} (w : MemWf s) : FstWf (ticketLanes core xs s) := by
  induction xs generalizing s with
  | nil =>
    unfold ticketLanes
    exact w
  | cons x xs ih =>
    unfold ticketLanes
    split
    next s1 _ h =>
      have w1 : MemWf s1 := memWf_of_eq h (memWf_takeTicket w)
      extract_lets t
      have wt : FstWf t := ih w1
      exact wt
    next s1 h =>
      have w1 : MemWf s1 := memWf_of_eq h (memWf_takeTicket w)
      exact w1

theorem memWf_pxtkBody {d a : BitVec 7} (w : MemWf s) : ResWf (pxtkBody d a c s) := by
  unfold pxtkBody
  refine memWf_memWord (fun s1 xs w1 => memWf_poisonRes w1 ?_) w
  extract_lets r
  have wr : FstWf r := memWf_ticketLanes w1
  exact holds_ite (memWf_issuePend wr) (holds_ite (memWf_writeLater wr) w1)

theorem memWf_pxlkBody {a b : BitVec 7} (w : MemWf s) : ResWf (pxlkBody a b c s) := by
  unfold pxlkBody
  refine memWf_memWord (fun s1 xs w1 => memWf_poisonRes w1 ?_) w
  extract_lets r
  have wr : FstWf r := memWf_atomStep w1
  exact holds_ite wr wr

theorem memWf_pxulBody {a b : BitVec 7} (w : MemWf s) : ResWf (pxulBody a b c s) := by
  unfold pxulBody
  refine memWf_releaseWord (fun s1 xs w1 => memWf_poisonRes w1 ?_) w
  extract_lets _ r
  have wr : FstWf r := memWf_atomStep (memWf_partRelease w1)
  exact wr

/-! ### `Machine/Draws` -/

theorem memWf_countEmit {kind did : Nat} (w : MemWf s) : MemWf (countEmit s c kind did) := by
  unfold countEmit
  extract_lets
  exact memWf_ite w w

theorem memWf_vemitLanes {a : BitVec 7} {kind did : Nat} {xs : List Nat} {xs1 : List (Nat × Nat)} (w : MemWf s) :
    FstWf (vemitLanes c a kind did xs s xs1) := by
  induction xs generalizing s xs1 with
  | nil =>
    unfold vemitLanes
    exact w
  | cons x xs ih =>
    unfold vemitLanes
    split
    · exact w
    · extract_lets _ _ _ _ s1
      have ws1 : MemWf s1 := w
      exact holds_ite (ih w) (ih ws1)

theorem memWf_vemitBody {d a : BitVec 7} (w : MemWf s) : ResWf (vemitBody d a c s) := by
  unfold vemitBody
  split
  · exact w
  · refine holds_ite w ?_
    extract_lets r
    have wr : FstWf r := memWf_vemitLanes w
    exact memWf_writeLater (memWf_countEmit wr)

theorem memWf_tsemitLanes {a : BitVec 7} {did : Nat} {xs : List Nat} {xs1 : List (Nat × Nat)} (w : MemWf s) :
    FstWf (tsemitLanes c a did xs s xs1) := by
  induction xs generalizing s xs1 with
  | nil =>
    unfold tsemitLanes
    exact w
  | cons x xs ih =>
    unfold tsemitLanes
    split
    · exact w
    · extract_lets
      exact holds_ite (ih w) (holds_ite (ih w) (ih w))

theorem memWf_tsemitBody {d a : BitVec 7} (w : MemWf s) : ResWf (tsemitBody d a c s) := by
  unfold tsemitBody
  split
  · exact w
  · extract_lets r
    have wr : FstWf r := memWf_tsemitLanes w
    exact memWf_writeLater wr

theorem memWf_launchDomain {did gid : Nat} (w : MemWf s) : MemWf (launchDomain did gid s) := by
  unfold launchDomain
  split
  · extract_lets
    exact w
  · exact w

theorem memWf_launchFull {did gid n : Nat} (w : MemWf s) : MemWf (launchFull did gid n s) := by
  induction n generalizing s with
  | zero =>
    unfold launchFull
    exact w
  | succ n ih =>
    unfold launchFull
    split
    · exact memWf_ite (ih (memWf_launchDomain w)) w
    · exact w

theorem memWf_execTessellate {draw : Nat} (w : MemWf s) : OutWf (execTessellate draw s) := by
  unfold execTessellate
  split
  · exact w
  · split
    · exact w
    · refine memWf_ite w ?_
      split
      · extract_lets
        exact memWf_launchFull w
      · exact memWf_ite (memWf_launchDomain w) w

theorem memWf_releaseAll {did n : Nat} (w : MemWf s) : MemWf (releaseAll did n s) := by
  induction n generalizing s with
  | zero =>
    unfold releaseAll
    exact w
  | succ n ih =>
    unfold releaseAll
    split
    · exact memWf_ite (ih w) w
    · exact w

theorem memWf_execPrimitiveRelease {draw : Nat} (w : MemWf s) : OutWf (execPrimitiveRelease draw s) := by
  unfold execPrimitiveRelease
  split
  · exact memWf_releaseAll w
  · exact w

theorem memWf_execRasterLaunch {draw tile : Nat} (w : MemWf s) : OutWf (execRasterLaunch draw tile s) := by
  unfold execRasterLaunch
  split
  · exact w
  · refine memWf_ite ?_ w
    extract_lets
    exact memWf_ite w w

theorem memWf_vendorJob {did : Nat} {d : Draw} {tile : Nat} {x : PixJob} {rest : List PixJob} (w : MemWf s) :
    MemWf (vendorJob did d tile x rest s) := by
  unfold vendorJob
  extract_lets
  refine memWf_ite w ?_
  split
  · exact w
  next s1 _ h =>
    have w1 : MemWf s1 := memWf_readFor w _ h
    refine memWf_ite w ?_
    split
    · exact w1
    next s2 h1 =>
      have w2 : MemWf s2 := memWf_writeFor w1 _ h1
      extract_lets s3
      have ws3 : MemWf s3 := memWf_enqStep w2
      exact ws3

theorem memWf_vendorStep {did : Nat} (w : MemWf s) : MemWf (vendorStep did s) := by
  unfold vendorStep
  split
  · exact w
  · refine memWf_ite w (memWf_foldl (fun s1 x1 w1 => ?_) w)
    split
    · exact w1
    · exact memWf_vendorJob w1

theorem memWf_drawRecord {q : Nat} {p : Packet} {a : Nat} (w : MemWf s) : Yields FstWf (drawRecord q p a s) := by
  unfold drawRecord
  refine yields_bind (memWf_recordAt w) (fun x1 w1 => ?_)
  split
  next s1 _ h =>
    have w2 : MemWf s1 := (congrArg SubWf h).mp (memWf_submitRec w1)
    exact yields_some w2
  · exact yields_none

theorem memWf_deviceRecord {q : Nat} {p : Packet} {a : Nat} (w : MemWf s) : Yields FstWf (deviceRecord q p a s) := by
  unfold deviceRecord
  refine yields_bind (memWf_drawRecord w) (fun x1 w1 => ?_)
  extract_lets
  exact holds_ite (yields_some w1) yields_none

theorem memWf_drawGrids {q : Nat} {p : Packet} (w : MemWf s) : Yields FstWf (drawGrids q p s) := by
  unfold drawGrids
  extract_lets
  refine yields_bind (memWf_drawRecord w) (fun x1 w1 => ?_)
  extract_lets dom
  have wdom : Yields FstWf dom := holds_ite (yields_some w1) (yields_map (memWf_deviceRecord w1) (fun _ w2 => w2))
  refine yields_bind wdom (fun x2 w2 => ?_)
  extract_lets rast
  have wrast : Yields FstWf rast := holds_ite (yields_some w2) (memWf_deviceRecord w2)
  exact yields_map wrast (fun _ w3 => w3)

theorem memWf_pixqOk {q a ctx : Nat} (w : MemWf s) : Yields MemWf (pixqOk q a ctx s) :=
  yields_bind (memWf_packetRead w) (fun _ w1 => holds_ite (yields_some w1) yields_none)

theorem memWf_drawParts {q : Nat} {p : Packet} (w : MemWf s) : Yields FstWf (drawParts q p s) :=
  yields_bind (memWf_packetRead w) (fun _ w1 => yields_bind_of (fun _ => yields_bind (memWf_drawGrids w1)
      (fun _ w2 => yields_map (memWf_pixqOk w2) (fun _ w3 => w3))))

theorem memWf_admitDevice {g : Grid} {time : Nat} (w : MemWf s) : Returns FstWf (admitDevice g time s) := by
  unfold admitDevice
  split
  · exact returns_error
  next s1 _ h =>
    have w1 : MemWf s1 := memWf_admitGrid w _ h
    exact returns_ok w1

theorem memWf_admitDraw {did time pixq : Nat} {geom : Grid} {dom : Option Grid} {rast : Grid} (w : MemWf s) :
    Returns FstWf (admitDraw did time pixq geom dom rast s) := by
  unfold admitDraw
  extract_lets
  split
  · exact returns_error
  next s1 _ h =>
    have w1 : MemWf s1 := memWf_admitGrid w _ h
    extract_lets m
    have wm : Returns FstWf m := by
      unfold m
      split
      · exact returns_ok w1
      · split
        · exact returns_error
        next s2 _ h1 =>
          have w2 : MemWf s2 := memWf_admitDevice w1 _ h1
          exact returns_ok w2
    clear_value m
    split
    · exact returns_error
    next d _ =>
      have w2 : MemWf d := wm _ rfl
      split
      · exact returns_error
      next s3 _ h2 =>
        have w3 : MemWf s3 := memWf_admitDevice w2 _ h2
        exact returns_ok w3

theorem memWf_startDraw {q : Nat} {p : Packet} (w : MemWf s) : MemWf (startDraw q p s) := by
  unfold startDraw
  split
  · exact memWf_donePacket w
  next s1 geom dom rast rt h =>
    have w1 : MemWf s1 := memWf_drawParts w _ h
    have wn : MemWf { s1 with nextId := s1.nextId + 1 } := w1
    extract_lets
    split
    · exact memWf_donePacket w1
    next s2 gid dg rg h1 =>
      have w2 : MemWf s2 := memWf_admitDraw wn _ h1
      exact w2

theorem memWf_sweepDraw {did : Nat} {d : Draw} (w : MemWf s) : MemWf (sweepDraw did d s) := by
  unfold sweepDraw
  extract_lets _ _ s1 s2
  have ws1 : MemWf s1 := w
  have ws2 : MemWf s2 := memWf_foldl (fun _ _ w1 => w1) ws1
  exact memWf_foldl (fun _ _ w1 => memWf_terminateWave w1) ws2

theorem memWf_clearOrder {d : Draw} (w : MemWf s) : MemWf (clearOrder d s) :=
  memWf_foldl (fun _ _ w1 => holds_getD (memWf_writeFor w1) w1) w

theorem memWf_closeGrids {did : Nat} (w : MemWf s) : MemWf (closeGrids did s) := by
  unfold closeGrids
  split
  · exact w
  · extract_lets close _ s1
    have wclose : ∀ (gid : Nat) (s : State), MemWf s → MemWf (close gid s) := fun _ _ w1 => w1
    have ws1 : MemWf s1 := by
      unfold s1
      split
      · exact memWf_ite (wclose _ _ w) w
      · exact w
    exact memWf_ite (wclose _ _ ws1) ws1

theorem memWf_finishDraw {did : Nat} (w : MemWf s) : MemWf (finishDraw did s) := by
  unfold finishDraw
  split
  · exact w
  · refine memWf_ite ?_ w
    extract_lets _ s1
    have ws1 : MemWf s1 := memWf_ite (memWf_clearOrder w) w
    exact memWf_donePacket ws1

theorem memWf_advanceDraw {did : Nat} (w : MemWf s) : MemWf (advanceDraw s did) := by
  unfold advanceDraw
  split
  · exact w
  · extract_lets s1 s2
    have ws1 : MemWf s1 := memWf_ite w w
    have ws2 : MemWf s2 := by
      unfold s2
      split
      · exact memWf_ite (memWf_sweepDraw ws1) (memWf_vendorStep ws1)
      · exact ws1
    exact memWf_finishDraw (memWf_closeGrids ws2)

theorem memWf_advanceDraws (w : MemWf s) : MemWf (advanceDraws s) :=
  memWf_foldl (fun _ _ w1 => memWf_advanceDraw w1) w

/-! ### `Machine/Hierarchies` -/

theorem memWf_bind {x x1 : Type} {x2 : Trav x} {f : State → x → Trav x1} (wx2 : TravWf x2) (hf : ∀ s x, MemWf s → TravWf (f s x)) :
    TravWf (x2.bind f) := by
  unfold Trav.bind
  split
  · exact hf _ _ wx2
  · exact wx2
  · exact wx2
  · exact wx2
  · trivial

theorem memWf_travRange {o : Owner} {a : Acc} {ea n : Nat} (w : MemWf s) : TravWf (travRange o a ea n s) := by
  unfold travRange
  refine holds_ite w ?_
  split
  · exact w
  · split
    next s1 _ h1 =>
      have w1 : MemWf s1 := memWf_of_eq h1 (memWf_resolveLane w)
      split
      · exact w1
      · trivial
      · exact w1
      · exact w1

theorem memWf_travRead {o : Owner} {ea n : Nat} (w : MemWf s) : TravWf (travRead o ea n s) :=
  memWf_bind (memWf_travRange w) (fun _ _ w1 => w1)

theorem memWf_travWrite {o : Owner} {ea : Nat} {bs : List Byte} (w : MemWf s) : TravWf (travWrite o ea bs s) :=
  memWf_bind (memWf_travRange w) (fun _ _ w1 => memWf_foldl (fun _ _ w2 => memWf_writePieceAt w2) w1)

theorem memWf_travNode {o : Owner} {base n : Nat} (w : MemWf s) : TravWf (travNode o base n s) :=
  memWf_bind (memWf_travRead w) (fun _ _ w1 => holds_ite w1 w1)

theorem memWf_travLeaf {o : Owner} {base n : Nat} (w : MemWf s) : TravWf (travLeaf o base n s) :=
  memWf_travRead w

theorem memWf_entBox {t : Xpair} {side : Bool} {pn slot : Nat} (w : MemWf s) : TravWf (entBox t side pn slot s) :=
  holds_ite w (memWf_bind (memWf_travNode w) (fun _ _ w1 => w1))

theorem memWf_candidates {t : Xpair} {side : Bool} {ref pn slot : Nat} (w : MemWf s) : TravWf (candidates t side ref pn slot s) :=
  holds_ite (memWf_bind (memWf_entBox w) (fun _ _ w1 => w1)) (memWf_bind (memWf_travNode w) (fun _ _ w1 => w1))

theorem memWf_canonical {t : Xpair} {side : Bool} {leaf : List Byte} {pn slot : Nat} (w : MemWf s) : TravWf (canonical t side leaf pn slot s) :=
  holds_ite w (memWf_bind (memWf_travNode w) (fun _ _ w1 => w1))

theorem memWf_testLeaves {t : Xpair} {e : PairEnt} {y : Nat} {lx ly : List Byte} (w : MemWf s) : TravWf (testLeaves t e y lx ly s) :=
  holds_ite w (holds_ite w (memWf_bind (memWf_canonical w) (fun _ _ w1 => memWf_bind (holds_ite w1 (memWf_canonical w1)) (fun _ _ w2 => w2))))

theorem memWf_writeCont {t : Xpair} (w : MemWf s) : TravWf (writeCont t s) :=
  memWf_travWrite w

theorem memWf_clearCont {t : Xpair} (w : MemWf s) : TravWf (clearCont t s) :=
  memWf_bind (memWf_travWrite w) (fun _ _ w1 => memWf_travWrite w1)

theorem memWf_emitPair {t : Xpair} {i j : Nat} {canon : Bool} {next again : List PairEnt} (w : MemWf s) :
    TravWf (emitPair t i j canon next again s) := by
  unfold emitPair
  split
  · exact w
  · extract_lets r
    have wr : FstWf r := memWf_enqStep w
    exact holds_ite wr (holds_ite (memWf_bind (memWf_writeCont wr) (fun _ _ w1 => w1)) wr)

theorem memWf_walkLeaves {t : Xpair} {e : PairEnt} {rest : List PairEnt} (w : MemWf s) : TravWf (walkLeaves t e rest s) := by
  unfold walkLeaves
  refine memWf_bind (memWf_travLeaf w) (fun s1 xs w1 => memWf_bind (memWf_travLeaf w1)
    (fun s2 xs1 w2 => memWf_bind (memWf_testLeaves w2) (fun s3 x w3 => ?_)))
  split
  · exact w3
  · exact memWf_emitPair w3

theorem memWf_walkSweep {t : Xpair} {e : PairEnt} {rest : List PairEnt} (w : MemWf s) : TravWf (walkSweep t e rest s) := by
  unfold walkSweep
  refine holds_ite w (memWf_bind (memWf_travLeaf w) (fun s1 xs w1 => memWf_bind (memWf_travLeaf w1) (fun s2 xs1 w2 => holds_ite w2 ?_)))
  extract_lets
  refine memWf_bind (memWf_testLeaves w2) (fun s3 x w3 => ?_)
  split
  · exact w3
  · exact memWf_emitPair w3

theorem memWf_walkNodes {t : Xpair} {e : PairEnt} {rest : List PairEnt} (w : MemWf s) : TravWf (walkNodes t e rest s) := by
  unfold walkNodes
  refine memWf_bind (memWf_candidates w) (fun s1 xs w1 => holds_ite w1 (memWf_bind (memWf_candidates w1) (fun s2 xs1 w2 => ?_)))
  extract_lets
  exact w2

theorem memWf_walkOne {t : Xpair} (w : MemWf s) : TravWf (walkOne t s) := by
  unfold walkOne
  split
  · exact memWf_bind (memWf_clearCont w) (fun _ _ w1 => w1)
  · exact holds_ite (memWf_walkNodes w) (holds_ite (memWf_walkSweep w) (holds_ite (memWf_walkLeaves w) (memWf_walkNodes w)))

theorem memWf_startPairs {t : Xpair} (w : MemWf s) : TravWf (startPairs t s) := by
  unfold startPairs
  extract_lets
  exact holds_ite w (holds_ite (memWf_bind (memWf_travRead w) (fun _ _ w1 => holds_ite (memWf_bind (memWf_travRead w1) (fun _ _ w2 => w2)) w1)) w)

theorem memWf_walkPairs {n : Nat} {x : Xpair} (w : MemWf s) : TravWf (walkPairs n x s) := by
  induction n generalizing x s with
  | zero =>
    unfold walkPairs
    exact w
  | succ n ih =>
    unfold walkPairs
    split
    next s' _ h =>
      have w1 : MemWf s' := (congrArg TravWf h).mp (memWf_walkOne w)
      exact holds_ite w1 (ih w1)
    next s1 _ h =>
      have w1 : MemWf s1 := (congrArg TravWf h).mp (memWf_walkOne w)
      exact w1
    next s1 h =>
      have w1 : MemWf s1 := (congrArg TravWf h).mp (memWf_walkOne w)
      exact w1
    next s1 _ h =>
      have w1 : MemWf s1 := (congrArg TravWf h).mp (memWf_walkOne w)
      exact w1
    · trivial

theorem memWf_stepPairs {t : Xpair} (w : MemWf s) : TravWf (stepPairs t s) := by
  unfold stepPairs
  refine holds_ite (memWf_walkPairs w) ?_
  split
  next s1 _ h =>
    have w1 : MemWf s1 := (congrArg TravWf h).mp (memWf_startPairs w)
    exact w1
  · exact memWf_startPairs w

theorem memWf_scrambleCont {t : Xpair} (w : MemWf s) : MemWf (scrambleCont t s) := by
  unfold scrambleCont
  extract_lets
  split
  next s1 _ h =>
    have w1 : MemWf s1 := (congrArg TravWf h).mp (memWf_travWrite w)
    exact w1
  · exact w

theorem memWf_travStop {o : Owner} {ls : List (Nat × Stalled)} (w : MemWf s) : FstWf (travStop o ls s) := by
  unfold travStop
  extract_lets r
  have wr : FstWf r := by
    unfold r
    refine fstWf_foldl (fun r1 x1 w1 => ?_) w
    extract_lets t
    have wt : FstWf t := memWf_addFault w1
    exact wt
  exact memWf_writeRecords wr

theorem memWf_yieldStep {t : Xpair} (w : MemWf s) : TravWf (yieldStep t s) :=
  memWf_bind (holds_ite w (memWf_startPairs w)) (fun _ _ w1 => holds_ite w1 (memWf_bind (memWf_writeCont w1) (fun _ _ w2 => w2)))

theorem memWf_yieldPairs {id : Nat} {t : Xpair} (w : MemWf s) : OutWf (yieldPairs id t s) := by
  unfold yieldPairs
  split
  next s1 _ h =>
    have w1 : MemWf s1 := (congrArg TravWf h).mp (memWf_yieldStep w)
    exact w1
  next s1 _ h =>
    have w1 : MemWf s1 := (congrArg TravWf h).mp (memWf_yieldStep w)
    extract_lets r
    have wr : FstWf r := memWf_travStop w1
    exact wr
  · trivial
  next s1 _ h =>
    have w1 : MemWf s1 := (congrArg TravWf h).mp (memWf_yieldStep w)
    exact memWf_scrambleCont w1
  next s1 h =>
    have w1 : MemWf s1 := (congrArg TravWf h).mp (memWf_yieldStep w)
    exact w1

theorem memWf_execXpairEmit {id : Nat} (w : MemWf s) : OutWf (execXpairEmit id s) := by
  unfold execXpairEmit
  split
  · exact w
  · refine holds_ite (memWf_scrambleCont w) (holds_ite w (holds_ite (memWf_yieldPairs w) (holds_ite w ?_)))
    split
    next s1 _ h1 =>
      have w1 : MemWf s1 := (congrArg TravWf h1).mp (memWf_stepPairs w)
      exact w1
    next s1 _ h1 =>
      have w1 : MemWf s1 := (congrArg TravWf h1).mp (memWf_stepPairs w)
      extract_lets r
      have wr : FstWf r := memWf_travStop w1
      exact wr
    next s1 _ h1 =>
      have w1 : MemWf s1 := (congrArg TravWf h1).mp (memWf_stepPairs w)
      exact w1
    next s1 h1 =>
      have w1 : MemWf s1 := (congrArg TravWf h1).mp (memWf_stepPairs w)
      exact w1
    · trivial

theorem memWf_execXpairComplete {id : Nat} (w : MemWf s) : OutWf (execXpairComplete id s) := by
  unfold execXpairComplete
  split
  · exact w
  · split
    · exact w
    · extract_lets
      exact w

theorem memWf_xpairBody {d a : BitVec 7} {la : BitVec 4} {t : Ctx → State → Xpair} (w : MemWf s) : ResWf (xpairBody d a la t c s) := by
  unfold xpairBody
  extract_lets _ _ s1
  have ws1 : MemWf s1 := memWf_partRelease w
  refine holds_ite w ?_
  split
  · exact w
  · exact holds_ite trivial (memWf_afterTakes ws1)

theorem memWf_execXpair {d a : BitVec 7} {w r c s_ : BitVec 1} {l : BitVec 4} (ws : MemWf s) : OutWf (execXpair z d a w r c s_ l s) :=
  memWf_issueWord (fun _ _ w1 => memWf_idleWord w1) (fun _ _ w1 => memWf_xpairBody w1) ws

theorem memWf_rayLeaf {x : Xray} {y : RayLane} {leaf : Nat} {b : List Byte} (w : MemWf s) : RayWf (rayLeaf x y leaf b s) := by
  unfold rayLeaf
  extract_lets
  split
  · exact w
  · extract_lets
    exact holds_ite w w

theorem memWf_rayRead {x : Type} {y : RayLane} {r : Trav x} {k : State → x → RayRes} (wr : TravWf r) (hk : ∀ s x, MemWf s → RayWf (k s x)) :
    RayWf (rayRead y r k) := by
  unfold rayRead
  split
  · exact hk _ _ wr
  · exact wr
  · exact wr
  · exact wr
  · trivial

theorem memWf_rayOne {x : Xray} {y : RayLane} (w : MemWf s) : RayWf (rayOne x y s) := by
  unfold rayOne
  split
  · exact w
  · extract_lets
    refine holds_ite (memWf_rayRead (memWf_travLeaf w) (fun _ _ w1 => memWf_rayLeaf w1)) (memWf_rayRead (memWf_travNode w) (fun s1 xs w1 => ?_))
    extract_lets
    exact holds_ite w1 w1

theorem memWf_rayWalk {x : Xray} {n : Nat} {x1 : RayLane} (w : MemWf s) : RayWf (rayWalk x n x1 s) := by
  induction n generalizing x1 s with
  | zero =>
    unfold rayWalk
    exact w
  | succ n ih =>
    unfold rayWalk
    split
    next s1 _ h =>
      have w1 : MemWf s1 := (congrArg RayWf h).mp (memWf_rayOne w)
      exact ih w1
    · exact memWf_rayOne w

theorem memWf_putRay {id lane : Nat} {y : Option RayLane} (w : MemWf s) : MemWf (putRay id lane y s) := by
  unfold putRay
  split
  · exact w
  · extract_lets
    exact memWf_ite w w

theorem memWf_finishRay {id lane : Nat} {ws : List Word} {key : Nat} (w : MemWf s) : MemWf (finishRay id lane ws key s) :=
  memWf_putRay w

theorem memWf_execXrayComplete {id lane : Nat} (w : MemWf s) : OutWf (execXrayComplete id lane s) := by
  unfold execXrayComplete
  split
  · exact w
  · split
    · exact w
    · refine holds_ite ?_ w
      split
      next s1 _ h2 =>
        have w1 : MemWf s1 := (congrArg RayWf h2).mp (memWf_rayWalk w)
        exact memWf_putRay w1
      next s1 _ _ _ h2 =>
        have w1 : MemWf s1 := (congrArg RayWf h2).mp (memWf_rayWalk w)
        exact memWf_finishRay w1
      next s1 _ h2 =>
        have w1 : MemWf s1 := (congrArg RayWf h2).mp (memWf_rayWalk w)
        extract_lets r
        have wr : FstWf r := memWf_travStop w1
        exact memWf_putRay wr
      · trivial

theorem memWf_xrayBody {d a : BitVec 7} {any cull : Bool} {la : BitVec 4} (w : MemWf s) : ResWf (xrayBody d a any cull la c s) := by
  unfold xrayBody
  refine holds_ite w ?_
  split
  · exact w
  · refine holds_ite trivial ?_
    extract_lets s1
    have ws1 : MemWf s1 := memWf_partRelease w
    exact memWf_afterTakes ws1

/-! ### `Machine/Images` -/

theorem memWf_texBody {op : Nat} {d a : BitVec 7} {slot la : BitVec 4} (w : MemWf s) : ResWf (texBody op d a slot la c s) := by
  unfold texBody
  split
  · exact w
  · exact memWf_memWord (fun _ _ w1 => memWf_poisonRes w1 (memWf_memWord (fun _ _ w2 => memWf_poisonRes w2 (memWf_writeLater (memWf_sampled w2)))
      w1)) w

theorem memWf_execTex {op : Nat} {d a : BitVec 7} {slot la : BitVec 4} (w : MemWf s) : OutWf (execTex op z d a slot la s) :=
  memWf_issueWord (fun _ _ w1 => memWf_idleWord w1) (fun _ _ w1 => memWf_texBody w1) w

theorem memWf_execTexSample {d a : BitVec 7} {s l : BitVec 4} {st : State} (wst : MemWf st) : OutWf (execTexSample z d a s l st) :=
  memWf_execTex wst

theorem memWf_execTexGath4 {d a : BitVec 7} {s l : BitVec 4} {st : State} (wst : MemWf st) : OutWf (execTexGath4 z d a s l st) :=
  memWf_execTex wst

theorem memWf_execTexLoadi {d a : BitVec 7} {s l : BitVec 4} {st : State} (wst : MemWf st) : OutWf (execTexLoadi z d a s l st) :=
  memWf_execTex wst

theorem memWf_execTexQuery {d a : BitVec 7} {s l : BitVec 4} {st : State} (wst : MemWf st) : OutWf (execTexQuery z d a s l st) :=
  memWf_execTex wst

/-! ### `Machine/Wake` -/

theorem memWf_settleEngines (w : MemWf s) : MemWf (settleEngines s) :=
  memWf_admitCopies w

theorem memWf_settle (w : MemWf s) : MemWf (settle s) := by
  unfold settle
  extract_lets s1 s2
  have ws1 : MemWf s1 := memWf_advanceDraws (memWf_settleEngines w)
  have ws2 : MemWf s2 := memWf_foldl (fun _ _ w1 => memWf_takePreempt w1) ws1
  exact ws2

/-! ### `Machine/Session` -/

theorem memWf_recordCounters {p ctx : Nat} {x : Session} (w : MemWf s) : MemWf (recordCounters p ctx x s) :=
  memWf_foldl (fun _ _ w1 => memWf_rawWrite w1) w

theorem memWf_restorePages {p ctx : Nat} {x : Session} (w : MemWf s) : MemWf (restorePages p ctx x s) :=
  memWf_foldl (fun _ _ w1 => memWf_rawWrite w1) w

theorem memWf_nextPass {gid : Nat} {g : Grid} {x : Session} (w : MemWf s) : MemWf (nextPass gid g x s) := by
  unfold nextPass
  extract_lets s1 s2
  have ws1 : MemWf s1 := memWf_restorePages w
  have ws2 : MemWf s2 := memWf_foldl (fun _ _ w1 => w1) ws1
  exact ws2

theorem memWf_endPass {gid : Nat} {g : Grid} {x : Session} (w : MemWf s) : MemWf (endPass gid g x s) := by
  unfold endPass
  extract_lets _ s1 _ _ s2
  have ws1 : MemWf s1 := memWf_recordCounters (memWf_performGrid w)
  have ws2 : MemWf s2 := memWf_rawWrite ws1
  exact memWf_ite ws2 (memWf_nextPass ws2)

theorem memWf_execReplayPass {grid : Nat} (w : MemWf s) : OutWf (execReplayPass grid s) := by
  unfold execReplayPass
  split
  · exact w
  · refine memWf_ite ?_ w
    extract_lets s1
    have ws1 : MemWf s1 := memWf_ite w (memWf_flushAll w)
    split
    · exact ws1
    · split
      · exact memWf_ite (memWf_endPass ws1) ws1
      · exact ws1

theorem memWf_execTraceSummaryTimer {wave : Nat} (w : MemWf s) : OutWf (execTraceSummaryTimer wave s) := by
  unfold execTraceSummaryTimer
  split
  · exact w
  · exact memWf_ite (memWf_traceSummary w) w

theorem memWf_noteScrub {core : Nat} (w : MemWf s) : MemWf (noteScrub core s) :=
  memWf_ite w w

theorem memWf_execScrubPass {wave reg lane found : Nat} (w : MemWf s) : OutWf (execScrubPass wave reg lane found s) := by
  unfold execScrubPass
  split
  · exact w
  · exact memWf_ite w (memWf_ite (memWf_noteScrub w) w)

/-! ### `Machine/Mailbox` -/

theorem memWf_finishMbox {r : MbRes} (wr : Returns FstWf r) (w : MemWf s) : MemWf (finishMbox r s) := by
  unfold finishMbox
  split
  next out _ =>
    have w1 : MemWf out := wr _ rfl
    exact memWf_ite w1 w1
  · exact w

theorem memWf_finishDbox {r : MbRes} (wr : Returns FstWf r) (w : MemWf s) : MemWf (finishDbox r s) := by
  unfold finishDbox
  split
  next out _ =>
    have w1 : MemWf out := wr _ rfl
    exact w1
  · exact w

theorem memWf_mgmtCommand {fw : Bool} {okArg : Nat → Bool} {f : Nat → State → MbRes} {arg : Nat} (hf : ∀ n s, MemWf s → Returns FstWf (f n s))
    (w : MemWf s) : OutWf (mgmtCommand fw okArg f arg s) :=
  memWf_ite w (memWf_ite w (memWf_ite (memWf_finishMbox returns_error w)
      (memWf_ite (memWf_finishMbox returns_error w) (memWf_finishMbox (hf _ _ w) w))))

theorem memWf_debugCommand {scope : Nat} {f : Nat → State → MbRes} {arg : Nat} (hf : ∀ n s, MemWf s → Returns FstWf (f n s)) (w : MemWf s) :
    OutWf (debugCommand scope f arg s) :=
  memWf_ite w (memWf_ite w (memWf_ite (memWf_finishDbox returns_error w)
      (memWf_ite (memWf_finishDbox returns_error w) (memWf_finishDbox (hf _ _ w) w))))

/-! ### `Machine/Debug` -/

theorem memWf_onStopped {f : Wave → State → MbRes} (hf : ∀ x s, MemWf s → Returns FstWf (f x s)) (w : MemWf s) : Returns FstWf (onStopped f s) := by
  unfold onStopped
  split
  · exact returns_error
  · exact holds_ite (hf _ _ w) returns_error

theorem memWf_onPart {f : Wave → Part → State → MbRes} (hf : ∀ x x1 s, MemWf s → Returns FstWf (f x x1 s)) (w : MemWf s) :
    Returns FstWf (onPart f s) := by
  unfold onPart
  refine memWf_onStopped (fun x s1 w1 => ?_) w
  split
  · exact returns_error
  · exact hf _ _ _ w1

theorem memWf_onReg {f : Wave → Part → DbgReg → State → MbRes} (hf : ∀ x x1 x2 s, MemWf s → Returns FstWf (f x x1 x2 s)) (w : MemWf s) :
    Returns FstWf (onReg f s) := by
  unfold onReg
  refine memWf_onPart (fun x x1 s1 w1 => ?_) w
  split
  · exact returns_error
  · exact hf _ _ _ _ w1

theorem memWf_stopByCommand {key : Nat} (w : MemWf s) : Returns FstWf (stopByCommand key s) := by
  unfold stopByCommand
  split
  · exact returns_error
  · exact holds_ite (returns_ok w) (holds_ite (returns_ok w) (returns_ok (memWf_stopWave w)))

theorem memWf_reWait {w : Wave} {p : Part} (ws : MemWf s) : MemWf (reWait s w p) := by
  unfold reWait
  split
  · extract_lets
    exact memWf_ite (memWf_fuseNow ws) (memWf_fuseNow ws)
  · exact ws
  · exact ws

theorem memWf_deliverPreempt {w : Wave} {p : Part} (ws : MemWf s) : MemWf (deliverPreempt w p s) :=
  memWf_ite (memWf_takePreempt ws) ws

theorem memWf_stepPart {w : Wave} {p : Part} (ws : MemWf s) : Returns FstWf (stepPart w p s) := by
  unfold stepPart
  extract_lets s1
  have ws1 : MemWf s1 := memWf_deliverPreempt ws
  split
  · extract_lets s2
    have ws2 : MemWf s2 := memWf_ite ws1 (memWf_reWait ws1)
    split
    · exact holds_ite (returns_ok ws2) (returns_ok (memWf_stopWave ws2))
    · exact returns_ok ws2
  · exact returns_ok ws1

theorem memWf_dbgWrite {w : Wave} {p : Part} {r : DbgReg} (ws : MemWf s) : Returns FstWf (dbgWrite w p r s) := by
  unfold dbgWrite
  extract_lets _ one
  split
  · exact returns_ok ws
  · refine returns_ok ?_
    clear_value one
    split <;> exact ws
  · refine returns_ok ?_
    clear_value one
    split <;> exact ws
  · refine holds_ite returns_error (holds_ite (returns_ok ws) (returns_ok ?_))
    clear_value one
    split
    · exact ws
    · exact memWf_ite ws ws

theorem memWf_dbgDrop {w : Wave} {p : Part} {r : DbgReg} (ws : MemWf s) : Returns FstWf (dbgDrop w p r s) := by
  unfold dbgDrop
  extract_lets
  exact returns_ok ws

theorem memWf_execBpen {arg : Nat} (w : MemWf s) : OutWf (execBpen arg s) := by
  unfold execBpen
  refine memWf_debugCommand (fun n s1 w1 => ?_) w
  split
  · exact returns_error
  · exact holds_ite (returns_ok w1) returns_error

theorem memWf_execReport {arg : Nat} (w : MemWf s) : OutWf (execReport arg s) := by
  unfold execReport
  refine memWf_debugCommand (fun n s1 w1 => ?_) w
  split
  · exact returns_error
  · exact returns_ok w1

theorem memWf_execMemrd {arg : Nat} (w : MemWf s) : OutWf (execMemrd arg s) := by
  unfold execMemrd
  refine memWf_debugCommand (fun n s1 w1 => ?_) w
  split
  · exact returns_error
  · split
    · exact returns_error
    next r h1 =>
      have w2 : FstWf r := memWf_ctlRead w1 _ h1
      exact returns_ok w2

theorem memWf_execMemwr {arg : Nat} (w : MemWf s) : OutWf (execMemwr arg s) := by
  unfold execMemwr
  refine memWf_debugCommand (fun n s1 w1 => ?_) w
  split
  · exact returns_error
  · split
    · exact returns_error
    next s2 h1 =>
      have w2 : MemWf s2 := memWf_ctlWrite w1 _ h1
      exact returns_ok w2

/-! ### `Machine/Identity` -/

theorem memWf_wipedState (w : MemWf s) : MemWf (wipedState s) := by
  obtain ⟨-, ho, hp, -⟩ := w
  obtain ⟨hh, -, -, hs⟩ := memWf_reset
  exact ⟨hh, ho, hp, hs⟩

theorem memWf_bringUp (w : MemWf s) : MemWf (bringUp s) := by
  unfold bringUp
  exact memWf_setDev _ (memWf_extendMeas (memWf_extendMeas w))

theorem memWf_fullReset {fwOk : Bool} (w : MemWf s) : MemWf (fullReset fwOk s) := by
  unfold fullReset
  extract_lets s1
  have ws1 : MemWf s1 := memWf_wipedState w
  exact memWf_ite ws1 (memWf_ite (memWf_bringUp ws1) ws1)

theorem memWf_lifecycleTo {t : Nat} (w : MemWf s) : MemWf (lifecycleTo t s) :=
  memWf_fullReset w

theorem memWf_fwloadCommand (w : MemWf s) : Returns FstWf (fwloadCommand s) := by
  unfold fwloadCommand
  extract_lets _ _ _ _ _ s1
  have ws1 : MemWf s1 := memWf_setDev _ w
  exact holds_ite returns_error (holds_ite returns_error (holds_ite (returns_ok (memWf_ite (memWf_bringUp ws1) ws1)) returns_error))

theorem memWf_attestCommand {a : Nat} (w : MemWf s) : Returns FstWf (attestCommand a s) := by
  unfold attestCommand
  extract_lets _ _ r
  have wr : FstWf r := memWf_freshSignature w
  exact holds_ite returns_error (holds_ite returns_error (returns_ok wr))

theorem memWf_execChallenge {arg : Nat} (w : MemWf s) : OutWf (execChallenge arg s) := by
  unfold execChallenge
  refine memWf_mgmtCommand (fun n s1 w1 => ?_) w
  extract_lets _ _ s2
  have ws2 : MemWf s2 := w1
  exact returns_ok ws2

theorem memWf_endEveryGrid (w : MemWf s) : MemWf (endEveryGrid s) :=
  memWf_foldl (fun _ _ w1 => memWf_ite (memWf_resultToAll w1) w1) w

theorem memWf_unlockDevice (w : MemWf s) : MemWf (unlockDevice s) := by
  have wl : MemWf (lifecycleTo 3 (endEveryGrid s)) := memWf_lifecycleTo (memWf_endEveryGrid w)
  exact memWf_setDev _ (memWf_extendMeas wl)

/-! ### `Machine/Platform` -/

theorem memWf_execSetpriv {arg : Nat} (w : MemWf s) : OutWf (execSetpriv arg s) := by
  unfold execSetpriv
  refine memWf_mgmtCommand (fun n s1 w1 => ?_) w
  extract_lets
  exact holds_ite (returns_ok w1) returns_error

theorem memWf_execPartdef {arg : Nat} (w : MemWf s) : OutWf (execPartdef arg s) := by
  unfold execPartdef
  refine memWf_mgmtCommand (fun n s1 w1 => ?_) w
  split
  · exact returns_error
  · exact holds_ite returns_error (holds_ite returns_error (returns_ok w1))

theorem memWf_execPartundef {arg : Nat} (w : MemWf s) : OutWf (execPartundef arg s) := by
  unfold execPartundef
  refine memWf_mgmtCommand (fun n s1 w1 => holds_ite returns_error (holds_ite returns_error ?_)) w
  extract_lets
  exact returns_ok w1

theorem memWf_execCtxdef {arg : Nat} (w : MemWf s) : OutWf (execCtxdef arg s) := by
  unfold execCtxdef
  refine memWf_mgmtCommand (fun n s1 w1 => ?_) w
  extract_lets
  exact holds_ite returns_error (holds_ite returns_error (returns_ok w1))

theorem memWf_execCtxundef {arg : Nat} (w : MemWf s) : OutWf (execCtxundef arg s) := by
  unfold execCtxundef
  refine memWf_mgmtCommand (fun n s1 w1 => ?_) w
  extract_lets
  exact holds_ite returns_error (holds_ite returns_error (holds_ite returns_error (returns_ok (memWf_endContext w1))))

theorem memWf_svcreq {cause : Nat} (w : MemWf s) : MemWf (svcreq cause s) := by
  unfold svcreq
  extract_lets _ s1
  have ws1 : MemWf s1 := w
  exact memWf_postEvent _ _ _ ws1

theorem memWf_execCoreThermalTrip {core temp : Nat} (w : MemWf s) : OutWf (execCoreThermalTrip core temp s) := by
  unfold execCoreThermalTrip
  exact memWf_ite w w

theorem memWf_execCoreThermalRecover {core temp : Nat} (w : MemWf s) : OutWf (execCoreThermalRecover core temp s) := by
  unfold execCoreThermalRecover
  exact memWf_ite w w

theorem memWf_evictWg {id : Nat} (w : MemWf s) : MemWf (evictWg id s) := by
  unfold evictWg
  split
  · exact w
  · exact memWf_ite (memWf_parkWg (memWf_haltWg w)) (memWf_haltWg w)

theorem memWf_retireCore {core : Nat} (w : MemWf s) : MemWf (retireCore core s) := by
  unfold retireCore
  extract_lets
  exact memWf_ite (memWf_foldl (fun _ _ w1 => memWf_evictWg w1) w) (memWf_ite (memWf_foldl (fun _ _ w1 => memWf_evictWg w1) w)
    (memWf_svcreq (memWf_foldl (fun _ _ w1 => memWf_evictWg w1) w)))

theorem memWf_execCoreRetire {core cause : Nat} (w : MemWf s) : OutWf (execCoreRetire core cause s) := by
  unfold execCoreRetire
  extract_lets
  exact memWf_ite w (memWf_ite w (memWf_retireCore w))

theorem memWf_execPseudoChannelFail {stack ch : Nat} (w : MemWf s) : OutWf (execPseudoChannelFail stack ch s) := by
  unfold execPseudoChannelFail
  extract_lets
  exact memWf_ite w (memWf_ite (memWf_svcreq w) w)

theorem memWf_execPowerWindow {p watts : Nat} (w : MemWf s) : OutWf (execPowerWindow p watts s) := by
  unfold execPowerWindow
  split
  · exact w
  · extract_lets
    exact memWf_ite (memWf_ite w w) (memWf_ite w w)

theorem memWf_losePeer {d : Nat} (w : MemWf s) : MemWf (losePeer s d) :=
  memWf_foldl (fun _ _ w1 => memWf_astpAnswer w1) w

theorem memWf_countDown {k : Nat} (w : MemWf s) : MemWf (countDown k s) :=
  memWf_ite w w

/-! ### `Machine/Backing` -/

theorem memWf_homeWrite {w : Wave} {k : Nat} {x : Word} (ws : MemWf s) : Yields MemWf (homeWrite w k x s) := by
  unfold homeWrite
  split
  next s1 _ _ _ _ h =>
    have w1 : MemWf s1 := memWf_of_eq h (memWf_xlate ws)
    exact yields_some (memWf_physWrite _ _ _ _ _ w1)
  · exact yields_none

theorem memWf_syncCell {old : Option Wave} {w : Wave} {ws : List (Mem × Nat × Nat)} {r : State × Bool} {k : Nat} (wr : FstWf r) :
    FstWf (syncCell old w ws r k) := by
  unfold syncCell
  extract_lets _ _ s
  have ws1 : MemWf s := wr
  refine holds_ite ?_ (holds_ite ws1 wr)
  split
  next s1 h =>
    have w1 : MemWf s1 := memWf_homeWrite ws1 _ h
    exact w1
  · exact ws1

theorem memWf_syncWave {s0 : State} {ws : List (Mem × Nat × Nat)} {w : Wave} (hs : MemWf s) : MemWf (syncWave s0 ws s w) := by
  unfold syncWave
  extract_lets _ r
  have wr : FstWf r := fstWf_foldl (fun _ _ w1 => memWf_syncCell w1) hs
  exact memWf_ite (memWf_terminateWave wr) wr

theorem memWf_syncHomes {s0 : State} (w : MemWf s) : MemWf (syncHomes s0 s) := by
  unfold syncHomes
  split
  · exact w
  · exact memWf_foldl (fun _ _ w1 => memWf_syncWave w1) w

theorem memWf_afterStep {t : State} (wt : MemWf t) : MemWf (afterStep s t) := by
  unfold afterStep
  extract_lets x
  have wx : MemWf x := memWf_syncHomes wt
  exact wx

theorem memWf_keepHomes {x : Out} (wx : OutWf x) : OutWf (keepHomes s x) := by
  unfold keepHomes
  split
  · exact memWf_afterStep wx
  · trivial
  · trivial

theorem memWf_viewHomes {key : Nat} (w : MemWf s) : MemWf (viewHomes key s) := by
  unfold viewHomes
  split
  · exact w
  · exact memWf_ite w w

/-! ### `Machine/Dispatch` -/

theorem memWf_exec {i : Instr} (w : MemWf s) : OutWf (exec i s) := by
  unfold exec
  cases i with
  | nop => exact memWf_issueWord (fun _ _ w1 => memWf_idleWord w1) (fun _ _ w1 => memWf_idleWord w1) w
  | iadd => exact memWf_execIalu w
  | isub => exact memWf_execIalu w
  | imul => exact memWf_execIalu w
  | imulh => exact memWf_execIalu w
  | imin => exact memWf_execIalu w
  | imax => exact memWf_execIalu w
  | ineg => exact memWf_execIalu w
  | iabs => exact memWf_execIalu w
  | and => exact memWf_execIalu w
  | or => exact memWf_execIalu w
  | xor => exact memWf_execIalu w
  | andn => exact memWf_execIalu w
  | shl => exact memWf_execIalu w
  | shr => exact memWf_execIalu w
  | sar => exact memWf_execIalu w
  | rot => exact memWf_execIalu w
  | clz => exact memWf_execIbit w
  | ctz => exact memWf_execIbit w
  | popc => exact memWf_execIbit w
  | brev => exact memWf_execIbit w
  | bil3 => exact memWf_execIbit w
  | bdil3 => exact memWf_execIbit w
  | bil2 => exact memWf_execIbit w
  | bdil2 => exact memWf_execIbit w
  | bfx => exact memWf_execIbit w
  | bfxs => exact memWf_execIbit w
  | bfi => exact memWf_execIbit w
  | mov => exact memWf_execIbit w
  | sel => exact memWf_execIbit w
  | perm => exact memWf_execIbit w
  | imad => exact memWf_execImadF w
  | imadh => exact memWf_execImadF w
  | idot4 => exact memWf_execImadF w
  | isad => exact memWf_execImadF w
  | icmpEq => exact memWf_execIcmp w
  | icmpNe => exact memWf_execIcmp w
  | icmpLt => exact memWf_execIcmp w
  | icmpLe => exact memWf_execIcmp w
  | icmpGt => exact memWf_execIcmp w
  | icmpGe => exact memWf_execIcmp w
  | icmpLtn => exact memWf_execIcmp w
  | icmpLen => exact memWf_execIcmp w
  | icmpGtn => exact memWf_execIcmp w
  | icmpGen => exact memWf_execIcmp w
  | icmpTstz => exact memWf_execIcmp w
  | icmpTstnz => exact memWf_execIcmp w
  | add64 => exact memWf_execAddr w
  | sub64 => exact memWf_execAddr w
  | lea1 => exact memWf_execAddr w
  | lea2 => exact memWf_execAddr w
  | lea4 => exact memWf_execAddr w
  | lea8 => exact memWf_execAddr w
  | lea16 => exact memWf_execAddr w
  | mov64 => exact memWf_execAddr w
  | shl64 => exact memWf_execAddr w
  | shr64 => exact memWf_execAddr w
  | modeEt => exact memWf_execModeField w
  | modeEt2 => exact memWf_execModeField w
  | modeRnd => exact memWf_execModeField w
  | modeSat => exact memWf_execModeField w
  | modeFtz => exact memWf_execModeField w
  | modeGuard => exact memWf_execModeField w
  | modeFreg => exact memWf_execModeField w
  | modeSpl => exact memWf_execModeField w
  | modeUtrap => exact memWf_execModeField w
  | modeWord => exact memWf_issueWord (fun _ _ w1 => holds_ite (memWf_idleReads (memWf_modeIdle w1)) w1) (fun _ _ w1 => memWf_modeWordBody w1) w
  | sread => exact memWf_issueWord (fun _ _ w1 => memWf_idleWord w1) (fun _ _ w1 => memWf_writeNat w1) w
  | swrite => exact memWf_issueWord (fun _ _ w1 => memWf_idleWord w1) (fun _ _ w1 => memWf_swriteState w1) w
  | gread => exact memWf_issueWord (fun _ _ w1 => memWf_idleWord w1) (fun _ _ w1 => memWf_writeReg w1) w
  | gwrite => exact memWf_issueWord (fun _ _ w1 => memWf_idleWord w1) (fun _ _ w1 => memWf_gopBody w1) w
  | gxchg => exact memWf_issueWord (fun _ _ w1 => memWf_idleWord w1) (fun _ _ w1 => memWf_gopBody w1) w
  | gadd => exact memWf_issueWord (fun _ _ w1 => memWf_idleWord w1) (fun _ _ w1 => memWf_gopBody w1) w
  | rgn => exact memWf_issueWord (fun _ _ w1 => memWf_idleWord w1) (fun _ _ w1 => memWf_rgnBody w1) w
  | rgnadd => exact memWf_issueWord (fun _ _ w1 => memWf_idleWord w1) (fun _ _ w1 => memWf_rgnBody w1) w
  | kx => exact memWf_issuePrefix w
  | kxw => exact memWf_issuePrefix w
  | fadd => exact memWf_execFalu w
  | fsub => exact memWf_execFalu w
  | fmul => exact memWf_execFalu w
  | fmin => exact memWf_execFalu w
  | fmax => exact memWf_execFalu w
  | fabs => exact memWf_execFalu w
  | fneg => exact memWf_execFalu w
  | fcls => exact memWf_execFalu w
  | fminm => exact memWf_execFalu w
  | fmaxm => exact memWf_execFalu w
  | frnd => exact memWf_execFalu w
  | fscl => exact memWf_execFalu w
  | fcpy => exact memWf_execFalu w
  | ffma => exact memWf_execFfmaF w
  | ffms => exact memWf_execFfmaF w
  | fnma => exact memWf_execFfmaF w
  | fcmpEq => exact memWf_execFcmp w
  | fcmpNe => exact memWf_execFcmp w
  | fcmpLt => exact memWf_execFcmp w
  | fcmpLe => exact memWf_execFcmp w
  | fcmpGt => exact memWf_execFcmp w
  | fcmpGe => exact memWf_execFcmp w
  | fcmpUn => exact memWf_execFcmp w
  | fcmpOrd => exact memWf_execFcmp w
  | cvt => exact memWf_issueWord (fun _ _ w1 => memWf_idleCost w1) (fun _ _ w1 => memWf_cvtBody w1) w
  | cvtz => exact memWf_issueWord (fun _ _ w1 => memWf_idleCost w1) (fun _ _ w1 => memWf_cvtBody w1) w
  | cvts => exact memWf_issueWord (fun _ _ w1 => memWf_idleCost w1) (fun _ _ w1 => memWf_cvtBody w1) w
  | pack2 => exact memWf_issueWord (fun _ _ w1 => memWf_idleCost w1) (fun _ _ w1 => memWf_pack2Body w1) w
  | unpk => exact memWf_issueWord (fun _ _ w1 => memWf_idleCost w1) (fun _ _ w1 => memWf_unpkBody w1) w
  | unpkh => exact memWf_issueWord (fun _ _ w1 => memWf_idleCost w1) (fun _ _ w1 => memWf_unpkBody w1) w
  | nrw => exact memWf_issueWord (fun _ _ w1 => memWf_idleCost w1) (fun _ _ w1 => memWf_nrwBody w1) w
  | wide => exact memWf_issueWord (fun _ _ w1 => memWf_idleWord w1) (fun _ _ w1 => memWf_wideBody w1) w
  | wide4 => exact memWf_issueWord (fun _ _ w1 => memWf_idleCost w1) (fun _ _ w1 => memWf_wide4Body w1) w
  | scaleof => exact memWf_issueWord (fun _ _ w1 => memWf_idleWord w1) (fun _ _ w1 => memWf_scaleofBody w1) w
  | setsc => exact memWf_issueWord (fun _ _ w1 => memWf_idleWord w1) (fun _ _ w1 => memWf_setscBody w1) w
  | shfl => exact memWf_execXlane w
  | shflx => exact memWf_execXlane w
  | shflu => exact memWf_execXlane w
  | shfld => exact memWf_execXlane w
  | bcst => exact memWf_execXlane w
  | qswz => exact memWf_execXlane w
  | ballot => exact memWf_issueWord (fun _ _ w1 => memWf_idleCost w1) (fun _ _ w1 => memWf_ballotBody w1) w
  | vote => exact memWf_issueWord (fun _ _ w1 => memWf_idleCost w1) (fun _ _ w1 => memWf_voteBody w1) w
  | redadd => exact memWf_execWred w
  | redmin => exact memWf_execWred w
  | redmax => exact memWf_execWred w
  | redand => exact memWf_execWred w
  | redor => exact memWf_execWred w
  | redxor => exact memWf_execWred w
  | scanadd => exact memWf_execWred w
  | scanaddx => exact memWf_execWred w
  | rcp => exact memWf_execSfn w
  | rsq => exact memWf_execSfn w
  | sqrt => exact memWf_execSfn w
  | exp2 => exact memWf_execSfn w
  | log2 => exact memWf_execSfn w
  | sin => exact memWf_execSfn w
  | cos => exact memWf_execSfn w
  | tanh => exact memWf_execSfn w
  | sigm => exact memWf_execSfn w
  | erf => exact memWf_execSfn w
  | silu => exact memWf_execSfn w
  | atan => exact memWf_execSfn w
  | sfnResult => exact w
  | mma => exact memWf_issueWord (fun _ _ w1 => memWf_matrixIdle w1) (fun _ _ w1 => memWf_versionStep (fun _ _ w2 => memWf_mmaAccept w2) w1) w
  | mmat => exact memWf_issueWord (fun _ _ w1 => memWf_matrixIdle w1) (fun _ _ w1 => memWf_versionStep (fun _ _ w2 => memWf_mmatAccept w2) w1) w
  | mmatSp => exact memWf_issueWord (fun _ _ w1 => memWf_matrixIdle w1) (fun _ _ w1 => memWf_versionStep (fun _ _ w2 => memWf_mmatAccept w2) w1) w
  | aclr => exact memWf_issueWord (fun _ _ w1 => memWf_matrixIdle w1) (fun _ _ w1 => memWf_versionStep (fun _ _ w2 => memWf_aclrAccept w2) w1) w
  | amovr => exact memWf_issueWord (fun _ _ w1 => memWf_matrixIdle w1) (fun _ _ w1 => memWf_versionStep (fun _ _ w2 => memWf_amovrAccept w2) w1) w
  | amovw => exact memWf_issueWord (fun _ _ w1 => memWf_matrixIdle w1) (fun _ _ w1 => memWf_versionStep (fun _ _ w2 => memWf_amovwAccept w2) w1) w
  | ascl => exact memWf_issueWord (fun _ _ w1 => memWf_matrixIdle w1) (fun _ _ w1 => memWf_versionStep (fun _ _ w2 => memWf_asclAccept w2) w1) w
  | matrixComplete => exact memWf_completeTile w
  | ld => exact memWf_issueWord (fun _ _ w1 => memWf_idleWord w1) (fun _ _ w1 => memWf_loadBody (fun _ _ _ _ _ _ w2 => memWf_loadLater w2) w1) w
  | st => exact memWf_issueWord (fun _ _ w1 => memWf_idleWord w1) (fun _ _ w1 => memWf_stBody w1) w
  | ldv => exact memWf_issueWord (fun _ _ w1 => memWf_idleWord w1) (fun _ _ w1 => memWf_loadBody (fun _ _ _ _ _ _ w2 => memWf_invLater w2) w1) w
  | ldx => exact memWf_issueWord (fun _ _ w1 => memWf_idleWord w1) (fun _ _ w1 => memWf_ldxBody w1) w
  | stx => exact memWf_issueWord (fun _ _ w1 => memWf_idleWord w1) (fun _ _ w1 => memWf_stxBody w1) w
  | loadWriteback => exact memWf_landLoad w
  | atomAdd => exact memWf_execAtom w
  | atomMin => exact memWf_execAtom w
  | atomMax => exact memWf_execAtom w
  | atomMinn => exact memWf_execAtom w
  | atomMaxn => exact memWf_execAtom w
  | atomAnd => exact memWf_execAtom w
  | atomOr => exact memWf_execAtom w
  | atomXor => exact memWf_execAtom w
  | atomXchg => exact memWf_execAtom w
  | atomCas => exact memWf_execAtom w
  | atomFadd => exact memWf_execAtom w
  | atomIncw => exact memWf_execAtom w
  | atomFmin => exact memWf_execAtom w
  | fput => exact memWf_issueWord (fun _ _ w1 => memWf_idleWord w1) (fun _ _ w1 => memWf_fputBody w1) w
  | fputT => exact memWf_issueWord (fun _ _ w1 => memWf_idleWord w1) (fun _ _ w1 => memWf_fputTBody w1) w
  | ftake => exact memWf_issueWord (fun _ _ w1 => memWf_idleWord w1) (fun _ _ w1 => memWf_ftakeBody w1) w
  | ftakeN => exact memWf_issueWord (fun _ _ w1 => memWf_idleWord w1) (fun _ _ w1 => memWf_ftakeNBody w1) w
  | fpeek => exact memWf_issueWord (fun _ _ w1 => memWf_idleWord w1) (fun _ _ w1 => memWf_fpeekBody w1) w
  | fclr => exact memWf_issueWord (fun _ _ w1 => memWf_idleWord w1) (fun _ _ w1 => memWf_fclrBody w1) w
  | fenceAcq => exact memWf_execFence w
  | fenceRel => exact memWf_execFence w
  | fenceAr => exact memWf_execFence w
  | fenceSc => exact memWf_execFence w
  | pref => exact memWf_issueWord (fun _ _ w1 => memWf_idleWord w1) (fun _ _ w1 => memWf_prefBody w1) w
  | pref2 => exact memWf_issueWord (fun _ _ w1 => memWf_idleWord w1) (fun _ _ w1 => memWf_prefBody w1) w
  | clock1 => exact memWf_issueWord (fun _ _ w1 => memWf_idleWord w1) (fun _ _ w1 => memWf_clockBody (fun _ _ _ _ _ w2 => memWf_lockL1 w2) w1) w
  | clock2 => exact memWf_issueWord (fun _ _ w1 => memWf_idleWord w1) (fun _ _ w1 => memWf_clockBody (fun _ _ _ _ _ w2 => memWf_lockL2 w2) w1) w
  | cunlk1 => exact memWf_issueWord (fun _ _ w1 => memWf_idleWord w1) (fun _ _ w1 => memWf_lineBody (fun _ _ _ _ _ w2 => w2) w1) w
  | cunlk2 => exact memWf_issueWord (fun _ _ w1 => memWf_idleWord w1) (fun _ _ w1 => memWf_lineBody (fun _ _ _ _ _ w2 => w2) w1) w
  | cwb => exact memWf_issueWord (fun _ _ w1 => memWf_idleWord w1) (fun _ _ w1 => memWf_lineBody (fun _ _ _ _ _ w2 => memWf_writeBack w2) w1) w
  | cinv => exact memWf_issueWord (fun _ _ w1 => memWf_idleWord w1) (fun _ _ w1 => memWf_lineBody (fun _ _ _ _ _ w2 => w2) w1) w
  | cwbinv => exact memWf_execCwbinv w
  | isync => exact memWf_issueWord (fun _ _ w1 => memWf_isyncBody w1) (fun _ _ w1 => memWf_isyncBody w1) w
  | copy => exact memWf_execAcopy w
  | ccvt => exact memWf_execAcopy w
  | csum => exact memWf_execAcopy w
  | cfill => exact memWf_execAcopy w
  | agath => exact memWf_execAgath w
  | astp => exact memWf_issueWord (fun _ _ w1 => memWf_idleWord w1) (fun _ _ w1 => memWf_astpBody w1) w
  | astpAck => exact memWf_astpAnswer w
  | copySectorDeliver => exact memWf_copyStep w
  | copyComplete => exact memWf_completeCopy w
  | togenL => exact memWf_execTogen w
  | togenS => exact memWf_execTogen w
  | togenC => exact memWf_execTogen w
  | fromgenL => exact memWf_execFromgen w
  | fromgenS => exact memWf_execFromgen w
  | fromgenC => exact memWf_execFromgen w
  | isspc => exact memWf_issueWord (fun _ _ w1 => memWf_idleWord w1) (fun _ _ w1 => memWf_writeNat w1) w
  | bra => exact memWf_issueWord (fun _ _ w1 => memWf_idleTransfer w1) (fun _ _ w1 => memWf_takeTo w1) w
  | call => exact memWf_issueWord (fun _ _ w1 => memWf_idleTransfer w1) (fun _ _ w1 => memWf_takeTo (memWf_link w1)) w
  | brw => exact memWf_issueWord (fun _ _ w1 => memWf_idleTransfer w1) (fun _ _ w1 => holds_ite (memWf_takeTo w1) (memWf_notTaken w1)) w
  | brwz => exact memWf_issueWord (fun _ _ w1 => memWf_idleTransfer w1) (fun _ _ w1 => holds_ite (memWf_takeTo w1) (memWf_notTaken w1)) w
  | brd => exact memWf_issueWord (fun _ _ w1 => memWf_idleTransfer w1) (fun _ _ w1 => memWf_brdBody w1) w
  | jmpi => exact memWf_issueWord (fun _ _ w1 => memWf_idleTransfer w1) (fun _ _ w1 => memWf_jumpTo w1 w1) w
  | ret => exact memWf_issueWord (fun _ _ w1 => memWf_idleTransfer w1) (fun _ _ w1 => memWf_jumpTo w1 w1) w
  | calli => exact memWf_issueWord (fun _ _ w1 => memWf_idleTransfer w1) (fun _ _ w1 => memWf_jumpTo w1 (memWf_link w1)) w
  | missSplit => exact memWf_execMissSplit w
  | rcv => exact memWf_issueWord (fun _ _ w1 => memWf_fusePoint w1) (fun _ _ w1 => memWf_fusePoint w1) w
  | rcvW => exact memWf_issueWord (fun _ _ w1 => memWf_fusePoint w1) (fun _ _ w1 => memWf_fusePoint w1) w
  | rcvDeadline => exact memWf_execRcvDeadline w
  | fusedead => exact memWf_execFusedead w
  | endW => exact memWf_issueWord (fun _ _ w1 => memWf_idleWord w1) (fun _ _ w1 => memWf_endPart (memWf_traceSummary w1)) w
  | trap => exact memWf_issueWord (fun _ _ w1 => memWf_idleWord w1) (fun _ _ w1 => w1) w
  | bkpt => exact memWf_issueWord (fun _ _ w1 => memWf_idleWord w1) (fun _ _ w1 => holds_ite (memWf_fallThrough w1) w1) w
  | eret => exact memWf_issueWord (fun _ _ w1 => holds_ite w1 w1) (fun _ _ w1 => holds_ite w1 (holds_ite w1 w1)) w
  | yield =>
    exact memWf_issueWord (fun _ _ w1 => holds_ite (memWf_idleReads (memWf_yieldTo w1)) w1)
      (fun _ _ w1 => holds_ite w1 (holds_ite (memWf_yieldTo w1) w1)) w
  | role => exact memWf_execRole w
  | sleep => exact memWf_issueWord (fun _ _ w1 => memWf_sleepBody w1) (fun _ _ w1 => memWf_sleepBody w1) w
  | sleepExpiry => exact w
  | ifW => exact memWf_issueWord (fun _ _ w1 => memWf_ifIdle w1) (fun _ _ w1 => memWf_ifBody w1) w
  | ifS => exact memWf_issueWord (fun _ _ w1 => memWf_ifIdle w1) (fun _ _ w1 => memWf_ifsBody w1) w
  | elseW => exact memWf_issueWord (fun _ _ w1 => memWf_elseBody w1) (fun _ _ w1 => memWf_elseBody w1) w
  | endif => exact memWf_issueWord (fun _ _ w1 => memWf_endifBody w1) (fun _ _ w1 => memWf_endifBody w1) w
  | loops => exact memWf_issueWord (fun _ _ w1 => memWf_jumpWord w1) (fun _ _ w1 => memWf_loopsBody w1) w
  | brk => exact memWf_issueWord (fun _ _ w1 => memWf_leaveBody w1) (fun _ _ w1 => memWf_leaveBody w1) w
  | cont => exact memWf_issueWord (fun _ _ w1 => memWf_leaveBody w1) (fun _ _ w1 => memWf_leaveBody w1) w
  | endls => exact memWf_issueWord (fun _ _ w1 => memWf_endlsBody w1) (fun _ _ w1 => memWf_endlsBody w1) w
  | loop =>
    exact memWf_issueWord (fun _ _ w1 => holds_ite (memWf_idleReads (memWf_loopBody w1)) (memWf_loopBody w1))
      (fun _ _ w1 => holds_ite (memWf_loopBody w1) w1) w
  | lexit =>
    exact memWf_issueWord (fun _ _ w1 => holds_ite (memWf_idleReads (memWf_lexitBody w1)) w1) (fun _ _ w1 => holds_ite w1 (memWf_lexitBody w1)) w
  | waitt => exact memWf_issueWord (fun _ _ w1 => memWf_waittBody w1) (fun _ _ w1 => memWf_waittBody w1) w
  | wpwait => exact memWf_issueWord (fun _ _ w1 => memWf_waitIdle (fun _ _ w2 => memWf_wpwaitBody w2) w1) (fun _ _ w1 => memWf_wpwaitBody w1) w
  | dwait => exact memWf_issueWord (fun _ _ w1 => memWf_waitIdle (fun _ _ w2 => memWf_dwaitBody w2) w1) (fun _ _ w1 => memWf_dwaitBody w1) w
  | vwait => exact memWf_issueWord (fun _ _ w1 => memWf_vwaitBody w1) (fun _ _ w1 => memWf_vwaitBody w1) w
  | sleepw => exact memWf_issueWord (fun _ _ w1 => memWf_waitIdle (fun _ _ w2 => memWf_sleepwBody w2) w1) (fun _ _ w1 => memWf_sleepwBody w1) w
  | sleepwExpiry => exact w
  | bar => exact memWf_barWord (fun _ _ _ w1 => memWf_barWait w1) w
  | barp => exact memWf_barWord (fun _ _ _ w1 => holds_ite w1 (holds_ite (memWf_barBoundary w1) (memWf_barWait w1))) w
  | bara => exact memWf_barWord (fun _ _ _ w1 => memWf_barArrive w1) w
  | barw => exact memWf_issueWord (fun _ _ w1 => memWf_barwBody w1) (fun _ _ w1 => memWf_barwBody w1) w
  | barb => exact memWf_issueWord (fun _ _ w1 => memWf_idleWord w1) (fun _ _ w1 => memWf_barbBody w1) w
  | cstg => exact memWf_issueWord (fun _ _ w1 => memWf_idleWord w1) (fun _ _ w1 => memWf_cstgBody w1) w
  | phaseResume => exact memWf_execPhaseResume w
  | dinit =>
    exact memWf_issueWord (fun _ _ w1 => memWf_idleWord w1) (fun _ _ w1 => memWf_dlvBody (fun _ _ _ w2 => memWf_spadPut (memWf_spadPut w2)) w1) w
  | dexp =>
    exact memWf_issueWord (fun _ _ w1 => memWf_idleWord w1) (fun _ _ w1 => memWf_dlvBody (fun _ _ _ w2 => memWf_dbarCheck (memWf_spadPut w2)) w1) w
  | darr =>
    exact memWf_issueWord (fun _ _ w1 => memWf_idleWord w1) (fun _ _ w1 => memWf_afterTakes
      (memWf_dlvBody (fun _ _ _ w2 => memWf_dbarCredit (memWf_partRelease w2)) w1)) w
  | dqry => exact memWf_execDqry w
  | time => exact memWf_cntWord w
  | pmcrd => exact memWf_cntWord w
  | pmcwr => exact memWf_issueWord (fun _ _ w1 => memWf_idleWord w1) (fun _ _ w1 => w1) w
  | accv => exact memWf_issueWord (fun _ _ w1 => memWf_idleWord w1) (fun _ _ w1 => memWf_writeReg w1) w
  | wprd => exact memWf_cntWord w
  | cycle => exact memWf_cntWord w
  | launch => exact memWf_issueWord (fun _ _ w1 => memWf_idleWord w1) (fun _ _ w1 => memWf_launchBody w1) w
  | launchb => exact memWf_issueWord (fun _ _ w1 => memWf_idleWord w1) (fun _ _ w1 => memWf_launchBody w1) w
  | enqr => exact memWf_issueWord (fun _ _ w1 => memWf_idleWord w1) (fun _ _ w1 => memWf_enqrBody w1) w
  | rqflush => exact memWf_execRqflush w
  | rqstat => exact memWf_issueWord (fun _ _ w1 => memWf_idleWord w1) (fun _ _ w1 => memWf_writeLater w1) w
  | evpost => exact memWf_issueWord (fun _ _ w1 => memWf_idleWord w1) (fun _ _ w1 => memWf_evpostBody w1) w
  | cpoll => exact memWf_issueWord (fun _ _ w1 => memWf_idleWord w1) (fun _ _ w1 => memWf_pollBody w1) w
  | csleep => exact memWf_issueWord (fun _ _ w1 => memWf_idleWord w1) (fun _ _ w1 => memWf_csleepBody w1) w
  | signal => exact memWf_issueWord (fun _ _ w1 => memWf_idleWord w1) (fun _ _ w1 => memWf_signalBody w1) w
  | csleepTimeout => exact w
  | qfetch => exact memWf_issueWord (fun _ _ w1 => memWf_idleWord w1) (fun _ _ w1 => memWf_qfetchBody w1) w
  | qdisp => exact memWf_issueWord (fun _ _ w1 => memWf_idleWord w1) (fun _ _ w1 => memWf_qdispBody w1) w
  | swaitc => exact memWf_issueWord (fun _ _ w1 => memWf_idleWord w1) (fun _ _ w1 => memWf_swaitcBody w1) w
  | keyopGen => exact memWf_keyopWord (fun _ w1 => returns_ok w1) w
  | keyopBind => exact memWf_keyopWord (fun _ w1 => memWf_keyBind w1) w
  | keyopUnbind => exact memWf_keyopWord (fun _ w1 => memWf_keyUnbind w1) w
  | keyopZero => exact memWf_keyopWord (fun _ w1 => returns_ok w1) w
  | keyopZeroall => exact memWf_keyopWord (fun _ w1 => returns_ok w1) w
  | keyopSign => exact memWf_issueWord (fun _ _ w1 => memWf_idleWord w1) (fun _ _ w1 => memWf_keyopSignBody w1) w
  | fuserd => exact memWf_issueWord (fun _ _ w1 => memWf_idleWord w1) (fun _ _ w1 => memWf_writeReg w1) w
  | wipe => exact memWf_issueWord (fun _ _ w1 => memWf_idleWord w1) (fun _ _ w1 => memWf_untilDone (fun _ w2 => memWf_startWipe w2) w1) w
  | wipeComplete => exact memWf_execWipeComplete w
  | shadow => exact memWf_issueWord (fun _ _ w1 => memWf_idleWord w1) (fun _ _ w1 => memWf_untilDone (fun _ w2 => memWf_startSwap w2) w1) w
  | measx => exact memWf_issueWord (fun _ _ w1 => memWf_idleWord w1) (fun _ _ w1 => memWf_measxBody w1) w
  | shadowExchange => exact memWf_execShadowExchange w
  | xpair => exact memWf_execXpair w
  | xpairEmit => exact memWf_execXpairEmit w
  | xpairComplete => exact memWf_execXpairComplete w
  | xray => exact memWf_issueWord (fun _ _ w1 => memWf_idleWord w1) (fun _ _ w1 => memWf_xrayBody w1) w
  | xrayComplete => exact memWf_execXrayComplete w
  | texSample => exact memWf_execTexSample w
  | texGath4 => exact memWf_execTexGath4 w
  | texLoadi => exact memWf_execTexLoadi w
  | texQuery => exact memWf_execTexQuery w
  | cover => exact memWf_issueWord (fun _ _ w1 => memWf_idleWord w1) (fun _ _ w1 => memWf_writeLater w1) w
  | edge => exact memWf_issueWord (fun _ _ w1 => memWf_idleWord w1) (fun _ _ w1 => memWf_writeLater w1) w
  | pxtk => exact memWf_issueWord (fun _ _ w1 => memWf_idleWord w1) (fun _ _ w1 => memWf_pxtkBody w1) w
  | pxlk => exact memWf_issueWord (fun _ _ w1 => memWf_idleWord w1) (fun _ _ w1 => memWf_pxlkBody w1) w
  | pxul => exact memWf_issueWord (fun _ _ w1 => memWf_idleWord w1) (fun _ _ w1 => memWf_pxulBody w1) w
  | vemit => exact memWf_issueWord (fun _ _ w1 => memWf_idleWord w1) (fun _ _ w1 => memWf_vemitBody w1) w
  | tsemit => exact memWf_issueWord (fun _ _ w1 => memWf_idleWord w1) (fun _ _ w1 => memWf_tsemitBody w1) w
  | tessellate => exact memWf_execTessellate w
  | primitiveRelease => exact memWf_execPrimitiveRelease w
  | rasterLaunch => exact memWf_execRasterLaunch w
  | atr => exact memWf_issueWord (fun _ _ w1 => memWf_idleWord w1) (fun _ _ w1 => memWf_atBody w1) w
  | atw => exact memWf_issueWord (fun _ _ w1 => memWf_idleWord w1) (fun _ _ w1 => memWf_atBody w1) w
  | tlbinv => exact memWf_execTlbinv w
  | tlbinva => exact memWf_issueWord (fun _ _ w1 => memWf_idleWord w1) (fun _ _ w1 => memWf_tlbDrop w1) w
  | pageWalk => exact memWf_execPageWalk w
  | issueArbitration => exact memWf_arbitrate w
  | agemaxReached => exact memWf_execAgemaxReached w
  | workgroupPlace => exact memWf_placeNext w
  | weightClassUpdate => exact memWf_execWeightClassUpdate w
  | budgetExceeded => exact memWf_execBudgetExceeded w
  | predlExpiry => exact memWf_execPredlExpiry w
  | hardwareSave => exact memWf_parkWg w
  | gridComplete => exact memWf_completeGrid w
  | packetFetch => exact memWf_ite (memWf_fetchPacket w) w
  | launchPacket => exact holds_ite (memWf_startPacket (fun _ _ w1 => memWf_startLaunch w1) w) w
  | bundle => exact holds_ite (memWf_startPacket (fun _ _ w1 => memWf_startBundle w1) w) w
  | draw => exact holds_ite (memWf_startPacket (fun _ _ w1 => memWf_startDraw w1) w) w
  | copysched => exact memWf_startPacket (fun _ _ w1 => memWf_startSched w1) w
  | signalPacket => exact memWf_startPacket (fun _ _ w1 => memWf_startSignal w1) w
  | waitsig => exact memWf_startPacket (fun _ _ w1 => memWf_startWaitsig w1) w
  | waitsigPoll => exact memWf_execWaitsigPoll w
  | waitsigTimeout => exact memWf_execWaitsigTimeout w
  | swaitcTimeout => exact w
  | timestamp => exact memWf_execTimestamp w
  | eventPacket => exact memWf_startPacket (fun _ _ w1 => memWf_donePacket (memWf_postEvent _ _ _ w1)) w
  | qbarrier => exact memWf_execQbarrier w
  | configAgemax => exact memWf_configPacket (fun _ _ _ w1 => holds_ite (yields_some w1) yields_none) w
  | configPredl => exact memWf_configPacket (fun _ _ _ w1 => holds_ite (yields_some w1) yields_none) w
  | configLkquota => exact memWf_configPacket (fun _ _ _ w1 => holds_ite (yields_some w1) yields_none) w
  | configL2Ways => exact memWf_execConfigL2Ways w
  | configLlcWays => exact memWf_execConfigLlcWays w
  | partctlPreempt => exact memWf_partctl (fun _ _ _ w1 => holds_ite returns_error (returns_ok (memWf_preemptTag w1))) w
  | partctlSwapout => exact memWf_partctl (fun _ _ _ w1 => memWf_startSwap w1) w
  | partctlSwapin => exact memWf_partctl (fun _ _ _ w1 => memWf_startSwap w1) w
  | partctlWipe => exact memWf_partctl (fun _ _ _ w1 => memWf_startWipe w1) w
  | partctlKeybind => exact memWf_partctl (fun _ _ _ w1 => memWf_keyBind w1) w
  | partctlKeyzero => exact memWf_partctl (fun _ _ _ w1 => returns_ok w1) w
  | eventHoldmax => exact memWf_ite w w
  | msixSend => exact memWf_execMsixSend w
  | qtailWrite => exact memWf_onBar (fun _ w1 => memWf_writeTail w1) w
  | queueEnable => exact memWf_execQueueEnable w
  | queueDisable => exact memWf_onBar (fun _ w1 => memWf_ite w1 w1) w
  | queueStopped => exact memWf_ite w w
  | queueReset => exact memWf_onBar (fun _ w1 => w1) w
  | queueResetComplete => exact memWf_ite w w
  | eqlostRead => exact memWf_onBar (fun _ w1 => w1) w
  | trlostRead => exact memWf_onBar (fun _ w1 => w1) w
  | frackWrite => exact memWf_execFrackWrite w
  | spanEnable => exact memWf_onBar (fun _ w1 => w1) w
  | spanDisable => exact memWf_onBar (fun _ w1 => w1) w
  | capWrite => exact memWf_execCapWrite w
  | registerWrite => exact memWf_ite (memWf_writeRegister w) w
  | fwload => exact memWf_mgmtCommand (fun _ _ w1 => memWf_fwloadCommand w1) w
  | attest => exact memWf_mgmtCommand (fun _ _ w1 => memWf_attestCommand w1) w
  | challenge => exact memWf_execChallenge w
  | unlock => exact memWf_mgmtCommand (fun _ _ w1 => holds_ite returns_error (holds_ite returns_error (returns_ok (memWf_unlockDevice w1)))) w
  | relock => exact memWf_mgmtCommand (fun _ _ w1 => holds_ite returns_error (returns_ok (memWf_lifecycleTo w1))) w
  | setpriv => exact memWf_execSetpriv w
  | lifecycle =>
    exact memWf_mgmtCommand (fun _ _ w1 => holds_ite (returns_ok (memWf_lifecycleTo w1))
      (holds_ite (holds_ite returns_error (holds_ite (returns_ok (memWf_lifecycleTo w1)) returns_error)) returns_error)) w
  | partdef => exact memWf_execPartdef w
  | partundef => exact memWf_execPartundef w
  | ctxdef => exact memWf_execCtxdef w
  | ctxundef => exact memWf_execCtxundef w
  | nonceExpiry => exact memWf_ite w w
  | stop => exact memWf_debugCommand (fun _ _ w1 => memWf_stopByCommand w1) w
  | resume => exact memWf_debugCommand (fun _ _ w1 => holds_ite (returns_ok w1) returns_error) w
  | step => exact memWf_debugCommand (fun _ _ w1 => memWf_onPart (fun _ _ _ w2 => memWf_stepPart w2) w1) w
  | rdreg => exact memWf_debugCommand (fun _ _ w1 => memWf_onReg (fun _ _ _ _ w2 => returns_ok w2) w1) w
  | wrreg => exact memWf_debugCommand (fun _ _ w1 => memWf_onReg (fun _ _ _ _ w2 => memWf_dbgWrite w2) w1) w
  | drop => exact memWf_debugCommand (fun _ _ w1 => memWf_onReg (fun _ _ _ _ w2 => memWf_dbgDrop w2) w1) w
  | bpen => exact memWf_execBpen w
  | report => exact memWf_execReport w
  | memrd => exact memWf_execMemrd w
  | memwr => exact memWf_execMemwr w
  | traceSummaryTimer => exact memWf_execTraceSummaryTimer w
  | replayPass => exact memWf_execReplayPass w
  | scrubPass => exact memWf_execScrubPass w
  | coreRetire => exact memWf_execCoreRetire w
  | pseudoChannelFail => exact memWf_execPseudoChannelFail w
  | pseudoChannelCopyDone => exact w
  | coreThermalTrip => exact memWf_execCoreThermalTrip w
  | coreThermalRecover => exact memWf_execCoreThermalRecover w
  | packageThermalTrip => exact memWf_ite w w
  | droopStretch => exact memWf_ite w w
  | powerWindow => exact memWf_execPowerWindow w
  | fullReset => exact memWf_ite w (memWf_fullReset w)
  | flitRetry => exact w
  | spanPortDown => exact memWf_ite (memWf_countDown (memWf_foldl (fun _ _ w1 => memWf_losePeer w1) w)) w
  | spanDownSvcreq => exact memWf_ite (memWf_svcreq w) w
  | peerRequest => exact memWf_ite (memWf_physWrite _ _ _ _ _ w) w
  | cxlmemRead => exact w
  | cxlmemWrite => exact memWf_ite w (memWf_physWrite _ _ _ _ _ w)
  | writePerformed => exact memWf_performStores _ _ _ w
  | frheadWrite => exact memWf_execFrheadWrite w
  | provisioning => exact memWf_ite (memWf_lifecycleTo w) w
  | droopStretchEnd => exact w
  | spanPortTrained => exact memWf_ite (memWf_ite w w) (memWf_countDown w)
  | hostSnoop => exact memWf_performStores _ _ _ w
  | msixUnmask => exact memWf_sendPending w

/-! ### `Machine/Issue` -/

theorem memWf_rejectWord {w : Word} {r : Reject} (ws : MemWf s) : OutWf (rejectWord w r s) := by
  unfold rejectWord
  split
  · trivial
  · extract_lets
    refine holds_ite (memWf_finish ws trivial) (holds_ite (memWf_finish ws ws)
      (holds_ite (memWf_widthWait ws) (holds_ite ?_ (holds_ite (memWf_finish ws ws) (memWf_finish ws ws)))))
    split
    · exact memWf_exec ws
    · exact memWf_finish ws (memWf_idleWord ws)

theorem memWf_fetchStall {level va : Nat} (w : MemWf s) : MemWf (fetchStall c level va s) := by
  unfold fetchStall
  extract_lets r
  have wr : FstWf r := memWf_addFault w
  exact memWf_writeRecords wr

theorem memWf_runWord {x : Nat} (w : MemWf s) : OutWf (runWord x s) := by
  unfold runWord
  split
  · exact memWf_exec w
  · exact memWf_rejectWord w

theorem memWf_behindWord {more : State → Out} {x : Out} (hmore : ∀ s, MemWf s → OutWf (more s)) (wx : OutWf x) : OutWf (behindWord c more x) := by
  unfold behindWord
  split
  · exact holds_ite (hmore _ wx) (memWf_ite (memWf_takePreempt wx) wx)
  · trivial
  · trivial

theorem memWf_issueGroup {n : Nat} (w : MemWf s) : OutWf (issueGroup n s) := by
  induction n generalizing s with
  | zero =>
    unfold issueGroup
    exact w
  | succ n ih =>
    unfold issueGroup
    split
    · exact w
    · split
      next s1 _ h1 =>
        have w1 : MemWf s1 := (congrArg FetchWf h1).mp (memWf_fetchPart w)
        exact memWf_behindWord (fun _ w2 => ih w2) (memWf_runWord w1)
      · exact memWf_finish w w
      · exact memWf_finish w (fun _ w1 => memWf_fetchStall w1)
      · trivial

theorem memWf_issuing {qr : Nat} (w : MemWf s) : MemWf (issuing qr s) := by
  unfold issuing
  extract_lets s1
  have ws1 : MemWf s1 := w
  split
  · exact memWf_viewHomes w
  · exact ws1

theorem memWf_issueOn {qr : Nat} (w : MemWf s) : OutWf (issueOn qr s) :=
  memWf_issueGroup (memWf_issuing w)

theorem memWf_tryWord {key q : Nat} (w : MemWf s) : OutWf (tryWord key q s) :=
  memWf_issueOn w

theorem memWf_preemptAt {key q : Nat} (w : MemWf s) : MemWf (preemptAt key q s) := by
  unfold preemptAt
  split
  · exact memWf_ite (memWf_takePreempt w) w
  · exact w

theorem memWf_preemptReady (w : MemWf s) : MemWf (preemptReady s) :=
  memWf_foldl (fun _ _ w1 => memWf_preemptAt w1) w

theorem memWf_probePart {k : Nat × Nat} (w : MemWf s) : MemWf (probePart s k) := by
  unfold probePart
  split <;> exact w

theorem memWf_probeParts (w : MemWf s) : MemWf (probeParts s) :=
  memWf_foldl (fun _ _ w1 => memWf_probePart w1) w

theorem memWf_issueAt {key q : Nat} (w : MemWf s) : OutWf (issueAt key q s) := by
  unfold issueAt
  extract_lets _ s1
  have ws1 : MemWf s1 := memWf_arbitrate (memWf_probeParts (memWf_preemptAt w))
  refine holds_ite w (holds_ite (memWf_tick w) ?_)
  split
  · exact ws1
  · exact holds_ite (memWf_issueOn ws1) ws1

theorem memWf_runOn (w : MemWf s) : OutWf (runOn s) := by
  unfold runOn
  extract_lets s1
  have ws1 : MemWf s1 := memWf_probeParts (memWf_preemptReady (memWf_settle w))
  have wt : OutWf (.next (tick 1 s1)) := memWf_tick ws1
  clear_value s1
  split
  · exact memWf_exec ws1
  · refine holds_ite wt ?_
    split
    · exact memWf_exec ws1
    · split
      · exact memWf_issueOn ws1
      · exact wt

theorem memWf_startControl {core slot cx : Nat} {pc tvec : Word} (w : MemWf s) : MemWf (startControl core slot cx pc tvec s) := by
  unfold startControl
  extract_lets
  exact memWf_ite w w

theorem memWf_act {e : Env} (w : MemWf s) : MemWf (act e s) := by
  unfold act
  split
  · exact w
  · exact memWf_ite w w
  · exact memWf_holdSector w
  · exact memWf_sampleRead w
  · exact w
  · exact memWf_maskFunc w
  · exact w
  · exact w
  · exact memWf_startControl w


theorem memWf_step (w : MemWf s) : OutWf (step s) := by
  unfold step
  refine memWf_keepHomes ?_
  split
  next i rest h =>
    have wr : MemWf { s with agenda := rest } := w
    exact memWf_exec wr
  next e rest h =>
    have wr : MemWf { s with agenda := rest } := w
    exact memWf_act wr
  next key q rest h =>
    have wr : MemWf { s with agenda := rest } := w
    exact memWf_issueAt wr
  · exact memWf_runOn w

/-- Settles O60: each function that a step runs keeps the canonical form of the memories, since it writes them through `baseWrite`, `spadPut`
or a clear only. -/
theorem stepKeepsMemory : Obligations.StepKeepsMemory := by
  unfold Obligations.StepKeepsMemory
  intro s t w h
  have wo : OutWf (step s) := memWf_step w
  rw [h] at wo
  exact wo

end Sys2Proof.Proofs
end

section

/-! ## Loads, stores, atomics and futures (O14 to O17) -/

namespace Sys2Proof.Proofs
open Sys2Proof.Machine Sys2Proof.Laws Sys2Proof.Safety

/-- A memory word that reads completes once its accesses are granted, its lanes are awake and its data is not poisoned (R240, R264). -/
theorem memFalls_reads {w : Bool → Instr} {sig : Ctx → Sig} {reqs : Ctx → List Req} {align : Ctx → Nat} {acc : Acc}
    {extra : State → Ctx → Req → Bool} {eff : Ctx → List (Nat × Places) → State → State}
    (he : ∀ z s, exec (w z) s = issueWord z sig idleWord (fun c s =>
      memWord c (reqs c) (align c) acc (extra s c) (fun u ps => poisonRes u ps (.fall (eff c ps u) 1)) s) s) :
    MemFalls true w sig reqs align acc extra eff :=
  memFallsIn_intro _ _ _ _ _ _ _ _ _ idleWord _ he fun _ c _ _ hm ht hp =>
    (memWord_ok c _ _ _ _ _ _ _ _ hm ht).trans (poisonRes_clean _ _ _ (hp rfl))

/-- A memory word that only writes completes once its accesses are granted and its lanes are awake (R264). -/
theorem memFalls_writes {w : Bool → Instr} {sig : Ctx → Sig} {reqs : Ctx → List Req} {align : Ctx → Nat} {acc : Acc}
    {extra : State → Ctx → Req → Bool} {eff : Ctx → List (Nat × Places) → State → State}
    (he : ∀ z s, exec (w z) s = issueWord z sig idleWord (fun c s =>
      memWord c (reqs c) (align c) acc (extra s c) (fun u ps => .fall (eff c ps u) 1) s) s) :
    MemFalls false w sig reqs align acc extra eff :=
  memFallsIn_intro _ _ _ _ _ _ _ _ _ idleWord _ he fun _ c _ _ hm ht _ => memWord_ok c _ _ _ _ _ _ _ _ hm ht

/-! ### Reads where nothing keeps an old copy (R250, R259) -/

theorem physReadN_eq_map (s : State) (vw : View) (m : Mem) (tag : Nat) (n : Nat) :
    ∀ a, physReadN s vw m tag a n = (List.range n).map fun i => physRead s vw m tag (a + i) := by
  induction n with
  | zero => exact fun _ => rfl
  | succ n ih =>
    intro a
    rw [physReadN, ih, List.range_succ_eq_map, List.map_cons, List.map_map]
    simp [Function.comp_def, Nat.add_assoc, Nat.add_comm 1]

theorem physReadN_add (s : State) (vw : View) (m : Mem) (tag k n : Nat) :
    ∀ a, physReadN s vw m tag a (k + n) = physReadN s vw m tag a k ++ physReadN s vw m tag (a + k) n := by
  induction k with
  | zero => exact fun a => by rw [Nat.zero_add]; rfl
  | succ k ih =>
    intro a
    rw [Nat.add_right_comm, physReadN, ih, physReadN, List.cons_append, Nat.add_assoc a 1 k, Nat.add_comm 1 k]

/-- The cuts of a range cover it, one after another: with enough fuel for the blocks that it touches. -/
theorem physReadN_cutFrom (s : State) (vw : View) (m : Mem) (tag : Nat) {size : Nat} (hs : 0 < size) (a : Nat) (fuel : Nat) :
    ∀ off n, (a + off) % size + n ≤ fuel * size →
      (cutFrom size a fuel off n).flatMap (fun x => physReadN s vw m tag (a + x.1) x.2) = physReadN s vw m tag (a + off) n := by
  induction fuel with
  | zero =>
    intro off n h
    have hn : n = 0 := by omega
    subst hn
    rfl
  | succ fuel ih =>
    intro off n h
    rw [Nat.succ_mul] at h
    have hlt := Nat.mod_lt (a + off) hs
    rw [cutFrom]
    split
    · simp
    · generalize hk : size - (a + off) % size = k
      have hblock : (a + (off + k)) % size = 0 := by
        rw [← Nat.add_assoc, ← Nat.mod_add_mod, ← hk, Nat.add_sub_cancel' hlt.le, Nat.mod_self]
      have hn : n = k + (n - k) := by omega
      rw [List.flatMap_cons, ih (off + k) (n - k) (by omega), ← Nat.add_assoc, ← physReadN_add, ← hn]

theorem physReadN_cutAt (s : State) (vw : View) (m : Mem) (tag : Nat) {size : Nat} (hs : 0 < size) (a n : Nat) :
    (cutAt size a n).flatMap (fun x => physReadN s vw m tag (a + x.1) x.2) = physReadN s vw m tag a n := by
  refine physReadN_cutFrom s vw m tag hs a _ 0 n ?_
  have hlt := Nat.mod_lt (a + 0) hs
  have hdiv := Nat.lt_div_mul_add (a := n) hs
  rw [Nat.add_mul]
  omega

section Fresh

variable {s : State} (h : s.stale = [])
include h

/-- Where nothing keeps an old copy, a plain load's bytes are those that its core reads (R250). -/
theorem loadBytes_fresh (core : Nat) (repl : Bool) (m : Mem) (tag a n : Nat) :
    loadBytes s core repl m tag a n = physReadN s (.core core) m tag a n := by
  cases repl with
  | true => rfl
  | false => simp [loadBytes, loadByte, h, physReadN_eq_map]

theorem loadPlaces_fresh (core : Nat) (ps : Places) : loadPlaces s core ps = readPlaces s (.core core) ps := by
  refine congrArg (List.flatMap · ps) (funext fun x => ?_)
  obtain ⟨_, n, _ | _⟩ := x
  · exact loadBytes_fresh h ..
  · rfl

/-- An invariant load has no held value to choose from, and reads sector by sector what a plain load reads (R259). -/
theorem invPlaces_fresh (grid core : Nat) (ps : Places) : invPlaces s grid core ps = readPlaces s (.core core) ps := by
  have hsector (repl : Bool) (m : Mem) (tag a n : Nat) : invBytes s grid core repl m tag a n = physReadN s (.core core) m tag a n := by
    simp [invBytes, h, loadBytes_fresh h]
  refine congrArg (List.flatMap · ps) (funext fun x => ?_)
  obtain ⟨_, n, _ | _⟩ := x
  · simp only [invPiece, readPiece, hsector]
    exact physReadN_cutAt s _ _ _ (by decide) _ _
  · rfl

end Fresh

/-- Settles O14: each word by its body once its accesses are granted; where nothing is stale a load's bytes are its core's. -/
theorem loadsAndStores : Obligations.LoadsAndStores := by
  unfold Obligations.LoadsAndStores
  refine ⟨fun d a b i h n l => ⟨?ld, ?ldv, ?st, ?ldx, ?stx⟩,
    fun s core grid ps hs => ⟨loadPlaces_fresh hs core ps, invPlaces_fresh hs grid core ps⟩⟩
  case ld => exact memFalls_reads fun _ _ => rfl
  case ldv => exact memFalls_reads fun _ _ => rfl
  case st => exact memFalls_writes fun _ _ => rfl
  case ldx =>
    by_cases hi : i = 1#1
    · simp only [if_pos hi]
      subst hi
      exact memFalls_reads fun _ _ => rfl
    · simp only [if_neg hi]
      refine memFalls_reads fun z s => ?_
      show execLdx z d a i h n l s = _
      rw [execLdx, decide_eq_false hi]
      rfl
  case stx => exact memFalls_writes fun _ _ => rfl

/-! ### ATOM (R273) -/

/-- Settles O16: each word by its body once its accesses are granted, and the new values by the operations of R273. -/
theorem atomicWords : Obligations.AtomicWords := by
  unfold Obligations.AtomicWords
  intro d a sc l
  refine ⟨memFalls_reads fun _ _ => rfl, memFalls_reads fun _ _ => rfl, memFalls_reads fun _ _ => rfl, memFalls_reads fun _ _ => rfl,
    memFalls_reads fun _ _ => rfl, memFalls_reads fun _ _ => rfl, memFalls_reads fun _ _ => rfl, memFalls_reads fun _ _ => rfl,
    memFalls_reads fun _ _ => rfl, memFalls_reads fun _ _ => rfl, memFalls_reads fun _ _ => rfl, memFalls_reads fun _ _ => rfl,
    memFalls_reads fun _ _ => rfl, fun w rnd ftz o x v => ⟨rfl, rfl, rfl, rfl, rfl, rfl, rfl, rfl, rfl, rfl, ?fadd, rfl, ?fmin⟩⟩
  case fadd => rfl
  case fmin => rfl

/-! ### The frame of a store (R246, R249) -/

@[simp] theorem stores_baseWrite (s : State) (m : Mem) (tag a : Nat) (bs : List Byte) : (baseWrite s m tag a bs).stores = s.stores := by
  cases m <;> rfl

theorem pendingByte_concat (vw : View) (m : Mem) (tag a : Nat) (x : Store) (xs : List Store) :
    ∀ d, pendingByte vw m tag a d (xs ++ [x]) =
      if x.covers m a && x.visible vw then storeByte x m tag a else pendingByte vw m tag a d xs := by
  induction xs with
  | nil => exact fun d => pendingByte_cons vw m tag a d x []
  | cons y ys ih => exact fun d => by rw [List.cons_append, pendingByte_cons, pendingByte_cons, ih]

/-- No store to a scratchpad is pending: those are written at once (R249). -/
def SpadSettled (s : State) : Prop := ∀ x ∈ s.stores, x.mem ≠ .spad

/-- `n` bytes from `a0` of memory `m0` hold byte `a` of memory `m`. -/
def InRange (m0 : Mem) (a0 n : Nat) (m : Mem) (a : Nat) : Prop := m0 = m ∧ a0 ≤ a ∧ a < a0 + n

theorem covers_iff (x : Store) (m : Mem) (a : Nat) : x.covers m a = true ↔ InRange x.mem x.addr x.bytes.length m a := by
  simp [Store.covers, InRange, and_assoc]

section Stored

variable {s : State} {core : Nat} {vw : View} {m0 m : Mem} {tag0 tag a0 a : Nat} {bs : List Byte}

/-- The store that writes bytes, as one that is performed everywhere or is pending. -/
def storeOf (id : Nat) (m : Mem) (tag a : Nat) (bs : List Byte) (core scope time : Nat) : Store :=
  { id := id, mem := m, addr := a, bytes := bs, tag := tag, core := core, scope := scope, time := time }

/-- Under the key tag that it was written with, a byte reads as stored; the other memories have no tags (R233). -/
theorem storeByte_own (ht : m = .hbm → tag0 = tag) (id scope time : Nat) :
    storeByte (storeOf id m tag0 a0 bs core scope time) m tag a = bs.getD (a - a0) 0#8 := by
  cases m with
  | hbm => exact if_pos (ht rfl)
  | host => rfl
  | peer => rfl
  | spad => rfl

theorem physRead_baseWrite_outside (h : ¬ InRange m0 a0 bs.length m a) :
    physRead (baseWrite s m0 tag0 a0 bs) vw m tag a = physRead s vw m tag a := by
  have hcov : ¬ (storeOf 0 m0 tag0 a0 bs 0 0 0).covers m a = true := fun hc => h ((covers_iff _ m a).1 hc)
  have hbase := baseByte_baseWrite s (storeOf 0 m0 tag0 a0 bs 0 0 0) m tag a
  rw [if_neg hcov] at hbase
  rw [physRead, physRead, stores_baseWrite]
  exact congrArg (pendingByte vw m tag a · _) hbase

theorem physRead_baseWrite_inside (ht : m = .hbm → tag0 = tag) (h : InRange m a0 bs.length m a)
    (hp : ∀ x ∈ s.stores, x.covers m a = true → x.visible vw = false) :
    physRead (baseWrite s m tag0 a0 bs) vw m tag a = bs.getD (a - a0) 0#8 := by
  have hbase := baseByte_baseWrite s (storeOf 0 m tag0 a0 bs 0 0 0) m tag a
  rw [if_pos ((covers_iff _ m a).2 h), storeByte_own ht] at hbase
  rw [physRead, stores_baseWrite, pendingByte_unseen hp]
  exact hbase

/-- A plain store outside the scratchpads joins the pending ones, and no other byte changes. -/
theorem physStore_pending (h : m0 ≠ .spad) : ∃ scope,
    let x := storeOf s.nextId m0 tag0 a0 bs core scope s.time
    (physStore s core m0 tag0 a0 bs).stores = s.stores ++ [x] ∧
    ∀ vw m tag a, physRead (physStore s core m0 tag0 a0 bs) vw m tag a =
      if x.covers m a && x.visible vw then storeByte x m tag a else physRead s vw m tag a := by
  refine ⟨if s.fused.contains (clusterOf core) then 2 else 1, ?_⟩
  have hstores : (physStore s core m0 tag0 a0 bs).stores =
      s.stores ++ [storeOf s.nextId m0 tag0 a0 bs core (if s.fused.contains (clusterOf core) then 2 else 1) s.time] := by
    cases m0 with
    | spad => exact absurd rfl h
    | hbm | host | peer => unfold physStore; dsimp only; split <;> rfl
  have hbase (m : Mem) (tag a : Nat) : baseByte (physStore s core m0 tag0 a0 bs) m tag a = baseByte s m tag a := by
    cases m0 with
    | spad => exact absurd rfl h
    | hbm | host | peer => unfold physStore; dsimp only; split <;> cases m <;> rfl
  exact ⟨hstores, fun vw m tag a => by rw [physRead, hstores, hbase, pendingByte_concat]; rfl⟩

theorem physRead_physStore_outside (h : ¬ InRange m0 a0 bs.length m a) :
    physRead (physStore s core m0 tag0 a0 bs) vw m tag a = physRead s vw m tag a := by
  by_cases hm : m0 = .spad
  · subst hm
    exact physRead_baseWrite_outside h
  · obtain ⟨scope, -, hread⟩ := physStore_pending (s := s) (core := core) (tag0 := tag0) (a0 := a0) (bs := bs) hm
    have hcov : (storeOf s.nextId m0 tag0 a0 bs core scope s.time).covers m a = false :=
      Bool.eq_false_iff.2 fun hc => h ((covers_iff _ m a).1 hc)
    rw [hread, hcov]
    rfl

/-- The core itself reads its own store at once (R249). -/
theorem physRead_physStore_inside (h : InRange m a0 bs.length m a) (hp : m = .spad → SpadSettled s) :
    physRead (physStore s core m tag a0 bs) (.core core) m tag a = bs.getD (a - a0) 0#8 := by
  by_cases hm : m = .spad
  · subst hm
    exact physRead_baseWrite_inside (tag0 := 0) nofun h fun x hx hc => absurd ((covers_iff _ _ _).1 hc).1 (hp rfl x hx)
  · obtain ⟨scope, -, hread⟩ := physStore_pending (s := s) (core := core) (tag0 := tag) (a0 := a0) (bs := bs) hm
    have hcov : (storeOf s.nextId m tag a0 bs core scope s.time).covers m a = true := (covers_iff _ m a).2 h
    have hvis : (storeOf s.nextId m tag a0 bs core scope s.time).visible (.core core) = true := by simp [storeOf, Store.visible]
    rw [hread, hcov, hvis]
    exact storeByte_own (fun _ => rfl) s.nextId scope s.time

theorem spadSettled_physStore (hp : SpadSettled s) : SpadSettled (physStore s core m0 tag0 a0 bs) := by
  by_cases hm : m0 = .spad
  · subst hm
    exact hp
  · obtain ⟨scope, hstores, -⟩ := physStore_pending (s := s) (core := core) (tag0 := tag0) (a0 := a0) (bs := bs) hm
    intro x hx
    rw [hstores] at hx
    exact (List.mem_append.1 hx).elim (hp x) fun h => List.mem_singleton.1 h ▸ hm

end Stored

/-- A piece of an access covers a byte of a memory. -/
def pieceCovers (x : Nat × Nat × Place) (m : Mem) (a : Nat) : Prop := ∃ off n a0 tag r, x = (off, n, .byte m a0 tag r) ∧ a0 ≤ a ∧ a < a0 + n

section Pieces

variable {s : State} {core : Nat} {vw : View} {m : Mem} {tag a : Nat} {bs : List Byte} {x : Nat × Nat × Place}

theorem physRead_storePiece_outside (h : ¬ pieceCovers x m a) :
    physRead (storePiece core bs s x) vw m tag a = physRead s vw m tag a := by
  obtain ⟨off, n, ⟨m0, a0, tag0, r⟩ | _⟩ := x
  · have hout : ¬ InRange m0 a0 ((bs.drop off).take n).length m a := by
      rintro ⟨rfl, hlo, hhi⟩
      rw [List.length_take] at hhi
      exact h ⟨off, n, a0, tag0, r, rfl, hlo, by omega⟩
    cases r with
    | true => exact physRead_baseWrite_outside hout
    | false => exact physRead_physStore_outside hout
  · rfl

theorem spadSettled_storePiece (hp : SpadSettled s) : SpadSettled (storePiece core bs s x) := by
  obtain ⟨off, n, ⟨m0, a0, tag0, r⟩ | _⟩ := x
  · cases r with
    | true => exact fun y hy => hp y (stores_baseWrite s m0 tag0 a0 _ ▸ hy)
    | false => exact spadSettled_physStore hp
  · exact hp

theorem physRead_storePlaces_outside {ps : Places} (h : ∀ x ∈ ps, ¬ pieceCovers x m a) :
    physRead (storePlaces core bs ps s) vw m tag a = physRead s vw m tag a :=
  List.foldlRecOn ps (storePiece core bs) (motive := fun t => physRead t vw m tag a = physRead s vw m tag a) rfl
    fun _ ht x hx => (physRead_storePiece_outside (h x hx)).trans ht

theorem spadSettled_storePlaces (ps : Places) (hp : SpadSettled s) : SpadSettled (storePlaces core bs ps s) :=
  List.foldlRecOn ps (storePiece core bs) (motive := SpadSettled) hp fun _ ht _ _ => spadSettled_storePiece ht

/-- A stored piece reads as the bytes of its access at its offset. -/
theorem physRead_storePiece_inside {off n a0 : Nat} {r : Bool} (hlo : a0 ≤ a) (hhi : a < a0 + n) (hlen : off + n ≤ bs.length)
    (hspad : m = .spad → SpadSettled s) (hrepl : r = true → ∀ x ∈ s.stores, x.covers m a = false) :
    physRead (storePiece core bs s (off, n, .byte m a0 tag r)) (.core core) m tag a = bs.getD (off + (a - a0)) 0#8 := by
  have hin : InRange m a0 ((bs.drop off).take n).length m a := ⟨rfl, hlo, by rw [List.length_take, List.length_drop]; omega⟩
  have hbyte : ((bs.drop off).take n).getD (a - a0) 0#8 = bs.getD (off + (a - a0)) 0#8 := by
    rw [List.getD_eq_getElem?_getD, List.getElem?_take_of_lt (by omega), List.getElem?_drop, List.getD_eq_getElem?_getD]
  rw [← hbyte]
  cases r with
  | true => exact physRead_baseWrite_inside (fun _ => rfl) hin fun x hx hc => absurd hc (Bool.eq_false_iff.1 (hrepl rfl x hx))
  | false => exact physRead_physStore_inside hin hspad

end Pieces

/-- Settles O15: a byte outside every piece is outside each store, and the last piece's bytes are the newest that its core sees. -/
theorem storeFrame : Obligations.StoreFrame := by
  unfold Obligations.StoreFrame
  intro core f ps u
  refine ⟨fun vw m tag a hout => ?frame, fun ps' l off n m a0 tag r a hps hlo hhi hlen hspad hrepl => ?stored⟩
  case frame =>
    refine List.foldlRecOn ps _ (motive := fun t => physRead t vw m tag a = physRead u vw m tag a) rfl fun t ht x hx => ?_
    refine (physRead_storePlaces_outside fun y hy hc => hout ?_).trans ht
    obtain ⟨off, n, a0, tag0, r, rfl, hlo, hhi⟩ := hc
    exact ⟨x, hx, off, n, a0, tag0, r, hy, hlo, hhi⟩
  case stored =>
    subst hps
    have hspad' (hm : m = .spad) : SpadSettled (ps'.foldl (fun s x => storePlaces core (f x.1) x.2 s) u) :=
      List.foldlRecOn ps' _ (motive := SpadSettled) (hspad hm) fun _ ht x _ => spadSettled_storePlaces x.2 ht
    simp only [List.foldl_append]
    exact physRead_storePiece_inside hlo hhi hlen hspad' hrepl

/-! ### What a step at a scope's point changes (R254) -/

/-- Only memories, what is noted of them, pending stores and their identities have changed. -/
def AccessOnly (s t : State) : Prop :=
  t = { s with hbm := t.hbm, host := t.host, peer := t.peer, spad := t.spad, hbmTag := t.hbmTag, touched := t.touched, stale := t.stale,
               stores := t.stores, nextId := t.nextId }

theorem accessOnly_refl (s : State) : AccessOnly s s := rfl

theorem accessOnly_trans {s t u : State} (h1 : AccessOnly s t) (h2 : AccessOnly t u) : AccessOnly s u := by
  unfold AccessOnly at *
  rw [h1] at h2
  exact h2

theorem MemoryOnly.access {s t : State} (h : MemoryOnly s t) : AccessOnly s t := by
  unfold AccessOnly
  rw [h.rest]

theorem AccessOnly.partitions {s t : State} (h : AccessOnly s t) : t.partitions = s.partitions := by rw [h]

theorem accessOnly_foldl {α : Type} {f : State → α → State} (hf : ∀ s x, AccessOnly s (f s x)) (xs : List α) (s : State) :
    AccessOnly s (xs.foldl f s) :=
  List.foldlRecOn xs f (accessOnly_refl s) fun u hu x _ => accessOnly_trans hu (hf u x)

theorem accessOnly_dropOld (s : State) (core : Nat) (m : Mem) (a n : Nat) :
    AccessOnly s (if s.stale.isEmpty then s else dropStale (readsThrough s core) m a n s) := by
  split
  · exact accessOnly_refl s
  · exact (memoryOnly_dropStale _ m a n s).access

theorem accessOnly_physWriteAt (s : State) (core scope : Nat) (m : Mem) (tag a : Nat) (bs : List Byte) :
    AccessOnly s (physWriteAt s core scope m tag a bs) := by
  unfold physWriteAt
  split
  · exact (memoryOnly_baseWrite s _ _ _ _).access
  · refine accessOnly_trans (accessOnly_dropOld s core m a bs.length) ?_
    dsimp only
    generalize (if s.stale.isEmpty then s else dropStale (readsThrough s core) m a bs.length s) = u
    split
    · exact (memoryOnly_physWrite u _ _ _ _).access
    · rfl

theorem accessOnly_syncPiece (core scope : Nat) (s : State) (x : Nat × Nat × Place) : AccessOnly s (syncPiece core scope s x) := by
  obtain ⟨off, n, ⟨m, a, tag, r⟩ | _⟩ := x
  · exact accessOnly_trans (accessOnly_dropOld s core m a n) (memoryOnly_performStores _ _ _).access
  · exact accessOnly_refl s

theorem accessOnly_writePieceAt (core scope : Nat) (bs : List Byte) (s : State) (x : Nat × Nat × Place) :
    AccessOnly s (writePieceAt core scope bs s x) := by
  obtain ⟨off, n, ⟨m, a, tag, r⟩ | _⟩ := x
  · exact accessOnly_physWriteAt ..
  · exact accessOnly_refl s

theorem accessOnly_atomStep (core scope : Nat) (ps : Places) (f : List Byte → Option (List Byte)) (s : State) :
    AccessOnly s (atomStep core scope ps f s).1 := by
  have hsync := accessOnly_foldl (accessOnly_syncPiece core (pieceScope scope ps)) ps s
  unfold atomStep
  dsimp only
  split
  · exact accessOnly_trans hsync (accessOnly_foldl (accessOnly_writePieceAt core _ _) ps _)
  · exact hsync

/-! ### FUT (R275 to R278) -/

section Cells

variable (v scope : Nat)

theorem cellFull_fullCell : cellFull (fullCell v scope) = true := by
  simp [cellFull, fullCell, bytesOfNat]

theorem cellValue_fullCell : cellValue (fullCell v scope) = words64 (BitVec.ofNat 64 v) := by
  have hvalue : (fullCell v scope).take 8 = bytesOfNat 8 v := rfl
  rw [cellValue, hvalue, natOfBytes_bytesOfNat]
  exact congrArg words64 (BitVec.eq_of_toNat_eq (by simp))

variable {bs : List Byte} (h : bs.length = 16) (x : Option Nat)

/-- An emptied cell: the value of old, an empty tag, the scope, and zeros (R275). -/
theorem emptied_shape (bs : List Byte) : ∃ b, emptied x bs = bs.take 8 ++ ([0#8, b] ++ List.replicate 6 0#8) :=
  ⟨_, List.append_assoc _ _ _⟩

include h

theorem length_emptied : (emptied x bs).length = 16 := by
  obtain ⟨b, hb⟩ := emptied_shape x bs
  simp [hb, h]

theorem cellFull_emptied : cellFull (emptied x bs) = false := by
  obtain ⟨b, hb⟩ := emptied_shape x bs
  have htag : (emptied x bs).getD 8 0#8 = 0#8 := by simp [hb, h]
  rw [cellFull, htag]
  rfl

theorem cellValue_emptied : cellValue (emptied x bs) = cellValue bs := by
  obtain ⟨b, hb⟩ := emptied_shape x bs
  have hvalue : (emptied x bs).take 8 = bs.take 8 := by simp [hb, h]
  rw [cellValue, cellValue, hvalue]

theorem getD_emptied {k : Nat} (hk : 10 ≤ k) : (emptied x bs).getD k 0#8 = 0#8 := by
  obtain ⟨b, hb⟩ := emptied_shape x bs
  obtain ⟨i, rfl⟩ : ∃ i, k = 8 + (2 + i) := ⟨k - 10, by omega⟩
  have hlen : (bs.take 8).length = 8 := by simp [h]
  rw [hb, List.getD_eq_getElem?_getD, List.getElem?_append_right (by omega), hlen, Nat.add_sub_cancel_left,
    List.getElem?_append_right (by simp), List.length_cons, List.length_singleton, Nat.add_sub_cancel_left, List.getElem?_replicate]
  split <;> rfl

end Cells

/-- A word on futures whose accesses are granted does what it does with the cells, behind the part's own loads (R251, R275). -/
theorem exec_futWord {w : Bool → Instr} {sig : Ctx → Sig} {a : BitVec 7} {sc : BitVec 3} {k : Ctx → State → List (Nat × Places) → Res}
    (he : ∀ z s, exec (w z) s = issueWord z sig idleWord (fun c s => futWord c a sc accAtomic (k c) s) s) {z : Bool} {s u : State} {c : Ctx}
    {ps : List (Nat × Places)} (hr : Ready z s c (sig c))
    (hg : Granted c.w (laneReqs c (eaPair c a) 16) 16 accAtomic (peerScope (begun c (sig c) s) c.w sc.toNat) (begun c (sig c) s) u ps)
    (ht : takeWaits c c.act = []) (hp : (ps.any fun x => placesPoisoned u x.2) = false) :
    exec (w z) s = finish c s (k c ((sampled c (eaPair c a) 0x19 u).modPart c.key c.q performReads) ps) := by
  rw [he, issueWord_ready z sig _ _ s c hr, futWord, memWord_ok c _ _ _ _ _ _ u ps ((memAccess_ok_iff ..).2 hg) ht, poisonRes_clean _ _ _ hp]

/-- The lanes' scopes do not change while cells do (R274). -/
theorem futScope_access {c : Ctx} {a : BitVec 7} {sc : BitVec 3} {s t : State} (h : AccessOnly s t) : futScope c a sc t = futScope c a sc s := by
  funext l
  rw [futScope, futScope, laneScope, laneScope, h.partitions]

/-- FCLR empties the lanes' cells at the scopes that they have at its issue (R276). -/
theorem fclr_fold (c : Ctx) (a : BitVec 7) (sc : BitVec 3) (f : List Byte → Option (List Byte)) (ps : List (Nat × Places)) (s : State) :
    ps.foldl (fun t x => (atomStep (coreOf c.key) (futScope c a sc t x.1) x.2 f t).1) s =
      ps.foldl (fun t x => (atomStep (coreOf c.key) (futScope c a sc s x.1) x.2 f t).1) s := by
  have hfold : ∀ t, AccessOnly s t →
      ps.foldl (fun t x => (atomStep (coreOf c.key) (futScope c a sc t x.1) x.2 f t).1) t =
        ps.foldl (fun t x => (atomStep (coreOf c.key) (futScope c a sc s x.1) x.2 f t).1) t := by
    induction ps with
    | nil => exact fun _ _ => rfl
    | cons x xs ih =>
      intro t ht
      rw [List.foldl_cons, List.foldl_cons, futScope_access ht]
      exact ih _ (accessOnly_trans ht (accessOnly_atomStep ..))
  exact hfold s (accessOnly_refl s)

/-- Settles O17: each word by its body once its accesses are granted; FPUT.T and FTAKE by what their lanes come to. -/
theorem futureWords : Obligations.FutureWords := by
  unfold Obligations.FutureWords
  refine ⟨fun d a sc l => ⟨memFalls_reads fun _ _ => rfl, ?fputT, ?ftake, memFalls_reads fun _ _ => rfl, memFalls_reads fun _ _ => rfl, ?fclr⟩,
    fun v scope bs h => ⟨cellFull_fullCell v scope, cellValue_fullCell v scope, rfl,
      fun x => ⟨cellFull_emptied h x, cellValue_emptied h x, length_emptied h x, fun k hk => getD_emptied h x hk⟩⟩⟩
  case fputT =>
    intro z s c u ps hr hg ht hp
    refine (exec_futWord (w := (.fputT · d a sc l)) (fun _ _ => rfl) hr hg ht hp).trans ?_
    dsimp only
    change finish c s (match fputTLanes c d (fun k => laneScope _ c.w sc.toNat (eaPair c a k)) _ ps with
      | (s, none) => .fall s 1
      | (s, some l) => .trap s { cause := 0x11, info := BitVec.ofNat 32 l, addr := some (BitVec.ofNat 64 (eaPair c a l)) }) = _
    generalize fputTLanes c d _ _ ps = r
    obtain ⟨t, _ | k⟩ := r <;> rfl
  case ftake =>
    intro z s c u ps hr hg ht hp
    refine (exec_futWord (w := (.ftake · d a sc l)) (fun _ _ => rfl) hr hg ht hp).trans ?_
    dsimp only
    change finish c s (match ftakeLanes c d a (fun k => laneScope _ c.w sc.toNat (eaPair c a k)) _ ps with
      | (s, vals, []) => .fall (issuePend c l.toNat vals [] s) 1
      | (s, vals, sl) => .custom (fallThrough c (issuePend c 0 vals sl (closeWindows c.key c.q s))) 2) = _
    generalize ftakeLanes c d a _ _ ps = r
    obtain ⟨t, vals, _ | ⟨x, xs⟩⟩ := r <;> rfl
  case fclr =>
    refine memFallsIn_intro _ _ _ _ _ _ _ _ _ idleWord (fclrBody a sc) (fun _ _ => rfl) fun s c u ps hm ht hp => ?_
    rw [fclrBody, futWord, memWord_ok c _ _ _ _ _ _ _ _ hm ht, poisonRes_clean _ _ _ (hp rfl), fclr_fold]
    rfl

end Sys2Proof.Proofs
end

section

/-! ## Words that start copy requests (O20, O21) -/

namespace Sys2Proof.Proofs
open Sys2Proof.Machine Sys2Proof.Laws Sys2Proof.Safety

@[simp] theorem bitsOf_channel (ctl : Nat) : bitsOf ctl 3 0 = ctl % 16 := by simp [bitsOf]

theorem bitsOf_queue (ctl : Nat) : bitsOf ctl 7 5 = ctl / 32 % 8 := by simp [bitsOf]

/-! ### ACOPY (R290 to R292) -/

section Acopy

variable {fn total sa da : Nat} {d a : BitVec 7} {q : BitVec 3} {u : BitVec 1} {c : Ctx} {s : State}

theorem acopyBody_refused (h : copyShape fn (descWord c a 5) (descWord c a 4) = none) :
    acopyBody fn d a q u c s = .trap s (illegal 0x1C 0x03) := by
  simp only [acopyBody, h]

/-- What a request with an accepted control word and length comes to (R292). -/
def acopyChecked (fn total sa da : Nat) (d a : BitVec 7) (q : BitVec 3) (u : BitVec 1) (c : Ctx) (s : State) : Res :=
  if descWord c a 4 ≠ 0 ∧ fn ≠ 3 ∧ descPair c a 0 % sa ≠ 0 then .trap s (copyTrap 0x0F c (descPair c a 0))
  else if descWord c a 4 ≠ 0 ∧ descPair c a 2 % da ≠ 0 then .trap s (copyTrap 0x0F c (descPair c a 2))
  else if 16 ≤ chLoad s (coreOf c.key) (descWord c a 5 % 16) then .brk (.cond (.copyRoom (descWord c a 5 % 16)))
  else
    afterTakes c (blockLanes c.p.q c.p.n)
      (.fall (enqueue c (mkCopy (ownerOf s c.w c.l0) fn (descPair c a 0) (descPair c a 2) total (descWord c a 5)
        (if u = 1#1 then some q.toNat else none) (c.read d c.l0).toNat c.rnd (modeSatOf c.p.mode) c.ftz) s) 1)

variable (h : copyShape fn (descWord c a 5) (descWord c a 4) = some (total, sa, da))
include h

theorem acopyBody_outside {ea : Nat} (hlen : descWord c a 4 ≠ 0)
    (ho : copySpace s (ownerOf s c.w c.l0) fn (descPair c a 0) (descPair c a 2) (descWord c a 4) total (descWord c a 5) = some ea) :
    acopyBody fn d a q u c s = .trap s (copyTrap 0x0E c ea) := by
  simp only [acopyBody, h, if_neg hlen, ho]

theorem acopyBody_inside (ho : descWord c a 4 = 0 ∨
      copySpace s (ownerOf s c.w c.l0) fn (descPair c a 0) (descPair c a 2) (descWord c a 4) total (descWord c a 5) = none) :
    acopyBody fn d a q u c s = acopyChecked fn total sa da d a q u c s := by
  have hno : (if descWord c a 4 = 0 then none
      else copySpace s (ownerOf s c.w c.l0) fn (descPair c a 0) (descPair c a 2) (descWord c a 4) total (descWord c a 5)) = none := by
    split
    · rfl
    · next hlen => exact ho.resolve_left hlen
  simp only [acopyBody, h, hno, acopyChecked, bitsOf_channel]

end Acopy

/-- Settles O20: the four words have one body; its checks come in the order of the clauses. -/
theorem copyRequestWords : Obligations.CopyRequestWords := by
  unfold Obligations.CopyRequestWords
  intro d a q u l src dst len ctl o sig now full takes outside word
  have hword (fn : Nat) (w : Bool → Instr) (he : ∀ z s, exec (w z) s = issueWord z sig idleWord (acopyBody fn d a q u) s) : word fn w := by
    refine ⟨trapsIf_intro _ _ _ _ idleWord _ he fun _ _ _ _ h => acopyBody_refused h, fun total sa da => ?_⟩
    intro valid inside srcOk dstOk
    have hsrc (c : Ctx) (h : srcOk c) : ¬ (descWord c a 4 ≠ 0 ∧ fn ≠ 3 ∧ descPair c a 0 % sa ≠ 0) := by
      rintro ⟨h1, h2, h3⟩
      exact h.elim h1 fun h => h.elim h2 h3
    have hdst (c : Ctx) (h : dstOk c) : ¬ (descWord c a 4 ≠ 0 ∧ descPair c a 2 % da ≠ 0) := fun ⟨h1, h2⟩ => h.elim h1 h2
    refine ⟨fun ea => ?outside, ?source, ?destination, ?full, ?asleep, ?enqueued⟩
    case outside => exact trapsIf_intro _ _ _ _ idleWord _ he fun _ _ _ _ ⟨hv, hl, ho⟩ => acopyBody_outside hv hl ho
    case source =>
      refine trapsIf_intro _ _ _ _ idleWord _ he fun _ _ c _ ⟨hv, hi, hs⟩ => (acopyBody_inside hv hi).trans ?_
      obtain ⟨h1, h2⟩ := not_or.1 hs
      exact if_pos ⟨h1, not_or.1 h2⟩
    case destination =>
      refine trapsIf_intro _ _ _ _ idleWord _ he fun _ _ c _ ⟨hv, hi, hs, hd⟩ => (acopyBody_inside hv hi).trans ?_
      exact (if_neg (hsrc c hs)).trans (if_pos (not_or.1 hd))
    case full =>
      refine waitsIf_intro _ _ _ _ idleWord _ he fun _ _ c _ ⟨hv, hi, hs, hd, hf⟩ => (acopyBody_inside hv hi).trans ?_
      exact (if_neg (hsrc c hs)).trans ((if_neg (hdst c hd)).trans (if_pos hf))
    case asleep =>
      refine waitsIf_intro _ _ _ _ idleWord _ he fun _ _ c _ ⟨hv, hi, hs, hd, hf, ht⟩ => (acopyBody_inside hv hi).trans ?_
      exact (if_neg (hsrc c hs)).trans ((if_neg (hdst c hd)).trans ((if_neg hf).trans (afterTakes_asleep _ ht)))
    case enqueued =>
      refine fallsIf_intro _ _ _ _ _ idleWord _ he fun _ _ c _ ⟨hv, hi, hs, hd, hf, ht⟩ => (acopyBody_inside hv hi).trans ?_
      exact (if_neg (hsrc c hs)).trans ((if_neg (hdst c hd)).trans ((if_neg hf).trans (afterTakes_awake _ ht)))
  exact ⟨hword 0 _ fun _ _ => rfl, hword 1 _ fun _ _ => rfl, hword 2 _ fun _ _ => rfl, hword 3 _ fun _ _ => rfl⟩

/-! ### AGATH (R297, R298) and CSTG (R436) -/

section Agath

variable {d a : BitVec 7} {sw : BitVec 4} {n : Nat} {c : Ctx} {s : State}

/-- The row size, the index register and the control word are accepted (R297, R298). -/
def agathOk (a : BitVec 7) (sw : BitVec 4) (c : Ctx) : Prop :=
  rowbOk (descWord c a 2) sw.toNat = true ∧ descWord c a 4 < 0x60 ∧ agathCtlOk (descWord c a 7) = true

/-- The index registers of AGATH as an operand. -/
def agathIdx (a : BitVec 7) (n : Nat) (c : Ctx) : List Opd := [{ code := BitVec.ofNat 7 (descWord c a 4), len := n }]

theorem agathBody_refused (h : ¬ agathOk a sw c) : agathBody d a sw n c s = .trap s (illegal 0x1D 0x03) := by
  rw [agathBody, if_pos]
  simpa [agathOk, imp_iff_not_or, or_assoc] using h

variable (h : agathOk a sw c)
include h

theorem agathBody_bound (hb : c.w.regs < descWord c a 4 + n) :
    agathBody d a sw n c s = .trap s (boundTrap c.l0 (descWord c a 4) n c.w.regs false false) := by
  rw [agathBody, if_neg (by simpa [agathOk, and_assoc] using h), if_pos hb]

theorem agathBody_outside (hb : descWord c a 4 + n ≤ c.w.regs) {ea : Nat}
    (ho : agathSpace s (ownerOf s c.w c.l0) (descWord c a 5) (descWord c a 6) n (descWord c a 2) (descWord c a 7) = some ea) :
    agathBody d a sw n c s = .trap s (copyTrap 0x0E c ea) := by
  rw [agathBody, if_neg (by simpa [agathOk, and_assoc] using h), if_neg (by omega), ho]

/-- The state in which SECDED has corrected the index registers (R108). -/
def agathState (a : BitVec 7) (n : Nat) (c : Ctx) (s : State) : State :=
  if c.w.flaws = [] then s else s.modWave c.key (correctReads c.q [c.l0] (agathIdx a n c))

omit h in
theorem agathState_eq : ∃ ws, agathState a n c s = { s with waves := ws } := by
  rw [agathState]
  split
  · exact ⟨_, rfl⟩
  · exact ⟨_, rfl⟩

omit h in
theorem ownerOf_agathState (w : Wave) (l : Nat) : ownerOf (agathState a n c s) w l = ownerOf s w l := by
  obtain ⟨ws, hws⟩ := agathState_eq (a := a) (n := n) (c := c) (s := s)
  rw [hws]
  rfl

/-- The request of AGATH (R297). -/
def agathCopy (d a : BitVec 7) (sw : BitVec 4) (n : Nat) (c : Ctx) (s : State) : Copy :=
  { mkCopy (ownerOf s c.w c.l0) 0 (descPair c a 0) (descWord c a 5) (n * descWord c a 2) (descWord c a 7)
      (if bitOf (descWord c a 7) 4 then some (bitsOf (descWord c a 7) 7 5) else none) (c.read d c.l0).toNat 0 false false with
    gather := some { rowb := descWord c a 2, nrows := descWord c a 3, frow := descWord c a 6, swz := sw.toNat,
                     idx := (List.range n).map fun j => (c.w.getV (descWord c a 4 + j) c.l0).toNat } }

theorem agathBody_enqueued (hb : descWord c a 4 + n ≤ c.w.regs)
    (ho : agathSpace s (ownerOf s c.w c.l0) (descWord c a 5) (descWord c a 6) n (descWord c a 2) (descWord c a 7) = none)
    (hsettled : (c.p.pend.all fun x => !(boardHit c.w [c.l0] (agathIdx a n c) x)) = true)
    (hhome : c.w.areaLost = true → descWord c a 4 + n ≤ c.w.vbound) (ht : takeWaits c (blockLanes c.p.q c.p.n) = [])
    (hclean : readsPoison c.w [c.l0] (agathIdx a n c) = false) (hroom : chLoad s (coreOf c.key) (descWord c a 7 % 16) < 16) :
    agathBody d a sw n c s = .fall (enqueue c (agathCopy d a sw n c s) (agathState a n c s)) 1 := by
  have hhits : ((c.p.pend.filter (boardHit c.w [c.l0] (agathIdx a n c))).map (·.id)).isEmpty = true := by simpa using hsettled
  have hlost : (c.w.areaLost && decide (c.w.vbound < descWord c a 4 + n)) = false := by
    cases hl : c.w.areaLost with
    | false => rfl
    | true => exact decide_eq_false (by have := hhome hl; omega)
  have hstate : (if c.w.flaws.isEmpty then s else s.modWave c.key (correctReads c.q [c.l0] (agathIdx a n c))) = agathState a n c s := by
    simp [agathState]
  have hload : chLoad (agathState a n c s) (coreOf c.key) (descWord c a 7 % 16) < 16 := by
    obtain ⟨ws, hws⟩ := agathState_eq (a := a) (n := n) (c := c) (s := s)
    exact hws ▸ hroom
  rw [agathBody, if_neg (by simpa [agathOk, and_assoc] using h), if_neg (by omega), ho]
  dsimp only
  rw [show ([{ code := BitVec.ofNat 7 (descWord c a 4), len := n }] : List Opd) = agathIdx a n c from rfl, hhits, hlost, hclean, hstate, bitsOf_channel,
    if_neg (Nat.not_le.2 hload), afterTakes_awake _ ht]
  rfl

end Agath

theorem cstgBody_eq {a : BitVec 7} {c : Ctx} {s : State} {g : Wg} (hg : kget s.wgs c.w.wg = some g)
    (ht : takeWaits c (blockLanes c.p.q c.p.n) = []) :
    cstgBody a c s =
      let stage := min (g.stage + (c.read a 0).toNat) 65535
      let upto := min stage (kgetD {} s.grids g.grid).launch.schedn
      let r := releaseEntries c.w.wg (originOf s c.w c.pc0).2.2.2 (upto - g.released) g.released
        (s.modWg c.w.wg fun x => { x with stage := stage, released := max x.released upto })
      .fall (engineIssued c r.2 r.1) 1 := by
  simp only [cstgBody, setStage, hg, afterTakes_awake _ ht]

/-- Settles O21: AGATH by its checks in their order, CSTG by its body in a workgroup that is there. -/
theorem gatherAndStageWords : Obligations.GatherAndStageWords := by
  unfold Obligations.GatherAndStageWords
  intro d a w n3 l m n word rowb idxr ctl o sig ok outside ix settled
  have he (z : Bool) (s : State) : exec (.agath z d a w m l) s = issueWord z sig idleWord (agathBody d a w n) s := rfl
  refine ⟨?refused, ?bound, fun ea => ?outside, ?enqueued, fun g => ?cstg⟩
  case refused => exact trapsIf_intro _ _ _ _ idleWord _ he fun _ _ _ _ h => agathBody_refused h
  case bound => exact trapsIf_intro _ _ _ _ idleWord _ he fun _ _ _ _ ⟨h, hb⟩ => agathBody_bound h hb
  case outside => exact trapsIf_intro _ _ _ _ idleWord _ he fun _ _ _ _ ⟨h, hb, ho⟩ => agathBody_outside h hb ho
  case enqueued =>
    refine fallsIf_intro _ _ _ _ _ idleWord _ he fun _ s c _ ⟨h, hb, ho, hs, hhome, ht, hc, hroom⟩ =>
      (agathBody_enqueued h hb ho hs hhome ht hc hroom).trans ?_
    rw [agathCopy, bitsOf_queue, ← ownerOf_agathState (a := a) (n := n)]
    rfl
  case cstg => exact fallsIf_intro _ _ _ _ _ idleWord (cstgBody a) (fun _ _ => rfl) fun _ _ _ _ ⟨hg, ht⟩ => cstgBody_eq hg ht

end Sys2Proof.Proofs
end

section

/-! ## Waits and counters (O26, O28) -/

namespace Sys2Proof.Proofs
open Sys2Proof.Machine Sys2Proof.Laws Sys2Proof.Safety

/-! ### Delivery barriers as objects (R432, R440) -/

theorem cutAt_head {size a n : Nat} : ∃ k xs, cutAt size a n = (0, k) :: xs := by
  rw [cutAt, cutFrom]
  split
  · exact ⟨_, _, rfl⟩
  · exact ⟨_, _, rfl⟩

/-- The address of a delivery barrier that lies in its space and is aligned (R440). -/
theorem dbarAddr_ok {s : State} {c : Ctx} {ea x : Nat} (h : BarrierAt s c.w ea x) : dbarAddr c s ea = .ok x := by
  cases h with
  | shared off g hs hg hx ha =>
    have hp : piecesOf s c.w c.l0 ea 64 = some [{ off := 0, n := 64, dest := .spad (g.core * 2 ^ 19 + g.spadBase + off) }] := by
      change spaceOf (kgetD {} s.partitions c.w.partition) ea = _ at hs
      simp only [piecesOf, piecesFor, ownerOf, hs, hg]
      exact if_pos hx
    simp only [dbarAddr, hp, if_pos ha]
  | cluster off hs hx ho ha =>
    obtain ⟨k, xs, hcut⟩ := cutAt_head (size := 2 ^ 19) (a := off) (n := 64)
    have hp : ∃ ys, piecesOf s c.w c.l0 ea 64 =
        some ({ off := 0, n := k, dest := .spad (clusterOf (coreOf c.w.key) * 4 * 2 ^ 19 + off) } :: ys) := by
      change spaceOf (kgetD {} s.partitions c.w.partition) ea = _ at hs
      have hown : (decide (off + 64 ≤ 2 ^ 21) && (List.range 64).all fun i =>
          spadOwned s c.w.grid (clusterOf (coreOf c.w.key) * 4 + (off + i) / 2 ^ 19) ((off + i) % 2 ^ 19)) = true := by
        rw [Bool.and_eq_true, decide_eq_true_eq, List.all_eq_true]
        exact ⟨hx, fun i hi => ho i (List.mem_range.1 hi)⟩
      refine ⟨xs.map fun y => { off := y.1, n := y.2, dest := .spad (clusterOf (coreOf c.w.key) * 4 * 2 ^ 19 + off + y.1) }, ?_⟩
      simp only [piecesOf, piecesFor, ownerOf, hs, hown, if_true, hcut, List.map_cons, Nat.add_zero]
    obtain ⟨ys, hp⟩ := hp
    simp only [dbarAddr, hp, if_pos ha]

/-! ### WAIT (R431, R432) -/

/-- A wait word: it passes once its condition holds, else it waits; with no active lane it does the same. -/
theorem wait_word {w : Bool → Instr} (g : Ctx → Sig) (P : Ctx → Prop) (Q done : State → Ctx → Prop) {k : Ctx → Cond} {pass : Ctx → State → State}
    {idle body : Ctx → State → Res} (he : ∀ z s, exec (w z) s = issueWord z g idle body s) (hg : ∀ c, (g c).minQuads = none)
    (hpass : ∀ c s, Q s c → done s c → body c s = .fall (pass c s) 1) (hwait : ∀ c s, Q s c → ¬ done s c → body c s = .hold s (.cond (k c)))
    (hidle : ∀ c s, P c → idle c s = body c s) :
    FallsIf (fun s c => Q (begun c (g c) s) c ∧ done (begun c (g c) s) c) w g (fun _ => 1) pass ∧
    HoldsIf (fun s c => Q (begun c (g c) s) c ∧ ¬ done (begun c (g c) s) c) w g (fun c _ => .cond (k c)) (fun _ s => s) ∧
    IdlesIf (fun s c => P c ∧ Q (begun c noSig s) c ∧ done (begun c noSig s) c) w pass :=
  ⟨fallsIf_intro _ _ _ _ _ _ _ he fun _ _ c _ h => hpass c _ h.1 h.2,
    holdsIf_intro _ _ _ _ _ _ _ he fun _ _ c _ h => hwait c _ h.1 h.2,
    idlesFor_intro _ _ _ _ _ _ _ he hg fun _ c h => (hidle c _ h.1).trans (hpass c _ h.2.1 h.2.2)⟩

theorem waitRes_true (k : Cond) (s : State) {done : Bool} (h : done = true) : waitRes done k s = .fall s 1 := if_pos h

theorem waitRes_false (k : Cond) (s : State) {done : Bool} (h : ¬ done = true) : waitRes done k s = .hold s (.cond k) := if_neg h

/-- With no active lane a wait whose uniform operand is settled acts as with one (R432). -/
theorem waitIdle_settled {a : BitVec 7} {c : Ctx} (f : Ctx → State → Res) (s : State)
    (h : codeIsW a = true → c.p.pend.filter (boardHit c.w [] [rdW true a]) = []) : waitIdle a f c s = f c s := by
  unfold waitIdle
  split
  · next hw => rw [idleReads, h hw]; rfl
  · rfl

theorem dwaitBody_at {a : BitVec 7} {ph : BitVec 1} {c : Ctx} {s : State} {x : Nat} (h : dbarAddr c s (waitVal c a) = .ok x) :
    dwaitBody a ph c s =
      if dbarPhase s x ≠ decide (ph = 1#1) then .fall (physAcquire s (coreOf c.key) (dbarScope c s (waitVal c a))) 1
      else .hold s (.cond (.dbar x (decide (ph = 1#1)))) := by
  simp only [dwaitBody, h, bne_iff_ne]

/-- Settles O26: each word passes or holds by its condition, DWAIT at the barrier that its address names. -/
theorem waitWords : Obligations.WaitWords := by
  unfold Obligations.WaitWords
  intro a i ch v ph t val sig same settled wait all uni free tsig
  refine ⟨?waitt, ?wpwait, fun x => ?dwait, fun tr => ?dwaitTrap, ?sleepw, ?vwait, ?vwaitVers, ?vwaitHold, ?vwaitIdle⟩
  case waitt =>
    exact wait_word _ all free (fun _ c => tokenPending c.p i.toNat = false) (idle := waittBody i) (body := waittBody i) (fun _ _ => rfl)
      (fun _ => rfl) (fun c s _ h => waitRes_true _ s (by rw [h]; rfl)) (fun c s _ h => waitRes_false _ s (by simpa using h)) fun _ _ _ => rfl
  case wpwait =>
    exact wait_word sig uni free (fun s c => val c ≤ wpOf s c.w ch.toNat) (idle := fun c => waitIdle a (wpwaitBody a ch) c)
      (body := wpwaitBody a ch) (fun _ _ => rfl) (fun _ => rfl) (fun c s _ h => waitRes_true _ s (decide_eq_true h))
      (fun c s _ h => waitRes_false _ s (mt of_decide_eq_true h)) fun c s h => waitIdle_settled _ s h
  case dwait =>
    refine wait_word sig uni (fun s c => BarrierAt s c.w (val c) x) (fun s _ => dbarPhase s x ≠ decide (ph = 1#1))
      (idle := fun c => waitIdle a (dwaitBody a ph) c) (body := dwaitBody a ph) (fun _ _ => rfl) (fun _ => rfl)
      (fun c s hx h => ?_) (fun c s hx h => ?_) fun c s h => waitIdle_settled _ s h
    · exact (dwaitBody_at (dbarAddr_ok hx)).trans (if_pos h)
    · exact (dwaitBody_at (dbarAddr_ok hx)).trans (if_neg h)
  case dwaitTrap =>
    refine trapsIf_intro _ _ _ _ (fun c => waitIdle a (dwaitBody a ph) c) (dwaitBody a ph) (fun _ _ => rfl) fun _ s c hr h => ?_
    change dbarAddr c (begun c (sig c) s) (waitVal c a) = .error tr at h
    simp only [dwaitBody, h, if_neg (show ¬ c.act.isEmpty = true by simpa using hr.live)]
  case sleepw =>
    exact wait_word sig uni free (fun s c => val c ≤ s.time) (idle := fun c => waitIdle a (sleepwBody a) c)
      (body := sleepwBody a) (fun _ _ => rfl) (fun _ => rfl) (fun c s _ h => waitRes_true _ s (decide_eq_true h))
      (fun c s _ h => waitRes_false _ s (mt of_decide_eq_true h)) fun c s h => waitIdle_settled _ s h
  case vwait =>
    refine fallsIf_intro _ _ _ _ _ (vwaitBody v t) (vwaitBody v t) (fun _ _ => rfl) fun _ s c _ ⟨ho, hv⟩ => ?_
    simp [vwaitBody, ho, hv, same]
  case vwaitVers =>
    refine trapsIf_intro _ _ _ _ (vwaitBody v t) (vwaitBody v t) (fun _ _ => rfl) fun _ s c hr ⟨ho, hv⟩ => ?_
    simp [vwaitBody, ho, hv, hr.live]
  case vwaitHold =>
    refine holdsIf_intro _ _ _ _ _ (vwaitBody v t) (vwaitBody v t) (fun _ _ => rfl) fun _ s c _ ho => ?_
    simp [vwaitBody, ho, same]
  case vwaitIdle =>
    refine fun z s c h1 h2 h3 h4 ho => idlesFor_intro (fun _ c => (c.w.tile t.toNat).ops = [] ∧ c.act = []) (.vwait · v t) tsig (fun _ => 1) same
      (vwaitBody v t) (vwaitBody v t) (fun _ _ => rfl) (fun _ => rfl) (fun s c ⟨ho, ha⟩ => ?_) z s c h1 h2 h3 h4 ⟨ho, h4⟩
    simp [vwaitBody, ho, ha, same]

/-! ### CYCLE in a wave that is filed under another wave's key (R441, R442) -/

/-- The checks of CYCLE. -/
def cycleSig (d : BitVec 7) (_ : Ctx) : Sig := { maj := 0x30, opds := [wrW true d] }

/-- What CYCLE writes: the cycles of the wave by the clock of the core that the wave itself names. -/
theorem wrote_cycle {z : Bool} {s : State} {c : Ctx} {d : BitVec 7} (h : Ready z s c (cycleSig d c)) :
    ∃ t, exec (.cycle z d) s = .next t ∧ Wrote s t c d (fun _ => wordsOf true (waveCycles s c.w)) :=
  wrote_intro (i := (.cycle · d)) (sig := cycleSig d) (idle := idleWord)
    (body := fun c s => .fall (writeNat c true d (fun _ => waveCycles s c.w) s) 1) (fun _ _ => rfl) h rfl

/-- What a lane of a vector destination holds is told by what was written. -/
theorem wrote_word {s t : State} {c : Ctx} {d : BitVec 7} {f : Nat → List Word} (h : Wrote s t c d f) (hd : codeIsVec d = true) {l : Nat}
    (hl : l ∈ c.act) (hl' : l < 64) (hf : 0 < (f l).length) : vAt t c.key (regNum c.w d l) l = (f l).getD 0 0#32 := by
  rw [h.lanes _ _ hl', if_pos ⟨hd, hl, by omega, by omega⟩, Nat.sub_self]

/-- The machine with one wave, filed under key 0 on core 0, whose record names a slot of core 8; that core's island has counted no cycle. -/
def strayWave : State :=
  { (State.reset.withFetchWord 32 0).modWave 0 (fun w => { w with key := 512 }) with
    focus := some 0, runs := [(0, { wave := 0, q := 0 })], time := 5, lag := cellsPut 0 [] (islandOf 8) 5000 }

/-- CYCLE is ready in `strayWave`, in lane 0 too, and the two clocks differ there. -/
theorem ready_strayWave : ∃ c, Ready false strayWave c (cycleSig 8#7 c) ∧ 0 ∈ c.act ∧ c.w.stopped = false ∧
    waveCycles strayWave c.w = 0 ∧ c.w.cycBase + (cycleOf strayWave (coreOf c.key) - c.w.cycle0) = 5 :=
  ⟨_, ⟨rfl, by decide, by decide, by decide, by decide, by decide, by decide, by decide, by decide⟩, by decide, by decide, by decide, by decide⟩

/-- Refutes O28: CYCLE counts by the clock of the core that the wave's own record names, and the statement by that of the core whose key the wave
is filed under; in `strayWave` these are cores of two islands, and their clocks differ. -/
theorem not_deliveryAndCounterWords : ¬ Obligations.DeliveryAndCounterWords := by
  unfold Obligations.DeliveryAndCounterWords
  intro h
  obtain ⟨-, -, -, -, -, -, -, -, hcycle, -, -⟩ := h 8#7 2#7 0#4 0#4 0#3 0#3
  obtain ⟨c, hr, hl, hstopped, hown, hfiled⟩ := ready_strayWave
  obtain ⟨t, ht, hmodel⟩ := wrote_cycle hr
  obtain ⟨u, hu, hstated⟩ := hcycle false strayWave c hr
  have htu : t = u := by
    rw [ht] at hu
    exact Host.Outcome.next.inj hu
  subst htu
  have hlen (x : Nat) : 0 < (wordsOf true x).length := Nat.zero_lt_succ 1
  have hboth := (wrote_word hmodel rfl hl (by decide) (hlen _)).symm.trans (wrote_word hstated rfl hl (by decide) (hlen _))
  simp only [hstopped, Bool.false_eq_true, if_false, hown, hfiled] at hboth
  exact absurd hboth (by decide)

end Sys2Proof.Proofs
end

section

/-! ## Launches, record queues and events (O29 to O31) -/

namespace Sys2Proof.Proofs
open Sys2Proof.Machine Sys2Proof.Laws Sys2Proof.Safety

/-- A memory word that releases and reads completes once its accesses are granted, every lane of its part is awake and its data is not poisoned. -/
theorem memReleases_reads {w : Bool → Instr} {sig : Ctx → Sig} {reqs : Ctx → List Req} {align : Ctx → Nat} {acc : Acc}
    {extra : State → Ctx → Req → Bool} {eff : Ctx → List (Nat × Places) → State → State}
    (he : ∀ z s, exec (w z) s = issueWord z sig idleWord (fun c s =>
      releaseWord c (reqs c) (align c) acc (extra s c) (fun u ps => poisonRes u ps (.fall (eff c ps u) 1)) s) s) :
    MemReleases true w sig reqs align acc extra eff :=
  memFallsIn_intro _ _ _ _ _ _ _ _ _ idleWord _ he fun _ c _ _ hm ht hp =>
    (releaseWord_ok c _ _ _ _ _ _ _ _ hm ht).trans (poisonRes_clean _ _ _ (hp rfl))

/-- A word that always has its effect completes with it. -/
theorem falls_word {w : Bool → Instr} {sig : Ctx → Sig} {cost : Ctx → Nat} {eff : Ctx → State → State}
    (he : ∀ z s, exec (w z) s = issueWord z sig idleWord (fun c s => .fall (eff c s) (cost c)) s) : Falls w sig cost eff :=
  falls_intro _ _ _ _ idleWord _ he fun _ _ _ _ => rfl

/-! ### LAUNCH and LAUNCHB (R328, R329) -/

section DeviceLaunch

variable {gid : Nat} {addrs : List Nat} {s : State}

theorem deviceLaunch_deep (h : (kgetD {} s.grids gid).depth = 10) : deviceLaunch gid addrs s = (s, 1) := if_pos h

variable (h : (kgetD {} s.grids gid).depth ≠ 10)
include h

theorem deviceLaunch_full (hw : 4096 ≤ waitingChildren s (kgetD {} s.grids gid).partition) : deviceLaunch gid addrs s = (s, 2) :=
  (if_neg h).trans (if_pos hw)

variable (hw : waitingChildren s (kgetD {} s.grids gid).partition < 4096)
include hw

/-- A launch that nothing limits is refused, with no grid added, where it names no record or one of its records is refused. -/
theorem deviceLaunch_refused (hr : addrs = [] ∨ (submitAll gid addrs s).2 = none) :
    (deviceLaunch gid addrs s).2 = 3 ∧ (deviceLaunch gid addrs s).1.grids = s.grids := by
  rw [deviceLaunch, if_neg h, if_neg (Nat.not_le.2 hw)]
  split
  · exact ⟨rfl, rfl⟩
  · next hne =>
    have hnone := hr.resolve_left fun e => hne (List.isEmpty_iff.2 e)
    generalize submitAll gid addrs s = r at hnone
    obtain ⟨t, ids⟩ := r
    cases hnone
    exact ⟨rfl, rfl⟩

theorem deviceLaunch_ok {ids : List Nat} (hne : addrs ≠ []) (hr : (submitAll gid addrs s).2 = some ids) : (deviceLaunch gid addrs s).2 = 0 := by
  rw [deviceLaunch, if_neg h, if_neg (Nat.not_le.2 hw), if_neg fun e => hne (List.isEmpty_iff.1 e)]
  generalize submitAll gid addrs s = r at hr
  obtain ⟨t, ids'⟩ := r
  cases hr
  rfl

end DeviceLaunch

/-- Settles O29: the words by their body once their accesses are granted, the statuses by the limits of R329. -/
theorem launchWords : Obligations.LaunchWords := by
  unfold Obligations.LaunchWords
  exact ⟨fun d a l => ⟨memReleases_reads fun _ _ => rfl, memReleases_reads fun _ _ => rfl⟩,
    fun gid addrs s => ⟨deviceLaunch_deep, deviceLaunch_full, fun h hw => ⟨deviceLaunch_refused h hw, fun _ => deviceLaunch_ok h hw⟩⟩⟩

/-! ### ENQR, RQFLUSH and RQSTAT (R330 to R332) -/

theorem enqrBody_bound {d a : BitVec 7} {la : BitVec 4} {c : Ctx} {s : State} {t : Trap}
    (h : (c.act.findSome? fun k => (enqSpan c d a s k).bound c.w [k]) = some t) : enqrBody d a la c s = .trap s t := by
  simp only [enqrBody, h]

/-- The state in which SECDED has corrected the spans of ENQR (R108). -/
def enqrState (d a : BitVec 7) (c : Ctx) (s : State) : State :=
  if c.w.flaws.isEmpty then s
  else s.modWave c.key fun w => c.act.foldl (fun w l => correctReads c.q [l] [{ enqSpan c d a s l with src := true }] w) w

theorem enqrBody_enqueues {d a : BitVec 7} {la : BitVec 4} {c : Ctx} {s : State} (ht : takeWaits c (blockLanes c.p.q c.p.n) = [])
    (hhome : c.w.areaLost = false)
    (h : ∀ k ∈ c.act, (enqSpan c d a s k).bound c.w [k] = none ∧ (∀ x ∈ c.p.pend, boardHit c.w [k] [enqSpan c d a s k] x = false) ∧
      readsPoison c.w [k] [{ enqSpan c d a s k with src := true }] = false) :
    enqrBody d a la c s =
      let r := enqLanes c d a c.act ((enqrState d a c s).modPart c.key c.q performReads) []
      .fall (writeLater c d la.toNat (fun k => [BitVec.ofNat 32 (laneVal r.2 k)]) r.1) 1 := by
  have hbound : (c.act.findSome? fun k => (enqSpan c d a s k).bound c.w [k]) = none := List.findSome?_eq_none_iff.2 fun k hk => (h k hk).1
  have hhits : (c.p.pend.filter fun x => c.act.any fun k => boardHit c.w [k] [enqSpan c d a s k] x) = [] :=
    List.filter_eq_nil_iff.2 fun x hx => by simpa using fun k hk => (h k hk).2.1 x hx
  have hclean : (c.act.any fun k => readsPoison c.w [k] [{ enqSpan c d a s k with src := true }]) = false :=
    List.any_eq_false.2 fun k hk => by simp [(h k hk).2.2]
  simp only [enqrBody, hbound, hhits, hclean, hhome, afterTakes_awake _ ht]
  rfl

/-- Settles O30: ENQR by the span of each lane, the other words by their bodies. -/
theorem recordQueueWords : Obligations.RecordQueueWords := by
  unfold Obligations.RecordQueueWords
  intro d a l esig span ready corrected out sig
  refine ⟨?enqr, fun tr => ?bound, ?flush, ?stat, fun c k s h => ⟨?enqNone, ?flushNone, ?statNone⟩⟩
  case enqr =>
    exact fallsIf_intro _ _ _ _ _ idleWord (enqrBody d a l) (fun _ _ => rfl) fun _ _ _ _ ⟨ht, hhome, h⟩ => enqrBody_enqueues ht hhome h
  case bound => exact trapsIf_intro _ _ _ _ idleWord (enqrBody d a l) (fun _ _ => rfl) fun _ _ _ _ h => enqrBody_bound h
  case flush => exact falls_word fun _ _ => rfl
  case stat => exact falls_word fun _ _ => rfl
  case enqNone => simp only [enqLanes, h, List.nil_append]
  case flushNone => simp only [flushLanes, h, List.nil_append]
  case statNone => simp only [rqStat, h, Option.bind_none]

/-! ### EVPOST, CPOLL, CSLEEP and SIGNAL (R326, R327) -/

/-- The timeout that a CSLEEP counts from its first issue (R327). -/
def csleepLimit (a : BitVec 7) (c : Ctx) (s : State) : Option Nat :=
  c.p.timeout.or (if (c.read a c.l0).toNat / 65536 = 0 then none else some (s.time + 1000 * ((c.read a c.l0).toNat / 65536)))

/-- A CSLEEP polls once its queue holds a record or its timeout has passed. -/
def csleepDue (a : BitVec 7) (c : Ctx) (s : State) : Prop :=
  cqHas s c.w.grid ((c.read a c.l0).toNat % 8) = true ∨ ∃ t ∈ csleepLimit a c s, t ≤ s.time

theorem csleepDue_iff {a : BitVec 7} {c : Ctx} {s : State} :
    (cqHas s c.w.grid ((c.read a c.l0).toNat % 8) || (csleepLimit a c s).any fun t => decide (t ≤ s.time)) = true ↔ csleepDue a c s := by
  rw [csleepDue, Bool.or_eq_true]
  cases csleepLimit a c s <;> simp

theorem csleepBody_due {d a : BitVec 7} {la : BitVec 4} {c : Ctx} {s : State} (h : csleepDue a c s) : csleepBody d a la c s = pollBody d a la c s :=
  if_pos (csleepDue_iff.2 h)

theorem csleepBody_waits {d a : BitVec 7} {la : BitVec 4} {c : Ctx} {s : State} (h : ¬ csleepDue a c s) :
    csleepBody d a la c s = .hold (s.modPart c.key c.q fun p => { p with timeout := csleepLimit a c s })
      (.cond (.ring ((c.read a c.l0).toNat % 8) (csleepLimit a c s))) :=
  if_neg (mt csleepDue_iff.1 h)

/-- Settles O31: each word by its body; CSLEEP by whether a record or its timeout is there. -/
theorem eventWords : Obligations.EventWords := by
  unfold Obligations.EventWords
  intro d a l sig poll x limit due release
  refine ⟨?evpost, ?cpoll, ?csleep, ?csleepWaits, ?signal⟩
  case evpost =>
    exact fallsIf_intro _ _ _ _ _ idleWord (evpostBody d a) (fun _ _ => rfl) fun _ _ _ _ ht => afterTakes_awake _ ht
  case cpoll => exact falls_intro _ _ _ _ idleWord (pollBody d a l) (fun _ _ => rfl) fun _ _ _ _ => rfl
  case csleep =>
    exact fallsIf_intro _ _ _ _ _ idleWord (csleepBody d a l) (fun _ _ => rfl) fun _ s c _ h => csleepBody_due (s := begun c (sig c) s) h
  case csleepWaits =>
    exact holdsIf_intro _ _ _ _ _ idleWord (csleepBody d a l) (fun _ _ => rfl) fun _ s c _ h => csleepBody_waits (s := begun c (sig c) s) h
  case signal => exact memFallsIn_intro _ _ _ _ _ _ _ _ _ idleWord (signalBody d a) (fun _ _ => rfl) fun _ c _ _ hm ht _ => releaseWord_ok c _ _ _ _ _ _ _ _ hm ht

end Sys2Proof.Proofs
end

section

/-! ## Translation and images (O35, O37) -/

namespace Sys2Proof.Proofs
open Sys2Proof.Machine Sys2Proof.Laws Sys2Proof.Safety

/-! ### ATR, ATW, TLBINV and TLBINVA (R384, R385) -/

/-- What invalidation leaves: the selected translations and table pointers are gone, and every access that used one is performed (R385). -/
def invalidated (sel : Nat) (hit : TlbEntry → Bool) (hitPtr : TablePtr → Bool) (s : State) : State :=
  performStores { s with tlb := s.tlb.filter fun t => !(tlbSelected sel t && hit t),
                         ptrs := s.ptrs.filter fun x => !(ptrSelected sel x && hitPtr x) } (fun _ => true) 5

theorem bitsOf_partition (sel : Nat) : bitsOf sel 14 12 = sel / 4096 % 8 := by simp [bitsOf]

theorem bitsOf_context (sel : Nat) : bitsOf sel 11 0 = sel % 4096 := by simp [bitsOf]

theorem astpIds_invalidated (sel : Nat) (hit : TlbEntry → Bool) (hitPtr : TablePtr → Bool) (s : State) (p : Nat) :
    astpIds (invalidated sel hit hitPtr s) p = astpIds s p := by
  rw [astpIds, invalidated, (memoryOnly_performStores _ _ _).rest]
  rfl

section TlbDrop

variable {c : Ctx} {sel : Nat} {hit : TlbEntry → Bool} {hitPtr : TablePtr → Bool} {s : State}

theorem tlbDrop_reserved (h : 65536 ≤ sel) : tlbDrop c sel hit hitPtr s = .trap s (illegal 0x38 0x03) := if_pos (by omega)

theorem tlbDrop_eq (h : sel < 65536) : tlbDrop c sel hit hitPtr s =
    if (astpIds s (sel / 4096 % 8)).isEmpty then .fall (invalidated sel hit hitPtr s) 1
    else .rest (fallThrough c (invalidated sel hit hitPtr s)) (.cond (.past (astpIds s (sel / 4096 % 8)))) := by
  rw [← bitsOf_partition, ← astpIds_invalidated sel hit hitPtr]
  exact if_neg (by omega)

theorem tlbDrop_done (h : sel < 65536) (ha : astpIds s (sel / 4096 % 8) = []) :
    tlbDrop c sel hit hitPtr s = .fall (invalidated sel hit hitPtr s) 1 :=
  (tlbDrop_eq h).trans (if_pos (List.isEmpty_iff.2 ha))

theorem tlbDrop_waits (h : sel < 65536) (ha : astpIds s (sel / 4096 % 8) ≠ []) : tlbDrop c sel hit hitPtr s =
    .rest (fallThrough c (invalidated sel hit hitPtr s)) (.cond (.past (astpIds s (sel / 4096 % 8)))) :=
  (tlbDrop_eq h).trans (if_neg (mt List.isEmpty_iff.1 ha))

end TlbDrop

theorem tlbSelected_iff (sel : Nat) (t : TlbEntry) :
    tlbSelected sel t = true ↔ t.partition = sel / 4096 % 8 ∧ (sel.testBit 15 = true ∨ t.glob = false ∧ t.ctx = sel % 4096) := by
  simp [tlbSelected, bitsOf_partition, bitsOf_context, bitOf]

theorem ptrSelected_iff (sel : Nat) (x : TablePtr) :
    ptrSelected sel x = true ↔ x.partition = sel / 4096 % 8 ∧ (sel.testBit 15 = true ∨ x.ctx = sel % 4096) := by
  simp [ptrSelected, bitsOf_partition, bitsOf_context, bitOf]

/-- Settles O37: the probes by their body, the invalidations by `tlbDrop`. -/
theorem translationWords : Obligations.TranslationWords := by
  unfold Obligations.TranslationWords
  intro d a l asig at_ sel part picked inv
  have hinv (w : Bool → Instr) (f : Nat) (os : List Opd) (hit : Ctx → TlbEntry → Bool) (ptr : Ctx → TablePtr → Bool)
      (he : ∀ z s, exec (w z) s = issueWord z (fun _ => { maj := 0x38, priv := some f, opds := os }) idleWord
        (fun c s => tlbDrop c (sel c) (hit c) (ptr c) s) s) : inv w f os hit ptr :=
    ⟨trapsIf_intro _ _ _ _ idleWord _ he fun _ _ _ _ h => tlbDrop_reserved h,
      fallsIf_intro _ _ _ _ _ idleWord _ he fun _ _ _ _ h => tlbDrop_done h.1 h.2,
      restsIf_intro _ _ _ _ _ idleWord _ he fun _ _ _ _ h => tlbDrop_waits h.1 h.2⟩
  exact ⟨falls_word fun _ _ => rfl, falls_word fun _ _ => rfl, hinv _ _ _ _ _ fun _ _ => rfl, hinv _ _ _ _ _ fun _ _ => rfl,
    fun c => tlbSelected_iff (sel c), fun c => ptrSelected_iff (sel c)⟩

/-! ### TEX (R420, R421) -/

/-- A translation that fails is an XLATE, whatever lane it is of (R264). -/
theorem resolveAll_cause (y : Party) (a : Acc) (rs : List (Req × List Piece)) :
    ∀ (s : State) (x : AllAcc), (∀ t ∈ x.trap, t.cause = 0x10) → ∀ t ∈ (resolveAll y a s x rs).2.trap, t.cause = 0x10 := by
  induction rs with
  | nil => exact fun _ _ h => h
  | cons r rs ih =>
    intro s x h
    refine ih _ _ fun t ht => ?_
    rcases Option.or_eq_some_iff.1 ht with ht | ⟨-, ht⟩
    · exact h t ht
    · obtain ⟨b, -, rfl⟩ := Option.map_eq_some_iff.1 ht
      rfl

/-- An access whose lanes lie in their spaces, aligned, traps for its translation only (R264). -/
theorem memAccess_cause {w : Wave} {reqs : List Req} {align : Nat} {a : Acc} {s : State} {t : Trap}
    (h : ∀ r ∈ reqs, (piecesOf s w r.lane r.ea r.n).isSome = true ∧ r.ea % align = 0) (ht : memAccess w reqs align a noExtra s = .trap t) :
    t.cause = 0x10 := by
  have hspace : (reqs.map fun r => (r, piecesOf s w r.lane r.ea r.n)).find? (fun x => x.2.isNone || noExtra x.1) = none :=
    List.find?_eq_none.2 fun x hx => by
      obtain ⟨r, hr, rfl⟩ := List.mem_map.1 hx
      simpa [noExtra, Option.isSome_iff_ne_none] using (h r hr).1
  have haligned : reqs.find? (fun r => decide (r.ea % align ≠ 0)) = none := List.find?_eq_none.2 fun r hr => by simp [(h r hr).2]
  have hcause := resolveAll_cause (partyOf w) a ((reqs.map fun r => (r, piecesOf s w r.lane r.ea r.n)).map fun x => (x.1, x.2.getD [])) s {} nofun
  unfold memAccess at ht
  simp only [hspace, haligned] at ht
  generalize resolveAll _ _ _ _ _ = r at ht hcause
  split at ht <;> try cases ht
  next hr => exact hcause t hr

theorem texBaseTrap_none {a : BitVec 7} {c : Ctx} {s : State}
    (h : ∀ k ∈ c.act, (piecesOf s c.w k (eaPair c a k) 512).isSome = true ∧ eaPair c a k % 512 = 0) : texBaseTrap a c s = none := by
  unfold texBaseTrap
  split
  · next t ht =>
    refine if_pos (memAccess_cause (fun r hr => ?_) ht)
    obtain ⟨k, hk, rfl⟩ := List.mem_map.1 hr
    exact h k hk
  · rfl

/-- What TEX comes to once its descriptors and its texels are granted. -/
theorem texBody_granted {op : Nat} {d a : BitVec 7} {slot la : BitVec 4} {c : Ctx} {s u v : State} {ps ts : List (Nat × Places)}
    (hb : ∀ k ∈ c.act, (piecesOf s c.w k (eaPair c a k) 512).isSome = true ∧ eaPair c a k % 512 = 0) (ht : takeWaits c c.act = [])
    (hd : Granted c.w (laneReqs c (fun k => eaPair c a k + 32 * slot.toNat) 32) 1 accRead noExtra s u ps)
    (hdc : (ps.any fun x => placesPoisoned u x.2) = false) (hx : Granted c.w (texReqs op a c u ps) 1 accRead noExtra u v ts)
    (hxc : (ts.any fun x => placesPoisoned v x.2) = false) :
    texBody op d a slot la c s = .fall (writeLater c d la.toNat (texLane op a c v ps ts) (sampled c (eaPair c a) 0x36 v)) 1 := by
  rw [texBody, texBaseTrap_none hb]
  dsimp only
  rw [memWord_ok c _ _ _ _ _ _ u ps ((memAccess_ok_iff ..).2 hd) ht, poisonRes_clean _ _ _ hdc,
    memWord_ok c _ _ _ _ _ _ v ts ((memAccess_ok_iff ..).2 hx) ht, poisonRes_clean _ _ _ hxc]

/-- Settles O35: the four words have one body; what a lane writes is the model's once the mode bit is told. -/
theorem imageWords : Obligations.ImageWords := by
  unfold Obligations.ImageWords
  refine ⟨fun d a slot l => ?words, fun m x ts => ⟨?nearest, ?linear, rfl, rfl, rfl, ?outside, rfl, rfl, rfl, rfl⟩⟩
  case words =>
    intro sig tex
    have htex (op : Nat) (w : Bool → Instr) (he : ∀ z s, exec (w z) s = issueWord z sig idleWord (texBody op d a slot l) s) : tex op w := by
      refine ⟨fun t => trapsIf_intro _ _ _ _ idleWord _ he fun _ s c _ h => ?_, fun z s c u ps v ts hr ht hb hd hdc hx hxc => ?_⟩
      · rw [texBody, h]
      · rw [he, issueWord_ready z sig _ _ s c hr, texBody_granted hb ht hd hdc hx hxc]
        rfl
    exact ⟨htex 0 _ fun _ _ => rfl, htex 1 _ fun _ _ => rfl, htex 2 _ fun _ _ => rfl, htex 3 _ fun _ _ => rfl⟩
  case nearest => exact fun h => if_neg (by rw [bitOf, h]; decide)
  case linear => exact fun h => if_pos h
  case outside => exact fun h => if_neg (by rw [h]; decide)

end Sys2Proof.Proofs
end

section

/-! ## Hierarchies (O34) -/

namespace Sys2Proof.Proofs
open Sys2Proof.Machine Sys2Proof.Laws Sys2Proof.Safety

/-! ### XPAIR and XRAY (R405 to R407, R415, R417) -/

theorem baseTrap_none {s : State} {w : Wave} {l : Nat} {bs : List (Nat × Nat)}
    (h : ∀ b ∈ bs, (spaceOf (kgetD {} s.partitions w.partition) b.1).code = 0 ∧ b.1 % b.2 = 0) : baseTrap s w l bs = none := by
  have hspace : (bs.find? fun b => decide ((spaceOf (kgetD {} s.partitions w.partition) b.1).code ≠ 0)) = none :=
    List.find?_eq_none.2 fun b hb hd => of_decide_eq_true hd (h b hb).1
  have haligned : (bs.find? fun b => decide (b.1 % b.2 ≠ 0)) = none := List.find?_eq_none.2 fun b hb hd => of_decide_eq_true hd (h b hb).2
  simp only [baseTrap, hspace, haligned, Option.map_none, Option.or_none]

section Xpair

variable {d a : BitVec 7} {la : BitVec 4} {t : Ctx → State → Xpair} {c : Ctx} {s : State}

/-- The bases that an XPAIR checks, with their alignments (R407). -/
def pairBases (x : Xpair) : List (Nat × Nat) :=
  [(x.nodea, 64), (x.leafa, 32)] ++ (if x.self || x.sw then [] else [(x.nodeb, 64)]) ++ (if x.self then [] else [(x.leafb, 32)]) ++
    [(x.cont, 64)]

/-- The descriptor of an XPAIR has no reserved bit set (R405). -/
def pairGood (a : BitVec 7) (c : Ctx) (x : Xpair) : Prop := x.qmask < 65536 ∧ x.rq < 8 ∧ c.readAt a 15 c.l0 = 0#32

/-- What an XPAIR that starts leaves, once the part is awake. -/
def pairStarted (d : BitVec 7) (la : BitVec 4) (x : Xpair) (c : Ctx) (s : State) : State :=
  let u := partRelease c 4 s
  let zero := fun _ : Nat => [0#32, 0#32]
  let y : Pend := { id := u.nextId + 1, kind := .load, window := la.toNat, vals := pendVals c d zero, uvals := pendUvals c d zero,
                    bq := c.p.q, bn := c.p.n, ulane := c.l0, lanes := [], trav := some u.nextId }
  engineIssued c [u.nextId] ({ u with nextId := u.nextId + 2, pairs := kput u.pairs u.nextId x }.modPart c.key c.q fun p =>
    { p with pend := p.pend ++ [y] })

theorem xpairBody_reserved (h : ¬ pairGood a c (t c s)) : xpairBody d a la t c s = .trap s (illegal 0x34 0x03) := by
  refine if_pos ?_
  rw [pairGood, not_and_or, not_and_or] at h
  exact h.imp Nat.le_of_not_lt (Or.imp_left Nat.le_of_not_lt)

variable (h : pairGood a c (t c s))
include h

theorem xpairBody_good : xpairBody d a la t c s =
    match baseTrap s c.w c.l0 (pairBases (t c s)) with
    | some t => .trap s t
    | none =>
      if 256 ≤ travLoad s (coreOf c.key) then .brk (.cond (.traversal 1))
      else afterTakes c (blockLanes c.p.q c.p.n) (.fall (pairStarted d la (t c s) c s) 1) := by
  obtain ⟨h1, h2, h3⟩ := h
  exact if_neg fun hbad => hbad.elim (Nat.not_le.2 h1) fun hbad => hbad.elim (Nat.not_le.2 h2) fun hne => hne h3

theorem xpairBody_base {tr : Trap} (hb : baseTrap s c.w c.l0 (pairBases (t c s)) = some tr) : xpairBody d a la t c s = .trap s tr := by
  rw [xpairBody_good h, hb]

variable (hb : ∀ b ∈ pairBases (t c s), (spaceOf (kgetD {} s.partitions c.w.partition) b.1).code = 0 ∧ b.1 % b.2 = 0)
include hb

theorem xpairBody_full (hl : 256 ≤ travLoad s (coreOf c.key)) : xpairBody d a la t c s = .brk (.cond (.traversal 1)) := by
  rw [xpairBody_good h, baseTrap_none hb]
  exact if_pos hl

theorem xpairBody_room (hl : travLoad s (coreOf c.key) < 256) :
    xpairBody d a la t c s = afterTakes c (blockLanes c.p.q c.p.n) (.fall (pairStarted d la (t c s) c s) 1) := by
  rw [xpairBody_good h, baseTrap_none hb]
  exact if_neg (Nat.not_le.2 hl)

end Xpair

section Xray

variable {d a : BitVec 7} {any cull : Bool} {la : BitVec 4} {c : Ctx} {s : State}

theorem rayTrap_none (h : ∀ k ∈ c.act, ∀ b ∈ [(travPair c a 8 k, 64), (travPair c a 10 k, 32)],
    (spaceOf (kgetD {} s.partitions c.w.partition) b.1).code = 0 ∧ b.1 % b.2 = 0) : rayTrap c s a = none := by
  have hnone (f : Nat × Nat → Bool) (cause : Nat) (hf : ∀ k ∈ c.act, ∀ b ∈ [(travPair c a 8 k, 64), (travPair c a 10 k, 32)], ¬ f b = true) :
      (c.act.findSome? fun l => (([(travPair c a 8 l, 64), (travPair c a 10 l, 32)] : List (Nat × Nat)).find? f).map fun b =>
        addrTrap cause { lane := l, ea := b.1, n := 1 }) = none :=
    List.findSome?_eq_none_iff.2 fun k hk => by rw [List.find?_eq_none.2 (hf k hk)]; rfl
  rw [rayTrap]
  exact Option.or_eq_none_iff.2 ⟨hnone _ _ fun k hk b hb hd => of_decide_eq_true hd (h k hk b hb).1,
    hnone _ _ fun k hk b hb hd => of_decide_eq_true hd (h k hk b hb).2⟩

/-- What an XRAY that starts leaves, once the part is awake. -/
def rayStarted (d a : BitVec 7) (any cull : Bool) (la : BitVec 4) (c : Ctx) (s : State) : State :=
  let u := partRelease c 4 s
  let y : Pend := { id := u.nextId, kind := .load, window := la.toNat, vals := pendVals c d (fun _ => List.replicate 4 0#32), uvals := [],
                    bq := c.p.q, bn := c.p.n, ulane := c.l0, lanes := c.act }
  let lanes := c.act.map fun k => ({ lane := k, ops := c.readSpan a 14 k, stack := [(c.readAt a 12 k).toNat] } : RayLane)
  let v : Xray := { owner := ownerOf u c.w c.l0, key := c.key, any := any, cull := cull, lanes := lanes }
  engineIssued c [u.nextId] ({ u with nextId := u.nextId + 1, rays := kput u.rays u.nextId v }.modPart c.key c.q fun p =>
    { p with pend := p.pend ++ [y] })

theorem xrayBody_reserved (h : ¬ ∀ k ∈ c.act, (c.readAt a 13 k).toNat < 256) : xrayBody d a any cull la c s = .trap s (illegal 0x35 0x03) := by
  refine if_pos (List.any_eq_true.2 ?_)
  push Not at h
  obtain ⟨k, hk, hm⟩ := h
  exact ⟨k, hk, decide_eq_true hm⟩

variable (h : ∀ k ∈ c.act, (c.readAt a 13 k).toNat < 256)
include h

theorem xrayBody_masked : xrayBody d a any cull la c s =
    match rayTrap c s a with
    | some t => .trap s t
    | none =>
      if 256 < travLoad s (coreOf c.key) + c.act.length then .brk (.cond (.traversal c.act.length))
      else afterTakes c (blockLanes c.p.q c.p.n) (.fall (rayStarted d a any cull la c s) 1) := by
  refine if_neg fun hany => ?_
  obtain ⟨k, hk, hm⟩ := List.any_eq_true.1 hany
  exact Nat.not_lt.2 (of_decide_eq_true hm) (h k hk)

theorem xrayBody_trap {t : Trap} (ht : rayTrap c s a = some t) : xrayBody d a any cull la c s = .trap s t := by
  rw [xrayBody_masked h, ht]

variable (hb : ∀ k ∈ c.act, ∀ b ∈ [(travPair c a 8 k, 64), (travPair c a 10 k, 32)],
  (spaceOf (kgetD {} s.partitions c.w.partition) b.1).code = 0 ∧ b.1 % b.2 = 0)
include hb

theorem xrayBody_full (hl : 256 < travLoad s (coreOf c.key) + c.act.length) :
    xrayBody d a any cull la c s = .brk (.cond (.traversal c.act.length)) := by
  rw [xrayBody_masked h, rayTrap_none hb]
  exact if_pos hl

theorem xrayBody_room (hl : travLoad s (coreOf c.key) + c.act.length ≤ 256) :
    xrayBody d a any cull la c s = afterTakes c (blockLanes c.p.q c.p.n) (.fall (rayStarted d a any cull la c s) 1) := by
  rw [xrayBody_masked h, rayTrap_none hb]
  exact if_neg (Nat.not_lt.2 hl)

end Xray

/-- Settles O34: each word by the checks of its descriptor, its unit's room and the lanes that sleep, in that order. -/
theorem hierarchyWords : Obligations.HierarchyWords := by
  unfold Obligations.HierarchyWords
  intro d a sw r cn se any cull l psig x bases good base sound load asleep release ysig masks word rays
  have hpair (z : Bool) (s : State) : exec (.xpair z d a sw r cn se l) s = issueWord z psig idleWord (xpairBody d a l x) s := rfl
  have hray (z : Bool) (s : State) : exec (.xray z d a cull any l) s =
      issueWord z ysig idleWord (xrayBody d a (any = 1#1) (cull = 1#1) l) s := rfl
  have hbases (c : Ctx) (s : State) : bases c s = pairBases (x c s) := by
    have hself : (x c s).self = decide (se = 1#1) := rfl
    have hsw : (x c s).sw = decide (sw = 1#1) := rfl
    simp only [bases, pairBases, hself, hsw, Bool.or_eq_true, decide_eq_true_eq]
  refine ⟨?reserved, fun t => ?base, ?full, ?asleep, ?started, ?rayReserved, fun t => ?rayTrap, ?rayFull, ?rayAsleep, ?rayStarted⟩
  case reserved => exact trapsIf_intro _ _ _ _ idleWord _ hpair fun _ s c _ h => xpairBody_reserved h
  case base =>
    refine trapsIf_intro _ _ _ _ idleWord _ hpair fun _ s c _ ⟨h, hb⟩ => ?_
    change baseTrap s c.w c.l0 (bases c s) = some t at hb
    exact xpairBody_base (t := x) (d := d) (la := l) (s := begun c (psig c) s) h (hbases c s ▸ hb)
  case full =>
    exact waitsIf_intro _ _ _ _ idleWord _ hpair fun _ s c _ ⟨h, hl⟩ => xpairBody_full h.1 (hbases c s ▸ h.2) hl
  case asleep =>
    exact waitsIf_intro _ _ _ _ idleWord _ hpair fun _ s c _ ⟨h, hl, ht⟩ =>
      (xpairBody_room (t := x) (d := d) (la := l) (s := begun c (psig c) s) h.1 (hbases c s ▸ h.2) hl).trans (afterTakes_asleep _ ht)
  case started =>
    exact fallsIf_intro _ _ _ _ _ idleWord _ hpair fun _ s c _ ⟨h, hl, ht⟩ =>
      (xpairBody_room (t := x) (d := d) (la := l) (s := begun c (psig c) s) h.1 (hbases c s ▸ h.2) hl).trans (afterTakes_awake _ ht)
  case rayReserved => exact trapsIf_intro _ _ _ _ idleWord _ hray fun _ _ _ _ h => xrayBody_reserved h
  case rayTrap => exact trapsIf_intro _ _ _ _ idleWord _ hray fun _ _ _ _ h => xrayBody_trap h.1 h.2
  case rayFull => exact waitsIf_intro _ _ _ _ idleWord _ hray fun _ _ _ _ ⟨h, hl⟩ => xrayBody_full h.1 h.2 hl
  case rayAsleep =>
    exact waitsIf_intro _ _ _ _ idleWord _ hray fun _ s c _ ⟨h, hl, ht⟩ =>
      (xrayBody_room (d := d) (a := a) (any := any = 1#1) (cull := cull = 1#1) (la := l) (s := begun c (ysig c) s) h.1 h.2 hl).trans (afterTakes_asleep _ ht)
  case rayStarted =>
    exact fallsIf_intro _ _ _ _ _ idleWord _ hray fun _ s c _ ⟨h, hl, ht⟩ =>
      (xrayBody_room (d := d) (a := a) (any := any = 1#1) (cull := cull = 1#1) (la := l) (s := begun c (ysig c) s) h.1 h.2 hl).trans (afterTakes_awake _ ht)

end Sys2Proof.Proofs
end

section

/-! ## Graphics words (O36) -/

namespace Sys2Proof.Proofs
open Sys2Proof.Machine Sys2Proof.Laws Sys2Proof.Safety

/-! ### PXTK and PXLK (R369, R370) -/

section Pixel

variable {d a b : BitVec 7} {c : Ctx} {s u : State} {ps : List (Nat × Places)}
variable (hasleep : takeWaits c c.act = []) (hclean : (ps.any fun x => placesPoisoned u x.2) = false)
include hasleep hclean

section Ticket

variable (h : memAccess c.w (laneReqs c (eaPair c a) 4) 4 accAtomic noExtra s = .ok u ps)
include h

/-- A PXTK into a vector register leaves the lanes asleep that its block holds up. -/
theorem pxtkBody_vector (hd : codeIsVec d = true) :
    let r := ticketLanes (coreOf c.key) ps u
    pxtkBody d a c s = .fall (issuePend c 0
      (r.2.1.map (fun x => (x.1, regNum c.w d x.1, x.2)) ++ r.2.2.map fun x => (x.1, regNum c.w d x.1, 0#32))
      (r.2.2.map fun x => ({ lane := x.1, reg := regNum c.w d x.1, ea := eaPair c a x.1, places := x.2, scope := 4, ticket := true } : Sleeper))
      r.1) 1 :=
  (memWord_ok c _ _ _ _ _ _ _ _ h hasleep).trans ((poisonRes_clean _ _ _ hclean).trans (if_pos hd))

/-- A PXTK into another register completes once every lane has its ticket. -/
theorem pxtkBody_uniform (hd : codeIsVec d = false) (hall : (ticketLanes (coreOf c.key) ps u).2.2 = []) :
    pxtkBody d a c s = .fall (writeLater c d 0 (fun k => [kgetD 0#32 (ticketLanes (coreOf c.key) ps u).2.1 k])
      (ticketLanes (coreOf c.key) ps u).1) 1 :=
  (memWord_ok c _ _ _ _ _ _ _ _ h hasleep).trans ((poisonRes_clean _ _ _ hclean).trans
    ((if_neg (Bool.eq_false_iff.1 hd)).trans (if_pos (List.isEmpty_iff.2 hall))))

end Ticket

theorem pxlkBody_granted (h : memAccess c.w [{ lane := c.l0, ea := eaPair c a c.l0, n := 4 }] 4 accPeek noExtra s = .ok u ps) :
    let r := atomStep (coreOf c.key) 4 (placesOf ps c.l0) (fun _ => none) u
    pxlkBody a b c s = if mayEnter (natOfBytes r.2) (pxTicket c b) then .fall (physAcquire r.1 (coreOf c.key) 4) 1
      else .hold r.1 (.cond (.pixel (eaPair c a c.l0) (pxTicket c b))) :=
  (memWord_ok c _ _ _ _ _ _ _ _ h hasleep).trans (poisonRes_clean _ _ _ hclean)

end Pixel

/-! ### VEMIT and TSEMIT (R371) -/

section Emission

variable {z : Bool} {d a : BitVec 7} {c : Ctx} {s : State} {g : Sig} {did kind : Nat} {dr : Draw}

theorem issuingKey_eq (h : issueCtx z s = some c) : issuingKey s = c.key := by
  simp only [issueCtx, Option.bind_eq_some_iff, Option.map_eq_some_iff] at h
  obtain ⟨qr, hqr, r, hr, w, -, p, -, rfl⟩ := h
  rw [issuingKey, hqr, Option.bind_some, hr]
  rfl

/-- What a word does before its effect leaves its wave's draw. -/
theorem drawOfWave_begun (h : s.wave c.key = some c.w) : drawOfWave (begun c g s) c.key = drawOfWave s c.key := by
  obtain ⟨fl, f, -, -, hw⟩ := begun_wave c g s h
  rw [drawOfWave, drawOfWave, hw, h]
  rfl

/-- Whether a workgroup is the lowest of its grid does not depend on the waves. -/
theorem lowestLive_eq (s : State) (gid lin : Nat) : lowestLive s gid lin =
    (((s.wgs.filter fun e => decide (e.2.grid = gid) && !e.2.ended).all fun e => decide (lin ≤ e.2.lin)) &&
      ((s.parked.filter fun e => e.2.wg.grid = gid).all fun e => decide (lin ≤ e.2.wg.lin))) := by
  rw [lowestLive, liveWgs, List.all_append, List.all_map, List.all_map]
  rfl

theorem emitRoom_begun : emitRoom (begun c g s) c.w = emitRoom s c.w := by
  have hlow (gid lin : Nat) : lowestLive (begun c g s) gid lin = lowestLive s gid lin := by
    rw [lowestLive_eq, lowestLive_eq]
    rfl
  simp only [emitRoom, hlow]
  rfl

variable (h : issueCtx z s = some c)
include h

theorem exec_vemit_legal (hdraw : drawOfWave s c.key = some (did, kind, dr)) (hk : kind ≤ 1) :
    exec (.vemit z d a) s = issueWord z (fun _ => { maj := 0x37, opds := [wr d, rdSpan a 13] }) idleWord (vemitBody d a) s := by
  have hlegal : vemitLegal s = true := by
    rw [vemitLegal, issuingKey_eq h, hdraw]
    exact decide_eq_true hk
  change execVemit z d a s = _
  rw [execVemit, hlegal]
  rfl

theorem exec_tsemit_legal (hdraw : drawOfWave s c.key = some (did, 0, dr)) (hdom : dr.dom.isSome = true) :
    exec (.tsemit z d a) s = issueWord z (fun _ => { maj := 0x37, opds := [wr d, rdSpan a 8] }) idleWord (tsemitBody d a) s := by
  have hlegal : tsemitLegal s = true := by
    rw [tsemitLegal, issuingKey_eq h, hdraw]
    exact hdom
  change execTsemit z d a s = _
  rw [execTsemit, hlegal]
  rfl

theorem vemitBody_room (hdraw : drawOfWave s c.key = some (did, kind, dr)) (hroom : emitRoom s c.w = true) :
    let r := vemitLanes c a kind did c.act (begun c g s) []
    vemitBody d a c (begun c g s) = .fall (writeLater c d 0 (fun k => [BitVec.ofNat 32 (kgetD 0 r.2 k)]) (countEmit r.1 c kind did)) 1 := by
  rw [vemitBody, drawOfWave_begun (issueCtx_eq z s c h).1, hdraw]
  exact if_neg (by rw [emitRoom_begun, hroom]; decide)

theorem tsemitBody_draw (hdraw : drawOfWave s c.key = some (did, 0, dr)) :
    let r := tsemitLanes c a did c.act (begun c g s) []
    tsemitBody d a c (begun c g s) = .fall (writeLater c d 0 (fun k => [BitVec.ofNat 32 (kgetD 0 r.2 k)]) r.1) 1 := by
  rw [tsemitBody, drawOfWave_begun (issueCtx_eq z s c h).1, hdraw]

end Emission

/-- Settles O36: each word by the lemma about its body. -/
theorem graphicsWords : Obligations.GraphicsWords := by
  unfold Obligations.GraphicsWords
  intro d a b core ticket one lsig tsig vsig esig word
  refine ⟨falls_word fun _ _ => rfl, falls_word fun _ _ => rfl, fun hd => ?tickets, fun hd z s c u ps h ht hm hp hall => ?ticket,
    fun z s c u ps h ht hm hp => ?lock, memReleases_reads fun _ _ => rfl, fun x t => decide_eq_true_iff, ?vertices, ?patches⟩
  case tickets =>
    exact memFallsIn_intro _ _ _ _ _ _ _ _ _ idleWord _ (fun _ _ => rfl) fun _ _ _ _ hm ht hp => pxtkBody_vector ht (hp rfl) hm hd
  case ticket =>
    have hexec : exec (.pxtk z d a) s = issueWord z tsig idleWord (pxtkBody d a) s := rfl
    rw [hexec, issueWord_ready z tsig idleWord _ s c h, pxtkBody_uniform ht hp ((memAccess_ok_iff _ _ _ _ _ _ _ _).2 hm) hd hall]
    rfl
  case lock =>
    have hexec : exec (.pxlk z a b) s = issueWord z lsig idleWord (pxlkBody a b) s := rfl
    rw [hexec, issueWord_ready z lsig idleWord _ s c h, pxlkBody_granted ht hp ((memAccess_ok_iff _ _ _ _ _ _ _ _).2 hm)]
    exact ⟨fun henter => congrArg (finish c s) (if_pos henter), fun henter => congrArg (finish c s) (if_neg (Bool.eq_false_iff.1 henter))⟩
  case vertices =>
    intro z s c did kind dr h hdraw hk hroom r t
    rw [exec_vemit_legal h.ctx hdraw hk, issueWord_ready z vsig idleWord _ s c h, vemitBody_room h.ctx hdraw hroom]
    rfl
  case patches =>
    intro z s c did dr h hdraw hdom r t
    rw [exec_tsemit_legal h.ctx hdraw hdom, issueWord_ready z esig idleWord _ s c h, tsemitBody_draw h.ctx hdraw]
    rfl

end Sys2Proof.Proofs
end

section

/-! ## Event records (O55) -/

namespace Sys2Proof.Proofs
open Sys2Proof.Machine Sys2Proof.Laws Sys2Proof.Safety

/-! ### Event records (R322) -/

theorem evq_modEvq_other {s : State} {k e : Nat} (f : Evq → Evq) (h : k ≠ e) : (s.modEvq e f).evq k = s.evq k := by
  exact congrArg (Option.getD · _) (kget_kput_other s.evqs e k _ h)

theorem length_eventBytes (time : Nat) (r : EvRec) : (eventBytes time r).length = 32 := by
  simp only [eventBytes, List.length_append, length_bytesOfNat]

section Posted

variable {e : Nat} {r : EvRec} {s : State}

/-- An event record that is not written is counted as lost. -/
theorem postEvent_dropped (h : (s.evq e).en = false ∨ ((s.evq e).tail + 2 ^ 32 - (s.evq e).head) % 2 ^ 32 = (s.evq e).size ∨
    ringOk s ((s.evq e).base + 32 * ((s.evq e).tail % (s.evq e).size)) 32 = false) :
    postEvent e r s = s.modEvq e fun x => { x with lost := min (x.lost + 1) (2 ^ 32 - 1), ovf := true, due := true } := by
  refine if_neg fun hc => ?_
  rw [Bool.and_eq_true, Bool.and_eq_true] at hc
  obtain ⟨⟨hen, hroom⟩, hok⟩ := hc
  rcases h with h | h | h
  · exact absurd hen (Bool.eq_false_iff.1 h)
  · exact of_decide_eq_true hroom h
  · exact absurd hok (Bool.eq_false_iff.1 h)

/-- What an event record that is written makes of its queue's registers. -/
def evPosted (time : Nat) (x : Evq) : Evq :=
  { x with tail := (x.tail + 1) % 2 ^ 32, held := x.held ++ [time], due := x.due || decide (max 1 x.thresh ≤ x.held.length + 1) }

theorem postEvent_written (hen : (s.evq e).en = true) (hroom : ¬ ((s.evq e).tail + 2 ^ 32 - (s.evq e).head) % 2 ^ 32 = (s.evq e).size)
    (hok : ringOk s ((s.evq e).base + 32 * ((s.evq e).tail % (s.evq e).size)) 32 = true) :
    ∃ u, u = physWrite s (ringPlace ((s.evq e).base + 32 * ((s.evq e).tail % (s.evq e).size))).1 0
        (ringPlace ((s.evq e).base + 32 * ((s.evq e).tail % (s.evq e).size))).2 (eventBytes s.time r) ∧
      u.evqs = s.evqs ∧ postEvent e r s = u.modEvq e (evPosted u.time) := by
  refine ⟨_, rfl, ?_, if_pos ?_⟩
  · rw [(memoryOnly_physWrite _ _ _ _ _).rest]
  · rw [hen, hok, decide_eq_true hroom]
    rfl

theorem postEvent_evq_other {k : Nat} (hk : k ≠ e) : (postEvent e r s).evq k = s.evq k := by
  unfold postEvent
  dsimp only
  split
  · rw [evq_modEvq_other _ hk, State.evq, (memoryOnly_physWrite _ _ _ _ _).rest]
    rfl
  · exact evq_modEvq_other _ hk

end Posted

/-- Settles O55: a record with room is one write and a step of EQTAIL; else only the queue's registers change. -/
theorem eventRecords : Obligations.EventRecords := by
  unfold Obligations.EventRecords
  intro e r s x t place full
  refine ⟨fun hen hroom hok => ?written, fun h => ?dropped, fun k hk => postEvent_evq_other hk⟩
  case written =>
    obtain ⟨u, hu, hevqs, ht⟩ := postEvent_written (r := r) hen hroom hok
    have hx : u.evq e = x := congrArg (fun q => kgetD ({} : Evq) q e) hevqs
    have hevq : t.evq e = evPosted u.time x := by
      rw [← hx]
      exact (congrArg (State.evq · e) ht).trans (evq_modEvq_same u e _)
    refine ⟨fun i hi vw hunseen => ?_, ?_⟩
    · have hread : physRead t vw place.1 0 (place.2 + i) = physRead u vw place.1 0 (place.2 + i) := by
        rw [show t = u.modEvq e (evPosted u.time) from ht]
        rfl
      rw [hread, hu, physWrite,
        physRead_baseWrite_inside (fun _ => rfl) ⟨rfl, Nat.le_add_right _ _, by rw [length_eventBytes]; omega⟩ hunseen, Nat.add_sub_cancel_left]
    · rw [hevq]
      exact ⟨rfl, rfl, rfl⟩
  case dropped =>
    have ht : t = s.modEvq e _ := postEvent_dropped h
    exact ⟨by rw [ht, evq_modEvq_same], by rw [ht]; rfl⟩

end Sys2Proof.Proofs
end

section

/-! ## Registers of the host (O49) -/

namespace Sys2Proof.Proofs
open Sys2Proof.Machine Sys2Proof.Laws Sys2Proof.Safety

/-! ### Registers that software writes (R307, R309, R310, R321, R323, R456, R463) -/

theorem kput_kput {α : Type} (m : KMap α) (n : Nat) (v w : α) : kput (kput m n v) n w = kput m n w := by
  induction m with
  | nil => simp [kput]
  | cons e m ih =>
    obtain ⟨k, u⟩ := e
    rcases Nat.lt_trichotomy n k with h | rfl | h
    · simp [kput, h]
    · simp [kput]
    · simp [kput, Nat.not_lt.2 (Nat.le_of_lt h), Nat.ne_of_gt h, ih]

theorem onBar_recovery {f : State → State} {s : State} (h : s.dev.recovery = true) : onBar f s = .next s := by
  rw [onBar, if_pos h]

theorem onBar_up {f : State → State} {s : State} (h : s.dev.recovery = false) : onBar f s = .next (f s) := by
  rw [onBar, if_neg (Bool.eq_false_iff.1 h)]

theorem pow2In_iff {v lo hi : Nat} : pow2In v lo hi = true ↔ lo ≤ v ∧ v ≤ hi ∧ 2 ^ Nat.log2 v = v := by
  simp [pow2In, and_assoc]

section TailWrite

variable {s : State} {q v : Nat}

theorem writeTail_resetting (h : (s.queue q).resetting = true) : writeTail q v s = s := if_pos h

variable (h : (s.queue q).resetting = false)
include h

theorem writeTail_exposes (hn : (v % 2 ^ 32 + 2 ^ 32 - (s.queue q).head) % 2 ^ 32 ≤ (s.queue q).size) :
    writeTail q v s = s.modQueue q fun x => { x with tail := v % 2 ^ 32 } :=
  (if_neg (Bool.eq_false_iff.1 h)).trans (if_neg (Nat.not_lt.2 hn))

theorem writeTail_overruns (hn : (s.queue q).size < (v % 2 ^ 32 + 2 ^ 32 - (s.queue q).head) % 2 ^ 32) :
    writeTail q v s = postEvent (s.queue q).evq
      { status := 0x010B, queue := q, count := (v % 2 ^ 32 + 2 ^ 32 - (s.queue q).head) % 2 ^ 32 }
      (s.modQueue q fun x => { x with tail := v % 2 ^ 32, state := 2 }) := by
  have htwice : ((s.modQueue q fun x => { x with tail := v % 2 ^ 32 }).modQueue q fun x => { x with state := 2 }) =
      s.modQueue q fun x => { x with tail := v % 2 ^ 32, state := 2 } := by
    rw [State.modQueue, queue_modQueue_same, State.modQueue, State.modQueue, kput_kput]
  exact (if_neg (Bool.eq_false_iff.1 h)).trans ((if_pos hn).trans (congrArg (postEvent _ _) htwice))

end TailWrite

theorem holdDue_cons {time t : Nat} {x : Evq} {ts : List Nat} (h : x.held = t :: ts) : holdDue time x = decide (t + 1000 * x.holdmax ≤ time) := by
  rw [holdDue, h]

theorem holdDue_nil {time : Nat} {x : Evq} (h : x.held = []) : holdDue time x = false := by
  rw [holdDue, h]

/-! ### MSI-X messages (R323) -/

section Message

variable {s : State} {e : Nat} {x : Evq} (hx : kget s.evqs e = some x)
include hx

theorem evq_of_kget : s.evq e = x := by
  rw [State.evq, kgetD, hx]
  rfl

/-- A message that is sent releases what its due queues hold, is counted, and is pending no more. -/
theorem sendVec_sent (hdue : x.due = true) :
    kget (sendVec x.vec s).evqs e = some { x with due := false, held := [] } ∧ x.vec ∉ (sendVec x.vec s).msixPending ∧
      cellsGet 0 (sendVec x.vec s).msixSent x.vec = cellsGet 0 s.msixSent x.vec + 1 ∧
      ∀ k y, kget s.evqs k = some y → (y.vec ≠ x.vec ∨ y.due = false) → kget (sendVec x.vec s).evqs k = some y := by
  have hcount : cellsGet 0 (sendVec x.vec s).msixSent x.vec = cellsGet 0 s.msixSent x.vec + 1 :=
    (cellsGet_put 0 s.msixSent x.vec x.vec (cellsGet 0 s.msixSent x.vec + 1)).trans (if_pos rfl)
  refine ⟨?_, fun hmem => ?_, hcount, fun k y hy hother => ?_⟩
  · rw [sendVec, kget_kmap, hx, Option.map_some, hdue, decide_eq_true rfl]
    rfl
  · exact of_decide_eq_true (List.mem_filter.1 hmem).2 rfl
  · rw [sendVec, kget_kmap, hy, Option.map_some]
    refine congrArg some (if_neg fun h => ?_)
    rw [Bool.and_eq_true] at h
    exact hother.elim (fun hv => hv (of_decide_eq_true h.1)) fun hd => Bool.eq_false_iff.1 hd h.2

end Message

section Pending

variable {s : State} {v : Nat}

theorem sendPending_none (h : (∀ u ∈ s.msixPending, u ∉ s.unmasked) ∨ s.funcMask = true) : sendPending s = s := by
  rcases Bool.eq_false_or_eq_true s.funcMask with hf | hf
  · exact if_pos hf
  · have hnone : (s.msixPending.filter fun u => s.unmasked.contains u) = [] :=
      List.filter_eq_nil_iff.2 fun u hu hc =>
        h.elim (fun hu' => hu' u hu (List.contains_iff_mem.1 hc)) fun hf' => Bool.eq_false_iff.1 hf hf'
    exact (if_neg (Bool.eq_false_iff.1 hf)).trans (by rw [hnone, List.foldl_nil])

/-- The message of the one pending vector that is unmasked is sent. -/
theorem sendPending_one (hf : s.funcMask = false) (hmem : v ∈ s.msixPending) (hnodup : s.msixPending.Nodup)
    (hv : v ∈ s.unmasked) (hother : ∀ u ∈ s.msixPending, u ∈ s.unmasked → u = v) : sendPending s = sendVec v s := by
  have hone : (s.msixPending.filter fun u => s.unmasked.contains u) = [v] := by
    have hcongr : (s.msixPending.filter fun u => s.unmasked.contains u) = s.msixPending.filter (· == v) :=
      List.filter_congr fun u hu => Bool.eq_iff_iff.2
        ⟨fun hc => beq_iff_eq.2 (hother u hu (List.contains_iff_mem.1 hc)), fun he => List.contains_iff_mem.2 (beq_iff_eq.1 he ▸ hv)⟩
    rw [hcongr, List.filter_beq, List.count_eq_one_of_mem hnodup hmem]
    rfl
  exact (if_neg (Bool.eq_false_iff.1 hf)).trans (by rw [hone, List.foldl_cons, List.foldl_nil])

end Pending

section MsixSend

variable {s : State} {e : Nat} {x : Evq}

theorem execMsixSend_idle (h : (s.evq e).due = false) : execMsixSend e s = .next s :=
  congrArg Host.Outcome.next (if_neg (Bool.eq_false_iff.1 h))

variable (hx : kget s.evqs e = some x) (hdue : x.due = true)
include hx hdue

theorem execMsixSend_due : execMsixSend e s =
    .next (if s.unmasked.contains x.vec && !s.funcMask then sendVec x.vec s else { s with msixPending := addVec x.vec s.msixPending }) := by
  rw [execMsixSend, evq_of_kget hx]
  exact congrArg Host.Outcome.next (if_pos hdue)

theorem execMsixSend_unmasked (hv : x.vec ∈ s.unmasked) (hf : s.funcMask = false) : execMsixSend e s = .next (sendVec x.vec s) := by
  rw [execMsixSend_due hx hdue, List.contains_iff_mem.2 hv, hf]
  rfl

theorem execMsixSend_masked (h : x.vec ∉ s.unmasked ∨ s.funcMask = true) :
    execMsixSend e s = .next { s with msixPending := addVec x.vec s.msixPending } := by
  rw [execMsixSend_due hx hdue]
  refine congrArg Host.Outcome.next (if_neg fun hc => ?_)
  rw [Bool.and_eq_true, Bool.not_eq_true'] at hc
  exact h.elim (fun hv => hv (List.contains_iff_mem.1 hc.1)) fun hf => Bool.eq_false_iff.1 hc.2 hf

end MsixSend

/-! ### CAP (R456, R463) -/

section Cap

variable {s : State} {p v : Nat}

/-- The CAPHIT bit of a partition after a write of CAP. -/
def hitAfter (s : State) (p v : Nat) : Bool := (s.dev.caps.getD p (0, false)).2 && !bitOf v 12

/-- The CAP registers after a write that keeps the limit, and else after one that breaks it. -/
def capsAfter (s : State) (p v : Nat) : List (Nat × Bool) :=
  if capSum s (s.dev.caps.set p (v % 4096, hitAfter s p v)) ≤ capLimit s.dev.form then s.dev.caps.set p (v % 4096, hitAfter s p v)
  else s.dev.caps.set p ((s.dev.caps.getD p (0, false)).1, hitAfter s p v)

theorem execCapWrite_up (h : s.dev.recovery = false) :
    execCapWrite p v s = .next { s with dev := { s.dev with caps := capsAfter s p v } } := onBar_up h

/-- CAPHIT does not count toward the limit. -/
theorem capSum_setHit (s : State) (caps : List (Nat × Bool)) (p : Nat) (hit : Bool) :
    capSum s (caps.set p ((caps.getD p (0, false)).1, hit)) = capSum s caps := by
  have hcap (i : Nat) : ((caps.set p ((caps.getD p (0, false)).1, hit)).getD i (0, false)).1 = (caps.getD i (0, false)).1 := by
    rw [List.getD_eq_getElem?_getD, List.getElem?_set]
    by_cases hi : p = i
    · subst hi
      by_cases hp : p < caps.length
      · rw [if_pos rfl, if_pos hp, Option.getD_some]
      · rw [if_pos rfl, if_neg hp, List.getD_eq_getElem?_getD, List.getElem?_eq_none (Nat.le_of_not_lt hp)]
    · rw [if_neg hi, ← List.getD_eq_getElem?_getD]
  simp only [capSum, hcap]

theorem capsAfter_within (h : capSum s s.dev.caps ≤ capLimit s.dev.form) : capSum s (capsAfter s p v) ≤ capLimit s.dev.form := by
  by_cases hw : capSum s (s.dev.caps.set p (v % 4096, hitAfter s p v)) ≤ capLimit s.dev.form
  · rw [capsAfter, if_pos hw]
    exact hw
  · rw [capsAfter, if_neg hw, capSum_setHit]
    exact h

theorem capsAfter_get {c : Nat} {hit : Bool} (h : s.dev.caps[p]? = some (c, hit)) :
    (capsAfter s p v)[p]? = some (if capSum s (s.dev.caps.set p (v % 4096, hit && !v.testBit 12)) ≤ capLimit s.dev.form
      then (v % 4096, hit && !v.testBit 12) else (c, hit && !v.testBit 12)) := by
  have hlen : p < s.dev.caps.length := (List.getElem?_eq_some_iff.1 h).1
  have hold : s.dev.caps.getD p (0, false) = (c, hit) := by rw [List.getD_eq_getElem?_getD, h, Option.getD_some]
  have hhit : hitAfter s p v = (hit && !v.testBit 12) := by rw [hitAfter, hold, bitOf]
  rw [capsAfter, hhit, hold]
  split
  · exact List.getElem?_set_self hlen
  · exact List.getElem?_set_self hlen

theorem capLimit_eq (f : Form) : capLimit f = if f = .boardE then 700 else 2400 := by cases f <;> rfl

end Cap

/-! ### Fields that act by their value (R13) -/

section Written

variable {s : State} {v : Nat}

theorem execRegisterWrite_recovery {off : Nat} (h : s.dev.recovery = true) (ho : off < 0x500000 ∨ 0x502000 ≤ off) :
    execRegisterWrite off v s = .next s := by
  refine congrArg Host.Outcome.next (if_neg fun hc => ?_)
  rw [answers, h, Bool.not_true, Bool.false_or, Bool.and_eq_true, decide_eq_true_eq, decide_eq_true_eq] at hc
  omega

variable (h : s.dev.recovery = false)
include h

theorem execRegisterWrite_up (off : Nat) : execRegisterWrite off v s = .next (writeRegister off v s) := by
  have hanswers : answers s off = true := by
    rw [answers, h]
    rfl
  exact congrArg Host.Outcome.next (if_pos hanswers)

theorem execRegisterWrite_queue {q i : Nat} (hq : q < 1024) (hi : i < 64) :
    execRegisterWrite (0x100000 + 64 * q + i) v s = .next (writeQueueReg q i v s) := by
  have hindex : (0x100000 + 64 * q + i - 0x100000) / 64 = q := by omega
  have hoff : (0x100000 + 64 * q + i) % 64 = i := by omega
  rw [execRegisterWrite_up h, writeRegister, if_neg (by omega), if_pos (by omega), hindex, hoff]

theorem execRegisterWrite_evq {e i : Nat} (he : e < 2048) (hi : i < 32) :
    execRegisterWrite (0x200000 + 32 * e + i) v s = .next (writeEvqReg e i v s) := by
  have hindex : (0x200000 + 32 * e + i - 0x200000) / 32 = e := by omega
  have hoff : (0x200000 + 32 * e + i) % 32 = i := by omega
  rw [execRegisterWrite_up h, writeRegister, if_neg (by omega), if_neg (by omega), if_pos (by omega), hindex, hoff]

theorem execRegisterWrite_trace {p i : Nat} (hp : p < 8) (hi : i < 64) :
    execRegisterWrite (0x310000 + 64 * p + i) v s = .next (writeTraceReg p i v s) := by
  have hindex : (0x310000 + 64 * p + i - 0x310000) / 64 = p := by omega
  have hoff : (0x310000 + 64 * p + i) % 64 = i := by omega
  rw [execRegisterWrite_up h, writeRegister, if_neg (by omega), if_neg (by omega), if_neg (by omega), if_neg (by omega), if_pos (by omega),
    hindex, hoff]

end Written

section QueueBlock

variable {s : State} {q v : Nat}

theorem writeQueueReg_ignored {off : Nat} (h : (s.queue q).state ≠ 0 ∨ (s.queue q).resetting = true) : writeQueueReg q off v s = s := if_pos h

variable (hst : (s.queue q).state = 0) (hrst : (s.queue q).resetting = false)
include hst hrst

theorem writeQueueReg_size : writeQueueReg q 8 v s =
    if 16 ≤ v ∧ v ≤ 1048576 ∧ 2 ^ Nat.log2 v = v then s.modQueue q fun x => { x with size := v } else s := by
  have hopen : ¬ ((s.queue q).state ≠ 0 ∨ (s.queue q).resetting = true) := by simp [hst, hrst]
  exact (if_neg hopen).trans (if_congr pow2In_iff rfl rfl)

theorem writeQueueReg_fields : writeQueueReg q 0x14 v s =
    s.modQueue q fun x => { x with cls := v / 4 % 4, part := v / 16 % 8, cc := v / 128 % 4, evq := v / 512 % 2048 } := by
  have hopen : ¬ ((s.queue q).state ≠ 0 ∨ (s.queue q).resetting = true) := by simp [hst, hrst]
  exact if_neg hopen

end QueueBlock

/-- EQHEAD, of which the match on the offset is taken apart by cases: the kernel would evaluate the ring's arithmetic first. -/
theorem writeEvqReg_head {off : Nat} (e v : Nat) (s : State) (h : off = 0x0C) : writeEvqReg e off v s =
    if ((s.evq e).tail + 2 ^ 32 - v % 2 ^ 32) % 2 ^ 32 ≤ (s.evq e).size then s.modEvq e fun x => { x with head := v % 2 ^ 32 } else s := by
  unfold writeEvqReg
  split
  case h_3 => rfl
  case h_5 hne _ => exact absurd h hne
  all_goals cases h

theorem writeEvqReg_fields (e v : Nat) (s : State) : writeEvqReg e 0x14 v s = s.modEvq e fun x =>
    { x with en := v.testBit 0, ovf := x.ovf && !v.testBit 1, vec := v / 4 % 2048, thresh := v / 2 ^ 13 % 256,
             holdmax := if v / 2 ^ 21 % 1024 = 0 ∨ 1000 < v / 2 ^ 21 % 1024 then x.holdmax else v / 2 ^ 21 % 1024 } := rfl

/-- Settles O49: each register by what a write of it does, outside RECOVERY and in it. -/
theorem registerEvents : Obligations.RegisterEvents := by
  unfold Obligations.RegisterEvents
  refine ⟨fun s h => ?recovery, fun s q v h => ?queues, fun s e => ?counts, fun s e x hx hdue => ?messages,
    fun s v h => ?masked, fun s p h => onBar_up h, fun s h =>
    ⟨(onBar_up h : execSpanEnable s = _), (onBar_up h : execSpanDisable s = _)⟩, fun s p v h => ?caps, fun s v h => ?device,
    fun s q v hq h => ?queueBlock, fun s e v he h => ?evqBlock, fun s p v hp h => ?traceBlock⟩
  case recovery =>
    exact ⟨fun q v => ⟨onBar_recovery h, onBar_recovery h, onBar_recovery h, (onBar_recovery h : execQueueReset q s = _), onBar_recovery h,
      onBar_recovery h, (onBar_recovery h : execCapWrite q v s = _)⟩, (onBar_recovery h : execSpanEnable s = _),
      (onBar_recovery h : execSpanDisable s = _), fun off v ho => execRegisterWrite_recovery h ho⟩
  case queues =>
    intro x n put
    have htail : exec (.qtailWrite q v) s = .next (writeTail q v s) := onBar_up h
    refine ⟨fun hr => htail.trans (congrArg _ (writeTail_resetting hr)), fun hr hn => htail.trans (congrArg _ (writeTail_exposes hr hn)),
      fun hr hn => htail.trans (congrArg _ (writeTail_overruns hr hn)), ?enable, ?disable, congrArg Host.Outcome.next (if_congr ?stopped rfl rfl),
      (onBar_up h : execQueueReset q s = _), congrArg Host.Outcome.next (if_congr ?reset rfl rfl), fun y hy => ?reads⟩
    case enable =>
      refine (onBar_up h).trans (congrArg Host.Outcome.next (if_congr ?_ rfl rfl))
      simp only [Bool.and_eq_true, decide_eq_true_eq, Bool.not_eq_true', and_assoc, x]
    case disable =>
      refine (onBar_up h).trans (congrArg Host.Outcome.next (if_congr ?_ rfl rfl))
      simp only [Bool.and_eq_true, decide_eq_true_eq, Bool.not_eq_true', x]
    case stopped => simp only [queueDrained, Bool.and_eq_true, decide_eq_true_eq, Bool.not_eq_true', List.all_eq_true, and_assoc, x]
    case reset => simp only [Bool.and_eq_true, List.isEmpty_iff, x]
    case reads => simp only [queueWord, hy, Option.getD_some, and_self]
  case counts =>
    intro x put
    refine ⟨fun h => onBar_up h, fun t ts ht => congrArg Host.Outcome.next (if_congr ?_ rfl rfl),
      fun ht => congrArg Host.Outcome.next (if_neg ?_), execMsixSend_idle⟩
    · rw [holdDue_cons ht, decide_eq_true_eq]
    · rw [holdDue_nil ht]
      exact Bool.false_ne_true
  case messages =>
    intro sent
    refine ⟨fun hv hf => ⟨_, execMsixSend_unmasked hx hdue hv hf, sendVec_sent hx hdue⟩,
      fun hm => ⟨_, execMsixSend_masked hx hdue hm, rfl, mem_addVec.2 (Or.inr rfl)⟩, fun hmem hnodup hmasked hf => ?_⟩
    have hsend : sendPending { s with unmasked := addVec x.vec s.unmasked } = sendVec x.vec { s with unmasked := addVec x.vec s.unmasked } :=
      sendPending_one hf hmem hnodup (mem_addVec.2 (Or.inr rfl)) fun u hu hc => (mem_addVec.1 hc).resolve_left (hmasked u hu)
    exact ⟨_, congrArg Host.Outcome.next hsend, mem_addVec.2 (Or.inr rfl), sendVec_sent hx hdue⟩
  case masked =>
    have hnone : sendPending { s with unmasked := addVec v s.unmasked } = { s with unmasked := addVec v s.unmasked } :=
      sendPending_none (h.imp_left fun hu u hm hc => (mem_addVec.1 hc).elim (hu u hm).2 (hu u hm).1)
    exact ⟨_, congrArg Host.Outcome.next hnone, rfl, mem_addVec.2 (Or.inr rfl)⟩
  case caps =>
    refine ⟨_, execCapWrite_up h, rfl, ?_⟩
    rw [← capLimit_eq]
    exact ⟨capsAfter_within, fun c hit hc => (capsAfter_get hc).trans (by split <;> rfl)⟩
  case device =>
    have hfield : bitsOf v 10 0 = v % 2048 := by simp [bitsOf]
    rw [← hfield]
    exact (execRegisterWrite_up h 4).trans (congrArg _ (if_pos rfl))
  case queueBlock =>
    refine ⟨fun hx i hi => (execRegisterWrite_queue h hq hi).trans (congrArg _ (writeQueueReg_ignored hx)), fun hst hrst =>
      ⟨(execRegisterWrite_queue h hq (by decide)).trans (congrArg _ (writeQueueReg_size hst hrst)),
        (execRegisterWrite_queue h hq (by decide)).trans (congrArg _ (writeQueueReg_fields hst hrst))⟩⟩
  case evqBlock => exact ⟨(execRegisterWrite_evq h he (by decide)).trans (congrArg _ (writeEvqReg_head e v s rfl)),
      (execRegisterWrite_evq h he (by decide)).trans (congrArg _ (writeEvqReg_fields e v s))⟩
  case traceBlock =>
    exact ⟨execRegisterWrite_trace h hp (by decide), execRegisterWrite_trace h hp (by decide), execRegisterWrite_trace h hp (by decide)⟩

end Sys2Proof.Proofs
end

section

/-! ## Management commands (O50) -/

namespace Sys2Proof.Proofs
open Sys2Proof.Machine Sys2Proof.Laws Sys2Proof.Safety

/-! ### The bytes of a mailbox (R468) -/

theorem length_readN (m : Memory) (a n : Nat) : (m.readN a n).length = n := by
  induction n generalizing a with
  | zero => rfl
  | succ n ih => rw [Memory.readN, List.length_cons, ih]

/-- Bytes that lie inside what was written are read back. -/
theorem readN_writeN_inside (m : Memory) (out : List Byte) {off n : Nat} (h : off + n ≤ out.length) :
    (m.writeN 0 out).readN off n = (out.drop off).take n := by
  induction n generalizing off with
  | zero => rfl
  | succ n ih =>
    have hoff : off < out.length := by omega
    rw [Memory.readN, ih (by omega), Memory.read_writeN, if_pos (by omega), Nat.sub_zero, List.drop_eq_getElem_cons hoff, List.take_succ_cons,
      List.getD_eq_getElem _ _ hoff]

/-- A field of a command's output. -/
theorem mbBytes_done {result off n : Nat} {pre mid post : List Byte} (m : Mailbox) (hpre : pre.length = off) (hmid : mid.length = n) :
    mbBytes (mbDone result (pre ++ (mid ++ post)) m) off n = mid := by
  subst hpre hmid
  have hin : pre.length + mid.length ≤ (pre ++ (mid ++ post)).length := by
    rw [List.length_append, List.length_append]
    omega
  rw [mbBytes, mbDone, readN_writeN_inside _ _ hin, List.drop_left, List.take_left]

theorem length_beBytes (n x : Nat) : (beBytes n x).length = n := by
  rw [beBytes, List.length_reverse, length_bytesOfNat]

/-! ### The gate of the management mailbox (R468) -/

/-- The device answers every command of the mailbox, and none runs. -/
def MboxFree (s : State) : Prop := (s.dev.off = false ∧ s.dev.ready = true ∧ s.dev.recovery = false) ∧ s.dev.mbox.busy = false

/-- A command that is lost while one runs, that finishes with STATE in RECOVERY unless it is FWLOAD, and that refuses an ARG. -/
def MgmtGated (w : Nat → Instr) (fw : Bool) (ok : Nat → Bool) : Prop :=
  ∀ s arg, s.dev.off = false → (s.dev.ready = true ∨ s.dev.recovery = true) →
    (s.dev.mbox.busy = true → exec (w arg) s = .next { s with dev := { s.dev with mbox := { s.dev.mbox with lost := true } } }) ∧
    (s.dev.mbox.busy = false → s.dev.recovery = true → fw = false → exec (w arg) s = .next (finishMbox (.error 3) s)) ∧
    (s.dev.mbox.busy = false → (s.dev.recovery = false ∨ fw = true) → (256 ≤ arg ∨ ok arg = false) →
      exec (w arg) s = .next (finishMbox (.error 2) s))

theorem mgmtGated_intro {w : Nat → Instr} {fw : Bool} {ok : Nat → Bool} {f : Nat → State → MbRes}
    (he : ∀ arg s, exec (w arg) s = mgmtCommand fw ok f arg s) : MgmtGated w fw ok := by
  intro s arg hoff hpower
  have hup : ¬ (s.dev.off || !(s.dev.ready || s.dev.recovery)) = true := by
    rcases hpower with h | h <;> simp [hoff, h]
  have htaken : exec (w arg) s = _ := (he arg s).trans (congrArg Host.Outcome.next (if_neg hup))
  refine ⟨fun hb => htaken.trans (congrArg _ (if_pos hb)), fun hb hr hfw => htaken.trans (congrArg _ ?recovery),
    fun hb hr harg => htaken.trans (congrArg _ ?badArg)⟩
  case recovery => exact (if_neg (Bool.eq_false_iff.1 hb)).trans (if_pos (by rw [hr, hfw]; rfl))
  case badArg =>
    have htakes : ¬ (s.dev.recovery && !fw) = true := by
      rcases hr with h | h <;> simp [h]
    exact (if_neg (Bool.eq_false_iff.1 hb)).trans ((if_neg htakes).trans (if_pos harg))

section MgmtFinish

variable {fw : Bool} {ok : Nat → Bool} {arg : Nat} {i : Instr} {f : Nat → State → MbRes} {s : State}

/-- A free mailbox finishes a command that its ARG allows. -/
theorem mgmt_finishes (h : MboxFree s) (he : exec i s = mgmtCommand fw ok f arg s) (hok : ok arg = true) (harg : arg < 256 := by omega) :
    exec i s = .next (finishMbox (f arg s) s) := by
  obtain ⟨⟨hoff, hr, hrec⟩, hb⟩ := h
  simp [he, mgmtCommand, hoff, hr, hrec, hb, hok, Nat.not_le.2 harg]

/-- The state in which a command that had its effect leaves the device. -/
def mgmtDone (t : State) (out : List Byte) : State := { t with dev := { t.dev with mbox := mbDone 0 out t.dev.mbox } }

theorem finishMbox_done {t : State} {out : List Byte} (hb : t.dev.mbox.busy = false) : finishMbox (.ok (t, out)) s = mgmtDone t out :=
  if_neg (Bool.eq_false_iff.1 hb)

end MgmtFinish

/-! ### Firmware and quotes (R467, R474) -/

section Identity

variable {s : State}

theorem finishMbox_fwload (h : MboxFree s) : finishMbox (fwloadCommand s) s =
    if 2 ^ 26 < mbNum s.dev.mbox 8 8 then finishMbox (.error 2) s
    else if 2 ^ 64 < mbNum s.dev.mbox 0 8 + mbNum s.dev.mbox 8 8 then finishMbox (.error 6) s
    else
      let img := physReadN s .system .host 0 (mbNum s.dev.mbox 0 8) (mbNum s.dev.mbox 8 8)
      if Config.verify 0 (beNat (sha512 img)) (natOfBytes img) then
        mgmtDone { s with dev := { s.dev with image := some (beNat (sha512 img)) } } []
      else finishMbox (.error 4) s := by
  unfold fwloadCommand
  dsimp only
  split_ifs with hlong hwrap hsig hrec
  · rfl
  · rfl
  · exact absurd hrec (Bool.eq_false_iff.1 h.1.2.2)
  · exact finishMbox_done h.2
  · rfl

/-- The first 96 bytes of a quote (R474). -/
def quoteHead (s : State) (nonce : List Byte) (part : Option Nat) : List Byte :=
  nonce ++ bytesOfNat 16 Config.deviceId.toNat ++ bytesOfNat 1 s.dev.life ++ bytesOfNat 1 (b2n s.dev.b0) ++
  bytesOfNat 2 (Config.firmwareVersion (imageDigest s)).toNat ++ bytesOfNat 1 (b2n part.isSome) ++ bytesOfNat 1 (part.getD 0) ++
  bytesOfNat 10 0

/-- The third measurement register of a quote: M2, or a partition's. -/
def quoteMeas (part : Option Nat) : Nat := (part.map (4 + ·)).getD 2

/-- The last 64 bytes of a quote's body. -/
def quoteLast (s : State) : Option Nat → List Byte
  | none => measBytes s 3
  | some _ => bytesOfNat 64 0

theorem quoteBody_eq (nonce : List Byte) (part : Option Nat) : quoteBody s nonce part =
    quoteHead s nonce part ++ (measBytes s 0 ++ measBytes s 1 ++ measBytes s (quoteMeas part) ++ quoteLast s part) := by
  cases part <;> rfl

theorem length_quoteHead {nonce : List Byte} (hn : nonce.length = 64) (part : Option Nat) : (quoteHead s nonce part).length = 96 := by
  simp only [quoteHead, List.length_append, length_bytesOfNat, hn]

theorem length_measBytes (i : Nat) : (measBytes s i).length = 64 := length_beBytes 64 _

theorem length_quoteLast (part : Option Nat) : (quoteLast s part).length = 64 := by
  cases part with
  | none => rw [quoteLast, length_measBytes]
  | some p => rw [quoteLast, length_bytesOfNat]

/-- The output of ATTEST. -/
def quoteOut (s : State) (part : Option Nat) : List Byte :=
  quoteBody s (mbBytes s.dev.mbox 0 64) part ++ (freshSignature s).2 ++ bytesOfNat 4 0

theorem length_quoteOut (part : Option Nat) : (quoteOut s part).length = 488 := by
  have hn : (mbBytes s.dev.mbox 0 64).length = 64 := length_readN _ 0 64
  simp only [quoteOut, quoteBody_eq, List.length_append, length_quoteHead hn, length_measBytes, length_quoteLast,
    freshSignature, length_beBytes, length_bytesOfNat]

/-- The nonce, the lifecycle, M0 and the third register stand in a quote where R474 puts them. -/
theorem quoteOut_fields (m : Mailbox) (part : Option Nat) :
    mbBytes (mbDone 0 (quoteOut s part) m) 0 64 = mbBytes s.dev.mbox 0 64 ∧
      mbNum (mbDone 0 (quoteOut s part) m) 80 1 = s.dev.life % 256 ∧
      mbBytes (mbDone 0 (quoteOut s part) m) 96 64 = measBytes s 0 ∧
      mbBytes (mbDone 0 (quoteOut s part) m) 224 64 = measBytes s (quoteMeas part) := by
  have hn : (mbBytes s.dev.mbox 0 64).length = 64 := length_readN _ 0 64
  refine ⟨?nonce, ?life, ?first, ?third⟩
  case nonce =>
    simp only [quoteOut, quoteBody_eq, quoteHead, List.append_assoc]
    exact mbBytes_done (pre := []) m rfl hn
  case life =>
    have hpre : (mbBytes s.dev.mbox 0 64 ++ bytesOfNat 16 Config.deviceId.toNat).length = 80 := by
      rw [List.length_append, hn, length_bytesOfNat]
    have hbyte : mbBytes (mbDone 0 (quoteOut s part) m) 80 1 = bytesOfNat 1 s.dev.life := by
      simp only [quoteOut, quoteBody_eq, quoteHead, List.append_assoc]
      rw [← List.append_assoc]
      exact mbBytes_done m hpre (length_bytesOfNat 1 _)
    rw [mbNum, hbyte, natOfBytes_bytesOfNat, Nat.pow_one]
  case first =>
    simp only [quoteOut, quoteBody_eq, List.append_assoc]
    exact mbBytes_done m (length_quoteHead hn part) (length_measBytes 0)
  case third =>
    have hpre : (quoteHead s (mbBytes s.dev.mbox 0 64) part ++ (measBytes s 0 ++ measBytes s 1)).length = 224 := by
      simp only [List.length_append, length_quoteHead hn, length_measBytes]
    have hout : quoteOut s part = (quoteHead s (mbBytes s.dev.mbox 0 64) part ++ (measBytes s 0 ++ measBytes s 1)) ++
        (measBytes s (quoteMeas part) ++ (quoteLast s part ++ ((freshSignature s).2 ++ bytesOfNat 4 0))) := by
      simp only [quoteOut, quoteBody_eq, List.append_assoc]
    rw [hout]
    exact mbBytes_done m hpre (length_measBytes _)

/-- The partition that an ATTEST names. -/
def attestPart (a : Nat) : Option Nat := if a / 128 = 1 then some (a % 8) else none

theorem attestCommand_refused {a : Nat} (ha : a < 256)
    (h : s.dev.life = 4 ∨ s.dev.key = false ∨ (128 ≤ a ∧ kget s.partitions (a % 8) = none)) : attestCommand a s = .error 3 := by
  rw [← or_assoc] at h
  unfold attestCommand
  dsimp only
  by_cases hid : s.dev.life = 4 ∨ s.dev.key = false
  · exact if_pos hid
  · obtain ⟨hbig, hnone⟩ := h.resolve_left hid
    rw [if_neg hid, if_pos (show a / 128 = 1 by omega)]
    exact if_pos (by rw [Option.any_some, hnone]; rfl)

theorem attestCommand_quotes {a : Nat} (hlife : s.dev.life ≠ 4) (hkey : s.dev.key = true)
    (hp : a < 128 ∨ (kget s.partitions (a % 8)).isSome = true) :
    attestCommand a s = .ok ((freshSignature s).1, quoteOut s (attestPart a)) := by
  have hid : ¬ (s.dev.life = 4 ∨ s.dev.key = false) := by simp [hlife, hkey]
  have hpart : ¬ ((attestPart a).any fun p => (kget s.partitions p).isNone) = true := by
    unfold attestPart
    split
    · rw [Option.any_some, Option.isNone_iff_eq_none, ← Option.not_isSome_iff_eq_none, hp.resolve_left (by omega)]
      decide
    · exact Bool.false_ne_true
  exact (if_neg hid).trans (if_neg hpart)

theorem quoteMeas_attestPart {a : Nat} (ha : a < 256) : quoteMeas (attestPart a) = if a < 128 then 2 else 4 + a % 8 := by
  unfold attestPart
  by_cases h : a < 128
  · rw [if_neg (by omega), if_pos h]
    rfl
  · rw [if_pos (by omega), if_neg h]
    rfl

theorem length_challengeBytes (n : Nat) : (challengeBytes s n).length = 52 := by
  simp only [challengeBytes, List.length_append, length_bytesOfNat, length_beBytes]

end Identity

/-! ### Lifecycle and tokens (R473, R475) -/

section Lifecycle

variable {s : State}

/-- The device as a lifecycle change finds it once the fuses are burnt. -/
def fusedAs (t : Nat) (s : State) : State :=
  { s with keys := [], dev := { s.dev with life := t, burns := s.dev.burns + 1, key := s.dev.key && decide (t ≠ 4) } }

theorem lifecycleTo_eq {t : Nat} (h : t ≠ 0) : lifecycleTo t s = bringUp (wipedState (fusedAs t s)) := fullReset_up h

/-- The token in MBDATA answers the challenge that is alive. -/
def TokenAnswers (s : State) : Prop := ∃ n d, s.dev.nonce = some (n, d) ∧ s.time < d ∧
  Config.verify 1 (beNat (sha512 (challengeBytes s n ++ mbBytes s.dev.mbox 0 4))) (beNat (mbBytes s.dev.mbox 4 132)) = true

theorem tokenGood_iff : tokenGood s = true ↔ TokenAnswers s := by
  unfold tokenGood TokenAnswers
  split
  · next h => simp [h]
  · next n t h => simp [h]

theorem scopeOk_iff : scopeOk s = true ↔ mbNum s.dev.mbox 0 4 / 8 % 2 ^ 28 = 0 := decide_eq_true_iff

/-- The unlock event is measured into M2, which the reset has cleared. -/
theorem meas_unlockDevice : cellsGet 0 (unlockDevice s).dev.meas 2 =
    beNat (sha512 (beBytes 64 0 ++ beBytes 64 (beNat (sha512 (mbBytes s.dev.mbox 0 136))))) := by
  have hbring (u : State) : cellsGet 0 (bringUp (wipedState u)).dev.meas 2 = 0 :=
    (cellsGet_put 0 _ 1 2 _).trans ((if_neg (by decide)).trans ((cellsGet_put 0 [] 0 2 _).trans (if_neg (by decide))))
  have hstart : cellsGet 0 (lifecycleTo 3 (endEveryGrid s)).dev.meas 2 = 0 := by
    rw [lifecycleTo_eq (by decide)]
    exact hbring _
  exact (cellsGet_put 0 _ 2 2 _).trans ((if_pos rfl).trans (by rw [hstart]))

end Lifecycle

/-! ### What each command comes to

The bodies that the model writes inside its commands, under names. -/

/-- UNLOCK's body (R475). -/
def unlockCommand (s : State) : MbRes :=
  if !scopeOk s then .error 2
  else if s.dev.life ≠ 2 ∨ bitOf (tokenScope s) 31 ∨ tokenGood s = false then .error 1
  else .ok (unlockDevice s, [])

/-- RELOCK's body (R473). -/
def relockCommand (s : State) : MbRes :=
  if s.dev.life ≠ 3 ∨ s.dev.trips = 0 then .error 3
  else .ok (lifecycleTo 2 { s with dev := { s.dev with trips := s.dev.trips - 1 } }, [])

/-- LIFECYCLE's body (R473). -/
def lifecycleCommand (a : Nat) (s : State) : MbRes :=
  if a = 2 ∧ s.dev.life = 1 then .ok (lifecycleTo 2 s, [])
  else if a = 4 ∧ s.dev.life ≠ 0 ∧ s.dev.life ≠ 4 then
    if !scopeOk s then .error 2
    else if bitOf (tokenScope s) 31 && tokenGood s then .ok (lifecycleTo 4 s, []) else .error 1
  else .error 3

/-- SETPRIV's body (R468). -/
def setprivCommand (s : State) : MbRes :=
  let q := mbNum s.dev.mbox 0 2
  let v := mbNum s.dev.mbox 2 1
  if q < 1024 ∧ v ≤ 1 then .ok (s.modQueue q fun x => { x with priv := decide (v = 1) }, []) else .error 2

/-- PARTDEF's body (R469). -/
def partdefCommand (p : Nat) (s : State) : MbRes :=
  match partInput s.dev.mbox with
  | none => .error 2
  | some x =>
    if (kget s.partitions p).isSome then .error 3
    else if partInUse s x then .error 5
    else .ok ({ s with partitions := kput s.partitions p { x with clock := nominalMhz s.dev.form } }, [])

/-- A partition that PARTUNDEF has begun to wipe. -/
def undefBegun (p : Nat) (s : State) : State :=
  { s with partitions := kmod (fun x => { x with wiping := true, undef := true }) s.partitions p,
           dev := { s.dev with mbox := { s.dev.mbox with busy := true } } }

/-- PARTUNDEF's body (R469). -/
def partundefCommand (p : Nat) (s : State) : MbRes :=
  if (kget s.partitions p).isNone then .error 3
  else if hasWorkgroups s p || s.queues.any (fun e => decide (e.2.part = p) && e.2.en) then .error 5
  else .ok (undefBegun p s, [])

/-- CTXDEF's body (R470). -/
def ctxdefCommand (p : Nat) (s : State) : MbRes :=
  let m := s.dev.mbox
  let id := mbNum m 0 2
  let root := mbNum m 8 8
  if (kget s.partitions p).isNone ∨ (id < 4096 ∧ (kget s.contexts (ctxKey p id)).isSome) then .error 3
  else if 4096 ≤ id ∨ mbZero m 2 8 = false ∨ mbZero m 16 4096 = false ∨ rootOk s p root = false then .error 2
  else .ok ({ s with contexts := kput s.contexts (ctxKey p id) { root := root } }, [])

/-- CTXUNDEF's body (R470). -/
def ctxundefCommand (p : Nat) (s : State) : MbRes :=
  let id := mbNum s.dev.mbox 0 2
  if 4096 ≤ id then .error 2
  else if (kget s.partitions p).isNone ∨ (kget s.contexts (ctxKey p id)).isNone then .error 3
  else if ctxInUse s p id then .error 5
  else .ok (endContext p id s, [])

section CommandWords

variable (arg : Nat) (s : State)

theorem exec_fwload : exec (.fwload arg) s = mgmtCommand true noArg (fun _ s => fwloadCommand s) arg s := rfl

theorem exec_attest : exec (.attest arg) s = mgmtCommand false (fun a => decide (a / 8 % 16 = 0)) attestCommand arg s := rfl

theorem exec_challenge : exec (.challenge arg) s = mgmtCommand false noArg
    (fun _ s => .ok ({ s with fresh := s.fresh + 1, dev := { s.dev with nonce := some (s.fresh, s.time + 60000000000) } },
      challengeBytes s s.fresh)) arg s := rfl

theorem exec_unlock : exec (.unlock arg) s = mgmtCommand false noArg (fun _ s => unlockCommand s) arg s := rfl

theorem exec_relock : exec (.relock arg) s = mgmtCommand false noArg (fun _ s => relockCommand s) arg s := rfl

theorem exec_lifecycle : exec (.lifecycle arg) s = mgmtCommand false (fun a => decide (a ≤ 4)) lifecycleCommand arg s := rfl

theorem exec_setpriv : exec (.setpriv arg) s = mgmtCommand false noArg (fun _ s => setprivCommand s) arg s := rfl

theorem exec_partdef : exec (.partdef arg) s = mgmtCommand false partArg partdefCommand arg s := rfl

theorem exec_partundef : exec (.partundef arg) s = mgmtCommand false partArg partundefCommand arg s := rfl

theorem exec_ctxdef : exec (.ctxdef arg) s = mgmtCommand false partArg ctxdefCommand arg s := rfl

theorem exec_ctxundef : exec (.ctxundef arg) s = mgmtCommand false partArg ctxundefCommand arg s := rfl

end CommandWords

section Tokens

variable {s : State}

theorem unlockCommand_badScope (h : mbNum s.dev.mbox 0 4 / 8 % 2 ^ 28 ≠ 0) : unlockCommand s = .error 2 :=
  if_pos (by rw [Bool.eq_false_iff.2 (mt scopeOk_iff.1 h)]; rfl)

theorem unlockCommand_scope (h : mbNum s.dev.mbox 0 4 / 8 % 2 ^ 28 = 0) : unlockCommand s =
    if s.dev.life ≠ 2 ∨ bitOf (tokenScope s) 31 ∨ tokenGood s = false then .error 1 else .ok (unlockDevice s, []) :=
  if_neg (by rw [scopeOk_iff.2 h]; decide)

theorem unlockCommand_denied (hs : mbNum s.dev.mbox 0 4 / 8 % 2 ^ 28 = 0)
    (h : s.dev.life ≠ 2 ∨ (mbNum s.dev.mbox 0 4).testBit 31 = true ∨ ¬ TokenAnswers s) : unlockCommand s = .error 1 :=
  (unlockCommand_scope hs).trans (if_pos (h.imp_right (Or.imp_right fun hg => Bool.eq_false_iff.2 (mt tokenGood_iff.1 hg))))

theorem unlockCommand_opens (hs : mbNum s.dev.mbox 0 4 / 8 % 2 ^ 28 = 0) (hl : s.dev.life = 2)
    (ht : (mbNum s.dev.mbox 0 4).testBit 31 = false) (hg : TokenAnswers s) : unlockCommand s = .ok (unlockDevice s, []) := by
  refine (unlockCommand_scope hs).trans (if_neg ?_)
  rintro (h | h | h)
  · exact h hl
  · exact Bool.eq_false_iff.1 ht h
  · exact Bool.eq_false_iff.1 h (tokenGood_iff.2 hg)

/-- A state whose debug port is open in a scope, with the measurement registers given. -/
def openedAs (meas : Cells Nat) (scope : Nat) (s : State) : State :=
  { s with dev := { s.dev with meas := meas, dbgOpen := true, dbgScope := scope } }

theorem extendMeas_eq (i digest : Nat) (s : State) : ∃ meas, extendMeas i digest s = { s with dev := { s.dev with meas := meas } } := ⟨_, rfl⟩

theorem openedAs_extendMeas (digest scope : Nat) (s : State) :
    ∃ meas, { extendMeas 2 digest s with dev := { (extendMeas 2 digest s).dev with dbgOpen := true, dbgScope := scope } } =
      openedAs meas scope s := by
  obtain ⟨meas, hmeas⟩ := extendMeas_eq 2 digest s
  rw [hmeas]
  exact ⟨meas, rfl⟩

theorem unlockDevice_eq (s : State) :
    ∃ meas, unlockDevice s = openedAs meas (mbNum s.dev.mbox 0 4) (bringUp (wipedState (fusedAs 3 (endEveryGrid s)))) := by
  rw [unlockDevice, lifecycleTo_eq (by decide)]
  exact openedAs_extendMeas _ _ _

theorem unlockDevice_done (s : State) : (unlockDevice s).dev.mbox.busy = false ∧
    let t := mgmtDone (unlockDevice s) []
    t.hbm = [] ∧ t.spad = [] ∧ t.waves = [] ∧ t.grids = [] ∧ t.keys = [] ∧ t.dev.life = 3 ∧ t.dev.dbgOpen = true ∧
      t.dev.dbgScope = mbNum s.dev.mbox 0 4 ∧ t.dev.nonce = none ∧
      cellsGet 0 t.dev.meas 2 = beNat (sha512 (beBytes 64 0 ++ beBytes 64 (beNat (sha512 (mbBytes s.dev.mbox 0 136))))) := by
  have hmeas := meas_unlockDevice (s := s)
  obtain ⟨meas, heq⟩ := unlockDevice_eq s
  rw [heq] at hmeas ⊢
  exact ⟨rfl, rfl, rfl, rfl, rfl, rfl, rfl, rfl, rfl, rfl, hmeas⟩

theorem relockCommand_relocks (hl : s.dev.life = 3) (ht : s.dev.trips ≠ 0) : relockCommand s =
    .ok (lifecycleTo 2 { s with dev := { s.dev with trips := s.dev.trips - 1 } }, []) :=
  if_neg fun h => h.elim (fun h => h hl) ht

theorem lifecycleCommand_secure (h : s.dev.life = 1) : lifecycleCommand 2 s = .ok (lifecycleTo 2 s, []) := if_pos ⟨rfl, h⟩

theorem lifecycleCommand_rma (h0 : s.dev.life ≠ 0) (h4 : s.dev.life ≠ 4) (hs : mbNum s.dev.mbox 0 4 / 8 % 2 ^ 28 = 0)
    (ht : (mbNum s.dev.mbox 0 4).testBit 31 = true) (hg : TokenAnswers s) : lifecycleCommand 4 s = .ok (lifecycleTo 4 s, []) := by
  have htoken : (bitOf (tokenScope s) 31 && tokenGood s) = true := by
    rw [tokenGood_iff.2 hg, Bool.and_true]
    exact ht
  rw [lifecycleCommand, if_neg (by omega), if_pos ⟨rfl, h0, h4⟩, scopeOk_iff.2 hs]
  exact if_pos htoken

theorem lifecycleCommand_refused {a : Nat} (h2 : a ≠ 2 ∨ s.dev.life ≠ 1) (h4 : a ≠ 4 ∨ s.dev.life = 0 ∨ s.dev.life = 4) :
    lifecycleCommand a s = .error 3 :=
  (if_neg (by omega)).trans (if_neg (by omega))

end Tokens

section Configure

variable {s : State} {p : Nat}

theorem finishMbox_setpriv (hb : s.dev.mbox.busy = false) : finishMbox (setprivCommand s) s =
    if mbNum s.dev.mbox 0 2 < 1024 ∧ mbNum s.dev.mbox 2 1 ≤ 1 then
      mgmtDone (s.modQueue (mbNum s.dev.mbox 0 2) fun x => { x with priv := decide (mbNum s.dev.mbox 2 1 = 1) }) []
    else finishMbox (.error 2) s := by
  rw [setprivCommand]
  split
  · exact finishMbox_done hb
  · rfl

theorem finishMbox_partdef (hb : s.dev.mbox.busy = false) : finishMbox (partdefCommand p s) s =
    match partInput s.dev.mbox with
    | none => finishMbox (.error 2) s
    | some x =>
      if (kget s.partitions p).isSome then finishMbox (.error 3) s
      else if partInUse s x then finishMbox (.error 5) s
      else mgmtDone { s with partitions := kput s.partitions p { x with clock := nominalMhz s.dev.form } } [] := by
  rw [partdefCommand]
  cases partInput s.dev.mbox with
  | none => rfl
  | some x =>
    dsimp only
    split_ifs
    · rfl
    · rfl
    · exact finishMbox_done hb

theorem finishMbox_partundef : finishMbox (partundefCommand p s) s =
    if kget s.partitions p = none then finishMbox (.error 3) s
    else if hasWorkgroups s p = true ∨ ∃ e ∈ s.queues, e.2.part = p ∧ e.2.en = true then finishMbox (.error 5) s
    else undefBegun p s := by
  have hbusy : (hasWorkgroups s p || s.queues.any fun e => decide (e.2.part = p) && e.2.en) = true ↔
      (hasWorkgroups s p = true ∨ ∃ e ∈ s.queues, e.2.part = p ∧ e.2.en = true) := by
    simp only [Bool.or_eq_true, List.any_eq_true, Bool.and_eq_true, decide_eq_true_eq]
  simp only [partundefCommand, Option.isNone_iff_eq_none, hbusy]
  split_ifs <;> rfl

theorem ctxdefCommand_taken (h : kget s.partitions p = none ∨
    (mbNum s.dev.mbox 0 2 < 4096 ∧ (kget s.contexts (p * 4096 + mbNum s.dev.mbox 0 2)).isSome = true)) : ctxdefCommand p s = .error 3 :=
  if_pos (h.imp_left Option.isNone_iff_eq_none.2)

theorem ctxdefCommand_defines (hp : (kget s.partitions p).isSome = true) (hid : mbNum s.dev.mbox 0 2 < 4096)
    (hnew : kget s.contexts (p * 4096 + mbNum s.dev.mbox 0 2) = none) (hz : mbZero s.dev.mbox 2 8 = true)
    (hz' : mbZero s.dev.mbox 16 4096 = true) (hroot : rootOk s p (mbNum s.dev.mbox 8 8) = true) : ctxdefCommand p s =
      .ok ({ s with contexts := kput s.contexts (ctxKey p (mbNum s.dev.mbox 0 2)) { root := mbNum s.dev.mbox 8 8 } }, []) := by
  have hfresh : (kget s.contexts (ctxKey p (mbNum s.dev.mbox 0 2))).isSome = false := Option.isSome_eq_false_iff.2 (Option.isNone_iff_eq_none.2 hnew)
  refine (if_neg ?_).trans (if_neg ?_)
  · rw [← Option.not_isSome, hp, hfresh]
    exact fun h => h.elim nofun fun h => Bool.false_ne_true h.2
  · rw [hz, hz', hroot]
    exact fun h => h.elim (Nat.not_le.2 hid) nofun

section Ctxundef

variable (hid : mbNum s.dev.mbox 0 2 < 4096) (hp : (kget s.partitions p).isSome = true)
  (hc : (kget s.contexts (p * 4096 + mbNum s.dev.mbox 0 2)).isSome = true)
include hid hp hc

theorem ctxundefCommand_defined : ctxundefCommand p s =
    if ctxInUse s p (mbNum s.dev.mbox 0 2) then .error 5 else .ok (endContext p (mbNum s.dev.mbox 0 2) s, []) := by
  refine (if_neg (Nat.not_le.2 hid)).trans (if_neg ?_)
  rw [ctxKey, ← Option.not_isSome, ← Option.not_isSome, hp, hc]
  exact fun h => h.elim nofun nofun

theorem ctxundefCommand_busy (h : ctxInUse s p (mbNum s.dev.mbox 0 2) = true) : ctxundefCommand p s = .error 5 :=
  (ctxundefCommand_defined hid hp hc).trans (if_pos h)

theorem ctxundefCommand_ends (h : ctxInUse s p (mbNum s.dev.mbox 0 2) = false) :
    ctxundefCommand p s = .ok (endContext p (mbNum s.dev.mbox 0 2) s, []) :=
  (ctxundefCommand_defined hid hp hc).trans (if_neg (Bool.eq_false_iff.1 h))

end Ctxundef

/-- A context that has ended is defined no more, and no translation of it is cached. -/
theorem endContext_ended (p id : Nat) (s : State) : kget (endContext p id s).contexts (p * 4096 + id) = none ∧
    (∀ e ∈ (endContext p id s).tlb, ¬ (e.partition = p ∧ e.ctx = id)) ∧ ∀ e ∈ (endContext p id s).ptrs, ¬ (e.partition = p ∧ e.ctx = id) := by
  refine ⟨kget_kdel_same _ _, fun e he hc => ?_, fun e he hc => ?_⟩
  · have hkept := (List.mem_filter.1 he).2
    simp [hc.1, hc.2] at hkept
  · have hkept := (List.mem_filter.1 he).2
    simp [hc.1, hc.2] at hkept

end Configure

section Finished

variable {s : State} (hfree : MboxFree s)
include hfree

/-- A command that comes to a code finishes with it. -/
theorem mgmt_refuses {fw : Bool} {ok : Nat → Bool} {f : Nat → State → MbRes} {arg code : Nat} {i : Instr}
    (he : exec i s = mgmtCommand fw ok f arg s) (hok : ok arg = true) (hf : f arg s = .error code) (harg : arg < 256 := by omega) :
    exec i s = .next (finishMbox (.error code) s) :=
  (mgmt_finishes hfree he hok harg).trans (by rw [hf])

/-- A command that has its effect finishes with OK and its output. -/
theorem mgmt_answers {fw : Bool} {ok : Nat → Bool} {f : Nat → State → MbRes} {arg : Nat} {i : Instr} {t : State} {out : List Byte}
    (he : exec i s = mgmtCommand fw ok f arg s) (hok : ok arg = true) (hf : f arg s = .ok (t, out)) (hb : t.dev.mbox.busy = false)
    (harg : arg < 256 := by omega) : exec i s = .next (mgmtDone t out) :=
  (mgmt_finishes hfree he hok harg).trans (by rw [hf, finishMbox_done hb])

end Finished

/-- Every lifecycle change leaves the mailbox free. -/
theorem lifecycleTo_free {t : Nat} (h : t ≠ 0) (s : State) : (lifecycleTo t s).dev.mbox.busy = false := by
  rw [lifecycleTo_eq h]
  rfl

/-- Settles O50: the gate by `mgmtCommand`, then each command by the lemmas about its body. -/
theorem managementCommands : Obligations.ManagementCommands := by
  unfold Obligations.ManagementCommands
  intro up ends num gate wiped good
  refine ⟨mgmtGated_intro exec_fwload, mgmtGated_intro exec_attest, mgmtGated_intro exec_challenge, mgmtGated_intro exec_unlock,
    mgmtGated_intro exec_relock, mgmtGated_intro exec_setpriv, mgmtGated_intro exec_lifecycle, mgmtGated_intro exec_partdef,
    mgmtGated_intro exec_partundef, mgmtGated_intro exec_ctxdef, mgmtGated_intro exec_ctxundef, fun s hup hb => ?_⟩
  have hfree : MboxFree s := ⟨hup, hb⟩
  have hwiped (k : Nat) (hk : k ≠ 0) (u : State) (hhost : u.host = s.host) (hpeer : u.peer = s.peer) :
      wiped s (mgmtDone (lifecycleTo k u) []) := by
    rw [lifecycleTo_eq hk]
    exact ⟨rfl, rfl, rfl, rfl, rfl, rfl, rfl, rfl, hhost, hpeer, rfl⟩
  refine ⟨?fwload, ?attest, ?challenge, ?unlock, ?relock, fun hl ht => ?relocks, ?setpriv, fun hl => ?secure, fun h0 h4 hs ht hg => ?rma,
    fun a ha h2 h4 => ?lifecycle, fun p hp => ?partdef, fun p hp => ?partundef, fun p hp => ?contexts⟩
  case fwload => exact (mgmt_finishes hfree (exec_fwload 0 s) rfl).trans (congrArg _ (finishMbox_fwload hfree))
  case attest =>
    refine fun a ha hzero => ⟨fun h => mgmt_refuses hfree (exec_attest a s) (decide_eq_true hzero) (attestCommand_refused ha h),
      fun hl hk hp => ⟨_, mgmt_answers hfree (exec_attest a s) (decide_eq_true hzero) (attestCommand_quotes hl hk hp) hb, rfl,
        length_quoteOut (attestPart a), ?_⟩⟩
    rw [← quoteMeas_attestPart ha]
    exact quoteOut_fields (s := s) (freshSignature s).1.dev.mbox (attestPart a)
  case challenge =>
    refine ⟨_, mgmt_answers hfree (exec_challenge 0 s) rfl rfl hb, rfl, length_challengeBytes (s := s) s.fresh, rfl, ?_⟩
    have h := mbBytes_done (result := 0) (pre := []) (post := []) s.dev.mbox rfl (length_challengeBytes (s := s) s.fresh)
    rwa [List.append_nil] at h
  case unlock =>
    refine ⟨fun hs => mgmt_refuses hfree (exec_unlock 0 s) rfl (unlockCommand_badScope hs),
      fun hs h => mgmt_refuses hfree (exec_unlock 0 s) rfl (unlockCommand_denied hs h), fun hs hl ht hg => ?_⟩
    obtain ⟨hbusy, hdone⟩ := unlockDevice_done s
    exact ⟨_, mgmt_answers hfree (exec_unlock 0 s) rfl (unlockCommand_opens hs hl ht hg) hbusy, hdone⟩
  case relock =>
    by_cases h : s.dev.life = 3 ∧ s.dev.trips ≠ 0
    · exact Or.inr h
    · exact Or.inl (mgmt_refuses hfree (exec_relock 0 s) rfl (if_pos (by rwa [not_and_or, not_not] at h)))
  case relocks =>
    refine ⟨_, mgmt_answers hfree (exec_relock 0 s) rfl (relockCommand_relocks hl ht) (lifecycleTo_free (by decide) _),
      hwiped 2 (by decide) _ rfl rfl, ?_⟩
    rw [lifecycleTo_eq (by decide)]
    exact ⟨rfl, rfl, rfl⟩
  case setpriv => exact (mgmt_finishes hfree (exec_setpriv 0 s) rfl).trans (congrArg _ (finishMbox_setpriv hb))
  case secure =>
    refine ⟨_, mgmt_answers hfree (exec_lifecycle 2 s) rfl (lifecycleCommand_secure hl) (lifecycleTo_free (by decide) s),
      hwiped 2 (by decide) s rfl rfl, ?_⟩
    rw [lifecycleTo_eq (by decide)]
    rfl
  case rma =>
    refine ⟨_, mgmt_answers hfree (exec_lifecycle 4 s) rfl (lifecycleCommand_rma h0 h4 hs ht hg) (lifecycleTo_free (by decide) s),
      hwiped 4 (by decide) s rfl rfl, ?_⟩
    rw [lifecycleTo_eq (by decide)]
    exact ⟨rfl, Bool.and_false _⟩
  case lifecycle => exact mgmt_refuses hfree (exec_lifecycle a s) (decide_eq_true ha) (lifecycleCommand_refused h2 h4)
  case partdef =>
    rw [← nominalMhz_eq]
    exact (mgmt_finishes hfree (exec_partdef p s) (decide_eq_true hp)).trans (congrArg _ (finishMbox_partdef hb))
  case partundef => exact (mgmt_finishes hfree (exec_partundef p s) (decide_eq_true hp)).trans (congrArg _ finishMbox_partundef)
  case contexts =>
    refine ⟨fun h => mgmt_refuses hfree (exec_ctxdef p s) (decide_eq_true hp) (ctxdefCommand_taken h),
      fun hpart hid hnew hz hz' hroot => mgmt_answers hfree (exec_ctxdef p s) (decide_eq_true hp)
        (ctxdefCommand_defines hpart hid hnew hz hz' hroot) hb, fun hid hpart hc => ⟨fun h => ?busy, fun h => ?ends⟩⟩
    case busy => exact mgmt_refuses hfree (exec_ctxundef p s) (decide_eq_true hp) (ctxundefCommand_busy hid hpart hc h)
    case ends =>
      obtain ⟨hgone, htlb, hptrs⟩ := endContext_ended p (mbNum s.dev.mbox 0 2) s
      have hkept : (endContext p (mbNum s.dev.mbox 0 2) s).dev.mbox.busy = false := by
        rw [(contextsOnly_endContext _ _ _).rest]
        exact hb
      exact ⟨_, mgmt_answers hfree (exec_ctxundef p s) (decide_eq_true hp) (ctxundefCommand_ends hid hpart hc h) hkept, hgone, rfl, htlb, hptrs⟩

end Sys2Proof.Proofs
end

section

/-! ## Memory events (O42) -/

namespace Sys2Proof.Proofs
open Sys2Proof.Machine Sys2Proof.Laws Sys2Proof.Safety

/-! ### Stores performed at any scope (R249, R250) -/

theorem pendingByte_append (vw : View) (m : Mem) (tag a : Nat) (xs ys : List Store) :
    ∀ d, pendingByte vw m tag a d (xs ++ ys) = pendingByte vw m tag a (pendingByte vw m tag a d xs) ys := by
  induction xs with
  | nil => exact fun _ => rfl
  | cons x xs ih => exact fun d => by rw [List.cons_append, pendingByte_cons, pendingByte_cons, ih]

theorem raiseStore_covers (sel : Store → Bool) (scope : Nat) (s : State) (x : Store) (m : Mem) (a : Nat) :
    (raiseStore sel scope s x).covers m a = x.covers m a := by
  obtain ⟨n, -, hx⟩ := raiseStore_eq sel scope s x
  rw [hx]
  rfl

theorem raiseStore_storeByte (sel : Store → Bool) (scope : Nat) (s : State) (x : Store) (m : Mem) (tag a : Nat) :
    storeByte (raiseStore sel scope s x) m tag a = storeByte x m tag a := by
  obtain ⟨n, -, hx⟩ := raiseStore_eq sel scope s x
  rw [hx]
  rfl

theorem pointScope_cases (s : State) (core scope : Nat) :
    pointScope s core scope = scope ∨ (scope = 2 ∧ pointScope s core scope = 3) := by
  unfold pointScope
  split
  · next h => exact Or.inr ⟨h.1, rfl⟩
  · exact Or.inl rfl

/-- A scope that performs a store of one core everywhere performs every store to that memory everywhere. -/
theorem fullScope_pointScope {s : State} {core core' scope : Nat} {m : Mem} (h : fullScope m ≤ pointScope s core scope) :
    fullScope m ≤ pointScope s core' scope := by
  have hfull : fullScope m = 1 ∨ 4 ≤ fullScope m := by cases m <;> decide
  have hcore := pointScope_cases s core scope
  have hcore' := pointScope_cases s core' scope
  omega

section PerformAt

variable {s : State} {sel : Store → Bool} {scope : Nat} {x : Store}

theorem scope_raiseStore_chosen (h : (chosenIds sel s).contains x.id = true) :
    (raiseStore sel scope s x).scope = max x.scope (pointScope s x.core scope) := by
  rw [raiseStore, if_pos h]

theorem raiseStore_unchosen (h : ¬ (chosenIds sel s).contains x.id = true) : raiseStore sel scope s x = x := if_neg h

/-- A chosen store has reached SYSTEM scope where the choice says so. -/
theorem scope_raiseStore_system (hs : 5 ≤ scope) (h : (chosenIds sel s).contains x.id = true) : 5 ≤ (raiseStore sel scope s x).scope := by
  have hpoint : pointScope s x.core scope = scope := if_neg fun h2 => by omega
  rw [scope_raiseStore_chosen h, hpoint]
  exact Nat.le_trans hs (Nat.le_max_right _ _)

/-- Performing stores, at whatever scope, changes nothing of a byte whose pending stores can all be seen. -/
theorem physRead_performStores_seen {vw : View} {m : Mem} {a : Nat} (hn : (s.stores.map (·.id)).Nodup)
    (h : ∀ x ∈ s.stores, x.covers m a = true → x.visible vw = true ∧ x.scope < fullScope m) (tag : Nat) :
    physRead (performStores s sel scope) vw m tag a = physRead s vw m tag a := by
  have hsee : ∀ x ∈ s.stores, x.covers m a = true → x.visible vw = true ∧ (raiseStore sel scope s x).visible vw = true := by
    intro x hx hc
    obtain ⟨n, hle, heq⟩ := raiseStore_eq sel scope s x
    exact ⟨(h x hx hc).1, heq ▸ visible_mono hle (h x hx hc).1⟩
  have hmemOf : ∀ z : Store, z.covers m a = true → z.mem = m := fun z hz =>
    of_decide_eq_true (Bool.and_eq_true_iff.1 (Bool.and_eq_true_iff.1 hz).1).1
  have holder : s.stores.Pairwise fun x y => x.covers m a = true → y.covers m a = true →
      isPending (raiseStore sel scope s x) = true → isPending (raiseStore sel scope s y) = true := by
    refine (selectStores_older (sel := sel) (List.Nodup.of_map _ hn)).imp_of_mem fun {x y} hx hy hxy hcx hcy hkeep => ?_
    have hmx : (raiseStore sel scope s x).mem = m := hmemOf _ ((raiseStore_covers sel scope s x m a).trans hcx)
    have hmy : (raiseStore sel scope s y).mem = m := hmemOf _ ((raiseStore_covers sel scope s y m a).trans hcy)
    rw [isPending, hmx, decide_eq_true_eq] at hkeep
    rw [isPending, hmy, decide_eq_true_eq]
    by_cases hc : (chosenIds sel s).contains y.id = true
    · have hxs := (mem_chosenIds hn hx).2 (hxy ((mem_chosenIds hn hy).1 hc) (overlaps_of_covers hcx hcy))
      rw [scope_raiseStore_chosen hxs] at hkeep
      rw [scope_raiseStore_chosen hc]
      refine Nat.max_lt.2 ⟨(h y hy hcy).2, Nat.lt_of_not_le fun hfull => ?_⟩
      exact absurd (fullScope_pointScope (core' := x.core) hfull) (Nat.not_le.2 (Nat.max_lt.1 hkeep).2)
    · rw [raiseStore_unchosen hc]
      exact (h y hy hcy).2
  have hperf : ∀ x ∈ (s.stores.map (raiseStore sel scope s)).filter fun x => !isPending x, x.covers m a = true → x.visible vw = true := by
    intro z hz hc
    obtain ⟨y, hy, rfl⟩ := List.mem_map.1 (List.mem_filter.1 hz).1
    exact (hsee y hy (raiseStore_covers sel scope s y m a ▸ hc)).2
  calc physRead (performStores s sel scope) vw m tag a
      = pendingByte vw m tag a (baseByte (performStores s sel scope) m tag a) ((s.stores.map (raiseStore sel scope s)).filter isPending) :=
        congrArg (pendingByte vw m tag a _) (performStores_frame s sel scope).2
    _ = pendingByte vw m tag a (pendingByte vw m tag a (baseByte s m tag a) ((s.stores.map (raiseStore sel scope s)).filter fun x => !isPending x))
          ((s.stores.map (raiseStore sel scope s)).filter isPending) := by
        rw [baseByte_performStores, baseByte_applyStores m tag a vw hperf]
    _ = physRead s vw m tag a :=
        pendingByte_performed _ _ (fun x => ⟨raiseStore_covers sel scope s x m a, raiseStore_storeByte sel scope s x m tag a⟩) hsee holder _

/-- A store that is performed at SYSTEM scope, or beyond it, is on its way no more. -/
theorem performStores_gone (hs : 5 ≤ scope) {y : Store} (hy : y ∈ (performStores s sel scope).stores) :
    ∃ z ∈ s.stores, z.id = y.id ∧ sel z = false := by
  rw [(performStores_frame s sel scope).2, List.mem_filter, decide_eq_true_eq] at hy
  obtain ⟨hy, hpend⟩ := hy
  obtain ⟨z, hz, rfl⟩ := List.mem_map.1 hy
  refine ⟨z, hz, (raiseStore_id ..).symm, Bool.eq_false_iff.2 fun hsel => ?_⟩
  have hchosen : (chosenIds sel s).contains z.id = true := List.contains_iff_mem.2 (List.mem_map_of_mem (mem_selectStores hz hsel))
  have hfull := fullScope_le (raiseStore sel scope s z).mem
  have hscope := scope_raiseStore_system hs hchosen
  omega

/-- The last store over a byte, performed at SYSTEM scope, is what every party finds there. -/
theorem physRead_performStores_last (hs : 5 ≤ scope) {xs ys : List Store} {a : Nat} (hsplit : s.stores = xs ++ x :: ys) (hsel : sel x = true)
    (hx : x.covers x.mem a = true) (hys : ∀ y ∈ ys, y.covers x.mem a = false) (vw : View) :
    physRead (performStores s sel scope) vw x.mem x.tag a = x.bytes.getD (a - x.addr) 0#8 := by
  have hchosen : ∀ z ∈ s.stores, z.covers x.mem a = true → (chosenIds sel s).contains z.id = true := by
    have hxin : x ∈ selectStores sel (x :: ys) := mem_selectStores List.mem_cons_self hsel
    have holder : ∀ zs : List Store, ∀ z ∈ zs ++ x :: ys, z.covers x.mem a = true → z ∈ selectStores sel (zs ++ x :: ys) ∧
        x ∈ selectStores sel (zs ++ x :: ys) := by
      intro zs
      induction zs with
      | nil =>
        intro z hz hc
        rcases List.mem_cons.1 hz with rfl | hz
        · exact ⟨hxin, hxin⟩
        · exact absurd hc (Bool.eq_false_iff.1 (hys z hz))
      | cons w zs ih =>
        have hxs : x ∈ selectStores sel (zs ++ x :: ys) := (ih x (List.mem_append_right zs List.mem_cons_self) hx).2
        intro z hz hc
        refine ⟨?_, mem_selectStores_cons.2 (Or.inl hxs)⟩
        rcases List.mem_cons.1 hz with rfl | hz
        · exact mem_selectStores_cons.2 (Or.inr ⟨rfl, Or.inr ⟨x, hxs, overlaps_of_covers hc hx⟩⟩)
        · exact mem_selectStores_cons.2 (Or.inl (ih z hz hc).1)
    intro z hz hc
    rw [hsplit] at hz
    exact List.contains_iff_mem.2 (List.mem_map_of_mem (hsplit ▸ (holder xs z hz hc).1))
  have hsystem : ∀ z ∈ s.stores, (raiseStore sel scope s z).covers x.mem a = true → 5 ≤ (raiseStore sel scope s z).scope := fun z hz hc =>
    scope_raiseStore_system hs (hchosen z hz (raiseStore_covers sel scope s z x.mem a ▸ hc))
  have hpending : ∀ y ∈ (performStores s sel scope).stores, y.covers x.mem a = true → y.visible vw = false := by
    intro y hy hc
    rw [(performStores_frame s sel scope).2, List.mem_filter, decide_eq_true_eq] at hy
    obtain ⟨hy, hpend⟩ := hy
    obtain ⟨z, hz, rfl⟩ := List.mem_map.1 hy
    have hfull := fullScope_le (raiseStore sel scope s z).mem
    have hscope := hsystem z hz hc
    omega
  have hperf : ∀ y ∈ (s.stores.map (raiseStore sel scope s)).filter fun y => !isPending y, y.covers x.mem a = true → y.visible .system = true := by
    intro y hy hc
    obtain ⟨z, hz, rfl⟩ := List.mem_map.1 (List.mem_filter.1 hy).1
    exact decide_eq_true (hsystem z hz hc)
  have hlast : (raiseStore sel scope s x).covers x.mem a = true := (raiseStore_covers sel scope s x x.mem a).trans hx
  have hxs5 : 5 ≤ (raiseStore sel scope s x).scope :=
    hsystem x (hsplit ▸ List.mem_append_right xs List.mem_cons_self) hlast
  have hkept : isPending (raiseStore sel scope s x) = false :=
    decide_eq_false (Nat.not_lt.2 (Nat.le_trans (fullScope_le _) hxs5))
  have hyounger : ∀ d, pendingByte .system x.mem x.tag a d ((ys.map (raiseStore sel scope s)).filter fun y => !isPending y) = d := by
    refine pendingByte_unseen fun y hy hc => ?_
    obtain ⟨z, hz, rfl⟩ := List.mem_map.1 (List.mem_filter.1 hy).1
    exact absurd ((raiseStore_covers sel scope s z x.mem a).symm.trans hc) (Bool.eq_false_iff.1 (hys z hz))
  calc physRead (performStores s sel scope) vw x.mem x.tag a
      = baseByte (performStores s sel scope) x.mem x.tag a := pendingByte_unseen hpending _
    _ = pendingByte .system x.mem x.tag a (baseByte s x.mem x.tag a) ((s.stores.map (raiseStore sel scope s)).filter fun y => !isPending y) := by
        rw [baseByte_performStores, baseByte_applyStores x.mem x.tag a .system hperf]
    _ = storeByte (raiseStore sel scope s x) x.mem x.tag a := by
        have hvis : (raiseStore sel scope s x).visible .system = true := decide_eq_true hxs5
        rw [hsplit, List.map_append, List.map_cons, List.filter_append, List.filter_cons, hkept, Bool.not_false, if_pos rfl, pendingByte_append,
          pendingByte_cons, hlast, hvis, hyounger]
        rfl
    _ = x.bytes.getD (a - x.addr) 0#8 := by
        rw [raiseStore_storeByte]
        exact storeByte_own (core := x.core) (fun _ => rfl) x.id x.scope x.time

end PerformAt

/-! ### Peer stores (R261, R285) -/

section Peers

variable {s : State} {dev : Nat} {x : Astp}

/-- Peer stores change nothing but memory. -/
theorem memoryOnly_astpWrite (x : Astp) (s : State) : MemoryOnly s (astpWrite x s) :=
  memoryOnly_foldl (fun s y => by
    split
    · exact memoryOnly_refl s
    · exact memoryOnly_physWrite s _ _ _ _) x.pieces s

theorem memOf_physWrite {u v : State} (h : ∀ m, u.memOf m = v.memOf m) (m0 : Mem) (tag a : Nat) (bs : List Byte) :
    ∀ m, (physWrite u m0 tag a bs).memOf m = (physWrite v m0 tag a bs).memOf m := by
  have hhbm : u.hbm = v.hbm := h .hbm
  have hhost : u.host = v.host := h .host
  have hpeer : u.peer = v.peer := h .peer
  have hspad : u.spad = v.spad := h .spad
  intro m
  cases m0 <;> cases m <;> simp only [physWrite, baseWrite, noteWrite, State.memOf, hhbm, hhost, hpeer, hspad]

/-- What peer stores leave in memory depends on memory alone. -/
theorem memOf_astpWrite {u v : State} (h : ∀ m, u.memOf m = v.memOf m) (x : Astp) (m : Mem) : (astpWrite x u).memOf m = (astpWrite x v).memOf m := by
  unfold astpWrite
  induction x.pieces generalizing u v with
  | nil => exact h m
  | cons y ys ih =>
    rw [List.foldl_cons, List.foldl_cons]
    split
    · exact ih h
    · exact ih (memOf_physWrite h _ _ _ _)

/-- The state in which the answer finds the device: the stores are on their way no more. -/
def astpGone (x : Astp) (s : State) : State := engineDone x.id { s with astps := s.astps.filter fun y => decide (y.id ≠ x.id) }

/-- The state after a lost answer: the grid has a status, and a free choice has been made. -/
def astpLost (x : Astp) (s : State) : State :=
  let u := (astpGone x s).modGrid x.grid fun g => if g.status = 0x0100 then { g with status := 0x0107 } else g
  { u with fresh := u.fresh + 1 }

variable (h : s.astps.find? (fun x => decide (x.dev = dev)) = some x)
include h

theorem astpAnswer_performed (hp : x.pieces.any pieceLost = false) : astpAnswer dev true s = astpWrite x (astpGone x s) := by
  rw [astpAnswer, h]
  exact if_pos (by rw [hp]; rfl)

theorem astpAnswer_lost {ok : Bool} (hp : ok = false ∨ x.pieces.any pieceLost = true) :
    astpAnswer dev ok s = astpLost x s ∨ astpAnswer dev ok s = astpWrite x (astpLost x s) := by
  rw [astpAnswer, h]
  dsimp only
  have hno : ¬ (ok && !x.pieces.any pieceLost) = true := by
    rcases hp with hp | hp <;> simp [hp]
  rw [if_neg hno]
  split
  · exact Or.inr rfl
  · exact Or.inl rfl

end Peers

/-! ### Page walks (R373, R377, R383) -/

theorem mem_capTlb_head {p : TlbAt} {n : Nat} {t : TlbEntry} {ts : List TlbEntry} (h : t.place = p) : t ∈ capTlb p (n + 1) (t :: ts) := by
  rw [capTlb, if_pos h]
  exact List.mem_cons_self

theorem mem_putTlb_self {t : TlbEntry} (ts : List TlbEntry) : t ∈ putTlb t ts := by
  have hroom : ∃ n, tlbRoom t.place = n + 1 := by
    cases t.place with
    | core => exact ⟨511, rfl⟩
    | cluster => exact ⟨4095, rfl⟩
    | die => exact ⟨65535, rfl⟩
  obtain ⟨n, hn⟩ := hroom
  rw [putTlb, hn]
  exact mem_capTlb_head rfl

/-- The entry of a leaf with A set. -/
def accessedPte (pte : Nat) : Nat := if bitOf pte 12 then pte else pte + 2 ^ 12

theorem testBit_accessedPte (pte : Nat) : (accessedPte pte).testBit 12 = true := by
  unfold accessedPte
  split
  · next h => exact h
  · next h => rw [Nat.add_comm, Nat.testBit_two_pow_add_eq, Bool.not_eq_true']; exact Bool.eq_false_iff.2 h

/-- The cached translation of a leaf in a die's TLB. -/
def dieEntry (die p ctx a pte addr level : Nat) : TlbEntry :=
  { place := .die die, partition := p, ctx := ctx, glob := bitOf pte 4, page := a / 2 ^ leafBits level, level := level,
    pte := accessedPte pte, pteAddr := addr }

/-- What a walk of a die's unit caches for a context. -/
def walkParty (die p ctx : Nat) : Party := { die := some die, p := p, ctx := ctx, ctrl := false }

theorem mem_tlbFill_die (s : State) (die p ctx a pte addr level : Nat) :
    dieEntry die p ctx a pte addr level ∈ (tlbFill s (walkParty die p ctx) a pte addr level).1.tlb := mem_putTlb_self _

/-- A leaf whose A is set is cached without a write. -/
theorem tlbFill_accessed {s : State} {y : Party} {a pte addr level : Nat} (h : pte.testBit 12 = true) :
    (tlbFill s y a pte addr level).1 = { s with tlb := (tlbFill s y a pte addr level).1.tlb } := by
  unfold tlbFill
  rw [bitOf, h]
  rfl

theorem notePtrs_ptrs (s : State) (y : Party) (a : Nat) : notePtrs s y a = { s with ptrs := (notePtrs s y a).ptrs } := by
  unfold notePtrs
  split <;> rfl

section PageWalk

variable {s : State} {p ctx va die acc : Nat}

theorem execPageWalk_leaf {pte addr level : Nat} (hw : walk s p ctx (va % 2 ^ 55) = .leaf pte addr level) : execPageWalk p ctx va die acc s =
    .next (if (leafKind s (walkParty die p ctx) (accOf acc) pte level (va % 2 ^ 55)).isNone then
      (tlbFill (notePtrs s (walkParty die p ctx) (va % 2 ^ 55)) (walkParty die p ctx) (va % 2 ^ 55) pte addr level).1 else s) := by
  rw [execPageWalk, hw]
  rfl

theorem execPageWalk_refused
    (h : ∀ pte addr level, walk s p ctx (va % 2 ^ 55) = .leaf pte addr level →
      leafKind s (walkParty die p ctx) (accOf acc) pte level (va % 2 ^ 55) ≠ none) : execPageWalk p ctx va die acc s = .next s := by
  cases hw : walk s p ctx (va % 2 ^ 55) with
  | leaf pte addr level =>
    rw [execPageWalk_leaf hw]
    exact congrArg Host.Outcome.next (if_neg fun hn => h pte addr level hw (Option.isNone_iff_eq_none.1 hn))
  | _ => rw [execPageWalk, hw]

end PageWalk

/-! ### Fault rings (R382) -/

section Rings

variable {s : State} {p : Nat}

theorem fring_kput (s : State) (p : Nat) (g : FaultRing) : { s with faultRings := kput s.faultRings p g }.fring p = g :=
  congrArg (Option.getD · _) (kget_kput_same s.faultRings p g)

theorem fring_kput_other {k : Nat} (s : State) (g : FaultRing) (h : k ≠ p) : { s with faultRings := kput s.faultRings p g }.fring k = s.fring k :=
  congrArg (Option.getD · _) (kget_kput_other s.faultRings p k g h)

theorem find_unnumbered {g : FaultRing} (h : ∀ r ∈ g.recs, r.num ≠ none) : g.recs.find? (fun r => r.num.isNone) = none :=
  List.find?_eq_none.2 fun r hr hn => h r hr (Option.isNone_iff_eq_none.1 hn)

/-- With every record numbered nothing is written. -/
theorem writeRecords_numbered (h : ∀ r ∈ (s.fring p).recs, r.num ≠ none) (n : Nat) : writeRecords p n s = s := by
  induction n with
  | zero => rfl
  | succ n ih =>
    have hone : writeRecord p s = s := by
      rw [writeRecord, find_unnumbered h]
    rw [writeRecords, hone, ih]

theorem fring_postEvent (e : Nat) (r : EvRec) (s : State) : (postEvent e r s).fring p = s.fring p := by
  rw [State.fring, postEvent_kept]
  rfl

/-- A number that a ring's record bears, and that no record with its identity is still to get. -/
def Numbered (k : Nat) (g : FaultRing) : Prop := ∃ x ∈ g.recs, x.num = some k ∧ ∀ y ∈ g.recs, y.id = x.id → y.num ≠ none

/-- The record `r` gets the next number of its ring. -/
def numberRec (r : FaultRec) (g : FaultRing) : FaultRing :=
  { g with tail := (g.tail + 1) % 2 ^ 32, recs := g.recs.map fun x => if x.id = r.id then { x with num := some g.tail } else x }

/-- A record that finds room is numbered. -/
theorem fring_writeRecord_room {r : FaultRec} (hr : (s.fring p).recs.find? (fun r => r.num.isNone) = some r)
    (hok : hostRingOk s (s.fring p).base = true)
    (hroom : ((s.fring p).tail + 2 ^ 32 - (s.fring p).head) % 2 ^ 32 < (s.fring p).size) :
    (writeRecord p s).fring p = numberRec r (s.fring p) := by
  rw [writeRecord, hr]
  dsimp only
  rw [hok, Bool.not_true, if_neg Bool.false_ne_true, if_pos hroom, fring_postEvent]
  exact fring_kput _ _ _

/-- What a write of one record does to its ring. -/
theorem fring_writeRecord (p : Nat) (s : State) : (writeRecord p s).fring p = s.fring p ∨
    ∃ r, (s.fring p).recs.find? (fun r => r.num.isNone) = some r ∧ ((writeRecord p s).fring p = numberRec r (s.fring p) ∨
      (writeRecord p s).fring p = { s.fring p with recs := (s.fring p).recs.filter fun x => decide (x.id ≠ r.id) }) := by
  cases hr : (s.fring p).recs.find? (fun r => r.num.isNone) with
  | none =>
    left
    rw [writeRecord, hr]
  | some r =>
    by_cases hok : hostRingOk s (s.fring p).base = true
    · by_cases hroom : ((s.fring p).tail + 2 ^ 32 - (s.fring p).head) % 2 ^ 32 < (s.fring p).size
      · exact Or.inr ⟨r, rfl, Or.inl (fring_writeRecord_room hr hok hroom)⟩
      · left
        rw [writeRecord, hr]
        dsimp only
        rw [hok, Bool.not_true, if_neg Bool.false_ne_true, if_neg hroom]
    · refine Or.inr ⟨r, rfl, Or.inr ?_⟩
      rw [writeRecord, hr]
      dsimp only
      rw [Bool.eq_false_iff.2 hok, Bool.not_false, if_pos rfl]
      exact fring_kput _ _ _

theorem numbered_writeRecord {k : Nat} (h : Numbered k (s.fring p)) : Numbered k ((writeRecord p s).fring p) := by
  obtain ⟨x, hx, hk, hids⟩ := h
  rcases fring_writeRecord p s with heq | ⟨r, hr, heq⟩
  · exact heq ▸ ⟨x, hx, hk, hids⟩
  · have hunnumbered : r.num.isNone = true := List.find?_some (p := fun r : FaultRec => r.num.isNone) hr
    have hnone : r.num = none := Option.isNone_iff_eq_none.1 hunnumbered
    have hne : x.id ≠ r.id := fun hid => hids r (List.mem_of_find?_eq_some hr) hid.symm hnone
    rcases heq with heq | heq
    · refine heq ▸ ⟨x, List.mem_map.2 ⟨x, hx, if_neg hne⟩, hk, fun y hy hid => ?_⟩
      obtain ⟨z, hz, rfl⟩ := List.mem_map.1 hy
      by_cases hzr : z.id = r.id
      · rw [if_pos hzr]
        nofun
      · rw [if_neg hzr] at hid ⊢
        exact hids z hz hid
    · exact heq ▸ ⟨x, List.mem_filter.2 ⟨hx, decide_eq_true hne⟩, hk, fun y hy => hids y (List.mem_filter.1 hy).1⟩

theorem numbered_writeRecords {k : Nat} (n : Nat) : ∀ {s : State}, Numbered k (s.fring p) → Numbered k ((writeRecords p n s).fring p) := by
  induction n with
  | zero => exact id
  | succ n ih => exact fun h => ih (numbered_writeRecord h)

/-- With room in the ring the first record that has no number gets one. -/
theorem numbered_writeRecords_room {r : FaultRec} {n : Nat} (hr : r ∈ (s.fring p).recs) (hnone : r.num = none)
    (hok : hostRingOk s (s.fring p).base = true)
    (hroom : ((s.fring p).tail + 2 ^ 32 - (s.fring p).head) % 2 ^ 32 < (s.fring p).size) :
    Numbered (s.fring p).tail ((writeRecords p (n + 1) s).fring p) := by
  have hfound : ((s.fring p).recs.find? fun r => r.num.isNone).isSome = true := List.find?_isSome.2 ⟨r, hr, Option.isNone_iff_eq_none.2 hnone⟩
  obtain ⟨r1, hr1⟩ := Option.isSome_iff_exists.1 hfound
  refine numbered_writeRecords n ?_
  rw [fring_writeRecord_room hr1 hok hroom]
  refine ⟨{ r1 with num := some (s.fring p).tail }, List.mem_map.2 ⟨r1, List.mem_of_find?_eq_some hr1, if_pos rfl⟩, rfl, fun y hy hid => ?_⟩
  obtain ⟨z, hz, rfl⟩ := List.mem_map.1 hy
  by_cases hzr : z.id = r1.id
  · rw [if_pos hzr]
    nofun
  · rw [if_neg hzr] at hid
    exact absurd hid hzr

end Rings

/-- Settles O42: performed stores by what is pending over a byte, peers by `astpAnswer`, a walk by the entry it caches, and the ring by the
numbers of its records. -/
theorem memoryEvents : Obligations.MemoryEvents := by
  unfold Obligations.MemoryEvents
  refine ⟨fun s id sc hn => ?performed, fun s dev x h => ?peers, fun s dev ok h => ?unanswered, fun s p ctx va die acc => ?walk,
    fun s p n => ?answered, fun s p v => ?room⟩
  case performed =>
    refine ⟨_, rfl, fun hs x hx hid => ?_, fun vw m a h tag => physRead_performStores_seen hn h tag, fun hs xs x ys a hsplit hid hx hys vw =>
      physRead_performStores_last hs hsplit (decide_eq_true hid) hx hys vw⟩
    obtain ⟨z, -, hz, hsel⟩ := performStores_gone hs hx
    exact of_decide_eq_false hsel (hz.trans hid)
  case peers =>
    intro gone wrote
    refine ⟨fun hp => congrArg Host.Outcome.next (astpAnswer_performed h hp), fun ok hp => ⟨_, rfl, ?_⟩⟩
    have hmem : ∀ m, (astpLost x s).memOf m = gone.memOf m := fun m => by cases m <;> rfl
    have hgrid : ∀ g, kget s.grids x.grid = some g →
        kget (astpLost x s).grids x.grid = some { g with status := if g.status = 0x0100 then 0x0107 else g.status } := by
      intro g hg
      refine (kget_kmod_same _ s.grids x.grid).trans ?_
      rw [hg, Option.map_some]
      split <;> rfl
    rcases astpAnswer_lost h hp with heq | heq
    · rw [heq]
      refine ⟨rfl, hgrid, Or.inl fun m a => ?_⟩
      rw [hmem]
      cases m <;> rfl
    · rw [heq]
      have hframe := (memoryOnly_astpWrite x (astpLost x s)).rest
      refine ⟨by rw [hframe]; rfl, by rw [hframe]; exact hgrid, Or.inr fun m a => congrArg (Memory.read · a) (memOf_astpWrite hmem x m)⟩
  case unanswered =>
    exact congrArg Host.Outcome.next (astpAnswer_none ok (List.find?_eq_none.2 fun x hx hd => h x hx (of_decide_eq_true hd)))
  case walk =>
    refine ⟨fun pte addr level hw hk => ?_, fun h => execPageWalk_refused h⟩
    refine ⟨_, dieEntry die p ctx (va % 2 ^ 55) pte addr level, (execPageWalk_leaf hw).trans (congrArg _ (if_pos (Option.isNone_iff_eq_none.2 hk))),
      mem_tlbFill_die _ _ _ _ _ _ _ _, rfl, rfl, rfl, rfl, rfl, rfl, testBit_accessedPte pte, rfl, fun hbit => ⟨if_pos hbit, ?_⟩⟩
    rw [tlbFill_accessed hbit, notePtrs_ptrs]
  case answered =>
    exact ⟨_, rfl, rfl, fring_kput s p _, fun k hk => fring_kput_other s _ hk⟩
  case room =>
    intro g left
    have hexec : left ≤ g.size → exec (.frheadWrite p v) s =
        .next (writeRecords p g.recs.length { s with faultRings := kput s.faultRings p { g with head := v % 2 ^ 32 } }) := fun h =>
      congrArg Host.Outcome.next (if_neg (Nat.not_lt.2 h))
    have hring := fring_kput s p { g with head := v % 2 ^ 32 }
    refine ⟨fun h => congrArg Host.Outcome.next (if_pos h), fun h hnum => (hexec h).trans (congrArg _ (writeRecords_numbered (by rwa [hring]) _)),
      fun h hok r hr hnone => ⟨_, hexec (Nat.le_of_lt h), ?_⟩⟩
    obtain ⟨n, hlen⟩ := Nat.exists_eq_succ_of_ne_zero (List.length_pos_of_mem hr).ne'
    have hnumbered := numbered_writeRecords_room (s := { s with faultRings := kput s.faultRings p { g with head := v % 2 ^ 32 } }) (n := n)
      (by rwa [hring]) hnone (by rwa [hring]) (by rwa [hring])
    rw [hring] at hnumbered
    rw [hlen]
    obtain ⟨x, hx, hk, -⟩ := hnumbered
    exact ⟨x, hx, hk⟩

end Sys2Proof.Proofs
end

section

/-! ## Draws (O44) -/

namespace Sys2Proof.Proofs
open Sys2Proof.Machine Sys2Proof.Laws Sys2Proof.Safety

/-! ### The records that draws and their grids change (R356 to R363) -/

section DrawRecord

variable {s : State} {did : Nat} {d : Draw}

theorem draw_modDraw_same (f : Draw → Draw) (h : s.draw did = some d) : (s.modDraw did f).draw did = some (f d) := by
  have hsame := kget_kmod_same f s.draws did
  rw [show kget s.draws did = some d from h] at hsame
  exact hsame

theorem draw_modDraw_other {k : Nat} (f : Draw → Draw) (h : k ≠ did) : (s.modDraw did f).draw k = s.draw k := kget_kmod_other f s.draws did k h

end DrawRecord

/-! ### TESSELLATE (R361, R362) -/

section Tessellate

variable {s : State} {did gid : Nat} {d : Draw} {g : Grid}

/-- A domain wave over the first lanes that wait. -/
def launchedLanes (total : Nat) (d : Draw) : Draw :=
  { d with lanes := d.lanes.drop 64, domKeys := kput d.domKeys total ((d.lanes.take 64).map (·.1)) }

/-- What a launch of a domain wave does to its draw and to its grid. -/
theorem launchDomain_records (hd : s.draw did = some d) (hg : kget s.grids gid = some g) :
    (launchDomain did gid s).draw did = some (launchedLanes g.total d) ∧
      (∃ inits, kget (launchDomain did gid s).grids gid = some { g with total := g.total + 1, inits := inits }) ∧
      ∀ k, k ≠ did → (launchDomain did gid s).draw k = s.draw k := by
  rw [launchDomain, hd, hg]
  refine ⟨draw_modDraw_same _ hd, ⟨_, (kget_kmod_same _ s.grids gid).trans (by rw [hg]; rfl)⟩, fun k hk => draw_modDraw_other _ hk⟩

/-- Full domain waves are launched one by one, until fewer than 64 lanes wait. -/
theorem launchFull_records (fuel : Nat) : ∀ {s : State} {d : Draw} {g : Grid}, s.draw did = some d → kget s.grids gid = some g →
    d.lanes.length / 64 ≤ fuel →
    ∃ keys inits, (launchFull did gid fuel s).draw did = some { d with lanes := d.lanes.drop (64 * (d.lanes.length / 64)), domKeys := keys } ∧
      kget (launchFull did gid fuel s).grids gid = some { g with total := g.total + d.lanes.length / 64, inits := inits } ∧
      (∀ i, i < d.lanes.length / 64 → kget keys (g.total + i) = some (((d.lanes.drop (64 * i)).take 64).map (·.1))) ∧
      (∀ k, k < g.total → kget keys k = kget d.domKeys k) ∧ ∀ k, k ≠ did → (launchFull did gid fuel s).draw k = s.draw k := by
  have hstop : ∀ {s : State} {d : Draw} {g : Grid} {t : State}, s.draw did = some d → kget s.grids gid = some g → d.lanes.length / 64 = 0 → t = s →
      ∃ keys inits, t.draw did = some { d with lanes := d.lanes.drop (64 * (d.lanes.length / 64)), domKeys := keys } ∧
        kget t.grids gid = some { g with total := g.total + d.lanes.length / 64, inits := inits } ∧
        (∀ i, i < d.lanes.length / 64 → kget keys (g.total + i) = some (((d.lanes.drop (64 * i)).take 64).map (·.1))) ∧
        (∀ k, k < g.total → kget keys k = kget d.domKeys k) ∧ ∀ k, k ≠ did → t.draw k = s.draw k := by
    rintro s d g _ hd hg hzero rfl
    rw [hzero]
    exact ⟨d.domKeys, g.inits, hd, hg, fun i hi => absurd hi (Nat.not_lt_zero i), fun _ _ => rfl, fun _ _ => rfl⟩
  induction fuel with
  | zero => exact fun hd hg hfuel => hstop hd hg (Nat.le_zero.1 hfuel) rfl
  | succ fuel ih =>
    intro s d g hd hg hfuel
    rw [launchFull, hd]
    dsimp only
    by_cases hfull : 64 ≤ d.lanes.length
    · rw [if_pos hfull]
      obtain ⟨hd1, ⟨inits, hg1⟩, hother1⟩ := launchDomain_records hd hg
      have hcount : d.lanes.length / 64 = (d.lanes.drop 64).length / 64 + 1 := by
        rw [List.length_drop]
        omega
      have hlanes : (launchedLanes g.total d).lanes = d.lanes.drop 64 := rfl
      obtain ⟨keys, inits', hd2, hg2, hkeys, hold, hother⟩ := ih hd1 hg1 (by rw [hlanes]; omega)
      refine ⟨keys, inits', ?draw, ?grid, fun i hi => ?key, fun k hk => ?kept, fun k hk => (hother k hk).trans (hother1 k hk)⟩
      case draw =>
        rw [hd2]
        simp only [launchedLanes, List.drop_drop, hcount, Nat.mul_add, Nat.mul_one, Nat.add_comm]
      case grid =>
        rw [hg2]
        simp only [launchedLanes, hcount, Nat.add_assoc, Nat.add_comm]
      case key =>
        cases i with
        | zero => exact (hold g.total (Nat.lt_succ_self _)).trans (kget_kput_same _ _ _)
        | succ i =>
          have hkey := hkeys i (by rw [hlanes]; omega)
          rw [hlanes, List.drop_drop] at hkey
          rw [show g.total + (i + 1) = g.total + 1 + i by omega, show 64 * (i + 1) = 64 + 64 * i by omega]
          exact hkey
      case kept => exact (hold k (Nat.lt_succ_of_lt hk)).trans (kget_kput_other _ _ _ _ (Nat.ne_of_lt hk))
    · rw [if_neg hfull]
      exact hstop hd hg (Nat.div_eq_of_lt (Nat.not_le.1 hfull)) rfl

end Tessellate

/-! ### PRIMITIVE_RELEASE (R357, R358) -/

section Release

variable {s : State} {did : Nat} {d : Draw}

/-- A draw after the release of its first `n` primitives. -/
def releasedBy (n : Nat) (bins : KMap (List (List Byte))) (d : Draw) : Draw :=
  { d with prims := d.prims.drop n, released := d.released + n, bins := bins }

theorem releaseOne_cons {x : Prim} {xs : List Prim} (h : d.prims = x :: xs) : ∃ bins, releaseOne d = releasedBy 1 bins d := by
  refine ⟨(releaseOne d).bins, ?_⟩
  rw [releasedBy, h]
  unfold releaseOne
  rw [h]
  rfl

theorem releasable_prims (h : releasable s d = true) : ∃ x xs, d.prims = x :: xs := by
  cases hp : d.prims with
  | nil => simp [releasable, hp] at h
  | cons x xs => exact ⟨x, xs, rfl⟩

theorem not_releasable_nil (h : d.prims = []) : releasable s d = false := by
  simp [releasable, h]

/-- Primitives leave one by one until the next one has to wait. -/
theorem releaseAll_records (fuel : Nat) : ∀ {s : State} {d : Draw}, s.draw did = some d → d.prims.length ≤ fuel →
    releaseAll did fuel s = { s with draws := (releaseAll did fuel s).draws } ∧
      ∃ n bins, (releaseAll did fuel s).draw did = some (releasedBy n bins d) ∧ n ≤ d.prims.length ∧
        releasable (releaseAll did fuel s) (releasedBy n bins d) = false ∧ (releasable s d = true → 0 < n) ∧
        ∀ k, k ≠ did → (releaseAll did fuel s).draw k = s.draw k := by
  have hstop : ∀ {s : State} {d : Draw} {t : State}, s.draw did = some d → releasable s d = false → t = s →
      t = { s with draws := t.draws } ∧ ∃ n bins, t.draw did = some (releasedBy n bins d) ∧ n ≤ d.prims.length ∧
        releasable t (releasedBy n bins d) = false ∧ (releasable s d = true → 0 < n) ∧ ∀ k, k ≠ did → t.draw k = s.draw k := by
    rintro s d _ hd hr rfl
    exact ⟨rfl, 0, d.bins, hd, Nat.zero_le _, hr, fun h => absurd h (Bool.eq_false_iff.1 hr), fun _ _ => rfl⟩
  induction fuel with
  | zero => exact fun hd hfuel => hstop hd (not_releasable_nil (List.length_eq_zero_iff.1 (Nat.le_zero.1 hfuel))) rfl
  | succ fuel ih =>
    intro s d hd hfuel
    rw [releaseAll, hd]
    dsimp only
    by_cases hr : releasable s d = true
    · rw [if_pos hr]
      obtain ⟨x, xs, hp⟩ := releasable_prims hr
      obtain ⟨bins1, hone⟩ := releaseOne_cons hp
      have hd1 : (s.modDraw did releaseOne).draw did = some (releasedBy 1 bins1 d) := hone ▸ draw_modDraw_same releaseOne hd
      have hlen : (releasedBy 1 bins1 d).prims.length + 1 = d.prims.length := by
        rw [releasedBy, List.length_drop, hp, List.length_cons, Nat.add_sub_cancel]
      obtain ⟨hframe, n, bins, hd2, hn, hrel, -, hother⟩ := ih hd1 (by omega)
      have hboth : releasedBy n bins (releasedBy 1 bins1 d) = releasedBy (n + 1) bins d := by
        simp only [releasedBy, List.drop_drop, Nat.add_comm, Nat.add_left_comm]
      rw [hboth] at hd2 hrel
      refine ⟨?_, n + 1, bins, hd2, by omega, hrel, fun _ => Nat.succ_pos n, fun k hk => (hother k hk).trans (draw_modDraw_other _ hk)⟩
      rw [hframe]
      rfl
    · rw [if_neg hr]
      exact hstop hd (Bool.eq_false_iff.2 hr) rfl

end Release

/-! ### RASTER_LAUNCH (R363) -/

/-- An array whose entries at an index all hold one value, and that has one there unless the value is the default, reads as it. -/
theorem cellsGet_of_entries {α : Type} {e v : α} {c : Cells α} {n : Nat} (hall : ∀ w, (n, w) ∈ c → w = v) (hmem : v ≠ e → (n, v) ∈ c) :
    cellsGet e c n = v := by
  induction c with
  | nil => exact (Classical.not_not.1 fun h => List.not_mem_nil (hmem fun hv => h hv.symm))
  | cons x c ih =>
    obtain ⟨k, u⟩ := x
    rw [cellsGet]
    split
    · next h => exact hall u (h ▸ List.mem_cons_self)
    · next h =>
      refine ih (fun w hw => hall w (List.mem_cons_of_mem _ hw)) fun hv => ?_
      rcases List.mem_cons.1 (hmem hv) with heq | hin
      · exact absurd (congrArg Prod.fst heq) h
      · exact hin

theorem mem_laneRegs {lanes : List (List Word)} {n k : Nat} {v : Word} :
    (k, v) ∈ laneRegs lanes n ↔ ∃ r < n, ∃ l ws, lanes[l]? = some ws ∧ k = r * 64 + l ∧ v = ws.getD r 0#32 ∧ v ≠ 0#32 := by
  simp only [laneRegs, List.mem_flatMap, List.mem_range, List.mem_filterMap, Prod.exists, List.mem_zipIdx_iff_getElem?]
  constructor
  · rintro ⟨r, hr, ws, l, hl, h⟩
    split at h
    · exact nomatch h
    · next hne =>
      obtain ⟨rfl, rfl⟩ := Prod.mk.inj (Option.some.inj h)
      exact ⟨r, hr, l, ws, hl, rfl, rfl, hne⟩
  · rintro ⟨r, hr, l, ws, hl, rfl, rfl, hne⟩
    exact ⟨r, hr, ws, l, hl, if_neg hne⟩

/-- The registers that a device-launched wave of at most 64 lanes begins with: word r of lane l in v[r]. -/
theorem cellsGet_laneRegs {lanes : List (List Word)} {n l r : Nat} (hlen : lanes.length ≤ 64) (hl : l < lanes.length) (hr : r < n) :
    cellsGet 0#32 (laneRegs lanes n) (r * 64 + l) = (lanes.getD l []).getD r 0#32 := by
  have hlane : lanes[l]? = some (lanes.getD l []) := by rw [List.getD_eq_getElem _ _ hl, List.getElem?_eq_getElem hl]
  refine cellsGet_of_entries (fun w hw => ?_) fun hne => mem_laneRegs.2 ⟨r, hr, l, _, hlane, rfl, rfl, hne⟩
  obtain ⟨r', -, l', ws, hl', hk, rfl, -⟩ := mem_laneRegs.1 hw
  have hlt : l' < lanes.length := (List.getElem?_eq_some_iff.1 hl').1
  obtain rfl : r = r' := by omega
  obtain rfl : l = l' := by omega
  rw [hlane] at hl'
  rw [Option.some.inj hl']

section Raster

variable {s : State} {did tile : Nat} {d : Draw}

/-- The bins of a draw once a batch has left one of them. -/
def binsAfter (d : Draw) (tile : Nat) : KMap (List (List Byte)) :=
  if (kgetD [] d.bins tile).length ≤ 64 then kdel d.bins tile else kput d.bins tile ((kgetD [] d.bins tile).drop 64)

theorem kgetD_binsAfter (d : Draw) (tile : Nat) : kgetD [] (binsAfter d tile) tile = (kgetD [] d.bins tile).drop 64 := by
  unfold binsAfter
  split
  · next h => rw [List.drop_of_length_le h, kgetD, kget_kdel_same]; rfl
  · rw [kgetD, kget_kput_same]; rfl

theorem execRasterLaunch_idle (hd : s.draw did = some d) (h : rasterDue s did d tile = false) : execRasterLaunch did tile s = .next s := by
  rw [execRasterLaunch, hd]
  exact congrArg Host.Outcome.next (if_neg (Bool.eq_false_iff.1 h))

variable (hd : s.draw did = some d) (h : rasterDue s did d tile = true)
include hd h

theorem execRasterLaunch_vendor (hv : d.vendor = true) : execRasterLaunch did tile s = .next (s.modDraw did fun x =>
    { x with bins := binsAfter d tile, jobs := kput x.jobs tile (((kgetD [] d.bins tile).take 64).flatMap (primJobs x tile)) }) := by
  rw [execRasterLaunch, hd]
  dsimp only
  rw [if_pos h, if_pos hv]
  rfl

theorem execRasterLaunch_waves {g : Grid} (hv : d.vendor = false) (hg : kget s.grids d.rast = some g) : execRasterLaunch did tile s =
    .next (launchInit d.rast (rasterInit d tile ((kgetD [] d.bins tile).take 64))
      (s.modDraw did fun x => { x with bins := binsAfter d tile, active := kput x.active tile g.total })) := by
  rw [execRasterLaunch, hd]
  dsimp only
  rw [if_pos h, if_neg (Bool.eq_false_iff.1 hv), hg]
  rfl

end Raster

theorem words64_ofNat (n : Nat) : words64 (BitVec.ofNat 64 n) = [BitVec.ofNat 32 n, BitVec.ofNat 32 (n / 2 ^ 32)] := by
  have hlo : BitVec.extractLsb' 0 32 (BitVec.ofNat 64 n) = BitVec.ofNat 32 n := by
    apply BitVec.eq_of_toNat_eq
    simp only [BitVec.extractLsb'_toNat, BitVec.toNat_ofNat]
    omega
  have hhi : BitVec.extractLsb' 32 32 (BitVec.ofNat 64 n) = BitVec.ofNat 32 (n / 2 ^ 32) := by
    apply BitVec.eq_of_toNat_eq
    simp only [BitVec.extractLsb'_toNat, BitVec.toNat_ofNat]
    omega
  exact congrArg₂ (fun a b => [a, b]) hlo hhi

/-- Settles O44: the tessellator by its full waves, the release by the primitives that may leave, the raster launch by its batch. -/
theorem drawEvents : Obligations.DrawEvents := by
  unfold Obligations.DrawEvents
  refine ⟨fun s did d gid g x xs hd hdom hg hc hp hlen => ?tessellate, fun s did d hd h => ?nothing, fun s did d hd => ?release,
    fun d x xs hp => ?bins, fun s did d tile hd h => execRasterLaunch_idle hd h, fun s did d tile g hd h hv hg => ?raster,
    fun s did d tile hd h hv => ?vendor⟩
  case tessellate =>
    intro all n
    have hexec : exec (.tessellate did) s = .next (launchFull did gid ((patchLanes x).length / 64 + 1)
        (s.modDraw did fun d => { d with patches := xs, lanes := d.lanes ++ patchLanes x })) := by
      show execTessellate did s = _
      rw [execTessellate, hd]
      dsimp only
      rw [hdom]
      dsimp only
      rw [if_neg (Bool.eq_false_iff.1 hc), hp]
    have hfuel : (d.lanes ++ patchLanes x).length / 64 ≤ (patchLanes x).length / 64 + 1 := by
      rw [List.length_append]
      omega
    obtain ⟨keys, inits, hdraw, hgrid, hkeys, -, hother⟩ := launchFull_records ((patchLanes x).length / 64 + 1)
      (draw_modDraw_same (fun d => { d with patches := xs, lanes := d.lanes ++ patchLanes x }) hd) hg hfuel
    exact ⟨_, _, _, hexec, hdraw, hgrid, rfl, rfl, hkeys, fun k hk => (hother k hk).trans (draw_modDraw_other _ hk)⟩
  case nothing =>
    show execTessellate did s = _
    rw [execTessellate, hd]
    refine congrArg Host.Outcome.next ?_
    dsimp only
    split
    · rfl
    · next gid hdom =>
      by_cases hc : d.cancelled = true
      · exact if_pos hc
      · obtain ⟨hp, hdue⟩ := (h.resolve_left (by rw [hdom]; nofun)).resolve_left hc
        rw [if_neg hc, hp]
        exact if_neg (Bool.eq_false_iff.1 hdue)
  case release =>
    have hexec : exec (.primitiveRelease did) s = .next (releaseAll did d.prims.length s) := by
      show execPrimitiveRelease did s = _
      rw [execPrimitiveRelease, hd]
    obtain ⟨hframe, n, bins, hdraw, hn, hrel, hpos, hother⟩ := releaseAll_records d.prims.length hd (Nat.le_refl _)
    exact ⟨_, n, _, hexec, hframe, hdraw, rfl, hn, hrel, hpos, hother⟩
  case bins =>
    unfold releaseOne
    rw [hp]
  case raster =>
    intro bin n
    have hbatch : (bin.take 64).length = n := List.length_take
    refine ⟨_, _, _, rasterInit d tile (bin.take 64), execRasterLaunch_waves hd h hv hg, draw_modDraw_same _ hd,
      (kget_kmod_same _ s.grids d.rast).trans (by rw [hg]; rfl), kgetD_binsAfter d tile, kget_kput_same _ _ _, rfl, kget_kput_same _ _ _, hbatch, ?_,
      fun l r hl hr => ?_⟩
    · rw [rasterInit, hbatch, words64_ofNat]
      rfl
    · have hlanes : ((bin.take 64).map recWords).length = n := (List.length_map _).trans hbatch
      have hword : ((bin.take 64).map recWords).getD l [] = recWords (bin.getD l []) := by
        have hlt : l < bin.length := by omega
        have hl64 : l < 64 := by omega
        rw [List.getD_eq_getElem?_getD, List.getElem?_map, List.getElem?_take_of_lt hl64, List.getElem?_eq_getElem hlt,
          List.getD_eq_getElem _ _ hlt]
        rfl
      rw [← hword]
      exact cellsGet_laneRegs (by omega) (by omega) hr
  case vendor =>
    intro bin
    exact ⟨_, _, execRasterLaunch_vendor hd h hv, rfl, draw_modDraw_same _ hd, kgetD_binsAfter d tile, kget_kput_same _ _ _, rfl⟩

end Sys2Proof.Proofs
end

section

/-! ## Engines (O43) -/

namespace Sys2Proof.Proofs
open Sys2Proof.Machine Sys2Proof.Laws Sys2Proof.Safety

/-! ### A step of a copy request (R288, R293 to R296, R303) -/

section CopyRange

variable {x : Copy} {a : Acc} {ea n : Nat} {s u : State} {ps : Places} {k : State → Places → CopyRes}

/-- A range that is granted goes on with its places. -/
theorem copyRange_granted (h : RangeGranted x.owner a ea n s u ps) : copyRange x a ea n s k = k u ps := by
  obtain ⟨xs, hxs, hres⟩ := h.pieces
  rw [copyRange, hxs]
  dsimp only
  rw [show copyParty x = x.owner.party from rfl, resolveLane_of _ hres {}]
  rfl

theorem copyWrite_granted {bs : List Byte} {k : State → CopyRes} (h : RangeGranted x.owner accWrite ea bs.length s u ps) :
    copyWrite x ea bs s k = k (ps.foldl (writePieceAt x.owner.core (copyScope u x) bs) u) := copyRange_granted h

theorem copyRead_granted {k : State → List Byte → CopyRes} (h : RangeGranted x.owner accRead ea n s u ps)
    (hp : placesPoisoned u ps = false) : copyRead x ea n s k = k u (readPlaces u (.core x.owner.core) ps) :=
  (copyRange_granted h).trans (if_neg (Bool.eq_false_iff.1 hp))

end CopyRange

/-- A step that delivers, delivers `n` bytes. -/
def OkBytes (n : Nat) (r : CopyRes) : Prop := ∀ u y m, r = .ok u y m → m = n

section OkBytes

variable {x : Copy} {a : Acc} {ea len n : Nat} {s : State}

theorem okBytes_ok (s : State) (x : Copy) (n : Nat) : OkBytes n (.ok s x n) := fun _ _ _ h => by
  cases h
  rfl

theorem okBytes_bad (s : State) (code : Nat) : OkBytes n (.bad s code) := fun _ _ _ h => CopyRes.noConfusion h

theorem okBytes_stall (s : State) (ls : List (Nat × Stalled)) : OkBytes n (.stall s ls) := fun _ _ _ h => CopyRes.noConfusion h

theorem okBytes_fault (f : Fault) : OkBytes n (.fault f) := fun _ _ _ h => CopyRes.noConfusion h

theorem okBytes_copyRange {k : State → Places → CopyRes} (h : ∀ s ps, OkBytes n (k s ps)) : OkBytes n (copyRange x a ea len s k) := by
  unfold copyRange
  split
  · exact okBytes_bad _ _
  · split
    split
    · exact okBytes_bad _ _
    · exact okBytes_fault _
    · exact okBytes_stall _ _
    · exact h _ _

theorem okBytes_poison {s : State} {ps : Places} {r : CopyRes} (h : OkBytes n r) : OkBytes n (if placesPoisoned s ps then .bad s 5 else r) := by
  split
  · exact okBytes_bad _ _
  · exact h

theorem okBytes_copyRead {k : State → List Byte → CopyRes} (h : ∀ s bs, OkBytes n (k s bs)) : OkBytes n (copyRead x ea len s k) :=
  okBytes_copyRange fun s _ => okBytes_poison (h s _)

theorem okBytes_copyWrite {bs : List Byte} {k : State → CopyRes} (h : ∀ s, OkBytes n (k s)) : OkBytes n (copyWrite x ea bs s k) :=
  okBytes_copyRange fun _ _ => h _

theorem okBytes_accumCells {k : State → Copy → CopyRes} (h : ∀ s y, OkBytes n (k s y)) (es : List (List Byte)) :
    ∀ ea s y, OkBytes n (accumCells x ea es s k y) := by
  induction es with
  | nil => exact fun _ s y => h s y
  | cons e es ih => exact fun ea s y => okBytes_copyRange fun s ps => okBytes_poison (ih _ _ _)

theorem okBytes_readCells {k : State → Copy → List Byte → CopyRes} (h : ∀ s y bs, OkBytes n (k s y bs)) (cells : Nat) :
    ∀ ea s y out, OkBytes n (readCells x ea cells s k y out) := by
  induction cells with
  | zero => exact fun _ s y out => h s y out
  | succ cells ih => exact fun ea s y out => okBytes_copyRange fun s ps => okBytes_poison (ih _ _ _ _)

theorem okBytes_deliverBytes (x : Copy) (off n : Nat) (s : State) : OkBytes n (deliverBytes x off n s) := by
  unfold deliverBytes
  split
  · exact okBytes_copyRead fun _ _ => okBytes_copyWrite fun _ => okBytes_ok _ _ _
  · exact okBytes_copyRead fun _ _ => okBytes_copyWrite fun _ => okBytes_ok _ _ _
  · split
    · exact okBytes_copyRead fun _ _ => okBytes_copyRange fun _ _ => okBytes_accumCells (fun _ _ => okBytes_ok _ _ _) _ _ _ _
    · exact okBytes_copyRange fun _ _ => okBytes_copyRange fun _ _ =>
        okBytes_readCells (fun _ _ _ => okBytes_copyWrite fun _ => okBytes_ok _ _ _) _ _ _ _ _
  · exact okBytes_copyWrite fun _ => okBytes_ok _ _ _

/-- Bytes of the sector that a request without a gather delivers next. -/
def sectorBytes (x : Copy) : Nat := min (32 - (x.dst + x.done) % 32) (x.total - x.done)

theorem deliverNext_plain (h : x.gather = none) : deliverNext x s = deliverBytes x x.done (sectorBytes x) s := by
  rw [deliverNext, h]
  rfl

end OkBytes

section CopyStep

variable {s u : State} {id n : Nat} {x y : Copy}

theorem copyStep_held (h : kget s.copies id = some x) (hm : copyMoves s id x = false) : copyStep id s = .next s := by
  rw [copyStep, h]
  exact if_neg (Bool.eq_false_iff.1 hm)

theorem copyStep_delivers (h : kget s.copies id = some x) (hm : copyMoves s id x = true) (hd : deliverNext x s = .ok u y n) :
    copyStep id s = .next (afterSector id y n u) := by
  rw [copyStep, h]
  refine (if_pos hm).trans ?_
  rw [hd]

theorem copyStep_stalls {ls : List (Nat × Stalled)} (h : kget s.copies id = some x) (hm : copyMoves s id x = true)
    (hd : deliverNext x s = .stall u ls) : copyStep id s = .next (stopCopy id x ls u) := by
  rw [copyStep, h]
  refine (if_pos hm).trans ?_
  rw [hd]

theorem countEvent_cores (core event n ctx : Nat) (s : State) :
    countEvent core event n ctx s = { s with cores := (countEvent core event n ctx s).cores } := by
  unfold countEvent
  split <;> rfl

/-- The write pointer of a workgroup after a sector of `n` bytes. -/
def sectorWg (y : Copy) (n : Nat) (g : Wg) : Wg := { g with wp := cellsPut 0 g.wp y.ch ((cellsGet 0 g.wp y.ch + n) % 2 ^ 64) }

/-- Without a barrier a delivered sector moves the request, the write pointer and the counters on, and nothing else. -/
theorem afterSector_plain (hb : y.ben = false) (id n : Nat) (u : State) : ∃ cores, afterSector id y n u =
    { modWgAny y.owner.wg (sectorWg y n) u with cores := cores, copies := kput u.copies id { y with done := y.done + n } } := by
  have hcredit (s : State) : creditBarrier y n s = some s := if_pos (by rw [hb]; rfl)
  refine ⟨(afterSector id y n u).cores, ?_⟩
  rw [afterSector, hcredit]
  dsimp only
  rw [countEvent_cores]
  rfl

/-- What a delivered sector leaves to be seen: the request, the write pointer, and memory as the delivery left it. -/
theorem afterSector_seen (hb : y.ben = false) (id n : Nat) (u : State) :
    kget (afterSector id y n u).copies id = some { y with done := y.done + n } ∧
      (∀ k, k ≠ id → kget (afterSector id y n u).copies k = kget u.copies k) ∧
      (∀ g, kget u.wgs y.owner.wg = some g → kget (afterSector id y n u).wgs y.owner.wg = some (sectorWg y n g)) ∧
      ∀ vw m tag a, physRead (afterSector id y n u) vw m tag a = physRead u vw m tag a := by
  obtain ⟨cores, heq⟩ := afterSector_plain hb id n u
  rw [heq]
  refine ⟨kget_kput_same _ _ _, fun k hk => kget_kput_other _ _ _ _ hk, fun g hg => ?_, fun vw m tag a => by cases m <;> rfl⟩
  exact (kget_kmod_same _ u.wgs y.owner.wg).trans (by rw [hg]; rfl)

/-- The records that the accesses of a stopped request join. -/
def stopRecords (x : Copy) (ls : List (Nat × Stalled)) (s : State) : State × List Nat :=
  ls.foldl (fun (acc : State × List Nat) l =>
    let t := addFault x.owner.partition x.owner.ctx l.2.va l.1 l.2.level acc.1
    (t.1, acc.2 ++ [t.2])) (s, [])

theorem length_stopRecords (x : Copy) (ls : List (Nat × Stalled)) (s : State) : (stopRecords x ls s).2.length = ls.length := by
  have hfold : ∀ acc : State × List Nat, (ls.foldl (fun (acc : State × List Nat) l =>
      let t := addFault x.owner.partition x.owner.ctx l.2.va l.1 l.2.level acc.1
      (t.1, acc.2 ++ [t.2])) acc).2.length = acc.2.length + ls.length := by
    induction ls with
    | nil => exact fun _ => rfl
    | cons l ls ih =>
      intro acc
      rw [List.foldl_cons, ih, List.length_append, List.length_singleton, List.length_cons]
      omega
  exact (hfold (s, [])).trans (Nat.zero_add _)

theorem kget_stopCopy (id : Nat) (x : Copy) (ls : List (Nat × Stalled)) (s : State) :
    kget (stopCopy id x ls s).copies id = some { x with waits := (stopRecords x ls s).2, fifo := false } := kget_kput_same _ _ _

end CopyStep

/-! ### Completion of a request (R299, R300) -/

section CopyEnd

variable {s : State} {id : Nat} {x : Copy} {st : Nat × Nat}

/-- The request is gone, nobody waits for it, and its workgroup may be freed. -/
def copyGone (id : Nat) (x : Copy) (u : State) : State := freeWg x.owner.wg (engineDone id { u with copies := kdel u.copies id })

theorem completeCopy_none (h : kget s.copies id = some x) (he : copyEnd s id x = none) : completeCopy id s = s := by
  rw [completeCopy, h]
  dsimp only
  rw [he]

variable (h : kget s.copies id = some x) (he : copyEnd s id x = some st)
include h he

theorem completeCopy_event (hq : x.queue = none) :
    completeCopy id s = copyGone id x (if st.1 = 0 then s else cqEvent (kgetD {} s.grids x.owner.grid) (copyRec x st) s) := by
  rw [completeCopy, h]
  dsimp only
  rw [he]
  dsimp only
  rw [hq]
  rfl

theorem completeCopy_record {n : Nat} (hq : x.queue = some n) : completeCopy id s = match postCq x.owner.grid n (copyRec x st) s with
    | some u => copyGone id x u
    | none => s := by
  rw [completeCopy, h]
  dsimp only
  rw [he]
  dsimp only
  rw [hq]
  dsimp only
  cases postCq x.owner.grid n (copyRec x st) s <;> rfl

omit h in
/-- A request that has not ended early ends once every byte is moved. -/
theorem copyEnd_moved (hs : x.status = none) :
    (x.total = 0 → st = (0, 0)) ∧ (x.total ≠ 0 → x.done = x.total ∧ st = (if x.ovf then 2 else 0, 0)) := by
  unfold copyEnd at he
  rw [hs] at he
  split at he
  · exact nomatch he
  · by_cases ht : x.total = 0
    · rw [if_pos ⟨ht, rfl⟩] at he
      exact ⟨fun _ => (Option.some.inj he).symm, fun hne => absurd ht hne⟩
    · rw [if_neg fun hc => ht hc.1] at he
      split at he
      · exact nomatch he
      · dsimp only at he
        split at he
        · next hdone => exact ⟨fun h0 => absurd h0 ht, fun _ => ⟨hdone.1, (Option.some.inj he).symm⟩⟩
        · exact nomatch he

end CopyEnd

/-! ### XPAIR's traversals (R407 to R412) -/

section Pairs

variable {s : State} {id : Nat} {x : Xpair}

theorem kget_dropPairs (id : Nat) (s : State) : kget (dropPairs id s).pairs id = none := kget_kdel_same _ _

theorem execXpairEmit_cancelled (h : kget s.pairs id = some x) (hc : x.cancelled = true) :
    execXpairEmit id s = .next (dropPairs id (scrambleCont x s)) := by
  rw [execXpairEmit, h]
  exact if_pos hc

theorem execXpairEmit_held (h : kget s.pairs id = some x) (hc : x.cancelled = false)
    (hm : x.saved = true ∨ travMoves s x.owner.partition x.waits = false) : execXpairEmit id s = .next s := by
  rw [execXpairEmit, h]
  refine (if_neg (Bool.eq_false_iff.1 hc)).trans (if_pos ?_)
  rcases hm with hm | hm <;> simp [hm]

/-- A traversal takes a step: nothing holds it, its part does not yield, and it has not ended. -/
structure PairSteps (s : State) (id : Nat) (x : Xpair) : Prop where
  here : kget s.pairs id = some x
  cancelled : x.cancelled = false
  saved : x.saved = false
  yields : x.yields = false
  result : x.result = none
  moves : travMoves s x.owner.partition x.waits = true

theorem execXpairEmit_steps (h : PairSteps s id x) {u : State} {y : Xpair} (hs : stepPairs x s = .ok u y) :
    execXpairEmit id s = .next (putPairs id y u) := by
  obtain ⟨hhere, hc, hsaved, hy, hr, hm⟩ := h
  rw [execXpairEmit, hhere]
  dsimp only
  rw [hc, hsaved, hm, hy, hr, hs]
  rfl

/-- A traversal that starts is ended with status 6 if its record queue cannot take records. -/
theorem stepPairs_unfit (hst : x.started = false) (hq : rqFits x s = false) :
    stepPairs x s = .ok s { x with started := true, result := some (6, 0) } := by
  have hq' : rqFits { x with started := true } s = false := hq
  have hstart : startPairs x s = .ok s { x with started := true, result := some (6, 0) } := if_pos (by rw [hq']; rfl)
  rw [stepPairs, hst, hstart]
  rfl

theorem stepPairs_fresh (hst : x.started = false) (hq : rqFits x s = true) (hr : x.resume = false) : stepPairs x s = .ok s { x with
    started := true, stack := [{ x := x.roota, y := if x.sw then 0 else if x.self then x.roota else x.rootb, pnx := noNode, pny := noNode,
                                 sx := 0, sy := 0 }] } := by
  have hq' : rqFits { x with started := true } s = true := hq
  have hstart : startPairs x s = .ok s { x with
      started := true, stack := [{ x := x.roota, y := if x.sw then 0 else if x.self then x.roota else x.rootb, pnx := noNode, pny := noNode,
                                   sx := 0, sy := 0 }] } :=
    (if_neg (by rw [hq']; decide)).trans (if_neg (Bool.eq_false_iff.1 hr))
  rw [stepPairs, hst, hstart]
  rfl

theorem execXpairComplete_none (h : kget s.pairs id = some x) (hr : x.result = none) : execXpairComplete id s = .next s := by
  rw [execXpairComplete, h]
  dsimp only
  rw [hr]

/-- A part whose writebacks have the results of a traversal. -/
def pairPart (id status count : Nat) (p : Part) : Part := { p with pend := p.pend.map (pairVals id status count) }

/-- Every part has the results of a traversal. -/
def pairsWritten (id status count : Nat) (s : State) : State :=
  let f := fun (w : Wave) => { w with parts := w.parts.map (pairPart id status count) }
  { s with waves := kmap (fun _ w => f w) s.waves, parked := kmap (fun _ (x : Parked) => { x with waves := x.waves.map f }) s.parked }

theorem execXpairComplete_ended {st k : Nat} (h : kget s.pairs id = some x) (hr : x.result = some (st, k)) :
    execXpairComplete id s = .next (dropPairs id (pairsWritten id (st + 65536 * k) x.count s)) := by
  rw [execXpairComplete, h]
  dsimp only
  rw [hr]
  rfl

theorem part_kmap {f : Part → Part} (hf : ∀ p, (f p).q = p.q) {s t : State}
    (ht : t.waves = kmap (fun _ w => { w with parts := w.parts.map f }) s.waves) {key q : Nat} {p : Part} (hp : s.part key q = some p) :
    t.part key q = some (f p) := by
  obtain ⟨w, hw, hpart⟩ := Option.bind_eq_some_iff.1 hp
  have hwave : t.wave key = some { w with parts := w.parts.map f } := by
    rw [State.wave, ht, kget_kmap, show kget s.waves key = some w from hw]
    rfl
  rw [State.part, hwave, Option.bind_some, partAt_map f hf, hpart]
  rfl

/-- What a traversal's end leaves of a part that waited: its writebacks have the results, and it waits no more. -/
theorem part_pairsEnded {status count key q : Nat} {p : Part} (hp : s.part key q = some p) :
    (dropPairs id (pairsWritten id status count s)).part key q =
      some { pairPart id status count p with engines := p.engines.filter fun e => decide (e ≠ id) } :=
  part_kmap (s := pairsWritten id status count s) (f := fun p => { p with engines := p.engines.filter fun e => decide (e ≠ id) }) (fun _ => rfl) rfl
    (part_kmap (f := pairPart id status count) (fun _ => rfl) rfl hp)

end Pairs

/-! ### XRAY's traversals (R416, R417) -/

section Rays

variable {s : State} {id : Nat} {x : Xray} {y : RayLane}
variable (h : kget s.rays id = some x) (hy : x.lanes.find? (fun z => decide (z.lane = y.lane)) = some y)
include h hy

theorem execXrayComplete_held (hm : travMoves s x.owner.partition y.waits = false) : execXrayComplete id y.lane s = .next s := by
  rw [execXrayComplete, h]
  dsimp only
  rw [hy]
  exact if_neg (Bool.eq_false_iff.1 hm)

section Moves

variable (hm : travMoves s x.owner.partition y.waits = true)
include hm

theorem execXrayComplete_done {u : State} {z : RayLane} {st k : Nat} (hw : rayWalk x 4096 y s = .done u z st k) :
    execXrayComplete id y.lane s = .next (finishRay id y.lane (rayWords z st k) x.key u) := by
  rw [execXrayComplete, h]
  dsimp only
  rw [hy]
  refine (if_pos hm).trans ?_
  rw [hw]

theorem execXrayComplete_more {u : State} {z : RayLane} (hw : rayWalk x 4096 y s = .more u z) :
    execXrayComplete id y.lane s = .next (putRay id y.lane (some z) u) := by
  rw [execXrayComplete, h]
  dsimp only
  rw [hy]
  refine (if_pos hm).trans ?_
  rw [hw]

end Moves

end Rays

theorem rayWalk_empty {x : Xray} {y : RayLane} (h : y.stack = []) (fuel : Nat) (s : State) :
    rayWalk x (fuel + 1) y s = .done s y (if y.leaf.isSome then 0 else 1) 0 := by
  rw [rayWalk, rayOne, h]

theorem rayWords_eq (z : RayLane) (st k : Nat) : rayWords z st k = if st = 0 ∧ z.leaf.isSome then
      [BitVec.ofNat 32 (z.leaf.getD 0), BitVec.ofNat 32 (fmtF32.round 0 (dataVal z.t)), BitVec.ofNat 32 z.prim, 0#32]
    else [0xFFFFFFFF#32, 0x7FC00000#32, 0xFFFFFFFF#32, BitVec.ofNat 32 (st + 65536 * k)] := by
  unfold rayWords
  split
  · next leaf hleaf => rw [hleaf, if_pos ⟨rfl, rfl⟩]; rfl
  · next hnot =>
    refine (if_neg fun hc => ?_).symm
    obtain ⟨leaf, hleaf⟩ := Option.isSome_iff_exists.1 hc.2
    exact hnot leaf hc.1 hleaf

/-- Settles O43: each event by the step that it takes, and by what holds it. -/
theorem engineEvents : Obligations.EngineEvents := by
  unfold Obligations.EngineEvents
  refine ⟨fun s id x h hm => copyStep_held h hm, fun s id x u y n h hm hd hb => ?delivers, fun s id x h hm hg hb => ?plain,
    fun x s u y n hg hd => ?bytes, fun s id x u ls h hm hd => ?stalls, fun s id x h he => congrArg Host.Outcome.next (completeCopy_none h he),
    fun s id x st h he => ?completes, fun s id x st h he hs => copyEnd_moved he hs,
    fun s id x h hc => ⟨_, execXpairEmit_cancelled h hc, kget_dropPairs id _⟩, fun s id x h hc hm => execXpairEmit_held h hc hm,
    fun s id x h hc hs hy hr hm hst => ?starts, fun s id x u y h hc hs hy hr hm hstep => execXpairEmit_steps ⟨h, hc, hs, hy, hr, hm⟩ hstep,
    fun s id x h hr => execXpairComplete_none h hr, fun s id x st k h hr => ?ended, fun s id x y h hy => ?rays, fun z st k => rayWords_eq z st k⟩
  case delivers => exact ⟨_, copyStep_delivers h hm hd, afterSector_seen hb id n u⟩
  case plain =>
    intro n wrote
    have hwrote (u : State) (ps : Places) (bs : List Byte)
        (hd : deliverNext x s = .ok (ps.foldl (writePieceAt x.owner.core (copyScope u x) bs) u) x n) : wrote u ps bs := by
      obtain ⟨hcopy, -, -, hread⟩ := afterSector_seen hb id n (ps.foldl (writePieceAt x.owner.core (copyScope u x) bs) u)
      exact ⟨_, copyStep_delivers h hm hd, hcopy, hread⟩
    refine ⟨fun hfn u ps hgrant => hwrote u ps _ ?_, fun hfn u ps v qs hgrant hp => ?_⟩
    · rw [deliverNext_plain hg, deliverBytes, hfn]
      exact copyWrite_granted (by rwa [List.length_map, List.length_range])
    · intro bs hgrant'
      refine hwrote v qs bs ?_
      rw [deliverNext_plain hg, deliverBytes, hfn]
      exact (copyRead_granted hgrant hp).trans (copyWrite_granted hgrant')
  case bytes =>
    rw [deliverNext_plain hg] at hd
    exact okBytes_deliverBytes x x.done (sectorBytes x) s u y n hd
  case stalls => exact ⟨_, _, copyStep_stalls h hm hd, kget_stopCopy id x ls u, rfl, length_stopRecords x ls u⟩
  case completes =>
    intro done
    exact ⟨fun hq => congrArg Host.Outcome.next (completeCopy_event h he hq), fun n hq =>
      congrArg Host.Outcome.next ((completeCopy_record h he hq).trans (by cases postCq x.owner.grid n (copyRec x st) s <;> rfl))⟩
  case starts =>
    have hsteps : PairSteps s id x := ⟨h, hc, hs, hy, hr, hm⟩
    refine ⟨fun hq => execXpairEmit_steps hsteps (stepPairs_unfit hst hq), fun hq hres => ?_⟩
    exact execXpairEmit_steps hsteps (stepPairs_fresh hst hq hres)
  case ended =>
    refine ⟨_, execXpairComplete_ended h hr, kget_dropPairs id _, fun key q p y hp hy htrav => ?_⟩
    have hvals : pairVals id (st + 65536 * k) x.count y = { y with
        trav := none, vals := y.vals.map fun v => (v.1, v.2.1, BitVec.ofNat 32 (if v.2.1 % 2 = 0 then st + 65536 * k else x.count)),
        uvals := y.uvals.map fun v => (v.1, BitVec.ofNat 32 (if v.1 % 2 = 0 then st + 65536 * k else x.count)) } := if_pos htrav
    refine ⟨_, pairVals id (st + 65536 * k) x.count y, part_pairsEnded hp, List.mem_map_of_mem hy, ?_⟩
    rw [hvals]
    exact ⟨rfl, rfl, fun l r v hv => List.mem_map_of_mem hv⟩
  case rays =>
    refine ⟨fun hm => execXrayComplete_held h hy hm, fun hm hstack => execXrayComplete_done h hy hm (rayWalk_empty hstack 4095 s),
      fun hm u z st k hw => execXrayComplete_done h hy hm hw, fun hm u z hw => execXrayComplete_more h hy hm hw⟩

end Sys2Proof.Proofs
end

section

/-! ## Host packets (O47) -/

namespace Sys2Proof.Proofs
open Sys2Proof.Machine Sys2Proof.Laws Sys2Proof.Safety

/-! ### What leaves the host queues as they are

An access, a launch record's checks and the splicer's decision change memories, translations, code objects and the device's measurements, but
no host queue: each lemma carries the host queues through one function, in the order of the model's files. -/

section HostQueues

/-- The state's host queues are these. -/
def HasQueues (m : KMap HostQueue) (s : State) : Prop := s.queues = m

/-- The state of a result with further values has these host queues. -/
def FstQueues (m : KMap HostQueue) {α : Type} (r : State × α) : Prop := HasQueues m r.1

/-- The loading of an object leaves these host queues. -/
def LoadQueues (m : KMap HostQueue) : LoadRes → Prop
  | .ok s _ => HasQueues m s
  | .refused s _ => HasQueues m s

/-- A submission leaves these host queues. -/
def SubQueues (m : KMap HostQueue) : SubRes → Prop
  | .ok s _ => HasQueues m s
  | .refused s _ => HasQueues m s

/-- The members of a bundle leave these host queues. -/
def MemberQueues (m : KMap HostQueue) : MemberRes → Prop
  | .ok s _ => HasQueues m s
  | .refused s _ => HasQueues m s
  | .unread s _ => HasQueues m s

/-- The checks of a packet leave these host queues. -/
def CheckQueues (m : KMap HostQueue) : CheckRes → Prop
  | .ok s _ => HasQueues m s
  | .bad s _ _ => HasQueues m s

variable {m : KMap HostQueue} {s t : State}

theorem hasQueues_memory (h : MemoryOnly s t) (w : HasQueues m s) : HasQueues m t := (congrArg State.queues h.rest).trans w

theorem hasQueues_of_eq {α : Type} {r : State × α} {x : α} (h : r = (s, x)) (w : FstQueues m r) : HasQueues m s := by
  subst h
  exact w

theorem hasQueues_foldl {α : Type} {f : State → α → State} {xs : List α} (hf : ∀ s x, HasQueues m s → HasQueues m (f s x))
    (w : HasQueues m s) : HasQueues m (xs.foldl f s) :=
  List.foldlRecOn xs f w fun s w x _ => hf s x w

/-- Stated apart for the reason of `memWf_setDev`. -/
theorem hasQueues_setDev (d : Device) (w : HasQueues m s) : HasQueues m { s with dev := d } := w

theorem hasQueues_postEvent (e : Nat) (r : EvRec) (w : HasQueues m s) : HasQueues m (postEvent e r s) :=
  (congrArg State.queues (postEvent_kept e r s)).trans w

/-! ### Translation and ranges (R373 to R385) -/

theorem hasQueues_rawWrite {p ctx va : Nat} {bs : List Byte} (w : HasQueues m s) : HasQueues m (rawWrite s p ctx va bs) := by
  unfold rawWrite
  split
  · exact hasQueues_memory (memoryOnly_physWrite _ _ _ _ _) w
  · exact w

theorem hasQueues_capturePage {p ctx gid page : Nat} {x : Session} (w : HasQueues m s) : HasQueues m (capturePage p ctx gid page x s) := by
  unfold capturePage
  extract_lets _ s1 s2
  have ws1 : HasQueues m s1 := hasQueues_rawWrite w
  have ws2 : HasQueues m s2 := hasQueues_rawWrite ws1
  exact holds_ite w (holds_ite w ws2)

theorem hasQueues_captureWrite {p ctx va : Nat} (w : HasQueues m s) : HasQueues m (captureWrite p ctx va s) := by
  unfold captureWrite
  split
  · split
    · exact hasQueues_capturePage w
    · exact w
  · exact w

theorem hasQueues_tlbFill {y : Party} {va pte addr level : Nat} (w : HasQueues m s) : FstQueues m (tlbFill s y va pte addr level) := by
  unfold tlbFill
  extract_lets _ s1
  have ws1 : HasQueues m s1 := holds_ite w (hasQueues_memory (memoryOnly_physWrite _ _ _ _ _) w)
  exact ws1

theorem hasQueues_notePtrs {y : Party} {va : Nat} (w : HasQueues m s) : HasQueues m (notePtrs s y va) := by
  unfold notePtrs
  split <;> exact w

theorem hasQueues_useLeaf {y : Party} {a : Acc} {va pte addr level : Nat} (w : HasQueues m s) : FstQueues m (useLeaf s y a va pte addr level) := by
  unfold useLeaf
  split
  · exact w
  · extract_lets _ s1 s2 r
    have ws1 : HasQueues m s1 := holds_ite (hasQueues_captureWrite w) w
    have ws2 : HasQueues m s2 := hasQueues_memory (memoryOnly_physWrite _ _ _ _ _) ws1
    have wr : FstQueues m r := holds_ite ws2 ws1
    exact holds_ite w wr

theorem hasQueues_walkUse {y : Party} {a : Acc} {va : Nat} {found : Walk} (w : HasQueues m s) : FstQueues m (walkUse s y a va found) := by
  unfold walkUse
  extract_lets s1
  have ws1 : HasQueues m s1 := hasQueues_notePtrs w
  split
  · exact ws1
  · exact ws1
  · exact ws1
  · split
    · exact ws1
    · extract_lets r
      have wr : FstQueues m r := hasQueues_tlbFill ws1
      exact hasQueues_useLeaf wr

theorem hasQueues_cachedUse {y : Party} {a : Acc} {va : Nat} {t : TlbEntry} (w : HasQueues m s) : FstQueues m (cachedUse s y a va t) :=
  holds_ite (hasQueues_walkUse w) (hasQueues_useLeaf w)

theorem hasQueues_xlate {y : Party} {a : Acc} {va : Nat} (w : HasQueues m s) : FstQueues m (xlate s y a va) := by
  unfold xlate
  extract_lets _ _ u
  have wu : HasQueues m u := holds_ite w w
  split
  · exact hasQueues_cachedUse wu
  · exact hasQueues_walkUse wu

theorem hasQueues_rangePlaces {y : Party} {a : Acc} {n n1 n2 n3 : Nat} (w : HasQueues m s) : Yields (FstQueues m) (rangePlaces y a n s n1 n2 n3) := by
  induction n generalizing s n1 n2 n3 with
  | zero =>
    unfold rangePlaces
    exact yields_some w
  | succ n ih =>
    unfold rangePlaces
    refine holds_ite (yields_some w) ?_
    extract_lets
    split
    next s1 _ _ _ _ h =>
      have w1 : HasQueues m s1 := hasQueues_of_eq h (hasQueues_xlate w)
      exact yields_map (ih w1) (fun _ w2 => w2)
    next s1 h =>
      have w1 : HasQueues m s1 := hasQueues_of_eq h (hasQueues_xlate w)
      exact yields_map (ih w1) (fun _ w2 => w2)
    · exact yields_none

theorem hasQueues_mappedPlaces {y : Party} {a : Acc} {g n : Nat} (w : HasQueues m s) : Yields (FstQueues m) (mappedPlaces y a s g n) :=
  holds_ite (hasQueues_rangePlaces w) yields_none

theorem hasQueues_ctlRead {p ctx g n : Nat} (w : HasQueues m s) : Yields (FstQueues m) (ctlRead p ctx g n s) :=
  yields_map (hasQueues_mappedPlaces w) (fun _ w1 => w1)

theorem hasQueues_readFor {y : Party} {g n : Nat} (w : HasQueues m s) : Yields (FstQueues m) (readFor y g n s) :=
  yields_map (hasQueues_mappedPlaces w) (fun _ w1 => w1)

/-! ### Code objects (R228) -/

theorem hasQueues_extendMeas {i digest : Nat} (w : HasQueues m s) : HasQueues m (extendMeas i digest s) :=
  hasQueues_setDev _ w

theorem hasQueues_writeCode {p ctx win : Nat} {bs : List Byte} (w : HasQueues m s) : HasQueues m (writeCode p ctx win bs s) := by
  unfold writeCode
  extract_lets
  split
  next s1 _ h =>
    have w1 : HasQueues m s1 := hasQueues_rangePlaces w _ h
    exact hasQueues_foldl (fun _ _ w2 => hasQueues_memory (memoryOnly_writePieceAt _ _ _ _) w2) w1
  · exact w

theorem hasQueues_putObj {p ctx codeobj gen codewin : Nat} {replaced : Option Nat} {x : Parsed} {o : CodeObj} (w : HasQueues m s) :
    FstQueues m (putObj p ctx codeobj gen codewin replaced x o s) := by
  unfold putObj
  extract_lets s1 _ s2
  have ws1 : HasQueues m s1 := by
    unfold s1
    split <;> exact w
  have ws2 : HasQueues m s2 := ws1
  exact hasQueues_foldl (fun _ _ w1 => hasQueues_writeCode w1) ws2

theorem hasQueues_loadObj {p ctx codeobj gen codewin evq : Nat} {replaced : Option Nat} (w : HasQueues m s) :
    LoadQueues m (loadObj p ctx codeobj gen codewin evq replaced s) := by
  unfold loadObj
  split
  · exact w
  next s1 _ h =>
    have w1 : HasQueues m s1 := hasQueues_ctlRead w _ h
    refine holds_ite w1 (holds_ite w1 ?_)
    split
    · exact w1
    next s2 _ h1 =>
      have w2 : HasQueues m s2 := hasQueues_ctlRead w1 _ h1
      extract_lets _ _ full s3
      have ws3 : HasQueues m s3 := by
        unfold s3
        clear_value full
        split <;> exact w2
      split
      · exact w2
      · split
        · exact w2
        · refine holds_ite w2 ?_
          extract_lets r s4
          have wr : FstQueues m r := hasQueues_putObj ws3
          have ws4 : HasQueues m s4 := hasQueues_extendMeas wr
          exact holds_ite ws4 (hasQueues_postEvent _ _ ws4)

theorem hasQueues_ensureObj {p ctx codeobj gen codewin evq : Nat} (w : HasQueues m s) : LoadQueues m (ensureObj p ctx codeobj gen codewin evq s) := by
  unfold ensureObj
  split
  · exact holds_ite w (hasQueues_loadObj w)
  · exact hasQueues_loadObj w

/-! ### Launch records and buffer lists (R317, R328) -/

theorem hasQueues_readName {p ctx n n1 : Nat} (w : HasQueues m s) : FstQueues m (readName p ctx n n1 s) := by
  induction n generalizing n1 s with
  | zero =>
    unfold readName
    exact w
  | succ n ih =>
    unfold readName
    split
    next s1 _ h =>
      have w1 : HasQueues m s1 := hasQueues_ctlRead w _ h
      exact holds_ite w1 (ih w1)
    · exact w

theorem hasQueues_findEntry {p : Nat} {l : Launch} {id : Nat} (w : HasQueues m s) : FstQueues m (findEntry p l id s) := by
  unfold findEntry
  extract_lets
  refine holds_ite ?_ w
  split
  next s1 _ h =>
    have w1 : HasQueues m s1 := hasQueues_of_eq h (hasQueues_readName w)
    exact w1
  next s1 h =>
    have w1 : HasQueues m s1 := hasQueues_of_eq h (hasQueues_readName w)
    exact w1

theorem hasQueues_globalRead {p ctx a n : Nat} (w : HasQueues m s) : Yields (FstQueues m) (globalRead p ctx a n s) :=
  holds_ite (hasQueues_ctlRead w) yields_none

theorem hasQueues_readBindings {p ctx tab mask : Nat} {ok : State → Nat → List Byte → Bool} {xs : List Nat} (w : HasQueues m s) :
    Yields (FstQueues m) (readBindings p ctx tab mask ok xs s) := by
  induction xs generalizing s with
  | nil =>
    unfold readBindings
    exact yields_some w
  | cons x xs ih =>
    unfold readBindings
    refine holds_ite ?_ (ih w)
    split
    · exact yields_none
    next s1 _ h =>
      have w1 : HasQueues m s1 := hasQueues_ctlRead w _ h
      extract_lets
      refine holds_ite yields_none ?_
      split
      · exact yields_none
      next s2 _ h1 =>
        have w2 : HasQueues m s2 := hasQueues_globalRead w1 _ h1
        exact holds_ite (yields_map (ih w2) (fun _ w3 => w3)) yields_none

theorem hasQueues_bindQueues {p : Nat} {l : Launch} (w : HasQueues m s) : Yields (FstQueues m) (bindQueues p l s) := by
  unfold bindQueues
  split
  · exact yields_none
  next s1 _ h =>
    have w1 : HasQueues m s1 := hasQueues_readBindings w _ h
    split
    · exact yields_none
    next s2 _ h1 =>
      have w2 : HasQueues m s2 := hasQueues_readBindings w1 _ h1
      exact holds_ite (yields_some w2) yields_none

theorem hasQueues_readBl {y : Party} {a n : Nat} (w : HasQueues m s) : Yields (FstQueues m) (readBl y a n s) := by
  unfold readBl
  refine holds_ite (yields_some w) (yields_map (hasQueues_readFor w) (fun x1 w1 => ?_))
  extract_lets
  exact w1

theorem hasQueues_syncPage {y : Party} {a n : Nat} (w : HasQueues m s) : HasQueues m (syncPage y s a n) := by
  unfold syncPage
  split
  next s1 _ _ _ _ h =>
    have w1 : HasQueues m s1 := hasQueues_of_eq h (hasQueues_xlate w)
    exact hasQueues_memory (memoryOnly_performStores _ _ _) w1
  next s1 _ _ h1 =>
    have w1 : HasQueues m s1 := hasQueues_of_eq h1 (hasQueues_xlate w)
    exact w1

theorem hasQueues_flushRange {y : Party} {a n : Nat} (w : HasQueues m s) : HasQueues m (flushRange y a n s) :=
  holds_ite w (hasQueues_foldl (fun _ _ w1 => hasQueues_syncPage w1) w)

theorem hasQueues_dropPage {y : Party} {a n : Nat} (w : HasQueues m s) : HasQueues m (dropPage y s a n) := by
  unfold dropPage
  split
  next s1 _ _ _ _ h =>
    have w1 : HasQueues m s1 := hasQueues_of_eq h (hasQueues_xlate w)
    extract_lets
    exact w1
  next s1 _ _ h1 =>
    have w1 : HasQueues m s1 := hasQueues_of_eq h1 (hasQueues_xlate w)
    exact w1

theorem hasQueues_dropRange {y : Party} {a n : Nat} (w : HasQueues m s) : HasQueues m (dropRange y a n s) :=
  holds_ite w (hasQueues_foldl (fun _ _ w1 => hasQueues_dropPage w1) w)

theorem hasQueues_blBefore {y : Party} {bl : List (Nat × Nat × Nat)} (w : HasQueues m s) : HasQueues m (blBefore y bl s) :=
  hasQueues_foldl (fun _ _ w1 => holds_ite (hasQueues_dropRange (hasQueues_flushRange w1)) w1) w

theorem hasQueues_readSession {p : Nat} {l : Launch} (w : HasQueues m s) : Yields (FstQueues m) (readSession p l s) := by
  unfold readSession
  split
  · exact yields_none
  next s1 _ h =>
    have w1 : HasQueues m s1 := hasQueues_ctlRead w _ h
    extract_lets
    exact holds_ite yields_none (yields_map (hasQueues_ctlRead w1) (fun _ w2 => w2))

theorem hasQueues_readExtras {p : Nat} {l : Launch} (w : HasQueues m s) : Yields (FstQueues m) (readExtras p l s) := by
  unfold readExtras
  split
  next s1 _ h =>
    have w1 : HasQueues m s1 := hasQueues_readBl w _ h
    exact holds_ite (yields_map (hasQueues_readSession w1) (fun _ w2 => w2)) (yields_some w1)
  · exact yields_none

theorem hasQueues_checkLaunch {p : Nat} {l : Launch} {id : Nat} {bl : List (Nat × Nat × Nat)} {ses : Option Session} (w : HasQueues m s) :
    SubQueues m (checkLaunch p l id bl ses s) := by
  unfold checkLaunch
  refine holds_ite w ?_
  split
  next s1 h =>
    have w1 : HasQueues m s1 := hasQueues_of_eq h (hasQueues_findEntry w)
    exact w1
  next s1 _ _ h =>
    have w1 : HasQueues m s1 := hasQueues_of_eq h (hasQueues_findEntry w)
    refine holds_ite w1 ?_
    split
    · exact w1
    next s2 _ _ h1 =>
      have w2 : HasQueues m s2 := hasQueues_bindQueues w1 _ h1
      exact holds_ite w2 (holds_ite w2 w2)

theorem hasQueues_submitRec {p : Nat} {host : Bool} {b : List Byte} (w : HasQueues m s) : SubQueues m (submitRec p host b s) := by
  unfold submitRec
  extract_lets
  refine holds_ite w ?_
  split
  next s1 _ h =>
    have w1 : HasQueues m s1 := (congrArg (LoadQueues m) h).mp (hasQueues_ensureObj w)
    exact w1
  next s1 _ h =>
    have w1 : HasQueues m s1 := (congrArg (LoadQueues m) h).mp (hasQueues_ensureObj w)
    refine holds_ite w1 ?_
    split
    · exact w1
    next s2 _ _ h1 =>
      have w2 : HasQueues m s2 := hasQueues_readExtras w1 _ h1
      exact hasQueues_checkLaunch w2

/-! ### Packets (R314) -/

theorem hasQueues_packetRead {q a n : Nat} (w : HasQueues m s) : Yields (FstQueues m) (packetRead q a n s) :=
  holds_ite (hasQueues_readFor w) yields_none

theorem hasQueues_unreadable {q : Nat} {b : List Byte} {xs : List (Nat × Nat)} (w : HasQueues m s) : FstQueues m (unreadable q b xs s) := by
  induction xs generalizing s with
  | nil =>
    unfold unreadable
    exact w
  | cons x xs ih =>
    unfold unreadable
    split
    next s1 _ h =>
      have w1 : HasQueues m s1 := hasQueues_packetRead w _ h
      exact ih w1
    · exact w

theorem hasQueues_checkPacket {q : Nat} {b : List Byte} (w : HasQueues m s) : CheckQueues m (checkPacket q b s) := by
  unfold checkPacket
  refine holds_ite w (holds_ite w (holds_ite w (holds_ite w ?_)))
  extract_lets bl
  have wbl : Yields (FstQueues m) bl := holds_ite (yields_some w) (holds_ite (hasQueues_readBl w) yields_none)
  clear_value bl
  split
  · exact w
  next snd _ =>
    have w1 : HasQueues m snd := wbl _ rfl
    exact w1
  next bl2 _ =>
    have w1 : HasQueues m bl2 := wbl _ rfl
    split
    next s2 _ h1 =>
      have w2 : HasQueues m s2 := hasQueues_of_eq h1 (hasQueues_unreadable w1)
      exact w2
    next s2 h1 =>
      have w2 : HasQueues m s2 := hasQueues_of_eq h1 (hasQueues_unreadable w1)
      exact w2

theorem hasQueues_recordAt {q a : Nat} (w : HasQueues m s) : Yields (FstQueues m) (recordAt q a s) :=
  hasQueues_packetRead w

/-! ### The splicer (R336 to R339) -/

theorem hasQueues_readKernel {p ctx : Nat} {o : CodeObj} {entry : Nat} {x : SpliceSect} (w : HasQueues m s) :
    FstQueues m (readKernel p ctx o entry x s) := by
  unfold readKernel
  split
  next s1 _ h =>
    have w1 : HasQueues m s1 := hasQueues_ctlRead w _ h
    exact w1
  · exact w

theorem hasQueues_spliceCheck {base : Nat} {a b : Grid} (w : HasQueues m s) : FstQueues m (spliceCheck base a b s) := by
  unfold spliceCheck
  split
  · refine holds_ite w ?_
    split
    next s1 h3 =>
      have w1 : HasQueues m s1 := hasQueues_of_eq h3 (hasQueues_readKernel w)
      exact w1
    next s1 _ h3 =>
      have w1 : HasQueues m s1 := hasQueues_of_eq h3 (hasQueues_readKernel w)
      split
      next s2 h4 =>
        have w2 : HasQueues m s2 := hasQueues_of_eq h4 (hasQueues_readKernel w1)
        exact w2
      next s2 _ h4 =>
        have w2 : HasQueues m s2 := hasQueues_of_eq h4 (hasQueues_readKernel w1)
        exact holds_ite w2 w2
  · exact w

theorem hasQueues_splicePair {a b : Grid} (w : HasQueues m s) : FstQueues m (splicePair a b s) := by
  unfold splicePair
  extract_lets _ e
  split
  next s1 _ h =>
    have w1 : HasQueues m s1 := hasQueues_of_eq h (hasQueues_spliceCheck w)
    exact w1
  next s1 _ h =>
    clear_value e
    split
    · have w2 : HasQueues m s1 := hasQueues_of_eq h (hasQueues_spliceCheck w)
      exact holds_ite w2 w2
    · have w2 : HasQueues m s1 := hasQueues_of_eq h (hasQueues_spliceCheck w)
      exact w2

/-! ### Members and partners (R318, R337, R338) -/

theorem hasQueues_submitMembers {q : Nat} {p : Packet} {xs : List Nat} (w : HasQueues m s) : MemberQueues m (submitMembers q p xs s) := by
  induction xs generalizing s with
  | nil =>
    unfold submitMembers
    exact w
  | cons x xs ih =>
    unfold submitMembers
    refine holds_ite w ?_
    split
    · exact w
    next s1 _ h =>
      have w1 : HasQueues m s1 := hasQueues_recordAt w _ h
      split
      next s2 _ h1 =>
        have w2 : HasQueues m s2 := (congrArg (SubQueues m) h1).mp (hasQueues_submitRec w1)
        exact w2
      next s2 _ h1 =>
        have w2 : HasQueues m s2 := (congrArg (SubQueues m) h1).mp (hasQueues_submitRec w1)
        split
        next s3 _ h2 =>
          have w3 : HasQueues m s3 := (congrArg (MemberQueues m) h2).mp (ih w2)
          exact w3
        · exact ih w2

theorem hasQueues_pairMembers {xs : List (Grid × Bool)} (w : HasQueues m s) : FstQueues m (pairMembers s xs) := by
  fun_induction pairMembers s xs with
  | case1 => exact w
  | case2 => exact w
  | case3 s a sa b sb rest hs s1 ps h ih => exact hasQueues_of_eq h (ih w)
  | case4 s a sa b sb rest hs r s1 x hr s2 ps h ih =>
    have wr : FstQueues m r := holds_ite (hasQueues_splicePair w) w
    exact hasQueues_of_eq h (ih (hasQueues_of_eq hr wr))
  | case5 s a sa b sb rest hs r s1 e hr s2 h ih =>
    have wr : FstQueues m r := holds_ite (hasQueues_splicePair w) w
    exact hasQueues_of_eq h (ih (hasQueues_of_eq hr wr))
  | case6 s a sa b sb rest hs r s1 e hr s2 p ps h ih =>
    have wr : FstQueues m r := holds_ite (hasQueues_splicePair w) w
    exact hasQueues_of_eq h (ih (hasQueues_of_eq hr wr))

theorem hasQueues_partnerOf {q : Nat} (w : HasQueues m s) : FstQueues m (partnerOf q s) := by
  unfold partnerOf
  refine holds_ite w ?_
  split
  next b s1 bl h =>
    obtain ⟨b', -, hb⟩ := Option.map_eq_some_iff.1 h
    have w1 : CheckQueues m (.ok s1 bl) := (Prod.mk.inj hb).2 ▸ hasQueues_checkPacket w
    split
    · exact w1
    next s2 cells h2 =>
      have w2 : HasQueues m s2 := holds_ite (hasQueues_recordAt w1) yields_none _ h2
      exact holds_ite w2 (holds_ite w2 w2)
  · exact w

end HostQueues

/-! ### Fetching a packet (R308, R311, R314) -/

section Fetching

variable {s t u : State} {q : Nat} {b : List Byte} {p : Packet}

/-- The state in which the fetch of a packet checks it: QHEAD has advanced. -/
def fetchedOn (q : Nat) (s : State) : State :=
  { s with fetched := cellsPut 0 s.fetched ((s.queue q).part * 4 + (s.queue q).cls) q }.modQueue q headOn

theorem queue_fetchedOn : (fetchedOn q s).queue q = headOn (s.queue q) := queue_modQueue_same _ q headOn

theorem packetBytes_fetchedOn (q k : Nat) (s : State) : packetBytes (fetchedOn q s) q k = packetBytes s q k := by
  unfold packetBytes slotOk'
  rw [queue_fetchedOn]
  rfl

theorem queue_of_hasQueues (h : HasQueues s.queues t) : t.queue q = s.queue q := by
  rw [State.queue, show t.queues = s.queues from h, State.queue]

theorem queue_joinQueue (q : Nat) (p : Packet) (s : State) : (joinQueue q p s).queue q =
    { s.queue q with packets := (s.queue q).packets ++ [{ p with order := s.nextId, time := s.time }] } :=
  queue_modQueue_same _ q _

theorem queue_badPacket (q reason count tag splice : Nat) (s : State) :
    (badPacket q reason count tag splice s).queue q = { s.queue q with state := 3, reason := reason } :=
  (queue_of_hasQueues (hasQueues_postEvent _ _ rfl)).trans (queue_modQueue_same s q _)

theorem queue_checkPacket_ok {bl : List (Nat × Nat × Nat)} (h : checkPacket q b s = .ok u bl) : u.queue q = s.queue q :=
  queue_of_hasQueues ((congrArg (CheckQueues s.queues) h).mp (hasQueues_checkPacket rfl))

theorem queue_checkPacket_bad {reason count : Nat} (h : checkPacket q b s = .bad u reason count) : u.queue q = s.queue q :=
  queue_of_hasQueues ((congrArg (CheckQueues s.queues) h).mp (hasQueues_checkPacket rfl))

/-! #### The splicer's decision -/

/-- Of a queue, a decision of the splicer on one packet changes the decision itself and what it promises or refuses for the next packet. -/
structure Decided (seq : Nat) (x y : HostQueue) : Prop where
  head : y.head = x.head
  packets : ∃ (code : Packet → Nat) (plan : Packet → List Plan),
    y.packets = x.packets.map fun p => if p.seq = seq then { p with splice := code p, plan := plan p } else p

theorem decided_refl (seq : Nat) (x : HostQueue) : Decided seq x x :=
  ⟨rfl, (·.splice), (·.plan), by simp⟩

theorem decided_of_hasQueues (seq : Nat) (h : HasQueues s.queues t) : Decided seq (s.queue q) (t.queue q) := by
  rw [queue_of_hasQueues h]
  exact decided_refl seq _

theorem decided_refusePair (seq reason : Nat) (h : HasQueues s.queues t) : Decided seq (s.queue q) ((refusePair q seq reason t).queue q) := by
  rw [refusePair, State.modPacket, queue_modQueue_same, queue_modQueue_same, queue_of_hasQueues h]
  exact ⟨rfl, fun p => if p.splice = 0 then reason else p.splice, (·.plan), rfl⟩

theorem decided_promisePair (seq : Nat) (n : Packet) (g : Grid) (h : HasQueues s.queues t) :
    Decided seq (s.queue q) ((promisePair q seq n g t).queue q) := by
  rw [promisePair, State.modPacket, queue_modQueue_same, queue_modQueue_same, queue_of_hasQueues h]
  exact ⟨rfl, fun _ => g.splice, fun _ => [{ grid := some g, code := g.splice }], rfl⟩

theorem decided_decideLaunch (q : Nat) (p : Packet) (s : State) : Decided p.seq (s.queue q) ((decideLaunch q p s).queue q) := by
  unfold decideLaunch
  extract_lets
  split
  · exact decided_refl _ _
  next s1 _ h =>
    have w1 : HasQueues s.queues s1 := hasQueues_recordAt rfl _ h
    split
    · exact decided_of_hasQueues _ w1
    split
    next s2 _ h1 => exact decided_refusePair _ _ (hasQueues_of_eq h1 (hasQueues_partnerOf w1))
    next s2 _ _ h1 =>
      have w2 : HasQueues s.queues s2 := hasQueues_of_eq h1 (hasQueues_partnerOf w1)
      split
      next s3 _ h2 =>
        have w3 : HasQueues s.queues s3 := (congrArg (SubQueues s.queues) h2).mp (hasQueues_submitRec w2)
        exact decided_of_hasQueues _ w3
      next s3 _ h2 =>
        have w3 : HasQueues s.queues s3 := (congrArg (SubQueues s.queues) h2).mp (hasQueues_submitRec w2)
        extract_lets r
        have wr : FstQueues s.queues r := by
          unfold r
          split
          next s4 _ h3 =>
            have w4 : HasQueues s.queues s4 := (congrArg (SubQueues s.queues) h3).mp (hasQueues_submitRec w3)
            exact w4
          next s4 _ h3 =>
            have w4 : HasQueues s.queues s4 := (congrArg (SubQueues s.queues) h3).mp (hasQueues_submitRec w3)
            exact hasQueues_splicePair w4
        clear_value r
        split
        · exact decided_promisePair _ _ _ wr
        · exact decided_refusePair _ _ wr

theorem decided_decideBundle (q : Nat) (p : Packet) (s : State) : Decided p.seq (s.queue q) ((decideBundle q p s).queue q) := by
  unfold decideBundle
  split
  · exact decided_refl _ _
  next s1 _ h =>
    have w1 : HasQueues s.queues s1 := hasQueues_packetRead rfl _ h
    split
    next s2 _ h1 =>
      have w2 : HasQueues s.queues s2 := (congrArg (MemberQueues s.queues) h1).mp (hasQueues_submitMembers w1)
      split
      next s3 ps h2 =>
        have w3 : HasQueues s.queues s3 := hasQueues_of_eq h2 (hasQueues_pairMembers w2)
        rw [State.modPacket, queue_modQueue_same, queue_of_hasQueues w3]
        exact ⟨rfl, fun _ => ((ps.map (·.code)).find? (· ≠ 0)).getD 0, fun _ => ps, rfl⟩
    next s2 _ h1 =>
      have w2 : HasQueues s.queues s2 := (congrArg (MemberQueues s.queues) h1).mp (hasQueues_submitMembers w1)
      exact decided_of_hasQueues _ w2
    next s2 _ h1 =>
      have w2 : HasQueues s.queues s2 := (congrArg (MemberQueues s.queues) h1).mp (hasQueues_submitMembers w1)
      exact decided_of_hasQueues _ w2

/-! #### The four outcomes of a fetch -/

theorem fetchPacket_promised (hm : (s.queue q).mate = some p) : (fetchPacket q s).queue q =
    { headOn (s.queue q) with packets := (s.queue q).packets ++ [{ p with order := s.nextId, time := s.time }] } := by
  have h : fetchPacket q s = joinQueue q p (fetchedOn q s) := by
    unfold fetchPacket fetchNext
    dsimp only
    rw [hm]
    rfl
  rw [h, queue_joinQueue, queue_fetchedOn]
  rfl

theorem fetchPacket_unread (hm : (s.queue q).mate = none) (hb : packetBytes s q (s.queue q).head = none) :
    (fetchPacket q s).queue q = { headOn (s.queue q) with state := 3, reason := 6 } := by
  have h : ∃ count splice, fetchPacket q s = badPacket q 6 count 0 splice (fetchedOn q s) := by
    rw [← packetBytes_fetchedOn, fetchedOn] at hb
    unfold fetchPacket fetchNext
    simp only [hm, hb]
    exact ⟨_, _, rfl⟩
  obtain ⟨count, splice, h⟩ := h
  rw [h, queue_badPacket, queue_fetchedOn]

theorem fetchPacket_bad {reason count : Nat} (hm : (s.queue q).mate = none) (hb : packetBytes s q (s.queue q).head = some b)
    (hc : checkPacket q b (fetchedOn q s) = .bad u reason count) :
    (fetchPacket q s).queue q = { headOn (s.queue q) with state := 3, reason := reason } := by
  have h : ∃ tag splice, fetchPacket q s = badPacket q reason count tag splice u := by
    rw [← packetBytes_fetchedOn, fetchedOn] at hb
    rw [fetchedOn] at hc
    unfold fetchPacket fetchNext
    simp only [hm, hb, hc]
    exact ⟨_, _, rfl⟩
  obtain ⟨tag, splice, h⟩ := h
  rw [h, queue_badPacket, queue_checkPacket_bad hc, queue_fetchedOn]

/-- A fetched packet before the splicer has decided on it. -/
def freshPacket (x : HostQueue) (b : List Byte) (bl : List (Nat × Nat × Nat)) : Packet :=
  { seq := x.head, order := 0, bytes := b, time := 0, bl := bl, splice := x.mateCode }

/-- A fetched packet as it joins its queue, after the checks. -/
def joinedPacket (x : HostQueue) (b : List Byte) (bl : List (Nat × Nat × Nat)) (u : State) : Packet :=
  { freshPacket x b bl with order := u.nextId, time := u.time }

theorem fetchPacket_ok {bl : List (Nat × Nat × Nat)} (hm : (s.queue q).mate = none) (hb : packetBytes s q (s.queue q).head = some b)
    (hc : checkPacket q b (fetchedOn q s) = .ok u bl) :
    Decided (s.queue q).head
      { headOn (s.queue q) with packets := (s.queue q).packets ++ [joinedPacket (s.queue q) b bl u] }
      ((fetchPacket q s).queue q) := by
  have hjoin : (joinQueue q (freshPacket (s.queue q) b bl) u).queue q =
      { headOn (s.queue q) with packets := (s.queue q).packets ++ [joinedPacket (s.queue q) b bl u] } := by
    rw [queue_joinQueue, queue_checkPacket_ok hc, queue_fetchedOn]
    rfl
  have h : fetchPacket q s =
      if (freshPacket (s.queue q) b bl).ty = 1 then decideLaunch q (freshPacket (s.queue q) b bl) (joinQueue q (freshPacket (s.queue q) b bl) u)
      else if (freshPacket (s.queue q) b bl).ty = 2 then
        decideBundle q (freshPacket (s.queue q) b bl) (joinQueue q (freshPacket (s.queue q) b bl) u)
      else joinQueue q (freshPacket (s.queue q) b bl) u := by
    rw [← packetBytes_fetchedOn, fetchedOn] at hb
    rw [fetchedOn] at hc
    unfold fetchPacket fetchNext
    simp only [hm, hb, hc]
    rfl
  rw [h, ← hjoin]
  split
  · exact decided_decideLaunch q (freshPacket (s.queue q) b bl) _
  · split
    · exact decided_decideBundle q (freshPacket (s.queue q) b bl) _
    · exact decided_refl _ _

theorem fetchPacket_head (q : Nat) (s : State) : ((fetchPacket q s).queue q).head = ((s.queue q).head + 1) % 2 ^ 32 := by
  cases hm : (s.queue q).mate with
  | some p =>
    rw [fetchPacket_promised hm]
    rfl
  | none =>
    cases hb : packetBytes s q (s.queue q).head with
    | none =>
      rw [fetchPacket_unread hm hb]
      rfl
    | some b =>
      cases hc : checkPacket q b (fetchedOn q s) with
      | bad u reason count =>
        rw [fetchPacket_bad hm hb hc]
        rfl
      | ok u bl => exact (fetchPacket_ok hm hb hc).head

/-- A packet that passes its checks joins its queue as it was fetched. -/
theorem fetchPacket_joins {bl : List (Nat × Nat × Nat)} (hm : (s.queue q).mate = none) (hb : packetBytes s q (s.queue q).head = some b)
    (hc : checkPacket q b (fetchedOn q s) = .ok u bl) (hseq : ∀ y ∈ (s.queue q).packets, y.seq ≠ (s.queue q).head) :
    ∃ code plan, ((fetchPacket q s).queue q).packets = (s.queue q).packets ++
      [{ joinedPacket (s.queue q) b bl u with splice := code, plan := plan }] := by
  obtain ⟨code, plan, h⟩ := (fetchPacket_ok hm hb hc).packets
  have hold : ((s.queue q).packets.map fun p =>
      if p.seq = (s.queue q).head then { p with splice := code p, plan := plan p } else p) = (s.queue q).packets :=
    (List.map_congr_left fun y hy => if_neg (hseq y hy)).trans (List.map_id' _)
  refine ⟨code (joinedPacket (s.queue q) b bl u), plan (joinedPacket (s.queue q) b bl u),
    h.trans ((List.map_append ..).trans (congrArg₂ (· ++ ·) hold ?_))⟩
  exact congrArg ([·]) (if_pos rfl)

theorem checkPacket_unknown (h : numAt b 0 1 = 0 ∨ 0x0B < numAt b 0 1) : checkPacket q b s = .bad s 1 0 := if_pos h

theorem checkPacket_unprivileged (ht : numAt b 0 1 = 0x0B) (hr : reservedBroken b = false) (hp : (s.queue q).priv = false) :
    checkPacket q b s = .bad s 3 0 := by
  unfold checkPacket
  rw [if_neg (by omega), hr, if_neg Bool.false_ne_true, if_pos ⟨ht, hp⟩]

end Fetching

/-! ### Starting a packet (R313, R315) -/

section Starting

variable {s : State} {q seq : Nat} {p : Packet}

theorem packet_seq (hp : s.packet q seq = some p) : p.seq = seq := by
  have h := List.find?_some hp
  exact of_decide_eq_true h

theorem hasQueues_packetStarted (q seq : Nat) (p : Packet) (s : State) :
    HasQueues (s.modPacket q seq fun p => { p with started := true }).queues (packetStarted q seq p s) :=
  hasQueues_blBefore rfl

section Present

variable (hp : s.packet q seq = some p)
include hp

theorem not_started_of_mayStart {waits : Bool} (h : mayStart s q seq waits = true) : p.started = false := by
  simp only [mayStart, hp, Bool.and_eq_true, Bool.not_eq_true'] at h
  exact h.1.1

theorem mayStart_of_started (h : p.started = true) (waits : Bool) : mayStart s q seq waits = false :=
  Bool.eq_false_iff.2 fun hm => Bool.noConfusion (h.symm.trans (not_started_of_mayStart hp hm))

theorem mayStart_last (h : mayStart s q seq true = true) :
    mayStart s q seq false = true ∧ (s.queue q).packets.takeWhile (fun x => decide (x.seq ≠ seq)) = [] := by
  simp only [mayStart, hp, Bool.and_eq_true, Bool.or_eq_true, Bool.not_eq_true', Bool.true_or, Bool.not_true, Bool.false_eq_true, false_or,
    List.isEmpty_iff] at h ⊢
  obtain ⟨hearlier, hempty⟩ := h
  exact ⟨⟨hearlier, .inr hempty⟩, hempty⟩

theorem startPacket_if {ty : Nat} {waits : Bool} {f : Packet → State → State} (hty : p.ty = ty) :
    startPacket q seq ty waits f s = .next (if mayStart s q seq waits = true then f p (packetStarted q seq p s) else s) := by
  split
  next h => exact startPacket_starts hp hty h
  next h => exact startPacket_early hp (Bool.eq_false_iff.2 h)

/-- A packet that starts only while the dispatcher has room. -/
theorem startPacket_roomed {ty : Nat} {f : Packet → State → State} (room : Prop) [Decidable room] (hty : p.ty = ty) :
    (if room then startPacket q seq ty false f s else .next s) =
      .next (if mayStart s q seq false = true ∧ room then f p (packetStarted q seq p s) else s) := by
  by_cases hroom : room
  · simp only [hroom, if_true, startPacket_if hp hty, and_true]
  · rw [if_neg hroom, if_neg fun h => hroom h.2]

theorem packet_modPacket {f : Packet → Packet} (hf : ∀ x, (f x).seq = x.seq) : (s.modPacket q seq f).packet q seq = some (f p) := by
  have hkeep : ∀ x : Packet, ((if x.seq = seq then f x else x).seq = seq) = (x.seq = seq) := by
    intro x
    split
    · rw [hf]
    · rfl
  rw [State.packet, State.modPacket, queue_modQueue_same]
  simp only [List.find?_map, Function.comp_def, hkeep]
  rw [show (s.queue q).packets.find? (fun x => decide (x.seq = seq)) = some p from hp]
  exact congrArg some (if_pos (packet_seq hp))

theorem packet_packetStarted : (packetStarted q seq p s).packet q seq = some { p with started := true } := by
  rw [State.packet, queue_of_hasQueues (hasQueues_packetStarted q seq p s)]
  exact packet_modPacket hp fun _ => rfl

end Present

/-! ### LAUNCH and BUNDLE (R313, R318, R350) -/

section Launching

variable (hp : s.packet q seq = some p) (hty : p.ty = 1)
include hp

theorem exec_launchPacket_waits
    (h : mayStart s q seq false = false ∨ ¬ hostWaiting s (s.queue q).part < 1024 ∨ pairReady s q p = false) :
    exec (.launchPacket q seq) s = .next s := by
  change execLaunchPacket q seq s = .next s
  rw [execLaunchPacket, hp, Option.any_some]
  split
  next hgo =>
    obtain ⟨hready, hroom⟩ := Bool.and_eq_true_iff.1 hgo
    rcases h with h | h | h
    · exact startPacket_early hp h
    · exact absurd (of_decide_eq_true hroom) h
    · exact Bool.noConfusion (hready.symm.trans h)
  · rfl

include hty

theorem exec_launchPacket_starts (h : mayStart s q seq false = true) (hroom : hostWaiting s (s.queue q).part < 1024)
    (hready : pairReady s q p = true) : exec (.launchPacket q seq) s = .next (startLaunch q p (packetStarted q seq p s)) := by
  change execLaunchPacket q seq s = _
  rw [execLaunchPacket, hp, Option.any_some, hready, decide_eq_true hroom]
  exact startPacket_starts hp hty h

end Launching

theorem startLaunch_unread (hpair : p.pair = none) (h : recordAt q (numAt p.bytes 16 8) s = none) :
    startLaunch q p s = failPacket q p.seq (numAt p.bytes 16 8 % 2 ^ 32) s := by
  simp only [startLaunch, hpair, h]

theorem startLaunch_alone {u : State} {b : List Byte} (hpair : p.pair = none) (h : recordAt q (numAt p.bytes 16 8) s = some (u, b)) :
    startLaunch q p s = startRecord q p b p.splice u := by
  simp only [startLaunch, hpair, h]

theorem startLaunch_spliced {g : Grid} {n : Packet} (hpair : p.pair = some g) (h : nextPacket s q p.seq = some n) :
    startLaunch q p s = startSpliced q p n g s := by
  simp only [startLaunch, hpair, h]

theorem exec_bundle (hp : s.packet q seq = some p) (hty : p.ty = 2) : exec (.bundle q seq) s = .next
    (if mayStart s q seq false = true ∧ hostWaiting s (s.queue q).part < 1024 then startBundle q p (packetStarted q seq p s) else s) :=
  startPacket_roomed hp _ hty

theorem exec_draw (hp : s.packet q seq = some p) (hty : p.ty = 3) : exec (.draw q seq) s = .next
    (if mayStart s q seq false = true ∧ hostWaiting s (s.queue q).part < 1024 then startDraw q p (packetStarted q seq p s) else s) :=
  startPacket_roomed hp _ hty

/-! ### Signals (R313, R327) -/

theorem signalMeets_iff (cmp old want : Nat) : signalMeets cmp old want = true ↔
    (cmp = 0 ∧ want ≤ old) ∨ (cmp = 1 ∧ old = want) ∨ (cmp ≠ 0 ∧ cmp ≠ 1 ∧ old ≠ want) := by
  unfold signalMeets
  split_ifs with h0 h1 <;> simp [h0] <;> simp [h1]

theorem startSignal_unread (h : packetRead q (numAt p.bytes 16 8) 8 (hostRelease s) = none) :
    startSignal q p s = failPacket q p.seq (numAt p.bytes 16 8 % 2 ^ 32) (hostRelease s) := by
  simp only [startSignal, h]

theorem startSignal_writes {u v : State} {old : List Byte} (h : packetRead q (numAt p.bytes 16 8) 8 (hostRelease s) = some (u, old))
    (hw : packetWrite q (numAt p.bytes 16 8) (bytesOfNat 8 (if numAt p.bytes 32 1 = 1 then (natOfBytes old + numAt p.bytes 24 8) % 2 ^ 64
      else numAt p.bytes 24 8)) u = some v) : startSignal q p s = donePacket q p.seq 0x0100 0 v := by
  simp only [startSignal, h, hw]

theorem waitingSig_eq (hp : s.packet q seq = some p) (hty : p.ty = 6) : waitingSig s q seq = if p.started = true then some p else none := by
  rw [waitingSig, hp, Option.filter_some, hty]
  rfl

theorem exec_waitsigPoll (hp : s.packet q seq = some p) (hty : p.ty = 6) :
    exec (.waitsigPoll q seq) s = .next (if p.started = true then pollSignal q p s else s) := by
  change execWaitsigPoll q seq s = _
  rw [execWaitsigPoll, waitingSig_eq hp hty]
  cases p.started <;> rfl

theorem exec_waitsigTimeout (hp : s.packet q seq = some p) (hty : p.ty = 6) : exec (.waitsigTimeout q seq) s = .next
    (if p.started = true ∧ ∃ t, p.deadline = some t ∧ t ≤ s.time then donePacket q seq 0x010C 0 s else s) := by
  have hany : (p.deadline.any fun t => decide (t ≤ s.time)) = true ↔ ∃ t, p.deadline = some t ∧ t ≤ s.time := by
    simp only [Option.any_eq_true, decide_eq_true_eq]
  change execWaitsigTimeout q seq s = _
  rw [execWaitsigTimeout, waitingSig_eq hp hty]
  cases p.started
  · simp only [Bool.false_eq_true, if_false, false_and]
  · simp only [if_true, true_and, hany]

/-! ### QBARRIER (R313) -/

theorem barrierOver_iff (s : State) (p : Packet) : barrierOver s p = true ↔
    ∀ i, i < numAt p.bytes 16 1 → ∀ x ∈ (s.queue (numAt p.bytes (18 + 2 * i) 2)).packets, p.order ≤ x.order := by
  simp only [barrierOver, barrierQueues, List.all_eq_true, List.mem_map, List.mem_range, forall_exists_index, and_imp,
    forall_apply_eq_imp_iff₂, decide_eq_true_eq]

theorem queue_modQueue_other (s : State) {q k : Nat} (f : HostQueue → HostQueue) (h : k ≠ q) : (s.modQueue q f).queue k = s.queue k := by
  rw [State.queue, State.modQueue, kgetD, kget_kput_other _ _ _ _ h]
  rfl

theorem packets_packetStarted (q seq : Nat) (p : Packet) (s : State) (k : Nat) : ∃ f : Packet → Packet, (∀ x, (f x).order = x.order) ∧
    ((packetStarted q seq p s).queue k).packets = (s.queue k).packets.map f := by
  rw [queue_of_hasQueues (hasQueues_packetStarted q seq p s)]
  by_cases hk : k = q
  · subst hk
    rw [State.modPacket, queue_modQueue_same]
    exact ⟨_, fun x => by split <;> rfl, rfl⟩
  · refine ⟨id, fun _ => rfl, ?_⟩
    rw [List.map_id, State.modPacket, queue_modQueue_other s _ hk]

theorem barrierOver_packetStarted (q seq : Nat) (p x : Packet) (s : State) : barrierOver (packetStarted q seq p s) x = barrierOver s x := by
  unfold barrierOver
  refine congrArg (List.all (barrierQueues x)) (funext fun k => ?_)
  obtain ⟨f, hf, hk⟩ := packets_packetStarted q seq p s k
  simp only [hk, List.all_map, Function.comp_def, hf]

section Barrier

variable (hp : s.packet q seq = some p) (hty : p.ty = 9)
include hp hty

theorem exec_qbarrier_early (h : mayStart s q seq true = false) : exec (.qbarrier q seq) s =
    .next (if p.started = true ∧ barrierOver s p = true then donePacket q seq 0x0100 0 s else s) := by
  change execQbarrier q seq s = _
  simp only [execQbarrier, hp, hty, if_true, h, Bool.false_eq_true, if_false, Option.any_some, Bool.and_eq_true]

theorem exec_qbarrier_starts (h : mayStart s q seq true = true) : exec (.qbarrier q seq) s =
    .next (if barrierOver s p = true then donePacket q seq 0x0100 0 (packetStarted q seq p s) else packetStarted q seq p s) := by
  change execQbarrier q seq s = _
  have hu := packet_packetStarted hp
  have hb := barrierOver_packetStarted q seq p p s
  rw [packetStarted] at hu hb
  simp only [execQbarrier, hp, hty, if_true, h, hu, hb, Option.any_some, Bool.true_and]
  rfl

end Barrier

end Starting

/-! ### The statement -/

theorem packetFetch_turn (s : State) (q : Nat) (h : nextQueue s (s.queue q).part = some q) :
    exec (.packetFetch q) s = .next (fetchPacket q s) := by
  change execPacketFetch q s = _
  rw [execPacketFetch, h, decide_eq_true rfl]
  rfl

theorem packetFetch_notTurn (s : State) (q : Nat) (h : nextQueue s (s.queue q).part ≠ some q) : exec (.packetFetch q) s = .next s := by
  change execPacketFetch q s = _
  rw [execPacketFetch, decide_eq_false h]
  rfl

/-- Settles O47: a fetch by its four outcomes, a packet by its type and by whether it may start. -/
theorem hostPacketEvents : Obligations.HostPacketEvents := by
  unfold Obligations.HostPacketEvents
  refine ⟨⟨packetFetch_notTurn, ?turn, fun q b s => checkPacket_unknown, fun q b s => checkPacket_unprivileged⟩, ?packets⟩
  case turn =>
    intro s q h x s1
    refine ⟨_, packetFetch_turn s q h, fetchPacket_head q s, ?promised, ?unread, ?bad, ?ok⟩
    case promised =>
      intro n hm
      rw [fetchPacket_promised hm]
    case unread =>
      intro hm hb
      rw [fetchPacket_unread hm hb]
      exact ⟨rfl, rfl, rfl⟩
    case bad =>
      intro b u reason count hm hb hc
      rw [fetchPacket_bad hm hb hc]
      exact ⟨rfl, rfl, rfl⟩
    case ok =>
      intro b u bl hm hb hc hseq
      obtain ⟨code, plan, hjoins⟩ := fetchPacket_joins hm hb hc hseq
      exact ⟨_, hjoins, rfl, rfl, rfl, rfl, rfl, rfl, rfl, rfl, rfl⟩
  case packets =>
    intro s q seq p hp
    obtain rfl := packet_seq hp
    intro started num addr may last room fails done
    refine ⟨not_started_of_mayStart hp, mayStart_last hp, ?launch, exec_bundle hp, exec_draw hp, ?sched, ?signal, ?waitsig, ?timestamp, ?event,
      ?barrier⟩
    case launch =>
      intro hty
      refine ⟨exec_launchPacket_waits hp, fun h hroom hready => ?_⟩
      have hstarts := exec_launchPacket_starts hp hty h hroom hready
      exact ⟨fun hpair hr => hstarts.trans (congrArg _ (startLaunch_unread hpair hr)),
        fun u b hpair hr => hstarts.trans (congrArg _ (startLaunch_alone hpair hr)),
        fun g n hpair hn => hstarts.trans (congrArg _ (startLaunch_spliced hpair hn))⟩
    case sched => exact startPacket_if hp
    case signal =>
      intro hty
      refine ⟨startPacket_early hp, fun h => ?_⟩
      intro u
      have hstarts : exec (.signalPacket q p.seq) s = .next (startSignal q p (packetStarted q p.seq p s)) := startPacket_starts hp hty h
      exact ⟨fun hr => hstarts.trans (congrArg _ (startSignal_unread hr)),
        fun u' old u'' hr hw => hstarts.trans (congrArg _ (startSignal_writes hr hw))⟩
    case waitsig =>
      intro hty poll
      have hpoll : ∀ t, pollSignal q p t = poll t := by
        intro t
        unfold pollSignal poll addr num
        dsimp only
        cases packetRead q (numAt p.bytes 16 8) 8 t with
        | none => rfl
        | some r => exact if_congr (signalMeets_iff ..) rfl rfl
      refine ⟨(startPacket_if hp hty).trans ?_, (exec_waitsigPoll hp hty).trans ?_, exec_waitsigTimeout hp hty⟩
      · rw [startWaitsig, hpoll]
        rfl
      · rw [hpoll]
    case timestamp =>
      intro hty
      change execTimestamp q p.seq s = _
      rw [execTimestamp, startPacket_if hp hty]
      rfl
    case event =>
      intro hty
      change execEventPacket q p.seq s = _
      rw [execEventPacket, startPacket_if hp hty]
      rfl
    case barrier =>
      intro hty finished
      have hover : barrierOver s p = true ↔ finished := barrierOver_iff s p
      refine ⟨fun h hst => ?_, fun h => ?_, fun hst => ?_⟩
      · rw [exec_qbarrier_early hp hty h, hst, if_neg fun h => Bool.false_ne_true h.1]
      · rw [exec_qbarrier_starts hp hty h]
        exact ⟨fun hf => congrArg _ (if_pos (hover.2 hf)), fun hf => congrArg _ (if_neg fun ho => hf (hover.1 ho))⟩
      · rw [exec_qbarrier_early hp hty (mayStart_of_started hp hst true)]
        exact ⟨fun hf => congrArg _ (if_pos ⟨hst, hover.2 hf⟩), fun hf => congrArg _ (if_neg fun ho => hf (hover.1 ho.2))⟩

end Sys2Proof.Proofs
end
